-- ==== Sys2Proof/Word.lean ====
section
/-! DEFINITION. The words of the model: bytes, 32-bit and 64-bit words, and their plainest arithmetic. -/

namespace Sys2Proof

/-- A byte of memory, of a tile row or of a command. -/
abbrev Byte := BitVec 8

/-- A 64-bit word: a register's contents (32-bit registers keep bits 63:32 zero), a CC register. -/
abbrev Word := BitVec 64

/-- The value of bytes, least significant first (R3). -/
def leNat : List Byte → Nat
  | [] => 0
  | b :: bs => b.toNat + 256 * leNat bs

/-- The `n` low bytes of a value, least significant first (R3). -/
def leBytes : Nat → Nat → List Byte
  | 0, _ => []
  | n + 1, v => BitVec.ofNat 8 v :: leBytes n (v / 256)

/-- Bits `hi:lo` of a number. -/
def bitsOf (v hi lo : Nat) : Nat := v / 2 ^ lo % 2 ^ (hi + 1 - lo)

/-- Bit `i` of a number. -/
def bitOf (v i : Nat) : Bool := v / 2 ^ i % 2 == 1

/-- A number of `w` bits read as two's complement. -/
def sext (w v : Nat) : Int := if v % 2 ^ w < 2 ^ (w - 1) then Int.ofNat (v % 2 ^ w) else Int.ofNat (v % 2 ^ w) - 2 ^ w

/-- An integer as `w` bits of two's complement. -/
def wrapInt (w : Nat) (i : Int) : Nat := (i % (2 ^ w : Int)).toNat

/-- A Boolean as the number 0 or 1. -/
def b2n (b : Bool) : Nat := if b then 1 else 0

end Sys2Proof
end

