-- ==== Sys2Proof/Syntax.lean ====
section
/-! DEFINITION. The commands of the Voldal T9 block: ONE inductive `Instr`, one constructor per row of
spec/opcode_table.json, with the operands the row's rule gives it. Numbers that name a unit (a core, a cluster,
a link, a bank) and plain values are `Nat`; facts that only the world outside the model knows (a measurement, the
contents of a message, a hardware fault) are operands too. -/

namespace Sys2Proof

/-- The masters of the register space (R752): hub controller, host through BAR0/BAR2, the debug port, a core's CC,
and the management port (R605). -/
inductive Master where
  | hub | host | debug | mgmt
  | cc (core : Nat)
  deriving DecidableEq, Repr

/-- The width of an access to the register space (R4): 8, 16, 32 or 64 bits. -/
inductive AccW where
  | w8 | w16 | w32 | w64
  deriving DecidableEq, Repr

/-- The engines of a core in the order of R142: 0 ME, 1 VE, 2 DM, 3 SU. -/
inductive Eng where
  | me | ve | dm | su
  deriving DecidableEq, Repr

/-- Which part of a 64-bit register a read takes (R4, R5, R500). -/
inductive Half where
  | full | low | high
  deriving DecidableEq, Repr

/-- What an SRAM or HBM read finds: no error, a corrected error, an uncorrectable one (R99, R215, R273). -/
inductive MemHw where
  | ok | corr | unc
  deriving DecidableEq, Repr

/-- A unit of the block by its number (a core, an MSU), and what the hardware finds in what a command reads there. -/
structure UnitRead where
  unit : Nat
  hw : MemHw
  deriving DecidableEq, Repr

/-- What the reads of a data-mover command inside its core find: no error, or a corrected or an uncorrectable one in an
iteration (R99, R215, R237). -/
inductive DmHw where
  | ok
  | corr (iter : Nat)
  | unc (iter : Nat)
  deriving DecidableEq, Repr

/-- Hardware faults at one control-core instruction: the duplicated adders disagree (R139); a code-memory fetch or
template read is corrected or uncorrectable (R136); a load's read of the core's own window is (R215). -/
inductive CcHw where
  | ok | addrMismatch | codeCorr | codeUnc | dataCorr | dataUnc
  deriving DecidableEq, Repr

/-- The operand of an ME command that a read belongs to (R55, R131): the stationary block, the activation tile, or the ACB row of an
accumulate. -/
inductive MeSrc where
  | stationary | activation | acb
  deriving DecidableEq, Repr

/-- Hardware faults inside one ME command: a read of an operand is corrected or uncorrectable (R55, R99, R215), the check column
disagrees at a result row (R40, with DIFF_EXP of R67), the duplicated ACB adders disagree (R41). `iter` is the linear iteration
index, `i` and `j` the activation and stationary slices of a sliced pass (1 and 1 otherwise, R50), `row` the activation row of the
tile. -/
inductive MeHw where
  | ok
  | corr (iter i j row : Nat) (src : MeSrc)
  | checkFail (iter i j row diffExp : Nat)
  | accMismatch (iter i j row : Nat)
  | ecc (iter i j row : Nat) (src : MeSrc)
  deriving DecidableEq, Repr

/-- Hardware faults inside one VE command (R186, R215): a residue or exponent check fails in the iteration named, or the read of
the word at a core-window offset is corrected or uncorrectable in it. -/
inductive VeHw where
  | ok
  | corr (iter off : Nat)
  | check (iter : Nat)
  | ecc (iter off : Nat)
  deriving DecidableEq, Repr

/-- Errors found when a selector or the linker touches the vat: none, corrected, an uncorrectable cell, an
uncorrectable link (R159). -/
inductive VatHw where
  | ok | corr | cell | link
  deriving DecidableEq, Repr

/-- Where a packet can be delivered or wait: a cluster router's LOCAL port, a memory port, a bridge port of a die
(R312), or the hub. -/
inductive Place where
  | node (die node : Nat)
  | hub
  deriving DecidableEq, Repr

/-- A place, and what the hardware finds in what a command reads there. -/
structure PlaceRead where
  at_ : Place
  hw : MemHw
  deriving DecidableEq, Repr

/-- What the hardware finds in an optimizer step: in its reads (R273) and in its check (R279). -/
structure OptHw where
  hw : MemHw
  checkFail : Bool
  deriving DecidableEq, Repr

/-- The save of a task's state: its slot, and what the save finds in TRF row `row` (16 × tile + row) of `core` (R99, R378). -/
structure TaskSave where
  slot : Nat
  core : Nat
  row : Nat
  hw : MemHw
  deriving DecidableEq, Repr

/-- A requester of the data mesh: a core's data mover or the hub (R267). -/
inductive Requester where
  | core (c : Nat)
  | hub
  deriving DecidableEq, Repr

/-- Reasons a cluster router is faulty (R329, R347). -/
inductive RouterFaultKind where
  | ecc | routeMismatch | bridgeLane
  deriving DecidableEq, Repr

/-- A node of the sync network's tree (R332): cluster node, row node, die root, module root. -/
inductive SyncNode where
  | cluster (die cl : Nat)
  | row (die r : Nat)
  | die (d : Nat)
  | module
  deriving DecidableEq, Repr

/-- A DATA or IDLE flit's header (R397) as it arrives; `crcOk` false when its CRC fails or it overlaps an
uncorrectable codeword (R398). `body` holds the FILL valid body bytes; `corr` symbols were corrected (R433). -/
structure FlitIn where
  crcOk : Bool
  ucw : Bool
  ftype : Nat
  vc : Nat
  seq : Nat
  ack : Nat
  nak : Bool
  firstPtr : Nat
  credVc : Nat
  credN : Nat
  body : List (BitVec 8)
  corr : Nat := 0
  deriving DecidableEq, Repr

/-- An ANNOUNCE message's contents (R485). -/
structure AnnounceMsg where
  valid : Bool
  leap61 : Bool
  leap59 : Bool
  qual : Nat
  prio : Nat
  steps : Nat
  gmId : Nat
  utcOffset : Nat
  deriving DecidableEq, Repr

/-- A PTP message on the management port (R497), reduced to what the module takes from it: the offset it yields as a
follower (2^-8 ns, when it is a Sync exchange), or a delay request to be answered as a master. -/
inductive PtpMsg where
  | sync (offset : Int) (delay : Int)
  | delayReq
  | announce (clockClass : Nat)
  | other
  deriving DecidableEq, Repr

/-- What one March C- pass over a bank finds with one background (R224): a read that mismatches, one that meets an uncorrectable error, and
the errors corrected. -/
structure MarchRun where
  mismatch : Bool
  uncorrectable : Bool
  corrected : Nat
  deriving DecidableEq, Repr

/-- What the tests of one bank find: a pass for each of the four backgrounds (R224). -/
structure BankTest where
  core : Nat
  bank : Nat
  runs : List MarchRun
  deriving DecidableEq, Repr

/-- What the tests of phase DIES find (R36, R224, R319, R566): failed ME row positions (core, array, row, more than one
or a column), what the passes over banks find (banks not named pass), faulty routers (die, cluster), and dies that fail whole or exceed the bound. -/
structure DiesResult where
  meRows : List (Nat × Bool × Nat)
  meBad : List Nat
  banks : List BankTest
  routers : List (Nat × Nat)
  dieFail : List Nat
  deriving DecidableEq, Repr

/-- One NV register record (R562, R563): REGS entry. -/
structure RegsRec where
  block : Nat
  inst : Nat
  off : Nat
  mask : Nat
  value : Nat
  deriving DecidableEq, Repr

/-- A CORES record of a program image (R509): logical index, core ID, banks used, quota, its code within CODE, entry PC, the
own-window address of the allocation table, and its run of schedule entries. -/
structure ImgCore where
  logical : Nat
  core : Nat
  banks : Nat
  quota : Nat
  codeOff : Nat
  codeLen : Nat
  entry : Nat
  table : Nat
  schedOff : Nat
  schedN : Nat
  deriving DecidableEq, Repr

/-- A schedule entry (R510). -/
structure ImgSched where
  push : Nat
  logical : Nat
  cmd : Nat
  release : Nat
  deriving DecidableEq, Repr

/-- A relocation (R509): of CODE or of CMDS, the byte offset of the address field, the allocation. -/
structure ImgReloc where
  inCode : Bool
  off : Nat
  alloc : Nat
  deriving DecidableEq, Repr

/-- An allocation (R509, R265): ID, hint, die and its valid bit, size, alignment, and for HOT the logical core and its own-window
offset. -/
structure ImgAlloc where
  id : Nat
  hint : Nat
  die : Nat
  dieValid : Bool
  size : Nat
  align : Nat
  logical : Nat
  off : Nat
  deriving DecidableEq, Repr

/-- A barrier group (R509). -/
structure ImgGroup where
  group : Nat
  members : List Nat
  deriving DecidableEq, Repr

/-- A multicast group (R509): a hub group or a die's group, its number, and the words to write: MESH_MC words by cluster, or the
one EVL_MC word. -/
structure ImgMcast where
  hub : Bool
  die : Nat
  group : Nat
  words : List (Nat × Nat)
  deriving DecidableEq, Repr

/-- A reduction channel (R509, R476): its number, the MSU_RCH_CFG word, target blocks, the allocations of target and staging, the
check rows' offset and the initial step. -/
structure ImgChan where
  chan : Nat
  cfg : Nat
  nblk : Nat
  target : Nat
  staging : Option Nat
  chkbase : Nat
  step : Nat
  deriving DecidableEq, Repr

/-- Initial contents of an allocation (R509). -/
structure ImgInit where
  alloc : Nat
  off : Nat
  bytes : List Byte
  deriving DecidableEq, Repr

/-- A program image as its bytes decode (R508 to R510). R509 lists what each record holds and gives no byte places inside most of
them, so the decoded records are the operand. `hdrOk`, `layoutOk` and `digestOk` say whether the header's reserved fields, the rules
of R509 and DIGEST hold; `sig` is the hash of MODULUS and whether SIGNATURE verifies (R511); `sects` lists the section table's
TYPEs in order. -/
structure Image where
  magic : Nat
  version : Nat
  nsect : Nat
  len : Nat
  flags : Nat
  progId : Nat
  digest : Nat
  hdrOk : Bool
  layoutOk : Bool
  digestOk : Bool
  sig : Option (Nat × Bool)
  sects : List Nat
  grade : Nat
  mapExact : Bool
  fenced : List Nat
  cores : List ImgCore
  code : List Byte
  cmds : List (BitVec 512)
  sched : List ImgSched
  relocs : List ImgReloc
  allocs : List ImgAlloc
  groups : List ImgGroup
  mcast : List ImgMcast
  chans : List ImgChan
  inits : List ImgInit
  deriving DecidableEq, Repr

/-- A violation of the verifier, as a report carries it (R516): status, section, logical core, record, CMD_ID, iteration, detail,
model ACLK. -/
structure Viol where
  status : Nat
  sect : Nat
  logical : Nat
  record : Nat
  cmdId : Nat
  iter : Nat
  detail : Nat
  aclk : Nat
  deriving DecidableEq, Repr

/-- What one run of the loader works on: the image, its bytes when they come from the host window, and the base the loader picks
for each allocation (R265 leaves the place in HBM to it), and the two checkpoint records it reads for a failed module's task. -/
structure LoaderOutcome where
  img : Image
  bytes : List Byte
  bases : List Nat
  recs : List (List Byte)
  deriving DecidableEq, Repr

/-- A debug or test token (R612, R723): the serial, challenge and expiry it carries, its permissions, and whether its signature
verifies under a key the rule allows. -/
structure Token where
  sigOk : Bool
  serial : Nat
  challenge : Nat
  expiry : Nat
  perms : Nat
  deriving DecidableEq, Repr

/-- What phase SELFTEST finds (R566, R696): the tests of the module's parts, and each channel's comparators and outputs. -/
structure SelfTest where
  ok : Bool
  aOk : Bool
  bOk : Bool
  deriving DecidableEq, Repr

/-- A hub firmware copy (R560): whether the MAGIC, digest and signature hold, the hash of its modulus, its security version,
RAISE_SVN, and its digest. -/
structure FwImage where
  magicOk : Bool
  digestOk : Bool
  keyHash : Nat
  sigOk : Bool
  svn : Nat
  raiseSvn : Bool
  digest : Nat
  deriving DecidableEq, Repr

/-- A configuration image copy as its bytes decode (R561, R562). -/
structure CfgImage where
  magicOk : Bool
  layoutOk : Bool
  digestOk : Bool
  keyHash : Nat
  sigOk : Bool
  seq : Nat
  serial : Nat
  fabricId : Nat
  fabricGen : Nat
  digest : Nat
  regs : List RegsRec
  routes : List Nat
  expect : List (Nat × Nat)
  spareCl : List (Nat × Nat)
  spareMod : Option Nat
  serves : Bool
  requireSigned : Bool
  keys : List Nat
  resident : Option (Image × List Byte)
  deriving DecidableEq, Repr

/-- A HELLO message (R572, R573). -/
structure HelloMsg where
  modId : Nat
  link : Nat
  fabricId : Nat
  fabricGen : Nat
  serial : Nat
  deriving DecidableEq, Repr

/-- A REGISTER message (R573, R574). -/
structure RegisterMsg where
  fromMod : Nat
  slot : Nat
  hbPeriod : Nat
  hbMiss : Nat
  desc : List Byte
  nbrs : List Nat
  deriving DecidableEq, Repr

/-- A TAKEOVER message (R573, R575). -/
structure TakeoverMsg where
  fromMod : Nat
  slot : Nat
  cause : Nat
  desc : List Byte
  deriving DecidableEq, Repr

/-- The capability word a link partner sends in EXCHANGE (R393, R394, R404): whether its CRC-32 is good, its module ID and
link number, whether it offers EVL3, and its receive buffer sizes per VC. -/
structure CapWord where
  ok : Bool
  partner : Nat
  link : Nat
  evl3 : Bool
  bufs : List Nat
  deriving DecidableEq, Repr

/-- One end of a mailbox (R597). -/
inductive MbxEnd where
  | hostEnd (m : Nat)
  | hubEnd (m : Nat)
  | coreEnd (c : Nat)
  | coreHubEnd (c : Nat)
  | inbox (c : Nat)
  deriving DecidableEq, Repr


/-- The commands: one constructor per row of the table, in the table's order. -/
inductive Instr where
  /-- REGISTER_WRITE (R6). -/
  | registerWrite (m : Master) (off : Nat) (w : AccW) (v : Word)
  /-- LOW_HALF_LATCH_READ (R5). -/
  | lowHalfLatchRead (m : Master) (off : Nat) (w : AccW)
  /-- TIME_NOW_READ (R500). -/
  | timeNowRead (m : Master) (part : Half)
  /-- TIME_FRAC_READ (R500). -/
  | timeFracRead (m : Master)
  /-- CC_INSTRUCTION (R134). -/
  | ccInstruction (core : Nat) (hw : CcHw)
  /-- CC_INTERRUPT (R138). -/
  | ccInterrupt (core : Nat)
  /-- CMD_LDT (R140). -/
  | cmdLdt (core : Nat) (hw : CcHw)
  /-- CMD_WR (R140). -/
  | cmdWr (core : Nat) (hw : CcHw)
  /-- CMD_PUSH (R140). -/
  | cmdPush (core : Nat) (hw : CcHw)
  /-- CMD_CPL (R140). -/
  | cmdCpl (core : Nat) (hw : CcHw)
  /-- CMD_QST (R140). -/
  | cmdQst (core : Nat) (hw : CcHw)
  /-- VAT_PUSH_SERVE (R148). -/
  | vatPushServe (cl : Nat)
  /-- CMD_LINK (R148). -/
  | cmdLink (cl : Nat) (hw : VatHw)
  /-- VAT_FREE_LIST_REBUILD (R159). -/
  | vatFreeListRebuild (cl : Nat)
  /-- HEAD_SELECT (R152). -/
  | headSelect (core : Nat) (e : Eng) (hw : VatHw)
  /-- IDLE (R154). -/
  | idle (core : Nat) (e : Eng)
  /-- WAIT (R155). -/
  | wait (core : Nat) (e : Eng)
  /-- WAIT_RELEASE (R155). -/
  | waitRelease (core : Nat) (e : Eng)
  /-- WAIT_TIMEOUT (R157). -/
  | waitTimeout (core : Nat) (e : Eng)
  /-- CORE_TASK_ABORT (R158). -/
  | coreTaskAbort (core : Nat) (cause : Nat)
  /-- ME_SWEEP (R45). -/
  | meSweep (core : Nat) (hw : MeHw)
  /-- ME_LOAD (R44). -/
  | meLoad (core : Nat) (hw : MeHw)
  /-- ME_MM (R44). -/
  | meMm (core : Nat) (hw : MeHw)
  /-- DM_TLOAD (R116). -/
  | dmTload (core : Nat) (hw : DmHw)
  /-- TLOAD_WRITE_PHASE (R116). -/
  | tloadWritePhase (core : Nat)
  /-- WRITE_BUFFER_DRAIN (R103). -/
  | writeBufferDrain (core : Nat) (bank : Nat)
  /-- DM_TSTORE (R118). -/
  | dmTstore (core : Nat) (hw : DmHw)
  /-- VE_CVT (R181). -/
  | veCvt (core : Nat) (hw : VeHw)
  /-- VE_ADD (R181). -/
  | veAdd (core : Nat) (hw : VeHw)
  /-- VE_MUL (R181). -/
  | veMul (core : Nat) (hw : VeHw)
  /-- VE_AXPY (R181). -/
  | veAxpy (core : Nat) (hw : VeHw)
  /-- VE_MAX (R181). -/
  | veMax (core : Nat) (hw : VeHw)
  /-- VE_AFFINE (R181). -/
  | veAffine (core : Nat) (hw : VeHw)
  /-- VE_FN (R184). -/
  | veFn (core : Nat) (hw : VeHw)
  /-- VE_RSUM (R185). -/
  | veRsum (core : Nat) (hw : VeHw)
  /-- VE_RMAX (R181). -/
  | veRmax (core : Nat) (hw : VeHw)
  /-- VE_RDOT (R181). -/
  | veRdot (core : Nat) (hw : VeHw)
  /-- VE_NORM (R196). -/
  | veNorm (core : Nat) (hw : VeHw)
  /-- VE_SMAX (R775). -/
  | veSmax (core : Nat) (hw : VeHw)
  /-- VE_DROP (R197). -/
  | veDrop (core : Nat) (hw : VeHw)
  /-- VE_ACTB (R181). -/
  | veActb (core : Nat) (hw : VeHw)
  /-- VE_NORMB (R198). -/
  | veNormb (core : Nat) (hw : VeHw)
  /-- VE_SMAXB (R199). -/
  | veSmaxb (core : Nat) (hw : VeHw)
  /-- VE_UNSCALE (R194). -/
  | veUnscale (core : Nat) (hw : VeHw)
  /-- VE_SLICE (R182). -/
  | veSlice (core : Nat) (hw : VeHw)
  /-- VE_UNSLICE (R182). -/
  | veUnslice (core : Nat) (hw : VeHw)
  /-- VE_PHASE (R193). -/
  | vePhase (core : Nat)
  /-- VE_PHASE_COMPLETE (R193). -/
  | vePhaseComplete (core : Nat)
  /-- VE_PHASE_TIMEOUT (R193). -/
  | vePhaseTimeout (core : Nat)
  /-- VE_TIE_ARM (R203). -/
  | veTieArm (m : Master) (core : Nat) (slot : Nat) (v : Word)
  /-- DM_TURN (R200). -/
  | dmTurn (core : Nat) (hw : DmHw)
  /-- SPD_PWR_REQ (R222). -/
  | spdPwrReq (m : Master) (core : Nat) (v : Word)
  /-- BANK_TRANSITION_END (R221). -/
  | bankTransitionEnd (core : Nat) (bank : Nat)
  /-- BANK_SERVE (R218). -/
  | bankServe (core : Nat) (bank : Nat) (hw : MemHw)
  /-- BANK_WRITE (R227). -/
  | bankWrite (core : Nat) (bank : Nat)
  /-- ADD (R227). -/
  | bankAdd (core : Nat) (bank : Nat)
  /-- MAX (R227). -/
  | bankMax (core : Nat) (bank : Nat)
  /-- AXPY (R227). -/
  | bankAxpy (core : Nat) (bank : Nat)
  /-- INC (R227). -/
  | bankInc (core : Nat) (bank : Nat)
  /-- G8ACC (R227). -/
  | bankG8acc (core : Nat) (bank : Nat)
  /-- BANK_OP_WRITEBACK (R229). -/
  | bankOpWriteback (core : Nat) (bank : Nat) (checkFail : Bool)
  /-- DM_COPY (R234). -/
  | dmCopy (core : Nat)
  /-- DM_GATHER (R237). -/
  | dmGather (core : Nat) (hw : DmHw)
  /-- DM_SCATTER (R237). -/
  | dmScatter (core : Nat) (hw : DmHw)
  /-- DM_BANKOP (R236). -/
  | dmBankop (core : Nat)
  /-- DM_FENCE (R239). -/
  | dmFence (core : Nat)
  /-- DM_RACC (R280). -/
  | dmRacc (core : Nat)
  /-- DM_MSU (R280). -/
  | dmMsu (core : Nat)
  /-- DM_OPT (R282); `core.hw` is what the read of the descriptor finds (R215). -/
  | dmOpt (core : UnitRead)
  /-- DM_STREAM (R291). -/
  | dmStream (core : Nat)
  /-- STRM_WINDOW_ENABLE (R308). -/
  | strmWindowEnable (m : Master) (core : Nat) (win : Nat) (v : Word)
  /-- DM_ISSUE_REQUEST (R238); `core.hw` is what its reads of the own window find (R215). -/
  | dmIssueRequest (core : UnitRead)
  /-- DM_RESPONSE (R240); `core.hw` is what the reads of words it writes in part find (R215). -/
  | dmResponse (core : UnitRead)
  /-- MESH_RD (R272). -/
  | meshRd (at_ : Place) (hw : MemHw)
  /-- MESH_WR (R271); `at_.hw` is what the reads of ACB words it writes in part find (R215). -/
  | meshWr (at_ : PlaceRead)
  /-- MESH_OP (R315). -/
  | meshOp (at_ : Place)
  /-- RDATA (R315). -/
  | rdata (at_ : Place)
  /-- ACK (R323). -/
  | ack (at_ : Place)
  /-- REFUSE (R240). -/
  | refuse (at_ : Place)
  /-- BANK_FULL (R268). -/
  | bankFull (at_ : Place)
  /-- RESUME (R269). -/
  | resume (at_ : Place)
  /-- RESERVATION_LAPSE (R269). -/
  | reservationLapse (chan : Nat)
  /-- RED (R456). -/
  | red (at_ : Place)
  /-- MCW (R326). -/
  | mcw (at_ : Place)
  /-- MCACK (R326). -/
  | mcack (at_ : Place)
  /-- RESERVED_PACKET (R315). -/
  | reservedPacket (at_ : Place)
  /-- ROUTER_FORWARD (R318). -/
  | routerForward (die : Nat) (cl : Nat) (port : Nat) (vc : Nat) (corr : Bool)
  /-- MCW_FORWARD (R325). -/
  | mcwForward (die : Nat) (cl : Nat) (port : Nat)
  /-- ROUTER_FAULT (R329). -/
  | routerFault (die : Nat) (cl : Nat) (kind : RouterFaultKind) (port : Nat) (vc : Nat) (dnode : Nat)
  /-- MESH_DRAIN_COMPLETE (R330). -/
  | meshDrainComplete (die : Nat)
  /-- BRIDGE_CRC_RETRY (R321). -/
  | bridgeCrcRetry (bridge : Nat) (lane : Nat)
  /-- HBMC_PAIR_WRITE (R298). -/
  | hbmcPairWrite (stack : Nat) (q : Nat) (v : Word)
  /-- HBM_SCRUB (R274). -/
  | hbmScrub (stack : Nat) (line : Nat) (hw : MemHw)
  /-- RACC (R275); `msu.hw` is what the read of the block finds (R273). -/
  | racc (msu : UnitRead)
  /-- SCALE (R275); `msu.hw` is what the read of the block finds (R273). -/
  | scale (msu : UnitRead)
  /-- FILL (R275); `msu.hw` is what the read of a line it covers in part finds (R273). -/
  | fill (msu : UnitRead)
  /-- OPTIMIZER_STEP (R285). -/
  | optimizerStep (msu : Nat) (hw : OptHw)
  /-- MSU_OP_WRITEBACK (R277). -/
  | msuOpWriteback (msu : Nat) (checkFail : Bool)
  /-- SIGNAL_ARRIVE (R338). -/
  | signalArrive (core : Nat)
  /-- SIGNAL_RELEASE (R337). -/
  | signalRelease (core : Nat) (slot : Nat)
  /-- NODE_HELD_SIGNAL_SEND (R339). -/
  | nodeHeldSignalSend (core : Nat)
  /-- LWIN_ENABLE (R350). -/
  | lwinEnable (m : Master) (core : Nat) (win : Nat) (v : Word)
  /-- SU_SET (R358). -/
  | suSet (core : Nat)
  /-- SU_ADD (R358). -/
  | suAdd (core : Nat)
  /-- SU_SIGNAL (R361). -/
  | suSignal (core : Nat)
  /-- SU_BARRIER (R364). -/
  | suBarrier (core : Nat)
  /-- SU_CTR_WRITE (R381). -/
  | suCtrWrite (m : Master) (core : Nat) (q : Nat) (v : Word)
  /-- BARRIER_ARRIVAL (R365). -/
  | barrierArrival (node : SyncNode)
  /-- GEN_MISMATCH_REPORT (R367). -/
  | genMismatchReport (slot : Nat)
  /-- BARRIER_RELEASE (R366). -/
  | barrierRelease (core : Nat)
  /-- REALIGN_RELEASE (R375). -/
  | realignRelease (core : Nat)
  /-- BARRIER_CONFIG (R369). -/
  | barrierConfig (node : SyncNode)
  /-- LINK_SIGNAL_DETECT (R393). -/
  | linkSignalDetect (link : Nat)
  /-- DETECT_TIMEOUT (R393). -/
  | detectTimeout (link : Nat)
  /-- LANE_LOCK (R393). -/
  | laneLock (link : Nat)
  /-- TRAIN_COMPLETE (R393). -/
  | trainComplete (link : Nat)
  /-- TRAIN_TIMEOUT (R393). -/
  | trainTimeout (link : Nat)
  /-- EXCHANGE (R393). -/
  | exchange (link : Nat) (cap : CapWord)
  /-- RATE_RESULT (R394). -/
  | rateResult (link : Nat) (pass : Bool) (uncorr : Nat)
  /-- RETRAIN_COMPLETE (R395). -/
  | retrainComplete (link : Nat) (pass : Bool) (nextSeq : Nat)
  /-- LOSS_OF_SIGNAL (R396). -/
  | lossOfSignal (link : Nat)
  /-- LANE_SIGNAL_LOSS (R396). -/
  | laneSignalLoss (link : Nat) (lanes : Nat)
  /-- EVL_EN_WRITE (R396). -/
  | evlEnWrite (m : Master) (link : Nat) (v : Word)
  /-- DATA_FLIT_RECEIVE (R400). -/
  | dataFlitReceive (link : Nat) (f : FlitIn)
  /-- IDLE_FLIT_RECEIVE (R399). -/
  | idleFlitReceive (link : Nat) (f : FlitIn)
  /-- FLIT_TRANSMIT (R405). -/
  | flitTransmit (link : Nat)
  /-- ACK_TIMEOUT (R402). -/
  | ackTimeout (link : Nat)
  /-- CREDIT_STALL (R407). -/
  | creditStall (link : Nat) (vc : Nat)
  /-- LINK_PACKET_FORWARD (R412). -/
  | linkPacketForward (inLink : Nat) (vc : Nat)
  /-- HUB_TAG_TIMEOUT (R418). -/
  | hubTagTimeout (tag : Nat)
  /-- HUB_MC_FORWARD (R421). -/
  | hubMcForward (idx : Nat)
  /-- SIGNAL (R409). -/
  | linkSignal (inLink : Nat)
  /-- RCH_SEND (R452); `core.hw` is what its reads of the own window find (R215). -/
  | rchSend (core : UnitRead)
  /-- LANDED_REPORT (R460). -/
  | landedReport (msu : Nat)
  /-- RCH_SIGNAL_RELEASE (R461). -/
  | rchSignalRelease (chan : Nat)
  /-- RCH_CLOSE (R463). -/
  | rchClose (core : Nat)
  /-- RCH_CLOSE_PROCEED (R464); `core.hw` is what its first read of HBM finds (R273). -/
  | rchCloseProceed (core : UnitRead)
  /-- RCH_CLOSE_TIMEOUT (R464). -/
  | rchCloseTimeout (core : Nat)
  /-- T_REQ_SEND (R486). -/
  | tReqSend (link : Nat)
  /-- T_REQ (R486). -/
  | tReq (link : Nat) (seq : Nat) (t2 : Nat) (t3 : Nat)
  /-- T_RESP (R487). -/
  | tResp (link : Nat) (seq : Nat) (valid : Bool) (t2 : Nat) (t3 : Nat) (t4 : Nat)
  /-- ANNOUNCE_SEND (R490). -/
  | announceSend (link : Nat)
  /-- ANNOUNCE (R491). -/
  | announce (link : Nat) (a : AnnounceMsg)
  /-- ANNOUNCE_TIMEOUT (R493). -/
  | announceTimeout
  /-- HOLD_MAX_EXPIRY (R481). -/
  | holdMaxExpiry
  /-- TIME_SET (R483). -/
  | timeSet (m : Master) (v : Word)
  /-- CNT_MISMATCH (R481). -/
  | cntMismatch
  /-- FREQ_WINDOW (R479). -/
  | freqWindow (ppb : Int)
  /-- PPS_IN_EDGE (R492). -/
  | ppsInEdge (phase : Int)
  /-- INPUT_LOST (R492). -/
  | inputLost (src : Nat)
  /-- PPS_OUT_EDGE (R496). -/
  | ppsOutEdge
  /-- PTP_MESSAGE (R497). -/
  | ptpMessage (p : PtpMsg)
  /-- ETH_FRAME_DROP (R609). -/
  | ethFrameDrop
  /-- LOAD (R513). -/
  | load (m : Nat)
  /-- LOADER_RUN (R513). -/
  | loaderRun (o : LoaderOutcome)
  /-- UNLOAD (R603). -/
  | unload (m : Nat)
  /-- START (R526). -/
  | start (m : Nat) (ext : List Byte)
  /-- RESIDENT_TASK_START (R568). -/
  | residentTaskStart
  /-- CC_EXIT (R550). -/
  | ccExit (core : Nat) (v : Word)
  /-- TASK_END (R528). -/
  | taskEnd (slot : Nat)
  /-- HUB_TASK_ABORT (R529). -/
  | hubTaskAbort (slot : Nat)
  /-- TAKEOVER_DECISION (R542). -/
  | takeoverDecision (slot : Nat)
  /-- KILL (R529). -/
  | kill (m : Nat)
  /-- SWITCH_OUT (R532). -/
  | switchOut (m : Nat)
  /-- SWITCH_SYNC_DRAINED (R378). -/
  | switchSyncDrained (slot : TaskSave)
  /-- SWITCH_TIMEOUT (R532). -/
  | switchTimeout (slot : Nat)
  /-- RESTORE (R533). -/
  | restore (m : Nat)
  /-- COMMIT (R537). -/
  | commit (m : Nat)
  /-- DISCARD (R537). -/
  | discard (m : Nat)
  /-- SPEC_CFG (R534). -/
  | specCfg (m : Nat)
  /-- CC_CKPT_DONE (R539). -/
  | ccCkptDone (core : Nat) (v : Word)
  /-- CHECKPOINT_COMPLETE (R539). -/
  | checkpointComplete (slot : Nat)
  /-- ENERGY_ACCRUAL (R549). -/
  | energyAccrual (busy : List (Nat × Nat)) (clusters : List (Nat × Nat)) (other : Nat)
  /-- IDENTIFY (R603). -/
  | identify (m : Nat)
  /-- EVENT_RING (R603). -/
  | eventRing (m : Nat)
  /-- ATTEST (R611). -/
  | attest (m : Nat) (ext : List Byte)
  /-- CERT (R610). -/
  | cert (m : Nat)
  /-- UNLOCK (R612). -/
  | unlock (m : Nat) (tok : Token)
  /-- TEST_UNLOCK (R723). -/
  | testUnlock (m : Nat) (tok : Token)
  /-- TOKEN_LAPSE (R724). -/
  | tokenLapse
  /-- MBX_TX_WRITE (R598). -/
  | mbxTxWrite (m : Master) (mb : MbxEnd) (v : Word)
  /-- MBX_RX_READ (R598). -/
  | mbxRxRead (m : Master) (mb : MbxEnd)
  /-- MBX_DB_RING (R600). -/
  | mbxDbRing (m : Master) (mb : MbxEnd) (v : Word)
  /-- DOORBELL_DELIVER (R600). -/
  | doorbellDeliver
  /-- HOST_DOORBELL (R601). -/
  | hostDoorbell (core : Nat) (v : Word)
  /-- CLUSTER_INBOX_WRITE (R617). -/
  | clusterInboxWrite (core : Nat) (d : Nat) (v : Word)
  /-- CLUSTER_DOORBELL (R617). -/
  | clusterDoorbell (core : Nat) (d : Nat) (v : Word)
  /-- MBX_HIRQ (R617). -/
  | mbxHirq (core : Nat) (v : Word)
  /-- MBX_RESPONSE (R602). -/
  | mbxResponse (m : Nat)
  /-- EVQ_HEAD_WRITE (R620). -/
  | evqHeadWrite (m : Master) (ring : Nat) (v : Word)
  /-- BAR4_ACCESS (R592). -/
  | bar4Access (off : Nat) (wr : Bool) (bytes : List Byte) (len : Nat) (tag : Nat) (poisoned : Bool)
  /-- COMPLETION_TIMEOUT (R593). -/
  | completionTimeout (tag : Nat)
  /-- FLR (R595). -/
  | flr
  /-- DATA_LINK_DOWN (R596). -/
  | dataLinkDown
  /-- PERST_ASSERT (R621). -/
  | perstAssert
  /-- MGMT_STATUS (R606). -/
  | mgmtStatus
  /-- MGMT_TELEMETRY (R606). -/
  | mgmtTelemetry
  /-- MGMT_IDENTITY (R606). -/
  | mgmtIdentity
  /-- MGMT_MBX_WRITE (R607). -/
  | mgmtMbxWrite (bytes : List Byte)
  /-- MGMT_MBX_READ (R606). -/
  | mgmtMbxRead (n : Nat)
  /-- MGMT_DOORBELL (R606). -/
  | mgmtDoorbell
  /-- MGMT_QUEUE_STATUS (R606). -/
  | mgmtQueueStatus
  /-- TELEMETRY_REFRESH (R606). -/
  | telemetryRefresh
  /-- STATUS (R579). -/
  | chStatus
  /-- PROGRAM (R579). -/
  | chProgram (copy : Nat) (img : List Byte) (fail : Nat)
  /-- SET_OWNER (R579). -/
  | chSetOwner (hash : Nat)
  /-- READ (R579). -/
  | chRead (addr : Nat) (len : Nat) (host : Nat)
  /-- CLEAR_COUNT (R579). -/
  | chClearCount
  /-- RESTART (R579). -/
  | chRestart
  /-- POWER (R566). -/
  | powerPhase (ok : Bool)
  /-- BACKUP (R570). -/
  | backupPhase
  /-- FIRMWARE (R560). -/
  | firmwarePhase (a : FwImage) (b : FwImage)
  /-- CONFIG (R565). -/
  | configPhase (a : CfgImage) (b : CfgImage)
  /-- SELFTEST (R566). -/
  | selftestPhase (r : SelfTest)
  /-- DIES (R566). -/
  | diesPhase (r : DiesResult)
  /-- LINKS (R566). -/
  | linksPhase
  /-- NEIGHBOUR (R572). -/
  | neighbourPhase
  /-- TIME (R566). -/
  | timePhase
  /-- READY (R569). -/
  | readyPhase
  /-- PHASE_TIMEOUT (R566). -/
  | phaseTimeout (phase : Nat)
  /-- HELLO_SEND (R572). -/
  | helloSend (link : Nat)
  /-- HELLO (R572). -/
  | hello (link : Nat) (h : HelloMsg)
  /-- HEARTBEAT_SEND (R574). -/
  | heartbeatSend
  /-- HEARTBEAT (R575). -/
  | heartbeat (fromMod : Nat) (seq : Nat)
  /-- SILENT (R575). -/
  | silent (fromMod : Nat)
  /-- REGISTER (R574). -/
  | register (r : RegisterMsg)
  /-- REG_ACK (R574). -/
  | regAck (slot : Nat) (result : Nat)
  /-- REGISTER_TIMEOUT (R574). -/
  | registerTimeout (slot : Nat)
  /-- UNREGISTER (R574). -/
  | unregister (fromMod : Nat) (slot : Nat)
  /-- TAKEOVER (R575). -/
  | takeover (t : TakeoverMsg)
  /-- TAKE_ACK (R575). -/
  | takeAck (slot : Nat) (result : Nat)
  /-- ISOLATE (R576). -/
  | isolate (fromMod : Nat) (failed : Nat)
  /-- ISOLATE_ACK (R545). -/
  | isolateAck (fromMod : Nat) (links : Nat)
  /-- ISOLATE_TIMEOUT (R545). -/
  | isolateTimeout
  /-- ALIAS (R576). -/
  | aliasMsg (link : Nat) (aliasId : Nat) (newMod : Nat) (aseq : Nat)
  /-- POWER_ON_RESET (R621). -/
  | powerOnReset
  /-- BROWN_OUT (R621). -/
  | brownOut (released : Bool)
  /-- PIN_RESET (R621). -/
  | pinReset (low : Bool)
  /-- HUB_WATCHDOG_EXPIRY (R634). -/
  | hubWatchdogExpiry
  /-- HWDOG_WARN (R634). -/
  | hwdogWarn
  /-- RST_HWDOG_KICK (R645). -/
  | rstHwdogKick (m : Master) (v : Word)
  /-- HUB_LOCKUP (R635). -/
  | hubLockup
  /-- CLOCK_MONITOR_WINDOW (R640). -/
  | clockMonitorWindow (freqs : List Nat)
  /-- WARM_RESET_REQUEST (R628). -/
  | warmResetRequest (m : Master) (v : Word)
  /-- DEBUG_RESET (R621). -/
  | debugReset
  /-- CORE_WATCHDOG_EXPIRY (R632). -/
  | coreWatchdogExpiry (core : Nat)
  /-- CC_WDOG_WRITE (R649). -/
  | ccWdogWrite (m : Master) (core : Nat) (v : Word)
  /-- CORE_LOCKUP (R633). -/
  | coreLockup (core : Nat) (unit : Nat)
  /-- CORE_RESET_DRAIN_END (R626). -/
  | coreResetDrainEnd (core : Nat)
  /-- RESET_RELEASE (R625). -/
  | resetRelease
  /-- PRSNT_MATE (R661). -/
  | prsntMate
  /-- EFUSE_SOFT_START (R661). -/
  | efuseSoftStart
  /-- SOFT_START_COMPLETE (R661). -/
  | softStartComplete
  /-- PRSNT_BREAK (R664). -/
  | prsntBreak
  /-- WITHDRAW_RAILS_DISCHARGED (R664). -/
  | withdrawRailsDischarged
  /-- SHORT (R662). -/
  | efuseShort (amps10 : Nat)
  /-- OVERCURRENT (R662). -/
  | efuseOvercurrent (amps10 : Nat)
  /-- SUSTAINED (R662). -/
  | efuseSustained (amps10 : Nat)
  /-- OVERVOLTAGE (R662). -/
  | efuseOvervoltage (mv : Nat)
  /-- UNDERVOLTAGE (R662). -/
  | efuseUndervoltage (mv : Nat)
  /-- UNDERVOLTAGE_RECLOSE (R663). -/
  | undervoltageReclose
  /-- POWER_SAMPLE (R666). -/
  | powerSample (mv : Nat) (amps10 : Nat)
  /-- SHED_END (R667). -/
  | shedEnd
  /-- RAIL_FAULT (R658). -/
  | railFault (rail : Nat)
  /-- CLUSTER_IDLE_OFF (R660). -/
  | clusterIdleOff (cl : Nat)
  /-- CLUSTER_POWER_GOOD (R660). -/
  | clusterPowerGood (cl : Nat)
  /-- COOLANT_SAMPLE (R669). -/
  | coolantSample (inlet : Int) (outlet : Int) (flow : Nat) (pos : Nat)
  /-- VALVE_STEP (R670). -/
  | valveStep
  /-- VALVE_FAULT (R671). -/
  | valveFault
  /-- RAIL_SAMPLE (R672). -/
  | railSample (rail : Nat) (mv : Nat) (amps10 : Nat)
  /-- INPUT (R690). -/
  | hazInput (ch : Nat) (value : Int)
  /-- RAIL_OV (R690). -/
  | hazRailOv (ch : Nat) (rail : Nat) (value : Int)
  /-- RAIL_OC (R690). -/
  | hazRailOc (ch : Nat) (rail : Nat) (value : Int)
  /-- DIE_OT (R690). -/
  | hazDieOt (ch : Nat) (sensor : Nat) (value : Int)
  /-- HBM_OT (R690). -/
  | hazHbmOt (ch : Nat) (sensor : Nat) (value : Int)
  /-- COOLANT (R690). -/
  | hazCoolant (ch : Nat) (sensor : Nat) (value : Int)
  /-- XCHK_HAZARD (R689). -/
  | hazXchk (ch : Nat) (pair : Nat) (value : Int) (partner : Int)
  /-- CHANNEL (R689). -/
  | hazChannel (ch : Nat)
  /-- FABRIC (R690). -/
  | hazFabric (inLink : Nat) (vc : Nat)
  /-- SAFETY_HEARTBEAT_SEND (R689). -/
  | safetyHeartbeatSend (ch : Nat)
  /-- SAFETY_HEARTBEAT (R689). -/
  | safetyHeartbeat (ch : Nat) (ok : Bool) (outOfBand : List Nat) (active : Nat)
  /-- SAFE_ACK (R693). -/
  | safeAck
  /-- SAFE_ACK_TIMEOUT (R693). -/
  | safeAckTimeout
  /-- SAFE_REARM (R697). -/
  | safeRearm (m : Master) (v : Word)
  /-- REARM_PIN (R697). -/
  | rearmPin
  /-- PROP_CLEAR_ALL (R721). -/
  | propClearAll (m : Master)
  /-- PERS_CLEAR (R721). -/
  | persClear (m : Master)
  /-- PROP_CLEAR_INDEX (R721). -/
  | propClearIndex (m : Master) (n : Nat)
  /-- PMON_GFREEZE_WRITE (R735). -/
  | pmonGfreezeWrite (m : Master) (v : Word)
  /-- PMON_CNT_WRITE (R734). -/
  | pmonCntWrite (m : Master) (inst : Nat) (k : Nat) (v : Word) (events : Nat)
  /-- DEBUG_UNLOCK_EXPIRY (R612). -/
  | debugUnlockExpiry
  /-- PCIE_LINK_UP (R596). -/
  | pcieLinkUp
  /-- D3HOT_TRANSITION (R591). -/
  | d3hotTransition (d3 : Bool)
  /-- REF10M_IN_QUALIFIED (R492). -/
  | ref10mInQualified
  /-- PTP_SOURCE_LOSS (R492). -/
  | ptpSourceLoss
  /-- THERMAL_SENSOR_SAMPLE (R666). -/
  | thermalSensorSample (sensor : Nat) (temp : Int)
  /-- P3V3_AUX_LOSS (R623). -/
  | p3v3AuxLoss
  /-- SUPERCAPACITOR_HOLD_EXPIRY (R772). -/
  | supercapacitorHoldExpiry
  /-- PLL_LOCK_LOSS (R640). -/
  | pllLockLoss (domain : Nat)
  /-- DETECT_RETRY (R393). -/
  | detectRetry (link : Nat)
  /-- PPS_TERM_EN_CHANGE (R767). -/
  | ppsTermEnChange (level : Bool)
  deriving DecidableEq, Repr

end Sys2Proof
end

