-- ==== Sys2Proof/Config.lean ====
section
/-! DEFINITION. What the spec leaves open as a value (free values: constants without a body, so that no proof can rest on
a number) and what one implementation fixes. -/

namespace Sys2Proof.Config

/-- A fresh free value: applied to the counter `State.free`, which each use advances. -/
opaque freeValue : Nat → Word

/-- VE function results within the accuracy bound of R184, on an FP32 code: function number (0 exp, 1 log, 2 reciprocal,
3 rsqrt, 5 tanh, 6 GELU, 7 SiLU, and 16 + n for the derivative of function n). -/
opaque veFn32 : Nat → BitVec 32 → BitVec 32

/-- The same on an FP64 code. -/
opaque veFn64 : Nat → BitVec 64 → BitVec 64

/-- SHA-256 and SHA-384 digests as numbers (R511, R560, R610). -/
opaque digest : List Byte → Nat

/-- The signature over a report (R610, R611). -/
opaque signature : List Byte → List Byte

/-- The servo's rate step for an offset (2^-32 ns) under gains KP and KI, with the integral so far (R487). -/
opaque servoStep : Nat → Nat → Int → Int → Int

/-- The identification registers of a control core (R134 names none of their values): number of the register, core ID. -/
opaque ccIdReg : Nat → Nat → Word

/-- The device key's certificate chain (R610). -/
opaque certChain : List Byte

end Sys2Proof.Config
end

