-- ==== Sys2Proof/Machine/Sparse.lean ====
section
/-! DEFINITION. Sparse maps as plain data: a list of key and value pairs in one canonical form (keys strictly rising, no
entry equal to what an unlisted key reads as). Memory, the register file and the per-unit records are such maps. -/

namespace Sys2Proof.Machine

/-- The value listed for a key, if any. -/
def find? {K V : Type} [DecidableEq K] (l : List (K × V)) (k : K) : Option V :=
  match l with
  | [] => none
  | (k', v) :: t => if k' = k then some v else find? t k

/-- The value of a key: the listed one, else the default. -/
def lookD {K V : Type} [DecidableEq K] (d : V) (l : List (K × V)) (k : K) : V := (find? l k).getD d

/-- Insertion at the place the order gives, replacing an entry of the same key. -/
def insertAt {K V : Type} [DecidableEq K] (lt : K → K → Bool) (l : List (K × V)) (k : K) (v : V) : List (K × V) :=
  match l with
  | [] => [(k, v)]
  | (k', v') :: t =>
    if k' = k then (k, v) :: t
    else if lt k k' then (k, v) :: (k', v') :: t
    else (k', v') :: insertAt lt t k v

/-- Removal of a key. -/
def dropKey {K V : Type} [DecidableEq K] (l : List (K × V)) (k : K) : List (K × V) := l.filter (fun p => decide (p.1 ≠ k))

/-- A write: the entry equal to the default is removed, so that equal maps are equal lists. -/
def putD {K V : Type} [DecidableEq K] [DecidableEq V] (lt : K → K → Bool) (d : V) (l : List (K × V)) (k : K) (v : V) :
    List (K × V) :=
  if v = d then dropKey l k else insertAt lt l k v

/-- The order of number keys. -/
def natLt (a b : Nat) : Bool := decide (a < b)

/-- Canonical form: keys strictly rising in the given order and no entry equal to its default. -/
def canon {K V : Type} [DecidableEq V] (lt : K → K → Bool) (d : K → V) : List (K × V) → Bool
  | [] => true
  | [(k, v)] => decide (v ≠ d k)
  | (k, v) :: (k', v') :: t => decide (v ≠ d k) && lt k k' && canon lt d ((k', v') :: t)

/-- Byte of a sparse byte space; an unlisted byte is 0. -/
def getByte (m : List (Nat × Byte)) (a : Nat) : Byte := lookD 0 m a

/-- A byte written to a sparse byte space. -/
def putByte (m : List (Nat × Byte)) (a : Nat) (b : Byte) : List (Nat × Byte) := putD natLt 0 m a b

/-- `n` bytes from address `a` on. -/
def getBytes (m : List (Nat × Byte)) (a : Nat) : Nat → List Byte
  | 0 => []
  | n + 1 => getByte m a :: getBytes m (a + 1) n

/-- Bytes written from address `a` on. -/
def putBytes (m : List (Nat × Byte)) (a : Nat) : List Byte → List (Nat × Byte)
  | [] => m
  | b :: bs => putBytes (putByte m a b) (a + 1) bs

end Sys2Proof.Machine
end

