-- ==== Sys2Proof/Machine/RegMap.lean ====
section
/-! DEFINITION. The register map: every register of the spec as a name, with its block, its offset in the block, its
spacing, its width and its fields (access code of R6, reset value, and where a reset value that is no number comes
from). Each `F.<REGISTER>_<FIELD>` is one row of a register table of spec/. -/

namespace Sys2Proof.Machine

/-- The register blocks of R706, in the order of their BLOCK codes; `EVLC` is the common EVL instance (R436 to R446) and
`RCHE` the reduction-channel engine of the MSU block (R471 to R476). -/
inductive Blk where
  | CC | ME | VE | DM | SU | SPD | ACB | TRF | CLU | VAT | HBMC | MSU | MESH | SYNC | EVL | PCIE | MBX | HUBC | TIME | CLK | RST | PWR | THM | SAFE | ELOG | PMON | PERT | NVCF | EVLC | RCHE
  deriving DecidableEq, Repr

/-- The access codes of R6; `hubOnly` is "RW, hub only" (R8). -/
inductive Acc where
  | rw | ro | wo | w1c | w1s | rwl | hubOnly
  deriving DecidableEq, Repr

/-- Where a field's reset value comes from: a number of the Reset column, the NV image (R10), the backup domain (R623),
channel B (20_single_fault_safety.md), or the field is hard-wired to its unit or derived from it. -/
inductive Src where
  | num | nv | backup | chanB | unit
  deriving DecidableEq, Repr

/-- The names of the registers. A register that stands for a family of registers (`VAT_QUOTA_c`) is one name; the
member is the index of the register key. -/
inductive Reg where
  | ME_ID | ME_REPAIR | ME_CHK_CFG | ME_STATUS | ME_EVT | ME_EVT_EN | ME_CHK_CNT | ME_CHK_LOG | TRF_NOW | TRF_EVT
  | TRF_EVT_EN | TRF_LOG | TRF_TAG | TRF_STAMP | CC_ID | CC_STATE | CC_TASK_STATUS | CC_TRAP | CC_CMD_LOG | CC_IRQ
  | CC_QSTAT | VAT_FREE | VAT_EVT | VAT_STALL_CNT | VAT_QUOTA | CLU_ID | CLU_FENCE | VE_CTX | VE_SEED | VE_EVT
  | VE_EVT_EN | VE_CNT | VE_FREEZE | VE_TIE | SPD_OWN | SPD_PWR | SPD_MAP | SPD_CFG | SPD_EVT | SPD_EVT_EN
  | SPD_ECC_CNT | SPD_ECC_LOG | ACB_EVT | ACB_ECC_CNT | DM_TAGS | DM_EVT | DM_EVT_EN | DM_STALL_CNT | HBMC_ID
  | HBMC_PAIR | HBMC_EVT | HBMC_EVT_EN | HBMC_ECC_CNT | HBMC_ECC_LOG | HBMC_SCRUB | HBMC_PARK | MSU_STATUS
  | MSU_EVT | MSU_CNT | DM_STRM_CFG | MESH_ID | MESH_EVT | MESH_EVT_EN | MESH_COMB | MESH_FAULT_LOG | MESH_ROUTE
  | MESH_MC | SYNC_LWIN | SYNC_LAND | SYNC_PEND | SYNC_BAD_LOG | SU_CTR | SU_FLAG | SU_EVT | SU_EVT_EN | SU_LOG
  | SU_CCH | SU_GMAP | SU_BAR | EVL_STATUS | EVL_CFG | EVL_EVT | EVL_EVT_EN | EVL_ERR_CNT | EVL_CRED | EVL_REPLAY
  | EVL_MODID | EVL_TAGS | EVL_TAG_CFG | EVL_COM_EVT | EVL_COM_EVT_EN | EVL_DROP_CNT | EVL_UNROUT_LOG
  | EVL_RING_CFG | EVL_RING_RANGE | EVL_ROUTE | EVL_MC | MSU_RCH_EVT | MSU_RCH_EVT_EN | MSU_RCH_NAN_LOG
  | MSU_RCH_CHK_LOG | MSU_RCH_ERR_CNT | MSU_RCH_PEND | DM_RCH_CNT | TIME_CFG | TIME_STATUS | TIME_INC | TIME_MEAS
  | TIME_GM | TIME_SERVO | TIME_EVT | TIME_EVT_EN | TIME_ASYM | CC_CKPT | HUBC_CTX | HUBC_ALIAS | NVCF_STATUS
  | NVCF_EVT | NVCF_EVT_EN | NVCF_CFG | NVCF_FABRIC | NVCF_PHASE_T | NVCF_NB | PCIE_STATUS | PCIE_EVT
  | PCIE_EVT_EN | HUBC_FUSE_MAP | HUBC_MGMT | RST_HIST | RST_CTRL | RST_CFG | RST_EVT | RST_EVT_EN | CC_WDOG
  | CC_WDOG_CNT | CLK_STATUS | CLK_EVT | CLK_EVT_EN | PWR_STATUS | PWR_IN | PWR_CFG | PWR_EVT | PWR_EVT_EN
  | THM_COOL | THM_LOOP | THM_LIM | THM_HOT | THM_EVT | THM_EVT_EN | SAFE_STATUS | SAFE_HAZ | SAFE_TRIP_LOG
  | SAFE_LIM | SAFE_REARM | SAFE_EVT | SAFE_EVT_EN | ELOG_STATUS | ELOG_CNT | ELOG_PROP | ELOG_PROP_CLR
  | PERT_STATUS | PERT_CREDIT | PERT_BP | PERT_HBM | PERT_TSTAMP | TRF_SLIP_CNT | TRF_SHAPE_CNT | DM_REMOTE_ADDR
  | DM_REMOTE_INFO | DM_STRM_ISSUED | DM_STRM_CONSUMED | DM_STRM_EVICTED | DM_STRM_LATE | MSU_RCH_CFG
  | MSU_RCH_TGT | MSU_RCH_AUX | MSU_RCH_STEP | MSU_RCH_LAND | MSU_RCH_CNT | TIME_NOW | TIME_FRAC | TIME_SET
  | MESH_CFG | MESH_ECC_CNT | SYNC_EVT | SYNC_EVT_EN | CC_EXIT | CC_CKPT_DONE | CLU_ENERGY | HUBC_TASK
  | HUBC_TASK_E | HUBC_SPEC_CFG | HUBC_SPEC_R0 | HUBC_SPEC_R1 | NVCF_SPARE | NVCF_SPARE_CL | PCIE_BAR4 | PCIE_HWIN
  | HUBC_EVQ | HUBC_EVQ_STAT | RST_COUNT | RST_HWDOG | RST_HWDOG_KICK | RST_CORE_LOG | RST_CORE_CNT | CLK_MON_CFG
  | CLK_GATE | CLK_MEAS | PWR_CDOM | PWR_CDOM_PG | PWR_RAIL | PWR_RAIL_E | PWR_CDOM_E | THM_SENS | ELOG_SEL
  | ELOG_PSEL | ELOG_REC | ELOG_PREC | PERT_ECC | PERT_ECC_ADDR | PERT_SLIP | PERT_SLIP_TILES | PMON_CTRL
  | PMON_WRAP | PMON_CFG | PMON_CNT | PMON_GFREEZE | MBX_TX | MBX_RX | MBX_STAT | MBX_DB | MBX_IEN | MBX_CTX
  | MBX_CDB | MBX_CFREE | MBX_HIRQ
  deriving DecidableEq, Repr

/-- One field of a register table: bits `hi:lo`, access code and reset value. -/
structure Field where
  reg : Reg
  hi : Nat
  lo : Nat
  acc : Acc
  rst : Nat
  src : Src := .num
  deriving DecidableEq, Repr

/-- Width of a field in bits. -/
def Field.width (f : Field) : Nat := f.hi + 1 - f.lo

/-- A register's place and shape: block, offset of member 0, spacing and number of members, 64 or 32 bits. -/
structure RegInfo where
  blk : Blk
  off : Nat
  stride : Nat
  count : Nat
  wide : Bool
  fields : List Field
  deriving DecidableEq, Repr

namespace F

/-! R59 (02_matrix_engine.md) -/
abbrev ME_ID_REV : Field := ⟨.ME_ID, 15, 8, .ro, 0xb0, .num⟩
abbrev ME_ID_SLICED : Field := ⟨.ME_ID, 0, 0, .ro, 0, .unit⟩
/-! R60 (02_matrix_engine.md) -/
abbrev ME_REPAIR_B_SPARE : Field := ⟨.ME_REPAIR, 12, 8, .rwl, 0, .nv⟩
abbrev ME_REPAIR_A_SPARE : Field := ⟨.ME_REPAIR, 4, 0, .rwl, 0, .nv⟩
/-! R62 (02_matrix_engine.md) -/
abbrev ME_CHK_CFG_LIMIT : Field := ⟨.ME_CHK_CFG, 23, 8, .rwl, 0, .nv⟩
abbrev ME_CHK_CFG_TOL : Field := ⟨.ME_CHK_CFG, 7, 0, .rwl, 0, .nv⟩
/-! R63 (02_matrix_engine.md) -/
abbrev ME_STATUS_ITER : Field := ⟨.ME_STATUS, 63, 32, .ro, 0, .num⟩
abbrev ME_STATUS_LOADED : Field := ⟨.ME_STATUS, 23, 23, .ro, 0, .num⟩
abbrev ME_STATUS_LOADED_S : Field := ⟨.ME_STATUS, 22, 16, .ro, 0, .num⟩
abbrev ME_STATUS_LAST_STATUS : Field := ⟨.ME_STATUS, 7, 4, .ro, 0, .num⟩
abbrev ME_STATUS_DRAINING : Field := ⟨.ME_STATUS, 1, 1, .ro, 0, .num⟩
abbrev ME_STATUS_BUSY : Field := ⟨.ME_STATUS, 0, 0, .ro, 0, .num⟩
/-! R64 (02_matrix_engine.md) -/
abbrev ME_EVT_ECC_CORR : Field := ⟨.ME_EVT, 11, 11, .w1c, 0, .num⟩
abbrev ME_EVT_CHK_SKIP : Field := ⟨.ME_EVT, 10, 10, .w1c, 0, .num⟩
abbrev ME_EVT_INT_SAT : Field := ⟨.ME_EVT, 9, 9, .w1c, 0, .num⟩
abbrev ME_EVT_INF : Field := ⟨.ME_EVT, 8, 8, .w1c, 0, .num⟩
abbrev ME_EVT_NAN : Field := ⟨.ME_EVT, 7, 7, .w1c, 0, .num⟩
abbrev ME_EVT_ACC_MISMATCH : Field := ⟨.ME_EVT, 6, 6, .w1c, 0, .num⟩
abbrev ME_EVT_ECC : Field := ⟨.ME_EVT, 5, 5, .w1c, 0, .num⟩
abbrev ME_EVT_CHECK_FAIL : Field := ⟨.ME_EVT, 4, 4, .w1c, 0, .num⟩
abbrev ME_EVT_ABSENT : Field := ⟨.ME_EVT, 3, 3, .w1c, 0, .num⟩
abbrev ME_EVT_ILLEGAL : Field := ⟨.ME_EVT, 2, 2, .w1c, 0, .num⟩
abbrev ME_EVT_SHAPE_FAULT : Field := ⟨.ME_EVT, 1, 1, .w1c, 0, .num⟩
abbrev ME_EVT_SLIP : Field := ⟨.ME_EVT, 0, 0, .w1c, 0, .num⟩
/-! R65 (02_matrix_engine.md) -/
abbrev ME_EVT_EN_EN : Field := ⟨.ME_EVT_EN, 11, 0, .rw, 0x7f, .num⟩
/-! R66 (02_matrix_engine.md) -/
abbrev ME_CHK_CNT_COUNT : Field := ⟨.ME_CHK_CNT, 15, 0, .ro, 0, .num⟩
/-! R67 (02_matrix_engine.md) -/
abbrev ME_CHK_LOG_ITER : Field := ⟨.ME_CHK_LOG, 63, 32, .ro, 0, .num⟩
abbrev ME_CHK_LOG_DIFF_EXP : Field := ⟨.ME_CHK_LOG, 27, 20, .ro, 0, .num⟩
abbrev ME_CHK_LOG_ACT_ROW : Field := ⟨.ME_CHK_LOG, 19, 15, .ro, 0, .num⟩
abbrev ME_CHK_LOG_ARRAY : Field := ⟨.ME_CHK_LOG, 14, 14, .ro, 0, .num⟩
abbrev ME_CHK_LOG_X_TILE : Field := ⟨.ME_CHK_LOG, 13, 8, .ro, 0, .num⟩
abbrev ME_CHK_LOG_VALID : Field := ⟨.ME_CHK_LOG, 7, 7, .w1c, 0, .num⟩
abbrev ME_CHK_LOG_S_SEL : Field := ⟨.ME_CHK_LOG, 6, 0, .ro, 0, .num⟩
/-! R127 (04_tile_registers.md) -/
abbrev TRF_NOW_COUNT : Field := ⟨.TRF_NOW, 63, 0, .ro, 0, .num⟩
/-! R128 (04_tile_registers.md) -/
abbrev TRF_EVT_LOCK_WAIT : Field := ⟨.TRF_EVT, 4, 4, .w1c, 0, .num⟩
abbrev TRF_EVT_ECC_CORR : Field := ⟨.TRF_EVT, 3, 3, .w1c, 0, .num⟩
abbrev TRF_EVT_ECC : Field := ⟨.TRF_EVT, 2, 2, .w1c, 0, .num⟩
abbrev TRF_EVT_SHAPE_FAULT : Field := ⟨.TRF_EVT, 1, 1, .w1c, 0, .num⟩
abbrev TRF_EVT_SLIP : Field := ⟨.TRF_EVT, 0, 0, .w1c, 0, .num⟩
/-! R129 (04_tile_registers.md) -/
abbrev TRF_EVT_EN_EN : Field := ⟨.TRF_EVT_EN, 4, 0, .rw, 7, .num⟩
/-! R131 (04_tile_registers.md) -/
abbrev TRF_LOG_DECKLE : Field := ⟨.TRF_LOG, 63, 32, .ro, 0, .num⟩
abbrev TRF_LOG_VALID : Field := ⟨.TRF_LOG, 31, 31, .w1c, 0, .num⟩
abbrev TRF_LOG_INJECTED : Field := ⟨.TRF_LOG, 30, 30, .ro, 0, .num⟩
abbrev TRF_LOG_KIND : Field := ⟨.TRF_LOG, 29, 28, .ro, 0, .num⟩
abbrev TRF_LOG_UNIT : Field := ⟨.TRF_LOG, 27, 26, .ro, 0, .num⟩
abbrev TRF_LOG_TILE : Field := ⟨.TRF_LOG, 21, 16, .ro, 0, .num⟩
abbrev TRF_LOG_EARLY : Field := ⟨.TRF_LOG, 15, 0, .ro, 0, .num⟩
/-! R132 (04_tile_registers.md) -/
abbrev TRF_TAG_TAGGED : Field := ⟨.TRF_TAG, 32, 32, .ro, 0, .num⟩
abbrev TRF_TAG_TAG : Field := ⟨.TRF_TAG, 31, 0, .ro, 0, .num⟩
/-! R133 (04_tile_registers.md) -/
abbrev TRF_STAMP_STAMP : Field := ⟨.TRF_STAMP, 63, 0, .ro, 0, .num⟩
/-! R164 (05_core_and_command_queues.md) -/
abbrev CC_ID_REV : Field := ⟨.CC_ID, 31, 24, .ro, 0xb0, .num⟩
abbrev CC_ID_CORE_ID : Field := ⟨.CC_ID, 10, 0, .ro, 0, .unit⟩
/-! R165 (05_core_and_command_queues.md) -/
abbrev CC_STATE_STATE : Field := ⟨.CC_STATE, 2, 0, .ro, 0, .num⟩
/-! R166 (05_core_and_command_queues.md) -/
abbrev CC_TASK_STATUS_ABORTED : Field := ⟨.CC_TASK_STATUS, 24, 24, .ro, 0, .num⟩
abbrev CC_TASK_STATUS_CAUSE : Field := ⟨.CC_TASK_STATUS, 23, 16, .ro, 0, .num⟩
abbrev CC_TASK_STATUS_SEEN : Field := ⟨.CC_TASK_STATUS, 15, 1, .ro, 0, .num⟩
/-! R167 (05_core_and_command_queues.md) -/
abbrev CC_TRAP_EPC : Field := ⟨.CC_TRAP, 47, 32, .ro, 0, .num⟩
abbrev CC_TRAP_VALID : Field := ⟨.CC_TRAP, 31, 31, .w1c, 0, .num⟩
abbrev CC_TRAP_ECC_CORR : Field := ⟨.CC_TRAP, 30, 30, .w1c, 0, .num⟩
abbrev CC_TRAP_CAUSE : Field := ⟨.CC_TRAP, 7, 0, .ro, 0, .num⟩
/-! R168 (05_core_and_command_queues.md) -/
abbrev CC_CMD_LOG_ITER : Field := ⟨.CC_CMD_LOG, 63, 32, .ro, 0, .num⟩
abbrev CC_CMD_LOG_OPCODE : Field := ⟨.CC_CMD_LOG, 31, 24, .ro, 0, .num⟩
abbrev CC_CMD_LOG_ENGINE : Field := ⟨.CC_CMD_LOG, 23, 22, .ro, 0, .num⟩
abbrev CC_CMD_LOG_VALID : Field := ⟨.CC_CMD_LOG, 21, 21, .w1c, 0, .num⟩
abbrev CC_CMD_LOG_CMD_ID : Field := ⟨.CC_CMD_LOG, 13, 4, .ro, 0, .num⟩
abbrev CC_CMD_LOG_STATUS : Field := ⟨.CC_CMD_LOG, 3, 0, .ro, 0, .num⟩
/-! R169 (05_core_and_command_queues.md) -/
abbrev CC_IRQ_CPL_EN : Field := ⟨.CC_IRQ, 16, 16, .rw, 0, .num⟩
abbrev CC_IRQ_CPL_LOST : Field := ⟨.CC_IRQ, 8, 8, .w1c, 0, .num⟩
abbrev CC_IRQ_MBX : Field := ⟨.CC_IRQ, 6, 6, .ro, 0, .num⟩
abbrev CC_IRQ_CPL : Field := ⟨.CC_IRQ, 5, 5, .ro, 0, .num⟩
abbrev CC_IRQ_SU : Field := ⟨.CC_IRQ, 4, 4, .ro, 0, .num⟩
abbrev CC_IRQ_DM : Field := ⟨.CC_IRQ, 3, 3, .ro, 0, .num⟩
abbrev CC_IRQ_VE : Field := ⟨.CC_IRQ, 2, 2, .ro, 0, .num⟩
abbrev CC_IRQ_TRF : Field := ⟨.CC_IRQ, 1, 1, .ro, 0, .num⟩
abbrev CC_IRQ_ME : Field := ⟨.CC_IRQ, 0, 0, .ro, 0, .num⟩
/-! R170 (05_core_and_command_queues.md) -/
abbrev CC_QSTAT_HEAD_VALID : Field := ⟨.CC_QSTAT, 63, 63, .ro, 0, .num⟩
abbrev CC_QSTAT_HEAD_WAIT : Field := ⟨.CC_QSTAT, 62, 62, .ro, 0, .num⟩
abbrev CC_QSTAT_BUSY : Field := ⟨.CC_QSTAT, 61, 61, .ro, 0, .num⟩
abbrev CC_QSTAT_P3 : Field := ⟨.CC_QSTAT, 55, 42, .ro, 0, .num⟩
abbrev CC_QSTAT_P2 : Field := ⟨.CC_QSTAT, 41, 28, .ro, 0, .num⟩
abbrev CC_QSTAT_P1 : Field := ⟨.CC_QSTAT, 27, 14, .ro, 0, .num⟩
abbrev CC_QSTAT_P0 : Field := ⟨.CC_QSTAT, 13, 0, .ro, 0, .num⟩
/-! R171 (05_core_and_command_queues.md) -/
abbrev VAT_FREE_LOW_WATER : Field := ⟨.VAT_FREE, 29, 16, .ro, 0x2000, .num⟩
abbrev VAT_FREE_FREE : Field := ⟨.VAT_FREE, 13, 0, .ro, 0x2000, .num⟩
/-! R172 (05_core_and_command_queues.md) -/
abbrev VAT_EVT_LINK_ECC : Field := ⟨.VAT_EVT, 4, 4, .w1c, 0, .num⟩
abbrev VAT_EVT_CELL_ECC : Field := ⟨.VAT_EVT, 3, 3, .w1c, 0, .num⟩
abbrev VAT_EVT_ECC_CORR : Field := ⟨.VAT_EVT, 2, 2, .w1c, 0, .num⟩
abbrev VAT_EVT_QUOTA : Field := ⟨.VAT_EVT, 1, 1, .w1c, 0, .num⟩
abbrev VAT_EVT_EXHAUSTED : Field := ⟨.VAT_EVT, 0, 0, .w1c, 0, .num⟩
/-! R173 (05_core_and_command_queues.md) -/
abbrev VAT_STALL_CNT_COUNT : Field := ⟨.VAT_STALL_CNT, 31, 0, .ro, 0, .num⟩
/-! R174 (05_core_and_command_queues.md) -/
abbrev VAT_QUOTA_USED : Field := ⟨.VAT_QUOTA, 29, 16, .ro, 0, .num⟩
abbrev VAT_QUOTA_QUOTA : Field := ⟨.VAT_QUOTA, 13, 0, .rw, 0x200, .num⟩
/-! R175 (05_core_and_command_queues.md) -/
abbrev CLU_ID_REV : Field := ⟨.CLU_ID, 15, 8, .ro, 0xb0, .num⟩
abbrev CLU_ID_FUSED : Field := ⟨.CLU_ID, 7, 7, .ro, 0, .unit⟩
abbrev CLU_ID_DIE : Field := ⟨.CLU_ID, 6, 6, .ro, 0, .unit⟩
abbrev CLU_ID_CLUSTER : Field := ⟨.CLU_ID, 5, 0, .ro, 0, .unit⟩
/-! R176 (05_core_and_command_queues.md) -/
abbrev CLU_FENCE_FENCED : Field := ⟨.CLU_FENCE, 15, 0, .ro, 0, .num⟩
/-! R206 (06_vector_engine_and_backward_pass.md) -/
abbrev VE_CTX_STEP : Field := ⟨.VE_CTX, 63, 32, .rw, 0, .num⟩
abbrev VE_CTX_PENDING : Field := ⟨.VE_CTX, 8, 8, .ro, 0, .num⟩
abbrev VE_CTX_PHASE : Field := ⟨.VE_CTX, 0, 0, .ro, 0, .num⟩
/-! R207 (06_vector_engine_and_backward_pass.md) -/
abbrev VE_SEED_SEED : Field := ⟨.VE_SEED, 63, 0, .rw, 0, .num⟩
/-! R208 (06_vector_engine_and_backward_pass.md) -/
abbrev VE_EVT_TIMEOUT : Field := ⟨.VE_EVT, 11, 11, .w1c, 0, .num⟩
abbrev VE_EVT_TIE_OVER : Field := ⟨.VE_EVT, 10, 10, .w1c, 0, .num⟩
abbrev VE_EVT_GRAD_NF : Field := ⟨.VE_EVT, 9, 9, .w1c, 0, .num⟩
abbrev VE_EVT_SAT : Field := ⟨.VE_EVT, 8, 8, .w1c, 0, .num⟩
abbrev VE_EVT_INF : Field := ⟨.VE_EVT, 7, 7, .w1c, 0, .num⟩
abbrev VE_EVT_NAN : Field := ⟨.VE_EVT, 6, 6, .w1c, 0, .num⟩
abbrev VE_EVT_ECC_CORR : Field := ⟨.VE_EVT, 5, 5, .w1c, 0, .num⟩
abbrev VE_EVT_ECC : Field := ⟨.VE_EVT, 4, 4, .w1c, 0, .num⟩
abbrev VE_EVT_VE_CHECK : Field := ⟨.VE_EVT, 3, 3, .w1c, 0, .num⟩
abbrev VE_EVT_TIED : Field := ⟨.VE_EVT, 2, 2, .w1c, 0, .num⟩
abbrev VE_EVT_PHASE : Field := ⟨.VE_EVT, 1, 1, .w1c, 0, .num⟩
abbrev VE_EVT_ILLEGAL : Field := ⟨.VE_EVT, 0, 0, .w1c, 0, .num⟩
/-! R209 (06_vector_engine_and_backward_pass.md) -/
abbrev VE_EVT_EN_EN : Field := ⟨.VE_EVT_EN, 11, 0, .rw, 31, .num⟩
/-! R210 (06_vector_engine_and_backward_pass.md) -/
abbrev VE_CNT_NONFINITE : Field := ⟨.VE_CNT, 63, 32, .rw, 0, .num⟩
abbrev VE_CNT_CHECK : Field := ⟨.VE_CNT, 31, 0, .ro, 0, .num⟩
/-! R211 (06_vector_engine_and_backward_pass.md) -/
abbrev VE_FREEZE_FROZEN : Field := ⟨.VE_FREEZE, 63, 0, .rw, 0, .num⟩
/-! R212 (06_vector_engine_and_backward_pass.md) -/
abbrev VE_TIE_ARMED : Field := ⟨.VE_TIE, 63, 63, .rw, 0, .num⟩
abbrev VE_TIE_COMPLETE : Field := ⟨.VE_TIE, 62, 62, .ro, 0, .num⟩
abbrev VE_TIE_OVER : Field := ⟨.VE_TIE, 61, 61, .w1c, 0, .num⟩
abbrev VE_TIE_DONE_EN : Field := ⟨.VE_TIE, 60, 60, .rw, 0, .num⟩
abbrev VE_TIE_DONE_CTR : Field := ⟨.VE_TIE, 59, 55, .rw, 0, .num⟩
abbrev VE_TIE_USES : Field := ⟨.VE_TIE, 47, 40, .rw, 0, .num⟩
abbrev VE_TIE_COUNT : Field := ⟨.VE_TIE, 39, 32, .ro, 0, .num⟩
abbrev VE_TIE_ROWS_M1 : Field := ⟨.VE_TIE, 27, 16, .rw, 0, .num⟩
abbrev VE_TIE_BASE : Field := ⟨.VE_TIE, 11, 0, .rw, 0, .num⟩
/-! R243 (07_scratchpad_and_bank_units.md) -/
abbrev SPD_OWN_OWN : Field := ⟨.SPD_OWN, 17, 0, .rw, 0x12492, .num⟩
/-! R244 (07_scratchpad_and_bank_units.md) -/
abbrev SPD_PWR_STATE : Field := ⟨.SPD_PWR, 27, 16, .ro, 0, .num⟩
abbrev SPD_PWR_REQ : Field := ⟨.SPD_PWR, 11, 0, .rw, 0, .num⟩
/-! R245 (07_scratchpad_and_bank_units.md) -/
abbrev SPD_MAP_CAPACITY : Field := ⟨.SPD_MAP, 21, 12, .ro, 0x300, .num⟩
abbrev SPD_MAP_RETIRED : Field := ⟨.SPD_MAP, 5, 0, .rwl, 0, .nv⟩
/-! R246 (07_scratchpad_and_bank_units.md) -/
abbrev SPD_CFG_ECC_LIMIT : Field := ⟨.SPD_CFG, 15, 8, .rwl, 0, .nv⟩
abbrev SPD_CFG_AGE : Field := ⟨.SPD_CFG, 7, 0, .rw, 64, .num⟩
/-! R247 (07_scratchpad_and_bank_units.md) -/
abbrev SPD_EVT_G8_FMT : Field := ⟨.SPD_EVT, 7, 7, .w1c, 0, .num⟩
abbrev SPD_EVT_SAT : Field := ⟨.SPD_EVT, 6, 6, .w1c, 0, .num⟩
abbrev SPD_EVT_AGED : Field := ⟨.SPD_EVT, 5, 5, .w1c, 0, .num⟩
abbrev SPD_EVT_BANK_CHECK : Field := ⟨.SPD_EVT, 4, 4, .w1c, 0, .num⟩
abbrev SPD_EVT_REFUSED : Field := ⟨.SPD_EVT, 3, 3, .w1c, 0, .num⟩
abbrev SPD_EVT_ECC : Field := ⟨.SPD_EVT, 2, 2, .w1c, 0, .num⟩
abbrev SPD_EVT_ECC_CORR : Field := ⟨.SPD_EVT, 1, 1, .w1c, 0, .num⟩
abbrev SPD_EVT_INF : Field := ⟨.SPD_EVT, 0, 0, .w1c, 0, .num⟩
/-! R248 (07_scratchpad_and_bank_units.md) -/
abbrev SPD_EVT_EN_EN : Field := ⟨.SPD_EVT_EN, 7, 0, .rw, 20, .num⟩
/-! R249 (07_scratchpad_and_bank_units.md) -/
abbrev SPD_ECC_CNT_CNT : Field := ⟨.SPD_ECC_CNT, 47, 0, .ro, 0, .num⟩
/-! R250 (07_scratchpad_and_bank_units.md) -/
abbrev SPD_ECC_LOG_VALID : Field := ⟨.SPD_ECC_LOG, 31, 31, .w1c, 0, .num⟩
abbrev SPD_ECC_LOG_MASTER : Field := ⟨.SPD_ECC_LOG, 30, 28, .ro, 0, .num⟩
abbrev SPD_ECC_LOG_KIND : Field := ⟨.SPD_ECC_LOG, 27, 27, .ro, 0, .num⟩
abbrev SPD_ECC_LOG_ADDR : Field := ⟨.SPD_ECC_LOG, 19, 0, .ro, 0, .num⟩
/-! R251 (07_scratchpad_and_bank_units.md) -/
abbrev ACB_EVT_ECC : Field := ⟨.ACB_EVT, 1, 1, .w1c, 0, .num⟩
abbrev ACB_EVT_ECC_CORR : Field := ⟨.ACB_EVT, 0, 0, .w1c, 0, .num⟩
/-! R252 (07_scratchpad_and_bank_units.md) -/
abbrev ACB_ECC_CNT_COUNT : Field := ⟨.ACB_ECC_CNT, 31, 0, .ro, 0, .num⟩
/-! R253 (07_scratchpad_and_bank_units.md) -/
abbrev DM_TAGS_HIGH_WATER : Field := ⟨.DM_TAGS, 25, 16, .ro, 0, .num⟩
abbrev DM_TAGS_IN_USE : Field := ⟨.DM_TAGS, 9, 0, .ro, 0, .num⟩
/-! R254 (07_scratchpad_and_bank_units.md) -/
abbrev DM_EVT_TAG_STALL : Field := ⟨.DM_EVT, 7, 7, .w1c, 0, .num⟩
abbrev DM_EVT_REMOTE : Field := ⟨.DM_EVT, 6, 6, .w1c, 0, .num⟩
abbrev DM_EVT_BANK_CHECK : Field := ⟨.DM_EVT, 5, 5, .w1c, 0, .num⟩
abbrev DM_EVT_ECC : Field := ⟨.DM_EVT, 4, 4, .w1c, 0, .num⟩
abbrev DM_EVT_SAT : Field := ⟨.DM_EVT, 3, 3, .w1c, 0, .num⟩
abbrev DM_EVT_INF : Field := ⟨.DM_EVT, 2, 2, .w1c, 0, .num⟩
abbrev DM_EVT_NAN : Field := ⟨.DM_EVT, 1, 1, .w1c, 0, .num⟩
abbrev DM_EVT_ILLEGAL : Field := ⟨.DM_EVT, 0, 0, .w1c, 0, .num⟩
/-! R255 (07_scratchpad_and_bank_units.md) -/
abbrev DM_EVT_EN_EN : Field := ⟨.DM_EVT_EN, 7, 0, .rw, 0x71, .num⟩
/-! R256 (07_scratchpad_and_bank_units.md) -/
abbrev DM_STALL_CNT_COUNT : Field := ⟨.DM_STALL_CNT, 31, 0, .ro, 0, .num⟩
/-! R297 (08_hbm_and_memory_tiers.md) -/
abbrev HBMC_ID_REV : Field := ⟨.HBMC_ID, 15, 8, .ro, 0xb0, .num⟩
abbrev HBMC_ID_STACK : Field := ⟨.HBMC_ID, 2, 0, .ro, 0, .unit⟩
/-! R298 (08_hbm_and_memory_tiers.md) -/
abbrev HBMC_PAIR_LOCAL : Field := ⟨.HBMC_PAIR, 63, 0, .rw, 0, .num⟩
/-! R299 (08_hbm_and_memory_tiers.md) -/
abbrev HBMC_EVT_RESV_LAPSED : Field := ⟨.HBMC_EVT, 6, 6, .w1c, 0, .num⟩
abbrev HBMC_EVT_BANK_FULL : Field := ⟨.HBMC_EVT, 5, 5, .w1c, 0, .num⟩
abbrev HBMC_EVT_MSU_CHECK : Field := ⟨.HBMC_EVT, 4, 4, .w1c, 0, .num⟩
abbrev HBMC_EVT_SCRUB_UE : Field := ⟨.HBMC_EVT, 3, 3, .w1c, 0, .num⟩
abbrev HBMC_EVT_SCRUB_CORR : Field := ⟨.HBMC_EVT, 2, 2, .w1c, 0, .num⟩
abbrev HBMC_EVT_ECC : Field := ⟨.HBMC_EVT, 1, 1, .w1c, 0, .num⟩
abbrev HBMC_EVT_ECC_CORR : Field := ⟨.HBMC_EVT, 0, 0, .w1c, 0, .num⟩
/-! R300 (08_hbm_and_memory_tiers.md) -/
abbrev HBMC_EVT_EN_EN : Field := ⟨.HBMC_EVT_EN, 6, 0, .rw, 26, .num⟩
/-! R301 (08_hbm_and_memory_tiers.md) -/
abbrev HBMC_ECC_CNT_COUNT : Field := ⟨.HBMC_ECC_CNT, 31, 0, .ro, 0, .num⟩
/-! R302 (08_hbm_and_memory_tiers.md) -/
abbrev HBMC_ECC_LOG_VALID : Field := ⟨.HBMC_ECC_LOG, 63, 63, .w1c, 0, .num⟩
abbrev HBMC_ECC_LOG_KIND : Field := ⟨.HBMC_ECC_LOG, 62, 61, .ro, 0, .num⟩
abbrev HBMC_ECC_LOG_PC : Field := ⟨.HBMC_ECC_LOG, 60, 52, .ro, 0, .num⟩
abbrev HBMC_ECC_LOG_LINE : Field := ⟨.HBMC_ECC_LOG, 51, 28, .ro, 0, .num⟩
abbrev HBMC_ECC_LOG_HUB : Field := ⟨.HBMC_ECC_LOG, 11, 11, .ro, 0, .num⟩
abbrev HBMC_ECC_LOG_CORE : Field := ⟨.HBMC_ECC_LOG, 10, 0, .ro, 0, .num⟩
/-! R303 (08_hbm_and_memory_tiers.md) -/
abbrev HBMC_SCRUB_PASSES : Field := ⟨.HBMC_SCRUB, 31, 16, .ro, 0, .num⟩
abbrev HBMC_SCRUB_PERIOD : Field := ⟨.HBMC_SCRUB, 7, 0, .rwl, 0, .nv⟩
/-! R304 (08_hbm_and_memory_tiers.md) -/
abbrev HBMC_PARK_HIGH_WATER : Field := ⟨.HBMC_PARK, 26, 16, .ro, 0, .num⟩
abbrev HBMC_PARK_LONGEST : Field := ⟨.HBMC_PARK, 10, 0, .ro, 0, .num⟩
/-! R305 (08_hbm_and_memory_tiers.md) -/
abbrev MSU_STATUS_CMDQ : Field := ⟨.MSU_STATUS, 13, 9, .ro, 0, .num⟩
abbrev MSU_STATUS_INFLIGHT : Field := ⟨.MSU_STATUS, 8, 3, .ro, 0, .num⟩
abbrev MSU_STATUS_PROG : Field := ⟨.MSU_STATUS, 2, 1, .ro, 0, .num⟩
abbrev MSU_STATUS_BUSY : Field := ⟨.MSU_STATUS, 0, 0, .ro, 0, .num⟩
/-! R306 (08_hbm_and_memory_tiers.md) -/
abbrev MSU_EVT_G8_FMT : Field := ⟨.MSU_EVT, 4, 4, .w1c, 0, .num⟩
abbrev MSU_EVT_INF : Field := ⟨.MSU_EVT, 3, 3, .w1c, 0, .num⟩
abbrev MSU_EVT_NAN : Field := ⟨.MSU_EVT, 2, 2, .w1c, 0, .num⟩
abbrev MSU_EVT_ECC : Field := ⟨.MSU_EVT, 1, 1, .w1c, 0, .num⟩
abbrev MSU_EVT_CHECK : Field := ⟨.MSU_EVT, 0, 0, .w1c, 0, .num⟩
/-! R307 (08_hbm_and_memory_tiers.md) -/
abbrev MSU_CNT_NONFINITE : Field := ⟨.MSU_CNT, 63, 32, .rw, 0, .num⟩
abbrev MSU_CNT_BLOCKS : Field := ⟨.MSU_CNT, 31, 0, .ro, 0, .num⟩
/-! R308 (08_hbm_and_memory_tiers.md) -/
abbrev DM_STRM_CFG_EN : Field := ⟨.DM_STRM_CFG, 63, 63, .rw, 0, .num⟩
abbrev DM_STRM_CFG_SLOTS : Field := ⟨.DM_STRM_CFG, 62, 61, .rw, 2, .num⟩
abbrev DM_STRM_CFG_CTR : Field := ⟨.DM_STRM_CFG, 60, 56, .rw, 0, .num⟩
abbrev DM_STRM_CFG_NEXT : Field := ⟨.DM_STRM_CFG, 51, 50, .ro, 0, .num⟩
abbrev DM_STRM_CFG_FILLS : Field := ⟨.DM_STRM_CFG, 47, 32, .ro, 0, .num⟩
abbrev DM_STRM_CFG_SLOT_M1 : Field := ⟨.DM_STRM_CFG, 31, 20, .rw, 0, .num⟩
abbrev DM_STRM_CFG_BASE : Field := ⟨.DM_STRM_CFG, 19, 0, .rw, 0, .num⟩
/-! R341 (09_on_die_networks.md) -/
abbrev MESH_ID_REV : Field := ⟨.MESH_ID, 15, 8, .ro, 0xb0, .num⟩
abbrev MESH_ID_DEAD : Field := ⟨.MESH_ID, 7, 7, .ro, 0, .num⟩
abbrev MESH_ID_DIE : Field := ⟨.MESH_ID, 6, 6, .ro, 0, .unit⟩
abbrev MESH_ID_CLUSTER : Field := ⟨.MESH_ID, 5, 0, .ro, 0, .unit⟩
/-! R343 (09_on_die_networks.md) -/
abbrev MESH_EVT_COMB_FULL : Field := ⟨.MESH_EVT, 7, 7, .w1c, 0, .num⟩
abbrev MESH_EVT_MC_INVALID : Field := ⟨.MESH_EVT, 6, 6, .w1c, 0, .num⟩
abbrev MESH_EVT_BAD_PKT : Field := ⟨.MESH_EVT, 5, 5, .w1c, 0, .num⟩
abbrev MESH_EVT_DEAD_REFUSE : Field := ⟨.MESH_EVT, 4, 4, .w1c, 0, .num⟩
abbrev MESH_EVT_FENCED_REFUSE : Field := ⟨.MESH_EVT, 3, 3, .w1c, 0, .num⟩
abbrev MESH_EVT_ROUTE_MISMATCH : Field := ⟨.MESH_EVT, 2, 2, .w1c, 0, .num⟩
abbrev MESH_EVT_ECC : Field := ⟨.MESH_EVT, 1, 1, .w1c, 0, .num⟩
abbrev MESH_EVT_ECC_CORR : Field := ⟨.MESH_EVT, 0, 0, .w1c, 0, .num⟩
/-! R344 (09_on_die_networks.md) -/
abbrev MESH_EVT_EN_EN : Field := ⟨.MESH_EVT_EN, 7, 0, .rw, 38, .num⟩
/-! R345 (09_on_die_networks.md) -/
abbrev MESH_COMB_HIGH_WATER : Field := ⟨.MESH_COMB, 22, 16, .ro, 0, .num⟩
abbrev MESH_COMB_IN_USE : Field := ⟨.MESH_COMB, 6, 0, .ro, 0, .num⟩
/-! R347 (09_on_die_networks.md) -/
abbrev MESH_FAULT_LOG_VALID : Field := ⟨.MESH_FAULT_LOG, 63, 63, .w1c, 0, .num⟩
abbrev MESH_FAULT_LOG_KIND : Field := ⟨.MESH_FAULT_LOG, 62, 61, .ro, 0, .num⟩
abbrev MESH_FAULT_LOG_PORT : Field := ⟨.MESH_FAULT_LOG, 60, 58, .ro, 0, .num⟩
abbrev MESH_FAULT_LOG_VC : Field := ⟨.MESH_FAULT_LOG, 57, 56, .ro, 0, .num⟩
abbrev MESH_FAULT_LOG_DNODE : Field := ⟨.MESH_FAULT_LOG, 55, 48, .ro, 0, .num⟩
/-! R348 (09_on_die_networks.md) -/
abbrev MESH_ROUTE_ENTRIES : Field := ⟨.MESH_ROUTE, 63, 0, .rw, 0, .num⟩
/-! R349 (09_on_die_networks.md) -/
abbrev MESH_MC_VALID : Field := ⟨.MESH_MC, 31, 31, .rw, 0, .num⟩
abbrev MESH_MC_BRANCH : Field := ⟨.MESH_MC, 20, 16, .rw, 0, .num⟩
abbrev MESH_MC_CORES : Field := ⟨.MESH_MC, 15, 0, .rw, 0, .num⟩
/-! R350 (09_on_die_networks.md) -/
abbrev SYNC_LWIN_EN : Field := ⟨.SYNC_LWIN, 63, 63, .rw, 0, .num⟩
abbrev SYNC_LWIN_SIZE_M1 : Field := ⟨.SYNC_LWIN, 45, 32, .rw, 0, .num⟩
abbrev SYNC_LWIN_BASE : Field := ⟨.SYNC_LWIN, 19, 0, .rw, 0, .num⟩
/-! R351 (09_on_die_networks.md) -/
abbrev SYNC_LAND_LANDED : Field := ⟨.SYNC_LAND, 63, 32, .ro, 0, .num⟩
abbrev SYNC_LAND_CLAIMED : Field := ⟨.SYNC_LAND, 31, 0, .ro, 0, .num⟩
/-! R352 (09_on_die_networks.md) -/
abbrev SYNC_PEND_HIGH_WATER : Field := ⟨.SYNC_PEND, 20, 16, .ro, 0, .num⟩
abbrev SYNC_PEND_IN_USE : Field := ⟨.SYNC_PEND, 4, 0, .ro, 0, .num⟩
/-! R354 (09_on_die_networks.md) -/
abbrev SYNC_BAD_LOG_VALID : Field := ⟨.SYNC_BAD_LOG, 63, 63, .w1c, 0, .num⟩
abbrev SYNC_BAD_LOG_MOD : Field := ⟨.SYNC_BAD_LOG, 47, 32, .ro, 0, .num⟩
abbrev SYNC_BAD_LOG_SCORE : Field := ⟨.SYNC_BAD_LOG, 20, 10, .ro, 0, .num⟩
abbrev SYNC_BAD_LOG_CTR : Field := ⟨.SYNC_BAD_LOG, 9, 5, .ro, 0, .num⟩
abbrev SYNC_BAD_LOG_WIN : Field := ⟨.SYNC_BAD_LOG, 3, 0, .ro, 0, .num⟩
/-! R381 (10_synchronisation.md) -/
abbrev SU_CTR_CTR3 : Field := ⟨.SU_CTR, 63, 48, .rw, 0, .num⟩
abbrev SU_CTR_CTR2 : Field := ⟨.SU_CTR, 47, 32, .rw, 0, .num⟩
abbrev SU_CTR_CTR1 : Field := ⟨.SU_CTR, 31, 16, .rw, 0, .num⟩
abbrev SU_CTR_CTR0 : Field := ⟨.SU_CTR, 15, 0, .rw, 0, .num⟩
/-! R382 (10_synchronisation.md) -/
abbrev SU_FLAG_OVF : Field := ⟨.SU_FLAG, 63, 32, .w1c, 0, .num⟩
abbrev SU_FLAG_UNF : Field := ⟨.SU_FLAG, 31, 0, .w1c, 0, .num⟩
/-! R383 (10_synchronisation.md) -/
abbrev SU_EVT_ILLEGAL : Field := ⟨.SU_EVT, 6, 6, .w1c, 0, .num⟩
abbrev SU_EVT_DRIFT : Field := ⟨.SU_EVT, 5, 5, .w1c, 0, .num⟩
abbrev SU_EVT_CREDIT_FAULT : Field := ⟨.SU_EVT, 4, 4, .w1c, 0, .num⟩
abbrev SU_EVT_GEN_FAULT : Field := ⟨.SU_EVT, 3, 3, .w1c, 0, .num⟩
abbrev SU_EVT_BAR_REFUSED : Field := ⟨.SU_EVT, 2, 2, .w1c, 0, .num⟩
abbrev SU_EVT_UNF : Field := ⟨.SU_EVT, 1, 1, .w1c, 0, .num⟩
abbrev SU_EVT_OVF : Field := ⟨.SU_EVT, 0, 0, .w1c, 0, .num⟩
/-! R384 (10_synchronisation.md) -/
abbrev SU_EVT_EN_EN : Field := ⟨.SU_EVT_EN, 6, 0, .rw, 92, .num⟩
/-! R385 (10_synchronisation.md) -/
abbrev SU_LOG_VALID : Field := ⟨.SU_LOG, 63, 63, .w1c, 0, .num⟩
abbrev SU_LOG_REASON : Field := ⟨.SU_LOG, 62, 60, .ro, 0, .num⟩
abbrev SU_LOG_CTR : Field := ⟨.SU_LOG, 59, 55, .ro, 0, .num⟩
abbrev SU_LOG_CHAN : Field := ⟨.SU_LOG, 54, 52, .ro, 0, .num⟩
abbrev SU_LOG_SLOT : Field := ⟨.SU_LOG, 51, 46, .ro, 0, .num⟩
abbrev SU_LOG_GROUP : Field := ⟨.SU_LOG, 45, 39, .ro, 0, .num⟩
abbrev SU_LOG_VALUE : Field := ⟨.SU_LOG, 38, 23, .ro, 0, .num⟩
abbrev SU_LOG_CMD_ID : Field := ⟨.SU_LOG, 9, 0, .ro, 0, .num⟩
/-! R386 (10_synchronisation.md) -/
abbrev SU_CCH_EN : Field := ⟨.SU_CCH, 63, 63, .rw, 0, .num⟩
abbrev SU_CCH_PRIV : Field := ⟨.SU_CCH, 62, 62, .hubOnly, 0, .num⟩
abbrev SU_CCH_CTR : Field := ⟨.SU_CCH, 57, 53, .rw, 0, .num⟩
abbrev SU_CCH_CAP : Field := ⟨.SU_CCH, 47, 32, .rw, 0xffff, .num⟩
abbrev SU_CCH_REST : Field := ⟨.SU_CCH, 31, 16, .rw, 0, .num⟩
abbrev SU_CCH_DRIFT : Field := ⟨.SU_CCH, 15, 0, .ro, 0, .num⟩
/-! R387 (10_synchronisation.md) -/
abbrev SU_GMAP_ENTRIES : Field := ⟨.SU_GMAP, 63, 0, .hubOnly, 0, .num⟩
/-! R388 (10_synchronisation.md) -/
abbrev SU_BAR_MEMBER : Field := ⟨.SU_BAR, 63, 63, .hubOnly, 0, .num⟩
abbrev SU_BAR_ARRIVED : Field := ⟨.SU_BAR, 62, 62, .ro, 0, .num⟩
abbrev SU_BAR_FAULTED : Field := ⟨.SU_BAR, 61, 61, .ro, 0, .num⟩
abbrev SU_BAR_REALIGN : Field := ⟨.SU_BAR, 60, 60, .ro, 0, .num⟩
abbrev SU_BAR_CTR : Field := ⟨.SU_BAR, 44, 40, .ro, 0, .num⟩
abbrev SU_BAR_RMASK : Field := ⟨.SU_BAR, 39, 32, .ro, 0, .num⟩
abbrev SU_BAR_GEN : Field := ⟨.SU_BAR, 15, 0, .ro, 0, .num⟩
/-! R429 (11_evpen_links.md) -/
abbrev EVL_STATUS_PARTNER_MOD : Field := ⟨.EVL_STATUS, 63, 48, .ro, 0, .num⟩
abbrev EVL_STATUS_PARTNER_LINK : Field := ⟨.EVL_STATUS, 47, 42, .ro, 0, .num⟩
abbrev EVL_STATUS_RETRAINS : Field := ⟨.EVL_STATUS, 31, 16, .ro, 0, .num⟩
abbrev EVL_STATUS_RATE : Field := ⟨.EVL_STATUS, 7, 6, .ro, 0, .num⟩
abbrev EVL_STATUS_STATE : Field := ⟨.EVL_STATUS, 2, 0, .ro, 0, .num⟩
/-! R430 (11_evpen_links.md) -/
abbrev EVL_CFG_EN : Field := ⟨.EVL_CFG, 31, 31, .rw, 0, .nv⟩
abbrev EVL_CFG_MAX_RATE : Field := ⟨.EVL_CFG, 30, 29, .rwl, 0, .nv⟩
abbrev EVL_CFG_UCW_LIMIT : Field := ⟨.EVL_CFG, 23, 16, .rw, 16, .num⟩
abbrev EVL_CFG_RETRY_LIMIT : Field := ⟨.EVL_CFG, 15, 8, .rw, 8, .num⟩
abbrev EVL_CFG_ACK_TIMEOUT : Field := ⟨.EVL_CFG, 7, 0, .rw, 10, .num⟩
/-! R431 (11_evpen_links.md) -/
abbrev EVL_EVT_CREDIT_STALL : Field := ⟨.EVL_EVT, 7, 7, .w1c, 0, .num⟩
abbrev EVL_EVT_CREDIT_OVER : Field := ⟨.EVL_EVT, 6, 6, .w1c, 0, .num⟩
abbrev EVL_EVT_SEQ_ERR : Field := ⟨.EVL_EVT, 5, 5, .w1c, 0, .num⟩
abbrev EVL_EVT_FALLBACK : Field := ⟨.EVL_EVT, 4, 4, .w1c, 0, .num⟩
abbrev EVL_EVT_FEC_UCW : Field := ⟨.EVL_EVT, 3, 3, .w1c, 0, .num⟩
abbrev EVL_EVT_CRC_FAIL : Field := ⟨.EVL_EVT, 2, 2, .w1c, 0, .num⟩
abbrev EVL_EVT_RETRAIN : Field := ⟨.EVL_EVT, 1, 1, .w1c, 0, .num⟩
abbrev EVL_EVT_DOWN : Field := ⟨.EVL_EVT, 0, 0, .w1c, 0, .num⟩
/-! R432 (11_evpen_links.md) -/
abbrev EVL_EVT_EN_EN : Field := ⟨.EVL_EVT_EN, 7, 0, .rw, 99, .num⟩
/-! R433 (11_evpen_links.md) -/
abbrev EVL_ERR_CNT_UCW : Field := ⟨.EVL_ERR_CNT, 63, 48, .ro, 0, .num⟩
abbrev EVL_ERR_CNT_CRC : Field := ⟨.EVL_ERR_CNT, 47, 32, .ro, 0, .num⟩
abbrev EVL_ERR_CNT_CORR_SYM : Field := ⟨.EVL_ERR_CNT, 31, 0, .ro, 0, .num⟩
/-! R434 (11_evpen_links.md) -/
abbrev EVL_CRED_VC3 : Field := ⟨.EVL_CRED, 63, 48, .ro, 0, .num⟩
abbrev EVL_CRED_VC2 : Field := ⟨.EVL_CRED, 47, 32, .ro, 0, .num⟩
abbrev EVL_CRED_VC1 : Field := ⟨.EVL_CRED, 31, 16, .ro, 0, .num⟩
abbrev EVL_CRED_VC0 : Field := ⟨.EVL_CRED, 15, 0, .ro, 0, .num⟩
/-! R435 (11_evpen_links.md) -/
abbrev EVL_REPLAY_NEXT_SEQ : Field := ⟨.EVL_REPLAY, 27, 16, .ro, 0, .num⟩
abbrev EVL_REPLAY_UNACKED : Field := ⟨.EVL_REPLAY, 11, 0, .ro, 0, .num⟩
/-! R436 (11_evpen_links.md) -/
abbrev EVL_MODID_MOD_ID : Field := ⟨.EVL_MODID, 15, 0, .rwl, 0, .nv⟩
/-! R437 (11_evpen_links.md) -/
abbrev EVL_TAGS_HIGH_WATER : Field := ⟨.EVL_TAGS, 50, 32, .ro, 0, .num⟩
abbrev EVL_TAGS_IN_USE : Field := ⟨.EVL_TAGS, 18, 0, .ro, 0, .num⟩
/-! R438 (11_evpen_links.md) -/
abbrev EVL_TAG_CFG_TIMEOUT : Field := ⟨.EVL_TAG_CFG, 15, 0, .rwl, 0, .nv⟩
/-! R439 (11_evpen_links.md) -/
abbrev EVL_COM_EVT_RING_UNPINNED : Field := ⟨.EVL_COM_EVT, 6, 6, .w1c, 0, .num⟩
abbrev EVL_COM_EVT_ROUTE_ALT : Field := ⟨.EVL_COM_EVT, 5, 5, .w1c, 0, .num⟩
abbrev EVL_COM_EVT_LATE_ANSWER : Field := ⟨.EVL_COM_EVT, 4, 4, .w1c, 0, .num⟩
abbrev EVL_COM_EVT_TAG_TIMEOUT : Field := ⟨.EVL_COM_EVT, 3, 3, .w1c, 0, .num⟩
abbrev EVL_COM_EVT_TAG_STALL : Field := ⟨.EVL_COM_EVT, 2, 2, .w1c, 0, .num⟩
abbrev EVL_COM_EVT_MC_DROP : Field := ⟨.EVL_COM_EVT, 1, 1, .w1c, 0, .num⟩
abbrev EVL_COM_EVT_UNROUTABLE : Field := ⟨.EVL_COM_EVT, 0, 0, .w1c, 0, .num⟩
/-! R440 (11_evpen_links.md) -/
abbrev EVL_COM_EVT_EN_EN : Field := ⟨.EVL_COM_EVT_EN, 6, 0, .rw, 9, .num⟩
/-! R441 (11_evpen_links.md) -/
abbrev EVL_DROP_CNT_TIMEOUT : Field := ⟨.EVL_DROP_CNT, 63, 32, .ro, 0, .num⟩
abbrev EVL_DROP_CNT_UNROUTABLE : Field := ⟨.EVL_DROP_CNT, 31, 0, .ro, 0, .num⟩
/-! R442 (11_evpen_links.md) -/
abbrev EVL_UNROUT_LOG_VALID : Field := ⟨.EVL_UNROUT_LOG, 63, 63, .w1c, 0, .num⟩
abbrev EVL_UNROUT_LOG_VC : Field := ⟨.EVL_UNROUT_LOG, 62, 61, .ro, 0, .num⟩
abbrev EVL_UNROUT_LOG_LINK : Field := ⟨.EVL_UNROUT_LOG, 60, 55, .ro, 0, .num⟩
abbrev EVL_UNROUT_LOG_MOD : Field := ⟨.EVL_UNROUT_LOG, 47, 32, .ro, 0, .num⟩
abbrev EVL_UNROUT_LOG_SMOD : Field := ⟨.EVL_UNROUT_LOG, 31, 16, .ro, 0, .num⟩
/-! R443 (11_evpen_links.md) -/
abbrev EVL_RING_CFG_VALID : Field := ⟨.EVL_RING_CFG, 63, 63, .rw, 0, .num⟩
abbrev EVL_RING_CFG_NLINKS_M1 : Field := ⟨.EVL_RING_CFG, 62, 61, .rw, 0, .num⟩
abbrev EVL_RING_CFG_SHARE : Field := ⟨.EVL_RING_CFG, 60, 57, .rw, 0, .num⟩
abbrev EVL_RING_CFG_LINK3 : Field := ⟨.EVL_RING_CFG, 47, 42, .rw, 0, .num⟩
abbrev EVL_RING_CFG_LINK2 : Field := ⟨.EVL_RING_CFG, 41, 36, .rw, 0, .num⟩
abbrev EVL_RING_CFG_LINK1 : Field := ⟨.EVL_RING_CFG, 35, 30, .rw, 0, .num⟩
abbrev EVL_RING_CFG_LINK0 : Field := ⟨.EVL_RING_CFG, 29, 24, .rw, 0, .num⟩
abbrev EVL_RING_CFG_DMOD : Field := ⟨.EVL_RING_CFG, 15, 0, .rw, 0, .num⟩
/-! R444 (11_evpen_links.md) -/
abbrev EVL_RING_RANGE_SIZE_M1 : Field := ⟨.EVL_RING_RANGE, 63, 48, .rw, 0, .num⟩
abbrev EVL_RING_RANGE_BASE : Field := ⟨.EVL_RING_RANGE, 47, 0, .rw, 0, .num⟩
/-! R445 (11_evpen_links.md) -/
abbrev EVL_ROUTE_VALID : Field := ⟨.EVL_ROUTE, 31, 31, .rw, 0, .nv⟩
abbrev EVL_ROUTE_ALT_VALID : Field := ⟨.EVL_ROUTE, 30, 30, .rw, 0, .nv⟩
abbrev EVL_ROUTE_PRIMARY : Field := ⟨.EVL_ROUTE, 29, 24, .rw, 0, .nv⟩
abbrev EVL_ROUTE_ALT : Field := ⟨.EVL_ROUTE, 23, 18, .rw, 0, .nv⟩
abbrev EVL_ROUTE_HOPS : Field := ⟨.EVL_ROUTE, 17, 10, .rw, 0, .nv⟩
/-! R446 (11_evpen_links.md) -/
abbrev EVL_MC_VALID : Field := ⟨.EVL_MC, 63, 63, .rw, 0, .num⟩
abbrev EVL_MC_LOCAL : Field := ⟨.EVL_MC, 62, 62, .rw, 0, .num⟩
abbrev EVL_MC_IN_LINK : Field := ⟨.EVL_MC, 61, 56, .rw, 0, .num⟩
abbrev EVL_MC_OUT : Field := ⟨.EVL_MC, 35, 0, .rw, 0, .num⟩
/-! R471 (12_gradient_reduction.md) -/
abbrev MSU_RCH_EVT_PEND_FULL : Field := ⟨.MSU_RCH_EVT, 7, 7, .w1c, 0, .num⟩
abbrev MSU_RCH_EVT_STALE : Field := ⟨.MSU_RCH_EVT, 6, 6, .w1c, 0, .num⟩
abbrev MSU_RCH_EVT_EARLY : Field := ⟨.MSU_RCH_EVT, 5, 5, .w1c, 0, .num⟩
abbrev MSU_RCH_EVT_BAD_LEN : Field := ⟨.MSU_RCH_EVT, 4, 4, .w1c, 0, .num⟩
abbrev MSU_RCH_EVT_FMT : Field := ⟨.MSU_RCH_EVT, 3, 3, .w1c, 0, .num⟩
abbrev MSU_RCH_EVT_SAT : Field := ⟨.MSU_RCH_EVT, 2, 2, .w1c, 0, .num⟩
abbrev MSU_RCH_EVT_NAN : Field := ⟨.MSU_RCH_EVT, 1, 1, .w1c, 0, .num⟩
abbrev MSU_RCH_EVT_REDUCE_CHECK : Field := ⟨.MSU_RCH_EVT, 0, 0, .w1c, 0, .num⟩
abbrev MSU_RCH_EVT_EN_EN : Field := ⟨.MSU_RCH_EVT_EN, 7, 0, .rw, 3, .num⟩
/-! R472 (12_gradient_reduction.md) -/
abbrev MSU_RCH_NAN_LOG_VALID : Field := ⟨.MSU_RCH_NAN_LOG, 63, 63, .w1c, 0, .num⟩
abbrev MSU_RCH_NAN_LOG_RCHAN : Field := ⟨.MSU_RCH_NAN_LOG, 62, 53, .ro, 0, .num⟩
abbrev MSU_RCH_NAN_LOG_SRCIX : Field := ⟨.MSU_RCH_NAN_LOG, 52, 41, .ro, 0, .num⟩
abbrev MSU_RCH_NAN_LOG_BLOCK : Field := ⟨.MSU_RCH_NAN_LOG, 40, 21, .ro, 0, .num⟩
abbrev MSU_RCH_NAN_LOG_ELEM : Field := ⟨.MSU_RCH_NAN_LOG, 20, 16, .ro, 0, .num⟩
abbrev MSU_RCH_NAN_LOG_SMOD : Field := ⟨.MSU_RCH_NAN_LOG, 15, 0, .ro, 0, .num⟩
/-! R473 (12_gradient_reduction.md) -/
abbrev MSU_RCH_CHK_LOG_VALID : Field := ⟨.MSU_RCH_CHK_LOG, 63, 63, .w1c, 0, .num⟩
abbrev MSU_RCH_CHK_LOG_RCHAN : Field := ⟨.MSU_RCH_CHK_LOG, 62, 53, .ro, 0, .num⟩
abbrev MSU_RCH_CHK_LOG_BLOCK : Field := ⟨.MSU_RCH_CHK_LOG, 52, 33, .ro, 0, .num⟩
abbrev MSU_RCH_CHK_LOG_ELEM : Field := ⟨.MSU_RCH_CHK_LOG, 32, 28, .ro, 0, .num⟩
abbrev MSU_RCH_CHK_LOG_DIFF_EXP : Field := ⟨.MSU_RCH_CHK_LOG, 27, 20, .ro, 0, .num⟩
abbrev MSU_RCH_CHK_LOG_STEP8 : Field := ⟨.MSU_RCH_CHK_LOG, 19, 12, .ro, 0, .num⟩
abbrev MSU_RCH_CHK_LOG_KIND : Field := ⟨.MSU_RCH_CHK_LOG, 11, 11, .ro, 0, .num⟩
/-! R474 (12_gradient_reduction.md) -/
abbrev MSU_RCH_ERR_CNT_EARLY : Field := ⟨.MSU_RCH_ERR_CNT, 63, 48, .ro, 0, .num⟩
abbrev MSU_RCH_ERR_CNT_STALE : Field := ⟨.MSU_RCH_ERR_CNT, 47, 32, .ro, 0, .num⟩
abbrev MSU_RCH_ERR_CNT_BAD_LEN : Field := ⟨.MSU_RCH_ERR_CNT, 31, 16, .ro, 0, .num⟩
abbrev MSU_RCH_ERR_CNT_CLOSED : Field := ⟨.MSU_RCH_ERR_CNT, 15, 0, .ro, 0, .num⟩
/-! R475 (12_gradient_reduction.md) -/
abbrev MSU_RCH_PEND_HIGH_WATER : Field := ⟨.MSU_RCH_PEND, 28, 16, .ro, 0, .num⟩
abbrev MSU_RCH_PEND_IN_USE : Field := ⟨.MSU_RCH_PEND, 12, 0, .ro, 0, .num⟩
/-! R477 (12_gradient_reduction.md) -/
abbrev DM_RCH_CNT_SAT : Field := ⟨.DM_RCH_CNT, 63, 32, .ro, 0, .num⟩
abbrev DM_RCH_CNT_BLOCKS : Field := ⟨.DM_RCH_CNT, 31, 0, .ro, 0, .num⟩
/-! R498 (13_time_reference.md) -/
abbrev TIME_CFG_HOLD_MAX : Field := ⟨.TIME_CFG, 63, 48, .rwl, 0, .nv⟩
abbrev TIME_CFG_XCHK_LIMIT : Field := ⟨.TIME_CFG, 39, 30, .rwl, 0, .nv⟩
abbrev TIME_CFG_ROLE : Field := ⟨.TIME_CFG, 29, 28, .rwl, 0, .nv⟩
abbrev TIME_CFG_SOURCE : Field := ⟨.TIME_CFG, 27, 26, .rwl, 0, .nv⟩
abbrev TIME_CFG_PRIO : Field := ⟨.TIME_CFG, 25, 18, .rwl, 0, .nv⟩
abbrev TIME_CFG_SYNC_LOG : Field := ⟨.TIME_CFG, 17, 14, .rwl, 0, .nv⟩
abbrev TIME_CFG_ANN_LOG : Field := ⟨.TIME_CFG, 13, 10, .rwl, 0, .nv⟩
abbrev TIME_CFG_PPS_OUT_EN : Field := ⟨.TIME_CFG, 9, 9, .rw, 1, .num⟩
abbrev TIME_CFG_REF_OUT_EN : Field := ⟨.TIME_CFG, 8, 8, .rw, 1, .num⟩
/-! R499 (13_time_reference.md) -/
abbrev TIME_STATUS_VALID : Field := ⟨.TIME_STATUS, 31, 31, .ro, 0, .num⟩
abbrev TIME_STATUS_STATE : Field := ⟨.TIME_STATUS, 30, 28, .ro, 0, .num⟩
abbrev TIME_STATUS_QUAL : Field := ⟨.TIME_STATUS, 27, 26, .ro, 3, .num⟩
abbrev TIME_STATUS_UPLINK : Field := ⟨.TIME_STATUS, 25, 20, .ro, 63, .num⟩
abbrev TIME_STATUS_STEPS : Field := ⟨.TIME_STATUS, 19, 12, .ro, 0, .num⟩
abbrev TIME_STATUS_PPS_IN_OK : Field := ⟨.TIME_STATUS, 11, 11, .ro, 0, .num⟩
abbrev TIME_STATUS_REF_IN_OK : Field := ⟨.TIME_STATUS, 10, 10, .ro, 0, .num⟩
/-! R502 (13_time_reference.md) -/
abbrev TIME_INC_INC : Field := ⟨.TIME_INC, 39, 0, .ro, 0x666666666, .num⟩
/-! R503 (13_time_reference.md) -/
abbrev TIME_MEAS_DELAY : Field := ⟨.TIME_MEAS, 63, 32, .ro, 0, .num⟩
abbrev TIME_MEAS_OFFSET : Field := ⟨.TIME_MEAS, 31, 0, .ro, 0, .num⟩
/-! R504 (13_time_reference.md) -/
abbrev TIME_GM_GM_ID : Field := ⟨.TIME_GM, 63, 48, .ro, 0, .num⟩
abbrev TIME_GM_UTC_OFFSET : Field := ⟨.TIME_GM, 47, 32, .ro, 0, .num⟩
abbrev TIME_GM_LEAP61 : Field := ⟨.TIME_GM, 31, 31, .ro, 0, .num⟩
abbrev TIME_GM_LEAP59 : Field := ⟨.TIME_GM, 30, 30, .ro, 0, .num⟩
/-! R505 (13_time_reference.md) -/
abbrev TIME_SERVO_KI : Field := ⟨.TIME_SERVO, 31, 16, .rwl, 0, .nv⟩
abbrev TIME_SERVO_KP : Field := ⟨.TIME_SERVO, 15, 0, .rwl, 0, .nv⟩
/-! R506 (13_time_reference.md) -/
abbrev TIME_EVT_CNT_MISMATCH : Field := ⟨.TIME_EVT, 8, 8, .w1c, 0, .num⟩
abbrev TIME_EVT_FREQ_FAULT : Field := ⟨.TIME_EVT, 7, 7, .w1c, 0, .num⟩
abbrev TIME_EVT_XCHK : Field := ⟨.TIME_EVT, 6, 6, .w1c, 0, .num⟩
abbrev TIME_EVT_INVALID : Field := ⟨.TIME_EVT, 5, 5, .w1c, 0, .num⟩
abbrev TIME_EVT_HOLDOVER : Field := ⟨.TIME_EVT, 4, 4, .w1c, 0, .num⟩
abbrev TIME_EVT_MASTER_CHANGE : Field := ⟨.TIME_EVT, 3, 3, .w1c, 0, .num⟩
abbrev TIME_EVT_INPUT_LOST : Field := ⟨.TIME_EVT, 2, 2, .w1c, 0, .num⟩
abbrev TIME_EVT_OUTLIER : Field := ⟨.TIME_EVT, 1, 1, .w1c, 0, .num⟩
abbrev TIME_EVT_LOCK : Field := ⟨.TIME_EVT, 0, 0, .w1c, 0, .num⟩
abbrev TIME_EVT_EN_EN : Field := ⟨.TIME_EVT_EN, 8, 0, .rw, 0x1f8, .num⟩
/-! R507 (13_time_reference.md) -/
abbrev TIME_ASYM_ASYM : Field := ⟨.TIME_ASYM, 31, 0, .rwl, 0, .nv⟩
/-! R551 (15_tasks_speculation_checkpoints.md) -/
abbrev CC_CKPT_INSTAR : Field := ⟨.CC_CKPT, 63, 32, .ro, 0, .num⟩
abbrev CC_CKPT_VALID : Field := ⟨.CC_CKPT, 31, 31, .ro, 0, .num⟩
abbrev CC_CKPT_RESUMED : Field := ⟨.CC_CKPT, 30, 30, .ro, 0, .num⟩
abbrev CC_CKPT_PENDING : Field := ⟨.CC_CKPT, 29, 29, .ro, 0, .num⟩
/-! R556 (15_tasks_speculation_checkpoints.md) -/
abbrev HUBC_CTX_LOW_WATER : Field := ⟨.HUBC_CTX, 27, 16, .ro, 0xc00, .num⟩
abbrev HUBC_CTX_FREE : Field := ⟨.HUBC_CTX, 11, 0, .ro, 0xc00, .num⟩
/-! R557 (15_tasks_speculation_checkpoints.md) -/
abbrev HUBC_ALIAS_ALIAS_EN : Field := ⟨.HUBC_ALIAS, 31, 31, .hubOnly, 0, .num⟩
abbrev HUBC_ALIAS_ALIAS_ID : Field := ⟨.HUBC_ALIAS, 15, 0, .hubOnly, 0, .num⟩
/-! R580 (16_start_up_and_discovery.md) -/
abbrev NVCF_STATUS_CFG_SEQ : Field := ⟨.NVCF_STATUS, 63, 32, .ro, 0, .num⟩
abbrev NVCF_STATUS_PHASE : Field := ⟨.NVCF_STATUS, 31, 28, .ro, 0, .num⟩
abbrev NVCF_STATUS_READY : Field := ⟨.NVCF_STATUS, 27, 27, .ro, 0, .num⟩
abbrev NVCF_STATUS_CHRYSALIS : Field := ⟨.NVCF_STATUS, 26, 26, .ro, 0, .num⟩
abbrev NVCF_STATUS_LOADING : Field := ⟨.NVCF_STATUS, 25, 25, .ro, 0, .num⟩
abbrev NVCF_STATUS_FIRST_USE : Field := ⟨.NVCF_STATUS, 24, 24, .ro, 0, .num⟩
abbrev NVCF_STATUS_FW_COPY : Field := ⟨.NVCF_STATUS, 23, 23, .ro, 0, .num⟩
abbrev NVCF_STATUS_CFG_COPY : Field := ⟨.NVCF_STATUS, 22, 22, .ro, 0, .num⟩
abbrev NVCF_STATUS_ATTEMPTS : Field := ⟨.NVCF_STATUS, 21, 19, .ro, 0, .backup⟩
abbrev NVCF_STATUS_LIMIT : Field := ⟨.NVCF_STATUS, 18, 16, .ro, 0, .backup⟩
abbrev NVCF_STATUS_CHRY_CAUSE : Field := ⟨.NVCF_STATUS, 15, 12, .ro, 0, .num⟩
/-! R581 (16_start_up_and_discovery.md) -/
abbrev NVCF_EVT_ALIAS : Field := ⟨.NVCF_EVT, 10, 10, .w1c, 0, .num⟩
abbrev NVCF_EVT_SILENT : Field := ⟨.NVCF_EVT, 9, 9, .w1c, 0, .num⟩
abbrev NVCF_EVT_REG_REFUSED : Field := ⟨.NVCF_EVT, 8, 8, .w1c, 0, .num⟩
abbrev NVCF_EVT_LOAD_FAIL : Field := ⟨.NVCF_EVT, 7, 7, .w1c, 0, .num⟩
abbrev NVCF_EVT_TIME_LATE : Field := ⟨.NVCF_EVT, 6, 6, .w1c, 0, .num⟩
abbrev NVCF_EVT_NEIGHBOUR : Field := ⟨.NVCF_EVT, 5, 5, .w1c, 0, .num⟩
abbrev NVCF_EVT_LINK_LATE : Field := ⟨.NVCF_EVT, 4, 4, .w1c, 0, .num⟩
abbrev NVCF_EVT_DIE_FAIL : Field := ⟨.NVCF_EVT, 3, 3, .w1c, 0, .num⟩
abbrev NVCF_EVT_BOOT_BLOCK : Field := ⟨.NVCF_EVT, 2, 2, .w1c, 0, .num⟩
abbrev NVCF_EVT_CFG_A_BAD : Field := ⟨.NVCF_EVT, 1, 1, .w1c, 0, .num⟩
abbrev NVCF_EVT_FW_A_BAD : Field := ⟨.NVCF_EVT, 0, 0, .w1c, 0, .num⟩
abbrev NVCF_EVT_EN_EN : Field := ⟨.NVCF_EVT_EN, 10, 0, .rw, 0x6eb, .num⟩
/-! R582 (16_start_up_and_discovery.md) -/
abbrev NVCF_CFG_TLOCK_MAX : Field := ⟨.NVCF_CFG, 63, 48, .rwl, 0, .nv⟩
abbrev NVCF_CFG_LINK_WAIT : Field := ⟨.NVCF_CFG, 47, 36, .rwl, 0, .nv⟩
abbrev NVCF_CFG_START_LIMIT : Field := ⟨.NVCF_CFG, 26, 24, .rwl, 0, .nv⟩
abbrev NVCF_CFG_HB_PERIOD : Field := ⟨.NVCF_CFG, 23, 16, .rwl, 0, .nv⟩
abbrev NVCF_CFG_HB_MISS : Field := ⟨.NVCF_CFG, 15, 12, .rwl, 0, .nv⟩
/-! R583 (16_start_up_and_discovery.md) -/
abbrev NVCF_FABRIC_FABRIC_ID : Field := ⟨.NVCF_FABRIC, 63, 32, .ro, 0, .num⟩
abbrev NVCF_FABRIC_FABRIC_GEN : Field := ⟨.NVCF_FABRIC, 31, 0, .ro, 0, .num⟩
/-! R585 (16_start_up_and_discovery.md) -/
abbrev NVCF_PHASE_T_TIME : Field := ⟨.NVCF_PHASE_T, 31, 0, .ro, 0xffffffff, .num⟩
/-! R586 (16_start_up_and_discovery.md) -/
abbrev NVCF_NB_ADMITTED : Field := ⟨.NVCF_NB, 63, 63, .ro, 0, .num⟩
abbrev NVCF_NB_RESULT : Field := ⟨.NVCF_NB, 62, 60, .ro, 0, .num⟩
abbrev NVCF_NB_EXPECT_MOD : Field := ⟨.NVCF_NB, 47, 32, .rwl, 0, .nv⟩
abbrev NVCF_NB_EXPECT_LINK : Field := ⟨.NVCF_NB, 31, 26, .rwl, 0, .nv⟩
abbrev NVCF_NB_SEEN_MOD : Field := ⟨.NVCF_NB, 15, 0, .ro, 0, .num⟩
/-! R613 (17_host_and_management_interfaces.md) -/
abbrev PCIE_STATUS_DSTATE : Field := ⟨.PCIE_STATUS, 11, 10, .ro, 0, .num⟩
abbrev PCIE_STATUS_FLIT : Field := ⟨.PCIE_STATUS, 9, 9, .ro, 0, .num⟩
abbrev PCIE_STATUS_DL_ACTIVE : Field := ⟨.PCIE_STATUS, 8, 8, .ro, 0, .num⟩
abbrev PCIE_STATUS_WIDTH : Field := ⟨.PCIE_STATUS, 7, 4, .ro, 0, .num⟩
abbrev PCIE_STATUS_SPEED : Field := ⟨.PCIE_STATUS, 3, 0, .ro, 0, .num⟩
/-! R614 (17_host_and_management_interfaces.md) -/
abbrev PCIE_EVT_EP_RECEIVED : Field := ⟨.PCIE_EVT, 5, 5, .w1c, 0, .num⟩
abbrev PCIE_EVT_BAR4_UR : Field := ⟨.PCIE_EVT, 4, 4, .w1c, 0, .num⟩
abbrev PCIE_EVT_HWIN_REFUSED : Field := ⟨.PCIE_EVT, 3, 3, .w1c, 0, .num⟩
abbrev PCIE_EVT_HDB_REFUSED : Field := ⟨.PCIE_EVT, 2, 2, .w1c, 0, .num⟩
abbrev PCIE_EVT_FLR : Field := ⟨.PCIE_EVT, 1, 1, .w1c, 0, .num⟩
abbrev PCIE_EVT_LINK_DOWN : Field := ⟨.PCIE_EVT, 0, 0, .w1c, 0, .num⟩
abbrev PCIE_EVT_EN_EN : Field := ⟨.PCIE_EVT_EN, 5, 0, .rw, 3, .num⟩
/-! R618 (17_host_and_management_interfaces.md) -/
abbrev HUBC_FUSE_MAP_FUSED : Field := ⟨.HUBC_FUSE_MAP, 47, 0, .ro, 0, .unit⟩
/-! R619 (17_host_and_management_interfaces.md) -/
abbrev HUBC_MGMT_MBX15_MGMT : Field := ⟨.HUBC_MGMT, 31, 31, .rwl, 0, .nv⟩
abbrev HUBC_MGMT_ETH_EN : Field := ⟨.HUBC_MGMT, 30, 30, .rwl, 0, .nv⟩
abbrev HUBC_MGMT_DBG_UNLOCKED : Field := ⟨.HUBC_MGMT, 29, 29, .ro, 0, .num⟩
abbrev HUBC_MGMT_SMB_ADDR : Field := ⟨.HUBC_MGMT, 22, 16, .ro, 0, .unit⟩
abbrev HUBC_MGMT_ETH_DROP : Field := ⟨.HUBC_MGMT, 15, 0, .ro, 0, .num⟩
/-! R642 (18_reset_and_clocks.md) -/
abbrev RST_HIST_SECONDS : Field := ⟨.RST_HIST, 63, 32, .ro, 0, .backup⟩
abbrev RST_HIST_VALID : Field := ⟨.RST_HIST, 31, 31, .ro, 0, .backup⟩
abbrev RST_HIST_REACH : Field := ⟨.RST_HIST, 30, 29, .ro, 0, .backup⟩
abbrev RST_HIST_PHASE : Field := ⟨.RST_HIST, 28, 25, .ro, 0, .backup⟩
abbrev RST_HIST_DOMAIN : Field := ⟨.RST_HIST, 21, 16, .ro, 0, .backup⟩
abbrev RST_HIST_CAUSE : Field := ⟨.RST_HIST, 9, 0, .ro, 0, .backup⟩
/-! R644 (18_reset_and_clocks.md) -/
abbrev RST_CTRL_KEY : Field := ⟨.RST_CTRL, 31, 16, .wo, 0, .num⟩
abbrev RST_CTRL_WARM : Field := ⟨.RST_CTRL, 0, 0, .wo, 0, .num⟩
/-! R646 (18_reset_and_clocks.md) -/
abbrev RST_CFG_DRAIN : Field := ⟨.RST_CFG, 23, 16, .rwl, 0, .nv⟩
abbrev RST_CFG_CORE_LIMIT : Field := ⟨.RST_CFG, 7, 0, .rwl, 0, .nv⟩
/-! R647 (18_reset_and_clocks.md) -/
abbrev RST_EVT_CORE_FENCED : Field := ⟨.RST_EVT, 2, 2, .w1c, 0, .num⟩
abbrev RST_EVT_CORE_RESET : Field := ⟨.RST_EVT, 1, 1, .w1c, 0, .num⟩
abbrev RST_EVT_HWDOG_WARN : Field := ⟨.RST_EVT, 0, 0, .w1c, 0, .num⟩
abbrev RST_EVT_EN_EN : Field := ⟨.RST_EVT_EN, 2, 0, .rw, 7, .num⟩
/-! R649 (18_reset_and_clocks.md) -/
abbrev CC_WDOG_EN : Field := ⟨.CC_WDOG, 31, 31, .rw, 0, .num⟩
abbrev CC_WDOG_PERIOD : Field := ⟨.CC_WDOG, 23, 0, .rw, 0, .num⟩
abbrev CC_WDOG_CNT_COUNT : Field := ⟨.CC_WDOG_CNT, 23, 0, .ro, 0, .num⟩
/-! R650 (18_reset_and_clocks.md) -/
abbrev CLK_STATUS_SCLKB_OK : Field := ⟨.CLK_STATUS, 5, 5, .ro, 0, .num⟩
abbrev CLK_STATUS_TCLK_OK : Field := ⟨.CLK_STATUS, 4, 4, .ro, 0, .num⟩
abbrev CLK_STATUS_C1_LOCK : Field := ⟨.CLK_STATUS, 3, 3, .ro, 0, .num⟩
abbrev CLK_STATUS_C0_LOCK : Field := ⟨.CLK_STATUS, 2, 2, .ro, 0, .num⟩
abbrev CLK_STATUS_ROOT_LOCK : Field := ⟨.CLK_STATUS, 1, 1, .ro, 0, .num⟩
abbrev CLK_STATUS_XO_OK : Field := ⟨.CLK_STATUS, 0, 0, .ro, 0, .num⟩
/-! R652 (18_reset_and_clocks.md) -/
abbrev CLK_EVT_ETH_CLK : Field := ⟨.CLK_EVT, 3, 3, .w1c, 0, .num⟩
abbrev CLK_EVT_PCIE_CLK : Field := ⟨.CLK_EVT, 2, 2, .w1c, 0, .num⟩
abbrev CLK_EVT_LINK_CLK : Field := ⟨.CLK_EVT, 1, 1, .w1c, 0, .num⟩
abbrev CLK_EVT_DEV : Field := ⟨.CLK_EVT, 0, 0, .w1c, 0, .num⟩
abbrev CLK_EVT_EN_EN : Field := ⟨.CLK_EVT_EN, 3, 0, .rw, 14, .num⟩
/-! R673 (19_power_cooling_and_hot_plug.md) -/
abbrev PWR_STATUS_STATE : Field := ⟨.PWR_STATUS, 27, 25, .ro, 1, .num⟩
abbrev PWR_STATUS_SHED : Field := ⟨.PWR_STATUS, 24, 24, .ro, 0, .num⟩
abbrev PWR_STATUS_EFUSE_CLOSED : Field := ⟨.PWR_STATUS, 23, 23, .ro, 0, .unit⟩
abbrev PWR_STATUS_EFUSE_TRIP : Field := ⟨.PWR_STATUS, 22, 20, .ro, 0, .backup⟩
abbrev PWR_STATUS_PRSNT : Field := ⟨.PWR_STATUS, 19, 19, .ro, 0, .unit⟩
/-! R674 (19_power_cooling_and_hot_plug.md) -/
abbrev PWR_IN_VIN : Field := ⟨.PWR_IN, 63, 48, .ro, 0, .num⟩
abbrev PWR_IN_IIN : Field := ⟨.PWR_IN, 47, 32, .ro, 0, .num⟩
abbrev PWR_IN_PIN : Field := ⟨.PWR_IN, 31, 16, .ro, 0, .num⟩
abbrev PWR_IN_PEAK : Field := ⟨.PWR_IN, 15, 0, .ro, 0, .num⟩
/-! R675 (19_power_cooling_and_hot_plug.md) -/
abbrev PWR_CFG_LIMIT : Field := ⟨.PWR_CFG, 31, 16, .rwl, 0, .nv⟩
abbrev PWR_CFG_IDLE_OFF : Field := ⟨.PWR_CFG, 15, 8, .rwl, 0, .nv⟩
abbrev PWR_CFG_SHED_EN : Field := ⟨.PWR_CFG, 0, 0, .rwl, 0, .nv⟩
/-! R676 (19_power_cooling_and_hot_plug.md) -/
abbrev PWR_EVT_RAIL_FAULT : Field := ⟨.PWR_EVT, 4, 4, .w1c, 0, .num⟩
abbrev PWR_EVT_SHED_END : Field := ⟨.PWR_EVT, 3, 3, .w1c, 0, .num⟩
abbrev PWR_EVT_SHED : Field := ⟨.PWR_EVT, 2, 2, .w1c, 0, .num⟩
abbrev PWR_EVT_OVER_PEAK : Field := ⟨.PWR_EVT, 1, 1, .w1c, 0, .num⟩
abbrev PWR_EVT_OVER_LIMIT : Field := ⟨.PWR_EVT, 0, 0, .w1c, 0, .num⟩
abbrev PWR_EVT_EN_EN : Field := ⟨.PWR_EVT_EN, 4, 0, .rw, 31, .num⟩
/-! R680 (19_power_cooling_and_hot_plug.md) -/
abbrev THM_COOL_T_IN : Field := ⟨.THM_COOL, 63, 48, .ro, 0, .num⟩
abbrev THM_COOL_T_OUT : Field := ⟨.THM_COOL, 47, 32, .ro, 0, .num⟩
abbrev THM_COOL_FLOW : Field := ⟨.THM_COOL, 31, 16, .ro, 0, .num⟩
abbrev THM_COOL_VALVE_CMD : Field := ⟨.THM_COOL, 15, 8, .ro, 0x64, .num⟩
abbrev THM_COOL_VALVE_POS : Field := ⟨.THM_COOL, 7, 0, .ro, 0, .num⟩
/-! R681 (19_power_cooling_and_hot_plug.md) -/
abbrev THM_LOOP_T_SET : Field := ⟨.THM_LOOP, 63, 48, .rwl, 0, .nv⟩
abbrev THM_LOOP_KP : Field := ⟨.THM_LOOP, 47, 32, .rwl, 0, .nv⟩
abbrev THM_LOOP_KI : Field := ⟨.THM_LOOP, 31, 16, .rwl, 0, .nv⟩
abbrev THM_LOOP_OPEN_MIN : Field := ⟨.THM_LOOP, 15, 8, .rwl, 0, .nv⟩
abbrev THM_LOOP_FLOW_STEP : Field := ⟨.THM_LOOP, 7, 0, .rwl, 0, .nv⟩
/-! R682 (19_power_cooling_and_hot_plug.md) -/
abbrev THM_LIM_DIE_WARN : Field := ⟨.THM_LIM, 63, 56, .rwl, 0, .nv⟩
abbrev THM_LIM_DIE_SHED : Field := ⟨.THM_LIM, 55, 48, .rwl, 0, .nv⟩
abbrev THM_LIM_HBM_WARN : Field := ⟨.THM_LIM, 47, 40, .rwl, 0, .nv⟩
abbrev THM_LIM_HBM_SHED : Field := ⟨.THM_LIM, 39, 32, .rwl, 0, .nv⟩
abbrev THM_LIM_INLET_MAX : Field := ⟨.THM_LIM, 31, 24, .rwl, 0, .nv⟩
abbrev THM_LIM_FLOW_MIN : Field := ⟨.THM_LIM, 23, 16, .rwl, 0, .nv⟩
/-! R683 (19_power_cooling_and_hot_plug.md) -/
abbrev THM_HOT_C0 : Field := ⟨.THM_HOT, 63, 48, .ro, 0, .num⟩
abbrev THM_HOT_C1 : Field := ⟨.THM_HOT, 47, 32, .ro, 0, .num⟩
abbrev THM_HOT_HUB : Field := ⟨.THM_HOT, 31, 16, .ro, 0, .num⟩
abbrev THM_HOT_HBM : Field := ⟨.THM_HOT, 15, 0, .ro, 0, .num⟩
/-! R684 (19_power_cooling_and_hot_plug.md) -/
abbrev THM_EVT_SHED : Field := ⟨.THM_EVT, 5, 5, .w1c, 0, .num⟩
abbrev THM_EVT_VALVE_FAULT : Field := ⟨.THM_EVT, 4, 4, .w1c, 0, .num⟩
abbrev THM_EVT_FLOW_LOW : Field := ⟨.THM_EVT, 3, 3, .w1c, 0, .num⟩
abbrev THM_EVT_INLET_HIGH : Field := ⟨.THM_EVT, 2, 2, .w1c, 0, .num⟩
abbrev THM_EVT_HBM_WARN : Field := ⟨.THM_EVT, 1, 1, .w1c, 0, .num⟩
abbrev THM_EVT_DIE_WARN : Field := ⟨.THM_EVT, 0, 0, .w1c, 0, .num⟩
abbrev THM_EVT_EN_EN : Field := ⟨.THM_EVT_EN, 5, 0, .rw, 63, .num⟩
/-! R710 (20_single_fault_safety.md) -/
abbrev SAFE_STATUS_TRIPPED : Field := ⟨.SAFE_STATUS, 31, 31, .ro, 0, .chanB⟩
abbrev SAFE_STATUS_EFUSE_BY_SAFE : Field := ⟨.SAFE_STATUS, 30, 30, .ro, 0, .chanB⟩
abbrev SAFE_STATUS_A_ACK : Field := ⟨.SAFE_STATUS, 29, 29, .ro, 0, .num⟩
abbrev SAFE_STATUS_B_OK : Field := ⟨.SAFE_STATUS, 28, 28, .ro, 0, .num⟩
abbrev SAFE_STATUS_REARMS : Field := ⟨.SAFE_STATUS, 27, 26, .ro, 0, .chanB⟩
/-! R711 (20_single_fault_safety.md) -/
abbrev SAFE_HAZ_B_ACTIVE : Field := ⟨.SAFE_HAZ, 24, 16, .ro, 0, .num⟩
abbrev SAFE_HAZ_A_ACTIVE : Field := ⟨.SAFE_HAZ, 8, 0, .ro, 0, .num⟩
/-! R712 (20_single_fault_safety.md) -/
abbrev SAFE_TRIP_LOG_VALID : Field := ⟨.SAFE_TRIP_LOG, 63, 63, .ro, 0, .chanB⟩
abbrev SAFE_TRIP_LOG_HAZARD : Field := ⟨.SAFE_TRIP_LOG, 59, 56, .ro, 0, .chanB⟩
abbrev SAFE_TRIP_LOG_CHANNEL : Field := ⟨.SAFE_TRIP_LOG, 55, 54, .ro, 0, .chanB⟩
abbrev SAFE_TRIP_LOG_SENSOR : Field := ⟨.SAFE_TRIP_LOG, 53, 48, .ro, 0, .chanB⟩
abbrev SAFE_TRIP_LOG_VALUE : Field := ⟨.SAFE_TRIP_LOG, 47, 32, .ro, 0, .chanB⟩
abbrev SAFE_TRIP_LOG_SECONDS : Field := ⟨.SAFE_TRIP_LOG, 31, 0, .ro, 0, .chanB⟩
/-! R713 (20_single_fault_safety.md) -/
abbrev SAFE_LIM_DIE_TRIP : Field := ⟨.SAFE_LIM, 63, 56, .rwl, 0, .nv⟩
abbrev SAFE_LIM_HBM_TRIP : Field := ⟨.SAFE_LIM, 55, 48, .rwl, 0, .nv⟩
abbrev SAFE_LIM_OUT_TRIP : Field := ⟨.SAFE_LIM, 47, 40, .rwl, 0, .nv⟩
abbrev SAFE_LIM_FLOW_TRIP : Field := ⟨.SAFE_LIM, 39, 32, .rwl, 0, .nv⟩
/-! R714 (20_single_fault_safety.md) -/
abbrev SAFE_REARM_KEY : Field := ⟨.SAFE_REARM, 31, 16, .wo, 0, .num⟩
abbrev SAFE_REARM_REARM : Field := ⟨.SAFE_REARM, 0, 0, .wo, 0, .num⟩
/-! R715 (20_single_fault_safety.md) -/
abbrev SAFE_EVT_REARM_REFUSED : Field := ⟨.SAFE_EVT, 3, 3, .w1c, 0, .num⟩
abbrev SAFE_EVT_HB_MISS : Field := ⟨.SAFE_EVT, 2, 2, .w1c, 0, .num⟩
abbrev SAFE_EVT_XCHK_WARN : Field := ⟨.SAFE_EVT, 1, 1, .w1c, 0, .num⟩
abbrev SAFE_EVT_TRIP : Field := ⟨.SAFE_EVT, 0, 0, .w1c, 0, .num⟩
abbrev SAFE_EVT_EN_EN : Field := ⟨.SAFE_EVT_EN, 3, 0, .rw, 15, .num⟩
/-! R716 (20_single_fault_safety.md) -/
abbrev ELOG_STATUS_NEXT_SEQ : Field := ⟨.ELOG_STATUS, 63, 32, .ro, 0, .num⟩
abbrev ELOG_STATUS_PROP_FULL : Field := ⟨.ELOG_STATUS, 31, 31, .w1c, 0, .num⟩
abbrev ELOG_STATUS_PROPS : Field := ⟨.ELOG_STATUS, 17, 12, .ro, 0, .backup⟩
abbrev ELOG_STATUS_PERS : Field := ⟨.ELOG_STATUS, 4, 0, .ro, 0, .backup⟩
/-! R719 (20_single_fault_safety.md) -/
abbrev ELOG_CNT_SAFETY : Field := ⟨.ELOG_CNT, 63, 52, .ro, 0, .num⟩
abbrev ELOG_CNT_DEGRADED : Field := ⟨.ELOG_CNT, 51, 40, .ro, 0, .num⟩
abbrev ELOG_CNT_CONTAINED : Field := ⟨.ELOG_CNT, 39, 20, .ro, 0, .num⟩
abbrev ELOG_CNT_CORRECTED : Field := ⟨.ELOG_CNT, 19, 0, .ro, 0, .num⟩
/-! R720 (20_single_fault_safety.md) -/
abbrev ELOG_PROP_VALID : Field := ⟨.ELOG_PROP, 63, 63, .ro, 0, .backup⟩
abbrev ELOG_PROP_KIND : Field := ⟨.ELOG_PROP, 62, 61, .ro, 0, .backup⟩
abbrev ELOG_PROP_CORE : Field := ⟨.ELOG_PROP, 42, 32, .ro, 0, .backup⟩
abbrev ELOG_PROP_ARRAY : Field := ⟨.ELOG_PROP, 8, 8, .ro, 0, .backup⟩
abbrev ELOG_PROP_BANK : Field := ⟨.ELOG_PROP, 7, 5, .ro, 0, .backup⟩
abbrev ELOG_PROP_ROW : Field := ⟨.ELOG_PROP, 4, 0, .ro, 0, .backup⟩
/-! R721 (20_single_fault_safety.md) -/
abbrev ELOG_PROP_CLR_ALL : Field := ⟨.ELOG_PROP_CLR, 31, 31, .wo, 0, .num⟩
abbrev ELOG_PROP_CLR_PERS : Field := ⟨.ELOG_PROP_CLR, 30, 30, .wo, 0, .num⟩
abbrev ELOG_PROP_CLR_INDEX : Field := ⟨.ELOG_PROP_CLR, 4, 0, .wo, 0, .num⟩
/-! R737 (21_test_perturbation_and_counters.md) -/
abbrev PERT_STATUS_ACTIVE : Field := ⟨.PERT_STATUS, 63, 63, .ro, 0, .num⟩
abbrev PERT_STATUS_PERM : Field := ⟨.PERT_STATUS, 38, 32, .ro, 0, .num⟩
abbrev PERT_STATUS_EXPIRY : Field := ⟨.PERT_STATUS, 31, 0, .ro, 0, .num⟩
/-! R738 (21_test_perturbation_and_counters.md) -/
abbrev PERT_CREDIT_EN : Field := ⟨.PERT_CREDIT, 63, 63, .rw, 0, .num⟩
abbrev PERT_CREDIT_VCS : Field := ⟨.PERT_CREDIT, 62, 59, .rw, 0, .num⟩
abbrev PERT_CREDIT_LINKS : Field := ⟨.PERT_CREDIT, 51, 16, .rw, 0, .num⟩
abbrev PERT_CREDIT_DELAY : Field := ⟨.PERT_CREDIT, 15, 0, .rw, 0, .num⟩
/-! R739 (21_test_perturbation_and_counters.md) -/
abbrev PERT_BP_EN : Field := ⟨.PERT_BP, 63, 63, .rw, 0, .num⟩
abbrev PERT_BP_ENG : Field := ⟨.PERT_BP, 62, 59, .rw, 0, .num⟩
abbrev PERT_BP_VAT : Field := ⟨.PERT_BP, 58, 58, .rw, 0, .num⟩
abbrev PERT_BP_DUTY : Field := ⟨.PERT_BP, 47, 44, .rw, 0, .num⟩
abbrev PERT_BP_CORE : Field := ⟨.PERT_BP, 10, 0, .rw, 0, .num⟩
/-! R740 (21_test_perturbation_and_counters.md) -/
abbrev PERT_HBM_EN : Field := ⟨.PERT_HBM, 63, 63, .rw, 0, .num⟩
abbrev PERT_HBM_STACKS : Field := ⟨.PERT_HBM, 55, 48, .rw, 0, .num⟩
abbrev PERT_HBM_RATE_LOG : Field := ⟨.PERT_HBM, 47, 44, .rw, 0, .num⟩
abbrev PERT_HBM_EXTRA : Field := ⟨.PERT_HBM, 15, 0, .rw, 0, .num⟩
/-! R743 (21_test_perturbation_and_counters.md) -/
abbrev PERT_TSTAMP_EN : Field := ⟨.PERT_TSTAMP, 63, 63, .rw, 0, .num⟩
abbrev PERT_TSTAMP_ALT : Field := ⟨.PERT_TSTAMP, 62, 62, .rw, 0, .num⟩
abbrev PERT_TSTAMP_LINK : Field := ⟨.PERT_TSTAMP, 61, 56, .rw, 0, .num⟩
abbrev PERT_TSTAMP_OFFSET : Field := ⟨.PERT_TSTAMP, 31, 0, .rw, 0, .num⟩
/-! R130 (04_tile_registers.md) -/
abbrev TRF_SLIP_CNT_COUNT : Field := ⟨.TRF_SLIP_CNT, 31, 0, .ro, 0, .num⟩
abbrev TRF_SHAPE_CNT_COUNT : Field := ⟨.TRF_SHAPE_CNT, 31, 0, .ro, 0, .num⟩
/-! R257 (07_scratchpad_and_bank_units.md) -/
abbrev DM_REMOTE_ADDR_ADDR : Field := ⟨.DM_REMOTE_ADDR, 63, 0, .ro, 0, .num⟩
abbrev DM_REMOTE_INFO_VALID : Field := ⟨.DM_REMOTE_INFO, 31, 31, .w1c, 0, .num⟩
abbrev DM_REMOTE_INFO_REASON : Field := ⟨.DM_REMOTE_INFO, 30, 28, .ro, 0, .num⟩
abbrev DM_REMOTE_INFO_CMD_ID : Field := ⟨.DM_REMOTE_INFO, 9, 0, .ro, 0, .num⟩
/-! R309 (08_hbm_and_memory_tiers.md) -/
abbrev DM_STRM_ISSUED_BYTES : Field := ⟨.DM_STRM_ISSUED, 63, 0, .ro, 0, .num⟩
abbrev DM_STRM_CONSUMED_BYTES : Field := ⟨.DM_STRM_CONSUMED, 63, 0, .ro, 0, .num⟩
abbrev DM_STRM_EVICTED_BYTES : Field := ⟨.DM_STRM_EVICTED, 63, 0, .ro, 0, .num⟩
abbrev DM_STRM_LATE_ACLK : Field := ⟨.DM_STRM_LATE, 63, 0, .ro, 0, .num⟩
/-! R476 (12_gradient_reduction.md) -/
abbrev MSU_RCH_CFG_VALID : Field := ⟨.MSU_RCH_CFG, 63, 63, .hubOnly, 0, .num⟩
abbrev MSU_RCH_CFG_MODE : Field := ⟨.MSU_RCH_CFG, 62, 62, .hubOnly, 0, .num⟩
abbrev MSU_RCH_CFG_WFMT : Field := ⟨.MSU_RCH_CFG, 61, 60, .hubOnly, 0, .num⟩
abbrev MSU_RCH_CFG_K : Field := ⟨.MSU_RCH_CFG, 59, 55, .hubOnly, 0, .num⟩
abbrev MSU_RCH_CFG_FLUSH_M1 : Field := ⟨.MSU_RCH_CFG, 54, 47, .hubOnly, 0, .num⟩
abbrev MSU_RCH_CFG_CRATE : Field := ⟨.MSU_RCH_CFG, 46, 43, .hubOnly, 0, .num⟩
abbrev MSU_RCH_CFG_TOL : Field := ⟨.MSU_RCH_CFG, 42, 39, .hubOnly, 0, .num⟩
abbrev MSU_RCH_CFG_HEAD : Field := ⟨.MSU_RCH_CFG, 38, 37, .hubOnly, 1, .num⟩
abbrev MSU_RCH_CFG_NSRC_M1 : Field := ⟨.MSU_RCH_CFG, 36, 25, .hubOnly, 0, .num⟩
abbrev MSU_RCH_CFG_HOME : Field := ⟨.MSU_RCH_CFG, 24, 14, .hubOnly, 0, .num⟩
abbrev MSU_RCH_CFG_CHKWIN : Field := ⟨.MSU_RCH_CFG, 13, 11, .hubOnly, 0, .num⟩
abbrev MSU_RCH_CFG_INIT_X : Field := ⟨.MSU_RCH_CFG, 10, 3, .hubOnly, 0x7f, .num⟩
abbrev MSU_RCH_TGT_NBLK_M1 : Field := ⟨.MSU_RCH_TGT, 63, 44, .hubOnly, 0, .num⟩
abbrev MSU_RCH_TGT_BASE : Field := ⟨.MSU_RCH_TGT, 38, 17, .hubOnly, 0, .num⟩
abbrev MSU_RCH_AUX_STG : Field := ⟨.MSU_RCH_AUX, 63, 42, .hubOnly, 0, .num⟩
abbrev MSU_RCH_AUX_SBASE : Field := ⟨.MSU_RCH_AUX, 35, 22, .hubOnly, 0, .num⟩
abbrev MSU_RCH_AUX_CHKBASE : Field := ⟨.MSU_RCH_AUX, 19, 0, .hubOnly, 0, .num⟩
abbrev MSU_RCH_STEP_STEP : Field := ⟨.MSU_RCH_STEP, 63, 32, .hubOnly, 0, .num⟩
abbrev MSU_RCH_STEP_BASE : Field := ⟨.MSU_RCH_STEP, 31, 0, .ro, 0, .num⟩
abbrev MSU_RCH_LAND_LANDED : Field := ⟨.MSU_RCH_LAND, 63, 32, .ro, 0, .num⟩
abbrev MSU_RCH_LAND_CLAIMED : Field := ⟨.MSU_RCH_LAND, 31, 0, .ro, 0, .num⟩
abbrev MSU_RCH_CNT_SAT : Field := ⟨.MSU_RCH_CNT, 63, 32, .ro, 0, .num⟩
abbrev MSU_RCH_CNT_NAN : Field := ⟨.MSU_RCH_CNT, 31, 16, .ro, 0, .num⟩
abbrev MSU_RCH_CNT_FMT : Field := ⟨.MSU_RCH_CNT, 15, 0, .ro, 0, .num⟩
/-! R500 (13_time_reference.md) -/
abbrev TIME_NOW_NS : Field := ⟨.TIME_NOW, 63, 0, .ro, 0, .num⟩
abbrev TIME_FRAC_FRAC : Field := ⟨.TIME_FRAC, 31, 0, .ro, 0, .num⟩
/-! R501 (13_time_reference.md) -/
abbrev TIME_SET_NS : Field := ⟨.TIME_SET, 63, 0, .wo, 0, .num⟩
/-! R342 (09_on_die_networks.md) -/
abbrev MESH_CFG_COMBINE : Field := ⟨.MESH_CFG, 0, 0, .rw, 1, .num⟩
/-! R346 (09_on_die_networks.md) -/
abbrev MESH_ECC_CNT_COUNT : Field := ⟨.MESH_ECC_CNT, 31, 0, .ro, 0, .num⟩
/-! R353 (09_on_die_networks.md) -/
abbrev SYNC_EVT_BAD_SIGNAL : Field := ⟨.SYNC_EVT, 1, 1, .w1c, 0, .num⟩
abbrev SYNC_EVT_NODE_HELD : Field := ⟨.SYNC_EVT, 0, 0, .w1c, 0, .num⟩
abbrev SYNC_EVT_EN_EN : Field := ⟨.SYNC_EVT_EN, 1, 0, .rw, 2, .num⟩
/-! R550 (15_tasks_speculation_checkpoints.md) -/
abbrev CC_EXIT_EXIT : Field := ⟨.CC_EXIT, 0, 0, .wo, 0, .num⟩
/-! R552 (15_tasks_speculation_checkpoints.md) -/
abbrev CC_CKPT_DONE_INSTAR : Field := ⟨.CC_CKPT_DONE, 31, 0, .wo, 0, .num⟩
/-! R553 (15_tasks_speculation_checkpoints.md) -/
abbrev CLU_ENERGY_ENERGY : Field := ⟨.CLU_ENERGY, 63, 0, .ro, 0, .num⟩
/-! R554 (15_tasks_speculation_checkpoints.md) -/
abbrev HUBC_TASK_VALID : Field := ⟨.HUBC_TASK, 63, 63, .ro, 0, .num⟩
abbrev HUBC_TASK_STATE : Field := ⟨.HUBC_TASK, 62, 60, .ro, 0, .num⟩
abbrev HUBC_TASK_SPEC : Field := ⟨.HUBC_TASK, 59, 59, .ro, 0, .num⟩
abbrev HUBC_TASK_CKPT_VALID : Field := ⟨.HUBC_TASK, 58, 58, .ro, 0, .num⟩
abbrev HUBC_TASK_RESUMES : Field := ⟨.HUBC_TASK, 47, 32, .ro, 0, .num⟩
abbrev HUBC_TASK_INSTAR : Field := ⟨.HUBC_TASK, 31, 0, .ro, 0, .num⟩
abbrev HUBC_TASK_E_ENERGY : Field := ⟨.HUBC_TASK_E, 63, 0, .ro, 0, .num⟩
/-! R555 (15_tasks_speculation_checkpoints.md) -/
abbrev HUBC_SPEC_CFG_VALID : Field := ⟨.HUBC_SPEC_CFG, 63, 63, .hubOnly, 0, .num⟩
abbrev HUBC_SPEC_CFG_CUR : Field := ⟨.HUBC_SPEC_CFG, 62, 62, .ro, 0, .num⟩
abbrev HUBC_SPEC_CFG_COPY_IN : Field := ⟨.HUBC_SPEC_CFG, 61, 61, .hubOnly, 0, .num⟩
abbrev HUBC_SPEC_CFG_HELD : Field := ⟨.HUBC_SPEC_CFG, 60, 60, .ro, 0, .num⟩
abbrev HUBC_SPEC_CFG_OWNER : Field := ⟨.HUBC_SPEC_CFG, 59, 54, .ro, 0, .num⟩
abbrev HUBC_SPEC_CFG_SIZE_M1 : Field := ⟨.HUBC_SPEC_CFG, 27, 0, .hubOnly, 0, .num⟩
abbrev HUBC_SPEC_R0_BASE : Field := ⟨.HUBC_SPEC_R0, 47, 0, .hubOnly, 0, .num⟩
abbrev HUBC_SPEC_R1_BASE : Field := ⟨.HUBC_SPEC_R1, 47, 0, .hubOnly, 0, .num⟩
/-! R584 (16_start_up_and_discovery.md) -/
abbrev NVCF_SPARE_MOD_VALID : Field := ⟨.NVCF_SPARE, 63, 63, .rwl, 0, .nv⟩
abbrev NVCF_SPARE_SERVES : Field := ⟨.NVCF_SPARE, 62, 62, .rwl, 0, .nv⟩
abbrev NVCF_SPARE_SPARE_MOD : Field := ⟨.NVCF_SPARE, 47, 32, .rwl, 0, .nv⟩
abbrev NVCF_SPARE_REG_HIGH : Field := ⟨.NVCF_SPARE, 24, 16, .ro, 0, .num⟩
abbrev NVCF_SPARE_REG_IN_USE : Field := ⟨.NVCF_SPARE, 8, 0, .ro, 0, .num⟩
abbrev NVCF_SPARE_CL_ENTRIES : Field := ⟨.NVCF_SPARE_CL, 63, 0, .rwl, 0, .nv⟩
/-! R615 (17_host_and_management_interfaces.md) -/
abbrev PCIE_BAR4_BASE : Field := ⟨.PCIE_BAR4, 38, 30, .rw, 0, .num⟩
abbrev PCIE_HWIN_BASE : Field := ⟨.PCIE_HWIN, 63, 12, .rw, 0, .num⟩
/-! R620 (17_host_and_management_interfaces.md) -/
abbrev HUBC_EVQ_VALID : Field := ⟨.HUBC_EVQ, 63, 63, .ro, 0, .num⟩
abbrev HUBC_EVQ_HEAD : Field := ⟨.HUBC_EVQ, 43, 32, .rw, 0, .num⟩
abbrev HUBC_EVQ_TAIL : Field := ⟨.HUBC_EVQ, 11, 0, .ro, 0, .num⟩
abbrev HUBC_EVQ_STAT_LOST : Field := ⟨.HUBC_EVQ_STAT, 31, 16, .ro, 0, .num⟩
abbrev HUBC_EVQ_STAT_HELD : Field := ⟨.HUBC_EVQ_STAT, 7, 0, .ro, 0, .num⟩
/-! R643 (18_reset_and_clocks.md) -/
abbrev RST_COUNT_COUNT : Field := ⟨.RST_COUNT, 31, 0, .ro, 0, .backup⟩
/-! R645 (18_reset_and_clocks.md) -/
abbrev RST_HWDOG_EN : Field := ⟨.RST_HWDOG, 31, 31, .rwl, 0, .nv⟩
abbrev RST_HWDOG_PERIOD : Field := ⟨.RST_HWDOG, 15, 0, .rwl, 0, .nv⟩
abbrev RST_HWDOG_KICK_KICK : Field := ⟨.RST_HWDOG_KICK, 31, 0, .wo, 0, .num⟩
/-! R648 (18_reset_and_clocks.md) -/
abbrev RST_CORE_LOG_VALID : Field := ⟨.RST_CORE_LOG, 63, 63, .w1c, 0, .num⟩
abbrev RST_CORE_LOG_SOURCE : Field := ⟨.RST_CORE_LOG, 62, 61, .ro, 0, .num⟩
abbrev RST_CORE_LOG_UNIT : Field := ⟨.RST_CORE_LOG, 60, 58, .ro, 0, .num⟩
abbrev RST_CORE_LOG_FENCED : Field := ⟨.RST_CORE_LOG, 57, 57, .ro, 0, .num⟩
abbrev RST_CORE_LOG_CORE : Field := ⟨.RST_CORE_LOG, 42, 32, .ro, 0, .num⟩
abbrev RST_CORE_CNT_COUNT : Field := ⟨.RST_CORE_CNT, 31, 0, .ro, 0, .num⟩
/-! R651 (18_reset_and_clocks.md) -/
abbrev CLK_MON_CFG_TOL : Field := ⟨.CLK_MON_CFG, 7, 0, .rwl, 0, .nv⟩
/-! R653 (18_reset_and_clocks.md) -/
abbrev CLK_GATE_GATED : Field := ⟨.CLK_GATE, 47, 0, .ro, 0, .num⟩
/-! R654 (18_reset_and_clocks.md) -/
abbrev CLK_MEAS_FREQ : Field := ⟨.CLK_MEAS, 31, 0, .ro, 0, .num⟩
/-! R677 (19_power_cooling_and_hot_plug.md) -/
abbrev PWR_CDOM_ON : Field := ⟨.PWR_CDOM, 47, 0, .hubOnly, 0, .num⟩
abbrev PWR_CDOM_PG_PG : Field := ⟨.PWR_CDOM_PG, 47, 0, .ro, 0, .num⟩
/-! R678 (19_power_cooling_and_hot_plug.md) -/
abbrev PWR_RAIL_V : Field := ⟨.PWR_RAIL, 63, 48, .ro, 0, .num⟩
abbrev PWR_RAIL_I : Field := ⟨.PWR_RAIL, 47, 32, .ro, 0, .num⟩
abbrev PWR_RAIL_P : Field := ⟨.PWR_RAIL, 31, 16, .ro, 0, .num⟩
abbrev PWR_RAIL_FAULT : Field := ⟨.PWR_RAIL, 0, 0, .ro, 0, .num⟩
abbrev PWR_RAIL_E_ENERGY : Field := ⟨.PWR_RAIL_E, 63, 0, .ro, 0, .num⟩
/-! R679 (19_power_cooling_and_hot_plug.md) -/
abbrev PWR_CDOM_E_ENERGY : Field := ⟨.PWR_CDOM_E, 63, 0, .ro, 0, .num⟩
/-! R685 (19_power_cooling_and_hot_plug.md) -/
abbrev THM_SENS_TEMP : Field := ⟨.THM_SENS, 15, 0, .ro, 0, .num⟩
/-! R717 (20_single_fault_safety.md) -/
abbrev ELOG_SEL_SEQ : Field := ⟨.ELOG_SEL, 31, 0, .rw, 0, .num⟩
abbrev ELOG_PSEL_INDEX : Field := ⟨.ELOG_PSEL, 3, 0, .rw, 0, .num⟩
/-! R718 (20_single_fault_safety.md) -/
abbrev ELOG_REC_BYTES : Field := ⟨.ELOG_REC, 63, 0, .ro, 0, .num⟩
abbrev ELOG_PREC_BYTES : Field := ⟨.ELOG_PREC, 63, 0, .ro, 0, .num⟩
/-! R741 (21_test_perturbation_and_counters.md) -/
abbrev PERT_ECC_ARM : Field := ⟨.PERT_ECC, 63, 63, .rw, 0, .num⟩
abbrev PERT_ECC_FIRED : Field := ⟨.PERT_ECC, 62, 62, .w1c, 0, .num⟩
abbrev PERT_ECC_HIT : Field := ⟨.PERT_ECC, 61, 61, .w1c, 0, .num⟩
abbrev PERT_ECC_DOUBLE : Field := ⟨.PERT_ECC, 60, 60, .rw, 0, .num⟩
abbrev PERT_ECC_UNIT : Field := ⟨.PERT_ECC, 59, 56, .rw, 0, .num⟩
abbrev PERT_ECC_CORE : Field := ⟨.PERT_ECC, 10, 0, .rw, 0, .num⟩
abbrev PERT_ECC_ADDR_ADDR : Field := ⟨.PERT_ECC_ADDR, 47, 0, .rw, 0, .num⟩
/-! R742 (21_test_perturbation_and_counters.md) -/
abbrev PERT_SLIP_EN : Field := ⟨.PERT_SLIP, 63, 63, .rw, 0, .num⟩
abbrev PERT_SLIP_COUNT : Field := ⟨.PERT_SLIP, 47, 32, .rw, 0, .num⟩
abbrev PERT_SLIP_ADD : Field := ⟨.PERT_SLIP, 31, 16, .rw, 0, .num⟩
abbrev PERT_SLIP_CORE : Field := ⟨.PERT_SLIP, 10, 0, .rw, 0, .num⟩
abbrev PERT_SLIP_TILES_TILES : Field := ⟨.PERT_SLIP_TILES, 63, 0, .rw, 0, .num⟩
/-! R744 (21_test_perturbation_and_counters.md) -/
abbrev PMON_CTRL_CFG_BAD : Field := ⟨.PMON_CTRL, 2, 2, .w1c, 0, .num⟩
abbrev PMON_CTRL_FROZEN : Field := ⟨.PMON_CTRL, 1, 1, .ro, 0, .num⟩
abbrev PMON_CTRL_EN : Field := ⟨.PMON_CTRL, 0, 0, .rw, 1, .num⟩
abbrev PMON_WRAP_WRAP : Field := ⟨.PMON_WRAP, 7, 0, .w1c, 0, .num⟩
abbrev PMON_CFG_EN : Field := ⟨.PMON_CFG, 31, 31, .rw, 0, .num⟩
abbrev PMON_CFG_SUB : Field := ⟨.PMON_CFG, 22, 16, .rw, 0, .num⟩
abbrev PMON_CFG_EVENT : Field := ⟨.PMON_CFG, 11, 0, .rw, 0, .num⟩
abbrev PMON_CNT_EPOCH : Field := ⟨.PMON_CNT, 63, 48, .rw, 0, .num⟩
abbrev PMON_CNT_COUNT : Field := ⟨.PMON_CNT, 47, 0, .rw, 0, .num⟩
abbrev PMON_GFREEZE_FREEZE : Field := ⟨.PMON_GFREEZE, 0, 0, .rw, 0, .num⟩
/-! R616 (17_host_and_management_interfaces.md) -/
abbrev MBX_TX_DATA : Field := ⟨.MBX_TX, 31, 0, .wo, 0, .num⟩
abbrev MBX_RX_DATA : Field := ⟨.MBX_RX, 31, 0, .ro, 0, .num⟩
abbrev MBX_STAT_SRC : Field := ⟨.MBX_STAT, 27, 24, .ro, 0, .num⟩
abbrev MBX_STAT_TX_FREE : Field := ⟨.MBX_STAT, 23, 20, .ro, 8, .num⟩
abbrev MBX_STAT_RX_CNT : Field := ⟨.MBX_STAT, 19, 16, .ro, 0, .num⟩
abbrev MBX_STAT_DB : Field := ⟨.MBX_STAT, 2, 2, .w1c, 0, .num⟩
abbrev MBX_STAT_EMPTY_RD : Field := ⟨.MBX_STAT, 1, 1, .w1c, 0, .num⟩
abbrev MBX_STAT_OVERRUN : Field := ⟨.MBX_STAT, 0, 0, .w1c, 0, .num⟩
abbrev MBX_DB_RING : Field := ⟨.MBX_DB, 0, 0, .wo, 0, .num⟩
abbrev MBX_IEN_EN : Field := ⟨.MBX_IEN, 2, 0, .rw, 3, .num⟩
/-! R617 (17_host_and_management_interfaces.md) -/
abbrev MBX_CTX_DATA : Field := ⟨.MBX_CTX, 31, 0, .wo, 0, .num⟩
abbrev MBX_CDB_RING : Field := ⟨.MBX_CDB, 0, 0, .wo, 0, .num⟩
abbrev MBX_CFREE_FREE : Field := ⟨.MBX_CFREE, 63, 0, .ro, 0x8888888888888888, .num⟩
abbrev MBX_HIRQ_RAISE : Field := ⟨.MBX_HIRQ, 0, 0, .wo, 0, .num⟩

end F

open F in
/-- The map of the registers: place, shape and fields of each. -/
def Reg.info : Reg → RegInfo
  | .ME_ID => ⟨.ME, 0x0, 0, 1, false,
    [ME_ID_REV, ME_ID_SLICED]⟩
  | .ME_REPAIR => ⟨.ME, 0x8, 0, 1, false,
    [ME_REPAIR_B_SPARE, ME_REPAIR_A_SPARE]⟩
  | .ME_CHK_CFG => ⟨.ME, 0x10, 0, 1, false,
    [ME_CHK_CFG_LIMIT, ME_CHK_CFG_TOL]⟩
  | .ME_STATUS => ⟨.ME, 0x18, 0, 1, true,
    [ME_STATUS_ITER, ME_STATUS_LOADED, ME_STATUS_LOADED_S, ME_STATUS_LAST_STATUS, ME_STATUS_DRAINING,
     ME_STATUS_BUSY]⟩
  | .ME_EVT => ⟨.ME, 0x20, 0, 1, false,
    [ME_EVT_ECC_CORR, ME_EVT_CHK_SKIP, ME_EVT_INT_SAT, ME_EVT_INF, ME_EVT_NAN, ME_EVT_ACC_MISMATCH, ME_EVT_ECC,
     ME_EVT_CHECK_FAIL, ME_EVT_ABSENT, ME_EVT_ILLEGAL, ME_EVT_SHAPE_FAULT, ME_EVT_SLIP]⟩
  | .ME_EVT_EN => ⟨.ME, 0x24, 0, 1, false,
    [ME_EVT_EN_EN]⟩
  | .ME_CHK_CNT => ⟨.ME, 0x28, 0, 1, false,
    [ME_CHK_CNT_COUNT]⟩
  | .ME_CHK_LOG => ⟨.ME, 0x30, 0, 1, true,
    [ME_CHK_LOG_ITER, ME_CHK_LOG_DIFF_EXP, ME_CHK_LOG_ACT_ROW, ME_CHK_LOG_ARRAY, ME_CHK_LOG_X_TILE,
     ME_CHK_LOG_VALID, ME_CHK_LOG_S_SEL]⟩
  | .TRF_NOW => ⟨.TRF, 0x0, 0, 1, true,
    [TRF_NOW_COUNT]⟩
  | .TRF_EVT => ⟨.TRF, 0x8, 0, 1, false,
    [TRF_EVT_LOCK_WAIT, TRF_EVT_ECC_CORR, TRF_EVT_ECC, TRF_EVT_SHAPE_FAULT, TRF_EVT_SLIP]⟩
  | .TRF_EVT_EN => ⟨.TRF, 0xc, 0, 1, false,
    [TRF_EVT_EN_EN]⟩
  | .TRF_LOG => ⟨.TRF, 0x18, 0, 1, true,
    [TRF_LOG_DECKLE, TRF_LOG_VALID, TRF_LOG_INJECTED, TRF_LOG_KIND, TRF_LOG_UNIT, TRF_LOG_TILE, TRF_LOG_EARLY]⟩
  | .TRF_TAG => ⟨.TRF, 0x100, 8, 64, true,
    [TRF_TAG_TAGGED, TRF_TAG_TAG]⟩
  | .TRF_STAMP => ⟨.TRF, 0x300, 8, 64, true,
    [TRF_STAMP_STAMP]⟩
  | .CC_ID => ⟨.CC, 0x0, 0, 1, false,
    [CC_ID_REV, CC_ID_CORE_ID]⟩
  | .CC_STATE => ⟨.CC, 0x8, 0, 1, false,
    [CC_STATE_STATE]⟩
  | .CC_TASK_STATUS => ⟨.CC, 0x10, 0, 1, false,
    [CC_TASK_STATUS_ABORTED, CC_TASK_STATUS_CAUSE, CC_TASK_STATUS_SEEN]⟩
  | .CC_TRAP => ⟨.CC, 0x18, 0, 1, true,
    [CC_TRAP_EPC, CC_TRAP_VALID, CC_TRAP_ECC_CORR, CC_TRAP_CAUSE]⟩
  | .CC_CMD_LOG => ⟨.CC, 0x20, 0, 1, true,
    [CC_CMD_LOG_ITER, CC_CMD_LOG_OPCODE, CC_CMD_LOG_ENGINE, CC_CMD_LOG_VALID, CC_CMD_LOG_CMD_ID, CC_CMD_LOG_STATUS]⟩
  | .CC_IRQ => ⟨.CC, 0x28, 0, 1, false,
    [CC_IRQ_CPL_EN, CC_IRQ_CPL_LOST, CC_IRQ_MBX, CC_IRQ_CPL, CC_IRQ_SU, CC_IRQ_DM, CC_IRQ_VE, CC_IRQ_TRF, CC_IRQ_ME]⟩
  | .CC_QSTAT => ⟨.CC, 0x40, 8, 4, true,
    [CC_QSTAT_HEAD_VALID, CC_QSTAT_HEAD_WAIT, CC_QSTAT_BUSY, CC_QSTAT_P3, CC_QSTAT_P2, CC_QSTAT_P1, CC_QSTAT_P0]⟩
  | .VAT_FREE => ⟨.VAT, 0x0, 0, 1, false,
    [VAT_FREE_LOW_WATER, VAT_FREE_FREE]⟩
  | .VAT_EVT => ⟨.VAT, 0x8, 0, 1, false,
    [VAT_EVT_LINK_ECC, VAT_EVT_CELL_ECC, VAT_EVT_ECC_CORR, VAT_EVT_QUOTA, VAT_EVT_EXHAUSTED]⟩
  | .VAT_STALL_CNT => ⟨.VAT, 0x10, 0, 1, false,
    [VAT_STALL_CNT_COUNT]⟩
  | .VAT_QUOTA => ⟨.VAT, 0x40, 4, 16, false,
    [VAT_QUOTA_USED, VAT_QUOTA_QUOTA]⟩
  | .CLU_ID => ⟨.CLU, 0x0, 0, 1, false,
    [CLU_ID_REV, CLU_ID_FUSED, CLU_ID_DIE, CLU_ID_CLUSTER]⟩
  | .CLU_FENCE => ⟨.CLU, 0x8, 0, 1, false,
    [CLU_FENCE_FENCED]⟩
  | .VE_CTX => ⟨.VE, 0x0, 0, 1, true,
    [VE_CTX_STEP, VE_CTX_PENDING, VE_CTX_PHASE]⟩
  | .VE_SEED => ⟨.VE, 0x8, 0, 1, true,
    [VE_SEED_SEED]⟩
  | .VE_EVT => ⟨.VE, 0x10, 0, 1, false,
    [VE_EVT_TIMEOUT, VE_EVT_TIE_OVER, VE_EVT_GRAD_NF, VE_EVT_SAT, VE_EVT_INF, VE_EVT_NAN, VE_EVT_ECC_CORR,
     VE_EVT_ECC, VE_EVT_VE_CHECK, VE_EVT_TIED, VE_EVT_PHASE, VE_EVT_ILLEGAL]⟩
  | .VE_EVT_EN => ⟨.VE, 0x14, 0, 1, false,
    [VE_EVT_EN_EN]⟩
  | .VE_CNT => ⟨.VE, 0x18, 0, 1, true,
    [VE_CNT_NONFINITE, VE_CNT_CHECK]⟩
  | .VE_FREEZE => ⟨.VE, 0x40, 8, 4, true,
    [VE_FREEZE_FROZEN]⟩
  | .VE_TIE => ⟨.VE, 0x80, 8, 8, true,
    [VE_TIE_ARMED, VE_TIE_COMPLETE, VE_TIE_OVER, VE_TIE_DONE_EN, VE_TIE_DONE_CTR, VE_TIE_USES, VE_TIE_COUNT,
     VE_TIE_ROWS_M1, VE_TIE_BASE]⟩
  | .SPD_OWN => ⟨.SPD, 0x0, 0, 1, false,
    [SPD_OWN_OWN]⟩
  | .SPD_PWR => ⟨.SPD, 0x8, 0, 1, false,
    [SPD_PWR_STATE, SPD_PWR_REQ]⟩
  | .SPD_MAP => ⟨.SPD, 0x10, 0, 1, false,
    [SPD_MAP_CAPACITY, SPD_MAP_RETIRED]⟩
  | .SPD_CFG => ⟨.SPD, 0x18, 0, 1, false,
    [SPD_CFG_ECC_LIMIT, SPD_CFG_AGE]⟩
  | .SPD_EVT => ⟨.SPD, 0x20, 0, 1, false,
    [SPD_EVT_G8_FMT, SPD_EVT_SAT, SPD_EVT_AGED, SPD_EVT_BANK_CHECK, SPD_EVT_REFUSED, SPD_EVT_ECC,
     SPD_EVT_ECC_CORR, SPD_EVT_INF]⟩
  | .SPD_EVT_EN => ⟨.SPD, 0x24, 0, 1, false,
    [SPD_EVT_EN_EN]⟩
  | .SPD_ECC_CNT => ⟨.SPD, 0x28, 0, 1, true,
    [SPD_ECC_CNT_CNT]⟩
  | .SPD_ECC_LOG => ⟨.SPD, 0x30, 0, 1, false,
    [SPD_ECC_LOG_VALID, SPD_ECC_LOG_MASTER, SPD_ECC_LOG_KIND, SPD_ECC_LOG_ADDR]⟩
  | .ACB_EVT => ⟨.ACB, 0x0, 0, 1, false,
    [ACB_EVT_ECC, ACB_EVT_ECC_CORR]⟩
  | .ACB_ECC_CNT => ⟨.ACB, 0x8, 0, 1, false,
    [ACB_ECC_CNT_COUNT]⟩
  | .DM_TAGS => ⟨.DM, 0x0, 0, 1, false,
    [DM_TAGS_HIGH_WATER, DM_TAGS_IN_USE]⟩
  | .DM_EVT => ⟨.DM, 0x8, 0, 1, false,
    [DM_EVT_TAG_STALL, DM_EVT_REMOTE, DM_EVT_BANK_CHECK, DM_EVT_ECC, DM_EVT_SAT, DM_EVT_INF, DM_EVT_NAN,
     DM_EVT_ILLEGAL]⟩
  | .DM_EVT_EN => ⟨.DM, 0xc, 0, 1, false,
    [DM_EVT_EN_EN]⟩
  | .DM_STALL_CNT => ⟨.DM, 0x10, 0, 1, false,
    [DM_STALL_CNT_COUNT]⟩
  | .HBMC_ID => ⟨.HBMC, 0x0, 0, 1, false,
    [HBMC_ID_REV, HBMC_ID_STACK]⟩
  | .HBMC_PAIR => ⟨.HBMC, 0x10, 8, 3, true,
    [HBMC_PAIR_LOCAL]⟩
  | .HBMC_EVT => ⟨.HBMC, 0x28, 0, 1, false,
    [HBMC_EVT_RESV_LAPSED, HBMC_EVT_BANK_FULL, HBMC_EVT_MSU_CHECK, HBMC_EVT_SCRUB_UE, HBMC_EVT_SCRUB_CORR,
     HBMC_EVT_ECC, HBMC_EVT_ECC_CORR]⟩
  | .HBMC_EVT_EN => ⟨.HBMC, 0x2c, 0, 1, false,
    [HBMC_EVT_EN_EN]⟩
  | .HBMC_ECC_CNT => ⟨.HBMC, 0x30, 0, 1, false,
    [HBMC_ECC_CNT_COUNT]⟩
  | .HBMC_ECC_LOG => ⟨.HBMC, 0x38, 0, 1, true,
    [HBMC_ECC_LOG_VALID, HBMC_ECC_LOG_KIND, HBMC_ECC_LOG_PC, HBMC_ECC_LOG_LINE, HBMC_ECC_LOG_HUB, HBMC_ECC_LOG_CORE]⟩
  | .HBMC_SCRUB => ⟨.HBMC, 0x40, 0, 1, false,
    [HBMC_SCRUB_PASSES, HBMC_SCRUB_PERIOD]⟩
  | .HBMC_PARK => ⟨.HBMC, 0x48, 0, 1, false,
    [HBMC_PARK_HIGH_WATER, HBMC_PARK_LONGEST]⟩
  | .MSU_STATUS => ⟨.MSU, 0x0, 0, 1, false,
    [MSU_STATUS_CMDQ, MSU_STATUS_INFLIGHT, MSU_STATUS_PROG, MSU_STATUS_BUSY]⟩
  | .MSU_EVT => ⟨.MSU, 0x8, 0, 1, false,
    [MSU_EVT_G8_FMT, MSU_EVT_INF, MSU_EVT_NAN, MSU_EVT_ECC, MSU_EVT_CHECK]⟩
  | .MSU_CNT => ⟨.MSU, 0x10, 0, 1, true,
    [MSU_CNT_NONFINITE, MSU_CNT_BLOCKS]⟩
  | .DM_STRM_CFG => ⟨.DM, 0x100, 64, 4, true,
    [DM_STRM_CFG_EN, DM_STRM_CFG_SLOTS, DM_STRM_CFG_CTR, DM_STRM_CFG_NEXT, DM_STRM_CFG_FILLS, DM_STRM_CFG_SLOT_M1,
     DM_STRM_CFG_BASE]⟩
  | .MESH_ID => ⟨.MESH, 0x0, 0, 1, false,
    [MESH_ID_REV, MESH_ID_DEAD, MESH_ID_DIE, MESH_ID_CLUSTER]⟩
  | .MESH_EVT => ⟨.MESH, 0x10, 0, 1, false,
    [MESH_EVT_COMB_FULL, MESH_EVT_MC_INVALID, MESH_EVT_BAD_PKT, MESH_EVT_DEAD_REFUSE, MESH_EVT_FENCED_REFUSE,
     MESH_EVT_ROUTE_MISMATCH, MESH_EVT_ECC, MESH_EVT_ECC_CORR]⟩
  | .MESH_EVT_EN => ⟨.MESH, 0x14, 0, 1, false,
    [MESH_EVT_EN_EN]⟩
  | .MESH_COMB => ⟨.MESH, 0x18, 0, 1, false,
    [MESH_COMB_HIGH_WATER, MESH_COMB_IN_USE]⟩
  | .MESH_FAULT_LOG => ⟨.MESH, 0x28, 0, 1, true,
    [MESH_FAULT_LOG_VALID, MESH_FAULT_LOG_KIND, MESH_FAULT_LOG_PORT, MESH_FAULT_LOG_VC, MESH_FAULT_LOG_DNODE]⟩
  | .MESH_ROUTE => ⟨.MESH, 0x100, 8, 16, true,
    [MESH_ROUTE_ENTRIES]⟩
  | .MESH_MC => ⟨.MESH, 0x400, 4, 256, false,
    [MESH_MC_VALID, MESH_MC_BRANCH, MESH_MC_CORES]⟩
  | .SYNC_LWIN => ⟨.SYNC, 0x0, 8, 8, true,
    [SYNC_LWIN_EN, SYNC_LWIN_SIZE_M1, SYNC_LWIN_BASE]⟩
  | .SYNC_LAND => ⟨.SYNC, 0x40, 8, 8, true,
    [SYNC_LAND_LANDED, SYNC_LAND_CLAIMED]⟩
  | .SYNC_PEND => ⟨.SYNC, 0x80, 0, 1, false,
    [SYNC_PEND_HIGH_WATER, SYNC_PEND_IN_USE]⟩
  | .SYNC_BAD_LOG => ⟨.SYNC, 0x90, 0, 1, true,
    [SYNC_BAD_LOG_VALID, SYNC_BAD_LOG_MOD, SYNC_BAD_LOG_SCORE, SYNC_BAD_LOG_CTR, SYNC_BAD_LOG_WIN]⟩
  | .SU_CTR => ⟨.SU, 0x0, 8, 8, true,
    [SU_CTR_CTR3, SU_CTR_CTR2, SU_CTR_CTR1, SU_CTR_CTR0]⟩
  | .SU_FLAG => ⟨.SU, 0x40, 0, 1, true,
    [SU_FLAG_OVF, SU_FLAG_UNF]⟩
  | .SU_EVT => ⟨.SU, 0x48, 0, 1, false,
    [SU_EVT_ILLEGAL, SU_EVT_DRIFT, SU_EVT_CREDIT_FAULT, SU_EVT_GEN_FAULT, SU_EVT_BAR_REFUSED, SU_EVT_UNF,
     SU_EVT_OVF]⟩
  | .SU_EVT_EN => ⟨.SU, 0x4c, 0, 1, false,
    [SU_EVT_EN_EN]⟩
  | .SU_LOG => ⟨.SU, 0x50, 0, 1, true,
    [SU_LOG_VALID, SU_LOG_REASON, SU_LOG_CTR, SU_LOG_CHAN, SU_LOG_SLOT, SU_LOG_GROUP, SU_LOG_VALUE, SU_LOG_CMD_ID]⟩
  | .SU_CCH => ⟨.SU, 0x80, 8, 8, true,
    [SU_CCH_EN, SU_CCH_PRIV, SU_CCH_CTR, SU_CCH_CAP, SU_CCH_REST, SU_CCH_DRIFT]⟩
  | .SU_GMAP => ⟨.SU, 0x100, 8, 16, true,
    [SU_GMAP_ENTRIES]⟩
  | .SU_BAR => ⟨.SU, 0x200, 8, 64, true,
    [SU_BAR_MEMBER, SU_BAR_ARRIVED, SU_BAR_FAULTED, SU_BAR_REALIGN, SU_BAR_CTR, SU_BAR_RMASK, SU_BAR_GEN]⟩
  | .EVL_STATUS => ⟨.EVL, 0x0, 0, 1, true,
    [EVL_STATUS_PARTNER_MOD, EVL_STATUS_PARTNER_LINK, EVL_STATUS_RETRAINS, EVL_STATUS_RATE, EVL_STATUS_STATE]⟩
  | .EVL_CFG => ⟨.EVL, 0x8, 0, 1, false,
    [EVL_CFG_EN, EVL_CFG_MAX_RATE, EVL_CFG_UCW_LIMIT, EVL_CFG_RETRY_LIMIT, EVL_CFG_ACK_TIMEOUT]⟩
  | .EVL_EVT => ⟨.EVL, 0x10, 0, 1, false,
    [EVL_EVT_CREDIT_STALL, EVL_EVT_CREDIT_OVER, EVL_EVT_SEQ_ERR, EVL_EVT_FALLBACK, EVL_EVT_FEC_UCW,
     EVL_EVT_CRC_FAIL, EVL_EVT_RETRAIN, EVL_EVT_DOWN]⟩
  | .EVL_EVT_EN => ⟨.EVL, 0x14, 0, 1, false,
    [EVL_EVT_EN_EN]⟩
  | .EVL_ERR_CNT => ⟨.EVL, 0x18, 0, 1, true,
    [EVL_ERR_CNT_UCW, EVL_ERR_CNT_CRC, EVL_ERR_CNT_CORR_SYM]⟩
  | .EVL_CRED => ⟨.EVL, 0x20, 0, 1, true,
    [EVL_CRED_VC3, EVL_CRED_VC2, EVL_CRED_VC1, EVL_CRED_VC0]⟩
  | .EVL_REPLAY => ⟨.EVL, 0x28, 0, 1, false,
    [EVL_REPLAY_NEXT_SEQ, EVL_REPLAY_UNACKED]⟩
  | .EVL_MODID => ⟨.EVLC, 0x0, 0, 1, false,
    [EVL_MODID_MOD_ID]⟩
  | .EVL_TAGS => ⟨.EVLC, 0x8, 0, 1, true,
    [EVL_TAGS_HIGH_WATER, EVL_TAGS_IN_USE]⟩
  | .EVL_TAG_CFG => ⟨.EVLC, 0x10, 0, 1, false,
    [EVL_TAG_CFG_TIMEOUT]⟩
  | .EVL_COM_EVT => ⟨.EVLC, 0x18, 0, 1, false,
    [EVL_COM_EVT_RING_UNPINNED, EVL_COM_EVT_ROUTE_ALT, EVL_COM_EVT_LATE_ANSWER, EVL_COM_EVT_TAG_TIMEOUT,
     EVL_COM_EVT_TAG_STALL, EVL_COM_EVT_MC_DROP, EVL_COM_EVT_UNROUTABLE]⟩
  | .EVL_COM_EVT_EN => ⟨.EVLC, 0x1c, 0, 1, false,
    [EVL_COM_EVT_EN_EN]⟩
  | .EVL_DROP_CNT => ⟨.EVLC, 0x20, 0, 1, true,
    [EVL_DROP_CNT_TIMEOUT, EVL_DROP_CNT_UNROUTABLE]⟩
  | .EVL_UNROUT_LOG => ⟨.EVLC, 0x28, 0, 1, true,
    [EVL_UNROUT_LOG_VALID, EVL_UNROUT_LOG_VC, EVL_UNROUT_LOG_LINK, EVL_UNROUT_LOG_MOD, EVL_UNROUT_LOG_SMOD]⟩
  | .EVL_RING_CFG => ⟨.EVLC, 0x100, 16, 32, true,
    [EVL_RING_CFG_VALID, EVL_RING_CFG_NLINKS_M1, EVL_RING_CFG_SHARE, EVL_RING_CFG_LINK3, EVL_RING_CFG_LINK2,
     EVL_RING_CFG_LINK1, EVL_RING_CFG_LINK0, EVL_RING_CFG_DMOD]⟩
  | .EVL_RING_RANGE => ⟨.EVLC, 0x108, 16, 32, true,
    [EVL_RING_RANGE_SIZE_M1, EVL_RING_RANGE_BASE]⟩
  | .EVL_ROUTE => ⟨.EVLC, 0x10000, 4, 16384, false,
    [EVL_ROUTE_VALID, EVL_ROUTE_ALT_VALID, EVL_ROUTE_PRIMARY, EVL_ROUTE_ALT, EVL_ROUTE_HOPS]⟩
  | .EVL_MC => ⟨.EVLC, 0x20000, 8, 4096, true,
    [EVL_MC_VALID, EVL_MC_LOCAL, EVL_MC_IN_LINK, EVL_MC_OUT]⟩
  | .MSU_RCH_EVT => ⟨.RCHE, 0x0, 0, 1, false,
    [MSU_RCH_EVT_PEND_FULL, MSU_RCH_EVT_STALE, MSU_RCH_EVT_EARLY, MSU_RCH_EVT_BAD_LEN, MSU_RCH_EVT_FMT,
     MSU_RCH_EVT_SAT, MSU_RCH_EVT_NAN, MSU_RCH_EVT_REDUCE_CHECK]⟩
  | .MSU_RCH_EVT_EN => ⟨.RCHE, 0x4, 0, 1, false,
    [MSU_RCH_EVT_EN_EN]⟩
  | .MSU_RCH_NAN_LOG => ⟨.RCHE, 0x8, 0, 1, true,
    [MSU_RCH_NAN_LOG_VALID, MSU_RCH_NAN_LOG_RCHAN, MSU_RCH_NAN_LOG_SRCIX, MSU_RCH_NAN_LOG_BLOCK,
     MSU_RCH_NAN_LOG_ELEM, MSU_RCH_NAN_LOG_SMOD]⟩
  | .MSU_RCH_CHK_LOG => ⟨.RCHE, 0x10, 0, 1, true,
    [MSU_RCH_CHK_LOG_VALID, MSU_RCH_CHK_LOG_RCHAN, MSU_RCH_CHK_LOG_BLOCK, MSU_RCH_CHK_LOG_ELEM,
     MSU_RCH_CHK_LOG_DIFF_EXP, MSU_RCH_CHK_LOG_STEP8, MSU_RCH_CHK_LOG_KIND]⟩
  | .MSU_RCH_ERR_CNT => ⟨.RCHE, 0x18, 0, 1, true,
    [MSU_RCH_ERR_CNT_EARLY, MSU_RCH_ERR_CNT_STALE, MSU_RCH_ERR_CNT_BAD_LEN, MSU_RCH_ERR_CNT_CLOSED]⟩
  | .MSU_RCH_PEND => ⟨.RCHE, 0x20, 0, 1, false,
    [MSU_RCH_PEND_HIGH_WATER, MSU_RCH_PEND_IN_USE]⟩
  | .DM_RCH_CNT => ⟨.DM, 0x28, 0, 1, true,
    [DM_RCH_CNT_SAT, DM_RCH_CNT_BLOCKS]⟩
  | .TIME_CFG => ⟨.TIME, 0x0, 0, 1, true,
    [TIME_CFG_HOLD_MAX, TIME_CFG_XCHK_LIMIT, TIME_CFG_ROLE, TIME_CFG_SOURCE, TIME_CFG_PRIO, TIME_CFG_SYNC_LOG,
     TIME_CFG_ANN_LOG, TIME_CFG_PPS_OUT_EN, TIME_CFG_REF_OUT_EN]⟩
  | .TIME_STATUS => ⟨.TIME, 0x8, 0, 1, false,
    [TIME_STATUS_VALID, TIME_STATUS_STATE, TIME_STATUS_QUAL, TIME_STATUS_UPLINK, TIME_STATUS_STEPS,
     TIME_STATUS_PPS_IN_OK, TIME_STATUS_REF_IN_OK]⟩
  | .TIME_INC => ⟨.TIME, 0x28, 0, 1, true,
    [TIME_INC_INC]⟩
  | .TIME_MEAS => ⟨.TIME, 0x30, 0, 1, true,
    [TIME_MEAS_DELAY, TIME_MEAS_OFFSET]⟩
  | .TIME_GM => ⟨.TIME, 0x38, 0, 1, true,
    [TIME_GM_GM_ID, TIME_GM_UTC_OFFSET, TIME_GM_LEAP61, TIME_GM_LEAP59]⟩
  | .TIME_SERVO => ⟨.TIME, 0x40, 0, 1, false,
    [TIME_SERVO_KI, TIME_SERVO_KP]⟩
  | .TIME_EVT => ⟨.TIME, 0x48, 0, 1, false,
    [TIME_EVT_CNT_MISMATCH, TIME_EVT_FREQ_FAULT, TIME_EVT_XCHK, TIME_EVT_INVALID, TIME_EVT_HOLDOVER,
     TIME_EVT_MASTER_CHANGE, TIME_EVT_INPUT_LOST, TIME_EVT_OUTLIER, TIME_EVT_LOCK]⟩
  | .TIME_EVT_EN => ⟨.TIME, 0x4c, 0, 1, false,
    [TIME_EVT_EN_EN]⟩
  | .TIME_ASYM => ⟨.TIME, 0x100, 4, 37, false,
    [TIME_ASYM_ASYM]⟩
  | .CC_CKPT => ⟨.CC, 0x68, 0, 1, true,
    [CC_CKPT_INSTAR, CC_CKPT_VALID, CC_CKPT_RESUMED, CC_CKPT_PENDING]⟩
  | .HUBC_CTX => ⟨.HUBC, 0x3200, 0, 1, false,
    [HUBC_CTX_LOW_WATER, HUBC_CTX_FREE]⟩
  | .HUBC_ALIAS => ⟨.HUBC, 0x3208, 0, 1, false,
    [HUBC_ALIAS_ALIAS_EN, HUBC_ALIAS_ALIAS_ID]⟩
  | .NVCF_STATUS => ⟨.NVCF, 0x0, 0, 1, true,
    [NVCF_STATUS_CFG_SEQ, NVCF_STATUS_PHASE, NVCF_STATUS_READY, NVCF_STATUS_CHRYSALIS, NVCF_STATUS_LOADING,
     NVCF_STATUS_FIRST_USE, NVCF_STATUS_FW_COPY, NVCF_STATUS_CFG_COPY, NVCF_STATUS_ATTEMPTS, NVCF_STATUS_LIMIT,
     NVCF_STATUS_CHRY_CAUSE]⟩
  | .NVCF_EVT => ⟨.NVCF, 0x8, 0, 1, false,
    [NVCF_EVT_ALIAS, NVCF_EVT_SILENT, NVCF_EVT_REG_REFUSED, NVCF_EVT_LOAD_FAIL, NVCF_EVT_TIME_LATE,
     NVCF_EVT_NEIGHBOUR, NVCF_EVT_LINK_LATE, NVCF_EVT_DIE_FAIL, NVCF_EVT_BOOT_BLOCK, NVCF_EVT_CFG_A_BAD,
     NVCF_EVT_FW_A_BAD]⟩
  | .NVCF_EVT_EN => ⟨.NVCF, 0xc, 0, 1, false,
    [NVCF_EVT_EN_EN]⟩
  | .NVCF_CFG => ⟨.NVCF, 0x10, 0, 1, true,
    [NVCF_CFG_TLOCK_MAX, NVCF_CFG_LINK_WAIT, NVCF_CFG_START_LIMIT, NVCF_CFG_HB_PERIOD, NVCF_CFG_HB_MISS]⟩
  | .NVCF_FABRIC => ⟨.NVCF, 0x18, 0, 1, true,
    [NVCF_FABRIC_FABRIC_ID, NVCF_FABRIC_FABRIC_GEN]⟩
  | .NVCF_PHASE_T => ⟨.NVCF, 0x40, 4, 11, false,
    [NVCF_PHASE_T_TIME]⟩
  | .NVCF_NB => ⟨.NVCF, 0x100, 8, 36, true,
    [NVCF_NB_ADMITTED, NVCF_NB_RESULT, NVCF_NB_EXPECT_MOD, NVCF_NB_EXPECT_LINK, NVCF_NB_SEEN_MOD]⟩
  | .PCIE_STATUS => ⟨.PCIE, 0x0, 0, 1, false,
    [PCIE_STATUS_DSTATE, PCIE_STATUS_FLIT, PCIE_STATUS_DL_ACTIVE, PCIE_STATUS_WIDTH, PCIE_STATUS_SPEED]⟩
  | .PCIE_EVT => ⟨.PCIE, 0x8, 0, 1, false,
    [PCIE_EVT_EP_RECEIVED, PCIE_EVT_BAR4_UR, PCIE_EVT_HWIN_REFUSED, PCIE_EVT_HDB_REFUSED, PCIE_EVT_FLR,
     PCIE_EVT_LINK_DOWN]⟩
  | .PCIE_EVT_EN => ⟨.PCIE, 0xc, 0, 1, false,
    [PCIE_EVT_EN_EN]⟩
  | .HUBC_FUSE_MAP => ⟨.HUBC, 0x10, 8, 2, true,
    [HUBC_FUSE_MAP_FUSED]⟩
  | .HUBC_MGMT => ⟨.HUBC, 0x20, 0, 1, false,
    [HUBC_MGMT_MBX15_MGMT, HUBC_MGMT_ETH_EN, HUBC_MGMT_DBG_UNLOCKED, HUBC_MGMT_SMB_ADDR, HUBC_MGMT_ETH_DROP]⟩
  | .RST_HIST => ⟨.RST, 0x0, 8, 16, true,
    [RST_HIST_SECONDS, RST_HIST_VALID, RST_HIST_REACH, RST_HIST_PHASE, RST_HIST_DOMAIN, RST_HIST_CAUSE]⟩
  | .RST_CTRL => ⟨.RST, 0x88, 0, 1, false,
    [RST_CTRL_KEY, RST_CTRL_WARM]⟩
  | .RST_CFG => ⟨.RST, 0xa8, 0, 1, false,
    [RST_CFG_DRAIN, RST_CFG_CORE_LIMIT]⟩
  | .RST_EVT => ⟨.RST, 0xa0, 0, 1, false,
    [RST_EVT_CORE_FENCED, RST_EVT_CORE_RESET, RST_EVT_HWDOG_WARN]⟩
  | .RST_EVT_EN => ⟨.RST, 0xa4, 0, 1, false,
    [RST_EVT_EN_EN]⟩
  | .CC_WDOG => ⟨.CC, 0x78, 0, 1, false,
    [CC_WDOG_EN, CC_WDOG_PERIOD]⟩
  | .CC_WDOG_CNT => ⟨.CC, 0x7c, 0, 1, false,
    [CC_WDOG_CNT_COUNT]⟩
  | .CLK_STATUS => ⟨.CLK, 0x0, 0, 1, false,
    [CLK_STATUS_SCLKB_OK, CLK_STATUS_TCLK_OK, CLK_STATUS_C1_LOCK, CLK_STATUS_C0_LOCK, CLK_STATUS_ROOT_LOCK,
     CLK_STATUS_XO_OK]⟩
  | .CLK_EVT => ⟨.CLK, 0x10, 0, 1, false,
    [CLK_EVT_ETH_CLK, CLK_EVT_PCIE_CLK, CLK_EVT_LINK_CLK, CLK_EVT_DEV]⟩
  | .CLK_EVT_EN => ⟨.CLK, 0x14, 0, 1, false,
    [CLK_EVT_EN_EN]⟩
  | .PWR_STATUS => ⟨.PWR, 0x0, 0, 1, false,
    [PWR_STATUS_STATE, PWR_STATUS_SHED, PWR_STATUS_EFUSE_CLOSED, PWR_STATUS_EFUSE_TRIP, PWR_STATUS_PRSNT]⟩
  | .PWR_IN => ⟨.PWR, 0x8, 0, 1, true,
    [PWR_IN_VIN, PWR_IN_IIN, PWR_IN_PIN, PWR_IN_PEAK]⟩
  | .PWR_CFG => ⟨.PWR, 0x10, 0, 1, false,
    [PWR_CFG_LIMIT, PWR_CFG_IDLE_OFF, PWR_CFG_SHED_EN]⟩
  | .PWR_EVT => ⟨.PWR, 0x18, 0, 1, false,
    [PWR_EVT_RAIL_FAULT, PWR_EVT_SHED_END, PWR_EVT_SHED, PWR_EVT_OVER_PEAK, PWR_EVT_OVER_LIMIT]⟩
  | .PWR_EVT_EN => ⟨.PWR, 0x1c, 0, 1, false,
    [PWR_EVT_EN_EN]⟩
  | .THM_COOL => ⟨.THM, 0x0, 0, 1, true,
    [THM_COOL_T_IN, THM_COOL_T_OUT, THM_COOL_FLOW, THM_COOL_VALVE_CMD, THM_COOL_VALVE_POS]⟩
  | .THM_LOOP => ⟨.THM, 0x8, 0, 1, true,
    [THM_LOOP_T_SET, THM_LOOP_KP, THM_LOOP_KI, THM_LOOP_OPEN_MIN, THM_LOOP_FLOW_STEP]⟩
  | .THM_LIM => ⟨.THM, 0x10, 0, 1, true,
    [THM_LIM_DIE_WARN, THM_LIM_DIE_SHED, THM_LIM_HBM_WARN, THM_LIM_HBM_SHED, THM_LIM_INLET_MAX, THM_LIM_FLOW_MIN]⟩
  | .THM_HOT => ⟨.THM, 0x18, 0, 1, true,
    [THM_HOT_C0, THM_HOT_C1, THM_HOT_HUB, THM_HOT_HBM]⟩
  | .THM_EVT => ⟨.THM, 0x20, 0, 1, false,
    [THM_EVT_SHED, THM_EVT_VALVE_FAULT, THM_EVT_FLOW_LOW, THM_EVT_INLET_HIGH, THM_EVT_HBM_WARN, THM_EVT_DIE_WARN]⟩
  | .THM_EVT_EN => ⟨.THM, 0x24, 0, 1, false,
    [THM_EVT_EN_EN]⟩
  | .SAFE_STATUS => ⟨.SAFE, 0x0, 0, 1, false,
    [SAFE_STATUS_TRIPPED, SAFE_STATUS_EFUSE_BY_SAFE, SAFE_STATUS_A_ACK, SAFE_STATUS_B_OK, SAFE_STATUS_REARMS]⟩
  | .SAFE_HAZ => ⟨.SAFE, 0x8, 0, 1, false,
    [SAFE_HAZ_B_ACTIVE, SAFE_HAZ_A_ACTIVE]⟩
  | .SAFE_TRIP_LOG => ⟨.SAFE, 0x10, 0, 1, true,
    [SAFE_TRIP_LOG_VALID, SAFE_TRIP_LOG_HAZARD, SAFE_TRIP_LOG_CHANNEL, SAFE_TRIP_LOG_SENSOR, SAFE_TRIP_LOG_VALUE,
     SAFE_TRIP_LOG_SECONDS]⟩
  | .SAFE_LIM => ⟨.SAFE, 0x18, 0, 1, true,
    [SAFE_LIM_DIE_TRIP, SAFE_LIM_HBM_TRIP, SAFE_LIM_OUT_TRIP, SAFE_LIM_FLOW_TRIP]⟩
  | .SAFE_REARM => ⟨.SAFE, 0x20, 0, 1, false,
    [SAFE_REARM_KEY, SAFE_REARM_REARM]⟩
  | .SAFE_EVT => ⟨.SAFE, 0x28, 0, 1, false,
    [SAFE_EVT_REARM_REFUSED, SAFE_EVT_HB_MISS, SAFE_EVT_XCHK_WARN, SAFE_EVT_TRIP]⟩
  | .SAFE_EVT_EN => ⟨.SAFE, 0x2c, 0, 1, false,
    [SAFE_EVT_EN_EN]⟩
  | .ELOG_STATUS => ⟨.ELOG, 0x0, 0, 1, true,
    [ELOG_STATUS_NEXT_SEQ, ELOG_STATUS_PROP_FULL, ELOG_STATUS_PROPS, ELOG_STATUS_PERS]⟩
  | .ELOG_CNT => ⟨.ELOG, 0x18, 0, 1, true,
    [ELOG_CNT_SAFETY, ELOG_CNT_DEGRADED, ELOG_CNT_CONTAINED, ELOG_CNT_CORRECTED]⟩
  | .ELOG_PROP => ⟨.ELOG, 0x100, 8, 32, true,
    [ELOG_PROP_VALID, ELOG_PROP_KIND, ELOG_PROP_CORE, ELOG_PROP_ARRAY, ELOG_PROP_BANK, ELOG_PROP_ROW]⟩
  | .ELOG_PROP_CLR => ⟨.ELOG, 0x200, 0, 1, false,
    [ELOG_PROP_CLR_ALL, ELOG_PROP_CLR_PERS, ELOG_PROP_CLR_INDEX]⟩
  | .PERT_STATUS => ⟨.PERT, 0x0, 0, 1, true,
    [PERT_STATUS_ACTIVE, PERT_STATUS_PERM, PERT_STATUS_EXPIRY]⟩
  | .PERT_CREDIT => ⟨.PERT, 0x8, 0, 1, true,
    [PERT_CREDIT_EN, PERT_CREDIT_VCS, PERT_CREDIT_LINKS, PERT_CREDIT_DELAY]⟩
  | .PERT_BP => ⟨.PERT, 0x10, 0, 1, true,
    [PERT_BP_EN, PERT_BP_ENG, PERT_BP_VAT, PERT_BP_DUTY, PERT_BP_CORE]⟩
  | .PERT_HBM => ⟨.PERT, 0x18, 0, 1, true,
    [PERT_HBM_EN, PERT_HBM_STACKS, PERT_HBM_RATE_LOG, PERT_HBM_EXTRA]⟩
  | .PERT_TSTAMP => ⟨.PERT, 0x40, 0, 1, true,
    [PERT_TSTAMP_EN, PERT_TSTAMP_ALT, PERT_TSTAMP_LINK, PERT_TSTAMP_OFFSET]⟩
  | .TRF_SLIP_CNT => ⟨.TRF, 0x10, 0, 1, false,
    [TRF_SLIP_CNT_COUNT]⟩
  | .TRF_SHAPE_CNT => ⟨.TRF, 0x14, 0, 1, false,
    [TRF_SHAPE_CNT_COUNT]⟩
  | .DM_REMOTE_ADDR => ⟨.DM, 0x18, 0, 1, true,
    [DM_REMOTE_ADDR_ADDR]⟩
  | .DM_REMOTE_INFO => ⟨.DM, 0x20, 0, 1, false,
    [DM_REMOTE_INFO_VALID, DM_REMOTE_INFO_REASON, DM_REMOTE_INFO_CMD_ID]⟩
  | .DM_STRM_ISSUED => ⟨.DM, 0x108, 64, 4, true,
    [DM_STRM_ISSUED_BYTES]⟩
  | .DM_STRM_CONSUMED => ⟨.DM, 0x110, 64, 4, true,
    [DM_STRM_CONSUMED_BYTES]⟩
  | .DM_STRM_EVICTED => ⟨.DM, 0x118, 64, 4, true,
    [DM_STRM_EVICTED_BYTES]⟩
  | .DM_STRM_LATE => ⟨.DM, 0x120, 64, 4, true,
    [DM_STRM_LATE_ACLK]⟩
  | .MSU_RCH_CFG => ⟨.RCHE, 0x10000, 64, 1024, true,
    [MSU_RCH_CFG_VALID, MSU_RCH_CFG_MODE, MSU_RCH_CFG_WFMT, MSU_RCH_CFG_K, MSU_RCH_CFG_FLUSH_M1,
     MSU_RCH_CFG_CRATE, MSU_RCH_CFG_TOL, MSU_RCH_CFG_HEAD, MSU_RCH_CFG_NSRC_M1, MSU_RCH_CFG_HOME,
     MSU_RCH_CFG_CHKWIN, MSU_RCH_CFG_INIT_X]⟩
  | .MSU_RCH_TGT => ⟨.RCHE, 0x10008, 64, 1024, true,
    [MSU_RCH_TGT_NBLK_M1, MSU_RCH_TGT_BASE]⟩
  | .MSU_RCH_AUX => ⟨.RCHE, 0x10010, 64, 1024, true,
    [MSU_RCH_AUX_STG, MSU_RCH_AUX_SBASE, MSU_RCH_AUX_CHKBASE]⟩
  | .MSU_RCH_STEP => ⟨.RCHE, 0x10018, 64, 1024, true,
    [MSU_RCH_STEP_STEP, MSU_RCH_STEP_BASE]⟩
  | .MSU_RCH_LAND => ⟨.RCHE, 0x10020, 64, 1024, true,
    [MSU_RCH_LAND_LANDED, MSU_RCH_LAND_CLAIMED]⟩
  | .MSU_RCH_CNT => ⟨.RCHE, 0x10028, 64, 1024, true,
    [MSU_RCH_CNT_SAT, MSU_RCH_CNT_NAN, MSU_RCH_CNT_FMT]⟩
  | .TIME_NOW => ⟨.TIME, 0x10, 0, 1, true,
    [TIME_NOW_NS]⟩
  | .TIME_FRAC => ⟨.TIME, 0x18, 0, 1, false,
    [TIME_FRAC_FRAC]⟩
  | .TIME_SET => ⟨.TIME, 0x20, 0, 1, true,
    [TIME_SET_NS]⟩
  | .MESH_CFG => ⟨.MESH, 0x8, 0, 1, false,
    [MESH_CFG_COMBINE]⟩
  | .MESH_ECC_CNT => ⟨.MESH, 0x20, 0, 1, false,
    [MESH_ECC_CNT_COUNT]⟩
  | .SYNC_EVT => ⟨.SYNC, 0x88, 0, 1, false,
    [SYNC_EVT_BAD_SIGNAL, SYNC_EVT_NODE_HELD]⟩
  | .SYNC_EVT_EN => ⟨.SYNC, 0x8c, 0, 1, false,
    [SYNC_EVT_EN_EN]⟩
  | .CC_EXIT => ⟨.CC, 0x60, 0, 1, false,
    [CC_EXIT_EXIT]⟩
  | .CC_CKPT_DONE => ⟨.CC, 0x70, 0, 1, false,
    [CC_CKPT_DONE_INSTAR]⟩
  | .CLU_ENERGY => ⟨.CLU, 0x40, 8, 16, true,
    [CLU_ENERGY_ENERGY]⟩
  | .HUBC_TASK => ⟨.HUBC, 0x2000, 16, 64, true,
    [HUBC_TASK_VALID, HUBC_TASK_STATE, HUBC_TASK_SPEC, HUBC_TASK_CKPT_VALID, HUBC_TASK_RESUMES, HUBC_TASK_INSTAR]⟩
  | .HUBC_TASK_E => ⟨.HUBC, 0x2008, 16, 64, true,
    [HUBC_TASK_E_ENERGY]⟩
  | .HUBC_SPEC_CFG => ⟨.HUBC, 0x3000, 32, 16, true,
    [HUBC_SPEC_CFG_VALID, HUBC_SPEC_CFG_CUR, HUBC_SPEC_CFG_COPY_IN, HUBC_SPEC_CFG_HELD, HUBC_SPEC_CFG_OWNER,
     HUBC_SPEC_CFG_SIZE_M1]⟩
  | .HUBC_SPEC_R0 => ⟨.HUBC, 0x3008, 32, 16, true,
    [HUBC_SPEC_R0_BASE]⟩
  | .HUBC_SPEC_R1 => ⟨.HUBC, 0x3010, 32, 16, true,
    [HUBC_SPEC_R1_BASE]⟩
  | .NVCF_SPARE => ⟨.NVCF, 0x20, 0, 1, true,
    [NVCF_SPARE_MOD_VALID, NVCF_SPARE_SERVES, NVCF_SPARE_SPARE_MOD, NVCF_SPARE_REG_HIGH, NVCF_SPARE_REG_IN_USE]⟩
  | .NVCF_SPARE_CL => ⟨.NVCF, 0x28, 0, 1, true,
    [NVCF_SPARE_CL_ENTRIES]⟩
  | .PCIE_BAR4 => ⟨.PCIE, 0x10, 0, 1, true,
    [PCIE_BAR4_BASE]⟩
  | .PCIE_HWIN => ⟨.PCIE, 0x18, 0, 1, true,
    [PCIE_HWIN_BASE]⟩
  | .HUBC_EVQ => ⟨.HUBC, 0x100, 16, 16, true,
    [HUBC_EVQ_VALID, HUBC_EVQ_HEAD, HUBC_EVQ_TAIL]⟩
  | .HUBC_EVQ_STAT => ⟨.HUBC, 0x200, 0, 1, false,
    [HUBC_EVQ_STAT_LOST, HUBC_EVQ_STAT_HELD]⟩
  | .RST_COUNT => ⟨.RST, 0x80, 0, 1, false,
    [RST_COUNT_COUNT]⟩
  | .RST_HWDOG => ⟨.RST, 0x90, 0, 1, false,
    [RST_HWDOG_EN, RST_HWDOG_PERIOD]⟩
  | .RST_HWDOG_KICK => ⟨.RST, 0x94, 0, 1, false,
    [RST_HWDOG_KICK_KICK]⟩
  | .RST_CORE_LOG => ⟨.RST, 0xb0, 0, 1, true,
    [RST_CORE_LOG_VALID, RST_CORE_LOG_SOURCE, RST_CORE_LOG_UNIT, RST_CORE_LOG_FENCED, RST_CORE_LOG_CORE]⟩
  | .RST_CORE_CNT => ⟨.RST, 0xb8, 0, 1, false,
    [RST_CORE_CNT_COUNT]⟩
  | .CLK_MON_CFG => ⟨.CLK, 0x8, 0, 1, false,
    [CLK_MON_CFG_TOL]⟩
  | .CLK_GATE => ⟨.CLK, 0x20, 8, 2, true,
    [CLK_GATE_GATED]⟩
  | .CLK_MEAS => ⟨.CLK, 0x100, 4, 60, false,
    [CLK_MEAS_FREQ]⟩
  | .PWR_CDOM => ⟨.PWR, 0x20, 8, 2, true,
    [PWR_CDOM_ON]⟩
  | .PWR_CDOM_PG => ⟨.PWR, 0x30, 8, 2, true,
    [PWR_CDOM_PG_PG]⟩
  | .PWR_RAIL => ⟨.PWR, 0x100, 16, 14, true,
    [PWR_RAIL_V, PWR_RAIL_I, PWR_RAIL_P, PWR_RAIL_FAULT]⟩
  | .PWR_RAIL_E => ⟨.PWR, 0x108, 16, 14, true,
    [PWR_RAIL_E_ENERGY]⟩
  | .PWR_CDOM_E => ⟨.PWR, 0x400, 8, 96, true,
    [PWR_CDOM_E_ENERGY]⟩
  | .THM_SENS => ⟨.THM, 0x100, 4, 64, false,
    [THM_SENS_TEMP]⟩
  | .ELOG_SEL => ⟨.ELOG, 0x8, 0, 1, false,
    [ELOG_SEL_SEQ]⟩
  | .ELOG_PSEL => ⟨.ELOG, 0x10, 0, 1, false,
    [ELOG_PSEL_INDEX]⟩
  | .ELOG_REC => ⟨.ELOG, 0x40, 8, 8, true,
    [ELOG_REC_BYTES]⟩
  | .ELOG_PREC => ⟨.ELOG, 0x80, 8, 8, true,
    [ELOG_PREC_BYTES]⟩
  | .PERT_ECC => ⟨.PERT, 0x20, 0, 1, true,
    [PERT_ECC_ARM, PERT_ECC_FIRED, PERT_ECC_HIT, PERT_ECC_DOUBLE, PERT_ECC_UNIT, PERT_ECC_CORE]⟩
  | .PERT_ECC_ADDR => ⟨.PERT, 0x28, 0, 1, true,
    [PERT_ECC_ADDR_ADDR]⟩
  | .PERT_SLIP => ⟨.PERT, 0x30, 0, 1, true,
    [PERT_SLIP_EN, PERT_SLIP_COUNT, PERT_SLIP_ADD, PERT_SLIP_CORE]⟩
  | .PERT_SLIP_TILES => ⟨.PERT, 0x38, 0, 1, true,
    [PERT_SLIP_TILES_TILES]⟩
  | .PMON_CTRL => ⟨.PMON, 0x0, 0, 1, false,
    [PMON_CTRL_CFG_BAD, PMON_CTRL_FROZEN, PMON_CTRL_EN]⟩
  | .PMON_WRAP => ⟨.PMON, 0x8, 0, 1, false,
    [PMON_WRAP_WRAP]⟩
  | .PMON_CFG => ⟨.PMON, 0x40, 4, 8, false,
    [PMON_CFG_EN, PMON_CFG_SUB, PMON_CFG_EVENT]⟩
  | .PMON_CNT => ⟨.PMON, 0x80, 8, 8, true,
    [PMON_CNT_EPOCH, PMON_CNT_COUNT]⟩
  | .PMON_GFREEZE => ⟨.PMON, 0x100, 0, 1, false,
    [PMON_GFREEZE_FREEZE]⟩
  | .MBX_TX => ⟨.MBX, 0x0, 0, 1, false,
    [MBX_TX_DATA]⟩
  | .MBX_RX => ⟨.MBX, 0x4, 0, 1, false,
    [MBX_RX_DATA]⟩
  | .MBX_STAT => ⟨.MBX, 0x8, 0, 1, false,
    [MBX_STAT_SRC, MBX_STAT_TX_FREE, MBX_STAT_RX_CNT, MBX_STAT_DB, MBX_STAT_EMPTY_RD, MBX_STAT_OVERRUN]⟩
  | .MBX_DB => ⟨.MBX, 0xc, 0, 1, false,
    [MBX_DB_RING]⟩
  | .MBX_IEN => ⟨.MBX, 0x10, 0, 1, false,
    [MBX_IEN_EN]⟩
  | .MBX_CTX => ⟨.MBX, 0x200, 16, 16, false,
    [MBX_CTX_DATA]⟩
  | .MBX_CDB => ⟨.MBX, 0x204, 16, 16, false,
    [MBX_CDB_RING]⟩
  | .MBX_CFREE => ⟨.MBX, 0x300, 0, 1, true,
    [MBX_CFREE_FREE]⟩
  | .MBX_HIRQ => ⟨.MBX, 0x308, 0, 1, false,
    [MBX_HIRQ_RAISE]⟩

/-- The registers of each block. -/
def Blk.regs : Blk → List Reg
  | .CC =>
    [.CC_ID, .CC_STATE, .CC_TASK_STATUS, .CC_TRAP, .CC_CMD_LOG, .CC_IRQ, .CC_QSTAT, .CC_CKPT, .CC_WDOG,
     .CC_WDOG_CNT, .CC_EXIT, .CC_CKPT_DONE]
  | .ME =>
    [.ME_ID, .ME_REPAIR, .ME_CHK_CFG, .ME_STATUS, .ME_EVT, .ME_EVT_EN, .ME_CHK_CNT, .ME_CHK_LOG]
  | .VE =>
    [.VE_CTX, .VE_SEED, .VE_EVT, .VE_EVT_EN, .VE_CNT, .VE_FREEZE, .VE_TIE]
  | .DM =>
    [.DM_TAGS, .DM_EVT, .DM_EVT_EN, .DM_STALL_CNT, .DM_STRM_CFG, .DM_RCH_CNT, .DM_REMOTE_ADDR, .DM_REMOTE_INFO,
     .DM_STRM_ISSUED, .DM_STRM_CONSUMED, .DM_STRM_EVICTED, .DM_STRM_LATE]
  | .SU =>
    [.SU_CTR, .SU_FLAG, .SU_EVT, .SU_EVT_EN, .SU_LOG, .SU_CCH, .SU_GMAP, .SU_BAR]
  | .SPD =>
    [.SPD_OWN, .SPD_PWR, .SPD_MAP, .SPD_CFG, .SPD_EVT, .SPD_EVT_EN, .SPD_ECC_CNT, .SPD_ECC_LOG]
  | .ACB =>
    [.ACB_EVT, .ACB_ECC_CNT]
  | .TRF =>
    [.TRF_NOW, .TRF_EVT, .TRF_EVT_EN, .TRF_LOG, .TRF_TAG, .TRF_STAMP, .TRF_SLIP_CNT, .TRF_SHAPE_CNT]
  | .CLU =>
    [.CLU_ID, .CLU_FENCE, .CLU_ENERGY]
  | .VAT =>
    [.VAT_FREE, .VAT_EVT, .VAT_STALL_CNT, .VAT_QUOTA]
  | .HBMC =>
    [.HBMC_ID, .HBMC_PAIR, .HBMC_EVT, .HBMC_EVT_EN, .HBMC_ECC_CNT, .HBMC_ECC_LOG, .HBMC_SCRUB, .HBMC_PARK]
  | .MSU =>
    [.MSU_STATUS, .MSU_EVT, .MSU_CNT]
  | .MESH =>
    [.MESH_ID, .MESH_EVT, .MESH_EVT_EN, .MESH_COMB, .MESH_FAULT_LOG, .MESH_ROUTE, .MESH_MC, .MESH_CFG,
     .MESH_ECC_CNT]
  | .SYNC =>
    [.SYNC_LWIN, .SYNC_LAND, .SYNC_PEND, .SYNC_BAD_LOG, .SYNC_EVT, .SYNC_EVT_EN]
  | .EVL =>
    [.EVL_STATUS, .EVL_CFG, .EVL_EVT, .EVL_EVT_EN, .EVL_ERR_CNT, .EVL_CRED, .EVL_REPLAY]
  | .PCIE =>
    [.PCIE_STATUS, .PCIE_EVT, .PCIE_EVT_EN, .PCIE_BAR4, .PCIE_HWIN]
  | .MBX =>
    [.MBX_TX, .MBX_RX, .MBX_STAT, .MBX_DB, .MBX_IEN, .MBX_CTX, .MBX_CDB, .MBX_CFREE, .MBX_HIRQ]
  | .HUBC =>
    [.HUBC_CTX, .HUBC_ALIAS, .HUBC_FUSE_MAP, .HUBC_MGMT, .HUBC_TASK, .HUBC_TASK_E, .HUBC_SPEC_CFG, .HUBC_SPEC_R0,
     .HUBC_SPEC_R1, .HUBC_EVQ, .HUBC_EVQ_STAT]
  | .TIME =>
    [.TIME_CFG, .TIME_STATUS, .TIME_INC, .TIME_MEAS, .TIME_GM, .TIME_SERVO, .TIME_EVT, .TIME_EVT_EN, .TIME_ASYM,
     .TIME_NOW, .TIME_FRAC, .TIME_SET]
  | .CLK =>
    [.CLK_STATUS, .CLK_EVT, .CLK_EVT_EN, .CLK_MON_CFG, .CLK_GATE, .CLK_MEAS]
  | .RST =>
    [.RST_HIST, .RST_CTRL, .RST_CFG, .RST_EVT, .RST_EVT_EN, .RST_COUNT, .RST_HWDOG, .RST_HWDOG_KICK,
     .RST_CORE_LOG, .RST_CORE_CNT]
  | .PWR =>
    [.PWR_STATUS, .PWR_IN, .PWR_CFG, .PWR_EVT, .PWR_EVT_EN, .PWR_CDOM, .PWR_CDOM_PG, .PWR_RAIL, .PWR_RAIL_E,
     .PWR_CDOM_E]
  | .THM =>
    [.THM_COOL, .THM_LOOP, .THM_LIM, .THM_HOT, .THM_EVT, .THM_EVT_EN, .THM_SENS]
  | .SAFE =>
    [.SAFE_STATUS, .SAFE_HAZ, .SAFE_TRIP_LOG, .SAFE_LIM, .SAFE_REARM, .SAFE_EVT, .SAFE_EVT_EN]
  | .ELOG =>
    [.ELOG_STATUS, .ELOG_CNT, .ELOG_PROP, .ELOG_PROP_CLR, .ELOG_SEL, .ELOG_PSEL, .ELOG_REC, .ELOG_PREC]
  | .PMON =>
    [.PMON_CTRL, .PMON_WRAP, .PMON_CFG, .PMON_CNT, .PMON_GFREEZE]
  | .PERT =>
    [.PERT_STATUS, .PERT_CREDIT, .PERT_BP, .PERT_HBM, .PERT_TSTAMP, .PERT_ECC, .PERT_ECC_ADDR, .PERT_SLIP,
     .PERT_SLIP_TILES]
  | .NVCF =>
    [.NVCF_STATUS, .NVCF_EVT, .NVCF_EVT_EN, .NVCF_CFG, .NVCF_FABRIC, .NVCF_PHASE_T, .NVCF_NB, .NVCF_SPARE,
     .NVCF_SPARE_CL]
  | .EVLC =>
    [.EVL_MODID, .EVL_TAGS, .EVL_TAG_CFG, .EVL_COM_EVT, .EVL_COM_EVT_EN, .EVL_DROP_CNT, .EVL_UNROUT_LOG,
     .EVL_RING_CFG, .EVL_RING_RANGE, .EVL_ROUTE, .EVL_MC]
  | .RCHE =>
    [.MSU_RCH_EVT, .MSU_RCH_EVT_EN, .MSU_RCH_NAN_LOG, .MSU_RCH_CHK_LOG, .MSU_RCH_ERR_CNT, .MSU_RCH_PEND,
     .MSU_RCH_CFG, .MSU_RCH_TGT, .MSU_RCH_AUX, .MSU_RCH_STEP, .MSU_RCH_LAND, .MSU_RCH_CNT]

/-- BLOCK code of R706; the common EVL instance and the reduction-channel engine carry their block's code. -/
def Blk.code : Blk → Nat
  | .CC => 0x1
  | .ME => 0x2
  | .VE => 0x3
  | .DM => 0x4
  | .SU => 0x5
  | .SPD => 0x6
  | .ACB => 0x7
  | .TRF => 0x8
  | .CLU => 0x9
  | .VAT => 0xa
  | .HBMC => 0xb
  | .MSU => 0xc
  | .MESH => 0xd
  | .SYNC => 0xe
  | .EVL => 0xf
  | .PCIE => 0x10
  | .MBX => 0x11
  | .HUBC => 0x12
  | .TIME => 0x13
  | .CLK => 0x14
  | .RST => 0x15
  | .PWR => 0x16
  | .THM => 0x17
  | .SAFE => 0x18
  | .ELOG => 0x19
  | .PMON => 0x1a
  | .PERT => 0x1b
  | .NVCF => 0x1c
  | .EVLC => 0xf
  | .RCHE => 0xc

end Sys2Proof.Machine
end

