-- ==== Sys2Proof/Machine/State.lean ====
section
/-! DEFINITION. The state of the block as plain data, the reasons of faults and refusals, and the state after reset. -/

namespace Sys2Proof.Machine

/-- Faults of the block. The spec gives every error an effect on registers, logs or tasks, so no command of this model
answers a fault; the type keeps one named constructor. -/
inductive Fault where
  /-- Raised by no command (safe: the machine never stops this way). -/
  | none
  deriving DecidableEq, Repr

/-- Refusals of the model. -/
inductive Refusal where
  /-- The dispatcher's answer for a command that has no meaning yet (safe: nothing happens). -/
  | notModelled (mnemonic : String)
  deriving DecidableEq, Repr

/-- A 64-byte command (R142), byte 0 least significant. -/
abbrev Cmd := BitVec 512

/-- A register of the register file: its name, its instance (R758) and its member. For mailbox ends the member is the end:
0 the near end, 1 the hub end, 2 the cluster inbox; for the hub's mailboxes 0 to 15 are the hub ends and 16 to 31 the
host ends. -/
structure RKey where
  reg : Reg
  inst : Nat
  idx : Nat
  deriving DecidableEq, Repr

/-- A command in one of an engine's four lists (R147), with the vat cell that holds it and its place in the push order of
its core (R193), and the first ACLK in which it can be head (R148). -/
structure QCmd where
  cmd : Cmd
  cell : Nat
  ord : Nat
  from_ : Nat := 0
  deriving DecidableEq, Repr

/-- A command that an engine has begun and that has not completed (a WAIT, a VE_PHASE, an RCH_CLOSE). -/
structure Begun where
  cmd : Cmd
  cell : Nat
  ord : Nat
  at_ : Nat
  deriving DecidableEq, Repr

/-- A command that a context switch stopped at an iteration boundary (R56, R160, R241): the iteration it resumes from, and for the ME
the block its arrays held. -/
structure Resume where
  q : QCmd
  next : Nat
  sel : Nat
  deriving DecidableEq, Repr

/-- One engine's queue and timeline: its lists in link order (R147, R152), the priority of the list whose first command is
head and since when it is head, the begun command that holds the queue, the ACLK of its last begin and of its last entry (R28,
R189), and a command to resume after a context switch (R56). -/
structure EngSt where
  q0 : List QCmd := []
  q1 : List QCmd := []
  q2 : List QCmd := []
  q3 : List QCmd := []
  head : Option Nat := none
  headSince : Nat := 0
  hold : Option Begun := none
  lastBegin : Nat := 0
  lastEntry : Nat := 0
  used : Bool := false
  resume : Option Resume := none
  deriving DecidableEq, Repr

/-- A CMD.PUSH that waits to be served by the vat (R148, R149): the command, its destination register, and whether it has
been counted as stalled. -/
structure PendPush where
  cmd : Cmd
  rd : Nat
  stalled : Bool
  deriving DecidableEq, Repr

/-- The stationary block the ME's arrays hold (R23, R24, R46): its selection, format, K and N extents, the 16 rows of 32
bytes as loaded and the MX scales of its columns (R47). -/
structure MeBlock where
  sel : Nat
  fmt : Nat
  kExt : Nat
  nExt : Nat
  rows : List (List Byte)
  scales : List Nat
  deriving DecidableEq, Repr

/-- One act of an ME command on its timeline (R23, R45, R50): the load of a stationary block (`tile` is its S_SEL) or the streaming of an
activation tile, with its first ACLK, its iteration and its slices. -/
structure MeAct where
  load : Bool
  at_ : Nat
  n : Nat
  tile : Nat
  i : Nat := 1
  j : Nat := 1
  deriving DecidableEq, Repr

/-- An activation row in the arrays (R25): its entry ACLK, iteration, slices and place in the tile, the ACB address of its result row,
the pass results, the block's N extent, how the row is written (R32, R34), the tile and block it comes from, what its inputs and
results hold, and what its comparison finds (the DIFF_EXP of R67 when it fails). -/
structure MeRow where
  t : Nat
  n : Nat
  i : Nat
  j : Nat
  m : Nat
  addr : Nat
  vals : List Int
  nExt : Nat
  isInt : Bool
  ovw : Bool
  k0 : Bool
  tile : Nat
  sel : Nat
  nan : Bool
  inf : Bool
  skipped : Bool
  diff : Option Nat
  deriving DecidableEq, Repr

/-- An uncorrectable read of a tile that an ME command meets in a given ACLK (R55, R99): the iteration, whether it is of the stationary
block, the tile, and whether PERT_ECC made it. -/
structure MeFault where
  at_ : Nat
  n : Nat
  load : Bool
  tile : Nat
  inj : Bool
  deriving DecidableEq, Repr

/-- An ME command that has begun and not completed, or whose last rows are still in the arrays (R25 to R28, R53): what is left of its
timeline, rows in flight, the ACLK of its last entry, the phase and freeze bits sampled at its begin (R202), the first event that
ends it (status, iteration, ACLK), an uncorrectable read to come, the flags with the first iteration of each (R58), the last iteration that ran, since when an abort
has stopped it (R158), whether its completion has been reported, and where a context switch cuts it (R56). -/
structure MeFly where
  q : QCmd
  op : Nat
  hw : MeHw
  todo : List MeAct
  rows : List MeRow := []
  last : Nat
  frozen : Option Nat
  stop : Option (Nat × Nat × Nat) := none
  fault : Option MeFault := none
  nan : Option Nat := none
  inf : Option Nat := none
  sat : Option Nat := none
  chkSkip : Option Nat := none
  cur : Nat := 0
  dead : Option Nat := none
  ended : Bool := false
  cut : Option Nat := none
  deriving DecidableEq, Repr

/-- What the ME reports with a completion beside the status (R58): the command, and for each of NAN, INF, INT_SAT and CHK_SKIP the
first iteration that raised it. -/
structure MeReport where
  id : Nat
  nan : Option Nat
  inf : Option Nat
  sat : Option Nat
  chkSkip : Option Nat
  deriving DecidableEq, Repr

/-- What a VE row leaves (R178): the bytes it writes in the own window, its NaN, infinity and saturation flags, and its non-finite
elements. -/
structure VeRow where
  writes : List (Nat × List Byte)
  nan : Bool
  inf : Bool
  sat : Bool
  bad : Nat
  deriving DecidableEq, Repr

/-- A VE command that has begun (R188, R189): the next iteration and the ACLK its first pass begins in, rows that have entered with the
ACLK in which they land, the ACLK of the last write so far, the event that ends it (status, iteration), since when its next
row has presented its accesses, whether an abort has stopped it (R158), and where a context switch cuts it. -/
structure VeFly where
  q : QCmd
  hw : VeHw
  n : Nat := 0
  at_ : Nat
  late : List (Nat × VeRow) := []
  lastW : Nat
  stop : Option (Nat × Nat) := none
  since : Nat
  dead : Bool := false
  cut : Option Nat := none
  deriving DecidableEq, Repr

/-- A tile store in progress (R118): its begun command, the iteration, the row it reads next, the ACLK of the next try, and since when the
row has presented itself to its bank (R219). -/
structure StoreFly where
  id : Nat
  cmd : Cmd
  hw : DmHw
  n : Nat := 0
  r : Nat := 0
  at_ : Nat
  since : Nat
  deriving DecidableEq, Repr

/-- A vat cell that leaves a command at a known ACLK: the completion of its command with a status below 16 and ITER (R154, R155, R193, R239, R361), or
the cell's return to the free list alone (16; R151, R158). -/
structure DueCpl where
  at_ : Nat
  eng : Nat
  q : QCmd
  status : Nat
  iter : Nat := 0
  deriving DecidableEq, Repr

/-- A row that a tile load's write phase writes in a given ACLK (R116); `last` marks the phase's last row, of the begun command `id`. -/
structure PhaseRow where
  at_ : Nat
  tile : Nat
  row : Nat
  bytes : List Byte
  last : Bool
  id : Nat
  deriving DecidableEq, Repr

/-- A scheduled read of a tile by the ME or a tile store: tile, first ACLK, rows, and whether a reuse latch serves it
(R101, R105, R120). -/
structure TileRead where
  tile : Nat
  start : Nat
  rows : Nat
  latched : Bool
  deriving DecidableEq, Repr

/-- A load row in a bank's write buffer (R103), with the ACLK in which it next tries to drain. -/
structure BufRow where
  bank : Nat
  tile : Nat
  row : Nat
  bytes : List Byte
  at_ : Nat := 0
  deriving DecidableEq, Repr

/-- A tile load whose gather is complete (R116): the tile, the deckle, the gathered rows, and whether its write phase
completes the command at the head of the data mover's begun commands. -/
structure Staged where
  tile : Nat
  deckle : Nat
  rows : List (List Byte)
  iter : Nat
  last : Bool
  id : Nat
  ready : Nat := 0
  deriving DecidableEq, Repr

/-- The tag of a sliced accumulator row (R90): the count N of K blocks and SCALE. -/
structure SliceTag where
  n : Nat
  scale : Nat
  deriving DecidableEq, Repr

/-- Who accesses a scratchpad bank (R216), in the round-robin order of R218. -/
inductive BankMaster where
  | cc | ve | dm | mesh
  deriving DecidableEq, Repr

/-- A packet of the data mesh (R314), in the die it travels in: the header's fields, the payload, the die of SNODE, bits 37:0
of a reduction packet's header (R450), the module that sent it (0xFFFF this one), and the ACLK before which it cannot move on (R15). -/
structure Packet where
  typ : Nat
  vc : Nat
  dnode : Nat
  snode : Nat
  src : Nat
  tag : Nat
  len : Nat
  bop : Nat := 0
  fmt : Nat := 0
  status : Nat := 0
  reason : Nat := 0
  mod : Nat := 0xFFFF
  addr : Nat := 0
  rtag : Nat := 0
  count : Nat := 1
  imm : Nat := 0
  payload : List Byte := []
  sdie : Nat := 0
  red : Nat := 0
  smod : Nat := 0xFFFF
  due : Nat := 0
  deriving DecidableEq, Repr

/-- A packet in a link's transmit stream (R399, R405): how many of its bytes flits have taken, and whether a ring-stream entry
placed it there (R427). -/
structure TxPkt where
  p : Packet
  sent : Nat := 0
  ring : Bool := false
  deriving DecidableEq, Repr

/-- A link beyond its registers (R393 to R407): a retrain in progress, the next expected sequence number, the replay buffer and
the sequence number of the next flit to resend, NAK state, the last ACK progress, recent uncorrectable codewords, partial
receive streams with the ACLK in which each one's packet began, whole packets that wait, transmit streams, pending credit returns and their round-robin, the credits the
partner holds, the VC0/VC2 alternation, the ring choices made, when the link last went DOWN, since when a VC has no
credit, and credit returns that PERT_CREDIT holds back with the instant each may leave (R726). -/
structure LinkSt where
  retrain : Bool := false
  eseq : Nat := 0
  replay : List FlitIn := []
  resend : Option Nat := none
  nakDue : Bool := false
  nakWait : Bool := false
  nakAt : Nat := 0
  nakSeq : Nat := 0
  nakRow : Nat := 0
  ackAt : Nat := 0
  ucw : List Nat := []
  rx : List (Nat × List Byte) := []
  rxAt : List (Nat × Nat) := []
  rxq : List (Nat × List Packet) := []
  tx : List (Nat × List TxPkt) := []
  ret : List (Nat × Nat) := []
  rr : Nat := 3
  grant : List (Nat × Nat) := []
  alt : Bool := false
  ringN : Nat := 0
  downAt : Nat := 0
  zero : List (Nat × Nat) := []
  late : List (Nat × Nat) := []
  deriving DecidableEq, Repr

/-- A hub tag (R416): 0 a request of this module on a link, 1 a request from a link, 2 a multicast that branches here, 3 a BAR4
access, 4 a host-window request; the request as it came and its arrival link (63 this module), when it was taken, branches
without an answer, the first refusal, the bank a parked request waits for and the packet to send again. -/
structure HubTag where
  tag : Nat
  kind : Nat
  p : Packet
  link : Nat
  at_ : Nat
  left : Nat := 0
  reason : Nat := 0
  parked : Option Nat := none
  sent : Packet
  deriving DecidableEq, Repr

/-- Where the answer to a bank access goes. -/
inductive AnsTo where
  | none
  | mesh (p : Packet) (node : Nat)
  | dm (id iter : Nat) (ret : Option Nat)
  deriving DecidableEq, Repr

/-- An access to one scratchpad row, or row pair, that waits for its bank (R218, R227): the master, the core-window offset
and length, the operation, its format and immediate, the data, when it first presented itself, and where the answer goes.
Accesses of one request share `grp`; the answer leaves with the last of them. -/
structure BankAcc where
  master : BankMaster
  isRead : Bool
  bop : Nat
  fmt : Nat
  off : Nat
  len : Nat
  imm : Nat
  count : Nat
  data : List Byte
  since : Nat
  ans : AnsTo
  grp : Nat
  deriving DecidableEq, Repr

/-- A bank-unit operation between its read and its write (R229): the access, the bytes it read, the new contents, and the
ACLK in which it may write. -/
structure BankOp where
  acc : BankAcc
  old : List Byte
  result : List Byte
  writeAt : Nat
  deriving DecidableEq, Repr

/-- One scratchpad bank: waiting accesses in arrival order, the granted access whose meaning has not run yet with its ACLK,
operations between read and write, the transition in progress (the state left, the target and the end), the master served last in
round-robin order, the next free ACLK of the bank, the row or row pair written last by an operation with its ACLK (R229; first row, rows,
ACLK), and the answers gathered so far for requests with accesses still open (status and data). -/
structure BankSt where
  waiting : List BankAcc := []
  granted : Option (BankAcc × Nat) := none
  ops : List BankOp := []
  trans : Option (Nat × Nat × Nat) := none
  rr : Nat := 3
  next : Nat := 0
  lastOp : Option (Nat × Nat × Nat) := none
  parts : List (Nat × Nat × List Byte) := []
  deriving DecidableEq, Repr

/-- One far or local piece of a data-mover command (R238): read from the far end into the window, write, or operation; `reads` are the
ranges of the own window it reads as it is issued. -/
structure DmReq where
  iter : Nat
  isRead : Bool
  typ : Nat
  far : Nat
  loc : Nat
  len : Nat
  bop : Nat
  fmt : Nat
  imm : Nat
  conv : Option (Nat × Nat × Bool × Bool)
  data : List Byte
  e0 : Nat := 0
  rtag : Nat := 0
  red : Nat := 0
  reads : List (Nat × Nat) := []
  deriving DecidableEq, Repr

/-- A data-mover command that has begun and not been reported (R239): its remaining requests in issue order, outstanding
pieces, the status so far with its iteration, what completion also does, and what its reads inside the core find. -/
structure DmCmd where
  id : Nat
  q : QCmd
  at_ : Nat
  reqs : List DmReq := []
  open_ : Nat := 0
  status : Nat := 0
  iter : Nat := 0
  issuing : Bool := true
  gather : Nat := 0
  nIter : Nat := 1
  cause : Nat := 0
  stream : Option (Nat × Nat × Nat) := none
  spec : Nat := 0
  ecc : DmHw := .ok
  deriving DecidableEq, Repr

/-- A tag of the data mover held by a request (R238), with the request kept for its answer or for re-sending when parked
(R268), and since when its answer waits for its bank. -/
structure TagSt where
  tag : Nat
  cmd : Nat
  req : DmReq
  answered : Option (Nat × Nat × List Byte) := none
  parked : Bool := false
  bank : Nat := 0
  at_ : Nat := 0
  deriving DecidableEq, Repr

/-- A fill of a stream window (R291, R292): slot, destination bytes, and whether it has been consumed. -/
structure Fill where
  slot : Nat
  bytes : Nat
  consumed : Bool
  deriving DecidableEq, Repr

/-- A signal on its way to a core's sync port, or held in a slot (R335), with the ACLK in which it arrives at the earliest
(R334). With `rel` set it is instead a barrier release for `slot` with generation `gen` (R366, R374). -/
structure Sig where
  dcore : Nat
  ctr : Nat
  inc : Nat
  win : Nat
  score : Nat
  bytes : Nat
  rchan : Nat
  mod : Nat
  due : Nat := 0
  rel : Bool := false
  slot : Nat := 0
  gen : Nat := 0
  deriving DecidableEq, Repr

/-- One core: the control core (R134 to R141), its code memory, its queues and engines, the tile registers, the ACB's sliced
tags, the scratchpad's banks, the data mover, and its sync port. The registers are in the register file.
`wdLeft` is what was left of the core watchdog, in ACLK, at `wdAt` (R632). `drain` holds a reset of core reach in progress: the end of its
tag drain, its sources (1 watchdog, 2 lock-up, 3 both) and the monitor that tripped (R626, R648). Besides its queues an engine holds what it has
begun (`meFly`, `veFly`, `store`, `phase`, `dueCpl`), the ME the report of its last completion (R58) and the ACB rows it wrote with their
ACLK (R190), the SU the subtractions of an ACLK (R156), the ACB the ACLK its banks' shared ports last served in (R26), the scratchpad the
ACLK of the last SPD_OWN write with the value before it (R217), since when an access of the CC waits for its bank (R219), the bytes that
have landed in an ACLK by window (R338), the ACLK from which a signal held at the cluster node may arrive (R339), and the ACLK
from which the data mover may issue again after a tag stall (R238); `tick` is the first ACLK that the core's engines have not run through; and the stream windows since when a WAIT stands on a counter (R292). -/
structure CoreSt where
  x : List (Nat × Word) := []
  pc : Nat := 0
  mstatus : Word := 0
  mie : Word := 0
  mtvec : Word := 0
  mscratch : Word := 0
  mepc : Word := 0
  mcause : Word := 0
  mtval : Word := 0
  minstret : Word := 0
  code : List Host.Cell := []
  cs : List (Nat × Cmd) := []
  push : Option PendPush := none
  ordNext : Nat := 0
  cpl : List Word := []
  me : EngSt := {}
  ve : EngSt := {}
  dm : EngSt := {}
  su : EngSt := {}
  blk : Option MeBlock := none
  meFly : List MeFly := []
  meReport : Option MeReport := none
  meWrote : Nat × List Nat := (0, [])
  veFly : Option VeFly := none
  store : Option StoreFly := none
  phase : List PhaseRow := []
  dueCpl : List DueCpl := []
  subs : List (Nat × Nat × Nat) := []
  acbPort : List (Nat × Nat) := []
  meReads : List TileRead := []
  latS : List Nat := []
  latX : List Nat := []
  trf : List Host.Cell := []
  wbuf : List BufRow := []
  staged : List Staged := []
  injected : List Nat := []
  base : Nat := 0
  tags : List (Nat × SliceTag) := []
  banks : List (Nat × BankSt) := []
  dmCmds : List DmCmd := []
  dmTags : List TagSt := []
  dmNext : Nat := 0
  dmEnd : Nat := 0
  gatherAt : Nat := 0
  tagStall : Bool := false
  fills : List (Nat × List Fill) := []
  slots : List Sig := []
  sigIn : List Sig := []
  nodeHeld : List Sig := []
  nodeAt : Nat := 0
  landNow : Nat × List (Nat × Nat) := (0, [])
  realign : List Nat := []
  rels : List Sig := []
  openSync : Bool := true
  debug : Bool := false
  abort : Option Nat := none
  stopped : Bool := false
  wfi : Bool := false
  drain : Option (Nat × Nat × Nat) := none
  resets : Nat := 0
  logical : Nat := 0
  slot : Nat := 0xFF
  wdLeft : Nat := 0
  wdAt : Nat := 0
  grpNext : Nat := 0
  ownOld : Nat × Nat := (0, 0)
  tick : Nat := 0
  ccSince : Option Nat := none
  issueAt : Nat := 0
  lateAt : List (Nat × Nat) := []
  deriving DecidableEq, Repr

/-- A push that the vat has served and will link (R148). -/
structure Served where
  core : Nat
  eng : Nat
  prio : Nat
  q : QCmd
  due : Nat
  deriving DecidableEq, Repr

/-- A cluster's vat: the pushes that wait, the served ones, the core served last, and a rebuild of the free list in
progress (R147, R148, R159). -/
structure VatSt where
  waiting : List Nat := []
  served : List Served := []
  rr : Nat := 15
  rebuild : Bool := false
  deriving DecidableEq, Repr

/-- A combine record of a router (R323): the two packets combined; the combined packet carries the first one's SRC and TAG. -/
structure CombRec where
  a : Packet
  b : Packet
  deriving DecidableEq, Repr

/-- A multicast whose answers a router gathers (R326). -/
structure McRec where
  src : Nat
  tag : Nat
  group : Nat
  snode : Nat
  sdie : Nat
  left : Nat
  reason : Nat
  deriving DecidableEq, Repr

/-- A cluster router: input buffers and output queues (key 3·port + vc), combine and multicast records, its fault. -/
structure RouterSt where
  inq : List (Nat × List Packet) := []
  outq : List (Nat × List Packet) := []
  comb : List CombRec := []
  mc : List McRec := []
  faulty : Bool := false
  deriving DecidableEq, Repr

/-- A request waiting at, or held by, an HBM bank (R267, R276), and the staging slot that a fixed-order contribution is written to
(R459). -/
structure HbmReq where
  p : Packet
  place : Nat
  stg : Option Nat := none
  deriving DecidableEq, Repr

/-- An operation an MSU has accepted (R276): the request, its kind (0 RACC, 1 SCALE, 2 FILL, 3 a reduction packet), the first
byte it writes, whether it has been read and computed, the new bytes, and how many elements count as non-finite (R307). -/
structure MsuOp where
  r : HbmReq
  kind : Nat
  base : Nat
  done : Bool := false
  result : List Byte := []
  bad : Nat := 0
  deriving DecidableEq, Repr

/-- An optimizer command at an MSU (R282 to R287): the request, the fields, the descriptor's words, the next block of the
range, and the LAMB sums as FP64 codes. -/
structure OptCmd where
  r : HbmReq
  w : Nat
  m : Nat
  v : Nat
  g : Nat
  c : Nat
  blocks : Nat
  prog : Nat
  flags : Nat
  desc : List Nat
  next : Nat := 0
  sw : Nat := 0
  sr : Nat := 0
  deriving DecidableEq, Repr

/-- An MSU: accepted operations in order, its optimizer queue, its scale store (R449, an entry is X + 256·PEAK), and the
landed bytes not yet reported by channel (R460). -/
structure MsuSt where
  ops : List MsuOp := []
  opts : List OptCmd := []
  scale : List (Nat × Nat) := []
  landed : List (Nat × Nat) := []
  deriving DecidableEq, Repr

/-- An HBM bank's queue (R267 to R269): requests that wait, requesters in its wait list, and reservations with their
ends. -/
structure HbmBank where
  waiting : List HbmReq := []
  waitList : List Nat := []
  resv : List (Nat × Nat) := []
  deriving DecidableEq, Repr

/-- One slot's share at a node of the sync network (R365): the members below it, those that have arrived, the episode's
generation, whether all carried REALIGN, the cores covered, one of them, and whether a mismatch stopped the slot. -/
structure SlotSt where
  mask : Nat := 0
  got : Nat := 0
  gen : Nat := 0
  realign : Bool := true
  count : Nat := 0
  score : Nat := 0
  stopped : Bool := false
  deriving DecidableEq, Repr

/-- A barrier word on its way to a node (R369): the child it comes from, and its fields; `cfg` marks a configuration word
with OP and MASK. -/
structure BarWord where
  child : Nat
  slot : Nat
  gen : Nat
  realign : Bool
  count : Nat
  score : Nat
  ecc : Bool := false
  due : Nat := 0
  deriving DecidableEq, Repr

/-- A node of the sync network (R332, R365): its shares, the arrivals that wait, configuration words in flight. -/
structure NodeSt where
  slots : List (Nat × SlotSt) := []
  inbox : List BarWord := []
  cfg : List Nat := []
  deriving DecidableEq, Repr

/-- What the last access of a master answered. -/
inductive BusRes where
  | none
  | value (v : Word)
  | written
  | busError
  | unsupported
  deriving DecidableEq, Repr

/-- What the block has sent to the world outside, oldest first. -/
inductive Out where
  | msix (v : Nat)
  | smbAlert
  | hostWrite (a : Nat) (bytes : List Byte)
  | hostRead (a : Nat) (len : Nat) (tag : Nat)
  | linkFlit (link : Nat) (f : FlitIn)
  | hostCpl (tag : Nat) (ok : Bool) (bytes : List Byte)
  | linkMsg (link : Nat) (typ : Nat) (fields : List Nat)
  | mgmt (bytes : List Byte)
  | boot (bytes : List Byte)
  | eth (fields : List Nat)
  | pin (name : Nat) (level : Bool)
  | spi (chan : Nat) (fields : List Nat)
  deriving DecidableEq, Repr

/-- An error-log record (R706); `data` is a list of the fields that R707 names for its kind. -/
structure LogRec where
  seq : Nat
  cls : Nat
  blk : Nat
  code : Nat
  time : Nat
  unit : Nat
  slot : Nat
  flags : Nat
  count : Nat
  data : List Byte
  deriving DecidableEq, Repr

/-- A repair proposal (R709, R720): kind, core (or die and cluster), array, bank, row. -/
structure Proposal where
  kind : Nat
  core : Nat
  array : Nat
  bank : Nat
  row : Nat
  deriving DecidableEq, Repr

/-- An event for the host (R604): kind, requesting mailbox, request tag, record bytes. -/
structure Ev where
  kind : Nat
  mbx : Option Nat
  tag : Nat
  record : List Byte
  deriving DecidableEq, Repr

/-- A line that PERT_ECC has stored with corrupted check bits and that has not been written whole since (R728): its unit (0 scratchpad,
1 ACB, 2 TRF, 3 vat, 4 HBM), its core or cluster, its address there, and whether two bits are wrong. -/
structure InjTag where
  unit : Nat
  owner : Nat
  line : Nat
  double : Bool
  deriving DecidableEq, Repr

/-- A registered event ring (R603, R604): global address, entries, MSI-X vector, current PHASE and next SEQ. -/
structure Ring where
  base : Nat
  size : Nat
  vector : Nat
  phase : Nat
  seq : Nat
  deriving DecidableEq, Repr

/-- A reset episode in progress (R624, R625): its reach (1 warm, 2 module, 3 cold), the sources recorded in it (bits of
RST_HIST.CAUSE), those still asserted with the instant at which they release by themselves (none: they hold), the failed
clock domain, the start-up phase and the seconds at its assertion, whether it counts as a failed start, and the instant of
its last release. -/
structure Episode where
  reach : Nat
  cause : Nat
  held : List (Nat × Option Nat)
  domain : Nat
  phase : Nat
  seconds : Nat
  failed : Bool
  lastRel : Nat
  deriving DecidableEq, Repr

/-- The time reference beyond its registers (R478 to R497): announcements heard by link with their instants, the outstanding
T_REQ of each link (SEQ and T1), the next SEQ, the last T_REQ and ANNOUNCE sent by link, consecutive small offsets,
discarded offsets and cross-check differences, whether ACQUIRE has stepped, the last offset by link, the start of HOLDOVER,
a fault that holds INVALID, the servo's integral, whether this module acts as grandmaster, the priority of the current
grandmaster, the end of announcing in HOLDOVER, PPS_IN edges in and out of tolerance with the phase of the last, PTP lock, and
the end of the PPS_OUT pulse. -/
structure TimeSt where
  heard : List (Nat × AnnounceMsg × Nat) := []
  req : List (Nat × Nat × Nat) := []
  seq : List (Nat × Nat) := []
  sentAt : List (Nat × Nat) := []
  annAt : List (Nat × Nat) := []
  lock : Nat := 0
  outl : Nat := 0
  xdiff : Nat := 0
  stepped : Bool := false
  lastOff : List (Nat × Int) := []
  holdAt : Nat := 0
  fatal : Bool := false
  integral : Int := 0
  acting : Bool := false
  gmPrio : Nat := 0
  annEnd : Nat := 0
  ppsGood : Nat := 0
  ppsBad : Nat := 0
  ppsLast : Int := 0
  ptpOk : Bool := false
  ppsUntil : Nat := 0
  deriving DecidableEq, Repr

/-- A task descriptor (R524); `ok` says that reserved fields are zero. -/
structure TaskDesc where
  progId : Nat
  seed : Nat
  step : Nat
  flags : Nat
  imageAddr : Nat
  ckptRec : Nat
  specWin : Nat
  swTimeout : Nat
  ok : Bool
  bytes : List Byte
  deriving DecidableEq, Repr

/-- A load that waits or runs (R512, R513): occasion, requesting mailbox and TAG, image and report addresses; for a takeover the
task slot, the cores it uses (logical, core), the instar and steps to resume from; for START the resident image. -/
structure LoadReq where
  occ : Nat
  mbx : Option Nat
  tag : Nat
  addr : Nat
  report : Nat
  task : Option Nat := none
  remap : List (Nat × Nat) := []
  deriving DecidableEq, Repr

/-- A loaded program (R514): the image, the core of each logical core, the bases of its allocations by ID, the index of its key
and the SBASE of each channel; and whether it holds its multicast groups, reduction channels and scale runs: from its load until a task of
it ends (R327, R423, R447). -/
structure Prog where
  id : Nat
  img : Image
  key : Nat
  cores : List (Nat × Nat)
  bases : List (Nat × Nat)
  sbase : List (Nat × Nat)
  holds : Bool := true
  deriving DecidableEq, Repr

/-- A task (R524 to R546): its program and descriptor, where its record goes, its cores (logical, core), cores whose CC has
exited, cores that have proposed the next instar and that instar with whether its record has been sent, the first aborting
core with its cause, why the hub aborted (0 its own cause, 1 kill, 2 fence, 3 core reset, 4 switch timeout, 5 reset or safe
state), its barrier slots and those it had when it was switched out, start time, the start of a switch-out with what asked for it (0 none, 1 a request, 2 a shed), saved
contexts and registers, the spare clusters tried, the takeovers, the steps of the last checkpoint record, the proposed instar and its
steps, the registration (0 none,
1 sent at `regAt`, 2 accepted), and a takeover asked of the spare module. -/
structure TaskSt where
  prog : Nat
  desc : TaskDesc
  mbx : Option Nat := none
  tag : Nat := 0
  resident : Bool := false
  cores : List (Nat × Nat) := []
  exited : List Nat := []
  ckpt : List Nat := []
  ckptSent : Bool := false
  abort : Option (Nat × Nat) := none
  why : Nat := 0
  fencedIn : Bool := false
  slots : List Nat := []
  oldSlots : List Nat := []
  started : Nat := 0
  swAt : Nat := 0
  swBy : Nat := 0
  swMbx : Option Nat := none
  swTag : Nat := 0
  synced : Bool := false
  ctx : List (Nat × CoreSt) := []
  ctxRegs : List (RKey × Word) := []
  ctxMem : List Host.Cell := []
  steps : List Nat := []
  tried : List Nat := []
  takeovers : Nat := 0
  ckptN : Nat := 0
  stepsNew : List Nat := []
  reg : Nat := 0
  regAt : Nat := 0
  moving : Bool := false
  loading : Bool := false
  deriving DecidableEq, Repr

/-- A registration at a spare module (R574, R575). -/
structure SpareReg where
  mod : Nat
  slot : Nat
  period : Nat
  miss : Nat
  desc : TaskDesc
  nbrs : List Nat
  lastHb : Nat
  deriving DecidableEq, Repr

/-- A takeover that a spare module is carrying out (R545, R576): the registration, whether the failed module asked for it, since
when it waits for ISOLATE_ACK, and the neighbours that have not answered; `step` is 1 while it waits, 2 once the image loads. -/
structure TakeSt where
  reg : SpareReg
  asked : Bool
  since : Nat
  left : List Nat
  step : Nat
  deriving DecidableEq, Repr

/-- Start-up beyond its registers (R558 to R571): the end of the previous phase, the image in use and what is kept of it, the
resident load (0 none, 1 queued, 2 loaded, 3 rejected, 4 started), whether the backup domain holds its check word, whether the phases
of a warm reset run, the instants of the last HELLO by link and of the last HEARTBEAT with its number, whether the increment of ATTEMPTS
for this start stands uncleared, and the WITHDRAWN cause that waits for the next power-on. -/
structure StartSt where
  phaseAt : Nat := 0
  cfg : Option CfgImage := none
  fw : Option FwImage := none
  resLoad : Nat := 0
  backupOk : Bool := false
  warm : Bool := false
  helloAt : List (Nat × Nat) := []
  hbAt : Nat := 0
  hbSeq : Nat := 0
  counted : Bool := false
  withdrawn : Bool := false
  deriving DecidableEq, Repr

/-- Fused and one-time values (R559, R560, R564, R609, R610). -/
structure FuseSt where
  serial : Nat := 0
  vendorKey : Nat := 0
  owner : Option Nat := none
  minSvn : Nat := 0
  mac : Nat := 0
  deriving DecidableEq, Repr

/-- Power, cooling and hot-plug beyond the registers (R655 to R672): the eFuse (0 open, 1 soft start, 2 closed), since when
PRSNT_N is mated and since when the soft start runs, the start of a withdrawal and whether the rails are down, input power
samples (0.1 W, newest first), OVER_LIMIT's start, since when the shed's conditions have been below their limits, tasks that a shed
switched out, since when each unused cluster has been idle, the valve loop's integral and floor (2^-16 %), whether the loop runs
and whether its drive is released, since when the valve differs from its command, low flow's start, and cluster domains turning
on, the latest instants of an input sample, a coolant sample and a loop step, sensor readings (0.1 °C), and energy not yet a whole µJ
(nJ, by rail). -/
structure PwrSt where
  efuse : Nat := 0
  latched : Bool := false
  mated : Option Nat := none
  softAt : Nat := 0
  wdAt : Option Nat := none
  samples : List Nat := []
  overAt : Option Nat := none
  goodAt : Option Nat := none
  shedTasks : List Nat := []
  idle : List (Nat × Nat) := []
  iAcc : Int := 0
  floor : Int := 0
  loop : Bool := false
  released : Bool := false
  valveAt : Option Nat := none
  flowAt : Option Nat := none
  turning : List (Nat × Nat) := []
  sampAt : Nat := 0
  coolAt : Nat := 0
  stepAt : Nat := 0
  temps : List (Nat × Int) := []
  energyFrac : List (Nat × Nat) := []
  deriving DecidableEq, Repr

/-- The safety channels beyond their registers (R686 to R697): frames missed in a row by each channel, when each last sent one, the
cross-checked pairs that are out of band with the start, the hazards channel B holds active, since when channel B waits for the
acknowledgement of a trip, and whether the 8 V bus has been bled. -/
structure SafeSt where
  missA : Nat := 0
  missB : Nat := 0
  sentA : Nat := 0
  sentB : Nat := 0
  out : List (Nat × Nat) := []
  bActive : Nat := 0
  tripAt : Option Nat := none
  bled : Bool := false
  deriving DecidableEq, Repr

/-- The hub's PCIe and mailbox side beyond the registers (R587 to R620): mailbox queues (key: m host to hub, 16 + m hub to host,
4096 + c core to hub, 8192 + c hub to core, 12288 + c inbox), doorbells on their way with their due instant, responses that wait
for room, errors logged in AER (1 Completer Abort, 2 Poisoned TLP Received), the nonce of the last report and whether it has served an unlock, the end of the debug
unlock and the test token's permissions and expiry, the telemetry block, NV memory, the PPS_TERM_EN strap, MOD_RST_N low since, and
whether P3V3_AUX is lost, and the MGMT_ADDR pins. -/
structure HostSt where
  mbx : List (Nat × List Nat) := []
  bells : List (Nat × Nat) := []
  resp : List (Nat × List Nat) := []
  aer : List Nat := []
  challenge : Option Nat := none
  served : Bool := false
  unlockEnd : Nat := 0
  token : Option (Nat × Nat) := none
  telem : List Byte := []
  nv : List Host.Cell := []
  ppsTerm : Bool := true
  modRstLow : Option Nat := none
  auxLost : Bool := false
  mgmtAddr : Nat := 7
  deriving DecidableEq, Repr

/-- Watchdogs and monitors of the hub (R632 to R641): the last kick of the hub watchdog, consecutive windows out of tolerance by
clock domain. -/
structure WatchSt where
  kick : Nat := 0
  clkBad : List (Nat × Nat) := []
  deriving DecidableEq, Repr

/-- The whole block. -/
structure State where
  pending : List Instr := []
  now : Nat := 0
  free : Nat := 0
  fusedCl : List Nat := []
  regs : List (RKey × Word) := []
  bus : BusRes := .none
  latch : List (Nat × RKey × Nat) := []
  tlatch : List (Nat × Nat × Nat × Bool) := []
  mem : List Host.Cell := []
  cores : List (Nat × CoreSt) := []
  vats : List (Nat × VatSt) := []
  routers : List (Nat × RouterSt) := []
  stq : List (Nat × List Packet) := []
  deliv : List (Nat × List Packet) := []
  hbm : List (Nat × HbmBank) := []
  msus : List (Nat × MsuSt) := []
  nodes : List (Nat × NodeSt) := []
  elog : List LogRec := []
  pers : List LogRec := []
  props : List (Nat × Proposal) := []
  out : List Out := []
  rings : List (Nat × Ring) := []
  events : List Ev := []
  evLost : Nat := 0
  tbVal : Nat := 0
  tbAt : Nat := 0
  romAt : Nat := 0
  dieBase : Nat := 0
  inj : List InjTag := []
  evNow : List (RKey × Word) := []
  started : Bool := false
  lockHub : Bool := false
  corr : List (Nat × Nat × Nat) := []
  episode : Option Episode := none
  warmHold : Bool := false
  bad : List Nat := []
  rchFault : List Nat := []
  rchSig : List (Nat × List Sig) := []
  rchBack : List Sig := []
  links : List (Nat × LinkSt) := []
  hubTags : List HubTag := []
  busMaster : Bool := false
  laneRetry : List (Nat × Nat) := []
  time : TimeSt := {}
  loadQ : List LoadReq := []
  progs : List Prog := []
  tasks : List (Nat × TaskSt) := []
  spareRegs : List SpareReg := []
  taking : List TakeSt := []
  taken : List (Nat × Nat) := []
  aseq : List (Nat × Nat) := []
  start : StartSt := {}
  fuse : FuseSt := {}
  pwr : PwrSt := {}
  safe : SafeSt := {}
  hst : HostSt := {}
  watch : WatchSt := {}
  deriving DecidableEq, Repr

/-- The block right after reset: a module of grade F, with no fused cluster (DESIGN CHOICE, notes/assumptions/4.md: the spec covers the
grades F and S and names no one of them). -/
def State.reset : State := {}

/-- The block right after reset as its fuse map makes it (R12, R754): no fused cluster on grade F, eight on grade S. -/
def State.resetOf (fused : List Nat) : State := { State.reset with fusedCl := fused }

end Sys2Proof.Machine
end

