-- ==== Sys2Proof/Machine/Ops.lean ====
section
/-! DEFINITION. The named operations over the state: the register file and its fields, the per-unit records, memory, free
values, the error log and its notices (R702 to R709, R604), task aborts (R158), and the clock. -/

namespace Sys2Proof

/-- ENGINE codes of R142. -/
def Eng.code : Eng → Nat
  | .me => 0 | .ve => 1 | .dm => 2 | .su => 3

def Eng.ofCode : Nat → Eng
  | 0 => .me | 1 => .ve | 2 => .dm | _ => .su

namespace Machine

/-! ### The register file -/

/-- The order of register keys in the file. -/
def keyLt (a b : RKey) : Bool :=
  decide (a.reg.ctorIdx < b.reg.ctorIdx)
    || (decide (a.reg = b.reg) && (decide (a.inst < b.inst) || (decide (a.inst = b.inst) && decide (a.idx < b.idx))))

/-- The mask of a field. -/
def Field.mask (f : Field) : Word := BitVec.ofNat 64 ((2 ^ f.width - 1) * 2 ^ f.lo)

/-- Bits `hi:lo` of a register value. -/
def Field.of (f : Field) (w : Word) : Nat := (w.extractLsb' f.lo f.width).toNat

/-- A register value with one field replaced. -/
def Field.ins (f : Field) (w : Word) (v : Nat) : Word :=
  (w &&& ~~~f.mask) ||| ((BitVec.ofNat 64 v <<< f.lo) &&& f.mask)

/-- The reset value of a register (R10): the numbers of its Reset column; NV, backup, channel B and unit-derived fields
start at 0. -/
def Reg.resetWord (r : Reg) : Word :=
  r.info.fields.foldl (fun w f => f.ins w f.rst) 0

/-- The stored value of a register. -/
def State.rd (s : State) (k : RKey) : Word := lookD k.reg.resetWord s.regs k

/-- Replacing the stored value of a register. -/
def State.wr (s : State) (k : RKey) (v : Word) : State :=
  { s with regs := putD keyLt k.reg.resetWord s.regs k v }

/-- A field of member `j` of a register of instance `i`. -/
def State.get (s : State) (f : Field) (i : Nat) (j : Nat := 0) : Nat := f.of (s.rd ⟨f.reg, i, j⟩)

/-- Setting a field of member `j` of a register of instance `i`; the value is taken modulo the field's width. -/
def State.set (s : State) (f : Field) (i : Nat) (v : Nat) (j : Nat := 0) : State :=
  s.wr ⟨f.reg, i, j⟩ (f.ins (s.rd ⟨f.reg, i, j⟩) v)

/-- An event bit has been set in this ACLK: a write of 1 to it in the same ACLK leaves it set (R7). -/
def State.noteSet (s : State) (k : RKey) (m : Word) : State := { s with evNow := s.evNow ++ [(k, m)] }

/-- The bits of a register that events have set in this ACLK. -/
def State.setMask (s : State) (k : RKey) : Word :=
  (s.evNow.filter (fun p => decide (p.1 = k))).foldl (fun m p => m ||| p.2) 0

/-- Setting an event bit (or any one-bit field). -/
def State.flag (s : State) (f : Field) (i : Nat) (j : Nat := 0) : State := (s.set f i 1 j).noteSet ⟨f.reg, i, j⟩ f.mask

/-- Setting an event bit when a condition holds. -/
def State.flagIf (s : State) (b : Bool) (f : Field) (i : Nat) (j : Nat := 0) : State := if b then s.flag f i j else s

/-- Adding to a count that saturates at its field's largest value. -/
def State.bump (s : State) (f : Field) (i : Nat) (n : Nat := 1) (j : Nat := 0) : State :=
  s.set f i (min (s.get f i j + n) (2 ^ f.width - 1)) j

/-- Adding to a count that wraps at its field's width. -/
def State.addw (s : State) (f : Field) (i : Nat) (n : Nat) (j : Nat := 0) : State :=
  s.set f i (s.get f i j + n) j

/-- Element `b` of a field that packs elements of `w` bits. -/
def State.sub (s : State) (f : Field) (i b w : Nat) : Nat := s.get f i / 2 ^ (b * w) % 2 ^ w

/-- Replacing element `b` of a field that packs elements of `w` bits. -/
def State.setSub (s : State) (f : Field) (i b w v : Nat) : State :=
  let x := s.get f i
  s.set f i (x - x / 2 ^ (b * w) % 2 ^ w * 2 ^ (b * w) + v % 2 ^ w * 2 ^ (b * w))

/-- Bit `n` of a field. -/
def State.bit (s : State) (f : Field) (i n : Nat) : Bool := s.sub f i n 1 == 1

/-- Setting or clearing bit `n` of a field. -/
def State.setBit (s : State) (f : Field) (i n : Nat) (b : Bool) : State := s.setSub f i n 1 (b2n b)

/-- An event sets bit `n` of a field: a write of 1 to it in the same ACLK leaves it set (R7). -/
def State.flagBit (s : State) (f : Field) (i n : Nat) : State :=
  (s.setBit f i n true).noteSet ⟨f.reg, i, 0⟩ (BitVec.ofNat 64 (2 ^ (f.lo + n)))

/-- The word of a register after a reset that covers it: its reset word, with the kept fields of the word before. -/
def Reg.keptWord (r : Reg) (keep : Field → Bool) (w : Word) : Word :=
  (r.info.fields.filter keep).foldl (fun x f => f.ins x (f.of w)) r.resetWord

/-- An entry of the register list after a reset: none at its Reset value. -/
def State.keptEntry (s : State) (keep : Field → Bool) (k : RKey) : Option Word :=
  if k.reg.keptWord keep (s.rd k) = k.reg.resetWord then none else some (k.reg.keptWord keep (s.rd k))

/-- Returning the registers that `cover` accepts to their Reset values (R10), keeping the fields for which `keep` holds. -/
def State.resetRegs (s : State) (cover : RKey → Bool) (keep : Field → Bool) : State :=
  { s with regs := s.regs.filterMap (fun p => if cover p.1 then (s.keptEntry keep p.1).map (fun w => (p.1, w)) else some p) }

/-! ### The clock and free values -/

/-- The clock carried forward to an instant, never back; what engines do on the way is `State.at_`'s. -/
def State.setNow (s : State) (t : Nat) : State :=
  { s with now := max s.now t, evNow := if s.now < t then [] else s.evNow }

/-- ACLK periods in a microsecond (R13). -/
def usAclk : Nat := 1900

/-- A fresh free value and the state with the counter advanced. -/
def State.fresh (s : State) : Word × State := (Config.freeValue s.free, { s with free := s.free + 1 })

/-- TCLK periods elapsed (156.25 MHz against ACLK, R13, R479). -/
def State.ticks (s : State) : Nat := s.now * 15625 / 190000

/-- The timebase (R478, R479): nanoseconds × 2^32, counted on from its last setting by TIME_INC per TCLK. `tbAt` counts
TCLK. -/
def State.timeFull (s : State) : Nat := (s.tbVal + (s.ticks - s.tbAt) * s.get F.TIME_INC_INC 0) % 2 ^ 96

/-- The timebase's nanosecond count. -/
def State.timeNs (s : State) : Nat := s.timeFull / 2 ^ 32

/-- Seconds for the records that store them, 0xFFFF_FFFF when time is not VALID (R642, R712). -/
def State.seconds (s : State) : Nat :=
  if s.get F.TIME_STATUS_VALID 0 = 1 then s.timeNs / 10 ^ 9 % 2 ^ 32 else 0xFFFFFFFF

/-! ### Per-unit records -/

def State.core (s : State) (c : Nat) : CoreSt := lookD {} s.cores c
def State.setCore (s : State) (c : Nat) (x : CoreSt) : State := { s with cores := putD natLt {} s.cores c x }
def State.modCore (s : State) (c : Nat) (f : CoreSt → CoreSt) : State := s.setCore c (f (s.core c))
def State.vat (s : State) (k : Nat) : VatSt := lookD {} s.vats k
def State.setVat (s : State) (k : Nat) (x : VatSt) : State := { s with vats := putD natLt {} s.vats k x }
def State.router (s : State) (k : Nat) : RouterSt := lookD {} s.routers k
def State.setRouter (s : State) (k : Nat) (x : RouterSt) : State := { s with routers := putD natLt {} s.routers k x }
def State.msu (s : State) (m : Nat) : MsuSt := lookD {} s.msus m
def State.setMsu (s : State) (m : Nat) (x : MsuSt) : State := { s with msus := putD natLt {} s.msus m x }
def State.hbmBank (s : State) (k : Nat) : HbmBank := lookD {} s.hbm k
def State.setHbmBank (s : State) (k : Nat) (x : HbmBank) : State := { s with hbm := putD natLt {} s.hbm k x }
def State.node (s : State) (k : Nat) : NodeSt := lookD {} s.nodes k
def State.setNode (s : State) (k : Nat) (x : NodeSt) : State := { s with nodes := putD natLt {} s.nodes k x }
def CoreSt.bank (x : CoreSt) (b : Nat) : BankSt := lookD {} x.banks b
def CoreSt.setBank (x : CoreSt) (b : Nat) (v : BankSt) : CoreSt := { x with banks := putD natLt {} x.banks b v }
def State.send (s : State) (o : Out) : State := { s with out := s.out ++ [o] }

/-- Clusters that a module of grade S has fused off (R12, R754). -/
def gradeSFused : Nat := 8

/-- The module's grade: S exactly when eight clusters are fused off, F with none (R12). -/
def State.gradeS (s : State) : Bool := decide (s.fusedCl.length = gradeSFused)

/-- A fuse map that a module of grade F or S has (R12): none, or eight different clusters. -/
def fuseOk (fused : List Nat) : Bool :=
  fused.all (fun k => decide (k < 96)) && decide fused.Nodup && (fused.isEmpty || decide (fused.length = gradeSFused))

/-- Core ID fields (00_scope.md): die, cluster in die, core in cluster; and the instance number 48·die + cluster (R758). -/
def dieOf (c : Nat) : Nat := c / 1024
def clusterOf (c : Nat) : Nat := c / 16 % 64
def corein (c : Nat) : Nat := c % 16
def cluInst (c : Nat) : Nat := 48 * dieOf c + clusterOf c
def coreId (cl n : Nat) : Nat := cl / 48 * 1024 + cl % 48 * 16 + n

/-- The core exists: its ID names a cluster that is not fused (R751, R754). -/
def State.corePresent (s : State) (c : Nat) : Bool :=
  decide (c < 2048) && decide (clusterOf c < 48) && !(s.fusedCl.contains (cluInst c))

/-- The cluster's supply domain is at power-good (R660, R759). -/
def State.clusterOn (s : State) (cl : Nat) : Bool := bitOf (s.get F.PWR_CDOM_PG_PG 0 (cl / 48)) (cl % 48)

/-- The CC states in which the core watchdog counts: RUNNING, PUSH_STALL and WFI (R632). -/
def wdCounts (st : Nat) : Bool := decide (1 ≤ st) && decide (st ≤ 3)

/-- ACLK left of a core's watchdog (R632). -/
def State.wdNow (s : State) (c : Nat) : Nat :=
  let x := s.core c
  if s.get F.CC_WDOG_EN c = 1 ∧ wdCounts (s.get F.CC_STATE_STATE c) then x.wdLeft - (s.now - x.wdAt) else x.wdLeft

/-- The state of a CC changes (R165); its watchdog keeps what is left. -/
def State.ccState (s : State) (c v : Nat) : State :=
  let n := s.wdNow c
  (s.modCore c (fun x => { x with wdLeft := n, wdAt := s.now })).set F.CC_STATE_STATE c v

/-- The core is fenced (R176). -/
def State.fenced (s : State) (c : Nat) : Bool := s.bit F.CLU_FENCE_FENCED (cluInst c) (corein c)

/-- An abort stops the engines from the ACLK after `t` on (R158): rows that have entered the ME's arrays go on, the VE writes nothing
further, completions that would fall later do not come. -/
def CoreSt.halt (x : CoreSt) (t : Nat) : CoreSt :=
  { x with
    ccSince := none
    meFly := x.meFly.map (fun f => if f.dead.isSome then f else
      { f with todo := f.todo.filter (fun a => decide (a.at_ ≤ t)), rows := f.rows.filter (fun r => decide (r.t ≤ t)), dead := some t })
    veFly := x.veFly.map (fun v => { v with late := v.late.filter (fun l => decide (l.1 ≤ t)), dead := true })
    store := none
    dueCpl := x.dueCpl.map (fun d => if d.at_ ≤ t then d else { d with at_ := t + 1, status := 16 }) }

/-- The blocks of a fenced core stop where they are: nothing that was begun goes on (R176); the vat cells return. -/
def CoreSt.freeze (x : CoreSt) (t : Nat) : CoreSt :=
  { x with
    ccSince := none, meFly := [], veFly := none, store := none, phase := []
    dueCpl := x.dueCpl.map (fun d => { d with status := 16 })
      ++ ((x.meFly.filter (fun f => !f.ended)).map MeFly.q ++ (x.veFly.map VeFly.q).toList).map (fun q => ⟨t + 1, 0, q, 16, 0⟩) }

/-- The hub fences a core (R176, R165). -/
def State.fence (s : State) (c : Nat) : State :=
  ((s.setBit F.CLU_FENCE_FENCED (cluInst c) (corein c) true).ccState c 4).modCore c (fun x => x.freeze s.now)

/-- The ACLK of the last reset that covers a core: one of its own, or one of its die. -/
def State.coreBase (s : State) (c : Nat) : Nat := max (s.core c).base s.dieBase

/-- TRF_NOW of a core: ACLK since the last reset that covers it (R119). -/
def State.trfNow (s : State) (c : Nat) : Nat := s.now - s.coreBase c

/-- The core's blocks do nothing: it is fenced, or a reset of core reach has stopped it (R176, R626). -/
def State.cutOff (s : State) (c : Nat) : Bool := s.fenced c || (s.core c).drain.isSome

def CoreSt.eng (x : CoreSt) : Eng → EngSt
  | .me => x.me | .ve => x.ve | .dm => x.dm | .su => x.su

def CoreSt.setEng (x : CoreSt) (e : Eng) (v : EngSt) : CoreSt :=
  match e with
  | .me => { x with me := v } | .ve => { x with ve := v } | .dm => { x with dm := v } | .su => { x with su := v }

def EngSt.list (e : EngSt) : Nat → List QCmd
  | 0 => e.q0 | 1 => e.q1 | 2 => e.q2 | _ => e.q3

def EngSt.setList (e : EngSt) (p : Nat) (l : List QCmd) : EngSt :=
  match p with
  | 0 => { e with q0 := l } | 1 => { e with q1 := l } | 2 => { e with q2 := l } | _ => { e with q3 := l }

/-- Every command an engine holds in its lists. -/
def EngSt.all (e : EngSt) : List QCmd := e.q0 ++ e.q1 ++ e.q2 ++ e.q3

/-! ### Commands (R142) -/

/-- Bits `hi:lo` of the field that starts at byte `b` of a command. -/
def Cmd.f (c : Cmd) (b hi lo : Nat) : Nat := (BitVec.extractLsb' (8 * b + lo) (hi + 1 - lo) c).toNat

def Cmd.opcode (c : Cmd) : Nat := Cmd.f c 0 7 0
def Cmd.engine (c : Cmd) : Nat := Cmd.f c 1 7 6
def Cmd.prio (c : Cmd) : Nat := Cmd.f c 1 5 4
def Cmd.notify (c : Cmd) : Bool := Cmd.f c 1 3 3 == 1
def Cmd.hdrRsv (c : Cmd) : Nat := Cmd.f c 1 2 0
def Cmd.doneEn (c : Cmd) : Bool := Cmd.f c 2 15 15 == 1
def Cmd.doneCtr (c : Cmd) : Nat := Cmd.f c 2 14 10
def Cmd.id (c : Cmd) : Nat := Cmd.f c 2 9 0
def Cmd.deckle (c : Cmd) : Nat := Cmd.f c 4 31 0
def Cmd.loop (c : Cmd) (l : Nat) : Nat := Cmd.f c (8 + 2 * l) 15 0
/-- A signed field. -/
def Cmd.sf (c : Cmd) (b hi lo : Nat) : Int := sext (hi + 1 - lo) (Cmd.f c b hi lo)
/-- Iterations of a command. -/
def Cmd.iters (c : Cmd) : Nat := Cmd.loop c 0 * Cmd.loop c 1 * Cmd.loop c 2 * Cmd.loop c 3
/-- Index of level `l` in the iteration with linear index `n` (R144). -/
def Cmd.ix (c : Cmd) (n l : Nat) : Nat :=
  let l0 := Cmd.loop c 0; let l1 := Cmd.loop c 1; let l2 := Cmd.loop c 2
  match l with
  | 0 => n % l0 | 1 => n / l0 % l1 | 2 => n / (l0 * l1) % l2 | _ => n / (l0 * l1 * l2)
/-- The displacement Σ i_l × F_INC_l of an operand whose increment at level `l` is `inc l` (R144). -/
def Cmd.disp (c : Cmd) (n : Nat) (inc : Nat → Int) : Int :=
  Cmd.ix c n 0 * inc 0 + Cmd.ix c n 1 * inc 1 + Cmd.ix c n 2 * inc 2 + Cmd.ix c n 3 * inc 3
/-- The header checks of R145. -/
def Cmd.badHeader (c : Cmd) : Bool :=
  decide (Cmd.hdrRsv c ≠ 0) || decide (Cmd.iters c = 0) || decide (2 ^ 32 - 1 < Cmd.iters c)

/-! ### The error log -/

/-- Placing one event in a ring with a free entry (R604): the entry written to HBM or through the host window (R602), TAIL, PHASE
and SEQ advanced, and the ring's MSI-X vector signalled. -/
def State.ringPut (s : State) (m : Nat) (r : Ring) (e : Ev) : State :=
  let tail := s.get F.HUBC_EVQ_TAIL 0 m
  let bytes := leBytes 1 e.kind ++ leBytes 1 r.phase ++ leBytes 1 (e.mbx.getD 0) ++ leBytes 1 e.tag ++ leBytes 4 r.seq
    ++ List.replicate 56 0 ++ (e.record ++ List.replicate 64 0).take 64
  let tail' := if tail + 1 = r.size then 0 else tail + 1
  let r' := { r with seq := r.seq + 1, phase := if tail + 1 = r.size then 1 - r.phase else r.phase }
  let s := { s with rings := insertAt natLt s.rings m r' }.set F.HUBC_EVQ_TAIL 0 tail' m
  let a := r.base % 2 ^ 48 + 128 * tail
  let s := if a < 0x300000000000 then { s with mem := putBytes s.mem a bytes }
    else s.send (.hostWrite (s.get F.PCIE_HWIN_BASE 0 * 4096 + (a - 0x300000000000)) bytes)
  s.send (.msix r.vector)

/-- The ring an event goes to (R604): its mailbox's ring, else the lowest-numbered registered ring. -/
def State.ringFor (s : State) (e : Ev) : Option (Nat × Ring) :=
  match e.mbx with
  | some m => match find? s.rings m with
    | some r => some (m, r)
    | none => s.rings.head?
  | none => s.rings.head?

/-- The ring has a free entry between TAIL and HEAD. -/
def State.ringFree (s : State) (m : Nat) (r : Ring) : Bool :=
  decide ((s.get F.HUBC_EVQ_TAIL 0 m + 1) % r.size ≠ s.get F.HUBC_EVQ_HEAD 0 m)

/-- Delivering held events in order while their rings have room (EVENT_POST, R604). -/
def State.ringDrain (s : State) : Nat → State
  | 0 => s
  | n + 1 =>
    match s.events with
    | [] =>
      if s.evLost = 0 then s
      else
        let e : Ev := { kind := 5, mbx := none, tag := 0, record := leBytes 4 s.evLost }
        match s.ringFor e with
        | some (m, r) => if s.ringFree m r then { s with evLost := 0 }.ringPut m r e else s
        | none => s
    | e :: es =>
      match s.ringFor e with
      | some (m, r) =>
        if s.ringFree m r then State.ringDrain ({ s with events := es }.ringPut m r e) n else s
      | none => s

/-- Events held, shown in HUBC_EVQ_STAT.HELD. -/
def State.evSettle (s : State) : State :=
  let s := s.ringDrain 129
  s.set F.HUBC_EVQ_STAT_HELD 0 s.events.length

/-- Posting an event (R604): held when its ring has no room; a full store drops error notices first and counts them. -/
def State.post (s : State) (e : Ev) : State :=
  let s :=
    if s.events.length < 128 then { s with events := s.events ++ [e] }
    else if e.kind = 4 then { s with evLost := s.evLost + 1 }.bump F.HUBC_EVQ_STAT_LOST 0
    else
      match s.events.findIdx? (fun x => x.kind == 4) with
      | some i => { s with events := s.events.eraseIdx i ++ [e], evLost := s.evLost + 1 }.bump F.HUBC_EVQ_STAT_LOST 0
      | none => { s with events := s.events ++ [e] }
  s.evSettle

/-- Writing an error-log record (R705, R706) and its notification (R702): class 2 an error notice; classes 3 and 4 a
persistent copy, vector 32 and SMBALERT#, and for class 3 an error notice as well. -/
def State.logRec (s : State) (cls blk code unit slot flags : Nat) (data : List Byte) (count : Nat := 1) : State :=
  let seq := s.get F.ELOG_STATUS_NEXT_SEQ 0
  let valid := s.get F.TIME_STATUS_VALID 0
  let t := if valid = 1 then s.timeNs else (s.now - s.romAt) * 10 / 19
  let r : LogRec :=
    ⟨seq, cls, blk, code, t, unit, slot, flags + valid + (if 3 ≤ cls then 4 else 0), count,
      (data ++ List.replicate 40 0).take 40⟩
  let log := s.elog ++ [r]
  let s := { s with elog := if 4096 < log.length then log.drop 1 else log }.set F.ELOG_STATUS_NEXT_SEQ 0 (seq + 1)
  let s :=
    match cls with
    | 1 => s.bump F.ELOG_CNT_CORRECTED 0 count
    | 2 => s.bump F.ELOG_CNT_CONTAINED 0
    | 3 => s.bump F.ELOG_CNT_DEGRADED 0
    | 4 => s.bump F.ELOG_CNT_SAFETY 0
    | _ => s
  let s :=
    if 3 ≤ cls then
      let p := s.pers ++ [r]
      let p := if 16 < p.length then p.drop 1 else p
      (({ s with pers := p }.set F.ELOG_STATUS_PERS 0 p.length).send (.msix 32)).send .smbAlert
    else s
  if cls = 2 ∨ cls = 3 then s.post { kind := 4, mbx := none, tag := 0, record := leBytes 4 seq } else s

/-- The task slot a record of a block instance concerns: the slot of the core for the blocks of a core, else 0xFF (R706). -/
def State.slotOf (s : State) (b : Blk) (unit : Nat) : Nat :=
  if b.code ≤ 8 ∨ b.code = 0xE then (lookD ({} : CoreSt) s.cores unit).slot else 0xFF

/-- A hardware-event record of a block instance: kind 0x00 with the EVT bit (R707) and the block's log bytes. -/
def State.logHw (s : State) (cls : Nat) (b : Blk) (bit unit : Nat) (data : List Byte := []) : State :=
  s.logRec cls b.code bit unit (s.slotOf b unit) 0 data

/-- A corrected error of a block instance (R703): a record on the first and then at most once per second, its COUNT the
corrections since the instance's previous record. -/
def State.corrected (s : State) (b : Blk) (bit unit : Nat) : State :=
  let k := b.code * 65536 + unit
  let (last, n) := lookD (0, 0) s.corr k
  if decide (last = 0) || decide (last + 1900000000 ≤ s.now + 1) then
    { s with corr := insertAt natLt s.corr k (s.now + 1, 0) }.logRec 1 b.code bit unit (s.slotOf b unit) 0 [] (n + 1)
  else { s with corr := insertAt natLt s.corr k (last, n + 1) }

/-- A register-access record (R8, R707): class 0, kind 0x01, the master, the register's local address
(`addr` is its offset in the register space) and the value. -/
def State.logAccess (s : State) (b : Blk) (unit detail master addr : Nat) (v : Nat) : State :=
  s.logRec 0 b.code (0x100 + detail) unit 0xFF 0 (leBytes 2 master ++ leBytes 6 0 ++ leBytes 8 (0x200000000000 + addr % 0x40000000) ++ leBytes 8 v)

/-- A notice record (R707 kind 0x07), class 0. -/
def State.logNotice (s : State) (b : Blk) (unit detail : Nat) (data : List Byte := []) (slot : Nat := 0xFF) : State :=
  s.logRec 0 b.code (0x700 + detail) unit slot 0 data

/-- The code of a proposal in ELOG_PROP (R720). -/
def Proposal.word (p : Proposal) : Nat :=
  2 ^ 63 + p.kind * 2 ^ 61 + p.core * 2 ^ 32 + p.array * 2 ^ 8 + p.bank * 2 ^ 5 + p.row

/-- Writing a repair proposal (R708, R709): a match of one already held is not added again; a full store leaves a record
only and sets PROP_FULL. -/
def State.propose (s : State) (p : Proposal) : State :=
  if s.props.any (fun q => decide (q.2 = p)) then s
  else
    let s := s.logRec 0 Blk.ELOG.code (0x400 + p.kind) 0 0xFF 8 (leBytes 8 p.word)
    match (List.range 32).find? (fun n => (find? s.props n).isNone) with
    | some n =>
      let s := { s with props := insertAt natLt s.props n p }
      (s.wr ⟨.ELOG_PROP, 0, n⟩ (BitVec.ofNat 64 p.word)).set F.ELOG_STATUS_PROPS 0 s.props.length
    | none => s.flag F.ELOG_STATUS_PROP_FULL 0

/-- The hub fences a core as a module-degraded event (R702, R707 kind 0x06). -/
def State.fenceDegraded (s : State) (c : Nat) : State :=
  let cause := s.get F.ELOG_STATUS_NEXT_SEQ 0 - 1
  (s.fence c).logRec 3 Blk.CLU.code 0x600 (cluInst c) 0xFF 0 (leBytes 4 c ++ leBytes 4 0 ++ leBytes 4 cause)

/-! ### Memory -/

/-- First local address of a core's window (R751). -/
def winBase (c : Nat) : Nat := 0x100000000000 + c * 0x100000

/-- One byte of the local address space (R750). -/
def State.readByte (s : State) (a : Nat) : Byte := getByte s.mem a

def State.readMem (s : State) (a n : Nat) : List Byte := getBytes s.mem a n

/-- Bytes of a line that PERT_ECC selects, by unit (R728): 0 scratchpad, 1 ACB, 2 TRF row, 3 vat cell, 4 HBM. -/
def injSize : Nat → Nat
  | 0 => 8 | 1 => 8 | 4 => 64 | _ => 1

/-- A write of `n` places from `a` on in a unit (R728): tags of lines it stores whole end; the armed line, stored whole, is corrupted and
tagged. -/
def State.injWrite (s : State) (unit owner a n : Nat) : State :=
  if s.inj.isEmpty && decide (s.get F.PERT_ECC_ARM 0 = 0) then s
  else
    let g := injSize unit
    let s := { s with inj := s.inj.filter (fun t =>
      !(decide (t.unit = unit) && decide (t.owner = owner) && decide (a ≤ t.line) && decide (t.line + g ≤ a + n))) }
    let l := s.get F.PERT_ECC_ADDR_ADDR 0 / g * g
    let core := s.get F.PERT_ECC_CORE 0
    let own := decide (unit = 4) || (if unit = 3 then decide (cluInst core = owner) else decide (core = owner))
    if s.get F.PERT_ECC_ARM 0 = 1 ∧ s.get F.PERT_ECC_UNIT 0 = unit ∧ own ∧ a ≤ l ∧ l + g ≤ a + n then
      let s := (s.set F.PERT_ECC_ARM 0 0).set F.PERT_ECC_FIRED 0 1
      { s with inj := s.inj ++ [⟨unit, owner, l, decide (s.get F.PERT_ECC_DOUBLE 0 = 1)⟩] }
    else s

/-- What reads of ranges (start, length) of a unit meet of tagged lines: none, or whether a double error is among them. -/
def State.injAt (s : State) (unit owner : Nat) (rs : List (Nat × Nat)) : Option Bool :=
  if s.inj.isEmpty then none
  else
    let l := s.inj.filter (fun t => decide (t.unit = unit) && decide (t.owner = owner)
      && rs.any (fun r => decide (t.line < r.1 + r.2) && decide (r.1 < t.line + injSize unit)))
    if l.isEmpty then none else some (l.any (fun t => t.double))

/-- The read's outcome with the injection. -/
def injHw (o : Option Bool) (hw : MemHw) : MemHw :=
  match o with
  | none => hw
  | some true => .unc
  | some false => if hw = .unc then .unc else .corr

/-- A step whose reads meet a tagged line sets HIT, and the records it writes carry INJECTED (R728). -/
def State.injStep (s : State) (o : Option Bool) (f : State → State) : State :=
  if o.isNone then f s
  else
    let s := s.flag F.PERT_ECC_HIT 0
    let n := s.get F.ELOG_STATUS_NEXT_SEQ 0
    let s' := f s
    { s' with elog := s'.elog.map (fun r => if n ≤ r.seq ∧ r.flags / 2 % 2 = 0 then { r with flags := r.flags + 2 } else r) }

/-! ### HBM placement (R260, R261) -/

/-- Where the 256-byte block of an HBM address lies. -/
structure HbmPlace where
  stack : Nat
  chan : Nat
  pseudo : Nat
  offset : Nat
  bank : Nat
  deriving DecidableEq, Repr

/-- The pseudo-channel number P and the MSU (R258). -/
def HbmPlace.pc (h : HbmPlace) : Nat := 64 * h.stack + 2 * h.chan + h.pseudo
def HbmPlace.msu (h : HbmPlace) : Nat := 32 * h.stack + h.chan
/-- Key of the bank (P, k). -/
def HbmPlace.key (h : HbmPlace) : Nat := 64 * h.pc + h.bank

/-- The mode of a pair: LOCAL (R298; every instance holds the same value). -/
def State.pairLocal (s : State) (p : Nat) : Bool :=
  bitOf (s.get F.HBMC_PAIR_LOCAL 0 (p / 64)) (p % 64)

/-- hbm_place of R261. -/
def State.hbmPlace (s : State) (a : Nat) : HbmPlace :=
  let p := a / 2 ^ 31
  let loc := s.pairLocal p
  let b := if loc then a / 256 % 2 ^ 22 else a / 256 % 2 ^ 23
  let sel := if loc then 256 * (a / 2 ^ 30 % 2) + Nat.xor (b % 256) (b / 256 % 256)
    else Nat.xor (b % 512) (b / 512 % 512)
  let row := if loc then b / 256 else b / 512
  let q := 16384 * p + row
  ⟨sel / 64, sel / 2 % 32, sel % 2, 256 * q + a % 256, Nat.xor (q % 64) (q / 64 % 64)⟩

/-- A 256-byte block's number. -/
def blkOf (a : Nat) : Nat := a / 256

/-- Pseudo-channel and line of a 64-byte line, as one number (R302). -/
def State.lineKey (s : State) (a : Nat) : Nat := (s.hbmPlace a).pc * 2 ^ 24 + (s.hbmPlace a).offset / 64

/-- The lines of a range, by their first bytes. -/
def linesOf (a n : Nat) : List Nat := (List.range ((a + n + 63) / 64 - a / 64)).map (fun k => (a / 64 + k) * 64)

/-- A write of all the bytes of a line replaces an uncorrectable one (R273). -/
def State.lineWrite (s : State) (a n : Nat) : State :=
  if s.bad.isEmpty then s
  else { s with bad := s.bad.filter (fun k => !((linesOf a n).any (fun l =>
    decide (s.lineKey l = k) && decide (a ≤ l) && decide (l + 64 ≤ a + n)))) }

/-- Bytes written to the local address space: HBM and the core windows. Lines written whole lose their errors (R273, R728). -/
def State.writeMem (s : State) (a : Nat) (bs : List Byte) : State :=
  let s :=
    if a < 0x006000000000 then (s.injWrite 4 0 a bs.length).lineWrite a bs.length
    else if 0x100000000000 ≤ a ∧ a < 0x100080000000 then
      s.injWrite (if a % 0x100000 < 0xC0000 then 0 else 1) ((a - 0x100000000000) / 0x100000) (a % 0x100000) bs.length
    else s
  { s with mem := putBytes s.mem a bs }

/-- The bytes of one region in place of those of another. -/
def copyCells (m : List Host.Cell) (src dst n : Nat) : List Host.Cell :=
  let keep := m.filter (fun c => decide (c.1 < dst) || decide (dst + n ≤ c.1))
  (m.filter (fun c => decide (src ≤ c.1) && decide (c.1 < src + n))).foldl (fun k c => putByte k (c.1 - src + dst) c.2) keep

/-- Copying a region of HBM (R513, R534); lines stored whole lose their errors (R273, R728). -/
def State.copyMem (s : State) (src dst n : Nat) : State :=
  let t := (s.injWrite 4 0 dst n).lineWrite dst n
  { t with mem := copyCells s.mem src dst n }

/-- Bytes of a core's own window. -/
def State.readWin (s : State) (c off n : Nat) : List Byte := s.readMem (winBase c + off) n
def State.writeWin (s : State) (c off : Nat) (bs : List Byte) : State := s.writeMem (winBase c + off) bs

/-- A value of `n` bytes of a core's own window. -/
def State.winNat (s : State) (c off n : Nat) : Nat := leNat (s.readWin c off n)

/-- The canonical form of a byte space. -/
abbrev Memory.wf (m : List Host.Cell) : Prop := canon natLt (fun _ => (0 : Byte)) m = true

/-- A scratchpad bank can serve: not retired and ON (R222, R225). -/
def State.bankOn (s : State) (c b : Nat) : Bool :=
  !(s.bit F.SPD_MAP_RETIRED c b) && decide (s.sub F.SPD_PWR_STATE c b 2 = 0)

/-- Every scratchpad bank that a range of the own window touches can serve; ACB offsets always can. -/
def State.rangeOn (s : State) (c off n : Nat) : Bool :=
  (List.range 6).all (fun b =>
    decide (off + n ≤ b * 0x20000) || decide ((b + 1) * 0x20000 ≤ off) || s.bankOn c b)

/-! ### Performance counters (R732 to R736) -/

/-- Instance number of the PMON instance beside a block (R758). -/
def pmonOf (b : Blk) (unit : Nat) : Nat := b.code * 2048 + unit

/-- Event codes for which PMON_CFG.SUB selects (R736). -/
def pmonSub (ev : Nat) : Bool :=
  decide (ev = 0x32) || decide (ev = 0x33) || (decide (0x50 ≤ ev) && decide (ev ≤ 0x53)) || decide (ev = 0x63) || decide (ev = 0x73)
    || (decide (0x90 ≤ ev) && decide (ev ≤ 0x92))

/-- Adding to counter `k` of an instance (R733): a carry out of COUNT raises EPOCH and sets its WRAP bit. -/
def State.pmonAdd (s : State) (inst k n : Nat) : State :=
  let v := s.get F.PMON_CNT_COUNT inst k + n
  let s := s.set F.PMON_CNT_COUNT inst v k
  if 2 ^ 48 ≤ v then (s.addw F.PMON_CNT_EPOCH inst (v / 2 ^ 48) k).flagBit F.PMON_WRAP_WRAP inst k else s

/-- Counter `k` of an instance counts the event now. -/
def State.pmonOn (s : State) (inst ev sub k : Nat) : Bool :=
  decide (s.get F.PMON_CFG_EN inst k = 1) && decide (s.get F.PMON_CFG_EVENT inst k = ev)
    && (!(pmonSub ev) || decide (s.get F.PMON_CFG_SUB inst k = sub)) && decide (s.get F.PMON_CTRL_EN inst = 1)
    && decide (s.get F.PMON_GFREEZE_FREEZE (pmonOf .PMON 0) = 0)

/-- An event at the PMON instance beside a block, `n` times. -/
def State.pmon (s : State) (b : Blk) (unit ev sub n : Nat) : State :=
  if n = 0 then s
  else (List.range 8).foldl (fun s k => if s.pmonOn (pmonOf b unit) ev sub k then s.pmonAdd (pmonOf b unit) k n else s) s

/-! ### Task aborts and SU counters -/

/-- The abort cause of a completion status (R161, R186, R242, R279, R380): none for a status that does not abort. -/
def abortCause : Nat → Option Nat
  | 5 => some 3 | 6 => some 4 | 7 => some 5 | 8 => some 6 | 0xB => some 9 | 0xD => some 0x0A | 0xE => some 0x0B | _ => none

/-- Raising the abort of a core's task (R158, R166): the first cause stays; the CC halts; the abort then reaches the core's
engines through CORE_TASK_ABORT. A core whose task has already aborted keeps its record. -/
def State.raiseAbort (s : State) (c cause : Nat) : State :=
  if s.get F.CC_TASK_STATUS_ABORTED c = 1 then s
  else
    let s := (s.set F.CC_TASK_STATUS_ABORTED c 1).set F.CC_TASK_STATUS_CAUSE c cause
    let s := if s.get F.CC_STATE_STATE c = 4 then s else s.ccState c 0
    s.modCore c (fun x => ({ x with abort := some cause, push := none } : CoreSt).halt s.now)

/-- The registers of counter `n` of a core's SU (R381). -/
def ctrField : Nat → Field
  | 0 => F.SU_CTR_CTR0 | 1 => F.SU_CTR_CTR1 | 2 => F.SU_CTR_CTR2 | _ => F.SU_CTR_CTR3

def State.ctr (s : State) (c n : Nat) : Nat := s.get (ctrField (n % 4)) c (n / 4)
def State.setCtr (s : State) (c n v : Nat) : State := s.set (ctrField (n % 4)) c v (n / 4)

/-- Recording in SU_LOG the first fault after VALID was cleared (R385). -/
def State.suLog (s : State) (c reason ctr chan slot group value cmdId : Nat) : State :=
  if s.get F.SU_LOG_VALID c = 1 then s
  else
    s.wr ⟨.SU_LOG, c, 0⟩ (BitVec.ofNat 64 (2 ^ 63 + reason * 2 ^ 60 + ctr * 2 ^ 55 + chan * 2 ^ 52 + slot * 2 ^ 46
      + group * 2 ^ 39 + value * 2 ^ 23 + cmdId))

/-- The enabled privileged credit channels bound to a counter (R372, R373). -/
def State.privChans (s : State) (c ctr : Nat) : List Nat :=
  (List.range 8).filter (fun n => decide (s.get F.SU_CCH_EN c n = 1) && decide (s.get F.SU_CCH_PRIV c n = 1)
    && decide (s.get F.SU_CCH_CTR c n = ctr))

/-- A credit fault (R373): the record, SU_EVT.CREDIT_FAULT and the abort with cause SYNC. -/
def State.creditFault (s : State) (c reason ctr chan value cmdId : Nat) : State :=
  ((s.suLog c reason ctr chan 0 0 value cmdId).flag F.SU_EVT_CREDIT_FAULT c).raiseAbort c 0x0C

/-- A change of step 2 of R356: the sum added once, saturating at 0xFFFF (R357), with the overflow fault of R373 on a
privileged channel. The second part says whether such a fault was raised. -/
def State.ctrAdd (s : State) (c ctr n : Nat) (cmdId : Nat := 0) : State × Bool :=
  let v := s.ctr c ctr + n
  let s := if 0xFFFF < v then ((s.setCtr c ctr 0xFFFF).flagBit F.SU_FLAG_OVF c ctr).flag F.SU_EVT_OVF c
    else s.setCtr c ctr v
  match (s.privChans c ctr).find? (fun k => decide (0 < n) && decide (s.get F.SU_CCH_CAP c k < v)) with
  | some k => (s.creditFault c 4 ctr k (min v 0xFFFF) cmdId, true)
  | none => (s, false)

/-- A subtraction of step 4 of R356: below 0 the counter becomes 0 with its flag (R357), a fault on a privileged channel. -/
def State.ctrSub (s : State) (c ctr n : Nat) (cmdId : Nat := 0) : State × Bool :=
  let v := s.ctr c ctr
  if n ≤ v then (s.setCtr c ctr (v - n), false)
  else
    let s := ((s.setCtr c ctr 0).flagBit F.SU_FLAG_UNF c ctr).flag F.SU_EVT_UNF c
    match (s.privChans c ctr).head? with
    | some k => (s.creditFault c 3 ctr k v cmdId, true)
    | none => (s, false)

/-- The command of a begun WAIT, fence or RCH_CLOSE with its cell. -/
def Begun.q (h : Begun) : QCmd := ⟨h.cmd, h.cell, h.ord, 0⟩

/-- What an engine holds in its lists, as its begun command and as a command to resume. -/
def EngSt.held (e : EngSt) : List QCmd :=
  e.all ++ (e.hold.map Begun.q).toList ++ (e.resume.map Resume.q).toList

/-- The commands of a core that hold a vat cell (R151): queued, begun, and completed with the cell still on its way back. -/
def CoreSt.held (x : CoreSt) : List QCmd :=
  x.me.held ++ x.ve.held ++ x.dm.held ++ x.su.held ++ x.dmCmds.map DmCmd.q
    ++ (x.meFly.filter (fun f => !f.ended)).map MeFly.q ++ (x.veFly.map VeFly.q).toList ++ x.dueCpl.map DueCpl.q

/-- A vat cell of a core returns to the free list (R151). -/
def State.freeCell (s : State) (c : Nat) (n : Nat := 1) : State :=
  let k := cluInst c
  (s.set F.VAT_FREE_FREE k (min 8192 (s.get F.VAT_FREE_FREE k + n))).set F.VAT_QUOTA_USED k
    (s.get F.VAT_QUOTA_USED k (corein c) - n) (corein c)

/-- A vat cell of a core returns to the free list in a given ACLK (R151). -/
def State.cellBack (s : State) (c : Nat) (e : Eng) (q : QCmd) (t : Nat) : State :=
  s.modCore c (fun x => { x with dueCpl := x.dueCpl ++ [⟨t, e.code, q, 16, 0⟩] })

/-- The cells of discarded commands return at one per ACLK (R158). -/
def State.cellsBack (s : State) (c : Nat) (qs : List QCmd) : State :=
  s.modCore c (fun x => { x with dueCpl := x.dueCpl ++ qs.zipIdx.map (fun p => ⟨s.now + 1 + p.2, 0, p.1, 16, 0⟩) })

/-- A completion record (R146). -/
def cplRecord (c : Cmd) (e : Eng) (status iter : Nat) : Nat :=
  iter % 2 ^ 32 * 2 ^ 32 + Cmd.opcode c * 2 ^ 24 + e.code * 2 ^ 22 + 2 ^ 21 + Cmd.id c * 2 ^ 4 + status

/-- Completion of a command (R146, R151, R162): the DONE_EN increment, the completion record or CPL_LOST, SEEN and the first
non-OK record, the cell's return in the ACLK after, and the abort its status calls for. -/
def State.complete (s : State) (c : Nat) (e : Eng) (q : QCmd) (status iter : Nat) : State :=
  let cmd := q.cmd
  let s := s.cellBack c e q (s.now + 1)
  let s := if Cmd.doneEn cmd then (s.ctrAdd c (Cmd.doneCtr cmd) 1).1 else s
  let rec_ := cplRecord cmd e status (if status = 0 then 0 else iter)
  let s :=
    if Cmd.notify cmd then
      if (s.core c).cpl.length < 32 then s.modCore c (fun x => { x with cpl := x.cpl ++ [BitVec.ofNat 64 rec_] })
      else s.flag F.CC_IRQ_CPL_LOST c
    else s
  if status = 0 then s
  else
    let s := s.setBit F.CC_TASK_STATUS_SEEN c (status - 1) true
    let s := if s.get F.CC_CMD_LOG_VALID c = 1 then s else s.wr ⟨.CC_CMD_LOG, c, 0⟩ (BitVec.ofNat 64 rec_)
    match abortCause status with
    | some k => s.raiseAbort c k
    | none => s

end Machine
end Sys2Proof
end

