-- ==== Sys2Proof/Machine/Bus.lean ====
section
/-! DEFINITION. The register space (R4 to R10, R750 to R760): which master reaches which block, what a refused access
answers, and the effect of the access codes on one register. -/

namespace Sys2Proof

/-- The master is the hub. -/
def Master.isHub : Master → Bool
  | .hub => true
  | _ => false

/-- The 2-byte code of a master in a register-access record (R707). -/
def Master.code : Master → Nat
  | .hub => 0xFFFF | .host => 0x8000 | .mgmt => 0x8001 | .debug => 0x8002 | .cc c => c

namespace Machine

/-- Blocks in a cluster's supply domain (R759): those of a core, and the vat. -/
def Blk.inCore : Blk → Bool
  | .CC | .ME | .VE | .DM | .SU | .SPD | .ACB | .TRF | .SYNC => true
  | _ => false

/-- Blocks of the compute dies (R622), which a warm reset covers together with the link instances and the
reduction-channel engine. -/
def Blk.onDie (b : Blk) : Bool := b.inCore || decide (b = .CLU) || decide (b = .VAT) || decide (b = .MESH)
  || decide (b = .HBMC) || decide (b = .MSU)

/-- The instance exists and its supply is on (R751, R754, R755, R759). Core mailboxes carry the core ID as their instance
and the hub's mailboxes 2,048. -/
def State.blockOn (s : State) (b : Blk) (inst : Nat) : Bool :=
  if b.inCore || (decide (b = .MBX) && decide (inst < 2048)) then
    s.corePresent inst && s.clusterOn (cluInst inst)
  else
    match b with
    | .VAT => decide (inst < 96) && !(s.fusedCl.contains inst) && s.clusterOn inst
    | .CLU | .MESH => decide (inst < 96)
    | .HBMC => decide (inst < 8)
    | .MSU => decide (inst < 256)
    | .EVL => decide (inst < 36)
    | _ => true

/-- Blocks that answer in chrysalis mode (R578). -/
def Blk.inChrysalis : Blk → Bool
  | .HUBC | .NVCF | .MBX | .RST | .PWR | .THM | .SAFE | .ELOG => true
  | _ => false

/-- Blocks a warm episode covers (R622). -/
def Blk.warm (b : Blk) : Bool := b.onDie || decide (b = .EVL) || decide (b = .RCHE)

/-- The block can be reached by a master at all: R752, R135 for a control core, R591 and R596 for the host, R612 for the
debug port; and it answers: R759, R629, R578. -/
def State.reach (s : State) (m : Master) (b : Blk) (inst : Nat) : Bool :=
  let who : Bool := match m with
    | .hub => true
    | .host => decide (s.get F.PCIE_STATUS_DL_ACTIVE 0 = 1) && decide (s.get F.PCIE_STATUS_DSTATE 0 = 0)
    | .debug => decide (s.get F.HUBC_MGMT_DBG_UNLOCKED 0 = 1)
    | .mgmt => false
    | .cc c => (b.inCore && decide (inst = c)) || (decide (b = .MBX) && decide (inst = c))
        || ((decide (b = .CLU) || decide (b = .VAT)) && decide (inst = cluInst c))
        || (decide (b = .PMON) && decide (inst % 2048 = c) && decide (inst / 2048 < 9))
  let up : Bool := match s.episode with
    | some e => decide (e.reach ≤ 1)
    | none => true
  let blk := if b = .PMON then (if inst / 2048 = 14 then Blk.SYNC else if inst / 2048 = 13 then Blk.MESH
    else if inst / 2048 = 11 then Blk.HBMC else if inst / 2048 = 15 then Blk.EVL else if inst / 2048 = 12 then Blk.RCHE
    else if inst / 2048 < 9 then Blk.CC else Blk.HUBC) else b
  let i := if b = .PMON then inst % 2048 else inst
  who && up && s.blockOn blk i && !(s.warmHold && (blk.warm || (decide (b = .MBX) && decide (inst < 2048))))
    && !(decide (s.get F.NVCF_STATUS_CHRYSALIS 0 = 1) && !(blk.inChrysalis && !(decide (b = .MBX) && decide (inst < 2048))))

/-- Any access by a master discards the latches it holds (R5, R500). -/
def State.access (s : State) (m : Master) : State :=
  { s with latch := s.latch.filter (fun l => decide (l.1 ≠ m.code)), tlatch := s.tlatch.filter (fun l => decide (l.1 ≠ m.code)) }

/-- What a refused access answers: Unsupported Request on PCIe, a bus error to internal masters (R4, R750). -/
def State.refuseBus (s : State) (m : Master) : State :=
  { s.access m with bus := match m with
    | .host => .unsupported
    | _ => .busError }

/-- A write that reaches a register and has the effect `f`. -/
def State.regCmd (s : State) (m : Master) (b : Blk) (inst : Nat) (f : State → State) : State :=
  if s.reach m b inst then { f (s.access m) with bus := .written } else s.refuseBus m

/-- RWL fields accept writes until start-up completes (R6, R8). Fields of the compute dies and of the link instances lock
again at READY after a warm episode; those of the other hub blocks stay locked throughout (R629). -/
def State.locked (s : State) (b : Blk) : Bool := if b.warm then s.started else s.started || s.lockHub

/-- The value a write leaves in one field (R6, R8). -/
def Field.written (f : Field) (m : Master) (locked : Bool) (old v : Word) : Nat :=
  match f.acc with
  | .rw => f.of v
  | .w1c => (f.of old) &&& ((2 ^ f.width - 1) ^^^ (f.of v))
  | .w1s => (f.of old) ||| (f.of v)
  | .rwl => if locked then f.of old else f.of v
  | .hubOnly => if m.isHub then f.of v else f.of old
  | .ro => f.of old
  | .wo => f.of old

/-- The whole register after a write of `v` under the byte lanes `mask`: fields outside the lanes keep their values, and W1C bits in
`held`, which the hardware sets in the same ACLK, stay set (R7). -/
def Reg.written (r : Reg) (m : Master) (locked : Bool) (old v mask held : Word) : Word :=
  r.info.fields.foldl (fun w f =>
    let v' := (v &&& mask) ||| (old &&& ~~~mask)
    let v' := match f.acc with
      | .w1c => v &&& mask &&& ~~~held
      | .w1s => v &&& mask
      | _ => v'
    f.ins w (f.written m locked old v')) old

/-- Whether a write tries to change a field that stays as it is: 0 an RWL field after start-up, 1 a field only the hub may
write (R8). -/
def Reg.denied (r : Reg) (m : Master) (locked : Bool) (old v mask : Word) : Option Nat :=
  let hit (a : Acc) : Bool := r.info.fields.any (fun f =>
    decide (f.acc = a) && decide (f.of ((v &&& mask) ||| (old &&& ~~~mask)) ≠ f.of old))
  if locked && hit .rwl then some 0 else if !m.isHub && hit .hubOnly then some 1 else none

/-- The bits of a register that its fields hold. -/
def Reg.fieldMask (r : Reg) : Word := r.info.fields.foldl (fun w f => w ||| f.mask) 0

/-- The full mask and the mask of a half. -/
def fullMask : Word := 0xFFFFFFFFFFFFFFFF
def lowMask : Word := 0x00000000FFFFFFFF
def highMask : Word := 0xFFFFFFFF00000000

/-- Reserved bits between the elements of a field that packs them: they read as zero and ignore a write (R9, R348, R387). -/
def Reg.holes : Reg → Word
  | .SU_GMAP => 0x4040404040404040
  | .MESH_ROUTE => 0x8888888888888888
  | _ => 0

/-- Writing a register by its access codes (R6 to R9), with the record of R8; `addr` is its register-space offset. -/
def State.accWrite (s : State) (m : Master) (k : RKey) (v mask : Word) (addr : Nat) : State :=
  let b := k.reg.info.blk
  let old := s.rd k
  let locked := s.locked b
  let x := v &&& ~~~k.reg.holes
  let s := match k.reg.denied m locked old x mask with
    | some d => s.logAccess b k.inst d m.code addr v.toNat
    | none => s
  s.wr k (k.reg.written m locked old x mask (s.setMask k))

end Machine
end Sys2Proof
end

