-- ==== Sys2Proof/Machine/Flags.lean ====
section
/-! DEFINITION. Error flags shared by the units that read protected memories: corrected and uncorrectable reads of the
scratchpad, the ACB and the TRF (R99, R215, R226, R231), and the arithmetic flags NAN, INF and SAT. -/

namespace Sys2Proof.Machine

open Sys2Proof

/-- The bank of a core-window offset. -/
def bankOf (off : Nat) : Nat := off / 0x20000

/-- A corrected read of scratchpad bank `b` (R215), with the retirement proposal of R226 at ECC_LIMIT. -/
def State.spdCorr (s : State) (c b : Nat) : State :=
  let n := min (s.sub F.SPD_ECC_CNT_CNT c b 8 + 1) 0xFF
  let s := ((s.flag F.SPD_EVT_ECC_CORR c).setSub F.SPD_ECC_CNT_CNT c b 8 n).corrected .SPD 1 c
  if n = s.get F.SPD_CFG_ECC_LIMIT c then s.propose ⟨1, c, 0, b, 0⟩ else s

/-- A corrected read of the ACB (R215). -/
def State.acbCorr (s : State) (c : Nat) : State :=
  ((s.flag F.ACB_EVT_ECC_CORR c).bump F.ACB_ECC_CNT_COUNT c).corrected .ACB 0 c

/-- The record of SPD_ECC_LOG (R250): the first uncorrectable error or bank-unit check failure after VALID was cleared. -/
def State.spdLog (s : State) (c master kind off : Nat) : State :=
  if s.get F.SPD_ECC_LOG_VALID c = 1 then s
  else s.wr ⟨.SPD_ECC_LOG, c, 0⟩ (BitVec.ofNat 64 (2 ^ 31 + master % 8 * 2 ^ 28 + kind * 2 ^ 27 + off % 0x100000 / 64 * 64))

/-- An uncorrectable read (kind 0) or a failed bank-unit check (kind 1) of the scratchpad (R215, R231, R250). -/
def State.spdFail (s : State) (c master kind off : Nat) : State :=
  let s := (s.flag (if kind = 0 then F.SPD_EVT_ECC else F.SPD_EVT_BANK_CHECK) c).spdLog c master kind off
  s.logHw 2 .SPD (if kind = 0 then 2 else 4) c (leBytes 8 (s.rd ⟨.SPD_ECC_CNT, c, 0⟩).toNat
    ++ leBytes 4 (s.rd ⟨.SPD_ECC_LOG, c, 0⟩).toNat)

/-- An uncorrectable read of the ACB (R215). -/
def State.acbFail (s : State) (c : Nat) : State := (s.flag F.ACB_EVT_ECC c).logHw 2 .ACB 1 c

/-- A corrected read at a core-window offset. -/
def State.winCorr (s : State) (c off : Nat) : State := if off < 0xC0000 then s.spdCorr c (bankOf off) else s.acbCorr c

/-- An uncorrectable read at a core-window offset by a master. -/
def State.winFail (s : State) (c master off : Nat) : State := if off < 0xC0000 then s.spdFail c master 0 off else s.acbFail c

/-- Flags of arithmetic results: NaN met or made, infinity met or made, saturation (R81, R184). -/
structure NumFlags where
  nan : Bool := false
  inf : Bool := false
  sat : Bool := false
  deriving DecidableEq, Repr

def NumFlags.join (a b : NumFlags) : NumFlags := ⟨a.nan || b.nan, a.inf || b.inf, a.sat || b.sat⟩

end Sys2Proof.Machine
end

