-- ==== Sys2Proof/Machine/Queues.lean ====
section
/-! DEFINITION. The engines' queues (R147 to R154): the head, the ACLK in which it can begin, and beginning it. -/

namespace Sys2Proof.Machine

open Sys2Proof

/-- The head command of an engine and its priority (R152). -/
def EngSt.headCmd (e : EngSt) : Option (Nat × QCmd) :=
  match e.head with
  | none => none
  | some p => (e.list p).head?.map (fun q => (p, q))

/-- The ACLK in which an engine can begin its head: not before 4 ACLK after it became head, and after the ACLK that counts
as the last entry (R28) or last write (R189) of the command before. -/
def EngSt.beginAt (e : EngSt) (now : Nat) : Nat :=
  max now (max (e.headSince + 4) (if e.used then e.lastEntry + 1 else 0))

/-- The core's engines run: the core exists, its cluster's domain is on, its vat is not rebuilding the free list (R159), it is not
fenced, no abort has reached it, and no switch-out has stopped it. -/
def State.running (s : State) (c : Nat) : Bool :=
  s.corePresent c && s.clusterOn (cluInst c) && !((s.vat (cluInst c)).rebuild) && !(s.cutOff c) && (s.core c).abort.isNone && !(s.core c).stopped

/-- A switch-out has stopped the core's engines. -/
def State.stopping (s : State) (c : Nat) : Bool :=
  s.corePresent c && s.clusterOn (cluInst c) && !(s.cutOff c) && (s.core c).abort.isNone && (s.core c).stopped

/-- The engine has nothing begun that keeps it from beginning its next command: no WAIT, fence or RCH_CLOSE holds its queue, the VE has
made its last write (R189), and the data mover has issued the last iteration of its previous command (R239, R519). -/
def CoreSt.free (x : CoreSt) (e : Eng) : Bool :=
  (x.eng e).hold.isNone && (match e with
    | .ve => x.veFly.isNone
    | .dm => x.dmCmds.all (fun d => !d.issuing)
    | _ => true)

/-- Place of a command that a context switch stopped (R56), beside the lists 0 to 3. -/
def resumed : Nat := 4

/-- The command that engine `e` of core `c` begins next, when `ok` accepts it, with its list and its begin ACLK: one that a context
switch stopped, else the head. -/
def State.ready (s : State) (c : Nat) (e : Eng) (ok : Cmd → Bool) : Option (Nat × QCmd × Nat) :=
  let g := (s.core c).eng e
  if s.running c && (s.core c).free e then
    match g.resume with
    | some r => if ok r.q.cmd then some (resumed, r.q, max s.now (g.lastEntry + 1)) else none
    | none =>
      match g.headCmd with
      | some (p, q) => if ok q.cmd then some (p, q, g.beginAt s.now) else none
      | none => none
  else none

/-- The iteration in which the command that `ready` names begins: 0, or where a context switch stopped it. -/
def EngSt.firstIter (g : EngSt) : Nat :=
  match g.resume with
  | some r => r.next
  | none => 0

/-- An engine whose command has begun: the command leaves its list, and the ACLK is noted. -/
def EngSt.begun (g : EngSt) (p b : Nat) : EngSt :=
  if p = resumed then { g with resume := none, lastBegin := b, used := true, lastEntry := b }
  else { g.setList p ((g.list p).drop 1) with head := none, lastBegin := b, used := true, lastEntry := b }

/-- Beginning the command that `ready` names, in ACLK `b`, which the clock has reached. -/
def State.begin_ (s : State) (c : Nat) (e : Eng) (p b : Nat) : State :=
  (s.setNow b).modCore c (fun x => x.setEng e ((x.eng e).begun p b))

/-- The last entry or last write of an engine's timeline. -/
def State.setEntry (s : State) (c : Nat) (e : Eng) (t : Nat) : State :=
  s.modCore c (fun x => x.setEng e { x.eng e with lastEntry := t })

/-- The event bit ILLEGAL of the engine that reports it. -/
def State.evtIllegal (s : State) (c : Nat) : Eng → State
  | .me => (s.flag F.ME_EVT_ILLEGAL c).set F.ME_STATUS_LAST_STATUS c 3
  | .ve => s.flag F.VE_EVT_ILLEGAL c
  | .dm => s.flag F.DM_EVT_ILLEGAL c
  | .su => s.flag F.SU_EVT_ILLEGAL c

/-- A command that ends in the ACLK in which it begins. -/
def State.endNow (s : State) (c : Nat) (e : Eng) (q : QCmd) (status : Nat) : State := s.complete c e q status 0

/-- A completion that falls due in ACLK `t` (R154, R155, R193, R239, R361). -/
def State.completeAt (s : State) (c : Nat) (e : Eng) (q : QCmd) (status t : Nat) (iter : Nat := 0) : State :=
  s.modCore c (fun x => { x with dueCpl := x.dueCpl ++ [⟨t, e.code, q, status, iter⟩] })

end Sys2Proof.Machine
end

