-- ==== Sys2Proof/Machine/BankPorts.lean ====
section
/-! DEFINITION. What an access to a core's own window meets at its banks: the owner, rows that are held, the arbitration of an access of the
vector engine or the data mover (R217 to R220, R229, R230), the ACB's shared port (R26), and the check bits of what it reads
(R215). -/

namespace Sys2Proof.Machine

open Sys2Proof

/-- Code of a master in SPD_OWN and SPD_ECC_LOG, and its place in the round-robin order (R218, R243). -/
def BankMaster.code : BankMaster → Nat
  | .cc => 0 | .ve => 1 | .dm => 2 | .mesh => 3

def State.modBank (s : State) (c b : Nat) (f : BankSt → BankSt) : State :=
  s.modCore c (fun x => x.setBank b (f (x.bank b)))

/-- The owner of a bank: a write to SPD_OWN takes effect in the ACLK after it (R217), and a reserved code acts as DM (R243). -/
def State.bankOwner (s : State) (c b : Nat) : Nat :=
  let x := s.core c
  let w := if x.ownOld.1 = s.now + 1 then x.ownOld.2 else s.get F.SPD_OWN_OWN c
  let v := w / 2 ^ (3 * b) % 8
  if 3 < v then 2 else v

/-! ### Rows -/

/-- First row of an access and how many rows it holds (R229). -/
def BankAcc.row (a : BankAcc) : Nat := a.off / 64
def BankAcc.rows (a : BankAcc) : Nat := if a.bop = 5 ∧ !a.isRead then 2 else 1
def BankAcc.isOp (a : BankAcc) : Bool := !a.isRead && decide (a.bop ≠ 0)
/-- A range that covers part of an 8-byte word at one of its ends (R215). -/
def partWord (off len : Nat) : Bool := decide (off % 8 ≠ 0) || decide ((off + len) % 8 ≠ 0)
/-- A write that covers part of an 8-byte word. -/
def BankAcc.partWord (a : BankAcc) : Bool := Sys2Proof.Machine.partWord a.off a.len
/-- The access reads its row. -/
def BankAcc.reads (a : BankAcc) : Bool := a.isRead || a.isOp || a.partWord

/-- Two ranges of rows meet. -/
def rowsMeet (r n r' n' : Nat) : Bool := decide (r < r' + n') && decide (r' < r + n)

/-- Rows that an access to `[off, off + len)` touches. -/
def rowsOf (off len : Nat) : Nat := if len = 0 then 0 else (off + len - 1) / 64 + 1 - off / 64

/-- A bank's row is held: an operation is between its read and its write (R229, R230), or an access that the bank has served has not
taken effect yet (R220). -/
def BankSt.holdsRow (k : BankSt) (r n : Nat) : Bool :=
  k.ops.any (fun o => rowsMeet r n o.acc.row o.acc.rows)
    || (match k.granted with
      | some (a, _) => rowsMeet r n a.row (max a.rows (rowsOf a.off a.len))
      | none => false)

/-- Banks that a range of the own window touches: 0 to 5 of the scratchpad. -/
def banksOf (off len : Nat) : List Nat :=
  (List.range 6).filter (fun b => decide (0 < len) && decide (b * 0x20000 < off + len) && decide (off < (b + 1) * 0x20000))

/-- ACB banks that a range touches (R214). -/
def acbBanksOf (off len : Nat) : List Nat :=
  if 0xC0000 ≤ off ∧ 0 < len then
    (List.range 4).filter (fun b => (List.range (min 4 (rowsOf off len))).any (fun r => decide ((off / 64 + r) % 4 = b)))
  else []

/-- A row of the range is held. -/
def State.rowHeld (s : State) (c off n : Nat) : Bool :=
  (banksOf off n).any (fun b => ((s.core c).bank b).holdsRow (off / 64) (rowsOf off n))

/-- Bank `b` serves an access of a master that has presented itself since ACLK `since` (R218, R219): the row is not held, no bank-unit
write takes the ACLK, and either the master owns the bank, or it has aged, or nothing of the owner waits and no other access
has aged. -/
def State.bankServes (s : State) (c b : Nat) (m : BankMaster) (since off n : Nat) : Bool :=
  let k := (s.core c).bank b
  let owner := s.bankOwner c b
  let age := s.get F.SPD_CFG_AGE c
  let aged (t : Nat) : Bool := decide (0 < age) && decide (t + age ≤ s.now)
  !(k.holdsRow (off / 64) (rowsOf off n)) && decide (k.next ≤ s.now) && !(k.ops.any (fun o => decide (o.writeAt = s.now)))
    && (if aged since && decide (m.code ≠ owner) then
          !(k.waiting.any (fun a => decide (a.master.code ≠ owner) && aged a.since
            && (decide (a.since < since) || (decide (a.since = since) && decide (a.master.code < m.code)))))
        else
          !(k.waiting.any (fun a => decide (a.master.code ≠ owner) && aged a.since))
            && (decide (m.code = owner) || !(k.waiting.any (fun a => decide (a.master.code = owner)))))

/-- The shared port of an ACB bank has served another access in this ACLK (R26). -/
def State.acbBusy (s : State) (c off n : Nat) : Bool :=
  (acbBanksOf off n).any (fun b => (s.core c).acbPort.any (fun p => decide (p.1 = b) && decide (p.2 = s.now)))

/-- An access takes the shared ports of the ACB banks it touches. -/
def State.acbUse (s : State) (c off n : Nat) : State :=
  let bs := acbBanksOf off n
  if bs.isEmpty then s
  else s.modCore c (fun x => { x with acbPort := (x.acbPort.filter (fun p => decide (p.2 = s.now) && !(bs.contains p.1))) ++ bs.map (fun b => (b, s.now)) })

/-- Every range of an access is served in this ACLK. -/
def State.windowServes (s : State) (c : Nat) (m : BankMaster) (since : Nat) (rs : List (Nat × Nat)) : Bool :=
  rs.all (fun r => (banksOf r.1 r.2).all (fun b => s.bankServes c b m since r.1 r.2) && !(s.acbBusy c r.1 r.2))

/-- The bank serves a master that does not own it because it has aged (R219). -/
def State.servedAged (s : State) (c : Nat) (m : BankMaster) (since : Nat) (rs : List (Nat × Nat)) : Bool :=
  rs.any (fun r => (banksOf r.1 r.2).any (fun b => decide (m.code ≠ s.bankOwner c b)
    && decide (0 < s.get F.SPD_CFG_AGE c) && decide (since + s.get F.SPD_CFG_AGE c ≤ s.now)))

/-- An access that its banks and ports serve takes them: the ACB's shared ports (R26), AGED (R219), and the counts of busy ACLK and ageing
serves (R736). -/
def State.windowTake (s : State) (c : Nat) (m : BankMaster) (since : Nat) (rs : List (Nat × Nat)) : State :=
  let aged := s.servedAged c m since rs
  let s := s.flagIf aged F.SPD_EVT_AGED c
  rs.foldl (fun s r =>
    let s := (banksOf r.1 r.2).foldl (fun s b =>
      (s.pmon .SPD c 0x50 b (rowsOf r.1 r.2)).pmon .SPD c 0x52 b (b2n (s.servedAged c m since [r]))) s
    s.acbUse c r.1 r.2) s

/-- Since when the data mover has presented the accesses of the command that it begins next. -/
def CoreSt.dmSince (x : CoreSt) : Nat := x.dm.beginAt 0

/-! ### Check bits (R215) -/

/-- Words that a write of a range reads first, because it covers only a part of them (R215). -/
def partWords (off len : Nat) : List (Nat × Nat) :=
  if len = 0 then []
  else (if off % 8 = 0 then [] else [(off / 8 * 8, 8)])
    ++ (if (off + len) % 8 = 0 then [] else [((off + len) / 8 * 8, 8)])

/-- Lines of the own window that PERT_ECC has corrupted and the ranges meet, with whether two bits are wrong. -/
def State.winLines (s : State) (c : Nat) (rs : List (Nat × Nat)) : List (Nat × Bool) :=
  (s.inj.filter (fun t => decide (t.unit ≤ 1) && decide (t.owner = c)
    && rs.any (fun r => decide (t.line < r.1 + r.2) && decide (r.1 < t.line + 8)))).map (fun t => (t.line, t.double))

/-- Reads of ranges of the own window by a master (R215): every corrupted word is corrected, flagged and counted, an uncorrectable one
is recorded; `hw` is what the hardware finds at an offset. Answers whether a read was corrected and whether one was
uncorrectable. -/
def State.winReads (s : State) (c master : Nat) (rs : List (Nat × Nat)) (hw : MemHw) (off : Nat) : State × Bool × Bool :=
  let lines := s.winLines c rs
  let s := lines.foldl (fun s l => s.injStep (some l.2) (fun s => if l.2 then s.winFail c master l.1 else s.winCorr c l.1)) s
  let hw := if rs.isEmpty then .ok else hw
  let s := match hw with
    | .ok => s
    | .corr => s.winCorr c off
    | .unc => s.winFail c master off
  (s, decide (hw = .corr) || lines.any (fun l => !l.2), decide (hw = .unc) || lines.any Prod.snd)

/-- What an access reads: its bytes, or for a plain write the words it covers only in part (R215). -/
def BankAcc.readRanges (a : BankAcc) : List (Nat × Nat) := if a.isRead || a.isOp then [(a.off, a.len)] else partWords a.off a.len

end Sys2Proof.Machine
end

