-- ==== Sys2Proof/Machine/DmQueue.lean ====
section
/-! DEFINITION. The data mover's begun commands (R239, R240): their status and their completion in queue order, the ranges of
the own window (R115, R235), and what reads of it find (R215). -/

namespace Sys2Proof.Machine

open Sys2Proof

/-- A begun command with nothing left to issue and nothing outstanding. -/
def DmCmd.done (d : DmCmd) : Bool := !d.issuing && decide (d.open_ = 0)

def State.dmFind (s : State) (c id : Nat) : Option DmCmd := (s.core c).dmCmds.find? (fun d => decide (d.id = id))

/-- Changing one begun command. -/
def State.modDm (s : State) (c id : Nat) (f : DmCmd → DmCmd) : State :=
  s.modCore c (fun x => { x with dmCmds := x.dmCmds.map (fun d => if d.id = id then f d else d) })

/-- A begun command joins the list, in queue order; answers its number. -/
def State.dmPush (s : State) (c : Nat) (d : DmCmd) : State × Nat :=
  let id := (s.core c).dmNext
  (s.modCore c (fun x => { x with dmCmds := x.dmCmds ++ [{ d with id := id }], dmNext := id + 1 }), id)

/-- The first failure of a command: its status and iteration; it issues nothing more (R235, R240). -/
def State.dmFail (s : State) (c id status iter : Nat) : State :=
  s.modDm c id (fun d =>
    if d.status = 0 then { d with status := status, iter := iter, reqs := [], issuing := false }
    else { d with reqs := [], issuing := false })

/-- Event bits of a data-mover status (R254). -/
def State.dmEvt (s : State) (c st : Nat) : State :=
  match st with
  | 3 => s.flag F.DM_EVT_ILLEGAL c
  | 6 => s.flag F.DM_EVT_ECC c
  | 0xC => s.flag F.DM_EVT_REMOTE c
  | 0xD => s.flag F.DM_EVT_BANK_CHECK c
  | _ => s

/-- Completion of a data-mover command: the window's counter for a DM_STREAM (R291), an abort cause of its own (R464, R467),
then the common completion. -/
def State.dmComplete (s : State) (c : Nat) (d : DmCmd) : State :=
  let s := s.dmEvt c d.status
  let s := match d.stream with
    | some (w, _, _) => (s.ctrAdd c (s.get F.DM_STRM_CFG_CTR c w) 1).1
    | none => s
  let s := if d.cause = 0 then s else s.raiseAbort c d.cause
  s.complete c .dm d.q d.status d.iter

/-- Commands that are done complete in queue order (R239). After an abort they end without completing (R158). -/
def State.dmReport (s : State) (c : Nat) : Nat → State
  | 0 => s
  | n + 1 =>
    match (s.core c).dmCmds with
    | [] => s
    | d :: rest =>
      if d.done then
        let s := s.modCore c (fun x => { x with dmCmds := rest })
        State.dmReport (if (s.core c).abort.isSome then s.cellBack c .dm d.q (s.now + 1) else s.dmComplete c d) c n
      else s

/-- Commands of the data mover that are done complete, in queue order. -/
def State.dmSettle (s : State) (c : Nat) : State := s.dmReport c ((s.core c).dmCmds.length)

/-- A data-mover command that ends unexecuted with a status: reported in queue order (R239). -/
def State.dmEnd (s : State) (c : Nat) (q : QCmd) (st : Nat) : State :=
  (s.dmPush c { id := 0, q := q, at_ := s.now, status := st, issuing := false }).1.dmSettle c

/-! ### Ranges -/

/-- A range of the own scratchpad that can be accessed (R115). -/
def State.spdRange (s : State) (c : Nat) (a : Int) (n : Nat) : Bool :=
  decide (0 ≤ a) && decide (a + n ≤ 0xC0000) && s.rangeOn c a.toNat n

/-- A range of the own window (R235): inside the window, not crossing into the ACB, its scratchpad part accessible. -/
def State.ownRange (s : State) (c : Nat) (a : Int) (n : Nat) : Bool :=
  decide (0 ≤ a) && decide (a + n ≤ 0x100000) && (decide (0xC0000 ≤ a) || s.spdRange c a n)

/-- A scratchpad bank that cannot serve lies in a range of the own window: the refusal sets REFUSED (R222, R225, R247). -/
def State.dmRefuseBank (s : State) (c : Nat) (rs : List (Int × Nat)) : State :=
  s.flagIf (rs.any (fun r => decide (0 ≤ r.1) && decide (r.1 + r.2 ≤ 0xC0000) && !(s.rangeOn c r.1.toNat r.2))) F.SPD_EVT_REFUSED c

/-- What a command's reads find in an iteration. -/
def dmHwAt (h : DmHw) (n : Nat) : MemHw :=
  match h with
  | .ok => .ok
  | .corr k => if k = n then .corr else .ok
  | .unc k => if k = n then .unc else .ok

/-- The data mover reads ranges of its own window (R215, R235): whether one of the reads is uncorrectable. The hardware's error is taken
at the first of them. -/
def State.dmRead (s : State) (c : Nat) (rs : List (Nat × Nat)) (hw : MemHw) : State × Bool :=
  let (s, _, unc) := s.winReads c 2 rs hw ((rs.head?.map Prod.fst).getD 0)
  (s, unc)

end Sys2Proof.Machine
end

