-- ==== Sys2Proof/Machine/Formats.lean ====
section
/-! DEFINITION. Number formats of 03_number_formats_and_sliced_precision.md: the encodings of R68 and R69 as exact
dyadic numbers, rounding to nearest even (R78), stochastic rounding (R79, R80), overflow and NaN rules (R81, R82), the MX
and G8 block formats (R74 to R77), and the slicing and conversion of sliced precision (R85 to R93). -/

namespace Sys2Proof.Machine

/-- The exact value of a number: NaN, an infinity, or (-1)^neg · m · 2^e. Zero is `m = 0` and keeps its sign. -/
inductive Num where
  | nan
  | inf (neg : Bool)
  | fin (neg : Bool) (m : Nat) (e : Int)
  deriving DecidableEq, Repr

/-- A floating-point format of R69: `p` significand bits with the hidden one, `emin` the exponent of the smallest
subnormal, the largest finite magnitude code, the infinity code where there is one, and the canonical NaN (R82). -/
structure FpFmt where
  width : Nat
  p : Nat
  emin : Int
  maxFin : Nat
  infCode : Option Nat
  nanCode : Nat
  deriving DecidableEq, Repr

def fmtE4M3 : FpFmt := ⟨8, 4, -9, 0x7E, none, 0x7F⟩
def fmtE5M2 : FpFmt := ⟨8, 3, -16, 0x7B, some 0x7C, 0x7E⟩
def fmtBF16 : FpFmt := ⟨16, 8, -133, 0x7F7F, some 0x7F80, 0x7FC0⟩
def fmtFP16 : FpFmt := ⟨16, 11, -24, 0x7BFF, some 0x7C00, 0x7E00⟩
def fmtFP32 : FpFmt := ⟨32, 24, -149, 0x7F7FFFFF, some 0x7F800000, 0x7FC00000⟩
def fmtFP64 : FpFmt := ⟨64, 53, -1074, 0x7FEFFFFFFFFFFFFF, some 0x7FF0000000000000, 0x7FF8000000000000⟩

/-- The value of a code of a floating-point format (R69). -/
def FpFmt.decode (f : FpFmt) (code : Nat) : Num :=
  let neg := bitOf code (f.width - 1)
  let mag := code % 2 ^ (f.width - 1)
  if f.maxFin < mag then (if f.infCode = some mag then .inf neg else .nan)
  else
    let ex := mag / 2 ^ (f.p - 1)
    let man := mag % 2 ^ (f.p - 1)
    if ex = 0 then .fin neg man f.emin
    else .fin neg (2 ^ (f.p - 1) + man) (f.emin + (ex : Int) - 1)

/-- `m / 2^s` rounded to nearest, ties to even; for `s ≤ 0` the exact `m · 2^(-s)` (R78). -/
def rneShift (m : Nat) (s : Int) : Nat :=
  if s ≤ 0 then m * 2 ^ (-s).toNat
  else
    let d := 2 ^ s.toNat
    let q := m / d
    let r := m % d
    if d < 2 * r ∨ (2 * r = d ∧ q % 2 = 1) then q + 1 else q

/-- What a conversion yields: the code, and whether it saturated, overflowed to or came from an infinity, or met a NaN. -/
structure Conv where
  code : Nat
  sat : Bool := false
  inf : Bool := false
  nan : Bool := false
  deriving DecidableEq, Repr

/-- The magnitude code that `m · 2^e` (`m > 0`) rounds to under R78, which may lie above `maxFin`. -/
def FpFmt.roundMag (f : FpFmt) (m : Nat) (e : Int) : Nat :=
  if m = 0 then 0
  else
    let top : Int := (Nat.log2 m : Int) + e
    let q : Int := max (top - ((f.p : Int) - 1)) f.emin
    ((q - f.emin).toNat) * 2 ^ (f.p - 1) + rneShift m (q - e)

/-- Conversion to a floating-point format (R78, R81, R82). `satSel` is the converting command's saturation choice. -/
def FpFmt.encode (f : FpFmt) (satSel : Bool) : Num → Conv
  | .nan => { code := f.nanCode, nan := true }
  | .inf neg =>
    let s := b2n neg * 2 ^ (f.width - 1)
    match f.infCode with
    | some c => { code := s + c }
    | none => { code := s + f.maxFin, inf := true }
  | .fin neg m e =>
    let s := b2n neg * 2 ^ (f.width - 1)
    let g := f.roundMag m e
    if g ≤ f.maxFin then { code := s + g }
    else
      match f.infCode with
      | some c => if satSel then { code := s + f.maxFin, sat := true } else { code := s + c, inf := true }
      | none => { code := s + f.maxFin, sat := true }

/-- A finite number rounded to an integer under R78. -/
def rneInt (neg : Bool) (m : Nat) (e : Int) : Int :=
  let k := rneShift m (-e)
  if neg then -(k : Int) else k

/-- Conversion to a two's complement integer of `w` bits (R81): NaN gives 0 with NAN, out of range saturates. -/
def encodeInt (w : Nat) : Num → Conv
  | .nan => { code := 0, nan := true }
  | .inf neg => { code := if neg then 2 ^ (w - 1) else 2 ^ (w - 1) - 1, inf := true }
  | .fin neg m e =>
    let i := rneInt neg m e
    if (2 : Int) ^ (w - 1) - 1 < i then { code := 2 ^ (w - 1) - 1, sat := true }
    else if i < -(2 : Int) ^ (w - 1) then { code := 2 ^ (w - 1), sat := true }
    else { code := wrapInt w i }

/-- An integer as an exact number. -/
def Num.ofInt (i : Int) : Num := .fin (decide (i < 0)) i.natAbs 0

/-- A signed dyadic `i · 2^e` as a number; an exact zero is +0. -/
def Num.ofDyadic (i : Int) (e : Int) : Num := .fin (decide (i < 0)) i.natAbs e

/-- Exact negation. -/
def Num.neg : Num → Num
  | .nan => .nan
  | .inf n => .inf (!n)
  | .fin n m e => .fin (!n) m e

/-- Exact product with the IEEE 754 rules for infinities and the sign of zero. -/
def Num.mul : Num → Num → Num
  | .nan, _ => .nan
  | _, .nan => .nan
  | .inf a, .inf b => .inf (a != b)
  | .inf a, .fin b m _ => if m = 0 then .nan else .inf (a != b)
  | .fin a m _, .inf b => if m = 0 then .nan else .inf (a != b)
  | .fin a m e, .fin b n k => .fin (a != b) (m * n) (e + k)

/-- Exact sum with the IEEE 754 rules: opposite infinities give NaN, an exact cancellation gives +0, two zeros of one
sign keep it. -/
def Num.add : Num → Num → Num
  | .nan, _ => .nan
  | _, .nan => .nan
  | .inf a, .inf b => if a = b then .inf a else .nan
  | .inf a, .fin _ _ _ => .inf a
  | .fin _ _ _, .inf b => .inf b
  | .fin a m e, .fin b n k =>
    if m = 0 ∧ n = 0 then .fin (a && b) 0 e
    else
      let lo := min e k
      let x : Int := (if a then -1 else 1) * (m * 2 ^ (e - lo).toNat : Nat)
      let y : Int := (if b then -1 else 1) * (n * 2 ^ (k - lo).toNat : Nat)
      Num.ofDyadic (x + y) lo

/-- Exact difference. -/
def Num.sub (a b : Num) : Num := a.add b.neg

/-- A quotient carried to 128 bits below the divisor's magnitude with a sticky last bit, so that one later rounding to any
format of R69 is the rounding of the exact quotient. -/
def Num.div : Num → Num → Num
  | .nan, _ => .nan
  | _, .nan => .nan
  | .inf _, .inf _ => .nan
  | .inf a, .fin b _ _ => .inf (a != b)
  | .fin a _ e, .inf b => .fin (a != b) 0 e
  | .fin a m e, .fin b n k =>
    if n = 0 then (if m = 0 then .nan else .inf (a != b))
    else
      let s := 128 + Nat.log2 n
      let q := m * 2 ^ s / n
      let r := m * 2 ^ s % n
      .fin (a != b) (2 * q + (if r = 0 then 0 else 1)) (e - k - s - 1)

/-- A square root carried far below the result's last place with a sticky last bit; negative values give NaN, -0 gives
-0. -/
def Num.sqrt : Num → Num
  | .nan => .nan
  | .inf neg => if neg then .nan else .inf false
  | .fin neg m e =>
    if m = 0 then .fin neg 0 e
    else if neg then .nan
    else
      let e' := if e % 2 = 0 then e else e - 1
      let m' := if e % 2 = 0 then m else 2 * m
      let x := m' * 2 ^ 256
      let r := Nat.sqrt x
      .fin false (2 * r + (if r * r = x then 0 else 1)) (e' / 2 - 128 - 1)

def Num.isNan : Num → Bool
  | .nan => true
  | _ => false

def Num.isInf : Num → Bool
  | .inf _ => true
  | _ => false

def Num.isFinite : Num → Bool
  | .fin _ _ _ => true
  | _ => false

def Num.isZero : Num → Bool
  | .fin _ m _ => m == 0
  | _ => false

/-- The sign of a number. -/
def Num.isNeg : Num → Bool
  | .nan => false
  | .inf n => n
  | .fin n _ _ => n

/-- `a < b` over numbers that are not NaN; zeros of either sign are equal. -/
def Num.lt : Num → Num → Bool
  | .nan, _ => false
  | _, .nan => false
  | .inf a, .inf b => a && !b
  | .inf a, .fin _ _ _ => a
  | .fin _ _ _, .inf b => !b
  | .fin a m e, .fin b n k =>
    let lo := min e k
    let x : Int := (if a then -1 else 1) * (m * 2 ^ (e - lo).toNat : Nat)
    let y : Int := (if b then -1 else 1) * (n * 2 ^ (k - lo).toNat : Nat)
    decide (x < y)

/-- Maximum: a NaN operand gives NaN, and +0 exceeds -0 (R183). -/
def Num.max (a b : Num) : Num :=
  if a.isNan || b.isNan then .nan
  else if a.lt b then b
  else if b.lt a then a
  else if a.isNeg then b else a

def Num.abs : Num → Num
  | .nan => .nan
  | .inf _ => .inf false
  | .fin _ m e => .fin false m e

/-- ⌊log2 |v|⌋ of a non-zero finite number. -/
def Num.exponent : Num → Int
  | .fin _ m e => (Nat.log2 m : Int) + e
  | _ => 0

/-- The value of an FP32 code, and its rounding back (R78). -/
def fp32 (code : Nat) : Num := fmtFP32.decode code
def toFp32 (n : Num) : Conv := fmtFP32.encode false n

/-- One FP32 operation: the operands' exact result rounded once. -/
def fp32Add (a b : Nat) : Nat := (toFp32 ((fp32 a).add (fp32 b))).code
def fp32Mul (a b : Nat) : Nat := (toFp32 ((fp32 a).mul (fp32 b))).code
def fp32Max (a b : Nat) : Nat := (toFp32 ((fp32 a).max (fp32 b))).code
/-- `a · y + b` rounded once. -/
def fp32Fma (a y b : Nat) : Nat := (toFp32 (((fp32 a).mul (fp32 y)).add (fp32 b))).code
def fp32Sub (a b : Nat) : Nat := (toFp32 ((fp32 a).sub (fp32 b))).code
def fp32Div (a b : Nat) : Nat := (toFp32 ((fp32 a).div (fp32 b))).code
def fp32Sqrt (a : Nat) : Nat := (toFp32 (fp32 a).sqrt).code

/-- The format codes of R68. -/
inductive Fmt where
  | raw | int8 | e4m3 | e5m2 | mxint8 | mxe4m3 | mxe5m2 | bf16 | fp16 | fp32 | fp64 | int32 | slice32 | slice64 | g8 | e8m0
  deriving DecidableEq, Repr

/-- The format a 4-bit code names. -/
def Fmt.ofCode : Nat → Fmt
  | 0 => .raw | 1 => .int8 | 2 => .e4m3 | 3 => .e5m2 | 4 => .mxint8 | 5 => .mxe4m3 | 6 => .mxe5m2 | 7 => .bf16
  | 8 => .fp16 | 9 => .fp32 | 10 => .fp64 | 11 => .int32 | 12 => .slice32 | 13 => .slice64 | 14 => .g8 | _ => .e8m0

/-- Bytes per element (R68). -/
def Fmt.bytes : Fmt → Nat
  | .bf16 => 2 | .fp16 => 2 | .fp32 => 4 | .int32 => 4 | .fp64 => 8 | _ => 1

def Fmt.isMx : Fmt → Bool
  | .mxint8 => true | .mxe4m3 => true | .mxe5m2 => true | _ => false

def Fmt.isSlice : Fmt → Bool
  | .slice32 => true | .slice64 => true | _ => false

/-- The exact value of one element code, without a block scale (R69, R72). -/
def Fmt.value (f : Fmt) (code : Nat) : Num :=
  match f with
  | .int8 => Num.ofInt (sext 8 code)
  | .mxint8 => Num.ofDyadic (sext 8 code) (-6)
  | .e4m3 => fmtE4M3.decode code
  | .mxe4m3 => fmtE4M3.decode code
  | .g8 => fmtE4M3.decode code
  | .e5m2 => fmtE5M2.decode code
  | .mxe5m2 => fmtE5M2.decode code
  | .bf16 => fmtBF16.decode code
  | .fp16 => fmtFP16.decode code
  | .fp32 => fmtFP32.decode code
  | .fp64 => fmtFP64.decode code
  | .int32 => Num.ofInt (sext 32 code)
  | .e8m0 => if code = 0xFF then .nan else .fin false 1 ((code : Int) - 127)
  | .raw => Num.ofInt code
  | .slice32 => Num.ofInt (sext 8 code)
  | .slice64 => Num.ofInt (sext 8 code)

/-- Conversion of one exact value to an element of a format without a block scale (R78, R81, R82). R81 names no FP32 or FP64 target: an
overflow there follows its rule for FP16 and BF16, infinity with INF, or the largest finite value with SAT when saturation is
selected (DESIGN CHOICE, notes/assumptions/38.md). -/
def Fmt.convert (f : Fmt) (satSel : Bool) (n : Num) : Conv :=
  match f with
  | .int8 => encodeInt 8 n
  | .int32 => encodeInt 32 n
  | .e4m3 => fmtE4M3.encode satSel n
  | .e5m2 => fmtE5M2.encode satSel n
  | .bf16 => fmtBF16.encode satSel n
  | .fp16 => fmtFP16.encode satSel n
  | .fp32 => fmtFP32.encode satSel n
  | .fp64 => fmtFP64.encode satSel n
  | .g8 => fmtE4M3.encode satSel n
  | .mxe4m3 => fmtE4M3.encode true n
  | .mxe5m2 => fmtE5M2.encode true n
  | .mxint8 => encodeInt 8 (n.mul (.fin false 1 6))
  | _ => { code := 0 }

/-- An element under an E8M0 scale `x`: element × 2^(x - 127), every element NaN when `x` is 0xFF (R73). -/
def scaled (n : Num) (x : Nat) : Num := if x = 0xFF then .nan else n.mul (.fin false 1 ((x : Int) - 127))

/-- Stochastic rounding of FP32 to BF16 with the 16-bit value `r` (R79, R80). -/
def stochBf16 (code r : Nat) : Conv :=
  match fmtFP32.decode code with
  | .nan => { code := fmtBF16.nanCode, nan := true }
  | .inf neg => { code := b2n neg * 2 ^ 15 + 0x7F80 }
  | .fin neg _ _ =>
    let m' := code % 2 ^ 31 + r
    let top := m' / 2 ^ 16 % 2 ^ 15
    { code := b2n neg * 2 ^ 15 + top, inf := decide (top = 0x7F80) }

/-- The exponent of the largest element magnitude of an MX element type: 8 for E4M3, 15 for E5M2, 0 for MXINT8 (R74). -/
def mxEmax : Fmt → Int
  | .mxe4m3 => 8 | .mxe5m2 => 15 | _ => 0

/-- The canonical NaN byte of an MX element type, 0x00 for MXINT8 (R74). -/
def mxNan : Fmt → Nat
  | .mxe4m3 => 0x7F | .mxe5m2 => 0x7E | _ => 0

/-- The scale R74 chooses for a block without NaN. -/
def mxScale (f : Fmt) (vs : List Num) : Nat :=
  if vs.any Num.isInf then 254
  else
    let ex := (vs.filter (fun v => !v.isZero)).map Num.exponent
    match ex with
    | [] => 0
    | e :: es =>
      let x := es.foldl max e - mxEmax f + 127
      if x < 0 then 0 else if 254 < x then 254 else x.toNat

/-- One element of an MX block under scale `x`: largest magnitude on overflow or infinity, as R74 says for every MX format. For an
MXFP8_E5M2 element R81 says infinity unless saturation is selected; R74, the rule of the MX conversion itself, is followed
(DESIGN CHOICE, notes/assumptions/38.md). -/
def mxElem (f : Fmt) (x : Nat) (v : Num) : Conv :=
  match v with
  | .inf neg =>
    match f with
    | .mxint8 => { code := if neg then 0x80 else 0x7F, inf := true }
    | .mxe5m2 => { code := b2n neg * 128 + 0x7B, inf := true }
    | _ => { code := b2n neg * 128 + 0x7E, inf := true }
  | v => f.convert true (v.mul (.fin false 1 (127 - (x : Int))))

/-- The conversion of a block of 32 values to an MX format: the scale and the elements (R74). -/
def mxBlock (f : Fmt) (vs : List Num) : Nat × List Conv :=
  if vs.any Num.isNan then (0xFF, vs.map (fun _ => { code := mxNan f, nan := true }))
  else
    let x := mxScale f vs
    (x, vs.map (mxElem f x))

/-- The G8 encoder (R76): one element under scale `x`. -/
def g8Encode (x : Nat) (v : Num) : Conv :=
  if x = 0xFF then { code := 0x7F, nan := true }
  else
    match v with
    | .nan => { code := 0x7F, nan := true }
    | .inf neg => { code := b2n neg * 128 + 0x7E, inf := true }
    | v => fmtE4M3.encode true (v.mul (.fin false 1 (127 - (x : Int))))

/-- The G8 decoder (R77): the FP32 code of a byte under scale `x`, with the NaN and infinite decodes marked. -/
def g8Decode (x byte : Nat) : Conv :=
  if x = 0xFF ∨ byte % 128 = 0x7F then { code := fmtFP32.nanCode, nan := true }
  else
    let c := toFp32 ((fmtE4M3.decode byte).mul (.fin false 1 ((x : Int) - 127)))
    { c with inf := decide (c.code % 2 ^ 31 = 0x7F800000) }

/-! ### Sliced precision (R85 to R93) -/

/-- H(s) of R85. -/
def sliceH (s : Nat) : Int :=
  if s ≤ 4 then 1 else if s ≤ 7 then 2 else 6

def expZero : Nat := 0x8000
def expNonfinite : Nat := 0x7FFF

/-- E of R85: the smallest integer with |x| < 2^E for every element; none when all are zero. -/
def sliceE (vs : List Num) : Option Int :=
  match (vs.filter (fun v => !v.isZero)).map Num.exponent with
  | [] => none
  | e :: es => some (es.foldl max e + 1)

/-- The exponent record of R86 for a row with slice count `s`. -/
def sliceRecord (s : Nat) (vs : List Num) : Nat :=
  if vs.any (fun v => !v.isFinite) then expNonfinite
  else
    match sliceE vs with
    | none => expZero
    | some e => wrapInt 16 (e + sliceH s)

/-- The grid integer T = ⌊x · 2^(8s-1-E)⌋ of R88. -/
def sliceT (s : Nat) (e : Int) : Num → Int
  | .fin neg m k =>
    let sh := (8 * s : Int) - 1 - e + k
    let i : Int := if neg then -(m : Int) else m
    if 0 ≤ sh then i * 2 ^ sh.toNat else Int.fdiv i (2 ^ (-sh).toNat)
  | _ => 0

/-- Plane `i` (1 to s) of an element (R88), one byte; a row with a record that is not finite writes zeros (R86). -/
def slicePlane (s i : Nat) (vs : List Num) (v : Num) : Nat :=
  if vs.any (fun v => !v.isFinite) then 0
  else
    match sliceE vs with
    | none => 0
    | some e => wrapInt (8 * s) (sliceT s e v) / 2 ^ (8 * (s - i)) % 256

/-- The shift of pass (i, j) at a tag's SCALE: left when positive, arithmetic right when negative (R89). -/
def passShift (i j scale : Nat) : Int := 52 - 8 * ((i : Int) + j) - 12 * scale

/-- An integer shifted by a signed count, right shifts rounding toward minus infinity (R89). -/
def shiftInt (v : Int) (n : Int) : Int :=
  if 0 ≤ n then v * 2 ^ n.toNat else Int.fdiv v (2 ^ (-n).toNat)

/-- The conversion of R92 and R93: accumulator `a` (64-bit two's complement), the two exponent records, the slice count and
the tag's SCALE, to FP32 or FP64. -/
def sliceConvert (f : FpFmt) (s ra rb scale a : Nat) : Conv :=
  if ra = expNonfinite ∨ rb = expNonfinite then { code := f.nanCode, nan := true }
  else if ra = expZero ∨ rb = expZero then { code := 0 }
  else
    let e := sext 16 ra + sext 16 rb - 2 * sliceH s - 50 + 12 * scale
    f.encode false (Num.ofDyadic (sext 64 a) e)

end Sys2Proof.Machine
end

