-- ==== Sys2Proof/Machine/Tiles.lean ====
section
/-! DEFINITION. Tile registers (04_tile_registers.md): the deckle word, the shape tag and the ready stamp, the write
buffers, the reuse latches and the tile locks. -/

namespace Sys2Proof.Machine

open Sys2Proof

/-! ### The deckle word (R107 to R110) -/

def dkFmt (d : Nat) : Nat := bitsOf d 31 28
def dkRows (d : Nat) : Nat := bitsOf d 27 24 + 1
def dkRbytes (d : Nat) : Nat := bitsOf d 23 18 + 1
def dkElems (d : Nat) : Nat := bitsOf d 10 0
def dkEsize (d : Nat) : Nat := (Fmt.ofCode (dkFmt d)).bytes
/-- Elements per row and capacity (R107). -/
def dkPerRow (d : Nat) : Nat := dkRbytes d / dkEsize d
def dkCap (d : Nat) : Nat := dkRows d * dkPerRow d

/-- A well-formed deckle (R108). -/
def dkWf (d : Nat) : Bool :=
  decide (bitsOf d 17 11 = 0) && decide (dkRbytes d % dkEsize d = 0) && decide (dkElems d ≤ dkCap d)

/-- A reader's deckle fits a tag (R109). -/
def dkFits (d off tag : Nat) : Bool :=
  decide (dkFmt d = dkFmt tag) && decide (dkRows d ≤ dkRows tag) && decide (off + dkRbytes d ≤ dkRbytes tag)
    && decide (dkElems d ≤ dkElems tag)

/-- A byte of a tile row; a row in the write buffer is read from there (R103). -/
def CoreSt.tileByte (x : CoreSt) (t r b : Nat) : Byte :=
  match (x.wbuf.reverse).find? (fun w => decide (w.tile = t) && decide (w.row = r)) with
  | some w => w.bytes.getD b 0
  | none => getByte x.trf (t * 1024 + r * 64 + b)

/-- A byte of a tile as a reader with deckle `d` at offset `off` sees it (R110): zero outside its rows, row bytes and
elements. -/
def CoreSt.dkByte (x : CoreSt) (t d off r b : Nat) : Byte :=
  if dkRows d ≤ r ∨ dkRbytes d ≤ b ∨ dkElems d ≤ r * dkPerRow d + b / dkEsize d then 0 else x.tileByte t r (off + b)

/-- `n` bytes of a row from byte `b0` as a reader sees them. -/
def CoreSt.dkRow (x : CoreSt) (t d off r b0 n : Nat) : List Byte :=
  (List.range n).map (fun i => x.dkByte t d off r (b0 + i))

/-! ### The two checks (R111, R121) -/

/-- What the checks of a tile read in core ACLK `c` find. -/
structure TileCheck where
  shape : Bool
  slip : Bool
  early : Nat
  deriving DecidableEq, Repr

/-- The shape check and the guard check of a tile read whose first row is read in TRF_NOW ACLK `t0` (R111, R121). -/
def State.tileCheck (s : State) (c tile d off t0 : Nat) : TileCheck :=
  let tagged := s.get F.TRF_TAG_TAGGED c tile = 1
  let stamp := s.get F.TRF_STAMP_STAMP c tile
  ⟨!(decide tagged && dkFits d off (s.get F.TRF_TAG_TAG c tile)), decide (t0 < stamp), stamp - t0⟩

def TileCheck.bad (k : TileCheck) : Bool := k.shape || k.slip
/-- SHAPE_FAULT outranks SLIP (R57, R111). -/
def TileCheck.status (k : TileCheck) : Nat := if k.shape then 2 else if k.slip then 1 else 0

/-- Recording in TRF_LOG the first event after VALID was cleared (R131). -/
def State.trfLog (s : State) (c deckle kind unit tile early : Nat) : State :=
  if s.get F.TRF_LOG_VALID c = 1 then s
  else
    let inj := b2n ((s.core c).injected.contains tile && decide (kind ≠ 2))
    s.wr ⟨.TRF_LOG, c, 0⟩ (BitVec.ofNat 64 (deckle * 2 ^ 32 + 2 ^ 31 + inj * 2 ^ 30 + kind * 2 ^ 28 + unit * 2 ^ 26
      + tile * 2 ^ 16 + min early 0xFFFF))

/-- A refused tile read (R111, R121): event bits, counters, log. -/
def State.tileRefuse (s : State) (c tile deckle unit : Nat) (k : TileCheck) : State :=
  let s := if k.shape then (s.flag F.TRF_EVT_SHAPE_FAULT c).bump F.TRF_SHAPE_CNT_COUNT c else s
  let s := if k.slip then (s.flag F.TRF_EVT_SLIP c).bump F.TRF_SLIP_CNT_COUNT c else s
  s.trfLog c deckle (if k.shape then 1 else 0) unit tile (if k.slip then k.early else 0)

/-! ### Reuse latches and locks (R105, R106, R120) -/

/-- A port's latches after a read of a tile: the tile becomes the most recent; a read of fewer than 16 rows fills nothing
(R105). -/
def latUse (l : List Nat) (tile rows : Nat) : List Nat :=
  if l.contains tile then tile :: l.filter (· ≠ tile)
  else if rows = 16 then (tile :: l).take 2
  else l

/-- The last ACLK in which a scheduled read holds the tile locked at `t`, if any (R120). -/
def CoreSt.lockEnd (x : CoreSt) (tile t : Nat) : Option Nat :=
  match (x.meReads.filter (fun r => decide (r.tile = tile) && decide (r.start ≤ t) && decide (t < r.start + r.rows))).map
      (fun r => r.start + r.rows) with
  | [] => none
  | e :: es => some (es.foldl max e)

/-- An ME read takes the bank in ACLK `t` (R101, R102); a latch takes none. -/
def CoreSt.bankTaken (x : CoreSt) (bank t : Nat) : Bool :=
  x.meReads.any (fun r => !r.latched && decide (r.start ≤ t) && decide (t < r.start + r.rows)
    && decide ((t - r.start + r.tile) % 16 = bank))

/-- Banks that ME reads take in ACLK `t`. -/
def CoreSt.meBanks (x : CoreSt) (t : Nat) : List Nat := (List.range 16).filter (fun b => x.bankTaken b t)

/-- One load row written in ACLK `t`: it reaches its bank, or the bank's write buffer when an ME read takes the bank or an earlier
row for the bank is still buffered (R103). Answers the core and the bank taken, if any. -/
def CoreSt.loadRow (x : CoreSt) (tile row t : Nat) (bytes : List Byte) : CoreSt × Option Nat :=
  let bank := (row + tile) % 16
  if x.bankTaken bank t || x.wbuf.any (fun w => decide (w.bank = bank)) then
    ({ x with wbuf := x.wbuf ++ [⟨bank, tile, row, bytes, t + 1⟩] }, none)
  else ({ x with trf := putBytes x.trf (tile * 1024 + row * 64) bytes }, some bank)

/-- The oldest buffered row of a bank drains into it (R103). -/
def CoreSt.drainBank (x : CoreSt) (bank : Nat) : CoreSt :=
  match x.wbuf.find? (fun w => decide (w.bank = bank)) with
  | some w => { x with trf := putBytes x.trf (w.tile * 1024 + w.row * 64) w.bytes, wbuf := x.wbuf.erase w }
  | none => x

/-- In ACLK `t` each bank that nothing else takes drains its oldest row that entered in an earlier ACLK; the others try again in the
next (R102, R103). Answers the core and the banks taken. -/
def CoreSt.drains (x : CoreSt) (t : Nat) (used : List Nat) : CoreSt × List Nat :=
  let ready := ((x.wbuf.filter (fun w => decide (w.at_ ≤ t))).map BufRow.bank).eraseDups
  let go := ready.filter (fun b => !(used.contains b))
  let x := go.foldl CoreSt.drainBank x
  ({ x with wbuf := x.wbuf.map (fun w => if w.at_ ≤ t then { w with at_ := t + 1 } else w) }, used ++ go)

end Sys2Proof.Machine
end

