-- ==== Sys2Proof/Machine/MatrixEngine.lean ====
section
/-! DEFINITION. The matrix engine (02_matrix_engine.md): operand layout, the arithmetic of one pass, the timeline, the check
column, the sliced sequencer and the three commands. -/

namespace Sys2Proof.Machine

open Sys2Proof

/-! ### Fields of an ME command (R43) -/

def meShape (c : Cmd) : Nat := Cmd.f c 16 31 0
def meSlices (c : Cmd) : Nat := Cmd.f c 20 31 28
def meFirstLvl (c : Cmd) : Nat := Cmd.f c 20 27 26
def meAccMode (c : Cmd) : Nat := Cmd.f c 20 25 24
def meAcb (c : Cmd) : Nat := Cmd.f c 24 17 0
def meFmt (c : Cmd) : Fmt := Fmt.ofCode (dkFmt (Cmd.deckle c))
/-- S_SEL of an iteration, modulo 128 (R45). -/
def meSel (c : Cmd) (n : Nat) : Nat := wrapInt 7 ((Cmd.f c 20 6 0 : Int) + Cmd.disp c n (fun l => Cmd.sf c (32 + 8 * l) 7 0))
def meX (c : Cmd) (n : Nat) : Nat := wrapInt 6 ((Cmd.f c 20 13 8 : Int) + Cmd.disp c n (fun l => Cmd.sf c (33 + 8 * l) 7 0))
def meSc (c : Cmd) (n : Nat) : Nat := wrapInt 6 ((Cmd.f c 20 21 16 : Int) + Cmd.disp c n (fun l => Cmd.sf c (34 + 8 * l) 7 0))
/-- ACB address of result row 0 of an iteration; it does not wrap (R48). -/
def meAddr (c : Cmd) (n : Nat) : Int := (meAcb c : Int) + 64 * Cmd.disp c n (fun l => Cmd.sf c (36 + 8 * l) 15 0)

/-- Reserved bits of the operand fields are zero (R43, R145). -/
def meRsv (c : Cmd) : Bool :=
  decide (Cmd.f c 20 23 22 = 0) && decide (Cmd.f c 20 15 14 = 0) && decide (Cmd.f c 20 7 7 = 0)
    && decide (Cmd.f c 24 31 18 = 0) && decide (Cmd.f c 28 31 0 = 0)
    && (List.range 4).all (fun l => decide (Cmd.f c (35 + 8 * l) 7 0 = 0) && decide (Cmd.f c (38 + 8 * l) 15 0 = 0))

/-- Formats the ME accepts (R19, R68). -/
def Fmt.meOk : Fmt → Bool
  | .int8 => true | .e4m3 => true | .e5m2 => true | .mxint8 => true | .mxe4m3 => true | .mxe5m2 => true
  | .bf16 => true | .fp16 => true | .slice32 => true | .slice64 => true | _ => false

/-- The checks of R54 in the ACLK in which the ME begins a command, the missing block of R46 apart. An ME_SWEEP whose SLICES field does not
suit its format (not 0 for a format that is not sliced, outside 3 to 8 for a sliced one) is ILLEGAL as well, which R44 says of ME_LOAD
and ME_MM only (DESIGN CHOICE, notes/assumptions/33.md; R43). -/
def meIllegal (c : Cmd) (op : Nat) : Bool :=
  let f := meFmt c
  let sl := f.isSlice
  Cmd.badHeader c || !(meRsv c) || !(f.meOk) || decide (dkFmt (Cmd.deckle c) ≠ dkFmt (meShape c))
    || !(dkWf (Cmd.deckle c)) || !(dkWf (meShape c)) || decide (meAccMode c = 3)
    || decide (meAcb c % (if sl then 128 else 64) ≠ 0)
    || (if sl then decide (op ≠ 1) || decide (meSlices c < 3) || decide (8 < meSlices c) || decide (Cmd.f c 32 7 0 ≠ 0)
        else decide (meSlices c ≠ 0))

/-! ### One pass -/

/-- K indices per row position: two in 8-bit modes, one in 16-bit modes (R18). -/
def Fmt.perPos (f : Fmt) : Nat := if f.bytes = 2 then 1 else 2
/-- Elements of one activation row, P of R22. -/
def Fmt.perRow (f : Fmt) : Nat := if f.bytes = 2 then 16 else 32

/-- N extent of a stationary shape: half its row bytes, rounded down, at most the 16 columns; row bytes that are odd or above 32 are no
ILLEGAL (DESIGN CHOICE, notes/assumptions/33.md; R43). -/
def shapeN (d : Nat) : Nat := min 16 (dkRbytes d / 2)
/-- K extent of a stationary shape: the element count over N, rounded up (R43, R83). -/
def shapeK (d : Nat) : Nat := if shapeN d = 0 then 0 else (dkElems d + shapeN d - 1) / shapeN d

/-- The stationary block of a selection as the arrays load it (R20, R23, R37, R47). -/
def CoreSt.loadBlock (x : CoreSt) (sel shape scTile : Nat) : MeBlock :=
  let h := sel % 2
  { sel := sel, fmt := dkFmt shape, kExt := shapeK shape, nExt := shapeN shape,
    rows := (List.range 16).map (fun k => x.dkRow (sel / 2) shape (32 * h) k 0 32),
    scales := if (Fmt.ofCode (dkFmt shape)).isMx then
        (List.range 16).map (fun n => (x.tileByte scTile 1 (16 * h + n)).toNat) else [] }

/-- Weight of K index `k` and column `n` (R20). -/
def MeBlock.w (b : MeBlock) (k n : Nat) : Nat :=
  if (Fmt.ofCode b.fmt).bytes = 2 then leNat (((b.rows.getD k []).drop (2 * n)).take 2)
  else ((b.rows.getD (k / 2) []).getD (2 * n + k % 2) 0).toNat

/-- Activation element `k` of a 32-byte activation row (R21). -/
def actElem (f : Fmt) (row : List Byte) (k : Nat) : Nat :=
  if f.bytes = 2 then leNat ((row.drop (2 * k)).take 2) else (row.getD k 0).toNat

/-- Alignment of R29: the product kept to 48 bits below the leading position `top`, rounded toward minus infinity, in
units of 2^(top - 48). -/
def alignProd (top : Int) : Num → Int
  | .fin neg m e => shiftInt (if neg then -(m : Int) else m) (e - (top - 48))
  | _ => 0

/-- The sum of exact products of one pass in a float mode before its rounding (R29, R83). -/
def passSum (ps : List Num) : Num :=
  if ps.any Num.isNan then .nan
  else
    let infs := ps.filter Num.isInf
    match infs with
    | [] =>
      match (ps.filter (fun p => !p.isZero)).map Num.exponent with
      | [] => .fin false 0 0
      | e :: es =>
        let top := es.foldl max e
        Num.ofDyadic ((ps.map (alignProd top)).foldl (· + ·) 0) (top - 48)
    | i :: is => if is.all (fun j => decide (j.isNeg = i.isNeg)) then i else .nan

/-- One float pass result as an FP32 code: the sum, times the MX scales, rounded once, an exact zero as +0.0 (R29, R73,
R84). -/
def floatPass (b : MeBlock) (f : Fmt) (row : List Byte) (xScale n : Nat) : Nat :=
  let ps := (List.range b.kExt).map (fun k => (f.value (actElem f row k)).mul (f.value (b.w k n)))
  let v := passSum ps
  let v := if f.isMx then scaled (scaled v xScale) (b.scales.getD n 127) else v
  match v with
  | .fin _ 0 _ => 0
  | v => let c := (toFp32 v).code; if c = 0x80000000 then 0 else c

/-- One integer pass result; planes above the first are unsigned in sliced modes (R49). -/
def intPass (b : MeBlock) (row : List Byte) (xSigned wSigned : Bool) (n : Nat) : Int :=
  ((List.range b.kExt).map (fun k =>
    let xv := (row.getD k 0).toNat
    let wv := b.w k n
    (if xSigned then sext 8 xv else (xv : Int)) * (if wSigned then sext 8 wv else (wv : Int)))).foldl (· + ·) 0

/-- FP32 accumulate; an exact zero is +0.0 (R30, R84). -/
def accFloat (stored p : Nat) : Nat := let c := fp32Add stored p; if c = 0x80000000 then 0 else c

/-- INT32 accumulate with saturation; the flag is INT_SAT (R30). -/
def accInt (stored : Nat) (p : Int) : Nat × Bool :=
  let v := sext 32 stored + p
  if (2 : Int) ^ 31 - 1 < v then (2 ^ 31 - 1, true)
  else if v < -(2 : Int) ^ 31 then (2 ^ 31, true)
  else (wrapInt 32 v, false)

/-! ### The timeline (R23, R28, R45, R50) -/

/-- One streaming pass (or load without streaming): its iteration, the load that precedes it, and its slices. -/
structure MePass where
  n : Nat
  loadAt : Option Nat
  sel : Nat
  x : Nat
  streamAt : Option Nat
  i : Nat := 1
  j : Nat := 1
  deriving DecidableEq, Repr

/-- The passes of a command that is not sliced, and the ACLK its entries take (R45). -/
def mePasses (c : Cmd) (op : Nat) : List Nat → Nat → Option Nat → List MePass × Nat
  | [], t, _ => ([], t)
  | n :: ns, t, last =>
    let sel := meSel c n
    let load := decide (op = 2) || (decide (op = 1) && decide (last ≠ some sel))
    let tl := if load then t + 17 else t
    let te := if op = 2 then tl else tl + 16
    let (ps, e) := mePasses c op ns te (some sel)
    (⟨n, if load then some t else none, sel, meX c n, if op = 2 then none else some tl, 1, 1⟩ :: ps, e)

/-- The (i0, i) pairs of one stationary slice of a level-0 pass, in the order of R50. -/
def sliceStreams (c : Cmd) (p j s t : Nat) (first : Bool) : List (Nat × Nat) → List MePass
  | [] => []
  | (i0, i) :: rest =>
    let n := p * Cmd.loop c 0 + i0
    ⟨n, if first then some (t - 17) else none, (meSel c n + j - 1) % 128, (meX c n + i - 1) % 64, some t, i, j⟩
      :: sliceStreams c p j s (t + 16) false rest

/-- The passes of a sliced sweep, and the ACLK they take (R50, R51). -/
def slicePasses (c : Cmd) (s : Nat) : List (Nat × Nat) → Nat → List MePass × Nat
  | [], t => ([], t)
  | (p, j) :: rest, t =>
    let pairs := (List.range (Cmd.loop c 0)).flatMap (fun i0 => (List.range (s + 1 - j)).map (fun i => (i0, i + 1)))
    let (ps, e) := slicePasses c s rest (t + 17 + 16 * pairs.length)
    (sliceStreams c p j s (t + 17) true pairs ++ ps, e)

/-! ### The check column (R37 to R39) -/

/-- A sum held with a 32-bit significand (R37, R38): rounded to nearest, or upward in magnitude. -/
def sig32 (up : Bool) : Num → Num
  | .fin neg m e =>
    let b := m.log2 + 1
    if b ≤ 32 then .fin neg m e
    else .fin neg (if up then (m + 2 ^ (b - 32) - 1) / 2 ^ (b - 32) else rneShift m (b - 32 : Nat)) (e + (b - 32 : Nat))
  | v => v

/-- An exact sum. -/
def sumNum (l : List Num) : Num := l.foldl Num.add (.fin false 0 0)

/-- Weight of K index `k` and column `n` as the check column takes it: in MX formats under its column's scale (R37). -/
def MeBlock.wScaled (b : MeBlock) (k n : Nat) : Num :=
  let f := Fmt.ofCode b.fmt
  let v := f.value (b.w k n)
  if f.isMx then scaled v (b.scales.getD n 127) else v

/-- The signed column sum c_k and the magnitude sum a_k of R37. -/
def MeBlock.colSum (b : MeBlock) (k : Nat) : Num := sig32 false (sumNum ((List.range b.nExt).map (b.wScaled k)))
def MeBlock.colMag (b : MeBlock) (k : Nat) : Num := sig32 true (sumNum ((List.range b.nExt).map (fun n => (b.wScaled k n).abs)))

/-- ME_CHK_CFG.TOL as it acts: 0 to 3 act as 4 (R62). -/
def chkTol (tol : Nat) : Nat := max 4 tol

/-- DIFF_EXP of a difference (R67): its exponent plus 128, or 0xFF when that is no code. -/
def diffExp (d : Num) : Nat :=
  let e := d.exponent + 128
  if d.isZero || decide (e < 0) || decide (0xFE < e) then 0xFF else e.toNat

/-- What the check column finds at a float result row (R38, R39): the comparison is skipped, or it fails with a DIFF_EXP, or it
passes. `x` holds the activation elements as values, `vals` the row's FP32 results. -/
def floatCheck (b : MeBlock) (isMx : Bool) (x : List Num) (xScale tol : Nat) (vals : List Nat) : Bool × Option Nat :=
  let weigh (v : Num) : Num := if isMx then scaled v xScale else v
  let c := weigh (sumNum (x.zipIdx.map (fun p => p.1.mul (b.colSum p.2))))
  let bound := weigh (sig32 true (sumNum (x.zipIdx.map (fun p => p.1.abs.mul (b.colMag p.2)))))
  let s := sumNum (vals.map fp32)
  if !c.isFinite || vals.any (fun v => !(fp32 v).isFinite) then (true, none)
  else
    let d := (s.sub c).abs
    if ((Num.fin false (chkTol tol) (-23)).mul bound).lt d then (false, some (diffExp d)) else (false, none)

/-- The integer comparison S = C (R38): the DIFF_EXP when it fails. -/
def intCheck (b : MeBlock) (x : Nat → Int) (w : Nat → Nat → Int) (vals : List Int) : Option Nat :=
  let c := (List.range b.kExt).foldl (fun a k => a + x k * (List.range b.nExt).foldl (fun t n => t + w k n) 0) 0
  let d := vals.foldl (· + ·) 0 - c
  if d = 0 then none else some (diffExp (Num.ofInt d))

/-! ### Result rows -/

/-- The first iteration that raised a flag (R58). -/
def firstOf (o : Option Nat) (b : Bool) (n : Nat) : Option Nat := if b then (if o.isNone then some n else o) else o

/-- How a result row is written: OVERWRITE (R32). -/
def meOverwrites (c : Cmd) (n : Nat) : Bool :=
  match meAccMode c with
  | 1 => true
  | 2 => decide (Cmd.ix c n (meFirstLvl c) = 0)
  | _ => false

/-- What the ME samples as it begins a command (R202): in the BACKWARD phase the 256 freeze bits, else nothing. -/
def State.freezeSample (s : State) (c : Nat) : Option Nat :=
  if s.get F.VE_CTX_PHASE c = 1 then
    some ((List.range 4).foldl (fun w q => w + s.get F.VE_FREEZE_FROZEN c q * 2 ^ (64 * q)) 0)
  else none

/-- An ACB row of 64 bytes lies in a frozen block of the sample (R202). -/
def frozenRow (sample : Option Nat) (row : Nat) : Bool :=
  match sample with
  | some w => bitOf w (row / 16)
  | none => false

/-- Bytes of one result row: 64, or 128 in sliced modes. -/
def meRowBytes (cmd : Cmd) : Nat := if (meFmt cmd).isSlice then 128 else 64

/-- Writing one result row of 16 FP32 or INT32 columns (R30 to R34). Answers the state and whether INT32 saturated. -/
def State.writeRow (s : State) (c : Nat) (r : MeRow) : State × Bool :=
  if r.k0 && !r.ovw then (s, false)
  else
    let off := 0xC0000 + r.addr
    let olds := (List.range r.nExt).map (fun n => s.winNat c (off + 4 * n) 4)
    let res := (olds.zip r.vals).map (fun (o, v) =>
      if r.k0 then (0, false)
      else if r.isInt then (if r.ovw then (wrapInt 32 v, false) else accInt o v)
      else ((if r.ovw then v.toNat else accFloat o v.toNat), false))
    (s.writeWin c off (res.flatMap (fun r => leBytes 4 r.1)), res.any Prod.snd)

/-- Setting the tag of a sliced accumulator row (R90). -/
def State.setTag (s : State) (c row : Nat) (g : SliceTag) : State :=
  s.modCore c (fun x => { x with tags := putD natLt ⟨0, 0⟩ x.tags row g })

/-- Writing one sliced row of 16 64-bit accumulators and its tag (R89, R90). An ACCUMULATE of a block with K = 0 leaves the row and its
count N as they are (DESIGN CHOICE for the count, notes/assumptions/33.md; R34). -/
def State.writeSliced (s : State) (c : Nat) (r : MeRow) : State :=
  let row := r.addr / 128
  let tag := lookD ⟨0, 0⟩ (s.core c).tags row
  let off := 0xC0000 + r.addr
  let first := decide (r.i = 1 ∧ r.j = 1)
  let ovw := r.ovw && first
  if r.k0 then
    if ovw then (s.writeWin c off (List.replicate (8 * r.nExt) 0)).setTag c row ⟨1, 0⟩ else s
  else if ovw then
    (s.writeWin c off (r.vals.flatMap (fun v => leBytes 8 (wrapInt 64 (shiftInt v (passShift r.i r.j 0)))))).setTag c row ⟨1, 0⟩
  else
    let fold := first && decide (tag.n = 128) && decide (tag.scale = 0)
    let scale := if fold then 1 else tag.scale
    let olds := (List.range 16).map (fun n => sext 64 (s.winNat c (off + 8 * n) 8))
    let olds := if fold then olds.map (fun o => shiftInt o (-12)) else olds
    let news := olds.zipIdx.map (fun (o, n) =>
      if n < r.nExt then o + shiftInt (r.vals.getD n 0) (passShift r.i r.j scale) else o)
    (s.writeWin c off (news.flatMap (fun v => leBytes 8 (wrapInt 64 v)))).setTag c row ⟨if first then tag.n + 1 else tag.n, scale⟩

/-- Rows that a deckle makes valid: M_t of R22. -/
def meRows (cmd : Cmd) : Nat := (dkElems (Cmd.deckle cmd) + (meFmt cmd).perRow - 1) / (meFmt cmd).perRow

/-- The result rows of an iteration lie in the ACB (R48). -/
def meInAcb (cmd : Cmd) (n : Nat) : Bool :=
  decide (0 ≤ meAddr cmd n) && decide (meAddr cmd n + (meRowBytes cmd * meRows cmd : Nat) ≤ 0x40000)

/-- An activation row of a pass as it enters the arrays in ACLK `t` (R21 to R29, R37 to R39, R49). A block whose format or shape is not
the command's is taken with its own K and N extents and the command's format (DESIGN CHOICE, notes/assumptions/33.md). -/
def State.meEnter (s : State) (c : Nat) (f : MeFly) (a : MeAct) (b : MeBlock) (m t : Nat) : MeRow :=
  let x := s.core c
  let cmd := f.q.cmd
  let fmt := meFmt cmd
  let row := x.dkRow a.tile (Cmd.deckle cmd) 0 (m / 2) (32 * (m % 2)) 32
  let isInt := decide (fmt = .int8) || fmt.isSlice
  let xScale := (x.tileByte (meSc cmd a.n) 0 m).toNat
  let xs := decide (fmt = .int8) || decide (a.i = 1)
  let ws := decide (fmt = .int8) || decide (a.j = 1)
  let elems := (List.range b.kExt).map (fun k => fmt.value (actElem fmt row k))
  let codes := if isInt then [] else (List.range b.nExt).map (floatPass b fmt row xScale)
  let vals : List Int := if isInt then (List.range b.nExt).map (intPass b row xs ws) else codes.map Int.ofNat
  let ins := if isInt then [] else
    elems ++ (List.range b.kExt).flatMap (fun k => (List.range b.nExt).map (fun n => fmt.value (b.w k n)))
  let outs := codes.map (fun v => fp32 v)
  let (skip, diff) := if isInt then
      (false, intCheck b (fun k => let v := (row.getD k 0).toNat; if xs then sext 8 v else (v : Int))
        (fun k n => let v := b.w k n; if ws then sext 8 v else (v : Int)) vals)
    else floatCheck b fmt.isMx elems xScale (s.get F.ME_CHK_CFG_TOL c) codes
  let nan := ins.any Num.isNan || outs.any Num.isNan
  let inf := ins.any Num.isInf || outs.any Num.isInf
  let addr := (meAddr cmd a.n + (meRowBytes cmd * m : Nat)).toNat
  { t := t, n := a.n, i := a.i, j := a.j, m := m, addr := addr, vals := vals, nExt := b.nExt, isInt := isInt,
    ovw := meOverwrites cmd a.n, k0 := decide (b.kExt = 0) || frozenRow f.frozen (addr / 64), tile := a.tile, sel := b.sel,
    nan := nan, inf := inf, skipped := skip || nan || inf, diff := if skip || nan || inf then none else diff }

/-- The ACB row that a result row writes, when its write takes effect (R25, R30 to R34, R89, R90): the state, and whether INT32 saturated. -/
def State.meWriteRow (s : State) (c : Nat) (cmd : Cmd) (r : MeRow) : State × Bool :=
  if (meFmt cmd).isSlice then (s.writeSliced c r, false) else s.writeRow c r

/-! ### Reads of tiles (R99, R105, R120) -/

/-- A tile read of the ME: the latch of its port, the lock, the bank use (R101, R105, R120). -/
def State.meRead (s : State) (c tile rows t : Nat) (stationary : Bool) : State :=
  let hit := (if stationary then (s.core c).latS else (s.core c).latX).contains tile
  (s.pmon .TRF c 0x20 0 (b2n hit)).modCore c (fun x =>
    let lat := if stationary then x.latS else x.latX
    let x : CoreSt := { x with meReads := x.meReads.filter (fun r => decide (t < r.start + r.rows)) ++ [(⟨tile, t, rows, hit⟩ : TileRead)] }
    if stationary then { x with latS := latUse lat tile rows } else { x with latX := latUse lat tile rows })

/-- A corrected read of the TRF: flagged and counted each time (R99). -/
def State.trfCorr (s : State) (c : Nat) : State := (s.flag F.TRF_EVT_ECC_CORR c).corrected .TRF 3 c

/-- An uncorrectable read of the TRF (R99, R131): units 0 and 1 the ME, 2 a tile store, 3 a context save. -/
def State.trfFail (s : State) (c deckle unit tile : Nat) : State :=
  ((s.flag F.TRF_EVT_ECC c).trfLog c deckle 2 unit tile 0).logHw 2 .TRF 2 c

/-- What the bank rows that an act reads meet: the tile rows unless a latch holds them (R105), and the row of the scale tile in MX
formats (R47). Answers each read with its ACLK after the act's first, in order. -/
def State.actReads (s : State) (c : Nat) (cmd : Cmd) (a : MeAct) : List (Nat × Nat) :=
  let x := s.core c
  let tile := if a.load then a.tile / 2 else a.tile
  let rows := dkRows (if a.load then meShape cmd else Cmd.deckle cmd)
  let hit := (if a.load then x.latS else x.latX).contains tile
  (if (meFmt cmd).isMx then [(0, 16 * meSc cmd a.n + b2n a.load)] else [])
    ++ (if hit then [] else (List.range rows).map (fun r => (r, 16 * tile + r)))

/-- The outcome that the hardware or PERT_ECC gives the reads of an act: corrected reads with whether PERT_ECC made each, and the first
uncorrectable one with its ACLK. -/
def State.actEcc (s : State) (c : Nat) (f : MeFly) (a : MeAct) : List Bool × Option (Nat × Bool) :=
  let reads := s.actReads c f.q.cmd a
  let inj := reads.filterMap (fun p => (s.injAt 2 c [(p.2, 1)]).map (fun d => (p.1, d)))
  let src : MeSrc := if a.load then .stationary else .activation
  let at_ (m : Nat) : Nat := if a.load then m else m / 2
  let hwCorr := match f.hw with
    | .corr n i j _ k => if n = a.n ∧ i = a.i ∧ j = a.j ∧ k = src then [false] else []
    | _ => []
  let hwUnc := match f.hw with
    | .ecc n i j m k => if n = a.n ∧ i = a.i ∧ j = a.j ∧ k = src then [(at_ m, false)] else []
    | _ => []
  let unc := hwUnc ++ (inj.filter Prod.snd).map (fun p => (p.1, true))
  let first := unc.foldl (fun (o : Option (Nat × Bool)) p => match o with
    | none => some p
    | some q => if p.1 < q.1 then some p else some q) none
  let before (r : Nat) : Bool := match first with
    | some (t, _) => decide (r < t)
    | none => true
  (hwCorr ++ ((inj.filter (fun p => !p.2 && before p.1)).map (fun _ => true)), first)

/-- Corrected reads of an act (R55, R99): each is flagged and counted. -/
def State.meCorr (s : State) (c : Nat) (l : List Bool) : State :=
  l.foldl (fun s inj => s.injStep (if inj then some false else none) (fun s => (s.flag F.ME_EVT_ECC_CORR c).trfCorr c)) s

/-! ### Events that end a command (R48, R53, R55 to R57, R91) -/

/-- The event bit of a status (R64). -/
def meEvt : Nat → Field
  | 1 => F.ME_EVT_SLIP | 2 => F.ME_EVT_SHAPE_FAULT | 3 => F.ME_EVT_ILLEGAL | 4 => F.ME_EVT_ABSENT
  | 5 => F.ME_EVT_CHECK_FAIL | 6 => F.ME_EVT_ECC | _ => F.ME_EVT_ACC_MISMATCH

/-- Iterations from `n` on are skipped from ACLK `t` (R48, R53, R91): nothing more of them is streamed, loaded or written, while the
timeline stays. The first such event in time gives the status. -/
def MeFly.skipFrom (f : MeFly) (st n t : Nat) : MeFly :=
  { f with
    stop := match f.stop with
      | none => some (st, n, t)
      | some (k, n0, t0) => some (k, min n0 n, t0)
    todo := f.todo.filter (fun a => decide (a.n < n))
    rows := f.rows.filter (fun r => decide (r.n < n)) }

/-- A refused tile (R53, R111): the TRF's record and counters, and each event's bit in ME_EVT. -/
def State.meRefuse (s : State) (c tile deckle unit : Nat) (k : TileCheck) : State :=
  ((s.tileRefuse c tile deckle unit k).flagIf k.shape F.ME_EVT_SHAPE_FAULT c).flagIf k.slip F.ME_EVT_SLIP c

/-- The rows of a K block whose ACCUMULATE would pass N = 2^19 - 1 (R91). The sequencer looks at them in the ACLK in which pass (1, 1) of
the block begins to stream (DESIGN CHOICE, notes/assumptions/33.md). -/
def State.sliceFull (s : State) (c : Nat) (f : MeFly) (a : MeAct) (b : MeBlock) : Bool :=
  let cmd := f.q.cmd
  (meFmt cmd).isSlice && decide (a.i = 1) && decide (a.j = 1) && !(meOverwrites cmd a.n) && decide (0 < b.kExt)
    && (List.range (min 32 (meRows cmd))).any (fun m =>
      let addr := (meAddr cmd a.n + (128 * m : Nat)).toNat
      !(frozenRow f.frozen (addr / 64)) && decide ((lookD ⟨0, 0⟩ (s.core c).tags (addr / 128)).n = 2 ^ 19 - 1))

/-- The load of a stationary block (R20, R23, R53). -/
def State.meLoad (s : State) (c : Nat) (f : MeFly) (a : MeAct) (t : Nat) : State × MeFly :=
  let cmd := f.q.cmd
  let tile := a.tile / 2
  let k := s.tileCheck c tile (meShape cmd) (32 * (a.tile % 2)) (t - s.coreBase c)
  if k.bad then (s.meRefuse c tile (meShape cmd) 0 k, f.skipFrom k.status a.n t)
  else
    let (corr, unc) := s.actEcc c f a
    let s := s.meCorr c corr
    let s := (s.meRead c tile (dkRows (meShape cmd)) t true).pmon .ME c 0x11 0 17
    match unc with
    | some (d, inj) => (s, { f with fault := some ⟨t + d, a.n, true, tile, inj⟩ })
    | none =>
      let s := s.modCore c (fun x => { x with blk := some (x.loadBlock a.tile (meShape cmd) (meSc cmd a.n)) })
      ((s.set F.ME_STATUS_LOADED c 1).set F.ME_STATUS_LOADED_S c a.tile, f)

/-- The streaming of an activation tile (R21, R22, R53): its valid rows enter two per ACLK. Without a block nothing enters. -/
def State.meStream (s : State) (c : Nat) (f : MeFly) (a : MeAct) (t : Nat) : State × MeFly :=
  let cmd := f.q.cmd
  let k := s.tileCheck c a.tile (Cmd.deckle cmd) 0 (t - s.coreBase c)
  if k.bad then (s.meRefuse c a.tile (Cmd.deckle cmd) 1 k, f.skipFrom k.status a.n t)
  else
    match (s.core c).blk with
    | none => (s, f)
    | some b =>
      if s.sliceFull c f a b then (s.flag F.ME_EVT_ILLEGAL c, f.skipFrom 3 a.n t)
      else
        let (corr, unc) := s.actEcc c f a
        let rows := (List.range (min 32 (meRows cmd))).map (fun m => s.meEnter c f a b m (t + m / 2))
        let rows := rows.filter (fun r => (match f.dead with
            | some d => decide (r.t ≤ d)
            | none => true) && (match unc with
            | some (d, _) => decide (r.t < t + d)
            | none => true))
        let s := s.meCorr c corr
        let s := (s.meRead c a.tile (dkRows (Cmd.deckle cmd)) t false).pmon .ME c 0x10 0 16
        let f := { f with rows := f.rows ++ rows }
        match unc with
        | some (d, inj) => (s, { f with fault := some ⟨t + d, a.n, false, a.tile, inj⟩ })
        | none => (s, f)

/-- One act in its ACLK. An iteration whose result rows leave the ACB is found in the ACLK of its first act (DESIGN CHOICE,
notes/assumptions/33.md; R48). -/
def State.meAct (s : State) (c : Nat) (f : MeFly) (a : MeAct) (t : Nat) : State × MeFly :=
  let s := s.set F.ME_STATUS_ITER c a.n
  let f := { f with cur := a.n }
  if f.op ≠ 2 ∧ !(meInAcb f.q.cmd a.n) then (s.flag F.ME_EVT_ILLEGAL c, f.skipFrom 3 a.n t)
  else if a.load then s.meLoad c f a t else s.meStream c f a t

/-! ### The comparison, the write, the completion -/

/-- Recording a check failure (R40, R41, R66, R67) and the fence at LIMIT (R42). S_SEL is the block that the failing row passed through
(DESIGN CHOICE, notes/assumptions/33.md); `bit` is the event's bit in ME_EVT. -/
def State.checkFailLog (s : State) (c bit : Nat) (r : MeRow) (diff : Nat) : State :=
  let s := s.bump F.ME_CHK_CNT_COUNT c
  let s :=
    if s.get F.ME_CHK_LOG_VALID c = 1 then s
    else s.wr ⟨.ME_CHK_LOG, c, 0⟩ (BitVec.ofNat 64 (r.n * 2 ^ 32 + diff % 256 * 2 ^ 20 + r.m * 2 ^ 15 + r.m % 2 * 2 ^ 14
      + r.tile * 2 ^ 8 + 2 ^ 7 + r.sel))
  let s := s.logHw 2 .ME bit c (leBytes 8 (s.rd ⟨.ME_CHK_LOG, c, 0⟩).toNat)
  if s.get F.ME_CHK_CNT_COUNT c = s.get F.ME_CHK_CFG_LIMIT c ∧ !(s.fenced c) then
    (s.fenceDegraded c).propose ⟨0, c, s.get F.ME_CHK_LOG_ARRAY c, 0, 31⟩
  else s

/-- Ranks of the events of one ACLK (R57), highest first. -/
def meRank : Nat → Nat
  | 6 => 0 | 7 => 1 | 5 => 2 | 3 => 3 | 4 => 4 | 2 => 5 | _ => 6

/-- A fault of one ACLK: its status, iteration, and the first row it keeps from the ACB (entry ACLK and place in the tile). -/
structure MeHit where
  status : Nat
  n : Nat
  t : Nat
  m : Nat
  deriving DecidableEq, Repr

/-- Rows before a fault stay (R40, R57): those that entered earlier, or in the same ACLK at a lower place. -/
def MeHit.keeps (h : MeHit) (r : MeRow) : Bool := decide (r.t < h.t) || (decide (r.t = h.t) && decide (r.m < h.m))

/-- The hardware's fault names this row. -/
def hwNames (n i j m : Nat) (r : MeRow) : Bool := decide (r.n = n) && decide (r.i = i) && decide (r.j = j) && decide (r.m = m)

/-- The comparison of a row in ACLK t + 37 (R38 to R40): its flags, and a failure with its record. -/
def State.meCompare (s : State) (c : Nat) (f : MeFly) (r : MeRow) : State × MeFly × Option MeHit :=
  let f := { f with nan := firstOf f.nan r.nan r.n, inf := firstOf f.inf r.inf r.n, chkSkip := firstOf f.chkSkip r.skipped r.n }
  let s := ((s.flagIf r.nan F.ME_EVT_NAN c).flagIf r.inf F.ME_EVT_INF c).flagIf r.skipped F.ME_EVT_CHK_SKIP c
  let diff := match f.hw with
    | .checkFail n i j m d => if hwNames n i j m r && !r.skipped then some d else r.diff
    | _ => r.diff
  match diff with
  | some d => ((s.flag F.ME_EVT_CHECK_FAIL c).checkFailLog c 4 r d, f, some ⟨5, r.n, r.t, r.m⟩)
  | none => (s, f, none)

/-- The read and the addition of an accumulate, in the first ACLK of the write stage, t + 38 (R25, R41, R55; DESIGN CHOICE of the ACLK,
notes/assumptions/33.md). A write that replaces the row reads nothing. -/
def State.meAccStage (s : State) (c : Nat) (f : MeFly) (r : MeRow) : State × Option MeHit :=
  let reads := !(r.ovw || r.k0)
  let o := if reads then s.injAt 1 c [(0xC0000 + r.addr, meRowBytes f.q.cmd)] else none
  let hw : MemHw := match f.hw with
    | .ecc n i j m .acb => if reads && hwNames n i j m r then .unc else .ok
    | .corr n i j m .acb => if reads && hwNames n i j m r then .corr else .ok
    | _ => .ok
  match injHw o hw with
  | .unc => (s.injStep o (fun s => (s.flag F.ME_EVT_ECC c).acbFail c), some ⟨6, r.n, r.t, r.m⟩)
  | .corr => (s.injStep o (fun s => (s.flag F.ME_EVT_ECC_CORR c).acbCorr c), none)
  | .ok => match f.hw with
    | .accMismatch n i j m =>
      if hwNames n i j m r && (r.ovw || !r.k0) then ((s.flag F.ME_EVT_ACC_MISMATCH c).checkFailLog c 6 r 0xFF, some ⟨7, r.n, r.t, r.m⟩) else (s, none)
    | _ => (s, none)

/-- An uncorrectable tile read in its ACLK (R55, R99). -/
def State.meReadFault (s : State) (c : Nat) (f : MeFly) (k : MeFault) : State × Option MeHit :=
  (s.injStep (if k.inj then some true else none) (fun s =>
    (s.flag F.ME_EVT_ECC c).trfFail c (if k.load then meShape f.q.cmd else Cmd.deckle f.q.cmd) (if k.load then 0 else 1) k.tile),
    some ⟨6, k.n, k.at_, 0⟩)

/-- Armed tie slots count a completed ME command whose result rows address their range (R203). -/
def State.tieCount (s : State) (c : Nat) (rows : List Nat) : State :=
  (List.range 8).foldl (fun s n =>
    let base := s.get F.VE_TIE_BASE c n
    let last := min 4095 (base + s.get F.VE_TIE_ROWS_M1 c n)
    if s.get F.VE_TIE_ARMED c n = 1 ∧ rows.any (fun r => decide (base ≤ r) && decide (r ≤ last)) then
      let cnt := s.get F.VE_TIE_COUNT c n + 1
      let uses := s.get F.VE_TIE_USES c n
      let s' := s.set F.VE_TIE_COUNT c (min cnt 255) n
      if s.get F.VE_TIE_COMPLETE c n = 1 then (s'.flag F.VE_TIE_OVER c n).flag F.VE_EVT_TIE_OVER c
      else if cnt = uses then
        let s' := s'.flag F.VE_TIE_COMPLETE c n
        if s.get F.VE_TIE_DONE_EN c n = 1 then (s'.ctrAdd c (s.get F.VE_TIE_DONE_CTR c n) 1).1 else s'
      else s'
    else s) s

/-- The ACB rows (64 bytes) that a command's result rows address (R203); an ME_LOAD has none. -/
def meTieRows (cmd : Cmd) : List Nat :=
  if Cmd.opcode cmd = 1 ∨ Cmd.opcode cmd = 3 then
    (List.range (Cmd.iters cmd)).flatMap (fun n =>
      (List.range (meRows cmd)).flatMap (fun m =>
        let w := meRowBytes cmd / 64
        ((List.range w).map (fun k => meAddr cmd n / 64 + (w * m + k : Nat))).filterMap (fun r =>
          if 0 ≤ r then some r.toNat else none)))
  else []

/-- The completion of an ME command (R57, R58, R63, R203). -/
def State.meComplete (s : State) (c : Nat) (f : MeFly) (st n : Nat) : State :=
  let s := (s.tieCount c (meTieRows f.q.cmd)).set F.ME_STATUS_LAST_STATUS c st
  let s := s.modCore c (fun x => { x with meReport := some ⟨Cmd.id f.q.cmd, f.nan, f.inf, f.sat, f.chkSkip⟩ })
  s.complete c .me f.q st n

/-- Faults of one ACLK end the command (R40, R57): the highest-ranked gives the status unless a skip came first in time; rows from the
earliest fault on are not written; the task aborts with the cause of the fault. -/
def State.meFail (s : State) (c : Nat) (f : MeFly) (hits : List MeHit) (t : Nat) : State × MeFly :=
  match hits with
  | [] => (s, f)
  | h :: hs =>
    let top := hs.foldl (fun (a : MeHit) b => if meRank b.status < meRank a.status then b else a) h
    let f := { f with rows := f.rows.filter (fun r => hits.all (fun h => h.keeps r)), todo := [], fault := none }
    if f.ended then (s, f)
    else
      let (st, n) := match f.stop with
        | some (k, i, t0) => if t0 < t then (k, i) else (top.status, top.n)
        | none => (top.status, top.n)
      let s := s.meComplete c f st n
      (match abortCause top.status with
        | some a => s.raiseAbort c a
        | none => s, { f with ended := true })

/-- The writes that take effect in ACLK `t` (R25, R31), with the flags of what they leave. -/
def State.meWrites (s : State) (c : Nat) (f : MeFly) (t : Nat) : State × MeFly :=
  (f.rows.filter (fun r => decide (r.t + 40 ≤ t))).foldl (fun (p : State × MeFly) r =>
    let (s, f) := p
    let (s, sat) := s.meWriteRow c f.q.cmd r
    let accs := if r.isInt then [] else (List.range r.nExt).map (fun n => fp32 (s.winNat c (0xC0000 + r.addr + 4 * n) 4))
    let nan := accs.any Num.isNan
    let inf := accs.any Num.isInf
    let s := ((s.flagIf nan F.ME_EVT_NAN c).flagIf inf F.ME_EVT_INF c).flagIf sat F.ME_EVT_INT_SAT c
    let s := s.modCore c (fun x => { x with meWrote := (t,
      (if x.meWrote.1 = t then x.meWrote.2 else []) ++ (List.range (meRowBytes f.q.cmd / 64)).map (fun k => r.addr / 64 + k)) })
    (s, { f with nan := firstOf f.nan nan r.n, inf := firstOf f.inf inf r.n, sat := firstOf f.sat sat r.n,
                 rows := f.rows.filter (fun q => decide (q ≠ r)) })) (s, f)

/-- The ACLK in which a command completes when no fault ends it (R51, R53): after its last row has been written, 41 ACLK after its last
entry; for an ME_LOAD, which streams no row, the ACLK after the last of its loads (DESIGN CHOICE, notes/assumptions/33.md). -/
def MeFly.completeAt (f : MeFly) : Nat := if f.op = 2 then f.last + 1 else f.last + 41

/-- The rows of ACLK `t` of one begun command: the write stage and comparisons with their faults, the writes, the acts. -/
def State.meRowsAct (s : State) (c : Nat) (f : MeFly) (t : Nat) : State × MeFly :=
  let (s, hits) := match f.fault with
    | some k => if k.at_ ≤ t then (let (s, h) := s.meReadFault c f k; (s, h.toList)) else (s, [])
    | none => (s, [])
  let (s, hits) := (f.rows.filter (fun r => decide (r.t + 38 = t))).foldl (fun (p : State × List MeHit) r =>
    let (s, h) := p.1.meAccStage c f r
    (s, p.2 ++ h.toList)) (s, hits)
  let (s, f, hits) := (f.rows.filter (fun r => decide (r.t + 37 = t))).foldl (fun (p : State × MeFly × List MeHit) r =>
    let (s, f, h) := p.1.meCompare c p.2.1 r
    (s, f, p.2.2 ++ h.toList)) (s, f, hits)
  let (s, f) := s.meWrites c f t
  let (s, f) := (f.todo.filter (fun a => decide (a.at_ ≤ t))).foldl (fun (p : State × MeFly) a =>
    if p.2.todo.contains a then p.1.meAct c { p.2 with todo := p.2.todo.filter (fun b => decide (b ≠ a)) } a t else p) (s, f)
  s.meFail c f hits t

/-- One ACLK of a begun command, its completion apart. Command `k` is taken from the list and put back. -/
def State.meStep (s : State) (c k t : Nat) : State :=
  match (s.core c).meFly[k]? with
  | none => s
  | some f =>
    let (s', f') := s.meRowsAct c f t
    s'.modCore c (fun x => { x with meFly := x.meFly.modify k (fun g =>
      if g.dead.isSome && f'.dead.isNone then
        { f' with dead := g.dead, todo := f'.todo.filter (fun a => decide (a.at_ ≤ t)), rows := f'.rows.filter (fun r => decide (r.t ≤ t)) }
      else f') })

/-- Commands whose completion falls in ACLK `t`, oldest first; one that an abort has stopped completes no more (R158). -/
def State.meCompletions (s : State) (c t : Nat) : State :=
  (List.range (s.core c).meFly.length).foldl (fun s k =>
    match (s.core c).meFly[k]? with
    | none => s
    | some f =>
      if !f.ended && f.dead.isNone && f.cut.isNone && decide (f.completeAt ≤ t) then
        let (st, n) := match f.stop with
          | some (k, n, _) => (k, n)
          | none => (0, 0)
        (s.modCore c (fun x => { x with meFly := x.meFly.modify k (fun g => { g with ended := true }) })).meComplete c f st n
      else s) s

/-- What no longer has anything in the arrays leaves (R56, R158): a completed command, a stopped one whose cell returns, a command that a
context switch cut, which stays to be resumed. -/
def State.meSweepUp (s : State) (c t : Nat) : State :=
  let (out, keep) := (s.core c).meFly.partition (fun f => f.rows.isEmpty && f.todo.isEmpty && f.fault.isNone
    && (f.ended || f.dead.isSome || f.cut.isSome))
  if out.isEmpty then s
  else
    let sel := ((s.core c).blk.map MeBlock.sel).getD 0
    let s := s.modCore c (fun x => { x with meFly := keep })
    out.foldl (fun s f =>
      if f.ended then s
      else match f.dead, f.cut with
        | some _, _ => s.cellBack c .me f.q (t + 1)
        | none, some n => s.modCore c (fun x => { x with me := { x.me with resume := some ⟨f.q, n, sel⟩ } })
        | none, none => s) s

/-- The ME's part of an ACLK after its completions. -/
def State.meTick (s : State) (c t : Nat) : State :=
  ((List.range (s.core c).meFly.length).foldl (fun s k => s.meStep c k t) s).meSweepUp c t

/-- ACLK in which a begun command has something to do. -/
def MeFly.dues (f : MeFly) : List Nat :=
  f.todo.map MeAct.at_ ++ f.rows.flatMap (fun r => [r.t + 37, r.t + 38, r.t + 40]) ++ (f.fault.map MeFault.at_).toList
    ++ (if f.ended || f.dead.isSome || f.cut.isSome then (if f.rows.isEmpty && f.todo.isEmpty then [0] else []) else [f.completeAt])

/-! ### Beginning a command (R28, R44 to R46, R52, R54) -/

/-- The acts of one pass. -/
def MePass.acts (p : MePass) : List MeAct :=
  (p.loadAt.map (fun t => (⟨true, t, p.n, p.sel, p.i, p.j⟩ : MeAct))).toList
    ++ (p.streamAt.map (fun t => (⟨false, t, p.n, p.x, p.i, p.j⟩ : MeAct))).toList

/-- The passes of a command from iteration `n0` on, begun in ACLK `b`, and the ACLK after its last entry. -/
def meTimeline (c : Cmd) (op b n0 : Nat) : List MePass × Nat :=
  if (meFmt c).isSlice then
    let s := meSlices c
    let outer := Cmd.loop c 1 * Cmd.loop c 2 * Cmd.loop c 3
    let p0 := n0 / Cmd.loop c 0
    slicePasses c s ((List.range (outer - p0)).flatMap (fun p => (List.range s).map (fun j => (p0 + p, j + 1)))) b
  else mePasses c op ((List.range (Cmd.iters c - n0)).map (· + n0)) b none

/-- The begun command (R45, R50): its acts from its first iteration on. A resumed ME_MM first loads again the block `sel` that its arrays
held (R46, R56). -/
def meFlyOf (q : QCmd) (op b n0 : Nat) (reload : Option Nat) (hw : MeHw) (frozen : Option Nat) : MeFly :=
  let pre : List MeAct := match reload with
    | some sel => [⟨true, b, n0, sel, 1, 1⟩]
    | none => []
  let (ps, e) := meTimeline q.cmd op (b + 17 * pre.length) n0
  { q := q, op := op, hw := hw, todo := pre ++ ps.flatMap MePass.acts, last := e - 1, frozen := frozen, cur := n0 }

/-- A command that ends in its begin ACLK with `st` (R52, R54); it counts at tie slots as any other (R203). -/
def meEndNow (s : State) (c : Nat) (q : QCmd) (st : Nat) : State :=
  (((s.flag (meEvt st) c).tieCount c (meTieRows q.cmd)).set F.ME_STATUS_LAST_STATUS c st).endNow c .me q st

/-- The ME begins command `q` with opcode `op` in ACLK `b` (R44, R46, R52, R54, R202): a command that the begin's checks refuse ends in that
ACLK, any other runs from then on. -/
def meBegin (op core : Nat) (hw : MeHw) (p b : Nat) (q : QCmd) (s : State) : State :=
  let cmd := q.cmd
  let g := (s.core core).me
  let s := s.begin_ core .me p b
  if meIllegal cmd op then meEndNow s core q 3
  else if op = 3 ∧ p ≠ resumed ∧ (s.core core).blk.isNone then meEndNow s core q 3
  else if s.gradeS && (meFmt cmd).isSlice then meEndNow s core q 4
  else
    let reload := if op = 3 then g.resume.map Resume.sel else none
    let f := meFlyOf q op b g.firstIter reload hw (s.freezeSample core)
    (s.modCore core (fun x => { x with meFly := x.meFly ++ [f] })).setEntry core .me f.last

end Sys2Proof.Machine
end

