-- ==== Sys2Proof/Machine/TileTick.lean ====
section
/-! DEFINITION. What the data mover's tile commands do as time passes (R114 to R118): gathers, the rows of a write phase, the drains of the
write buffers, the rows of a tile store. -/

namespace Sys2Proof.Machine

open Sys2Proof

/-! ### Fields of a tile command (R114) -/

def tcTile (c : Cmd) (n : Nat) : Nat := wrapInt 6 ((Cmd.f c 22 5 0 : Int) + Cmd.disp c n (fun l => Cmd.sf c (32 + 8 * l) 7 0))
def tcRow (c : Cmd) (n r : Nat) : Int :=
  (Cmd.f c 16 19 0 : Int) + 64 * (Cmd.disp c n (fun l => Cmd.sf c (34 + 8 * l) 15 0) + (r * Cmd.f c 20 15 0 : Nat))
def tcRsvOk (c : Cmd) : Bool :=
  decide (Cmd.f c 16 31 20 = 0) && decide (Cmd.f c 22 7 6 = 0) && decide (Cmd.f c 23 71 0 = 0)
    && (List.range 4).all (fun l => decide (Cmd.f c (33 + 8 * l) 7 0 = 0) && decide (Cmd.f c (36 + 8 * l) 31 0 = 0))
def tcIllegal (c : Cmd) : Bool := Cmd.badHeader c || !(tcRsvOk c) || !(dkWf (Cmd.deckle c))

/-- The address check of an iteration (R115). -/
def State.tcBad (s : State) (c : Nat) (cmd : Cmd) (n : Nat) : Bool :=
  decide (Cmd.f cmd 16 19 0 % 64 ≠ 0)
    || (List.range (dkRows (Cmd.deckle cmd))).any (fun r => !(s.spdRange c (tcRow cmd n r) 64))

/-! ### DM_TLOAD (R116, R117) -/

/-- The 64 bytes of a tile row as a load writes it: bytes at or beyond RBYTES are zero. -/
def State.gatherRow (s : State) (c : Nat) (cmd : Cmd) (n r : Nat) : List Byte :=
  let k := dkRbytes (Cmd.deckle cmd)
  s.readWin c (tcRow cmd n r).toNat k ++ List.replicate (64 - k) 0

/-- The scratchpad rows of an iteration (R114). -/
def tcRanges (cmd : Cmd) (n : Nat) : List (Int × Nat) := (List.range (dkRows (Cmd.deckle cmd))).map (fun r => (tcRow cmd n r, 64))

/-- An iteration refused by its address check (R115, R247). -/
def State.tcRefuse (s : State) (c id n : Nat) (cmd : Cmd) : State := (s.dmRefuseBank c (tcRanges cmd n)).dmFail c id 3 n

/-- Gathering the next iteration of a begun tile load into a free staging buffer; the address check comes first. -/
def State.gatherOne (s : State) (c : Nat) (d : DmCmd) : State :=
  let cmd := d.q.cmd
  let n := d.gather
  if s.tcBad c cmd n then s.tcRefuse c d.id n cmd
  else
    let rows := dkRows (Cmd.deckle cmd)
    let (s, bad) := s.dmRead c ((tcRanges cmd n).map (fun r => (r.1.toNat, r.2))) (dmHwAt d.ecc n)
    if bad then s.dmFail c d.id 6 n
    else
      let g := max (max s.now d.at_) (s.core c).gatherAt
      let last := decide (n + 1 = d.nIter)
      let st : Staged := { tile := tcTile cmd n, deckle := Cmd.deckle cmd, iter := n, last := last, id := d.id, ready := g + rows,
                           rows := (List.range rows).map (s.gatherRow c cmd n) }
      let s := s.modCore c (fun x => { x with staged := x.staged ++ [st], gatherAt := g + rows })
      let s := s.modDm c d.id (fun d => { d with gather := n + 1, open_ := d.open_ + 1, issuing := !last })
      if last then s.setEntry c .dm (max g (((s.core c).eng .dm).lastEntry)) else s

/-- Staging buffers in use: gathered tiles, and the one that a write phase empties (R116). -/
def CoreSt.staging (x : CoreSt) : Nat := x.staged.length + (if x.phase.isEmpty then 0 else 1)

/-- Gathers while one of the two staging buffers is free (R116); a gather waits until the banks serve its rows. -/
def State.gatherMore (s : State) (c : Nat) : Nat → State
  | 0 => s
  | k + 1 =>
    if 2 ≤ (s.core c).staging then s
    else
      match (s.core c).dmCmds.find? (fun d => d.issuing && decide (Cmd.opcode d.q.cmd = 0x10)) with
      | some d =>
        let rs := (tcRanges d.q.cmd d.gather).map (fun r => (r.1.toNat, r.2))
        if s.tcBad c d.q.cmd d.gather || s.windowServes c .dm d.at_ rs then
          let t := s.tcBad c d.q.cmd d.gather
          State.gatherMore ((if t then s else s.windowTake c .dm d.at_ rs).gatherOne c d) c k
        else s
      | none => s

/-- The injected addition to a stamp (R729): the ACLK added, and the control after this load. -/
def State.slipAdd (s : State) (c tile : Nat) : Nat × State :=
  let hit := decide (s.get F.PERT_SLIP_EN 0 = 1) && decide (s.get F.PERT_SLIP_CORE 0 = c) && s.bit F.PERT_SLIP_TILES_TILES 0 tile
  if hit then
    let n := s.get F.PERT_SLIP_COUNT 0
    let s' := if n = 0 then s else s.set F.PERT_SLIP_COUNT 0 (n - 1)
    (s.get F.PERT_SLIP_ADD 0, if n = 1 then s'.set F.PERT_SLIP_EN 0 0 else s')
  else (0, s)

/-! ### One ACLK of the tile registers -/

/-- The rows that a write phase writes in ACLK `t` (R103, R116): each takes its bank or enters the bank's buffer. With its last row the
phase is over: the load it belongs to goes on. Answers the banks taken. -/
def State.phaseTick (s : State) (c t : Nat) : State × List Nat :=
  let rows := (s.core c).phase.filter (fun p => decide (p.at_ ≤ t))
  rows.foldl (fun (a : State × List Nat) p =>
    let (s, used) := a
    let (x, bank) := (s.core c).loadRow p.tile p.row t p.bytes
    let s := (s.injWrite 2 c (16 * p.tile + p.row) 1).modCore c (fun y => { y with
      trf := x.trf, wbuf := x.wbuf, phase := y.phase.filter (fun q => decide (q ≠ p)) })
    let s := s.pmon .TRF c 0x21 0 (b2n bank.isNone)
    let s := if p.last then ((s.modDm c p.id (fun d => { d with open_ := d.open_ - 1 })).gatherMore c 2).dmSettle c else s
    (s, used ++ bank.toList)) (s, [])

/-- What a tile store's read of a row finds (R99): in the bank, not in the write buffer. -/
def State.storeHw (s : State) (c : Nat) (k : StoreFly) (buffered : Bool) : State × Bool :=
  let tile := tcTile k.cmd k.n
  let o := if buffered then none else s.injAt 2 c [(16 * tile + k.r, 1)]
  match injHw o (if k.r = 0 then dmHwAt k.hw k.n else .ok) with
  | .ok => (s, false)
  | .corr => (s.injStep o (fun s => s.trfCorr c), false)
  | .unc => (s.injStep o (fun s => s.trfFail c (Cmd.deckle k.cmd) 2 tile), true)

/-- A tile store ends in ACLK `t`: refused with a status in an iteration, or done. -/
def State.storeEnd (s : State) (c : Nat) (k : StoreFly) (st t : Nat) : State :=
  let s := (s.modCore c (fun x => { x with store := none })).setEntry c .dm t
  (if st = 0 then s.modDm c k.id (fun d => { d with issuing := false }) else s.dmFail c k.id st k.n).dmSettle c

/-- The row of a tile store whose ACLK has come (R102, R110, R118): it waits for a bank that another access takes; before an iteration's
first row come the address check and the two checks of the tile. A context switch stops it between iterations (R241). -/
def State.storeTick (s : State) (c t : Nat) (used : List Nat) : State :=
  match (s.core c).store with
  | none => s
  | some k =>
    let x := s.core c
    let d := Cmd.deckle k.cmd
    let tile := tcTile k.cmd k.n
    let buffered := x.wbuf.any (fun w => decide (w.tile = tile) && decide (w.row = k.r))
    if decide (t < k.at_) || (x.stopped && decide (k.r = 0)) then s
    else if k.r = 0 ∧ s.tcBad c k.cmd k.n then (s.dmRefuseBank c (tcRanges k.cmd k.n)).storeEnd c k 3 t
    else if !buffered && used.contains ((k.r + tile) % 16) then
      (s.modCore c (fun x => { x with store := some { k with at_ := t + 1 } })).pmon .TRF c 0x23 0 1
    else
      let chk := s.tileCheck c tile d 0 (t - s.coreBase c)
      let off := (tcRow k.cmd k.n k.r).toNat
      let rs := [(off, dkRbytes d)]
      if k.r = 0 ∧ chk.bad then (s.tileRefuse c tile d 2 chk).storeEnd c k chk.status t
      else if !(s.windowServes c .dm k.since rs) then s.modCore c (fun x => { x with store := some { k with at_ := t + 1 } })
      else
        let s := s.windowTake c .dm k.since rs
        let (s, bad) := s.storeHw c k buffered
        let (s, bad') := if bad then (s, true) else s.dmRead c (partWords off (dkRbytes d)) .ok
        if bad || bad' then s.storeEnd c k 6 t
        else
          let s := s.writeWin c off (x.dkRow tile d 0 k.r 0 (dkRbytes d))
          let k' := if k.r + 1 = dkRows d then { k with r := 0, n := k.n + 1, at_ := t + 1, since := t + 1 }
            else { k with r := k.r + 1, at_ := t + 1, since := t + 1 }
          if k'.n = Cmd.iters k.cmd then s.storeEnd c k 0 t else s.modCore c (fun x => { x with store := some k' })

/-- The tile registers' part of an ACLK (R102, R103): ME reads come first, then a write phase's row, drains, and collector 2. -/
def State.trfTick (s : State) (c t : Nat) : State :=
  let me := (s.core c).meBanks t
  let (s, rows) := s.phaseTick c t
  let (x, used) := (s.core c).drains t (me ++ rows)
  (s.modCore c (fun y => { y with trf := x.trf, wbuf := x.wbuf })).storeTick c t used

/-- A tile load of the core still has a write phase to come (R117). -/
def CoreSt.loading (x : CoreSt) : Bool :=
  x.dmCmds.any (fun d => decide (Cmd.opcode d.q.cmd = 0x10) && (d.issuing || decide (0 < d.open_)))

end Sys2Proof.Machine
end

