-- ==== Sys2Proof/Machine/Functions.lean ====
section
/-! DEFINITION. The functions of R184: their exact values carried far below the last place of any format, the special
values, and the accuracy bounds, inside which the result is a free value. -/

namespace Sys2Proof.Machine

open Sys2Proof

/-- Fraction bits of the fixed-point values below. -/
def fxP : Nat := 256
/-- ln 2 in fixed point. -/
def fxLn2 : Int := 0xb17217f7d1cf79abc9e3b39803f2f6af40f343267298b62d8a0d175b8baafa2b

/-- The terms of Σ r^i / i! from term `i` on; `t` is the term before. -/
def expTerms (r : Int) : Nat → Int → Int → Int
  | 0, _, _ => 0
  | n + 1, i, t => let t' := t * r / (2 ^ fxP * i); t' + expTerms r n (i + 1) t'

/-- e^x of a finite number. -/
def expNum (x : Num) : Num :=
  match x with
  | .fin neg m e =>
    if m = 0 then .fin false 1 0
    else
      let top : Int := (Nat.log2 m : Int) + e
      if 11 ≤ top then .fin false 1 (if neg then -4000 else 4000)
      else if top < -200 then (Num.fin false 1 0).add x
      else
        let v := shiftInt (if neg then -(m : Int) else m) (e + fxP)
        let k := Int.fdiv v fxLn2
        .fin false (2 ^ fxP + expTerms (v - k * fxLn2) 60 1 (2 ^ fxP)).toNat (k - fxP)
  | .inf neg => if neg then .fin false 0 0 else .inf false
  | .nan => .nan

/-- The terms of Σ z^(2i+1) / (2i+1) from odd number `i` on; `t` is z^i. -/
def atanhTerms (z2 : Int) : Nat → Int → Int → Int
  | 0, _, _ => 0
  | n + 1, i, t => t / i + atanhTerms z2 n (i + 2) (t * z2 / 2 ^ fxP)

/-- ln x of a positive finite number. -/
def logNum (m : Nat) (e : Int) : Num :=
  let l := Nat.log2 m
  let y : Int := shiftInt (m : Int) (fxP - l)
  let one : Int := 2 ^ fxP
  let z := (y - one) * one / (y + one)
  Num.ofDyadic (((l : Int) + e) * fxLn2 + 2 * atanhTerms (z * z / one) 90 1 z) (-fxP)

def one_ : Num := .fin false 1 0
/-- 1 / (1 + e^-x). -/
def sigmoidNum (x : Num) : Num := one_.div (one_.add (expNum x.neg))
def halfC : Num := (Num.ofInt 79788456).div (Num.ofInt 100000000)
def geluD : Num := (Num.ofInt 44715).div (Num.ofInt 1000000)

/-- 2u for the GELU of R184, u = 0.797_884_56 (x + 0.044_715 x³). -/
def geluArg (x : Num) : Num := (Num.fin false 1 1).mul (halfC.mul (x.add (geluD.mul (x.mul (x.mul x)))))

/-- tanh of a finite number. -/
def tanhNum (x : Num) : Num :=
  match x with
  | .fin neg m e =>
    if m = 0 then x
    else if (Nat.log2 m : Int) + e < -30 then x.sub ((x.mul (x.mul x)).div (Num.ofInt 3))
    else
      let t := expNum ((Num.fin true 1 1).mul x.abs)
      let v := (one_.sub t).div (one_.add t)
      if neg then v.neg else v
  | .inf neg => if neg then one_.neg else one_
  | .nan => .nan

/-- The exact value of function `fn` (R184) of a number that is no special case. -/
def fnExact (fn : Nat) (x : Num) : Num :=
  match fn with
  | 0 => expNum x
  | 1 => match x with
    | .fin _ m e => logNum m e
    | v => v
  | 2 => one_.div x
  | 3 => one_.div x.sqrt
  | 4 => x.sqrt
  | 5 => tanhNum x
  | 6 => match x with
    | .inf neg => if neg then .fin false 0 0 else .inf false
    | v => v.mul (sigmoidNum (geluArg v))
  | 7 => match x with
    | .inf neg => if neg then .fin false 0 0 else .inf false
    | v => v.mul (sigmoidNum v)
  | _ => if (Num.fin false 0 0).lt x then x else .fin false 0 0

/-- The exact derivative of function `fn` (5 to 8, R184). -/
def fnDeriv (fn : Nat) (x : Num) : Num :=
  match x with
  | .nan => .nan
  | .inf neg => if fn = 5 then .fin false 0 0 else if neg then .fin false 0 0 else one_
  | x =>
    match fn with
    | 5 =>
      let t := expNum ((Num.fin true 1 1).mul x.abs)
      ((Num.fin false 1 2).mul t).div ((one_.add t).mul (one_.add t))
    | 6 =>
      let g := sigmoidNum (geluArg x)
      let inner := halfC.mul (one_.add ((Num.ofInt 3).mul (geluD.mul (x.mul x))))
      g.add ((Num.fin false 1 1).mul (x.mul ((g.mul (one_.sub g)).mul inner)))
    | 7 =>
      let g := sigmoidNum x
      g.mul (one_.add (x.mul (one_.sub g)))
    | _ => if (Num.fin false 0 0).lt x then one_ else .fin false 0 0

/-- The arithmetic format of a row (R183). -/
def rowFmt (wide : Bool) : FpFmt := if wide then fmtFP64 else fmtFP32

/-- One rounding to the row's format (R78, R183). -/
def rndRow (wide : Bool) (n : Num) : Num := (rowFmt wide).decode ((rowFmt wide).encode false n).code

/-- One unit in the last place of a format at a number's magnitude. -/
def ulpAt (f : FpFmt) (v : Num) : Num :=
  .fin false 1 (match v with
    | .fin _ m e => if m = 0 then f.emin else max ((Nat.log2 m : Int) + e - ((f.p : Int) - 1)) f.emin
    | _ => f.emin)

/-- A free value inside the accuracy bound of function `fn` around the exact value `v` for the argument code `x`: the
code the hardware gives, where it lies inside the bound, else the correctly rounded value (R184). -/
def fnFree (wide : Bool) (fn x : Nat) (v : Num) : Num :=
  let f := rowFmt wide
  let cand := f.decode (if wide then (Config.veFn64 fn (BitVec.ofNat 64 x)).toNat else (Config.veFn32 fn (BitVec.ofNat 32 x)).toNat)
  let n : Nat := if fn = 2 ∨ fn = 3 then 1 else if fn = 6 ∨ fn = 7 then 4 else 2
  let bound := (Num.ofInt n).mul (ulpAt f v)
  let bound := if fn = 6 ∨ fn = 7 then bound.max (.fin false 1 (-30)) else bound
  if v.isFinite && cand.isFinite && !(bound.lt (cand.sub v).abs) then cand else rndRow wide v

/-- f(x) with the special values of R184, for a value of the row's format. -/
def fnValue (wide : Bool) (fn : Nat) (x : Num) : Num :=
  let code := ((rowFmt wide).encode false x).code
  match x with
  | .nan => .nan
  | .inf neg =>
    if fn = 0 then (if neg then .fin false 0 0 else .inf false)
    else if fn = 1 ∨ fn = 4 then (if neg then .nan else .inf false)
    else if fn = 2 then .fin neg 0 0
    else if fn = 3 then (if neg then .nan else .fin false 0 0)
    else if fn = 8 then fnExact 8 x
    else fnFree wide fn code (fnExact fn x)
  | .fin neg m _ =>
    if fn = 1 then (if m = 0 then .inf true else if neg then .nan else fnFree wide 1 code (fnExact 1 x))
    else if fn = 2 then (if m = 0 then .inf neg else fnFree wide 2 code (fnExact 2 x))
    else if fn = 3 then (if m = 0 then .inf neg else if neg then .nan else fnFree wide 3 code (fnExact 3 x))
    else if fn = 4 then rndRow wide x.sqrt
    else if fn = 8 then fnExact 8 x
    else fnFree wide fn code (fnExact fn x)

end Sys2Proof.Machine
end

