-- ==== Sys2Proof/Machine/Operands.lean ====
section
/-! DEFINITION. Operand forms of the vector engine's commands (R179, R180, R182): fields, addresses, ranges and the checks
of an iteration; and the reserved bits of every command that has operand fields. -/

namespace Sys2Proof.Machine

open Sys2Proof

/-! ### Fields of a VE command (R180) -/

def veFmtA (c : Cmd) : Fmt := Fmt.ofCode (Cmd.f c 16 31 28)
def veFmtB (c : Cmd) : Fmt := Fmt.ofCode (Cmd.f c 20 31 28)
def veFmtD (c : Cmd) : Fmt := Fmt.ofCode (Cmd.f c 24 31 28)
def veN (c : Cmd) : Nat := Cmd.f c 36 15 0 + 1
def veImm0 (c : Cmd) : Nat := Cmd.f c 28 31 0
def veImm1 (c : Cmd) : Nat := Cmd.f c 32 31 0
def veArea (c : Cmd) : Nat := Cmd.f c 32 19 0
/-- VE_DROP puts LAYER where SR, SAT and FN lie (R180). -/
def veDropOp (c : Cmd) : Bool := decide (Cmd.opcode c = 0x2C)
def veSR (c : Cmd) : Bool := !(veDropOp c) && decide (Cmd.f c 38 7 7 = 1)
def veSAT (c : Cmd) : Bool := !(veDropOp c) && decide (Cmd.f c 38 6 6 = 1)
def veFN (c : Cmd) : Nat := if veDropOp c then 0 else Cmd.f c 38 5 0
def veAddrA (c : Cmd) (n : Nat) : Int := (Cmd.f c 16 19 0 : Int) + 16 * Cmd.disp c n (fun l => Cmd.sf c (40 + 6 * l) 15 0)
def veAddrB (c : Cmd) (n : Nat) : Int := (Cmd.f c 20 19 0 : Int) + 16 * Cmd.disp c n (fun l => Cmd.sf c (42 + 6 * l) 15 0)
def veAddrDInc (c : Cmd) (n : Nat) : Int := (Cmd.f c 24 19 0 : Int) + 16 * Cmd.disp c n (fun l => Cmd.sf c (44 + 6 * l) 15 0)

/-- Opcodes that produce one value per row (R180). -/
def veIsRed (c : Cmd) : Bool := decide (Cmd.opcode c = 0x27) || decide (Cmd.opcode c = 0x28) || decide (Cmd.opcode c = 0x29)
/-- Opcodes that read operand B; VE_UNSLICE reads its column records there. -/
def veUsesB (c : Cmd) : Bool := [0x21, 0x22, 0x23, 0x24, 0x29, 0x30, 0x31, 0x32].contains (Cmd.opcode c)
/-- Backward opcodes (R191) and those under the rule of R194. -/
def veBackward (c : Cmd) : Bool := [0x30, 0x31, 0x32, 0x33].contains (Cmd.opcode c)
def veGrad (c : Cmd) : Bool := veBackward c || veDropOp c

/-- Rows processed in FP64 (R177, R183): any of the formats used is FP64 or SLICE64. -/
def veWide (c : Cmd) : Bool :=
  decide (veFmtA c = .fp64) || decide (veFmtD c = .fp64) || (veUsesB c && decide (veFmtB c = .fp64))

/-- Address of the row's destination (R180). -/
def veAddrD (c : Cmd) (n : Nat) : Int :=
  if veIsRed c then (Cmd.f c 24 19 0 : Int) + n * (veFmtD c).bytes else veAddrDInc c n

/-- Bytes of one element of A, of B and of D as the ports see them (R188). -/
def veBytesA (c : Cmd) : Nat := if Cmd.opcode c = 0x39 then 8 else (veFmtA c).bytes
def veBytesB (c : Cmd) : Nat := if Cmd.opcode c = 0x39 then 2 else if veUsesB c then (veFmtB c).bytes else 0
def veBytesD (c : Cmd) : Nat := if Cmd.opcode c = 0x38 then veFN c else (veFmtD c).bytes

/-- Size of a (μ, ρ) record (R196). -/
def veRecSize (c : Cmd) : Nat := if veWide c then 16 else 8

/-- A range of the core window: first offset and length. -/
abbrev WinRange := Int × Nat

/-- The areas of IMM0 and IMM1 that an iteration reads or writes (R179). -/
def veAreas (c : Cmd) (n : Nat) : List WinRange :=
  let i1 : Int := veArea c
  let op := Cmd.opcode c
  if op = 0x38 then [(i1 + 2 * n, 2)]
  else if op = 0x39 then [(i1 + 2 * n, 2)]
  else if op = 0x2A then [(i1 + veRecSize c * n, veRecSize c)]
  else if op = 0x31 then [(i1 + veRecSize c * n + veRecSize c / 2, veRecSize c / 2)]
  else if (veFmtA c).isMx || (veFmtD c).isMx then [(i1 + n * veN c / 32, veN c / 32)]
  else []

/-- Size the area's address must be aligned to (R179). -/
def veAreaAlign (c : Cmd) : Nat :=
  let op := Cmd.opcode c
  if op = 0x38 ∨ op = 0x39 then 2 else if op = 0x2A ∨ op = 0x31 then veRecSize c else 1

/-- The ranges of D: the row, or the slice planes (R182). -/
def veRangesD (c : Cmd) (n : Nat) : List WinRange :=
  if Cmd.opcode c = 0x38 then
    (List.range (veFN c)).map (fun i => (veAddrD c n + (i * veImm0 c * 16 : Nat), veN c))
  else if veIsRed c then [(veAddrD c n, (veFmtD c).bytes)]
  else [(veAddrD c n, veN c * (veFmtD c).bytes)]

def veRangeA (c : Cmd) (n : Nat) : WinRange := (veAddrA c n, veN c * veBytesA c)
def veRangeB (c : Cmd) (n : Nat) : WinRange := (veAddrB c n, veN c * veBytesB c)

/-- Every range of an iteration (R179). -/
def veRanges (c : Cmd) (n : Nat) : List WinRange :=
  [veRangeA c n] ++ (if veBytesB c = 0 then [] else [veRangeB c n]) ++ veRangesD c n ++ veAreas c n

/-- A range that R179 refuses. -/
def State.rangeBad (s : State) (c : Nat) (r : WinRange) : Bool :=
  decide (r.1 < 0) || decide ((0x100000 : Int) < r.1 + r.2) || (decide (r.1 < 0xC0000) && decide ((0xC0000 : Int) < r.1 + r.2))
    || (decide (r.1 < 0xC0000) && !(s.rangeOn c r.1.toNat r.2))

/-- The check of an iteration (R179, R182). The base of a one-value-per-row D is ADDR_D itself. -/
def State.veIterBad (s : State) (c : Nat) (cmd : Cmd) (n : Nat) : Bool :=
  decide (veAddrA cmd n % 16 ≠ 0) || (decide (veBytesB cmd ≠ 0) && decide (veAddrB cmd n % 16 ≠ 0))
    || decide ((if veIsRed cmd then (Cmd.f cmd 24 19 0 : Int) else veAddrD cmd n) % 16 ≠ 0)
    || (!(veAreas cmd n).isEmpty && decide (veArea cmd % veAreaAlign cmd ≠ 0))
    || (decide (Cmd.opcode cmd = 0x39) && decide (veAddrA cmd n < 0xC0000))
    || (veRanges cmd n).any (s.rangeBad c)

/-- An ACB row range of an armed slot whose COMPLETE is clear, touched by a range (R204). A slot's range ends at row
4,095. -/
def State.tiedRange (s : State) (c : Nat) (r : WinRange) : Bool :=
  (List.range 8).any (fun n =>
    let base := s.get F.VE_TIE_BASE c n
    let last := min 4095 (base + s.get F.VE_TIE_ROWS_M1 c n)
    decide (s.get F.VE_TIE_ARMED c n = 1) && decide (s.get F.VE_TIE_COMPLETE c n = 0)
      && decide (0 < r.2) && decide (r.1 < (0xC0000 + 64 * (last + 1) : Nat)) && decide (((0xC0000 + 64 * base : Nat) : Int) < r.1 + r.2))

/-! ### Accepted formats (R177, R182, R184) -/

def Fmt.veSrc : Fmt → Bool
  | .int8 | .e4m3 | .e5m2 | .bf16 | .fp16 | .fp32 | .fp64 | .int32 => true
  | _ => false

def Fmt.veDst : Fmt → Bool
  | .e4m3 | .e5m2 | .bf16 | .fp16 | .fp32 | .fp64 => true
  | _ => false

/-- A format pair or triple the opcode accepts (R177, R182). -/
def veFormats (c : Cmd) : Bool :=
  let a := veFmtA c; let b := veFmtB c; let d := veFmtD c
  match Cmd.opcode c with
  | 0x20 =>
    (a.veSrc || a.isMx) && (d.veDst || d.isMx || decide (d = .int8) || decide (d = .int32)) && !(a.isMx && d.isMx)
      && (!(a.isMx || d.isMx) || decide (veN c % 32 = 0))
  | 0x38 => ((decide (a = .fp32) && decide (d = .slice32)) || (decide (a = .fp64) && decide (d = .slice64)))
      && decide (3 ≤ veFN c) && decide (veFN c ≤ 8)
  | 0x39 => ((decide (a = .slice32) && decide (d = .fp32)) || (decide (a = .slice64) && decide (d = .fp64)))
      && decide (3 ≤ veFN c) && decide (veFN c ≤ 8)
  | _ =>
    a.veSrc && d.veDst && (!(veUsesB c) || b.veSrc)
      && (!(veWide c) || (decide (a = .fp64) && decide (d = .fp64) && (!(veUsesB c) || decide (b = .fp64))))

/-- FN values an opcode accepts (R184, R196, R198). -/
def veFnOk (c : Cmd) : Bool :=
  match Cmd.opcode c with
  | 0x26 => decide (veFN c ≤ 8)
  | 0x30 => decide (5 ≤ veFN c) && decide (veFN c ≤ 8)
  | 0x2A => decide (veFN c ≤ 1)
  | 0x31 => decide (veFN c ≤ 1)
  | _ => true

/-- Reserved bits of the operand fields are zero (R180). -/
def veRsvOk (c : Cmd) : Bool :=
  decide (Cmd.f c 16 27 20 = 0) && (veDropOp c || decide (Cmd.f c 20 27 20 = 0)) && decide (Cmd.f c 24 27 20 = 0)
    && (veDropOp c || decide (Cmd.f c 39 7 0 = 0))

/-- What completes a VE command with ILLEGAL in its begin ACLK (R143, R145, R177, R182, R184, R194). -/
def State.veIllegal (s : State) (c : Nat) (cmd : Cmd) : Bool :=
  Cmd.badHeader cmd || !(veRsvOk cmd) || !(veFormats cmd) || !(veFnOk cmd)
    || (decide (s.get F.VE_CTX_PHASE c = 1) && veGrad cmd && !(decide (veFmtD cmd = .bf16) || decide (veFmtD cmd = .fp16)))

end Sys2Proof.Machine
end

