-- ==== Sys2Proof/Machine/VectorEngine.lean ====
section
/-! DEFINITION. The vector engine (06_vector_engine_and_backward_pass.md): the arithmetic of every opcode, the generator of
drop-out and stochastic rounding, the timeline, the phase fence and the tie slots. -/

namespace Sys2Proof.Machine

open Sys2Proof

/-! ### The counter-based generator (R195) -/

/-- The four counter words and the key. -/
structure Philox where
  c0 : Nat
  c1 : Nat
  c2 : Nat
  c3 : Nat
  k0 : Nat
  k1 : Nat
  deriving DecidableEq, Repr

/-- One of the ten repetitions of R195. -/
def Philox.round (p : Philox) : Philox :=
  let a := 0xD2511F53 * p.c0
  let b := 0xCD9E8D57 * p.c2
  ⟨Nat.xor (Nat.xor (b / 2 ^ 32) p.c1) p.k0, b % 2 ^ 32, Nat.xor (Nat.xor (a / 2 ^ 32) p.c3) p.k1, a % 2 ^ 32,
    (p.k0 + 0x9E3779B9) % 2 ^ 32, (p.k1 + 0xBB67AE85) % 2 ^ 32⟩

def Philox.rounds : Nat → Philox → Philox
  | 0, p => p
  | n + 1, p => Philox.rounds n p.round

/-- Word `i` of philox(c, k). -/
def Philox.word (p : Philox) (i : Nat) : Nat :=
  let q := Philox.rounds 10 p
  match i with
  | 0 => q.c0 | 1 => q.c1 | 2 => q.c2 | _ => q.c3

/-- The generator word of the drop-out stream for element index `e` (R195). -/
def State.dropWord (s : State) (c layer e : Nat) : Nat :=
  let seed := s.get F.VE_SEED_SEED c
  Philox.word ⟨e / 4, s.get F.VE_CTX_STEP c, layer * 2 ^ 16, 0, seed % 2 ^ 32, seed / 2 ^ 32⟩ (e % 4)

/-- The 16-bit value of the stochastic-rounding stream for element index `e` of a command (R79, R195). -/
def State.stochWord (s : State) (c cmdId e : Nat) : Nat :=
  let seed := s.get F.VE_SEED_SEED c
  let w := Philox.word
    ⟨e / 8, s.get F.VE_CTX_STEP c, cmdId * 2 ^ 16 + (s.core c).logical % 2048, 1, seed % 2 ^ 32, seed / 2 ^ 32⟩ (e % 8 / 2)
  if e % 2 = 0 then w % 2 ^ 16 else w / 2 ^ 16

/-! ### Row arithmetic -/

/-- Elements of a byte string, `k` bytes each. -/
def elems (k : Nat) (bs : List Byte) : Nat → List Nat
  | 0 => []
  | n + 1 => leNat (bs.take k) :: elems k (bs.drop k) n

/-- Widening of one element to the row's arithmetic: exact, INT32 rounded to FP32 (R177). -/
def veWiden (f : Fmt) (code : Nat) : Num :=
  match f with
  | .int32 => rndRow false (f.value code)
  | f => f.value code

/-- The elements of one lane of a row reduction (R185). -/
def laneOf (l k : Nat) (xs : List (Num × Num)) : List (Num × Num) :=
  (xs.zipIdx.filter (fun p => decide (p.2 % l = k))).map Prod.fst

/-- One level of the binary tree of R185. -/
def pairUp (f : Num → Num → Num) : List Num → List Num
  | a :: b :: t => f a b :: pairUp f t
  | l => l

def pairLevels (f : Num → Num → Num) : Nat → List Num → List Num
  | 0, l => l
  | n + 1, l => pairLevels f n (pairUp f l)

/-- Lanes of the row's arithmetic, and the levels of their tree. -/
def veLanes (wide : Bool) : Nat := if wide then 16 else 64
def veLevels (wide : Bool) : Nat := if wide then 4 else 6

/-- Σ a·b over a row in the order of R185: each lane one fused multiply-add per element, starting at -0. -/
def veSum (wide : Bool) (xs : List (Num × Num)) : Num :=
  let lanes := (List.range (veLanes wide)).map (fun k =>
    (laneOf (veLanes wide) k xs).foldl (fun acc p => rndRow wide ((p.1.mul p.2).add acc)) (.fin true 0 0))
  (pairLevels (fun a b => rndRow wide (a.add b)) (veLevels wide) lanes).headD .nan

/-- max over a row in the order of R185, with the NaN rule of R183. -/
def veMaxRow (wide : Bool) (xs : List Num) : Num :=
  let lanes := (List.range (veLanes wide)).map (fun k =>
    (laneOf (veLanes wide) k (xs.map (fun x => (x, one_)))).foldl (fun acc p => acc.max p.1) (.inf true))
  (pairLevels Num.max (veLevels wide) lanes).headD .nan

def oneEach (a : List Num) : List (Num × Num) := a.map (fun x => (x, one_))

/-- What one row yields before its conversion to FMT_D: the values of D, further values it reads or writes (R196, R198), and further
bytes at window offsets. -/
structure VeOut where
  vals : List Num := []
  extra : List Num := []
  raw : List (Nat × List Byte) := []
  deriving DecidableEq, Repr

/-- VE_NORM of a row (R196). -/
def veNorm (wide : Bool) (rms : Bool) (eps : Num) (a : List Num) : Num × Num × List Num :=
  let inv := rndRow wide (one_.div (Num.ofInt a.length))
  let mu := if rms then .fin false 0 0 else rndRow wide ((veSum wide (oneEach a)).mul inv)
  let sq := rndRow wide ((veSum wide (a.map (fun x => (x, x)))).mul inv)
  let v := rndRow wide (sq.sub (mu.mul mu))
  let v := if v.isNan then v else if (Num.fin false 0 0).lt v then v else .fin false 0 0
  let rho := fnValue wide 3 (rndRow wide (v.add eps))
  (mu, rho, a.map (fun x => rndRow wide ((rndRow wide (x.sub mu)).mul rho)))

/-- VE_NORMB of a row (R198). -/
def veNormb (wide : Bool) (rms : Bool) (rho : Num) (a b : List Num) : List Num :=
  let inv := rndRow wide (one_.div (Num.ofInt a.length))
  let m1 := if rms then .fin false 0 0 else rndRow wide ((veSum wide (oneEach a)).mul inv)
  let m2 := rndRow wide ((veSum wide (a.zip b)).mul inv)
  (a.zip b).map (fun p => rndRow wide (rho.mul (rndRow wide ((p.2.neg.mul m2).add (rndRow wide (p.1.sub m1))))))

/-- VE_SMAX of a row (R775); `mid` rounds the values written by pass 2 to FMT_D and reads them back. -/
def veSmax (wide : Bool) (mid : Num → Num) (im0 : Num) (a : List Num) : List Num :=
  let z := a.map (fun x => rndRow wide (im0.mul x))
  let m := veMaxRow wide z
  if !m.isFinite then a.map (fun _ => .nan)
  else
    let e := z.map (fun x => fnValue wide 0 (rndRow wide (x.sub m)))
    let q := fnValue wide 2 (veSum wide (oneEach e))
    e.map (fun x => rndRow wide ((mid x).mul q))

/-- VE_SMAXB of a row (R199). -/
def veSmaxb (wide : Bool) (a b : List Num) : List Num :=
  let t := veSum wide (a.zip b)
  (a.zip b).map (fun p => rndRow wide (p.2.mul (rndRow wide (p.1.sub t))))

/-- The element-wise opcodes (R181). -/
def veElem (wide : Bool) (op fn : Nat) (im0 im1 : Num) (a b : List Num) : List Num :=
  match op with
  | 0x20 => a.map (fun x => rndRow wide (x.mul im0))
  | 0x21 => (a.zip b).map (fun p => rndRow wide (p.1.add p.2))
  | 0x22 => (a.zip b).map (fun p => rndRow wide (p.1.mul p.2))
  | 0x23 => (a.zip b).map (fun p => rndRow wide ((im0.mul p.1).add p.2))
  | 0x24 => (a.zip b).map (fun p => p.1.max p.2)
  | 0x25 => a.map (fun x => rndRow wide ((im0.mul x).add im1))
  | 0x26 => a.map (fnValue wide fn)
  | 0x27 => [veSum wide (oneEach a)]
  | 0x28 => [veMaxRow wide a]
  | 0x29 => [veSum wide (a.zip b)]
  | 0x30 => (a.zip b).map (fun p => rndRow wide (p.1.mul (rndRow wide (fnDeriv fn p.2))))
  | 0x32 => veSmaxb wide a b
  | _ => a.map (fun x => rndRow wide (x.mul im0))

/-! ### One row -/

/-- Flags of a conversion result and of the value converted. -/
def convFlags (v : Num) (k : Conv) : NumFlags := ⟨v.isNan || k.nan, v.isInf || k.inf, k.sat⟩

/-- A row's writes with its flags. -/
def veRowOf (writes : List (Nat × List Byte)) (g : NumFlags) (bad : Nat) : VeRow := ⟨writes, g.nan, g.inf, g.sat, bad⟩

/-- Conversion of a row's values to FMT_D (R78, R79, R81, R74); `e0` is n·N. Stochastic rounding is defined for FP32 values (R79), so an
FP64 row is rounded to nearest (R78). -/
def State.vePack (s : State) (c : Nat) (cmd : Cmd) (n e0 : Nat) (dst : Nat) (vals : List Num) : VeRow :=
  let f := veFmtD cmd
  if f.isMx then
    let blocks := (List.range (vals.length / 32)).map (fun j => mxBlock f ((vals.drop (32 * j)).take 32))
    let conv := blocks.flatMap Prod.snd
    veRowOf [(dst, conv.flatMap (fun k => leBytes 1 k.code)), (veArea cmd + n * veN cmd / 32, blocks.flatMap (fun b => leBytes 1 b.1))]
      ((vals.zip conv).foldl (fun g p => g.join (convFlags p.1 p.2)) {}) 0
  else
    let sr := veSR cmd && decide (f = .bf16) && !(veWide cmd)
    let conv := vals.zipIdx.map (fun (v, k) =>
      if sr then stochBf16 (toFp32 v).code (s.stochWord c (Cmd.id cmd) ((e0 + k) % 2 ^ 32)) else f.convert (veSAT cmd) v)
    veRowOf [(dst, conv.flatMap (fun k => leBytes f.bytes k.code))] ((vals.zip conv).foldl (fun g p => g.join (convFlags p.1 p.2)) {})
      (conv.filter (fun k => !(f.value k.code).isFinite)).length

/-- The operands of iteration `n` as numbers; an MX operand under its scales (R73, R182). -/
def State.veReadA (s : State) (c : Nat) (cmd : Cmd) (n : Nat) : List Num :=
  let f := veFmtA cmd
  let codes := elems f.bytes (s.readWin c (veAddrA cmd n).toNat (veN cmd * f.bytes)) (veN cmd)
  if f.isMx then
    codes.zipIdx.map (fun (x, k) => scaled (f.value x) (s.winNat c (veArea cmd + n * veN cmd / 32 + k / 32) 1))
  else codes.map (veWiden f)

def State.veReadB (s : State) (c : Nat) (cmd : Cmd) (n : Nat) : List Num :=
  if veUsesB cmd then
    let f := veFmtB cmd
    (elems f.bytes (s.readWin c (veAddrB cmd n).toNat (veN cmd * f.bytes)) (veN cmd)).map (veWiden f)
  else []

/-- Flags of a row's inputs (R184, R208). -/
def inFlags (xs : List Num) : NumFlags := ⟨xs.any Num.isNan, xs.any Num.isInf, false⟩

/-- One row of a VE command (R180 to R185, R194 to R199). The element index of a one-value-per-row result is n·N, its k being 0 (DESIGN
CHOICE, notes/assumptions/34.md; R195 gives n·N + k). -/
def State.veRow (s : State) (c : Nat) (cmd : Cmd) (n : Nat) : VeRow :=
  let wide := veWide cmd
  let dst := (veAddrD cmd n).toNat
  let size := veN cmd
  let area := veArea cmd
  match Cmd.opcode cmd with
  | 0x38 =>
    let a := s.veReadA c cmd n
    let sl := veFN cmd
    veRowOf ((List.range sl).map (fun i => (dst + i * veImm0 cmd * 16, a.map (fun v => BitVec.ofNat 8 (slicePlane sl (i + 1) a v))))
        ++ [(area + 2 * n, leBytes 2 (sliceRecord sl a))]) (inFlags a) 0
  | 0x39 =>
    let ra := s.winNat c (area + 2 * n) 2
    let base := (veAddrA cmd n).toNat
    let conv := (List.range size).map (fun k =>
      let at_ := base + 8 * k
      let tag := lookD ⟨0, 0⟩ (s.core c).tags ((at_ - 0xC0000) / 128)
      sliceConvert (if veFmtA cmd = .slice32 then fmtFP32 else fmtFP64) (veFN cmd) ra
        (s.winNat c ((veAddrB cmd n).toNat + 2 * k) 2) tag.scale (s.winNat c at_ 8))
    veRowOf [(dst, conv.flatMap (fun k => leBytes (veFmtD cmd).bytes k.code))] (conv.foldl (fun g k => g.join ⟨k.nan, k.inf, k.sat⟩) {}) 0
  | op =>
    let a := s.veReadA c cmd n
    let b := s.veReadB c cmd n
    let im0 := fp32 (veImm0 cmd)
    let im1 := fp32 (veImm1 cmd)
    let rec_ := veRecSize cmd
    let e0 := n * size
    let out : VeOut := match op with
      | 0x2A =>
        let (mu, rho, d) := veNorm wide (decide (veFN cmd = 1)) im0 a
        { vals := d, extra := [mu, rho],
          raw := [(area + rec_ * n, leBytes (rec_ / 2) ((rowFmt wide).encode false mu).code
            ++ leBytes (rec_ / 2) ((rowFmt wide).encode false rho).code)] }
      | 0x2B => { vals := veSmax wide (fun x => (veFmtD cmd).value ((veFmtD cmd).convert false x).code) im0 a }
      | 0x2C =>
        { vals := a.zipIdx.map (fun (x, k) =>
            if s.dropWord c (Cmd.f cmd 38 15 0) ((Cmd.f cmd 20 31 0 + e0 + k) % 2 ^ 32) ≤ veImm1 cmd
            then rndRow wide (x.mul im0) else .fin false 0 0) }
      | 0x31 =>
        let rho := (rowFmt wide).decode (s.winNat c (area + rec_ * n + rec_ / 2) (rec_ / 2))
        { extra := [rho], vals := veNormb wide (decide (veFN cmd = 1)) rho a b }
      | op => { vals := veElem wide op (veFN cmd) im0 im1 a b }
    let r := s.vePack c cmd n e0 dst out.vals
    let g := (inFlags a).join ((inFlags b).join (inFlags out.extra))
    { r with writes := r.writes ++ out.raw, nan := r.nan || g.nan, inf := r.inf || g.inf }

/-! ### The timeline (R188, R189) -/

/-- Passes of an opcode: lane rates in FP32 and FP64, bytes read and bytes written per element. -/
def vePasses (c : Cmd) : List (Nat × Nat × Nat × Nat) :=
  let a := veBytesA c; let b := veBytesB c; let d := veBytesD c
  let fnr : Nat × Nat :=
    if veFN c = 8 then (64, 16) else if [2, 3, 4].contains (veFN c) then (32, 8) else (16, 4)
  match Cmd.opcode c with
  | 0x26 => [(fnr.1, fnr.2, a, d)]
  | 0x30 => [(fnr.1, fnr.2, a + b, d)]
  | 0x27 => [(64, 16, a, 0)]
  | 0x28 => [(64, 16, a, 0)]
  | 0x29 => [(64, 16, a + b, 0)]
  | 0x2A => [(64, 16, a, 0), (64, 16, a, d)]
  | 0x2B => [(64, 16, a, 0), (16, 4, a, d), (64, 16, d, d)]
  | 0x31 => [(64, 16, a + b, 0), (64, 16, a + b, d)]
  | 0x32 => [(64, 16, a + b, 0), (64, 16, a + b, d)]
  | 0x38 => [(64, 16, a, 0), (64, 16, a, d)]
  | _ => [(64, 16, a + b, d)]

def ceilDiv (a b : Nat) : Nat := (a + b - 1) / b

/-- ACLK in which the elements of one pass enter (R188). -/
def vePassLen (c : Cmd) (p : Nat × Nat × Nat × Nat) : Nat :=
  let (l32, l64, rd, wr) := p
  max (ceilDiv (veN c) (if veWide c then l64 else l32)) (max (ceilDiv (veN c * rd) 256) (ceilDiv (veN c * wr) 128))

/-- ACLK from a row's first element to the first element of the next row. -/
def veRowLen (c : Cmd) : Nat :=
  ((vePasses c).map (vePassLen c)).foldl (· + ·) 0 + 13 * ((vePasses c).length - 1)

/-- From a row's first ACLK to its last write. -/
def veRowLast (c : Cmd) : Nat := veRowLen c - 1 + (if veIsRed c then 14 else 8)

/-! ### Running the rows -/

/-- What R178 and R179 count among an iteration's reads: A and B, the records of VE_UNSLICE and VE_NORMB, the scales of an MX source, and
the words that a write covers only in part (R215). -/
def veReadRanges (cmd : Cmd) (n : Nat) : List (Nat × Nat) :=
  let nat (l : List WinRange) : List (Nat × Nat) := l.map (fun r => (r.1.toNat, r.2))
  let areaRead := decide (Cmd.opcode cmd = 0x39) || decide (Cmd.opcode cmd = 0x31) || (veFmtA cmd).isMx
  let writes := veRangesD cmd n ++ (if areaRead then [] else veAreas cmd n)
  nat ([veRangeA cmd n] ++ (if veBytesB cmd = 0 then [] else [veRangeB cmd n]) ++ (if areaRead then veAreas cmd n else []))
    ++ (nat writes).flatMap (fun r => partWords r.1 r.2)

/-- A write cut at 64-byte rows. -/
def cutRowsFuel (a : Nat) : Nat → List Byte → List (Nat × List Byte)
  | 0, _ => []
  | n + 1, bs =>
    if bs.isEmpty then []
    else
      let k := 64 - a % 64
      (a, bs.take k) :: cutRowsFuel (a + k) n (bs.drop k)

def cutRows (a : Nat) (bs : List Byte) : List (Nat × List Byte) := cutRowsFuel a (bs.length / 64 + 2) bs

/-- Landing of a row in ACLK `t` (R178, R184, R194). A write to an ACB row that the ME writes in the same ACLK is lost (R190). -/
def State.veLand (s : State) (c : Nat) (cmd : Cmd) (r : VeRow) (t : Nat) : State :=
  let x := s.core c
  let lost (a : Nat) : Bool := decide (x.meWrote.1 = t) && decide (0xC0000 ≤ a) && x.meWrote.2.contains ((a - 0xC0000) / 64)
  let s := r.writes.foldl (fun s w => (cutRows w.1 w.2).foldl (fun s q => if lost q.1 then s else s.writeWin c q.1 q.2) s) s
  let s := s.flagIf r.nan F.VE_EVT_NAN c
  let s := s.flagIf r.inf F.VE_EVT_INF c
  let s := s.flagIf r.sat F.VE_EVT_SAT c
  if veGrad cmd && decide (s.get F.VE_CTX_PHASE c = 1) && decide (0 < r.bad) then
    (s.bump F.VE_CNT_NONFINITE c r.bad).flag F.VE_EVT_GRAD_NF c
  else s

/-- The event bit of a VE status (R208). -/
def State.veEvt (s : State) (c st : Nat) : State :=
  match st with
  | 3 => s.flag F.VE_EVT_ILLEGAL c
  | 9 => s.flag F.VE_EVT_PHASE c
  | 0xA => s.flag F.VE_EVT_TIED c
  | 0xB => ((s.flag F.VE_EVT_VE_CHECK c).bump F.VE_CNT_CHECK c).logHw 2 .VE 3 c
  | 6 => s.flag F.VE_EVT_ECC c
  | _ => s

/-- A VE command that ends in its begin ACLK. -/
def veEndNow (s : State) (c : Nat) (q : QCmd) (st : Nat) : State := (s.veEvt c st).endNow c .ve q st

/-- The next row of a begun command is due and its accesses are served (R178): the row begins. -/
def State.veReady (s : State) (c : Nat) (v : VeFly) : Bool :=
  v.stop.isNone && !v.dead && decide (v.n < Cmd.iters v.q.cmd) && v.cut.isNone
    && (s.veIterBad c v.q.cmd v.n || s.windowServes c .ve v.since ((veRanges v.q.cmd v.n).map (fun r => (r.1.toNat, r.2))))

/-- A refused bank among an iteration's ranges sets REFUSED (R247). -/
def State.veRefused (s : State) (c : Nat) (cmd : Cmd) (n : Nat) : State :=
  s.flagIf ((veRanges cmd n).any (fun r => decide (0 ≤ r.1) && decide (r.1 + r.2 ≤ 0xC0000) && !(s.rangeOn c r.1.toNat r.2))) F.SPD_EVT_REFUSED c

/-- The command stops in ACLK `t` with a status: rows that have entered still land, unless its status forbids it (R179, R186, R204). -/
def State.veStop (s : State) (c : Nat) (v : VeFly) (st t : Nat) (kill : Bool) : State × VeFly :=
  (s.veEvt c st, { v with stop := some (st, v.n), lastW := if kill then t else max v.lastW t,
                          late := if kill then v.late.filter (fun l => decide (l.1 ≤ t)) else v.late })

/-- A row begins in ACLK `t` (R179, R186, R188, R204): its check, the tie slots, what its reads find, its values. -/
def State.veRowStart (s : State) (c : Nat) (v : VeFly) (t : Nat) : State × VeFly :=
  let cmd := v.q.cmd
  if s.veIterBad c cmd v.n then (s.veRefused c cmd v.n).veStop c v 3 t false
  else if (veRanges cmd v.n).any (s.tiedRange c) then s.veStop c v 0xA t false
  else
    let (hw, off) : MemHw × Nat := match v.hw with
      | .corr n o => if n = v.n then (.corr, o) else (.ok, 0)
      | .ecc n o => if n = v.n then (.unc, o) else (.ok, 0)
      | _ => (.ok, 0)
    let (s, corr, unc) := s.winReads c 1 (veReadRanges cmd v.n) hw off
    let s := s.flagIf corr F.VE_EVT_ECC_CORR c
    let s := s.windowTake c .ve v.since ((veRanges cmd v.n).map (fun r => (r.1.toNat, r.2)))
    if unc then s.veStop c v 6 t true
    else if v.hw = .check v.n then s.veStop c v 0xB t true
    else
      let s := s.pmon .VE c 0x40 0 (((vePasses cmd).map (vePassLen cmd)).foldl (· + ·) 0)
      (s, { v with n := v.n + 1, at_ := t + veRowLen cmd, since := t + veRowLen cmd, lastW := max v.lastW (t + veRowLast cmd),
                   late := v.late ++ [(t + veRowLast cmd, s.veRow c cmd v.n)] })

/-- The VE's first part of an ACLK: a row begins. -/
def State.veBeginRow (s : State) (c t : Nat) : State :=
  match (s.core c).veFly with
  | none => s
  | some v =>
    if v.at_ ≤ t && s.veReady c v then
      let (s, v) := s.veRowStart c v t
      s.modCore c (fun x => { x with veFly := some v })
    else s

/-- The VE's last part of an ACLK: rows land, and a command with nothing left completes in the ACLK of its last write (R189), or leaves as
an abort (R158) or a context switch has it (R56, R160). -/
def State.veFinish (s : State) (c t : Nat) : State :=
  match (s.core c).veFly with
  | none => s
  | some v =>
    let s := (v.late.filter (fun l => decide (l.1 ≤ t))).foldl (fun s l => s.veLand c v.q.cmd l.2 t) s
    let v := { v with late := v.late.filter (fun l => !(decide (l.1 ≤ t))) }
    let ran := v.stop.isSome || decide (v.n = Cmd.iters v.q.cmd) || v.dead || v.cut.isSome
    if !(v.late.isEmpty && ran && (v.dead || decide (v.lastW ≤ t))) then s.modCore c (fun x => { x with veFly := some v })
    else
      let s := (s.modCore c (fun x => { x with veFly := none })).setEntry c .ve v.lastW
      if v.dead then s.cellBack c .ve v.q (t + 1)
      else match v.stop, v.cut with
        | some (st, n), _ => s.complete c .ve v.q st n
        | none, some n =>
          if n = Cmd.iters v.q.cmd then s.complete c .ve v.q 0 0
          else s.modCore c (fun x => { x with ve := { x.ve with resume := some ⟨v.q, n, 0⟩ } })
        | none, none => s.complete c .ve v.q 0 0

/-- The ACLK in which a begun VE command next has something to do; a row whose accesses are not served waits. -/
def State.veDues (s : State) (c : Nat) (v : VeFly) : List Nat :=
  (if s.veReady c v then [v.at_] else []) ++ v.late.map Prod.fst
    ++ (if v.late.isEmpty && (v.stop.isSome || v.dead || v.cut.isSome || decide (v.n = Cmd.iters v.q.cmd)) then [v.lastW] else [])

/-- The VE begins command `q` with opcode `op` in ACLK `b` (R52, R163, R189, R191): a command that the begin's checks refuse ends in that
ACLK. Before ABSENT the check of the first iteration, made in the same ACLK, gives ILLEGAL. -/
def veBegin (op core : Nat) (hw : VeHw) (p b : Nat) (q : QCmd) (s : State) : State :=
  let cmd := q.cmd
  let n0 := (s.core core).ve.firstIter
  let s := s.begin_ core .ve p b
  let absent := s.gradeS && (decide (op = 0x38) || decide (op = 0x39))
  if s.veIllegal core cmd || (absent && s.veIterBad core cmd 0) then veEndNow s core q 3
  else if absent then veEndNow s core q 4
  else if veBackward cmd && decide (s.get F.VE_CTX_PHASE core = 0) then veEndNow s core q 9
  else s.modCore core (fun x => { x with veFly := some { q := q, hw := hw, n := n0, at_ := b, since := b, lastW := b } })

end Sys2Proof.Machine
end

