-- ==== Sys2Proof/Machine/Engines.lean ====
section
/-! DEFINITION. The engines of the cores as time passes: one ACLK of a core, the ACLK that performance counters count, and the clock carried
forward with everything the engines do on the way (R25 to R28, R102, R154 to R156, R188 to R190). -/

namespace Sys2Proof.Machine

open Sys2Proof

/-! ### One ACLK of a core -/

/-- Completions and cells that fall due in ACLK `t` (R151, R154, R155, R193, R239). A VE_PHASE enters its phase in that ACLK and releases
the VE queue. -/
def State.dueTick (s : State) (c t : Nat) : State :=
  let due := (s.core c).dueCpl.filter (fun d => decide (d.at_ ≤ t))
  if due.isEmpty then s
  else
    let s := s.modCore c (fun x => { x with dueCpl := x.dueCpl.filter (fun d => !(decide (d.at_ ≤ t))) })
    due.foldl (fun s d =>
      if d.status = 16 then s.freeCell c
      else
        let s :=
          if Cmd.opcode d.q.cmd = 0x3F then
            let ph := Cmd.f d.q.cmd 16 0 0
            let s := s.set F.VE_CTX_PHASE c ph
            let s := if ph = 0 then s.set F.VE_CTX_STEP c (Cmd.f d.q.cmd 20 31 0) else s
            s.modCore c (fun x => { x with ve := { x.ve with hold := none, lastEntry := t } })
          else s
        let s := if d.status = 3 then s.evtIllegal c (Eng.ofCode d.eng) else s
        s.complete c (Eng.ofCode d.eng) d.q d.status d.iter) s

/-- One ACLK of a core's engines. Within it completions come first, so that a tie slot they complete is seen (R204); the VE reads before
the ME writes (R27); the ME's value stands against the VE's (R190). -/
def State.coreTick (s : State) (c t : Nat) : State :=
  let s := s.dueTick c t
  let s := if s.cutOff c then s
    else ((((s.meCompletions c t).veBeginRow c t).meTick c t).trfTick c t).veFinish c t
  s.modCore c (fun x => { x with tick := t + 1 })

/-- ACLK in which a core's engines have something to do. -/
def State.coreDues (s : State) (c : Nat) (x : CoreSt) : List Nat :=
  x.dueCpl.map DueCpl.at_
    ++ (if s.cutOff c then [] else
      (x.meFly.flatMap MeFly.dues).filter (fun t => decide (x.tick ≤ t) || decide (t = 0))
        ++ (match x.veFly with
          | some v => s.veDues c v
          | none => [])
        ++ (match x.store with
          | some k => if x.stopped && decide (k.r = 0) then [] else [k.at_]
          | none => []) ++ x.phase.map PhaseRow.at_ ++ x.wbuf.map BufRow.at_)

/-- The core with nothing begun. -/
def CoreSt.quiet (x : CoreSt) : Bool :=
  x.dueCpl.isEmpty && x.meFly.isEmpty && x.veFly.isNone && x.store.isNone && x.phase.isEmpty && x.wbuf.isEmpty

/-- The next ACLK in which a core's engines have something to do, not before `now`. -/
def State.coreNext (s : State) (c : Nat) : Option Nat :=
  let x := s.core c
  if x.quiet then none
  else
    match s.coreDues c x with
    | [] => none
    | a :: l => some (max (max x.tick s.now) (l.foldl min a))

/-- The earliest of them over all cores, the lowest core first. -/
def State.nextTick (s : State) : Option (Nat × Nat) :=
  s.cores.foldl (fun (o : Option (Nat × Nat)) p =>
    match s.coreNext p.1, o with
    | none, o => o
    | some t, none => some (t, p.1)
    | some t, some (u, d) => if t < u then some (t, p.1) else some (u, d)) none

/-! ### What is counted in every ACLK (R736) -/

/-- The ME has a command whose rows still enter, or a row in the arrays. -/
def CoreSt.meBusy (x : CoreSt) (now : Nat) : Bool := x.meFly.any (fun f => !f.ended && decide (now ≤ f.last))
def CoreSt.meDraining (x : CoreSt) (now : Nat) : Bool := !(x.meBusy now) && x.meFly.any (fun f => !f.rows.isEmpty)

/-- An engine has a command in its queue or begun. -/
def CoreSt.engBusy (x : CoreSt) (e : Eng) (now : Nat) : Bool :=
  let g := x.eng e
  !g.all.isEmpty || g.hold.isSome || g.resume.isSome || (g.used && decide (now ≤ g.lastEntry))
    || x.dueCpl.any (fun d => decide (d.status < 16) && decide (d.eng = e.code))
    || (match e with
      | .me => x.meBusy now
      | .ve => x.veFly.isSome
      | .dm => !x.dmCmds.isEmpty
      | .su => false)

/-- A WAIT of the core stands on a counter (R155). -/
def CoreSt.waitsOn (x : CoreSt) (ctr now : Nat) : Nat :=
  ([x.me, x.ve, x.dm, x.su].filter (fun g => match g.hold with
    | some h => decide (Cmd.opcode h.cmd = 0x0F) && decide (Cmd.f h.cmd 16 4 0 = ctr) && decide (h.at_ ≤ now)
    | none => false)).length

/-- What an event that is counted per ACLK adds in each ACLK of the present state. -/
def State.aclkEvent (s : State) (blk unit ev sub : Nat) : Nat :=
  let x := s.core unit
  if blk = Blk.ME.code then
    (if ev = 0x12 then b2n (!(x.meBusy s.now) && !(x.meDraining s.now)) else if ev = 0x13 then b2n (x.meDraining s.now) else 0)
  else if blk = Blk.CC.code then
    (if ev = 0x31 then b2n x.push.isSome
     else if ev = 0x32 then b2n ((x.eng (Eng.ofCode sub)).head.isSome)
     else if ev = 0x33 then b2n (!(x.engBusy (Eng.ofCode sub) s.now)) else 0)
  else if blk = Blk.VE.code then
    (if ev = 0x41 then (match x.veFly with
        | some v => b2n (decide (v.at_ ≤ s.now) && v.stop.isNone && decide (v.n < Cmd.iters v.q.cmd) && !(s.veReady unit v))
        | none => 0)
     else if ev = 0x42 then b2n (!(x.engBusy .ve s.now)) else 0)
  else if blk = Blk.SPD.code then (if ev = 0x51 then (x.bank sub).waiting.length else 0)
  else if blk = Blk.DM.code then (if ev = 0x54 then x.dmTags.length else 0)
  else if blk = Blk.SU.code then (if ev = 0x63 then x.waitsOn sub s.now else 0)
  else 0

/-- `d` ACLK pass with the state as it is: the counters of events counted per ACLK. -/
def State.elapse (s : State) (d : Nat) : State :=
  if d = 0 then s
  else (s.regs.filter (fun r => decide (r.1.reg = .PMON_CFG))).foldl (fun s r =>
    let inst := r.1.inst
    let ev := s.get F.PMON_CFG_EVENT inst r.1.idx
    let sub := s.get F.PMON_CFG_SUB inst r.1.idx
    let n := s.aclkEvent (inst / 2048) (inst % 2048) ev sub * d
    if 0 < n && s.pmonOn inst ev sub r.1.idx then s.pmonAdd inst r.1.idx n else s) s

/-! ### The clock -/

/-- Running every event of the engines before ACLK `t`, in order of time. -/
def State.runTo (t : Nat) : Nat → State → State
  | 0, s => s
  | n + 1, s =>
    match s.nextTick with
    | none => s
    | some (u, c) => if u < t then State.runTo t n (((s.elapse (u - s.now)).setNow u).coreTick c u) else s

/-- The clock carried forward to an instant, never back: what the engines have begun goes on until then. The state at ACLK `t` is the one
in which ACLK `t` begins. -/
def State.at_ (s : State) (t : Nat) : State :=
  let s := s.runTo t (s.cores.length * (t - s.now))
  (s.elapse (t - s.now)).setNow t

end Sys2Proof.Machine
end

