-- ==== Sys2Proof/Machine/EngineCommands.lean ====
section
/-! DEFINITION. Commands of the matrix and vector engines as their engine begins them, the phase fence, the tie slots, and the drain of a
write buffer (R44, R103, R181, R192, R193, R203). -/

namespace Sys2Proof.Machine

open Sys2Proof

/-- An engine begins its next command when `ok` accepts it: the clock reaches the begin ACLK, with what the engines do on the way, and
`run` begins the command if the engine may still begin it. -/
def State.beginHead (s : State) (c : Nat) (e : Eng) (ok : State → Cmd → Bool) (run : Nat → Nat → QCmd → State → State) : State :=
  match s.ready c e (ok s) with
  | none => s
  | some (_, _, b) =>
    let s := s.at_ b
    match s.ready c e (ok s) with
    | none => s
    | some (p, q, b) => run p b q s

/-- An ME command with opcode `op` begins (R44 to R58); its rows follow as time passes. -/
def meRun (op core : Nat) (hw : MeHw) (s : State) : State :=
  s.beginHead core .me (fun _ c => decide (Cmd.opcode c = op)) (meBegin op core hw)

/-- ME_SWEEP (R45, R50). -/
def execMeSweep (core : Nat) (hw : MeHw) (s : State) : Host.Outcome State Fault Refusal := .next (meRun 1 core hw s)
/-- ME_LOAD (R44). -/
def execMeLoad (core : Nat) (hw : MeHw) (s : State) : Host.Outcome State Fault Refusal := .next (meRun 2 core hw s)
/-- ME_MM (R44, R46). -/
def execMeMm (core : Nat) (hw : MeHw) (s : State) : Host.Outcome State Fault Refusal := .next (meRun 3 core hw s)

/-- A VE command with opcode `op` begins (R177 to R204); its rows follow as time passes. -/
def veRun (op core : Nat) (hw : VeHw) (s : State) : State :=
  s.beginHead core .ve (fun _ c => decide (Cmd.opcode c = op)) (veBegin op core hw)

/-- VE_CVT (R181, R182). -/
def execVeCvt (core : Nat) (hw : VeHw) (s : State) : Host.Outcome State Fault Refusal := .next (veRun 0x20 core hw s)
/-- VE_ADD (R181). -/
def execVeAdd (core : Nat) (hw : VeHw) (s : State) : Host.Outcome State Fault Refusal := .next (veRun 0x21 core hw s)
/-- VE_MUL (R181). -/
def execVeMul (core : Nat) (hw : VeHw) (s : State) : Host.Outcome State Fault Refusal := .next (veRun 0x22 core hw s)
/-- VE_AXPY (R181). -/
def execVeAxpy (core : Nat) (hw : VeHw) (s : State) : Host.Outcome State Fault Refusal := .next (veRun 0x23 core hw s)
/-- VE_MAX (R181, R183). -/
def execVeMax (core : Nat) (hw : VeHw) (s : State) : Host.Outcome State Fault Refusal := .next (veRun 0x24 core hw s)
/-- VE_AFFINE (R181). -/
def execVeAffine (core : Nat) (hw : VeHw) (s : State) : Host.Outcome State Fault Refusal := .next (veRun 0x25 core hw s)
/-- VE_FN (R184). -/
def execVeFn (core : Nat) (hw : VeHw) (s : State) : Host.Outcome State Fault Refusal := .next (veRun 0x26 core hw s)
/-- VE_RSUM (R185). -/
def execVeRsum (core : Nat) (hw : VeHw) (s : State) : Host.Outcome State Fault Refusal := .next (veRun 0x27 core hw s)
/-- VE_RMAX (R183, R185). -/
def execVeRmax (core : Nat) (hw : VeHw) (s : State) : Host.Outcome State Fault Refusal := .next (veRun 0x28 core hw s)
/-- VE_RDOT (R185). -/
def execVeRdot (core : Nat) (hw : VeHw) (s : State) : Host.Outcome State Fault Refusal := .next (veRun 0x29 core hw s)
/-- VE_NORM (R196). -/
def execVeNorm (core : Nat) (hw : VeHw) (s : State) : Host.Outcome State Fault Refusal := .next (veRun 0x2A core hw s)
/-- VE_SMAX (R775). -/
def execVeSmax (core : Nat) (hw : VeHw) (s : State) : Host.Outcome State Fault Refusal := .next (veRun 0x2B core hw s)
/-- VE_DROP (R197). -/
def execVeDrop (core : Nat) (hw : VeHw) (s : State) : Host.Outcome State Fault Refusal := .next (veRun 0x2C core hw s)
/-- VE_ACTB (R181, R184). -/
def execVeActb (core : Nat) (hw : VeHw) (s : State) : Host.Outcome State Fault Refusal := .next (veRun 0x30 core hw s)
/-- VE_NORMB (R198). -/
def execVeNormb (core : Nat) (hw : VeHw) (s : State) : Host.Outcome State Fault Refusal := .next (veRun 0x31 core hw s)
/-- VE_SMAXB (R199). -/
def execVeSmaxb (core : Nat) (hw : VeHw) (s : State) : Host.Outcome State Fault Refusal := .next (veRun 0x32 core hw s)
/-- VE_UNSCALE (R194). -/
def execVeUnscale (core : Nat) (hw : VeHw) (s : State) : Host.Outcome State Fault Refusal := .next (veRun 0x33 core hw s)
/-- VE_SLICE (R182, R85 to R88). -/
def execVeSlice (core : Nat) (hw : VeHw) (s : State) : Host.Outcome State Fault Refusal := .next (veRun 0x38 core hw s)
/-- VE_UNSLICE (R182, R92, R93). -/
def execVeUnslice (core : Nat) (hw : VeHw) (s : State) : Host.Outcome State Fault Refusal := .next (veRun 0x39 core hw s)

/-! ### The phase fence (R192, R193) -/

/-- Commands of a core that have not completed: queued, begun, or with their completion still due. -/
def CoreSt.unfinished (x : CoreSt) : List QCmd :=
  x.me.held ++ x.ve.held ++ x.dm.held ++ x.su.held ++ x.dmCmds.map DmCmd.q ++ (x.meFly.filter (fun f => !f.ended)).map MeFly.q
    ++ (x.veFly.map VeFly.q).toList ++ (x.dueCpl.filter (fun d => decide (d.status < 16))).map DueCpl.q

/-- A command pushed earlier than `ord` by the core's CC has not completed: it waits to be linked, is queued, or has
begun. -/
def State.earlier (s : State) (c ord : Nat) : Bool :=
  (s.core c).unfinished.any (fun k => decide (k.ord < ord))
    || (s.vat (cluInst c)).served.any (fun v => decide (v.core = c) && decide (v.q.ord < ord))

/-- Reserved bits of a VE_PHASE (R192); its loop counts are ignored. -/
def phaseIllegal (c : Cmd) : Bool :=
  decide (Cmd.hdrRsv c ≠ 0) || decide (Cmd.f c 16 31 1 ≠ 0) || decide ((BitVec.extractLsb' (8 * 28) (8 * 36) c).toNat ≠ 0)

/-- VE_PHASE (R192, R193): begins and holds the VE queue. -/
def execVePhase (core : Nat) (s : State) : Host.Outcome State Fault Refusal :=
  .next (s.beginHead core .ve (fun _ c => decide (Cmd.opcode c = 0x3F)) (fun p b q s =>
    let s := s.begin_ core .ve p b
    if phaseIllegal q.cmd then veEndNow s core q 3
    else s.modCore core (fun x => { x with ve := { x.ve with hold := some ⟨q.cmd, q.cell, q.ord, b⟩ } })))

/-- The VE_PHASE that holds the VE queue and whose completion is not yet due. -/
def State.phaseHeld (s : State) (c : Nat) : Option Begun :=
  match (s.core c).ve.hold with
  | some h =>
    if Cmd.opcode h.cmd = 0x3F ∧ !((s.core c).dueCpl.any (fun d => decide (d.status < 16) && decide (d.q.ord = h.ord))) then some h else none
  | none => none

/-- VE_PHASE_COMPLETE (R157, R193): every command pushed earlier has completed, no later than the ACLK of expiry; the fence completes in
the following ACLK, in which the phase changes. -/
def execVePhaseComplete (core : Nat) (s : State) : Host.Outcome State Fault Refusal :=
  match s.phaseHeld core with
  | none => .next s
  | some h =>
    let lim := Cmd.f h.cmd 24 31 0
    let late := decide (0 < lim) && decide (h.at_ + 1024 * lim < s.now)
    if !(s.running core) || late || s.earlier core h.ord then .next s
    else .next (s.completeAt core .ve h.q 0 (max h.at_ s.now + 1))

/-- VE_PHASE_TIMEOUT (R157, R193): the ACLK of expiry, 1,024 × TIMEOUT after the begin, has passed with a command pushed earlier still
open. -/
def execVePhaseTimeout (core : Nat) (s : State) : Host.Outcome State Fault Refusal :=
  match s.phaseHeld core with
  | none => .next s
  | some h =>
    let lim := Cmd.f h.cmd 24 31 0
    let t := h.at_ + 1024 * lim + 1
    let s' := s.at_ t
    if decide (lim = 0) || !(s'.running core) || !(s'.earlier core h.ord) then .next s
    else
      let s' := (s'.flag F.VE_EVT_TIMEOUT core).modCore core (fun x => { x with ve := { x.ve with hold := none, lastEntry := t } })
      .next (s'.complete core .ve h.q 8 0)

/-! ### Tie slots (R203) -/

/-- The effect of a write to a tie slot: with ARMED the count and COMPLETE are cleared, and a slot with USES 0 completes at
once. -/
def State.tieWrite (s : State) (m : Master) (c n : Nat) (v mask : Word) (addr : Nat) : State :=
  let s := s.accWrite m ⟨.VE_TIE, c, n⟩ v mask addr
  if F.VE_TIE_ARMED.of (v &&& mask) = 1 then
    let s := (s.set F.VE_TIE_COUNT c 0 n).set F.VE_TIE_COMPLETE c 0 n
    if s.get F.VE_TIE_USES c n = 0 then
      let s := s.set F.VE_TIE_COMPLETE c 1 n
      if s.get F.VE_TIE_DONE_EN c n = 1 then (s.ctrAdd c (s.get F.VE_TIE_DONE_CTR c n)  1).1 else s
    else s
  else s

/-- VE_TIE_ARM (R203): a write to VE_TIE_n. -/
def execVeTieArm (m : Master) (core slot : Nat) (v : Word) (s : State) : Host.Outcome State Fault Refusal :=
  .next (s.regCmd m .VE core (fun s => s.tieWrite m core (slot % 8) v fullMask (0x4000 * core + 0x880 + 8 * (slot % 8))))

/-! ### The write buffers (R103) -/

/-- WRITE_BUFFER_DRAIN (R103): time passes until the oldest buffered row of the bank has drained, within 2 ACLK. -/
def execWriteBufferDrain (core bank : Nat) (s : State) : Host.Outcome State Fault Refusal :=
  match (s.core core).wbuf.find? (fun w => decide (w.bank = bank)) with
  | none => .next s
  | some w =>
    let s1 := s.at_ (s.now + 1)
    if (s1.core core).wbuf.any (fun v => decide (v.tile = w.tile) && decide (v.row = w.row)) then .next (s1.at_ (s1.now + 1)) else .next s1

end Sys2Proof.Machine
end

