-- ==== Sys2Proof/Machine/ControlCore.lean ====
section
/-! DEFINITION. The control core's command instructions, the vat and its lists, the selectors, IDLE and WAIT, and the abort
of a core's task (05_core_and_command_queues.md). -/

namespace Sys2Proof.Machine

open Sys2Proof

/-! ### Registers and code memory of a control core -/

/-- Integer register `n`; x0 reads 0. -/
def CoreSt.xreg (x : CoreSt) (n : Nat) : Word := if n = 0 then 0 else lookD 0 x.x n
/-- Writing an integer register; x0 discards. -/
def CoreSt.setX (x : CoreSt) (n : Nat) (v : Word) : CoreSt :=
  if n = 0 then x else { x with x := putD natLt 0 x.x n v }

def CoreSt.getCs (x : CoreSt) (n : Nat) : Cmd := lookD 0 x.cs n
def CoreSt.setCs (x : CoreSt) (n : Nat) (v : Cmd) : CoreSt := { x with cs := putD natLt 0 x.cs n v }

/-- A synchronous exception (R137): CC_TRAP, halt, the task aborts with cause CC_TRAP. EBREAK under the debug port halts
only. -/
def State.trap (s : State) (c cause : Nat) : State :=
  if cause = 3 ∧ (s.core c).debug then s.ccState c 5
  else
    let s := s.set F.CC_TRAP_EPC c (s.core c).pc
    let s := (s.set F.CC_TRAP_VALID c 1).set F.CC_TRAP_CAUSE c cause
    s.raiseAbort c 1

/-- The duplicated adders differ (R139): nothing is accessed, the task aborts, the core's record goes to the log. -/
def State.addrMismatch (s : State) (c : Nat) : State :=
  (s.raiseAbort c 2).logHw 2 .CC 0 c (leBytes 8 (s.core c).pc)

/-- The CC can issue: it runs, nothing has aborted the task, and no push is waiting. -/
def State.ccReady (s : State) (c : Nat) : Bool :=
  s.running c && decide (s.get F.CC_STATE_STATE c = 1) && (s.core c).push.isNone

/-- A 16-bit parcel of code memory. -/
def CoreSt.parcel (x : CoreSt) (a : Nat) : Nat := leNat (getBytes x.code a 2)

/-- The instruction at the pc: its bits and length; none when it leaves the code memory (R135). -/
def CoreSt.fetch (x : CoreSt) : Option (Nat × Nat) :=
  if 0x8000 ≤ x.pc ∨ x.pc % 2 = 1 then none
  else
    let p := x.parcel x.pc
    if p % 4 ≠ 3 then some (p, 2)
    else if 0x8000 < x.pc + 4 then none
    else some (p + 2 ^ 16 * x.parcel (x.pc + 2), 4)

/-- A well-formed push instruction (R140): its funct3. -/
def customOp (w : Nat) : Option Nat :=
  if w % 128 ≠ 0x0B then none
  else
    match bitsOf w 14 12 with
    | 0 => if bitsOf w 11 9 = 0 then some 0 else none
    | 1 => if bitsOf w 25 25 = 0 ∧ bitsOf w 11 7 = 0 then some 1 else none
    | 2 => if bitsOf w 31 22 = 0 ∧ bitsOf w 19 15 = 0 then some 2 else none
    | 3 => if bitsOf w 31 15 = 0 then some 3 else none
    | 4 => if bitsOf w 31 20 = 0 then some 4 else none
    | _ => none

/-- The push instruction with this funct3 that stands at the pc of a CC that can issue. -/
def State.customAt (s : State) (c f3 : Nat) : Option Nat :=
  if s.ccReady c then
    match (s.core c).fetch with
    | some (w, 4) => if customOp w = some f3 then some w else none
    | _ => none
  else none

/-- What the fetch of an instruction finds (R136): an uncorrectable error is an instruction access fault. -/
def State.withFetch (s : State) (c : Nat) (hw : CcHw) (f : State → State) : State :=
  match hw with
  | .codeUnc => s.trap c 1
  | .codeCorr => f ((s.flag F.CC_TRAP_ECC_CORR c).corrected .CC 0 c)
  | _ => f s

/-- Retiring an instruction of `len` bytes with a result. -/
def State.retire (s : State) (c len rd : Nat) (v : Word) : State :=
  s.modCore c (fun x => { x.setX rd v with pc := x.pc + len, minstret := x.minstret + 1 })

/-- CMD_LDT (R140): 64 bytes of code memory to a staging register. -/
def execCmdLdt (core : Nat) (hw : CcHw) (s : State) : Host.Outcome State Fault Refusal :=
  match s.customAt core 0 with
  | none => .next s
  | some w =>
    .next (s.withFetch core hw (fun s =>
      let x := s.core core
      let a := (x.xreg (bitsOf w 19 15) + BitVec.ofInt 64 (sext 12 (bitsOf w 31 20))).toNat
      if hw = .addrMismatch then s.addrMismatch core
      else if a % 64 ≠ 0 then s.trap core 4
      else if 0x8000 < a + 64 then s.trap core 5
      else (s.modCore core (fun x => x.setCs (bitsOf w 8 7) (BitVec.ofNat 512 (leNat (getBytes x.code a 64))))).retire core 4 0 0))

/-- CMD_WR (R140): the low word of a sum into a staging register. -/
def execCmdWr (core : Nat) (hw : CcHw) (s : State) : Host.Outcome State Fault Refusal :=
  match s.customAt core 1 with
  | none => .next s
  | some w =>
    .next (s.withFetch core hw (fun s =>
      let x := s.core core
      let v := (x.xreg (bitsOf w 19 15) + x.xreg (bitsOf w 24 20)).setWidth 32
      let n := bitsOf w 31 30
      let sh := 32 * bitsOf w 29 26
      if hw = .addrMismatch then s.addrMismatch core
      else
        let old := x.getCs n
        let new : Cmd := (old &&& ~~~(((0xFFFFFFFF : Cmd)) <<< sh)) ||| ((v.setWidth 512) <<< sh)
        (s.modCore core (fun x => x.setCs n new)).retire core 4 0 0))

/-! ### The vat (R147 to R151) -/

/-- PERT_BP acts on a core in this ACLK (R726). -/
def State.pertBp (s : State) (c : Nat) : Bool :=
  decide (s.get F.PERT_BP_EN 0 = 1) && (decide (s.get F.PERT_BP_CORE 0 = 0x7FF) || decide (s.get F.PERT_BP_CORE 0 = c))
    && decide (s.now % 16 < s.get F.PERT_BP_DUTY 0)

/-- The two conditions that stall a push (R149): no free cell, the core at its quota. -/
def State.vatEmpty (s : State) (c : Nat) : Bool :=
  decide (s.get F.VAT_FREE_FREE (cluInst c) = 0) || (s.pertBp c && decide (s.get F.PERT_BP_VAT 0 = 1))
def State.vatQuota (s : State) (c : Nat) : Bool :=
  let k := cluInst c
  let q := s.get F.VAT_QUOTA_QUOTA k (corein c)
  decide (0 < q) && decide (q ≤ s.get F.VAT_QUOTA_USED k (corein c))

/-- A push that cannot have a cell stalls the CC; it is counted once (R149). -/
def State.noteStall (s : State) (c : Nat) : State :=
  match (s.core c).push with
  | some p =>
    if !p.stalled && (s.vatEmpty c || s.vatQuota c) then
      let k := cluInst c
      let s := s.flagIf (s.vatEmpty c) F.VAT_EVT_EXHAUSTED k
      let s := s.flagIf (s.vatQuota c) F.VAT_EVT_QUOTA k
      let s := (s.bump F.VAT_STALL_CNT_COUNT k).ccState c 2
      s.modCore c (fun x => { x with push := some { p with stalled := true } })
    else s
  | none => s

/-- CMD_PUSH (R140, R148, R149): the push waits for the vat; it stalls the CC when it cannot have a cell. -/
def execCmdPush (core : Nat) (hw : CcHw) (s : State) : Host.Outcome State Fault Refusal :=
  match s.customAt core 2 with
  | none => .next s
  | some w =>
    .next (s.withFetch core hw (fun s =>
      let k := cluInst core
      let s := s.modCore core (fun x => { x with push := some ⟨x.getCs (bitsOf w 21 20), bitsOf w 11 7, false⟩ })
      let v := s.vat k
      (s.setVat k { v with waiting := v.waiting.filter (· ≠ core) ++ [core] }).noteStall core))

/-- CMD_CPL (R140, R146): the oldest completion record, or 0. -/
def execCmdCpl (core : Nat) (hw : CcHw) (s : State) : Host.Outcome State Fault Refusal :=
  match s.customAt core 3 with
  | none => .next s
  | some w =>
    .next (s.withFetch core hw (fun s =>
      let r := (s.core core).cpl.headD 0
      (s.modCore core (fun x => { x with cpl := x.cpl.drop 1 })).retire core 4 (bitsOf w 11 7) r))

/-- CC_QSTAT of an engine (R170). -/
def State.qstat (s : State) (c : Nat) (e : Eng) : Word :=
  let g := (s.core c).eng e
  let isWait (k : Cmd) : Bool := decide (Cmd.opcode k = 0x0F)
  let wait := (match g.headCmd with
    | some (_, q) => isWait q.cmd
    | none => false) || (match g.hold with
    | some h => isWait h.cmd
    | none => false)
  let busy := g.hold.isSome || (g.used && decide (s.now ≤ g.lastEntry)) || (match e with
    | .me => (s.core c).meFly.any (fun f => !f.ended)
    | .ve => (s.core c).veFly.isSome
    | .dm => !(s.core c).dmCmds.isEmpty
    | .su => false)
  let n (p : Nat) : Nat := (g.list p).length
  BitVec.ofNat 64 (b2n g.head.isSome * 2 ^ 63 + b2n wait * 2 ^ 62 + b2n busy * 2 ^ 61 + n 3 * 2 ^ 42 + n 2 * 2 ^ 28
    + n 1 * 2 ^ 14 + n 0)

/-- CMD_QST (R140, R170). -/
def execCmdQst (core : Nat) (hw : CcHw) (s : State) : Host.Outcome State Fault Refusal :=
  match s.customAt core 4 with
  | none => .next s
  | some w =>
    .next (s.withFetch core hw (fun s =>
      let e := Eng.ofCode (((s.core core).xreg (bitsOf w 19 15)).toNat % 4)
      s.retire core 4 (bitsOf w 11 7) (s.qstat core e)))

/-- Cells of a cluster's vat that hold a command, or wait to return to the free list (R147, R151). -/
def State.cellsUsed (s : State) (k : Nat) : List Nat :=
  (List.range 16).flatMap (fun n => ((s.core (coreId k n)).held).map QCmd.cell) ++ (s.vat k).served.map (fun v => v.q.cell)

/-- A cell of the free list (R147, R148): one that holds no command. Which of them comes first is a free value. -/
def State.takeCell (s : State) (k : Nat) : Nat × State :=
  let used := s.cellsUsed k
  let (w, s) := s.fresh
  (((List.range 8192).map (fun i => (w.toNat + i) % 8192)).find? (fun c => !(used.contains c)) |>.getD 0, s)

/-- Serving one push (R148, R149): a cell leaves the free list, rd takes the free cells left, the CC goes on. -/
def State.servePush (s : State) (c : Nat) : State :=
  match (s.core c).push with
  | some p =>
    if s.vatEmpty c || s.vatQuota c then s.noteStall c
    else
      let k := cluInst c
      let free := s.get F.VAT_FREE_FREE k - 1
      let s := s.set F.VAT_FREE_FREE k free
      let s := s.set F.VAT_FREE_LOW_WATER k (min (s.get F.VAT_FREE_LOW_WATER k) free)
      let s := s.set F.VAT_QUOTA_USED k (s.get F.VAT_QUOTA_USED k (corein c) + 1) (corein c)
      let (cell, s) := s.takeCell k
      let q : QCmd := { cmd := p.cmd, cell := cell, ord := (s.core c).ordNext, from_ := s.now + 4 }
      let s := (s.injWrite 3 k q.cell 1).pmon .CC c 0x30 0 1
      let v := s.vat k
      let s := s.setVat k { v with
        waiting := v.waiting.filter (· ≠ c), rr := corein c,
        served := v.served ++ [⟨c, Cmd.engine p.cmd, Cmd.prio p.cmd, q, s.now + 3⟩] }
      let s := s.modCore c (fun x => { x with push := none, ordNext := x.ordNext + 1 })
      (s.ccState c 1).retire c 4 p.rd (BitVec.ofNat 64 free)
  | none =>
    let v := s.vat (cluInst c)
    s.setVat (cluInst c) { v with waiting := v.waiting.filter (· ≠ c) }

/-- The cores of a cluster whose pushes wait, in round-robin order behind the core served last (R148). -/
def State.pushOrder (s : State) (k : Nat) : List Nat :=
  let v := s.vat k
  ((List.range 16).map (fun i => coreId k ((v.rr + 1 + i) % 16))).filter (fun c => v.waiting.contains c)

/-- VAT_PUSH_SERVE (R148): in the next ACLK the vat serves up to four waiting pushes; the others that cannot have a cell
are stalled. -/
def execVatPushServe (cl : Nat) (s : State) : Host.Outcome State Fault Refusal :=
  if !(s.clusterOn cl) || (s.vat cl).rebuild || (s.vat cl).waiting.isEmpty then .next s
  else
    let s := s.at_ (s.now + 1)
    let order := s.pushOrder cl
    let can := order.filter (fun c => !(s.vatEmpty c || s.vatQuota c))
    let s := (can.take 4).foldl State.servePush s
    .next (((order.filter (fun c => !(can.contains c))).foldl State.noteStall s))

/-- An uncorrectable link error (R159): the tasks of every core of the cluster abort with cause VAT_LINK, and the vat must
rebuild its free list. -/
def State.vatLinkError (s : State) (k : Nat) : State :=
  let s := (s.flag F.VAT_EVT_LINK_ECC k).logHw 2 .VAT 4 k
  let s := (List.range 16).foldl (fun s n => s.raiseAbort (coreId k n) 7) s
  s.setVat k { s.vat k with rebuild := true, served := [] }

/-- CMD_LINK (R148): the oldest served push joins the tail of its list. -/
def execCmdLink (cl : Nat) (hw : VatHw) (s : State) : Host.Outcome State Fault Refusal :=
  let v := s.vat cl
  match v.served with
  | [] => .next s
  | p :: rest =>
    if !(s.clusterOn cl) then .next s
    else
      let s := s.at_ p.due
      match hw with
      | .link => .next (s.vatLinkError cl)
      | _ =>
        let s := if hw = .corr then (s.flag F.VAT_EVT_ECC_CORR cl).corrected .VAT 2 cl else s
        let e := Eng.ofCode p.eng
        .next ((s.setVat cl { v with served := rest }).modCore p.core (fun x =>
          let g := x.eng e
          x.setEng e (g.setList p.prio (g.list p.prio ++ [p.q]))))

/-- VAT_FREE_LIST_REBUILD (R159): once every task of the cluster has been discarded, all 8,192 cells are free again. -/
def execVatFreeListRebuild (cl : Nat) (s : State) : Host.Outcome State Fault Refusal :=
  let busy := (List.range 16).any (fun n => !((s.core (coreId cl n)).unfinished).isEmpty)
  if !(s.vat cl).rebuild || busy || !(s.clusterOn cl) then .next s
  else
    let s := s.set F.VAT_FREE_FREE cl 8192
    let s := (List.range 16).foldl (fun s n => (s.set F.VAT_QUOTA_USED cl 0 n).modCore (coreId cl n) (fun x => { x with dueCpl := [] })) s
    .next (s.setVat cl { s.vat cl with rebuild := false })

/-! ### The selectors (R152, R193) -/

/-- A VE_PHASE that has been pushed and has not completed: the smallest place in the push order (R193). -/
def CoreSt.fenceOrd (x : CoreSt) : Option Nat :=
  let q := (x.ve.all.filter (fun k => decide (Cmd.opcode k.cmd = 0x3F))).map QCmd.ord
  let h := match x.ve.hold with
    | some b => if Cmd.opcode b.cmd = 0x3F then [b.ord] else []
    | none => []
  match h ++ q with
  | [] => none
  | a :: l => some (l.foldl min a)

/-- A command that the selector of engine `e` may take: not pushed after a VE_PHASE that has not completed, and a VE_PHASE
only when it is the oldest in the VE's lists (R193). -/
def CoreSt.eligible (x : CoreSt) (e : Eng) (q : QCmd) : Bool :=
  (match x.fenceOrd with
    | some o => decide (q.ord ≤ o)
    | none => true)
  && (decide (e ≠ .ve) || decide (Cmd.opcode q.cmd ≠ 0x3F) || x.ve.all.all (fun k => decide (q.ord ≤ k.ord)))

/-- The highest-priority list with a command to offer (R152). -/
def CoreSt.choice (x : CoreSt) (e : Eng) : Option (Nat × QCmd) :=
  (List.range 4).findSome? (fun p =>
    match ((x.eng e).list p).head? with
    | some q => if x.eligible e q then some (p, q) else none
    | none => none)

/-- The head is a WAIT, which stays head until it begins (R152). -/
def EngSt.headIsWait (g : EngSt) : Bool :=
  match g.headCmd with
  | some (_, q) => decide (Cmd.opcode q.cmd = 0x0F)
  | none => false

/-- PERT_BP shows the selector of an engine four empty lists (R726). -/
def State.bpEngine (s : State) (c : Nat) (e : Eng) : Bool := s.pertBp c && s.bit F.PERT_BP_ENG 0 e.code

/-- HEAD_SELECT (R152): the first command of the highest-priority list that is not empty becomes head; a head that is no
WAIT is displaced by a higher priority. An uncorrectable cell ends its command unexecuted with ECC (R159). -/
def execHeadSelect (core : Nat) (e : Eng) (hw : VatHw) (s : State) : Host.Outcome State Fault Refusal :=
  let x := s.core core
  let g := x.eng e
  if !(s.running core) || s.bpEngine core e then .next s
  else
    match x.choice e with
    | none => .next s
    | some (p, q) =>
      let take := match g.head with
        | none => true
        | some p0 => !g.headIsWait && decide (p < p0)
      if !take then .next s
      else
        let k := cluInst core
        let o := s.injAt 3 k [(q.cell, 1)]
        let hw := if hw = .ok ∨ hw = .corr then (match o with
          | some true => .cell
          | some false => .corr
          | none => hw) else hw
        .next (s.injStep o (fun s => match hw with
          | .link => s.vatLinkError k
          | .cell =>
            let s := ((s.flag F.VAT_EVT_CELL_ECC k).logHw 2 .VAT 3 k).modCore core (fun x =>
              x.setEng e { g.setList p ((g.list p).drop 1) with head := none })
            match e with
            | .me => ((s.flag F.ME_EVT_ECC core).tieCount core (meTieRows q.cmd)).complete core e q 6 0
            | .dm => s.dmEnd core q 6
            | _ => s.complete core e q 6 0
          | _ =>
            let s := if hw = .corr then (s.flag F.VAT_EVT_ECC_CORR k).corrected .VAT 2 k else s
            let since := max s.now (max q.from_ (if g.used then g.lastBegin + 1 else 0))
            s.modCore core (fun x => x.setEng e { g with head := some p, headSince := since })))

/-! ### IDLE and opcodes no engine defines (R143, R154) -/

/-- Opcodes that an engine's chapter defines (R44, R113, R143, R181, R233, R358). -/
def engDefined (e : Eng) (op : Nat) : Bool :=
  decide (op = 0x0F) || (match e with
    | .me => [1, 2, 3].contains op
    | .ve => (decide (0x20 ≤ op) && decide (op ≤ 0x2C)) || [0x30, 0x31, 0x32, 0x33, 0x38, 0x39, 0x3F].contains op
    | .dm => decide (0x10 ≤ op) && decide (op ≤ 0x1D)
    | .su => decide (0x40 ≤ op) && decide (op ≤ 0x43))

/-- Reserved bits of an IDLE (R154). -/
def idleBad (c : Cmd) : Bool :=
  decide (Cmd.opcode c ≠ 0) || decide (Cmd.hdrRsv c ≠ 0) || decide ((BitVec.extractLsb' 128 384 c).toNat ≠ 0)

/-- IDLE (R154): the head with opcode 0x00 occupies its engine; a head whose opcode the engine does not define completes
with ILLEGAL as it begins (R143), for the data mover in queue order (R239). With empty lists nothing changes. -/
def execIdle (core : Nat) (e : Eng) (s : State) : Host.Outcome State Fault Refusal :=
  .next (s.beginHead core e (fun _ c => !(engDefined e (Cmd.opcode c))) (fun p b q s =>
    let left := Cmd.iters q.cmd - ((s.core core).eng e).firstIter
    let s := s.begin_ core e p b
    if idleBad q.cmd then
      (if e = .dm ∧ Cmd.opcode q.cmd ≠ 0 then s.dmEnd core q 3 else (s.evtIllegal core e).endNow core e q 3)
    else (s.setEntry core e (b + (left - 1))).completeAt core e q 0 (b + (left - 1))))

/-! ### WAIT (R155 to R157) -/

/-- A WAIT that completes with ILLEGAL as it begins (R155). -/
def waitIllegal (c : Cmd) : Bool :=
  decide (Cmd.hdrRsv c ≠ 0) || decide (Cmd.f c 16 7 5 ≠ 0) || decide (Cmd.f c 17 6 2 ≠ 0)
    || decide ((BitVec.extractLsb' 192 320 c).toNat ≠ 0) || decide (Cmd.f c 17 1 0 = 3)
    || (decide (Cmd.f c 17 7 7 = 1) && decide (Cmd.f c 17 1 0 ≠ 0))

def waitCtr (c : Cmd) : Nat := Cmd.f c 16 4 0
def waitValue (c : Cmd) : Nat := Cmd.f c 18 15 0
def waitConsume (c : Cmd) : Bool := Cmd.f c 17 7 7 == 1
def waitLimit (c : Cmd) : Nat := Cmd.f c 20 31 0

/-- The condition of a WAIT on the counter's value (R155). -/
def waitCond (c : Cmd) (v : Nat) : Bool :=
  match Cmd.f c 17 1 0 with
  | 0 => decide (waitValue c ≤ v)
  | 1 => decide (v = waitValue c)
  | _ => decide (v ≠ waitValue c)

/-- The value a WAIT tests in this ACLK: the counter before any subtraction of step 3 (R156, R356). -/
def State.waitValueNow (s : State) (c ctr : Nat) : Nat :=
  s.ctr c ctr + ((s.core c).subs.filter (fun u => decide (u.1 = s.now) && decide (u.2.1 = ctr))).foldl (fun a u => a + u.2.2) 0

/-- The WAIT that holds an engine's queue. -/
def State.waitHeld (s : State) (c : Nat) (e : Eng) : Option Begun :=
  match ((s.core c).eng e).hold with
  | some h => if Cmd.opcode h.cmd = 0x0F then some h else none
  | none => none

/-- WAIT (R155): begins and holds its queue. -/
def execWait (core : Nat) (e : Eng) (s : State) : Host.Outcome State Fault Refusal :=
  .next (s.beginHead core e (fun _ c => decide (Cmd.opcode c = 0x0F)) (fun p b q s =>
    let s := s.begin_ core e p b
    if waitIllegal q.cmd then (s.evtIllegal core e).endNow core e q 3
    else
      let ctr := waitCtr q.cmd
      s.modCore core (fun x => x.setEng e { x.eng e with hold := some ⟨q.cmd, q.cell, q.ord, b⟩ } |> fun x =>
        { x with lateAt := if x.lateAt.any (fun l => decide (l.1 = ctr)) then x.lateAt else x.lateAt ++ [(ctr, b)] })))

/-- Consuming fills of a stream window in order (R292): `n` units take the oldest fills not yet consumed; answers the bytes
they hold. -/
def consumeFills : Nat → List Fill → List Fill × Nat
  | 0, l => (l, 0)
  | _, [] => ([], 0)
  | n + 1, f :: fs =>
    if f.consumed then
      let (l, b) := consumeFills (n + 1) fs
      (f :: l, b)
    else
      let (l, b) := consumeFills n fs
      ({ f with consumed := true } :: l, b + f.bytes)

/-- The enabled stream windows bound to a counter. -/
def State.streamWins (s : State) (c ctr : Nat) : List Nat :=
  (List.range 4).filter (fun w => decide (s.get F.DM_STRM_CFG_EN c w = 1) && decide (s.get F.DM_STRM_CFG_CTR c w = ctr))

/-- The ACLK in which WAITs have stood so far are added to LATE of the windows bound to their counters (R292). -/
def State.lateSettle (s : State) (c : Nat) : State :=
  let ls := (s.core c).lateAt
  let s := ls.foldl (fun s l => (s.streamWins c l.1).foldl (fun s w => s.bump F.DM_STRM_LATE_ACLK c (s.now - l.2) w) s) s
  s.modCore c (fun x => { x with lateAt := ls.map (fun l => (l.1, max l.2 s.now)) })

/-- The last WAIT that stood on a counter has ended in ACLK `t`: the ACLK in which one stood are added to LATE of the windows bound to the
counter (R292). -/
def State.lateEnd (s : State) (c ctr t : Nat) : State :=
  if 0 < (s.core c).waitsOn ctr t then s
  else
    match (s.core c).lateAt.find? (fun l => decide (l.1 = ctr)) with
    | none => s
    | some l =>
      let s := (s.streamWins c ctr).foldl (fun s w => s.bump F.DM_STRM_LATE_ACLK c (t - l.2) w) s
      s.modCore c (fun x => { x with lateAt := x.lateAt.filter (fun l => decide (l.1 ≠ ctr)) })

/-- With `n` units subtracted from a counter, `n` fills of each window bound to it are consumed (R292). -/
def State.consume (s : State) (c ctr n : Nat) : State :=
  (s.streamWins c ctr).foldl (fun s w =>
    let (l, b) := consumeFills n (lookD [] (s.core c).fills w)
    (s.bump F.DM_STRM_CONSUMED_BYTES c b w).modCore c (fun x => { x with fills := putD natLt [] x.fills w l })) s

/-- The WAIT leaves its engine; the next head may begin from ACLK `t` on. -/
def State.waitEnd (s : State) (c : Nat) (e : Eng) (t : Nat) : State :=
  s.modCore c (fun x => x.setEng e { x.eng e with hold := none, lastEntry := t - 1 })

/-- A WAIT of an engine that comes before `e` in the order ME, VE, DM, SU would release with CONSUME on the same counter in this ACLK: it
subtracts first (R156). -/
def State.waitsBefore (s : State) (c : Nat) (e : Eng) (ctr : Nat) : Bool :=
  [Eng.me, .ve, .dm, .su].any (fun d => decide (d.code < e.code) && (match s.waitHeld c d with
    | some w => decide (w.at_ ≤ s.now) && decide (waitCtr w.cmd = ctr) && waitConsume w.cmd && waitCond w.cmd (s.waitValueNow c ctr)
        && decide (waitValue w.cmd ≤ s.ctr c ctr)
    | none => false))

/-- WAIT_RELEASE (R155, R156): the condition holds in an ACLK h no later than the expiry; with CONSUME the value is subtracted
in that ACLK, when the counter still covers it. The WAIT completes in ACLK h + 3. -/
def execWaitRelease (core : Nat) (e : Eng) (s : State) : Host.Outcome State Fault Refusal :=
  match s.waitHeld core e with
  | none => .next s
  | some w =>
    let s0 := s
    let s := s.at_ (max s.now w.at_)
    let h := s.now
    let ctr := waitCtr w.cmd
    let lim := waitLimit w.cmd
    let late := decide (0 < lim) && decide (w.at_ + 1024 * lim < h)
    let n := if waitConsume w.cmd then waitValue w.cmd else 0
    if !(s.running core) || late || !(waitCond w.cmd (s.waitValueNow core ctr)) || decide (s.ctr core ctr < n)
      || (waitConsume w.cmd && s.waitsBefore core e ctr) then .next s0
    else
      let s := if waitConsume w.cmd then
          (s.ctrSub core ctr n (Cmd.id w.cmd)).1.modCore core (fun x => { x with
            subs := x.subs.filter (fun u => decide (u.1 = h)) ++ [(h, ctr, n)] })
        else s
      let s := (s.consume core ctr n).waitEnd core e (h + 3)
      .next ((s.lateEnd core ctr h).completeAt core e w.q 0 (h + 3))

/-- WAIT_TIMEOUT (R157): the ACLK of expiry has passed without the condition holding. -/
def execWaitTimeout (core : Nat) (e : Eng) (s : State) : Host.Outcome State Fault Refusal :=
  match s.waitHeld core e with
  | none => .next s
  | some w =>
    let lim := waitLimit w.cmd
    let t := w.at_ + 1024 * lim + 1
    let s' := s.at_ t
    if decide (lim = 0) || !(s'.running core) || (waitCond w.cmd (s'.waitValueNow core (waitCtr w.cmd)) && decide (s.now < t)) then .next s
    else .next (((s'.waitEnd core e t).lateEnd core (waitCtr w.cmd) t).complete core e w.q 8 0)

/-! ### The abort of a core's task (R158) -/

/-- The engines after the abort: every queued command is discarded, a begun WAIT or fence ends without completing. -/
def EngSt.discard (g : EngSt) : EngSt := { g with q0 := [], q1 := [], q2 := [], q3 := [], head := none, hold := none, resume := none }

/-- Served pushes of a core that are not linked yet. -/
def State.unlinked (s : State) (c : Nat) : List QCmd :=
  ((s.vat (cluInst c)).served.filter (fun v => decide (v.core = c))).map (fun v => v.q)

/-- Vat cells a core's commands hold. -/
def State.cellsOf (s : State) (c : Nat) : Nat := (s.core c).held.length + (s.unlinked c).length

/-- CORE_TASK_ABORT (R158): an abort raised on the core reaches its engines; an optimizer step at the MSUs is noted (R289). Queued commands are discarded with no record
and no increment, their cells return; the data mover issues nothing further and forgets commands with nothing
outstanding; the SU sends no further word. -/
def execCoreTaskAbort (core cause : Nat) (s : State) : Host.Outcome State Fault Refusal :=
  match (s.core core).abort with
  | none => .next s
  | some k =>
    if k ≠ cause then .next s
    else
      let s := ((s.core core).dmCmds.filter (fun d => decide (Cmd.opcode d.q.cmd = 0x1A) && decide (0 < d.open_))).foldl (fun s d =>
        s.logNotice .DM core 1 (leBytes 8 (Cmd.f d.q.cmd 16 63 0) ++ leBytes 1 (Cmd.f d.q.cmd 60 31 30))) s
      let x := s.core core
      let gone := x.me.held ++ x.ve.held ++ x.dm.held ++ x.su.held ++ (x.dmCmds.filter (fun d => decide (d.open_ = 0))).map DmCmd.q
        ++ s.unlinked core
      let s := s.cellsBack core gone
      let s := s.lateSettle core
      let kc := cluInst core
      let v := s.vat kc
      let s := s.setVat kc { v with
        waiting := v.waiting.filter (· ≠ core), served := v.served.filter (fun p => decide (p.core ≠ core)) }
      .next (s.modCore core (fun x => { x with
        me := x.me.discard, ve := x.ve.discard, dm := x.dm.discard, su := x.su.discard, push := none, staged := [],
        lateAt := [], store := none,
        dmCmds := (x.dmCmds.filter (fun d => decide (0 < d.open_))).map (fun d => { d with reqs := [], issuing := false }) }))

end Sys2Proof.Machine
end

