-- ==== Sys2Proof/Machine/Net.lean ====
section
/-! DEFINITION. Addresses and the data mesh's ground plan (R258 to R261, R310 to R321, R410, R750, R751): what a global
address names, where an HBM block lies, node numbers, routes and edge stations, and packets entering and leaving the mesh. -/

namespace Sys2Proof.Machine

open Sys2Proof

/-! ### The end of HBM -/

/-- The end of HBM, and of the part that programs may address (R260, R750). -/
def hbmEnd : Nat := 0x006000000000
def hbmProg : Nat := 0x005E00000000

/-! ### What an address names (R410, R750, R751) -/

/-- The module's own ID, and whether a module ID names this module. -/
def State.modId (s : State) : Nat := s.get F.EVL_MODID_MOD_ID 36
def State.ownMod (s : State) (m : Nat) : Bool :=
  decide (m = 0xFFFF) || decide (m = s.modId)
    || (decide (s.get F.HUBC_ALIAS_ALIAS_EN 0 = 1) && decide (m = s.get F.HUBC_ALIAS_ALIAS_ID 0))

/-- Module ID and local address of a global address. -/
def gMod (a : Nat) : Nat := a / 2 ^ 48 % 2 ^ 16
def gLoc (a : Nat) : Nat := a % 2 ^ 48

/-- What a local address names. -/
inductive Far where
  | hbm
  | ctx
  | core (c : Nat)
  | group (die g : Nat)
  | regs
  | host
  | hole
  deriving DecidableEq, Repr

/-- The local address map (R750, R751). A fenced core's window is no hole; a fused cluster's is. -/
def State.far (s : State) (a : Nat) : Far :=
  if a < hbmProg then .hbm
  else if a < hbmEnd then .ctx
  else if 0x100000000000 ≤ a ∧ a < 0x100080000000 then
    let c := a / 0x100000 % 2048
    if clusterOf c < 48 then (if s.fusedCl.contains (cluInst c) then .hole else .core c)
    else .group (dieOf c) (c % 1024 - 768)
  else if 0x200000000000 ≤ a ∧ a < 0x200040000000 then .regs
  else if 0x300000000000 ≤ a ∧ a < 0x301000000000 then .host
  else .hole

/-- Offset of an address in its core window. -/
def winOff (a : Nat) : Nat := a % 0x100000

/-! ### Staging windows (R534 to R536) -/

/-- Bytes of window `w`, and whether an address lies in one of its regions. -/
def State.specSize (s : State) (w : Nat) : Nat := 256 * (s.get F.HUBC_SPEC_CFG_SIZE_M1 0 w + 1)
def State.specIn (s : State) (f : Field) (w l : Nat) : Bool :=
  decide (s.get F.HUBC_SPEC_CFG_VALID 0 w = 1) && decide (s.get f 0 w ≤ l) && decide (l < s.get f 0 w + s.specSize w)

/-- CUR of every window, as a command latches it when it begins (R535). -/
def State.specCurs (s : State) : Nat := (List.range 16).foldl (fun n w => n + s.get F.HUBC_SPEC_CFG_CUR 0 w * 2 ^ w) 0

/-- A request into a window's R1 range, which is not addressable. -/
def State.specR1 (s : State) (a : Nat) : Bool :=
  s.ownMod (gMod a) && (List.range 16).any (fun w => s.specIn F.HUBC_SPEC_R1_BASE w (gLoc a) && !(s.specIn F.HUBC_SPEC_R0_BASE w (gLoc a)))

/-- The address a request into V goes to: the hidden region for a core of the task that holds the window, the visible region for
everyone else. -/
def State.specAddr (s : State) (slot curs a : Nat) : Nat :=
  if !(s.ownMod (gMod a)) then a
  else
    match (List.range 16).find? (fun w => s.specIn F.HUBC_SPEC_R0_BASE w (gLoc a)) with
    | none => a
    | some w =>
      let mine := decide (s.get F.HUBC_SPEC_CFG_HELD 0 w = 1) && decide (s.get F.HUBC_SPEC_CFG_OWNER 0 w = slot)
      let r1 := if mine then !(bitOf curs w) else bitOf curs w
      if r1 then a - s.get F.HUBC_SPEC_R0_BASE 0 w + s.get F.HUBC_SPEC_R1_BASE 0 w else a

/-- The speculative task of a core. -/
def State.specTask (s : State) (c : Nat) : Option TaskSt :=
  match find? s.tasks (s.core c).slot with
  | some t => if bitOf t.desc.flags 0 then some t else none
  | none => none

/-- A range that a speculative task may not write: outside its own cores' windows and outside V of its windows (R536). -/
def State.specOut (s : State) (t : TaskSt) (a : Int) (n : Nat) : Bool :=
  if a < 0 ∨ (2 : Int) ^ 64 ≤ a then true
  else
    let g := a.toNat
    let l := gLoc g
    !(s.ownMod (gMod g)) || !((match s.far l with
      | .core c => t.cores.any (fun x => decide (x.2 = c))
      | _ => false)
      || (List.range 16).any (fun w => bitOf t.desc.specWin w && s.specIn F.HUBC_SPEC_R0_BASE w l
          && decide (l + n ≤ s.get F.HUBC_SPEC_R0_BASE 0 w + s.specSize w)))

/-! ### Nodes (R312) -/

/-- Keys of station and delivery queues: node of a die, and the hub. -/
def nodeKey (die node : Nat) : Nat := die * 256 + node
def hubKey : Nat := 1000

/-- Virtual channel of a packet type (R315). -/
def vcOf : Nat → Nat
  | 0 => 0 | 1 => 0 | 2 => 0 | 7 => 2 | 8 => 2 | _ => 1

/-- Edge station that serves an address from a router at a row and column of a die (R320): a memory port of its own row, a
die bridge port or a hub bridge port of its own column; a core window of the die is its cluster. -/
def State.dnodeFor (s : State) (die row col m a : Nat) : Nat :=
  if !(s.ownMod m) then 0x40 + col
  else
    match s.far a with
    | .core c => if dieOf c = die then clusterOf c else 0x50 + col
    | .group d _ => if d = die then row * 8 + col else 0x50 + col
    | .hbm | .ctx =>
      let st := (s.hbmPlace a).stack
      if st / 4 ≠ die then 0x50 + col else if st % 4 < 2 then 0x30 + row else 0x36 + row
    | _ => 0x40 + col

/-- Row and column of a station: the router it stands at. -/
def nodeRow (node : Nat) : Nat :=
  if node < 48 then node / 8 else if node < 0x36 then node - 0x30 else if node < 0x3C then node - 0x36
  else if node < 0x48 then 5 else 0
def nodeCol (node : Nat) : Nat :=
  if node < 48 then node % 8 else if node < 0x36 then 0 else if node < 0x3C then 7
  else if node < 0x48 then node - 0x40 else node - 0x50

/-- The port by which a station stands at its router (1 N, 2 E, 3 S, 4 W). -/
def stationPort (node : Nat) : Nat :=
  if node < 48 then 0 else if node < 0x36 then 4 else if node < 0x3C then 2 else if node < 0x48 then 3 else 1

/-- Default route entry of the router at (row, col) for a node: along the row, then along the column (R318). -/
def defaultRoute (row col node : Nat) : Nat :=
  if 0x3C ≤ node ∧ node < 0x40 ∨ 0x48 ≤ node ∧ node < 0x50 ∨ 0x58 ≤ node then 7
  else
    let r := nodeRow node
    let c := nodeCol node
    if c < col then 4 else if col < c then 2 else if r < row then 1 else if row < r then 3 else stationPort node

/-- The default word of MESH_ROUTE_q of a router (R348). -/
def defaultRouteWord (cl q : Nat) : Nat :=
  (List.range 16).foldl (fun w j => w + defaultRoute (cl / 8) (cl % 8) (16 * q + j) * 2 ^ (4 * j)) 0

/-- A route entry; the register file keeps a route word as its difference (exclusive or) from the default. -/
def State.routeWord (s : State) (die cl q : Nat) : Nat :=
  Nat.xor (s.get F.MESH_ROUTE_ENTRIES (48 * die + cl) q) (defaultRouteWord cl q)
def State.route (s : State) (die cl node : Nat) : Nat := s.routeWord die cl (node / 16) / 2 ^ (4 * (node % 16)) % 8
def State.setRoute (s : State) (die cl node v : Nat) : State :=
  let q := node / 16
  let w := s.routeWord die cl q
  let w' := w - w / 2 ^ (4 * (node % 16)) % 16 * 2 ^ (4 * (node % 16)) + v % 8 * 2 ^ (4 * (node % 16))
  s.set F.MESH_ROUTE_ENTRIES (48 * die + cl) (Nat.xor w' (defaultRouteWord cl q)) q

/-! ### Packets entering and leaving the mesh -/

/-- A packet enters the mesh at a station or local port. -/
def State.inject (s : State) (key : Nat) (p : Packet) : State :=
  { s with stq := putD natLt [] s.stq key (lookD [] s.stq key ++ [p]) }

/-- A packet is delivered at a node, or to the hub. -/
def State.deliver (s : State) (key : Nat) (p : Packet) : State :=
  { s with deliv := putD natLt [] s.deliv key (lookD [] s.deliv key ++ [p]) }

/-- Removing the first element that satisfies a condition. -/
def dropFirst {A : Type} (f : A → Bool) : List A → List A
  | [] => []
  | a :: l => if f a then l else a :: dropFirst f l

/-- The oldest delivered packet of a virtual channel, when its type is the one asked for, taken from its queue (R315,
R317). -/
def State.takeDeliv (s : State) (key vc : Nat) (ok : Nat → Bool) : Option (Packet × State) :=
  let l := lookD [] s.deliv key
  match l.find? (fun p => decide (p.vc = vc)) with
  | some p =>
    if ok p.typ then
      some (p, { s with deliv := putD natLt [] s.deliv key (dropFirst (fun q => decide (q.vc = vc)) l) })
    else none
  | none => none

/-- Sending a request from a cluster's local port (R314, R320). -/
def State.sendFrom (s : State) (die cl : Nat) (p : Packet) : State :=
  let d := s.dnodeFor die (cl / 8) (cl % 8) p.mod p.addr
  s.inject (nodeKey die cl) { p with vc := vcOf p.typ, dnode := d, snode := cl, sdie := die }

/-- DNODE of an answer that leaves node `node` of `die` for node `snode` of `sdie` (R320). -/
def answerNode (die node sdie snode : Nat) : Nat := if sdie = die then snode else 0x50 + nodeCol node

/-- An answer to a request leaves the node that served it (R315). Answers of the hub enter the die they go to. -/
def State.answer (s : State) (die node : Nat) (p : Packet) (typ status reason : Nat) (data : List Byte) : State :=
  s.inject (nodeKey die node)
    { p with typ := typ, vc := 1, dnode := answerNode die node p.sdie p.snode, status := status, reason := reason,
             payload := data }

/-- Refusal reasons (R257). -/
def rUNMAPPED : Nat := 1
def rUNROUTABLE : Nat := 2
def rRETIRED : Nat := 3
def rBANK_STATE : Nat := 4
def rFENCED : Nat := 5
def rBANK_OP : Nat := 6

end Sys2Proof.Machine
end

