-- ==== Sys2Proof/Machine/DmCore.lean ====
section
/-! DEFINITION. The data mover's beginning of a command, addresses of the own window, and conversion between formats (R235, R239). -/

namespace Sys2Proof.Machine

open Sys2Proof

/-- The data mover begins its head: a new begun command, with the mapping of the staging windows that stands now (R535). -/
def State.dmBegin (s : State) (c p b : Nat) (q : QCmd) (d : DmCmd → DmCmd) : State × Nat :=
  let s := s.begin_ c .dm p b
  s.dmPush c (d { id := 0, q := q, at_ := b, spec := s.specCurs })

/-- A data-mover command that ends as it begins: reported in queue order. -/
def State.dmEndNow (s : State) (c p b : Nat) (q : QCmd) (st : Nat) : State :=
  (s.dmBegin c p b q (fun d => { d with status := st, issuing := false })).1.dmSettle c

/-! ### Ranges -/

/-- A global address in the core's own window. -/
def State.isOwn (s : State) (c : Nat) (a : Int) : Bool :=
  decide (0 ≤ a) && decide (a < 2 ^ 64) && s.ownMod (gMod a.toNat) && decide (s.far (gLoc a.toNat) = .core c)

/-- Offset of a global address in its core window, as a signed number for the range checks. -/
def ownOff (a : Int) : Int := ((winOff (gLoc a.toNat) : Nat) : Int)

/-! ### Conversions (R235) -/

/-- Pairs a data-mover command may convert between (R235). -/
def dmPair (a b : Fmt) : Bool :=
  decide (a = b)
    || (decide (a = .fp32) && (decide (b = .bf16) || decide (b = .fp16) || decide (b = .e4m3) || decide (b = .e5m2)))
    || (decide (a = .int32) && decide (b = .int8))
    || (decide (b = .fp32) && (decide (a = .bf16) || decide (a = .fp16) || decide (a = .e4m3) || decide (a = .e5m2)))

/-- Bytes converted element by element, with the flags raised. `e0` is the element index of the first (R195). -/
def State.dmConvert (s : State) (c cmdId : Nat) (a b : Fmt) (sr sat : Bool) (e0 : Nat) (bytes : List Byte) :
    List Byte × NumFlags :=
  if a = b then (bytes, {})
  else
    let res := (elems a.bytes bytes (bytes.length / a.bytes)).zipIdx.map (fun (x, k) =>
      let v := a.value x
      (v, if sr && decide (b = Fmt.bf16) then stochBf16 x (s.stochWord c cmdId ((e0 + k) % 2 ^ 32)) else b.convert sat v))
    (res.flatMap (fun r => leBytes b.bytes r.2.code), res.foldl (fun g r => g.join (convFlags r.1 r.2)) {})

/-- The conversion flags of the data mover (R254). -/
def State.dmFlags (s : State) (c : Nat) (g : NumFlags) : State :=
  ((s.flagIf g.nan F.DM_EVT_NAN c).flagIf g.inf F.DM_EVT_INF c).flagIf g.sat F.DM_EVT_SAT c

/-- Fields of the layout of R234. -/
def cpSrc (c : Cmd) (n : Nat) : Int := (Cmd.f c 16 63 0 : Int) + 16 * Cmd.disp c n (fun l => Cmd.sf c (40 + 6 * l) 23 0)
def cpDst (c : Cmd) (n : Nat) : Int := (Cmd.f c 24 63 0 : Int) + 16 * Cmd.disp c n (fun l => Cmd.sf c (43 + 6 * l) 23 0)
def cpBop (c : Cmd) : Nat := Cmd.f c 32 28 26
def cpSat (c : Cmd) : Bool := Cmd.f c 32 25 25 == 1
def cpSr (c : Cmd) : Bool := Cmd.f c 32 24 24 == 1
def cpFmtD (c : Cmd) : Fmt := Fmt.ofCode (Cmd.f c 32 23 20)
def cpFmtS (c : Cmd) : Fmt := Fmt.ofCode (Cmd.f c 32 19 16)
def cpLen (c : Cmd) : Nat := Cmd.f c 32 15 0 + 1
def cpImm (c : Cmd) : Nat := Cmd.f c 36 31 0
def cpRsv (c : Cmd) : Bool := decide (Cmd.f c 32 31 29 = 0)

/-- Pieces of a range that do not cross a 256-byte boundary: offset from its start and length (R238). -/
def cut256 (a : Nat) : Nat → Nat → Nat → List (Nat × Nat)
  | 0, _, _ => []
  | fuel + 1, off, n =>
    if n = 0 then []
    else
      let k := min n (256 - (a + off) % 256)
      (off, k) :: cut256 a fuel (off + k) (n - k)

end Sys2Proof.Machine
end

