-- ==== Sys2Proof/Machine/Scratchpad.lean ====
section
/-! DEFINITION. Scratchpad banks and bank units (R213 to R232): requests from the mesh and from the own data mover waiting at
a bank, arbitration and ageing, the bank-unit operations, power states, and landing windows (R336). -/

namespace Sys2Proof.Machine

open Sys2Proof

/-! ### Requests reach the banks -/

/-- The accesses of one request: one per 64-byte row, or per 32-byte G8 block for G8ACC (R236). -/
def splitAcc (a : BankAcc) : Nat → List BankAcc
  | 0 => []
  | fuel + 1 =>
    if a.len = 0 then []
    else if a.bop = 5 ∧ !a.isRead then
      { a with len := 128, data := a.data.take 32 } ::
        splitAcc { a with off := a.off + 128, len := a.len - 128, data := a.data.drop 32, imm := a.imm / 256 } fuel
    else
      let n := min a.len (64 - a.off % 64)
      { a with len := n, data := a.data.take n } ::
        splitAcc { a with off := a.off + n, len := a.len - n, data := a.data.drop n } fuel

/-- A request joins its bank's waiting accesses. -/
def State.bankPush (s : State) (c : Nat) (a : BankAcc) : State :=
  let g := (s.core c).grpNext
  let l := splitAcc { a with grp := g } 5
  (s.modCore c (fun x => { x with grpNext := g + 1 })).modBank c (bankOf a.off) (fun k => { k with waiting := k.waiting ++ l })

/-! ### Answers -/

/-- An answer for a multicast reaches the record of a router (R326); with the last one the MCACK goes up the tree. -/
def State.mcAnswer (s : State) (die cl src tag reason : Nat) : State :=
  let k := 48 * die + cl
  let r := s.router k
  match r.mc.find? (fun m => decide (m.src = src) && decide (m.tag = tag)) with
  | none => s
  | some m =>
    let m' := { m with left := m.left - 1, reason := if m.reason = 0 then reason else m.reason }
    let others := r.mc.filter (fun m => !(decide (m.src = src) && decide (m.tag = tag)))
    if 1 < m.left then s.setRouter k { r with mc := m' :: others }
    else
      let s := s.setRouter k { r with mc := others }
      let p : Packet := { typ := 9, vc := 1, dnode := answerNode die cl m.sdie m.snode, snode := m.snode, src := src, tag := tag,
                          len := 1, reason := m'.reason, sdie := m.sdie }
      s.inject (nodeKey die cl) p

/-- The status a refusal gives a local command: ILLEGAL for a bank state (R222). -/
def refusedLocal : Nat := 3

/-- An access of the own data mover has ended: the command's share, and a failing status. INC's old word (R236) is then written at its
place in the own window: in the scratchpad that write waits for its bank. -/
def State.dmAccDone (s : State) (c id iter status : Nat) (ret : Option Nat) (data : List Byte) : State :=
  match (if status = 0 then ret else none) with
  | some off =>
    if off < 0xC0000 then s.bankPush c ⟨.dm, false, 0, 0, off, data.length, 0, 1, data, s.now, .dm id iter none, 0⟩
    else ((s.writeWin c off data).modDm c id (fun d => { d with open_ := d.open_ - 1 })).dmSettle c
  | none =>
    let s := if status = 0 then s else s.dmFail c id status iter
    (s.modDm c id (fun d => { d with open_ := d.open_ - 1 })).dmSettle c

/-- The answer to a request whose accesses have all ended (R232, R231): read data or INC's old word as RDATA, an
acknowledgement otherwise, with the status. -/
def State.bankAnswer (s : State) (c : Nat) (a : BankAcc) (status : Nat) (data : List Byte) : State :=
  match a.ans with
  | .none => s
  | .dm id iter ret => s.dmAccDone c id iter status ret data
  | .mesh p node =>
    if p.typ = 8 then s.mcAnswer (dieOf c) (clusterOf c) p.src p.tag 0
    else s.answer (dieOf c) node p (if a.isRead || decide (a.bop = 4) then 3 else 4) status 0 data

/-- The refusal of a request (R222, R225): the mesh's requester gets REFUSE with the reason, a local command ILLEGAL. -/
def State.bankRefuse (s : State) (c : Nat) (a : BankAcc) (reason : Nat) : State :=
  match a.ans with
  | .none => s
  | .dm id iter _ => s.dmAccDone c id iter refusedLocal none []
  | .mesh p node =>
    if p.typ = 8 then s.mcAnswer (dieOf c) (clusterOf c) p.src p.tag reason
    else s.answer (dieOf c) node p 5 0 reason []

/-- Accesses of a request that are still open at a bank. -/
def BankSt.openOf (k : BankSt) (grp : Nat) : Bool :=
  k.waiting.any (fun a => decide (a.grp = grp)) || k.ops.any (fun o => decide (o.acc.grp = grp))
    || (match k.granted with
        | some (a, _) => decide (a.grp = grp)
        | none => false)

/-- Mark of a request that lost accesses to a transition (R222). -/
def partRefused : Nat := 0x100

/-- One access has ended with a status and data; the request's answer leaves with its last access. -/
def State.bankDone (s : State) (c b : Nat) (a : BankAcc) (status : Nat) (data : List Byte) : State :=
  let k := (s.core c).bank b
  let (st0, d0) := ((find? k.parts a.grp).getD (0, []))
  let st := if st0 = 0 then status else st0
  if k.openOf a.grp then s.modBank c b (fun k => { k with parts := insertAt natLt k.parts a.grp (st, d0 ++ data) })
  else
    let s := s.modBank c b (fun k => { k with parts := dropKey k.parts a.grp })
    if st = partRefused then s.bankRefuse c a rBANK_STATE else s.bankAnswer c a st (d0 ++ data)

/-! ### Rows -/

/-- ACLK of the write slots of an operation. -/
def BankOp.slots (o : BankOp) : List Nat := if o.acc.rows = 2 then [o.writeAt - 1, o.writeAt] else [o.writeAt]

/-- A row locked by an operation between its read and its write (R229). -/
def BankSt.lockedRow (k : BankSt) (a : BankAcc) : Bool :=
  k.ops.any (fun o => rowsMeet a.row a.rows o.acc.row o.acc.rows)

/-- The slots of an access served in ACLK `t` are free: at most three operations between read and write, and no two writes in
one ACLK (R229). -/
def BankSt.slotOk (k : BankSt) (a : BankAcc) (t : Nat) : Bool :=
  !a.isOp || (decide (k.ops.length < 3)
    && k.ops.all (fun o => o.slots.all (fun w => decide (w ≠ t + 3) && (decide (a.rows = 1) || (decide (w ≠ t + 4) && decide (w ≠ t + 1))))))

/-- The oldest waiting access of a master. -/
def BankSt.oldest (k : BankSt) (m : BankMaster) : Option BankAcc := k.waiting.find? (fun a => decide (a.master = m))

/-- The accesses presented in ACLK `t` that the bank may serve. -/
def BankSt.presented (k : BankSt) (t : Nat) : List BankAcc :=
  [BankMaster.cc, .ve, .dm, .mesh].filterMap (fun m => match k.oldest m with
    | some a => if !(k.lockedRow a) && k.slotOk a t then some a else none
    | none => none)

/-- The access presented first, earlier masters first among equals (R219). -/
def firstSince : List BankAcc → Option BankAcc
  | [] => none
  | a :: l => match firstSince l with
    | some b => if b.since < a.since then some b else some a
    | none => some a

/-- Round-robin after the master served last (R218). -/
def rrPick (rr : Nat) (l : List BankAcc) : Option BankAcc :=
  match l.find? (fun a => decide (rr < a.master.code)) with
  | some a => some a
  | none => l.head?

/-- The choice of R218 and R219 in ACLK `t`: the access, and whether it was served by ageing. -/
def BankSt.pick (k : BankSt) (owner age t : Nat) : Option (BankAcc × Bool) :=
  let l := k.presented t
  let others := l.filter (fun a => decide (a.master.code ≠ owner))
  match firstSince (others.filter (fun a => decide (0 < age) && decide (a.since + age ≤ t))) with
  | some a => some (a, true)
  | none => match l.find? (fun a => decide (a.master.code = owner)) with
    | some a => some (a, false)
    | none => (rrPick k.rr others).map (fun a => (a, false))

/-- The operation that waits on the row, or row pair, written by an operation in this ACLK: it takes y from the write path (R229). -/
def BankSt.forward (k : BankSt) (t : Nat) : Option BankAcc :=
  match k.lastOp with
  | some (row, n, w) => if w = t then (k.presented t).find? (fun a => a.isOp && decide (a.row = row) && decide (a.rows = n)) else none
  | none => none

/-- The access leaves the waiting list; its master's next access presents itself in the ACLK after (R218, R219). -/
def BankSt.take (k : BankSt) (a : BankAcc) (t : Nat) : BankSt :=
  let w := dropFirst (fun x => decide (x = a)) k.waiting
  let w := match w.findIdx? (fun x => decide (x.master = a.master)) with
    | some i => w.modify i (fun x => { x with since := max x.since (t + 1) })
    | none => w
  { k with waiting := w, rr := a.master.code }

/-- ACLK a service holds the bank: a G8ACC reads two rows, a write of part of a word reads first (R215, R229). -/
def BankAcc.holds (a : BankAcc) : Nat := if a.rows = 2 then 2 else if !a.isOp && !a.isRead && a.partWord then 2 else 1

/-- An access of the bank's owner that does not wait in the bank's list presents itself in ACLK `t` (R218): a row of the vector engine, a row
of a tile store, a load or store of the CC. -/
def State.ownerPresents (s : State) (c b t : Nat) : Bool :=
  let x := s.core c
  match s.bankOwner c b with
  | 0 => x.ccSince.isSome
  | 1 => match x.veFly with
    | some v => decide (v.at_ ≤ t) && v.stop.isNone && !v.dead && decide (v.n < Cmd.iters v.q.cmd) && v.cut.isNone
        && !(s.veIterBad c v.q.cmd v.n) && (veRanges v.q.cmd v.n).any (fun r => (banksOf r.1.toNat r.2).contains b)
    | none => false
  | 2 => match x.store with
    | some k => decide (k.since ≤ t) && decide (0 < k.r) && (banksOf (tcRow k.cmd k.n k.r).toNat (dkRbytes (Cmd.deckle k.cmd))).contains b
    | none => false
  | _ => false

/-- BANK_SERVE (R218, R219): the bank serves its next access. A read is answered, a write or operation is granted; an
uncorrectable error under a read, an operation or a write of part of a word ends the access (R215, R231). -/
def execBankServe (core bank : Nat) (hw : MemHw) (s : State) : Host.Outcome State Fault Refusal :=
  let k := (s.core core).bank bank
  let t0 := s.now
  let t1 := max s.now k.next
  let sel : Option (BankAcc × Bool × Nat) := match k.forward t0 with
    | some a => some (a, false, t0)
    | none =>
      if k.ops.any (fun o => o.slots.any (fun w => decide (w ≤ t1))) || s.ownerPresents core bank t1 then none
      else (k.pick (s.bankOwner core bank) (s.get F.SPD_CFG_AGE core) t1).map (fun (a, g) => (a, g, t1))
  if !(s.corePresent core) || k.granted.isSome || k.trans.isSome then .next s
  else
    match sel with
    | none => .next s
    | some (a, aged, t) =>
      let s := s.at_ t
      let nx := if t = t0 ∧ (k.forward t0).isSome then k.next else t + a.holds
      let s := s.modBank core bank (fun k => { k.take a t with next := nx })
      let s := s.flagIf aged F.SPD_EVT_AGED core
      let s := ((s.pmon .SPD core 0x50 bank a.holds).pmon .SPD core 0x52 bank (b2n aged)).pmon .SPD core 0x53 bank (b2n a.isOp)
      let (s, _, unc) := s.winReads core a.master.code a.readRanges hw a.off
      if unc then .next (s.bankDone core bank a 6 (if a.isRead then s.readWin core a.off a.len else []))
      else if a.isRead then .next (s.bankDone core bank a 0 (s.readWin core a.off a.len))
      else .next (s.modBank core bank (fun k => { k with granted := some (a, t) }))

/-! ### Landing windows (R336) -/

/-- The lowest-numbered enabled window that covers a scratchpad offset. -/
def State.landWin (s : State) (c off : Nat) : Option Nat :=
  (List.range 8).find? (fun w => decide (s.get F.SYNC_LWIN_EN c w = 1) && decide (off < 0xC0000)
    && decide (s.get F.SYNC_LWIN_BASE c w / 64 * 64 ≤ off)
    && decide (off < s.get F.SYNC_LWIN_BASE c w / 64 * 64 + 64 * (s.get F.SYNC_LWIN_SIZE_M1 c w + 1)))

/-- Bytes that land in the present ACLK (R338). -/
def State.noteLand (s : State) (c w n : Nat) : State :=
  s.modCore c (fun x =>
    let l := if x.landNow.1 = s.now then x.landNow.2 else []
    { x with landNow := (s.now, putD natLt 0 l w (lookD 0 l w + n)) })

/-- Bytes written from the mesh, one by one, with the count of contributions. -/
def State.landBytes (s : State) (c off count : Nat) : Nat → State
  | 0 => s
  | n + 1 =>
    let s := match s.landWin c off with
      | some w => (s.addw F.SYNC_LAND_LANDED c count w).noteLand c w count
      | none => s
    State.landBytes s c (off + 1) count n

/-- A write by the mesh that takes effect. -/
def State.landed (s : State) (c : Nat) (a : BankAcc) : State :=
  if a.master = .mesh then s.landBytes c a.off a.count a.len else s

/-! ### Operations (R227, R228) -/

/-- One element of ADD, MAX or AXPY. -/
def bankElem (f : Fmt) (bop a x y : Nat) : Conv :=
  if f = Fmt.int32 then
    if bop = 2 then { code := if sext 32 y < sext 32 x then x else y }
    else encodeInt 32 (Num.ofInt (sext 32 x + sext 32 y))
  else
    let vx := f.value x
    let vy := f.value y
    match bop with
    | 1 => f.convert false (vx.add vy)
    | 2 => f.convert false (vx.max vy)
    | _ => f.convert false (fp32 (toFp32 (((fp32 a).mul vx).add vy)).code)

/-- New contents of the bytes of an operation, given the old ones; whether a sum saturated, a result or decode was infinite,
and a G8 byte was 0xFF. -/
def bankCompute (a : BankAcc) (old : List Byte) : List Byte × Bool × Bool × Bool :=
  let f := Fmt.ofCode a.fmt
  match a.bop with
  | 4 => (leBytes 4 (leNat old + 1), false, false, false)
  | 5 =>
    let r := (a.data.zip (elems 4 old 32)).map (fun (g, y) =>
      let d := g8Decode (a.imm % 256) g.toNat
      let z := toFp32 ((fp32 d.code).add (fp32 y))
      (z.code, d.inf || decide (z.code % 2 ^ 31 = 0x7F800000), decide (g.toNat = 0xFF)))
    (r.flatMap (fun z => leBytes 4 z.1), false, r.any (fun z => z.2.1), r.any (fun z => z.2.2))
  | _ =>
    let n := a.len / f.bytes
    let r := ((elems f.bytes a.data n).zip (elems f.bytes old n)).map (fun (x, y) => bankElem f a.bop a.imm x y)
    (r.flatMap (fun z => leBytes f.bytes z.code), decide (f = Fmt.int32) && r.any (fun z => z.sat),
      !(decide (f = Fmt.int32)) && r.any (fun z => (f.value z.code).isInf), false)

/-- Flags of an operation (R228, R77). -/
def State.bankFlags (s : State) (c : Nat) (r : List Byte × Bool × Bool × Bool) : State :=
  ((s.flagIf r.2.1 F.SPD_EVT_SAT c).flagIf r.2.2.1 F.SPD_EVT_INF c).flagIf r.2.2.2 F.SPD_EVT_G8_FMT c

/-- The granted access of a bank when it is the operation asked for. -/
def State.grantedOp (s : State) (c b bop : Nat) : Option (BankAcc × Nat) :=
  match ((s.core c).bank b).granted with
  | some (a, t) => if a.bop = bop then some (a, t) else none
  | none => none

/-- BANK_WRITE (R227): a plain write takes effect. -/
def execBankWrite (core bank : Nat) (s : State) : Host.Outcome State Fault Refusal :=
  match s.grantedOp core bank 0 with
  | none => .next s
  | some (a, _) =>
    let s := s.modBank core bank (fun k => { k with granted := none })
    .next (((s.writeWin core a.off a.data).landed core a).bankDone core bank a 0 [])

/-- A bank-unit operation reads its row or rows and computes; it writes in the third ACLK after its last read (R229). -/
def State.bankStart (s : State) (c b bop : Nat) : State :=
  match s.grantedOp c b bop with
  | none => s
  | some (a, t) =>
    let old := s.readWin c a.off a.len
    let r := bankCompute a old
    let o : BankOp := { acc := a, old := old, result := r.1, writeAt := t + (if a.rows = 2 then 4 else 3) }
    (s.modBank c b (fun k => { k with granted := none, ops := k.ops ++ [o] })).bankFlags c r

/-- ADD: y := y + x (R227). -/
def execBankAdd (core bank : Nat) (s : State) : Host.Outcome State Fault Refusal := .next (s.bankStart core bank 1)
/-- MAX: y := max(y, x) (R227). -/
def execBankMax (core bank : Nat) (s : State) : Host.Outcome State Fault Refusal := .next (s.bankStart core bank 2)
/-- AXPY: y := a·x + y (R227). -/
def execBankAxpy (core bank : Nat) (s : State) : Host.Outcome State Fault Refusal := .next (s.bankStart core bank 3)
/-- INC: y := (y + 1) mod 2^32 (R227). -/
def execBankInc (core bank : Nat) (s : State) : Host.Outcome State Fault Refusal := .next (s.bankStart core bank 4)
/-- G8ACC: y_k := y_k + decode(g_k) (R227). -/
def execBankG8acc (core bank : Nat) (s : State) : Host.Outcome State Fault Refusal := .next (s.bankStart core bank 5)

/-- BANK_OP_WRITEBACK (R229, R231): the oldest operation writes its row and answers; a failed check leaves the row.
No access has met the row since its read (R230). -/
def execBankOpWriteback (core bank : Nat) (checkFail : Bool) (s : State) : Host.Outcome State Fault Refusal :=
  let k := (s.core core).bank bank
  match k.ops with
  | [] => .next s
  | o :: rest =>
    let s := s.at_ o.writeAt
    let a := o.acc
    let s := s.modBank core bank (fun k =>
      { k with ops := rest, next := max k.next (o.writeAt + 1), lastOp := some (a.row, a.rows, o.writeAt) })
    if checkFail then .next ((s.spdFail core a.master.code 1 a.off).bankDone core bank a 0xD [])
    else
      .next (((s.writeWin core a.off o.result).landed core a).bankDone core bank a 0 (if a.bop = 4 then o.old else []))

/-! ### Requests of the mesh -/

/-- Why a mesh request to a core's window is refused: FENCED (R328), BANK_STATE for an off core (R660), BANK_OP (R227), RETIRED and
BANK_STATE (R222, R225). -/
def State.bankReason (s : State) (c : Nat) (a : BankAcc) : Nat :=
  let f := Fmt.ofCode a.fmt
  let opOk := !a.isOp || (decide (a.off < 0xC0000) && (match a.bop with
    | 1 => decide (f = .fp32) || decide (f = .bf16) || decide (f = .int32)
    | 2 => decide (f = .fp32) || decide (f = .bf16) || decide (f = .int32)
    | 3 => decide (f = .fp32) || decide (f = .bf16)
    | 4 => decide (f = .int32) && decide (a.len = 4) && decide (a.off % 4 = 0)
    | 5 => decide (f = .fp32) && decide (a.off % 128 = 0)
    | _ => false))
  if s.cutOff c then rFENCED
  else if !(s.clusterOn (cluInst c)) then rBANK_STATE
  else if !opOk then rBANK_OP
  else if a.off < 0xC0000 then
    if s.bit F.SPD_MAP_RETIRED c (bankOf a.off) then rRETIRED
    else if s.sub F.SPD_PWR_STATE c (bankOf a.off) 2 ≠ 0 then rBANK_STATE else 0
  else 0

/-- A mesh request arrives at a core's window: refused, or served by the ACB at once, or waiting at its bank. -/
def State.meshAccess (s : State) (c : Nat) (a : BankAcc) (hw : MemHw) : State :=
  let r := s.bankReason c a
  if r ≠ 0 then
    let s := s.flagIf (decide (r = rFENCED)) F.MESH_EVT_FENCED_REFUSE (cluInst c)
    (s.flagIf (s.clusterOn (cluInst c) && (decide (r = rRETIRED) || decide (r = rBANK_STATE))) F.SPD_EVT_REFUSED c).bankRefuse c a r
  else if a.off < 0xC0000 then s.bankPush c a
  else
    let (s, _, unc) := (s.acbUse c a.off a.len).winReads c 3 a.readRanges hw a.off
    if a.isRead then s.bankAnswer c a (if unc then 6 else 0) (s.readWin c a.off a.len)
    else if unc then s.bankAnswer c a 6 []
    else (s.writeWin c a.off a.data).bankAnswer c a 0 []

/-! ### Power states (R221 to R223) -/

/-- ACLK of a transition (R221); states 0 ON, 1 RETENTION, 2 OFF. -/
def pwrTime (a b : Nat) : Nat :=
  match a, b with
  | 1, 0 => 380
  | 2, 0 => 3948
  | 2, 1 => 3964
  | _, _ => 16

/-- The state a REQ field asks for; 0b11 acts as ON (R244). -/
def State.pwrReq (s : State) (c b : Nat) : Nat :=
  let v := s.sub F.SPD_PWR_REQ c b 2
  if v = 3 then 0 else v

/-- The requested state takes effect on a bank: the waiting accesses are refused and the transition starts when granted
accesses and operations have ended (R222). A retired bank ignores its request (R225). -/
def State.pwrApply (s : State) (c b : Nat) : State :=
  let k := (s.core c).bank b
  let cur := s.sub F.SPD_PWR_STATE c b 2
  let req := s.pwrReq c b
  if s.bit F.SPD_MAP_RETIRED c b || k.trans.isSome || decide (cur = req) then s
  else
    let t0 := k.ops.foldl (fun t o => max t o.writeAt) (max s.now (match k.granted with | some (_, t) => t | none => 0))
    let firsts := (k.waiting.zipIdx.filter (fun (a, i) => !((k.waiting.take i).any (fun x => decide (x.grp = a.grp))))).map (·.1)
    let refused := firsts.filter (fun a => !({ k with waiting := [] }.openOf a.grp))
    let kept := (k.parts.filter (fun p => !(refused.any (fun a => decide (a.grp = p.1))))).map (fun (g, st, d) =>
      if k.waiting.any (fun a => decide (a.grp = g)) then (g, partRefused, d) else (g, st, d))
    let open_ := firsts.filter (fun a => { k with waiting := [] }.openOf a.grp)
    let kept := open_.foldl (fun l a => insertAt natLt l a.grp (partRefused, [])) kept
    let s := s.modBank c b (fun k => { k with waiting := [], trans := some (cur, req, t0 + pwrTime cur req), parts := kept })
    let s := s.setSub F.SPD_PWR_STATE c b 2 3
    let s := s.flagIf (!k.waiting.isEmpty) F.SPD_EVT_REFUSED c
    refused.foldl (fun s a => s.bankRefuse c a rBANK_STATE) s

/-- A write to SPD_PWR. -/
def State.pwrWrite (s : State) (m : Master) (c : Nat) (v mask : Word) (addr : Nat) : State :=
  (List.range 6).foldl (fun s b => s.pwrApply c b) (s.accWrite m ⟨.SPD_PWR, c, 0⟩ v mask addr)

/-- SPD_PWR_REQ (R222): a write to SPD_PWR. -/
def execSpdPwrReq (m : Master) (core : Nat) (v : Word) (s : State) : Host.Outcome State Fault Refusal :=
  .next (s.regCmd m .SPD core (fun s => s.pwrWrite m core v lowMask (0x4000 * core + 0x1408)))

/-- Emptying a range of memory: its bytes read 0. The check bits follow through `injWrite` (R221). -/
def State.zeroMem (s : State) (a n : Nat) : State :=
  { s with mem := s.mem.filter (fun x => decide (x.1 < a) || decide (a + n ≤ x.1)) }

/-- BANK_TRANSITION_END (R221): the bank reaches its state; entering OFF loses the contents; leaving it, the bank
is filled with zeros with valid check bits. A request written meanwhile then takes effect (R222). -/
def execBankTransitionEnd (core bank : Nat) (s : State) : Host.Outcome State Fault Refusal :=
  let k := (s.core core).bank bank
  match k.trans with
  | none => .next s
  | some (from_, target, e) =>
    if k.granted.isSome || !k.ops.isEmpty then .next s
    else
      let s := (s.at_ e).modBank core bank (fun k => { k with trans := none })
      let s := s.setSub F.SPD_PWR_STATE core bank 2 target
      let s := if target = 2 then
          { s.zeroMem (winBase core + 0x20000 * bank) 0x20000 with
            inj := s.inj.filter (fun t => !(decide (t.unit = 0) && decide (t.owner = core) && decide (t.line / 0x20000 = bank))) }
        else s
      let s := if from_ = 2 then s.injWrite 0 core (0x20000 * bank) 0x20000 else s
      .next (s.pwrApply core bank)

end Sys2Proof.Machine
end

