-- ==== Sys2Proof/Machine/TileMover.lean ====
section
/-! DEFINITION. The data mover's work inside its core: tile loads and stores (R113 to R126) and the turn (R200, R201), and
DM_FENCE (R239). -/

namespace Sys2Proof.Machine

open Sys2Proof

/-- The data mover begins its head with opcode `op`. -/
def State.dmBeginHead (s : State) (c op : Nat) (run : Nat → Nat → QCmd → State → State) : State :=
  s.beginHead c .dm (fun _ cmd => decide (Cmd.opcode cmd = op)) run

/-! ### DM_TLOAD (R116, R117) -/

/-- DM_TLOAD (R113 to R117): begins and gathers; the write phases follow. -/
def execDmTload (core : Nat) (hw : DmHw) (s : State) : Host.Outcome State Fault Refusal :=
  .next (s.dmBeginHead core 0x10 (fun p b q s =>
    if tcIllegal q.cmd then s.dmEndNow core p b q 3
    else
      let (s, _) := s.dmBegin core p b q (fun d => { d with nIter := Cmd.iters q.cmd, ecc := hw })
      (s.gatherMore core 2).dmSettle core))

/-- The tile is locked in ACLK `t`: a read that has begun goes on, or one of the ME begins (R120). Answers the first ACLK after it. -/
def CoreSt.lockedUntil (x : CoreSt) (tile t : Nat) : Option Nat :=
  let acts := x.meFly.flatMap (fun f => (f.todo.filter (fun a =>
    decide (a.at_ = t) && decide ((if a.load then a.tile / 2 else a.tile) = tile))).map (fun a =>
      t + dkRows (if a.load then meShape f.q.cmd else Cmd.deckle f.q.cmd)))
  let store := match x.store with
    | some k => if tcTile k.cmd k.n = tile ∧ 0 < k.r then [t + 1] else []
    | none => []
  match (x.lockEnd tile t).toList ++ acts ++ store with
  | [] => none
  | e :: es => some (es.foldl max e)

/-- Time passes until the tile is not locked (R120); the ACLK in which a write phase to it may begin is then the present one. -/
def State.unlock (s : State) (c tile : Nat) : Nat → State
  | 0 => s
  | n + 1 =>
    match (s.core c).lockedUntil tile s.now with
    | some e => State.unlock (s.at_ e) c tile n
    | none => s

/-- Reads of tiles that are going on or still to come: a bound on the locks a write phase can meet. -/
def CoreSt.lockBound (x : CoreSt) : Nat := x.meReads.length + 16 + 2 * (x.meFly.map (fun f => f.todo.length)).foldl (· + ·) 0

/-- TLOAD_WRITE_PHASE (R116, R120): the write phase of the oldest gathered tile begins, after the gather, the write phase before and the
locks; the tile takes its tag and its stamp, and a reuse latch of it becomes invalid (R106). The rows follow one per ACLK. With
none gathered, a gather that waits for its banks tries again. -/
def execTloadWritePhase (core : Nat) (s : State) : Host.Outcome State Fault Refusal :=
  let x := s.core core
  match x.staged with
  | [] => .next (if s.running core then (s.gatherMore core 2).dmSettle core else s)
  | st :: _ =>
    let t0 := max s.now (max st.ready x.dmEnd)
    let s1 := (s.at_ t0).unlock core st.tile ((s.at_ t0).core core).lockBound
    let w := s1.now
    if !(s1.running core) || decide ((s1.core core).staged.head? ≠ some st) || ((s1.core core).lockedUntil st.tile w).isSome
      || !(s1.core core).phase.isEmpty then .next s
    else
      let s := s1.flagIf (decide (t0 < w)) F.TRF_EVT_LOCK_WAIT core
      let s := s.pmon .TRF core 0x22 0 (b2n (decide (t0 < w)))
      let (add, s) := s.slipAdd core st.tile
      let rows := st.rows.length
      let s := s.modCore core (fun x =>
        let inj := x.injected.filter (· ≠ st.tile)
        { x with
          staged := x.staged.drop 1, dmEnd := w + rows
          injected := if 0 < add then st.tile :: inj else inj
          latS := x.latS.filter (· ≠ st.tile), latX := x.latX.filter (· ≠ st.tile)
          phase := st.rows.zipIdx.map (fun p => ⟨w + p.2, st.tile, p.2, p.1, decide (p.2 + 1 = rows), st.id⟩) })
      let s := (s.set F.TRF_TAG_TAGGED core 1 st.tile).set F.TRF_TAG_TAG core st.deckle st.tile
      .next (s.set F.TRF_STAMP_STAMP core (w - s.coreBase core + rows + add) st.tile)

/-! ### DM_TSTORE (R118) -/

/-- DM_TSTORE (R118), after the tile loads before it (R117): begins; its rows follow as time passes. -/
def execDmTstore (core : Nat) (hw : DmHw) (s : State) : Host.Outcome State Fault Refusal :=
  if (s.core core).loading then .next s
  else .next (s.dmBeginHead core 0x11 (fun p b q s =>
    if tcIllegal q.cmd then s.dmEndNow core p b q 3
    else
      let (s, id) := s.dmBegin core p b q id
      s.modCore core (fun x => { x with store := some { id := id, cmd := q.cmd, hw := hw, at_ := b, since := b } })))

/-! ### DM_TURN (R200, R201) -/

def tnFmtS (c : Cmd) : Fmt := Fmt.ofCode (Cmd.f c 16 31 28)
def tnFmtD (c : Cmd) : Fmt := Fmt.ofCode (Cmd.f c 20 31 28)
def tnSrc (c : Cmd) (n r : Nat) : Int :=
  (Cmd.f c 16 19 0 : Int) + 16 * (Cmd.disp c n (fun l => Cmd.sf c (32 + 8 * l) 15 0) + (r * Cmd.f c 24 15 0 : Nat))
def tnDst (c : Cmd) (n r : Nat) : Int :=
  (Cmd.f c 20 19 0 : Int) + 64 * (Cmd.disp c n (fun l => Cmd.sf c (34 + 8 * l) 15 0) + (r * Cmd.f c 26 15 0 : Nat))
/-- Side of the block. -/
def tnB (c : Cmd) : Nat := 64 / (tnFmtD c).bytes

def tnFormats (a b : Fmt) : Bool :=
  (decide (a = b) && [Fmt.int8, .e4m3, .e5m2, .bf16, .fp16, .fp32, .fp64, .raw].contains a)
    || ((decide (a = .e4m3) || decide (a = .e5m2)) && decide (b = .bf16)) || (decide (a = .e5m2) && decide (b = .fp16))

def tnIllegal (c : Cmd) : Bool :=
  Cmd.badHeader c || decide (Cmd.f c 16 27 20 ≠ 0) || decide (Cmd.f c 20 27 20 ≠ 0) || decide (Cmd.f c 28 31 0 ≠ 0)
    || (List.range 4).any (fun l => decide (Cmd.f c (36 + 8 * l) 31 0 ≠ 0)) || !(tnFormats (tnFmtS c) (tnFmtD c))

def State.tnBad (s : State) (c : Nat) (cmd : Cmd) (n : Nat) : Bool :=
  decide (Cmd.f cmd 16 19 0 % 16 ≠ 0) || decide (Cmd.f cmd 20 19 0 % 64 ≠ 0)
    || (List.range (tnB cmd)).any (fun r =>
      !(s.spdRange c (tnSrc cmd n r) (tnB cmd * (tnFmtS cmd).bytes)) || !(s.spdRange c (tnDst cmd n r) 64))

/-- The rows of an iteration, source and destination. -/
def tnRanges (cmd : Cmd) (n : Nat) : List (Int × Nat) :=
  (List.range (tnB cmd)).flatMap (fun r => [(tnSrc cmd n r, tnB cmd * (tnFmtS cmd).bytes), (tnDst cmd n r, 64)])

/-- One block: every source row is read before any destination row is written; element c of destination row r is element r
of source row c. -/
def State.turnIter (s : State) (c : Nat) (cmd : Cmd) (n : Nat) : State :=
  let k := tnB cmd
  let src := (List.range k).map (fun r => elems (tnFmtS cmd).bytes (s.readWin c (tnSrc cmd n r).toNat (k * (tnFmtS cmd).bytes)) k)
  let g := if tnFmtS cmd = tnFmtD cmd then ({} : NumFlags) else
    src.foldl (fun g row => row.foldl (fun g x => g.join (convFlags ((tnFmtS cmd).value x) { code := 0 })) g) {}
  let s := s.dmFlags c g
  (List.range k).foldl (fun s r =>
    s.writeWin c (tnDst cmd n r).toNat ((List.range k).flatMap (fun col =>
      let x := (src.getD col []).getD r 0
      leBytes (tnFmtD cmd).bytes (if tnFmtS cmd = tnFmtD cmd then x else ((tnFmtD cmd).convert false ((tnFmtS cmd).value x)).code)))) s

/-- The blocks from `n` on: a failing status with its iteration, or none. -/
def State.turnIters (s : State) (c : Nat) (cmd : Cmd) (hw : DmHw) : Nat → Nat → State × Option (Nat × Nat)
  | 0, _ => (s, none)
  | k + 1, n =>
    if s.tnBad c cmd n then (s.dmRefuseBank c (tnRanges cmd n), some (3, n))
    else
      match s.dmRead c ((List.range (tnB cmd)).map (fun r => ((tnSrc cmd n r).toNat, tnB cmd * (tnFmtS cmd).bytes))) (dmHwAt hw n) with
      | (s, true) => (s, some (6, n))
      | (s, false) => State.turnIters ((s.turnIter c cmd n).pmon .VE c 0x43 0 1) c cmd hw k (n + 1)

/-- The rows of every iteration. -/
def tnWindow (cmd : Cmd) : List (Nat × Nat) :=
  (List.range (Cmd.iters cmd)).flatMap (fun n => (tnRanges cmd n).map (fun r => (r.1.toNat, r.2)))

/-- The banks serve every row of the command, or an iteration's check ends it first. -/
def State.tnServed (s : State) (c : Nat) (cmd : Cmd) : Bool :=
  (List.range (Cmd.iters cmd)).all (fun n =>
    s.tnBad c cmd n || s.windowServes c .dm (s.core c).dmSince ((tnRanges cmd n).map (fun r => (r.1.toNat, r.2))))

/-- DM_TURN (R200, R201): one block takes as many ACLK as it has rows. Its work is done as it begins, once the banks
serve every row of it (DESIGN CHOICE, notes/assumptions/35.md). -/
def execDmTurn (core : Nat) (hw : DmHw) (s : State) : Host.Outcome State Fault Refusal :=
  .next (s.beginHead core .dm (fun s cmd => decide (Cmd.opcode cmd = 0x12) && (tnIllegal cmd || s.tnServed core cmd)) (fun p b q s =>
    if tnIllegal q.cmd then s.dmEndNow core p b q 3
    else
      let (s, id) := s.dmBegin core p b q id
      let s := s.windowTake core .dm (s.core core).dmSince (tnWindow q.cmd)
      let (s, bad) := s.turnIters core q.cmd hw (Cmd.iters q.cmd) 0
      let done := match bad with
        | some (_, n) => n
        | none => Cmd.iters q.cmd
      let s := s.setEntry core .dm (b + (done * tnB q.cmd - 1))
      let s := match bad with
        | some (st, n) => s.dmFail core id st n
        | none => s.modDm core id (fun d => { d with issuing := false })
      s.dmSettle core))

/-! ### DM_FENCE (R239) -/

/-- Reserved bits of a DM_FENCE (R239). -/
def fenceBad (c : Cmd) : Bool := Cmd.badHeader c || decide ((BitVec.extractLsb' 128 384 c).toNat ≠ 0)

/-- DM_FENCE: begins only when every earlier data-mover command has completed, and completes in the ACLK after it begins. -/
def execDmFence (core : Nat) (s : State) : Host.Outcome State Fault Refusal :=
  if !(s.core core).dmCmds.isEmpty then .next s
  else .next (s.beginHead core .dm (fun _ c => decide (Cmd.opcode c = 0x17)) (fun p b q s =>
    let s := s.begin_ core .dm p b
    if fenceBad q.cmd then (s.flag F.DM_EVT_ILLEGAL core).endNow core .dm q 3
    else s.completeAt core .dm q 0 (b + 1)))

end Sys2Proof.Machine
end

