-- ==== Sys2Proof/Machine/DataMover.lean ====
section
/-! DEFINITION. The data mover's transfers (R233 to R242, R774): copies, gathers, bank operations, the HBM and MSU commands
(R280 to R284, R287), stream fills (R290 to R292), their requests, and the answers that come back. -/

namespace Sys2Proof.Machine

open Sys2Proof

/-! ### Requests of one iteration -/

/-- Codes of a conversion kept with a request. -/
def convOf (a b : Nat) (sr sat : Bool) : Option (Nat × Nat × Bool × Bool) := if a = b then none else some (a, b, sr, sat)

/-- A far address with its module ID, made of a signed sum: none when it leaves the 64-bit range (R144). -/
def gAddr (a : Int) : Option Nat := if 0 ≤ a ∧ a < 2 ^ 64 then some a.toNat else none

/-- Pieces of a far range in bytes, none crossing a 256-byte boundary (R238). -/
def farCut (far n : Nat) : List (Nat × Nat) := cut256 far (n / 256 + 2) 0 n

/-- Requests that read `n` bytes at `far` into the window at `loc`, converting from `a` to `b`. -/
def readReqs (iter far loc n : Nat) (a b : Fmt) (ca cb : Nat) (sr sat : Bool) (e0 : Nat) : List DmReq :=
  (farCut far n).map (fun (o, k) =>
    { iter := iter, isRead := true, typ := 0, far := far + o, loc := loc + o / a.bytes * b.bytes, len := k, bop := 0, fmt := ca,
      imm := 0, conv := convOf ca cb sr sat, data := [], e0 := e0 + o / a.bytes })

/-- Requests that write to `far` the `n` destination bytes converted from the window at `loc`; `typ`, `bop`, `imm` for
operations. -/
def writeReqs (iter typ far loc n bop imm : Nat) (a b : Fmt) (ca cb : Nat) (sr sat : Bool) (e0 : Nat) : List DmReq :=
  (farCut far n).map (fun (o, k) =>
    { iter := iter, isRead := false, typ := typ, far := far + o, loc := 0, len := k, bop := bop, fmt := cb, imm := imm,
      conv := convOf ca cb sr sat, data := [], e0 := e0 + o / b.bytes,
      reads := [(loc + o / b.bytes * a.bytes, k / b.bytes * a.bytes)] })

/-- The local address of a far end that R235 allows: HBM, a core window or a group's, or the host window; holes are refused
at issue (R774). A module ID that names a hub multicast group or is reserved is left to R774 and the hub. -/
def State.farOk (s : State) (a : Nat) : Bool :=
  match s.far (gLoc a) with
  | .regs => false
  | _ => true

/-- A transfer of `len` source bytes from `src` to `dst` under R235; `typ`, `bop` and `imm` for a bank operation. None when a
rule fails. -/
def State.transfer (s : State) (c iter typ bop imm : Nat) (src dst : Int) (len : Nat) (ca cb : Nat) (sr sat : Bool) :
    Option (List DmReq) :=
  let a := Fmt.ofCode ca
  let b := Fmt.ofCode cb
  let dlen := len / a.bytes * b.bytes
  let e0 := iter * (len / a.bytes)
  if len % a.bytes ≠ 0 then none
  else
    match gAddr src, gAddr dst with
    | some fs, some fd =>
      if fs % 16 ≠ 0 ∨ fd % 16 ≠ 0 then none
      else if s.isOwn c dst then
        if s.ownRange c (ownOff dst) dlen && (if s.isOwn c src then s.ownRange c (ownOff src) len else s.farOk fs) then
          if s.isOwn c src then
            some [{ iter := iter, isRead := false, typ := typ, far := fd, loc := 0, len := dlen, bop := bop, fmt := cb, imm := imm,
                    conv := convOf ca cb sr sat, data := [], e0 := e0, reads := [(winOff (gLoc fs), len)] }]
          else some (readReqs iter fs (winOff (gLoc fd)) len a b ca cb sr sat e0)
        else none
      else if s.isOwn c src && s.ownRange c (ownOff src) len && s.farOk fd then
        some (writeReqs iter typ fd (winOff (gLoc fs)) dlen bop imm a b ca cb sr sat e0)
      else none
    | _, _ => none

/-! ### DM_COPY and DM_BANKOP (R234 to R236) -/

def cpFmtSC (c : Cmd) : Nat := Cmd.f c 32 19 16
def cpFmtDC (c : Cmd) : Nat := Cmd.f c 32 23 20

def copyIllegal (c : Cmd) : Bool :=
  Cmd.badHeader c || !(cpRsv c) || decide (cpBop c ≠ 0) || decide (cpImm c ≠ 0) || !(dmPair (cpFmtS c) (cpFmtD c))

/-- Formats and immediates a DM_BANKOP accepts (R236). -/
def bankopIllegal (c : Cmd) : Bool :=
  let a := cpFmtS c
  let b := cpFmtD c
  let imm := cpImm c
  Cmd.badHeader c || !(cpRsv c) || !(match cpBop c with
    | 0 => dmPair a b && decide (imm = 0)
    | 1 => dmPair a b && (decide (b = .fp32) || decide (b = .bf16) || (decide (b = .int32))) && decide (imm = 0)
    | 2 => dmPair a b && (decide (b = .fp32) || decide (b = .bf16) || (decide (b = .int32))) && decide (imm = 0)
    | 3 => dmPair a b && (decide (b = .fp32) || decide (b = .bf16))
    | 4 => decide (a = .int32) && decide (b = .int32) && decide (cpLen c = 4) && decide (imm = 0)
    | 5 => decide (a = .g8) && decide (b = .fp32) && decide (cpLen c % 32 = 0) && decide (imm < 256)
    | _ => false)

/-- A far address lies in a core window (R236, R237). -/
def State.inCoreWin (s : State) (a : Nat) : Bool :=
  match s.far (gLoc a) with
  | .core _ => true
  | .group _ _ => true
  | _ => decide (0x100000000000 ≤ gLoc a) && decide (gLoc a < 0x100080000000)

/-- The own ACB as the target of an operation (R227). -/
def State.ownAcb (s : State) (c : Nat) (a : Nat) : Bool := s.isOwn c a && decide (0xC0000 ≤ winOff (gLoc a))

/-- One iteration of a DM_BANKOP. -/
def State.bankopIter (s : State) (c : Nat) (cmd : Cmd) (n : Nat) : Option (List DmReq) :=
  let src := cpSrc cmd n
  let dst := cpDst cmd n
  let ca := cpFmtSC cmd
  let cb := cpFmtDC cmd
  match gAddr src, gAddr dst with
  | some fs, some fd =>
    if !(s.isOwn c src) || !(s.inCoreWin fd) || (decide (cpBop cmd ≠ 0) && s.ownAcb c fd) then none
    else
      match cpBop cmd with
      | 0 => s.transfer c n 1 0 0 src dst (cpLen cmd) ca cb (cpSr cmd) (cpSat cmd)
      | 4 =>
        if decide (fs % 16 ≠ 0) || decide (fd % 16 ≠ 0) || !(s.ownRange c (ownOff src) 4)
            || (s.isOwn c dst && !(s.spdRange c (ownOff dst) 4)) then none
        else
          some [{ iter := n, isRead := false, typ := 2, far := fd, loc := winOff (gLoc fs), len := 4, bop := 4, fmt := cb, imm := 0,
                  conv := none, data := [0, 0, 0, 0] }]
      | 5 =>
        let tl := cpLen cmd * 4
        if decide (fs % 16 ≠ 0) || decide (fd % 128 ≠ 0) || !(s.ownRange c (ownOff src) (cpLen cmd))
            || (s.isOwn c dst && !(s.spdRange c (ownOff dst) tl)) then none
        else
          some ((farCut fd tl).map (fun (o, k) =>
            { iter := n, isRead := false, typ := 2, far := fd + o, loc := 0, len := k, bop := 5, fmt := cb,
              imm := cpImm cmd + 256 * cpImm cmd, conv := none, data := [], reads := [(winOff (gLoc fs) + o / 4, k / 4)] }))
      | bop => s.transfer c n 2 bop (cpImm cmd) src dst (cpLen cmd) ca cb (cpSr cmd) (cpSat cmd)
  | _, _ => none

/-! ### DM_GATHER and DM_SCATTER (R237) -/

def gsFmt (c : Cmd) : Fmt := Fmt.ofCode (Cmd.f c 32 19 16)
def gsLen (c : Cmd) : Nat := Cmd.f c 32 15 0 + 1
def gsIdx (c : Cmd) (n : Nat) : Int := ((Cmd.f c 28 19 0 + 4 * n : Nat) : Int)
def gsLocal (c : Cmd) (n : Nat) : Int := ((Cmd.f c 24 19 0 + n * Cmd.f c 44 15 0 * 16 : Nat) : Int)
def gsScatter (c : Cmd) : Bool := decide (Cmd.opcode c = 0x15)

def gsIllegal (c : Cmd) : Bool :=
  let bop := Cmd.f c 32 28 26
  Cmd.badHeader c || decide (Cmd.f c 24 31 20 ≠ 0) || decide (Cmd.f c 28 31 20 ≠ 0) || decide (Cmd.f c 32 31 29 ≠ 0)
    || decide (Cmd.f c 32 25 20 ≠ 0) || decide (Cmd.f c 46 143 0 ≠ 0) || decide (Cmd.f c 28 1 0 ≠ 0)
    || decide (Cmd.f c 36 31 0 % 16 ≠ 0) || decide (gsLen c % (gsFmt c).bytes ≠ 0)
    || (if gsScatter c then decide (2 < bop) else decide (bop ≠ 0))

/-- A bank operation on elements accepts the format (R227). -/
def bankOpFmt (f : Fmt) : Bool := decide (f = .fp32) || decide (f = .bf16) || decide (f = .int32)

/-- One iteration of a DM_GATHER or DM_SCATTER: none when a rule fails; padding of a gather is a local write of zeros. -/
def State.gsIter (s : State) (c : Nat) (cmd : Cmd) (n : Nat) : Option (List DmReq) :=
  if !(s.spdRange c (gsIdx cmd n) 4) then none
  else
    let i := sext 32 (s.winNat c (gsIdx cmd n).toNat 4)
    let lo := gsLocal cmd n
    let len := gsLen cmd
    let fc := Cmd.f cmd 32 19 16
    let bop := Cmd.f cmd 32 28 26
    let own : Int := ((0xFFFF * 2 ^ 48 + winBase c : Nat) : Int) + lo
    if i = -1 then
      if gsScatter cmd then some []
      else if decide (lo % 16 = 0) && s.ownRange c lo len then
        some [{ iter := n, isRead := false, typ := 1, far := own.toNat, loc := 0, len := len, bop := 0, fmt := fc, imm := 0, conv := none,
                data := List.replicate len 0 }]
      else none
    else if i < 0 ∨ (Cmd.f cmd 40 31 0 : Int) ≤ i then none
    else
      let far : Int := (Cmd.f cmd 16 63 0 : Int) + i * Cmd.f cmd 36 31 0
      if !(decide (lo < 0x100000)) then none
      else if gsScatter cmd then
        if bop ≠ 0 ∧ !(match gAddr far with
            | some f => s.inCoreWin f && !(s.ownAcb c f) && (bankOpFmt (gsFmt cmd) || !(s.isOwn c far))
            | none => false) then none
        else s.transfer c n (if bop = 0 then 1 else 2) bop 0 own far len fc fc false false
      else s.transfer c n 0 0 0 far own len fc fc false false

/-! ### DM_RACC and DM_MSU (R280, R281) -/

def raccIllegal (c : Cmd) : Bool :=
  let a := cpFmtS c
  Cmd.badHeader c || !(cpRsv c) || decide (cpBop c ≠ 0) || decide (cpFmtD c ≠ .fp32) || cpSr c || cpSat c
    || !(decide (a = .fp32) || decide (a = .bf16) || decide (a = .g8))
    || decide (cpLen c % (if a = Fmt.g8 then 32 else a.bytes) ≠ 0)
    || decide (if a = Fmt.g8 then 2 ^ 20 ≤ cpImm c else cpImm c ≠ 0)

def msuIllegal (c : Cmd) : Bool :=
  Cmd.badHeader c || !(cpRsv c) || decide (Cmd.f c 16 63 0 ≠ 0) || !(decide (cpBop c = 1) || decide (cpBop c = 2))
    || decide (cpFmtS c ≠ cpFmtD c) || !(decide (cpFmtD c = .fp32) || decide (cpFmtD c = .bf16)) || cpSr c || cpSat c
    || decide (cpLen c % (cpFmtD c).bytes ≠ 0)

/-- A module ID of a hub multicast group (R410). -/
def hubGroup (m : Nat) : Bool := decide (0x8000 ≤ m) && decide (m < 0x9000)

/-- A far address in HBM of this module or of a peer, the part programs may not address and the hole beyond included, which R774
refuses. -/
def hbmFar (a : Nat) : Bool := decide (gLoc a < 0x100000000000) && !(hubGroup (gMod a))

/-- One iteration of a DM_RACC: requests whose target stays in one 256-byte block; the scale of block `j` of the command at
SCL + j (R281). -/
def State.raccIter (s : State) (c : Nat) (cmd : Cmd) (n : Nat) : Option (List DmReq) :=
  let src := cpSrc cmd n
  let a := cpFmtS cmd
  let g8 := decide (a = Fmt.g8)
  let len := cpLen cmd
  let blks := len / 32
  let scl : Int := ((cpImm cmd + n * blks : Nat) : Int)
  match gAddr src, gAddr (cpDst cmd n) with
  | some fs, some fd =>
    if !(s.isOwn c src) || !(s.ownRange c (ownOff src) len) || decide (fs % 16 ≠ 0) || !(hbmFar fd)
        || decide (fd % (if g8 then 128 else 16) ≠ 0) || (g8 && !(s.spdRange c scl blks)) then none
    else
      let tl := len / a.bytes * 4
      some ((farCut fd tl).map (fun (o, k) =>
        let so := o / 4 * a.bytes
        { iter := n, isRead := false, typ := 2, far := fd + o, loc := 0, len := k, bop := 0, fmt := cpFmtSC cmd, imm := 0, conv := none,
          data := [], reads := (winOff (gLoc fs) + so, k / 4 * a.bytes) :: (if g8 then [(scl.toNat + so / 32, k / 128)] else []) }))
  | _, _ => none

/-- One iteration of a DM_MSU. -/
def msuIter (cmd : Cmd) (n : Nat) : Option (List DmReq) :=
  match gAddr (cpDst cmd n) with
  | some fd =>
    if !(hbmFar fd) || decide (fd % 16 ≠ 0) then none
    else some ((farCut fd (cpLen cmd)).map (fun (o, k) =>
      { iter := n, isRead := false, typ := 2, far := fd + o, loc := 0, len := k, bop := cpBop cmd, fmt := cpFmtDC cmd,
        imm := cpImm cmd, conv := none, data := [0] }))
  | none => none

/-! ### DM_STREAM (R291, R292) -/

def stWin (c : Cmd) : Nat := Cmd.f c 24 1 0
def stOff (c : Cmd) (n : Nat) : Int := (Cmd.f c 28 19 0 : Int) + 16 * Cmd.disp c n (fun l => Cmd.sf c (43 + 6 * l) 23 0)
/-- Destination bytes of one iteration. -/
def stBytes (c : Cmd) : Nat := cpLen c / (cpFmtS c).bytes * (cpFmtD c).bytes

def stIllegal (c : Cmd) : Bool :=
  copyIllegal c || decide (Cmd.f c 24 31 2 ≠ 0) || decide (Cmd.f c 28 31 20 ≠ 0) || decide (Cmd.f c 28 3 0 ≠ 0)

def State.fillsOf (s : State) (c w : Nat) : List Fill := lookD [] (s.core c).fills w
def State.setFills (s : State) (c w : Nat) (l : List Fill) : State :=
  s.modCore c (fun x => { x with fills := putD natLt [] x.fills w l })

/-- One iteration of a DM_STREAM into slot `slot` of window `w`: the destination lies wholly within the slot. -/
def State.streamIter (s : State) (c : Nat) (cmd : Cmd) (w slot n : Nat) : Option (List DmReq) :=
  let src := cpSrc cmd n
  let o := stOff cmd n
  let size := (s.get F.DM_STRM_CFG_SLOT_M1 c w + 1) * 64
  let base := s.get F.DM_STRM_CFG_BASE c w
  let at_ : Int := ((base + slot * size : Nat) : Int) + o
  match gAddr src with
  | some fs =>
    let okSrc := !(hubGroup (gMod fs)) && (match s.far (gLoc fs) with
      | .host => true
      | _ => decide (gLoc fs < 0x100000000000))
    if !okSrc || decide (o < 0) || decide ((size : Int) < o + stBytes cmd) || decide (base % 64 ≠ 0)
        || !(s.spdRange c at_ (stBytes cmd)) then none
    else s.transfer c n 0 0 0 src (((0xFFFF000000000000 + winBase c : Nat) : Int) + at_) (cpLen cmd)
      (cpFmtSC cmd) (cpFmtDC cmd) (cpSr cmd) (cpSat cmd)
  | none => none

/-! ### Beginning -/

/-- What a speculative task may not do (R536): an iteration that would write outside its cores and its windows, and the operations
at the MSUs. -/
def State.specIllegal (s : State) (c : Nat) (cmd : Cmd) : Bool :=
  match s.specTask c with
  | none => false
  | some t =>
    let any (f : Nat → Bool) : Bool := (List.range (Cmd.iters cmd)).any f
    match Cmd.opcode cmd with
    | 0x13 => any (fun n => s.specOut t (cpDst cmd n) (cpLen cmd / (cpFmtS cmd).bytes * (cpFmtD cmd).bytes))
    | 0x16 => any (fun n => s.specOut t (cpDst cmd n) (cpLen cmd))
    | 0x15 => any (fun n => match s.gsIter c cmd n with
      | some l => l.any (fun r => s.specOut t ((r.far : Nat) : Int) r.len)
      | none => false)
    | 0x18 => true
    | 0x19 => true
    | 0x1A => true
    | 0x1C => true
    | 0x1D => true
    | _ => false

/-- Beginning a data-mover command that issues requests: ILLEGAL at once when `bad`, else its iterations follow through
DM_ISSUE_REQUEST; `hw` is what its reads of an index list find. -/
def State.dmStart (s : State) (c op : Nat) (bad : Cmd → Bool) (hw : DmHw := .ok) : State :=
  s.dmBeginHead c op (fun p b q s =>
    if bad q.cmd || s.specIllegal c q.cmd then s.dmEndNow c p b q 3
    else (s.dmBegin c p b q (fun d => { d with nIter := Cmd.iters q.cmd, ecc := hw })).1)

/-- DM_COPY (R234). -/
def execDmCopy (core : Nat) (s : State) : Host.Outcome State Fault Refusal := .next (s.dmStart core 0x13 copyIllegal)

/-- DM_BANKOP (R236). -/
def execDmBankop (core : Nat) (s : State) : Host.Outcome State Fault Refusal := .next (s.dmStart core 0x16 bankopIllegal)

/-- DM_GATHER (R237). -/
def execDmGather (core : Nat) (hw : DmHw) (s : State) : Host.Outcome State Fault Refusal := .next (s.dmStart core 0x14 gsIllegal hw)

/-- DM_SCATTER (R237). -/
def execDmScatter (core : Nat) (hw : DmHw) (s : State) : Host.Outcome State Fault Refusal := .next (s.dmStart core 0x15 gsIllegal hw)

/-- DM_RACC (R280). -/
def execDmRacc (core : Nat) (s : State) : Host.Outcome State Fault Refusal := .next (s.dmStart core 0x18 raccIllegal)

/-- DM_MSU (R280). -/
def execDmMsu (core : Nat) (s : State) : Host.Outcome State Fault Refusal := .next (s.dmStart core 0x19 msuIllegal)

/-! DM_OPT (R282 to R284, R287) -/

def opProg (c : Cmd) : Nat := Cmd.f c 60 31 30
def opDesc (c : Cmd) : Nat := Cmd.f c 60 19 0
def opBytes (c : Cmd) : Nat := 256 * Cmd.f c 56 31 0
/-- The program uses V (R282), and writes C. -/
def opUsesV (c : Cmd) : Bool := decide (opProg c = 1) || decide (opProg c = 2)
def opCopy (c : Cmd) : Bool := decide (Cmd.f c 60 27 27 = 1)

/-- Bits of the pairs an array range touches are of one mode with those of W, and equal bit 30 in LOCAL pairs (R284). -/
def State.optPlace (s : State) (x w n : Nat) : Bool :=
  let granules := (List.range (n / 2 ^ 26 + 2)).map (fun k => min (k * 2 ^ 26) (n - 1))
  granules.all (fun k =>
    let px := s.pairLocal ((x + k) / 2 ^ 31)
    decide (px = s.pairLocal ((w + k) / 2 ^ 31)) && (!px || decide ((x + k) / 2 ^ 30 % 2 = (w + k) / 2 ^ 30 % 2)))

/-- The address lies on this module: module ID 0xFFFF or the module's own (R282). -/
def State.thisMod (s : State) (a : Nat) : Bool := decide (gMod a = 0xFFFF) || decide (gMod a = s.modId)

/-- One array of a DM_OPT lies in this module's HBM (R284); the pairs that programs may not address are refused later (R774). -/
def State.optRange (s : State) (a n : Nat) : Bool := s.thisMod a && decide (gLoc a + n ≤ hbmEnd)

def State.optArray (s : State) (a w n : Nat) : Bool :=
  s.optRange a n && decide (((gLoc a : Int) - gLoc w) % 2 ^ 26 = 0) && s.optPlace (gLoc a) (gLoc w) n

/-- The checks of R282 to R284 that the fields alone decide. -/
def optFieldsBad (cmd : Cmd) : Bool :=
  Cmd.badHeader cmd || decide (Cmd.iters cmd ≠ 1) || decide (Cmd.f cmd 16 63 0 % 256 ≠ 0) || decide (opBytes cmd = 0)
    || decide (Cmd.f cmd 60 26 20 ≠ 0) || (decide (Cmd.f cmd 60 28 28 = 1) && decide (opProg cmd ≠ 0))
    || decide (opDesc cmd % 64 ≠ 0)

/-- The arrays of a DM_OPT that its program uses, with their bytes. -/
def optArrays (cmd : Cmd) : List (Nat × Nat) :=
  [(Cmd.f cmd 16 63 0, opBytes cmd), (Cmd.f cmd 24 63 0, opBytes cmd), (Cmd.f cmd 40 63 0, opBytes cmd)]
    ++ (if opUsesV cmd then [(Cmd.f cmd 32 63 0, opBytes cmd)] else []) ++ (if opCopy cmd then [(Cmd.f cmd 48 63 0, opBytes cmd / 2)] else [])

/-- The first array that reaches into the pairs programs may not address (R774). -/
def optUnmapped (cmd : Cmd) : Option Nat := ((optArrays cmd).find? (fun a => decide (hbmProg < gLoc a.1 + a.2))).map Prod.fst

/-- The checks of R282 to R284. C is checked whether COPY is 1 or not: all address fields lie on this module, and every range, C
included, within HBM. -/
def State.optIllegal (s : State) (c : Nat) (cmd : Cmd) : Bool :=
  let w := Cmd.f cmd 16 63 0
  let n := opBytes cmd
  optFieldsBad cmd || !(s.spdRange c (opDesc cmd) 64)
    || decide (leNat ((s.readWin c (opDesc cmd) 64).drop 0x2C) ≠ 0)
    || decide (s.winNat c (opDesc cmd + 0x28) 4 / 2 ^ 20 ≠ 0)
    || !(s.optRange w n) || !(s.optArray (Cmd.f cmd 40 63 0) w n)
    || !(s.optArray (Cmd.f cmd 24 63 0) w n)
    || (opUsesV cmd && !(s.optArray (Cmd.f cmd 32 63 0) w n))
    || decide (Cmd.f cmd 48 63 0 % 128 ≠ 0) || !(s.optRange (Cmd.f cmd 48 63 0) (n / 2))
    || (decide (opProg cmd = 2) && (decide (s.winNat c (opDesc cmd + 0x28) 4 % 16 ≠ 0)
        || !(s.spdRange c (s.winNat c (opDesc cmd + 0x28) 4 % 2 ^ 20) 4096)))

/-- The request that carries a DM_OPT to MSU `m` (R287): the command's bytes and the descriptor. LAMB1's sums come back to
NORM + 16m (R286). -/
def optReq (cmd : Cmd) (desc : List Byte) (m : Nat) : DmReq :=
  { iter := 0, isRead := false, typ := 2, far := Cmd.f cmd 16 63 0, loc := leNat ((desc.drop 0x28).take 4) % 2 ^ 20 + 16 * m, len := 128, bop := 6, fmt := 9, imm := m, conv := none,
    data := leBytes 64 cmd.toNat ++ desc }

/-- The addresses of a DM_OPT under the staging windows' mapping (R535). -/
def State.optMapped (s : State) (c : Nat) (cmd : Cmd) : Cmd :=
  [16, 24, 32, 40, 48].foldl (fun cmd b =>
    let a := s.specAddr (s.core c).slot s.specCurs (Cmd.f cmd b 63 0)
    (cmd &&& ~~~((BitVec.ofNat 512 (2 ^ 64 - 1)) <<< (8 * b))) ||| ((BitVec.ofNat 512 a) <<< (8 * b))) cmd

/-- DM_OPT (R282): the descriptor is copied when the command begins, and every MSU is sent the command; `hw` is what the read of the
descriptor finds (R215). -/
def execDmOpt : UnitRead → State → Host.Outcome State Fault Refusal
  | ⟨core, hw⟩, s =>
    .next (s.beginHead core .dm (fun s k => decide (Cmd.opcode k = 0x1A)
        && (!(s.spdRange core (opDesc k) 64) || s.windowServes core .dm (s.core core).dmSince [(opDesc k, 64)])) (fun p b q s =>
      if s.optIllegal core q.cmd || s.specIllegal core q.cmd then s.dmEndNow core p b q 3
      else
        let (s, unc) := (s.windowTake core .dm (s.core core).dmSince [(opDesc q.cmd, 64)]).dmRead core [(opDesc q.cmd, 64)] hw
        if unc then s.dmEndNow core p b q 6
        else
          let desc := s.readWin core (opDesc q.cmd) 64
          (s.dmBegin core p b q (fun d => { d with gather := 1, reqs := (List.range 256).map (optReq (s.optMapped core q.cmd) desc) })).1))

/-- DM_STREAM (R291): the window is checked, its next slot is taken, and the counts of R292 are kept. -/
def execDmStream (core : Nat) (s : State) : Host.Outcome State Fault Refusal :=
  .next (s.dmBeginHead core 0x1B (fun p b q s =>
    let w := stWin q.cmd
    let slots := s.get F.DM_STRM_CFG_SLOTS core w
    let bad := stIllegal q.cmd || decide (s.get F.DM_STRM_CFG_EN core w = 0) || decide (slots < 2)
    let slot := s.get F.DM_STRM_CFG_NEXT core w
    let total := Cmd.iters q.cmd * stBytes q.cmd
    let (s, id) := s.dmBegin core p b q (fun d =>
      { d with nIter := Cmd.iters q.cmd, stream := some (w, slot, total) })
    if bad then (s.modDm core id (fun d => { d with status := 3, issuing := false })).dmSettle core
    else
      let old := s.fillsOf core w
      let dead := (old.filter (fun f => decide (f.slot = slot) && !f.consumed)).foldl (fun n f => n + f.bytes) 0
      let live := old.filter (fun f => !(decide (f.slot = slot)))
      let s := s.setFills core w (live ++ [{ slot := slot, bytes := total, consumed := false }])
      let s := s.bump F.DM_STRM_EVICTED_BYTES core dead w
      let s := s.bump F.DM_STRM_ISSUED_BYTES core total w
      let s := s.addw F.DM_STRM_CFG_FILLS core 1 w
      s.set F.DM_STRM_CFG_NEXT core ((slot + 1) % slots) w))

/-! STRM_WINDOW_ENABLE (R308) -/

/-- A write to DM_STRM_CFG_n: EN from 0 to 1 clears the counts, NEXT and FILLS; clearing EN evicts the fills not yet
consumed (R292). -/
def State.strmWrite (s : State) (m : Master) (c w : Nat) (v mask : Word) (addr : Nat) : State :=
  let was := s.get F.DM_STRM_CFG_EN c w
  let s := (s.lateSettle c).accWrite m ⟨.DM_STRM_CFG, c, w⟩ v mask addr
  let is_ := s.get F.DM_STRM_CFG_EN c w
  if was = 0 ∧ is_ = 1 then
    let s := (s.set F.DM_STRM_CFG_NEXT c 0 w).set F.DM_STRM_CFG_FILLS c 0 w
    let s := (s.set F.DM_STRM_ISSUED_BYTES c 0 w).set F.DM_STRM_CONSUMED_BYTES c 0 w
    ((s.set F.DM_STRM_EVICTED_BYTES c 0 w).set F.DM_STRM_LATE_ACLK c 0 w).setFills c w []
  else if was = 1 ∧ is_ = 0 then
    let dead := ((s.fillsOf c w).filter (fun f => !f.consumed)).foldl (fun n f => n + f.bytes) 0
    (s.bump F.DM_STRM_EVICTED_BYTES c dead w).setFills c w []
  else s

/-- STRM_WINDOW_ENABLE (R308): a write to DM_STRM_CFG_n. -/
def execStrmWindowEnable (m : Master) (core win : Nat) (v : Word) (s : State) : Host.Outcome State Fault Refusal :=
  .next (s.regCmd m .DM core (fun s => s.strmWrite m core (win % 4) v fullMask (0x4000 * core + 0xD00 + 0x40 * (win % 4))))

/-! ### Issue (R238, R774) -/

/-- The refusal of a request (R240): nothing more is issued, ITER is the first refused iteration, and the first refusal after
VALID was cleared is recorded. -/
def State.dmRefused (s : State) (c id iter reason far : Nat) : State :=
  let cmdId := match s.dmFind c id with
    | some d => Cmd.id d.q.cmd
    | none => 0
  let s := if s.get F.DM_REMOTE_INFO_VALID c = 1 then s
    else (s.wr ⟨.DM_REMOTE_ADDR, c, 0⟩ (BitVec.ofNat 64 far)).wr ⟨.DM_REMOTE_INFO, c, 0⟩
      (BitVec.ofNat 64 (2 ^ 31 + reason * 2 ^ 28 + cmdId))
  let s := s.dmFail c id 0xC iter
  s.modDm c id (fun d => if d.status = 0xC ∧ iter < d.iter then { d with iter := iter } else d)

/-- R774: a request that is refused before it is issued. -/
def State.unmapped (s : State) (a : Nat) : Bool :=
  let m := gMod a
  (decide (0x4000 ≤ m) && decide (m < 0x8000)) || (decide (0x9000 ≤ m) && decide (m < 0xFFFF))
    || ((decide (m = 0xFFFF) || decide (m = s.modId)) && (match s.far (gLoc a) with
      | .hole => true
      | .ctx => true
      | _ => false))

/-- The payload of a request: as given, or the bytes it reads in the own window, converted (R235), with the flags raised. -/
def State.reqData (s : State) (c cmdId : Nat) (r : DmReq) : List Byte × NumFlags :=
  match r.data.isEmpty, r.reads with
  | true, (off, n) :: _ =>
    match r.conv with
    | none => (s.readWin c off n, {})
    | some (a, b, sr, sat) => s.dmConvert c cmdId (Fmt.ofCode a) (Fmt.ofCode b) sr sat r.e0 (s.readWin c off n)
  | _, _ => (r.data, {})

/-- The request as it leaves: the scales of a G8 DM_RACC go with it (R281). -/
def State.reqImm (s : State) (c : Nat) (r : DmReq) : Nat :=
  match r.reads with
  | [_, (off, n)] => leNat (s.readWin c off n)
  | _ => r.imm

/-- The request stays in the own window. -/
def State.reqOwn (s : State) (c : Nat) (r : DmReq) : Bool := s.isOwn c r.far && !r.isRead && decide (r.typ ≠ 7) && decide (r.bop ≠ 6)

/-- Ranges of the own window that a request touches as it is issued: what it reads, and the target of a local write. -/
def State.reqRanges (s : State) (c : Nat) (r : DmReq) : List (Nat × Nat) :=
  r.reads ++ (if s.reqOwn c r && decide (r.bop = 0) then [(winOff (gLoc r.far), r.len)] else [])

/-- What a request reads in the own window as it is issued: its source, and the words that a local write covers only in part (R215). -/
def State.reqReads (s : State) (c : Nat) (r : DmReq) : List (Nat × Nat) :=
  r.reads ++ (if s.reqOwn c r && decide (r.bop = 0) then partWords (winOff (gLoc r.far)) r.len else [])

/-- Every bank that a request touches in the own window is ON and not retired (R222, R225). -/
def State.reqOn (s : State) (c : Nat) (r : DmReq) : Bool :=
  (s.reqRanges c r ++ (if s.reqOwn c r then [(winOff (gLoc r.far), r.len)] else [])).all (fun q => s.rangeOn c q.1 q.2)

/-- A transfer within the own window: no tag; a bank operation goes to the core's own bank (R238). -/
def State.dmLocal (s : State) (c : Nat) (d : DmCmd) (r : DmReq) : State :=
  let (bs, g) := s.reqData c (Cmd.id d.q.cmd) r
  let s := s.dmFlags c g
  let off := winOff (gLoc r.far)
  if r.bop = 0 then s.writeWin c off bs
  else
    let pieces := if r.bop = 5 then [(0, r.len)] else farCut off r.len
    pieces.foldl (fun s (o, k) =>
      let ret := if r.bop = 4 then some r.loc else none
      let a : BankAcc := ⟨.dm, false, r.bop, r.fmt, off + o, k, r.imm, 1, (bs.drop o).take k, s.now, .dm d.id r.iter ret, 0⟩
      let a := if r.bop = 5 then { a with data := bs } else a
      (s.modDm c d.id (fun d => { d with open_ := d.open_ + 1 })).bankPush c a) s

/-- The lowest free tag of a core's data mover. -/
def CoreSt.freeTag (x : CoreSt) : Option Nat := (List.range 512).find? (fun t => !(x.dmTags.any (fun g => decide (g.tag = t))))

/-- The packet of a request. -/
def reqPacket (c tag : Nat) (r : DmReq) (payload : List Byte) (group : Bool) : Packet :=
  { typ := if group && decide (r.typ = 1) then 8 else r.typ, vc := vcOf (if group && decide (r.typ = 1) then 8 else r.typ), dnode := 0,
    snode := clusterOf c, src := c, tag := tag, len := r.len, bop := r.bop, fmt := r.fmt, mod := gMod r.far, addr := gLoc r.far,
    rtag := r.rtag, imm := r.imm, payload := payload, sdie := dieOf c, red := r.red }

/-- Sending a request's packet: an optimizer command goes to the memory port that serves its MSU. -/
def State.dmSend (s : State) (c : Nat) (p : Packet) : State :=
  let cl := clusterOf c
  if p.typ = 2 ∧ p.bop = 6 then
    let st := p.imm / 32
    let d := if st / 4 ≠ dieOf c then 0x50 + cl % 8 else if st % 4 < 2 then 0x30 + cl / 8 else 0x36 + cl / 8
    s.inject (nodeKey (dieOf c) cl) { p with dnode := d }
  else s.sendFrom (dieOf c) cl p

/-- A far address that names a die multicast group of this module (R324). -/
def State.isGroup (s : State) (a : Nat) : Bool :=
  s.ownMod (gMod a) && (match s.far (gLoc a) with
    | .group _ _ => true
    | _ => false)

/-- The request is refused before it is issued (R535, R774): the address it names. -/
def State.reqUnmapped (s : State) (d : DmCmd) (r : DmReq) : Option Nat :=
  if r.bop = 6 then optUnmapped d.q.cmd
  else if s.unmapped r.far || s.specR1 r.far then some r.far else none

/-- The next request of a begun command reads the own window (R215): what is uncorrectable ends the command. -/
def State.dmReadReq (s : State) (c : Nat) (d : DmCmd) (r : DmReq) (hw : MemHw) (since : Nat) : State × Bool :=
  let (s, unc) := (s.windowTake c .dm since (s.reqRanges c r)).dmRead c (s.reqReads c r) hw
  (if unc then s.dmFail c d.id 6 r.iter else s, unc)

/-- Issuing the next request of a begun command: within the own window, refused (R774), held for want of a tag (R238), or sent. `hw` is
what its reads find; `since` is when it first presented them. -/
def State.dmIssue (s : State) (c : Nat) (d : DmCmd) (r : DmReq) (hw : MemHw) (since : Nat) : State :=
  let rest (s : State) : State := s.modDm c d.id (fun d => { d with reqs := d.reqs.drop 1 })
  if !(s.reqOn c r) then (s.dmRefuseBank c ((r.reads ++ [(winOff (gLoc r.far), r.len)]).map (fun q => ((q.1 : Int), q.2)))).dmFail c d.id 3 r.iter
  else if s.reqOwn c r then
    match s.dmReadReq c d r hw since with
    | (s, true) => s
    | (s, false) => (rest s).dmLocal c d r
  else
    match s.reqUnmapped d r, (s.core c).freeTag with
    | some a, _ => s.dmRefused c d.id r.iter rUNMAPPED a
    | none, none =>
      if (s.core c).tagStall then s
      else ((s.flag F.DM_EVT_TAG_STALL c).bump F.DM_STALL_CNT_COUNT c).modCore c (fun x => { x with tagStall := true })
    | none, some t =>
      match s.dmReadReq c d r hw since with
      | (s, true) => s
      | (s, false) =>
        let (bs, fl) : List Byte × NumFlags := if r.isRead then ([], {}) else s.reqData c (Cmd.id d.q.cmd) r
        let s := (rest s).dmFlags c fl
        let s := s.modDm c d.id (fun d => { d with open_ := d.open_ + 1 })
        let r' := { r with data := bs, imm := s.reqImm c r, far := s.specAddr (s.core c).slot d.spec r.far, reads := [] }
        let g : TagSt := { tag := t, cmd := d.id, req := r' }
        let s := s.modCore c (fun x => { x with dmTags := x.dmTags ++ [g], tagStall := false })
        let s := s.set F.DM_TAGS_HIGH_WATER c (max (s.get F.DM_TAGS_HIGH_WATER c) (s.core c).dmTags.length)
        (s.dmSend c (reqPacket c t r' bs (s.isGroup r'.far))).pmon .DM c 0x55 0 1

/-- The requests of iteration `n` of a begun command; none when a rule fails. -/
def State.dmExpand (s : State) (c : Nat) (d : DmCmd) (n : Nat) : Option (List DmReq) :=
  let cmd := d.q.cmd
  match Cmd.opcode cmd with
  | 0x13 => s.transfer c n 1 0 0 (cpSrc cmd n) (cpDst cmd n) (cpLen cmd) (cpFmtSC cmd) (cpFmtDC cmd) (cpSr cmd) (cpSat cmd)
  | 0x16 => s.bankopIter c cmd n
  | 0x14 => s.gsIter c cmd n
  | 0x15 => s.gsIter c cmd n
  | 0x18 => s.raccIter c cmd n
  | 0x19 => msuIter cmd n
  | 0x1B => match d.stream with
    | some (w, slot, _) => s.streamIter c cmd w slot n
    | none => none
  | _ => some []

/-- Ranges of the own window that iteration `n` names: a bank among them that cannot serve sets REFUSED (R247). -/
def State.iterRanges (s : State) (c : Nat) (d : DmCmd) (n : Nat) : List (Int × Nat) :=
  let cmd := d.q.cmd
  let own (a : Int) (k : Nat) : List (Int × Nat) := if s.isOwn c a then [(ownOff a, k)] else []
  match Cmd.opcode cmd with
  | 0x14 => [(gsIdx cmd n, 4), (gsLocal cmd n, gsLen cmd)]
  | 0x15 => [(gsIdx cmd n, 4), (gsLocal cmd n, gsLen cmd)]
  | 0x1B => match d.stream with
    | some (w, slot, _) =>
      [(((s.get F.DM_STRM_CFG_BASE c w + slot * ((s.get F.DM_STRM_CFG_SLOT_M1 c w + 1) * 64) : Nat) : Int) + stOff cmd n, stBytes cmd)]
    | none => []
  | 0x19 => []
  | _ => own (cpSrc cmd n) (cpLen cmd) ++ own (cpDst cmd n) (cpLen cmd / (cpFmtS cmd).bytes * (cpFmtD cmd).bytes)

/-- The begun command whose requests are next: tile loads gather on their own. -/
def State.dmIssuing (s : State) (c : Nat) : Option DmCmd :=
  (s.core c).dmCmds.find? (fun d => d.issuing && decide (Cmd.opcode d.q.cmd ≠ 0x10) && decide (Cmd.opcode d.q.cmd ≠ 0x1D))

/-- The command has nothing left to issue once its iterations and requests are used up. -/
def State.dmIssuedAll (s : State) (c id : Nat) : State :=
  (s.modDm c id (fun d => if d.reqs.isEmpty && decide (d.nIter ≤ d.gather) then { d with issuing := false } else d)).dmSettle c

/-- The index that iteration `gather` of a DM_GATHER or DM_SCATTER reads. -/
def State.idxRange (s : State) (c : Nat) (d : DmCmd) : List (Nat × Nat) :=
  let i := gsIdx d.q.cmd d.gather
  if (decide (Cmd.opcode d.q.cmd = 0x14) || decide (Cmd.opcode d.q.cmd = 0x15)) && s.spdRange c i 4 then [(i.toNat, 4)] else []

/-- The next request is issued once the banks of the own window serve what it touches (R218, R229, R230). -/
def State.dmIssueNext (s : State) (c : Nat) (d : DmCmd) (r : DmReq) (hw : MemHw) (since : Nat) : Option State :=
  if s.reqOn c r && !(s.windowServes c .dm since (s.reqRanges c r)) then none else some ((s.dmIssue c d r hw since).dmIssuedAll c d.id)

/-- The next iteration of a begun command: its index read, its rules (R235), its first request. None while the banks do not serve its
index read. -/
def State.dmIterate (s : State) (c : Nat) (d : DmCmd) (hw : MemHw) (since : Nat) : Option State :=
  let idx := s.idxRange c d
  if !(s.windowServes c .dm since idx) then none
  else
    let (s, bad) := (s.windowTake c .dm since idx).dmRead c idx (dmHwAt d.ecc d.gather)
    if bad then some ((s.dmFail c d.id 6 d.gather).dmSettle c)
    else
      match s.dmExpand c d d.gather with
      | none => some (((s.dmRefuseBank c (s.iterRanges c d d.gather)).dmFail c d.id 3 d.gather).dmSettle c)
      | some l =>
        let s := s.modDm c d.id (fun d => { d with reqs := l, gather := d.gather + 1 })
        match l with
        | r :: _ => some ((s.dmIssueNext c { d with reqs := l } r hw since).getD s)
        | [] => some (s.dmIssuedAll c d.id)

/-- DM_ISSUE_REQUEST (R238, R239): the next request of the command that is issuing, at most one per ACLK; an iteration that
fails a rule ends the command with ILLEGAL (R235); `hw` is what its reads of the own window find (R215). While the task is switched
out, the iteration that has begun is finished (R241). -/
def execDmIssueRequest : UnitRead → State → Host.Outcome State Fault Refusal
  | ⟨core, hw⟩, s =>
    match s.dmIssuing core with
    | none => .next s
    | some d =>
      let since := max (s.core core).issueAt (((s.core core).eng .dm).lastEntry + (if d.gather = 0 then 0 else 1))
      let t := max s.now since
      let s' := s.at_ t
      match s'.dmIssuing core with
      | none => .next s
      | some d =>
        if !(s'.running core || (s'.stopping core && !d.reqs.isEmpty)) then .next s
        else
          let s' := s'.setEntry core .dm t
          match d.reqs with
          | r :: _ => .next ((s'.dmIssueNext core d r hw since).getD s)
          | [] => .next ((s'.dmIterate core d hw since).getD s)

/-! ### Answers (R240, R268) -/

/-- An answer arrives for a tag of a core's data mover. -/
def State.dmAnswer (s : State) (c tag status reason : Nat) (data : List Byte) : State :=
  s.modCore c (fun x => { x with dmTags := x.dmTags.map (fun g =>
    if g.tag = tag then { g with answered := some (status, reason, data), parked := false, at_ := s.now } else g) })

/-- The place and the bytes that an answer writes in the own window, converted (R235), with the flags raised. -/
def State.dmLanding (s : State) (c cmdId : Nat) (r : DmReq) (data : List Byte) : Option (List Byte × NumFlags) :=
  if r.bop = 4 ∨ r.bop = 6 then some (data, {})
  else if r.isRead then
    match r.conv with
    | none => some (data, {})
    | some (a, b, sr, sat) => some (s.dmConvert c cmdId (Fmt.ofCode a) (Fmt.ofCode b) sr sat r.e0 data)
  else none

/-- An answer's data is written to the own window: a bank that cannot serve refuses it (R222), and an uncorrectable error under a word
written in part ends the command (R215). -/
def State.dmLand (s : State) (c : Nat) (d : DmCmd) (r : DmReq) (bs : List Byte) (g : NumFlags) (hw : MemHw) (since : Nat) : State :=
  if !(s.rangeOn c r.loc bs.length) then (s.dmRefuseBank c [((r.loc : Int), bs.length)]).dmFail c d.id 3 r.iter
  else
    let (s, unc) := (s.windowTake c .dm since [(r.loc, bs.length)]).dmRead c (partWords r.loc bs.length) hw
    if unc then s.dmFail c d.id 6 r.iter else (s.dmFlags c g).writeWin c r.loc bs

/-- A tag is free again: issue that stopped for want of one resumes in the ACLK after (R238). -/
def State.dmTagBack (s : State) (c tag : Nat) : State :=
  s.modCore c (fun x => { x with
    dmTags := x.dmTags.filter (fun h => decide (h.tag ≠ tag)), issueAt := if x.tagStall then s.now + 1 else x.issueAt
    tagStall := false })

/-- DM_RESPONSE (R240): the oldest answer that has returned frees its tag and has its effect, once the banks serve what it writes; `hw` is
what the reads of words it writes in part find. -/
def execDmResponse : UnitRead → State → Host.Outcome State Fault Refusal
  | ⟨core, hw⟩, s =>
    match (s.core core).dmTags.find? (fun g => g.answered.isSome) with
    | none => .next s
    | some g =>
      match s.dmFind core g.cmd, g.answered with
      | some d, some (status, reason, data) =>
        let close (s : State) : State := ((s.dmTagBack core g.tag).modDm core d.id (fun d => { d with open_ := d.open_ - 1 })).dmSettle core
        if (s.core core).abort.isSome then .next (close s)
        else if reason ≠ 0 then .next (close (s.dmRefused core d.id g.req.iter reason g.req.far))
        else if status ≠ 0 then .next (close (s.dmFail core d.id status g.req.iter))
        else
          match s.dmLanding core (Cmd.id d.q.cmd) g.req data with
          | none => .next (close s)
          | some (bs, fl) =>
            if s.rangeOn core g.req.loc bs.length && !(s.windowServes core .dm g.at_ [(g.req.loc, bs.length)]) then .next s
            else .next (close (s.dmLand core d g.req bs fl hw g.at_))
      | _, _ => .next (s.dmTagBack core g.tag)

end Sys2Proof.Machine
end

