-- ==== Sys2Proof/Machine/RedChan.lean ====
section
/-! DEFINITION. Reduction channels as the memory-side units see them (R447 to R459): which packets they accept, the scale store, decoding and
adding, the slots of staged contributions. -/

namespace Sys2Proof.Machine

open Sys2Proof

/-! ### Reduction channels as an MSU sees them (R448 to R451) -/

/-- The channel is open and not faulted. -/
def State.rchOpen (s : State) (c : Nat) : Bool := decide (s.get F.MSU_RCH_CFG_VALID 0 c = 1) && !(s.rchFault.contains c)

/-- Local address of the region's base, and the number of target blocks. -/
def State.rchBase (s : State) (c : Nat) : Nat := s.get F.MSU_RCH_TGT_BASE 0 c * 2 ^ 17
def State.rchBlks (s : State) (c : Nat) : Nat := s.get F.MSU_RCH_TGT_NBLK_M1 0 c + 1
def State.rchStg (s : State) (c : Nat) : Nat := s.get F.MSU_RCH_AUX_STG 0 c * 2 ^ 17
def State.rchSrcs (s : State) (c : Nat) : Nat := s.get F.MSU_RCH_CFG_NSRC_M1 0 c + 1
def State.rchStep (s : State) (c : Nat) : Nat := s.get F.MSU_RCH_STEP_STEP 0 c
def State.rchWfmt (s : State) (c : Nat) : Nat := s.get F.MSU_RCH_CFG_WFMT 0 c

/-- A step of a channel with sparse `k` and flush period is dense (R451). -/
def denseStep (k flushM1 step : Nat) : Bool := decide (k = 0) || decide (step % (flushM1 + 1) = flushM1)
def State.rchDense (s : State) (c : Nat) : Bool :=
  denseStep (s.get F.MSU_RCH_CFG_K 0 c) (s.get F.MSU_RCH_CFG_FLUSH_M1 0 c) (s.rchStep c)

/-- Format code of a wire format (R447, R476). -/
def wfmtCode : Nat → Nat
  | 0 => 14 | 1 => 7 | _ => 9

/-- Payload bytes of one target block (R451). -/
def wireBytes (wfmt : Nat) (dense : Bool) (k : Nat) : Nat :=
  match wfmt with
  | 0 => if dense then 32 else 4 + k
  | 1 => 64
  | _ => 128
def State.rchP (s : State) (c : Nat) : Nat := wireBytes (s.rchWfmt c) (s.rchDense c) (s.get F.MSU_RCH_CFG_K 0 c)

/-- Fields of a reduction packet (R450). -/
def redChan (p : Packet) : Nat := bitsOf p.red 37 28
def redStep8 (p : Packet) : Nat := bitsOf p.red 27 20
def redSrc (p : Packet) : Nat := bitsOf p.red 19 8
def redSatn (p : Packet) : Nat := bitsOf p.red 7 2

/-- Bits set in the low `n` bits of a number. -/
def popcount : Nat → Nat → Nat
  | 0, _ => 0
  | n + 1, v => v % 2 + popcount n (v / 2)

/-- Payload of target block `i` of a packet. -/
def redPart (pb : Nat) (p : Packet) (i : Nat) : List Byte := (p.payload.drop (i * pb)).take pb

/-- The kinds of refusal of R456. -/
inductive RedBad where
  | closed | early | stale | form
  deriving DecidableEq, Repr

/-- Why a reduction packet is refused (R456). -/
def State.redBad (s : State) (p : Packet) : Option RedBad :=
  let c := redChan p
  let pb := s.rchP c
  let n := p.payload.length / pb
  let d := (redStep8 p + 256 - s.rchStep c % 256) % 256
  if !(s.rchOpen c) then some .closed
  else if d ≠ 0 then some (if d < 128 then .early else .stale)
  else if p.addr < s.rchBase c ∨ s.rchBase c + 128 * s.rchBlks c ≤ p.addr then some .closed
  else if p.payload.length % pb ≠ 0 ∨ n = 0 ∨ 2 < n ∨ p.fmt ≠ wfmtCode (s.rchWfmt c) ∨ p.bop ≠ 1 ∨ p.addr % 128 ≠ 0
      ∨ 256 < p.addr % 256 + 128 * n then some .form
  else if s.rchBase c + 128 * s.rchBlks c < p.addr + 128 * n then some .closed
  else if decide (s.rchWfmt c = 0) && !(s.rchDense c)
      && (List.range n).any (fun i => decide (popcount 32 (leNat ((redPart pb p i).take 4)) ≠ s.get F.MSU_RCH_CFG_K 0 c)) then some .form
  else none

/-- Index of a target block's entry in its MSU's scale store (R449). -/
def State.scaleIx (s : State) (c a : Nat) : Nat :=
  let h := s.hbmPlace a
  s.get F.MSU_RCH_AUX_SBASE 0 c + 4 * (h.offset / 256 - (s.hbmPlace (s.rchBase c)).offset / 256) + 2 * h.pseudo + a / 128 % 2

/-- X and PEAK of a target block. -/
def State.scaleOf (s : State) (c a : Nat) : Nat × Nat :=
  let v := lookD 0 (s.msu (s.hbmPlace a).msu).scale (s.scaleIx c a)
  (v % 256, v / 256)
def State.setScale (s : State) (c a x peak : Nat) : State :=
  let m := (s.hbmPlace a).msu
  let k := s.msu m
  s.setMsu m { k with scale := putD natLt 0 k.scale (s.scaleIx c a) (x + 256 * peak) }

/-- The elements a block's payload carries: element index and wire code; an element that was not sent is absent. -/
def redElems (wfmt : Nat) (dense : Bool) (bs : List Byte) : List (Nat × Nat) :=
  match wfmt with
  | 0 =>
    if dense then (bs.zipIdx).map (fun (b, k) => (k, b.toNat))
    else
      let mask := leNat (bs.take 4)
      let ix := (List.range 32).filter (fun k => bitOf mask k)
      ix.zip ((bs.drop 4).map (·.toNat))
  | 1 => (elems 2 bs 32).zipIdx.map (fun (x, k) => (k, x))
  | _ => (elems 4 bs 32).zipIdx.map (fun (x, k) => (k, x))

/-- A wire element as FP32: G8 under scale `x` (R77), BF16 widened exactly. -/
def redValue (wfmt x code : Nat) : Conv :=
  match wfmt with
  | 0 => g8Decode x code
  | 1 => { code := code * 2 ^ 16, nan := (fmtBF16.decode code).isNan, inf := (fmtBF16.decode code).isInf }
  | _ => { code := code, nan := (fp32 code).isNan, inf := (fp32 code).isInf }

/-- Largest FP32 exponent field of a block's non-zero, non-NaN decoded elements (R458). -/
def redPeak (vs : List Conv) (peak : Nat) : Nat :=
  vs.foldl (fun m v => if v.nan || decide (v.code % 2 ^ 31 = 0) then m else max m (v.code / 2 ^ 23 % 256)) peak

/-- The log of the first decoded NaN (R472). -/
def State.rchNan (s : State) (c src blk elem smod : Nat) : State :=
  let s := (s.flag F.MSU_RCH_EVT_NAN 0).bump F.MSU_RCH_CNT_NAN 0 1 c
  if s.get F.MSU_RCH_NAN_LOG_VALID 0 = 1 then s
  else s.wr ⟨.MSU_RCH_NAN_LOG, 0, 0⟩ (BitVec.ofNat 64
    (2 ^ 63 + c * 2 ^ 53 + src * 2 ^ 41 + blk % 2 ^ 20 * 2 ^ 21 + elem * 2 ^ 16 + smod))

/-- Adding one block's payload to 32 FP32 values (R457, R458): the new values, the elements that the payload carries, and those whose G8
decode is not finite (R77), with the channel's records kept and the flags of the decode set. `a` is the address of the target
block. -/
def State.redAdd (s : State) (c a src smod : Nat) (bs : List Byte) (dense : Bool) (old : List Nat) :
    State × List Nat × List Nat × List Nat :=
  let wf := s.rchWfmt c
  let (x, peak) := s.scaleOf c a
  let m := (s.hbmPlace a).msu
  let els := (redElems wf dense bs).map (fun (k, g) => (k, g, redValue wf x g))
  let blk := (a - s.rchBase c) / 128
  let new := els.foldl (fun l (k, _, v) => l.set k (fp32Add (l.getD k 0) v.code)) old
  let touched := els.map (fun e => e.1)
  if wf = 0 then
    let s := s.setScale c a x (redPeak (els.map (fun e => e.2.2)) peak)
    let s := els.foldl (fun s (_, g, _) => if g = 0xFF then (s.flag F.MSU_RCH_EVT_FMT 0).bump F.MSU_RCH_CNT_FMT 0 1 c else s) s
    let s := els.foldl (fun s (k, _, v) => if v.nan then s.rchNan c src blk k smod else s) s
    let s := s.flagIf (els.any (fun e => decide (e.2.1 = 0xFF))) F.MSU_EVT_G8_FMT m
    let s := s.flagIf (els.any (fun e => e.2.2.nan)) F.MSU_EVT_NAN m
    (s.flagIf (els.any (fun e => e.2.2.inf)) F.MSU_EVT_INF m, new, touched, (els.filter (fun e => e.2.2.nan || e.2.2.inf)).map (fun e => e.1))
  else (s, new, touched, [])

/-- Flags of the results written to the touched elements of an FP32 block, and how many elements count as non-finite beside the decodes
`dec` already counted (R77, R275, R307). -/
def State.redFlags (s : State) (m : Nat) (new touched dec : List Nat) : State × Nat :=
  let res := touched.eraseDups.map (fun k => (k, fp32 (new.getD k 0)))
  let s := s.flagIf (res.any (fun r => r.2.isNan)) F.MSU_EVT_NAN m
  let s := s.flagIf (res.any (fun r => r.2.isInf)) F.MSU_EVT_INF m
  (s, dec.length + (res.filter (fun r => !r.2.isFinite && !(dec.contains r.1))).length)

/-- Bytes a channel has landed at an MSU, kept until its next report (R460). -/
def State.msuLanded (s : State) (m c n : Nat) : State :=
  let k := s.msu m
  s.setMsu m { k with landed := putD natLt 0 k.landed c (lookD 0 k.landed c + n) }

/-- Slot address of a source's contribution to target block `a` (R459). -/
def State.stgSlot (s : State) (c src a : Nat) : Nat :=
  let z := match s.rchWfmt c with
    | 0 => 64 | 1 => 128 | _ => 256
  let off := a - s.rchBase c
  s.rchStg c + src * z / 256 * 2 ^ 26 + off / 256 * 256 + src * z % 256 + off / 128 % 2 * (z / 2)


end Sys2Proof.Machine
end

