-- ==== Sys2Proof/Machine/Hbm.lean ====
section
/-! DEFINITION. HBM controllers (R258 to R274, R297 to R304): banks, wait lists and reservations, reads and writes, error
correction, the scrub, pair modes; and how the MSUs accept operations (R276). -/

namespace Sys2Proof.Machine

open Sys2Proof

/-- The requester of R267: a core's data mover, or the hub (2048). -/
def reqOf (p : Packet) : Nat := if 2048 ≤ p.src then 2048 else p.src

/-- Key of the optimizer queue of an MSU, which takes the place of a bank (R287). -/
def optKey (m : Nat) : Nat := 0x8000 + m

/-- 512 MCLK in ACLK (R14, R269): 1,900 ACLK pass while 1,267 MCLK pass. -/
def resvTime : Nat := 768

/-- A line of a range holds an uncorrectable error (R273). -/
def State.badLine (s : State) (a n : Nat) : Option Nat := (linesOf a n).find? (fun l => s.bad.contains (s.lineKey l))

/-- The first uncorrectable error after VALID was cleared (R302). -/
def State.hbmLog (s : State) (stack kind pc line src : Nat) : State :=
  if s.get F.HBMC_ECC_LOG_VALID stack = 1 then s
  else s.wr ⟨.HBMC_ECC_LOG, stack, 0⟩ (BitVec.ofNat 64 (2 ^ 63 + kind * 2 ^ 61 + pc * 2 ^ 52 + line * 2 ^ 28
    + (if 2048 ≤ src then 2 ^ 11 else src)))

/-- An uncorrectable error at a line (R273, R274): the line stays bad until a write of all its bytes. `kind` is 0 for a request, 1 for the
scrub, 2 for an MSU (R302). -/
def State.hbmUnc (s : State) (stack kind key src : Nat) : State :=
  let s := if s.bad.contains key then s else { s with bad := key :: s.bad }
  let s := s.hbmLog stack kind (key / 2 ^ 24) (key % 2 ^ 24) src
  let s := if kind = 1 then s.flag F.HBMC_EVT_SCRUB_UE stack else s.flag F.HBMC_EVT_ECC stack
  s.logHw 2 .HBMC (if kind = 1 then 3 else 1) stack (leBytes 8 (s.rd ⟨.HBMC_ECC_LOG, stack, 0⟩).toNat)

/-- A corrected read (R273). -/
def State.hbmCorr (s : State) (stack : Nat) : State :=
  ((s.flag F.HBMC_EVT_ECC_CORR stack).bump F.HBMC_ECC_CNT_COUNT stack).corrected .HBMC 0 stack

/-! ### Banks (R267 to R269) -/

/-- Requests of a bank, or of an optimizer queue, accepted and not yet answered. -/
def State.bankHeld (s : State) (key : Nat) : Nat :=
  if 0x8000 ≤ key then (s.msu (key - 0x8000)).opts.length
  else
    (s.hbmBank key).waiting.length
      + ((s.msu (key / 128)).ops.filter (fun o => decide ((s.hbmPlace o.base).key = key))).length

def bankPlaces (key : Nat) : Nat := if 0x8000 ≤ key then 16 else 64

/-- The longest wait list of a stack (R304). -/
def State.parkNote (s : State) (stack : Nat) (n : Nat) : State :=
  s.set F.HBMC_PARK_HIGH_WATER stack (max (s.get F.HBMC_PARK_HIGH_WATER stack) n)

/-- Stack of a bank key or an optimizer queue's key. -/
def keyStack (key : Nat) : Nat := if 0x8000 ≤ key then (key - 0x8000) / 32 else key / 4096

/-- A RESUME message over the control network, kept with the deliveries of the requester's node (R269). -/
def State.sendResume (s : State) (who key : Nat) : State :=
  let p : Packet := { typ := 10, vc := 3, dnode := 0, snode := 0, src := who, tag := key, len := 1 }
  s.deliver (if who = 2048 then hubKey else nodeKey (dieOf who) (clusterOf who)) p

/-- A freed place is reserved for the head of the wait list that holds no reservation yet, and RESUME is sent (R269). -/
def State.freedPlace (s : State) (key : Nat) : State :=
  let k := s.hbmBank key
  if s.bankHeld key + k.resv.length < bankPlaces key then
    match k.waitList.find? (fun w => !(k.resv.any (fun r => decide (r.1 = w)))) with
    | some w => ((s.pmon .HBMC (keyStack key) 0x72 0 1).setHbmBank key { k with resv := k.resv ++ [(w, s.now + resvTime)] }).sendResume w key
    | none => s
  else s

/-- A request meets a full bank (R267): BANK_FULL to the requester, its place in the wait list, the event. -/
def State.bankFullAnswer (s : State) (key : Nat) (r : HbmReq) : State :=
  let k := s.hbmBank key
  let w := reqOf r.p
  let l := if k.waitList.contains w then k.waitList else k.waitList ++ [w]
  let s := s.setHbmBank key { k with waitList := l }
  let st := keyStack key
  (((s.pmon .HBMC st 0x71 0 1).flag F.HBMC_EVT_BANK_FULL st).parkNote st l.length).answer (r.place / 256) (r.place % 256) { r.p with rtag := key } 6 0 0 []

/-- The answer to a served request. -/
def State.hbmAnswer (s : State) (r : HbmReq) (typ status : Nat) (data : List Byte) : State :=
  s.answer (r.place / 256) (r.place % 256) r.p typ status 0 data

/-! ### Reads and their errors (R273) -/

/-- Lines that PERT_ECC has corrupted among ranges of HBM, with whether two symbols are wrong. -/
def State.hbmTags (s : State) (rs : List (Nat × Nat)) : List (Nat × Bool) :=
  (s.inj.filter (fun t => decide (t.unit = 4) && rs.any (fun r => decide (t.line < r.1 + r.2) && decide (r.1 < t.line + 64)))).map
    (fun t => (t.line, t.double))

/-- Corrected data is written back: the tags of those lines end (R273, R274). -/
def State.hbmMend (s : State) (ls : List Nat) : State :=
  { s with inj := s.inj.filter (fun t => !(decide (t.unit = 4) && !t.double && ls.contains t.line)) }

/-- The controller of a stack reads ranges (R273): every error is corrected, counted and written back, or recorded; `hw` is what the
hardware finds at `at_`. Answers whether a line was uncorrectable. -/
def State.hbmRead (s : State) (stack kind src : Nat) (rs : List (Nat × Nat)) (hw : MemHw) (at_ : Nat) : State × Bool :=
  let tags := s.hbmTags rs
  let hw := if rs.isEmpty then .ok else hw
  let s := tags.foldl (fun s l =>
    s.injStep (some l.2) (fun s => if l.2 then s.hbmUnc stack kind (s.lineKey l.1) src else s.hbmCorr stack)) s
  let s := s.hbmMend (tags.map Prod.fst)
  let s := match hw with
    | .ok => s
    | .corr => s.hbmCorr stack
    | .unc => s.hbmUnc stack kind (s.lineKey (at_ / 64 * 64)) src
  let failed := decide (hw = .unc) || tags.any Prod.snd
  match (if failed then none else rs.findSome? (fun r => s.badLine r.1 r.2)) with
  | some l => (s.hbmUnc stack kind (s.lineKey l) src, true)
  | none => (s, failed)

/-- Lines that a write covers only in part: the controller reads them first (R273). -/
def partLines (a n : Nat) : List (Nat × Nat) :=
  ((linesOf a n).filter (fun l => !(decide (a ≤ l) && decide (l + 64 ≤ a + n)))).map (fun l => (l, 64))

/-- A write of HBM bytes for a request: refused by a line written in part that cannot be corrected. -/
def State.hbmWrite (s : State) (src a : Nat) (bs : List Byte) (hw : MemHw) : State × Bool :=
  let (s, unc) := s.hbmRead (s.hbmPlace a).stack 0 src (partLines a bs.length) hw a
  if unc then (s, true) else (s.writeMem a bs, false)

/-! ### Service -/

/-- Address that a request is served at: its own, or a staging slot (R459). -/
def HbmReq.addr (r : HbmReq) : Nat := r.stg.getD r.p.addr

/-- The staging write of a reduction packet in fixed-order mode (R459, R460). -/
def State.stgServe (s : State) (r : HbmReq) (hw : MemHw) : State :=
  let p := r.p
  let c := redChan p
  let pb := s.rchP c
  let n := p.payload.length / pb
  let s := s.pmon .MSU 256 0x82 0 n
  let (s, bad) := (List.range n).foldl (fun (a : State × Bool) i =>
    let (t, bad) := a.1.hbmWrite p.src (a.1.stgSlot c (redSrc p) (p.addr + 128 * i)) (redPart pb p i) (if i = 0 then hw else .ok)
    (t, a.2 || bad)) (s, false)
  if bad then s.hbmAnswer r 4 6 []
  else (s.msuLanded (s.hbmPlace p.addr).msu c (p.payload.length * p.count)).hbmAnswer r 4 0 []

/-- Serving a read or write of one block at once (R271, R273). -/
def State.hbmServe (s : State) (r : HbmReq) (hw : MemHw) : State :=
  let a := r.p.addr
  if r.stg.isSome then s.stgServe r hw
  else if r.p.typ = 0 then
    match s.hbmRead (s.hbmPlace a).stack 0 r.p.src [(a, r.p.len)] hw a with
    | (s, true) => s.hbmAnswer r 3 6 []
    | (s, false) => s.hbmAnswer r 3 0 (s.readMem a r.p.len)
  else
    match s.hbmWrite r.p.src a r.p.payload hw with
    | (s, true) => s.hbmAnswer r 4 6 []
    | (s, false) => s.hbmAnswer r 4 0 []

/-- Bytes of the target an MSU operation covers. -/
def redBytes (p : Packet) : Nat := p.len

/-- Acceptance of an MSU operation (R276). -/
def State.msuAccept (s : State) (r : HbmReq) : State :=
  let m := (s.hbmPlace r.p.addr).msu
  let k := s.msu m
  let op : MsuOp := { r := r, kind := if r.p.typ = 7 then 3 else r.p.bop, base := r.p.addr }
  s.setMsu m { k with ops := k.ops ++ [op] }

/-- A block with an operation accepted and not yet written (R276). -/
def State.blkLocked (s : State) (a : Nat) : Bool :=
  (s.msu (s.hbmPlace a).msu).ops.any (fun o => decide (blkOf o.base = blkOf a))

/-- A read or a write, a staging write among them. -/
def HbmReq.plain (r : HbmReq) : Bool := decide (r.p.typ ≤ 1) || r.stg.isSome

/-- A request may be served: reads and writes wait for operations on their block; an operation for one of the 32 places
(R276). -/
def State.canServe (s : State) (r : HbmReq) : Bool :=
  if r.plain then !(s.blkLocked r.addr) else decide ((s.msu (s.hbmPlace r.p.addr).msu).ops.length < 32)

/-- Serving or accepting a request. -/
def State.hbmTake (s : State) (r : HbmReq) (hw : MemHw) : State := if r.plain then s.hbmServe r hw else s.msuAccept r

/-- The first waiting request of a bank that may be served, none of its block's earlier ones waiting (R271). -/
def firstFree (ok : HbmReq → Bool) (seen : List Nat) : List HbmReq → Option HbmReq
  | [] => none
  | r :: l =>
    if !(seen.contains (blkOf r.addr)) && ok r then some r else firstFree ok (blkOf r.addr :: seen) l

/-- Serving waiting requests of a bank as long as some may be served. -/
def State.hbmDrain (s : State) (key : Nat) : Nat → State
  | 0 => s
  | n + 1 =>
    let k := s.hbmBank key
    match firstFree s.canServe [] k.waiting with
    | none => s
    | some r =>
      let s := s.setHbmBank key { k with waiting := dropFirst (fun x => decide (x = r)) k.waiting }
      State.hbmDrain (s.hbmTake r .ok) key n

/-- The banks of a channel after an operation of bank `key` has been written: waiting requests are served, those of the other banks that
waited for one of the MSU's places among them, and freed places are passed on. -/
def State.hbmAfter (s : State) (key : Nat) : State :=
  let keys := key :: ((s.hbm.map (·.1)).filter (fun k => decide (k / 128 = key / 128) && decide (k ≠ key)))
  keys.foldl (fun s k =>
    let s := s.hbmDrain k ((s.hbmBank k).waiting.length + 1)
    (List.range 64).foldl (fun s _ => s.freedPlace k) s) s

/-- A request arrives at its bank (R267): BANK_FULL, or served, or waiting. A requester with a reservation uses it. -/
def State.hbmArrive (s : State) (r : HbmReq) (hw : MemHw) : State :=
  let key := (s.hbmPlace r.addr).key
  let s := s.pmon .HBMC (s.hbmPlace r.addr).stack 0x70 0 1
  let k := s.hbmBank key
  let w := reqOf r.p
  let own := k.resv.any (fun v => decide (v.1 = w))
  if !own && decide (64 ≤ s.bankHeld key + k.resv.length) then s.bankFullAnswer key r
  else
    let s := if own then s.setHbmBank key { k with resv := dropFirst (fun v => decide (v.1 = w)) k.resv } else s
    let k := s.hbmBank key
    if s.canServe r && !(k.waiting.any (fun x => decide (blkOf x.addr = blkOf r.addr))) then
      (s.hbmTake r hw).freedPlace key
    else s.setHbmBank key { k with waiting := k.waiting ++ [r] }

/-- RESUME at a requester that still has parked requests for the bank: it moves to the tail of the wait list, otherwise it
leaves it (R269). -/
def State.resumeList (s : State) (key who : Nat) (more : Bool) : State :=
  let k := s.hbmBank key
  let l := k.waitList.filter (fun w => decide (w ≠ who))
  s.setHbmBank key { k with waitList := if more then l ++ [who] else l }

/-- The bank or optimizer queue of a channel whose oldest reservation lapses first. -/
def State.lapsing (s : State) (chan : Nat) : Option (Nat × Nat × Nat) :=
  let keys := (s.hbm.map (·.1)).filter (fun k => decide (k / 128 = chan) || decide (k = optKey chan))
  let all := keys.flatMap (fun k => (s.hbmBank k).resv.map (fun v => (k, v.1, v.2)))
  all.foldl (fun b x => match b with
    | none => some x
    | some y => if x.2.2 < y.2.2 then some x else some y) none

/-- RESERVATION_LAPSE (R269): a reservation not used within 512 MCLK passes to the next requester. -/
def execReservationLapse (chan : Nat) (s : State) : Host.Outcome State Fault Refusal :=
  match s.lapsing chan with
  | none => .next s
  | some (key, who, e) =>
    let s := s.at_ e
    let k := s.hbmBank key
    let l := k.waitList.filter (fun w => decide (w ≠ who))
    let s := s.setHbmBank key { k with resv := k.resv.filter (fun v => decide (v ≠ (who, e))), waitList := l }
    let s := (s.flag F.HBMC_EVT_RESV_LAPSED (keyStack key)).freedPlace key
    .next (s.setHbmBank key { s.hbmBank key with waitList := if k.waitList.contains who then l ++ [who] else l })

/-! ### Scrub and pair modes -/

/-- 64-byte lines of a pseudo-channel of 768 MiB, and of a stack (R258). -/
def pcLines : Nat := 12582912
def stackLines : Nat := 64 * pcLines

/-- HBM_SCRUB (R274): the scrub reads a 64-byte line of its stack and writes corrected data back; with PERIOD 0 it does not run. -/
def execHbmScrub (stack line : Nat) (hw : MemHw) (s : State) : Host.Outcome State Fault Refusal :=
  if !(decide (stack < 8)) || decide (s.get F.HBMC_SCRUB_PERIOD stack = 0) || decide (stackLines ≤ line) then .next s
  else
    let key := (64 * stack + line / pcLines) * 2 ^ 24 + line % pcLines
    let tag := s.inj.find? (fun t => decide (t.unit = 4) && decide (s.lineKey t.line = key))
    let o := tag.map (fun t => t.double)
    let hw := injHw o hw
    let s := s.injStep o (fun s => match hw with
      | .ok => if s.bad.contains key then s.hbmUnc stack 1 key 0 else s
      | .corr => ((s.flag F.HBMC_EVT_SCRUB_CORR stack).bump F.HBMC_ECC_CNT_COUNT stack).corrected .HBMC 2 stack
      | .unc => s.hbmUnc stack 1 key 0)
    let s := s.hbmMend ((tag.map InjTag.line).toList)
    .next (if line + 1 = stackLines then s.bump F.HBMC_SCRUB_PASSES stack else s)

/-- A write of pair modes: the hub controller's reaches all eight instances (R298); another master's changes nothing and is
recorded when it differs (R263). -/
def State.pairWrite (s : State) (m : Master) (stack q : Nat) (v mask : Word) (addr : Nat) : State :=
  let old := s.rd ⟨.HBMC_PAIR, stack, q⟩
  let new := (v &&& mask) ||| (old &&& ~~~mask)
  if m.isHub then (List.range 8).foldl (fun s i => s.wr ⟨.HBMC_PAIR, i, q⟩ new) s
  else if new = old then s else s.logAccess .HBMC stack 1 m.code addr v.toNat

/-- HBMC_PAIR_WRITE (R298): the hub controller writes the modes of pairs 64q to 64q + 63. -/
def execHbmcPairWrite (stack q : Nat) (v : Word) (s : State) : Host.Outcome State Fault Refusal :=
  .next (s.regCmd .hub .HBMC stack (fun s =>
    s.pairWrite .hub stack (q % 3) v fullMask (0x2080000 + 0x1000 * stack + 0x10 + 8 * (q % 3))))

end Sys2Proof.Machine
end

