-- ==== Sys2Proof/Machine/Msu.lean ====
section
/-! DEFINITION. Memory-side units (R275 to R289, R305 to R307): RACC, SCALE, FILL, optimizer steps; and what they do with
reduction packets (R447 to R460). -/

namespace Sys2Proof.Machine

open Sys2Proof

/-- A reduction packet arrives at a memory port (R456, R459): refused, staged in fixed-order mode through the
slot's bank, or accepted as an operation. -/
def State.redArrive (s : State) (r : HbmReq) (hw : MemHw) : State :=
  let s := s.pmon .MSU 256 0x80 0 1
  let p := r.p
  let c := redChan p
  match s.redBad p with
  | some k =>
    let s := s.pmon .MSU 256 0x81 0 1
    let s := match k with
      | .closed => s.bump F.MSU_RCH_ERR_CNT_CLOSED 0
      | .early => (s.flag F.MSU_RCH_EVT_EARLY 0).bump F.MSU_RCH_ERR_CNT_EARLY 0
      | .stale => (s.flag F.MSU_RCH_EVT_STALE 0).bump F.MSU_RCH_ERR_CNT_STALE 0
      | .form => (s.flag F.MSU_RCH_EVT_BAD_LEN 0).bump F.MSU_RCH_ERR_CNT_BAD_LEN 0
    s.answer (r.place / 256) (r.place % 256) p 5 0 (if k = .form then rBANK_OP else rUNMAPPED) []
  | none =>
    let s := if redSatn p = 0 then s
      else (s.flag F.MSU_RCH_EVT_SAT 0).bump F.MSU_RCH_CNT_SAT 0 (redSatn p) c
    if s.get F.MSU_RCH_CFG_MODE 0 c = 1 then s.hbmArrive { r with stg := some (s.stgSlot c (redSrc p) p.addr) } hw
    else s.hbmArrive r hw

/-! ### Operations (R275 to R277, R279) -/

/-- The first accepted operation that has not been read, when its kind is one of those asked for and no operation on its
block stands between read and write. -/
def MsuSt.nextOp (k : MsuSt) (kinds : List Nat) : Option MsuOp :=
  match k.ops.find? (fun o => !o.done) with
  | some o =>
    if kinds.contains o.kind && !(k.ops.any (fun x => x.done && decide (blkOf x.base = blkOf o.base))) then some o else none
  | none => none

/-- Target bytes of an operation. -/
def State.opLen (s : State) (o : MsuOp) : Nat :=
  if o.kind = 3 then 128 * (o.r.p.payload.length / s.rchP (redChan o.r.p)) else o.r.p.len

/-- The operation leaves the MSU with a status; the bank goes on. -/
def State.opEnd (s : State) (m : Nat) (o : MsuOp) (status : Nat) : State :=
  let k := s.msu m
  let s := s.setMsu m { k with ops := dropFirst (fun x => decide (x = o)) k.ops }
  (s.hbmAnswer o.r 4 status []).hbmAfter (s.hbmPlace o.base).key

/-- An MSU reads ranges (R273, R279): whether a line was uncorrectable. -/
def State.msuRead (s : State) (m src : Nat) (rs : List (Nat × Nat)) (hw : MemHw) (at_ : Nat) : State × Bool :=
  let (s, unc) := s.hbmRead (m / 32) 2 src rs hw at_
  (s.flagIf unc F.MSU_EVT_ECC m, unc)

/-- Flags of results in a format, and how many are not finite beside the infinite or NaN decodes `dec` (R77, R275, R307). -/
def State.resFlags (s : State) (m : Nat) (f : Fmt) (new : List Nat) (dec : List Bool) : State × Nat :=
  let s := s.flagIf (new.any (fun v => (f.value v).isNan)) F.MSU_EVT_NAN m
  let s := s.flagIf (new.any (fun v => (f.value v).isInf)) F.MSU_EVT_INF m
  (s, ((new.zip dec).filter (fun (v, d) => d || !(f.value v).isFinite)).length)

/-- New bytes of one operation's target with the non-finite results counted, and the flags raised (R77, R275, R281). -/
def State.opCompute (s : State) (m : Nat) (o : MsuOp) : State × List Byte × Nat :=
  let p := o.r.p
  let n := s.opLen o
  let f := Fmt.ofCode p.fmt
  match o.kind with
  | 0 =>
    let old := elems 4 (s.readMem o.base n) (n / 4)
    let codes := elems f.bytes p.payload (n / 4)
    let g8 := decide (p.fmt = 14)
    let xs : List Conv := codes.zipIdx.map (fun (x, k) => match p.fmt with
      | 14 => g8Decode (p.imm / 256 ^ (k / 32) % 256) x
      | 7 => redValue 1 0 x
      | _ => redValue 2 0 x)
    let new := (old.zip xs).map (fun (y, x) => fp32Add y x.code)
    let s := s.flagIf (g8 && codes.contains 0xFF) F.MSU_EVT_G8_FMT m
    let s := s.flagIf (g8 && xs.any (·.inf)) F.MSU_EVT_INF m
    let (s, k) := s.resFlags m .fp32 new (xs.map (fun x => g8 && (x.nan || x.inf)))
    (s, new.flatMap (leBytes 4), k)
  | 3 =>
    let c := redChan p
    let pb := s.rchP c
    let dense := s.rchDense c
    (List.range (n / 128)).foldl (fun (s, out, bad) i =>
      let a := o.base + 128 * i
      let (s, new, touched, dec) := s.redAdd c a (redSrc p) p.smod (redPart pb p i) dense (elems 4 (s.readMem a 128) 32)
      let (s, k) := s.redFlags m new touched dec
      (s, out ++ new.flatMap (leBytes 4), bad + k)) (s, [], 0)
  | k =>
    let old := elems f.bytes (s.readMem o.base n) (n / f.bytes)
    let a := fp32 p.imm
    let new := old.map (fun y => (f.convert false (if k = 1 then a.mul (f.value y) else a)).code)
    let (s, k) := s.resFlags m f new (new.map (fun _ => false))
    (s, new.flatMap (leBytes f.bytes), k)

/-- An MSU reads the block of its next operation and computes (R275); an uncorrectable line ends the operation with ECC (R273). A FILL
reads only lines that it covers in part. -/
def State.opRun (s : State) (m : Nat) (kinds : List Nat) (hw : MemHw) : State :=
  match (s.msu m).nextOp kinds with
  | none => s
  | some o =>
    let n := s.opLen o
    match s.msuRead m o.r.p.src (if o.kind = 2 then partLines o.base n else [(o.base, n)]) hw o.base with
    | (s, true) => s.opEnd m o 6
    | (s, false) =>
      let (s, bs, bad) := s.opCompute m o
      let k := s.msu m
      s.setMsu m { k with ops := k.ops.map (fun x => if x = o then { o with done := true, result := bs, bad := bad } else x) }

/-- RACC (R275, R457): y := y + x, for DM_RACC and for reduction packets. -/
def execRacc : UnitRead → State → Host.Outcome State Fault Refusal
  | ⟨msu, hw⟩, s => .next (s.opRun msu [0, 3] hw)

/-- SCALE (R275): y := a · y. -/
def execScale : UnitRead → State → Host.Outcome State Fault Refusal
  | ⟨msu, hw⟩, s => .next (s.opRun msu [1] hw)

/-- FILL (R275): y := a. -/
def execFill : UnitRead → State → Host.Outcome State Fault Refusal
  | ⟨msu, hw⟩, s => .next (s.opRun msu [2] hw)

/-- A failed check of an MSU (R279): the event, the record. -/
def State.msuCheck (s : State) (m : Nat) : State :=
  ((s.flag F.HBMC_EVT_MSU_CHECK (m / 32)).flag F.MSU_EVT_CHECK m).logHw 2 .MSU 0 m

/-- MSU_OP_WRITEBACK (R277, R279): the oldest computed operation is written and acknowledged; a failed check leaves the block
unchanged. -/
def execMsuOpWriteback (msu : Nat) (checkFail : Bool) (s : State) : Host.Outcome State Fault Refusal :=
  match (s.msu msu).ops.find? (fun o => o.done) with
  | none => .next s
  | some o =>
    if checkFail then .next ((s.msuCheck msu).opEnd msu o 0xE)
    else
      let s := s.writeMem o.base o.result
      let s := (s.bump F.MSU_CNT_BLOCKS msu).bump F.MSU_CNT_NONFINITE msu o.bad
      let s := if o.kind = 3 then s.msuLanded msu (redChan o.r.p) (o.r.p.payload.length * o.r.p.count) else s
      .next (s.opEnd msu o 0)

/-! ### Optimizer steps (R282 to R289) -/

/-- The next block of the range, from block `i` on, that lies on MSU `m`. -/
def State.optNext (s : State) (w m : Nat) : Nat → Nat → Option Nat
  | 0, _ => none
  | n + 1, i => if (s.hbmPlace (w + 256 * i)).msu = m then some i else State.optNext s w m n (i + 1)

/-- Words of a descriptor (R283). -/
def dLR (d : List Nat) : Nat := d.getD 0 0
def dBETA1 (d : List Nat) : Nat := d.getD 1 0
def dOMB1 (d : List Nat) : Nat := d.getD 2 0
def dBETA2 (d : List Nat) : Nat := d.getD 3 0
def dOMB2 (d : List Nat) : Nat := d.getD 4 0
def dEPS (d : List Nat) : Nat := d.getD 5 0
def dLAMBDA (d : List Nat) : Nat := d.getD 6 0
def dC1 (d : List Nat) : Nat := d.getD 7 0
def dC2 (d : List Nat) : Nat := d.getD 8 0
def dMU (d : List Nat) : Nat := d.getD 9 0

/-- Negation of an FP32 code. -/
def fp32Neg (a : Nat) : Nat := (a + 2 ^ 31) % 2 ^ 32

/-- One element of a step: new W, M, V, G (R285). -/
structure OptElem where
  w : Nat
  m : Nat
  v : Nat
  g : Nat
  deriving DecidableEq, Repr

/-- step(i) of R285 but for the sums: programs 0 SGDM, 1 ADAMW, 2 LAMB1, 3 LAMB2. -/
def optElem (prog : Nat) (nesterov : Bool) (d : List Nat) (e : OptElem) : OptElem :=
  match prog with
  | 0 =>
    let u := fp32Fma (dMU d) e.m e.g
    let dd := if nesterov then fp32Fma (dMU d) u e.g else u
    { e with m := u, w := fp32Fma (fp32Neg (dLR d)) (fp32Fma (dLAMBDA d) e.w dd) e.w }
  | 3 => { e with w := fp32Fma (fp32Neg (dLR d)) e.g e.w }
  | p =>
    let m := fp32Fma (dBETA1 d) e.m (fp32Mul (dOMB1 d) e.g)
    let v := fp32Fma (fp32Mul (dOMB2 d) e.g) e.g (fp32Mul (dBETA2 d) e.v)
    let r := fp32Fma (dLAMBDA d) e.w (fp32Div (fp32Mul m (dC1 d)) (fp32Add (fp32Sqrt (fp32Mul v (dC2 d))) (dEPS d)))
    if p = 1 then { w := fp32Fma (fp32Neg (dLR d)) r e.w, m := m, v := v, g := e.g } else { w := e.w, m := m, v := v, g := r }

/-- sum + x · x in FP64, rounded once, for an FP32 code `x`. -/
def fp64AddSq (sum x : Nat) : Nat := (fmtFP64.encode false ((fmtFP64.decode sum).add ((fp32 x).mul (fp32 x)))).code

/-- An optimizer command reaches an MSU (R287): parked at a full queue; answered at once when the MSU holds no block of it. -/
def State.optArrive (s : State) (r : HbmReq) : State :=
  let m := r.p.imm
  let key := optKey m
  let k := s.hbmBank key
  let who := reqOf r.p
  let own := k.resv.any (fun v => decide (v.1 = who))
  let cmd : Cmd := BitVec.ofNat 512 (leNat (r.p.payload.take 64))
  let desc := elems 4 (r.p.payload.drop 64) 16
  let w := gLoc (Cmd.f cmd 16 63 0)
  let o : OptCmd := { r := r, w := w, m := gLoc (Cmd.f cmd 24 63 0), v := gLoc (Cmd.f cmd 32 63 0), g := gLoc (Cmd.f cmd 40 63 0),
                      c := gLoc (Cmd.f cmd 48 63 0), blocks := Cmd.f cmd 56 31 0, prog := opProg cmd, flags := Cmd.f cmd 60 29 27, desc := desc }
  if !own && decide (16 ≤ s.bankHeld key + k.resv.length) then s.bankFullAnswer key r
  else
    let s := if own then s.setHbmBank key { k with resv := dropFirst (fun v => decide (v.1 = who)) k.resv } else s
    match s.optNext w m o.blocks 0 with
    | none => (s.hbmAnswer r 4 0 (if o.prog = 2 then List.replicate 16 0 else [])).freedPlace key
    | some i =>
      let q := s.msu m
      s.setMsu m { q with opts := q.opts ++ [{ o with next := i }] }

/-- The running command of an MSU ends: LAMB1 sends its sums (R286). -/
def State.optEnd (s : State) (m : Nat) (o : OptCmd) (status : Nat) : State :=
  let k := s.msu m
  let s := s.setMsu m { k with opts := k.opts.drop 1 }
  let data := if o.prog = 2 ∧ status = 0 then leBytes 8 o.sw ++ leBytes 8 o.sr else []
  (s.hbmAnswer o.r 4 status data).freedPlace (optKey m)

/-- Local addresses of the blocks that a step reads in its group of 64 elements (R285). -/
def OptCmd.reads (o : OptCmd) : List Nat :=
  let a := 256 * o.next
  [o.w + a, o.g + a] ++ (if o.prog ≠ 3 then [o.m + a] else []) ++ (if o.prog = 1 ∨ o.prog = 2 then [o.v + a] else [])

/-- The step writes the BF16 copy of its group. -/
def OptCmd.copies (o : OptCmd) : Bool := decide (o.prog ≠ 2) && bitOf o.flags 0

/-- OPTIMIZER_STEP (R279, R285 to R288): the running command's next group of 64 elements, whole; it waits for operations on the
group's blocks, the copy's among them. -/
def execOptimizerStep : Nat → OptHw → State → Host.Outcome State Fault Refusal
  | msu, ⟨hw, checkFail⟩, s =>
    match (s.msu msu).opts with
    | [] => .next s
    | o :: _ =>
      let a := 256 * o.next
      let useM := decide (o.prog ≠ 3)
      let useV := decide (o.prog = 1) || decide (o.prog = 2)
      if (o.reads ++ (if o.copies then [o.c + 128 * o.next] else [])).any (fun x => s.blkLocked x) then .next s
      else
        match s.msuRead msu o.r.p.src (o.reads.map (fun x => (x, 256))) hw (o.w + a) with
        | (s, true) => .next (s.optEnd msu o 6)
        | (s, false) =>
          if checkFail then .next ((s.msuCheck msu).optEnd msu o 0xE)
          else
            let rd (x : Nat) : List Nat := elems 4 (s.readMem (x + a) 256) 64
            let els := ((rd o.w).zip (rd o.g)).zip
              ((if useM then rd o.m else List.replicate 64 0).zip (if useV then rd o.v else List.replicate 64 0))
            let els := els.map (fun ((w, g), (m, v)) => (⟨w, m, v, g⟩ : OptElem))
            let new := els.map (optElem o.prog (bitOf o.flags 1) o.desc)
            let put (s : State) (x : Nat) (l : List Nat) : State := s.writeMem (x + a) (l.flatMap (leBytes 4))
            let s := if useM then put s o.m (new.map (·.m)) else s
            let s := if useV then put s o.v (new.map (·.v)) else s
            let s := if o.prog ≠ 2 then put s o.w (new.map (·.w)) else put s o.g (new.map (·.g))
            let s := if o.prog ≠ 2 ∧ bitOf o.flags 2 then put s o.g (List.replicate 64 0) else s
            let half := if o.copies then new.map (fun e => (fmtBF16.encode false (fp32 e.w)).code) else []
            let s := if o.copies then s.writeMem (o.c + 128 * o.next) (half.flatMap (leBytes 2)) else s
            let written := (new.flatMap (fun e => (if o.prog = 2 then [e.g] else [e.w]) ++ (if useM then [e.m] else [])
              ++ (if useV then [e.v] else []))).map fp32 ++ half.map fmtBF16.decode
            let bads := written.filter (fun v => !v.isFinite)
            let s := s.flagIf (bads.any (fun v => v.isNan)) F.MSU_EVT_NAN msu
            let s := s.flagIf (bads.any (fun v => v.isInf)) F.MSU_EVT_INF msu
            let s := (s.bump F.MSU_CNT_NONFINITE msu bads.length).bump F.MSU_CNT_BLOCKS msu
            let o' := if o.prog = 2 then
                { o with sw := els.foldl (fun t e => fp64AddSq t e.w) o.sw, sr := new.foldl (fun t e => fp64AddSq t e.g) o.sr } else o
            match s.optNext o.w msu (o.blocks - (o.next + 1)) (o.next + 1) with
            | none => .next (s.optEnd msu o' 0)
            | some i =>
              let k := s.msu msu
              .next (s.setMsu msu { k with opts := { o' with next := i } :: k.opts.drop 1 })

end Sys2Proof.Machine
end

