-- ==== Sys2Proof/Machine/Links.lean ====
section
/-! DEFINITION. Evpen links and the module fabric (R389 to R428): training, flits, retry, credits, packets on a link, routes,
hub tags and multicast at the hub. -/

namespace Sys2Proof.Machine

open Sys2Proof

def State.link (s : State) (n : Nat) : LinkSt := lookD {} s.links n
def State.setLink (s : State) (n : Nat) (x : LinkSt) : State := { s with links := putD natLt {} s.links n x }
def State.modLink (s : State) (n : Nat) (f : LinkSt → LinkSt) : State := s.setLink n (f (s.link n))

/-- States of a link (R429). -/
def State.linkState (s : State) (n : Nat) : Nat := s.get F.EVL_STATUS_STATE n
def State.linkActive (s : State) (n : Nat) : Bool := decide (s.linkState n = 5)
/-- The partner's HELLO has been accepted (R572). -/
def State.admitted (s : State) (n : Nat) : Bool := decide (s.get F.NVCF_NB_ADMITTED 0 n = 1)
/-- ACTIVE or retraining (R412). -/
def State.linkUp (s : State) (n : Nat) : Bool :=
  s.admitted n && (s.linkActive n || (decide (s.linkState n = 4) && (s.link n).retrain))
/-- A link that routes and the choice of a time master may use: ACTIVE and admitted. -/
def State.linkReady (s : State) (n : Nat) : Bool := s.admitted n && s.linkActive n

/-- The safe state is latched (R696). -/
def State.tripped (s : State) : Bool := decide (s.get F.SAFE_STATUS_TRIPPED 0 = 1)

/-- Per-VC numbers of a link. -/
def vcGet (l : List (Nat × Nat)) (vc : Nat) : Nat := lookD 0 l vc
def vcSet (l : List (Nat × Nat)) (vc n : Nat) : List (Nat × Nat) := putD natLt 0 l vc n

/-- Credits a link holds for a VC (R434). -/
def credField : Nat → Field
  | 0 => F.EVL_CRED_VC0 | 1 => F.EVL_CRED_VC1 | 2 => F.EVL_CRED_VC2 | _ => F.EVL_CRED_VC3

/-- Setting the credits, with the time since which none are held (R407). -/
def State.setCred (s : State) (n vc v : Nat) : State :=
  let was := s.get (credField vc) n
  let s := s.set (credField vc) n v
  if v = 0 ∧ was ≠ 0 then s.modLink n (fun l => { l with zero := insertAt natLt l.zero vc s.now })
  else if v ≠ 0 then s.modLink n (fun l => { l with zero := dropKey l.zero vc })
  else s

/-- Receive buffers of this module (R403). -/
def rxBuf : Nat → Nat
  | 3 => 32 | _ => 160

/-! ### Packets as bytes (R314, R408, R409, R450) -/

/-- Types that carry data on a link (R408). -/
def carries (typ : Nat) : Bool := [1, 2, 3, 7, 8].contains typ

/-- A SCALE or FILL of HBM, whose length is that of its target. -/
def msuOnly (p : Packet) : Bool := decide (p.typ = 2) && decide (p.addr < 0x100000000000) && (decide (p.bop = 1) || decide (p.bop = 2))

/-- Payload on the link. -/
def wirePayload (p : Packet) : List Byte :=
  if !(carries p.typ) then [] else if msuOnly p then List.replicate p.len 0 else p.payload

/-- The 32-byte header. -/
def encodeHeader (p : Packet) : List Byte :=
  let lenM1 := if p.typ = 0 then p.len - 1 else (wirePayload p).length - 1
  leBytes 32 (p.vc * 2 ^ 254 + p.typ * 2 ^ 250 + p.src % 4096 * 2 ^ 222 + p.tag * 2 ^ 204 + lenM1 * 2 ^ 196 + p.bop * 2 ^ 193
    + p.fmt * 2 ^ 189 + p.status * 2 ^ 185 + p.reason * 2 ^ 182 + p.mod * 2 ^ 166 + p.addr * 2 ^ 118 + p.rtag * 2 ^ 102
    + p.count * 2 ^ 86 + p.imm * 2 ^ 54 + p.smod * 2 ^ 38 + p.red)

/-- VC3 types inside the model: 16 SIGNAL, 17 HUBMSG, 18 a reserved KIND. -/
def vc3Kind : Nat → Nat
  | 16 => 1 | 17 => 2 | _ => 0

/-- A packet as its bytes on the link. -/
def encodePacket (p : Packet) : List Byte :=
  if p.vc = 3 then
    leBytes 8 (vc3Kind p.typ * 2 ^ 60 + p.mod * 2 ^ 44 + p.smod * 2 ^ 28 + (p.payload.length - 1) * 2 ^ 20) ++ p.payload
  else encodeHeader p ++ wirePayload p

/-- Target bytes of a received operation: payloads of G8 and BF16 widen to FP32. -/
def opTarget (typ bop fmt addr n : Nat) : Nat :=
  if typ ≠ 2 then n
  else if addr < 0x100000000000 then (if bop = 0 then (match fmt with
    | 14 => 4 * n | 7 => 2 * n | _ => n) else n)
  else if bop = 5 then 4 * n else n

/-- The first packet of a VC's byte stream and the rest, once all its bytes have arrived. -/
def decodePacket (vc : Nat) (bs : List Byte) : Option (Packet × List Byte) :=
  if vc = 3 then
    if bs.length < 8 then none
    else
      let h := leNat (bs.take 8)
      let n := h / 2 ^ 20 % 256 + 1
      if bs.length < 8 + n then none
      else
        let kind := h / 2 ^ 60
        let typ := if kind = 1 then 16 else if kind = 2 then 17 else 18
        some ({ typ := typ, vc := 3, dnode := 0, snode := 0, src := 0, tag := 0, len := n, mod := h / 2 ^ 44 % 2 ^ 16,
                smod := h / 2 ^ 28 % 2 ^ 16, payload := (bs.drop 8).take n }, bs.drop (8 + n))
  else if bs.length < 32 then none
  else
    let h := leNat (bs.take 32)
    let typ := h / 2 ^ 250 % 16
    let n := h / 2 ^ 196 % 256 + 1
    let k := if carries typ then n else 0
    if bs.length < 32 + k then none
    else
      let bop := h / 2 ^ 193 % 8
      let fmt := h / 2 ^ 189 % 16
      let addr := h / 2 ^ 118 % 2 ^ 48
      let p : Packet := ⟨typ, vc, 0, 0, h / 2 ^ 222 % 4096, h / 2 ^ 204 % 2 ^ 18, opTarget typ bop fmt addr n, bop, fmt, h / 2 ^ 185 % 16,
        h / 2 ^ 182 % 8, h / 2 ^ 166 % 2 ^ 16, addr, h / 2 ^ 102 % 2 ^ 16, h / 2 ^ 86 % 2 ^ 16, h / 2 ^ 54 % 2 ^ 32,
        (bs.drop 32).take k, 0, if typ = 7 then h % 2 ^ 38 else 0, h / 2 ^ 38 % 2 ^ 16, 0⟩
      some (p, bs.drop (32 + k))

/-- Every whole packet of a stream, and what is left of it. -/
def decodeAll (vc : Nat) : Nat → List Byte → List Packet × List Byte
  | 0, bs => ([], bs)
  | n + 1, bs => match decodePacket vc bs with
    | some (p, rest) =>
      let (l, r) := decodeAll vc n rest
      (p :: l, r)
    | none => ([], bs)

/-! ### Routes (R412, R413, R426 to R428) -/

/-- The link a packet for a module leaves by: the link and whether it is the ALT link. -/
def State.routeLink (s : State) (mod : Nat) : Option (Nat × Bool) :=
  let i := mod % 2 ^ 14
  if s.get F.EVL_ROUTE_VALID 36 i = 0 then none
  else
    let p := s.get F.EVL_ROUTE_PRIMARY 36 i
    let a := s.get F.EVL_ROUTE_ALT 36 i
    if 35 < p then none
    else if s.linkUp p then some (p, false)
    else if s.get F.EVL_ROUTE_ALT_VALID 36 i = 1 ∧ a ≤ 35 ∧ s.linkReady a then some (a, true)
    else none

/-- The ring-stream entry of a VC0 packet of this module's cores (R426). -/
def State.ringEntry (s : State) (p : Packet) : Option Nat :=
  (List.range 32).find? (fun n => decide (s.get F.EVL_RING_CFG_VALID 36 n = 1) && decide (s.get F.EVL_RING_CFG_DMOD 36 n = p.mod)
    && decide (s.get F.EVL_RING_RANGE_BASE 36 n ≤ p.addr)
    && decide (p.addr < s.get F.EVL_RING_RANGE_BASE 36 n + (s.get F.EVL_RING_RANGE_SIZE_M1 36 n + 1) * 2 ^ 20))

/-- LINK_k of an entry (R427). -/
def State.ringLink (s : State) (n addr : Nat) : Nat :=
  match addr / 256 % (s.get F.EVL_RING_CFG_NLINKS_M1 36 n + 1) with
  | 0 => s.get F.EVL_RING_CFG_LINK0 36 n
  | 1 => s.get F.EVL_RING_CFG_LINK1 36 n
  | 2 => s.get F.EVL_RING_CFG_LINK2 36 n
  | _ => s.get F.EVL_RING_CFG_LINK3 36 n

/-- A packet joins a link's transmit stream. -/
def State.linkQueue (s : State) (n : Nat) (p : Packet) (ring : Bool) : State :=
  s.modLink n (fun l => { l with tx := putD natLt [] l.tx p.vc (lookD [] l.tx p.vc ++ [{ p := p, ring := ring }]) })

/-- The count, event and record of a miss (R413); `inLink` is 63 for this module. -/
def State.unroutable (s : State) (p : Packet) (inLink : Nat) : State :=
  let s := (s.bump F.EVL_DROP_CNT_UNROUTABLE 36).flag F.EVL_COM_EVT_UNROUTABLE 36
  if s.get F.EVL_UNROUT_LOG_VALID 36 = 1 then s
  else s.wr ⟨.EVL_UNROUT_LOG, 36, 0⟩ (BitVec.ofNat 64
    (2 ^ 63 + p.vc * 2 ^ 61 + inLink * 2 ^ 55 + p.mod * 2 ^ 32 + (if p.smod = 0xFFFF then s.modId else p.smod) * 2 ^ 16))

/-- Placing a packet for another module on a link: none when the lookup misses. -/
def State.routeOut (s : State) (p : Packet) (own : Bool) : Option State :=
  let ring := if own && decide (p.vc = 0) then s.ringEntry p else none
  let (pinned, unpin) := match ring with
    | some n =>
      let k := s.ringLink n p.addr
      if k ≤ 35 ∧ s.linkUp k then (some k, false) else (none, true)
    | none => (none, false)
  match pinned with
  | some k => some (s.linkQueue k p true)
  | none =>
    let s := s.flagIf unpin F.EVL_COM_EVT_RING_UNPINNED 36
    match s.routeLink p.mod with
    | some (k, alt) => some ((s.flagIf alt F.EVL_COM_EVT_ROUTE_ALT 36).linkQueue k p false)
    | none => none

/-! ### Hub tags (R416 to R418) -/

/-- The lowest free tag. -/
def State.freeHubTag (s : State) : Option Nat :=
  if 262144 ≤ s.hubTags.length then none
  else (List.range (s.hubTags.length + 1)).find? (fun t => !(s.hubTags.any (fun h => decide (h.tag = t))))

def State.addHubTag (s : State) (h : HubTag) : State :=
  let s := { s with hubTags := s.hubTags ++ [h] }
  s.set F.EVL_TAGS_HIGH_WATER 36 (max (s.get F.EVL_TAGS_HIGH_WATER 36) s.hubTags.length)

def State.hubTag (s : State) (t : Nat) : Option HubTag := s.hubTags.find? (fun h => decide (h.tag = t))
def State.dropHubTag (s : State) (t : Nat) : State := { s with hubTags := s.hubTags.filter (fun h => decide (h.tag ≠ t)) }
def State.modHubTag (s : State) (t : Nat) (f : HubTag → HubTag) : State :=
  { s with hubTags := s.hubTags.map (fun h => if h.tag = t then f h else h) }

/-- The hub answers a request that one of this module's cores sent: the answer enters the core's die at the hub bridge port of
its column. -/
def State.hubToCore (s : State) (p : Packet) (typ status reason : Nat) (data : List Byte) : State :=
  s.answer p.sdie (0x40 + nodeCol p.snode) p typ status reason data

/-- The hub answers a request that came over a link (R408): an answer packet to SMOD. An answer that misses is dropped
(R413). -/
def State.hubToLink (s : State) (p : Packet) (typ status reason : Nat) (data : List Byte) : State :=
  let a : Packet := { typ := typ, vc := 1, dnode := 0, snode := 0, src := 0x800, tag := p.tag, len := max 1 data.length, status := status,
                      reason := reason, mod := p.smod, smod := s.modId, payload := data }
  match s.routeOut a false with
  | some s => s
  | none => s.unroutable a 63

/-- The refusal of a request at the hub, to whoever sent it (R413). -/
def State.hubRefuse (s : State) (p : Packet) (inLink reason : Nat) : State :=
  let typ := if p.typ = 8 then 9 else 5
  if inLink = 63 then s.hubToCore p typ 0 reason [] else s.hubToLink p typ 0 reason []

/-! ### Requests the hub issues into the module (R408, R416, R420) -/

/-- Die and column of the hub bridge port for a local address. -/
def State.bridgeFor (s : State) (a : Nat) : Nat × Nat :=
  match s.far a with
  | .core c => (dieOf c, clusterOf c % 8)
  | .group d _ => (d, 0)
  | _ => ((s.hbmPlace a).stack / 4, a / 256 % 8)

/-- A request of the hub enters a die with a hub tag. -/
def State.hubInject (s : State) (p : Packet) (tag : Nat) : State × Packet :=
  let (die, col) := s.bridgeFor p.addr
  let d := if p.typ = 2 ∧ p.bop = 6 then 0 else s.dnodeFor die 5 col 0xFFFF p.addr
  let q := { p with src := 0x800, tag := tag, mod := 0xFFFF, snode := 0x40 + col, sdie := die, dnode := d, vc := vcOf p.typ }
  (s.inject (nodeKey die (0x40 + col)) q, q)

/-- What a request from a link or the host may not reach: registers, holes, HBM pairs 188 to 191 (R240, R592, R774). -/
def State.hubUnmapped (s : State) (a : Nat) : Bool :=
  match s.far a with
  | .regs => true
  | .hole => true
  | .ctx => true
  | _ => false

/-- A host-window request (R593): none when it is refused, with the reason. -/
def State.hwinRefusal (s : State) (a : Nat) : Option Nat :=
  let o := a - 0x300000000000
  if !s.busMaster || decide (s.get F.PCIE_STATUS_DL_ACTIVE 0 = 0) then some rUNROUTABLE
  else if 2 ^ 64 ≤ s.get F.PCIE_HWIN_BASE 0 * 4096 + o then some rUNMAPPED
  else none

/-- A host-window request becomes a PCIe memory request; a write is posted and acknowledged, a read waits for its completion
with a hub tag. -/
def State.hwinRequest (s : State) (p : Packet) (inLink : Nat) : State :=
  let reply (s : State) (typ reason : Nat) : State :=
    if inLink = 63 then s.hubToCore p typ 0 reason [] else s.hubToLink p typ 0 reason []
  match (if p.typ ≤ 1 then s.hwinRefusal p.addr else some rBANK_OP) with
  | some r => reply (s.flag F.PCIE_EVT_HWIN_REFUSED 0) 5 r
  | none =>
    let bus := s.get F.PCIE_HWIN_BASE 0 * 4096 + (p.addr - 0x300000000000)
    if p.typ = 1 then reply (s.send (.hostWrite bus p.payload)) 4 0
    else
      match s.freeHubTag with
      | none => s.flag F.EVL_COM_EVT_TAG_STALL 36
      | some t => (s.addHubTag { tag := t, kind := 4, p := p, link := inLink, at_ := s.now, sent := p }).send (.hostRead bus p.len t)

/-- A request for this module that came over a link: refused, sent to the host, or issued into the module with a hub tag, to the
visible region of a staging window (R535). None
when no tag is free. -/
def State.hubLocal (s : State) (p : Packet) (inLink : Nat) : Option State :=
  if 9 < p.typ ∨ s.hubUnmapped p.addr ∨ s.specR1 (0xFFFF * 2 ^ 48 + p.addr) then some (s.hubRefuse p inLink rUNMAPPED)
  else if s.far p.addr = .host then
    if p.typ = 0 ∧ s.freeHubTag = none then none else some (s.hwinRequest p inLink)
  else
    match s.freeHubTag with
    | none => none
    | some t =>
      let typ := if p.typ = 1 then (match s.far p.addr with
        | .group _ _ => 8
        | _ => 1) else p.typ
      let (s, q) := s.hubInject { p with typ := typ, addr := gLoc (s.specAddr 64 s.specCurs (0xFFFF * 2 ^ 48 + p.addr)) } t
      some (s.addHubTag { tag := t, kind := 1, p := p, link := inLink, at_ := s.now, sent := q })

/-- A request of this module's cores for another module: it takes a hub tag and a link, or is refused. None when no tag is
free. -/
def State.hubOutgoing (s : State) (p : Packet) : Option State :=
  match s.freeHubTag with
  | none => none
  | some t =>
    let q := { p with src := 0x800, tag := t, smod := s.modId, dnode := 0, snode := 0 }
    match s.routeOut q true with
    | some s => some (s.addHubTag { tag := t, kind := 0, p := p, link := 63, at_ := s.now, sent := q })
    | none => some ((s.unroutable p 63).hubRefuse p 63 rUNROUTABLE)

/-- An answer that reaches the hub for a multicast (R422): one branch less; with the last one the MCACK goes upward. -/
def State.mcBranch (s : State) (h : HubTag) (reason : Nat) : State :=
  let r := if h.reason = 0 then reason else h.reason
  if 1 < h.left then s.modHubTag h.tag (fun h => { h with left := h.left - 1, reason := r })
  else
    let s := s.dropHubTag h.tag
    if h.link = 63 then s.hubToCore h.p 9 0 r [] else s.hubToLink h.p 9 0 r []

/-- An answer from another module (R416, R418): it goes on to the requester of its tag; one for a freed tag is discarded. -/
def State.linkAnswer (s : State) (p : Packet) : State :=
  match s.hubTag p.tag with
  | some h =>
    if h.kind = 0 then (s.dropHubTag h.tag).hubToCore h.p p.typ p.status p.reason p.payload
    else if h.kind = 2 then s.mcBranch h p.reason
    else if h.kind = 5 then
      let s := s.dropHubTag h.tag
      if p.reason = 0 then s
      else { s with tasks := s.tasks.map (fun (n, t) => if n = h.p.imm then (n, { t with ckptSent := false }) else (n, t)) }
    else s.flag F.EVL_COM_EVT_LATE_ANSWER 36
  | none => s.flag F.EVL_COM_EVT_LATE_ANSWER 36

/-- An answer from a die to a request of the hub. -/
def State.dieAnswer (s : State) (p : Packet) : State :=
  match s.hubTag p.tag with
  | none => s.flag F.EVL_COM_EVT_LATE_ANSWER 36
  | some h =>
    match h.kind with
    | 1 => (s.dropHubTag h.tag).hubToLink h.p (if h.p.typ = 8 then 9 else p.typ) p.status p.reason p.payload
    | 2 => s.mcBranch h p.reason
    | 3 =>
      let s := s.dropHubTag h.tag
      if h.p.typ = 0 ∧ s.get F.PCIE_STATUS_DL_ACTIVE 0 = 1 then s.send (.hostCpl h.p.rtag (decide (p.status = 0) && decide (p.reason = 0)) p.payload) else s
    | _ => s

/-! ### Multicast (R420 to R422) -/

/-- The head VC2 packet at the hub from a link, or from this module's cores (63). -/
def State.vc2Head (s : State) (inLink : Nat) : Option Packet :=
  if inLink = 63 then (lookD [] s.deliv hubKey).find? (fun p => decide (p.vc = 2))
  else (lookD [] (s.link inLink).rxq 2).head?

def State.dropVc2 (s : State) (inLink : Nat) : State :=
  if inLink = 63 then
    { s with deliv := putD natLt [] s.deliv hubKey (dropFirst (fun q => decide (q.vc = 2)) (lookD [] s.deliv hubKey)) }
  else s.modLink inLink (fun l => { l with rxq := putD natLt [] l.rxq 2 ((lookD [] l.rxq 2).drop 1) })

/-- Flit bodies a VC's stream still needs to carry everything placed in it. -/
def txBodies (l : List TxPkt) : Nat := (l.foldl (fun n t => n + ((encodePacket t.p).length - t.sent)) 0 + 244) / 245

/-- HUB_MC_FORWARD (R420 to R422): the multicast at the head of a link's VC2 stream, or of this module's (63). -/
def execHubMcForward (idx : Nat) (s : State) : Host.Outcome State Fault Refusal :=
  match s.vc2Head idx with
  | none => .next s
  | some p =>
    if p.typ ≠ 8 ∨ (idx ≠ 63 ∧ !(s.admitted idx)) then .next s
    else
      let g := p.mod - 0x8000
      let grp := decide (0x8000 ≤ p.mod) && decide (p.mod < 0x9000)
      let ok := grp && decide (s.get F.EVL_MC_VALID 36 g = 1) && decide (s.get F.EVL_MC_IN_LINK 36 g = idx)
      if !ok then .next (((s.dropVc2 idx).flag F.EVL_COM_EVT_MC_DROP 36).hubRefuse p idx rUNMAPPED)
      else
        let out := (List.range 36).filter (fun n => bitOf (s.get F.EVL_MC_OUT 36 g) n)
        let loc := decide (s.get F.EVL_MC_LOCAL 36 g = 1)
        let branches := out.length + b2n loc
        let up := out.filter (fun n => s.linkUp n)
        let room := up.all (fun n =>
          decide (txBodies (lookD [] (s.link n).tx 2 ++ [{ p := p }]) ≤ s.get F.EVL_CRED_VC2 n))
        let needTag := decide (idx = 63) || loc || decide (1 < branches)
        if !room || (needTag && s.freeHubTag.isNone) then .next s
        else if branches = 0 then .next ((s.dropVc2 idx).hubRefuse p idx 0)
        else if !needTag then
          match up with
          | n :: _ => .next ((s.dropVc2 idx).linkQueue n p false)
          | [] => .next ((s.dropVc2 idx).hubRefuse p idx rUNROUTABLE)
        else
          let t := s.freeHubTag.getD 0
          let q := { p with src := 0x800, tag := t, smod := s.modId, dnode := 0, snode := 0 }
          let s := s.dropVc2 idx
          let s := s.addHubTag { tag := t, kind := 2, p := p, link := idx, at_ := s.now, left := branches, sent := q }
          let s := up.foldl (fun s n => s.linkQueue n q false) s
          let bad := loc && (s.hubUnmapped p.addr || decide (s.far p.addr = .host))
          let s := if loc && !bad then
              let typ := match s.far p.addr with
                | .group _ _ => 8
                | _ => 1
              (s.hubInject { p with typ := typ } t).1
            else s
          let refused := (List.replicate (out.length - up.length) rUNROUTABLE) ++ (if bad then [rUNMAPPED] else [])
          .next (refused.foldl (fun s r => match s.hubTag t with
            | some h => s.mcBranch h r
            | none => s) s)

/-! ### Signals on a link (R409, R461) -/

/-- A signal as the two words of R335, and back. -/
def sigBytes (g : Sig) : List Byte :=
  leBytes 8 (2 * 2 ^ 62 + g.dcore % 2048 * 2 ^ 51 + g.ctr % 32 * 2 ^ 46 + g.inc % 2 ^ 16 * 2 ^ 30 + g.win % 16 * 2 ^ 26
    + g.score % 2048 * 2 ^ 15) ++ leBytes 8 (g.bytes % 2 ^ 32 * 2 ^ 32 + g.rchan % 1024 * 2 ^ 22 + g.mod % 2 ^ 16 * 2 ^ 6)
def sigOf (smod due : Nat) (bs : List Byte) : Sig :=
  let a := leNat (bs.take 8)
  let b := leNat ((bs.drop 8).take 8)
  { dcore := a / 2 ^ 51 % 2048, ctr := a / 2 ^ 46 % 32, inc := a / 2 ^ 30 % 2 ^ 16, win := a / 2 ^ 26 % 16, score := a / 2 ^ 15 % 2048,
    bytes := b / 2 ^ 32 % 2 ^ 32, rchan := b / 2 ^ 22 % 1024, mod := smod, due := due }

/-- A signal is on its way to its core, in the order of its arrival. -/
def State.sigTo (s : State) (g : Sig) : State := s.modCore g.dcore (fun x => { x with sigIn := x.sigIn ++ [g] })

/-- Signals the reduction-channel engine holds. -/
def State.rchHeld (s : State) : Nat := s.rchSig.foldl (fun n x => n + x.2.length) 0

/-- A WIN 0x8 signal at the module root (R461): held by the engine, or kept back when the engine holds 4,096. -/
def State.rchHold (s : State) (g : Sig) : State :=
  if 4096 ≤ s.rchHeld then { s with rchBack := s.rchBack ++ [g] }.flag F.MSU_RCH_EVT_PEND_FULL 0
  else
    let s := { s with rchSig := putD natLt [] s.rchSig g.rchan (lookD [] s.rchSig g.rchan ++ [g]) }
    s.set F.MSU_RCH_PEND_HIGH_WATER 0 (max (s.get F.MSU_RCH_PEND_HIGH_WATER 0) s.rchHeld)

/-- ACLK from the module root to a core (R461). -/
def rootDown : Nat := 39

/-- A signal reaches the module root for a core of this module. -/
def State.rootSignal (s : State) (g : Sig) : State := if g.win = 8 then s.rchHold g else s.sigTo g

/-- A signal for another module leaves by a link (R334, R409); on a miss it is dropped (R413). -/
def State.sigOut (s : State) (mod : Nat) (g : Sig) : State :=
  let p : Packet := { typ := 16, vc := 3, dnode := 0, snode := 0, src := 0x800, tag := 0, len := 16, mod := mod, smod := s.modId,
                      payload := sigBytes { g with mod := mod } }
  match s.routeOut p true with
  | some s => s
  | none => s.unroutable p 63

/-- SIGNAL (R409): the signal at the head of a link's VC3 stream, for this module, goes to the module root. -/
def execLinkSignal (inLink : Nat) (s : State) : Host.Outcome State Fault Refusal :=
  match lookD [] (s.link inLink).rxq 3 with
  | p :: rest =>
    if p.typ = 16 ∧ s.ownMod p.mod ∧ s.admitted inLink then
      let s := s.modLink inLink (fun l => { l with rxq := putD natLt [] l.rxq 3 rest })
      .next (s.rootSignal (sigOf p.smod (s.now + rootDown) p.payload))
    else .next s
  | [] => .next s

/-! ### Forwarding at the hub (R412 to R419) -/

/-- LINK_PACKET_FORWARD (R412, R413, R416, R572): the packet at the head of a link's stream of a VC; one of a link that is not
admitted is discarded and counted. Packets for other modules go on;
requests and answers for this module go into it; a hub message for this module is consumed by the hub controller, whose
commands give its effects; multicasts and this module's signals have their own commands. -/
def execLinkPacketForward (inLink vc : Nat) (s : State) : Host.Outcome State Fault Refusal :=
  match lookD [] (s.link inLink).rxq vc with
  | [] => .next s
  | p :: rest =>
    let pop (s : State) : State := s.modLink inLink (fun l => { l with rxq := putD natLt [] l.rxq vc rest })
    if !(s.admitted inLink) then .next ((pop s).unroutable p inLink)
    else if p.typ = 8 then .next s
    else if vc = 3 ∧ p.typ = 18 then .next ((pop s).unroutable p inLink)
    else if !(s.ownMod p.mod) then
      match (pop s).routeOut p false with
      | some s' => .next s'
      | none =>
        let s := (pop s).unroutable p inLink
        .next (if vc = 0 ∨ vc = 2 then s.hubRefuse p inLink rUNROUTABLE else s)
    else if vc = 3 then (if p.typ = 16 then .next s else .next (pop s))
    else if vc = 1 then .next ((pop s).linkAnswer p)
    else
      match (pop s).hubLocal p inLink with
      | some s' => .next s'
      | none => .next (s.flag F.EVL_COM_EVT_TAG_STALL 36)

/-- HUB_TAG_TIMEOUT (R418): an outgoing request's tag has been held for EVL_TAG_CFG.TIMEOUT. -/
def execHubTagTimeout (tag : Nat) (s : State) : Host.Outcome State Fault Refusal :=
  match s.hubTag tag with
  | none => .next s
  | some h =>
    if h.kind ≠ 0 then .next s
    else
      let s := s.at_ (h.at_ + max 1 (s.get F.EVL_TAG_CFG_TIMEOUT 36) * 10 * usAclk)
      let s := ((s.dropHubTag tag).bump F.EVL_DROP_CNT_TIMEOUT 36).flag F.EVL_COM_EVT_TAG_TIMEOUT 36
      .next (s.hubToCore h.p (if h.p.typ = 8 then 9 else 5) 0 rUNROUTABLE [])

/-! ### The state of a link (R393 to R396) -/

/-- Going DOWN (R396, R419): what was sent or partly received is lost; packets that wait and are in no flit are looked up
again. -/
def State.linkDown (s : State) (n : Nat) : State :=
  if s.linkState n = 0 then s
  else
    let l := s.link n
    let waiting := l.tx.flatMap (fun x => (x.2.filter (fun t => decide (t.sent = 0))).map (·.p))
    let partial_ := l.rx.any (fun x => !x.2.isEmpty)
    let s := s.setLink n { ({} : LinkSt) with downAt := s.now, rxq := l.rxq }
    let s := (s.flag F.EVL_EVT_DOWN n).flagIf (partial_ && decide (l.retrain || s.linkActive n)) F.EVL_EVT_SEQ_ERR n
    let s := (s.set F.EVL_STATUS_STATE n 0).set F.EVL_STATUS_RATE n 0
    let s := (s.set F.NVCF_NB_ADMITTED 0 0 n).set F.NVCF_NB_RESULT 0 0 n
    let s := (s.wr ⟨.EVL_CRED, n, 0⟩ 0).set F.EVL_REPLAY_NEXT_SEQ n 0
    waiting.foldl (fun s p => match s.routeOut p (decide (p.smod = s.modId)) with
      | some s => s
      | none =>
        let s := s.unroutable p 63
        match s.hubTag p.tag with
        | some h =>
          if h.kind = 0 ∧ (p.vc = 0 ∨ p.vc = 2) ∧ p.smod = s.modId then (s.dropHubTag h.tag).hubRefuse h.p 63 rUNROUTABLE
          else if h.kind = 2 ∧ p.typ = 8 ∧ p.smod = s.modId then s.mcBranch h rUNROUTABLE else s
        | none => s) s

/-- A protocol violation of the partner (R407). -/
def State.linkBreak (s : State) (n : Nat) : State := (s.linkDown n).flag F.EVL_EVT_SEQ_ERR n

/-- A retrain begins (R395, R402). -/
def State.linkRetrain (s : State) (n : Nat) : State :=
  if s.linkActive n then
    (((s.modLink n (fun l => { l with retrain := true })).set F.EVL_STATUS_STATE n 4).bump F.EVL_STATUS_RETRAINS n).flag F.EVL_EVT_RETRAIN n
  else s

/-- The link may train: EN, an existing link, no safe state (R393, R396). -/
def State.linkMay (s : State) (n : Nat) : Bool :=
  decide (n < 36) && decide (s.get F.EVL_CFG_EN n = 1) && !s.tripped && s.reach .hub .EVL n

/-- LINK_SIGNAL_DETECT (R393): a signal on all four lanes of a link that is DOWN and enabled. -/
def execLinkSignalDetect (link : Nat) (s : State) : Host.Outcome State Fault Refusal :=
  .next (if s.linkMay link && decide (s.linkState link = 0) then s.set F.EVL_STATUS_STATE link 1 else s)

/-- DETECT_TIMEOUT (R393): no lane lock within 1 ms. -/
def execDetectTimeout (link : Nat) (s : State) : Host.Outcome State Fault Refusal :=
  .next (if s.linkState link = 1 then s.linkDown link else s)

/-- DETECT_RETRY (R393): a new attempt 100 ms after a failed DETECT. -/
def execDetectRetry (link : Nat) (s : State) : Host.Outcome State Fault Refusal :=
  .next (if s.linkMay link && decide (s.linkState link = 0) then
    (s.at_ ((s.link link).downAt + 100000 * usAclk)).set F.EVL_STATUS_STATE link 1 else s)

/-- LANE_LOCK (R393): DETECT to TRAIN, at the training rate. -/
def execLaneLock (link : Nat) (s : State) : Host.Outcome State Fault Refusal :=
  .next (if s.linkState link = 1 then (s.set F.EVL_STATUS_STATE link 2).set F.EVL_STATUS_RATE link 1 else s)

/-- TRAIN_COMPLETE (R393): TRAIN to EXCHANGE. -/
def execTrainComplete (link : Nat) (s : State) : Host.Outcome State Fault Refusal :=
  .next (if s.linkState link = 2 then s.set F.EVL_STATUS_STATE link 3 else s)

/-- TRAIN_TIMEOUT (R393): TRAIN to DOWN. -/
def execTrainTimeout (link : Nat) (s : State) : Host.Outcome State Fault Refusal :=
  .next (if s.linkState link = 2 then s.linkDown link else s)

/-- EXCHANGE (R393, R394, R404): the partner's capability word; the highest rate that both ends offer is chosen. -/
def execExchange (link : Nat) (cap : CapWord) (s : State) : Host.Outcome State Fault Refusal :=
  if s.linkState link ≠ 3 ∨ !cap.ok then .next s
  else
    let rate := if s.get F.EVL_CFG_MAX_RATE link = 3 ∧ cap.evl3 then 3 else 2
    let s := (s.set F.EVL_STATUS_PARTNER_MOD link cap.partner).set F.EVL_STATUS_PARTNER_LINK link cap.link
    let s := (List.range 4).foldl (fun s vc => s.setCred link vc (cap.bufs.getD vc 0)) s
    let s := s.modLink link (fun l => { l with grant := [(0, rxBuf 0), (1, rxBuf 1), (2, rxBuf 2), (3, rxBuf 3)], ackAt := s.now })
    .next ((s.set F.EVL_STATUS_STATE link 4).set F.EVL_STATUS_RATE link rate)

/-- RATE_RESULT (R393, R394): the measurement at the chosen rate; a failure at EVL3 falls back to EVL2 once. -/
def execRateResult (link : Nat) (pass : Bool) (uncorr : Nat) (s : State) : Host.Outcome State Fault Refusal :=
  if s.linkState link ≠ 4 ∨ (s.link link).retrain then .next s
  else
    let s := (s.bump F.EVL_ERR_CNT_UCW link uncorr).flagIf (decide (0 < uncorr)) F.EVL_EVT_FEC_UCW link
    if pass && decide (uncorr = 0) then .next (s.set F.EVL_STATUS_STATE link 5)
    else if s.get F.EVL_STATUS_RATE link = 3 then .next ((s.set F.EVL_STATUS_RATE link 2).flag F.EVL_EVT_FALLBACK link)
    else .next (s.linkDown link)

/-- Held flits covered by an acknowledgement (R401): those up to `ack`. -/
def ackDrop (ack : Nat) (l : List FlitIn) : List FlitIn := l.filter (fun f => decide (2048 ≤ (ack + 4096 - f.seq) % 4096))

/-- RETRAIN_COMPLETE (R395): the partner's next expected sequence number says from where to resend; a failure takes the link
DOWN. -/
def execRetrainComplete (link : Nat) (pass : Bool) (nextSeq : Nat) (s : State) : Host.Outcome State Fault Refusal :=
  let l := s.link link
  if !(decide (s.linkState link = 4) && l.retrain) then .next s
  else if !pass then .next (s.linkDown link)
  else
    let held := ackDrop ((nextSeq + 4095) % 4096) l.replay
    let s := s.setLink link { l with retrain := false, replay := held, resend := (held.head?).map (fun g => g.seq), nakWait := false, nakDue := false,
                                     nakRow := 0, ackAt := s.now, ucw := [] }
    .next (((s.set F.EVL_STATUS_STATE link 5).set F.NVCF_NB_ADMITTED 0 0 link).set F.NVCF_NB_RESULT 0 0 link)

/-- LOSS_OF_SIGNAL (R396): signal lost on all four lanes for 1 µs. -/
def execLossOfSignal (link : Nat) (s : State) : Host.Outcome State Fault Refusal := .next (s.linkDown link)

/-- LANE_SIGNAL_LOSS (R396): loss of signal on some lanes, fewer than four, starts a retrain. -/
def execLaneSignalLoss (link lanes : Nat) (s : State) : Host.Outcome State Fault Refusal :=
  .next (if lanes % 16 = 0 then s else if lanes % 16 = 15 then s.linkDown link else s.linkRetrain link)

/-- A write to EVL_CFG: clearing EN takes the link DOWN (R396). -/
def State.evlCfgWrite (s : State) (m : Master) (n : Nat) (v mask : Word) (addr : Nat) : State :=
  let s := s.accWrite m ⟨.EVL_CFG, n, 0⟩ v mask addr
  if s.get F.EVL_CFG_EN n = 0 then s.linkDown n else s

/-- EVL_EN_WRITE (R396): a write to EVL_CFG. -/
def execEvlEnWrite (m : Master) (link : Nat) (v : Word) (s : State) : Host.Outcome State Fault Refusal :=
  .next (s.regCmd m .EVL link (fun s => s.evlCfgWrite m link v lowMask (0x3040000 + 0x1000 * link + 8)))

/-! ### Flits (R397 to R407) -/

/-- A flit is discarded (R398, R400): counted, and a resend is asked for. -/
def State.flitBad (s : State) (n : Nat) (ucw : Bool) : State :=
  let s := (s.bump F.EVL_ERR_CNT_CRC n).flag F.EVL_EVT_CRC_FAIL n
  let s := if ucw then (s.bump F.EVL_ERR_CNT_UCW n).flag F.EVL_EVT_FEC_UCW n else s
  let recent := ((s.link n).ucw.filter (fun t => decide (s.now < t + 1000 * usAclk))) ++ (if ucw then [s.now] else [])
  let s := s.modLink n (fun l =>
    let due := !l.nakWait || decide (l.nakAt + 2 * usAclk ≤ s.now)
    { l with nakWait := true, nakDue := l.nakDue || due, nakAt := if due then s.now else l.nakAt, ucw := recent })
  if ucw && decide (s.get F.EVL_CFG_UCW_LIMIT n ≤ recent.length) then s.linkRetrain n else s

/-- ACK, NAK and credits of a good flit (R399, R401, R402, R404). -/
def State.flitControl (s : State) (n : Nat) (f : FlitIn) : State :=
  let l := s.link n
  let held := ackDrop f.ack l.replay
  let s := s.modLink n (fun l => { l with replay := held, ackAt := if held.length < l.replay.length then s.now else l.ackAt })
  let s := if f.credN = 0 then s else s.setCred n (f.credVc % 4) (min 0xFFFF (s.get (credField (f.credVc % 4)) n + f.credN))
  if f.nak then
    let first := (f.ack + 1) % 4096
    let row := if l.nakSeq = first ∧ 0 < l.nakRow then l.nakRow + 1 else 1
    let s := s.modLink n (fun l => { l with resend := (l.replay.head?).map (fun g => g.seq), nakSeq := first, nakRow := row })
    if s.get F.EVL_CFG_RETRY_LIMIT n ≤ row then s.linkRetrain n else s
  else s

/-- PERT_CREDIT delays the credit returns of a VC of a link (R726). -/
def State.pertCredit (s : State) (n vc : Nat) : Bool :=
  decide (s.get F.PERT_CREDIT_EN 0 = 1) && s.bit F.PERT_CREDIT_LINKS 0 n && s.bit F.PERT_CREDIT_VCS 0 vc

/-- Cut-through of the hub from link to link, in HCLK, which pass as ACLK do (R15). -/
def hubCut : Nat := 24

/-- A DATA flit that passed its CRC (R400, R407). Packets that go on to another link leave no earlier than 24 HCLK after their first byte
came (R15). -/
def State.flitData (s : State) (n : Nat) (f : FlitIn) : State :=
  let l := s.link n
  let vc := f.vc % 4
  let badPtr := decide (f.firstPtr ≠ 0xFF) && decide (f.body.length ≤ f.firstPtr)
  if f.seq = l.eseq then
    if badPtr || f.body.isEmpty then s.linkBreak n
    else if vcGet l.grant vc = 0 then (s.linkBreak n).flag F.EVL_EVT_CREDIT_OVER n
    else
      let (ps, rest) := decodeAll vc (f.body.length + 1) (lookD [] l.rx vc ++ f.body)
      let began := if (lookD [] l.rx vc).isEmpty then s.now else lookD s.now l.rxAt vc
      let ps := ps.zipIdx.map (fun (p, i) => { p with due := (if i = 0 then began else s.now) + hubCut })
      let slow := s.pertCredit n vc
      s.setLink n { l with eseq := (l.eseq + 1) % 4096, nakWait := false, grant := vcSet l.grant vc (vcGet l.grant vc - 1),
                           ret := if slow then l.ret else vcSet l.ret vc (vcGet l.ret vc + 1),
                           late := if slow then l.late ++ [(vc, s.now + s.get F.PERT_CREDIT_DELAY 0)] else l.late, rx := putD natLt [] l.rx vc rest,
                           rxAt := putD natLt 0 l.rxAt vc (if rest.isEmpty then 0 else if ps.isEmpty then began else s.now),
                           rxq := putD natLt [] l.rxq vc (lookD [] l.rxq vc ++ ps) }
  else if l.nakWait then s
  else if 1 ≤ (l.eseq + 4096 - f.seq) % 4096 ∧ (l.eseq + 4096 - f.seq) % 4096 ≤ 2048 then s
  else s.linkBreak n

/-- DATA_FLIT_RECEIVE (R398 to R400). -/
def execDataFlitReceive (link : Nat) (f : FlitIn) (s : State) : Host.Outcome State Fault Refusal :=
  if !(s.linkActive link) then .next s
  else
    let s := s.bump F.EVL_ERR_CNT_CORR_SYM link f.corr
    if !f.crcOk || f.ucw then .next (s.flitBad link f.ucw)
    else if f.ftype ≠ 0 then .next (s.linkBreak link)
    else
      let s := s.flitControl link f
      .next (if s.linkActive link then s.flitData link f else s)

/-- IDLE_FLIT_RECEIVE (R399). -/
def execIdleFlitReceive (link : Nat) (f : FlitIn) (s : State) : Host.Outcome State Fault Refusal :=
  if !(s.linkActive link) then .next s
  else
    let s := s.bump F.EVL_ERR_CNT_CORR_SYM link f.corr
    if !f.crcOk || f.ucw then .next (s.flitBad link f.ucw)
    else if f.ftype ≠ 1 then .next (s.linkBreak link)
    else .next (s.flitControl link f)

/-- The packet a VC's stream sends next: the one already begun; on VC0 ring packets in SHARE of every 16 choices (R427). -/
def txPick (l : List TxPkt) (share ringN : Nat) : Option TxPkt :=
  match l.find? (fun t => decide (0 < t.sent)) with
  | some t => some t
  | none =>
    let ring := l.find? (fun t => t.ring)
    let other := l.find? (fun t => !t.ring)
    match ring, other with
    | some r, some o => if share = 0 then l.head? else if ringN % 16 < share then some r else some o
    | some r, none => some r
    | none, o => o

/-- SHARE for the ring packets of a link. -/
def State.shareOf (s : State) (n : Nat) (l : List TxPkt) : Nat :=
  match l.find? (fun t => t.ring) with
  | some t => match s.ringEntry t.p with
    | some k => s.get F.EVL_RING_CFG_SHARE 36 k
    | none => 0
  | none => 0 * n

/-- Filling a body of at most `room` bytes from a stream: the body, where the first packet begins, the stream afterwards, and
ring choices made. -/
def txFill (share : Nat) : Nat → Nat → Nat → List Byte → Option Nat → List TxPkt → List Byte × Option Nat × List TxPkt × Nat
  | 0, _, ringN, acc, fp, l => (acc, fp, l, ringN)
  | fuel + 1, room, ringN, acc, fp, l =>
    if room = 0 then (acc, fp, l, ringN)
    else
      match txPick l share ringN with
      | none => (acc, fp, l, ringN)
      | some t =>
        let both := decide (t.sent = 0) && l.any (fun x => x.ring) && l.any (fun x => !x.ring)
        let bs := (encodePacket t.p).drop t.sent
        let fp' := if t.sent = 0 ∧ fp = none then some acc.length else fp
        let k := min room bs.length
        let l' := if k = bs.length then dropFirst (fun x => decide (x = t)) l
          else { t with sent := t.sent + k } :: dropFirst (fun x => decide (x = t)) l
        txFill share fuel (room - k) (if both then ringN + 1 else ringN) (acc ++ bs.take k) fp' l'

/-- The packets of a VC's stream that may leave in an ACLK (R15): those before the first that is not due. -/
def LinkSt.txReady (l : LinkSt) (vc now : Nat) : List TxPkt := (lookD [] l.tx vc).takeWhile (fun t => decide (t.p.due ≤ now))

/-- The VC of the next DATA flit (R405): VC3, VC1, then VC0 and VC2 alternately, among those with data and credit. -/
def State.txVc (s : State) (n : Nat) : Option Nat :=
  let l := s.link n
  let ok (vc : Nat) : Bool := !(l.txReady vc s.now).isEmpty && decide (0 < s.get (credField vc) n)
  if ok 3 then some 3 else if ok 1 then some 1
  else if l.alt then (if ok 0 then some 0 else if ok 2 then some 2 else none)
  else (if ok 2 then some 2 else if ok 0 then some 0 else none)

/-- The pending credit return a flit carries (R404): the next VC in round-robin order, at most 63. -/
def LinkSt.credReturn (l : LinkSt) : Nat × Nat :=
  match [1, 2, 3, 4].find? (fun d => decide (0 < vcGet l.ret ((l.rr + d) % 4))) with
  | some d => ((l.rr + d) % 4, min 63 (vcGet l.ret ((l.rr + d) % 4)))
  | none => (0, 0)

/-- Delayed credit returns whose instant has come join the pending ones (R726). -/
def LinkSt.dueCredits (l : LinkSt) (now : Nat) : LinkSt :=
  (l.late.filter (fun d => decide (d.2 ≤ now))).foldl (fun (l : LinkSt) d => { l with ret := vcSet l.ret d.1 (vcGet l.ret d.1 + 1) })
    { l with late := l.late.filter (fun d => decide (now < d.2)) }

/-- FLIT_TRANSMIT (R399, R401, R404, R405): the next flit of a link: a held one, a new DATA flit, or an IDLE flit. -/
def execFlitTransmit (link : Nat) (s : State) : Host.Outcome State Fault Refusal :=
  if !(s.linkActive link) then .next s
  else
    let l : LinkSt := (s.link link).dueCredits s.now
    let (cv, cn) := l.credReturn
    let rr' := if cn = 0 then l.rr else cv
    let l : LinkSt := { l with ret := vcSet l.ret cv (vcGet l.ret cv - cn), rr := rr', grant := vcSet l.grant cv (vcGet l.grant cv + cn) }
    let head : FlitIn := { crcOk := true, ucw := false, ftype := 1, vc := 0, seq := 0, ack := (l.eseq + 4095) % 4096, nak := l.nakDue,
                           firstPtr := 0xFF, credVc := cv, credN := cn, body := [] }
    let l : LinkSt := { l with nakDue := false }
    let again : Option FlitIn := match l.resend with
      | some q => l.replay.find? (fun f => decide (f.seq = q))
      | none => none
    match again with
    | some f =>
      let after := (l.replay.dropWhile (fun g => decide (g.seq ≠ f.seq))).drop 1
      let s := s.setLink link { l with resend := (after.head?).map (fun g => g.seq) }
      let s := (s.pmon .EVL link 0xA0 0 1).pmon .EVL link 0xA2 0 1
      .next (s.send (.linkFlit link { head with ftype := 0, vc := f.vc, seq := f.seq, firstPtr := f.firstPtr, body := f.body }))
    | none =>
      let l : LinkSt := { l with resend := none }
      let s := s.setLink link l
      match (if l.replay.length < 2048 then s.txVc link else none) with
      | some vc =>
        let q := l.txReady vc s.now
        let (body, fp, q', rn) := txFill (s.shareOf link q) (q.length + 1) 245 l.ringN [] none q
        let seq := s.get F.EVL_REPLAY_NEXT_SEQ link
        let f := { head with ftype := 0, vc := vc, seq := seq, firstPtr := fp.getD 0xFF, body := body }
        let l' := { l with tx := putD natLt [] l.tx vc (q' ++ (lookD [] l.tx vc).drop q.length), replay := l.replay ++ [f], ringN := rn,
                           ackAt := if l.replay.isEmpty then s.now else l.ackAt,
                           alt := if vc = 2 then true else if vc = 0 then false else l.alt }
        let s := (s.setLink link l').set F.EVL_REPLAY_NEXT_SEQ link ((seq + 1) % 4096)
        let s := (s.pmon .EVL link 0xA0 0 1).pmon .EVL link 0xA4 0 (rn - l.ringN)
        .next ((s.setCred link vc (s.get (credField vc) link - 1)).send (.linkFlit link f))
      | none => .next ((s.pmon .EVL link 0xA0 0 1).send (.linkFlit link head))

/-- ACK_TIMEOUT (R402): unacknowledged flits held and no ACK progress for EVL_CFG.ACK_TIMEOUT µs. -/
def execAckTimeout (link : Nat) (s : State) : Host.Outcome State Fault Refusal :=
  let l := s.link link
  if !(s.linkActive link) || l.replay.isEmpty then .next s
  else .next ((s.at_ (l.ackAt + max 1 (s.get F.EVL_CFG_ACK_TIMEOUT link) * usAclk)).linkRetrain link)

/-- CREDIT_STALL (R407): a VC's credit count has stayed at zero for 100 µs. -/
def execCreditStall (link vc : Nat) (s : State) : Host.Outcome State Fault Refusal :=
  match find? (s.link link).zero (vc % 4) with
  | some t => if s.linkActive link then .next ((s.at_ (t + 100 * usAclk)).flag F.EVL_EVT_CREDIT_STALL link) else .next s
  | none => .next s

end Sys2Proof.Machine
end

