-- ==== Sys2Proof/Machine/Mesh.lean ====
section
/-! DEFINITION. The data mesh in service (R310 to R328): requests and answers at cluster routers, memory ports and the hub,
routing, combining reductions, die multicast, and RESUME. -/

namespace Sys2Proof.Machine

open Sys2Proof

/-- Key of the queues of a place. -/
def placeKey : Place → Nat
  | .node die node => nodeKey die node
  | .hub => hubKey

def isCluster (node : Nat) : Bool := decide (node < 0x30)
def isMemPort (node : Nat) : Bool := decide (0x30 ≤ node) && decide (node < 0x3C)

/-- Instance of the router a station stands at. -/
def routerOf (die node : Nat) : Nat := 48 * die + (if node < 48 then node else nodeRow node * 8 + nodeCol node)

/-- The refusal of a request that reached a node of a die. -/
def State.nodeRefuse (s : State) (die node : Nat) (p : Packet) (reason : Nat) : State :=
  s.answer die node p (if p.typ = 8 then 9 else 5) 0 reason []

/-! ### Requests -/

/-- A request at a cluster router's LOCAL port: an access to the window of one of its cores (R328). -/
def State.localRequest (s : State) (die cl : Nat) (p : Packet) (hw : MemHw) : State :=
  match s.far p.addr with
  | .core c =>
    if dieOf c = die ∧ clusterOf c = cl then
      let a : BankAcc := { master := .mesh, isRead := decide (p.typ = 0), bop := if p.typ = 2 then p.bop else 0, fmt := p.fmt,
                           off := winOff p.addr, len := p.len, imm := p.imm, count := p.count, data := p.payload, since := s.now,
                           ans := .mesh p cl, grp := 0 }
      if p.typ = 2 ∧ p.bop = 0 then s.nodeRefuse die cl p rBANK_OP else s.meshAccess c a hw
    else s.nodeRefuse die cl p rUNMAPPED
  | .group _ _ => s.nodeRefuse die cl p (if p.typ = 2 then rBANK_OP else rUNMAPPED)
  | _ => s.nodeRefuse die cl p rUNMAPPED

/-- An operation a memory port accepts: RACC of FP32, BF16 or G8, SCALE and FILL of FP32 or BF16 (R275). -/
def msuFormOk (p : Packet) : Bool :=
  match p.bop with
  | 0 => decide (p.fmt = 9) || decide (p.fmt = 7) || decide (p.fmt = 14)
  | 1 => decide (p.fmt = 9) || decide (p.fmt = 7)
  | 2 => decide (p.fmt = 9) || decide (p.fmt = 7)
  | _ => false

/-- A request at a memory port of a die. -/
def State.memRequest (s : State) (die node : Nat) (p : Packet) (hw : MemHw) : State :=
  let r : HbmReq := { p := p, place := nodeKey die node }
  if p.typ = 2 ∧ p.bop = 6 then s.optArrive r
  else
    let here := match s.far p.addr with
      | .hbm => true
      | .ctx => true
      | _ => false
    if !here || decide ((s.hbmPlace p.addr).stack / 4 ≠ die) then s.nodeRefuse die node p rUNMAPPED
    else if p.typ = 7 then s.redArrive r hw
    else if p.typ = 2 ∧ !(msuFormOk p) then s.nodeRefuse die node p rBANK_OP
    else s.hbmArrive r hw

/-- A request of this module's cores at the hub: for another module, for the host, or refused. None when it waits for a
tag. -/
def State.hubRequest (s : State) (p : Packet) : Option State :=
  if !(s.ownMod p.mod) then
    if 0x4000 ≤ p.mod then some (s.hubRefuse p 63 rUNMAPPED) else s.hubOutgoing p
  else if s.far p.addr = .host then
    if p.typ = 0 ∧ s.freeHubTag = none then none else some (s.hwinRequest p 63)
  else some (s.hubRefuse p 63 rUNMAPPED)

/-- An access to a core's ACB waits for the shared port of its bank (R26). -/
def State.acbWaits (s : State) (p : Packet) (cores : List Nat) : Bool :=
  decide (0xC0000 ≤ winOff p.addr) && cores.any (fun c => s.acbBusy c (winOff p.addr) p.len)

/-- The core whose window a request addresses. -/
def State.coreOf (s : State) (a : Nat) : List Nat :=
  match s.far a with
  | .core c => [c]
  | _ => []

/-- A request of one type at the head of its virtual channel at a place; it waits for an ACB port that is busy. -/
def State.request (s : State) (at_ : Place) (typ : Nat) (hw : MemHw) : State :=
  match s.takeDeliv (placeKey at_) (vcOf typ) (fun t => decide (t = typ)) with
  | none => s
  | some (p, s') =>
    match at_ with
    | .hub => match s'.hubRequest p with
      | some s'' => s''
      | none => s.flag F.EVL_COM_EVT_TAG_STALL 36
    | .node die node =>
      if isCluster node then (if s'.acbWaits p (s'.coreOf p.addr) then s else s'.localRequest die node p hw)
      else if isMemPort node then s'.memRequest die node p hw
      else s'.nodeRefuse die node p rUNMAPPED

/-- MESH_RD (R272, R315): a read request is served where it was delivered. -/
def execMeshRd (at_ : Place) (hw : MemHw) (s : State) : Host.Outcome State Fault Refusal := .next (s.request at_ 0 hw)

/-- MESH_WR (R271, R315): a write request; `hw` is what the reads of ACB words that it writes in part find. -/
def execMeshWr : PlaceRead → State → Host.Outcome State Fault Refusal
  | ⟨at_, hw⟩, s => .next (s.request at_ 1 hw)

/-- MESH_OP (R315): a bank or MSU operation. -/
def execMeshOp (at_ : Place) (s : State) : Host.Outcome State Fault Refusal := .next (s.request at_ 2 .ok)

/-- RED (R456): a reduction packet at a memory port or at the hub. -/
def execRed (at_ : Place) (s : State) : Host.Outcome State Fault Refusal := .next (s.request at_ 7 .ok)

/-- MCW (R326): a multicast write delivered at a router of its tree is written to the member cores of the cluster, each of
which answers; a fenced member refuses. At the hub HUB_MC_FORWARD takes it. -/
def execMcw (at_ : Place) (s : State) : Host.Outcome State Fault Refusal :=
  match at_ with
  | .hub => .next s
  | .node die node =>
    match s.takeDeliv (nodeKey die node) 2 (fun t => decide (t = 8)) with
    | none => .next s
    | some (p, s') =>
      match isCluster node, s'.far p.addr with
      | true, .group _ g =>
        let cores := ((List.range 16).filter (fun n => bitOf (s'.get F.MESH_MC_CORES (48 * die + node) g) n)).map
          (fun n => die * 1024 + node * 16 + n)
        if s'.acbWaits p cores then .next s
        else .next (cores.foldl (fun s c =>
          let a : BankAcc := { master := .mesh, isRead := false, bop := 0, fmt := p.fmt, off := winOff p.addr, len := p.len, imm := 0,
                               count := p.count, data := p.payload, since := s.now, ans := .mesh p node, grp := 0 }
          s.meshAccess c a .ok) s')
      | _, _ => .next (s'.nodeRefuse die node p rUNMAPPED)

/-- RESERVED_PACKET (R315): a packet of a reserved TYPE is answered REFUSE, reason UNMAPPED, with MESH_EVT.BAD_PKT. -/
def execReservedPacket (at_ : Place) (s : State) : Host.Outcome State Fault Refusal :=
  let key := placeKey at_
  match (lookD [] s.deliv key).find? (fun p => decide (9 < p.typ) && decide (p.vc ≠ 3)) with
  | none => .next s
  | some p =>
    let s := { s with deliv := putD natLt [] s.deliv key (dropFirst (fun q => decide (q = p)) (lookD [] s.deliv key)) }
    match at_ with
    | .hub => .next (s.hubRefuse p 63 rUNMAPPED)
    | .node die node => .next ((s.flag F.MESH_EVT_BAD_PKT (routerOf die node)).nodeRefuse die node p rUNMAPPED)

/-! ### Answers -/

/-- An answer for a combined packet: one answer of the same kind to each original, and the record is freed (R323). -/
def State.combAnswer (s : State) (die cl : Nat) (p : Packet) : Option State :=
  let k := 48 * die + cl
  let r := s.router k
  match r.comb.find? (fun x => decide (x.a.src = p.src) && decide (x.a.tag = p.tag)) with
  | none => none
  | some x =>
    let s := s.setRouter k { r with comb := dropFirst (fun y => decide (y = x)) r.comb }
    let s := s.set F.MESH_COMB_IN_USE k ((s.router k).comb.length)
    let one (s : State) (o : Packet) : State := s.answer die cl { o with rtag := p.rtag } p.typ p.status p.reason p.payload
    some (one (one s x.a) x.b)

/-- An answer delivered at a place, for a combined packet, a core's data mover, or a hub tag; the router of a core that is fenced or
under reset discards it (R328, R626), and its tag is no longer outstanding. -/
def State.answerAt (s : State) (at_ : Place) (p : Packet) : State :=
  match at_ with
  | .hub => s.dieAnswer p
  | .node die node =>
    if !(isCluster node) then s
    else
      match s.combAnswer die node p with
      | some s => s
      | none =>
        if 2048 ≤ p.src then s
        else if !(s.cutOff p.src) then s.dmAnswer p.src p.tag p.status p.reason p.payload
        else s.modCore p.src (fun x => { x with dmTags := x.dmTags.filter (fun g => decide (g.tag ≠ p.tag)) })

/-- The oldest host-window read that waits for its completion. -/
def State.hostRead (s : State) : Option HubTag := s.hubTags.find? (fun h => decide (h.kind = 4))

/-- Free bytes for the data of host memory, which the spec does not describe. -/
def State.freeBytes (s : State) : Nat → State × List Byte
  | 0 => (s, [])
  | n + 1 =>
    let (w, s) := s.fresh
    let (s, l) := State.freeBytes s n
    (s, w.extractLsb' 0 8 :: l)

/-- Ending a host-window read: the requester's answer (R593). -/
def State.hostReadEnd (s : State) (h : HubTag) (typ reason : Nat) (data : List Byte) : State :=
  let s := s.dropHubTag h.tag
  if h.link = 63 then s.hubToCore h.p typ 0 reason data else s.hubToLink h.p typ 0 reason data

/-- RDATA (R315): read data reaches its requester. At the hub, with no such packet delivered, it is the completion of the
oldest host-window read, whose data only the host knows. -/
def execRdata (at_ : Place) (s : State) : Host.Outcome State Fault Refusal :=
  match s.takeDeliv (placeKey at_) 1 (fun t => decide (t = 3)) with
  | some (p, s) => .next (s.answerAt at_ p)
  | none =>
    match at_, s.hostRead with
    | .hub, some h =>
      let (s, data) := s.freeBytes h.p.len
      .next (s.hostReadEnd h 3 0 data)
    | _, _ => .next s

/-- ACK (R323): an acknowledgement. -/
def execAck (at_ : Place) (s : State) : Host.Outcome State Fault Refusal :=
  match s.takeDeliv (placeKey at_) 1 (fun t => decide (t = 4)) with
  | some (p, s) => .next (s.answerAt at_ p)
  | none => .next s

/-- REFUSE (R240): a refusal. At the hub, with no such packet delivered, the oldest host-window read completes with UR, CA or
EP (R593). -/
def execRefuse (at_ : Place) (s : State) : Host.Outcome State Fault Refusal :=
  match s.takeDeliv (placeKey at_) 1 (fun t => decide (t = 5)) with
  | some (p, s) => .next (s.answerAt at_ p)
  | none =>
    match at_, s.hostRead with
    | .hub, some h => .next ((s.flag F.PCIE_EVT_HWIN_REFUSED 0).hostReadEnd h 5 rUNMAPPED [])
    | _, _ => .next s

/-- MCACK (R326): the answers of a multicast are gathered at the routers of its tree, and the last one reaches its source. -/
def execMcack (at_ : Place) (s : State) : Host.Outcome State Fault Refusal :=
  match s.takeDeliv (placeKey at_) 1 (fun t => decide (t = 9)) with
  | none => .next s
  | some (p, s) =>
    match at_ with
    | .hub => .next (s.dieAnswer p)
    | .node die node =>
      let gathers := (s.router (48 * die + node)).mc.any (fun m => decide (m.src = p.src) && decide (m.tag = p.tag))
      if gathers then .next (s.mcAnswer die node p.src p.tag p.reason) else .next (s.answerAt at_ p)

/-- BANK_FULL (R268): the requester keeps the tag and parks the request. -/
def execBankFull (at_ : Place) (s : State) : Host.Outcome State Fault Refusal :=
  match s.takeDeliv (placeKey at_) 1 (fun t => decide (t = 6)) with
  | none => .next s
  | some (p, s) =>
    match at_ with
    | .hub => .next (s.modHubTag p.tag (fun h => { h with parked := some p.rtag }))
    | .node die node =>
      match s.combAnswer die node p with
      | some s => .next s
      | none => .next (if p.src < 2048 then s.modCore p.src (fun x => { x with dmTags := x.dmTags.map (fun g =>
          if g.tag = p.tag then { g with parked := true, bank := p.rtag } else g) }) else s)

/-- RESUME (R269): the requester sends its oldest parked request for the bank; with more parked it moves to the tail of the
wait list, else it leaves it. -/
def execResume (at_ : Place) (s : State) : Host.Outcome State Fault Refusal :=
  match s.takeDeliv (placeKey at_) 3 (fun t => decide (t = 10)) with
  | none => .next s
  | some (m, s) =>
    let key := m.tag
    match at_ with
    | .hub =>
      let l := s.hubTags.filter (fun h => decide (h.parked = some key))
      let s := s.resumeList key 2048 (decide (1 < l.length))
      match l with
      | h :: _ =>
        let s := s.modHubTag h.tag (fun h => { h with parked := none })
        .next (s.inject (nodeKey h.sent.sdie h.sent.snode) h.sent)
      | [] => .next s
    | .node _ _ =>
      let c := m.src
      let l := (s.core c).dmTags.filter (fun g => g.parked && decide (g.bank = key))
      let s := s.resumeList key c (decide (1 < l.length))
      match l with
      | g :: _ =>
        let s := s.modCore c (fun x => { x with dmTags := x.dmTags.map (fun h => if h.tag = g.tag then { h with parked := false } else h) })
        .next (s.dmSend c (reqPacket c g.tag g.req g.req.data (s.isGroup g.req.far)))
      | [] => .next s

/-! ### Routers (R313, R318, R322, R323) -/

/-- Input buffer of a port and virtual channel. -/
def inKey (port vc : Nat) : Nat := 3 * port + vc

/-- The neighbour at a port: the next router's instance and the port by which it is entered, or the edge station. -/
inductive Beyond where
  | router (cl port : Nat)
  | station (node : Nat)
  deriving DecidableEq, Repr

def beyond (cl port : Nat) : Beyond :=
  let row := cl / 8
  let col := cl % 8
  match port with
  | 1 => if row = 0 then .station (0x50 + col) else .router (cl - 8) 3
  | 2 => if col = 7 then .station (0x36 + row) else .router (cl + 1) 4
  | 3 => if row = 5 then .station (0x40 + col) else .router (cl + 8) 1
  | _ => if col = 0 then .station (0x30 + row) else .router (cl - 1) 2

/-- The source queue that feeds a port from the cluster or an edge station, when there is one. -/
def feeder (die cl port : Nat) : Option Nat :=
  if port = 0 then some (nodeKey die cl)
  else match beyond cl port with
    | .station n => some (nodeKey die n)
    | .router _ _ => none

/-- The packet at the head of an input. -/
def State.inHead (s : State) (die cl port vc : Nat) : Option Packet :=
  match feeder die cl port with
  | some k => (lookD [] s.stq k).find? (fun p => decide (p.vc = vc))
  | none => (lookD [] (s.router (48 * die + cl)).inq (inKey port vc)).head?

/-- Taking it. -/
def State.inPop (s : State) (die cl port vc : Nat) : State :=
  match feeder die cl port with
  | some k => { s with stq := putD natLt [] s.stq k (dropFirst (fun p => decide (p.vc = vc)) (lookD [] s.stq k)) }
  | none =>
    let i := 48 * die + cl
    let r := s.router i
    s.setRouter i { r with inq := putD natLt [] r.inq (inKey port vc) ((lookD [] r.inq (inKey port vc)).drop 1) }

/-- Room beyond a port: a router's buffer of 4 beats per virtual channel; a station takes everything. -/
def State.roomAt (s : State) (die cl port vc : Nat) : Bool :=
  if port = 0 then true
  else match beyond cl port with
    | .station _ => true
    | .router c p => decide ((lookD [] (s.router (48 * die + c)).inq (inKey p vc)).length < 4)

/-- A packet leaves by a port: into the next router, to LOCAL or a memory port, over a bridge to the hub or to the other die,
where its DNODE is computed anew (R320). -/
def State.leave (s : State) (die cl port : Nat) (p : Packet) : State :=
  if port = 0 then s.deliver (nodeKey die cl) p
  else match beyond cl port with
    | .router c q =>
      let i := 48 * die + c
      let r := s.router i
      s.setRouter i { r with inq := putD natLt [] r.inq (inKey q p.vc) (lookD [] r.inq (inKey q p.vc) ++ [p]) }
    | .station n =>
      if n < 0x40 then s.deliver (nodeKey die n) p
      else if n < 0x50 then
        { s with laneRetry := s.laneRetry.filter (fun x => decide (x.1 ≠ 16 * (1 + die) + (n - 0x40))) }.deliver hubKey p
      else
        let d := 1 - die
        let col := n - 0x50
        let dn :=
          if p.vc = 1 then answerNode d n p.sdie p.snode
          else if p.typ = 2 ∧ p.bop = 6 then (if p.imm / 32 % 4 < 2 then 0x30 else 0x36)
          else s.dnodeFor d 0 col p.mod p.addr
        let s := { s with laneRetry := s.laneRetry.filter (fun x => decide (x.1 / 2 ≠ col) || decide (16 ≤ x.1)) }
        s.inject (nodeKey d n) { p with dnode := dn }

/-- R322: the arriving reduction may combine with the packet at the tail of the output queue. -/
def combines (a b : Packet) : Bool :=
  decide (a.rtag ≠ 0) && decide (a.rtag = b.rtag) && decide (a.dnode = b.dnode) && decide (a.mod = b.mod) && decide (a.addr = b.addr)
    && decide (a.payload.length = b.payload.length) && decide (a.bop = b.bop) && decide (a.fmt = b.fmt)
    && (decide (a.fmt = 9) || decide (a.fmt = 7)) && decide (a.bop = 1) && decide (a.count + b.count < 65536)
    && decide (a.typ = 7) && decide (b.typ = 7)

/-- The element-wise sum, rounded once in the packets' format (R323). -/
def combined (a b : Packet) : List Byte :=
  let f := Fmt.ofCode a.fmt
  let n := a.payload.length / f.bytes
  ((elems f.bytes a.payload n).zip (elems f.bytes b.payload n)).flatMap (fun (x, y) =>
    leBytes f.bytes (f.convert false ((f.value x).add (f.value y))).code)

/-- A packet joins an output queue, combining with its tail when it may (R322, R323). -/
def State.outPush (s : State) (die cl port : Nat) (p : Packet) : State :=
  let i := 48 * die + cl
  let r := s.router i
  let k := inKey port p.vc
  let q := lookD [] r.outq k
  let plain (s : State) : State := s.setRouter i { r with outq := putD natLt [] r.outq k (q ++ [p]) }
  match q.getLast? with
  | none => plain s
  | some t =>
    if !(combines t p && decide (s.get F.MESH_CFG_COMBINE i = 1)) then plain s
    else if 64 ≤ r.comb.length then (plain s).flag F.MESH_EVT_COMB_FULL i
    else
      let c := { t with payload := combined t p, count := t.count + p.count, snode := cl, sdie := die }
      let s := (s.pmon .MESH i 0x93 0 1).setRouter i { r with comb := { a := t, b := p } :: r.comb, outq := putD natLt [] r.outq k (q.dropLast ++ [c]) }
      let n := r.comb.length + 1
      (s.set F.MESH_COMB_IN_USE i n).set F.MESH_COMB_HIGH_WATER i (max n (s.get F.MESH_COMB_HIGH_WATER i))

/-- Every output queue of a virtual channel sends its head when there is room beyond its port. -/
def State.outSend (s : State) (die cl vc : Nat) : State :=
  (List.range 5).foldl (fun s port =>
    let i := 48 * die + cl
    let r := s.router i
    match lookD [] r.outq (inKey port vc) with
    | p :: rest =>
      if s.roomAt die cl port vc then
        ((s.pmon .MESH i 0x90 port 1).setRouter i { r with outq := putD natLt [] r.outq (inKey port vc) rest }).leave die cl port p
      else s
    | [] => s) s

/-- A packet to a DEAD node (R318): a request is refused, an answer or multicast dropped. -/
def State.deadEnd (s : State) (die cl : Nat) (p : Packet) : State :=
  let s := s.flag F.MESH_EVT_DEAD_REFUSE (48 * die + cl)
  if p.vc = 0 ∨ p.typ = 7 then s.nodeRefuse die cl p rFENCED else s

/-- The router forwards: it exists and has not stopped (R329). -/
def State.routerLive (s : State) (die cl : Nat) : Bool :=
  decide (die < 2) && decide (cl < 48) && !(s.router (48 * die + cl)).faulty

/-- A corrected error in a router's buffer or on its input link (R345, R346, R703). -/
def State.meshCorr (s : State) (i : Nat) : State :=
  ((s.bump F.MESH_ECC_CNT_COUNT i).flag F.MESH_EVT_ECC_CORR i).corrected .MESH 0 i

/-- ROUTER_FORWARD (R313, R318, R322): the head of an input is routed to an output queue, and output queues of the virtual
channel send. A multicast at a router of its tree is left to MCW_FORWARD. -/
def execRouterForward (die cl port vc : Nat) (corr : Bool) (s : State) : Host.Outcome State Fault Refusal :=
  if !(s.routerLive die cl) || decide (4 < port) || decide (2 < vc) then .next s
  else
    let s := if corr then s.meshCorr (48 * die + cl) else s
    match s.inHead die cl port vc with
    | none => .next (s.outSend die cl vc)
    | some p =>
      if p.typ = 8 ∧ p.dnode = cl then .next (s.outSend die cl vc)
      else
        let e := s.route die cl p.dnode
        let s := s.inPop die cl port vc
        if 4 < e then .next ((s.deadEnd die cl p).outSend die cl vc)
        else .next ((s.outPush die cl e p).outSend die cl vc)

/-! ### Die multicast (R324 to R326) -/

/-- MCW_FORWARD (R325): a multicast at a router of its tree goes to every branch in one ACLK, when there is room on all. -/
def execMcwForward (die cl port : Nat) (s : State) : Host.Outcome State Fault Refusal :=
  if !(s.routerLive die cl) || decide (4 < port) then .next s
  else
    match s.inHead die cl port 2 with
    | none => .next s
    | some p =>
      if !(decide (p.typ = 8) && decide (p.dnode = cl)) then .next s
      else
        let i := 48 * die + cl
        match s.far p.addr with
        | .group _ g =>
          if s.get F.MESH_MC_VALID i g = 0 then
            .next (((s.inPop die cl port 2).flag F.MESH_EVT_MC_INVALID i).nodeRefuse die cl p rUNMAPPED)
          else
            let br := s.get F.MESH_MC_BRANCH i g
            let ports := [1, 2, 3, 4].filter (fun q => bitOf br q && decide (q ≠ port))
            let next := ports.filterMap (fun q => match beyond cl q with
              | .router c _ => some (q, c)
              | .station _ => none)
            if !(next.all (fun x => s.roomAt die cl x.1 2)) then .next s
            else
              let members := if bitOf br 0 then popcount 16 (s.get F.MESH_MC_CORES i g) else 0
              let left := next.length + members
              let s := s.inPop die cl port 2
              if left = 0 then .next (s.answer die cl p 9 0 0 [])
              else
                let r := s.router i
                let m : McRec := { src := p.src, tag := p.tag, group := g, snode := p.snode, sdie := p.sdie, left := left, reason := 0 }
                let s := s.setRouter i { r with mc := r.mc ++ [m] }
                let s := next.foldl (fun s (q, c) => s.leave die cl q { p with snode := cl, sdie := die, dnode := c }) s
                .next (if members = 0 then s else s.deliver (nodeKey die cl) p)
        | _ => .next ((s.inPop die cl port 2).nodeRefuse die cl p rUNMAPPED)

end Sys2Proof.Machine
end

