-- ==== Sys2Proof/Machine/Sync.lean ====
section
/-! DEFINITION. Synchronisation (R332 to R340, R350, R355 to R380): the SU's commands, signals at a core's sync port, barriers at
the nodes of the sync network, credit channels and realignment. -/

namespace Sys2Proof.Machine

open Sys2Proof

/-! ### Signals (R334 to R340) -/

/-- ACLK from a signal's issue to its arrival at a core of this module (R334). -/
def sigTime (a b : Nat) : Nat :=
  if dieOf a ≠ dieOf b then 87
  else if clusterOf a = clusterOf b then 6
  else if clusterOf a / 8 = clusterOf b / 8 then 22 else 37

/-- ACLK from an SU to the module root (R332). -/
def rootUp : Nat := 44

/-- Sending a signal issued in ACLK `t` (R334, R461). -/
def State.sendSig (s : State) (t mod : Nat) (g : Sig) : State :=
  if !(s.ownMod mod) then s.sigOut mod g
  else if g.win = 8 then s.rchHold { g with due := t + rootUp }
  else s.sigTo { g with due := t + sigTime g.score g.dcore }

/-- A notice of a dropped signal (R328, R378). -/
def State.sigNotice (s : State) (g : Sig) : State := s.logNotice .SYNC g.dcore 0 (sigBytes g) (s.core g.dcore).slot

/-- A signal dropped at its port (R340), with the record of the first (R354). -/
def State.badSignal (s : State) (c : Nat) (g : Sig) : State :=
  let s := s.flag F.SYNC_EVT_BAD_SIGNAL c
  if s.get F.SYNC_BAD_LOG_VALID c = 1 then s
  else s.wr ⟨.SYNC_BAD_LOG, c, 0⟩ (BitVec.ofNat 64 (2 ^ 63 + g.mod * 2 ^ 32 + g.score * 2 ^ 10 + g.ctr * 2 ^ 5 + g.win))

/-- Bytes of a window that have landed and are not claimed. -/
def State.unclaimed (s : State) (c w : Nat) : Nat :=
  (s.get F.SYNC_LAND_LANDED c w + 2 ^ 32 - s.get F.SYNC_LAND_CLAIMED c w) % 2 ^ 32

/-- Bytes of a window that have landed in the present ACLK. -/
def State.landedNow (s : State) (c w : Nat) : Nat :=
  if (s.core c).landNow.1 = s.now then lookD 0 (s.core c).landNow.2 w else 0

/-- Release of a signal: the window's claim, and INC at step 2 of R356. -/
def State.sigRelease (s : State) (c : Nat) (g : Sig) : State :=
  let s := if g.win < 8 then s.addw F.SYNC_LAND_CLAIMED c g.bytes g.win else s
  (s.ctrAdd c g.ctr g.inc).1

/-- The signal is the oldest of its window, and the bytes it announces have landed. -/
def State.sigReady (s : State) (c : Nat) (before : List Sig) (g : Sig) : Bool :=
  !(before.any (fun h => decide (h.win = g.win))) && decide (g.bytes ≤ s.unclaimed c g.win)

/-- The signal is released in the ACLK in which it arrives: it is tested against LANDED as it stood at the end of the ACLK before (R338). -/
def State.sigReadyAt (s : State) (c : Nat) (g : Sig) : Bool :=
  !((s.core c).slots.any (fun h => decide (h.win = g.win))) && decide (g.bytes ≤ (s.unclaimed c g.win + 2 ^ 32 - s.landedNow c g.win) % 2 ^ 32)

/-- A signal that has reached the sync port: dropped, released, or placed in a slot (R337, R338, R340). -/
def State.sigPort (s : State) (c : Nat) (g : Sig) : State :=
  if g.win ≠ 0xF ∧ (8 ≤ g.win ∨ s.get F.SYNC_LWIN_EN c g.win = 0) then s.badSignal c g
  else if g.win = 0xF ∨ g.bytes = 0 then (s.ctrAdd c g.ctr g.inc).1
  else if s.sigReadyAt c g then s.sigRelease c g
  else
    let s := s.modCore c (fun x => { x with slots := x.slots ++ [{ g with due := s.now }] })
    s.set F.SYNC_PEND_HIGH_WATER c (max (s.get F.SYNC_PEND_HIGH_WATER c) (s.core c).slots.length)

/-- A signal that needs a pending-signal slot. -/
def Sig.counted (g : Sig) : Bool := decide (g.win < 8) && decide (0 < g.bytes)

/-- SIGNAL_ARRIVE (R337 to R340, R328, R378): the next signal reaches its core's cluster node and sync port. One for a fenced
core, or one of another module for a port closed by a context switch, is dropped with a notice; a counted one that finds no slot is held at the
node. -/
def execSignalArrive (core : Nat) (s : State) : Host.Outcome State Fault Refusal :=
  match (s.core core).sigIn with
  | [] => .next s
  | g :: rest =>
    if g.rel then .next s
    else
      let s := (s.at_ g.due).modCore core (fun x => { x with sigIn := rest })
      let x := s.core core
      if s.cutOff core || (!x.openSync && decide (g.mod ≠ 0xFFFF)) then .next (s.sigNotice g)
      else if !x.nodeHeld.isEmpty then .next (s.modCore core (fun x => { x with nodeHeld := x.nodeHeld ++ [g] }))
      else if g.counted && decide (s.get F.SYNC_LWIN_EN core g.win = 1) && decide (16 ≤ x.slots.length) then
        .next ((s.flag F.SYNC_EVT_NODE_HELD core).modCore core (fun x => { x with nodeHeld := [g] }))
      else .next (s.sigPort core g)

/-- SIGNAL_RELEASE (R337, R338): the signal in a slot releases, not before the ACLK after its arrival, when it is its window's oldest and its
bytes have landed. A signal that the cluster node holds for the slot arrives 3 ACLK later (R339). -/
def execSignalRelease (core slot : Nat) (s : State) : Host.Outcome State Fault Refusal :=
  match (s.core core).slots[slot]? with
  | none => .next s
  | some g =>
    let s' := s.at_ (g.due + 1)
    if s'.sigReady core ((s'.core core).slots.take slot) g && decide ((s'.core core).slots[slot]? = some g) && !(s'.cutOff core)
        && (s'.core core).openSync then
      .next ((s'.modCore core (fun x => { x with
        slots := x.slots.eraseIdx slot, nodeAt := if x.slots.length = 16 then s'.now + 3 else x.nodeAt })).sigRelease core g)
    else .next s

/-- NODE_HELD_SIGNAL_SEND (R339): the oldest signal that the cluster node holds for a core reaches its sync port, one per ACLK, 3 ACLK after
a slot frees at the earliest; a counted one needs a free slot. -/
def execNodeHeldSignalSend (core : Nat) (s : State) : Host.Outcome State Fault Refusal :=
  match (s.core core).nodeHeld with
  | [] => .next s
  | g :: rest =>
    if g.counted && decide (16 ≤ (s.core core).slots.length) then .next s
    else
      let s := s.at_ (s.core core).nodeAt
      .next ((s.modCore core (fun x => { x with nodeHeld := rest, nodeAt := s.now + 1 })).sigPort core g)

/-- A write to SYNC_LWIN_w: EN from 0 to 1 clears the window's counts (R350). -/
def State.lwinWrite (s : State) (m : Master) (c w : Nat) (v mask : Word) (addr : Nat) : State :=
  let was := s.get F.SYNC_LWIN_EN c w
  let s := s.accWrite m ⟨.SYNC_LWIN, c, w⟩ v mask addr
  if was = 0 ∧ s.get F.SYNC_LWIN_EN c w = 1 then (s.set F.SYNC_LAND_LANDED c 0 w).set F.SYNC_LAND_CLAIMED c 0 w else s

/-- LWIN_ENABLE (R350): a write to SYNC_LWIN_w. -/
def execLwinEnable (m : Master) (core win : Nat) (v : Word) (s : State) : Host.Outcome State Fault Refusal :=
  .next (s.regCmd m .SYNC core (fun s => s.lwinWrite m core (win % 8) v fullMask (0x4000 * core + 0x2400 + 8 * (win % 8))))

/-- SU_CTR_WRITE (R381): a write to SU_CTR_q, at step 1 of R356. -/
def execSuCtrWrite (m : Master) (core q : Nat) (v : Word) (s : State) : Host.Outcome State Fault Refusal :=
  .next (s.regCmd m .SU core (fun s => s.accWrite m ⟨.SU_CTR, core, q % 8⟩ v fullMask (0x4000 * core + 0x1000 + 8 * (q % 8))))

/-! ### SU_SET, SU_ADD, SU_SIGNAL (R358 to R361) -/

def suCtr (c : Cmd) : Nat := Cmd.f c 16 4 0
def suValue (c : Cmd) : Nat := Cmd.f c 18 15 0
def suSub (c : Cmd) : Bool := Cmd.f c 17 0 0 == 1

/-- All loop counts are 1 (R360). -/
def oneLoop (c : Cmd) : Bool := (List.range 4).all (fun l => decide (Cmd.loop c l = 1))

/-- Reserved bits of SU_SET and SU_ADD. -/
def suRsv (c : Cmd) : Bool := decide (Cmd.f c 16 7 5 ≠ 0) || decide (Cmd.f c 17 7 1 ≠ 0) || decide (Cmd.f c 20 351 0 ≠ 0)

/-- The command without its DONE_EN increment, which has been taken with the SU's own change (R356). -/
def QCmd.noDone (q : QCmd) : QCmd := { q with cmd := q.cmd &&& ~~~(BitVec.ofNat 512 (2 ^ 31)) }

/-- The SU begins its head with opcode `op`: ILLEGAL at once when `bad` says so. -/
def State.suBegin (s : State) (c op : Nat) (bad : Cmd → Bool) (run : Nat → QCmd → State → State) : State :=
  s.beginHead c .su (fun _ k => decide (Cmd.opcode k = op)) (fun p b q s =>
    let s := s.begin_ c .su p b
    if bad q.cmd then (s.evtIllegal c .su).endNow c .su q 3 else run b q s)

/-- SU_SET (R358, R361): counter CTR := VALUE at step 1; its DONE_EN increment follows at step 2. -/
def execSuSet (core : Nat) (s : State) : Host.Outcome State Fault Refusal :=
  .next (s.suBegin core 0x40 (fun c => Cmd.badHeader c || !(oneLoop c) || suRsv c || suSub c) (fun _ q s =>
    (s.setCtr core (suCtr q.cmd) (suValue q.cmd)).endNow core .su q 0))

/-- The increment of a command's DONE_EN. -/
def State.doneAdd (s : State) (c : Nat) (cmd : Cmd) : State :=
  if Cmd.doneEn cmd then (s.ctrAdd c (Cmd.doneCtr cmd) 1).1 else s

/-- SU_ADD (R358, R356, R373): + VALUE at step 2, summed with its own DONE_EN increment, or − VALUE at step 4 after it. -/
def execSuAdd (core : Nat) (s : State) : Host.Outcome State Fault Refusal :=
  .next (s.suBegin core 0x41 (fun c => Cmd.badHeader c || !(oneLoop c) || suRsv c) (fun _ q s =>
    let cmd := q.cmd
    let k := suCtr cmd
    let id := Cmd.id cmd
    let (s, bad) :=
      if suSub cmd then (s.doneAdd core cmd).ctrSub core k (suValue cmd) id
      else if Cmd.doneEn cmd ∧ Cmd.doneCtr cmd = k then s.ctrAdd core k (suValue cmd + 1) id
      else (s.doneAdd core cmd).ctrAdd core k (suValue cmd) id
    s.complete core .su q.noDone (if bad then 0xF else 0) 0))

def sgWin (c : Cmd) : Nat := Cmd.f c 19 3 0
def sgMod (c : Cmd) : Nat := Cmd.f c 22 15 0
/-- DCORE of an iteration, modulo 2^11 (R360). -/
def sgDcore (c : Cmd) (n : Nat) : Nat := wrapInt 11 ((Cmd.f c 16 10 0 : Int) + Cmd.disp c n (fun l => Cmd.sf c (32 + 2 * l) 15 0))
def sgRsv (c : Cmd) : Bool :=
  decide (Cmd.f c 16 15 11 ≠ 0) || decide (Cmd.f c 18 7 5 ≠ 0) || decide (Cmd.f c 19 7 4 ≠ 0) || decide (Cmd.f c 28 15 10 ≠ 0)
    || decide (Cmd.f c 30 15 0 ≠ 0) || decide (Cmd.f c 40 191 0 ≠ 0)

/-- The check of an iteration (R360). -/
def State.sgBad (s : State) (cmd : Cmd) (n : Nat) : Bool :=
  let d := sgDcore cmd n
  (decide (9 ≤ sgWin cmd) && decide (sgWin cmd ≤ 0xE)) || decide (47 < clusterOf d)
    || (s.ownMod (sgMod cmd) && s.fusedCl.contains (cluInst d))

/-- The iterations of an SU_SIGNAL from `n` on: one signal per two ACLK. Answers the first iteration that fails its check. -/
def State.sgIters (s : State) (c : Nat) (cmd : Cmd) (b : Nat) : Nat → Nat → State × Option Nat
  | 0, _ => (s, none)
  | k + 1, n =>
    if s.sgBad cmd n then (s, some n)
    else
      let g : Sig := { dcore := sgDcore cmd n, ctr := Cmd.f cmd 18 4 0, inc := Cmd.f cmd 20 15 0, win := sgWin cmd, score := c,
                       bytes := Cmd.f cmd 24 31 0, rchan := Cmd.f cmd 28 9 0, mod := 0xFFFF }
      State.sgIters (s.sendSig (b + 2 * n) (sgMod cmd) g) c cmd b k (n + 1)

/-- SU_SIGNAL (R360, R361): one signal per iteration; it completes in the ACLK after its last word. A speculative task's SU sends none to
another module (R536). -/
def execSuSignal (core : Nat) (s : State) : Host.Outcome State Fault Refusal :=
  .next (s.suBegin core 0x42 (fun c => Cmd.badHeader c || sgRsv c || ((s.specTask core).isSome && !(s.ownMod (sgMod c)))) (fun b q s =>
    let (s, bad) := s.sgIters core q.cmd b (Cmd.iters q.cmd) 0
    let n := bad.getD (Cmd.iters q.cmd)
    let s := (s.pmon .SU core 0x62 0 n).setEntry core .su (b + 2 * n)
    match bad with
    | some 0 => (s.evtIllegal core .su).endNow core .su q 3
    | some n => s.completeAt core .su q 3 (b + 2 * n) n
    | none => s.completeAt core .su q 0 (b + 2 * n)))

/-! ### Barriers (R362 to R369) -/

/-- Key of a node of the sync network. -/
def nodeNum : SyncNode → Nat
  | .cluster die cl => 48 * die + cl
  | .row die r => 100 + 6 * die + r
  | .die d => 120 + d
  | .module => 130

/-- The node above, this node's place among its children, and the ACLK from its decision to the arrival there (R332). -/
def nodeUp : SyncNode → Option (SyncNode × Nat × Nat)
  | .cluster die cl => some (.row die (cl / 8), cl % 8, 8)
  | .row die r => some (.die die, r, 8)
  | .die d => some (.module, d, 26)
  | .module => none

/-- ACLK from the last arrival at a deciding node to the release at a core (R332). -/
def releaseTime : SyncNode → Nat
  | .cluster _ _ => 4 | .row _ _ => 12 | .die _ => 19 | .module => 43

/-- A node's share of a slot. -/
def State.share (s : State) (n : SyncNode) (slot : Nat) : SlotSt := lookD {} (s.node (nodeNum n)).slots slot
def State.setShare (s : State) (n : SyncNode) (slot : Nat) (x : SlotSt) : State :=
  let k := s.node (nodeNum n)
  s.setNode (nodeNum n) { k with slots := putD natLt {} k.slots slot x }

/-- The member cores a cluster node's share names. -/
def State.clusterMembers (s : State) (die cl slot : Nat) : List Nat :=
  ((List.range 16).filter (fun n => bitOf (s.share (.cluster die cl) slot).mask n)).map (fun n => die * 1024 + cl * 16 + n)

/-- The member cores below a node. -/
def State.members (s : State) (n : SyncNode) (slot : Nat) : List Nat :=
  let rows (d r : Nat) : List Nat :=
    ((List.range 8).filter (fun k => bitOf (s.share (.row d r) slot).mask k)).flatMap (fun k => s.clusterMembers d (8 * r + k) slot)
  let dies (d : Nat) : List Nat := ((List.range 6).filter (fun r => bitOf (s.share (.die d) slot).mask r)).flatMap (rows d)
  match n with
  | .cluster d cl => s.clusterMembers d cl slot
  | .row d r => rows d r
  | .die d => dies d
  | .module => ((List.range 2).filter (fun d => bitOf (s.share .module slot).mask d)).flatMap dies

/-- A release leaves for every member core: on the signal class when every arrival carried REALIGN (R365, R374). -/
def State.release (s : State) (n : SyncNode) (slot t : Nat) (x : SlotSt) : State :=
  (s.members n slot).foldl (fun s c =>
    let g : Sig := { dcore := c, ctr := 0, inc := 0, win := 0, score := 0, bytes := 0, rchan := 0, mod := 0xFFFF, due := t + releaseTime n,
                     rel := true, slot := slot, gen := x.gen }
    if x.realign then s.sigTo g else s.modCore c (fun y => { y with rels := y.rels ++ [g] })) s

/-- An arrival word on its way to a node. -/
def State.arrivalTo (s : State) (n : SyncNode) (w : BarWord) : State :=
  let k := s.node (nodeNum n)
  s.setNode (nodeNum n) { k with inbox := k.inbox ++ [w] }

/-- The arrival word of a core for a slot, sent in ACLK `b` (R361, R364). -/
def State.sendArrival (s : State) (c slot b : Nat) : State :=
  s.arrivalTo (.cluster (dieOf c) (clusterOf c))
    { child := corein c, slot := slot, gen := s.get F.SU_BAR_GEN c slot, realign := decide (s.get F.SU_BAR_REALIGN c slot = 1), count := 1,
      score := c, due := b + 2 }

def bgRsv (c : Cmd) : Bool :=
  decide (Cmd.f c 16 7 7 ≠ 0) || decide (Cmd.f c 17 7 5 ≠ 0) || decide (Cmd.f c 18 7 1 ≠ 0) || decide (Cmd.f c 20 351 0 ≠ 0)

/-- The GMAP entry of a group: the slot when it is valid (R387). -/
def State.gmap (s : State) (c g : Nat) : Option Nat :=
  let e := s.get F.SU_GMAP_ENTRIES c (g / 8) / 2 ^ (8 * (g % 8)) % 256
  if 128 ≤ e then some (e % 64) else none

/-- An SU_BARRIER that is refused (R364): reasons 1 NO_SLOT, 2 NOT_MEMBER. -/
def State.barRefused (s : State) (c : Nat) (q : QCmd) (reason slot : Nat) : State :=
  ((s.flag F.SU_EVT_BAR_REFUSED c).suLog c reason 0 0 slot (Cmd.f q.cmd 16 6 0) 0 (Cmd.id q.cmd)).endNow c .su q 0xF

/-- Reserved fields of an SU_BARRIER, and loop counts (R360). -/
def barIllegal (cmd : Cmd) : Bool := Cmd.badHeader cmd || !(oneLoop cmd) || bgRsv cmd

/-- While ARRIVED is set for its slot, an SU_BARRIER stays head (R364). -/
def State.barWaits (s : State) (c : Nat) (cmd : Cmd) : Bool :=
  match s.gmap c (Cmd.f cmd 16 6 0) with
  | some slot => !(barIllegal cmd) && decide (s.get F.SU_BAR_MEMBER c slot = 1) && decide (s.get F.SU_BAR_ARRIVED c slot = 1)
  | none => false

/-- SU_BARRIER (R361, R364): the core arrives at its group's slot; it completes in the ACLK after. -/
def execSuBarrier (core : Nat) (s : State) : Host.Outcome State Fault Refusal :=
  .next (s.beginHead core .su (fun s k => decide (Cmd.opcode k = 0x43) && !(s.barWaits core k)) (fun p b q s =>
    let cmd := q.cmd
    let s := s.begin_ core .su p b
    if barIllegal cmd then (s.evtIllegal core .su).endNow core .su q 3
    else
      match s.gmap core (Cmd.f cmd 16 6 0) with
      | none => s.barRefused core q 1 0
      | some slot =>
        if s.get F.SU_BAR_MEMBER core slot = 0 then s.barRefused core q 2 slot
        else
          let s := s.set F.SU_BAR_ARRIVED core 1 slot
          let s := (s.set F.SU_BAR_CTR core (Cmd.f cmd 17 4 0) slot).set F.SU_BAR_REALIGN core (Cmd.f cmd 18 0 0) slot
          let s := (s.set F.SU_BAR_RMASK core (Cmd.f cmd 19 7 0) slot).sendArrival core slot b
          (s.setEntry core .su (b + 1)).completeAt core .su q 0 (b + 1)))

/-- A node and the node above it have no configuration word on its way: those of a task's start come before its arrivals. -/
def State.cfgSettled (s : State) (n : SyncNode) : Bool :=
  (s.node (nodeNum n)).cfg.isEmpty && (match nodeUp n with
    | some (up, _, _) => (s.node (nodeNum up)).cfg.isEmpty
    | none => true)

/-- BARRIER_ARRIVAL (R365, R367): a node combines the next arrival word. Generations that differ, or an uncorrectable word,
stop the slot; the last member's arrival is forwarded, or released by the lowest node that covers every member. -/
def execBarrierArrival (node : SyncNode) (s : State) : Host.Outcome State Fault Refusal :=
  let k := s.node (nodeNum node)
  match k.inbox with
  | [] => .next s
  | w :: rest =>
    if !(s.cfgSettled node) then .next s
    else
    let s := (s.setNode (nodeNum node) { k with inbox := rest }).at_ w.due
    let x := s.share node w.slot
    if x.stopped || !(bitOf x.mask w.child) then .next s
    else if w.ecc || (decide (x.got ≠ 0) && decide (w.gen ≠ x.gen)) then .next (s.setShare node w.slot { x with stopped := true })
    else
      let first := decide (x.got = 0)
      let got := if bitOf x.got w.child then x.got else x.got + 2 ^ w.child
      let y : SlotSt := { x with got := got, gen := w.gen, realign := (first || x.realign) && w.realign,
                                 count := (if first then 0 else x.count) + w.count, score := w.score }
      if got ≠ x.mask then .next (s.setShare node w.slot y)
      else
        let clear := { x with got := 0, gen := 0, realign := true, count := 0, score := 0 }
        let s := s.setShare node w.slot clear
        match nodeUp node with
        | some (up, child, d) =>
          if (s.share up w.slot).mask = 0 then .next (s.release node w.slot s.now y)
          else .next (s.arrivalTo up { child := child, slot := w.slot, gen := y.gen, realign := y.realign, count := y.count, score := y.score,
                                       due := s.now + d })
        | none => .next (s.release node w.slot s.now y)

/-- Every core that SU_BAR names a member of a slot. -/
def State.slotCores (s : State) (slot : Nat) : List Nat :=
  (s.regs.filter (fun r => decide (r.1.reg = .SU_BAR) && decide (r.1.idx = slot)
    && decide (F.SU_BAR_MEMBER.of r.2 = 1))).map (fun r => r.1.inst)

/-- A node that has stopped a slot. -/
def State.stoppedNode (s : State) (slot : Nat) : Bool :=
  s.nodes.any (fun n => (lookD ({} : SlotSt) n.2.slots slot).stopped)

/-- GEN_MISMATCH_REPORT (R367): the hub marks and aborts every member core of a slot that a node has stopped. -/
def execGenMismatchReport (slot : Nat) (s : State) : Host.Outcome State Fault Refusal :=
  if !(s.stoppedNode slot) then .next s
  else
    let cores := (s.slotCores slot).filter (fun c => decide (s.get F.SU_BAR_FAULTED c slot = 0))
    .next (cores.foldl (fun s c =>
      let s := (s.set F.SU_BAR_FAULTED c 1 slot).flag F.SU_EVT_GEN_FAULT c
      (s.suLog c 5 0 0 slot 0 0 0).raiseAbort c 0x0C) s)

/-- The effect of a release at a member core (R366). -/
def State.releaseAt (s : State) (c slot : Nat) : State :=
  let s := (s.ctrAdd c (s.get F.SU_BAR_CTR c slot) 1).1
  ((s.set F.SU_BAR_ARRIVED c 0 slot).addw F.SU_BAR_GEN c 1 slot).pmon .SU c 0x60 0 1

/-- A core released only for a generation it has arrived at (R366). -/
def State.releaseDue (s : State) (c : Nat) (g : Sig) : Bool :=
  decide (s.get F.SU_BAR_ARRIVED c g.slot = 1) && decide (s.get F.SU_BAR_GEN c g.slot = g.gen)

/-- BARRIER_RELEASE (R366): the next release word reaches a core. -/
def execBarrierRelease (core : Nat) (s : State) : Host.Outcome State Fault Refusal :=
  match (s.core core).rels with
  | [] => .next s
  | g :: rest =>
    let s := (s.at_ g.due).modCore core (fun x => { x with rels := rest })
    .next (if s.releaseDue core g then s.releaseAt core g.slot else s)

/-- Realigning one enabled credit channel (R375). -/
def State.realignChan (s : State) (c n : Nat) : State :=
  let k := s.get F.SU_CCH_CTR c n
  let v := s.ctr c k
  let rest := s.get F.SU_CCH_REST c n
  if s.get F.SU_CCH_EN c n = 0 ∨ v = rest then s
  else if s.get F.SU_CCH_PRIV c n = 0 then
    ((s.setCtr c k rest).bump F.SU_CCH_DRIFT c 1 n).flag F.SU_EVT_DRIFT c
  else s.creditFault c (if v < rest then 3 else 4) k n v 0

/-- REALIGN_RELEASE (R374, R375): a release on the signal class reaches the core after the signals before it, and acts once no
pending slot holds a signal for a counter of its channels. -/
def execRealignRelease (core : Nat) (s : State) : Host.Outcome State Fault Refusal :=
  let s := match (s.core core).sigIn with
    | g :: rest =>
      if g.rel && (s.core core).nodeHeld.isEmpty then
        let s := (s.at_ g.due).modCore core (fun x => { x with sigIn := rest })
        if s.releaseDue core g then s.modCore core (fun x => { x with realign := x.realign ++ [g.slot] }) else s
      else s
    | [] => s
  match (s.core core).realign with
  | [] => .next s
  | slot :: rest =>
    let mask := s.get F.SU_BAR_RMASK core slot
    let chans := (List.range 8).filter (fun n => bitOf mask n)
    let live := chans.filter (fun n => decide (s.get F.SU_CCH_EN core n = 1))
    let held := (s.core core).slots.any (fun g => live.any (fun n => decide (s.get F.SU_CCH_CTR core n = g.ctr)))
    if held then .next s
    else
      let s := s.modCore core (fun x => { x with realign := rest })
      .next ((chans.foldl (fun s n => s.realignChan core n) s).releaseAt core slot)

/-- A configuration word (R369) for a node. -/
def cfgWord (slot op level die index mask : Nat) : Nat :=
  3 * 2 ^ 62 + slot * 2 ^ 56 + op * 2 ^ 54 + level * 2 ^ 52 + die * 2 ^ 51 + index * 2 ^ 45 + mask * 2 ^ 29

/-- The hub sends a configuration word to a node. -/
def State.sendCfg (s : State) (n : SyncNode) (w : Nat) : State :=
  let k := s.node (nodeNum n)
  s.setNode (nodeNum n) { k with cfg := k.cfg ++ [w] }

/-- Effect of a configuration word at a node. -/
def State.applyCfg (s : State) (n : SyncNode) (w : Nat) : State :=
  let slot := bitsOf w 61 56
  match bitsOf w 55 54 with
  | 0 => s.setShare n slot { mask := bitsOf w 44 29 }
  | 1 => s.setShare n slot {}
  | _ => s

/-- BARRIER_CONFIG (R369): the next configuration word takes effect at its node. -/
def execBarrierConfig (node : SyncNode) (s : State) : Host.Outcome State Fault Refusal :=
  let k := s.node (nodeNum node)
  match k.cfg with
  | [] => .next s
  | w :: rest => .next ((s.setNode (nodeNum node) { k with cfg := rest }).applyCfg node w)

end Sys2Proof.Machine
end

