-- ==== Sys2Proof/Machine/Mailbox.lean ====
section
/-! DEFINITION. Mailboxes and doorbells (R597 to R602, R616, R617), wake events (R600, R660), and the requests and responses of
host mailboxes. -/

namespace Sys2Proof

/-- The inbound queue of an end, and the end that receives what it sends. -/
def MbxEnd.inKey : MbxEnd → Nat
  | .hostEnd m => 16 + m
  | .hubEnd m => m
  | .coreHubEnd c => 4096 + c
  | .coreEnd c => 8192 + c
  | .inbox c => 12288 + c
def MbxEnd.partner : MbxEnd → Option MbxEnd
  | .hostEnd m => some (.hubEnd m)
  | .hubEnd m => some (.hostEnd m)
  | .coreEnd c => some (.coreHubEnd c)
  | .coreHubEnd c => some (.coreEnd c)
  | .inbox _ => none

/-- The end whose inbound queue has a key. -/
def endOf (key : Nat) : MbxEnd :=
  if key < 16 then .hubEnd key else if key < 32 then .hostEnd (key - 16) else if key < 8192 then .coreHubEnd (key - 4096)
  else if key < 12288 then .coreEnd (key - 8192) else .inbox (key - 12288)

/-- Instance and member of an end's registers (R616). -/
def MbxEnd.inst : MbxEnd → Nat
  | .hostEnd _ => 2048
  | .hubEnd _ => 2048
  | .coreEnd c => c
  | .coreHubEnd c => c
  | .inbox c => c
def MbxEnd.idx : MbxEnd → Nat
  | .hostEnd m => 16 + m
  | .hubEnd m => m
  | .coreEnd _ => 0
  | .coreHubEnd _ => 1
  | .inbox _ => 2

/-- The core of an end. -/
def MbxEnd.core? : MbxEnd → Option Nat
  | .coreEnd c => some c
  | .inbox c => some c
  | _ => none

namespace Machine

open Sys2Proof

def State.modHst (s : State) (f : HostSt → HostSt) : State := { s with hst := f s.hst }
def State.modPwr (s : State) (f : PwrSt → PwrSt) : State := { s with pwr := f s.pwr }

/-! ### Ends and queues -/

def State.mbxQ (s : State) (e : MbxEnd) : List Nat := lookD [] s.hst.mbx e.inKey
def State.setMbxQ (s : State) (e : MbxEnd) (l : List Nat) : State :=
  s.modHst (fun h => { h with mbx := putD natLt [] h.mbx e.inKey l })

/-- A master may reach an end (R597, R752): the host its own ends through BAR2, the hub every end but those, a core its mailbox and
inbox, the host through BAR0 and the unlocked debug port what the register space shows them. -/
def State.mbxReach (s : State) (m : Master) (e : MbxEnd) : Bool :=
  match m, e with
  | .host, .hostEnd n => decide (n < 16) && decide (s.get F.PCIE_STATUS_DL_ACTIVE 0 = 1) && decide (s.get F.PCIE_STATUS_DSTATE 0 = 0)
      && (match s.episode with
        | some x => decide (x.reach ≤ 1)
        | none => true)
  | .hub, .hubEnd n => decide (n < 16)
  | .hub, .coreHubEnd c => s.reach .hub .MBX c
  | .hub, .coreEnd c => s.reach .hub .MBX c
  | .hub, .inbox c => s.reach .hub .MBX c
  | .cc a, .coreEnd c => decide (a = c) && s.reach (.cc a) .MBX c
  | .cc a, .inbox c => decide (a = c) && s.reach (.cc a) .MBX c
  | .mgmt, .hostEnd n => decide (n = 15) && decide (s.get F.HUBC_MGMT_MBX15_MGMT 0 = 1)
  | .host, .hubEnd n => decide (n < 16) && s.reach .host .HUBC 0
  | .host, .coreEnd c => s.reach .host .MBX c
  | .host, .inbox c => s.reach .host .MBX c
  | .debug, .hubEnd n => decide (n < 16) && s.reach .debug .HUBC 0
  | .debug, .coreEnd c => s.reach .debug .MBX c
  | .debug, .inbox c => s.reach .debug .MBX c
  | _, _ => false

/-- Mailbox 15 serves the management port, so its BAR2 page is dead (R608). -/
def State.mgmtPage (s : State) (m : Master) (e : MbxEnd) : Bool :=
  decide (m = .host) && decide (e = .hostEnd 15) && decide (s.get F.HUBC_MGMT_MBX15_MGMT 0 = 1)

def State.aer (s : State) (n : Nat) : State := s.modHst (fun h => { h with aer := h.aer ++ [n] })

/-- An interrupt source of an end (R616): 0 words inbound, 1 a doorbell, 2 room outbound. At a host end it signals the mailbox's
vector (R594); SMBALERT# follows mailbox 15 when it serves the management port (R605). -/
def State.mbxIrq (s : State) (e : MbxEnd) (src : Nat) : State :=
  match e with
  | .hostEnd m =>
    let s := if m = 15 ∧ src = 0 ∧ s.get F.HUBC_MGMT_MBX15_MGMT 0 = 1 then s.send .smbAlert else s
    if bitOf (s.get F.MBX_IEN_EN 2048 e.idx) src then s.send (.msix m) else s
  | _ => s

/-- Appending a word to an end's inbound queue (R598); none when it is full. -/
def State.mbxPush (s : State) (e : MbxEnd) (w : Nat) : Option State :=
  let q := s.mbxQ e
  if 8 ≤ q.length then none
  else
    let s := s.setMbxQ e (q ++ [w])
    some (if q.isEmpty then s.mbxIrq e 0 else s)

/-- A rejected write (R599): OVERRUN at the receiver; the writer's answer. -/
def State.mbxOverrun (s : State) (m : Master) (e : MbxEnd) : State :=
  let s := s.flag F.MBX_STAT_OVERRUN e.inst e.idx
  match m with
  | .host => { s with bus := .written }.aer 1
  | _ => s.refuseBus m

/-- A BAR4 write that its controller has not accepted holds later mailbox words and doorbells back (R592). -/
def State.bar4Held (s : State) (m : Master) : Bool :=
  decide (m = .host) && s.hubTags.any (fun t => decide (t.kind = 3) && decide (t.p.typ = 1))

/-! ### Requests (R602, R603) -/

/-- Chrysalis mode (R578). -/
def State.chrysalis (s : State) : Bool := decide (s.get F.NVCF_STATUS_CHRYSALIS 0 = 1)

/-- The hub firmware serves requests: it runs, and the module is not in chrysalis mode or under a reset that covers the hub. -/
def State.hubServes (s : State) : Bool :=
  decide (3 ≤ s.get F.NVCF_STATUS_PHASE 0) && !s.chrysalis && (match s.episode with
    | some e => decide (e.reach ≤ 1)
    | none => true)

/-- A request that has wholly arrived at mailbox `m`: its header and its argument words. -/
def State.reqHead (s : State) (m : Nat) : Option (Nat × List Nat) :=
  match s.mbxQ (.hubEnd m) with
  | h :: l => let n := bitsOf h 15 8 % 8
              if n ≤ l.length then some (h, l.take n) else none
  | [] => none

/-- Codes of R603. -/
def reqKnown (c : Nat) : Bool := decide (0x10 ≤ c) && decide (c ≤ 0x1D)

/-- Taking the head request when it has the given code: TAG, arguments, and the queue without it. -/
def State.takeReq (s : State) (m code : Nat) : Option (Nat × List Nat × State) :=
  if m < 16 ∧ s.hubServes then
    match s.reqHead m with
    | some (h, a) =>
      if bitsOf h 31 24 = code then
        some (bitsOf h 23 16, a, s.setMbxQ (.hubEnd m) ((s.mbxQ (.hubEnd m)).drop (1 + a.length)))
      else none
    | none => none
  else none

/-- A response waits for room in the host's inbound queue (R602). -/
def State.respond (s : State) (m code tag status : Nat) (ws : List Nat := []) : State :=
  s.modHst (fun h => { h with resp := h.resp ++ [(m, (code * 2 ^ 24 + tag * 2 ^ 16 + ws.length * 2 ^ 8 + status) :: ws)] })

/-- Requests at the head of a mailbox whose code the hub does not know are answered BAD_CODE (R603); in chrysalis mode every code that
R579 does not list is refused. -/
def State.badHeads (s : State) (m : Nat) : Nat → State
  | 0 => s
  | n + 1 =>
    if m < 16 ∧ s.hubServes then
      match s.reqHead m with
      | some (h, a) =>
        if reqKnown (bitsOf h 31 24) then s
        else
          let s := s.setMbxQ (.hubEnd m) ((s.mbxQ (.hubEnd m)).drop (1 + a.length))
          State.badHeads (s.respond m (bitsOf h 31 24) (bitsOf h 23 16) 2) m n
      | none => s
    else if m = 0 ∧ s.chrysalis then
      match s.mbxQ (.hubEnd 0) with
      | h :: _ => if 1 ≤ h ∧ h ≤ 6 then s else (s.setMbxQ (.hubEnd 0) []).respond 0 (h % 256) 0 2
      | [] => s
    else s

/-! ### Words and doorbells (R598 to R601) -/

/-- A word goes to the partner's inbound queue (R598, R599). -/
def State.txWrite (s : State) (m : Master) (mb : MbxEnd) (v : Word) : State :=
  if s.mgmtPage m mb then { s.access m with bus := .written }.aer 1
  else if !(s.mbxReach m mb) then s.refuseBus m
  else if s.bar4Held m then s
  else
    match mb.partner with
    | none => s.refuseBus m
    | some p =>
      let s := s.access m
      match s.mbxPush p (v.toNat % 2 ^ 32) with
      | some s =>
        let s := match p with
          | .hubEnd n => s.badHeads n 8
          | _ => s
        { s with bus := .written }
      | none => s.mbxOverrun m p

/-- MBX_TX_WRITE (R598, R599). -/
def execMbxTxWrite (m : Master) (mb : MbxEnd) (v : Word) (s : State) : Host.Outcome State Fault Refusal := .next (s.txWrite m mb v)

/-- Removing the head word of an end (R598). -/
def State.mbxPop (s : State) (e : MbxEnd) : Nat × State :=
  match s.mbxQ e with
  | [] => (0, s.flag F.MBX_STAT_EMPTY_RD e.inst e.idx)
  | w :: l =>
    let s := s.setMbxQ e l
    (w % 2 ^ 32, if l.length = 7 then (match e.partner with
      | some p => s.mbxIrq p 2
      | none => s) else s)

/-- A read of MBX_RX: the head word, removed (R598). -/
def State.rxRead (s : State) (m : Master) (mb : MbxEnd) : State :=
  if s.mgmtPage m mb then { s.access m with bus := .value 0 }.aer 1
  else if !(s.mbxReach m mb) then s.refuseBus m
  else
    let (w, s) := (s.access m).mbxPop mb
    { s with bus := .value (BitVec.ofNat 64 w) }

/-- MBX_RX_READ (R598). -/
def execMbxRxRead (m : Master) (mb : MbxEnd) (s : State) : Host.Outcome State Fault Refusal := .next (s.rxRead m mb)

/-! ### Doorbells and wake events (R600, R660) -/

/-- A cluster's supply domain turns on (R660): power-good comes through CLUSTER_POWER_GOOD. -/
def State.clusterWake (s : State) (cl : Nat) : State :=
  if s.clusterOn cl || (s.pwr.turning.any (fun t => decide (t.1 = cl))) || decide (96 ≤ cl) || s.fusedCl.contains cl then s
  else (s.set F.PWR_CDOM_ON 0 (let w := s.get F.PWR_CDOM_ON 0 (cl / 48)
                               if bitOf w (cl % 48) then w else w + 2 ^ (cl % 48)) (cl / 48)).modPwr
    (fun p => { p with turning := p.turning ++ [(cl, s.now + 3420)] })

/-- A doorbell leaves an end (R600): its time to the partner's end. -/
def State.ringBell (s : State) (p : MbxEnd) : State :=
  let t := match p with
    | .inbox _ => 12
    | .coreEnd _ => 48
    | .coreHubEnd _ => 48
    | _ => 20
  s.modHst (fun h => { h with bells := h.bells ++ [(p.inKey, s.now + t)] })

/-- A write of MBX_DB rings the partner's doorbell (R600). -/
def State.dbWrite (s : State) (m : Master) (mb : MbxEnd) (v : Word) : State :=
  if s.mgmtPage m mb then { s.access m with bus := .written }.aer 1
  else if !(s.mbxReach m mb) then s.refuseBus m
  else if s.bar4Held m then s
  else
    match mb.partner with
    | none => s.refuseBus m
    | some p =>
      let s := s.access m
      { (if v.toNat % 2 = 1 then s.ringBell p else s) with bus := .written }

/-- MBX_DB_RING (R600). -/
def execMbxDbRing (m : Master) (mb : MbxEnd) (v : Word) (s : State) : Host.Outcome State Fault Refusal := .next (s.dbWrite m mb v)

/-- The cluster whose supply domain a doorbell must turn on first (R660). -/
def State.bellOff (s : State) (key : Nat) : Option Nat :=
  match (endOf key).core? with
  | some c => if s.corePresent c && !(s.clusterOn (cluInst c)) then some (cluInst c) else none
  | none => none

/-- A domain that is turning on. -/
def State.clusterTurning (s : State) (cl : Nat) : Bool := s.pwr.turning.any (fun t => decide (t.1 = cl))

/-- The doorbell that acts next: the one due first among those that can be delivered and those whose domain must still be told to turn
on (R17). -/
def State.bellNext (s : State) : Option (Nat × Nat) :=
  (s.hst.bells.filter (fun b => match s.bellOff b.1 with
    | some cl => !(s.clusterTurning cl)
    | none => true)).foldl (fun o b => match o with
      | some x => if b.2 < x.2 then some b else some x
      | none => some b) none

/-- DOORBELL_DELIVER (R17, R600): the next doorbell sets DB at its end and raises a wake event; at a core whose domain is off it turns
the domain on and waits for it, and holds no other doorbell back. -/
def execDoorbellDeliver (s : State) : Host.Outcome State Fault Refusal :=
  match s.bellNext with
  | none => .next s
  | some (key, due) =>
    let e := endOf key
    let s := s.at_ due
    match s.bellOff key with
    | some cl => .next (s.clusterWake cl)
    | none =>
      let s := s.modHst (fun h => { h with bells := dropFirst (fun b => decide (b = (key, due))) h.bells })
      match e.core? with
      | some c => if s.corePresent c then .next (s.flag F.MBX_STAT_DB e.inst e.idx) else .next s
      | none => .next ((s.flag F.MBX_STAT_DB e.inst e.idx).mbxIrq e 1)

/-- A write of MBX_HDB_c (R592, R601): behind earlier BAR4 writes, accepted only for a counter bound to an enabled privileged credit
channel; it becomes an uncounted signal at the module root. -/
def State.hdbWrite (s : State) (core : Nat) (v : Word) : State :=
  if !(s.mbxReach .host (.hostEnd 0)) || !(decide (core < 2048) && decide (clusterOf core < 48)) then s.refuseBus .host
  else if s.bar4Held .host then s
  else
    let s := { s.access .host with bus := .written }
    let n := v.toNat
    let ctr := n % 32
    if s.corePresent core && s.clusterOn (cluInst core) && !(s.privChans core ctr).isEmpty then
      s.sigTo { dcore := core, ctr := ctr, inc := bitsOf n 31 16, win := 0xF, score := 0x7FF, bytes := 0, rchan := 0, mod := 0xFFFF,
                due := s.now + rootDown }
    else (s.aer 1).flag F.PCIE_EVT_HDB_REFUSED 0

/-- HOST_DOORBELL (R601). -/
def execHostDoorbell (core : Nat) (v : Word) (s : State) : Host.Outcome State Fault Refusal := .next (s.hdbWrite core v)

/-- The core whose inbox the send ports of `core` with number `d` reach (R617). -/
def inboxOf (core d : Nat) : Nat := core - corein core + d % 16

/-- A write of MBX_CTX_d in the block of `core` (R598, R599, R617): a word, with its sender, to the inbox of core `d` of the cluster. -/
def State.ctxWrite (s : State) (m : Master) (core d : Nat) (v : Word) : State :=
  if !(s.reach m .MBX core) then s.refuseBus m
  else
    let s := s.access m
    match s.mbxPush (.inbox (inboxOf core d)) (v.toNat % 2 ^ 32 + corein core * 2 ^ 32) with
    | some s => { s with bus := .written }
    | none => s.mbxOverrun m (.inbox (inboxOf core d))

/-- CLUSTER_INBOX_WRITE (R617). -/
def execClusterInboxWrite (core d : Nat) (v : Word) (s : State) : Host.Outcome State Fault Refusal := .next (s.ctxWrite (.cc core) core d v)

/-- A write of MBX_CDB_d in the block of `core` (R600, R617). -/
def State.cdbWrite (s : State) (m : Master) (core d : Nat) (v : Word) : State :=
  if !(s.reach m .MBX core) then s.refuseBus m
  else
    let s := s.access m
    { (if v.toNat % 2 = 1 then s.ringBell (.inbox (inboxOf core d)) else s) with bus := .written }

/-- CLUSTER_DOORBELL (R617). -/
def execClusterDoorbell (core d : Nat) (v : Word) (s : State) : Host.Outcome State Fault Refusal := .next (s.cdbWrite (.cc core) core d v)

/-- A write of MBX_HIRQ in the block of `core` (R594, R617): the core's own vector. -/
def State.hirqWrite (s : State) (m : Master) (core : Nat) (v : Word) : State :=
  if !(s.reach m .MBX core) then s.refuseBus m
  else
    let s := { s.access m with bus := .written }
    if v.toNat % 2 = 1 then s.send (.msix (256 + core)) else s

/-- MBX_HIRQ (R617). -/
def execMbxHirq (core : Nat) (v : Word) (s : State) : Host.Outcome State Fault Refusal := .next (s.hirqWrite (.cc core) core v)

/-- MBX_RESPONSE (R602, R603): the oldest response of a mailbox is written once all of it fits, and the host is rung. With none
waiting, a request whose code the hub does not know is answered BAD_CODE. -/
def execMbxResponse (m : Nat) (s : State) : Host.Outcome State Fault Refusal :=
  match s.hst.resp.find? (fun r => decide (r.1 = m)) with
  | some (_, ws) =>
    if (s.mbxQ (.hostEnd m)).length + ws.length ≤ 8 then
      let s := s.modHst (fun h => { h with resp := dropFirst (fun r => decide (r.1 = m)) h.resp })
      let s := ws.foldl (fun s w => (s.mbxPush (.hostEnd m) w).getD s) s
      .next (s.ringBell (.hostEnd m))
    else .next s
  | none => .next (s.badHeads m 8)

/-! ### Argument addresses (R592, R593, R602) -/

/-- A 64-bit argument, low word first. -/
def arg64 (a : List Nat) (i : Nat) : Nat := a.getD i 0 + a.getD (i + 1) 0 * 2 ^ 32

/-- What an argument address names: HBM that programs may use, or a bus address behind the host window. -/
inductive ArgAddr where
  | hbm (a : Nat)
  | bus (a : Nat)
  | bad
  deriving DecidableEq, Repr

def State.argAddr (s : State) (a n : Nat) : ArgAddr :=
  if !(s.ownMod (gMod a)) then .bad
  else
    let l := gLoc a
    if l + n ≤ hbmProg then .hbm l
    else if 0x300000000000 ≤ l ∧ l + n ≤ 0x301000000000 then
      let b := s.get F.PCIE_HWIN_BASE 0 * 4096 + (l - 0x300000000000)
      if s.busMaster ∧ s.get F.PCIE_STATUS_DL_ACTIVE 0 = 1 ∧ b + n ≤ 2 ^ 64 then .bus b else .bad
    else .bad

/-- Bytes the hub reads at an argument address; `ext` is what a host-window read brings. -/
def State.argRead (s : State) (a : ArgAddr) (n : Nat) (ext : List Byte) : List Byte :=
  match a with
  | .hbm l => s.readMem l n
  | .bus _ => (ext ++ List.replicate n 0).take n
  | .bad => []

/-- Bytes the hub writes at an argument address. -/
def State.argWrite (s : State) (a : ArgAddr) (bs : List Byte) : State :=
  match a with
  | .hbm l => s.writeMem l bs
  | .bus b => s.send (.hostWrite b bs)
  | .bad => s

end Machine
end Sys2Proof
end

