-- ==== Sys2Proof/Machine/Reduction.lean ====
section
/-! DEFINITION. Gradient reduction (R450 to R470): encoding and sending a contribution, landed bytes, the signals the
reduction-channel engine holds, and the closing of a step. -/

namespace Sys2Proof.Machine

open Sys2Proof

/-! ### RCH_SEND (R452 to R455) -/

def rsDst (c : Cmd) : Nat := Cmd.f c 16 63 0
def rsStep (c : Cmd) : Nat := Cmd.f c 24 31 0
def rsResid (c : Cmd) : Bool := Cmd.f c 28 29 29 == 1
def rsK (c : Cmd) : Nat := Cmd.f c 28 28 24
def rsFmt (c : Cmd) : Fmt := Fmt.ofCode (Cmd.f c 28 23 20)
def rsSrc (c : Cmd) : Nat := Cmd.f c 28 19 0
def rsCrate (c : Cmd) : Nat := Cmd.f c 32 27 24
def rsWfmt (c : Cmd) : Nat := Cmd.f c 32 23 22
def rsRes (c : Cmd) : Nat := Cmd.f c 32 19 0
def rsSrcix (c : Cmd) : Nat := Cmd.f c 36 31 20
def rsScl (c : Cmd) : Nat := Cmd.f c 36 19 0
def rsChan (c : Cmd) : Nat := Cmd.f c 40 29 20
def rsChkbase (c : Cmd) : Nat := Cmd.f c 40 19 0
def rsChkcore (c : Cmd) : Nat := Cmd.f c 44 10 0
def rsBlks (c : Cmd) : Nat := Cmd.f c 46 15 0 + 1
def rsTblk0 (c : Cmd) : Nat := Cmd.f c 48 31 0

/-- Loop counts that are not all 1. -/
def Cmd.looped (c : Cmd) : Bool :=
  decide (Cmd.loop c 0 ≠ 1) || decide (Cmd.loop c 1 ≠ 1) || decide (Cmd.loop c 2 ≠ 1) || decide (Cmd.loop c 3 ≠ 1)

/-- The cases of R452 that the fields alone decide; reserved fields must be zero and addresses aligned as the layout says. -/
def rsFieldsBad (c : Cmd) : Bool :=
  Cmd.badHeader c || Cmd.looped c || decide (Cmd.f c 28 31 30 ≠ 0) || decide (Cmd.f c 32 31 28 ≠ 0)
    || decide (Cmd.f c 32 21 20 ≠ 0) || decide (Cmd.f c 40 31 30 ≠ 0) || decide (Cmd.f c 44 15 11 ≠ 0)
    || decide (Cmd.f c 52 95 0 ≠ 0)
    || !(decide (rsFmt c = .fp32) || decide (rsFmt c = .bf16))
    || decide (rsDst c % 128 ≠ 0) || decide (rsSrc c % 64 ≠ 0) || decide (rsRes c % 128 ≠ 0) || decide (rsChkbase c % 256 ≠ 0)
    || decide (16 < rsK c) || decide (10 < rsCrate c) || decide (rsWfmt c = 3)
    || (decide (rsWfmt c ≠ 0) && (decide (rsK c ≠ 0) || decide (rsCrate c ≠ 0) || rsResid c))

/-- The own ranges of a command: the source, the residual, the scales. -/
def rsRanges (c : Cmd) : List (Int × Nat) :=
  [(((rsSrc c : Nat) : Int), rsBlks c * 32 * (rsFmt c).bytes)] ++ (if rsResid c then [(((rsRes c : Nat) : Int), rsBlks c * 128)] else [])
    ++ (if rsWfmt c = 0 then [(((rsScl c : Nat) : Int), rsBlks c)] else [])

/-- The cases of R452: the fields, and the ranges in the own window. -/
def State.rsIllegal (s : State) (core : Nat) (c : Cmd) : Bool :=
  rsFieldsBad c || !(s.ownRange core ((rsSrc c : Nat) : Int) (rsBlks c * 32 * (rsFmt c).bytes))
    || ((rsRanges c).drop 1).any (fun r => !(s.spdRange core r.1 r.2))

/-- Rank of a value for the sparse selection (R453): NaN above infinity above the finite magnitudes. -/
def sparseRank (code : Nat) : Nat := if (fp32 code).isNan then 2 ^ 31 else code % 2 ^ 31

/-- The element indices of a block that are sent (R453): all, or the `k` largest, lower indices first among equals. -/
def sentElems (k : Nat) (v : List Nat) : List Nat :=
  if k = 0 then List.range 32
  else
    let r := v.map sparseRank
    (List.range 32).filter (fun i =>
      let ri := r.getD i 0
      decide (((List.range 32).filter (fun j =>
        decide (ri < r.getD j 0) || (decide (r.getD j 0 = ri) && decide (j < i)))).length < k))

/-- The wire code of one element (R453). -/
def wireElem (wfmt x v : Nat) : Conv :=
  match wfmt with
  | 0 => g8Encode x (fp32 v)
  | 1 => fmtBF16.encode false (fp32 v)
  | _ => toFp32 (fp32 v)

/-- The new residual of one element (R453). -/
def newResidual (x v : Nat) (sent : Option Nat) : Nat :=
  if !(fp32 v).isFinite then 0
  else
    match sent with
    | none => fp32Sub v 0
    | some g => let d := g8Decode x g
                if d.nan then 0 else fp32Sub v d.code

/-- An encoded block: payload, its 32 bytes with 0x00 for elements not sent, saturations, flags, and the new residual. -/
structure EncBlock where
  payload : List Byte
  dense : List Byte
  sat : Nat
  flags : NumFlags
  res : List Nat
  x : Nat
  deriving DecidableEq, Repr

/-- Encoding of block `b` of a command (R453). -/
def State.rsEncode (s : State) (core : Nat) (c : Cmd) (b : Nat) : EncBlock :=
  let f := rsFmt c
  let g := (elems f.bytes (s.readWin core (rsSrc c + b * 32 * f.bytes) (32 * f.bytes)) 32).map
    (fun x => if f = .bf16 then x * 2 ^ 16 else x)
  let r := elems 4 (s.readWin core (rsRes c + 128 * b) 128) 32
  let v := if rsResid c then (g.zip r).map (fun (x, y) => fp32Add x y) else g
  let x := s.winNat core (rsScl c + b) 1
  let sent := sentElems (rsK c) v
  let enc := sent.map (fun k => (k, wireElem (rsWfmt c) x (v.getD k 0)))
  let size := match rsWfmt c with
    | 0 => 1 | 1 => 2 | _ => 4
  let body := enc.flatMap (fun e => leBytes size e.2.code)
  let mask := sent.foldl (fun m k => m + 2 ^ k) 0
  let at_ (k : Nat) : Option Nat := (enc.find? (fun e => decide (e.1 = k))).map (fun e => e.2.code)
  { payload := if rsK c = 0 then body else leBytes 4 mask ++ body
    dense := (List.range 32).map (fun k => BitVec.ofNat 8 ((at_ k).getD 0))
    sat := if rsWfmt c = 0 then (enc.filter (fun e => e.2.sat)).length else 0
    flags := enc.foldl (fun fl e => fl.join (convFlags (fp32 (v.getD e.1 0)) e.2)) {}
    res := (v.zipIdx).map (fun (w, k) => newResidual x w (at_ k))
    x := x }

/-- Block `j` is sampled in a step (R454). -/
def sampled (crate step j : Nat) : Bool :=
  decide (0 < crate) && decide (Nat.xor (j * 0x9E3779B9 % 2 ^ 32) step % 2 ^ crate = 0)

/-- The blocks of a command encoded in order, each residual written before the next block is read. -/
def State.rsBlocks (s : State) (core : Nat) (c : Cmd) : State × List EncBlock :=
  (List.range (rsBlks c)).foldl (fun (s, out) b =>
    let e := s.rsEncode core c b
    let s := if rsResid c then s.writeWin core (rsRes c + 128 * b) (e.res.flatMap (leBytes 4)) else s
    (s, out ++ [e])) (s, [])

/-- A reduction packet's request for one or two blocks (R450). -/
def State.rsRequest (s : State) (c : Cmd) (far : Nat) (es : List EncBlock) : DmReq :=
  let wf := rsWfmt c
  let bs := es.flatMap (·.payload)
  let sat := min 63 (es.foldl (fun n e => n + e.sat) 0)
  { iter := 0, isRead := false, typ := 7, far := far, loc := 0, len := bs.length, bop := 1, fmt := wfmtCode wf, imm := 0,
    conv := none, data := bs,
    rtag := if wf ≠ 0 ∧ s.get F.MSU_RCH_CFG_MODE 0 (rsChan c) = 0 then 0x8000 + 1024 * (rsStep c % 32) + rsChan c else 0,
    red := rsChan c * 2 ^ 28 + rsStep c % 256 * 2 ^ 20 + rsSrcix c * 2 ^ 8 + sat * 4 }

/-- The two G8ACC copies of a sampled block (R454). -/
def rsCopies (c : Cmd) (j : Nat) (e : EncBlock) : List DmReq :=
  let n := (j + 2 ^ 32 - rsTblk0 c) % 2 ^ 32 / 2 ^ rsCrate c
  let far := rsDst c / 2 ^ 48 * 2 ^ 48 + winBase (rsChkcore c) + rsChkbase c + 256 * n
  let op (a : Nat) (bs : List Byte) : DmReq :=
    { iter := 0, isRead := false, typ := 2, far := a, loc := 0, len := 128, bop := 5, fmt := 9, imm := e.x, conv := none, data := bs }
  [op far e.dense, op (far + 128) (e.dense.map (fun b => b &&& 0x7F))]

/-- The requests of the encoded blocks from block `b` on, in the order of the blocks. -/
def State.rsReqs (s : State) (c : Cmd) (b : Nat) : List EncBlock → List DmReq
  | [] => []
  | e :: es =>
    let far := rsDst c + 128 * b
    let copies (b : Nat) (e : EncBlock) : List DmReq :=
      let j := (rsDst c / 128 + b) % 2 ^ 32
      if sampled (rsCrate c) (rsStep c) j then rsCopies c j e else []
    match es with
    | [] => [s.rsRequest c far [e]] ++ copies b e
    | e' :: es' =>
      if far % 256 = 0 then [s.rsRequest c far [e, e']] ++ copies b e ++ copies (b + 1) e' ++ State.rsReqs s c (b + 2) es'
      else [s.rsRequest c far [e]] ++ copies b e ++ State.rsReqs s c (b + 1) (e' :: es')

/-- The ranges of the own window that a contribution is read from, as the banks see them. -/
def rsWindow (c : Cmd) : List (Nat × Nat) := (rsRanges c).map (fun r => (r.1.toNat, r.2))

/-- RCH_SEND (R452 to R455): the contribution is encoded as the command begins, once the banks serve what it reads; its requests follow
through DM_ISSUE_REQUEST. `hw` is what the reads find (R215). -/
def execRchSend : UnitRead → State → Host.Outcome State Fault Refusal
  | ⟨core, hw⟩, s =>
    .next (s.beginHead core .dm (fun s k => decide (Cmd.opcode k = 0x1C)
        && (s.rsIllegal core k || s.windowServes core .dm (s.core core).dmSince (rsWindow k))) (fun p b q s =>
      let c := q.cmd
      if s.rsIllegal core c then (s.dmRefuseBank core (rsRanges c)).dmEndNow core p b q 3
      else if s.specIllegal core c then s.dmEndNow core p b q 3
      else
        let (s, unc) := (s.windowTake core .dm (s.core core).dmSince (rsWindow c)).dmRead core (rsWindow c) hw
        if unc then s.dmEndNow core p b q 6
        else
          let (s, es) := s.rsBlocks core c
          let s := s.dmFlags core (es.foldl (fun g e => g.join e.flags) {})
          let s := (s.bump F.DM_RCH_CNT_SAT core (es.foldl (fun n e => n + e.sat) 0)).bump F.DM_RCH_CNT_BLOCKS core es.length
          let reqs := s.rsReqs c 0 es
          (s.dmBegin core p b q (fun d => { d with reqs := reqs, gather := 1 })).1))

/-! ### Landed bytes and held signals (R460, R461) -/

/-- LANDED_REPORT (R460): an MSU reports its batched counts; the engine adds them to each channel's LANDED. -/
def execLandedReport (msu : Nat) (s : State) : Host.Outcome State Fault Refusal :=
  let k := s.msu msu
  let s := s.setMsu msu { k with landed := [] }
  .next (k.landed.foldl (fun s (c, n) => s.addw F.MSU_RCH_LAND_LANDED 0 n c) s)

/-- Bytes of a channel that have landed and are not claimed. -/
def State.rchUnclaimed (s : State) (c : Nat) : Nat :=
  (s.get F.MSU_RCH_LAND_LANDED 0 c + 2 ^ 32 - s.get F.MSU_RCH_LAND_CLAIMED 0 c) % 2 ^ 32

/-- The engine takes the oldest signal kept back at the root when it has room again. -/
def State.rchRefill (s : State) : State :=
  match s.rchBack with
  | g :: l => if s.rchHeld < 4096 then { s with rchBack := l }.rchHold g else s
  | [] => s

/-- RCH_SIGNAL_RELEASE (R461): the oldest signal of a channel is released once its bytes have landed; it goes on to its core
as an uncounted signal. -/
def execRchSignalRelease (chan : Nat) (s : State) : Host.Outcome State Fault Refusal :=
  match lookD [] s.rchSig chan with
  | [] => .next s
  | g :: l =>
    if s.rchUnclaimed chan < g.bytes then .next s
    else
      let s := s.at_ g.due
      let s := { s with rchSig := putD natLt [] s.rchSig chan l }.addw F.MSU_RCH_LAND_CLAIMED 0 g.bytes chan
      .next ((s.sigTo { g with win := 0xF, due := s.now + rootDown }).rchRefill)

/-! ### RCH_CLOSE (R463 to R467) -/

def rcChan (c : Cmd) : Nat := Cmd.f c 16 9 0
def rcSoutEn (c : Cmd) : Bool := Cmd.f c 18 0 0 == 1
def rcStep (c : Cmd) : Nat := Cmd.f c 20 31 0
def rcSout (c : Cmd) : Nat := Cmd.f c 24 19 0
def rcTimeout (c : Cmd) : Nat := Cmd.f c 28 31 0

/-- Reserved fields of an RCH_CLOSE (R463). -/
def rcFieldsBad (c : Cmd) : Bool :=
  Cmd.badHeader c || Cmd.looped c || decide (Cmd.f c 16 15 10 ≠ 0) || decide (Cmd.f c 18 15 1 ≠ 0)
    || decide (Cmd.f c 24 31 20 ≠ 0) || decide (Cmd.f c 32 255 0 ≠ 0)

/-- The cases of R463, reserved fields, and a channel that is not open. -/
def State.rcIllegal (s : State) (core : Nat) (c : Cmd) : Bool :=
  rcFieldsBad c
    || decide (s.get F.MSU_RCH_CFG_VALID 0 (rcChan c) = 0) || decide (s.get F.MSU_RCH_CFG_HOME 0 (rcChan c) ≠ core)
    || decide (s.rchStep (rcChan c) ≠ rcStep c)

/-- RCH_CLOSE (R463): ILLEGAL as it begins, or it holds the data mover's queue. -/
def execRchClose (core : Nat) (s : State) : Host.Outcome State Fault Refusal :=
  .next (s.dmBeginHead core 0x1D (fun p b q s =>
    if s.rcIllegal core q.cmd || s.specIllegal core q.cmd then s.dmEndNow core p b q 3 else (s.dmBegin core p b q (fun d => d)).1))

/-- The close that holds a core's data mover. -/
def State.closeHeld (s : State) (core : Nat) : Option DmCmd :=
  (s.core core).dmCmds.find? (fun d => d.issuing && decide (Cmd.opcode d.q.cmd = 0x1D))

/-- Block number of target block `t`, and the blocks of the region sampled in the channel's step. -/
def State.rchBlockNo (s : State) (c t : Nat) : Nat := (s.rchBase c / 128 + t) % 2 ^ 32
def State.rchSampled (s : State) (c : Nat) : List Nat :=
  (List.range (s.rchBlks c)).filter (fun t => sampled (s.get F.MSU_RCH_CFG_CRATE 0 c) (s.rchStep c) (s.rchBlockNo c t))

/-- EXPECT and CHKEXP (R464). -/
def State.rchExpect (s : State) (c : Nat) : Nat := s.rchSrcs c * s.rchBlks c * s.rchP c
def State.rchChkexp (s : State) (c : Nat) : Nat := 256 * s.rchSrcs c * (s.rchSampled c).length

/-- Bytes landed in the step. -/
def State.rchLanded (s : State) (c : Nat) : Nat :=
  (s.get F.MSU_RCH_LAND_LANDED 0 c + 2 ^ 32 - s.get F.MSU_RCH_STEP_BASE 0 c) % 2 ^ 32

/-- What the close waits for has happened (R464). -/
def State.rchReady (s : State) (c : Nat) : Bool :=
  decide (s.rchExpect c ≤ s.rchLanded c)
    && (decide (s.get F.MSU_RCH_CFG_CRATE 0 c = 0)
      || decide (s.rchChkexp c ≤ s.unclaimed (s.get F.MSU_RCH_CFG_HOME 0 c) (s.get F.MSU_RCH_CFG_CHKWIN 0 c)))

/-- The first failure recorded (R473), the event and the hub's record (R467). -/
def State.rchFailLog (s : State) (c blk elem diff kind : Nat) : State :=
  let s := s.flag F.MSU_RCH_EVT_REDUCE_CHECK 0
  let w := BitVec.ofNat 64 (2 ^ 63 + c * 2 ^ 53 + blk % 2 ^ 20 * 2 ^ 33 + elem % 32 * 2 ^ 28 + diff % 256 * 2 ^ 20
    + s.rchStep c % 256 * 2 ^ 12 + kind * 2 ^ 11)
  let s := if s.get F.MSU_RCH_CHK_LOG_VALID 0 = 1 then s else s.wr ⟨.MSU_RCH_CHK_LOG, 0, 0⟩ w
  s.logHw 2 .RCHE 0 0 (leBytes 8 w.toNat)

/-- The close completes with a status and an abort cause of its own. -/
def State.rchEnd (s : State) (core id status cause : Nat) : State :=
  (s.modDm core id (fun d => { d with status := status, cause := cause, issuing := false })).dmSettle core

/-- Step 1 of R465 for one target block. -/
def State.rchSumBlock (s : State) (c smod t : Nat) : State :=
  let a := s.rchBase c + 128 * t
  let dense := s.rchDense c
  let pb := s.rchP c
  let (s, new, touched, dec) := (List.range (s.rchSrcs c)).foldl (fun (a' : State × List Nat × List Nat × List Nat) i =>
    let (s, l, t1, d1) := a'
    let (s, l, t2, d2) := s.redAdd c a i smod (s.readMem (s.stgSlot c i a) pb) dense l
    (s, l, t1 ++ t2, d1 ++ d2)) (s, elems 4 (s.readMem a 128) 32, [], [])
  let m := (s.hbmPlace a).msu
  let (s, bad) := s.redFlags m new touched dec
  let s := (s.writeMem a (new.flatMap (leBytes 4))).bump F.MSU_CNT_NONFINITE m bad
  if t % 2 = 0 then s.bump F.MSU_CNT_BLOCKS m else s

/-- What a close reads of HBM (R465, R466): in fixed-order mode every target block and its staged contributions, else the sampled
blocks. -/
def State.rchReads (s : State) (c : Nat) : List (Nat × Nat) :=
  let blk (t : Nat) : Nat := s.rchBase c + 128 * t
  if s.get F.MSU_RCH_CFG_MODE 0 c = 1 then
    (List.range (s.rchBlks c)).flatMap (fun t =>
      (blk t, 128) :: (List.range (s.rchSrcs c)).map (fun i => (s.stgSlot c i (blk t), s.rchP c)))
  else if s.get F.MSU_RCH_CFG_CRATE 0 c ≠ 0 ∧ s.rchWfmt c = 0 then (s.rchSampled c).map (fun t => (blk t, 128))
  else []

/-- The MSUs' reads of a close (R273): whether one of them was uncorrectable. `hw` is what the first of them finds. -/
def State.rchRead (s : State) (c core : Nat) (hw : MemHw) : State × Bool :=
  (s.rchReads c).zipIdx.foldl (fun (a : State × Bool) x =>
    let (s, unc) := a.1.msuRead (a.1.hbmPlace x.1.1).msu core [x.1] (if x.2 = 0 then hw else .ok) x.1.1
    (s, a.2 || unc)) (s, false)

/-- The check rows of a step in the home core's scratchpad (R454). -/
def State.rchRows (s : State) (c : Nat) : List (Nat × Nat) :=
  if s.get F.MSU_RCH_CFG_CRATE 0 c ≠ 0 ∧ s.rchWfmt c = 0 then
    (s.rchSampled c).map (fun t => (s.get F.MSU_RCH_AUX_CHKBASE 0 c + 256 * (t / 2 ^ s.get F.MSU_RCH_CFG_CRATE 0 c), 256))
  else []

/-- The test of one element (R466). -/
def checkElem (tol nsrc a b mag : Nat) : Bool :=
  let x := fp32 a
  let y := fp32 b
  if x.isNan && y.isNan then true
  else if x.isInf && y.isInf then x.isNeg == y.isNeg
  else if x.isFinite && y.isFinite then
    let bound := (fp32 mag).mul (.fin false nsrc (sext 4 tol - 22))
    !bound.isNan && !(bound.lt (x.sub y).abs)
  else false

/-- DIFF_EXP of R473, where it states one: the exponent of |a − b| plus 128, 0xFF when one value only is NaN. -/
def rchDiffExp (a b : Nat) : Option Nat :=
  let x := fp32 a
  let y := fp32 b
  if x.isNan != y.isNan then some 0xFF
  else
    let d := (x.sub y).abs
    if d.isFinite && !d.isZero then
      let e := d.exponent + 128
      if 0 ≤ e ∧ e < 256 then some e.toNat else none
    else none

/-- The first sampled element that fails (R466): block, element, target value and value row. -/
def State.rchCheck (s : State) (c : Nat) : Option (Nat × Nat × Nat × Nat) :=
  let home := s.get F.MSU_RCH_CFG_HOME 0 c
  let chk := s.get F.MSU_RCH_AUX_CHKBASE 0 c
  (s.rchSampled c).findSome? (fun t =>
    let row := chk + 256 * (t / 2 ^ s.get F.MSU_RCH_CFG_CRATE 0 c)
    let a := elems 4 (s.readMem (s.rchBase c + 128 * t) 128) 32
    let b := elems 4 (s.readWin home row 128) 32
    let m := elems 4 (s.readWin home (row + 128) 128) 32
    (List.range 32).findSome? (fun k =>
      if checkElem (s.get F.MSU_RCH_CFG_TOL 0 c) (s.rchSrcs c) (a.getD k 0) (b.getD k 0) (m.getD k 0) then none
      else some (t, k, a.getD k 0, b.getD k 0)))

/-- X of an entry after the close (R465). -/
def newScale (head x peak : Nat) : Nat := if peak = 0 then x else min 254 (peak + head - 8)

/-- Step 3 of R465: every entry's X, PEAK cleared, and the scale list. -/
def State.rchScales (s : State) (c : Nat) (cmd : Cmd) : State :=
  let home := s.get F.MSU_RCH_CFG_HOME 0 c
  (List.range (s.rchBlks c)).foldl (fun s t =>
    let a := s.rchBase c + 128 * t
    let (x, peak) := s.scaleOf c a
    let x' := newScale (s.get F.MSU_RCH_CFG_HEAD 0 c) x peak
    let s := s.setScale c a x' 0
    if rcSoutEn cmd then s.writeWin home (rcSout cmd + t) (leBytes 1 x') else s) s

/-- Steps 3 to 5 of R465. -/
def State.rchFinish (s : State) (core c : Nat) (cmd : Cmd) (id : Nat) : State :=
  let home := s.get F.MSU_RCH_CFG_HOME 0 c
  let g8 := decide (s.rchWfmt c = 0)
  let s := if g8 then s.rchScales c cmd else s
  let s := if g8 && decide (s.get F.MSU_RCH_CFG_CRATE 0 c ≠ 0) then
      (s.rchSampled c).foldl (fun s t =>
        s.writeWin home (s.get F.MSU_RCH_AUX_CHKBASE 0 c + 256 * (t / 2 ^ s.get F.MSU_RCH_CFG_CRATE 0 c))
          (List.replicate 256 0)) s
    else s
  let s := s.addw F.MSU_RCH_STEP_BASE 0 (s.rchExpect c) c
  (s.addw F.MSU_RCH_STEP_STEP 0 1 c).rchEnd core id 0 0

/-- RCH_CLOSE_PROCEED (R464 to R467): once the bytes have landed, before the limit, the step is summed, checked, its scales
derived, the check rows zeroed and the step advanced. The scale list's range is checked before any change; `hw` is what the first read of
HBM finds (R273). -/
def execRchCloseProceed : UnitRead → State → Host.Outcome State Fault Refusal
  | ⟨core, hw⟩, s =>
    match s.closeHeld core with
    | none => .next s
    | some d =>
      let cmd := d.q.cmd
      let c := rcChan cmd
      let lim := rcTimeout cmd
      let late := decide (0 < lim) && decide (d.at_ + 1024 * lim < s.now)
      let g8 := decide (s.rchWfmt c = 0)
      if !(s.running core) || late || !(s.rchReady c)
        || !(s.windowServes core .dm d.at_ (s.rchRows c)) then .next s
      else if g8 && rcSoutEn cmd
          && (decide (rcSout cmd % 64 ≠ 0) || !(s.spdRange core ((rcSout cmd : Nat) : Int) (s.rchBlks c))) then
        .next (s.rchEnd core d.id 3 0)
      else
        let crate := s.get F.MSU_RCH_CFG_CRATE 0 c
        let s := if crate = 0 then s
          else s.addw F.SYNC_LAND_CLAIMED (s.get F.MSU_RCH_CFG_HOME 0 c) (s.rchChkexp c) (s.get F.MSU_RCH_CFG_CHKWIN 0 c)
        if s.rchExpect c < s.rchLanded c then
          let (w, s) := s.fresh
          let n := w.toNat
          .next ((s.rchFailLog c n (n / 2 ^ 20) (n / 2 ^ 25) 1).rchEnd core d.id 5 0x0D)
        else
          match s.rchRead c core hw with
          | (s, true) => .next (s.rchEnd core d.id 6 0)
          | (s, false) =>
            let (w, s) := s.fresh
            let s := if s.get F.MSU_RCH_CFG_MODE 0 c = 1 then
                (List.range (s.rchBlks c)).foldl (fun s t => s.rchSumBlock c (w.toNat % 2 ^ 16) t) s
              else s
            match (s.windowTake core .dm d.at_ (s.rchRows c)).dmRead core (s.rchRows c) .ok with
            | (s, true) => .next (s.rchEnd core d.id 6 0)
            | (s, false) =>
              match if g8 && decide (crate ≠ 0) then s.rchCheck c else none with
              | some (t, k, a, b) =>
                let (w, s) := s.fresh
                let s := { s with rchFault := s.rchFault ++ [c] }
                .next ((s.rchFailLog c t k ((rchDiffExp a b).getD (w.toNat % 256)) 0).rchEnd core d.id 5 0x0D)
              | none => .next (s.rchFinish core c cmd d.id)

/-- RCH_CLOSE_TIMEOUT (R464): the limit passes first. -/
def execRchCloseTimeout (core : Nat) (s : State) : Host.Outcome State Fault Refusal :=
  match s.closeHeld core with
  | none => .next s
  | some d =>
    let lim := rcTimeout d.q.cmd
    let t := d.at_ + 1024 * lim + 1
    if !(s.running core) || decide (lim = 0) || (s.rchReady (rcChan d.q.cmd) && decide (s.now < t)) then .next s
    else .next ((s.at_ t).rchEnd core d.id 8 0)

end Sys2Proof.Machine
end

