-- ==== Sys2Proof/Machine/TimeRef.lean ====
section
/-! DEFINITION. The time reference (R478 to R497): the timebase and its states, the time exchange over links, the choice of
master, external inputs, outputs and PTP. Times are in units of 2^-32 ns. -/

namespace Sys2Proof.Machine

open Sys2Proof

/-- A second and a nanosecond in units of 2^-32 ns. -/
def nsU : Nat := 2 ^ 32
def secU : Nat := 10 ^ 9 * 2 ^ 32

/-- Nominal TIME_INC (R479). -/
def incNominal : Nat := 0x0666666666

def State.tstate (s : State) : Nat := s.get F.TIME_STATUS_STATE 0
def State.tvalid (s : State) : Bool := decide (s.get F.TIME_STATUS_VALID 0 = 1)
def State.uplink (s : State) : Nat := s.get F.TIME_STATUS_UPLINK 0
def State.modTime (s : State) (f : TimeSt → TimeSt) : State := { s with time := f s.time }

/-- ROLE and SOURCE with their reserved codes read as R498 says. -/
def State.trole (s : State) : Nat := let r := s.get F.TIME_CFG_ROLE 0
                                     if r = 3 then 0 else r
def State.tsource (s : State) : Nat := let r := s.get F.TIME_CFG_SOURCE 0
                                       if r = 3 then 0 else r

/-- Sync and announce intervals in ACLK. -/
def State.syncAclk (s : State) : Nat := 1900000000 / 2 ^ s.get F.TIME_CFG_SYNC_LOG 0
def State.annAclk (s : State) : Nat := 1900000000 / 2 ^ s.get F.TIME_CFG_ANN_LOG 0

/-- The timebase counted on to now, before its rate or value changes. -/
def State.tbRebase (s : State) : State := { s with tbVal := s.timeFull, tbAt := s.ticks }

/-- What PERT_TSTAMP adds to a timestamp that this module takes on a link, or on the management port (36) (R730); with ALT its sign
reverses at each sync interval. -/
def State.pertStamp (s : State) (link : Nat) : Int :=
  if s.get F.PERT_TSTAMP_EN 0 = 1 ∧ s.get F.PERT_TSTAMP_LINK 0 = link ∧ link ≤ 36 then
    let o := sext 32 (s.get F.PERT_TSTAMP_OFFSET 0) * 2 ^ 28
    if s.get F.PERT_TSTAMP_ALT 0 = 1 ∧ s.now / s.syncAclk % 2 = 1 then -o else o
  else 0

/-- A timestamp with the disturbance added. -/
def State.stamp (s : State) (link t : Nat) : Nat := ((t : Int) + s.pertStamp link).toNat

/-- Both channels assert their time-enable lines (R694): no trip is latched and no disturbance is enabled (R730). -/
def State.timeEnable (s : State) : Bool := decide (s.get F.SAFE_STATUS_TRIPPED 0 = 0) && decide (s.get F.PERT_TSTAMP_EN 0 = 0)

/-- The gate of R694 closes or opens while time is VALID: `s` is the state before. -/
def State.gateFollow (s' s : State) : State :=
  if !s'.tvalid || decide (s.timeEnable = s'.timeEnable) then s'
  else if s'.timeEnable then (if s'.get F.TIME_CFG_REF_OUT_EN 0 = 1 then s'.send (.pin 1 true) else s').send (.pin 2 true)
  else ((s'.send (.pin 0 false)).send (.pin 1 false)).send (.pin 2 false)

/-- A state of the timebase with its VALID; the time outputs follow VALID (R480, R482, R496) through the gate of R694. -/
def State.setTstate (s : State) (st valid : Nat) : State :=
  let was := s.get F.TIME_STATUS_VALID 0
  let s := (s.set F.TIME_STATUS_STATE 0 st).set F.TIME_STATUS_VALID 0 valid
  if was = 1 ∧ valid = 0 then
    (((s.modTime (fun t => { t with ppsUntil := min t.ppsUntil s.now })).send (.pin 0 false)).send (.pin 1 false)).send (.pin 2 false)
  else if was = 0 ∧ valid = 1 ∧ s.timeEnable then
    (if s.get F.TIME_CFG_REF_OUT_EN 0 = 1 then s.send (.pin 1 true) else s).send (.pin 2 true)
  else s

/-- The timebase enters INVALID (R481): the event bits, and a module-degraded record for the cause. -/
def State.timeInvalid (s : State) (cause : Nat) (fatal : Bool) : State :=
  if s.tstate = 4 then s.modTime (fun t => { t with fatal := t.fatal || fatal })
  else
    let s := (s.setTstate 4 0).flag F.TIME_EVT_INVALID 0
    let s := s.modTime (fun t => { t with fatal := t.fatal || fatal, acting := false, req := [] })
    s.logHw 3 .TIME cause 0

/-- A reference has been chosen (R480). -/
def State.toAcquire (s : State) : State :=
  (s.setTstate 1 0).modTime (fun t => { t with stepped := false, lock := 0, outl := 0, xdiff := 0, lastOff := [] })

/-- HOLDOVER (R480, R492, R493). -/
def State.toHoldover (s : State) : State :=
  let s := ((s.setTstate 3 1).flag F.TIME_EVT_HOLDOVER 0).set F.TIME_STATUS_QUAL 0 2
  s.modTime (fun t => { t with holdAt := s.now, lock := 0 })

/-- Key of a master (R491): lower is better. -/
def gmKey (qual prio gm : Nat) : Nat := qual * 2 ^ 24 + prio % 256 * 2 ^ 16 + gm % 2 ^ 16

/-- The quality of this module's own source (R491). -/
def State.ownQual (s : State) : Nat :=
  match s.tsource with
  | 1 => if s.get F.TIME_STATUS_PPS_IN_OK 0 = 1 ∧ s.get F.TIME_STATUS_REF_IN_OK 0 = 1 then 0 else 3
  | 2 => if s.time.ptpOk then 1 else 3
  | _ => 3
def State.ownKey (s : State) : Nat :=
  gmKey (if s.time.acting && decide (s.tstate = 3) then 2 else s.ownQual) (s.get F.TIME_CFG_PRIO 0) s.modId

/-- The current grandmaster's identity, with the event of a change (R504, R506). -/
def State.setGm (s : State) (gm : Nat) : State :=
  (s.flagIf (decide (s.get F.TIME_GM_GM_ID 0 ≠ gm)) F.TIME_EVT_MASTER_CHANGE 0).set F.TIME_GM_GM_ID 0 gm

/-- This module takes the grandmaster's role (R490, R493, R494). -/
def State.takeRole (s : State) (qual : Nat) : State :=
  let s := ((s.setGm s.modId).set F.TIME_STATUS_STEPS 0 0).set F.TIME_STATUS_QUAL 0 qual
  let s := s.set F.TIME_STATUS_UPLINK 0 (if s.tsource = 2 ∧ s.time.ptpOk then 36 else 63)
  s.modTime (fun t => { t with acting := true, gmPrio := s.get F.TIME_CFG_PRIO 0, req := [] })

/-- The valid announcement that R491 chooses, no older than three announce intervals. -/
def State.bestHeard (s : State) : Option (Nat × AnnounceMsg) :=
  s.time.heard.foldl (fun best (n, a, at_) =>
    if !a.valid || decide (at_ + 3 * s.annAclk < s.now) || !(s.linkReady n) || decide (a.gmId % 2 ^ 16 = s.modId) then best
    else
      let key (n : Nat) (a : AnnounceMsg) : Nat := gmKey a.qual a.prio a.gmId * 2 ^ 16 + a.steps % 256 * 2 ^ 8 + n
      match best with
      | some (m, b) => if key n a < key m b then some (n, a) else best
      | none => some (n, a)) none

/-- A locked grandmaster or backup whose own key is better than its master's takes the role (R494). -/
def State.tryRole (s : State) : State :=
  if s.time.acting || decide (s.trole = 0) || decide (s.tstate ≠ 2) then s
  else if s.ownKey < gmKey (s.get F.TIME_STATUS_QUAL 0) s.time.gmPrio (s.get F.TIME_GM_GM_ID 0) then
    let s := s.takeRole s.ownQual
    if s.ownQual = 3 then s.setTstate 0 1 else s
  else s

/-- Following the master of an announcement (R491): the same grandmaster keeps the state; another, or a start from FREE,
HOLDOVER or INVALID, acquires (R481, R487). -/
def State.follow (s : State) (link : Nat) (a : AnnounceMsg) : State :=
  let change := decide (s.get F.TIME_GM_GM_ID 0 ≠ a.gmId % 2 ^ 16) || s.time.acting || decide (s.tstate = 0)
    || decide (s.tstate = 3) || decide (s.tstate = 4)
  let s := ((s.setGm (a.gmId % 2 ^ 16)).set F.TIME_STATUS_UPLINK 0 link).set F.TIME_STATUS_STEPS 0 (min 255 (a.steps + 1))
  let s := ((s.set F.TIME_STATUS_QUAL 0 a.qual).set F.TIME_GM_UTC_OFFSET 0 a.utcOffset).set F.TIME_GM_LEAP61 0 (b2n a.leap61)
  let s := (s.set F.TIME_GM_LEAP59 0 (b2n a.leap59)).modTime (fun t => { t with acting := false, gmPrio := a.prio, annEnd := 0 })
  if change then s.toAcquire else s.tryRole

/-- The choice of master (R491, R494). -/
def State.chooseMaster (s : State) : State :=
  if s.time.fatal then s
  else
    match s.bestHeard with
    | none => s
    | some (n, a) =>
      if s.time.acting then (if gmKey a.qual a.prio a.gmId < s.ownKey then s.follow n a else s) else s.follow n a

/-- The start of the timebase (R480, R494): a grandmaster that hears no other takes the role in FREE. -/
def State.timeStart (s : State) : State :=
  match s.bestHeard with
  | some _ => s.chooseMaster
  | none => if s.trole = 2 ∧ s.tstate = 0 ∧ !s.time.acting then (s.takeRole s.ownQual).setTstate 0 1 else s

/-- An integer kept within `lim` of zero. -/
def clampInt (lim : Nat) (i : Int) : Int := max (-(lim : Int)) (min (lim : Int) i)

/-- The servo's slew (R479, R487): TIME_INC within 100 ppm of nominal; a grandmaster that has taken the role slews at no more
than 1 us per second (R494). -/
def State.slew (s : State) (offset : Int) : State :=
  let s := s.tbRebase
  let i := s.time.integral + offset
  let step := Config.servoStep (s.get F.TIME_SERVO_KP 0) (s.get F.TIME_SERVO_KI 0) offset i
  let lim := if s.time.acting then incNominal / 1000000 else incNominal / 10000
  (s.set F.TIME_INC_INC 0 ((incNominal : Int) + clampInt lim step).toNat).modTime (fun t => { t with integral := i })

/-- The timebase is LOCKED (R480). -/
def State.toLocked (s : State) : State :=
  let s := (s.setTstate 2 1).flag F.TIME_EVT_LOCK 0
  let s := if s.time.acting || decide (s.uplink = 36) || decide (s.uplink = 63) then s.takeRole s.ownQual else s
  s.tryRole

/-- An accepted offset (R480, R487): ACQUIRE's first one steps the timebase; the others slew it and count towards LOCKED. -/
def State.acceptOffset (s : State) (src : Nat) (offset : Int) : State :=
  let s := s.modTime (fun t => { t with lastOff := insertAt natLt t.lastOff src offset, outl := 0 })
  if s.tstate = 1 ∧ !s.time.stepped then
    let s := s.tbRebase
    { s with tbVal := (((s.tbVal : Nat) : Int) - offset).toNat % 2 ^ 96 }.modTime (fun t => { t with stepped := true })
  else
    let s := s.slew offset
    let lock := if offset.natAbs < 50 * nsU then s.time.lock + 1 else 0
    let s := s.modTime (fun t => { t with lock := lock })
    if (s.tstate = 1 ∨ s.tstate = 3) ∧ 8 ≤ lock then s.toLocked else s

/-- An offset from the chosen reference (R487): an outlier while LOCKED is discarded, eight in a row acquire again. `meas` is the
exchange's delay, kept in TIME_MEAS (R503). -/
def State.timeOffset (s : State) (src : Nat) (offset : Int) (meas : Option Int) : State :=
  if s.tstate = 2 ∧ s.get F.TIME_CFG_XCHK_LIMIT 0 * nsU < offset.natAbs then
    let s := ((s.pmon .TIME 0 0xB1 0 1).flag F.TIME_EVT_OUTLIER 0).modTime (fun t => { t with outl := t.outl + 1 })
    if 8 ≤ s.time.outl then s.toAcquire else s
  else if s.tstate = 1 ∨ s.tstate = 2 ∨ s.tstate = 3 then
    let s := match meas with
      | some d => (s.set F.TIME_MEAS_DELAY 0 (wrapInt 32 (d / 2 ^ 24))).set F.TIME_MEAS_OFFSET 0 (wrapInt 32 (offset / 2 ^ 24))
      | none => s
    s.acceptOffset src offset
  else s

/-- The cross-check of a second link (R489). -/
def State.crossCheck (s : State) (offset : Int) : State :=
  match find? s.time.lastOff s.uplink with
  | none => s
  | some o =>
    if s.get F.TIME_CFG_XCHK_LIMIT 0 * nsU < (offset - o).natAbs then
      let n := s.time.xdiff + 1
      let s := s.modTime (fun t => { t with xdiff := n })
      if 3 ≤ n ∧ s.tstate ≠ 4 then (s.flag F.TIME_EVT_XCHK 0).timeInvalid 6 false else s
    else s.modTime (fun t => { t with xdiff := 0 })

/-- A link that may serve the cross-check (R489). -/
def State.crossLink (s : State) (link : Nat) : Bool :=
  decide (link ≠ s.uplink) && !s.time.acting && (match find? s.time.heard link with
    | some (a, _) => a.valid && decide (a.steps ≤ s.get F.TIME_STATUS_STEPS 0)
    | none => false)

/-! ### Messages over links (R485 to R491) -/

/-- T_REQ_SEND (R486, R489): a follower asks its upstream link, or the link of its cross-check, once in every sync interval. -/
def execTReqSend (link : Nat) (s : State) : Host.Outcome State Fault Refusal :=
  if !(s.linkReady link) || s.time.acting || !(decide (s.tstate = 1) || decide (s.tstate = 2))
      || !(decide (link = s.uplink) || s.crossLink link) then .next s
  else
    let s := match find? s.time.sentAt link with
      | some t => s.at_ (t + s.syncAclk)
      | none => s
    let q := lookD 0 s.time.seq link
    let t1 := s.stamp link (s.timeFull / 2 ^ 28 * 2 ^ 28)
    let s := s.modTime (fun t => { t with
      req := insertAt natLt t.req link (q, t1), seq := insertAt natLt t.seq link ((q + 1) % 2 ^ 16), sentAt := insertAt natLt t.sentAt link s.now })
    .next (s.send (.linkMsg link 0x10 [q]))

/-- T_REQ (R486): every module answers on every link with its VALID and the timestamps taken by the hub. -/
def execTReq (link seq t2 t3 : Nat) (s : State) : Host.Outcome State Fault Refusal :=
  if !(s.linkReady link) then .next s
  else .next (s.send (.linkMsg link 0x11 [seq % 2 ^ 16, s.get F.TIME_STATUS_VALID 0, s.stamp link t2 % 2 ^ 96, s.stamp link t3 % 2 ^ 96]))

/-- T_RESP (R486 to R489): the exchange's delay and offset; one that does not match, is not valid or comes after 1 ms is
discarded. -/
def execTResp (link seq : Nat) (valid : Bool) (t2 t3 t4 : Nat) (s : State) : Host.Outcome State Fault Refusal :=
  match find? s.time.req link with
  | none => .next s
  | some (q, t1) =>
    let t4 := s.stamp link t4
    if q ≠ seq ∨ !valid ∨ t1 + 1000000 * nsU < t4 ∨ !(s.linkReady link) then .next s
    else
      let s := (s.pmon .TIME 0 0xB0 0 1).modTime (fun t => { t with req := dropKey t.req link })
      let asym := sext 32 (s.get F.TIME_ASYM_ASYM 0 link) * 2 ^ 24
      let d (a b : Nat) : Int := (a : Int) - (b : Int)
      let delay := (d t4 t1 - d t3 t2) / 2
      let offset := (d t1 t2 + d t4 t3) / 2 + asym
      if link = s.uplink then .next (s.timeOffset link offset (some delay)) else .next (s.crossCheck offset)

/-- ANNOUNCE_SEND (R482, R490, R493, R497): the current grandmaster's description, once in every announce interval; link 36 is the
management port, where a grandmaster that is a PTP master sends Announce. -/
def execAnnounceSend (link : Nat) (s : State) : Host.Outcome State Fault Refusal :=
  let port := decide (link = 36)
  let may := if port then s.time.acting && decide (s.tsource ≠ 2) && s.tvalid else s.linkReady link
  let s' := match find? s.time.annAt link with
    | some t => s.at_ (t + s.annAclk)
    | none => s
  if !may || (decide (s.tstate = 3) && !s.time.acting && decide (s.time.annEnd < s'.now)) then .next s
  else
    let s := s'.modTime (fun t => { t with annAt := insertAt natLt t.annAt link s'.now })
    let qual := s.get F.TIME_STATUS_QUAL 0
    let utc := s.get F.TIME_GM_UTC_OFFSET 0
    let l61 := s.get F.TIME_GM_LEAP61 0
    let l59 := s.get F.TIME_GM_LEAP59 0
    if port then .next (s.send (.eth [0x0B, if qual = 0 then 6 else if qual = 2 then 7 else 248, utc, l61, l59]))
    else .next (s.send (.linkMsg link 0x12
      [s.get F.TIME_STATUS_VALID 0 + 2 * l61 + 4 * l59, qual, s.time.gmPrio, s.get F.TIME_STATUS_STEPS 0, s.get F.TIME_GM_GM_ID 0, utc]))

/-- ANNOUNCE (R491): what a link announces is kept, and the master chosen anew. -/
def execAnnounce (link : Nat) (a : AnnounceMsg) (s : State) : Host.Outcome State Fault Refusal :=
  if !(s.linkReady link) then .next s
  else
    let s := s.modTime (fun t => { t with
      heard := if a.valid then insertAt natLt t.heard link (a, s.now) else dropKey t.heard link })
    .next s.chooseMaster

/-- ANNOUNCE_TIMEOUT (R493): three announce intervals without the grandmaster: HOLDOVER, or FREE again from ACQUIRE. A backup
still in HOLDOVER one announce interval later, which hears no master, takes the role. -/
def execAnnounceTimeout (s : State) : Host.Outcome State Fault Refusal :=
  if s.time.acting then .next s
  else
    let gm := s.get F.TIME_GM_GM_ID 0
    let last := s.time.heard.foldl (fun m (_, a, t) => if a.gmId % 2 ^ 16 = gm then max m t else m) 0
    if s.tstate = 2 ∨ s.tstate = 1 then
      let s := s.at_ (last + 3 * s.annAclk + 1)
      let s := s.modTime (fun t => { t with heard := t.heard.filter (fun (_, a, _) => decide (a.gmId % 2 ^ 16 ≠ gm)), req := [] })
      if s.tstate = 1 then .next ((s.setTstate 0 0).set F.TIME_STATUS_UPLINK 0 63).chooseMaster
      else
        let s := s.toHoldover.modTime (fun t => { t with annEnd := s.now + s.annAclk })
        .next s.chooseMaster
    else if s.tstate = 3 ∧ s.trole = 1 ∧ s.bestHeard.isNone then .next ((s.at_ (s.time.annEnd + 1)).takeRole 2)
    else .next s

/-! ### Faults and limits (R479, R481, R483) -/

/-- HOLD_MAX_EXPIRY (R481): an acting grandmaster goes on in FREE; any other module becomes INVALID. -/
def execHoldMaxExpiry (s : State) : Host.Outcome State Fault Refusal :=
  if s.tstate ≠ 3 then .next s
  else
    let s := s.at_ (s.time.holdAt + s.get F.TIME_CFG_HOLD_MAX 0 * 1900000000 + 1)
    if s.time.acting then .next ((s.setTstate 0 1).set F.TIME_STATUS_QUAL 0 3) else .next (s.timeInvalid 5 false)

/-- TIME_SET (R483, R501): accepted by a grandmaster in FREE; otherwise no effect but a record as R263 describes. -/
def State.timeSetWrite (s : State) (m : Master) (v : Word) : State :=
  if s.trole = 2 ∧ s.time.acting ∧ s.tstate = 0 then { s with tbVal := v.toNat * nsU, tbAt := s.ticks }
  else s.logAccess .TIME 0 0 m.code 0x3019020 v.toNat

def execTimeSet (m : Master) (v : Word) (s : State) : Host.Outcome State Fault Refusal :=
  .next (s.regCmd m .TIME 0 (fun s => s.timeSetWrite m v))

/-- CNT_MISMATCH (R479, R481): the two counters differ. -/
def execCntMismatch (s : State) : Host.Outcome State Fault Refusal :=
  .next ((s.flag F.TIME_EVT_CNT_MISMATCH 0).timeInvalid 8 true)

/-- FREQ_WINDOW (R479, R481): channel A's measurement of TCLK over 10 ms. -/
def execFreqWindow (ppb : Int) (s : State) : Host.Outcome State Fault Refusal :=
  let s := s.set F.CLK_STATUS_TCLK_OK 0 (b2n (decide (ppb.natAbs ≤ 100000)))
  if 100000 < ppb.natAbs then .next ((s.flag F.TIME_EVT_FREQ_FAULT 0).timeInvalid 7 true) else .next s

/-! ### Inputs, outputs and PTP (R492, R496, R497) -/

/-- An offset of this module's own source, when it is or may become the grandmaster. -/
def State.sourceOffset (s : State) (offset : Int) (meas : Option Int) : State :=
  if s.trole ≠ 2 ∨ s.time.fatal then s
  else if s.time.acting ∨ s.tstate = 4 ∨ s.uplink = 63 ∨ s.uplink = 36 then
    let s := if s.tstate = 0 ∨ s.tstate = 4 then (s.set F.TIME_STATUS_UPLINK 0 (if s.tsource = 2 then 36 else 63)).toAcquire else s
    s.timeOffset 36 offset meas
  else s.tryRole

/-- A source is lost: an acting grandmaster enters HOLDOVER (R492). -/
def State.sourceLost (s : State) (src : Nat) : State :=
  if s.trole = 2 ∧ s.tsource = src ∧ (s.time.acting || decide (s.uplink = 63) || decide (s.uplink = 36)) then
    if s.tstate = 2 then (s.takeRole 2).toHoldover else if s.tstate = 1 then (s.takeRole 3).setTstate 0 1 else s
  else s

/-- PPS_IN or REF10M_IN is lost (R492). -/
def State.inputLost (s : State) (src : Nat) : State :=
  let f := if src = 0 then F.TIME_STATUS_PPS_IN_OK else F.TIME_STATUS_REF_IN_OK
  if s.get f 0 = 0 then s
  else ((((s.set f 0 0).flag F.TIME_EVT_INPUT_LOST 0).modTime (fun t =>
    if src = 0 then { t with ppsGood := 0, ppsBad := 0 } else t))).sourceLost 1

/-- PPS_IN_EDGE (R492): `phase` is the timebase's second against the edge. Three edges in a row within 1 us qualify the input; two
out of tolerance lose it. A grandmaster with both inputs aligns to it. -/
def execPpsInEdge (phase : Int) (s : State) : Host.Outcome State Fault Refusal :=
  let good := decide (s.time.ppsGood = 0) || decide ((phase - s.time.ppsLast).natAbs ≤ 1000 * nsU)
  let s := s.modTime (fun t => { t with
    ppsGood := if good then t.ppsGood + 1 else 1, ppsBad := if good then 0 else t.ppsBad + 1, ppsLast := phase })
  if 2 ≤ s.time.ppsBad then .next (s.inputLost 0)
  else
    let s := if 3 ≤ s.time.ppsGood then s.set F.TIME_STATUS_PPS_IN_OK 0 1 else s
    if good && decide (s.tsource = 1) && decide (s.ownQual = 0) then .next (s.sourceOffset phase none) else .next s

/-- REF10M_IN_QUALIFIED (R492). -/
def execRef10mInQualified (s : State) : Host.Outcome State Fault Refusal := .next (s.set F.TIME_STATUS_REF_IN_OK 0 1)

/-- INPUT_LOST (R492): PPS_IN (0) after two missing edges, REF10M_IN (1) after 1 us out of frequency. -/
def execInputLost (src : Nat) (s : State) : Host.Outcome State Fault Refusal := .next (s.inputLost src)

/-- PTP_SOURCE_LOSS (R492): the PTP master of a grandmaster with SOURCE PTP is lost. -/
def execPtpSourceLoss (s : State) : Host.Outcome State Fault Refusal :=
  if s.tsource ≠ 2 then .next s else .next ((s.modTime (fun t => { t with ptpOk := false })).sourceLost 2)

/-- PPS_OUT_EDGE (R482, R496): the next multiple of a second; the pulse stays high for 10 us. -/
def execPpsOutEdge (s : State) : Host.Outcome State Fault Refusal :=
  if !s.tvalid || !s.timeEnable || decide (s.get F.TIME_CFG_PPS_OUT_EN 0 = 0) || decide (s.get F.TIME_INC_INC 0 = 0) then .next s
  else
    let left := secU - s.timeFull % secU
    let inc := s.get F.TIME_INC_INC 0
    let n := (left + inc - 1) / inc
    let s := s.at_ (((s.ticks + n) * 190000 + 15624) / 15625)
    .next ((s.modTime (fun t => { t with ppsUntil := s.now + 10 * usAclk })).send (.pin 0 true))

/-- PTP_MESSAGE (R497): a Sync exchange moves a grandmaster that follows PTP; a delay request is answered by a PTP master whose
time is valid. -/
def execPtpMessage (p : PtpMsg) (s : State) : Host.Outcome State Fault Refusal :=
  match p with
  | .sync off delay =>
    if s.tsource ≠ 2 then .next s
    else
      let asym := sext 32 (s.get F.TIME_ASYM_ASYM 0 36)
      let s := s.modTime (fun t => { t with ptpOk := true })
      .next (s.sourceOffset ((off + asym) * 2 ^ 24 + s.pertStamp 36) (some (delay * 2 ^ 24)))
  | .delayReq =>
    if s.time.acting && decide (s.tsource ≠ 2) && s.tvalid then .next (s.send (.eth [0x09, s.timeFull])) else .next s
  | .announce _ => .next s
  | .other => .next s

end Sys2Proof.Machine
end

