-- ==== Sys2Proof/Machine/Cores.lean ====
section
/-! DEFINITION. What a reset of core reach does to a core's blocks (R626, R223), what a cluster's supply domain does at power-good
(R660, R639), and hub messages on their way to a module (R573). -/

namespace Sys2Proof.Machine

open Sys2Proof

/-- Register instances of the blocks that a core-reach reset covers: the core's blocks, its mailbox, and their PMON instances
(R622). -/
def coreCover (c : Nat) (k : RKey) : Bool :=
  let b := k.reg.info.blk
  (b.inCore && decide (k.inst = c)) || (decide (b = .MBX) && decide (k.inst = c))
    || (decide (b = .PMON) && decide (k.inst % 2048 = c) && decide (k.inst / 2048 < 9))

/-- Fields that a reset leaves as start-up left them: NV fields (R626, R628), and the backup domain's (R623). -/
def keepNv (f : Field) : Bool := decide (f.src = .nv) || decide (f.src = .backup)

/-- Retired banks are OFF and leave the capacity (R225). -/
def State.holdRetired (s : State) (core : Nat) : State :=
  let r := s.get F.SPD_MAP_RETIRED core
  if r = 0 then s
  else
    let l := (List.range 6).filter (fun b => bitOf r b)
    l.foldl (fun s b => s.setSub F.SPD_PWR_STATE core b 2 2) (s.set F.SPD_MAP_CAPACITY core (768 - 128 * l.length))

/-- The core's blocks take their Reset values (R626 step 3): the engines stop, queued commands and tags are gone; scratchpad, ACB
with its row tags and code memory keep their contents, bank operations already granted go on; the TRF is zero with valid check bits
(R100), and a retired bank stays OFF (R225). -/
def State.resetCore (s : State) (c : Nat) : State :=
  let x := s.core c
  let v := s.vat (cluInst c)
  let s := s.freeCell c x.held.length
  let s := s.setVat (cluInst c)
    { v with waiting := v.waiting.filter (· ≠ c), served := v.served.filter (fun p => decide (p.core ≠ c)) }
  let s := (s.resetRegs (coreCover c) keepNv).holdRetired c
  let s := { s with inj := s.inj.filter (fun t => !(decide (t.unit = 2) && decide (t.owner = c))) }
  let s := s.setCore c
    { tick := s.now, code := x.code, base := s.now, resets := x.resets, debug := x.debug, tags := x.tags, ordNext := x.ordNext, dmNext := x.dmNext,
      grpNext := x.grpNext, sigIn := x.sigIn, nodeHeld := x.nodeHeld, rels := x.rels,
      banks := x.banks.map (fun (b, k) => (b, { k with waiting := k.waiting.filter (fun a => decide (a.master = .mesh)), trans := none })) }
  let s := s.modHst (fun h => { h with mbx := h.mbx.filter (fun q =>
    decide (q.1 ≠ 4096 + c) && decide (q.1 ≠ 8192 + c) && decide (q.1 ≠ 12288 + c)) })
  if s.fenced c then s.ccState c 4 else s

/-- Power-good of a cluster's domain (R660, R639): TRF and vat contents are lost, the cores' blocks take their Reset values, the
clocks run. -/
def State.powerGood (s : State) (cl : Nat) : State :=
  let d := cl / 48
  let w := s.get F.PWR_CDOM_PG_PG 0 d
  let s := s.set F.PWR_CDOM_PG_PG 0 (if bitOf w (cl % 48) then w else w + 2 ^ (cl % 48)) d
  let g := s.get F.CLK_GATE_GATED 0 d
  let s := s.set F.CLK_GATE_GATED 0 (if bitOf g (cl % 48) then g - 2 ^ (cl % 48) else g) d
  let s := (List.range 16).foldl (fun s n => s.resetCore (coreId cl n)) s
  let s := (s.setVat cl {}).set F.VAT_FREE_FREE cl 8192
  s.modPwr (fun p => { p with turning := p.turning.filter (fun t => decide (t.1 ≠ cl)) })

/-- A task start turns the domains of its cores on and waits for them (R660): 1.8 us and the 64 ACLK of R639. -/
def State.powerFor (s : State) (cores : List Nat) : State :=
  (List.range 96).foldl (fun s cl =>
    if cores.any (fun c => decide (cluInst c = cl)) && !(s.clusterOn cl) then
      let s := s.clusterWake cl
      match s.pwr.turning.find? (fun t => decide (t.1 = cl)) with
      | some t => (s.at_ t.2).powerGood cl
      | none => s
    else s) s

/-- A hub message for a module leaves by its route (R409, R412); the fields begin with the destination. -/
def State.hubMsg (s : State) (mod cls : Nat) (fields : List Nat) : State :=
  match s.routeLink mod with
  | some (k, _) => s.send (.linkMsg k cls (mod :: fields))
  | none => (s.bump F.EVL_DROP_CNT_UNROUTABLE 36).flag F.EVL_COM_EVT_UNROUTABLE 36

/-- The links that are admitted. -/
def State.admittedLinks (s : State) : List Nat := (List.range 36).filter s.admitted

/-- A start-up event's record (R707, detail 4). -/
def State.startNotice (s : State) (bit : Nat) : State := s.logNotice .NVCF 0 4 (leBytes 1 bit)

end Sys2Proof.Machine
end

