-- ==== Sys2Proof/Machine/Verifier.lean ====
section
/-! DEFINITION. The verifier (R508 to R511, R518 to R520, R748, R749): the checks of a program image in the order of their codes, and
the model of its static schedule. -/

namespace Sys2Proof

open Machine

/-! ### Violations -/

/-- A violation at a section's record. -/
def Image.viol (i : Image) (status typ logical record : Nat) : Viol :=
  ⟨status, (i.sects.findIdx? (fun t => decide (t = typ))).getD 0xFFFF, logical, record, 0, 0, 0, 0⟩

/-- One violation when a condition holds. -/
def Image.violIf (i : Image) (b : Bool) (status typ : Nat) (logical : Nat := 0xFFFF) (record : Nat := 0) : List Viol :=
  if b then [i.viol status typ logical record] else []

/-- Section TYPEs (R509). -/
def sASSUME : Nat := 1
def sCORES : Nat := 2
def sCODE : Nat := 3
def sCMDS : Nat := 4
def sSCHED : Nat := 5
def sALLOC : Nat := 7
def sGROUPS : Nat := 8
def sMCAST : Nat := 9
def sRCHAN : Nat := 10
def sSIG : Nat := 15

/-- A list without repeats. -/
def noDup : List Nat → Bool
  | [] => true
  | a :: l => !(l.contains a) && noDup l

/-! ### Header, digest and signature (0x01 to 0x06) -/

def Image.badHeader (i : Image) : Bool :=
  !i.hdrOk || decide (i.magic ≠ 0x50395456) || decide (i.version ≠ 1) || decide (i.nsect = 0) || decide (64 < i.nsect)
    || decide (i.len % 64 ≠ 0) || decide (2 ^ 31 < i.len) || decide (2 ≤ i.flags)

/-- Codes 0x01 to 0x03. -/
def Image.intact (i : Image) : List Viol :=
  if i.badHeader then [⟨1, 0xFFFF, 0xFFFF, 0, 0, 0, 0, 0⟩]
  else if !i.layoutOk then [⟨2, 0xFFFF, 0xFFFF, 0, 0, 0, 0, 0⟩]
  else if !i.digestOk then [⟨3, 0xFFFF, 0xFFFF, 0, 0, 0, 0, 0⟩]
  else []

/-- Codes 0x04 to 0x06 (R511). -/
def Image.signViols (i : Image) (required : Bool) (keys : List Nat) : List Viol :=
  if i.flags % 2 = 0 then i.violIf required 4 sSIG
  else
    match i.sig with
    | some (k, ok) => if !(keys.contains k) then [i.viol 5 sSIG 0xFFFF 0] else i.violIf (!ok) 6 sSIG
    | none => [i.viol 5 sSIG 0xFFFF 0]

/-! ### The module as it stands (0x10 to 0x14) -/

/-- The core of each logical core, after a takeover's remapping. -/
def Image.coreMap (i : Image) (remap : List (Nat × Nat)) : List (Nat × Nat) :=
  i.cores.map (fun c => (c.logical, lookD c.core remap c.logical))

def Machine.State.fencedCores (s : State) : List Nat :=
  (List.range 1536).filterMap (fun n => let c := n / 768 * 1024 + n % 768
                                        if s.corePresent c && s.fenced c then some c else none)

/-- Cores of the other loaded programs. -/
def Machine.State.coresTaken (s : State) (id : Nat) (own : Bool) : List Nat :=
  (s.progs.filter (fun p => !(own && decide (p.id = id)))).flatMap (fun p => p.cores.map Prod.snd)

/-- Codes 0x10 to 0x14. `rec` marks a RECOVERY load. -/
def Machine.State.moduleViols (s : State) (i : Image) (map : List (Nat × Nat)) (recv : Bool) : List Viol :=
  let cores := map.map Prod.snd
  let each (f : Nat → ImgCore → Bool) (code : Nat) : List Viol :=
    i.cores.zipIdx.flatMap (fun (k, n) => i.violIf (f (lookD k.core map k.logical) k) code sCORES k.logical n)
  i.violIf ((decide (i.grade = 1) && s.gradeS) || decide (1 < i.grade)) 0x10 sASSUME
    ++ each (fun c _ => decide (1 < (cores.filter (fun d => decide (d = c))).length) || !(s.corePresent c) || s.fenced c) 0x11
    ++ each (fun c k => (List.range 6).any (fun b => bitOf k.banks b && s.bit F.SPD_MAP_RETIRED c b)) 0x12
    ++ i.violIf (i.mapExact && !recv && decide (i.fenced ≠ s.fencedCores)) 0x13 sASSUME
    ++ each (fun c _ => (s.coresTaken i.progId recv).contains c) 0x14

/-! ### Commands (0x20 to 0x22) -/

/-- The SU's field checks. -/
def suFieldsBad (c : Cmd) : Bool :=
  Cmd.badHeader c || (match Cmd.opcode c with
    | 0x40 => !(oneLoop c) || suRsv c || suSub c
    | 0x41 => !(oneLoop c) || suRsv c
    | 0x42 => sgRsv c
    | _ => !(oneLoop c) || bgRsv c)

/-- The data mover's field checks. -/
def dmFieldsBad (c : Cmd) : Bool :=
  match Cmd.opcode c with
  | 0x10 => tcIllegal c
  | 0x11 => tcIllegal c
  | 0x12 => tnIllegal c
  | 0x13 => copyIllegal c
  | 0x14 => gsIllegal c
  | 0x15 => gsIllegal c
  | 0x16 => bankopIllegal c
  | 0x17 => fenceBad c
  | 0x18 => raccIllegal c
  | 0x19 => msuIllegal c
  | 0x1A => optFieldsBad c
  | 0x1B => stIllegal c
  | 0x1C => rsFieldsBad c
  | _ => rcFieldsBad c

/-- The command would complete with ILLEGAL as its engine begins it, judged on its own fields alone (ENCODING). -/
def cmdFieldsBad (c : Cmd) : Bool :=
  let op := Cmd.opcode c
  let e := Eng.ofCode (Cmd.engine c)
  if op = 0 then idleBad c
  else if op = 0x0F then waitIllegal c
  else if !(engDefined e op) then true
  else
    match e with
    | .me => meIllegal c op
    | .ve => if op = 0x3F then phaseIllegal c else State.reset.veIllegal 0 c
    | .dm => dmFieldsBad c
    | .su => suFieldsBad c

/-- Byte offset of the offending field: the opcode, the reserved header bits, a loop count of zero, else the first byte whose
clearing makes the command legal, else the first operand byte. -/
def encOffset (c : Cmd) : Nat :=
  if !(decide (Cmd.opcode c = 0)) && !(engDefined (Eng.ofCode (Cmd.engine c)) (Cmd.opcode c)) then 0
  else if Cmd.hdrRsv c ≠ 0 then 1
  else
    match (List.range 4).find? (fun l => decide (Cmd.loop c l = 0)) with
    | some l => 8 + 2 * l
    | none =>
      match (List.range 60).find? (fun b => !(cmdFieldsBad (c &&& ~~~((0xFF : Cmd) <<< (8 * (b + 4)))))) with
      | some b => b + 4
      | none => 16

/-- The command needs a unit that grade S lacks (ABSENT_ENGINE). -/
def cmdSliced (c : Cmd) : Bool :=
  match Eng.ofCode (Cmd.engine c) with
  | .me => [1, 2, 3].contains (Cmd.opcode c) && (decide (meSlices c ≠ 0) || (meFmt c).isSlice)
  | .ve => decide (Cmd.opcode c = 0x38) || decide (Cmd.opcode c = 0x39)
      || (decide (0x20 ≤ Cmd.opcode c) && decide (Cmd.opcode c < 0x3F) && ((veFmtA c).isSlice || (veFmtD c).isSlice))
  | _ => false

def Machine.State.codeViols (s : State) (i : Image) (map : List (Nat × Nat)) : List Viol :=
  i.cmds.zipIdx.flatMap (fun (c, n) =>
      if cmdFieldsBad c then [{ i.viol 0x20 sCMDS 0xFFFF n with cmdId := Cmd.id c, detail := encOffset c }] else [])
    ++ i.cmds.zipIdx.flatMap (fun (c, n) =>
      if s.gradeS && cmdSliced c then [{ i.viol 0x21 sCMDS 0xFFFF n with cmdId := Cmd.id c }] else [])
    ++ i.cores.zipIdx.flatMap (fun (k, n) =>
      i.violIf (decide (0x8000 < k.codeLen) || decide (k.entry % 2 = 1) || decide (k.codeLen ≤ k.entry)
        || decide (k.table % 64 ≠ 0) || !(s.spdRange (lookD k.core map k.logical) k.table (8 * i.allocs.length))) 0x22 sCORES k.logical n)

/-! ### The model of one core (R519) -/

/-- A schedule entry of a core with its command; `n` is its index in SCHED. -/
structure VCmd where
  n : Nat
  push : Nat
  release : Nat
  cmd : Cmd
  deriving DecidableEq, Repr

/-- A command the model has run: when its engine began it, the last ACLK before the engine may begin another, and the ACLK in which it
completes. -/
structure VRan where
  c : VCmd
  beg : Nat
  last : Nat
  done : Nat
  deriving DecidableEq, Repr

/-- A modelled tile read: its command, iteration, tile, the reader's deckle and offset, and the ACLK of its first row. -/
structure VRead where
  c : VCmd
  iter : Nat
  tile : Nat
  deckle : Nat
  off : Nat
  at_ : Nat
  deriving DecidableEq, Repr

/-- A modelled write phase of a tile load. -/
structure VWrite where
  tile : Nat
  deckle : Nat
  at_ : Nat
  deriving DecidableEq, Repr

/-- The head of an engine's lists from ACLK `t` on: the highest priority, then the earliest pushed; `from_` gives the first ACLK in
which a command can be head. A head that is no WAIT is displaced while it waits to begin at `b` (R152). -/
def vHead (from_ : VCmd → Nat) (free : Nat) (l : List VCmd) : Nat → Nat → Option VCmd → Option (VCmd × Nat)
  | 0, t, h => h.map (fun c => (c, max (t + 4) free))
  | k + 1, t, none =>
    match (l.filter (fun c => decide (from_ c ≤ t))).foldl (fun (b : Option VCmd) c =>
        match b with
        | some d => if Cmd.prio c.cmd < Cmd.prio d.cmd then some c else b
        | none => some c) none with
    | some c => vHead from_ free l k t (some c)
    | none => none
  | k + 1, t, some h =>
    let b := max (t + 4) free
    if Cmd.opcode h.cmd = 0x0F then some (h, b)
    else
      match l.filter (fun c => decide (Cmd.prio c.cmd < Cmd.prio h.cmd) && decide (from_ c < b)) with
      | [] => some (h, b)
      | c :: cs =>
        let d := cs.foldl (fun d c => if from_ c < from_ d then c else d) c
        vHead from_ free l k (max t (from_ d)) (some d)

/-- Minimum latency of a request outside the core (R296, R316). -/
def Machine.State.vLatency (s : State) (core a : Nat) : Nat :=
  if !(s.ownMod (gMod a)) then 1710
  else
    match s.far (gLoc a) with
    | .core c =>
      let d := clusterOf c
      let e := clusterOf core
      if dieOf c ≠ dieOf core then 120
      else 9 + 4 * (Int.natAbs ((d / 8 : Nat) - (e / 8 : Nat) : Int) + Int.natAbs ((d % 8 : Nat) - (e % 8 : Nat) : Int))
    | .host => 3040
    | _ => if (s.hbmPlace (gLoc a)).stack / 4 = dieOf core then 420 else 520

/-- Far addresses of a data-mover command, with the bytes of one iteration. -/
def dmFar (c : Cmd) : Option (Nat × Nat) :=
  match Cmd.opcode c with
  | 0x13 => some (Cmd.f c 16 63 0, cpLen c)
  | 0x14 => some (Cmd.f c 16 63 0, gsLen c)
  | 0x15 => some (Cmd.f c 16 63 0, gsLen c)
  | 0x16 => some (Cmd.f c 24 63 0, cpLen c)
  | 0x18 => some (Cmd.f c 24 63 0, cpLen c)
  | 0x19 => some (Cmd.f c 24 63 0, cpLen c)
  | 0x1A => some (Cmd.f c 16 63 0, 256)
  | 0x1B => some (Cmd.f c 16 63 0, cpLen c)
  | 0x1C => some (rsDst c, 256)
  | _ => none

/-- The end of the far side of a DM_COPY: the end that is not in the own window. -/
def Machine.State.vFar (s : State) (core : Nat) (c : Cmd) : Option (Nat × Nat) :=
  match dmFar c with
  | some (a, n) =>
    let a := if Cmd.opcode c = 0x13 ∧ s.isOwn core (Cmd.f c 16 63 0 : Nat) then Cmd.f c 24 63 0 else a
    if s.isOwn core (a : Nat) then none else some (a, n)
  | none => none

/-- Requests a data-mover command issues (R238). -/
def Machine.State.vReqs (s : State) (core : Nat) (c : Cmd) : Nat :=
  match s.vFar core c with
  | some (a, n) =>
    if Cmd.opcode c = 0x1A then 256
    else if Cmd.opcode c = 0x1C then (rsBlks c + 1) / 2
    else Cmd.iters c * (farCut a n).length
  | none => Cmd.iters c

/-- When a command of the ME, the VE or the SU that begins in `b` lets the next begin, and when it completes. -/
def vTime (e : Eng) (c : VCmd) (b : Nat) : Nat × Nat :=
  let k := c.cmd
  let rel := max b (c.push + c.release)
  if Cmd.opcode k = 0 then (b + (Cmd.iters k - 1), b + (Cmd.iters k - 1))
  else if Cmd.opcode k = 0x0F then (rel + 2, rel + 3)
  else
    match e with
    | .me => let t := (meTimeline k (Cmd.opcode k) b 0).2
             (t - 1, if Cmd.opcode k = 2 then t else t - 1 + 41)
    | .ve => if Cmd.opcode k = 0x3F then (rel + 1, rel + 1)
             else let t := b + (Cmd.iters k - 1) * veRowLen k + veRowLast k
                  (t, t)
    | .su => if Cmd.opcode k = 0x42 then (b + 2 * Cmd.iters k, b + 2 * Cmd.iters k)
             else if Cmd.opcode k = 0x43 then (b + 1, b + 1) else (b, b)
    | .dm => (b, b)

/-- The data mover's side of the model: gathers free from, write phases in order (R116), end of the last write phase, and the last
completion. -/
structure VDm where
  gather : Nat := 0
  writes : List VWrite := []
  ended : Nat := 0
  allDone : Nat := 0
  reads : List VRead := []
  deriving DecidableEq, Repr

/-- A write phase does not begin while a read holds its tile (R120). -/
def vUnlock (reads : List VRead) (tile : Nat) : Nat → Nat → Nat
  | 0, t => t
  | k + 1, t =>
    match reads.find? (fun r => decide (r.tile = tile) && decide (r.at_ ≤ t) && decide (t < r.at_ + dkRows r.deckle)) with
    | some r => vUnlock reads tile k (r.at_ + dkRows r.deckle)
    | none => t

/-- The iterations of a modelled DM_TLOAD that begins in `b`. -/
def vLoad (reads : List VRead) (cmd : Cmd) (b : Nat) (d : VDm) : VDm × Nat :=
  (List.range (Cmd.iters cmd)).foldl (fun (d, _) n =>
    let rows := dkRows (Cmd.deckle cmd)
    let two := match d.writes.reverse with
      | _ :: w :: _ => w.at_
      | _ => 0
    let g := max b (max d.gather two)
    let w := vUnlock (reads ++ d.reads) (tcTile cmd n) (reads.length + d.reads.length) (max (g + rows) d.ended)
    ({ d with gather := g + rows, writes := d.writes ++ [⟨tcTile cmd n, Cmd.deckle cmd, w⟩], ended := w + rows }, g)) (d, b)

/-- A data-mover command of the model: its begin, last issue and completion. -/
def Machine.State.vDmRun (s : State) (core : Nat) (reads : List VRead) (c : VCmd) (b : Nat) (d : VDm) : VRan × VDm :=
  let k := c.cmd
  let fin (d : VDm) (b last done : Nat) : VRan × VDm := (⟨c, b, last, done⟩, { d with allDone := max d.allDone done })
  match Cmd.opcode k with
  | 0x10 =>
    let (d, g) := vLoad reads k b d
    fin d b g d.ended
  | 0x11 =>
    let b := max b d.ended
    let rows := dkRows (Cmd.deckle k)
    let rs := (List.range (Cmd.iters k)).map (fun n => (⟨c, n, tcTile k n, Cmd.deckle k, 0, b + n * rows⟩ : VRead))
    let e := b + Cmd.iters k * rows
    fin { d with reads := d.reads ++ rs } b (e - 1) e
  | 0x12 => let e := b + (Cmd.iters k * tnB k - 1)
            fin d b e e
  | 0x17 => let b := max b (d.allDone + 1)
            fin d b b (b + 1)
  | 0x1D => let e := max b (c.push + c.release)
            fin d b e e
  | 0x00 => let t := vTime .su c b
            fin d b t.1 t.2
  | 0x0F => let t := vTime .su c b
            (⟨c, b, t.1, t.2⟩, d)
  | _ =>
    let e := b + (s.vReqs core k - 1)
    fin d b e (match s.vFar core k with
      | some (a, _) => e + s.vLatency core a
      | none => e)

/-- One engine of a core: the commands in the order in which it begins them. `fences` are the VE_PHASE commands with their
completions (R193). -/
def Machine.State.vEngine (s : State) (core : Nat) (e : Eng) (reads : List VRead) (fences : List (Nat × Nat)) :
    Nat → List VCmd → Nat → Nat → VDm → List VRan × VDm
  | 0, _, _, _, d => ([], d)
  | k + 1, l, nextHead, free, d =>
    let from_ (c : VCmd) : Nat := fences.foldl (fun t f => if f.1 < c.n then max t (f.2 + 1) else t) (c.push + 5)
    let cands := match e with
      | .ve => match l.takeWhile (fun c => decide (Cmd.opcode c.cmd ≠ 0x3F)) with
        | [] => l.take 1
        | cs => cs
      | _ => l
    match cands with
    | [] => ([], d)
    | c :: cs =>
      let t := max nextHead (cs.foldl (fun t c => min t (from_ c)) (from_ c))
      match vHead from_ free cands (2 * cands.length + 2) t none with
      | none => ([], d)
      | some (h, b) =>
        let (r, d) := match e with
          | .dm => s.vDmRun core reads h b d
          | e => let t := vTime e h b
                 (⟨h, b, t.1, t.2⟩, d)
        let (rs, d) := Machine.State.vEngine s core e reads fences k (l.erase h) (r.beg + 1) (r.last + 1) d
        (r :: rs, d)

/-- The commands of a core for one engine, in PUSH order. -/
def vOf (l : List VCmd) (e : Eng) : List VCmd := l.filter (fun c => decide (Cmd.engine c.cmd = e.code))

/-- The tile reads of a modelled ME command. -/
def meReadsOf (r : VRan) : List VRead :=
  let k := r.c.cmd
  if [1, 2, 3].contains (Cmd.opcode k) then
    (meTimeline k (Cmd.opcode k) r.beg 0).1.flatMap (fun p =>
      (match p.loadAt with
        | some t => [(⟨r.c, p.n, p.sel / 2, meShape k, 32 * (p.sel % 2), t⟩ : VRead)]
        | none => [])
      ++ (match p.streamAt with
        | some t => [(⟨r.c, p.n, p.x, Cmd.deckle k, 0, t⟩ : VRead)]
        | none => []))
  else []

/-- What the model of one core gives: every command, every tile read, every write phase. -/
structure VCore where
  ran : List VRan
  reads : List VRead
  writes : List VWrite
  deriving DecidableEq, Repr

def Machine.State.vCore (s : State) (core : Nat) (l : List VCmd) : VCore :=
  let go (e : Eng) (reads : List VRead) (fences : List (Nat × Nat)) : List VRan × VDm :=
    s.vEngine core e reads fences l.length (vOf l e) 0 0 {}
  let ve := (go .ve [] []).1
  let fences := (ve.filter (fun r => decide (Cmd.opcode r.c.cmd = 0x3F))).map (fun r => (r.c.n, r.done))
  let me := (go .me [] fences).1
  let reads := me.flatMap meReadsOf
  let (dm, d) := go .dm reads fences
  let su := (go .su [] fences).1
  ⟨me ++ ve ++ dm ++ su, reads ++ d.reads, d.writes⟩

/-- The schedule entries of a core. -/
def Image.coreSched (i : Image) (k : ImgCore) : List VCmd :=
  (((i.sched.zipIdx).drop k.schedOff).take k.schedN).map (fun (e, n) => ⟨n, e.push, e.release, i.cmds.getD e.cmd 0⟩)

/-- SHAPE and SLIP of one core's reads (R109, R111, R121). -/
def Image.tileViols (i : Image) (k : ImgCore) (v : VCore) : List Viol :=
  v.reads.flatMap (fun r =>
    let base (st detail : Nat) : Viol :=
      { i.viol st sSCHED k.logical r.c.n with cmdId := Cmd.id r.c.cmd, iter := r.iter, detail := detail, aclk := r.at_ }
    match (v.writes.filter (fun w => decide (w.tile = r.tile) && decide (w.at_ ≤ r.at_))).getLast? with
    | none => [base 0x30 0]
    | some w =>
      (if dkFits r.deckle r.off w.deckle then [] else [base 0x30 0])
        ++ (let stamp := w.at_ + dkRows w.deckle
            if r.at_ < stamp then [base 0x31 (stamp - r.at_)] else []))

/-- VAT of one core: the cells held when each command is pushed (R151). -/
def Image.vatViols (i : Image) (k : ImgCore) (n : Nat) (v : VCore) : List Viol :=
  i.violIf (decide (k.quota = 0)) 0x33 sCORES k.logical n
    ++ v.ran.flatMap (fun r =>
      let t := r.c.push + 1
      let held := (v.ran.filter (fun q => decide (q.c.push + 1 ≤ t) && decide (t ≤ q.done))).length
      if k.quota < held then [{ i.viol 0x33 sSCHED k.logical r.c.n with cmdId := Cmd.id r.c.cmd, aclk := t }] else [])

/-! ### Addresses (0x32) -/

/-- What an address check knows: the core, the banks its program uses, the program's cores, the places of its allocations and its
multicast groups. -/
structure VAddr where
  core : Nat
  banks : Nat
  cores : List Nat
  allocs : List (Nat × Nat)
  hubGroups : List Nat
  dieGroups : List (Nat × Nat)
  deriving DecidableEq, Repr

/-- An own range that touches a bank outside BANKS. -/
def VAddr.outside (x : VAddr) (a : Int) (n : Nat) : Bool :=
  (List.range 6).any (fun b => decide (a < ((b + 1) * 0x20000 : Nat)) && decide (((b * 0x20000 : Nat) : Int) < a + n) && !(bitOf x.banks b))

def Machine.State.vOwnBad (s : State) (x : VAddr) (a : Int) (n : Nat) : Bool := !(s.ownRange x.core a n) || x.outside a n

/-- A global range that ADDRESS refuses. -/
def Machine.State.vGlobalBad (s : State) (x : VAddr) (a : Int) (n : Nat) : Bool :=
  match gAddr a with
  | none => true
  | some g =>
    let m := gMod g
    let l := gLoc g
    if (0x4000 ≤ m ∧ m < 0x8000) ∨ (0x9000 ≤ m ∧ m < 0xFFFF) then true
    else if 0x8000 ≤ m ∧ m < 0x9000 then !(x.hubGroups.contains (m - 0x8000))
    else if !(s.ownMod m) then false
    else if s.isOwn x.core a then s.vOwnBad x (ownOff a) n
    else if x.allocs.any (fun (b, k) => decide (b ≤ l) && decide (l + n ≤ b + k)) then false
    else
      match s.far l with
      | .core c => !(x.cores.contains c)
      | .group d k => !(x.dieGroups.contains (d, k))
      | _ => true

/-- The own and the global ranges that iteration `n` of a data-mover command names. -/
def dmRanges (c : Cmd) (n : Nat) : List (Int × Nat) × List (Int × Nat) :=
  let dlen := cpLen c / (cpFmtS c).bytes * (cpFmtD c).bytes
  match Cmd.opcode c with
  | 0x10 => ((List.range (dkRows (Cmd.deckle c))).map (fun r => (tcRow c n r, 64)), [])
  | 0x11 => ((List.range (dkRows (Cmd.deckle c))).map (fun r => (tcRow c n r, 64)), [])
  | 0x12 => ((List.range (tnB c)).flatMap (fun r => [(tnSrc c n r, tnB c * (tnFmtS c).bytes), (tnDst c n r, 64)]), [])
  | 0x13 => ([], [(cpSrc c n, cpLen c), (cpDst c n, dlen)])
  | 0x14 => ([(gsIdx c n, 4), (gsLocal c n, gsLen c)], [(((Cmd.f c 16 63 0 : Nat) : Int), Cmd.f c 36 31 0 * Cmd.f c 40 31 0)])
  | 0x15 => ([(gsIdx c n, 4), (gsLocal c n, gsLen c)], [(((Cmd.f c 16 63 0 : Nat) : Int), Cmd.f c 36 31 0 * Cmd.f c 40 31 0)])
  | 0x16 => ([], [(cpSrc c n, cpLen c), (cpDst c n, if cpBop c = 5 then 4 * cpLen c else dlen)])
  | 0x18 => (if cpFmtS c = Fmt.g8 then [(((cpImm c + n * (cpLen c / 32) : Nat) : Int), cpLen c / 32)] else [],
      [(cpSrc c n, cpLen c), (cpDst c n, cpLen c / (cpFmtS c).bytes * 4)])
  | 0x19 => ([], [(cpDst c n, cpLen c)])
  | 0x1A => ([(((opDesc c : Nat) : Int), 64)],
      [(((Cmd.f c 16 63 0 : Nat) : Int), opBytes c), (((Cmd.f c 24 63 0 : Nat) : Int), opBytes c), (((Cmd.f c 40 63 0 : Nat) : Int), opBytes c)]
        ++ (if opUsesV c then [(((Cmd.f c 32 63 0 : Nat) : Int), opBytes c)] else [])
        ++ (if opCopy c then [(((Cmd.f c 48 63 0 : Nat) : Int), opBytes c / 2)] else []))
  | 0x1B => ([], [(cpSrc c n, cpLen c)])
  | 0x1C => (rsRanges c, [(((rsDst c : Nat) : Int), 128 * rsBlks c)])
  | _ => ([], [])

/-- Iteration `n` of a command fails ADDRESS. -/
def Machine.State.vIterBad (s : State) (x : VAddr) (c : Cmd) (n : Nat) : Bool :=
  match Eng.ofCode (Cmd.engine c) with
  | .ve => decide (0x20 ≤ Cmd.opcode c) && decide (Cmd.opcode c < 0x3F)
      && (s.veIterBad x.core c n || (veRanges c n).any (fun r => x.outside r.1 r.2))
  | .dm =>
    let (own, glob) := dmRanges c n
    let tile := Cmd.opcode c = 0x10 ∨ Cmd.opcode c = 0x11
    (decide tile && s.tcBad x.core c n) || (decide (Cmd.opcode c = 0x12) && s.tnBad x.core c n)
      || own.any (fun r => s.vOwnBad x r.1 r.2) || glob.any (fun r => s.vGlobalBad x r.1 r.2)
  | _ => false

/-- Places of the program's allocations by ID. -/
def Machine.State.addrViols (s : State) (i : Image) (map bases : List (Nat × Nat)) : List Viol :=
  i.cores.flatMap (fun k =>
    let x : VAddr :=
      { core := lookD k.core map k.logical, banks := k.banks, cores := map.map Prod.snd,
        allocs := i.allocs.map (fun a => (lookD 0 bases a.id, a.size)),
        hubGroups := (i.mcast.filter ImgMcast.hub).map ImgMcast.group,
        dieGroups := (i.mcast.filter (fun m => !m.hub)).map (fun m => (m.die, m.group)) }
    (i.coreSched k).flatMap (fun e =>
      match (List.range (Cmd.iters e.cmd)).find? (s.vIterBad x e.cmd) with
      | some n => [{ i.viol 0x32 sSCHED k.logical e.n with cmdId := Cmd.id e.cmd, iter := n, aclk := e.push }]
      | none => []))

/-! ### Order and schedule (0x34, 0x35) -/

/-- Ranges of HBM that a command reads, over all its iterations. -/
def dmSources (c : Cmd) : List (Int × Nat) :=
  match Cmd.opcode c with
  | 0x13 => (List.range (Cmd.iters c)).map (fun n => (cpSrc c n, cpLen c))
  | 0x1B => (List.range (Cmd.iters c)).map (fun n => (cpSrc c n, cpLen c))
  | 0x14 => [(((Cmd.f c 16 63 0 : Nat) : Int), Cmd.f c 36 31 0 * Cmd.f c 40 31 0)]
  | 0x1A => (dmRanges c 0).2.take 4
  | _ => []

/-- Reads of a channel's target that begin before the first RCH_CLOSE of the channel completes (R468). -/
def Image.orderViols (i : Image) (bases : List (Nat × Nat)) (vs : List (ImgCore × VCore)) : List Viol :=
  i.chans.flatMap (fun ch =>
    let b := lookD 0 bases ch.target
    let n := 128 * ch.nblk
    let closes := vs.flatMap (fun (_, v) => (v.ran.filter (fun r =>
      decide (Cmd.engine r.c.cmd = 2) && decide (Cmd.opcode r.c.cmd = 0x1D) && decide (rcChan r.c.cmd = ch.chan))).map VRan.done)
    let first := match closes with
      | [] => none
      | t :: ts => some (ts.foldl min t)
    vs.flatMap (fun (k, v) => (v.ran.filter (fun r => decide (Cmd.engine r.c.cmd = 2))).flatMap (fun r =>
      let hit := (dmSources r.c.cmd).any (fun (a, k) => match gAddr a with
        | some g => decide (gLoc g < b + n) && decide (b < gLoc g + k)
        | none => false)
      let early := match first with
        | some t => decide (r.beg ≤ t)
        | none => true
      if hit && early then [{ i.viol 0x34 sSCHED k.logical r.c.n with cmdId := Cmd.id r.c.cmd, aclk := r.beg }] else [])))

/-- A list in ascending order. -/
def ascending : List Nat → Bool
  | a :: b :: l => decide (a ≤ b) && ascending (b :: l)
  | _ => true

def Image.schedViols (i : Image) : List Viol :=
  (i.cores.zipIdx).flatMap (fun (k, n) => i.violIf (!(ascending ((i.coreSched k).map VCmd.push))) 0x35 sCORES k.logical n)
    ++ (i.sched.zipIdx).flatMap (fun (e, n) =>
      let c := i.cmds.getD e.cmd 0
      let eng := Eng.ofCode (Cmd.engine c)
      let waits := decide (Cmd.opcode c = 0x0F) || (decide (eng = .ve) && decide (Cmd.opcode c = 0x3F))
        || (decide (eng = .dm) && decide (Cmd.opcode c = 0x1D))
      i.violIf (decide (i.cmds.length ≤ e.cmd) || !(i.cores.any (fun k => decide (k.logical = e.logical)))
        || (waits && decide (e.release = 0))) 0x35 sSCHED e.logical n)

/-! ### Resources (0x33, 0x40 to 0x47) -/

/-- The QUOTAs of a cluster with those of the programs loaded there. -/
def Machine.State.quotaViols (s : State) (i : Image) (map : List (Nat × Nat)) (recv : Bool) : List Viol :=
  let of (i : Image) (map : List (Nat × Nat)) (cl : Nat) : Nat :=
    (i.cores.filter (fun k => decide (cluInst (lookD k.core map k.logical) = cl))).foldl (fun n k => n + k.quota) 0
  (i.cores.zipIdx).flatMap (fun (k, n) =>
    let cl := cluInst (lookD k.core map k.logical)
    let others := (s.progs.filter (fun p => !(recv && decide (p.id = i.progId)))).foldl (fun t p => t + of p.img p.cores cl) 0
    i.violIf (decide (8192 < of i map cl + others)) 0x33 sCORES k.logical n)

/-- The pairs that a range of HBM touches. -/
def pairsOf (a n : Nat) : List Nat := (List.range (n / 2 ^ 31 + 2)).filterMap (fun k =>
  let p := a / 2 ^ 31 + k
  if p * 2 ^ 31 < a + n then some p else none)

/-- The allocation wants LOCAL pairs (R265). -/
def ImgAlloc.local_ (a : ImgAlloc) : Bool := decide (a.hint = 1) || (decide (a.hint = 3) && a.dieValid)
def ImgAlloc.inHbm (a : ImgAlloc) : Bool := decide (a.hint = 0) || decide (a.hint = 1) || decide (a.hint = 3)

/-- HBM ranges of the loaded programs with their pair mode. -/
def Machine.State.hbmTaken (s : State) : List (Nat × Nat × Bool) :=
  s.progs.flatMap (fun p => (p.img.allocs.filter ImgAlloc.inHbm).map (fun a => (lookD 0 p.bases a.id, a.size, a.local_)))

/-- The base a plan gives an allocation meets its hint (R263, R265, R515, R531): aligned, in range, in pairs of its mode or free of
allocations of the other mode, on its die, apart from `taken`. -/
def Machine.State.planOk (s : State) (map : List (Nat × Nat)) (taken : List (Nat × Nat × Bool)) (a : ImgAlloc) (b : Nat) : Bool :=
  decide (b % max 1 a.align = 0) && (
    if a.inHbm then
      decide (b + a.size ≤ 188 * 2 ^ 31)
        && taken.all (fun (c, n, l) => (decide (b + a.size ≤ c) || decide (c + n ≤ b))
          && (decide (l = a.local_) || (pairsOf b a.size).all (fun p => !((pairsOf c n).contains p))))
        && (!a.local_ || (decide (b / 2 ^ 30 = (b + (a.size - 1)) / 2 ^ 30) && decide (b / 2 ^ 30 % 2 = a.die)))
    else if a.hint = 2 then
      let c := lookD 0 map a.logical
      decide (b = winBase c + a.off) && s.spdRange c a.off a.size
    else decide (0x300000000000 ≤ b) && decide (b + a.size ≤ 0x301000000000))

/-- The allocations that the plan cannot place. -/
def Machine.State.planViols (s : State) (i : Image) (map bases : List (Nat × Nat)) : List Viol :=
  ((i.allocs.zipIdx).foldl (fun (taken, out) (a, n) =>
    let b := lookD 0 bases a.id
    (if a.inHbm then taken ++ [(b, a.size, a.local_)] else taken,
     if a.hint ≤ 4 ∧ !((bases.any (fun x => decide (x.1 = a.id))) && s.planOk map taken a b) then out ++ [i.viol 0x41 sALLOC 0xFFFF n]
     else out)) (s.hbmTaken, ([] : List Viol))).2

/-- Multicast entries in use by other programs (R327, R423). -/
def Machine.State.mcTaken (s : State) (m : ImgMcast) : Bool :=
  s.progs.any (fun p => p.holds && p.img.mcast.any (fun q => decide (q.hub = m.hub) && decide (q.group = m.group) && (m.hub || decide (q.die = m.die))))

/-- Reduction channels in use by other programs (R447). -/
def Machine.State.chanTaken (s : State) (h : ImgChan) : Bool :=
  s.progs.any (fun p => p.holds && p.img.chans.any (fun q => decide (q.chan = h.chan)))

/-- Scale-store entries of a region (R449). -/
def scaleRun (s : State) (base nblk : Nat) : Nat :=
  let row := if s.pairLocal (base / 2 ^ 31) then 0x10000 else 0x20000
  4 * (((base + 128 * nblk - 1) / row) - base / row + 1)

/-- Runs of scale entries in use: first and length. -/
def Machine.State.scaleRuns (s : State) : List (Nat × Nat) :=
  (s.progs.filter Prog.holds).flatMap (fun p => p.sbase.map (fun (c, b) =>
    match p.img.chans.find? (fun h => decide (h.chan = c)) with
    | some h => (b, scaleRun s (lookD 0 p.bases h.target) h.nblk)
    | none => (b, 0)))

/-- The lowest place for a run of `n` entries among those in use. -/
def fitRun (used : List (Nat × Nat)) (n : Nat) : Option Nat :=
  let at_ (b : Nat) : Bool := decide (b + n ≤ 16384) && used.all (fun (c, k) => decide (b + n ≤ c) || decide (c + k ≤ b))
  (0 :: used.map (fun (c, k) => c + k)).find? at_

/-- The SBASE of each G8 channel of an image, in order; `none` where the store has no room. -/
def Machine.State.planScales (s : State) (i : Image) (bases : List (Nat × Nat)) : List (Nat × Option Nat) :=
  (i.chans.foldl (fun (used, out) h =>
    if bitsOf h.cfg 61 60 ≠ 0 then (used, out)
    else
      let n := scaleRun s (lookD 0 bases h.target) h.nblk
      match fitRun used n with
      | some b => (used ++ [(b, n)], out ++ [(h.chan, some b)])
      | none => (used, out ++ [(h.chan, none)])) (s.scaleRuns, ([] : List (Nat × Option Nat)))).2

/-- A channel's target breaks R448 or R749. -/
def Machine.State.targetBad (s : State) (i : Image) (bases : List (Nat × Nat)) (h : ImgChan) : Bool :=
  let b := lookD 0 bases h.target
  let n := 128 * h.nblk
  let p := wireBytes (bitsOf h.cfg 61 60) true (bitsOf h.cfg 59 55)
  decide (h.nblk = 0) || decide (2 ^ 20 < h.nblk) || decide (b % 2 ^ 17 ≠ 0) || !(i.allocs.any (fun a => decide (a.id = h.target) && a.inHbm && decide (n ≤ a.size)))
    || !((pairsOf b n).all (fun q => decide (s.pairLocal q = s.pairLocal (b / 2 ^ 31))))
    || decide (2 ^ 31 < (bitsOf h.cfg 36 25 + 1) * h.nblk * p)

/-- Bytes of one 256-byte block's slot (R459). -/
def slotZ (wfmt : Nat) : Nat := if wfmt = 0 then 64 else if wfmt = 1 then 128 else 256

/-- A fixed-order staging area that does not fit (R459). -/
def Image.stagingBad (i : Image) (bases : List (Nat × Nat)) (h : ImgChan) : Bool :=
  if bitsOf h.cfg 62 62 = 0 then false
  else
    let b := lookD 0 bases h.target
    let n := 128 * h.nblk
    match h.staging with
    | none => true
    | some id =>
      let g := lookD 0 bases id
      let regions := ((bitsOf h.cfg 36 25 + 1) * slotZ (bitsOf h.cfg 61 60) + 255) / 256
      match i.allocs.find? (fun a => decide (a.id = id)), i.allocs.find? (fun a => decide (a.id = h.target)) with
      | some a, some t => decide (2 ^ 26 < n) || t.local_ || a.local_ || !a.inHbm || decide ((g + 2 ^ 48 - b) % 2 ^ 26 ≠ 0)
          || decide (a.size < (regions - 1) * 2 ^ 26 + n)
      | _, _ => true

/-- Codes 0x40 to 0x47. `keep` marks a takeover that keeps the task's allocations. -/
def Machine.State.resourceViols (s : State) (i : Image) (map bases : List (Nat × Nat)) (keep : Bool) : List Viol :=
  let s' : State := if keep then { s with progs := s.progs.filter (fun p => decide (p.id ≠ i.progId)) } else s
  i.allocs.zipIdx.flatMap (fun (a, n) => i.violIf (decide (4 < a.hint)) 0x40 sALLOC 0xFFFF n)
    ++ (if keep then [] else s'.planViols i map bases)
    ++ i.mcast.zipIdx.flatMap (fun (m, n) => i.violIf (s'.mcTaken m || decide ((if m.hub then 4096 else 256) ≤ m.group)) 0x42 sMCAST 0xFFFF n)
    ++ i.chans.zipIdx.flatMap (fun (h, n) =>
      i.violIf (decide (1024 ≤ h.chan) || s'.chanTaken h) 0x43 sRCHAN 0xFFFF n)
    ++ (s'.planScales i bases).flatMap (fun (_, b) => i.violIf b.isNone 0x44 sRCHAN)
    ++ i.chans.zipIdx.flatMap (fun (h, n) => i.violIf (i.stagingBad bases h) 0x45 sRCHAN 0xFFFF n)
    ++ i.chans.zipIdx.flatMap (fun (h, n) => i.violIf (s'.targetBad i bases h) 0x46 sRCHAN 0xFFFF n)
    ++ i.groups.zipIdx.flatMap (fun (g, n) =>
      i.violIf (decide (127 < g.group) || g.members.isEmpty || g.members.any (fun m => !(i.cores.any (fun k => decide (k.logical = m))))) 0x47
        sGROUPS 0xFFFF n)

/-! ### All checks (R518) -/

/-- Relocation of a 64-bit address field at a byte offset of a byte string (R509). -/
def relocBytes (bs : List Byte) (off base : Nat) : List Byte :=
  bs.take off ++ leBytes 8 ((leNat ((bs.drop off).take 8) + base) % 2 ^ 64) ++ bs.drop (off + 8)

/-- The copy with RELOC applied: an allocation's base is its global address in this module. -/
def Image.relocated (i : Image) (bases : List (Nat × Nat)) : Image :=
  i.relocs.foldl (fun i r =>
    let b := 0xFFFF000000000000 + lookD 0 bases r.alloc
    if r.inCode then { i with code := relocBytes i.code r.off b }
    else
      let n := r.off / 64
      let c := i.cmds.getD n 0
      { i with cmds := i.cmds.set n (BitVec.ofNat 512 (leNat (relocBytes (leBytes 64 c.toNat) (r.off % 64) b))) }) i

/-- Every violation of an image, by code: header and layout end the checks at once, since nothing else of the image can be read. -/
def Machine.State.allViols (s : State) (i : Image) (required : Bool) (keys : List Nat) (map bases : List (Nat × Nat)) (recv keep : Bool) :
    List Viol :=
  match i.intact with
  | v :: vs => v :: vs
  | [] =>
    let j := i.relocated bases
    let vs := j.cores.map (fun k => (k, s.vCore (lookD k.core map k.logical) (j.coreSched k)))
    i.signViols required keys ++ s.moduleViols i map recv ++ s.codeViols j map
      ++ vs.flatMap (fun (k, v) => (j.tileViols k v).filter (fun x => decide (x.status = 0x30)))
      ++ vs.flatMap (fun (k, v) => (j.tileViols k v).filter (fun x => decide (x.status = 0x31)))
      ++ s.addrViols j map bases
      ++ (vs.zipIdx).flatMap (fun ((k, v), n) => j.vatViols k n v) ++ s.quotaViols j map recv
      ++ j.orderViols bases vs ++ j.schedViols ++ s.resourceViols j map bases keep

/-- The order of violations: model ACLK, then logical core (R517). -/
def violLe (a b : Viol) : Bool := decide (a.aclk < b.aclk) || (decide (a.aclk = b.aclk) && decide (a.logical ≤ b.logical))

def insertViol (v : Viol) : List Viol → List Viol
  | [] => [v]
  | w :: l => if violLe w v then w :: insertViol v l else v :: w :: l

def sortViols (l : List Viol) : List Viol := l.foldl (fun out v => insertViol v out) []

/-- The violation that a load reports: the first code whose condition holds, and of that code the first in model time. -/
def firstViol : List Viol → Option Viol
  | [] => none
  | v :: l =>
    let code := l.foldl (fun m w => min m w.status) v.status
    (sortViols ((v :: l).filter (fun w => decide (w.status = code)))).head?

end Sys2Proof
end

