-- ==== Sys2Proof/Machine/Tasks.lean ====
section
/-! DEFINITION. Tasks (15_tasks_speculation_checkpoints.md): starting a task, its barrier slots, channels and multicast entries,
ending it, speculation, checkpoints and energy. -/

namespace Sys2Proof.Machine

open Sys2Proof

/-! ### The descriptor and the task table (R524, R554) -/

/-- A task descriptor from its 64 bytes. -/
def descOf (bs : List Byte) : TaskDesc :=
  let n (o k : Nat) : Nat := leNat ((bs.drop o).take k)
  let flags := n 0x14 4
  { progId := n 0 8, seed := n 8 8, step := n 0x10 4, flags := flags, imageAddr := n 0x18 8, ckptRec := n 0x20 8, specWin := n 0x28 2,
    swTimeout := n 0x2C 4, bytes := bs,
    ok := decide (bs.length = 64) && decide (n 0x2A 2 = 0) && decide (n 0x30 16 = 0) && decide (flags / 2 ^ 12 = 0) && decide (bitsOf flags 7 6 = 0) }

def TaskDesc.spec (d : TaskDesc) : Bool := bitOf d.flags 0
def TaskDesc.specHold (d : TaskDesc) : Bool := bitOf d.flags 1
def TaskDesc.commitSeen (d : TaskDesc) : Bool := bitOf d.flags 2
def TaskDesc.resume (d : TaskDesc) : Bool := bitOf d.flags 3
def TaskDesc.resumeSoft (d : TaskDesc) : Bool := bitOf d.flags 4
def TaskDesc.spareMod (d : TaskDesc) : Bool := bitOf d.flags 5
def TaskDesc.resumeMax (d : TaskDesc) : Nat := bitsOf d.flags 11 8
/-- The windows the task writes. -/
def TaskDesc.wins (d : TaskDesc) : List Nat := (List.range 16).filter (fun w => bitOf d.specWin w)

def State.task? (s : State) (t : Nat) : Option TaskSt := find? s.tasks t
def State.setTask (s : State) (t : Nat) (x : TaskSt) : State := { s with tasks := insertAt natLt s.tasks t x }
def State.dropTask (s : State) (t : Nat) : State := { s with tasks := dropKey s.tasks t }
def State.modTask (s : State) (t : Nat) (f : TaskSt → TaskSt) : State :=
  match s.task? t with
  | some x => s.setTask t (f x)
  | none => s
/-- HUBC_TASK.STATE codes of R554. -/
def tsSTARTING : Nat := 0
def tsRUNNING : Nat := 1
def tsSWITCHING : Nat := 2
def tsOUT : Nat := 3
def tsRESUMING : Nat := 4
def tsENDING : Nat := 5
def tsHELD : Nat := 6
def State.taskState (s : State) (t : Nat) : Nat := s.get F.HUBC_TASK_STATE 0 t
def State.setTaskState (s : State) (t v : Nat) : State := s.set F.HUBC_TASK_STATE 0 v t

/-- The loaded program of a task. -/
def State.progOf (s : State) (id : Nat) : Option Prog := s.progs.find? (fun p => decide (p.id = id))
def State.setProg (s : State) (p : Prog) : State :=
  { s with progs := s.progs.map (fun q => if q.id = p.id ∧ q.cores.map Prod.fst = p.cores.map Prod.fst then p else q) }

def TaskSt.coreIds (x : TaskSt) : List Nat := x.cores.map Prod.snd
def TaskSt.logicalOf (x : TaskSt) (c : Nat) : Nat := ((x.cores.find? (fun p => decide (p.2 = c))).map Prod.fst).getD 0xFFFF

/-- The task that holds a core. -/
def State.taskAt (s : State) (c : Nat) : Option (Nat × TaskSt) := s.tasks.find? (fun p => decide (p.1 = (s.core c).slot))

/-- A faulty router whose cores are not fenced yet: R330 is under way. -/
def State.drainPending (s : State) (die : Nat) : Bool :=
  (List.range 48).any (fun cl => (s.router (48 * die + cl)).faulty && decide (s.get F.CLU_FENCE_FENCED (48 * die + cl) ≠ 0xFFFF))

/-! ### Barrier slots (R362) -/

/-- Free barrier slots, lowest first. -/
def State.freeSlots (s : State) : List Nat := (List.range 64).filter (fun n => !(s.tasks.any (fun t => t.2.slots.contains n)))

/-- The configuration words of a slot's masks: the clusters always, the rows, dies and root when more than one child below takes
part (R365: a node without a mask above it decides), each handed to `put`. `op` 0 sets, 1 clears. -/
def State.slotWords (s : State) (put : State → SyncNode → Nat → State) (slot op : Nat) (cores : List Nat) : State :=
  let mask (f : Nat → Bool) (n : Nat) : Nat := (List.range n).foldl (fun w k => if f k then w + 2 ^ k else w) 0
  let cls := (List.range 96).filter (fun cl => cores.any (fun c => decide (cluInst c = cl)))
  let s := cls.foldl (fun s cl =>
    let m := if op = 0 then mask (fun n => cores.contains (coreId cl n)) 16 else 0
    put s (.cluster (cl / 48) (cl % 48)) (cfgWord slot op 0 (cl / 48) (cl % 48) m)) s
  if cls.length ≤ 1 then s
  else
    let rows := (List.range 12).filter (fun r => cls.any (fun cl => decide (cl / 8 = r)))
    let s := rows.foldl (fun s r =>
      let m := if op = 0 then mask (fun k => cls.contains (8 * r + k)) 8 else 0
      put s (.row (r / 6) (r % 6)) (cfgWord slot op 1 (r / 6) (r % 6) m)) s
    if rows.length ≤ 1 then s
    else
      let dies := (List.range 2).filter (fun d => rows.any (fun r => decide (r / 6 = d)))
      let s := dies.foldl (fun s d =>
        let m := if op = 0 then mask (fun k => rows.contains (6 * d + k)) 6 else 0
        put s (.die d) (cfgWord slot op 2 d 0 m)) s
      if dies.length ≤ 1 then s
      else put s .module (cfgWord slot op 3 0 0 (if op = 0 then 3 else 0))

/-- Freeing a slot (R362): masks cleared at every node, and in every member core MEMBER, ARRIVED, FAULTED, REALIGN, CTR and RMASK;
GEN stays. -/
def State.freeSlot (s : State) (slot : Nat) : State :=
  let cores := s.slotCores slot
  let s := s.slotWords State.sendCfg slot 1 cores
  cores.foldl (fun s c => s.wr ⟨.SU_BAR, c, slot⟩ (F.SU_BAR_GEN.ins 0 (s.get F.SU_BAR_GEN c slot))) s

/-- The member cores of an image's group. -/
def groupCores (x : TaskSt) (g : ImgGroup) : List Nat := g.members.map (fun l => lookD 0 x.cores l)

/-- Writing one GMAP entry in every core of the task. -/
def State.mapGroup (s : State) (cores : List Nat) (g slot : Nat) : State :=
  cores.foldl (fun s c =>
    let w := s.get F.SU_GMAP_ENTRIES c (g / 8)
    let e := w / 2 ^ (8 * (g % 8)) % 256
    s.set F.SU_GMAP_ENTRIES c (w - e * 2 ^ (8 * (g % 8)) + (128 + slot) * 2 ^ (8 * (g % 8))) (g / 8)) s

/-- Mapping the barrier groups of a program in the order of declaration while free slots remain; the slots taken, in order. -/
def State.mapGroups (s : State) (x : TaskSt) (groups : List ImgGroup) : State × List Nat :=
  let cores := x.coreIds
  let s := cores.foldl (fun s c => (List.range 16).foldl (fun s q => s.set F.SU_GMAP_ENTRIES c 0 q) s) s
  (groups.zip s.freeSlots).foldl (fun (s, l) (g, slot) =>
    let ms := groupCores x g
    let s := s.slotWords State.sendCfg slot 0 ms
    let s := ms.foldl (fun s c => (s.wr ⟨.SU_BAR, c, slot⟩ 0).set F.SU_BAR_MEMBER c 1 slot) s
    (s.mapGroup cores g.group slot, l ++ [slot])) (s, ([] : List Nat))

/-! ### Channels and multicast entries (R447, R470, R476, R327, R423) -/

/-- Landed bytes of a channel that the MSUs have not reported are forgotten. -/
def State.dropLanded (s : State) (chan : Nat) : State :=
  { s with msus := s.msus.filterMap (fun (m, k) =>
      let k' := { k with landed := k.landed.filter (fun x => decide (x.1 ≠ chan)) }
      if k' = {} then none else some (m, k')) }

/-- The core that a channel's HOME names, after a takeover's remapping (R543). -/
def Prog.homeCore (p : Prog) (home : Nat) : Nat :=
  match p.img.cores.find? (fun k => decide (k.core = home)) with
  | some k => lookD home p.cores k.logical
  | none => home

/-- Opening a channel of a program (R447, R449, R476); `step` is the step it opens at and `again` marks a takeover, which sets
BASE := LANDED and clears the faulted state (R543). -/
def State.openChan (s : State) (p : Prog) (h : ImgChan) (step : Nat) (again : Bool) : State :=
  let c := h.chan
  let tgt := lookD 0 p.bases h.target
  let stg := (h.staging.map (fun i => lookD 0 p.bases i)).getD 0
  let sb := lookD 0 p.sbase c
  let s := { s with rchFault := s.rchFault.filter (· ≠ c) }
  let s := s.wr ⟨.MSU_RCH_CFG, 0, c⟩ (F.MSU_RCH_CFG_HOME.ins (F.MSU_RCH_CFG_VALID.ins (BitVec.ofNat 64 (h.cfg - h.cfg % 8)) 1)
    (p.homeCore (bitsOf h.cfg 24 14)))
  let s := (s.set F.MSU_RCH_TGT_NBLK_M1 0 (h.nblk - 1) c).set F.MSU_RCH_TGT_BASE 0 (tgt / 2 ^ 17) c
  let s := ((s.set F.MSU_RCH_AUX_STG 0 (stg / 2 ^ 17) c).set F.MSU_RCH_AUX_SBASE 0 sb c).set F.MSU_RCH_AUX_CHKBASE 0 h.chkbase c
  let s := s.set F.MSU_RCH_STEP_STEP 0 step c
  let s := if again then s.set F.MSU_RCH_STEP_BASE 0 (s.get F.MSU_RCH_LAND_LANDED 0 c) c
    else (((s.dropLanded c).set F.MSU_RCH_STEP_BASE 0 0 c).wr ⟨.MSU_RCH_LAND, 0, c⟩ 0).wr ⟨.MSU_RCH_CNT, 0, c⟩ 0
  if bitsOf h.cfg 61 60 ≠ 0 then s
  else
    let n := scaleRun s tgt h.nblk
    { s with msus := s.msus.filterMap (fun (m, k) =>
        let k' := { k with scale := k.scale.filter (fun e => decide (e.1 < sb) || decide (sb + n ≤ e.1)) }
        if k' = {} then none else some (m, k')) }

/-- Closing a channel (R470): held signals are discarded, targets and staging stay. -/
def State.closeChan (s : State) (c : Nat) : State :=
  let s := s.set F.MSU_RCH_CFG_VALID 0 0 c
  { s with rchSig := dropKey s.rchSig c, rchBack := s.rchBack.filter (fun g => decide (g.rchan ≠ c)) }

/-- Writing or clearing the multicast entries of an image. -/
def State.writeMcast (s : State) (m : ImgMcast) (on : Bool) : State :=
  m.words.foldl (fun s (cl, w) =>
    let v : Word := if on then BitVec.ofNat 64 w else 0
    if m.hub then s.wr ⟨.EVL_MC, 36, m.group⟩ v else s.wr ⟨.MESH_MC, 48 * m.die + cl, m.group⟩ v) s

/-- A branch toward a router that has stopped is cut, and the stopped router's own entries are void (R319, R330). -/
def State.pruneMc (s : State) (die : Nat) : State :=
  (List.range 48).foldl (fun s cl =>
    if !((s.router (48 * die + cl)).faulty) then s
    else (List.range 256).foldl (fun s g =>
      let s := if s.get F.MESH_MC_VALID (48 * die + cl) g = 1 then s.wr ⟨.MESH_MC, 48 * die + cl, g⟩ 0 else s
      let cut (s : State) (n q : Nat) : State :=
        let b := s.get F.MESH_MC_BRANCH (48 * die + n) g
        if bitOf b q then s.set F.MESH_MC_BRANCH (48 * die + n) (b - 2 ^ q) g else s
      let s := if 8 ≤ cl then cut s (cl - 8) 3 else s
      let s := if cl < 40 then cut s (cl + 8) 1 else s
      let s := if cl % 8 ≠ 0 then cut s (cl - 1) 2 else s
      if cl % 8 ≠ 7 then cut s (cl + 1) 4 else s) s) s

/-! ### Starting (R525, R526) -/

/-- The first case of R525 that holds. -/
def State.startRefused (s : State) (d : TaskDesc) : Option Nat :=
  let ps := s.progs.filter (fun p => decide (p.id = d.progId))
  if ps.length ≠ 1 then some 1
  else if s.tasks.any (fun x => decide (x.2.prog = d.progId) && decide (s.taskState x.1 ≠ tsHELD)) then some 2
  else if 64 ≤ s.tasks.length then some 3
  else if ps.any (fun p => p.cores.any (fun x => s.fenced x.2)) then some 4
  else if d.wins.any (fun w => decide (s.get F.HUBC_SPEC_CFG_VALID 0 w = 0) || decide (s.get F.HUBC_SPEC_CFG_HELD 0 w = 1)) then some 5
  else if d.specWin ≠ 0 ∧ !d.spec then some 6
  else if d.resumeMax ≠ 0 ∧ !d.resume then some 7
  else none

/-- COPY_IN of one window at a task start. -/
def State.copyIn (s : State) (w : Nat) : State :=
  if s.get F.HUBC_SPEC_CFG_COPY_IN 0 w = 0 then s
  else
    let r0 := s.get F.HUBC_SPEC_R0_BASE 0 w
    let r1 := s.get F.HUBC_SPEC_R1_BASE 0 w
    let (a, b) : Nat × Nat := if s.get F.HUBC_SPEC_CFG_CUR 0 w = 0 then (r0, r1) else (r1, r0)
    s.copyMem a b (s.specSize w)

/-- Step 2 of R526 on one core, and the task's place on it. `again` keeps INSTAR and VALID and sets RESUMED (R544). -/
def State.startCore (s : State) (t : Nat) (d : TaskDesc) (quota l c : Nat) (again : Bool) : State :=
  let s := s.wr ⟨.CC_TASK_STATUS, c, 0⟩ 0
  let s := s.wr ⟨.CC_CKPT, c, 0⟩ 0
  let s := if again then ((s.set F.CC_CKPT_INSTAR c (s.get F.HUBC_TASK_INSTAR 0 t)).set F.CC_CKPT_VALID c (s.get F.HUBC_TASK_CKPT_VALID 0 t)).set
      F.CC_CKPT_RESUMED c 1
    else s.set F.CLU_ENERGY_ENERGY (cluInst c) 0 (corein c)
  let s := s.set F.VAT_QUOTA_QUOTA (cluInst c) quota (corein c)
  let s := ((s.set F.VE_SEED_SEED c d.seed).set F.VE_CTX_STEP c d.step).set F.VE_CTX_PHASE c 0
  s.modCore c (fun x => { x with logical := l, slot := t, abort := none, stopped := false, openSync := true, wfi := false, push := none })

/-- Registration at the spare module (R574): the modules on the admitted links go with it. -/
def State.registerTask (s : State) (t : Nat) (d : TaskDesc) : State :=
  if d.spareMod ∧ d.imageAddr ≠ 0 ∧ d.ckptRec ≠ 0 ∧ s.get F.NVCF_SPARE_MOD_VALID 0 = 1 then
    let nb := s.admittedLinks.map (fun n => s.get F.EVL_STATUS_PARTNER_MOD n)
    (s.hubMsg (s.get F.NVCF_SPARE_SPARE_MOD 0) 3 ([s.modId, t, nb.length, s.get F.NVCF_CFG_HB_PERIOD 0, s.get F.NVCF_CFG_HB_MISS 0]
      ++ d.bytes.map BitVec.toNat ++ nb)).modTask t (fun x => { x with reg := 1, regAt := s.now })
  else s

/-- A program holds its multicast groups, channels and scale runs, or has given them back (R327, R423, R447). -/
def State.setHolds (s : State) (p : Prog) (on : Bool) : State :=
  { s with progs := s.progs.map (fun q => if q.id = p.id ∧ q.cores = p.cores then { q with holds := on } else q) }

/-- What a program's start finds of its channels and groups: those that its load took, or, when an earlier task of it has given them back,
those that no other program has taken since (DESIGN CHOICE, notes/assumptions/37.md): the loader never takes over a group in use
(R327). -/
def State.startChans (s : State) (p : Prog) : List (ImgChan × Nat) :=
  p.img.chans.zipIdx.filter (fun h => p.holds || !(s.chanTaken h.1 || (s.scaleRuns.any (fun r => match find? p.sbase h.1.chan with
    | some b => decide (b < r.1 + r.2) && decide (r.1 < b + scaleRun s (lookD 0 p.bases h.1.target) h.1.nblk)
    | none => false))))
def State.startMcast (s : State) (p : Prog) : List ImgMcast := p.img.mcast.filter (fun m => p.holds || !(s.mcTaken m))

/-- Steps 2 to 5 of R526 for a task whose record stands in its slot. -/
def State.launch (s : State) (t : Nat) (again : Bool) : State :=
  match s.task? t with
  | none => s
  | some x =>
    match s.progOf x.prog with
    | none => s
    | some p =>
      let s := s.powerFor x.coreIds
      let s := x.cores.foldl (fun s (l, c) =>
        let q := ((p.img.cores.find? (fun k => decide (k.logical = l))).map ImgCore.quota).getD 0
        s.startCore t x.desc q l c again) s
      let (s, slots) := s.mapGroups x p.img.groups
      let chans := s.startChans p
      let groups := s.startMcast p
      let s := chans.foldl (fun s (h, n) => s.openChan p h (if again then x.steps.getD n h.step else h.step) again) s
      let s := (groups.foldl (fun s m => s.writeMcast m true) s).setHolds p true
      let s := if s.routers.any (fun r => r.2.faulty) then (s.pruneMc 0).pruneMc 1 else s
      let s := if again then s else x.desc.wins.foldl (fun s w =>
        ((s.copyIn w).set F.HUBC_SPEC_CFG_HELD 0 1 w).set F.HUBC_SPEC_CFG_OWNER 0 t w) s
      let s := s.modTask t (fun x => { x with slots := slots, exited := [], ckpt := [], ckptSent := false, abort := none, why := 0, fencedIn := false,
                                              moving := false, loading := false })
      let s := x.cores.foldl (fun s (l, c) =>
        let e := ((p.img.cores.find? (fun k => decide (k.logical = l))).map ImgCore.entry).getD 0
        (s.modCore c (fun y => { y with pc := e })).ccState c 1) s
      s.setTaskState t tsRUNNING

/-- The completion record of a task (R547). -/
def State.taskRecord (s : State) (t : Nat) (x : TaskSt) (status cause specOut : Nat) : List Byte :=
  let seen (c : Nat) : Nat := s.get F.CC_TASK_STATUS_SEEN c
  let cs := x.coreIds
  let withSeen := cs.filter (fun c => decide (seen c ≠ 0))
  let al := (x.abort.map Prod.fst).getD 0xFFFF
  let ac := if al = 0xFFFF then none else find? x.cores al
  let low := withSeen.foldl (fun (b : Option Nat) c => match b with
    | none => some c
    | some d => if x.logicalOf c < x.logicalOf d then some c else some d) none
  let logc := ac.or low
  let rg (r : Reg) (c : Option Nat) : Nat := (c.map (fun c => (s.rd ⟨r, c, 0⟩).toNat)).getD 0
  leBytes 1 status ++ leBytes 1 cause ++ leBytes 1 specOut ++ leBytes 1 t ++ leBytes 2 al
    ++ leBytes 2 (2 * cs.foldl (fun n c => n ||| seen c) 0) ++ leBytes 8 x.prog ++ leBytes 4 (s.get F.HUBC_TASK_INSTAR 0 t)
    ++ leBytes 2 x.takeovers ++ leBytes 2 withSeen.length ++ leBytes 8 (s.get F.HUBC_TASK_E_ENERGY 0 t)
    ++ leBytes 8 ((s.timeNs + 2 ^ 64 - x.started) % 2 ^ 64) ++ leBytes 8 (rg .CC_CMD_LOG logc) ++ leBytes 8 (rg .CC_TRAP ac) ++ leBytes 8 0

/-- The record of a refused start (R525). -/
def refusedRecord (id cause : Nat) : List Byte :=
  leBytes 1 7 ++ leBytes 1 cause ++ leBytes 1 0 ++ leBytes 1 0xFF ++ leBytes 2 0xFFFF ++ leBytes 2 0 ++ leBytes 8 id ++ List.replicate 48 0

/-- The error-log record of a task's end (R523, R547, R707 kind 0x03). -/
def State.logTask (s : State) (id status nseen cause cmdLog slot : Nat) : State :=
  s.logRec 0 Blk.HUBC.code (0x300 + status) 0 slot 0 (leBytes 8 id ++ leBytes 2 nseen ++ leBytes 1 cause ++ leBytes 5 0 ++ leBytes 8 cmdLog)

/-- Starting a task from a descriptor, or refusing it (R525, R526). -/
def State.startDesc (s : State) (d : TaskDesc) (mbx : Option Nat) (tag : Nat) (resident : Bool) : State :=
  match s.startRefused d with
  | some k =>
    let s := s.post { kind := 2, mbx := mbx, tag := tag, record := refusedRecord d.progId k }
    if resident then s.logTask d.progId 7 0 k 0 0xFF else s
  | none =>
    match (List.range 64).find? (fun t => (s.task? t).isNone), s.progOf d.progId with
    | some t, some p =>
      let x : TaskSt := { prog := d.progId, desc := d, mbx := mbx, tag := tag, resident := resident, cores := p.cores, started := s.timeNs }
      let s := (s.wr ⟨.HUBC_TASK, 0, t⟩ 0).set F.HUBC_TASK_VALID 0 1 t
      let s := (s.set F.HUBC_TASK_SPEC 0 (b2n d.spec) t).wr ⟨.HUBC_TASK_E, 0, t⟩ 0
      ((s.setTask t x).launch t false).registerTask t d
    | _, _ => s

/-- While the module sheds, the hub holds every start and restore (R667). -/
def State.shedding (s : State) : Bool := decide (s.get F.PWR_STATUS_SHED 0 = 1)

/-- START (R526, R603): the descriptor is read and the task started or refused; not while a die's routes are being rewritten
(R330) or the module sheds (R667), and refused with STATE in the safe state (R695). -/
def execStart (m : Nat) (ext : List Byte) (s : State) : Host.Outcome State Fault Refusal :=
  if s.drainPending 0 || s.drainPending 1 || s.shedding then .next s
  else
    match s.takeReq m 0x14 with
    | none => .next s
    | some (tag, a, s) =>
      if a.length ≠ 2 then .next (s.respond m 0x14 tag 3)
      else if s.tripped then .next (s.respond m 0x14 tag 7)
      else
        match s.argAddr (arg64 a 0) 64 with
        | .bad => .next (s.respond m 0x14 tag 8)
        | ad =>
          let d := descOf (s.argRead ad 64 ext)
          if !d.ok then .next (s.respond m 0x14 tag 3)
          else .next ((s.respond m 0x14 tag 1).startDesc d (some m) tag false)

/-- RESIDENT_TASK_START (R568): once READY is reached and the load has ended. -/
def execResidentTaskStart (s : State) : Host.Outcome State Fault Refusal :=
  if decide (s.get F.NVCF_STATUS_READY 0 = 1) && decide (s.start.resLoad = 2) && !s.shedding && !s.tripped && !(s.drainPending 0) && !(s.drainPending 1) then
    match s.start.cfg.bind CfgImage.resident with
    | some (_, bs) => .next ({ s with start := { s.start with resLoad := 4 } }.startDesc (descOf bs) none 0 true)
    | none => .next s
  else .next s

/-! ### Speculation (R534, R537) -/

/-- A commit, or a discard, of a task's windows, which releases them. -/
def State.resolve (s : State) (d : TaskDesc) (flip : Bool) : State :=
  d.wins.foldl (fun s w =>
    let s := if flip then s.set F.HUBC_SPEC_CFG_CUR 0 (1 - s.get F.HUBC_SPEC_CFG_CUR 0 w) w else s
    (s.set F.HUBC_SPEC_CFG_HELD 0 0 w).set F.HUBC_SPEC_CFG_OWNER 0 0 w) s

/-- SPEC_OUT of an end (R537): 0 not speculative, 1 committed, 2 discarded, 3 held. -/
def specOutcome (d : TaskDesc) (status : Nat) : Nat :=
  if !d.spec then 0
  else if status = 0 ∨ (status = 1 ∧ d.commitSeen) then (if d.specHold then 3 else 1)
  else 2

/-- SPEC_CFG (R534, R603): window, the two regions, size and COPY_IN. -/
def execSpecCfg (m : Nat) (s : State) : Host.Outcome State Fault Refusal :=
  match s.takeReq m 0x1A with
  | none => .next s
  | some (tag, a, s) =>
    let w := a.getD 0 0
    let r0 := arg64 a 1
    let r1 := arg64 a 3
    let sz := bitsOf (a.getD 5 0) 27 0
    let n := 256 * (sz + 1)
    let bad (r : Nat) : Bool := decide (r % 256 ≠ 0) || !(s.ownMod (gMod r)) || decide (hbmProg < gLoc r + n)
    if a.length ≠ 6 ∨ 16 ≤ w ∨ a.getD 5 0 / 2 ^ 29 ≠ 0 ∨ bad r0 ∨ bad r1 then .next (s.respond m 0x1A tag 3)
    else if s.get F.HUBC_SPEC_CFG_HELD 0 w = 1 then .next (s.respond m 0x1A tag 7)
    else
      let s := (s.wr ⟨.HUBC_SPEC_CFG, 0, w⟩ 0).set F.HUBC_SPEC_CFG_VALID 0 1 w
      let s := (s.set F.HUBC_SPEC_CFG_SIZE_M1 0 sz w).set F.HUBC_SPEC_CFG_COPY_IN 0 (bitsOf (a.getD 5 0) 28 28) w
      .next (((s.set F.HUBC_SPEC_R0_BASE 0 (gLoc r0) w).set F.HUBC_SPEC_R1_BASE 0 (gLoc r1) w).respond m 0x1A tag 0)

/-- COMMIT and DISCARD of a held task. -/
def State.resolveReq (s : State) (m code : Nat) (flip : Bool) : State :=
  match s.takeReq m code with
  | none => s
  | some (tag, a, s) =>
    let t := a.getD 0 0
    if a.length ≠ 1 ∨ 64 ≤ t then s.respond m code tag 3
    else
      match s.task? t with
      | none => s.respond m code tag 5
      | some x =>
        if s.taskState t ≠ tsHELD then s.respond m code tag 7
        else (((s.resolve x.desc flip).dropTask t).wr ⟨.HUBC_TASK, 0, t⟩ 0).respond m code tag 0

/-- COMMIT (R537). -/
def execCommit (m : Nat) (s : State) : Host.Outcome State Fault Refusal := .next (s.resolveReq m 0x18 true)

/-- DISCARD (R537). -/
def execDiscard (m : Nat) (s : State) : Host.Outcome State Fault Refusal := .next (s.resolveReq m 0x19 false)

/-! ### Ending (R528) -/

/-- A context's slots return (R531, R556). -/
def State.freeCtx (s : State) (n : Nat) : State := s.set F.HUBC_CTX_FREE 0 (min 0xC00 (s.get F.HUBC_CTX_FREE 0 + n))

/-- What ending and aborting have in common: barrier slots, channels, multicast entries. -/
def State.dropShared (s : State) (t : Nat) (x : TaskSt) : State :=
  let s := x.slots.foldl (fun s n => s.freeSlot n) s
  let s := match s.progOf x.prog with
    | some p => (p.img.mcast.foldl (fun (s : State) (m : ImgMcast) => s.writeMcast m false)
        (p.img.chans.foldl (fun (s : State) (h : ImgChan) => s.closeChan h.chan) s)).setHolds p false
    | none => s
  s.modTask t (fun x => { x with slots := [] })

/-- Ending a task with a status (R528, R537, R547): resources freed, speculation resolved, the record sent. -/
def State.endTask (s : State) (t status cause : Nat) : State :=
  match s.task? t with
  | none => s
  | some x =>
    let s := s.dropShared t x
    let so := specOutcome x.desc status
    let s := if so = 1 then s.resolve x.desc true else if so = 2 then s.resolve x.desc false else s
    let rec_ := s.taskRecord t x status cause so
    let s := s.post { kind := 2, mbx := x.mbx, tag := x.tag, record := rec_ }
    let nseen := leNat ((rec_.drop 0x16).take 2)
    let s := if nseen ≠ 0 ∨ (x.resident ∧ status ≠ 0) then s.logTask x.prog status nseen cause (leNat ((rec_.drop 0x28).take 8)) t else s
    let s := if x.reg ≠ 0 then s.hubMsg (s.get F.NVCF_SPARE_SPARE_MOD 0) 5 [s.modId, t] else s
    let s := x.coreIds.foldl (fun s c =>
      if (s.core c).slot = t then s.modCore c (fun y => { y with slot := 0xFF, stopped := false }) else s) s
    let s := if x.ctx.isEmpty then s else s.freeCtx x.ctx.length
    if so = 3 then (s.modTask t (fun x => { x with ctx := [], ctxRegs := [], ctxMem := [] })).setTaskState t tsHELD
    else (s.dropTask t).wr ⟨.HUBC_TASK, 0, t⟩ 0

/-- Every command a core has pushed has completed. -/
def State.coreIdle (s : State) (c : Nat) : Bool :=
  decide (s.cellsOf c = 0) && (s.core c).push.isNone && (s.core c).staged.isEmpty

/-- A core of the task whose task status says it has aborted. -/
def State.abortedCore (s : State) (x : TaskSt) : Option (Nat × Nat) :=
  x.cores.find? (fun p => decide (s.get F.CC_TASK_STATUS_ABORTED p.2 = 1))

/-- TASK_END (R528): the parts of all cores have ended and no abort has come first. -/
def execTaskEnd (slot : Nat) (s : State) : Host.Outcome State Fault Refusal :=
  match s.task? slot with
  | none => .next s
  | some x =>
    if s.taskState slot = tsRUNNING ∧ x.abort.isNone ∧ (s.abortedCore x).isNone ∧ x.coreIds.all (fun c => x.exited.contains c && s.coreIdle c) then
      let seen := x.coreIds.any (fun c => decide (s.get F.CC_TASK_STATUS_SEEN c ≠ 0))
      .next (s.endTask slot (b2n seen) 0)
    else .next s

/-- The effect of a CC's write to CC_EXIT (R550): its part ends and the CC halts. -/
def State.exitWrite (s : State) (c : Nat) (v : Word) : State :=
  if v.toNat % 2 = 0 then s
  else
    let s := if s.get F.CC_STATE_STATE c = 4 then s else s.ccState c 0
    match s.taskAt c with
    | some (t, x) => if x.exited.contains c then s else s.modTask t (fun x => { x with exited := x.exited ++ [c] })
    | none => s

/-- CC_EXIT (R528, R550). -/
def execCcExit (core : Nat) (v : Word) (s : State) : Host.Outcome State Fault Refusal :=
  .next (s.regCmd (.cc core) .CC core (fun s => s.exitWrite core v))

/-! ### Aborting (R529) -/

/-- The hub aborts every core of a task with cause 0x08; `first` is what the completion record will name. -/
def State.abortTask (s : State) (t : Nat) (first : Nat × Nat) (why : Nat) : State :=
  match s.task? t with
  | none => s
  | some x =>
    let s := x.coreIds.foldl (fun s c => s.raiseAbort c 8) s
    let s := match s.progOf x.prog with
      | some p => p.img.chans.foldl (fun (s : State) (h : ImgChan) => s.closeChan h.chan) s
      | none => s
    let s := if s.taskState t = tsSWITCHING then
        (s.freeCtx x.cores.length).post { kind := 3, mbx := x.swMbx, tag := x.swTag, record := leBytes 1 t ++ leBytes 1 1 }
      else s
    let s := x.coreIds.foldl (fun s c => s.modCore c (fun y => { y with stopped := false, openSync := true })) s
    (s.modTask t (fun x => { x with abort := some first, why := why, ckpt := [], ckptSent := false })).setTaskState t tsENDING

/-- A task that may still be aborted. -/
def State.abortable (s : State) (t : Nat) : Bool := [tsSTARTING, tsRUNNING, tsSWITCHING, tsOUT].contains (s.taskState t)

/-- HUB_TASK_ABORT (R529, R363, R533): a core of the task has aborted, or has been fenced. -/
def execHubTaskAbort (slot : Nat) (s : State) : Host.Outcome State Fault Refusal :=
  match s.task? slot with
  | none => .next s
  | some x =>
    let fen := x.cores.find? (fun p => s.fenced p.2)
    if x.abort.isSome || !(s.abortable slot) then .next s
    else if s.taskState slot = tsOUT then
      match fen with
      | none => .next s
      | some (l, _) =>
        let s := s.freeCtx x.ctx.length
        .next ((s.modTask slot (fun x => { x with abort := some (l, 8), why := 2, fencedIn := true, ctx := [], ctxRegs := [], ctxMem := [] })).setTaskState
          slot tsENDING)
    else
      match s.abortedCore x with
      | some (l, c) =>
        let k := s.get F.CC_TASK_STATUS_CAUSE c
        .next ((s.abortTask slot (l, k) (if k = 8 then (if fen.isSome then 2 else 3) else 0)).modTask slot (fun x => { x with fencedIn := fen.isSome }))
      | none =>
        match fen with
        | some (l, _) => .next ((s.abortTask slot (l, 8) 2).modTask slot (fun x => { x with fencedIn := true }))
        | none => .next s

/-- KILL (R529, R603). -/
def execKill (m : Nat) (s : State) : Host.Outcome State Fault Refusal :=
  match s.takeReq m 0x15 with
  | none => .next s
  | some (tag, a, s) =>
    let t := a.getD 0 0
    if a.length ≠ 1 ∨ 64 ≤ t then .next (s.respond m 0x15 tag 3)
    else
      match s.task? t with
      | none => .next (s.respond m 0x15 tag 5)
      | some x =>
        if s.taskState t = tsHELD then .next (s.respond m 0x15 tag 7)
        else
          let s := s.respond m 0x15 tag 1
          if s.taskState t = tsENDING ∨ s.taskState t = tsRESUMING then .next (s.modTask t (fun x => { x with why := 1 }))
          else if s.taskState t = tsOUT then
            .next (((s.freeCtx x.ctx.length).modTask t (fun x => { x with abort := some (0xFFFF, 8), why := 1, ctx := [], ctxRegs := [], ctxMem := [] })).setTaskState
              t tsENDING)
          else .next (s.abortTask t (0xFFFF, 8) 1)

/-! ### Checkpoints (R539 to R541) -/

/-- The instar that the next checkpoint of a task must carry. -/
def State.nextInstar (s : State) (t : Nat) : Nat :=
  if s.get F.HUBC_TASK_CKPT_VALID 0 t = 0 then 1 else (s.get F.HUBC_TASK_INSTAR 0 t + 1) % 2 ^ 32

/-- Pieces of a record for another module: at most 256 bytes, inside aligned 256-byte blocks. -/
def ckptPieces (a : Nat) (bs : List Byte) : List (Nat × List Byte) :=
  (cut256 a (bs.length / 256 + 2) 0 bs.length).map (fun (o, n) => (a + o, (bs.drop o).take n))

/-- Writing the checkpoint record (R540). A record on this module is written at once; one on another module leaves as writes of
the hub, which are acknowledged. -/
def State.ckptRecord (s : State) (t : Nat) (x : TaskSt) (n : Nat) : State :=
  let chans := ((s.progOf x.prog).map (fun p => p.img.chans)).getD []
  let steps := chans.map (fun h => s.rchStep h.chan)
  let bs := leBytes 4 n ++ leBytes 2 chans.length ++ List.replicate 10 0 ++ steps.flatMap (fun k => leBytes 4 k)
  let s := s.modTask t (fun x => { x with ckptSent := true, ckptN := n, stepsNew := steps })
  if x.desc.ckptRec = 0 then s
  else
    let a := x.desc.ckptRec + 4096 * (n % 2)
    if s.ownMod (gMod a) then
      match s.argAddr a bs.length with
      | .bad => s.modTask t (fun x => { x with ckptSent := false })
      | ad => s.argWrite ad bs
    else
      (ckptPieces a bs).foldl (fun s (b, d) =>
        match s.freeHubTag with
        | none => s.modTask t (fun x => { x with ckptSent := false })
        | some tag =>
          let p : Packet := { typ := 1, vc := 0, dnode := 0, snode := 0, src := 0x800, tag := tag, len := d.length, mod := gMod b, addr := gLoc b,
                              imm := t, payload := d }
          match s.routeOut p true with
          | some s => s.addHubTag { tag := tag, kind := 5, p := p, link := 63, at_ := s.now, sent := p }
          | none => s.modTask t (fun x => { x with ckptSent := false })) s

/-- The effect of a CC's write to CC_CKPT_DONE (R539, R536, R541). -/
def State.ckptWrite (s : State) (c : Nat) (v : Word) : State :=
  let n := v.toNat % 2 ^ 32
  match s.taskAt c with
  | none => s
  | some (t, x) =>
    let note (s : State) : State := s.logNotice .CC c 2 (leBytes 4 n) t
    if x.abort.isSome ∨ s.get F.CC_TASK_STATUS_ABORTED c = 1 then s
    else if x.desc.spec then note s
    else if n ≠ s.nextInstar t ∨ s.get F.CC_CKPT_PENDING c = 1 then note s
    else
      let done := x.ckpt ++ [c]
      let s := (s.set F.CC_CKPT_PENDING c 1).modTask t (fun x => { x with ckpt := done })
      if x.coreIds.all (fun d => done.contains d) then s.ckptRecord t { x with ckpt := done } n else s

/-- CC_CKPT_DONE (R539, R552). -/
def execCcCkptDone (core : Nat) (v : Word) (s : State) : Host.Outcome State Fault Refusal :=
  .next (s.regCmd (.cc core) .CC core (fun s => s.ckptWrite core v))

/-- CHECKPOINT_COMPLETE (R539): the record has been acknowledged. -/
def execCheckpointComplete (slot : Nat) (s : State) : Host.Outcome State Fault Refusal :=
  match s.task? slot with
  | none => .next s
  | some x =>
    if !x.ckptSent || x.abort.isSome || (s.abortedCore x).isSome || s.hubTags.any (fun h => decide (h.kind = 5) && decide (h.p.imm = slot)) then .next s
    else
      let s := (s.set F.HUBC_TASK_INSTAR 0 x.ckptN slot).set F.HUBC_TASK_CKPT_VALID 0 1 slot
      let s := s.set F.HUBC_TASK_RESUMES 0 0 slot
      let s := x.coreIds.foldl (fun s c =>
        ((s.set F.CC_CKPT_INSTAR c x.ckptN).set F.CC_CKPT_VALID c 1).set F.CC_CKPT_PENDING c 0) s
      .next (s.modTask slot (fun x => { x with ckpt := [], ckptSent := false, steps := x.stepsNew }))

/-! ### Energy (R549) -/

/-- ACLK in the hub's 1 ms interval. -/
def msAclk : Nat := 1900000

/-- ENERGY_ACCRUAL (R549): `busy` gives the ACLK of the last millisecond in which some engine of a core was not idle, `clusters` the
energy of each cluster's domain and `other` the energy of HBM, hub, mesh and conversion, in µJ. -/
def execEnergyAccrual (busy clusters : List (Nat × Nat)) (other : Nat) (s : State) : Host.Outcome State Fault Refusal :=
  let run := s.tasks.filter (fun t => decide (s.taskState t.1 = tsRUNNING))
  let part (x : TaskSt) : Nat := x.coreIds.foldl (fun n c =>
    n + lookD 0 clusters (cluInst c) * min msAclk (lookD 0 busy c) / (16 * msAclk)) 0
  let total := run.foldl (fun n t => n + part t.2) 0
  let s := clusters.foldl (fun s (cl, e) => if cl < 96 then s.addw F.PWR_CDOM_E_ENERGY 0 e cl else s) s
  .next (run.foldl (fun s (t, x) =>
    let e := part x + (if total = 0 then 0 else other * part x / total)
    let s := s.addw F.HUBC_TASK_E_ENERGY 0 e t
    x.coreIds.foldl (fun s c => s.addw F.CLU_ENERGY_ENERGY (cluInst c) e (corein c)) s) s)

end Sys2Proof.Machine
end

