-- ==== Sys2Proof/Machine/Takeover.lean ====
section
/-! DEFINITION. Faulty routers and rerouting (R319, R321, R329, R330), and the decision on an aborted task (R542 to R546). -/

namespace Sys2Proof.Machine

open Sys2Proof

/-! ### Routes (R318, R319) -/

/-- One round toward the router `dr` by E, N and S hops: routers not listed yet whose neighbour by such a hop is listed. -/
def ensRound (dead : List Nat) (t : List (Nat × Nat)) : List (Nat × Nat) :=
  t ++ (List.range 48).filterMap (fun x =>
    if dead.contains x || t.any (fun p => decide (p.1 = x)) then none
    else ([2, 1, 3].find? (fun port => match beyond x port with
      | .router y _ => t.any (fun p => decide (p.1 = y))
      | .station _ => false)).map (fun port => (x, port)))

/-- Next hops of the routers that reach `dr` without a W hop: shortest first, E before N and S as the dimension-order routes. -/
def ensTable (dead : List Nat) (dr : Nat) : List (Nat × Nat) :=
  if dead.contains dr then [] else (List.range 12).foldl (fun t _ => ensRound dead t) [(dr, 0)]

/-- W hops from a router lead to one of the table. -/
def westReach (dead : List Nat) (t : List (Nat × Nat)) (x : Nat) : Nat → Bool
  | 0 => false
  | n + 1 =>
    if t.any (fun p => decide (p.1 = x)) then true
    else if x % 8 = 0 ∨ dead.contains (x - 1) then false
    else westReach dead t (x - 1) n

/-- The west-first entry of router `x` for `node`, whose router has the table `t`: DEAD where no route exists. -/
def westFirst (dead : List Nat) (t : List (Nat × Nat)) (x node : Nat) : Nat :=
  if 0x3C ≤ node ∧ node < 0x40 ∨ 0x48 ≤ node ∧ node < 0x50 ∨ 0x58 ≤ node then 7
  else if x = nodeRow node * 8 + nodeCol node then (if dead.contains x then 7 else stationPort node)
  else
    match t.find? (fun p => decide (p.1 = x)) with
    | some p => p.2
    | none => if westReach dead t x 8 then 4 else 7

/-- Routers of a die that have stopped. -/
def State.deadRouters (s : State) (die : Nat) : List Nat := (List.range 48).filter (fun cl => (s.router (48 * die + cl)).faulty)

/-- Every route table of a die is rewritten under R319. -/
def State.reroute (s : State) (die : Nat) : State :=
  let dead := s.deadRouters die
  (List.range 48).foldl (fun s dr =>
    let t := ensTable dead dr
    ((List.range 0x58).filter (fun n => decide (nodeRow n * 8 + nodeCol n = dr))).foldl (fun s node =>
      (List.range 48).foldl (fun s x =>
        let e := westFirst dead t x node
        if s.route die x node = e then s else s.setRoute die x node e) s) s) s

/-! ### A faulty router (R329, R330) -/

def routerFaultCode : RouterFaultKind → Nat
  | .ecc => 0 | .routeMismatch => 1 | .bridgeLane => 2

/-- The die whose node serves a far address of this module. -/
def State.farDie (s : State) (a : Nat) : Option Nat :=
  if !(s.ownMod (gMod a)) then none
  else
    match s.far (gLoc a) with
    | .core c => some (dieOf c)
    | .group d _ => some d
    | .hbm => some ((s.hbmPlace (gLoc a)).stack / 4)
    | _ => none

/-- A task with a core on the die, or with a data-mover tag outstanding to a node of it. -/
def State.taskOnDie (s : State) (die : Nat) (x : TaskSt) : Bool :=
  x.coreIds.any (fun c => decide (dieOf c = die) || (s.core c).dmTags.any (fun g => decide (s.farDie g.req.far = some die)))

/-- A router stops (R329): the event, the first fault's record, the degraded record, and the abort of the die's tasks (R330 step 1). -/
def State.routerFail (s : State) (die cl kind port vc dnode : Nat) : State :=
  let i := 48 * die + cl
  if 2 ≤ die ∨ 48 ≤ cl ∨ (s.router i).faulty then s
  else
    let s := s.setRouter i { s.router i with faulty := true }
    let s := if kind = 0 then s.flag F.MESH_EVT_ECC i else if kind = 1 then s.flag F.MESH_EVT_ROUTE_MISMATCH i else s
    let s := if s.get F.MESH_FAULT_LOG_VALID i = 1 then s
      else s.wr ⟨.MESH_FAULT_LOG, i, 0⟩ (BitVec.ofNat 64 (2 ^ 63 + kind * 2 ^ 61 + port % 8 * 2 ^ 58 + vc % 4 * 2 ^ 56 + dnode % 256 * 2 ^ 48))
    let s := s.logHw 3 .MESH (if kind = 0 then 1 else 2) i (leBytes 8 (s.rd ⟨.MESH_FAULT_LOG, i, 0⟩).toNat)
    let s := s.propose ⟨2, coreId i 0, 0, 0, 0⟩
    s.tasks.foldl (fun s (t, x) =>
      if s.taskOnDie die x && x.abort.isNone && s.abortable t && decide (s.taskState t ≠ tsOUT) then
        (s.abortTask t (0xFFFF, 8) 2).modTask t (fun x => { x with fencedIn := true })
      else s) s

/-- ROUTER_FAULT (R329, R330). -/
def execRouterFault (die cl : Nat) (kind : RouterFaultKind) (port vc dnode : Nat) (s : State) : Host.Outcome State Fault Refusal :=
  .next (s.routerFail die cl (routerFaultCode kind) port vc dnode)

/-- BRIDGE_CRC_RETRY (R321): a beat is sent again; the sixteenth retry in a row on a lane makes the routers at its ends faulty.
Bridge 0 joins the dies with two lanes for each column; bridges 1 and 2 join die 0 and die 1 to the hub with one. -/
def execBridgeCrcRetry (bridge lane : Nat) (s : State) : Host.Outcome State Fault Refusal :=
  if 3 ≤ bridge ∨ (if bridge = 0 then 16 else 8) ≤ lane then .next s
  else
    let k := 16 * bridge + lane
    let n := lookD 0 s.laneRetry k + 1
    let s := { s with laneRetry := putD natLt 0 s.laneRetry k n }
    if n < 16 then .next s
    else if bridge = 0 then .next ((s.routerFail 0 (lane / 2) 2 1 0 (0x50 + lane / 2)).routerFail 1 (lane / 2) 2 1 0 (0x50 + lane / 2))
    else .next (s.routerFail (bridge - 1) (40 + lane) 2 3 0 (0x40 + lane))

/-- Cores of tasks that are being ended. -/
def State.endingCores (s : State) : List Nat :=
  (s.tasks.filter (fun t => decide (s.taskState t.1 = tsENDING))).flatMap (fun t => t.2.coreIds)

/-- A packet that the drain of a die discards: one of an aborted task, or one held by, or bound to enter, a stopped router. -/
def State.drains (s : State) (die cl : Nat) (p : Packet) : Bool :=
  (decide (p.src < 2048) && s.endingCores.contains p.src) || (s.router (48 * die + cl)).faulty
    || (match beyond cl (s.route die cl p.dnode) with
      | .router y _ => decide (1 ≤ s.route die cl p.dnode) && decide (s.route die cl p.dnode ≤ 4) && (s.router (48 * die + y)).faulty
      | .station _ => false)

/-- What is left in a die's routers and stations once that is discarded. -/
def State.dieRest (s : State) (die : Nat) : Nat :=
  (List.range 48).foldl (fun n cl =>
    let r := s.router (48 * die + cl)
    n + ((r.inq ++ r.outq).flatMap Prod.snd).countP (fun p => !(s.drains die cl p))) 0
  + (List.range 0x58).foldl (fun n node =>
    n + (lookD [] s.stq (nodeKey die node)).countP (fun p => !(s.drains die (nodeRow node * 8 + nodeCol node) p))) 0

/-- A core whose outstanding answers will not come. -/
def CoreSt.forget (x : CoreSt) : CoreSt :=
  { x with dmTags := [], staged := [], dmCmds := x.dmCmds.map (fun d => { d with open_ := 0, reqs := [], issuing := false }) }

/-- Discarding it, and the data-mover tags of the aborted tasks that wait for it. -/
def State.dieDrain (s : State) (die : Nat) : State :=
  let s' := (List.range 48).foldl (fun (s' : State) cl =>
    let r := s.router (48 * die + cl)
    s'.setRouter (48 * die + cl) { r with inq := [], outq := [], comb := [], mc := [] }) s
  let s' := (List.range 0x58).foldl (fun (s' : State) node => { s' with stq := putD natLt [] s'.stq (nodeKey die node) [] }) s'
  s.endingCores.foldl (fun s' c =>
    (s'.modCore c CoreSt.forget).dmSettle c) s'

/-- MESH_DRAIN_COMPLETE (R330 steps 2 to 4): the die's mesh is empty; the cores of the stopped routers are fenced, and every table and
multicast tree of the die is rewritten. -/
def execMeshDrainComplete (die : Nat) (s : State) : Host.Outcome State Fault Refusal :=
  if 2 ≤ die ∨ !(s.drainPending die) ∨ 0 < s.dieRest die then .next s
  else
    let s := s.dieDrain die
    let cls := (s.deadRouters die).filter (fun cl => decide (s.get F.CLU_FENCE_FENCED (48 * die + cl) ≠ 0xFFFF))
    let s := cls.foldl (fun s cl =>
      let cause := s.get F.ELOG_STATUS_NEXT_SEQ 0 - 1
      let s := (List.range 16).foldl (fun s n => s.fence (coreId (48 * die + cl) n)) s
      s.logRec 3 Blk.MESH.code 0x603 (48 * die + cl) 0xFF 0 (leBytes 4 (die * 2 ^ 16 + cl) ++ leBytes 4 0 ++ leBytes 4 cause)) s
    .next ((s.reroute die).pruneMc die)

/-! ### The decision (R542 to R546) -/

/-- The causes that allow a takeover (R542). -/
def eligible (x : TaskSt) (cause : Nat) : Bool :=
  x.desc.resume && !x.desc.spec && (
    if [2, 3, 4, 5, 7, 9, 0xA, 0xB, 0xD].contains cause then true
    else if cause = 6 ∨ cause = 0xC then x.desc.resumeSoft
    else if cause = 8 then decide (x.why = 2) || (decide (x.why = 3) && x.desc.resumeSoft)
    else false)

/-- No tag of the task is outstanding and the abort has reached every core (R529, R241); a fenced core discards its answers (R328). -/
def State.taskDrained (s : State) (x : TaskSt) : Bool :=
  x.coreIds.all (fun c => (s.core c).drain.isNone && (s.fenced c || ((s.core c).dmTags.isEmpty && s.coreIdle c)))

/-- Spare clusters of the NV list in its order (R584). -/
def State.spareList (s : State) : List Nat :=
  (List.range 8).filterMap (fun e =>
    let b := s.get F.NVCF_SPARE_CL_ENTRIES 0 / 2 ^ (8 * e) % 256
    if 128 ≤ b ∧ b % 64 < 48 then some (48 * (b / 64 % 2) + b % 64) else none)

/-- A spare cluster that is live and free: present, no core fenced, no program on it. -/
def State.spareOk (s : State) (cl : Nat) : Bool :=
  !(s.fusedCl.contains cl) && decide (s.get F.CLU_FENCE_FENCED cl 0 = 0) && !((s.router cl).faulty)
    && !(s.progs.any (fun p => p.cores.any (fun c => decide (cluInst c.2 = cl))))

/-- The spare cluster for a cluster: the first free one on the same die, else on the other (R543). -/
def State.spareFor (s : State) (cl : Nat) (taken : List Nat) : Option Nat :=
  let l := s.spareList.filter (fun k => s.spareOk k && !(taken.contains k))
  (l.find? (fun k => decide (k / 48 = cl / 48))).or l.head?

/-- The cores after each cluster with a fenced core is replaced as a whole; none when a spare is missing. -/
def State.remapTask (s : State) (x : TaskSt) : Option (List (Nat × Nat)) :=
  let bad := (List.range 96).filter (fun cl => x.coreIds.any (fun c => decide (cluInst c = cl))
    && x.coreIds.any (fun c => decide (cluInst c = cl) && s.fenced c))
  let r := bad.foldl (fun (acc : Option (List (Nat × Nat))) cl =>
    match acc with
    | none => none
    | some m => (s.spareFor cl (x.tried ++ m.map Prod.snd)).map (fun k => m ++ [(cl, k)])) (some [])
  r.map (fun m => x.cores.map (fun (l, c) =>
    match m.find? (fun p => decide (p.1 = cluInst c)) with
    | some p => (l, coreId p.2 (corein c))
    | none => (l, c)))

/-- Marks in `tried` that a resume on the same cores was rejected. -/
def triedSame : Nat := 0xFFFF

/-- When this module cannot take the task over: the spare module, else NO_SPARE (R545, R546). -/
def State.noSpare (s : State) (t : Nat) (x : TaskSt) (cause : Nat) : State :=
  if x.desc.spareMod ∧ x.desc.imageAddr ≠ 0 ∧ x.desc.ckptRec ≠ 0 ∧ x.reg ≠ 0 ∧ s.get F.NVCF_SPARE_MOD_VALID 0 = 1 then
    (s.hubMsg (s.get F.NVCF_SPARE_SPARE_MOD 0) 6 ([s.modId, t, cause] ++ x.desc.bytes.map BitVec.toNat)).modTask t (fun x => { x with moving := true })
  else s.endTask t 4 cause

/-- The RECOVERY load of a takeover (R512, R543). The hub's own request always finds a place in the loader's queue. -/
def State.recover (s : State) (t : Nat) (x : TaskSt) (m : List (Nat × Nat)) (tried : List Nat) : State :=
  let r : LoadReq := { occ := 3, mbx := none, tag := 0, addr := x.desc.imageAddr, report := 0, task := some t, remap := m }
  (({ s with loadQ := s.loadQ ++ [r] } : State).modTask t (fun x => { x with loading := true, tried := x.tried ++ tried })).setTaskState t tsRESUMING

/-- TAKEOVER_DECISION (R529, R542 to R546): once its tags have drained, an aborted task is taken over or ended. -/
def execTakeoverDecision (slot : Nat) (s : State) : Host.Outcome State Fault Refusal :=
  match s.task? slot with
  | none => .next s
  | some x =>
    match x.abort with
    | none => .next s
    | some (_, cause) =>
      if s.taskState slot ≠ tsENDING ∨ x.moving ∨ x.loading ∨ !(s.taskDrained x) ∨ s.drainPending 0 ∨ s.drainPending 1 then .next s
      else if x.why = 1 then .next (s.endTask slot 3 8)
      else if !(eligible x cause) then .next (s.endTask slot 2 cause)
      else if max 1 x.desc.resumeMax < s.get F.HUBC_TASK_RESUMES 0 slot + 1 then .next (s.endTask slot 6 cause)
      else if x.coreIds.all (fun c => !(s.fenced c)) then
        if x.tried.contains triedSame then .next (s.noSpare slot x cause) else .next (s.recover slot x x.cores [triedSame])
      else
        match s.remapTask x with
        | none => .next (s.noSpare slot x cause)
        | some m => .next (s.recover slot x m ((List.range 96).filter (fun cl =>
            m.any (fun p => decide (cluInst p.2 = cl)) && !(x.coreIds.any (fun c => decide (cluInst c = cl))))))

/-- A task resumes after its RECOVERY load (R543, R544). -/
def State.resumeTask (s : State) (t : Nat) (m : List (Nat × Nat)) : State :=
  match s.task? t with
  | none => s
  | some x =>
    let s := s.dropShared t x
    let s := x.coreIds.foldl (fun s c => if (s.core c).slot = t then s.modCore c (fun y => { y with slot := 0xFF }) else s) s
    let s := s.set F.HUBC_TASK_RESUMES 0 (s.get F.HUBC_TASK_RESUMES 0 t + 1) t
    (s.modTask t (fun x => { x with cores := m, takeovers := x.takeovers + 1, tried := [] })).launch t true

end Sys2Proof.Machine
end

