-- ==== Sys2Proof/Machine/Loader.lean ====
section
/-! DEFINITION. The loader (R512 to R517): the queue, one load, its commit and report, and unloading. -/

namespace Sys2Proof.Machine

open Sys2Proof

/-! ### Requests -/

/-- LOAD (R513, R603). -/
def execLoad (m : Nat) (s : State) : Host.Outcome State Fault Refusal :=
  match s.takeReq m 0x12 with
  | none => .next s
  | some (tag, a, s) =>
    let test := bitOf (a.getD 4 0) 0
    if a.length ≠ 5 ∨ 2 ≤ a.getD 4 0 then .next (s.respond m 0x12 tag 3)
    else if test && !(decide (s.get F.PERT_STATUS_ACTIVE 0 = 1) && bitOf (s.get F.PERT_STATUS_PERM 0) 6) then .next (s.respond m 0x12 tag 6)
    else if s.argAddr (arg64 a 0) 64 = .bad ∨ s.argAddr (arg64 a 2) 1024 = .bad then .next (s.respond m 0x12 tag 8)
    else if s.tripped then .next (s.respond m 0x12 tag 7)
    else if 16 ≤ s.loadQ.length then .next (s.respond m 0x12 tag 4)
    else
      let r : LoadReq := { occ := if test then 2 else 1, mbx := some m, tag := tag, addr := arg64 a 0, report := arg64 a 2 }
      .next (({ s with loadQ := s.loadQ ++ [r] } : State).respond m 0x12 tag 1)

/-- UNLOAD (R603). -/
def execUnload (m : Nat) (s : State) : Host.Outcome State Fault Refusal :=
  match s.takeReq m 0x13 with
  | none => .next s
  | some (tag, a, s) =>
    let id := arg64 a 0
    if a.length ≠ 2 then .next (s.respond m 0x13 tag 3)
    else if (s.progOf id).isNone then .next (s.respond m 0x13 tag 5)
    else if s.tasks.any (fun t => decide (t.2.prog = id) && decide (s.taskState t.1 ≠ tsHELD)) then .next (s.respond m 0x13 tag 7)
    else .next (({ s with progs := s.progs.filter (fun p => decide (p.id ≠ id)) } : State).respond m 0x13 tag 0)

/-! ### The report (R516, R517) -/

/-- The 32 bytes of a report or of a violation entry. -/
def reportBytes (v : Viol) (occ nviol : Nat) : List Byte :=
  leBytes 1 v.status ++ leBytes 1 occ ++ leBytes 1 nviol ++ leBytes 1 0 ++ leBytes 2 v.sect ++ leBytes 2 v.logical ++ leBytes 4 v.record
    ++ leBytes 2 v.cmdId ++ leBytes 2 0 ++ leBytes 4 v.iter ++ leBytes 4 v.detail ++ leBytes 8 v.aclk

def okViol : Viol := ⟨0, 0xFFFF, 0xFFFF, 0, 0, 0, 0, 0⟩

/-- The report of a load goes to its requester: the report address of a mailbox request, and an event; a START or RECOVERY report
other than OK also to the error log. -/
def State.report (s : State) (r : LoadReq) (id : Nat) (vs : List Viol) : State :=
  let v := vs.headD okViol
  let more := if r.occ = 2 then (vs.drop 1).take 31 else []
  let head := reportBytes v r.occ more.length
  let s := if r.occ = 1 ∨ r.occ = 2 then
      s.argWrite (s.argAddr r.report 1024) (head ++ more.flatMap (fun w => reportBytes w r.occ 0))
    else s
  let s := s.post { kind := 1, mbx := r.mbx, tag := r.tag, record := head }
  if (r.occ = 0 ∨ r.occ = 3) ∧ v.status ≠ 0 then s.logRec 0 Blk.HUBC.code (0x200 + v.status) 0 0xFF 0 (leBytes 8 id ++ head) else s

/-! ### The commit (R514) -/

/-- Where the loader keeps its copy of the image (R513, R515). -/
def imageBase : Nat := 0x005F80000000

/-- The copy of the image in pair 191. -/
def State.copyImage (s : State) (r : LoadReq) (o : LoaderOutcome) (n : Nat) : State :=
  match (if r.occ = 1 ∨ r.occ = 2 then s.argAddr r.addr n else ArgAddr.bad) with
  | .hbm l => s.copyMem l imageBase n
  | _ => s.writeMem imageBase ((o.bytes ++ List.replicate n 0).take n)

/-- Filling a pair with zeros through the MSUs (R263): every line is written whole, and each of the 256 MSUs writes its 32,768 blocks. -/
def State.zeroPair (s : State) (p : Nat) : State :=
  let s := s.injWrite 4 0 (p * 2 ^ 31) (2 ^ 31)
  let s := { s with bad := s.bad.filter (fun k => decide (k % 2 ^ 24 / 2 ^ 16 ≠ p)) }
  let s := { s with mem := s.mem.filter (fun c => decide (c.1 < p * 2 ^ 31) || decide ((p + 1) * 2 ^ 31 ≤ c.1)) }
  (List.range 256).foldl (fun s m => s.bump F.MSU_CNT_BLOCKS m 32768) s

/-- Setting a pair's mode: a change fills the pair with zeros (R263). -/
def State.setPair (s : State) (p : Nat) (loc : Bool) : State :=
  if s.pairLocal p = loc then s
  else
    ((List.range 8).foldl (fun s i =>
      let w := s.get F.HBMC_PAIR_LOCAL i (p / 64)
      s.set F.HBMC_PAIR_LOCAL i (if loc then w + 2 ^ (p % 64) else w - 2 ^ (p % 64)) (p / 64)) s).zeroPair p

/-- Code memory, and the allocation table at TABLE, of one core. -/
def State.loadCore (s : State) (img : Image) (bases : List (Nat × Nat)) (k : ImgCore) (c : Nat) : State :=
  let code := (img.code.drop k.codeOff).take k.codeLen
  let s := s.modCore c (fun x => { x with code := putBytes x.code 0 code })
  s.writeWin c k.table (img.allocs.flatMap (fun a => leBytes 8 (0xFFFF000000000000 + lookD 0 bases a.id)))

/-- The commit of a checked image; `fresh` places its allocations and writes INIT data, otherwise a takeover keeps both (R543). -/
def State.commitLoad (s : State) (img : Image) (map bases : List (Nat × Nat)) (key : Nat) (fresh : Bool) : State :=
  let j := img.relocated bases
  let sb := (s.planScales j bases).filterMap (fun x => x.2.map (fun b => (x.1, b)))
  let s := if fresh then
      let s := (j.allocs.filter ImgAlloc.inHbm).foldl (fun s (a : ImgAlloc) =>
        (pairsOf (lookD 0 bases a.id) a.size).foldl (fun s p => s.setPair p a.local_) s) s
      j.inits.foldl (fun s (x : ImgInit) => s.writeMem (lookD 0 bases x.alloc + x.off) x.bytes) s
    else s
  let s := j.cores.foldl (fun s (k : ImgCore) => s.loadCore j bases k (lookD k.core map k.logical)) s
  let old := s.progOf img.progId
  let p : Prog := { id := img.progId, img := img, key := key, cores := map, bases := bases,
                    sbase := if fresh then sb else (old.map Prog.sbase).getD sb }
  { s with progs := (if fresh then s.progs else s.progs.filter (fun q => decide (q.id ≠ img.progId))) ++ [p] }

/-! ### One load -/

/-- Bases by allocation ID; a HOT allocation lies in the window of its core. -/
def basesOf (img : Image) (map : List (Nat × Nat)) (l : List Nat) : List (Nat × Nat) :=
  (img.allocs.zip (l ++ List.replicate img.allocs.length 0)).map (fun (a, b) =>
    (a.id, if a.hint = 2 then winBase (lookD 0 map a.logical) + a.off else b))

/-- Keys and policy of the configuration image in use (R511). -/
def State.signPolicy (s : State) : Bool × List Nat :=
  match s.start.cfg with
  | some c => (c.requireSigned, c.keys)
  | none => (false, [])

/-- The index of the key of a signed image. -/
def keyIndex (img : Image) (keys : List Nat) : Nat :=
  match img.sig with
  | some (k, _) => (keys.findIdx? (fun x => decide (x = k))).getD 0xFF
  | none => 0xFF

/-- The core map of an image taken over from another module: its own core IDs, or else each cluster that cannot be used replaced by
a spare (R543, R545). -/
def State.spareMap (s : State) (img : Image) : List (Nat × Nat) :=
  let m := img.coreMap []
  let unfit (c : Nat) : Bool := !(s.corePresent c) || s.fenced c || (s.coresTaken img.progId false).contains c
  let bad := (List.range 96).filter (fun cl => m.any (fun p => decide (cluInst p.2 = cl) && unfit p.2))
  let r := bad.foldl (fun (acc : List (Nat × Nat)) cl =>
    match s.spareFor cl (acc.map Prod.snd) with
    | some k => acc ++ [(cl, k)]
    | none => acc) []
  m.map (fun (l, c) => match r.find? (fun p => decide (p.1 = cluInst c)) with
    | some p => (l, coreId p.2 (corein c))
    | none => (l, c))

/-- A checkpoint record's bytes: INSTAR and steps, when it is a record of slot `k` for `n` channels (R540). -/
def recordOf (k n : Nat) (bs : List Byte) : Option (Nat × List Nat) :=
  let i := leNat (bs.take 4)
  if bs.length < 16 + 4 * n ∨ i = 0 ∨ i % 2 ≠ k ∨ leNat ((bs.drop 4).take 2) ≠ n then none
  else some (i, (List.range n).map (fun j => leNat ((bs.drop (16 + 4 * j)).take 4)))

/-- The newer valid record of the two. -/
def newerRecord (n : Nat) (recs : List (List Byte)) : Option (Nat × List Nat) :=
  match recordOf 0 n (recs.getD 0 []), recordOf 1 n (recs.getD 1 []) with
  | some a, some b => if (b.1 + 2 ^ 32 - a.1) % 2 ^ 32 < 2 ^ 31 then some b else some a
  | some a, none => some a
  | none, b => b

/-- The task of a failed module starts here (R544, R545 step 4); none when no task slot is free. -/
def State.startTaken (s : State) (reg : SpareReg) (p : Prog) (recs : List (List Byte)) : Option State :=
  match (List.range 64).find? (fun t => (s.task? t).isNone) with
  | none => none
  | some t =>
    let r := newerRecord p.img.chans.length recs
    let x : TaskSt := { prog := p.id, desc := reg.desc, cores := p.cores, started := s.timeNs, takeovers := 1,
                        steps := (r.map Prod.snd).getD [] }
    let s := (s.wr ⟨.HUBC_TASK, 0, t⟩ 0).set F.HUBC_TASK_VALID 0 1 t
    let s := (s.set F.HUBC_TASK_RESUMES 0 1 t).wr ⟨.HUBC_TASK_E, 0, t⟩ 0
    let s := match r with
      | some (i, _) => (s.set F.HUBC_TASK_INSTAR 0 i t).set F.HUBC_TASK_CKPT_VALID 0 1 t
      | none => s
    some ((s.setTask t x).launch t true)

/-- What follows a takeover's load (R521, R543, R545): the task resumes; a rejected load goes back to the decision; a failed module
is answered when it asked. -/
def State.afterRecovery (s : State) (r : LoadReq) (ok : Bool) (img : Image) (map : List (Nat × Nat)) (recs : List (List Byte)) : State :=
  match r.task with
  | some t =>
    let killed := ((s.task? t).map (fun x => decide (x.why = 1))).getD false
    if ok && !killed then s.resumeTask t map else (s.modTask t (fun x => { x with loading := false })).setTaskState t tsENDING
  | none =>
    match s.taking.find? (fun k => decide (k.step = 2) && decide (k.reg.mod * 64 + k.reg.slot = r.report)) with
    | none => s
    | some k =>
      let s := { s with taking := s.taking.filter (fun q => decide (q.reg.mod * 64 + q.reg.slot ≠ r.report)) }
      let up : Option State := if ok then (match s.progOf img.progId with
        | some p => s.startTaken k.reg p recs
        | none => none) else none
      let s' := up.getD s
      if k.asked then s'.hubMsg k.reg.mod 7 [s.modId, k.reg.slot, if up.isSome then 0 else 1] else s'

/-- The image that a request names: the resident one, the failed task's, or the one its address holds. -/
def State.imageFor (s : State) (r : LoadReq) (o : LoaderOutcome) : Image :=
  if r.occ = 0 then ((s.start.cfg.bind CfgImage.resident).map Prod.fst).getD o.img
  else
    match r.task.bind s.task? with
    | some x => ((s.progOf x.prog).map Prog.img).getD o.img
    | none => o.img

/-- LOADER_RUN (R513): the oldest request is loaded, once the compute dies are up; the resident load is served first (R568). -/
def execLoaderRun (o : LoaderOutcome) (s : State) : Host.Outcome State Fault Refusal :=
  match s.loadQ with
  | [] => .next s
  | r :: rest =>
    if s.chrysalis || s.tripped || s.warmHold || decide (s.get F.NVCF_STATUS_PHASE 0 < 6) then .next s
    else
      let s := { s with loadQ := rest }
      let img := s.imageFor r o
      let own := r.task.bind s.task?
      let map := if own.isSome then img.coreMap r.remap else if r.occ = 3 then s.spareMap img else img.coreMap []
      let kept := (own.bind (fun x => s.progOf x.prog)).map Prog.bases
      let bases := match kept with
        | some b => basesOf img map (img.allocs.map (fun a => lookD 0 b a.id))
        | none => basesOf img map o.bases
      let (req, keys) := s.signPolicy
      let s := s.copyImage r o img.len
      let vs := s.allViols img req keys map bases (decide (r.occ = 3)) kept.isSome
      let vs := if r.occ = 2 then (sortViols vs).take 32 else (firstViol vs).toList
      let ok := vs.isEmpty && decide (r.occ ≠ 2)
      let s := if ok then s.commitLoad img map bases (keyIndex img keys) kept.isNone else s
      let s := s.report r img.progId vs
      let s := if r.occ = 0 then
          let s := ({ s with start := { s.start with resLoad := if ok then 2 else 3 } } : State).set F.NVCF_STATUS_LOADING 0 0
          let s := s.set F.NVCF_PHASE_T_TIME 0 ((s.now - s.romAt) / usAclk) 10
          if ok then s else (s.flag F.NVCF_EVT_LOAD_FAIL 0).startNotice 7
        else s
      .next (if r.occ = 3 then s.afterRecovery r ok img map o.recs else s)

end Sys2Proof.Machine
end

