-- ==== Sys2Proof/Machine/RegAddr.lean ====
section
/-! DEFINITION. Where the registers lie (R753 to R758): the register at an offset of a block, and the block at an offset of the
register space; NV register records (R562, R563). -/

namespace Sys2Proof.Machine

open Sys2Proof

/-! ### Inside a block -/

/-- A register found at an offset: its name, its member, and whether the offset is that of its high half. -/
structure RegHit where
  reg : Reg
  idx : Nat
  high : Bool
  deriving DecidableEq, Repr

/-- The member of one register that an offset names. -/
def Reg.memberAt (r : Reg) (off : Nat) : Option RegHit :=
  let i := r.info
  let idx := if i.stride = 0 then 0 else (off - i.off) / i.stride
  let rest := off - i.off - idx * i.stride
  if off < i.off ∨ i.count ≤ idx then none
  else if rest = 0 then some ⟨r, idx, false⟩
  else if rest = 4 ∧ i.wide then some ⟨r, idx, true⟩
  else none

/-- The register at an offset of a block. The core's mailbox block holds three ends (R597): what lies above +0x40 repeats the
registers of an end. -/
def regAt (b : Blk) (off : Nat) : Option RegHit := (Blk.regs b).findSome? (fun r => r.memberAt off)

/-- Registers of a mailbox end (R616), and those of a core's block (R617). -/
def endRegs : List Reg := [.MBX_TX, .MBX_RX, .MBX_STAT, .MBX_DB, .MBX_IEN]
def inboxRegs : List Reg := [.MBX_RX, .MBX_STAT, .MBX_IEN]
def coreMbxRegs : List Reg := [.MBX_CTX, .MBX_CDB, .MBX_CFREE, .MBX_HIRQ]

def findReg (l : List Reg) (off : Nat) : Option RegHit := l.findSome? (fun r => r.memberAt off)

/-- The register at an offset of a core's mailbox block. -/
def coreMbxAt (off : Nat) : Option RegHit :=
  if off < 0x40 then findReg endRegs off
  else if off < 0x80 then (findReg endRegs (off - 0x40)).map (fun h => { h with idx := 1 })
  else if 0x100 ≤ off ∧ off < 0x140 then (findReg inboxRegs (off - 0x100)).map (fun h => { h with idx := 2 })
  else findReg coreMbxRegs off

/-- Registers of a PMON instance; the hub's own holds PMON_GFREEZE and nothing of a counter bank (R735). -/
def pmonAt (hub : Bool) (off : Nat) : Option RegHit :=
  if hub then findReg [.PMON_GFREEZE] off else findReg [.PMON_CTRL, .PMON_WRAP, .PMON_CFG, .PMON_CNT] off

/-! ### The register space -/

/-- A place in the register space: block, instance (R758), register. -/
structure RegPlace where
  blk : Blk
  inst : Nat
  hit : RegHit
  deriving DecidableEq, Repr

def RegPlace.key (p : RegPlace) : RKey := ⟨p.hit.reg, p.inst, p.hit.idx⟩

def placeOf (b : Blk) (inst off : Nat) : Option RegPlace := (regAt b off).map (fun h => ⟨b, inst, h⟩)
def pmonPlace (code inst off : Nat) : Option RegPlace := (pmonAt (decide (code = 0x1A)) off).map (fun h => ⟨.PMON, code * 2048 + inst, h⟩)

/-- A core page (R754). -/
def corePage (c off : Nat) : Option RegPlace :=
  if off < 0x1C00 then
    placeOf ([Blk.CC, .ME, .VE, .DM, .SU, .SPD, .ACB].getD (off / 0x400) .CC) c (off % 0x400)
  else if off < 0x2400 then placeOf .TRF c (off - 0x1C00)
  else if off < 0x2800 then placeOf .SYNC c (off - 0x2400)
  else if off < 0x2C00 then (coreMbxAt (off - 0x2800)).map (fun h => ⟨.MBX, c, h⟩)
  else if 0x3000 ≤ off ∧ off < 0x3700 then pmonPlace ([1, 2, 3, 4, 5, 6, 8].getD ((off - 0x3000) / 0x100) 1) c (off % 0x100)
  else none

/-- A cluster slot (R755). -/
def clusterPage (cl off : Nat) : Option RegPlace :=
  if off < 0x100 then placeOf .CLU cl off
  else if off < 0x200 then placeOf .VAT cl (off - 0x100)
  else if off < 0x300 then pmonPlace 0xD cl (off - 0x200)
  else if 0x800 ≤ off then placeOf .MESH cl (off - 0x800)
  else none

/-- The hub blocks (R757). -/
def hubPage (o : Nat) : Option RegPlace :=
  if o < 0x10000 then placeOf .HUBC 0 o
  else if o < 0x1A000 then
    placeOf ([Blk.PCIE, .RST, .CLK, .PWR, .THM, .SAFE, .ELOG, .PERT, .NVCF, .TIME].getD ((o - 0x10000) / 0x1000) .PCIE) 0 (o % 0x1000)
  else if o < 0x1B000 then pmonPlace 0x1A 0 (o - 0x1A000)
  else if o < 0x1C000 then pmonPlace 0x13 0 (o - 0x1B000)
  else if 0x20000 ≤ o ∧ o < 0x30000 then (findReg endRegs (o % 0x1000)).map (fun h => ⟨.MBX, 2048, { h with idx := (o - 0x20000) / 0x1000 }⟩)
  else if 0x40000 ≤ o ∧ o < 0x64000 then
    let n := (o - 0x40000) / 0x1000
    if o % 0x1000 < 0x800 then placeOf .EVL n (o % 0x1000) else pmonPlace 0xF n (o % 0x1000 - 0x800)
  else if 0x80000 ≤ o ∧ o < 0xC0000 then placeOf .EVLC 36 (o - 0x80000)
  else if 0xC0000 ≤ o ∧ o < 0xE0000 then (regAt .RCHE (o - 0xC0000)).map (fun h => ⟨.RCHE, 0, h⟩)
  else if 0xE0000 ≤ o ∧ o < 0xE1000 then pmonPlace 0xC 256 (o - 0xE0000)
  else none

/-- The register at an offset of the register space (R753 to R757); none is a hole. -/
def regPlace (o : Nat) : Option RegPlace :=
  if o < 0x2000000 then (if o / 0x4000 / 16 % 64 < 48 then corePage (o / 0x4000) (o % 0x4000) else none)
  else if o < 0x2080000 then
    let k := (o - 0x2000000) / 0x1000
    if k % 64 < 48 then clusterPage (48 * (k / 64) + k % 64) (o % 0x1000) else none
  else if o < 0x2088000 then
    let i := (o - 0x2080000) / 0x1000
    if o % 0x1000 < 0x800 then placeOf .HBMC i (o % 0x1000) else pmonPlace 0xB i (o % 0x1000 - 0x800)
  else if 0x2090000 ≤ o ∧ o < 0x20A0000 then placeOf .MSU ((o - 0x2090000) / 0x100) (o % 0x100)
  else if 0x3000000 ≤ o ∧ o < 0x4000000 then hubPage (o - 0x3000000)
  else none

/-! ### Register records of the configuration image (R562, R563) -/

/-- The blocks that a BLOCK number names (R706), with the instances a REGS record can give (R758). The common EVL instance is 36, the
reduction-channel engine 256 of MSU. -/
def recBlocks (code : Nat) : List (Blk × List Nat) :=
  let cores := (List.range 96).flatMap (fun cl => (List.range 16).map (coreId cl))
  let one (b : Blk) (l : List Nat) := [(b, l)]
  match code with
  | 0x1 => one .CC cores | 0x2 => one .ME cores | 0x3 => one .VE cores | 0x4 => one .DM cores | 0x5 => one .SU cores | 0x6 => one .SPD cores
  | 0x7 => one .ACB cores | 0x8 => one .TRF cores | 0x9 => one .CLU (List.range 96) | 0xA => one .VAT (List.range 96)
  | 0xB => one .HBMC (List.range 8) | 0xC => [(.MSU, List.range 256), (.RCHE, [256])] | 0xD => one .MESH (List.range 96)
  | 0xE => one .SYNC cores | 0xF => [(.EVL, List.range 36), (.EVLC, [36])] | 0x10 => one .PCIE [0] | 0x11 => one .MBX (cores ++ [2048])
  | 0x12 => one .HUBC [0] | 0x13 => one .TIME [0] | 0x14 => one .CLK [0] | 0x15 => one .RST [0] | 0x16 => one .PWR [0]
  | 0x17 => one .THM [0] | 0x18 => one .SAFE [0] | 0x19 => one .ELOG [0] | 0x1B => one .PERT [0] | 0x1C => one .NVCF [0]
  | _ => []

/-- The instance under which the register file keeps a block's registers: the engine's are kept under 0. -/
def fileInst (b : Blk) (inst : Nat) : Nat := if b = .RCHE then 0 else inst

/-- An instance that this module has: those of a fused cluster's cores and its vat are absent. -/
def State.instPresent (s : State) (b : Blk) (i : Nat) : Bool :=
  if b.inCore || (decide (b = .MBX) && decide (i < 2048)) then s.corePresent i
  else if b = .VAT then !(s.fusedCl.contains i) else true

/-- The registers a record writes: block, instances present, register. None when it names no block, instance or register. -/
def State.recTargets (s : State) (r : RegsRec) : Option (Blk × List Nat × RegHit) :=
  let hits := (recBlocks r.block).filterMap (fun (b, l) =>
    let l := if r.inst = 0xFFFF then l.filter (s.instPresent b) else l.filter (fun i => decide (i = r.inst) && s.instPresent b i)
    if l.isEmpty then none
    else (if b = .MBX ∧ r.inst ≠ 2048 then coreMbxAt r.off else regAt b r.off).map (fun h => (b, l, h)))
  hits.head?

/-- Fields that other sections of the image set: the route table (ROUTES), the expected partners (EXPECT), the spares (SPARES). -/
def sectionReg (r : Reg) : Bool :=
  decide (r = .EVL_ROUTE) || decide (r = .NVCF_NB) || decide (r = .NVCF_SPARE) || decide (r = .NVCF_SPARE_CL)

/-- Mask of the NV fields of a register. -/
def Reg.nvMask (r : Reg) : Word := (r.info.fields.filter (fun f => decide (f.src = .nv))).foldl (fun w f => w ||| f.mask) 0

/-- Value and mask of a record moved to the register's own bits. -/
def RegHit.place (h : RegHit) (v : Nat) : Word := BitVec.ofNat 64 (if h.high then v % 2 ^ 32 * 2 ^ 32 else v)

/-- A record touches NV fields only, of a register and instance that exist (R563). -/
def State.recOk (s : State) (r : RegsRec) : Bool :=
  match s.recTargets r with
  | some (_, _, h) => decide (h.place r.mask &&& ~~~h.reg.nvMask = 0) && (h.reg.info.wide || decide (r.mask < 2 ^ 32))
  | none => false

/-- Every NV field of every instance is covered by some record (R563); fields that other sections set are covered by them. -/
def State.nvCovered (s : State) (l : List RegsRec) : Bool :=
  (List.range 0x1D).all (fun code => (recBlocks code).all (fun (b, insts) =>
    (Blk.regs b).all (fun reg =>
      decide (reg.nvMask = 0) || sectionReg reg ||
        insts.all (fun i => !(s.instPresent b i) || (List.range reg.info.count).all (fun j =>
          let m := l.foldl (fun (w : Word) r =>
            if r.block = code ∧ (r.inst = 0xFFFF ∨ r.inst = i) then
              match reg.memberAt r.off with
              | some h => if h.idx = j then w ||| h.place r.mask else w
              | none => w
            else w) 0
          decide (reg.nvMask &&& ~~~m = 0))))))

/-- Applying a record to the instances of its block that `which` accepts. -/
def State.applyRec (s : State) (which : Blk → Bool) (r : RegsRec) : State :=
  match s.recTargets r with
  | some (b, l, h) =>
    if which b then
      l.foldl (fun s i =>
        let k : RKey := ⟨h.reg, fileInst b i, h.idx⟩
        let m := h.place r.mask
        s.wr k ((s.rd k &&& ~~~m) ||| (h.place r.value &&& m))) s
    else s
  | none => s

/-- Records applied in order; a later one overrides (R563). -/
def State.applyRecs (s : State) (which : Blk → Bool) (l : List RegsRec) : State := l.foldl (fun s r => s.applyRec which r) s

end Sys2Proof.Machine
end

