-- ==== Sys2Proof/Machine/Resets.lean ====
section
/-! DEFINITION. Resets and clocks (R621 to R641): episodes, what each reach does, the reset record, watchdogs, lock-up detectors, the
clock monitor. -/

namespace Sys2Proof.Machine

open Sys2Proof

def State.modStart (s : State) (f : StartSt → StartSt) : State := { s with start := f s.start }
def State.modSafe (s : State) (f : SafeSt → SafeSt) : State := { s with safe := f s.safe }
def State.modWatch (s : State) (f : WatchSt → WatchSt) : State := { s with watch := f s.watch }

/-! ### What the reaches do to the state -/

/-- The block beside which a PMON instance sits (R758). -/
def pmonBlk (inst : Nat) : Blk :=
  match inst / 2048 with
  | 0x9 => .CLU | 0xA => .VAT | 0xB => .HBMC | 0xC => if inst % 2048 = 256 then .RCHE else .MSU | 0xD => .MESH | 0xE => .SYNC
  | 0xF => .EVL | 0x13 => .TIME | 0x1A => .PMON | _ => .CC

/-- Register instances that a warm reset covers (R622): the compute dies, the link instances, the reduction-channel engine, core
mailboxes, the PERT controls, and the PMON instances beside them. -/
def warmCover (k : RKey) : Bool :=
  let b := k.reg.info.blk
  if b = .PMON then (pmonBlk k.inst).warm
  else if b = .MBX then decide (k.inst < 2048)
  else if b = .PERT then decide (k.reg ≠ .PERT_STATUS)
  else b.warm

/-- Fields that no reset source reaches (R623), and those derived from the unit. -/
def keepBackup (f : Field) : Bool := decide (f.src = .backup) || decide (f.src = .chanB) || decide (f.src = .unit)

/-- Every task ends with status ABORTED and cause 0x08, without a takeover; speculative windows are discarded (R628, R695). -/
def State.endAll (s : State) : State :=
  s.tasks.foldl (fun s (t, x) =>
    if s.taskState t = tsHELD then ((s.resolve x.desc false).dropTask t).wr ⟨.HUBC_TASK, 0, t⟩ 0
    else
      let s := if [tsSTARTING, tsRUNNING, tsSWITCHING].contains (s.taskState t) then s.abortTask t (0xFFFF, 8) 5
        else s.modTask t (fun x => { x with abort := some (0xFFFF, 8), why := 5 })
      s.endTask t 2 8) s

/-- Every waiting load ends with report STATUS 0x15, BUSY (R628). -/
def State.endLoads (s : State) : State :=
  ({ s with loadQ := [] } : State) |> fun s' =>
    s.loadQ.foldl (fun (s' : State) r => s'.report r 0 [{ okViol with status := 0x15 }]) s'

/-- Host accesses on their way through BAR4 end as Unsupported Request (R629). -/
def State.endBar4 (s : State) : State :=
  s.hubTags.foldl (fun (s : State) h => if h.kind = 3 ∧ h.p.typ = 0 then s.send (.hostCpl h.p.rtag false []) else s) s

/-- The compute dies and the links lose what they hold (R628): engines, queues, packets, links, hub tags. -/
def State.clearDies (s : State) : State :=
  { s with cores := [], vats := [], routers := [], stq := [], deliv := [], hbm := [], msus := [], nodes := [], links := [], hubTags := [],
           laneRetry := [], rchFault := [], rchSig := [], rchBack := [], dieBase := s.now,
           inj := s.inj.filter (fun t => decide (t.unit ≠ 2) && decide (t.unit ≠ 3)),
           hst := { s.hst with mbx := s.hst.mbx.filter (fun q => decide (q.1 < 4096)),
                               bells := s.hst.bells.filter (fun b => decide (b.1 < 4096)) } }

/-- The actions of warm reach (R628, R629). -/
def State.warmReset (s : State) : State :=
  let s := s.endAll.endLoads.endBar4
  let s := (List.range 36).foldl (fun s n => s.linkDown n) ({ s with hubTags := [] } : State)
  let s := (s.resetRegs warmCover keepBackup).clearDies
  let s := { s with progs := [], tasks := [], taking := [], warmHold := true, lockHub := s.started || s.lockHub, started := false }
  (s.set F.NVCF_STATUS_READY 0 0).modStart (fun x => { x with warm := true, resLoad := 0 })

/-- The actions of module and cold reach (R630, R631): the compute-die rails off, links, PCIe and Ethernet down, the valve driver off, the
hub reset. The backup domain, channel B, the eFuse, one-time values and NV memory stay. -/
def State.hubReset (s : State) : State :=
  let s := s.setTstate (s.tstate) 0
  let s := s.resetRegs (fun _ => true) keepBackup
  { pending := s.pending, now := s.now, free := s.free, fusedCl := s.fusedCl, regs := s.regs, bus := s.bus,
    pers := s.pers, props := s.props, out := s.out, tbAt := s.ticks, romAt := s.now, dieBase := s.now, episode := s.episode, fuse := s.fuse,
    start := { backupOk := s.start.backupOk, counted := s.start.counted, withdrawn := s.start.withdrawn },
    pwr := { s.pwr with samples := [], overAt := none, goodAt := none, shedTasks := [], idle := [], iAcc := 0, floor := 0, loop := false,
                        valveAt := none, flowAt := none, turning := [], temps := [], energyFrac := [] },
    safe := { s.safe with missA := 0, out := [] },
    hst := { telem := s.hst.telem, nv := s.hst.nv, ppsTerm := s.hst.ppsTerm, modRstLow := s.hst.modRstLow, auxLost := s.hst.auxLost },
    watch := { kick := s.now } }

/-- The test token ends (R724): every PERT control returns to its Reset value. -/
def State.dropToken (s : State) : State :=
  (s.resetRegs (fun k => decide (k.reg.info.blk = .PERT)) (fun _ => false)).modHst (fun h => { h with token := none })

/-! ### Episodes (R624, R625, R636) -/

/-- The record of an episode in the backup domain: its entry RST_HIST_0. -/
def State.histWrite (s : State) (e : Episode) : State :=
  s.wr ⟨.RST_HIST, 0, 0⟩ (BitVec.ofNat 64 (e.seconds * 2 ^ 32 + 2 ^ 31 + (3 - e.reach) * 2 ^ 29 + e.phase % 16 * 2 ^ 25
    + e.domain % 64 * 2 ^ 16 + e.cause % 2 ^ 10))

/-- The older entries move up one place; 16 are kept. -/
def State.histShift (s : State) : State :=
  (List.range 15).foldl (fun (s' : State) n => s'.wr ⟨.RST_HIST, 0, n + 1⟩ (s.rd ⟨.RST_HIST, 0, n⟩)) s

/-- Causes that count a start as failed (R621): 3 HUB_WDOG, 4 CLK_FAIL, 5 HUB_LOCKUP. -/
def causeCounts (cause : Nat) : Bool := bitOf cause 3 || bitOf cause 4 || bitOf cause 5

/-- The actions when the reach of an episode has become `reach` from `was`. -/
def State.reachActions (s : State) (was reach : Nat) : State :=
  if reach ≤ was then s else if reach = 1 then s.warmReset else s.hubReset

/-- A source asserts (R624, R636): a new episode, or one that it joins and may widen. `rel` is when it releases by itself. -/
def State.assertReset (s : State) (src reach : Nat) (rel : Option Nat) (domain : Nat := 63) : State :=
  let bits := 2 ^ src + (if src = 0 ∧ s.start.withdrawn then 2 ^ 9 else 0)
  let s := if src = 0 then s.modStart (fun x => { x with withdrawn := false }) else s
  match s.episode with
  | none =>
    let e : Episode := { reach := reach, cause := bits, held := [(src, rel)], domain := domain, phase := s.get F.NVCF_STATUS_PHASE 0,
                         seconds := s.seconds, failed := causeCounts bits, lastRel := s.now }
    let s := ((s.histShift).histWrite e).bump F.RST_COUNT_COUNT 0
    ({ s with episode := some e } : State).reachActions 0 reach
  | some e =>
    let cause := e.cause ||| bits
    let e' : Episode := { e with reach := max e.reach reach, cause := cause, held := e.held.filter (fun h => decide (h.1 ≠ src)) ++ [(src, rel)],
                                 domain := if domain = 63 then e.domain else domain, failed := causeCounts cause }
    ({ s.histWrite e' with episode := some e' } : State).reachActions e.reach e'.reach

/-- A source that was held releases at `t`. -/
def State.releaseSource (s : State) (src t : Nat) : State :=
  match s.episode with
  | some e => { s with episode := some { e with held := e.held.map (fun h => if h.1 = src ∧ h.2.isNone then (src, some t) else h) } }
  | none => s

/-- RESET_RELEASE (R625, R630, R641): every source has released; 10 µs after the last release the reset ends and start-up runs. -/
def execResetRelease (s : State) : Host.Outcome State Fault Refusal :=
  match s.episode with
  | none => .next s
  | some e =>
    if e.held.any (fun h => h.2.isNone) then .next s
    else
      let s := s.at_ (e.held.foldl (fun t h => max t (h.2.getD 0)) e.lastRel + 10 * usAclk)
      let s := if s.start.counted && !e.failed then s.set F.NVCF_STATUS_ATTEMPTS 0 (s.get F.NVCF_STATUS_ATTEMPTS 0 - 1) else s
      let s := ({ s with episode := none } : State).modStart (fun x => { x with counted := false, phaseAt := s.now })
      if e.reach = 1 then .next (s.set F.NVCF_STATUS_PHASE 0 5)
      else
        let s := ((s.set F.CLK_STATUS_XO_OK 0 1).set F.CLK_STATUS_ROOT_LOCK 0 1).set F.NVCF_STATUS_PHASE 0 (if e.reach = 2 then 1 else 0)
        .next { s with romAt := s.now, watch := { kick := s.now } }

/-! ### The sources (R621) -/

/-- POWER_ON_RESET: cold; the rails are good now, and the source holds for 1 ms more. -/
def execPowerOnReset (s : State) : Host.Outcome State Fault Refusal := .next (s.assertReset 0 3 (some (s.now + msAclk)))

/-- BROWN_OUT: cold; held while below the threshold, then 1 ms. -/
def execBrownOut (released : Bool) (s : State) : Host.Outcome State Fault Refusal :=
  if released then .next (s.releaseSource 1 (s.now + msAclk)) else .next (s.assertReset 1 3 none)

/-- PIN_RESET: MOD_RST_N, low for 1 µs or released. -/
def execPinReset (low : Bool) (s : State) : Host.Outcome State Fault Refusal :=
  if low then .next ((s.modHst (fun h => { h with modRstLow := some (h.modRstLow.getD s.now) })).assertReset 2 2 none)
  else .next ((s.modHst (fun h => { h with modRstLow := none })).releaseSource 2 s.now)

/-- The pin source asserted from inside the hub (R621): marked SELF. -/
def State.selfReset (s : State) : State := s.assertReset 8 2 (some s.now)

/-- The hub is up: no reset that covers it is in progress. -/
def State.hubUp (s : State) : Bool :=
  match s.episode with
  | some e => decide (e.reach ≤ 1)
  | none => true

/-- The hub watchdog's period (R634): 2,000 ms until CONFIG, then RST_HWDOG; none when it is off. -/
def State.hwdogPeriod (s : State) : Option Nat :=
  if s.get F.NVCF_STATUS_PHASE 0 ≤ 3 then some (2000 * msAclk)
  else if s.get F.RST_HWDOG_EN 0 = 1 then some (max 1 (s.get F.RST_HWDOG_PERIOD 0) * msAclk) else none

/-- HUB_WATCHDOG_EXPIRY (R634). -/
def execHubWatchdogExpiry (s : State) : Host.Outcome State Fault Refusal :=
  match s.hwdogPeriod with
  | some p =>
    if s.hubUp then
      let s := s.at_ (s.watch.kick + p)
      .next (s.assertReset 3 2 (some (s.now + 10 * usAclk)))
    else .next s
  | none => .next s

/-- HWDOG_WARN (R634): half of PERIOD without a kick. -/
def execHwdogWarn (s : State) : Host.Outcome State Fault Refusal :=
  match s.hwdogPeriod with
  | some p =>
    if 3 < s.get F.NVCF_STATUS_PHASE 0 ∧ s.hubUp then .next ((s.at_ (s.watch.kick + p / 2)).flag F.RST_EVT_HWDOG_WARN 0) else .next s
  | none => .next s

/-- RST_HWDOG_KICK (R634, R645): any value reloads the watchdog. -/
def State.kickWrite (s : State) : State := s.modWatch (fun w => { w with kick := s.now })
def execRstHwdogKick (m : Master) (_v : Word) (s : State) : Host.Outcome State Fault Refusal := .next (s.regCmd m .RST 0 State.kickWrite)

/-- HUB_LOCKUP (R635). -/
def execHubLockup (s : State) : Host.Outcome State Fault Refusal :=
  if s.hubUp then .next (s.assertReset 5 2 (some (s.now + 10 * usAclk))) else .next s

/-- A write to RST_CTRL (R644): the hub's and the host's; a wrong key has no effect and is recorded. -/
def State.rstCtrlWrite (s : State) (m : Master) (v : Word) : State :=
  let n := v.toNat % 2 ^ 32
  if m ≠ .hub ∧ m ≠ .host then s.logAccess .RST 0 1 m.code 0x200003011088 n
  else if n / 2 ^ 16 ≠ 0x5745 then s.logAccess .RST 0 2 m.code 0x200003011088 n
  else if n % 2 = 1 then s.assertReset 6 1 (some (s.now + 10 * usAclk)) else s

/-- WARM_RESET_REQUEST (R621, R644). -/
def execWarmResetRequest (m : Master) (v : Word) (s : State) : Host.Outcome State Fault Refusal :=
  .next (s.regCmd m .RST 0 (fun s => s.rstCtrlWrite m v))

/-- DEBUG_RESET (R621): the unlocked debug port's reset instruction. -/
def execDebugReset (s : State) : Host.Outcome State Fault Refusal :=
  if s.hubUp ∧ s.get F.HUBC_MGMT_DBG_UNLOCKED 0 = 1 then .next (s.assertReset 7 1 (some (s.now + 10 * usAclk))) else .next s

/-! ### Core reach (R626, R627, R632, R633) -/

/-- A core watchdog (1) or lock-up (2) source asserts: the core stops and the hub aborts its task. During an episode of wider reach it
joins that episode. -/
def State.coreReset (s : State) (c src unit : Nat) : State :=
  if s.episode.isSome || !(s.corePresent c) || !(s.clusterOn (cluInst c)) || s.fenced c then s
  else
    match (s.core c).drain with
    | some (t, b, u) => s.modCore c (fun x => { x with drain := some (t, b ||| src, if src = 2 then unit else u) })
    | none =>
      let s := (s.ccState c 0).modCore c (fun x =>
        { x with drain := some (s.now + max 1 (s.get F.RST_CFG_DRAIN 0) * msAclk, src, if src = 2 then unit else 7), push := none })
      match s.taskAt c with
      | some (t, x) =>
        if s.abortable t ∧ x.abort.isNone then s.abortTask t (x.logicalOf c, 8) 3 else s
      | none => s

/-- CORE_WATCHDOG_EXPIRY (R632). -/
def execCoreWatchdogExpiry (core : Nat) (s : State) : Host.Outcome State Fault Refusal :=
  if s.get F.CC_WDOG_EN core = 1 ∧ wdCounts (s.get F.CC_STATE_STATE core) ∧ !(s.cutOff core) then
    .next ((s.at_ (s.now + s.wdNow core)).coreReset core 1 7)
  else .next s

/-- Any write to CC_WDOG reloads COUNT (R649). -/
def State.wdogWrite (s : State) (m : Master) (c : Nat) (v mask : Word) (addr : Nat) : State :=
  let s := s.accWrite m ⟨.CC_WDOG, c, 0⟩ v mask addr
  s.modCore c (fun x => { x with wdLeft := s.get F.CC_WDOG_PERIOD c * 1024, wdAt := s.now })

/-- CC_WDOG_WRITE (R649). -/
def execCcWdogWrite (m : Master) (core : Nat) (v : Word) (s : State) : Host.Outcome State Fault Refusal :=
  .next (s.regCmd m .CC core (fun s => s.wdogWrite m core v lowMask (0x200000000000 + 0x4000 * core + 0x78)))

/-- CORE_LOCKUP (R633): a progress monitor trips: 0 CC, 1 ME, 2 VE, 3 DM, 4 SU. -/
def execCoreLockup (core unit : Nat) (s : State) : Host.Outcome State Fault Refusal :=
  if unit < 5 then .next (s.coreReset core 2 unit) else .next s

/-- The data-mover tags of the task that a draining core belongs to, or of the core alone. -/
def State.drainTags (s : State) (c : Nat) : Bool :=
  match s.taskAt c with
  | some (_, x) => x.coreIds.any (fun d => !(s.core d).dmTags.isEmpty)
  | none => !(s.core c).dmTags.isEmpty

/-- CORE_RESET_DRAIN_END (R626 steps 3 and 4, R627): no tag of the task is outstanding, or RST_CFG.DRAIN has passed. -/
def execCoreResetDrainEnd (core : Nat) (s : State) : Host.Outcome State Fault Refusal :=
  match (s.core core).drain with
  | none => .next s
  | some (t, b, u) =>
    let t0 := t - max 1 (s.get F.RST_CFG_DRAIN 0) * msAclk
    let s := s.at_ (if s.drainTags core then t else t0 + 320)
    let slot := (s.core core).slot
    let s := (s.resetCore core).modCore core (fun x => { x with resets := x.resets + 1, slot := slot })
    let limit := decide (max 1 (s.get F.RST_CFG_CORE_LIMIT 0) ≤ (s.core core).resets)
    let s := if s.get F.RST_CORE_LOG_VALID 0 = 1 then s
      else s.wr ⟨.RST_CORE_LOG, 0, 0⟩ (BitVec.ofNat 64 (2 ^ 63 + b * 2 ^ 61 + u * 2 ^ 58 + b2n limit * 2 ^ 57 + core * 2 ^ 32))
    let s := ((s.bump F.RST_CORE_CNT_COUNT 0).flag F.RST_EVT_CORE_RESET 0).logHw 2 .RST 1 0 (leBytes 8 (s.rd ⟨.RST_CORE_LOG, 0, 0⟩).toNat)
    if limit then
      let s := ((s.flag F.RST_EVT_CORE_FENCED 0).logHw 3 .RST 2 0 (leBytes 8 (s.rd ⟨.RST_CORE_LOG, 0, 0⟩).toNat)).fenceDegraded core
      match s.taskAt core with
      | some (t, x) => .next (if x.why = 3 then s.modTask t (fun x => { x with why := 2, fencedIn := true }) else s)
      | none => .next s
    else .next s

/-! ### Clock monitoring (R637 to R641) -/

/-- Nominal frequencies in kHz of the clock-failure class and of domain 53; none where the rate depends on the partner. -/
def clkNominal (i : Nat) : Option Nat :=
  if i = 2 ∨ i = 5 then some 1266667
  else if i = 1 ∨ i = 4 ∨ i = 7 then some 950000
  else if i < 8 then some 1900000
  else if 44 ≤ i ∧ i < 52 then some 2533333
  else if i = 53 then some 125000
  else none

/-- Domains whose failure is a clock-failure reset (R638, R640). -/
def clkFatal (i : Nat) : Bool := decide (i < 8) || (decide (44 ≤ i) && decide (i < 52)) || decide (i = 57)

/-- Domains the monitor counts (R640). -/
def clkCounted (i : Nat) : Bool := decide (i < 54) || decide (i = 57)

/-- The die whose clocks a domain belongs to. -/
def clkDie (i : Nat) : Option Nat :=
  if i < 3 ∨ (44 ≤ i ∧ i < 48) then some 0 else if (3 ≤ i ∧ i < 6) ∨ (48 ≤ i ∧ i < 52) then some 1 else none

/-- A domain runs: a compute die's clocks once its PLL has locked, a link's while the link is not DOWN, PCIe with the data link,
Ethernet when enabled. -/
def State.clkRuns (s : State) (i : Nat) : Bool :=
  match clkDie i with
  | some d => decide (s.get (if d = 0 then F.CLK_STATUS_C0_LOCK else F.CLK_STATUS_C1_LOCK) 0 = 1)
  | none =>
    if 8 ≤ i ∧ i < 44 then decide (s.linkState (i - 8) ≠ 0)
    else if i = 52 then decide (s.get F.PCIE_STATUS_DL_ACTIVE 0 = 1)
    else if i = 53 then decide (s.get F.HUBC_MGMT_ETH_EN 0 = 1)
    else clkCounted i

/-- A measurement within CLK_MON_CFG.TOL of nominal (R640); a rate-dependent clock only has to be there. -/
def State.clkOk (s : State) (i f : Nat) : Bool :=
  let tol := max 1 (s.get F.CLK_MON_CFG_TOL 0)
  let near (n : Nat) : Bool := decide (f * 1000 ≤ n * (1000 + tol)) && decide (n * (1000 - tol) ≤ f * 1000)
  match clkNominal i with
  | some n => near n
  | none => if i = 57 then [200000, 100000, 50000, 25000].any near else decide (0 < f)

/-- Host-window reads that are outstanding end as refused with reason UNROUTABLE (R595). -/
def State.endHostWindow (s : State) : State :=
  (s.hubTags.filter (fun h => decide (h.kind = 4))).foldl (fun s h => s.hostReadEnd h 6 rUNROUTABLE []) s

/-- An FLR's effect beyond the configuration space (R595). -/
def State.flrReset (s : State) : State :=
  let s := s.endHostWindow
  let s := s.resetRegs (fun k => decide (k.reg = .PCIE_BAR4) || decide (k.reg = .PCIE_HWIN)) keepBackup
  let keep15 := decide (s.get F.HUBC_MGMT_MBX15_MGMT 0 = 1)
  let s := s.modHst (fun h => { h with
    mbx := h.mbx.filter (fun q => decide (32 ≤ q.1) || (keep15 && decide (q.1 % 16 = 15))),
    resp := h.resp.filter (fun r => keep15 && decide (r.1 = 15)),
    bells := h.bells.filter (fun b => decide (32 ≤ b.1) || (keep15 && decide (b.1 % 16 = 15))) })
  let s := (List.range 16).foldl (fun s m => s.wr ⟨.HUBC_EVQ, 0, m⟩ 0) s
  { s with rings := [] }

/-- The data link goes down (R596). -/
def State.dlDown (s : State) : State :=
  if s.get F.PCIE_STATUS_DL_ACTIVE 0 = 0 then s
  else
    let s := (((s.set F.PCIE_STATUS_DL_ACTIVE 0 0).set F.PCIE_STATUS_SPEED 0 0).set F.PCIE_STATUS_WIDTH 0 0).set F.PCIE_STATUS_FLIT 0 0
    s.flrReset.flag F.PCIE_EVT_LINK_DOWN 0

/-- A PTP source is lost with its port (R492, R638). -/
def State.ptpLost (s : State) : State := if s.tsource ≠ 2 then s else (s.modTime (fun t => { t with ptpOk := false })).sourceLost 2

/-- What a failed domain does under the last column of R638. -/
def State.clkAct (s : State) (i : Nat) : State :=
  if 8 ≤ i ∧ i < 44 then (s.flag F.CLK_EVT_LINK_CLK 0).linkDown (i - 8)
  else if i = 52 then (s.flag F.CLK_EVT_PCIE_CLK 0).dlDown
  else if i = 53 then (s.flag F.CLK_EVT_ETH_CLK 0).ptpLost
  else if clkFatal i then s.assertReset 4 2 none i
  else s

/-- One domain of one window. -/
def State.clkWindow (s : State) (i f : Nat) : State :=
  let s := s.set F.CLK_MEAS_FREQ 0 (if clkCounted i && s.clkRuns i then (f + 50) / 100 * 100 else 0) i
  let ok := s.clkOk i f
  let s := match s.episode with
    | some e => if ok && decide (e.domain = i) then s.releaseSource 4 s.now else s
    | none => s
  if !(clkCounted i) || !(s.clkRuns i) then s
  else if ok then s.modWatch (fun w => { w with clkBad := putD natLt 0 w.clkBad i 0 })
  else
    let n := lookD 0 s.watch.clkBad i + 1
    let s := s.modWatch (fun w => { w with clkBad := putD natLt 0 w.clkBad i n })
    if (clkFatal i || decide (i = 53)) && decide (n < 2) then s.flag F.CLK_EVT_DEV 0 else s.clkAct i

/-- CLOCK_MONITOR_WINDOW (R640): the counts of one window, by domain; kHz. -/
def execClockMonitorWindow (freqs : List Nat) (s : State) : Host.Outcome State Fault Refusal :=
  .next ((freqs.take 60).zipIdx.foldl (fun s (f, i) => s.clkWindow i f) s)

/-- PLL_LOCK_LOSS (R640): the domain's PLL stays out of lock for 1 µs. -/
def execPllLockLoss (domain : Nat) (s : State) : Host.Outcome State Fault Refusal :=
  if clkFatal domain && s.clkRuns domain && s.hubUp then .next (s.assertReset 4 2 none domain) else .next s

end Sys2Proof.Machine
end

