-- ==== Sys2Proof/Machine/Switch.lean ====
section
/-! DEFINITION. Switching a task out and restoring it (R530 to R533, R377, R378, R125, R126, R160, R241). -/

namespace Sys2Proof.Machine

open Sys2Proof

/-! ### What a context holds (R530) -/

/-- Registers of a core that a context holds: the CC's, the VE's phase, seed, freeze bits and tie slots, the stream windows and
their counts, the tile tags, and the sync state of R377. -/
def ctxReg : Reg → Bool
  | .CC_TASK_STATUS | .CC_TRAP | .CC_CMD_LOG | .CC_IRQ | .CC_CKPT | .CC_WDOG | .VE_CTX | .VE_SEED | .VE_FREEZE | .VE_TIE
  | .DM_STRM_CFG | .DM_STRM_ISSUED | .DM_STRM_CONSUMED | .DM_STRM_EVICTED | .DM_STRM_LATE | .TRF_TAG | .SU_CTR | .SU_FLAG | .SU_CCH
  | .SYNC_LWIN | .SYNC_LAND => true
  | _ => false

def ctxKey (cores : List Nat) (k : RKey) : Bool := ctxReg k.reg && cores.contains k.inst

/-- An SU_BAR register of a slot of the task in one of its cores. -/
def barKey (cores slots : List Nat) (k : RKey) : Bool :=
  decide (k.reg = .SU_BAR) && cores.contains k.inst && slots.contains k.idx

/-- A cell of one of the cores' windows. -/
def inWins (cores : List Nat) (a : Nat) : Bool := cores.any (fun c => decide (winBase c ≤ a) && decide (a < winBase c + 0x100000))

/-- A cell of a retired scratchpad bank, which a context leaves out. -/
def State.retiredCell (s : State) (a : Nat) : Bool :=
  let c := (a - 0x100000000000) / 0x100000
  decide (winOff a < 0xC0000) && s.bit F.SPD_MAP_RETIRED c (winOff a / 0x20000)

/-! ### Stopping (R532 steps 1 and 2, R378 step 2) -/

/-- Staged gathers are abandoned; each of their commands gathers again from the first of them (R125). -/
def unstage (x : CoreSt) : CoreSt :=
  { x with
    staged := []
    dmCmds := x.dmCmds.map (fun d =>
      match (x.staged.filter (fun g => decide (g.id = d.id))).head? with
      | some g => { d with gather := g.iter, issuing := true,
                           open_ := d.open_ - (x.staged.filter (fun g => decide (g.id = d.id))).length }
      | none => d) }

/-- Where a context switch cuts a begun ME command (R56): the first iteration that does not run before the switch. The iteration under way
is finished; of a sliced sweep, whose level-0 iterations run slice by slice (R50), the whole level-0 loop under way is (DESIGN CHOICE,
notes/assumptions/33.md). `ran` says whether one of its acts has begun. -/
def meCutAt (f : MeFly) (ran : Bool) : Nat :=
  let l := if (meFmt f.q.cmd).isSlice then Cmd.loop f.q.cmd 0 else 1
  if ran then (f.cur / l + 1) * l else f.cur

/-- An ME command at a context switch: it streams no iteration from the cut on; one that has no iteration left, or that a fault or a skip
has ended, just completes. -/
def meCut (f : MeFly) (ran : Bool) : MeFly :=
  let n := meCutAt f ran
  if f.ended || f.dead.isSome || f.stop.isSome || decide (Cmd.iters f.q.cmd ≤ n) then f
  else { f with cut := some n, todo := f.todo.filter (fun a => decide (a.n < n)) }

/-- A begun IDLE stops at once (R532): the iterations it has run by ACLK `t` are its resume point. -/
def idleStop (t : Nat) (x : CoreSt) : CoreSt :=
  let idles := x.dueCpl.filter (fun d => decide (d.status < 16) && decide (Cmd.opcode d.q.cmd = 0) && decide (t ≤ d.at_))
  idles.foldl (fun x d =>
    let e := Eng.ofCode d.eng
    { x.setEng e { x.eng e with resume := some ⟨d.q, Cmd.iters d.q.cmd - (d.at_ + 1 - t), 0⟩, lastEntry := t } with
      dueCpl := x.dueCpl.filter (fun k => decide (k ≠ d)) }) x

/-- The engines of a core stop at ACLK `t` (R532 step 2): the ME at an iteration boundary, the VE after the rows that have entered, an IDLE
at once; the data mover finishes the iteration under way (R118, R241) and abandons its gathers (R125). -/
def engStop (t : Nat) (x : CoreSt) : CoreSt :=
  idleStop t { unstage x with
    meFly := x.meFly.map (fun f => meCut f (decide (x.me.lastBegin < t)))
    veFly := x.veFly.map (fun v => if v.stop.isSome || v.dead then v else { v with cut := some v.n }) }

/-- One core stops: the CC halts, a stalled push is abandoned (R150), engines begin nothing further, the sync port closes. -/
def State.stopCore (s : State) (c : Nat) : State :=
  let v := s.vat (cluInst c)
  let s := s.setVat (cluInst c) { v with waiting := v.waiting.filter (· ≠ c) }
  let s := if s.get F.CC_STATE_STATE c = 4 then s else s.ccState c 0
  s.modCore c (fun x => { engStop s.now x with push := none, stopped := true, openSync := false })

/-- A switch-out begins (R532); `by_` says who asked: 1 a request, 2 a shed. -/
def State.beginSwitch (s : State) (t by_ : Nat) (mbx : Option Nat) (tag : Nat) : State :=
  match s.task? t with
  | none => s
  | some x =>
    let states := x.coreIds.map (fun c => ((⟨.CC_STATE, c, 0⟩ : RKey),
      if s.get F.CC_STATE_STATE c = 2 then BitVec.ofNat 64 1 else s.rd ⟨.CC_STATE, c, 0⟩))
    let s := x.coreIds.foldl (fun s c => s.stopCore c) s
    let free := s.get F.HUBC_CTX_FREE 0 - x.cores.length
    let s := (s.set F.HUBC_CTX_FREE 0 free).set F.HUBC_CTX_LOW_WATER 0 (min free (s.get F.HUBC_CTX_LOW_WATER 0))
    (s.modTask t (fun x => { x with swAt := s.now, swBy := by_, swMbx := mbx, swTag := tag, synced := false, ctxRegs := states })).setTaskState
      t tsSWITCHING

/-- The store has a slot for every core of the task (R531). -/
def State.ctxRoom (s : State) (x : TaskSt) : Bool := decide (x.cores.length ≤ s.get F.HUBC_CTX_FREE 0)

/-- SWITCH_OUT (R532, R603): refused with BUSY when the store lacks slots. -/
def execSwitchOut (m : Nat) (s : State) : Host.Outcome State Fault Refusal :=
  match s.takeReq m 0x16 with
  | none => .next s
  | some (tag, a, s) =>
    let t := a.getD 0 0
    if a.length ≠ 1 ∨ 64 ≤ t then .next (s.respond m 0x16 tag 3)
    else
      match s.task? t with
      | none => .next (s.respond m 0x16 tag 5)
      | some x =>
        if s.taskState t ≠ tsRUNNING ∨ x.abort.isSome then .next (s.respond m 0x16 tag 7)
        else if !(s.ctxRoom x) then .next (s.respond m 0x16 tag 4)
        else .next ((s.respond m 0x16 tag 1).beginSwitch t 1 (some m) tag)

/-! ### Saving (R532 steps 3 and 4, R378) -/

/-- A core has stopped: its engines are at their boundaries (R532), nothing is outstanding or partly issued, and no served push waits to be linked. -/
def State.coreStopped (s : State) (c : Nat) : Bool :=
  let x := s.core c
  x.meFly.isEmpty && x.veFly.isNone && x.phase.isEmpty && x.dueCpl.all (fun d => decide (d.status = 16))
    && (match x.store with
      | some k => decide (k.r = 0)
      | none => true)
    && x.dmTags.isEmpty && x.staged.isEmpty && x.dmCmds.all (fun d => d.reqs.isEmpty && decide (d.open_ = 0))
    && !((s.vat (cluInst c)).served.any (fun v => decide (v.core = c)))

/-- No signal for the cores and no barrier word of the slots is in flight. -/
def State.syncDrained (s : State) (x : TaskSt) : Bool :=
  x.coreIds.all (fun c => (s.core c).sigIn.isEmpty && (s.core c).nodeHeld.isEmpty && (s.core c).rels.isEmpty && (s.core c).realign.isEmpty)
    && s.nodes.all (fun n => n.2.inbox.all (fun w => !(x.slots.contains w.slot)))

/-- Rows in the tile write buffers reach the tiles. -/
def drained (x : CoreSt) : CoreSt :=
  { x with wbuf := [], trf := x.wbuf.foldl (fun m w => putBytes m (w.tile * 1024 + w.row * 64) w.bytes) x.trf }

/-- A core after its context has been saved: its queues are empty. -/
def emptied (x : CoreSt) : CoreSt :=
  { x with me := {}, ve := {}, dm := {}, su := {}, dmCmds := [], fills := [], slots := [], cpl := [], blk := none, meReads := [],
           latS := [], latX := [], store := none, slot := 0xFF, stopped := false, openSync := true }

/-- What the context save reads of a core meets (R99, R215): its tiles through collector 3, its scratchpad and ACB; `hw` is what the
hardware finds in the TRF row of one core. Answers whether a read was uncorrectable. The record's DECKLE is the tile's tag (DESIGN
CHOICE, notes/assumptions/36.md). -/
def State.saveReads (s : State) (c : Nat) (hw : MemHw) (row : Nat) : State × Bool :=
  let rows := (s.inj.filter (fun t => decide (t.unit = 2) && decide (t.owner = c))).map (fun t => (t.line, t.double, true))
    ++ (match hw with
      | .ok => []
      | .corr => [(row, false, false)]
      | .unc => [(row, true, false)])
  let s := rows.foldl (fun s (l, d, i) => s.injStep (if i then some d else none) (fun s =>
    if d then s.trfFail c (s.get F.TRF_TAG_TAG c (l / 16)) 3 (l / 16) else s.trfCorr c)) s
  let (s, unc) := s.dmRead c [(0, 0x100000)] .ok
  (s, unc || rows.any (fun r => r.2.1))

/-- SWITCH_SYNC_DRAINED (R378 steps 3 and 4, R532 step 4): the task's state is saved, its slots are cleared, its vat cells return.
`hw` is what the save finds in TRF row `row` of `core`; an uncorrectable read aborts the task, and the partial context is freed
(R99, R533). -/
def execSwitchSyncDrained : TaskSave → State → Host.Outcome State Fault Refusal
  | ⟨slot, core, row, hw⟩, s =>
    match s.task? slot with
    | none => .next s
    | some x =>
      let cs := x.coreIds
      if s.taskState slot ≠ tsSWITCHING ∨ (s.abortedCore x).isSome ∨ cs.any (fun c => s.fenced c) ∨ !(cs.all s.coreStopped) ∨ !(s.syncDrained x) then
        .next s
      else
        let (s, bad) := cs.foldl (fun (a : State × List Nat) c =>
          let (s, unc) := a.1.saveReads c (if c = core then hw else .ok) row
          (s, if unc then a.2 ++ [c] else a.2)) (s, [])
        if !bad.isEmpty then .next (bad.foldl (fun s c => s.raiseAbort c 4) s)
        else
        let ctx := cs.map (fun c => (c, drained (s.core c)))
        let regs := x.ctxRegs ++ s.regs.filter (fun r => ctxKey cs r.1 || barKey cs x.slots r.1)
        let mem := s.mem.filter (fun a => inWins cs a.1 && !(s.retiredCell a.1))
        let s := s.modTask slot (fun x => { x with ctx := ctx, ctxRegs := regs, ctxMem := mem, synced := true })
        let s := cs.foldl (fun s c => (s.cellsBack c ((s.core c).unfinished)).modCore c (fun y => emptied (drained y))) s
        let s := (x.slots.foldl (fun s n => s.freeSlot n) s).modTask slot (fun x => { x with slots := [], oldSlots := x.slots })
        let s := s.post { kind := 3, mbx := x.swMbx, tag := x.swTag, record := leBytes 1 slot ++ leBytes 1 0 }
        .next (s.setTaskState slot tsOUT)

/-- SW_TIMEOUT of a task in ACLK. -/
def swLimit (d : TaskDesc) : Nat := (if d.swTimeout = 0 then 1000 else d.swTimeout) * usAclk

/-- SWITCH_TIMEOUT (R532): the limit passes before the save begins. -/
def execSwitchTimeout (slot : Nat) (s : State) : Host.Outcome State Fault Refusal :=
  match s.task? slot with
  | none => .next s
  | some x =>
    if s.taskState slot ≠ tsSWITCHING ∨ x.abort.isSome then .next s
    else .next ((s.at_ (x.swAt + swLimit x.desc)).abortTask slot (0xFFFF, 8) 4)

/-! ### Restoring (R533, R126, R160) -/

/-- Vat cells a saved core needs. -/
def ctxCells (x : CoreSt) : Nat := x.unfinished.length

/-- A restored engine: its lists in order, its begun command and resume iteration. -/
def restEng (now : Nat) (e : EngSt) : EngSt :=
  { q0 := e.q0, q1 := e.q1, q2 := e.q2, q3 := e.q3, hold := e.hold.map (fun h => { h with at_ := now }), headSince := now, lastEntry := now,
    resume := e.resume }

/-- A core takes its saved state; what is not saved stays as the core has it. -/
def State.restoreCore (s : State) (t c : Nat) (y : CoreSt) : State :=
  let n := ctxCells y
  let k := cluInst c
  let free := s.get F.VAT_FREE_FREE k - n
  let s := (s.set F.VAT_FREE_FREE k free).set F.VAT_FREE_LOW_WATER k (min free (s.get F.VAT_FREE_LOW_WATER k))
  let s := s.set F.VAT_QUOTA_USED k (s.get F.VAT_QUOTA_USED k (corein c) + n) (corein c)
  (s.set F.ME_STATUS_LOADED c 0).modCore c (fun x => { x with
    x := y.x, pc := y.pc, mstatus := y.mstatus, mie := y.mie, mtvec := y.mtvec, mscratch := y.mscratch, mepc := y.mepc, mcause := y.mcause,
    mtval := y.mtval, minstret := y.minstret, cs := y.cs, ordNext := y.ordNext, me := restEng s.now y.me, ve := restEng s.now y.ve,
    dm := restEng s.now y.dm, su := restEng s.now y.su, trf := y.trf, tags := y.tags, dmCmds := y.dmCmds.map (fun d => { d with at_ := s.now }),
    dmNext := y.dmNext, store := y.store.map (fun k => { k with at_ := s.now, since := s.now }), tick := s.now, issueAt := 0, lateAt := [],
    meReport := none, fills := y.fills, slots := y.slots, blk := none, meReads := [], latS := [], latX := [], logical := y.logical, wfi := y.wfi, wdLeft := y.wdLeft, wdAt := s.now,
    slot := t, abort := none, stopped := false, openSync := true, push := none, staged := [], wbuf := [] })

/-- Registers of the context written back; PRIV of a credit channel is not part of it, and a slot's registers go to the slot that
takes its place. -/
def State.restoreRegs (s : State) (cores : List Nat) (slots : List (Nat × Nat)) (saved : List (RKey × Word)) : State :=
  let priv (k : RKey) : Word := BitVec.ofNat 64 (s.get F.SU_CCH_PRIV k.inst k.idx)
  let clear : State := { s with regs := s.regs.filter (fun r => !(ctxKey cores r.1)) }
  let clear := (s.regs.filter (fun r => decide (r.1.reg = .SU_CCH) && cores.contains r.1.inst)).foldl (fun (q : State) r =>
    q.wr r.1 (F.SU_CCH_PRIV.ins (Reg.resetWord .SU_CCH) (priv r.1).toNat)) clear
  saved.foldl (fun q (k, v) =>
    if k.reg = .SU_BAR then
      match find? slots k.idx with
      | some n => q.wr ⟨.SU_BAR, k.inst, n⟩ v
      | none => q
    else if k.reg = .SU_CCH then q.wr k (F.SU_CCH_PRIV.ins v (priv k).toNat)
    else q.wr k v) clear

/-- ACLK that writing back the 64 tiles of a core takes: one write phase of 16 rows after another (R117, R126). -/
def tilesTime : Nat := 64 * 16

/-- Tiles restored from ACLK `t0` on: a tagged tile's stamp is the ACLK after the last row of its own write phase, an untagged one's is 0
(R126). -/
def State.restoreStamps (s : State) (c t0 : Nat) : State :=
  (List.range 64).foldl (fun s n =>
    s.set F.TRF_STAMP_STAMP c (if s.get F.TRF_TAG_TAGGED c n = 1 then t0 + 16 * (n + 1) - s.coreBase c else 0) n) s

/-- The hub rebuilds the slots of a restored task: masks at the nodes, the map, and the arrivals its cores had made (R377). -/
def State.restoreSlots (s : State) (x : TaskSt) (groups : List ImgGroup) (slots : List Nat) : State :=
  let cs := x.coreIds
  let s := cs.foldl (fun s c => (List.range 16).foldl (fun s q => s.set F.SU_GMAP_ENTRIES c 0 q) s) s
  (groups.zip slots).foldl (fun s (g, n) =>
    let ms := groupCores x g
    let s := s.slotWords State.applyCfg n 0 ms
    let s := s.mapGroup cs g.group n
    ms.foldl (fun s c =>
      if s.get F.SU_BAR_ARRIVED c n = 1 ∧ s.get F.SU_BAR_FAULTED c n = 0 then s.sendArrival c n s.now else s) s) s

/-- The saved state of a task written back to its cores, on the slots given; the tiles come back through the load path, which takes its
time (R126). -/
def State.restoreWith (s : State) (t : Nat) (x : TaskSt) (p : Prog) (slots : List Nat) : State :=
  let cs := x.coreIds
  let t0 := s.now
  let s := s.at_ (t0 + tilesTime)
  let kept := s.mem.filter (fun a => !(inWins cs a.1) || s.retiredCell a.1)
  let s := { s with mem := x.ctxMem.foldl (fun m (a : Host.Cell) => putByte m a.1 a.2) kept }
  let s := s.restoreRegs cs (x.oldSlots.zip slots) x.ctxRegs
  let s := x.ctx.foldl (fun s (c, y) =>
    let q := ((p.img.cores.find? (fun (k : ImgCore) => decide (k.logical = x.logicalOf c))).map ImgCore.quota).getD 0
    ((s.restoreCore t c y).restoreStamps c t0).set F.VAT_QUOTA_QUOTA (cluInst c) q (corein c)) s
  let s := s.restoreSlots x p.img.groups slots
  let s := s.freeCtx x.ctx.length
  (s.modTask t (fun x => { x with slots := slots, oldSlots := [], ctx := [], ctxRegs := [], ctxMem := [], swBy := 0 })).setTaskState t tsRUNNING

/-- A task whose restore has been asked for and can be done: its cores are free and not fenced, their vats hold the cells, and there is
a slot for every group it had mapped. -/
def State.restoreTry (s : State) (t : Nat) (x : TaskSt) : State :=
  let cs := x.coreIds
  if s.shedding || cs.any (fun c => s.fenced c || decide ((s.core c).slot ≠ 0xFF) || (s.vat (cluInst c)).rebuild) then s
  else
    let s := s.powerFor cs
    let need (k : Nat) : Nat := x.ctx.foldl (fun n p => if cluInst p.1 = k then n + ctxCells p.2 else n) 0
    let short := ((List.range 96).filter (fun k => decide (s.get F.VAT_FREE_FREE k < need k)))
    if !short.isEmpty then short.foldl (fun s k => s.flag F.VAT_EVT_EXHAUSTED k) s
    else
      let slots := s.freeSlots.take x.oldSlots.length
      if slots.length < x.oldSlots.length then s
      else
        match s.progOf x.prog with
        | none => s
        | some p => s.restoreWith t x p slots

/-- RESTORE (R533, R603): accepted for a switched-out task, and carried out once its cores are free. -/
def execRestore (m : Nat) (s : State) : Host.Outcome State Fault Refusal :=
  let s := match s.takeReq m 0x17 with
    | none => s
    | some (tag, a, s) =>
      let t := a.getD 0 0
      if a.length ≠ 1 ∨ 64 ≤ t then s.respond m 0x17 tag 3
      else
        match s.task? t with
        | none => s.respond m 0x17 tag 5
        | some _ =>
          if s.taskState t ≠ tsOUT ∨ s.tripped then s.respond m 0x17 tag 7
          else (s.respond m 0x17 tag 1).modTask t (fun x => { x with swBy := 3 })
  .next (s.tasks.foldl (fun s (t, x) =>
    if s.taskState t = tsOUT ∧ x.swBy = 3 ∧ x.abort.isNone then s.restoreTry t x else s) s)

end Sys2Proof.Machine
end

