-- ==== Sys2Proof/Machine/Power.lean ====
section
/-! DEFINITION. Power, cooling and hot-plug (R655 to R672): insertion, the eFuse, withdrawal, the power limit and shedding, rails, cluster
domains, sensors, coolant and the valve loop; the backup domain's supply (R623, R772). -/

namespace Sys2Proof.Machine

open Sys2Proof

/-! ### Insertion and the eFuse (R661 to R663) -/

/-- The field PWR_STATUS.EFUSE_CLOSED follows the eFuse: 0 open, 1 soft start, 2 closed. -/
def State.setEfuse (s : State) (n : Nat) : State :=
  (s.modPwr (fun p => { p with efuse := n })).set F.PWR_STATUS_EFUSE_CLOSED 0 (b2n (decide (n = 2)))

/-- PRSNT_MATE (R661): the wait of 100 ms begins; a reinsertion clears a latched trip (R663). -/
def execPrsntMate (s : State) : Host.Outcome State Fault Refusal :=
  if s.pwr.mated.isSome then .next s
  else .next ((s.modPwr (fun p => { p with mated := some s.now, latched := false })).set F.PWR_STATUS_PRSNT 0 1)

/-- EFUSE_SOFT_START (R661): after PRSNT_N has been mated for 100 ms. -/
def execEfuseSoftStart (s : State) : Host.Outcome State Fault Refusal :=
  match s.pwr.mated with
  | some t =>
    if s.pwr.efuse = 0 ∧ !s.pwr.latched ∧ s.pwr.wdAt.isNone then
      let s := s.at_ (t + 100 * msAclk)
      .next ((s.setEfuse 1).modPwr (fun p => { p with softAt := s.now }))
    else .next s
  | none => .next s

/-- SOFT_START_COMPLETE (R661): the eFuse is closed and start-up phase POWER begins. -/
def execSoftStartComplete (s : State) : Host.Outcome State Fault Refusal :=
  if s.pwr.efuse = 1 then .next ((s.setEfuse 2).modStart (fun x => { x with phaseAt := s.now })) else .next s

/-- The eFuse opens with a trip cause (R662, R663, R673): the 8 V bus drops, which asserts brown-out. -/
def State.openEfuse (s : State) (trip : Nat) (latch : Bool) : State :=
  if s.pwr.efuse = 0 then s
  else
    let s := ((s.setEfuse 0).set F.PWR_STATUS_EFUSE_TRIP 0 trip).modPwr (fun p => { p with latched := latch })
    s.assertReset 1 3 none

/-- SHORT (R662). -/
def execEfuseShort (amps10 : Nat) (s : State) : Host.Outcome State Fault Refusal :=
  if 1500 < amps10 then .next (s.openEfuse 1 true) else .next s

/-- OVERCURRENT (R662). -/
def execEfuseOvercurrent (amps10 : Nat) (s : State) : Host.Outcome State Fault Refusal :=
  if 850 < amps10 then .next (s.openEfuse 2 true) else .next s

/-- SUSTAINED (R662). -/
def execEfuseSustained (amps10 : Nat) (s : State) : Host.Outcome State Fault Refusal :=
  if 700 < amps10 then .next (s.openEfuse 3 true) else .next s

/-- OVERVOLTAGE (R662). -/
def execEfuseOvervoltage (mv : Nat) (s : State) : Host.Outcome State Fault Refusal :=
  if 58000 < mv then .next (s.openEfuse 4 true) else .next s

/-- UNDERVOLTAGE (R662): does not latch (R663). -/
def execEfuseUndervoltage (mv : Nat) (s : State) : Host.Outcome State Fault Refusal :=
  if mv < 37000 then .next (s.openEfuse 5 false) else .next s

/-- UNDERVOLTAGE_RECLOSE (R663): the input has stayed above 38.5 V for 100 ms. -/
def execUndervoltageReclose (s : State) : Host.Outcome State Fault Refusal :=
  if s.pwr.efuse = 0 ∧ !s.pwr.latched ∧ s.get F.PWR_STATUS_EFUSE_TRIP 0 = 5 ∧ s.pwr.mated.isSome ∧ s.pwr.wdAt.isNone then
    .next ((s.setEfuse 1).modPwr (fun p => { p with softAt := s.now }))
  else .next s

/-! ### Withdrawal (R664, R665) -/

/-- Links and PCIe idle, the time outputs low, engines, bank units and MSUs stopped (R664, R692): tasks and programs go without a record. -/
def State.goDark (s : State) : State :=
  let s := (List.range 36).foldl (fun s n => s.linkDown n) ({ s with hubTags := [] } : State)
  let s := s.dlDown
  let s := s.setTstate s.tstate 0
  (s.modPwr (fun p => { p with released := true })).clearDies

/-- PRSNT_BREAK (R661, R664, R636): while the eFuse is not yet closed the wait starts again; otherwise the module withdraws. -/
def execPrsntBreak (s : State) : Host.Outcome State Fault Refusal :=
  let s := (s.modPwr (fun p => { p with mated := none })).set F.PWR_STATUS_PRSNT 0 0
  if s.pwr.wdAt.isSome then .next s
  else if s.pwr.efuse < 2 then .next (s.setEfuse 0)
  else
    let s := if s.start.counted then s.set F.NVCF_STATUS_ATTEMPTS 0 (s.get F.NVCF_STATUS_ATTEMPTS 0 - 1) else s
    let s := s.modStart (fun x => { x with withdrawn := true, counted := false })
    let s := (s.modPwr (fun p => { p with wdAt := some s.now })).set F.PWR_STATUS_STATE 0 4
    .next ({ s.goDark with tasks := [], progs := [], loadQ := [], taking := [] } : State)

/-- WITHDRAW_RAILS_DISCHARGED (R664): at 1 ms the eFuse is open and the hub unpowered. -/
def execWithdrawRailsDischarged (s : State) : Host.Outcome State Fault Refusal :=
  match s.pwr.wdAt with
  | some t =>
    let s := (s.at_ (t + msAclk)).setEfuse 0
    let s := ({ s.hubReset with episode := none } : State)
    .next (s.modPwr (fun p => { p with wdAt := none }))
  | none => .next s

/-- P3V3_AUX_LOSS (R623, R687): channel B loses its supply, which clears its latch (R696); the supercapacitor holds the backup domain. -/
def execP3v3AuxLoss (s : State) : Host.Outcome State Fault Refusal :=
  let s := s.resetRegs (fun k => decide (k.reg.info.blk = .SAFE)) (fun f => decide (f.src ≠ .chanB))
  .next ((s.modHst (fun h => { h with auxLost := true, telem := [] })).modSafe (fun b => { b with missB := 0, bActive := 0, tripAt := none }))

/-- SUPERCAPACITOR_HOLD_EXPIRY (R571, R623, R772): the backup domain is blank. -/
def execSupercapacitorHoldExpiry (s : State) : Host.Outcome State Fault Refusal :=
  if !s.hst.auxLost then .next s
  else
    let s := s.resetRegs (fun k => (k.reg.info.fields).any (fun f => decide (f.src = .backup))) (fun f => decide (f.src ≠ .backup))
    .next (({ s with pers := [], props := [] } : State).modStart (fun x => { x with backupOk := false, withdrawn := false }))

/-- PPS_TERM_EN_CHANGE (R767): a strap that is read continuously. -/
def execPpsTermEnChange (level : Bool) (s : State) : Host.Outcome State Fault Refusal :=
  .next (s.modHst (fun h => { h with ppsTerm := level }))

/-! ### Fencing a die (R566, R658) -/

/-- Every core of a die is fenced: a module-degraded event (R707 kind 0x06, detail 2). -/
def State.fenceDie (s : State) (d : Nat) : State :=
  let cause := s.get F.ELOG_STATUS_NEXT_SEQ 0 - 1
  let s := (List.range 48).foldl (fun s cl =>
    if s.fusedCl.contains (48 * d + cl) then s
    else (List.range 16).foldl (fun s n => s.fence (coreId (48 * d + cl) n)) s) s
  s.logRec 3 Blk.CLU.code 0x602 (48 * d) 0xFF 0 (leBytes 4 d ++ leBytes 4 0 ++ leBytes 4 cause)

/-- RAIL_FAULT (R656, R658): a fault of a compute-die or HBM rail fences its die, which aborts the die's tasks (HUB_TASK_ABORT); a fault
of another rail acts through its brown-out threshold. -/
def execRailFault (rail : Nat) (s : State) : Host.Outcome State Fault Refusal :=
  if 14 ≤ rail then .next s
  else
    let s := (s.set F.PWR_RAIL_FAULT 0 1 rail).flag F.PWR_EVT_RAIL_FAULT 0
    if [2, 3, 6, 7].contains rail then .next ((s.logHw 3 .PWR 4 0).fenceDie 0)
    else if [4, 5, 8, 9].contains rail then .next ((s.logHw 3 .PWR 4 0).fenceDie 1)
    else .next s

/-! ### Shedding (R666, R667) -/

/-- Sensor readings of a group, hottest first found. -/
def State.hottest (s : State) (lo n : Nat) : Int :=
  ((s.pwr.temps.filter (fun t => decide (lo ≤ t.1) && decide (t.1 < lo + n))).map Prod.snd).foldl max (-32768)

/-- A threshold in °C against readings in 0.1 °C. -/
def State.hot (s : State) (lo n : Nat) (f : Field) : Bool := decide (((s.get f 0 * 10 : Nat) : Int) ≤ s.hottest lo n)

def State.dieWarn (s : State) : Bool := s.hot 0 40 F.THM_LIM_DIE_WARN
def State.hbmWarn (s : State) : Bool := s.hot 40 8 F.THM_LIM_HBM_WARN

/-- Power limit in 0.1 W (R675). -/
def State.powerLimit (s : State) : Nat := 10 * min 2400 (s.get F.PWR_CFG_LIMIT 0)

/-- Average of the latest `n` samples, over those there are. -/
def average (n : Nat) (l : List Nat) : Nat :=
  let k := l.take n
  if k.isEmpty then 0 else k.foldl (· + ·) 0 / k.length

/-- A task that a shed cannot switch out is aborted and ends without takeover (R667). -/
def State.shedTask (s : State) (t : Nat) (x : TaskSt) : State :=
  if s.taskState t ≠ tsRUNNING ∨ x.abort.isSome then s
  else if s.ctxRoom x then (s.beginSwitch t 2 none 0).modPwr (fun p => { p with shedTasks := p.shedTasks ++ [t] })
  else s.abortTask t (0xFFFF, 8) 4

/-- The shed begins when it is enabled and one of its conditions holds (R666). -/
def State.shedCheck (s : State) : State :=
  let lasting := match s.pwr.overAt with
    | some t => decide (t + 1000 * msAclk ≤ s.now)
    | none => false
  if decide (s.get F.PWR_CFG_SHED_EN 0 = 1) && !s.shedding
      && (lasting || decide (s.get F.PWR_EVT_OVER_PEAK 0 = 1) || s.hot 0 40 F.THM_LIM_DIE_SHED || s.hot 40 8 F.THM_LIM_HBM_SHED) then
    let s := ((s.set F.PWR_STATUS_SHED 0 1).flag F.PWR_EVT_SHED 0).flag F.THM_EVT_SHED 0
    let s := s.modPwr (fun p => { p with goodAt := none })
    s.tasks.foldl (fun s (t, x) => s.shedTask t x) s
  else s

/-- Since when the conditions for the end of a shed have held (R667). -/
def State.shedGood (s : State) : State :=
  let ok := decide (average 100000 s.pwr.samples * 100 < s.powerLimit * 95) && !s.dieWarn && !s.hbmWarn
  s.modPwr (fun p => { p with goodAt := if ok then some (p.goodAt.getD s.now) else none })

/-- POWER_SAMPLE (R666, R672): a measurement of the input, every 10 µs. -/
def execPowerSample (mv amps10 : Nat) (s : State) : Host.Outcome State Fault Refusal :=
  if !s.hubUp then .next s
  else
    let s := s.at_ (s.pwr.sampAt + 10 * usAclk)
    let w := mv * amps10 / 1000
    let nj := lookD 0 s.pwr.energyFrac 0 + mv * amps10
    let s := s.modPwr (fun p => { p with samples := (w :: p.samples).take 100000, sampAt := s.now,
                                         energyFrac := putD natLt 0 p.energyFrac 0 (nj % 1000) })
    let s := s.addw F.PWR_RAIL_E_ENERGY 0 (nj / 1000) 0
    let avg1 := average 100000 s.pwr.samples
    let avg10 := average 1000 s.pwr.samples
    let s := ((s.set F.PWR_IN_VIN 0 mv).set F.PWR_IN_IIN 0 (amps10 * 10)).set F.PWR_IN_PIN 0 avg1
    let s := s.set F.PWR_IN_PEAK 0 (max (s.get F.PWR_IN_PEAK 0) avg10)
    let above := decide (s.powerLimit < avg1)
    let s := (s.flagIf above F.PWR_EVT_OVER_LIMIT 0).flagIf (decide (29000 < avg10)) F.PWR_EVT_OVER_PEAK 0
    let s := s.modPwr (fun p => { p with overAt := if above then some (p.overAt.getD s.now) else none })
    .next (s.shedGood.shedCheck)

/-- SHED_END (R667): after a continuous second below the limits; the tasks are restored in slot order. -/
def execShedEnd (s : State) : Host.Outcome State Fault Refusal :=
  match s.pwr.goodAt with
  | some t =>
    if s.shedding then
      let s := s.at_ (t + 1000 * msAclk)
      let l := (List.range 64).filter (fun k => s.pwr.shedTasks.contains k)
      let s := ((s.set F.PWR_STATUS_SHED 0 0).flag F.PWR_EVT_SHED_END 0).modPwr (fun p => { p with shedTasks := [] })
      .next (l.foldl (fun s k =>
        match s.task? k with
        | some x =>
          if s.taskState k = tsOUT ∧ x.abort.isNone then (s.modTask k (fun x => { x with swBy := 3 })).restoreTry k { x with swBy := 3 } else s
        | none => s) s)
    else .next s
  | none => .next s

/-! ### Sensors, rails (R666, R672, R683, R685) -/

/-- THERMAL_SENSOR_SAMPLE (R666, R683, R685): sensors 0 to 15 C0, 16 to 31 C1, 32 to 39 H, 40 to 47 the stacks, 48 to 55 thermistors; 56 to
63 read 0. -/
def execThermalSensorSample (sensor : Nat) (temp : Int) (s : State) : Host.Outcome State Fault Refusal :=
  if 56 ≤ sensor ∨ !s.hubUp then .next s
  else
    let s := (s.set F.THM_SENS_TEMP 0 (wrapInt 16 temp) sensor).modPwr (fun p => { p with temps := insertAt natLt p.temps sensor temp })
    let put (s : State) (f : Field) (lo n : Nat) : State :=
      if lo ≤ sensor ∧ sensor < lo + n then s.set f 0 (wrapInt 16 (s.hottest lo n)) else s
    let s := put (put (put (put s F.THM_HOT_C0 0 16) F.THM_HOT_C1 16 16) F.THM_HOT_HUB 32 8) F.THM_HOT_HBM 40 8
    let reached (f : Field) : Bool := decide (((s.get f 0 * 10 : Nat) : Int) ≤ temp)
    let s := s.flagIf (decide (sensor < 40) && reached F.THM_LIM_DIE_WARN) F.THM_EVT_DIE_WARN 0
    let s := s.flagIf (decide (40 ≤ sensor) && decide (sensor < 48) && reached F.THM_LIM_HBM_WARN) F.THM_EVT_HBM_WARN 0
    .next (s.shedGood.shedCheck)

/-- RAIL_SAMPLE (R672, R678): a measurement of a rail, every 100 µs; the input's energy comes from POWER_SAMPLE. -/
def execRailSample (rail mv amps10 : Nat) (s : State) : Host.Outcome State Fault Refusal :=
  if 14 ≤ rail ∨ !s.hubUp then .next s
  else
    let s := ((s.set F.PWR_RAIL_V 0 mv rail).set F.PWR_RAIL_I 0 amps10 rail).set F.PWR_RAIL_P 0 (mv * amps10 / 1000) rail
    if rail = 0 then .next s
    else
      let nj := lookD 0 s.pwr.energyFrac rail + mv * amps10 * 10
      .next ((s.addw F.PWR_RAIL_E_ENERGY 0 (nj / 1000) rail).modPwr (fun p => { p with energyFrac := putD natLt 0 p.energyFrac rail (nj % 1000) }))

/-! ### Cluster domains (R660) -/

/-- A domain turns off: TRF and vat contents are lost, scratchpad and ACB keep theirs. -/
def State.clusterOff (s : State) (cl : Nat) : State :=
  let d := cl / 48
  let b := cl % 48
  let clr (s : State) (f : Field) : State := let w := s.get f 0 d; s.set f 0 (if bitOf w b then w - 2 ^ b else w) d
  let g := s.get F.CLK_GATE_GATED 0 d
  let s := ((clr s F.PWR_CDOM_ON |> fun s => clr s F.PWR_CDOM_PG_PG).set F.CLK_GATE_GATED 0 (if bitOf g b then g else g + 2 ^ b) d).setVat cl {}
  (List.range 16).foldl (fun s n => s.modCore (coreId cl n) (fun x => { x with trf := [], wbuf := [] })) s

/-- CLUSTER_IDLE_OFF (R660): no task holds a core of the cluster; its first sight of that starts the time of PWR_CFG.IDLE_OFF. -/
def execClusterIdleOff (cl : Nat) (s : State) : Host.Outcome State Fault Refusal :=
  let held := s.tasks.any (fun t => t.2.coreIds.any (fun c => decide (cluInst c = cl)) && !([tsOUT, tsHELD].contains (s.taskState t.1)))
  let drop := s.modPwr (fun p => { p with idle := p.idle.filter (fun i => decide (i.1 ≠ cl)) })
  if 96 ≤ cl ∨ !(s.clusterOn cl) ∨ s.get F.PWR_CFG_IDLE_OFF 0 = 0 ∨ held then .next drop
  else
    match s.pwr.idle.find? (fun i => decide (i.1 = cl)) with
    | none => .next (s.modPwr (fun p => { p with idle := p.idle ++ [(cl, s.now)] }))
    | some (_, t) => .next ((drop.at_ (t + s.get F.PWR_CFG_IDLE_OFF 0 * msAclk)).clusterOff cl)

/-- CLUSTER_POWER_GOOD (R660, R639): a domain that has been turned on. -/
def execClusterPowerGood (cl : Nat) (s : State) : Host.Outcome State Fault Refusal :=
  match s.pwr.turning.find? (fun t => decide (t.1 = cl)) with
  | some t => .next ((s.at_ t.2).powerGood cl)
  | none => .next s

/-! ### Coolant and the valve (R668 to R671) -/

/-- Flow floor in 0.01 L/min (R682). -/
def State.flowMin (s : State) : Nat := 10 * max 20 (s.get F.THM_LIM_FLOW_MIN 0)

/-- COOLANT_SAMPLE (R668, R669): every 10 ms: inlet and outlet in 0.1 °C, flow in 0.01 L/min, opening in percent. -/
def execCoolantSample (inlet outlet : Int) (flow pos : Nat) (s : State) : Host.Outcome State Fault Refusal :=
  if !s.hubUp then .next s
  else
    let s := s.at_ (s.pwr.coolAt + 10 * msAclk)
    let s := (((s.set F.THM_COOL_T_IN 0 (wrapInt 16 inlet)).set F.THM_COOL_T_OUT 0 (wrapInt 16 outlet)).set F.THM_COOL_FLOW 0 flow).set
      F.THM_COOL_VALVE_POS 0 pos
    let s := s.flagIf (decide (((s.get F.THM_LIM_INLET_MAX 0 * 10 : Nat) : Int) < inlet)) F.THM_EVT_INLET_HIGH 0
    let low := decide (flow < s.flowMin)
    let since := s.pwr.flowAt.getD s.now
    let s := s.flagIf (low && decide (since + 1000 * msAclk ≤ s.now)) F.THM_EVT_FLOW_LOW 0
    let cmd := s.get F.THM_COOL_VALVE_CMD 0
    let off := decide (cmd + 10 < pos) || decide (pos + 10 < cmd)
    .next (s.modPwr (fun p => { p with coolAt := s.now, flowAt := if low then some since else none,
                                       valveAt := if off then some (p.valveAt.getD s.now) else none }))

/-- The loop starts (R670); i_acc and floor in 2^-16 %. -/
def State.valveStart (s : State) : State :=
  s.modPwr (fun p => { p with iAcc := 100 * 65536, floor := ((min 100 (s.get F.THM_LOOP_OPEN_MIN 0) * 65536 : Nat) : Int), loop := true, released := false,
                              valveAt := none, stepAt := s.now })

/-- VALVE_STEP (R670): every 100 ms. -/
def execValveStep (s : State) : Host.Outcome State Fault Refusal :=
  if !s.pwr.loop || s.pwr.released || !s.hubUp then .next s
  else
    let s := s.at_ (s.pwr.stepAt + 100 * msAclk)
    let hundred : Int := 100 * 65536
    let openMin : Int := ((min 100 (s.get F.THM_LOOP_OPEN_MIN 0) * 65536 : Nat) : Int)
    let e := sext 16 (s.get F.THM_COOL_T_OUT 0) - sext 16 (s.get F.THM_LOOP_T_SET 0)
    let u := (s.get F.THM_LOOP_KP 0 : Int) * e * 256 / 10 + s.pwr.iAcc
    let clamped := decide (hundred < u) || decide (u < openMin)
    let iAcc := if clamped then s.pwr.iAcc else s.pwr.iAcc + (s.get F.THM_LOOP_KI 0 : Int) * e * 256 / 100
    let u := if clamped then min hundred (max openMin u) else u
    let floor := if s.get F.THM_COOL_FLOW 0 < s.flowMin then min hundred (s.pwr.floor + (s.get F.THM_LOOP_FLOW_STEP 0 : Int) * 65536) else s.pwr.floor
    let u := max u floor
    let u := if s.dieWarn || s.hbmWarn || s.shedding then hundred else u
    .next ((s.modPwr (fun p => { p with iAcc := iAcc, floor := floor, stepAt := s.now })).set F.THM_COOL_VALVE_CMD 0 (u / 65536).toNat)

/-- VALVE_FAULT (R671): the position has differed by more than 10 % for 2 s; the drive stays released until the next start of the loop. -/
def execValveFault (s : State) : Host.Outcome State Fault Refusal :=
  match s.pwr.valveAt with
  | some t =>
    if s.pwr.loop && !s.pwr.released then
      .next (((s.at_ (t + 2000 * msAclk)).flag F.THM_EVT_VALVE_FAULT 0).modPwr (fun p => { p with released := true }))
    else .next s
  | none => .next s

end Sys2Proof.Machine
end

