-- ==== Sys2Proof/Machine/SafetyChan.lean ====
section
/-! DEFINITION. The two safety channels (R686 to R699): hazards, the safe state, heartbeats, acknowledgement and rearm; the persistent
store's clearing (R708, R721). -/

namespace Sys2Proof.Machine

open Sys2Proof

/-! ### Deciding a hazard (R690, R692, R695, R696, R712) -/

/-- The eFuse opens on a command of a safety channel (R692). -/
def State.safeOpen (s : State) : State := (s.set F.SAFE_STATUS_EFUSE_BY_SAFE 0 1).openEfuse 6 true

/-- The actions of the safe state (R692, R695): time outputs low and VALID 0, links, PCIe, Ethernet and the valve drive off, engines
stopped, rails 2 to 9 off, every task ended. -/
def State.enterSafe (s : State) : State :=
  let s := (s.endAll.setTstate 4 0).modTime (fun t => { t with fatal := true, acting := false, req := [] })
  let s := (s.goDark.dropToken).set F.PWR_STATUS_STATE 0 3
  (s.set F.PWR_CDOM_PG_PG 0 0 0).set F.PWR_CDOM_PG_PG 0 0 1

/-- What a channel has decided: the hazard, the channels (bit 0 A, bit 1 B), the sensor or rail, the reading, its limit and the
partner's reading, and whether the eFuse opens. -/
structure Hazard where
  no : Nat
  chans : Nat
  sensor : Nat := 0
  value : Int := 0
  limit : Int := 0
  partner : Int := 0
  opens : Bool := false
  deriving DecidableEq, Repr

/-- A hazard is decided: its bit, the latch in both channels, the trip log, the event, the record, and the safe state. -/
def State.decide_ (s : State) (h : Hazard) : State :=
  let orBit (w : Nat) : Nat := if bitOf w h.no then w else w + 2 ^ h.no
  let s := if bitOf h.chans 0 then s.set F.SAFE_HAZ_A_ACTIVE 0 (orBit (s.get F.SAFE_HAZ_A_ACTIVE 0)) else s
  let s := if bitOf h.chans 1 then (s.set F.SAFE_HAZ_B_ACTIVE 0 (orBit (s.get F.SAFE_HAZ_B_ACTIVE 0))).modSafe
      (fun b => { b with bActive := orBit b.bActive }) else s
  let s := if s.get F.SAFE_TRIP_LOG_VALID 0 = 1 then s
    else s.wr ⟨.SAFE_TRIP_LOG, 0, 0⟩ (BitVec.ofNat 64 (2 ^ 63 + h.no * 2 ^ 56 + h.chans * 2 ^ 54 + h.sensor % 64 * 2 ^ 48
      + wrapInt 16 h.value * 2 ^ 32 + s.seconds))
  let s := s.flag F.SAFE_EVT_TRIP 0
  let s := s.logRec 4 Blk.SAFE.code (0x500 + h.no) 0 0xFF 0 (leBytes 1 h.chans ++ leBytes 1 h.sensor ++ leBytes 2 0
    ++ leBytes 4 (wrapInt 32 h.value) ++ leBytes 4 (wrapInt 32 h.limit) ++ leBytes 4 (wrapInt 32 h.partner))
  let was := s.tripped
  let s := s.set F.SAFE_STATUS_TRIPPED 0 1
  let s := if was then s else (s.set F.SAFE_STATUS_A_ACK 0 0).modSafe (fun b => { b with tripAt := some s.now })
  let s := if s.hubUp && decide (s.get F.PWR_STATUS_STATE 0 ≠ 3) && decide (s.get F.PWR_STATUS_STATE 0 ≠ 4) then s.enterSafe else s
  if h.opens then s.safeOpen else s

/-! ### The hazards (R690, R691) -/

/-- INPUT: a current above 75 A (0.1 A), or a voltage above 58 V (10 mV). -/
def execHazInput (ch : Nat) (value : Int) (s : State) : Host.Outcome State Fault Refusal :=
  let limit : Int := if 5800 < value then 5800 else 750
  if ch < 2 ∧ limit < value then
    .next (s.decide_ { no := 0, chans := 2 ^ ch, value := value, limit := limit, opens := true })
  else .next s

/-- Nominal voltage of rails 1 to 12 in mV (R656). -/
def railNominal (r : Nat) : Nat := [44000, 8000, 700, 800, 700, 800, 1050, 750, 1050, 750, 750, 900, 1800, 3300].getD r 0

/-- Maximum continuous current of a rail in 0.1 A (R656). -/
def railMax (r : Nat) : Nat := [632, 3300, 9000, 1500, 9000, 1500, 1200, 450, 1200, 450, 2400, 880, 60, 18].getD r 0

/-- RAIL_OV: any of rails 1 to 12 above 112 % of nominal (10 mV); the 8 V bus is bled. -/
def execHazRailOv (ch rail : Nat) (value : Int) (s : State) : Host.Outcome State Fault Refusal :=
  let limit : Int := ((railNominal rail * 112 / 1000 : Nat) : Int)
  if ch < 2 ∧ 1 ≤ rail ∧ rail ≤ 12 ∧ limit < value then
    .next ((s.modSafe (fun b => { b with bled := true })).decide_ { no := 1, chans := 2 ^ ch, sensor := rail, value := value, limit := limit, opens := true })
  else .next s

/-- RAIL_OC: any of rails 2 to 11 above 125 % of its maximum continuous current; the eFuse opens when the rails do not fall
(SAFE_ACK_TIMEOUT). -/
def execHazRailOc (ch rail : Nat) (value : Int) (s : State) : Host.Outcome State Fault Refusal :=
  let limit : Int := ((railMax rail * 125 / 100 : Nat) : Int)
  if ch < 2 ∧ 2 ≤ rail ∧ rail ≤ 11 ∧ limit < value then
    .next (s.decide_ { no := 2, chans := 2 ^ ch, sensor := rail, value := value, limit := limit })
  else .next s

/-- A limit of SAFE_LIM in °C, never beyond its ceiling, in 0.1 °C (R691, R713). -/
def State.safeLim (s : State) (f : Field) (ceil : Nat) : Int := ((10 * min ceil (s.get f 0) : Nat) : Int)

/-- DIE_OT: channel A's diodes (sensors 0 to 39) at or above DIE_TRIP, channel B's thermistors 48 to 50 at or above 95 °C. -/
def execHazDieOt (ch sensor : Nat) (value : Int) (s : State) : Host.Outcome State Fault Refusal :=
  let limit : Int := if ch = 0 then s.safeLim F.SAFE_LIM_DIE_TRIP 115 else 950
  let mine := if ch = 0 then decide (sensor < 40) else decide (48 ≤ sensor) && decide (sensor ≤ 50)
  if ch < 2 ∧ mine ∧ limit ≤ value then
    .next (s.decide_ { no := 3, chans := 2 ^ ch, sensor := sensor, value := value, limit := limit })
  else .next s

/-- HBM_OT: the stacks (sensors 40 to 47) at or above HBM_TRIP, thermistors 51 to 54 at or above 90 °C. -/
def execHazHbmOt (ch sensor : Nat) (value : Int) (s : State) : Host.Outcome State Fault Refusal :=
  let limit : Int := if ch = 0 then s.safeLim F.SAFE_LIM_HBM_TRIP 105 else 900
  let mine := if ch = 0 then decide (40 ≤ sensor) && decide (sensor ≤ 47) else decide (51 ≤ sensor) && decide (sensor ≤ 54)
  if ch < 2 ∧ mine ∧ limit ≤ value then
    .next (s.decide_ { no := 4, chans := 2 ^ ch, sensor := sensor, value := value, limit := limit })
  else .next s

/-- COOLANT, while the input is above 300 W: channel A by flow (sensor 0, 0.01 L/min, below FLOW_TRIP) or outlet (sensor 1, at or above
OUT_TRIP); channel B by its flow switch (sensor 0, 0 closed) or thermistor 55 at or above 80 °C. -/
def execHazCoolant (ch sensor : Nat) (value : Int) (s : State) : Host.Outcome State Fault Refusal :=
  let flow : Int := ((10 * max 10 (s.get F.SAFE_LIM_FLOW_TRIP 0) : Nat) : Int)
  let limit : Int :=
    if ch = 0 then (if sensor = 0 then flow else s.safeLim F.SAFE_LIM_OUT_TRIP 80) else if sensor = 0 then 0 else 800
  let hit :=
    if ch = 0 then (decide (sensor = 0) && decide (value < limit)) || (decide (sensor = 1) && decide (limit ≤ value))
    else (decide (sensor = 0) && decide (value ≤ 0)) || (decide (sensor = 55) && decide (limit ≤ value))
  if ch < 2 ∧ hit ∧ 3000 < s.get F.PWR_IN_PIN 0 then
    .next (s.decide_ { no := 5, chans := 2 ^ ch, sensor := sensor, value := value, limit := limit })
  else .next s

/-- Cross-checked pairs (R689): the time a pair may stay out of its band, its limit in the units of R707, and whether it is a current or
voltage pair. 0 to 13 rail currents, 16 to 28 rail voltages, 48 to 50 die thermistors, 51 to 54 HBM thermistors, 55 the outlet, 60 the
flow meter against the switch. -/
def pairTime (p : Nat) : Nat := if p < 29 then 100 * msAclk else if p = 60 then 2000 * msAclk else 1000 * msAclk
def pairLimit (p : Nat) (partner : Int) : Int :=
  if p < 14 then partner / 10 + 50
  else if p < 29 then ((railNominal (p - 16) * 3 / 1000 : Nat) : Int)
  else if p ≤ 50 then 150 else if p ≤ 54 then 120 else if p = 55 then 50 else if partner = 0 then 150 else 50
def pairOpens (p : Nat) : Bool := decide (p < 29)

/-- XCHK (R689, R690): a pair that has stayed out of its band for its time. Both channels see the disagreement. -/
def execHazXchk (ch pair : Nat) (value partner : Int) (s : State) : Host.Outcome State Fault Refusal :=
  match find? s.safe.out pair with
  | some t =>
    if ch < 2 then
      .next ((s.at_ (t + pairTime pair)).decide_ { no := 6, chans := 3, sensor := if pair < 29 then pair % 16 else pair, value := value,
                                                   limit := pairLimit pair partner, partner := partner, opens := pairOpens pair })
    else .next s
  | none => .next s

/-- CHANNEL (R689, R690, R696): three frames missing in a row, the partner's clock more than 1 % off, or an output that fails its test. -/
def execHazChannel (ch : Nat) (s : State) : Host.Outcome State Fault Refusal :=
  if ch < 2 then .next (s.decide_ { no := 7, chans := 2 ^ ch, opens := true }) else .next s

/-- FABRIC (R690): the hub's duplicated route lookup or header generation disagrees on the packet at the front of an arrival queue, which
is dropped. -/
def execHazFabric (inLink vc : Nat) (s : State) : Host.Outcome State Fault Refusal :=
  let s := s.modLink inLink (fun l => { l with rxq := l.rxq.filterMap (fun q =>
    if q.1 = vc then (if (q.2.drop 1).isEmpty then none else some (q.1, q.2.drop 1)) else some q) })
  .next (s.decide_ { no := 8, chans := 1 })

/-! ### Heartbeats and acknowledgement (R689, R693) -/

/-- SAFETY_HEARTBEAT_SEND (R689): every 1 ms; the frame carries the active hazards and the acknowledgement. -/
def execSafetyHeartbeatSend (ch : Nat) (s : State) : Host.Outcome State Fault Refusal :=
  if 2 ≤ ch ∨ (ch = 0 ∧ !s.hubUp) ∨ (ch = 1 ∧ s.hst.auxLost) then .next s
  else
    let s := s.at_ ((if ch = 0 then s.safe.sentA else s.safe.sentB) + msAclk)
    let s := s.modSafe (fun b => if ch = 0 then { b with sentA := s.now } else { b with sentB := s.now })
    .next (s.send (.spi ch [if ch = 0 then s.get F.SAFE_HAZ_A_ACTIVE 0 else s.safe.bActive, s.get F.SAFE_STATUS_A_ACK 0]))

/-- SAFETY_HEARTBEAT (R689): channel `ch` receives its partner's frame; pairs that leave their band start their time; `active` are the
partner's active hazards. -/
def execSafetyHeartbeat (ch : Nat) (ok : Bool) (outOfBand : List Nat) (active : Nat) (s : State) : Host.Outcome State Fault Refusal :=
  if 2 ≤ ch then .next s
  else if !ok then
    let s := (s.flag F.SAFE_EVT_HB_MISS 0).modSafe (fun b => if ch = 0 then { b with missA := b.missA + 1 } else { b with missB := b.missB + 1 })
    .next (if ch = 0 then (s.set F.SAFE_STATUS_B_OK 0 0).set F.CLK_STATUS_SCLKB_OK 0 0 else s)
  else
    let s := s.flagIf (outOfBand.any (fun p => (find? s.safe.out p).isNone)) F.SAFE_EVT_XCHK_WARN 0
    let s := s.modSafe (fun b =>
      let b := { b with out := outOfBand.foldl (fun l p => insertAt natLt l p (lookD s.now b.out p)) [] }
      if ch = 0 then { b with missA := 0, bActive := active % 512 } else { b with missB := 0 })
    .next (if ch = 0 then ((s.set F.SAFE_STATUS_B_OK 0 1).set F.CLK_STATUS_SCLKB_OK 0 1).set F.SAFE_HAZ_B_ACTIVE 0 active else s.set F.SAFE_HAZ_A_ACTIVE 0 active)

/-- SAFE_ACK (R693): rails 2 to 9 are below 10 %. -/
def execSafeAck (s : State) : Host.Outcome State Fault Refusal :=
  if s.tripped then .next ((s.set F.SAFE_STATUS_A_ACK 0 1).modSafe (fun b => { b with tripAt := none })) else .next s

/-- SAFE_ACK_TIMEOUT (R693): no acknowledgement within 1 ms of a trip that channel B has decided or seen. -/
def execSafeAckTimeout (s : State) : Host.Outcome State Fault Refusal :=
  match s.safe.tripAt with
  | some t =>
    if s.get F.SAFE_STATUS_A_ACK 0 = 0 then .next (((s.at_ (t + msAclk)).modSafe (fun b => { b with tripAt := none })).safeOpen) else .next s
  | none => .next s

/-! ### Rearm (R697, R714) -/

/-- A rearm of a latched trip: accepted or refused by channel B. -/
def State.rearm (s : State) : State :=
  if !s.tripped then s
  else
    let open_ := decide (s.pwr.efuse = 0)
    let ok := decide (s.get F.SAFE_HAZ_A_ACTIVE 0 = 0) && decide (s.safe.bActive = 0) && decide (s.get F.SAFE_STATUS_REARMS 0 < 3)
      && (!open_ || [2, 3, 6].contains (s.get F.PWR_STATUS_EFUSE_TRIP 0))
    if !ok then s.flag F.SAFE_EVT_REARM_REFUSED 0
    else
      let s := s.set F.SAFE_STATUS_REARMS 0 (s.get F.SAFE_STATUS_REARMS 0 + 1)
      let s := (s.set F.SAFE_STATUS_TRIPPED 0 0).set F.SAFE_STATUS_EFUSE_BY_SAFE 0 0
      let s := (s.wr ⟨.SAFE_TRIP_LOG, 0, 0⟩ 0).modSafe (fun b => { b with tripAt := none, bled := false })
      let s := s.modPwr (fun p => { p with latched := false })
      let s := if open_ then (s.setEfuse 1).modPwr (fun p => { p with softAt := s.now }) else s
      s.selfReset

/-- A write to SAFE_REARM (R714): the hub's and the host's; a wrong key has no effect and is recorded. -/
def State.rearmWrite (s : State) (m : Master) (v : Word) : State :=
  let n := v.toNat % 2 ^ 32
  if m ≠ .hub ∧ m ≠ .host then s.logAccess .SAFE 0 1 m.code 0x200003015020 n
  else if n / 2 ^ 16 ≠ 0x5241 then s.logAccess .SAFE 0 2 m.code 0x200003015020 n
  else if n % 2 = 1 then s.rearm else s

/-- SAFE_REARM (R697, R714). -/
def execSafeRearm (m : Master) (v : Word) (s : State) : Host.Outcome State Fault Refusal :=
  .next (s.regCmd m .SAFE 0 (fun s => s.rearmWrite m v))

/-- REARM_PIN (R697): MOD_RST_N has been low for 1 s. -/
def execRearmPin (s : State) : Host.Outcome State Fault Refusal :=
  match s.hst.modRstLow with
  | some t => if s.hst.auxLost then .next s else .next ((s.at_ (t + 1000 * msAclk)).rearm)
  | none => .next s

/-! ### Clearing the persistent store (R708, R721) -/

/-- The proposals after a clear. -/
def State.setProps (s : State) (l : List (Nat × Proposal)) : State :=
  let s := (List.range 32).foldl (fun (s : State) n =>
    s.wr ⟨.ELOG_PROP, 0, n⟩ (match find? l n with
      | some p => BitVec.ofNat 64 p.word
      | none => 0)) s
  ({ s with props := l } : State).set F.ELOG_STATUS_PROPS 0 l.length

/-- A write to ELOG_PROP_CLR (R721). -/
def State.propClrWrite (s : State) (v : Word) : State :=
  let n := v.toNat % 2 ^ 32
  let s := if bitOf n 31 then s.setProps [] else s
  let s := if bitOf n 30 then ({ s with pers := [] } : State).set F.ELOG_STATUS_PERS 0 0 else s
  if bitOf n 31 || bitOf n 30 then s else s.setProps (dropKey s.props (n % 32))

/-- PROP_CLEAR_ALL (R721). -/
def execPropClearAll (m : Master) (s : State) : Host.Outcome State Fault Refusal :=
  .next (s.regCmd m .ELOG 0 (fun s => s.propClrWrite 0x80000000))

/-- PERS_CLEAR (R721). -/
def execPersClear (m : Master) (s : State) : Host.Outcome State Fault Refusal :=
  .next (s.regCmd m .ELOG 0 (fun s => s.propClrWrite 0x40000000))

/-- PROP_CLEAR_INDEX (R721). -/
def execPropClearIndex (m : Master) (n : Nat) (s : State) : Host.Outcome State Fault Refusal :=
  .next (s.regCmd m .ELOG 0 (fun s => s.propClrWrite (BitVec.ofNat 64 (n % 32))))

end Sys2Proof.Machine
end

