-- ==== Sys2Proof/Machine/StartUp.lean ====
section
/-! DEFINITION. Start-up, the configuration image and fabric discovery (R558 to R579): phases, neighbours, spare modules, chrysalis mode. -/

namespace Sys2Proof.Machine

open Sys2Proof

/-! ### NV memory and the boot block (R558, R559) -/

/-- CRC-32 of IEEE 802.3 (R397). -/
def crcBit (c : Nat) : Nat := if c % 2 = 1 then (c / 2) ^^^ 0xEDB88320 else c / 2
def crcByte (c : Nat) (b : Byte) : Nat := (List.range 8).foldl (fun c _ => crcBit c) (c ^^^ b.toNat)
def crc32 (bs : List Byte) : Nat := bs.foldl crcByte 0xFFFFFFFF ^^^ 0xFFFFFFFF

/-- The boot block's MAGIC and CRC hold (R559). -/
def State.bootBlockOk (s : State) : Bool :=
  decide (leNat (getBytes s.hst.nv 0 4) = 0x42395456) && decide (leNat (getBytes s.hst.nv 252 4) = crc32 (getBytes s.hst.nv 0 252))

/-- Offset and size of a copy: 0 FW_A, 1 FW_B, 2 CFG_A, 3 CFG_B (R558). -/
def nvPlace (copy : Nat) : Nat × Nat :=
  match copy with
  | 0 => (0x100000, 0x800000)
  | 1 => (0x900000, 0x800000)
  | 2 => (0x1100000, 0x1000000)
  | _ => (0x2100000, 0x1000000)

/-! ### Phases (R566) -/

/-- Start-up is at phase `p`: the hub runs, no reset is in progress, no chrysalis mode. A module in its safe state goes no further than
SELFTEST (R695, R696). -/
def State.atPhase (s : State) (p : Nat) : Bool :=
  s.episode.isNone && s.pwr.wdAt.isNone && !s.chrysalis && !(s.tripped && decide (4 < p)) && decide (s.get F.NVCF_STATUS_PHASE 0 = p)

/-- The end of a phase: its time, and the next phase (R585). -/
def State.phaseTime (s : State) (p : Nat) : State := s.set F.NVCF_PHASE_T_TIME 0 ((s.now - s.romAt) / usAclk) p
def State.startEnd (s : State) (p : Nat) : State :=
  ((s.phaseTime p).set F.NVCF_STATUS_PHASE 0 (p + 1)).modStart (fun x => { x with phaseAt := s.now })

/-- Chrysalis mode begins (R578): RWL fields lock, links and time outputs stay off. -/
def State.enterChrysalis (s : State) (cause : Nat) : State :=
  let s := (s.set F.NVCF_STATUS_CHRYSALIS 0 1).set F.NVCF_STATUS_CHRY_CAUSE 0 cause
  { s with started := true }

/-- A failed start (R566, R570): ATTEMPTS keeps its increment, and start-up begins again at BACKUP. -/
def State.failedStart (s : State) : State :=
  let s := (s.modStart (fun x => { x with counted := false })).hubReset
  let s := ((s.set F.CLK_STATUS_XO_OK 0 1).set F.CLK_STATUS_ROOT_LOCK 0 1).set F.NVCF_STATUS_PHASE 0 1
  s.modStart (fun x => { x with phaseAt := s.now })

/-- POWER (R566, R661): the hub rails come up behind a closed eFuse; otherwise the module stays unpowered. -/
def execPowerPhase (ok : Bool) (s : State) : Host.Outcome State Fault Refusal :=
  if s.atPhase 0 && ok && decide (s.pwr.efuse = 2) then
    .next (((s.set F.CLK_STATUS_XO_OK 0 1).set F.CLK_STATUS_ROOT_LOCK 0 1).startEnd 0)
  else .next s

/-- First-use initialisation of a blank backup domain (R571). -/
def State.firstUse (s : State) : State :=
  if s.start.backupOk then s
  else
    let s := s.resetRegs (fun k => decide (k.reg = .RST_HIST) || decide (k.reg = .RST_COUNT) || decide (k.reg = .ELOG_PROP)) (fun _ => false)
    let s := (({ s with pers := [], props := [] } : State).set F.ELOG_STATUS_PERS 0 0).set F.ELOG_STATUS_PROPS 0 0
    let s := ((s.set F.NVCF_STATUS_ATTEMPTS 0 0).set F.NVCF_STATUS_LIMIT 0 3).set F.NVCF_STATUS_FIRST_USE 0 1
    (s.modStart (fun x => { x with backupOk := true })).logNotice .NVCF 0 3

/-- ATTEMPTS tested and incremented (R570). -/
def State.backupTest (s : State) : State :=
  let s := s.firstUse
  let a := s.get F.NVCF_STATUS_ATTEMPTS 0
  if s.get F.NVCF_STATUS_LIMIT 0 ≤ a then s.enterChrysalis 1
  else ((s.set F.NVCF_STATUS_ATTEMPTS 0 (min 7 (a + 1))).modStart (fun x => { x with counted := true })).startEnd 1

/-- BACKUP (R570, R571). -/
def execBackupPhase (s : State) : Host.Outcome State Fault Refusal := if s.atPhase 1 then .next s.backupTest else .next s

/-- A firmware copy passes (R560). -/
def State.fwOk (s : State) (f : FwImage) : Bool :=
  f.magicOk && f.digestOk && f.sigOk && decide (f.keyHash = s.fuse.vendorKey) && decide (s.fuse.minSvn ≤ f.svn)

/-- FIRMWARE (R559, R560). -/
def execFirmwarePhase (a b : FwImage) (s : State) : Host.Outcome State Fault Refusal :=
  if !(s.atPhase 2) then .next s
  else
    let s := s.kickWrite
    let s := if s.bootBlockOk then s else (s.flag F.NVCF_EVT_BOOT_BLOCK 0).startNotice 2
    if s.fwOk a then .next (((s.set F.NVCF_STATUS_FW_COPY 0 0).modStart (fun x => { x with fw := some a })).startEnd 2)
    else
      let s := (s.flag F.NVCF_EVT_FW_A_BAD 0).startNotice 0
      if s.fwOk b then .next (((s.set F.NVCF_STATUS_FW_COPY 0 1).modStart (fun x => { x with fw := some b })).startEnd 2)
      else .next (s.enterChrysalis 2)

/-- A configuration copy passes (R561 to R564). -/
def State.cfgOk (s : State) (c : CfgImage) : Bool :=
  c.magicOk && c.layoutOk && c.digestOk && c.sigOk && decide (c.keyHash = s.fuse.owner.getD s.fuse.vendorKey)
    && (decide (c.serial = 0) || decide (c.serial = s.fuse.serial)) && c.regs.all s.recOk && s.nvCovered c.regs

/-- NVCF_SPARE_CL's entries in preference order (R584). -/
def spareWord (l : List (Nat × Nat)) : Nat :=
  (l.take 8).zipIdx.foldl (fun w (p, e) => w + (128 + p.1 % 2 * 64 + p.2 % 64) * 2 ^ (8 * e)) 0

/-- The hub's part of a configuration image (R562, R563): its records, the route table, expected partners, spares, identity. -/
def State.applyCfg_ (s : State) (c : CfgImage) (copy : Nat) : State :=
  let s := s.applyRecs (fun b => !b.onDie) c.regs
  let s := c.routes.zipIdx.foldl (fun s (w, i) => if i < 16384 then s.wr ⟨.EVL_ROUTE, 36, i⟩ (BitVec.ofNat 64 (w % 2 ^ 32) &&& Reg.EVL_ROUTE.fieldMask) else s) s
  let s := c.expect.zipIdx.foldl (fun s (p, n) =>
    if n < 36 then (s.set F.NVCF_NB_EXPECT_MOD 0 p.1 n).set F.NVCF_NB_EXPECT_LINK 0 p.2 n else s) s
  let s := ((s.set F.NVCF_SPARE_MOD_VALID 0 (b2n c.spareMod.isSome)).set F.NVCF_SPARE_SPARE_MOD 0 (c.spareMod.getD 0)).set F.NVCF_SPARE_SERVES 0 (b2n c.serves)
  let s := s.set F.NVCF_SPARE_CL_ENTRIES 0 (spareWord c.spareCl)
  let s := ((s.set F.NVCF_STATUS_CFG_SEQ 0 c.seq).set F.NVCF_STATUS_CFG_COPY 0 copy).set F.NVCF_FABRIC_FABRIC_ID 0 c.fabricId
  (s.set F.NVCF_FABRIC_FABRIC_GEN 0 c.fabricGen).modStart (fun x => { x with cfg := some c })

/-- CONFIG (R561 to R565): the first copy that passes is applied; the valve loop starts at the end (R670), and RST_HWDOG governs the hub
watchdog from here on (R634). -/
def execConfigPhase (a b : CfgImage) (s : State) : Host.Outcome State Fault Refusal :=
  if !(s.atPhase 3) then .next s
  else
    let s := s.kickWrite
    if s.cfgOk a then .next (((s.applyCfg_ a 0).startEnd 3).valveStart)
    else
      let s := (s.flag F.NVCF_EVT_CFG_A_BAD 0).startNotice 1
      if s.cfgOk b then .next (((s.applyCfg_ b 1).startEnd 3).valveStart) else .next (s.enterChrysalis 3)

/-- SELFTEST (R566, R696): a latched trip of channel B stops start-up here in SAFE, which is no failed start; a failing channel output is a
CHANNEL hazard. -/
def execSelftestPhase (r : SelfTest) (s : State) : Host.Outcome State Fault Refusal :=
  if !(s.atPhase 4) then .next s
  else if !r.aOk then .next (s.decide_ { no := 7, chans := 1, opens := true })
  else if !r.bOk then .next (s.decide_ { no := 7, chans := 2, opens := true })
  else if s.tripped then
    let s := if s.start.counted then s.set F.NVCF_STATUS_ATTEMPTS 0 (s.get F.NVCF_STATUS_ATTEMPTS 0 - 1) else s
    .next ((s.set F.PWR_STATUS_STATE 0 3).modStart (fun x => { x with counted := false }))
  else if r.ok then .next (s.startEnd 4)
  else .next s.failedStart

/-! ### DIES (R36, R224, R225, R264, R319, R566, R567, R628) -/

/-- Cluster domains turn on, clocks run, PLLs lock (R677, R639). -/
def State.powerDies (s : State) : State :=
  let on (d : Nat) : Nat := (List.range 48).foldl (fun w n => if s.fusedCl.contains (48 * d + n) then w else w + 2 ^ n) 0
  let s := (s.set F.PWR_STATUS_STATE 0 2).modPwr (fun p => { p with turning := [] })
  let s := [0, 1].foldl (fun s d => ((s.set F.PWR_CDOM_ON 0 (on d) d).set F.PWR_CDOM_PG_PG 0 (on d) d).set F.CLK_GATE_GATED 0 0 d) s
  (s.set F.CLK_STATUS_C0_LOCK 0 1).set F.CLK_STATUS_C1_LOCK 0 1

/-- One failed row of an ME array (R36): the spare, or the core is fenced when it is in use. -/
def State.repairRow (s : State) (core : Nat) (b : Bool) (row : Nat) : State :=
  let f := if b then F.ME_REPAIR_B_SPARE else F.ME_REPAIR_A_SPARE
  if s.get f core = 16 then s.set f core row else if s.fenced core then s else s.fenceDegraded core

/-- A bank is retired (R225). -/
def State.retireBank (s : State) (core bank : Nat) : State :=
  if 6 ≤ bank then s else s.setBit F.SPD_MAP_RETIRED core bank true

/-- A bank fails its test (R224): a read mismatches or is uncorrectable in a pass with any background, or more than 8 errors are corrected
during the test. -/
def bankFails (t : BankTest) : Bool :=
  t.runs.any (fun r => r.mismatch || r.uncorrectable) || decide (8 < (t.runs.map MarchRun.corrected).sum)

/-- A spare position of 17 to 31 in ME_REPAIR fences the core (R61). -/
def State.settleSpare (s : State) (core : Nat) : State :=
  if (16 < s.get F.ME_REPAIR_A_SPARE core ∨ 16 < s.get F.ME_REPAIR_B_SPARE core) ∧ s.corePresent core ∧ !(s.fenced core) then s.fenceDegraded core else s

/-- Retired banks are held OFF; more than two fence the core (R225). -/
def State.settleBanks (s : State) (core : Nat) : State :=
  let s := s.holdRetired core
  if 2 < ((List.range 6).filter (fun b => bitOf (s.get F.SPD_MAP_RETIRED core) b)).length ∧ !(s.fenced core) then s.fenceDegraded core else s

/-- A router out of use at start-up: its cluster's cores are fenced and recorded (R319, R330). -/
def State.deadRouter (s : State) (die cl : Nat) : State :=
  let i := 48 * die + cl
  if (s.router i).faulty ∨ 2 ≤ die ∨ 48 ≤ cl then s
  else
    let cause := s.get F.ELOG_STATUS_NEXT_SEQ 0 - 1
    let s := s.setRouter i { s.router i with faulty := true }
    let s := (List.range 16).foldl (fun s n => s.fence (coreId i n)) s
    s.logRec 3 Blk.MESH.code 0x603 i 0xFF 0 (leBytes 4 (die * 2 ^ 16 + cl) ++ leBytes 4 0 ++ leBytes 4 cause)

/-- Live partners that router `x` cannot reach under the written tables. -/
def State.unreached (s : State) (die x : Nat) : Nat :=
  let dead := s.deadRouters die
  (List.range 48).countP (fun y => !(dead.contains y) && decide (s.route die x y = 7))

/-- Route tables of a die; further clusters are fenced until every live pair has a route (R319): the one with the most missing routes
first, the lowest-numbered on a tie. -/
def State.startRoutes (s : State) (die : Nat) : Nat → State
  | 0 => s
  | n + 1 =>
    let s := s.reroute die
    let dead := s.deadRouters die
    let miss := ((List.range 48).filter (fun x => !(dead.contains x))).map (fun x => (x, s.unreached die x))
    match miss.foldl (fun (best : Option (Nat × Nat)) p => match best with
      | none => if 0 < p.2 then some p else none
      | some q => if q.2 < p.2 then some p else best) none with
    | none => s
    | some (x, _) => State.startRoutes (s.deadRouter die x) die n

/-- Repair proposals of the persistent store (R567, R709). -/
def State.applyProposal (s : State) (p : Proposal) : State :=
  match p.kind with
  | 0 => if p.row ≤ 16 then s.repairRow p.core (decide (p.array = 1)) p.row else s
  | 1 => s.retireBank p.core p.bank
  | 2 => s.deadRouter (dieOf p.core) (clusterOf p.core)
  | _ => s

/-- What the array, bank and router tests found (R36, R224, R319). -/
def State.applyTests (s : State) (r : DiesResult) : State :=
  let s := r.meRows.foldl (fun s x => s.repairRow x.1 x.2.1 x.2.2) s
  let s := r.meBad.foldl (fun s c => if s.fenced c then s else s.fenceDegraded c) s
  let s := (r.banks.filter bankFails).foldl (fun s x => s.retireBank x.core x.bank) s
  r.routers.foldl (fun s x => s.deadRouter x.1 x.2) s

/-- The resident load joins the front of the loader's queue (R568). -/
def State.queueResident (s : State) : State :=
  if (s.start.cfg.bind CfgImage.resident).isNone then s
  else
    let r : LoadReq := { occ := 0, mbx := none, tag := 0, addr := 0, report := 0 }
    (({ s with loadQ := r :: s.loadQ } : State).set F.NVCF_STATUS_LOADING 0 1).modStart (fun x => { x with resLoad := 1 })

/-- DIES: rails, records, repairs, tests, routes, zeroed memory; after a warm reset no tests and no zero-fill, and the link records are
applied again (R628). -/
def execDiesPhase (r : DiesResult) (s : State) : Host.Outcome State Fault Refusal :=
  if !(s.atPhase 5) then .next s
  else
    let warm := s.start.warm
    let regs := (s.start.cfg.map CfgImage.regs).getD []
    let s := ({ s with warmHold := false } : State).powerDies
    let s := s.applyRecs (fun b => b.onDie || (warm && b.warm)) regs
    let s := if warm then s else { s with mem := [], bad := [], inj := [] }
    let s := s.props.foldl (fun s p => s.applyProposal p.2) s
    let s := if warm then s else s.applyTests r
    let s := (List.range 96).foldl (fun s cl => (List.range 16).foldl (fun s n => (s.settleSpare (coreId cl n)).settleBanks (coreId cl n)) s) s
    let s := (s.startRoutes 0 48).startRoutes 1 48
    let fail := [0, 1].filter (fun d => r.dieFail.contains d)
    let s := fail.foldl (fun s d => ((s.flag F.NVCF_EVT_DIE_FAIL 0).startNotice 3).fenceDie d) s
    if fail.length = 2 then .next s.failedStart else .next (s.queueResident.startEnd 5)

/-! ### LINKS to READY -/

/-- Every enabled link is ACTIVE. -/
def State.linksUp (s : State) : Bool := (List.range 36).all (fun n => decide (s.get F.EVL_CFG_EN n = 0) || s.linkActive n)

/-- LINKS (R566). -/
def execLinksPhase (s : State) : Host.Outcome State Fault Refusal := if s.atPhase 6 && s.linksUp then .next (s.startEnd 6) else .next s

/-- The end of NEIGHBOUR: the time reference starts looking for its master (R480, R491); a warm reset skips TIME (R569). -/
def State.neighbourEnd (s : State) : State := if s.start.warm then s.startEnd 7 else (s.startEnd 7).timeStart

/-- NEIGHBOUR (R572): a HELLO has come on every ACTIVE link. -/
def execNeighbourPhase (s : State) : Host.Outcome State Fault Refusal :=
  if s.atPhase 7 && (List.range 36).all (fun n => !(s.linkActive n) || decide (s.get F.NVCF_NB_RESULT 0 n ≠ 0)) then .next s.neighbourEnd
  else .next s

/-- TIME (R566): the timebase is VALID. -/
def execTimePhase (s : State) : Host.Outcome State Fault Refusal :=
  if s.atPhase 8 && !s.start.warm && s.tvalid then .next (s.phaseTime 8) else .next s

/-- READY (R560, R569, R570): start-up is complete; RWL fields lock, ATTEMPTS clears, LIMIT is copied, MIN_SVN may rise. -/
def execReadyPhase (s : State) : Host.Outcome State Fault Refusal :=
  if s.atPhase 8 && decide (s.get F.NVCF_PHASE_T_TIME 0 8 ≠ 0xFFFFFFFF) then
    let s := (s.phaseTime 9).set F.NVCF_STATUS_PHASE 0 9
    let s := ((s.set F.NVCF_STATUS_READY 0 1).set F.NVCF_STATUS_ATTEMPTS 0 0).set F.NVCF_STATUS_LIMIT 0 (max 2 (s.get F.NVCF_CFG_START_LIMIT 0))
    let svn := match s.start.fw with
      | some f => if f.raiseSvn then max s.fuse.minSvn f.svn else s.fuse.minSvn
      | none => s.fuse.minSvn
    .next (({ s with started := true, fuse := { s.fuse with minSvn := svn } } : State).modStart (fun x =>
      { x with warm := false, counted := false, hbAt := s.now, phaseAt := s.now }))
  else .next s

/-- A link that is enabled and not ACTIVE when LINK_WAIT ends (R566). -/
def State.linkLate (s : State) : State := if s.linksUp then s else (s.flag F.NVCF_EVT_LINK_LATE 0).startNotice 4

/-- The bound of a phase in ACLK (R566). -/
def State.phaseBound (s : State) (p : Nat) : Nat :=
  msAclk * ([50, 1, 120, 300, 500, 800, s.get F.NVCF_CFG_LINK_WAIT 0, 10, 10 * s.get F.NVCF_CFG_TLOCK_MAX 0].getD p 0)

/-- PHASE_TIMEOUT (R566): a phase exceeds its bound. A module that stays in SAFE at the end of SELFTEST exceeds none (R696). -/
def execPhaseTimeout (phase : Nat) (s : State) : Host.Outcome State Fault Refusal :=
  if !(s.atPhase phase) || decide (9 ≤ phase) || (decide (phase = 4) && s.tripped && decide (s.get F.PWR_STATUS_STATE 0 = 3)) then .next s
  else
    let s := s.at_ (s.start.phaseAt + s.phaseBound phase)
    match phase with
    | 1 => .next (s.modStart (fun x => { x with backupOk := false })).backupTest
    | 2 => .next (s.enterChrysalis 2)
    | 3 => .next (s.enterChrysalis 3)
    | 4 => .next s.failedStart
    | 5 => .next s.failedStart
    | 6 => .next (s.linkLate.startEnd 6)
    | 7 => .next s.neighbourEnd
    | 8 => if s.tvalid || s.start.warm then .next s else .next (((s.flag F.NVCF_EVT_TIME_LATE 0).startNotice 6).phaseTime 8)
    | _ => .next s

/-! ### Neighbours (R572) -/

/-- A HELLO has been sent since the link became ACTIVE. -/
def State.helloSent (s : State) (n : Nat) : Bool :=
  match find? s.start.helloAt n with
  | some t => decide ((s.link n).downAt < t)
  | none => false

/-- HELLO_SEND (R572): every 1 ms until the partner's HELLO has come, and once in any case. -/
def execHelloSend (link : Nat) (s : State) : Host.Outcome State Fault Refusal :=
  if decide (link < 36) && s.linkActive link && decide (6 ≤ s.get F.NVCF_STATUS_PHASE 0) && s.episode.isNone
      && (decide (s.get F.NVCF_NB_RESULT 0 link = 0) || !(s.helloSent link)) then
    let s := if s.helloSent link then s.at_ (lookD 0 s.start.helloAt link + msAclk) else s
    let s := s.modStart (fun x => { x with helloAt := insertAt natLt x.helloAt link s.now })
    .next (s.send (.linkMsg link 1 [0xFFFF, s.modId, link, s.get F.NVCF_FABRIC_FABRIC_ID 0, s.get F.NVCF_FABRIC_FABRIC_GEN 0, s.fuse.serial]))
  else .next s

/-- What a HELLO's checks find (R572, R586). -/
def State.helloResult (s : State) (n : Nat) (h : HelloMsg) : Nat :=
  let em := s.get F.NVCF_NB_EXPECT_MOD 0 n
  let el := s.get F.NVCF_NB_EXPECT_LINK 0 n
  if h.fabricId ≠ s.get F.NVCF_FABRIC_FABRIC_ID 0 ∨ h.fabricGen ≠ s.get F.NVCF_FABRIC_FABRIC_GEN 0 then 4
  else if em ≠ 0xFFFF ∧ h.modId ≠ em then 2
  else if el ≠ 63 ∧ h.link ≠ el then 3
  else if h.modId ≠ s.get F.EVL_STATUS_PARTNER_MOD n ∨ h.link ≠ s.get F.EVL_STATUS_PARTNER_LINK n then 5
  else 1

/-- HELLO (R572): the link is admitted, or its EN is cleared and it goes DOWN. -/
def execHello (link : Nat) (h : HelloMsg) (s : State) : Host.Outcome State Fault Refusal :=
  if !(decide (link < 36) && s.linkActive link) then .next s
  else
    let s := s.set F.NVCF_NB_SEEN_MOD 0 h.modId link
    let r := s.helloResult link h
    if r = 1 then .next ((s.set F.NVCF_NB_ADMITTED 0 1 link).set F.NVCF_NB_RESULT 0 1 link)
    else
      let s := ((s.set F.EVL_CFG_EN link 0).linkDown link).set F.NVCF_NB_RESULT 0 r link
      .next ((s.flag F.NVCF_EVT_NEIGHBOUR 0).startNotice 5)

/-! ### Spare modules (R574 to R576) -/

/-- Registrations of this module's tasks. -/
def State.registrations (s : State) : Nat := s.tasks.countP (fun t => decide (t.2.reg ≠ 0))

/-- HEARTBEAT_SEND (R574, R695). -/
def execHeartbeatSend (s : State) : Host.Outcome State Fault Refusal :=
  let p := s.get F.NVCF_CFG_HB_PERIOD 0
  if s.atPhase 9 && !s.tripped && decide (0 < p) && decide (0 < s.registrations) then
    let s := s.at_ (s.start.hbAt + p * msAclk)
    let s := s.modStart (fun x => { x with hbAt := s.now, hbSeq := (x.hbSeq + 1) % 65536 })
    .next (s.hubMsg (s.get F.NVCF_SPARE_SPARE_MOD 0) 2 [s.modId, s.start.hbSeq, min 255 s.registrations])
  else .next s

/-- The spare's table changes: its occupancy (R584). -/
def State.setRegs (s : State) (l : List SpareReg) : State :=
  (({ s with spareRegs := l } : State).set F.NVCF_SPARE_REG_IN_USE 0 l.length).set F.NVCF_SPARE_REG_HIGH 0
    (max (s.get F.NVCF_SPARE_REG_HIGH 0) l.length)

/-- HEARTBEAT (R575). -/
def execHeartbeat (fromMod _seq : Nat) (s : State) : Host.Outcome State Fault Refusal :=
  .next { s with spareRegs := s.spareRegs.map (fun r => if r.mod = fromMod then { r with lastHb := s.now } else r) }

/-- Steps 2 and 3 of R545: the alias is adopted and announced, and the image loads as RECOVERY. -/
def State.takeGo (s : State) (k : TakeSt) : State :=
  let m := k.reg.mod
  let n := (lookD 0 s.aseq m + 1) % 2 ^ 32
  let s := (s.set F.HUBC_ALIAS_ALIAS_EN 0 1).set F.HUBC_ALIAS_ALIAS_ID 0 m
  let s := { s with aseq := insertAt natLt s.aseq m n }
  let s := s.admittedLinks.foldl (fun (s : State) l => s.send (.linkMsg l 10 [0xFFFF, m, s.modId, n])) s
  let r : LoadReq := { occ := 3, mbx := none, tag := 0, addr := k.reg.desc.imageAddr, report := m * 64 + k.reg.slot }
  { s with loadQ := s.loadQ ++ [r], taking := s.taking.map (fun q => if q = k then { k with step := 2, left := [] } else q) }

/-- A takeover begins (R545 step 1, R575, R576): the registration is dropped, each neighbour listed is asked to isolate the module. -/
def State.takeBegin (s : State) (reg : SpareReg) (asked : Bool) : State :=
  let k : TakeSt := { reg := reg, asked := asked, since := s.now, left := reg.nbrs, step := 1 }
  let s := s.setRegs (s.spareRegs.filter (fun r => !(decide (r.mod = reg.mod) && decide (r.slot = reg.slot))))
  let s := { s with taken := s.taken ++ [(reg.mod, reg.slot)], taking := s.taking ++ [k] }
  let s := reg.nbrs.foldl (fun (s : State) n => s.hubMsg n 8 [reg.mod]) s
  if reg.nbrs.isEmpty then s.takeGo k else s

/-- SILENT (R575): no HEARTBEAT for HB_MISS × HB_PERIOD ms. -/
def execSilent (fromMod : Nat) (s : State) : Host.Outcome State Fault Refusal :=
  match s.spareRegs.find? (fun r => decide (r.mod = fromMod) && decide (r.period ≠ 0)) with
  | none => .next s
  | some r =>
    let s := s.at_ (r.lastHb + max 1 r.miss * r.period * msAclk)
    let s := (s.flag F.NVCF_EVT_SILENT 0).startNotice 9
    .next ((s.spareRegs.filter (fun q => decide (q.mod = fromMod) && decide (q.period ≠ 0))).foldl (fun s q =>
      if s.taken.contains (q.mod, q.slot) then s else s.takeBegin q false) s)

/-- REGISTER (R574): accepted while the table of 256 has room and SERVES is set. -/
def execRegister (r : RegisterMsg) (s : State) : Host.Outcome State Fault Refusal :=
  let old := s.spareRegs.filter (fun q => !(decide (q.mod = r.fromMod) && decide (q.slot = r.slot)))
  if s.get F.NVCF_SPARE_SERVES 0 = 0 then .next (s.hubMsg r.fromMod 4 [s.modId, r.slot, 2])
  else if 256 ≤ old.length then .next (s.hubMsg r.fromMod 4 [s.modId, r.slot, 1])
  else
    let q : SpareReg := { mod := r.fromMod, slot := r.slot, period := r.hbPeriod, miss := r.hbMiss, desc := descOf r.desc, nbrs := r.nbrs, lastHb := s.now }
    .next ((s.setRegs (old ++ [q])).hubMsg r.fromMod 4 [s.modId, r.slot, 0])

/-- A registration refused or unanswered (R574). -/
def State.regRefused (s : State) (slot : Nat) : State :=
  ((s.modTask slot (fun x => { x with reg := 0 })).flag F.NVCF_EVT_REG_REFUSED 0).startNotice 8

/-- REG_ACK (R574). -/
def execRegAck (slot result : Nat) (s : State) : Host.Outcome State Fault Refusal :=
  match s.task? slot with
  | some x =>
    if x.reg ≠ 1 then .next s
    else if result = 0 then .next (s.modTask slot (fun x => { x with reg := 2 }))
    else .next (s.regRefused slot)
  | none => .next s

/-- REGISTER_TIMEOUT (R574): 10 ms. -/
def execRegisterTimeout (slot : Nat) (s : State) : Host.Outcome State Fault Refusal :=
  match s.task? slot with
  | some x => if x.reg = 1 then .next ((s.at_ (x.regAt + 10 * msAclk)).regRefused slot) else .next s
  | none => .next s

/-- UNREGISTER (R574). -/
def execUnregister (fromMod slot : Nat) (s : State) : Host.Outcome State Fault Refusal :=
  .next (s.setRegs (s.spareRegs.filter (fun r => !(decide (r.mod = fromMod) && decide (r.slot = slot)))))

/-- TAKEOVER (R545, R575): a registered task of a module that still runs; anything else is refused. -/
def execTakeover (t : TakeoverMsg) (s : State) : Host.Outcome State Fault Refusal :=
  match s.spareRegs.find? (fun r => decide (r.mod = t.fromMod) && decide (r.slot = t.slot)) with
  | some r =>
    if s.get F.NVCF_SPARE_SERVES 0 = 1 ∧ !(s.taken.contains (t.fromMod, t.slot)) then .next (s.takeBegin { r with desc := descOf t.desc } true)
    else .next (s.hubMsg t.fromMod 7 [s.modId, t.slot, 1])
  | none => .next (s.hubMsg t.fromMod 7 [s.modId, t.slot, 1])

/-- TAKE_ACK (R545, R546, R575): the task has moved, or nobody serves it. -/
def execTakeAck (slot result : Nat) (s : State) : Host.Outcome State Fault Refusal :=
  match s.task? slot with
  | some x =>
    if !x.moving then .next s
    else
      let cause := (x.abort.map Prod.snd).getD 8
      .next ((s.modTask slot (fun x => { x with moving := false, reg := 0 })).endTask slot (if result = 0 then 5 else 4) cause)
  | none => .next s

/-- ISOLATE (R576): every link whose partner is the failed module goes DOWN. -/
def execIsolate (fromMod failed : Nat) (s : State) : Host.Outcome State Fault Refusal :=
  let l := (List.range 36).filter (fun n => decide (s.linkState n ≠ 0) && decide (s.get F.EVL_STATUS_PARTNER_MOD n = failed))
  let s := l.foldl (fun s n => (s.set F.EVL_CFG_EN n 0).linkDown n) s
  .next (s.hubMsg fromMod 9 [s.modId, l.length])

/-- ISOLATE_ACK (R545): when every neighbour has answered, the takeover goes on. -/
def execIsolateAck (fromMod _links : Nat) (s : State) : Host.Outcome State Fault Refusal :=
  match s.taking.find? (fun k => decide (k.step = 1) && k.left.contains fromMod) with
  | none => .next s
  | some k =>
    let k' := { k with left := k.left.filter (· ≠ fromMod) }
    let s := { s with taking := s.taking.map (fun q => if q = k then k' else q) }
    if k'.left.isEmpty then .next (s.takeGo k') else .next s

/-- ISOLATE_TIMEOUT (R545): 50 ms. -/
def execIsolateTimeout (s : State) : Host.Outcome State Fault Refusal :=
  match s.taking.find? (fun k => decide (k.step = 1)) with
  | none => .next s
  | some k => .next ((s.at_ (k.since + 50 * msAclk)).takeGo k)

/-- ALIAS (R576): a newer announcement copies the route and is passed on. -/
def execAliasMsg (link aliasId newMod aseq : Nat) (s : State) : Host.Outcome State Fault Refusal :=
  let newer : Bool := match find? s.aseq aliasId with
    | some n => let d := (aseq + 2 ^ 32 - n) % 2 ^ 32
                decide (1 ≤ d) && decide (d < 2 ^ 31)
    | none => true
  if !(decide (link < 36) && s.admitted link && s.linkActive link) then
    .next ((s.bump F.EVL_DROP_CNT_UNROUTABLE 36).flag F.EVL_COM_EVT_UNROUTABLE 36)
  else if !newer || decide (16384 ≤ aliasId) || decide (16384 ≤ newMod) then .next s
  else
    let s := s.wr ⟨.EVL_ROUTE, 36, aliasId⟩ (s.rd ⟨.EVL_ROUTE, 36, newMod⟩)
    let s := { s with aseq := insertAt natLt s.aseq aliasId aseq }
    let s := (s.admittedLinks.filter (· ≠ link)).foldl (fun (s : State) l => s.send (.linkMsg l 10 [0xFFFF, aliasId, newMod, aseq])) s
    .next ((s.flag F.NVCF_EVT_ALIAS 0).startNotice 10)

/-! ### Chrysalis mode (R578, R579) -/

/-- Taking the chrysalis request with a code; the words of one request are the whole queue. -/
def State.chTake (s : State) (code : Nat) : Option State :=
  if s.chrysalis ∧ s.episode.isNone ∧ (s.mbxQ (.hubEnd 0)).head? = some code then some (s.setMbxQ (.hubEnd 0) []) else none

/-- STATUS (R579): NVCF_STATUS, low word first. -/
def execChStatus (s : State) : Host.Outcome State Fault Refusal :=
  match s.chTake 1 with
  | some s =>
    let v := (s.rd ⟨.NVCF_STATUS, 0, 0⟩).toNat
    .next (s.respond 0 1 0 0 [v % 2 ^ 32, v / 2 ^ 32])
  | none => .next s

/-- PROGRAM (R579): `fail` is the check that the image fails, 0 none; only a verified image is written. -/
def execChProgram (copy : Nat) (img : List Byte) (fail : Nat) (s : State) : Host.Outcome State Fault Refusal :=
  match s.chTake 2 with
  | some s =>
    let (a, n) := nvPlace copy
    if 4 ≤ copy ∨ n < img.length then .next (s.respond 0 2 0 3)
    else if fail ≠ 0 then .next (s.respond 0 2 0 6 [fail])
    else
      let s := s.modHst (fun h => { h with nv := putBytes (h.nv.filter (fun c => decide (c.1 < a) || decide (a + n ≤ c.1))) a img })
      .next (((s.set F.NVCF_STATUS_ATTEMPTS 0 0).modStart (fun x => { x with counted := false })).respond 0 2 0 0)
  | none => .next s

/-- SET_OWNER (R579): once. -/
def execChSetOwner (hash : Nat) (s : State) : Host.Outcome State Fault Refusal :=
  match s.chTake 3 with
  | some s =>
    if s.fuse.owner.isSome then .next (s.respond 0 3 0 6)
    else .next (({ s with fuse := { s.fuse with owner := some hash } } : State).respond 0 3 0 0)
  | none => .next s

/-- READ (R579): up to 16 KiB of NV to a host address. -/
def execChRead (addr len host : Nat) (s : State) : Host.Outcome State Fault Refusal :=
  match s.chTake 4 with
  | some s =>
    if 0x4000 < len ∨ 0x4000000 < addr + len then .next (s.respond 0 4 0 3)
    else .next ((s.send (.hostWrite host (getBytes s.hst.nv addr len))).respond 0 4 0 0)
  | none => .next s

/-- CLEAR_COUNT (R579). -/
def execChClearCount (s : State) : Host.Outcome State Fault Refusal :=
  match s.chTake 5 with
  | some s => .next (((s.set F.NVCF_STATUS_ATTEMPTS 0 0).modStart (fun x => { x with counted := false })).respond 0 5 0 0)
  | none => .next s

/-- RESTART (R579, R621): a module reset by the pin source from inside, marked SELF. -/
def execChRestart (s : State) : Host.Outcome State Fault Refusal :=
  match s.chTake 6 with
  | some s => .next s.selfReset
  | none => .next s

end Sys2Proof.Machine
end

