-- ==== Sys2Proof/Machine/HostIf.lean ====
section
/-! DEFINITION. The host and management interfaces (R587 to R612, R618 to R620, R722 to R724): requests IDENTIFY, EVENT_RING, ATTEST, CERT
and UNLOCK, tokens, event-ring heads, BAR4, the PCIe function's events, the management port. -/

namespace Sys2Proof.Machine

open Sys2Proof

/-! ### Attestation (R610, R611) -/

/-- Vendor ID and subsystem vendor ID of both grades (R1). -/
def vendorId : Nat := 0x1F3C
/-- Device ID of the grade (R1, R587). -/
def State.devId (s : State) : Nat := if s.gradeS then 0x9A11 else 0x9A10
/-- What identifies the module on PCIe (R1): vendor, subsystem vendor and device. -/
def State.pciIds (s : State) : Nat × Nat × Nat := (vendorId, vendorId, s.devId)

/-- Clusters of a die that are fused off, as a bit map (R618). -/
def State.fuseMap (s : State) (d : Nat) : Nat :=
  (List.range 48).foldl (fun n b => if s.fusedCl.contains (48 * d + b) then n + 2 ^ b else n) 0

/-- Cores that are fenced. -/
def State.fencedCount (s : State) : Nat :=
  (List.range 96).foldl (fun n cl => n + ((List.range 16).filter (fun k => s.bit F.CLU_FENCE_FENCED cl k)).length) 0

/-- Bytes +0x000 to +0x0BF of a report under a nonce. -/
def State.reportHead (s : State) (nonce : List Byte) : List Byte :=
  let v := s.get F.TIME_STATUS_VALID 0
  let svn := match s.start.fw with
    | some f => f.svn
    | none => 0
  let fwDigest := match s.start.fw with
    | some f => f.digest
    | none => 0
  let cfgDigest := match s.start.cfg with
    | some c => c.digest
    | none => 0
  leBytes 4 0x41395456 ++ leBytes 2 1 ++ leBytes 2 (min 64 s.progs.length) ++ leBytes 8 s.fuse.serial ++ (nonce ++ List.replicate 32 0).take 32
    ++ leBytes 32 fwDigest ++ leBytes 4 svn ++ leBytes 4 s.fuse.minSvn ++ leBytes 32 cfgDigest
    ++ leBytes 4 (s.get F.NVCF_STATUS_CFG_SEQ 0) ++ leBytes 4 (s.get F.NVCF_FABRIC_FABRIC_ID 0) ++ leBytes 32 (s.fuse.owner.getD 0)
    ++ leBytes 8 s.timeNs
    ++ leBytes 4 (b2n s.gradeS + 2 * b2n s.chrysalis + 4 * s.get F.HUBC_MGMT_DBG_UNLOCKED 0 + 8 * s.get F.PERT_STATUS_ACTIVE 0 + 16 * v)
    ++ leBytes 2 s.modId ++ leBytes 2 s.fencedCount ++ leBytes 6 (s.fuseMap 0) ++ leBytes 6 (s.fuseMap 1) ++ leBytes 4 0

/-- The entry of a loaded program. -/
def progEntry (p : Prog) : List Byte :=
  leBytes 8 p.id ++ leBytes 32 p.img.digest ++ leBytes 1 (b2n p.img.sig.isSome) ++ leBytes 1 p.key ++ leBytes 6 0

/-- A report with its signature over every byte before it. -/
def State.reportFull (s : State) (nonce : List Byte) : List Byte :=
  let body := s.reportHead nonce ++ (s.progs.take 64).flatMap progEntry
  body ++ (Config.signature body ++ List.replicate 384 0).take 384

/-- The nonce that a later token must carry (R612, R723). -/
def State.setChallenge (s : State) (n : Nat) : State := s.modHst (fun h => { h with challenge := some n, served := false })

/-- IDENTIFY (R603): an unsigned report with a zero nonce at the address. -/
def execIdentify (m : Nat) (s : State) : Host.Outcome State Fault Refusal :=
  match s.takeReq m 0x10 with
  | none => .next s
  | some (tag, a, s) =>
    if a.length ≠ 2 then .next (s.respond m 0x10 tag 3)
    else
      let d := s.argAddr (arg64 a 0) 0xC0
      if d = .bad then .next (s.respond m 0x10 tag 8)
      else .next (((s.argWrite d (s.reportHead [])).setChallenge 0).respond m 0x10 tag 0)

/-- ATTEST (R603, R611): `ext` is the nonce when it lies in host memory. -/
def execAttest (m : Nat) (ext : List Byte) (s : State) : Host.Outcome State Fault Refusal :=
  match s.takeReq m 0x1B with
  | none => .next s
  | some (tag, a, s) =>
    if a.length ≠ 4 then .next (s.respond m 0x1B tag 3)
    else
      let n := s.argAddr (arg64 a 0) 32
      let d := s.argAddr (arg64 a 2) (0xC0 + 48 * min 64 s.progs.length + 384)
      if n = .bad ∨ d = .bad then .next (s.respond m 0x1B tag 8)
      else
        let nonce := s.argRead n 32 ext
        .next (((s.argWrite d (s.reportFull nonce)).setChallenge (leNat nonce)).respond m 0x1B tag 0)

/-- CERT (R603, R610): the certificate chain, no more of it than the maximum; word 1 is its length. -/
def execCert (m : Nat) (s : State) : Host.Outcome State Fault Refusal :=
  match s.takeReq m 0x1C with
  | none => .next s
  | some (tag, a, s) =>
    if a.length ≠ 3 then .next (s.respond m 0x1C tag 3)
    else
      let chain := Config.certChain.take 8192
      let bs := chain.take (a.getD 2 0)
      let d := s.argAddr (arg64 a 0) bs.length
      if d = .bad then .next (s.respond m 0x1C tag 8) else .next ((s.argWrite d bs).respond m 0x1C tag 0 [chain.length])

/-! ### Event rings (R603, R604, R620) -/

/-- EVENT_RING (R603): base, entries and vector; held events follow at once. -/
def execEventRing (m : Nat) (s : State) : Host.Outcome State Fault Refusal :=
  match s.takeReq m 0x11 with
  | none => .next s
  | some (tag, a, s) =>
    let base := arg64 a 0
    let n := bitsOf (a.getD 2 0) 15 0
    let v := bitsOf (a.getD 2 0) 26 16
    let pow := (List.range 13).any (fun k => decide (4 ≤ k) && decide (n = 2 ^ k))
    if a.length ≠ 3 ∨ base % 128 ≠ 0 ∨ !pow ∨ (33 ≤ v ∧ v < 256) ∨ bitsOf (a.getD 2 0) 31 27 ≠ 0 then .next (s.respond m 0x11 tag 3)
    else if s.argAddr base (128 * n) = .bad then .next (s.respond m 0x11 tag 8)
    else
      let s := { s with rings := insertAt natLt s.rings m { base := base, size := n, vector := v, phase := 1, seq := 0 } }
      let s := (s.wr ⟨.HUBC_EVQ, 0, m⟩ 0).set F.HUBC_EVQ_VALID 0 1 m
      .next (s.respond m 0x11 tag 0).evSettle

/-- Register-space address of HUBC_EVQ_m. -/
def evqAddr (m : Nat) : Nat := 0x200003000100 + 16 * m

/-- A write of a ring's HEAD frees entries (R604, R620). -/
def State.evqWrite (s : State) (m : Master) (ring : Nat) (v mask : Word) : State :=
  (s.accWrite m ⟨.HUBC_EVQ, 0, ring⟩ v mask (evqAddr ring)).evSettle

/-- EVQ_HEAD_WRITE (R620). -/
def execEvqHeadWrite (m : Master) (ring : Nat) (v : Word) (s : State) : Host.Outcome State Fault Refusal :=
  if 16 ≤ ring then .next (s.refuseBus m) else .next (s.regCmd m .HUBC 0 (fun s => s.evqWrite m ring v fullMask))

/-! ### Debug and test tokens (R612, R722 to R724) -/

/-- The timebase second. -/
def State.second (s : State) : Nat := s.timeNs / 10 ^ 9

/-- The instant at which the timebase reaches a second; none when it does not count. -/
def State.atSecond (s : State) (sec : Nat) : Option State :=
  let goal := sec * secU
  let inc := s.get F.TIME_INC_INC 0
  if goal ≤ s.timeFull then some s
  else if inc = 0 then none
  else some (s.at_ (((s.ticks + (goal - s.timeFull + inc - 1) / inc) * 190000 + 15624) / 15625))

/-- The UNLOCK request at the head of a mailbox: its scope. -/
def State.unlockScope (s : State) (m : Nat) : Nat :=
  match s.reqHead m with
  | some (_, a) => if a.length = 3 then a.getD 2 0 else 0
  | none => 0

/-- A token answers the latest nonce with this module's serial number under a key the rule allows. -/
def State.tokenOk (s : State) (t : Token) : Bool :=
  t.sigOk && decide (t.serial = s.fuse.serial) && decide (s.hst.challenge = some t.challenge) && decide (s.second < t.expiry)

/-- UNLOCK (R612, R603): scope 0 opens the debug port until the token's expiry; any other scope but 1 is no argument. -/
def execUnlock (m : Nat) (tok : Token) (s : State) : Host.Outcome State Fault Refusal :=
  if s.unlockScope m = 1 then .next s
  else
    match s.takeReq m 0x1D with
    | none => .next s
    | some (tag, a, s) =>
      if a.length ≠ 3 ∨ a.getD 2 0 ≠ 0 then .next (s.respond m 0x1D tag 3)
      else if s.argAddr (arg64 a 0) 512 = .bad then .next (s.respond m 0x1D tag 8)
      else if s.tokenOk tok && decide (tok.perms = 0) then
        let s := (s.set F.HUBC_MGMT_DBG_UNLOCKED 0 1).modHst (fun h => { h with unlockEnd := tok.expiry, served := true })
        .next (s.respond m 0x1D tag 0)
      else .next (s.respond m 0x1D tag 6)

/-- DEBUG_UNLOCK_EXPIRY (R612). -/
def execDebugUnlockExpiry (s : State) : Host.Outcome State Fault Refusal :=
  if s.get F.HUBC_MGMT_DBG_UNLOCKED 0 = 0 then .next s
  else
    match s.atSecond s.hst.unlockEnd with
    | some s => .next (s.set F.HUBC_MGMT_DBG_UNLOCKED 0 0)
    | none => .next s

/-- TEST_UNLOCK (R723): scope 1 grants the token's permissions, in time that is VALID and once for each nonce. -/
def execTestUnlock (m : Nat) (tok : Token) (s : State) : Host.Outcome State Fault Refusal :=
  if s.unlockScope m ≠ 1 then .next s
  else
    match s.takeReq m 0x1D with
    | none => .next s
    | some (tag, a, s) =>
      if s.argAddr (arg64 a 0) 512 = .bad then .next (s.respond m 0x1D tag 8)
      else if s.tokenOk tok && !s.hst.served && s.tvalid && decide (tok.perms < 2 ^ 7) then
        let s := ((s.set F.PERT_STATUS_ACTIVE 0 1).set F.PERT_STATUS_PERM 0 tok.perms).set F.PERT_STATUS_EXPIRY 0 tok.expiry
        let s := s.modHst (fun h => { h with token := some (tok.perms, tok.expiry), served := true })
        .next (s.respond m 0x1D tag 0)
      else .next (s.respond m 0x1D tag 6)

/-- TOKEN_LAPSE (R724): the first second after EXPIRY. -/
def execTokenLapse (s : State) : Host.Outcome State Fault Refusal :=
  match s.hst.token with
  | none => .next s
  | some (_, e) =>
    match s.atSecond (e + 1) with
    | some s => .next (s.dropToken.gateFollow s)
    | none => .next s

/-! ### The PCIe function (R588 to R596) -/

/-- Pieces of an access that stay within 256-byte blocks: address, byte offset, length. -/
def blockPieces (a o n : Nat) : Nat → List (Nat × Nat × Nat)
  | 0 => []
  | f + 1 =>
    if n = 0 then []
    else
      let k := min n (256 - a % 256)
      (a, o, k) :: blockPieces (a + k) (o + k) (n - k) f

/-- The HBM answers: the dies have come up and no reset holds them. -/
def State.hbmUp (s : State) : Bool :=
  decide (6 ≤ s.get F.NVCF_STATUS_PHASE 0) && !s.chrysalis && s.episode.isNone && !s.tripped && !s.warmHold

/-- Hub tags in use and free. -/
def State.tagsLeft (s : State) : Nat := 262144 - s.hubTags.length

/-- One piece of a BAR4 access goes to its HBM controller with a hub tag. -/
def State.bar4Piece (s : State) (wr : Bool) (bytes : List Byte) (tag a o n : Nat) : State :=
  match s.freeHubTag with
  | none => s
  | some t =>
    let typ := if wr then 1 else 0
    let p : Packet := { typ := typ, vc := vcOf typ, dnode := 0, snode := 0, src := 0x800, tag := tag, len := n, addr := a, rtag := tag,
                        payload := if wr then (bytes.drop o).take n else [] }
    let (s, q) := s.hubInject p t
    s.addHubTag { tag := t, kind := 3, p := p, link := 63, at_ := s.now, sent := q }

/-- BAR4_ACCESS (R589, R591, R592): a posted write or a read of the HBM window. -/
def execBar4Access (off : Nat) (wr : Bool) (bytes : List Byte) (len tag : Nat) (poisoned : Bool) (s : State) :
    Host.Outcome State Fault Refusal :=
  let n := if wr then bytes.length else len
  let ur (s : State) : State := if wr then s else s.send (.hostCpl tag false [])
  if s.get F.PCIE_STATUS_DL_ACTIVE 0 = 0 ∨ 4096 < n ∨ n = 0 then .next s
  else if wr ∧ poisoned then .next ((s.flag F.PCIE_EVT_EP_RECEIVED 0).aer 2)
  else if s.get F.PCIE_STATUS_DSTATE 0 ≠ 0 then .next (ur s)
  else
    let a := s.get F.PCIE_BAR4_BASE 0 * 2 ^ 30 + off
    if hbmProg < a + n ∨ !s.hbmUp then .next (ur (s.flag F.PCIE_EVT_BAR4_UR 0))
    else
      let l := blockPieces a 0 n 18
      if s.tagsLeft < l.length then .next s
      else .next (l.foldl (fun s x => s.bar4Piece wr bytes tag x.1 x.2.1 x.2.2) s)

/-- COMPLETION_TIMEOUT (R593): the host-window read with a hub tag is refused. -/
def execCompletionTimeout (tag : Nat) (s : State) : Host.Outcome State Fault Refusal :=
  match s.hubTags.find? (fun h => decide (h.kind = 4) && decide (h.tag = tag)) with
  | some h => .next ((s.flag F.PCIE_EVT_HWIN_REFUSED 0).hostReadEnd h 5 rUNROUTABLE [])
  | none => .next s

/-- FLR (R595). -/
def execFlr (s : State) : Host.Outcome State Fault Refusal :=
  if s.get F.PCIE_STATUS_DL_ACTIVE 0 = 0 ∨ !s.hubUp then .next s
  else .next ((({ s with busMaster := false } : State).flrReset.set F.PCIE_STATUS_DSTATE 0 0).flag F.PCIE_EVT_FLR 0)

/-- DATA_LINK_DOWN (R596). -/
def execDataLinkDown (s : State) : Host.Outcome State Fault Refusal := .next s.dlDown

/-- PERST_ASSERT (R621): the data link goes down and the function is reset; nothing else changes. -/
def execPerstAssert (s : State) : Host.Outcome State Fault Refusal :=
  if !s.hubUp then .next s
  else .next (({ s.dlDown with busMaster := false } : State).flrReset.set F.PCIE_STATUS_DSTATE 0 0)

/-- PCIE_LINK_UP (R588, R596): what the link trains to is the partner's as well; in chrysalis mode no more than 8 GT/s. The host has
configured the function. -/
def execPcieLinkUp (s : State) : Host.Outcome State Fault Refusal :=
  if !s.hubUp ∨ s.get F.PWR_STATUS_STATE 0 = 3 ∨ s.get F.PWR_STATUS_STATE 0 = 4 ∨ s.get F.PCIE_STATUS_DL_ACTIVE 0 = 1
      ∨ !(decide (4 ≤ s.get F.NVCF_STATUS_PHASE 0) || s.chrysalis) then .next s
  else
    let (w, s) := s.fresh
    let (x, s) := s.fresh
    let speed := 1 + w.toNat % (if s.chrysalis then 3 else 6)
    let s := ((s.set F.PCIE_STATUS_SPEED 0 speed).set F.PCIE_STATUS_WIDTH 0 (2 ^ (x.toNat % 4))).set F.PCIE_STATUS_FLIT 0 (b2n (decide (speed = 6)))
    .next { s.set F.PCIE_STATUS_DL_ACTIVE 0 1 with busMaster := true }

/-- D3HOT_TRANSITION (R587, R591). -/
def execD3hotTransition (d3 : Bool) (s : State) : Host.Outcome State Fault Refusal :=
  if s.get F.PCIE_STATUS_DL_ACTIVE 0 = 0 then .next s else .next (s.set F.PCIE_STATUS_DSTATE 0 (if d3 then 3 else 0))

/-! ### Management port (R605 to R609) -/

/-- The port answers: it needs only P3V3_AUX, and stays readable while a reset holds the hub (R605, R641). -/
def State.mgmtUp (s : State) : Bool := !s.hst.auxLost

/-- A command of the port; the target does not acknowledge while it is down. -/
def State.mgmtCmd (s : State) (f : State → State) : State := if s.mgmtUp then f s else s.send (.mgmt [])

/-- MGMT_STATUS (R606). -/
def execMgmtStatus (s : State) : Host.Outcome State Fault Refusal :=
  .next (s.mgmtCmd (fun s =>
    let flags := s.get F.NVCF_STATUS_READY 0 + 2 * b2n s.chrysalis + 4 * b2n (decide (s.get F.PWR_STATUS_STATE 0 = 3))
      + 8 * s.get F.TIME_STATUS_VALID 0 + 16 * b2n (decide (s.get F.ELOG_CNT_DEGRADED 0 ≠ 0))
    s.send (.mgmt (leBytes 1 (s.get F.NVCF_STATUS_PHASE 0) ++ leBytes 1 flags ++ leBytes 1 (s.get F.NVCF_STATUS_ATTEMPTS 0)
      ++ leBytes 1 (s.get F.NVCF_STATUS_LIMIT 0) ++ leBytes 4 0))))

/-- The telemetry block of R606 from the latest measurements. -/
def State.telemetry (s : State) : List Byte :=
  leBytes 2 (s.get F.PWR_IN_VIN 0) ++ leBytes 2 (s.get F.PWR_IN_IIN 0) ++ leBytes 2 (s.get F.PWR_IN_PIN 0)
    ++ leBytes 2 (s.get F.THM_COOL_T_IN 0) ++ leBytes 2 (s.get F.THM_COOL_T_OUT 0) ++ leBytes 2 (s.get F.THM_COOL_FLOW 0)
    ++ leBytes 2 (wrapInt 16 (s.hottest 0 40)) ++ leBytes 1 (s.get F.THM_COOL_VALVE_POS 0) ++ leBytes 1 0

/-- TELEMETRY_REFRESH (R606): every 10 ms. -/
def execTelemetryRefresh (s : State) : Host.Outcome State Fault Refusal :=
  if s.mgmtUp then .next (s.modHst (fun h => { h with telem := s.telemetry })) else .next s

/-- MGMT_TELEMETRY (R606): the block of the last refresh. -/
def execMgmtTelemetry (s : State) : Host.Outcome State Fault Refusal :=
  .next (s.mgmtCmd (fun s => s.send (.mgmt ((s.hst.telem ++ List.replicate 16 0).take 16))))

/-- MGMT_IDENTITY (R606). -/
def execMgmtIdentity (s : State) : Host.Outcome State Fault Refusal :=
  .next (s.mgmtCmd (fun s => s.send (.mgmt (leBytes 8 s.fuse.serial ++ leBytes 2 s.devId ++ leBytes 1 0xB0 ++ leBytes 1 (b2n s.gradeS)
    ++ leBytes 2 s.modId ++ leBytes 2 0))))

/-- Mailbox 15 serves the port (R608). -/
def State.mgmt15 (s : State) : Bool := s.hubUp && decide (s.get F.HUBC_MGMT_MBX15_MGMT 0 = 1)

/-- MGMT_MBX_WRITE (R606, R607): a block of 4 to 32 bytes, whole words, all of them or none. -/
def execMgmtMbxWrite (bytes : List Byte) (s : State) : Host.Outcome State Fault Refusal :=
  .next (s.mgmtCmd (fun s =>
    let n := bytes.length / 4
    if bytes.length % 4 ≠ 0 ∨ n = 0 ∨ 8 < n ∨ !s.mgmt15 then s.send (.mgmt [])
    else if 8 < (s.mbxQ (.hubEnd 15)).length + n then
      (s.flag F.MBX_STAT_OVERRUN (MbxEnd.inst (.hubEnd 15)) (MbxEnd.idx (.hubEnd 15))).send (.mgmt [])
    else
      let s := (List.range n).foldl (fun (s : State) i => (s.mbxPush (.hubEnd 15) (leNat ((bytes.drop (4 * i)).take 4))).getD s) s
      s.badHeads 15 8))

/-- MGMT_MBX_READ (R606): up to `n` words leave mailbox 15's inbound queue. -/
def execMgmtMbxRead (n : Nat) (s : State) : Host.Outcome State Fault Refusal :=
  .next (s.mgmtCmd (fun s =>
    if !s.mgmt15 then s.send (.mgmt [])
    else
      let k := min n (s.mbxQ (.hostEnd 15)).length
      let (s, bs) := (List.range k).foldl (fun (r : State × List Byte) _ =>
        let (w, s) := r.1.mbxPop (.hostEnd 15)
        (s, r.2 ++ leBytes 4 w)) (s, [])
      s.send (.mgmt (leBytes 1 (4 * k) ++ bs))))

/-- MGMT_DOORBELL (R606). -/
def execMgmtDoorbell (s : State) : Host.Outcome State Fault Refusal :=
  .next (s.mgmtCmd (fun s => if s.mgmt15 then s.ringBell (.hubEnd 15) else s.send (.mgmt [])))

/-- MGMT_QUEUE_STATUS (R606): free places toward the hub, words inbound. -/
def execMgmtQueueStatus (s : State) : Host.Outcome State Fault Refusal :=
  .next (s.mgmtCmd (fun s =>
    s.send (.mgmt (leBytes 1 ((8 - (s.mbxQ (.hubEnd 15)).length) * 16 + (s.mbxQ (.hostEnd 15)).length)))))

/-- ETH_FRAME_DROP (R609): a frame that is not PTP. -/
def execEthFrameDrop (s : State) : Host.Outcome State Fault Refusal :=
  if s.hubUp ∧ s.get F.HUBC_MGMT_ETH_EN 0 = 1 then .next (s.bump F.HUBC_MGMT_ETH_DROP 0) else .next s

end Sys2Proof.Machine
end

