-- ==== Sys2Proof/Machine/PertPmon.lean ====
section
/-! DEFINITION. Writes of the perturbation controls (R725 to R743) and of the performance counters (R732 to R736, R744). -/

namespace Sys2Proof.Machine

open Sys2Proof

/-! ### Perturbation controls -/

/-- The PERM class of a control (R726). -/
def pertClass : Reg → Option Nat
  | .PERT_CREDIT => some 0
  | .PERT_BP => some 1
  | .PERT_HBM => some 2
  | .PERT_ECC => some 3
  | .PERT_ECC_ADDR => some 3
  | .PERT_SLIP => some 4
  | .PERT_SLIP_TILES => some 4
  | .PERT_TSTAMP => some 5
  | _ => none

/-- A class that the active token grants (R722, R725). -/
def State.pertGranted (s : State) (n : Nat) : Bool :=
  decide (s.get F.PERT_STATUS_ACTIVE 0 = 1) && bitOf (s.get F.PERT_STATUS_PERM 0) n

/-- A write of a control (R725): without its grant it has no effect and is recorded whatever its value. An ARM with a unit that does
not exist acts as disarm (R741); a change of PERT_TSTAMP moves the gate of the time outputs (R730). -/
def State.pertWrite (s : State) (m : Master) (k : RKey) (v mask : Word) (addr : Nat) : State :=
  match pertClass k.reg with
  | none => s.accWrite m k v mask addr
  | some n =>
    if s.pertGranted n then
      let t := s.accWrite m k v mask addr
      let t := if decide (4 < t.get F.PERT_ECC_UNIT 0) then t.set F.PERT_ECC_ARM 0 0 else t
      t.gateFollow s
    else s.logAccess .PERT 0 1 m.code addr v.toNat

/-! ### Performance counters -/

/-- The event codes that the instances of a block own (R736): first and last. -/
def pmonOwned : Nat → Option (Nat × Nat)
  | 0x1 => some (0x30, 0x33)
  | 0x2 => some (0x10, 0x13)
  | 0x3 => some (0x40, 0x43)
  | 0x4 => some (0x54, 0x55)
  | 0x5 => some (0x60, 0x63)
  | 0x6 => some (0x50, 0x53)
  | 0x8 => some (0x20, 0x23)
  | 0xB => some (0x70, 0x73)
  | 0xC => some (0x80, 0x84)
  | 0xD => some (0x90, 0x94)
  | 0xF => some (0xA0, 0xA4)
  | 0x13 => some (0xB0, 0xB2)
  | _ => none

/-- A counter's configuration names an event that its instance does not own. -/
def State.pmonForeign (s : State) (inst k : Nat) : Bool :=
  match pmonOwned (inst / 2048) with
  | some (a, b) => !(decide (a ≤ s.get F.PMON_CFG_EVENT inst k) && decide (s.get F.PMON_CFG_EVENT inst k ≤ b))
  | none => true

/-- A write of PMON_CFG_k: a code that the instance does not own sets CFG_BAD (R736). -/
def State.pmonCfgWrite (s : State) (m : Master) (inst k : Nat) (v mask : Word) (addr : Nat) : State :=
  let s := s.accWrite m ⟨.PMON_CFG, inst, k⟩ v mask addr
  s.flagIf (decide (s.get F.PMON_CFG_EN inst k = 1) && s.pmonForeign inst k) F.PMON_CTRL_CFG_BAD inst

/-- Counter `k` of an instance counts (R732). -/
def State.pmonCounts (s : State) (inst k : Nat) : Bool :=
  decide (s.get F.PMON_CFG_EN inst k = 1) && decide (s.get F.PMON_CTRL_EN inst = 1)
    && decide (s.get F.PMON_GFREEZE_FREEZE (pmonOf .PMON 0) = 0) && !(s.pmonForeign inst k)

/-- A write of PMON_CNT_k (R734): both fields take the value written, and the events of that cycle, at most 64 (R732), are then
added. -/
def State.pmonCntWrite (s : State) (m : Master) (inst k : Nat) (v mask : Word) (addr events : Nat) : State :=
  let s := s.accWrite m ⟨.PMON_CNT, inst, k⟩ v mask addr
  if s.pmonCounts inst k then s.pmonAdd inst k (min events 64) else s

/-- Register-space offset of the PMON instance beside a block (R754 to R757). -/
def pmonOff (inst : Nat) : Nat :=
  let i := inst % 2048
  let slot (n : Nat) : Nat := 0x4000 * i + 0x3000 + 0x100 * n
  match inst / 2048 with
  | 0x1 => slot 0 | 0x2 => slot 1 | 0x3 => slot 2 | 0x4 => slot 3 | 0x5 => slot 4 | 0x6 => slot 5 | 0x8 => slot 6
  | 0xB => 0x2080000 + 0x1000 * i + 0x800
  | 0xC => 0x30E0000
  | 0xD => 0x2000000 + 0x1000 * (64 * (i / 48) + i % 48) + 0x200
  | 0xF => 0x3040000 + 0x1000 * i + 0x800
  | 0x13 => 0x301B000
  | _ => 0x301A000

/-- PMON_GFREEZE_WRITE (R735): the hub's register stops or starts every instance. -/
def execPmonGfreezeWrite (m : Master) (v : Word) (s : State) : Host.Outcome State Fault Refusal :=
  let inst := pmonOf .PMON 0
  .next (s.regCmd m .PMON inst (fun s => s.accWrite m ⟨.PMON_GFREEZE, inst, 0⟩ v lowMask (pmonOff inst + 0x100)))

/-- PMON_CNT_WRITE (R734): counter `k` of an instance, with the events of the same cycle. -/
def execPmonCntWrite (m : Master) (inst k : Nat) (v : Word) (events : Nat) (s : State) : Host.Outcome State Fault Refusal :=
  if 8 ≤ k ∨ (pmonOwned (inst / 2048)).isNone then .next (s.refuseBus m)
  else .next (s.regCmd m .PMON inst (fun s => s.pmonCntWrite m inst k v fullMask (pmonOff inst + 0x80 + 8 * k) events))

end Sys2Proof.Machine
end

