-- ==== Sys2Proof/Machine/Registers.lean ====
section
/-! DEFINITION. Access to the register space as a whole (R4 to R9, R500, R752, R753): what a read of any register shows, the latches
of 32-bit reads, and a write by its place. -/

namespace Sys2Proof.Machine

open Sys2Proof

/-! ### What a register shows -/

/-- The four mailbox sources and engines' events behind CC_IRQ (R138, R169): the scratchpad's event register counts with the data
mover's, the sync port's with the SU's (DESIGN CHOICE, notes/assumptions/32.md). -/
def State.irqOf (s : State) (c : Nat) (evt en : Reg) : Bool :=
  decide (s.rd ⟨evt, c, 0⟩ &&& s.rd ⟨en, c, 0⟩ ≠ 0)

/-- An interrupt source of a mailbox end asserts (R616). -/
def State.endIrq (s : State) (e : MbxEnd) : Bool :=
  let en := s.get F.MBX_IEN_EN e.inst e.idx
  let room := match e.partner with
    | some p => decide ((s.mbxQ p).length < 8)
    | none => false
  (bitOf en 0 && !(s.mbxQ e).isEmpty) || (bitOf en 1 && decide (s.get F.MBX_STAT_DB e.inst e.idx = 1)) || (bitOf en 2 && room)

/-- CC_IRQ bits 6:0 (R169). -/
def State.ccSources (s : State) (c : Nat) : Nat :=
  b2n (s.irqOf c .ME_EVT .ME_EVT_EN) + 2 * b2n (s.irqOf c .TRF_EVT .TRF_EVT_EN) + 4 * b2n (s.irqOf c .VE_EVT .VE_EVT_EN)
    + 8 * b2n (s.irqOf c .DM_EVT .DM_EVT_EN || s.irqOf c .SPD_EVT .SPD_EVT_EN)
    + 16 * b2n (s.irqOf c .SU_EVT .SU_EVT_EN || s.irqOf c .SYNC_EVT .SYNC_EVT_EN)
    + 32 * b2n (!(s.core c).cpl.isEmpty) + 64 * b2n (s.endIrq (.coreEnd c) || s.endIrq (.inbox c))

/-- A record of the error log as its 64 bytes (R706). -/
def LogRec.bytes (r : LogRec) : List Byte :=
  leBytes 4 r.seq ++ leBytes 1 r.cls ++ leBytes 1 r.blk ++ leBytes 2 r.code ++ leBytes 8 r.time ++ leBytes 2 r.unit ++ leBytes 1 r.slot
    ++ leBytes 1 r.flags ++ leBytes 4 r.count ++ r.data

/-- Bytes 8q to 8q + 7 of a record; zeros for none (R718). -/
def recWord (r : Option LogRec) (q : Nat) : Nat :=
  match r with
  | some r => leNat ((r.bytes.drop (8 * q)).take 8)
  | none => 0

/-- The longest wait list of a stack now (R304). -/
def State.longestWait (s : State) (stack : Nat) : Nat :=
  (s.hbm.filter (fun k => decide (keyStack k.1 = stack))).foldl (fun n k => max n k.2.waitList.length) 0

/-- The mailbox end whose registers a key names. -/
def mbxEndOf (inst idx : Nat) : MbxEnd :=
  if inst = 2048 then (if idx < 16 then .hubEnd idx else .hostEnd (idx - 16))
  else match idx with
    | 0 => .coreEnd inst
    | 1 => .coreHubEnd inst
    | _ => .inbox inst

/-- MBX_STAT's counts (R616): SRC, TX_FREE and RX_CNT. -/
def State.mbxStat (s : State) (e : MbxEnd) (w : Word) : Word :=
  let q := s.mbxQ e
  let free := match e.partner with
    | some p => 8 - (s.mbxQ p).length
    | none => 0
  let src := match e with
    | .inbox _ => (q.headD 0) / 2 ^ 32
    | _ => 0
  F.MBX_STAT_SRC.ins (F.MBX_STAT_TX_FREE.ins (F.MBX_STAT_RX_CNT.ins w q.length) free) src

/-- Free places in the inboxes of a cluster (R617). -/
def State.inboxFree (s : State) (c : Nat) : Nat :=
  (List.range 16).foldl (fun w d => w + (8 - (s.mbxQ (.inbox (inboxOf c d))).length) * 2 ^ (4 * d)) 0

/-- What a read of a register shows (R6): its stored fields, and the fields that other state gives. ME_STATUS.BUSY is 1 up to the command's
last entry and DRAINING while rows are in flight after it: R63 does not say whether a draining command still executes (DESIGN
CHOICE, notes/assumptions/33.md). -/
def State.view (s : State) (k : RKey) : Word :=
  let w := s.rd k
  let c := k.inst
  let x := s.core c
  match k.reg with
  | .ME_ID => F.ME_ID_SLICED.ins w (b2n (!s.gradeS))
  | .ME_STATUS =>
    F.ME_STATUS_BUSY.ins (F.ME_STATUS_DRAINING.ins w (b2n (x.meDraining s.now))) (b2n (x.meBusy s.now))
  | .TRF_NOW => BitVec.ofNat 64 (s.trfNow c)
  | .CC_ID => F.CC_ID_CORE_ID.ins w c
  | .CC_IRQ => w ||| BitVec.ofNat 64 (s.ccSources c)
  | .CC_QSTAT => s.qstat c (Eng.ofCode k.idx)
  | .CC_WDOG_CNT => BitVec.ofNat 64 ((s.wdNow c + 1023) / 1024)
  | .CLU_ID => F.CLU_ID_FUSED.ins (F.CLU_ID_DIE.ins (F.CLU_ID_CLUSTER.ins w (c % 48)) (c / 48)) (b2n (s.fusedCl.contains c))
  | .VE_CTX => F.VE_CTX_PENDING.ins w (b2n (x.fenceOrd.isSome || (s.unlinked c).any (fun q => decide (Cmd.opcode q.cmd = 0x3F))))
  | .DM_STRM_LATE => (s.lateSettle c).rd k
  | .DM_TAGS => F.DM_TAGS_IN_USE.ins w x.dmTags.length
  | .HBMC_ID => F.HBMC_ID_STACK.ins w c
  | .HBMC_PARK => F.HBMC_PARK_LONGEST.ins w (s.longestWait c)
  | .MSU_STATUS =>
    let q := s.msu c
    let w := F.MSU_STATUS_CMDQ.ins (F.MSU_STATUS_INFLIGHT.ins w q.ops.length) q.opts.length
    match q.opts.head? with
    | some o => F.MSU_STATUS_BUSY.ins (F.MSU_STATUS_PROG.ins w o.prog) 1
    | none => w
  | .MESH_ID => F.MESH_ID_DEAD.ins (F.MESH_ID_DIE.ins (F.MESH_ID_CLUSTER.ins w (c % 48)) (c / 48)) (b2n (s.router c).faulty)
  | .MESH_ROUTE => BitVec.ofNat 64 (s.routeWord (c / 48) (c % 48) k.idx)
  | .SYNC_PEND => F.SYNC_PEND_IN_USE.ins w x.slots.length
  | .EVL_REPLAY => F.EVL_REPLAY_UNACKED.ins w (lookD {} s.links c).replay.length
  | .EVL_TAGS => F.EVL_TAGS_IN_USE.ins w s.hubTags.length
  | .MSU_RCH_PEND => F.MSU_RCH_PEND_IN_USE.ins w s.rchHeld
  | .TIME_NOW => BitVec.ofNat 64 s.timeNs
  | .TIME_FRAC => BitVec.ofNat 64 (s.timeFull % 2 ^ 32)
  | .HUBC_FUSE_MAP => BitVec.ofNat 64 (s.fuseMap k.idx)
  | .HUBC_MGMT => F.HUBC_MGMT_SMB_ADDR.ins w (0x58 + s.hst.mgmtAddr % 8)
  | .PWR_STATUS => F.PWR_STATUS_PRSNT.ins w (b2n s.pwr.mated.isSome)
  | .ELOG_REC => BitVec.ofNat 64 (recWord (s.elog.find? (fun r => decide (r.seq = s.get F.ELOG_SEL_SEQ 0))) k.idx)
  | .ELOG_PREC => BitVec.ofNat 64 (recWord s.pers[s.get F.ELOG_PSEL_INDEX 0]? k.idx)
  | .PMON_CTRL => F.PMON_CTRL_FROZEN.ins w (s.get F.PMON_GFREEZE_FREEZE (pmonOf .PMON 0))
  | .MBX_STAT => s.mbxStat (mbxEndOf c k.idx) w
  | .MBX_CFREE => BitVec.ofNat 64 (s.inboxFree c)
  | _ => w

/-! ### Places and reach -/

/-- The place of an access: BAR0, the hub and the debug port by R753 to R757, a control core by R135 and R752; the host's BAR2
follows at offset 0x400_0000 (R597, DESIGN CHOICE, notes/assumptions/31.md). -/
def placeAt (m : Master) (off : Nat) : Option RegPlace :=
  if off < 0x4000000 then regPlace off
  else if m = .host ∧ off < 0x4010000 then
    (findReg endRegs (off % 0x1000)).map (fun h => ⟨.MBX, 2048, { h with idx := 16 + (off - 0x4000000) / 0x1000 }⟩)
  else none

/-- Registers of a mailbox end. -/
def isEndReg : Reg → Bool
  | .MBX_TX | .MBX_RX | .MBX_STAT | .MBX_DB | .MBX_IEN => true
  | _ => false

/-- A master reaches the register at a place (R752, R597, R608). -/
def State.placeReach (s : State) (m : Master) (p : RegPlace) : Bool :=
  if isEndReg p.hit.reg then
    let e := mbxEndOf p.inst p.hit.idx
    s.mgmtPage m e || s.mbxReach m e
  else s.reach m p.blk p.inst

/-! ### Reads -/

/-- A 32-bit read of the register at a place (R4 to R6, R500, R598). -/
def State.read32 (s : State) (m : Master) (p : RegPlace) : State :=
  let k := p.key
  let t := s.access m
  let live := t.view k
  let half := if p.hit.high then live.toNat / 2 ^ 32 else live.toNat % 2 ^ 32
  let val (t : State) (n : Nat) : State := { t with bus := .value (BitVec.ofNat 64 n) }
  match k.reg with
  | .MBX_RX => s.rxRead m (mbxEndOf p.inst p.hit.idx)
  | .TIME_NOW =>
    if p.hit.high then
      match s.tlatch.find? (fun l => decide (l.1 = m.code)) with
      | some (c, ns, fr, true) => val { t with tlatch := (c, ns, fr, false) :: t.tlatch } (ns / 2 ^ 32)
      | _ => val t half
    else val { t with tlatch := (m.code, s.timeNs, s.timeFull % 2 ^ 32, true) :: t.tlatch } half
  | .TIME_FRAC =>
    match s.tlatch.find? (fun l => decide (l.1 = m.code)) with
    | some l => val t l.2.2.1
    | none => val t half
  | _ =>
    if isEndReg k.reg && s.mgmtPage m (mbxEndOf p.inst p.hit.idx) then (val t 0).aer 1
    else if p.hit.high then
      match s.latch.find? (fun l => decide (l.1 = m.code) && decide (l.2.1 = k)) with
      | some l => val t l.2.2
      | none => val t half
    else if k.reg.info.wide then val { t with latch := (m.code, k, live.toNat / 2 ^ 32) :: t.latch } half
    else val t half

/-- A 64-bit read of a 64-bit register. -/
def State.read64 (s : State) (m : Master) (p : RegPlace) : State :=
  let t := s.access m
  let t := if p.hit.reg = .TIME_NOW then { t with tlatch := (m.code, s.timeNs, s.timeFull % 2 ^ 32, false) :: t.tlatch } else t
  { t with bus := .value (t.view p.key) }

/-- The word the last access answered. -/
def State.busWord (s : State) : Nat :=
  match s.bus with
  | .value v => v.toNat
  | _ => 0

/-- A read of 32 or 64 bits at an offset (R4, R750, R753); 64 bits at two 32-bit registers read both, the lower first (DESIGN CHOICE,
notes/assumptions/31.md). -/
def State.regRead (s : State) (m : Master) (off : Nat) (w64 : Bool) : State :=
  if off % (if w64 then 8 else 4) ≠ 0 then s.refuseBus m
  else
    match placeAt m off with
    | none => s.refuseBus m
    | some p =>
      if !(s.placeReach m p) then s.refuseBus m
      else if !w64 then s.read32 m p
      else if p.hit.reg.info.wide then s.read64 m p
      else
        match placeAt m (off + 4) with
        | none => s.refuseBus m
        | some q =>
          let t := s.read32 m p
          let u := t.read32 m q
          { u with bus := .value (BitVec.ofNat 64 (t.busWord + u.busWord * 2 ^ 32)) }

/-! ### Writes -/

/-- A write of MESH_ROUTE_q: the register file keeps route words as differences from their reset values. -/
def State.routeWrite (s : State) (c q : Nat) (v mask : Word) : State :=
  let w := ((v &&& mask) ||| (BitVec.ofNat 64 (s.routeWord (c / 48) (c % 48) q) &&& ~~~mask)) &&& ~~~Reg.MESH_ROUTE.holes
  s.set F.MESH_ROUTE_ENTRIES c (Nat.xor w.toNat (defaultRouteWord (c % 48) q)) q

/-- A write of PWR_CDOM_d by the hub: domains turn on and off (R660, R677). -/
def State.cdomWrite (s : State) (m : Master) (d : Nat) (v mask : Word) (addr : Nat) : State :=
  if !m.isHub then s.accWrite m ⟨.PWR_CDOM, 0, d⟩ v mask addr
  else
    let old := s.get F.PWR_CDOM_ON 0 d
    let new := F.PWR_CDOM_ON.of ((v &&& mask) ||| (s.rd ⟨.PWR_CDOM, 0, d⟩ &&& ~~~mask))
    (List.range 48).foldl (fun s n =>
      if bitOf new n = bitOf old n then s
      else if bitOf new n then s.clusterWake (48 * d + n) else s.clusterOff (48 * d + n)) s

/-- A write of TIME_CFG: REF_OUT_EN starts or stops REF10M_OUT while time is VALID (R482, R496, R498). -/
def State.timeCfgWrite (s : State) (m : Master) (v mask : Word) (addr : Nat) : State :=
  let t := s.accWrite m ⟨.TIME_CFG, 0, 0⟩ v mask addr
  let on := t.get F.TIME_CFG_REF_OUT_EN 0
  if t.tvalid && t.timeEnable && decide (on ≠ s.get F.TIME_CFG_REF_OUT_EN 0) then t.send (.pin 1 (decide (on = 1))) else t

/-- A register that only the hub controller writes though its fields are RW (R263, R445, R446). -/
def State.hubRegWrite (s : State) (m : Master) (p : RegPlace) (v mask : Word) (addr : Nat) : State :=
  if m.isHub then s.accWrite m p.key v mask addr
  else
    let old := s.rd p.key
    if (v ^^^ old) &&& mask &&& p.hit.reg.fieldMask = 0 then s else s.logAccess p.blk p.inst 1 m.code addr v.toNat

/-- A write of SPD_OWN: a bank's new owner is in force from the ACLK after on (R217). -/
def State.ownWrite (s : State) (m : Master) (c : Nat) (v mask : Word) (addr : Nat) : State :=
  let old := s.get F.SPD_OWN_OWN c
  (s.accWrite m ⟨.SPD_OWN, c, 0⟩ v mask addr).modCore c (fun x =>
    { x with ownOld := if x.ownOld.1 = s.now + 1 then x.ownOld else (s.now + 1, old) })

/-- A write that reaches the register at a place: the register's own behaviour, else its access codes. -/
def State.placeWrite (s : State) (m : Master) (p : RegPlace) (v mask : Word) (addr : Nat) : State :=
  let c := p.inst
  let n := p.hit.idx
  let x := v &&& mask
  match p.hit.reg with
  | .VE_TIE => s.tieWrite m c n v mask addr
  | .SPD_OWN => s.ownWrite m c v mask addr
  | .SPD_PWR => s.pwrWrite m c v mask addr
  | .DM_STRM_CFG => s.strmWrite m c n v mask addr
  | .SYNC_LWIN => s.lwinWrite m c n v mask addr
  | .HBMC_PAIR => s.pairWrite m c n v mask addr
  | .EVL_CFG => s.evlCfgWrite m c v mask addr
  | .EVL_ROUTE => s.hubRegWrite m p v mask addr
  | .EVL_MC => s.hubRegWrite m p v mask addr
  | .MESH_ROUTE => s.routeWrite c n v mask
  | .TIME_SET => s.timeSetWrite m x
  | .TIME_CFG => s.timeCfgWrite m v mask addr
  | .CC_EXIT => s.exitWrite c x
  | .CC_CKPT_DONE => s.ckptWrite c x
  | .CC_WDOG => s.wdogWrite m c v mask addr
  | .RST_HWDOG_KICK => s.kickWrite
  | .RST_CTRL => s.rstCtrlWrite m x
  | .SAFE_REARM => s.rearmWrite m x
  | .ELOG_PROP_CLR => s.propClrWrite x
  | .HUBC_EVQ => s.evqWrite m n v mask
  | .PWR_CDOM => s.cdomWrite m n v mask addr
  | .PERT_CREDIT | .PERT_BP | .PERT_HBM | .PERT_TSTAMP | .PERT_ECC | .PERT_ECC_ADDR | .PERT_SLIP | .PERT_SLIP_TILES =>
    s.pertWrite m p.key v mask addr
  | .PMON_CFG => s.pmonCfgWrite m c n v mask addr
  | .PMON_CNT => s.pmonCntWrite m c n v mask addr 0
  | _ => s.accWrite m p.key v mask addr

/-- A write at a place: the mailbox ports by their own operations, every other register as the place has it. -/
def State.writeAt (s : State) (m : Master) (p : RegPlace) (v mask : Word) (addr : Nat) : State :=
  let e := mbxEndOf p.inst p.hit.idx
  match p.hit.reg with
  | .MBX_TX => s.txWrite m e v
  | .MBX_DB => s.dbWrite m e v
  | .MBX_CTX => s.ctxWrite m p.inst p.hit.idx v
  | .MBX_CDB => s.cdbWrite m p.inst p.hit.idx v
  | .MBX_HIRQ => s.hirqWrite m p.inst v
  | r =>
    if isEndReg r && s.mgmtPage m e then { s.access m with bus := .written }.aer 1
    else { (s.access m).placeWrite m p v mask addr with bus := .written }

/-- A write of 32 or 64 bits at an offset (R4, R5, R750, R753); 64 bits at two 32-bit registers write both, the lower first (DESIGN
CHOICE, notes/assumptions/31.md). The host's doorbells to counters lie in BAR2 (R601). -/
def State.regWrite (s : State) (m : Master) (off : Nat) (w64 : Bool) (v : Word) : State :=
  if off % (if w64 then 8 else 4) ≠ 0 then s.refuseBus m
  else if m = .host ∧ 0x4080000 ≤ off ∧ off < 0x4084000 ∧ off % 8 = 0 ∧ !w64 then s.hdbWrite ((off - 0x4080000) / 8) (v &&& lowMask)
  else
    match placeAt m off with
    | none => s.refuseBus m
    | some p =>
      if !(s.placeReach m p) then s.refuseBus m
      else if !w64 then
        if p.hit.high then s.writeAt m p (v <<< 32) highMask off else s.writeAt m p (v &&& lowMask) lowMask off
      else if p.hit.reg.info.wide then s.writeAt m p v fullMask off
      else
        match placeAt m (off + 4) with
        | none => s.refuseBus m
        | some q => (s.writeAt m p (v &&& lowMask) lowMask off).writeAt m q (v >>> 32) lowMask (off + 4)

/-- A read of any width: the register space accepts 32 and 64 bits (R4). -/
def State.busRead (s : State) (m : Master) (off : Nat) : AccW → State
  | .w8 => s.refuseBus m
  | .w16 => s.refuseBus m
  | .w32 => s.regRead m off false
  | .w64 => s.regRead m off true

/-- A write of any width (R4). -/
def State.busWrite (s : State) (m : Master) (off : Nat) (w : AccW) (v : Word) : State :=
  match w with
  | .w8 => s.refuseBus m
  | .w16 => s.refuseBus m
  | .w32 => s.regWrite m off false v
  | .w64 => s.regWrite m off true v

/-! ### Commands -/

/-- REGISTER_WRITE (R4 to R9). -/
def execRegisterWrite (m : Master) (off : Nat) (w : AccW) (v : Word) (s : State) : Host.Outcome State Fault Refusal :=
  .next (s.busWrite m off w v)

/-- LOW_HALF_LATCH_READ (R5): a read; a 32-bit read of the low half of a 64-bit register latches the high half for its master. -/
def execLowHalfLatchRead (m : Master) (off : Nat) (w : AccW) (s : State) : Host.Outcome State Fault Refusal :=
  .next (s.busRead m off w)

/-- TIME_NOW_READ (R500): the whole, the low half or the high half. -/
def execTimeNowRead (m : Master) (part : Half) (s : State) : Host.Outcome State Fault Refusal :=
  .next (match part with
    | .full => s.regRead m 0x3019010 true
    | .low => s.regRead m 0x3019010 false
    | .high => s.regRead m 0x3019014 false)

/-- TIME_FRAC_READ (R500). -/
def execTimeFracRead (m : Master) (s : State) : Host.Outcome State Fault Refusal := .next (s.regRead m 0x3019018 false)

end Sys2Proof.Machine
end

