-- ==== Sys2Proof/Machine/CcInst.lean ====
section
/-! DEFINITION. The control core's own instructions (R134 to R139): RV64I with M, C and Zicsr in machine mode, and its interrupt
(R138, R150). The spec names the instruction set and gives no encodings; those of the RISC-V manuals are taken (PRESUMED,
notes/assumptions/30.md). -/

namespace Sys2Proof.Machine

open Sys2Proof

/-! ### Fields of an instruction word -/

def iRd (w : Nat) : Nat := bitsOf w 11 7
def iF3 (w : Nat) : Nat := bitsOf w 14 12
def iRs1 (w : Nat) : Nat := bitsOf w 19 15
def iRs2 (w : Nat) : Nat := bitsOf w 24 20
def iF7 (w : Nat) : Nat := bitsOf w 31 25

/-- The immediates of the formats I, S, B, U and J. -/
def immI (w : Nat) : Word := BitVec.ofInt 64 (sext 12 (bitsOf w 31 20))
def immS (w : Nat) : Word := BitVec.ofInt 64 (sext 12 (bitsOf w 31 25 * 32 + bitsOf w 11 7))
def immB (w : Nat) : Word :=
  BitVec.ofInt 64 (sext 13 (bitsOf w 31 31 * 4096 + bitsOf w 7 7 * 2048 + bitsOf w 30 25 * 32 + bitsOf w 11 8 * 2))
def immU (w : Nat) : Word := BitVec.ofInt 64 (sext 32 (bitsOf w 31 12 * 4096))
def immJ (w : Nat) : Word :=
  BitVec.ofInt 64 (sext 21 (bitsOf w 31 31 * 2 ^ 20 + bitsOf w 19 12 * 4096 + bitsOf w 20 20 * 2048 + bitsOf w 30 21 * 2))

/-! ### Compressed instructions -/

def encI (imm rs1 f3 rd op : Nat) : Nat := imm % 4096 * 2 ^ 20 + rs1 * 2 ^ 15 + f3 * 2 ^ 12 + rd * 2 ^ 7 + op
def encS (imm rs2 rs1 f3 : Nat) : Nat :=
  imm / 32 % 128 * 2 ^ 25 + rs2 * 2 ^ 20 + rs1 * 2 ^ 15 + f3 * 2 ^ 12 + imm % 32 * 2 ^ 7 + 0x23
def encR (f7 rs2 rs1 f3 rd op : Nat) : Nat := f7 * 2 ^ 25 + rs2 * 2 ^ 20 + rs1 * 2 ^ 15 + f3 * 2 ^ 12 + rd * 2 ^ 7 + op
def encB (imm rs1 f3 : Nat) : Nat :=
  bitsOf imm 12 12 * 2 ^ 31 + bitsOf imm 10 5 * 2 ^ 25 + rs1 * 2 ^ 15 + f3 * 2 ^ 12 + bitsOf imm 4 1 * 2 ^ 8 + bitsOf imm 11 11 * 2 ^ 7 + 0x63
def encJ (imm rd : Nat) : Nat :=
  bitsOf imm 20 20 * 2 ^ 31 + bitsOf imm 10 1 * 2 ^ 21 + bitsOf imm 11 11 * 2 ^ 20 + bitsOf imm 19 12 * 2 ^ 12 + rd * 2 ^ 7 + 0x6F

/-- Quadrant 0 of the compressed set. -/
def expand0 (h : Nat) : Option Nat :=
  let rd := 8 + bitsOf h 4 2
  let rs := 8 + bitsOf h 9 7
  let off4 := bitsOf h 12 10 * 8 + bitsOf h 6 6 * 4 + bitsOf h 5 5 * 64
  let off8 := bitsOf h 12 10 * 8 + bitsOf h 6 5 * 64
  match bitsOf h 15 13 with
  | 0 =>
    let n := bitsOf h 12 11 * 16 + bitsOf h 10 7 * 64 + bitsOf h 6 6 * 4 + bitsOf h 5 5 * 8
    if n = 0 then none else some (encI n 2 0 rd 0x13)
  | 2 => some (encI off4 rs 2 rd 0x03)
  | 3 => some (encI off8 rs 3 rd 0x03)
  | 6 => some (encS off4 rd rs 2)
  | 7 => some (encS off8 rd rs 3)
  | _ => none

/-- Quadrant 1 of the compressed set. -/
def expand1 (h : Nat) : Option Nat :=
  let rd := bitsOf h 11 7
  let rp := 8 + bitsOf h 9 7
  let r2 := 8 + bitsOf h 4 2
  let u6 := bitsOf h 12 12 * 32 + bitsOf h 6 2
  let s6 := wrapInt 12 (sext 6 u6)
  let j := wrapInt 21 (sext 12 (bitsOf h 12 12 * 2048 + bitsOf h 11 11 * 16 + bitsOf h 10 9 * 256 + bitsOf h 8 8 * 1024 + bitsOf h 7 7 * 64
    + bitsOf h 6 6 * 128 + bitsOf h 5 3 * 2 + bitsOf h 2 2 * 32))
  let b := wrapInt 13 (sext 9 (bitsOf h 12 12 * 256 + bitsOf h 11 10 * 8 + bitsOf h 6 5 * 64 + bitsOf h 4 3 * 2 + bitsOf h 2 2 * 32))
  match bitsOf h 15 13 with
  | 0 => some (encI s6 rd 0 rd 0x13)
  | 1 => if rd = 0 then none else some (encI s6 rd 0 rd 0x1B)
  | 2 => some (encI s6 0 0 rd 0x13)
  | 3 =>
    if rd = 2 then
      let n := bitsOf h 12 12 * 512 + bitsOf h 6 6 * 16 + bitsOf h 5 5 * 64 + bitsOf h 4 3 * 128 + bitsOf h 2 2 * 32
      if n = 0 then none else some (encI (wrapInt 12 (sext 10 n)) 2 0 2 0x13)
    else if u6 = 0 then none
    else some (wrapInt 20 (sext 6 u6) * 4096 + rd * 128 + 0x37)
  | 4 =>
    match bitsOf h 11 10 with
    | 0 => some (encI u6 rp 5 rp 0x13)
    | 1 => some (encI (u6 + 0x400) rp 5 rp 0x13)
    | 2 => some (encI s6 rp 7 rp 0x13)
    | _ =>
      match bitsOf h 12 12, bitsOf h 6 5 with
      | 0, 0 => some (encR 0x20 r2 rp 0 rp 0x33)
      | 0, 1 => some (encR 0 r2 rp 4 rp 0x33)
      | 0, 2 => some (encR 0 r2 rp 6 rp 0x33)
      | 0, _ => some (encR 0 r2 rp 7 rp 0x33)
      | _, 0 => some (encR 0x20 r2 rp 0 rp 0x3B)
      | _, 1 => some (encR 0 r2 rp 0 rp 0x3B)
      | _, _ => none
  | 5 => some (encJ j 0)
  | 6 => some (encB b rp 0)
  | _ => some (encB b rp 1)

/-- Quadrant 2 of the compressed set. -/
def expand2 (h : Nat) : Option Nat :=
  let rd := bitsOf h 11 7
  let r2 := bitsOf h 6 2
  match bitsOf h 15 13 with
  | 0 => some (encI (bitsOf h 12 12 * 32 + r2) rd 1 rd 0x13)
  | 2 => if rd = 0 then none else some (encI (bitsOf h 12 12 * 32 + bitsOf h 6 4 * 4 + bitsOf h 3 2 * 64) 2 2 rd 0x03)
  | 3 => if rd = 0 then none else some (encI (bitsOf h 12 12 * 32 + bitsOf h 6 5 * 8 + bitsOf h 4 2 * 64) 2 3 rd 0x03)
  | 4 =>
    if bitsOf h 12 12 = 0 then
      if r2 = 0 then (if rd = 0 then none else some (encI 0 rd 0 0 0x67)) else some (encR 0 r2 0 0 rd 0x33)
    else if r2 = 0 then (if rd = 0 then some 0x00100073 else some (encI 0 rd 0 1 0x67))
    else some (encR 0 r2 rd 0 rd 0x33)
  | 6 => some (encS (bitsOf h 12 9 * 4 + bitsOf h 8 7 * 64) r2 2 2)
  | 7 => some (encS (bitsOf h 12 10 * 8 + bitsOf h 9 7 * 64) r2 2 3)
  | _ => none

/-- The instruction that a 16-bit parcel stands for. -/
def expandC (h : Nat) : Option Nat :=
  match h % 4 with
  | 0 => expand0 h
  | 1 => expand1 h
  | 2 => expand2 h
  | _ => none

/-! ### Arithmetic -/

/-- Bits 31:0 of a value, sign-extended. -/
def sextW (v : Word) : Word := (v.extractLsb' 0 32).signExtend 64

/-- Division and remainder, with the results of RISC-V for a divisor of 0 and for overflow. -/
def divS {w : Nat} (a b : BitVec w) : BitVec w := if b = 0 then BitVec.allOnes w else a.sdiv b
def divU {w : Nat} (a b : BitVec w) : BitVec w := if b = 0 then BitVec.allOnes w else a / b
def remS {w : Nat} (a b : BitVec w) : BitVec w := if b = 0 then a else a.srem b
def remU {w : Nat} (a b : BitVec w) : BitVec w := if b = 0 then a else a % b

/-- The operations of RV64I and M on two 64-bit values, by funct7 and funct3. -/
def aluOp (f7 f3 : Nat) (a b : Word) : Option Word :=
  let sh := b.toNat % 64
  match f7, f3 with
  | 0x00, 0 => some (a + b)
  | 0x20, 0 => some (a - b)
  | 0x00, 1 => some (a <<< sh)
  | 0x00, 2 => some (if a.slt b then 1 else 0)
  | 0x00, 3 => some (if a.ult b then 1 else 0)
  | 0x00, 4 => some (a ^^^ b)
  | 0x00, 5 => some (a >>> sh)
  | 0x20, 5 => some (a.sshiftRight sh)
  | 0x00, 6 => some (a ||| b)
  | 0x00, 7 => some (a &&& b)
  | 0x01, 0 => some (a * b)
  | 0x01, 1 => some (BitVec.ofInt 64 (a.toInt * b.toInt / 2 ^ 64))
  | 0x01, 2 => some (BitVec.ofInt 64 (a.toInt * (b.toNat : Int) / 2 ^ 64))
  | 0x01, 3 => some (BitVec.ofNat 64 (a.toNat * b.toNat / 2 ^ 64))
  | 0x01, 4 => some (divS a b)
  | 0x01, 5 => some (divU a b)
  | 0x01, 6 => some (remS a b)
  | 0x01, 7 => some (remU a b)
  | _, _ => none

/-- The 32-bit operations, their results sign-extended. -/
def aluOpW (f7 f3 : Nat) (a b : Word) : Option Word :=
  let x : BitVec 32 := a.extractLsb' 0 32
  let y : BitVec 32 := b.extractLsb' 0 32
  let sh := b.toNat % 32
  let r : Option (BitVec 32) :=
    match f7, f3 with
    | 0x00, 0 => some (x + y)
    | 0x20, 0 => some (x - y)
    | 0x00, 1 => some (x <<< sh)
    | 0x00, 5 => some (x >>> sh)
    | 0x20, 5 => some (x.sshiftRight sh)
    | 0x01, 0 => some (x * y)
    | 0x01, 4 => some (divS x y)
    | 0x01, 5 => some (divU x y)
    | 0x01, 6 => some (remS x y)
    | 0x01, 7 => some (remU x y)
    | _, _ => none
  r.map (fun v => v.signExtend 64)

/-- Operations with an immediate: shifts take funct7 (funct6 for 64 bits) from the word. -/
def aluImm (w : Nat) (a : Word) : Option Word :=
  match iF3 w with
  | 1 => if bitsOf w 31 26 = 0 then aluOp 0 1 a (BitVec.ofNat 64 (bitsOf w 25 20)) else none
  | 5 =>
    match bitsOf w 31 26 with
    | 0x00 => aluOp 0 5 a (BitVec.ofNat 64 (bitsOf w 25 20))
    | 0x10 => aluOp 0x20 5 a (BitVec.ofNat 64 (bitsOf w 25 20))
    | _ => none
  | f => aluOp 0 f a (immI w)
def aluImmW (w : Nat) (a : Word) : Option Word :=
  match iF3 w with
  | 0 => aluOpW 0 0 a (immI w)
  | 1 => if iF7 w = 0 then aluOpW 0 1 a (BitVec.ofNat 64 (iRs2 w)) else none
  | 5 => if iF7 w = 0 ∨ iF7 w = 0x20 then aluOpW (iF7 w) 5 a (BitVec.ofNat 64 (iRs2 w)) else none
  | _ => none

/-- The condition of a branch, by funct3. -/
def branchCond (f3 : Nat) (a b : Word) : Option Bool :=
  match f3 with
  | 0 => some (decide (a = b))
  | 1 => some (decide (a ≠ b))
  | 4 => some (a.slt b)
  | 5 => some (!(a.slt b))
  | 6 => some (a.ult b)
  | 7 => some (!(a.ult b))
  | _ => none

/-! ### Control and status registers -/

/-- An interrupt source asserts (R138): CC_IRQ, the completion queue under CPL_EN (R169). -/
def State.irqPending (s : State) (c : Nat) : Bool :=
  let n := s.ccSources c
  decide (n - n / 32 % 2 * 32 ≠ 0) || (bitOf n 5 && decide (s.get F.CC_IRQ_CPL_EN c = 1))

/-- mstatus.MIE, mstatus.MPIE and mie.MEIE. -/
def mMIE : Word := 0x8
def mMPIE : Word := 0x80
def mMEIE : Word := 0x800

/-- The value of a control and status register; none for a number that names none. -/
def State.csrRead (s : State) (c n : Nat) : Option Word :=
  let x := s.core c
  match n with
  | 0x300 => some ((x.mstatus &&& (mMIE ||| mMPIE)) ||| 0x1800)
  | 0x301 => some 0x8000000000001104
  | 0x304 => some x.mie
  | 0x305 => some x.mtvec
  | 0x340 => some x.mscratch
  | 0x341 => some x.mepc
  | 0x342 => some x.mcause
  | 0x343 => some x.mtval
  | 0x344 => some (if s.irqPending c then mMEIE else 0)
  | 0xB00 => some (BitVec.ofNat 64 (s.trfNow c))
  | 0xB02 => some x.minstret
  | n =>
    if 0xF11 ≤ n ∧ n ≤ 0xF15 then some (Config.ccIdReg n c)
    else if n = 0x320 ∨ (0x323 ≤ n ∧ n ≤ 0x33F) ∨ (0xB03 ≤ n ∧ n ≤ 0xB1F) then some 0
    else none

/-- Writing a control and status register; mcycle equals TRF_NOW (R138), so a write leaves it. -/
def State.csrWrite (s : State) (c n : Nat) (v : Word) : State :=
  s.modCore c (fun x =>
    match n with
    | 0x300 => { x with mstatus := v &&& (mMIE ||| mMPIE) }
    | 0x304 => { x with mie := v &&& mMEIE }
    | 0x305 => { x with mtvec := v &&& ~~~2 }
    | 0x340 => { x with mscratch := v }
    | 0x341 => { x with mepc := v &&& ~~~1 }
    | 0x342 => { x with mcause := v }
    | 0x343 => { x with mtval := v }
    | 0xB02 => { x with minstret := v }
    | _ => x)

/-- An instruction of Zicsr. -/
def State.csrInst (s : State) (c w len : Nat) : State :=
  let n := bitsOf w 31 20
  let f3 := iF3 w
  let a : Word := if 4 ≤ f3 then BitVec.ofNat 64 (iRs1 w) else (s.core c).xreg (iRs1 w)
  let writes := decide (f3 % 4 = 1) || decide (iRs1 w ≠ 0)
  match s.csrRead c n with
  | none => s.trap c 2
  | some old =>
    if writes && decide (n / 1024 = 3) then s.trap c 2
    else
      let new := match f3 % 4 with
        | 1 => a
        | 2 => old ||| a
        | _ => old &&& ~~~a
      let t := s.retire c len (iRd w) old
      if writes then t.csrWrite c n new else t

/-! ### Loads and stores (R135, R139) -/

/-- The core's own window covers the bytes. -/
def inWindow (c a n : Nat) : Bool := decide (winBase c ≤ a) && decide (a + n ≤ winBase c + 0x100000)

/-- The address lies in the register space. -/
def inRegs (a : Nat) : Bool := decide (0x200000000000 ≤ a) && decide (a < 0x200040000000)

/-- The width of an access of `n` bytes. -/
def accWidth (n : Nat) : AccW :=
  match n with
  | 1 => .w8 | 2 => .w16 | 4 => .w32 | _ => .w64

/-- A load or store ends with an exception; one at the register space counts as an access there (R5, DEDUCED,
notes/assumptions/30.md). -/
def State.ccFault (s : State) (c a cause : Nat) : State :=
  (if inRegs a then s.access (.cc c) else s).trap c cause

/-- An access of the CC to its own window (R139, R215, R218 to R220): it presents itself until its bank or port serves it, what it reads
meets the check bits, and then the rest of the instruction, `f`, runs. An uncorrectable error leaves the destination
unchanged and aborts the task with cause ECC (DEDUCED, notes/assumptions/30.md). -/
def State.ccWindow (s : State) (c : Nat) (hw : CcHw) (off n : Nat) (reads : List (Nat × Nat)) (f : State → State) : State :=
  let since := (s.core c).ccSince.getD s.now
  if !(s.windowServes c .cc since [(off, n)]) then s.modCore c (fun x => { x with ccSince := some since })
  else
    let s := (s.windowTake c .cc since [(off, n)]).modCore c (fun x => { x with ccSince := none })
    let (s, _, unc) := s.winReads c 0 reads (match hw with
      | .dataCorr => .corr
      | .dataUnc => .unc
      | _ => .ok) off
    if unc then s.raiseAbort c 4 else f s

/-- A load of `n` bytes; `ext` gives the register's value from the bytes. -/
def State.ccLoad (s : State) (c : Nat) (hw : CcHw) (a n len rd : Nat) (ext : Nat → Word) : State :=
  if hw = .addrMismatch then s.addrMismatch c
  else if a % n ≠ 0 then s.ccFault c a 4
  else if inWindow c a n then
    let off := a - winBase c
    if !(s.rangeOn c off n) then (s.flag F.SPD_EVT_REFUSED c).trap c 5
    else s.ccWindow c hw off n [(off, n)] (fun s => s.retire c len rd (ext (s.winNat c off n)))
  else if inRegs a then
    let t := s.busRead (.cc c) (a - 0x200000000000) (accWidth n)
    match t.bus with
    | .value v => t.retire c len rd (ext v.toNat)
    | _ => t.trap c 5
  else s.trap c 5

/-- A store of `n` bytes; one that covers only part of an 8-byte word reads the word first (R215). -/
def State.ccStore (s : State) (c : Nat) (hw : CcHw) (a n len : Nat) (v : Word) : State :=
  if hw = .addrMismatch then s.addrMismatch c
  else if a % n ≠ 0 then s.ccFault c a 6
  else if inWindow c a n then
    let off := a - winBase c
    if !(s.rangeOn c off n) then (s.flag F.SPD_EVT_REFUSED c).trap c 7
    else s.ccWindow c hw off n (partWords off n) (fun s => (s.writeWin c off (leBytes n v.toNat)).retire c len 0 0)
  else if inRegs a then
    let t := s.busWrite (.cc c) (a - 0x200000000000) (accWidth n) v
    if t.bus = .busError then t.trap c 7 else t.retire c len 0 0
  else s.trap c 7

/-! ### One instruction -/

/-- A jump: the link value to `rd`, the pc to the target. -/
def State.ccJump (s : State) (c len rd : Nat) (target : Word) : State :=
  s.modCore c (fun x => { x.setX rd (BitVec.ofNat 64 (x.pc + len)) with pc := target.toNat, minstret := x.minstret + 1 })

/-- A result to `rd`, or an illegal instruction. -/
def State.ccResult (s : State) (c len rd : Nat) (r : Option Word) : State :=
  match r with
  | some v => s.retire c len rd v
  | none => s.trap c 2

/-- MRET. -/
def State.ccMret (s : State) (c : Nat) : State :=
  s.modCore c (fun x => { x with
    pc := x.mepc.toNat, minstret := x.minstret + 1,
    mstatus := (if x.mstatus &&& mMPIE = 0 then 0 else mMIE) ||| mMPIE })

/-- The instructions of major opcode SYSTEM. -/
def State.ccSystem (s : State) (c w len : Nat) : State :=
  if iF3 w = 0 then
    match w with
    | 0x00000073 => s.trap c 11
    | 0x00100073 => s.trap c 3
    | 0x30200073 => s.ccMret c
    | 0x10500073 =>
      let t := s.retire c len 0 0
      if s.irqPending c && decide ((s.core c).mie &&& mMEIE ≠ 0) then t else t.ccState c 3
    | _ => s.trap c 2
  else if iF3 w = 4 then s.trap c 2
  else s.csrInst c w len

/-- The value a load gives the register, by funct3. -/
def loadExt (f3 : Nat) (v : Nat) : Word :=
  match f3 with
  | 0 => BitVec.ofInt 64 (sext 8 v)
  | 1 => BitVec.ofInt 64 (sext 16 v)
  | 2 => BitVec.ofInt 64 (sext 32 v)
  | _ => BitVec.ofNat 64 v

/-- One 32-bit instruction word of length `len` in memory. -/
def State.ccExec (s : State) (c : Nat) (hw : CcHw) (w len : Nat) : State :=
  let x := s.core c
  let rd := iRd w
  let a := x.xreg (iRs1 w)
  let b := x.xreg (iRs2 w)
  let pc : Word := BitVec.ofNat 64 x.pc
  match w % 128 with
  | 0x37 => s.retire c len rd (immU w)
  | 0x17 => s.retire c len rd (pc + immU w)
  | 0x6F => s.ccJump c len rd (pc + immJ w)
  | 0x67 => if iF3 w = 0 then s.ccJump c len rd ((a + immI w) &&& ~~~1) else s.trap c 2
  | 0x63 =>
    match branchCond (iF3 w) a b with
    | some true => s.ccJump c len 0 (pc + immB w)
    | some false => s.retire c len 0 0
    | none => s.trap c 2
  | 0x03 => if iF3 w = 7 then s.trap c 2 else s.ccLoad c hw (a + immI w).toNat (2 ^ (iF3 w % 4)) len rd (loadExt (iF3 w))
  | 0x23 => if 4 ≤ iF3 w then s.trap c 2 else s.ccStore c hw (a + immS w).toNat (2 ^ iF3 w) len b
  | 0x13 => s.ccResult c len rd (aluImm w a)
  | 0x1B => s.ccResult c len rd (aluImmW w a)
  | 0x33 => s.ccResult c len rd (aluOp (iF7 w) (iF3 w) a b)
  | 0x3B => s.ccResult c len rd (aluOpW (iF7 w) (iF3 w) a b)
  | 0x0F => if iF3 w = 0 then s.retire c len 0 0 else s.trap c 2
  | 0x73 => s.ccSystem c w len
  | _ => s.trap c 2

/-- A CC waiting in WFI goes on when an enabled source asserts. -/
def State.ccWake (s : State) (c : Nat) : State :=
  if s.get F.CC_STATE_STATE c = 3 ∧ s.irqPending c ∧ (s.core c).mie &&& mMEIE ≠ 0 then s.ccState c 1 else s

/-- CC_INSTRUCTION (R134): the instruction at the pc. A well-formed push instruction is left to its own command (R140). -/
def execCcInstruction (core : Nat) (hw : CcHw) (s : State) : Host.Outcome State Fault Refusal :=
  let s := s.ccWake core
  if !(s.ccReady core) then .next s
  else
    match (s.core core).fetch with
    | none => .next (s.trap core 1)
    | some (w, len) =>
      if len = 4 ∧ (customOp w).isSome then .next s
      else
        .next (s.withFetch core hw (fun s =>
          match (if len = 4 then some w else expandC w) with
          | some v => s.ccExec core hw v len
          | none => s.trap core 2))

/-- CC_INTERRUPT (R138, R150): the machine external interrupt enters the handler at mtvec; a stalled push is abandoned, so that mepc
holds its address. -/
def execCcInterrupt (core : Nat) (s : State) : Host.Outcome State Fault Refusal :=
  let x := s.core core
  let st := s.get F.CC_STATE_STATE core
  let busy := x.push.isSome && decide (st ≠ 2)
  if !(s.running core) || busy || !(decide (1 ≤ st) && decide (st ≤ 3)) || !(s.irqPending core)
      || decide (x.mstatus &&& mMIE = 0) || decide (x.mie &&& mMEIE = 0) then .next s
  else
    let k := cluInst core
    let v := s.vat k
    let s := s.setVat k { v with waiting := v.waiting.filter (· ≠ core) }
    let s := if st = 1 then s else s.ccState core 1
    .next (s.modCore core (fun x => { x with
      push := none, ccSince := none, mepc := BitVec.ofNat 64 x.pc, mcause := 0x800000000000000B, mtval := 0, mstatus := mMPIE,
      pc := ((x.mtvec &&& ~~~3) + (if x.mtvec &&& 3 = 1 then 44 else 0)).toNat }))

end Sys2Proof.Machine
end

