-- ==== Sys2Proof/Machine/Dispatch.lean ====
section
/-! DEFINITION. The dispatcher: one arm per command, each one direct call of its meaning. -/

namespace Sys2Proof.Machine

/-- The effect of a command on everything but the queue. -/
def exec (i : Instr) (s : State) : Host.Outcome State Fault Refusal :=
  match i with
  | .registerWrite m off w v => Sys2Proof.Machine.execRegisterWrite m off w v s
  | .lowHalfLatchRead m off w => Sys2Proof.Machine.execLowHalfLatchRead m off w s
  | .timeNowRead m part => Sys2Proof.Machine.execTimeNowRead m part s
  | .timeFracRead m => Sys2Proof.Machine.execTimeFracRead m s
  | .ccInstruction core hw => Sys2Proof.Machine.execCcInstruction core hw s
  | .ccInterrupt core => Sys2Proof.Machine.execCcInterrupt core s
  | .cmdLdt core hw => Sys2Proof.Machine.execCmdLdt core hw s
  | .cmdWr core hw => Sys2Proof.Machine.execCmdWr core hw s
  | .cmdPush core hw => Sys2Proof.Machine.execCmdPush core hw s
  | .cmdCpl core hw => Sys2Proof.Machine.execCmdCpl core hw s
  | .cmdQst core hw => Sys2Proof.Machine.execCmdQst core hw s
  | .vatPushServe cl => Sys2Proof.Machine.execVatPushServe cl s
  | .cmdLink cl hw => Sys2Proof.Machine.execCmdLink cl hw s
  | .vatFreeListRebuild cl => Sys2Proof.Machine.execVatFreeListRebuild cl s
  | .headSelect core e hw => Sys2Proof.Machine.execHeadSelect core e hw s
  | .idle core e => Sys2Proof.Machine.execIdle core e s
  | .wait core e => Sys2Proof.Machine.execWait core e s
  | .waitRelease core e => Sys2Proof.Machine.execWaitRelease core e s
  | .waitTimeout core e => Sys2Proof.Machine.execWaitTimeout core e s
  | .coreTaskAbort core cause => Sys2Proof.Machine.execCoreTaskAbort core cause s
  | .meSweep core hw => Sys2Proof.Machine.execMeSweep core hw s
  | .meLoad core hw => Sys2Proof.Machine.execMeLoad core hw s
  | .meMm core hw => Sys2Proof.Machine.execMeMm core hw s
  | .dmTload core hw => Sys2Proof.Machine.execDmTload core hw s
  | .tloadWritePhase core => Sys2Proof.Machine.execTloadWritePhase core s
  | .writeBufferDrain core bank => Sys2Proof.Machine.execWriteBufferDrain core bank s
  | .dmTstore core hw => Sys2Proof.Machine.execDmTstore core hw s
  | .veCvt core hw => Sys2Proof.Machine.execVeCvt core hw s
  | .veAdd core hw => Sys2Proof.Machine.execVeAdd core hw s
  | .veMul core hw => Sys2Proof.Machine.execVeMul core hw s
  | .veAxpy core hw => Sys2Proof.Machine.execVeAxpy core hw s
  | .veMax core hw => Sys2Proof.Machine.execVeMax core hw s
  | .veAffine core hw => Sys2Proof.Machine.execVeAffine core hw s
  | .veFn core hw => Sys2Proof.Machine.execVeFn core hw s
  | .veRsum core hw => Sys2Proof.Machine.execVeRsum core hw s
  | .veRmax core hw => Sys2Proof.Machine.execVeRmax core hw s
  | .veRdot core hw => Sys2Proof.Machine.execVeRdot core hw s
  | .veNorm core hw => Sys2Proof.Machine.execVeNorm core hw s
  | .veSmax core hw => Sys2Proof.Machine.execVeSmax core hw s
  | .veDrop core hw => Sys2Proof.Machine.execVeDrop core hw s
  | .veActb core hw => Sys2Proof.Machine.execVeActb core hw s
  | .veNormb core hw => Sys2Proof.Machine.execVeNormb core hw s
  | .veSmaxb core hw => Sys2Proof.Machine.execVeSmaxb core hw s
  | .veUnscale core hw => Sys2Proof.Machine.execVeUnscale core hw s
  | .veSlice core hw => Sys2Proof.Machine.execVeSlice core hw s
  | .veUnslice core hw => Sys2Proof.Machine.execVeUnslice core hw s
  | .vePhase core => Sys2Proof.Machine.execVePhase core s
  | .vePhaseComplete core => Sys2Proof.Machine.execVePhaseComplete core s
  | .vePhaseTimeout core => Sys2Proof.Machine.execVePhaseTimeout core s
  | .veTieArm m core slot v => Sys2Proof.Machine.execVeTieArm m core slot v s
  | .dmTurn core hw => Sys2Proof.Machine.execDmTurn core hw s
  | .spdPwrReq m core v => Sys2Proof.Machine.execSpdPwrReq m core v s
  | .bankTransitionEnd core bank => Sys2Proof.Machine.execBankTransitionEnd core bank s
  | .bankServe core bank hw => Sys2Proof.Machine.execBankServe core bank hw s
  | .bankWrite core bank => Sys2Proof.Machine.execBankWrite core bank s
  | .bankAdd core bank => Sys2Proof.Machine.execBankAdd core bank s
  | .bankMax core bank => Sys2Proof.Machine.execBankMax core bank s
  | .bankAxpy core bank => Sys2Proof.Machine.execBankAxpy core bank s
  | .bankInc core bank => Sys2Proof.Machine.execBankInc core bank s
  | .bankG8acc core bank => Sys2Proof.Machine.execBankG8acc core bank s
  | .bankOpWriteback core bank checkFail => Sys2Proof.Machine.execBankOpWriteback core bank checkFail s
  | .dmCopy core => Sys2Proof.Machine.execDmCopy core s
  | .dmGather core hw => Sys2Proof.Machine.execDmGather core hw s
  | .dmScatter core hw => Sys2Proof.Machine.execDmScatter core hw s
  | .dmBankop core => Sys2Proof.Machine.execDmBankop core s
  | .dmFence core => Sys2Proof.Machine.execDmFence core s
  | .dmRacc core => Sys2Proof.Machine.execDmRacc core s
  | .dmMsu core => Sys2Proof.Machine.execDmMsu core s
  | .dmOpt core => Sys2Proof.Machine.execDmOpt core s
  | .dmStream core => Sys2Proof.Machine.execDmStream core s
  | .strmWindowEnable m core win v => Sys2Proof.Machine.execStrmWindowEnable m core win v s
  | .dmIssueRequest core => Sys2Proof.Machine.execDmIssueRequest core s
  | .dmResponse core => Sys2Proof.Machine.execDmResponse core s
  | .meshRd at_ hw => Sys2Proof.Machine.execMeshRd at_ hw s
  | .meshWr at_ => Sys2Proof.Machine.execMeshWr at_ s
  | .meshOp at_ => Sys2Proof.Machine.execMeshOp at_ s
  | .rdata at_ => Sys2Proof.Machine.execRdata at_ s
  | .ack at_ => Sys2Proof.Machine.execAck at_ s
  | .refuse at_ => Sys2Proof.Machine.execRefuse at_ s
  | .bankFull at_ => Sys2Proof.Machine.execBankFull at_ s
  | .resume at_ => Sys2Proof.Machine.execResume at_ s
  | .reservationLapse chan => Sys2Proof.Machine.execReservationLapse chan s
  | .red at_ => Sys2Proof.Machine.execRed at_ s
  | .mcw at_ => Sys2Proof.Machine.execMcw at_ s
  | .mcack at_ => Sys2Proof.Machine.execMcack at_ s
  | .reservedPacket at_ => Sys2Proof.Machine.execReservedPacket at_ s
  | .routerForward die cl port vc corr => Sys2Proof.Machine.execRouterForward die cl port vc corr s
  | .mcwForward die cl port => Sys2Proof.Machine.execMcwForward die cl port s
  | .routerFault die cl kind port vc dnode => Sys2Proof.Machine.execRouterFault die cl kind port vc dnode s
  | .meshDrainComplete die => Sys2Proof.Machine.execMeshDrainComplete die s
  | .bridgeCrcRetry bridge lane => Sys2Proof.Machine.execBridgeCrcRetry bridge lane s
  | .hbmcPairWrite stack q v => Sys2Proof.Machine.execHbmcPairWrite stack q v s
  | .hbmScrub stack line hw => Sys2Proof.Machine.execHbmScrub stack line hw s
  | .racc msu => Sys2Proof.Machine.execRacc msu s
  | .scale msu => Sys2Proof.Machine.execScale msu s
  | .fill msu => Sys2Proof.Machine.execFill msu s
  | .optimizerStep msu hw => Sys2Proof.Machine.execOptimizerStep msu hw s
  | .msuOpWriteback msu checkFail => Sys2Proof.Machine.execMsuOpWriteback msu checkFail s
  | .signalArrive core => Sys2Proof.Machine.execSignalArrive core s
  | .signalRelease core slot => Sys2Proof.Machine.execSignalRelease core slot s
  | .nodeHeldSignalSend core => Sys2Proof.Machine.execNodeHeldSignalSend core s
  | .lwinEnable m core win v => Sys2Proof.Machine.execLwinEnable m core win v s
  | .suSet core => Sys2Proof.Machine.execSuSet core s
  | .suAdd core => Sys2Proof.Machine.execSuAdd core s
  | .suSignal core => Sys2Proof.Machine.execSuSignal core s
  | .suBarrier core => Sys2Proof.Machine.execSuBarrier core s
  | .suCtrWrite m core q v => Sys2Proof.Machine.execSuCtrWrite m core q v s
  | .barrierArrival node => Sys2Proof.Machine.execBarrierArrival node s
  | .genMismatchReport slot => Sys2Proof.Machine.execGenMismatchReport slot s
  | .barrierRelease core => Sys2Proof.Machine.execBarrierRelease core s
  | .realignRelease core => Sys2Proof.Machine.execRealignRelease core s
  | .barrierConfig node => Sys2Proof.Machine.execBarrierConfig node s
  | .linkSignalDetect link => Sys2Proof.Machine.execLinkSignalDetect link s
  | .detectTimeout link => Sys2Proof.Machine.execDetectTimeout link s
  | .laneLock link => Sys2Proof.Machine.execLaneLock link s
  | .trainComplete link => Sys2Proof.Machine.execTrainComplete link s
  | .trainTimeout link => Sys2Proof.Machine.execTrainTimeout link s
  | .exchange link cap => Sys2Proof.Machine.execExchange link cap s
  | .rateResult link pass uncorr => Sys2Proof.Machine.execRateResult link pass uncorr s
  | .retrainComplete link pass nextSeq => Sys2Proof.Machine.execRetrainComplete link pass nextSeq s
  | .lossOfSignal link => Sys2Proof.Machine.execLossOfSignal link s
  | .laneSignalLoss link lanes => Sys2Proof.Machine.execLaneSignalLoss link lanes s
  | .evlEnWrite m link v => Sys2Proof.Machine.execEvlEnWrite m link v s
  | .dataFlitReceive link f => Sys2Proof.Machine.execDataFlitReceive link f s
  | .idleFlitReceive link f => Sys2Proof.Machine.execIdleFlitReceive link f s
  | .flitTransmit link => Sys2Proof.Machine.execFlitTransmit link s
  | .ackTimeout link => Sys2Proof.Machine.execAckTimeout link s
  | .creditStall link vc => Sys2Proof.Machine.execCreditStall link vc s
  | .linkPacketForward inLink vc => Sys2Proof.Machine.execLinkPacketForward inLink vc s
  | .hubTagTimeout tag => Sys2Proof.Machine.execHubTagTimeout tag s
  | .hubMcForward idx => Sys2Proof.Machine.execHubMcForward idx s
  | .linkSignal inLink => Sys2Proof.Machine.execLinkSignal inLink s
  | .rchSend core => Sys2Proof.Machine.execRchSend core s
  | .landedReport msu => Sys2Proof.Machine.execLandedReport msu s
  | .rchSignalRelease chan => Sys2Proof.Machine.execRchSignalRelease chan s
  | .rchClose core => Sys2Proof.Machine.execRchClose core s
  | .rchCloseProceed core => Sys2Proof.Machine.execRchCloseProceed core s
  | .rchCloseTimeout core => Sys2Proof.Machine.execRchCloseTimeout core s
  | .tReqSend link => Sys2Proof.Machine.execTReqSend link s
  | .tReq link seq t2 t3 => Sys2Proof.Machine.execTReq link seq t2 t3 s
  | .tResp link seq valid t2 t3 t4 => Sys2Proof.Machine.execTResp link seq valid t2 t3 t4 s
  | .announceSend link => Sys2Proof.Machine.execAnnounceSend link s
  | .announce link a => Sys2Proof.Machine.execAnnounce link a s
  | .announceTimeout => Sys2Proof.Machine.execAnnounceTimeout s
  | .holdMaxExpiry => Sys2Proof.Machine.execHoldMaxExpiry s
  | .timeSet m v => Sys2Proof.Machine.execTimeSet m v s
  | .cntMismatch => Sys2Proof.Machine.execCntMismatch s
  | .freqWindow ppb => Sys2Proof.Machine.execFreqWindow ppb s
  | .ppsInEdge phase => Sys2Proof.Machine.execPpsInEdge phase s
  | .inputLost src => Sys2Proof.Machine.execInputLost src s
  | .ppsOutEdge => Sys2Proof.Machine.execPpsOutEdge s
  | .ptpMessage p => Sys2Proof.Machine.execPtpMessage p s
  | .ethFrameDrop => Sys2Proof.Machine.execEthFrameDrop s
  | .load m => Sys2Proof.Machine.execLoad m s
  | .loaderRun o => Sys2Proof.Machine.execLoaderRun o s
  | .unload m => Sys2Proof.Machine.execUnload m s
  | .start m ext => Sys2Proof.Machine.execStart m ext s
  | .residentTaskStart => Sys2Proof.Machine.execResidentTaskStart s
  | .ccExit core v => Sys2Proof.Machine.execCcExit core v s
  | .taskEnd slot => Sys2Proof.Machine.execTaskEnd slot s
  | .hubTaskAbort slot => Sys2Proof.Machine.execHubTaskAbort slot s
  | .takeoverDecision slot => Sys2Proof.Machine.execTakeoverDecision slot s
  | .kill m => Sys2Proof.Machine.execKill m s
  | .switchOut m => Sys2Proof.Machine.execSwitchOut m s
  | .switchSyncDrained slot => Sys2Proof.Machine.execSwitchSyncDrained slot s
  | .switchTimeout slot => Sys2Proof.Machine.execSwitchTimeout slot s
  | .restore m => Sys2Proof.Machine.execRestore m s
  | .commit m => Sys2Proof.Machine.execCommit m s
  | .discard m => Sys2Proof.Machine.execDiscard m s
  | .specCfg m => Sys2Proof.Machine.execSpecCfg m s
  | .ccCkptDone core v => Sys2Proof.Machine.execCcCkptDone core v s
  | .checkpointComplete slot => Sys2Proof.Machine.execCheckpointComplete slot s
  | .energyAccrual busy clusters other => Sys2Proof.Machine.execEnergyAccrual busy clusters other s
  | .identify m => Sys2Proof.Machine.execIdentify m s
  | .eventRing m => Sys2Proof.Machine.execEventRing m s
  | .attest m ext => Sys2Proof.Machine.execAttest m ext s
  | .cert m => Sys2Proof.Machine.execCert m s
  | .unlock m tok => Sys2Proof.Machine.execUnlock m tok s
  | .testUnlock m tok => Sys2Proof.Machine.execTestUnlock m tok s
  | .tokenLapse => Sys2Proof.Machine.execTokenLapse s
  | .mbxTxWrite m mb v => Sys2Proof.Machine.execMbxTxWrite m mb v s
  | .mbxRxRead m mb => Sys2Proof.Machine.execMbxRxRead m mb s
  | .mbxDbRing m mb v => Sys2Proof.Machine.execMbxDbRing m mb v s
  | .doorbellDeliver => Sys2Proof.Machine.execDoorbellDeliver s
  | .hostDoorbell core v => Sys2Proof.Machine.execHostDoorbell core v s
  | .clusterInboxWrite core d v => Sys2Proof.Machine.execClusterInboxWrite core d v s
  | .clusterDoorbell core d v => Sys2Proof.Machine.execClusterDoorbell core d v s
  | .mbxHirq core v => Sys2Proof.Machine.execMbxHirq core v s
  | .mbxResponse m => Sys2Proof.Machine.execMbxResponse m s
  | .evqHeadWrite m ring v => Sys2Proof.Machine.execEvqHeadWrite m ring v s
  | .bar4Access off wr bytes len tag poisoned => Sys2Proof.Machine.execBar4Access off wr bytes len tag poisoned s
  | .completionTimeout tag => Sys2Proof.Machine.execCompletionTimeout tag s
  | .flr => Sys2Proof.Machine.execFlr s
  | .dataLinkDown => Sys2Proof.Machine.execDataLinkDown s
  | .perstAssert => Sys2Proof.Machine.execPerstAssert s
  | .mgmtStatus => Sys2Proof.Machine.execMgmtStatus s
  | .mgmtTelemetry => Sys2Proof.Machine.execMgmtTelemetry s
  | .mgmtIdentity => Sys2Proof.Machine.execMgmtIdentity s
  | .mgmtMbxWrite bytes => Sys2Proof.Machine.execMgmtMbxWrite bytes s
  | .mgmtMbxRead n => Sys2Proof.Machine.execMgmtMbxRead n s
  | .mgmtDoorbell => Sys2Proof.Machine.execMgmtDoorbell s
  | .mgmtQueueStatus => Sys2Proof.Machine.execMgmtQueueStatus s
  | .telemetryRefresh => Sys2Proof.Machine.execTelemetryRefresh s
  | .chStatus => Sys2Proof.Machine.execChStatus s
  | .chProgram copy img fail => Sys2Proof.Machine.execChProgram copy img fail s
  | .chSetOwner hash => Sys2Proof.Machine.execChSetOwner hash s
  | .chRead addr len host => Sys2Proof.Machine.execChRead addr len host s
  | .chClearCount => Sys2Proof.Machine.execChClearCount s
  | .chRestart => Sys2Proof.Machine.execChRestart s
  | .powerPhase ok => Sys2Proof.Machine.execPowerPhase ok s
  | .backupPhase => Sys2Proof.Machine.execBackupPhase s
  | .firmwarePhase a b => Sys2Proof.Machine.execFirmwarePhase a b s
  | .configPhase a b => Sys2Proof.Machine.execConfigPhase a b s
  | .selftestPhase r => Sys2Proof.Machine.execSelftestPhase r s
  | .diesPhase r => Sys2Proof.Machine.execDiesPhase r s
  | .linksPhase => Sys2Proof.Machine.execLinksPhase s
  | .neighbourPhase => Sys2Proof.Machine.execNeighbourPhase s
  | .timePhase => Sys2Proof.Machine.execTimePhase s
  | .readyPhase => Sys2Proof.Machine.execReadyPhase s
  | .phaseTimeout phase => Sys2Proof.Machine.execPhaseTimeout phase s
  | .helloSend link => Sys2Proof.Machine.execHelloSend link s
  | .hello link h => Sys2Proof.Machine.execHello link h s
  | .heartbeatSend => Sys2Proof.Machine.execHeartbeatSend s
  | .heartbeat fromMod seq => Sys2Proof.Machine.execHeartbeat fromMod seq s
  | .silent fromMod => Sys2Proof.Machine.execSilent fromMod s
  | .register r => Sys2Proof.Machine.execRegister r s
  | .regAck slot result => Sys2Proof.Machine.execRegAck slot result s
  | .registerTimeout slot => Sys2Proof.Machine.execRegisterTimeout slot s
  | .unregister fromMod slot => Sys2Proof.Machine.execUnregister fromMod slot s
  | .takeover t => Sys2Proof.Machine.execTakeover t s
  | .takeAck slot result => Sys2Proof.Machine.execTakeAck slot result s
  | .isolate fromMod failed => Sys2Proof.Machine.execIsolate fromMod failed s
  | .isolateAck fromMod links => Sys2Proof.Machine.execIsolateAck fromMod links s
  | .isolateTimeout => Sys2Proof.Machine.execIsolateTimeout s
  | .aliasMsg link aliasId newMod aseq => Sys2Proof.Machine.execAliasMsg link aliasId newMod aseq s
  | .powerOnReset => Sys2Proof.Machine.execPowerOnReset s
  | .brownOut released => Sys2Proof.Machine.execBrownOut released s
  | .pinReset low => Sys2Proof.Machine.execPinReset low s
  | .hubWatchdogExpiry => Sys2Proof.Machine.execHubWatchdogExpiry s
  | .hwdogWarn => Sys2Proof.Machine.execHwdogWarn s
  | .rstHwdogKick m v => Sys2Proof.Machine.execRstHwdogKick m v s
  | .hubLockup => Sys2Proof.Machine.execHubLockup s
  | .clockMonitorWindow freqs => Sys2Proof.Machine.execClockMonitorWindow freqs s
  | .warmResetRequest m v => Sys2Proof.Machine.execWarmResetRequest m v s
  | .debugReset => Sys2Proof.Machine.execDebugReset s
  | .coreWatchdogExpiry core => Sys2Proof.Machine.execCoreWatchdogExpiry core s
  | .ccWdogWrite m core v => Sys2Proof.Machine.execCcWdogWrite m core v s
  | .coreLockup core unit => Sys2Proof.Machine.execCoreLockup core unit s
  | .coreResetDrainEnd core => Sys2Proof.Machine.execCoreResetDrainEnd core s
  | .resetRelease => Sys2Proof.Machine.execResetRelease s
  | .prsntMate => Sys2Proof.Machine.execPrsntMate s
  | .efuseSoftStart => Sys2Proof.Machine.execEfuseSoftStart s
  | .softStartComplete => Sys2Proof.Machine.execSoftStartComplete s
  | .prsntBreak => Sys2Proof.Machine.execPrsntBreak s
  | .withdrawRailsDischarged => Sys2Proof.Machine.execWithdrawRailsDischarged s
  | .efuseShort amps10 => Sys2Proof.Machine.execEfuseShort amps10 s
  | .efuseOvercurrent amps10 => Sys2Proof.Machine.execEfuseOvercurrent amps10 s
  | .efuseSustained amps10 => Sys2Proof.Machine.execEfuseSustained amps10 s
  | .efuseOvervoltage mv => Sys2Proof.Machine.execEfuseOvervoltage mv s
  | .efuseUndervoltage mv => Sys2Proof.Machine.execEfuseUndervoltage mv s
  | .undervoltageReclose => Sys2Proof.Machine.execUndervoltageReclose s
  | .powerSample mv amps10 => Sys2Proof.Machine.execPowerSample mv amps10 s
  | .shedEnd => Sys2Proof.Machine.execShedEnd s
  | .railFault rail => Sys2Proof.Machine.execRailFault rail s
  | .clusterIdleOff cl => Sys2Proof.Machine.execClusterIdleOff cl s
  | .clusterPowerGood cl => Sys2Proof.Machine.execClusterPowerGood cl s
  | .coolantSample inlet outlet flow pos => Sys2Proof.Machine.execCoolantSample inlet outlet flow pos s
  | .valveStep => Sys2Proof.Machine.execValveStep s
  | .valveFault => Sys2Proof.Machine.execValveFault s
  | .railSample rail mv amps10 => Sys2Proof.Machine.execRailSample rail mv amps10 s
  | .hazInput ch value => Sys2Proof.Machine.execHazInput ch value s
  | .hazRailOv ch rail value => Sys2Proof.Machine.execHazRailOv ch rail value s
  | .hazRailOc ch rail value => Sys2Proof.Machine.execHazRailOc ch rail value s
  | .hazDieOt ch sensor value => Sys2Proof.Machine.execHazDieOt ch sensor value s
  | .hazHbmOt ch sensor value => Sys2Proof.Machine.execHazHbmOt ch sensor value s
  | .hazCoolant ch sensor value => Sys2Proof.Machine.execHazCoolant ch sensor value s
  | .hazXchk ch pair value partner => Sys2Proof.Machine.execHazXchk ch pair value partner s
  | .hazChannel ch => Sys2Proof.Machine.execHazChannel ch s
  | .hazFabric inLink vc => Sys2Proof.Machine.execHazFabric inLink vc s
  | .safetyHeartbeatSend ch => Sys2Proof.Machine.execSafetyHeartbeatSend ch s
  | .safetyHeartbeat ch ok outOfBand active => Sys2Proof.Machine.execSafetyHeartbeat ch ok outOfBand active s
  | .safeAck => Sys2Proof.Machine.execSafeAck s
  | .safeAckTimeout => Sys2Proof.Machine.execSafeAckTimeout s
  | .safeRearm m v => Sys2Proof.Machine.execSafeRearm m v s
  | .rearmPin => Sys2Proof.Machine.execRearmPin s
  | .propClearAll m => Sys2Proof.Machine.execPropClearAll m s
  | .persClear m => Sys2Proof.Machine.execPersClear m s
  | .propClearIndex m n => Sys2Proof.Machine.execPropClearIndex m n s
  | .pmonGfreezeWrite m v => Sys2Proof.Machine.execPmonGfreezeWrite m v s
  | .pmonCntWrite m inst k v events => Sys2Proof.Machine.execPmonCntWrite m inst k v events s
  | .debugUnlockExpiry => Sys2Proof.Machine.execDebugUnlockExpiry s
  | .pcieLinkUp => Sys2Proof.Machine.execPcieLinkUp s
  | .d3hotTransition d3 => Sys2Proof.Machine.execD3hotTransition d3 s
  | .ref10mInQualified => Sys2Proof.Machine.execRef10mInQualified s
  | .ptpSourceLoss => Sys2Proof.Machine.execPtpSourceLoss s
  | .thermalSensorSample sensor temp => Sys2Proof.Machine.execThermalSensorSample sensor temp s
  | .p3v3AuxLoss => Sys2Proof.Machine.execP3v3AuxLoss s
  | .supercapacitorHoldExpiry => Sys2Proof.Machine.execSupercapacitorHoldExpiry s
  | .pllLockLoss domain => Sys2Proof.Machine.execPllLockLoss domain s
  | .detectRetry link => Sys2Proof.Machine.execDetectRetry link s
  | .ppsTermEnChange level => Sys2Proof.Machine.execPpsTermEnChange level s

end Sys2Proof.Machine
end

