-- ==== Sys2Proof/Machine/Step.lean ====
section
/-! DEFINITION. One step of the block: the command at the front of the queue runs; an empty queue lets one ACLK pass. -/

namespace Sys2Proof.Machine

open Sys2Proof

/-- Taking the front command and running it with the queue's rest. On an empty queue the block idles for one ACLK: no command acts, and
the engines go on with what has begun (DESIGN CHOICE, notes/assumptions/2.md). -/
def step (s : State) : Host.Outcome State Fault Refusal :=
  match s.pending with
  | [] => .next (s.at_ (s.now + 1))
  | c :: rest => exec c { s with pending := rest }

/-- The state with the command that a word spells put at the front of its queue; unchanged where the word spells none. -/
def State.withFetchWord (s : State) (nbits w : Nat) : State :=
  match decodeTableWord nbits w with
  | some c => { s with pending := c :: s.pending }
  | none => s

end Sys2Proof.Machine
end

