-- ==== Sys2Proof/Safety.lean ====
section
/-! DEFINITION. The terms in which statements about the block are made: a step that completes, states that differ only in what the block
records about events (error log, events for the host, performance counters, injection tags), and the invariant of the state. -/

namespace Sys2Proof.Machine

open Sys2Proof

/-- The step answers a next state. -/
def Completes (s : State) : Prop := ∃ t, step s = .next t

/-- The command answers a next state, and `P` holds of it. -/
def Answers (c : Instr) (s : State) (P : State → Prop) : Prop := ∃ t, exec c s = .next t ∧ P t

/-- Registers that recording an event writes: the error log's own (R708, R716, R719, R720), the event rings' (R620), the performance
counters (R733) and the injection control (R728). -/
def sideReg : Reg → Bool
  | .ELOG_STATUS | .ELOG_CNT | .ELOG_PROP | .HUBC_EVQ | .HUBC_EVQ_STAT | .PMON_CNT | .PMON_WRAP | .PERT_ECC => true
  | _ => false

/-- A byte in which a registered event ring (R603) may store an entry: 4,096 entries of 128 bytes from its base. -/
def ringByte (s : State) (a : Nat) : Bool :=
  s.rings.any (fun r => decide (r.2.base % 2 ^ 48 ≤ a) && decide (a < r.2.base % 2 ^ 48 + 128 * 4096))

/-- What recording an event sends outside: interrupt messages, SMBALERT#, and ring entries in host memory (R602, R604, R702). -/
def recordOut : Out → Bool
  | .msix _ | .smbAlert | .hostWrite _ _ => true
  | _ => false

/-- `t` is `s` but for what is recorded about events: the side registers, the log and its stores, held events, ring entries, interrupt
messages, correction counts, injection tags and the event bits set in the present ACLK. Every other register, every other byte of memory and every other part of the state is
the same. -/
structure Quiet (s t : State) : Prop where
  rest : t = { s with regs := t.regs, mem := t.mem, elog := t.elog, pers := t.pers, props := t.props, out := t.out, events := t.events,
                      evLost := t.evLost, rings := t.rings, corr := t.corr, inj := t.inj,
                      evNow := t.evNow }
  regs : ∀ k, sideReg k.reg = false → t.rd k = s.rd k
  mem : ∀ a, ringByte s a = false → t.readByte a = s.readByte a
  ring : ∀ a, ringByte t a = ringByte s a
  out : t.out.filter (fun o => !(recordOut o)) = s.out.filter (fun o => !(recordOut o))

end Sys2Proof.Machine
end

