-- ==== Sys2Proof/Certificates/Slice0/Obligations.lean ====
section
/-! DEFINITION. The statements for the provers. -/

open Sys2Proof Sys2Proof.Machine

/-! ### Register access (17 and 23 of the spec) -/

/-- Registers whose write has a behaviour of its own besides the access codes of its fields; each has a command or a statement of its
own. -/
def Sys2Proof.Machine.ownWrite : Reg → Bool
  | .VE_TIE | .SPD_OWN | .SPD_PWR | .DM_STRM_CFG | .SYNC_LWIN | .HBMC_PAIR | .EVL_CFG | .EVL_ROUTE | .EVL_MC | .MESH_ROUTE | .TIME_SET | .TIME_CFG
  | .CC_EXIT | .CC_CKPT_DONE | .CC_WDOG | .RST_HWDOG_KICK | .RST_CTRL | .SAFE_REARM | .ELOG_PROP_CLR | .HUBC_EVQ | .PWR_CDOM
  | .PERT_CREDIT | .PERT_BP | .PERT_HBM | .PERT_TSTAMP | .PERT_ECC | .PERT_ECC_ADDR | .PERT_SLIP | .PERT_SLIP_TILES | .PMON_CFG
  | .PMON_CNT | .MBX_TX | .MBX_DB | .MBX_CTX | .MBX_CDB | .MBX_HIRQ => true
  | _ => false

/-- The value a field holds after a write of `v` to its register, by its access code (R6, R8); `held` are the bits that the hardware sets
in the same ACLK (R7). -/
def Sys2Proof.Machine.fieldAfter (f : Field) (isHub locked : Bool) (old v held : Word) : Nat :=
  match f.acc with
  | .rw => f.of v
  | .ro => f.of old
  | .wo => f.of old
  | .w1c => f.of old &&& f.of (~~~v ||| held)
  | .w1s => f.of old ||| f.of v
  | .rwl => if locked then f.of old else f.of v
  | .hubOnly => if isHub then f.of v else f.of old

/-- A write as wide as its register, by a master that reaches it, to a register without behaviour of its own: the access codes of R6, the
lock of R8, and the frame. -/
def Obligations.RegisterWriteAccessCodes : Prop :=
  ∀ (s : State) (m : Master) (off : Nat) (v : Word) (p : RegPlace),
    placeAt m off = some p → p.hit.high = false → off % (if p.hit.reg.info.wide then 8 else 4) = 0 →
    ownWrite p.hit.reg = false → s.placeReach m p = true → s.mgmtPage m (mbxEndOf p.inst p.hit.idx) = false →
    ∃ t, exec (.registerWrite m off (if p.hit.reg.info.wide then .w64 else .w32) v) s = .next t ∧ t.bus = .written ∧
      (∀ f ∈ p.hit.reg.info.fields, f.of (t.rd p.key) =
        fieldAfter f m.isHub (s.locked p.hit.reg.info.blk) (s.rd p.key) (v &&& ~~~p.hit.reg.holes) (s.setMask p.key)) ∧
      (∀ i, i < 64 → (∀ f ∈ p.hit.reg.info.fields, ¬ (f.lo ≤ i ∧ i ≤ f.hi)) → (t.rd p.key).getLsbD i = (s.rd p.key).getLsbD i) ∧
      (∀ k, k ≠ p.key → sideReg k.reg = false → t.rd k = s.rd k) ∧
      (∀ a, ringByte s a = false → t.readByte a = s.readByte a) ∧ t.pending = s.pending

/-- R8: a locked RWL field, or a hub-only field written by another master, keeps its value; the record of kind 0x01 and class 0 is written
exactly when the value written differs. `elog` keeps at most 4,096 records (R708). -/
def Obligations.LockedFieldWrite : Prop :=
  ∀ (s : State) (m : Master) (k : RKey) (v : Word) (addr : Nat),
    let t := s.accWrite m k v fullMask addr
    let w := v &&& ~~~k.reg.holes
    (∀ f ∈ k.reg.info.fields, (f.acc = .rwl ∧ s.locked k.reg.info.blk = true) ∨ (f.acc = .hubOnly ∧ m.isHub = false) →
      f.of (t.rd k) = f.of (s.rd k)) ∧
    (∀ f ∈ k.reg.info.fields, f.acc = .rw → f.of (t.rd k) = f.of w) ∧
    ((∃ f ∈ k.reg.info.fields, f.of w ≠ f.of (s.rd k) ∧
        ((f.acc = .rwl ∧ s.locked k.reg.info.blk = true) ∨ (f.acc = .hubOnly ∧ m.isHub = false))) →
      ∃ r, t.elog.getLast? = some r ∧ r.cls = 0 ∧ r.blk = k.reg.info.blk.code ∧ r.code / 256 = 1 ∧ r.unit = k.inst ∧
        r.data.take 2 = leBytes 2 m.code ∧ (r.data.drop 8).take 8 = leBytes 8 (0x200000000000 + addr % 0x40000000) ∧
        (r.data.drop 16).take 8 = leBytes 8 v.toNat ∧
        r.seq = s.get F.ELOG_STATUS_NEXT_SEQ 0) ∧
    ((∀ f ∈ k.reg.info.fields, (f.acc = .rwl ∧ s.locked k.reg.info.blk = true) ∨ (f.acc = .hubOnly ∧ m.isHub = false) →
        f.of w = f.of (s.rd k)) → t.elog = s.elog)

/-- R4 for the two commands of the register space. R5: the read of the low half, the read of the high half that follows it, and the discarding of the latch by any access. -/
def Obligations.AccessesAndLatch : Prop :=
  (∀ (s : State) (m : Master) (off : Nat) (w : AccW) (v : Word),
    w = .w8 ∨ w = .w16 ∨ (w = .w32 ∧ off % 4 ≠ 0) ∨ (w = .w64 ∧ off % 8 ≠ 0) →
    exec (.registerWrite m off w v) s = exec (.lowHalfLatchRead m off w) s ∧
    ∃ t, exec (.registerWrite m off w v) s = .next t ∧
      t = { s with bus := t.bus, latch := s.latch.filter (fun l => decide (l.1 ≠ m.code)), tlatch := s.tlatch.filter (fun l => decide (l.1 ≠ m.code)) } ∧
      (m = .host → t.bus = .unsupported) ∧ (m ≠ .host → t.bus = .busError)) ∧
  (∀ (s : State) (m : Master) (off : Nat) (p : RegPlace),
    placeAt m off = some p → p.hit.high = false → off % 4 = 0 → p.hit.reg.info.wide = true → p.hit.reg ≠ .TIME_NOW →
    s.placeReach m p = true →
    ∃ t, exec (.lowHalfLatchRead m off .w32) s = .next t ∧
      t.bus = .value (BitVec.ofNat 64 ((s.view p.key).toNat % 2 ^ 32)) ∧
      t.latch = (m.code, p.key, (s.view p.key).toNat / 2 ^ 32) :: s.latch.filter (fun l => decide (l.1 ≠ m.code)) ∧
      t.regs = s.regs ∧ t.mem = s.mem ∧ t.pending = s.pending) ∧
  (∀ (s : State) (m : Master) (off : Nat) (p : RegPlace) (x : Nat) (rest : List (Nat × RKey × Nat)),
    placeAt m off = some p → p.hit.high = true → off % 4 = 0 → p.hit.reg ≠ .TIME_NOW → p.hit.reg ≠ .TIME_FRAC → p.hit.reg ≠ .MBX_RX →
    isEndReg p.hit.reg = false → s.placeReach m p = true → s.latch = (m.code, p.key, x) :: rest →
    ∃ t, exec (.lowHalfLatchRead m off .w32) s = .next t ∧ t.bus = .value (BitVec.ofNat 64 x) ∧
      t.latch = rest.filter (fun l => decide (l.1 ≠ m.code)) ∧ t.regs = s.regs ∧ t.mem = s.mem) ∧
  (∀ (s t : State) (m : Master) (off : Nat) (w : AccW) (l : Nat × RKey × Nat),
    exec (.lowHalfLatchRead m off w) s = .next t → l ∈ t.latch → l.1 = m.code →
    w = .w32 ∧ ∃ p, placeAt m off = some p ∧ p.hit.high = false ∧ l = (m.code, p.key, (s.view p.key).toNat / 2 ^ 32)) ∧
  (∀ (s t : State) (m : Master) (off : Nat) (w : AccW) (v : Word), exec (.registerWrite m off w v) s = .next t → ∀ l, l ∈ t.latch → l.1 ≠ m.code)

/-- R500 for a master that reaches the TIME block. -/
def Obligations.TimeNowAndFraction : Prop :=
  ∀ (s : State) (m : Master), s.reach m .TIME 0 = true →
    (∃ t, exec (.timeNowRead m .full) s = .next t ∧ t.bus = .value (BitVec.ofNat 64 s.timeNs) ∧
      t.tlatch.head? = some (m.code, s.timeNs, s.timeFull % 2 ^ 32, false) ∧ t.regs = s.regs ∧ t.mem = s.mem) ∧
    (∃ t, exec (.timeNowRead m .low) s = .next t ∧ t.bus = .value (BitVec.ofNat 64 (s.timeNs % 2 ^ 64 % 2 ^ 32)) ∧
      t.tlatch.head? = some (m.code, s.timeNs, s.timeFull % 2 ^ 32, true) ∧ t.regs = s.regs ∧ t.mem = s.mem) ∧
    (∀ (ns fr : Nat) (rest : List (Nat × Nat × Nat × Bool)), s.tlatch = (m.code, ns, fr, true) :: rest →
      ∃ t, exec (.timeNowRead m .high) s = .next t ∧ t.bus = .value (BitVec.ofNat 64 (ns / 2 ^ 32)) ∧
        t.tlatch.head? = some (m.code, ns, fr, false) ∧ t.regs = s.regs ∧ t.mem = s.mem) ∧
    (∀ (ns fr : Nat) (b : Bool) (rest : List (Nat × Nat × Nat × Bool)), s.tlatch = (m.code, ns, fr, b) :: rest →
      ∃ t, exec (.timeFracRead m) s = .next t ∧ t.bus = .value (BitVec.ofNat 64 fr) ∧
        (∀ l ∈ t.tlatch, l.1 ≠ m.code) ∧ t.regs = s.regs ∧ t.mem = s.mem) ∧
    ((∀ l ∈ s.tlatch, l.1 ≠ m.code) →
      ∃ t, exec (.timeFracRead m) s = .next t ∧ t.bus = .value (BitVec.ofNat 64 (s.timeFull % 2 ^ 32)) ∧
        t.tlatch = s.tlatch ∧ t.regs = s.regs ∧ t.mem = s.mem)

/-! ### The control core (05_core_and_command_queues.md) -/

/-- R140 for the four push instructions that complete at once. `w` is the instruction word at the pc. -/
def Obligations.StagingInstructions : Prop :=
  ∀ (s : State) (c w : Nat), s.ccReady c = true → (s.core c).fetch = some (w, 4) →
    (customOp w = some 0 →
      let a := ((s.core c).xreg (bitsOf w 19 15) + BitVec.ofInt 64 (sext 12 (bitsOf w 31 20))).toNat
      (a % 64 = 0 → a + 64 ≤ 0x8000 →
        exec (.cmdLdt c .ok) s = .next (s.modCore c (fun x => { x with
          cs := putD natLt 0 x.cs (bitsOf w 8 7) (BitVec.ofNat 512 (leNat (getBytes x.code a 64))),
          pc := x.pc + 4, minstret := x.minstret + 1 }))) ∧
      (a % 64 ≠ 0 → exec (.cmdLdt c .ok) s = .next (s.trap c 4)) ∧
      (a % 64 = 0 → 0x8000 < a + 64 → exec (.cmdLdt c .ok) s = .next (s.trap c 5))) ∧
    (customOp w = some 1 →
      ∃ t, exec (.cmdWr c .ok) s = .next t ∧ (t.core c).pc = (s.core c).pc + 4 ∧ (t.core c).minstret = (s.core c).minstret + 1 ∧
        (t.core c).x = (s.core c).x ∧
        ((t.core c).getCs (bitsOf w 31 30)).extractLsb' (32 * bitsOf w 29 26) 32
          = ((s.core c).xreg (bitsOf w 19 15) + (s.core c).xreg (bitsOf w 24 20)).extractLsb' 0 32 ∧
        (∀ i, i < 512 → ¬ (32 * bitsOf w 29 26 ≤ i ∧ i < 32 * bitsOf w 29 26 + 32) →
          ((t.core c).getCs (bitsOf w 31 30)).getLsbD i = ((s.core c).getCs (bitsOf w 31 30)).getLsbD i) ∧
        (∀ n, n ≠ bitsOf w 31 30 → (t.core c).getCs n = (s.core c).getCs n) ∧
        t.regs = s.regs ∧ t.mem = s.mem ∧ (∀ d, d ≠ c → t.core d = s.core d) ∧ t.pending = s.pending) ∧
    (customOp w = some 3 →
      exec (.cmdCpl c .ok) s = .next (s.modCore c (fun x => { x.setX (bitsOf w 11 7) (x.cpl.headD 0) with
        cpl := x.cpl.drop 1, pc := x.pc + 4, minstret := x.minstret + 1 }))) ∧
    (customOp w = some 4 →
      exec (.cmdQst c .ok) s = .next (s.modCore c (fun x => { x.setX (bitsOf w 11 7)
        (s.view ⟨.CC_QSTAT, c, (x.xreg (bitsOf w 19 15)).toNat % 4⟩) with pc := x.pc + 4, minstret := x.minstret + 1 })))

/-- R137, R139: taking an exception, and the address mismatch. R138, R150. -/
def Obligations.TrapsAndInterrupts : Prop :=
  ((∀ (s : State) (c cause : Nat), ¬ (cause = 3 ∧ (s.core c).debug = true) → cause < 256 → (s.core c).pc < 0x10000 →
    let t := s.trap c cause
    t.get F.CC_TRAP_VALID c = 1 ∧ t.get F.CC_TRAP_CAUSE c = cause ∧ t.get F.CC_TRAP_EPC c = (s.core c).pc ∧
    t.get F.CC_TRAP_ECC_CORR c = s.get F.CC_TRAP_ECC_CORR c ∧ t.get F.CC_TASK_STATUS_ABORTED c = 1 ∧
    (s.get F.CC_TASK_STATUS_ABORTED c = 0 → t.get F.CC_TASK_STATUS_CAUSE c = 1 ∧ (t.core c).abort = some 1 ∧ (t.core c).push = none ∧
      (s.get F.CC_STATE_STATE c ≠ 4 → t.get F.CC_STATE_STATE c = 0)) ∧
    (s.get F.CC_TASK_STATUS_ABORTED c = 1 → t.get F.CC_TASK_STATUS_CAUSE c = s.get F.CC_TASK_STATUS_CAUSE c) ∧
    t.mem = s.mem ∧ t.elog = s.elog ∧ (t.core c).x = (s.core c).x ∧ (t.core c).pc = (s.core c).pc ∧ (∀ d, d ≠ c → t.core d = s.core d)) ∧
  (∀ (s : State) (c : Nat), (s.core c).debug = true → s.trap c 3 = s.ccState c 5) ∧
  (∀ (s : State) (c w : Nat), s.ccReady c = true → (s.core c).fetch = some (w, 4) → customOp w = some 0 →
    ∃ t, exec (.cmdLdt c .addrMismatch) s = .next t ∧ t = (s.raiseAbort c 2).logHw 2 .CC 0 c (leBytes 8 (s.core c).pc) ∧
      (t.core c).pc = (s.core c).pc ∧ (t.core c).cs = (s.core c).cs)) ∧
  ((∀ (s : State) (c : Nat), s.running c = true → 1 ≤ s.get F.CC_STATE_STATE c → s.get F.CC_STATE_STATE c ≤ 3 →
    ((s.core c).push = none ∨ s.get F.CC_STATE_STATE c = 2) → s.irqPending c = true →
    (s.core c).mstatus &&& mMIE ≠ 0 → (s.core c).mie &&& mMEIE ≠ 0 →
    ∃ t, exec (.ccInterrupt c) s = .next t ∧ (t.core c).mepc = BitVec.ofNat 64 (s.core c).pc ∧ (t.core c).mcause = 0x800000000000000B ∧
      (t.core c).mstatus &&& mMIE = 0 ∧ (t.core c).mstatus &&& mMPIE = mMPIE ∧
      ((s.core c).mtvec &&& 3 = 0 → (t.core c).pc = (s.core c).mtvec.toNat) ∧ (t.core c).push = none ∧ t.get F.CC_STATE_STATE c = 1 ∧
      c ∉ (t.vat (cluInst c)).waiting ∧ (t.core c).x = (s.core c).x ∧ (t.core c).minstret = (s.core c).minstret ∧
      (∀ d, d ≠ c → t.core d = s.core d) ∧ (∀ k, k ≠ ⟨.CC_STATE, c, 0⟩ → t.rd k = s.rd k) ∧ t.mem = s.mem ∧ t.pending = s.pending) ∧
  (∀ (s : State) (c : Nat), (s.core c).mstatus &&& mMIE = 0 ∨ (s.core c).mie &&& mMEIE = 0 → exec (.ccInterrupt c) s = .next s))

/-- RV64IM register instructions at the pc, uncompressed and compressed; `nextPc` for the straight line. -/
def Obligations.IntegerInstructions : Prop :=
  ∀ (s : State) (c h w len : Nat), s.ccReady c = true → s.get F.CC_STATE_STATE c = 1 →
    (s.core c).fetch = some (h, len) → (if len = 4 then some h else expandC h) = some w → ¬ (len = 4 ∧ (customOp h).isSome = true) →
    let x := s.core c
    let a := x.xreg (iRs1 w)
    let b := x.xreg (iRs2 w)
    let pc : Word := BitVec.ofNat 64 x.pc
    let straight (v : Word) : State := s.modCore c (fun x => { x.setX (iRd w) v with pc := x.pc + len, minstret := x.minstret + 1 })
    let jump (rd : Nat) (p : Word) : State :=
      s.modCore c (fun x => { x.setX rd (BitVec.ofNat 64 (x.pc + len)) with pc := p.toNat, minstret := x.minstret + 1 })
    let go (r : Option Word) : State := match r with
      | some v => straight v
      | none => s.trap c 2
    (w % 128 = 0x33 → exec (.ccInstruction c .ok) s = .next (go (aluOp (iF7 w) (iF3 w) a b))) ∧
    (w % 128 = 0x3B → exec (.ccInstruction c .ok) s = .next (go (aluOpW (iF7 w) (iF3 w) a b))) ∧
    (w % 128 = 0x13 → exec (.ccInstruction c .ok) s = .next (go (aluImm w a))) ∧
    (w % 128 = 0x1B → exec (.ccInstruction c .ok) s = .next (go (aluImmW w a))) ∧
    (w % 128 = 0x37 → exec (.ccInstruction c .ok) s = .next (straight (immU w))) ∧
    (w % 128 = 0x17 → exec (.ccInstruction c .ok) s = .next (straight (pc + immU w))) ∧
    (w % 128 = 0x6F → exec (.ccInstruction c .ok) s = .next (jump (iRd w) (pc + immJ w))) ∧
    (w % 128 = 0x67 → iF3 w = 0 → exec (.ccInstruction c .ok) s = .next (jump (iRd w) ((a + immI w) &&& ~~~1))) ∧
    (w % 128 = 0x63 → branchCond (iF3 w) a b = some true → exec (.ccInstruction c .ok) s = .next (jump 0 (pc + immB w))) ∧
    (w % 128 = 0x63 → branchCond (iF3 w) a b = some false →
      exec (.ccInstruction c .ok) s = .next (s.modCore c (fun x => { x with pc := x.pc + len, minstret := x.minstret + 1 }))) ∧
    (w % 128 = 0x0F → iF3 w = 0 →
      exec (.ccInstruction c .ok) s = .next (s.modCore c (fun x => { x with pc := x.pc + len, minstret := x.minstret + 1 })))

/-- Loads (opcode 0x03) and stores (0x23) of a control core in its own window, and where they trap. -/
def Obligations.CcLoadsAndStores : Prop :=
  ∀ (s : State) (c w : Nat), s.ccReady c = true → s.get F.CC_STATE_STATE c = 1 → (s.core c).fetch = some (w, 4) → s.inj = [] →
    let served (off n : Nat) : Bool := s.windowServes c .cc ((s.core c).ccSince.getD s.now) [(off, n)]
    (w % 128 = 0x03 → iF3 w < 7 →
      let a := ((s.core c).xreg (iRs1 w) + immI w).toNat
      let n := 2 ^ (iF3 w % 4)
      (a % n = 0 → inWindow c a n = true → s.rangeOn c (a - winBase c) n = true → served (a - winBase c) n = true →
        ∃ t, exec (.ccInstruction c .ok) s = .next t ∧
          (t.core c).x = ((s.core c).setX (iRd w) (loadExt (iF3 w) (leNat (s.readMem a n)))).x ∧ (t.core c).pc = (s.core c).pc + 4 ∧
          (t.core c).minstret = (s.core c).minstret + 1 ∧ t.mem = s.mem ∧ (∀ d, d ≠ c → t.core d = s.core d) ∧
          (∀ k, sideReg k.reg = false → k ≠ ⟨.SPD_EVT, c, 0⟩ → t.rd k = s.rd k) ∧ t.pending = s.pending) ∧
      (a % n = 0 → inWindow c a n = true → s.rangeOn c (a - winBase c) n = true → served (a - winBase c) n = false →
        exec (.ccInstruction c .ok) s = .next (s.modCore c (fun x => { x with ccSince := some (x.ccSince.getD s.now) }))) ∧
      (a % n ≠ 0 → exec (.ccInstruction c .ok) s = .next ((if inRegs a then s.access (.cc c) else s).trap c 4)) ∧
      (a % n = 0 → inWindow c a n = true → s.rangeOn c (a - winBase c) n = false →
        exec (.ccInstruction c .ok) s = .next ((s.flag F.SPD_EVT_REFUSED c).trap c 5)) ∧
      (a % n = 0 → inWindow c a n = false → (a < 0x200000000000 ∨ 0x200040000000 ≤ a) → exec (.ccInstruction c .ok) s = .next (s.trap c 5))) ∧
    (w % 128 = 0x23 → iF3 w < 4 →
      let a := ((s.core c).xreg (iRs1 w) + immS w).toNat
      let n := 2 ^ iF3 w
      (a % n = 0 → inWindow c a n = true → s.rangeOn c (a - winBase c) n = true → served (a - winBase c) n = true →
        ∃ t, exec (.ccInstruction c .ok) s = .next t ∧
          (∀ j, j < n → t.readByte (a + j) = ((leBytes n ((s.core c).xreg (iRs2 w)).toNat).getD j 0)) ∧
          (∀ j, j < a ∨ a + n ≤ j → t.readByte j = s.readByte j) ∧
          (t.core c).pc = (s.core c).pc + 4 ∧ (t.core c).x = (s.core c).x ∧ (∀ d, d ≠ c → t.core d = s.core d) ∧
          (∀ k, sideReg k.reg = false → k ≠ ⟨.SPD_EVT, c, 0⟩ → t.rd k = s.rd k) ∧ t.pending = s.pending) ∧
      (a % n = 0 → inWindow c a n = true → s.rangeOn c (a - winBase c) n = true → served (a - winBase c) n = false →
        exec (.ccInstruction c .ok) s = .next (s.modCore c (fun x => { x with ccSince := some (x.ccSince.getD s.now) }))) ∧
      (a % n ≠ 0 → exec (.ccInstruction c .ok) s = .next ((if inRegs a then s.access (.cc c) else s).trap c 6)) ∧
      (a % n = 0 → inWindow c a n = true → s.rangeOn c (a - winBase c) n = false →
        exec (.ccInstruction c .ok) s = .next ((s.flag F.SPD_EVT_REFUSED c).trap c 7)) ∧
      (a % n = 0 → inWindow c a n = false → (a < 0x200000000000 ∨ 0x200040000000 ≤ a) → exec (.ccInstruction c .ok) s = .next (s.trap c 7)))


/-! ### Queues, the vat, IDLE, WAIT and the abort (05_core_and_command_queues.md) -/

/-- R140, R147, R148, R149, R159: the way of a pushed command. `u` is the state in the ACLK in which the vat acts. -/
def Obligations.PushAndLink : Prop :=
  (∀ (s : State) (c w : Nat), s.ccReady c = true → (s.core c).fetch = some (w, 4) → customOp w = some 2 →
    s.vatEmpty c = false → s.vatQuota c = false →
    exec (.cmdPush c .ok) s = .next ((s.modCore c (fun x => { x with
      push := some ⟨x.getCs (bitsOf w 21 20), bitsOf w 11 7, false⟩ })).setVat (cluInst c) { s.vat (cluInst c) with
        waiting := (s.vat (cluInst c)).waiting.filter (fun d => decide (d ≠ c)) ++ [c] })) ∧
  (∀ (s : State) (c w : Nat), s.ccReady c = true → (s.core c).fetch = some (w, 4) → customOp w = some 2 →
    s.vatEmpty c = true ∨ s.vatQuota c = true →
    ∃ t, exec (.cmdPush c .ok) s = .next t ∧ t.get F.CC_STATE_STATE c = 2 ∧ (t.core c).pc = (s.core c).pc ∧
      t.get F.VAT_STALL_CNT_COUNT (cluInst c) = min (s.get F.VAT_STALL_CNT_COUNT (cluInst c) + 1) 0xFFFFFFFF ∧
      (s.vatEmpty c = true → t.get F.VAT_EVT_EXHAUSTED (cluInst c) = 1) ∧ (s.vatQuota c = true → t.get F.VAT_EVT_QUOTA (cluInst c) = 1) ∧
      (∃ p, (t.core c).push = some p ∧ p.stalled = true ∧ p.cmd = (s.core c).getCs (bitsOf w 21 20)) ∧
      (∀ d, d ≠ c → t.core d = s.core d) ∧ t.mem = s.mem ∧ t.elog = s.elog) ∧
  (∀ (s u : State) (k c : Nat) (p : PendPush), u = s.at_ (s.now + 1) → s.clusterOn k = true → (s.vat k).rebuild = false → (s.vat k).waiting ≠ [] →
    cluInst c = k → c = coreId k (corein c) → (u.vat k).waiting = [c] → (u.core c).push = some p → p.rd < 32 →
    u.vatEmpty c = false → u.vatQuota c = false → u.get F.VAT_QUOTA_USED k (corein c) < 8192 →
    ∃ t, exec (.vatPushServe k) s = .next t ∧ t.now = s.now + 1 ∧ t.get F.VAT_FREE_FREE k = u.get F.VAT_FREE_FREE k - 1 ∧
      t.get F.VAT_FREE_LOW_WATER k = min (u.get F.VAT_FREE_LOW_WATER k) (u.get F.VAT_FREE_FREE k - 1) ∧
      t.get F.VAT_QUOTA_USED k (corein c) = u.get F.VAT_QUOTA_USED k (corein c) + 1 ∧ (t.vat k).waiting = [] ∧
      (∃ q, (t.vat k).served = (u.vat k).served ++ [⟨c, Cmd.engine p.cmd, Cmd.prio p.cmd, q, s.now + 4⟩] ∧ q.cmd = p.cmd ∧
        q.cell < 8192 ∧ ((∃ i, i < 8192 ∧ i ∉ u.cellsUsed k) → q.cell ∉ u.cellsUsed k) ∧ q.ord = (u.core c).ordNext) ∧
      t.get F.CC_STATE_STATE c = 1 ∧ (t.core c).push = none ∧ (t.core c).pc = (u.core c).pc + 4 ∧
      (p.rd ≠ 0 → (t.core c).xreg p.rd = BitVec.ofNat 64 (u.get F.VAT_FREE_FREE k - 1)) ∧
      (∀ n, n ≠ p.rd → (t.core c).xreg n = (u.core c).xreg n) ∧ (∀ d, d ≠ c → t.core d = u.core d) ∧ t.mem = u.mem) ∧
  (∀ (s : State) (k : Nat), ∃ t, exec (.vatPushServe k) s = .next t ∧
    (t = s ∨ (t.vat k).served.length ≤ ((s.at_ (s.now + 1)).vat k).served.length + 4)) ∧
  (∀ (s : State) (k : Nat) (p : Served) (more : List Served), s.clusterOn k = true → (s.vat k).served = p :: more →
    exec (.cmdLink k .ok) s = .next (((s.at_ p.due).setVat k { s.vat k with served := more }).modCore p.core (fun x =>
      x.setEng (Eng.ofCode p.eng) ((x.eng (Eng.ofCode p.eng)).setList p.prio ((x.eng (Eng.ofCode p.eng)).list p.prio ++ [p.q])))) ∧
    ∃ t, exec (.cmdLink k .link) s = .next t ∧ t.get F.VAT_EVT_LINK_ECC k = 1 ∧ (t.vat k).rebuild = true ∧ (t.vat k).served = [] ∧
      ∀ n, n < 16 → t.get F.CC_TASK_STATUS_ABORTED (coreId k n) = 1 ∧
        ((s.at_ p.due).get F.CC_TASK_STATUS_ABORTED (coreId k n) = 0 →
          t.get F.CC_TASK_STATUS_CAUSE (coreId k n) = 7 ∧ (t.core (coreId k n)).abort = some 7)) ∧
  (∀ (s : State) (k : Nat), s.clusterOn k = true → (s.vat k).rebuild = true →
    (∀ n, n < 16 → (s.core (coreId k n)).unfinished = []) →
    ∃ t, exec (.vatFreeListRebuild k) s = .next t ∧ t = { s with regs := t.regs, vats := t.vats, cores := t.cores } ∧ t.get F.VAT_FREE_FREE k = 8192 ∧
      (∀ n, n < 16 → t.get F.VAT_QUOTA_USED k n = 0 ∧ t.core (coreId k n) = { s.core (coreId k n) with dueCpl := [] }) ∧
      (∀ d, (∀ n, n < 16 → d ≠ coreId k n) → t.core d = s.core d) ∧
      t.vat k = { s.vat k with rebuild := false } ∧ (∀ j, j ≠ k → t.vat j = s.vat j) ∧
      (∀ r, r.reg ≠ .VAT_FREE → r.reg ≠ .VAT_QUOTA → t.rd r = s.rd r))

/-- The commands that begin the head of an engine's queue, with their engine and the opcodes they take. -/
def Sys2Proof.Machine.beginsOf (c : Nat) : List (Instr × Eng × (Cmd → Bool)) :=
  let op (n : Nat) (k : Cmd) : Bool := decide (Cmd.opcode k = n)
  [Eng.me, .ve, .dm, .su].flatMap (fun e => [(.idle c e, e, fun k => !(engDefined e (Cmd.opcode k))), (.wait c e, e, op 0x0F)]) ++
  [(.meSweep c .ok, .me, op 1), (.meLoad c .ok, .me, op 2), (.meMm c .ok, .me, op 3),
   (.veCvt c .ok, .ve, op 0x20), (.veAdd c .ok, .ve, op 0x21), (.veMul c .ok, .ve, op 0x22), (.veAxpy c .ok, .ve, op 0x23),
   (.veMax c .ok, .ve, op 0x24), (.veAffine c .ok, .ve, op 0x25), (.veFn c .ok, .ve, op 0x26), (.veRsum c .ok, .ve, op 0x27),
   (.veRmax c .ok, .ve, op 0x28), (.veRdot c .ok, .ve, op 0x29), (.veNorm c .ok, .ve, op 0x2A), (.veSmax c .ok, .ve, op 0x2B),
   (.veDrop c .ok, .ve, op 0x2C), (.veActb c .ok, .ve, op 0x30), (.veNormb c .ok, .ve, op 0x31), (.veSmaxb c .ok, .ve, op 0x32),
   (.veUnscale c .ok, .ve, op 0x33), (.veSlice c .ok, .ve, op 0x38), (.veUnslice c .ok, .ve, op 0x39), (.vePhase c, .ve, op 0x3F)]

/-- R152, R154: selecting a head, and IDLE. R158. The premise on optimizer commands leaves out the note of R289. -/
def Obligations.QueueHeadsAndAbort : Prop :=
  ((∀ (s : State) (c : Nat) (e : Eng) (p : Nat) (q : QCmd), s.running c = true → s.bpEngine c e = false → s.inj = [] →
    (s.core c).choice e = some (p, q) →
    (((s.core c).eng e).head = none ∨ ∃ p0, ((s.core c).eng e).head = some p0 ∧ ((s.core c).eng e).headIsWait = false ∧ p < p0) →
    exec (.headSelect c e .ok) s = .next (s.modCore c (fun x => x.setEng e { x.eng e with
      head := some p, headSince := max s.now (max q.from_ (if (x.eng e).used then (x.eng e).lastBegin + 1 else 0)) })) ∧
    (e ≠ .dm → ∃ t, exec (.headSelect c e .cell) s = .next t ∧ t.get F.VAT_EVT_CELL_ECC (cluInst c) = 1 ∧
      t.get F.CC_TASK_STATUS_ABORTED c = 1 ∧
      (e ≠ .me → Cmd.doneEn q.cmd = false → s.get F.CC_TASK_STATUS_ABORTED c = 0 → t.get F.CC_TASK_STATUS_CAUSE c = 4 ∧ (t.core c).abort = some 4) ∧
      ((t.core c).eng e).list p = (((s.core c).eng e).list p).drop 1 ∧ t.mem = s.mem) ∧
    (e = .dm → (s.core c).dmCmds = [] → ∃ t, exec (.headSelect c e .cell) s = .next t ∧ t.get F.VAT_EVT_CELL_ECC (cluInst c) = 1 ∧
      t.get F.DM_EVT_ECC c = 1 ∧ t.get F.CC_TASK_STATUS_ABORTED c = 1 ∧ (t.core c).dmCmds = [] ∧ t.mem = s.mem)) ∧
  (∀ (s : State) (c : Nat) (x : Instr × Eng × (Cmd → Bool)) (p b p' : Nat) (q q' : QCmd), x ∈ beginsOf c →
    s.ready c x.2.1 x.2.2 = some (p, q, b) → (s.at_ b).ready c x.2.1 x.2.2 = some (p', q', b) → exec x.1 s = exec x.1 (s.at_ b)) ∧
  (∀ (s : State) (c : Nat) (e : Eng) (p : Nat) (q : QCmd),
    s.ready c e (fun k => !(engDefined e (Cmd.opcode k))) = some (p, q, s.now) →
    (Cmd.opcode q.cmd = 0 → Cmd.hdrRsv q.cmd = 0 → (BitVec.extractLsb' 128 384 q.cmd).toNat = 0 →
      let last := s.now + (Cmd.iters q.cmd - ((s.core c).eng e).firstIter - 1)
      exec (.idle c e) s = .next (((s.begin_ c e p s.now).setEntry c e last).completeAt c e q 0 last)) ∧
    ((Cmd.opcode q.cmd ≠ 0 ∧ e ≠ .dm) ∨ (Cmd.opcode q.cmd = 0 ∧ (Cmd.hdrRsv q.cmd ≠ 0 ∨ (BitVec.extractLsb' 128 384 q.cmd).toNat ≠ 0)) →
      exec (.idle c e) s = .next (((s.begin_ c e p s.now).evtIllegal c e).complete c e q 3 0)))) ∧
  ((∀ (s : State) (c k : Nat), (s.core c).abort = some k →
    (s.core c).dmCmds.filter (fun d => decide (Cmd.opcode d.q.cmd = 0x1A) && decide (0 < d.open_)) = [] →
    ∃ t, exec (.coreTaskAbort c k) s = .next t ∧ t = { s with regs := t.regs, cores := t.cores, vats := t.vats } ∧
      (∀ e, ((t.core c).eng e).all = [] ∧ ((t.core c).eng e).head = none ∧ ((t.core c).eng e).hold = none ∧ ((t.core c).eng e).resume = none) ∧
      (t.core c).dmCmds.length = (s.core c).dmCmds.countP (fun d => decide (0 < d.open_)) ∧
      (∀ d, d ∈ (t.core c).dmCmds → d.reqs = [] ∧ d.issuing = false) ∧ (t.core c).cpl = (s.core c).cpl ∧ (t.core c).x = (s.core c).x ∧
      (t.core c).abort = some k ∧ (t.core c).push = none ∧ c ∉ (t.vat (cluInst c)).waiting ∧
      (∀ v, v ∈ (t.vat (cluInst c)).served → v.core ≠ c) ∧ (∀ d, d ≠ c → t.core d = s.core d) ∧
      (∀ r, r.reg ≠ .DM_STRM_LATE → t.rd r = s.rd r)) ∧
  (∀ (s : State) (c k : Nat), (s.core c).abort ≠ some k → exec (.coreTaskAbort c k) s = .next s))

/-- R155 to R157. Both conditions of R155 on the counter are `waitCond`; the value tested is the one before any subtraction of the same
ACLK. `u` is the state in the ACLK after the expiry. -/
def Obligations.WaitLifecycle : Prop :=
  (∀ (s : State) (c : Nat) (e : Eng) (p : Nat) (q : QCmd), s.ready c e (fun k => decide (Cmd.opcode k = 0x0F)) = some (p, q, s.now) →
    (waitIllegal q.cmd = false → ∃ t, exec (.wait c e) s = .next t ∧ t = { s with cores := t.cores } ∧
      ((t.core c).eng e).hold = some ⟨q.cmd, q.cell, q.ord, s.now⟩ ∧ (t.core c).cpl = (s.core c).cpl ∧ (t.core c).x = (s.core c).x ∧
      (∀ d, d ≠ e → (t.core c).eng d = (s.core c).eng d) ∧ ∀ d, d ≠ c → t.core d = s.core d) ∧
    (Cmd.f q.cmd 17 1 0 = 3 ∨ (Cmd.f q.cmd 17 7 7 = 1 ∧ Cmd.f q.cmd 17 1 0 ≠ 0) ∨ Cmd.hdrRsv q.cmd ≠ 0 →
      exec (.wait c e) s = .next (((s.begin_ c e p s.now).evtIllegal c e).complete c e q 3 0))) ∧
  (∀ (s : State) (c : Nat) (e : Eng) (w : Begun), s.running c = true → s.waitHeld c e = some w → w.at_ ≤ s.now →
    waitCond w.cmd (s.waitValueNow c (waitCtr w.cmd)) = true → (waitLimit w.cmd = 0 ∨ s.now ≤ w.at_ + 1024 * waitLimit w.cmd) →
    s.streamWins c (waitCtr w.cmd) = [] →
    (waitConsume w.cmd = true → waitValue w.cmd ≤ s.ctr c (waitCtr w.cmd) ∧ s.waitsBefore c e (waitCtr w.cmd) = false) →
    ∃ t, exec (.waitRelease c e) s = .next t ∧ t.now = s.now ∧ ((t.core c).eng e).hold = none ∧
      ((t.core c).eng e).lastEntry = s.now + 2 ∧ ((t.core c).eng e).head = ((s.core c).eng e).head ∧
      (t.core c).dueCpl = (s.core c).dueCpl ++ [⟨s.now + 3, e.code, ⟨w.cmd, w.cell, w.ord, 0⟩, 0, 0⟩] ∧
      t.ctr c (waitCtr w.cmd) = s.ctr c (waitCtr w.cmd) - (if waitConsume w.cmd then waitValue w.cmd else 0) ∧
      (∀ n, n < 32 → n ≠ waitCtr w.cmd → t.ctr c n = s.ctr c n) ∧
      (∀ k, k.reg ≠ .SU_CTR → t.rd k = s.rd k) ∧ (t.core c).cpl = (s.core c).cpl ∧ t.mem = s.mem ∧ t.out = s.out ∧
      (∀ d, d ≠ c → t.core d = s.core d)) ∧
  (∀ (s u : State) (c : Nat) (e : Eng) (w : Begun), s.waitHeld c e = some w → waitLimit w.cmd ≠ 0 → u = s.at_ (w.at_ + 1024 * waitLimit w.cmd + 1) →
    u.running c = true → waitCond w.cmd (u.waitValueNow c (waitCtr w.cmd)) = false → Cmd.doneEn w.cmd = false →
    ∃ t, exec (.waitTimeout c e) s = .next t ∧ t.now = u.now ∧ ((t.core c).eng e).hold = none ∧ t.get F.CC_TASK_STATUS_ABORTED c = 1 ∧
      (u.get F.CC_TASK_STATUS_ABORTED c = 0 → t.get F.CC_TASK_STATUS_CAUSE c = 6) ∧
      (∀ n, n < 32 → t.ctr c n = u.ctr c n) ∧ t.mem = u.mem ∧ (∀ d, d ≠ c → t.core d = u.core d)) ∧
  (∀ (s : State) (c : Nat) (e : Eng) (w : Begun), s.waitHeld c e = some w → w.at_ ≤ s.now →
    waitCond w.cmd (s.waitValueNow c (waitCtr w.cmd)) = false → exec (.waitRelease c e) s = .next s)


/-! ### The matrix engine and the tiles (02_matrix_engine.md, 04_tile_registers.md, 06 R200) -/

/-- The commands of the matrix engine with their opcodes. -/
def Sys2Proof.Machine.meOps (c : Nat) (hw : MeHw) : List (Nat × Instr) := [(1, .meSweep c hw), (2, .meLoad c hw), (3, .meMm c hw)]

/-- R45 and R50 for the timeline, R20 to R53 act by act. `x` is the activation row, `want` the value of one column. -/
def Obligations.MatrixPass : Prop :=
  let good (s : State) (f : MeFly) : Prop := s.inj = [] ∧ f.hw = .ok
  let quietMem (s t : State) : Prop := ∀ j, ringByte s j = false → t.readByte j = s.readByte j
  let others (s t : State) (c : Nat) : Prop := (∀ d, d ≠ c → t.core d = s.core d) ∧ (t.core c).trf = (s.core c).trf ∧ (t.core c).x = (s.core c).x
  (∀ (q : Cmd) (b : Nat), (meFmt q).isSlice = false →
    (meTimeline q 2 b 0).2 = b + 17 * Cmd.iters q ∧ (meTimeline q 3 b 0).2 = b + 16 * Cmd.iters q ∧
    (meTimeline q 1 b 0).2 = b + 16 * Cmd.iters q
      + 17 * (List.range (Cmd.iters q)).countP (fun n => decide (n = 0) || decide (meSel q n ≠ meSel q (n - 1))) ∧
    (∀ n, n < Cmd.iters q → (meTimeline q 3 b 0).1[n]? = some ⟨n, none, meSel q n, meX q n, some (b + 16 * n), 1, 1⟩ ∧
      (meTimeline q 2 b 0).1[n]? = some ⟨n, some (b + 17 * n), meSel q n, meX q n, none, 1, 1⟩)) ∧
  (∀ (q : Cmd) (b : Nat), (meFmt q).isSlice = true → 0 < Cmd.loop q 0 →
    let l0 := Cmd.loop q 0
    (meTimeline q 1 b 0).2 = b + Cmd.loop q 1 * Cmd.loop q 2 * Cmd.loop q 3 * (17 * meSlices q + 16 * l0 * (meSlices q * (meSlices q + 1) / 2))) ∧
  (∀ (s : State) (c t : Nat) (f : MeFly) (a : MeAct), good s f → a.load = true → (f.op = 2 ∨ meInAcb f.q.cmd a.n = true) →
    (s.tileCheck c (a.tile / 2) (meShape f.q.cmd) (32 * (a.tile % 2)) (t - s.coreBase c)).bad = false →
    let r := s.meAct c f a t
    r.2 = { f with cur := a.n } ∧ (r.1.core c).blk = some ((s.core c).loadBlock a.tile (meShape f.q.cmd) (meSc f.q.cmd a.n)) ∧
      r.1.get F.ME_STATUS_LOADED c = 1 ∧ r.1.get F.ME_STATUS_LOADED_S c = a.tile % 128 ∧ quietMem s r.1 ∧ others s r.1 c) ∧
  (∀ (s : State) (c t : Nat) (f : MeFly) (a : MeAct) (b : MeBlock), good s f → a.load = false → f.op ≠ 2 → meInAcb f.q.cmd a.n = true → f.dead = none →
    (s.core c).blk = some b → (meFmt f.q.cmd).isSlice = false →
    (s.tileCheck c a.tile (Cmd.deckle f.q.cmd) 0 (t - s.coreBase c)).bad = false →
    let r := s.meAct c f a t
    let x (m : Nat) : List Byte := (s.core c).dkRow a.tile (Cmd.deckle f.q.cmd) 0 (m / 2) (32 * (m % 2)) 32
    let want (m n : Nat) : Int := if meFmt f.q.cmd = .int8 then intPass b (x m) true true n
      else (floatPass b (meFmt f.q.cmd) (x m) ((s.core c).tileByte (meSc f.q.cmd a.n) 0 m).toNat n : Nat)
    ∃ rows, r.2 = { f with cur := a.n, rows := f.rows ++ rows } ∧ rows.length = min 32 (meRows f.q.cmd) ∧
      (∀ m, m < min 32 (meRows f.q.cmd) → ∃ w, rows[m]? = some w ∧ w.t = t + m / 2 ∧ w.n = a.n ∧ w.m = m ∧ w.tile = a.tile ∧ w.nExt = b.nExt ∧
        w.addr = ((meAddr f.q.cmd a.n).toNat + 64 * m) ∧ w.ovw = meOverwrites f.q.cmd a.n ∧ w.isInt = decide (meFmt f.q.cmd = .int8) ∧
        (w.k0 = true ↔ b.kExt = 0 ∨ frozenRow f.frozen (w.addr / 64) = true) ∧
        w.vals = (List.range b.nExt).map (want m)) ∧
      (r.1.core c).blk = some b ∧ quietMem s r.1 ∧ others s r.1 c) ∧
  (∀ (s : State) (c t : Nat) (f : MeFly) (a : MeAct), f.stop = none →
    let bad := if f.op ≠ 2 ∧ meInAcb f.q.cmd a.n = false then some 3 else
      let k := if a.load then s.tileCheck c (a.tile / 2) (meShape f.q.cmd) (32 * (a.tile % 2)) (t - s.coreBase c)
        else s.tileCheck c a.tile (Cmd.deckle f.q.cmd) 0 (t - s.coreBase c)
      if k.bad then some k.status else none
    ∀ st, bad = some st →
      let r := s.meAct c f a t
      r.2.stop = some (st, a.n, t) ∧ r.2.rows = f.rows.filter (fun w => decide (w.n < a.n)) ∧
        r.2.todo = f.todo.filter (fun w => decide (w.n < a.n)) ∧ r.2.last = f.last ∧ r.1.get (meEvt st) c = 1 ∧ quietMem s r.1 ∧ others s r.1 c) ∧
  (∀ (s : State) (c : Nat) (cmd : Cmd) (r : MeRow), (meFmt cmd).isSlice = false → r.k0 = false → r.nExt ≤ 16 → r.vals.length = r.nExt →
    r.addr + 64 ≤ 0x40000 →
    let a := 0xC0000 + r.addr
    let t := (s.meWriteRow c cmd r).1
    (∀ n, n < r.nExt →
      let old := s.winNat c (a + 4 * n) 4
      let v := r.vals.getD n 0
      t.winNat c (a + 4 * n) 4 = (if r.isInt then (if r.ovw then wrapInt 32 v else (accInt old v).1)
        else (if r.ovw then v.toNat else accFloat old v.toNat)) % 2 ^ 32) ∧
      (∀ j, j < winBase c + a ∨ winBase c + a + 4 * r.nExt ≤ j → t.readByte j = s.readByte j) ∧
      (∀ k, sideReg k.reg = false → t.rd k = s.rd k) ∧ t.cores = s.cores) ∧
  (∀ (s : State) (c t : Nat) (f : MeFly) (r : MeRow) (d : Nat), f.hw = .ok → r.diff = some d → r.sel < 128 → f.ended = false → f.stop = none →
    s.get F.CC_TASK_STATUS_ABORTED c = 0 → Cmd.doneEn f.q.cmd = false → (∀ n, n < 8 → s.get F.VE_TIE_ARMED c n = 0) →
    let u := s.meCompare c f r
    let v := u.1.meFail c u.2.1 u.2.2.toList t
    v.2.ended = true ∧ v.2.todo = [] ∧ v.2.rows = f.rows.filter (fun w => decide (w.t < r.t) || (decide (w.t = r.t) && decide (w.m < r.m))) ∧
      v.1.get F.ME_EVT_CHECK_FAIL c = 1 ∧ v.1.get F.ME_STATUS_LAST_STATUS c = 5 ∧
      v.1.get F.ME_CHK_CNT_COUNT c = min (s.get F.ME_CHK_CNT_COUNT c + 1) (2 ^ F.ME_CHK_CNT_COUNT.width - 1) ∧ v.1.get F.ME_CHK_LOG_VALID c = 1 ∧
      v.1.get F.CC_TASK_STATUS_ABORTED c = 1 ∧ v.1.get F.CC_TASK_STATUS_CAUSE c = 3 ∧ quietMem s v.1) ∧
  (∀ (s : State) (c : Nat) (f : MeFly), (s.core c).meFly = [f] → f.ended = false → f.dead = none → f.cut = none →
    (∀ t, f.completeAt ≤ t → s.meCompletions c t =
      (s.modCore c (fun x => { x with meFly := [{ f with ended := true }] })).meComplete c f ((f.stop.map (fun k => k.1)).getD 0) ((f.stop.map (fun k => k.2.1)).getD 0)) ∧
    (∀ t, t < f.completeAt → s.meCompletions c t = s) ∧ f.completeAt = f.last + (if f.op = 2 then 1 else 41))

/-- R103, R116, R118, R200, R201, R239 without errors. -/
def Obligations.TileLoadAndStore : Prop :=
  (∀ (s : State) (c p : Nat) (q : QCmd), s.ready c .dm (fun k => decide (Cmd.opcode k = 0x10)) = some (p, q, s.now) → tcIllegal q.cmd = false →
    Cmd.iters q.cmd = 1 → (s.core c).dmCmds = [] → (s.core c).staged = [] → (s.core c).phase = [] → s.inj = [] → s.tcBad c q.cmd 0 = false →
    s.windowServes c .dm s.now ((tcRanges q.cmd 0).map (fun r => (r.1.toNat, r.2))) = true →
    ∃ t st, exec (.dmTload c .ok) s = .next t ∧ t.mem = s.mem ∧ (t.core c).staged = [st] ∧
      st.tile = tcTile q.cmd 0 ∧ st.deckle = Cmd.deckle q.cmd ∧ st.last = true ∧ st.ready = max s.now (s.core c).gatherAt + dkRows (Cmd.deckle q.cmd) ∧
      st.rows = (List.range (dkRows (Cmd.deckle q.cmd))).map (fun r =>
        s.readWin c (tcRow q.cmd 0 r).toNat (dkRbytes (Cmd.deckle q.cmd)) ++ List.replicate (64 - dkRbytes (Cmd.deckle q.cmd)) 0) ∧
      (t.core c).trf = (s.core c).trf ∧ (∀ d, d ≠ c → t.core d = s.core d)) ∧
  (∀ (s : State) (c : Nat) (st : Staged) (more : List Staged), s.running c = true → (s.core c).staged = st :: more →
    (s.core c).phase = [] → st.ready ≤ s.now → (s.core c).dmEnd ≤ s.now → (s.core c).lockedUntil st.tile s.now = none →
    s.get F.PERT_SLIP_EN 0 = 0 → st.tile < 64 →
    ∃ t, exec (.tloadWritePhase c) s = .next t ∧
      (t.core c).phase = st.rows.zipIdx.map (fun p => ⟨s.now + p.2, st.tile, p.2, p.1, decide (p.2 + 1 = st.rows.length), st.id⟩) ∧
      (t.core c).staged = more ∧ (t.core c).trf = (s.core c).trf ∧ (t.core c).wbuf = (s.core c).wbuf ∧
      t.get F.TRF_TAG_TAGGED c st.tile = 1 ∧ t.get F.TRF_TAG_TAG c st.tile = st.deckle % 2 ^ 32 ∧
      t.get F.TRF_STAMP_STAMP c st.tile = (s.now - s.coreBase c + st.rows.length) % 2 ^ 64 ∧
      (∀ u, u ≠ st.tile → t.get F.TRF_STAMP_STAMP c u = s.get F.TRF_STAMP_STAMP c u ∧ t.get F.TRF_TAG_TAG c u = s.get F.TRF_TAG_TAG c u) ∧
      t.mem = s.mem ∧ (∀ d, d ≠ c → t.core d = s.core d)) ∧
  (∀ (x : CoreSt) (tile row t : Nat) (bytes : List Byte), bytes.length = 64 → row < 16 →
    (∀ w, w ∈ x.wbuf → w.bytes.length = 64 ∧ w.row < 16 ∧ w.bank = (w.row + w.tile) % 16) →
    (∀ j, j < 64 → (x.loadRow tile row t bytes).1.tileByte tile row j = bytes.getD j 0) ∧
    (∀ u r j, (u ≠ tile ∨ r ≠ row) → r < 16 → j < 64 → (x.loadRow tile row t bytes).1.tileByte u r j = x.tileByte u r j)) ∧
  (∀ (x : CoreSt) (t : Nat) (used : List Nat), (∀ w, w ∈ x.wbuf → w.bytes.length = 64 ∧ w.row < 16 ∧ w.bank = (w.row + w.tile) % 16) →
    ∀ u r j, r < 16 → j < 64 → (x.drains t used).1.tileByte u r j = x.tileByte u r j) ∧
  (∀ (s : State) (c bank : Nat), ∃ t, exec (.writeBufferDrain c bank) s = .next t ∧ s.now ≤ t.now ∧
    (((s.core c).wbuf.any (fun w => decide (w.bank = bank)) = false) → t = s) ∧
    (((s.core c).wbuf.any (fun w => decide (w.bank = bank)) = true) → s.now + 1 ≤ t.now)) ∧
  (∀ (s : State) (c p : Nat) (q : QCmd), s.ready c .dm (fun k => decide (Cmd.opcode k = 0x11)) = some (p, q, s.now) → tcIllegal q.cmd = false →
    (s.core c).loading = false →
    ∃ t m k, exec (.dmTstore c .ok) s = .next t ∧ t = { s with cores := t.cores } ∧ (t.core c).dmCmds = (s.core c).dmCmds ++ [m] ∧ m.q = q ∧
      (t.core c).store = some k ∧ k.id = m.id ∧ k.cmd = q.cmd ∧ k.n = 0 ∧ k.r = 0 ∧ k.at_ = s.now ∧ (t.core c).trf = (s.core c).trf ∧
      (∀ d, d ≠ c → t.core d = s.core d)) ∧
  (∀ (s : State) (c t : Nat) (used : List Nat) (k : StoreFly), (s.core c).store = some k → k.at_ ≤ t → (s.core c).stopped = false → s.inj = [] →
    k.hw = .ok → k.n < Cmd.iters k.cmd → (k.r = 0 → s.tcBad c k.cmd k.n = false ∧ (s.tileCheck c (tcTile k.cmd k.n) (Cmd.deckle k.cmd) 0 (t - s.coreBase c)).bad = false) →
    used.contains ((k.r + tcTile k.cmd k.n) % 16) = false → 0 ≤ tcRow k.cmd k.n k.r → (tcRow k.cmd k.n k.r).toNat + 64 ≤ 0xC0000 →
    s.windowServes c .dm k.since [((tcRow k.cmd k.n k.r).toNat, dkRbytes (Cmd.deckle k.cmd))] = true → (s.core c).abort = none →
    let u := s.storeTick c t used
    let off := (tcRow k.cmd k.n k.r).toNat
    (∀ j, j < dkRbytes (Cmd.deckle k.cmd) → u.readByte (winBase c + off + j) = (s.core c).dkByte (tcTile k.cmd k.n) (Cmd.deckle k.cmd) 0 k.r j) ∧
      (∀ a, ringByte s a = false → a < winBase c + off ∨ winBase c + off + dkRbytes (Cmd.deckle k.cmd) ≤ a → u.readByte a = s.readByte a) ∧
      (u.core c).trf = (s.core c).trf ∧ (k.r + 1 < dkRows (Cmd.deckle k.cmd) → (u.core c).store = some { k with r := k.r + 1, at_ := t + 1, since := t + 1 })) ∧
  (∀ (s : State) (c p : Nat) (q : QCmd), s.ready c .dm (fun k => decide (Cmd.opcode k = 0x12)) = some (p, q, s.now) → tnIllegal q.cmd = false →
    Cmd.iters q.cmd = 1 → (s.core c).dmCmds = [] → s.inj = [] → s.tnBad c q.cmd 0 = false → s.tnServed c q.cmd = true → tnFmtS q.cmd = tnFmtD q.cmd →
    0 < Cmd.f q.cmd 26 15 0 → Cmd.doneEn q.cmd = false →
    let e := (tnFmtD q.cmd).bytes
    ∃ t, exec (.dmTurn c .ok) s = .next t ∧
      (∀ r k, r < tnB q.cmd → k < tnB q.cmd →
        t.winNat c ((tnDst q.cmd 0 r).toNat + k * e) e = s.winNat c ((tnSrc q.cmd 0 k).toNat + r * e) e) ∧
      (∀ a, (∀ r, r < tnB q.cmd → a < winBase c + (tnDst q.cmd 0 r).toNat ∨ winBase c + (tnDst q.cmd 0 r).toNat + 64 ≤ a) →
        t.readByte a = s.readByte a) ∧
      (∀ k, sideReg k.reg = false → k.reg ∉ [Reg.CC_IRQ, .SPD_EVT] → t.rd k = s.rd k) ∧ (t.core c).trf = (s.core c).trf ∧
      (t.core c).dm.lastEntry = s.now + (tnB q.cmd - 1) ∧ (∀ d, d ≠ c → t.core d = s.core d)) ∧
  (∀ (s : State) (c p : Nat) (q : QCmd), s.ready c .dm (fun k => decide (Cmd.opcode k = 0x17)) = some (p, q, s.now) →
    ((s.core c).dmCmds = [] → fenceBad q.cmd = false → exec (.dmFence c) s = .next ((s.begin_ c .dm p s.now).completeAt c .dm q 0 (s.now + 1))) ∧
    ((s.core c).dmCmds = [] → fenceBad q.cmd = true →
      exec (.dmFence c) s = .next (((s.begin_ c .dm p s.now).flag F.DM_EVT_ILLEGAL c).complete c .dm q 3 0)) ∧
    ((s.core c).dmCmds ≠ [] → exec (.dmFence c) s = .next s))

/-! ### The vector engine (06_vector_engine_and_backward_pass.md) -/

/-- The commands of the vector engine that run rows, with their opcodes. -/
def Sys2Proof.Machine.veOps (c : Nat) (hw : VeHw) : List (Nat × Instr) :=
  [(0x20, .veCvt c hw), (0x21, .veAdd c hw), (0x22, .veMul c hw), (0x23, .veAxpy c hw), (0x24, .veMax c hw), (0x25, .veAffine c hw),
   (0x26, .veFn c hw), (0x27, .veRsum c hw), (0x28, .veRmax c hw), (0x29, .veRdot c hw), (0x2A, .veNorm c hw), (0x2B, .veSmax c hw),
   (0x2C, .veDrop c hw), (0x30, .veActb c hw), (0x31, .veNormb c hw), (0x32, .veSmaxb c hw), (0x33, .veUnscale c hw),
   (0x38, .veSlice c hw), (0x39, .veUnslice c hw)]

/-- R178 to R190 without errors; `v` is the begun command. -/
def Obligations.VectorRows : Prop :=
  (∀ (s : State) (c t : Nat) (v : VeFly), v.hw = .ok → s.inj = [] → s.veIterBad c v.q.cmd v.n = false →
    (veRanges v.q.cmd v.n).any (s.tiedRange c) = false →
    let r := s.veRowStart c v t
    r.2 = { v with n := v.n + 1, at_ := t + veRowLen v.q.cmd, since := t + veRowLen v.q.cmd, lastW := max v.lastW (t + veRowLast v.q.cmd),
                   late := v.late ++ [(t + veRowLast v.q.cmd, s.veRow c v.q.cmd v.n)] } ∧
      r.1.mem = s.mem ∧ (∀ k, sideReg k.reg = false → k.reg ≠ .SPD_EVT → r.1.rd k = s.rd k) ∧ (r.1.core c).trf = (s.core c).trf ∧
      (∀ d, d ≠ c → r.1.core d = s.core d)) ∧
  (∀ (s : State) (c t a : Nat) (cmd : Cmd) (r : VeRow) (bs : List Byte), r.writes = [(a, bs)] → (s.core c).meWrote.1 ≠ t →
    let u := s.veLand c cmd r t
    (∀ j, j < bs.length → u.readByte (winBase c + a + j) = bs.getD j 0) ∧
      (∀ x, x < winBase c + a ∨ winBase c + a + bs.length ≤ x → u.readByte x = s.readByte x) ∧
      (r.nan = true → u.get F.VE_EVT_NAN c = 1) ∧ (r.inf = true → u.get F.VE_EVT_INF c = 1) ∧ (r.sat = true → u.get F.VE_EVT_SAT c = 1) ∧
      (veGrad cmd = true → s.get F.VE_CTX_PHASE c = 1 →
        u.get F.VE_CNT_NONFINITE c = min (s.get F.VE_CNT_NONFINITE c + r.bad) (2 ^ F.VE_CNT_NONFINITE.width - 1)) ∧
      (∀ k, sideReg k.reg = false → k.reg ∉ [Reg.VE_EVT, .VE_CNT] → u.rd k = s.rd k) ∧ u.cores = s.cores) ∧
  (∀ (s : State) (c t : Nat) (v : VeFly), (s.core c).veFly = some v → v.late = [] → v.stop = none → v.dead = false → v.cut = none →
    v.n = Cmd.iters v.q.cmd →
    (v.lastW ≤ t → s.veFinish c t = ((s.modCore c (fun x => { x with veFly := none })).setEntry c .ve v.lastW).complete c .ve v.q 0 0) ∧
    (t < v.lastW → (s.veFinish c t).mem = s.mem ∧ ((s.veFinish c t).core c).veFly = some v ∧ ((s.veFinish c t).core c).dueCpl = (s.core c).dueCpl))

/-- R181 to R199, R86, R88 and R92 for one row. `vals` is what each opcode computes from the rows `x` and `y`. -/
def Obligations.VectorRow : Prop :=
  let ops : List Nat := [0x20, 0x21, 0x22, 0x23, 0x24, 0x25, 0x26, 0x27, 0x28, 0x29, 0x2B, 0x2C, 0x30, 0x31, 0x32, 0x33]
  let vals (s : State) (c n : Nat) (q : Cmd) : List Machine.Num :=
    let x := s.veReadA c q n
    let y := s.veReadB c q n
    let w := veWide q
    let i0 := fp32 (veImm0 q)
    let i1 := fp32 (veImm1 q)
    let both (f : Machine.Num → Machine.Num → Machine.Num) : List Machine.Num := (x.zip y).map (fun p => f p.1 p.2)
    match Cmd.opcode q with
    | 0x20 => x.map (fun a => rndRow w (a.mul i0))
    | 0x21 => both (fun a b => rndRow w (a.add b))
    | 0x22 => both (fun a b => rndRow w (a.mul b))
    | 0x23 => both (fun a b => rndRow w ((i0.mul a).add b))
    | 0x24 => both Machine.Num.max
    | 0x25 => x.map (fun a => rndRow w ((i0.mul a).add i1))
    | 0x26 => x.map (fnValue w (veFN q))
    | 0x27 => [veSum w (x.map (fun a => (a, one_)))]
    | 0x28 => [veMaxRow w x]
    | 0x29 => [veSum w (x.zip y)]
    | 0x2B => veSmax w (fun a => (veFmtD q).value ((veFmtD q).convert false a).code) i0 x
    | 0x2C => x.zipIdx.map (fun p => if s.dropWord c (Cmd.f q 38 15 0) ((Cmd.f q 20 31 0 + n * veN q + p.2) % 2 ^ 32) ≤ veImm1 q
        then rndRow w (p.1.mul i0) else .fin false 0 0)
    | 0x30 => both (fun a b => rndRow w (a.mul (rndRow w (fnDeriv (veFN q) b))))
    | 0x31 => veNormb w (decide (veFN q = 1))
        ((rowFmt w).decode (s.winNat c (veArea q + veRecSize q * n + veRecSize q / 2) (veRecSize q / 2))) x y
    | 0x32 => both (fun a b => rndRow w (b.mul (rndRow w (a.sub (veSum w (x.zip y))))))
    | _ => x.map (fun a => rndRow w (a.mul i0))
  let code (s : State) (c n : Nat) (q : Cmd) (k : Nat) (v : Machine.Num) : Nat :=
    if veSR q = true ∧ veFmtD q = .bf16 ∧ veWide q = false then
      (stochBf16 (toFp32 v).code (s.stochWord c (Cmd.id q) ((n * veN q + k) % 2 ^ 32))).code
    else ((veFmtD q).convert (veSAT q) v).code
  (∀ (s : State) (c n : Nat) (q : Cmd), Cmd.opcode q ∈ ops → (veFmtA q).isMx = false → (veFmtD q).isMx = false →
    let e := (veFmtD q).bytes
    ∃ bs, (s.veRow c q n).writes = [((veAddrD q n).toNat, bs)] ∧ bs.length = e * (vals s c n q).length ∧
      ∀ k, k < (vals s c n q).length →
        leNat ((bs.drop (k * e)).take e) = code s c n q k ((vals s c n q).getD k .nan) % 2 ^ (8 * e)) ∧
  (∀ (s : State) (c n : Nat) (q : Cmd), Cmd.opcode q = 0x2A → (veFmtD q).isMx = false →
    let w := veWide q
    let h := veRecSize q / 2
    let r := veNorm w (decide (veFN q = 1)) (fp32 (veImm0 q)) (s.veReadA c q n)
    ∃ bs, (s.veRow c q n).writes = [((veAddrD q n).toNat, bs), (veArea q + veRecSize q * n,
        leBytes h ((rowFmt w).encode false r.1).code ++ leBytes h ((rowFmt w).encode false r.2.1).code)] ∧
      bs.length = (veFmtD q).bytes * veN q) ∧
  (∀ (s : State) (c n : Nat) (q : Cmd), Cmd.opcode q = 0x38 →
    let x := s.veReadA c q n
    ∃ planes : List (Nat × List Byte), (s.veRow c q n).writes = planes ++ [(veArea q + 2 * n, leBytes 2 (sliceRecord (veFN q) x))] ∧
      planes.length = veFN q ∧
      ∀ i, i < veFN q → ∃ bs, planes[i]? = some ((veAddrD q n).toNat + i * (veImm0 q * 16), bs) ∧ bs.length = x.length ∧
        ∀ k, k < x.length → bs.getD k 0 = BitVec.ofNat 8 (slicePlane (veFN q) (i + 1) x (x.getD k .nan))) ∧
  (∀ (s : State) (c n : Nat) (q : Cmd), Cmd.opcode q = 0x39 →
    let f := if veFmtA q = .slice32 then fmtFP32 else fmtFP64
    let e := (veFmtD q).bytes
    ∃ bs, (s.veRow c q n).writes = [((veAddrD q n).toNat, bs)] ∧ bs.length = e * veN q ∧
      ∀ k, k < veN q →
        let a := (veAddrA q n).toNat + 8 * k
        leNat ((bs.drop (k * e)).take e)
          = (sliceConvert f (veFN q) (s.winNat c (veArea q + 2 * n) 2) (s.winNat c ((veAddrB q n).toNat + 2 * k) 2)
              (lookD (⟨0, 0⟩ : SliceTag) (s.core c).tags ((a - 0xC0000) / 128)).scale (s.winNat c a 8)).code % 2 ^ (8 * e))

/-- R45, R46, R52, R54 for the matrix engine, and the same for the vector engine; `f` and `v` are the begun commands. -/
def Obligations.EngineCommandsBegin : Prop :=
  (∀ (s : State) (c op p : Nat) (hw : MeHw) (q : QCmd) (i : Instr), (op, i) ∈ meOps c hw →
    s.ready c .me (fun k => decide (Cmd.opcode k = op)) = some (p, q, s.now) → meIllegal q.cmd op = false →
    (op = 3 → p = resumed ∨ (s.core c).blk ≠ none) → (s.gradeS = false ∨ (meFmt q.cmd).isSlice = false) →
    ∃ t f, exec i s = .next t ∧ t = { s with cores := t.cores } ∧ (t.core c).meFly = (s.core c).meFly ++ [f] ∧ f.q = q ∧ f.op = op ∧ f.hw = hw ∧
      f.rows = [] ∧ f.ended = false ∧ f.stop = none ∧ f.frozen = s.freezeSample c ∧
      (p ≠ resumed → f.todo = (meTimeline q.cmd op s.now 0).1.flatMap MePass.acts ∧ f.last = (meTimeline q.cmd op s.now 0).2 - 1) ∧
      (p = resumed → f.todo.filter (fun a => decide (a.n < (s.core c).me.firstIter)) = [] ∨ (meFmt q.cmd).isSlice = true) ∧
      (t.core c).me.lastEntry = f.last ∧ (t.core c).me.lastBegin = s.now ∧
      (p ≠ resumed → (t.core c).me.list p = ((s.core c).me.list p).drop 1) ∧
      (t.core c).trf = (s.core c).trf ∧ (t.core c).blk = (s.core c).blk ∧ (t.core c).x = (s.core c).x ∧
      (t.core c).ve = (s.core c).ve ∧ (t.core c).dm = (s.core c).dm ∧ (t.core c).su = (s.core c).su ∧ (∀ d, d ≠ c → t.core d = s.core d)) ∧
  (∀ (s : State) (c op p : Nat) (hw : VeHw) (q : QCmd) (i : Instr), (op, i) ∈ veOps c hw →
    s.ready c .ve (fun k => decide (Cmd.opcode k = op)) = some (p, q, s.now) → s.veIllegal c q.cmd = false → (0x38 ≤ op → s.gradeS = false) →
    (veBackward q.cmd = true → s.get F.VE_CTX_PHASE c = 1) →
    ∃ t v, exec i s = .next t ∧ t = { s with cores := t.cores } ∧ (t.core c).veFly = some v ∧ v.q = q ∧ v.hw = hw ∧
      v.n = (s.core c).ve.firstIter ∧ v.at_ = s.now ∧ v.late = [] ∧ v.stop = none ∧ v.dead = false ∧ v.cut = none ∧
      (p ≠ resumed → v.n = 0 ∧ (t.core c).ve.list p = ((s.core c).ve.list p).drop 1) ∧ (t.core c).trf = (s.core c).trf ∧
      (t.core c).me = (s.core c).me ∧ (t.core c).dm = (s.core c).dm ∧ (t.core c).su = (s.core c).su ∧ (t.core c).x = (s.core c).x ∧
      (∀ d, d ≠ c → t.core d = s.core d)) ∧
  (∀ (s : State) (c op p : Nat) (hw : MeHw) (q : QCmd) (i : Instr), (op, i) ∈ meOps c hw →
    s.ready c .me (fun k => decide (Cmd.opcode k = op)) = some (p, q, s.now) →
    let ends (e : Field) (st : Nat) : State :=
      ((((s.begin_ c .me p s.now).flag e c).tieCount c (meTieRows q.cmd)).set F.ME_STATUS_LAST_STATUS c st).complete c .me q st 0
    let noBlock := op = 3 ∧ p ≠ resumed ∧ (s.core c).blk = none
    (meIllegal q.cmd op = true ∨ noBlock → exec i s = .next (ends F.ME_EVT_ILLEGAL 3)) ∧
    (meIllegal q.cmd op = false → ¬ noBlock → s.gradeS = true → (meFmt q.cmd).isSlice = true → exec i s = .next (ends F.ME_EVT_ABSENT 4))) ∧
  ∀ (s : State) (c op p : Nat) (hw : VeHw) (q : QCmd) (i : Instr), (op, i) ∈ veOps c hw →
    s.ready c .ve (fun k => decide (Cmd.opcode k = op)) = some (p, q, s.now) →
    (s.veIllegal c q.cmd = true ∨ (0x38 ≤ op ∧ s.gradeS = true ∧ s.veIterBad c q.cmd 0 = true) →
      exec i s = .next (((s.begin_ c .ve p s.now).flag F.VE_EVT_ILLEGAL c).complete c .ve q 3 0)) ∧
    (s.veIllegal c q.cmd = false → s.gradeS = true → 0x38 ≤ op → s.veIterBad c q.cmd 0 = false →
      exec i s = .next ((s.begin_ c .ve p s.now).complete c .ve q 4 0)) ∧
    (s.veIllegal c q.cmd = false → 0x30 ≤ op → op ≤ 0x33 → s.get F.VE_CTX_PHASE c = 0 →
      exec i s = .next (((s.begin_ c .ve p s.now).flag F.VE_EVT_PHASE c).complete c .ve q 9 0))

/-- R157, R192, R193, R203. `u` is the state in the ACLK after the expiry. -/
def Obligations.PhaseFenceAndTies : Prop :=
  (∀ (s : State) (c p : Nat) (q : QCmd), s.ready c .ve (fun k => decide (Cmd.opcode k = 0x3F)) = some (p, q, s.now) →
    (phaseIllegal q.cmd = false → exec (.vePhase c) s = .next ((s.begin_ c .ve p s.now).modCore c (fun x => { x with
      ve := { x.ve with hold := some ⟨q.cmd, q.cell, q.ord, s.now⟩ } }))) ∧
    (phaseIllegal q.cmd = true → exec (.vePhase c) s = .next (((s.begin_ c .ve p s.now).flag F.VE_EVT_ILLEGAL c).complete c .ve q 3 0))) ∧
  (∀ (s : State) (c : Nat) (h : Begun), s.running c = true → s.phaseHeld c = some h → s.earlier c h.ord = false →
    (Cmd.f h.cmd 24 31 0 = 0 ∨ s.now ≤ h.at_ + 1024 * Cmd.f h.cmd 24 31 0) →
    exec (.vePhaseComplete c) s = .next (s.completeAt c .ve h.q 0 (max h.at_ s.now + 1))) ∧
  (∀ (s : State) (c t : Nat) (d : DueCpl), (s.core c).dueCpl = [d] → d.at_ ≤ t → d.status = 0 → d.eng = Eng.ve.code → Cmd.opcode d.q.cmd = 0x3F →
    Cmd.doneEn d.q.cmd = false → Cmd.notify d.q.cmd = false →
    let u := s.dueTick c t
    u.get F.VE_CTX_PHASE c = Cmd.f d.q.cmd 16 0 0 ∧
      u.get F.VE_CTX_STEP c = (if Cmd.f d.q.cmd 16 0 0 = 0 then Cmd.f d.q.cmd 20 31 0 else s.get F.VE_CTX_STEP c) ∧
      (u.core c).ve.hold = none ∧ u.mem = s.mem ∧ (∀ k, k.reg ≠ .VE_CTX → u.rd k = s.rd k) ∧ (∀ e, e ≠ c → u.core e = s.core e)) ∧
  (∀ (s u : State) (c : Nat) (h : Begun), s.phaseHeld c = some h → Cmd.f h.cmd 24 31 0 ≠ 0 → u = s.at_ (h.at_ + 1024 * Cmd.f h.cmd 24 31 0 + 1) →
    u.running c = true → u.earlier c h.ord = true →
    ∃ t, exec (.vePhaseTimeout c) s = .next t ∧ t.now = u.now ∧ t.get F.VE_EVT_TIMEOUT c = 1 ∧ t.get F.CC_TASK_STATUS_ABORTED c = 1 ∧
      (Cmd.doneEn h.cmd = false → u.get F.CC_TASK_STATUS_ABORTED c = 0 → t.get F.CC_TASK_STATUS_CAUSE c = 6) ∧ (t.core c).ve.hold = none ∧
      t.get F.VE_CTX_PHASE c = u.get F.VE_CTX_PHASE c ∧ t.mem = u.mem) ∧
  (∀ (s : State) (c n : Nat) (v : Word), n < 8 → s.reach .hub .VE c = true → F.VE_TIE_DONE_EN.of v = 0 →
    ∃ t, exec (.veTieArm .hub c n v) s = .next t ∧ t.bus = .written ∧ t.get F.VE_TIE_ARMED c n = F.VE_TIE_ARMED.of v ∧
      t.get F.VE_TIE_BASE c n = F.VE_TIE_BASE.of v ∧ t.get F.VE_TIE_ROWS_M1 c n = F.VE_TIE_ROWS_M1.of v ∧ t.get F.VE_TIE_USES c n = F.VE_TIE_USES.of v ∧
      (F.VE_TIE_ARMED.of v = 1 → t.get F.VE_TIE_COUNT c n = 0 ∧
        t.get F.VE_TIE_COMPLETE c n = (if F.VE_TIE_USES.of v = 0 then 1 else 0)) ∧
      (∀ k, k ≠ ⟨.VE_TIE, c, n⟩ → t.rd k = s.rd k) ∧ t.mem = s.mem)

/-! ### Scratchpad banks and bank units (07_scratchpad_and_bank_units.md) -/

/-- R216 to R231 for one access at a bank; `parts = []` says that no other row of the request is open. -/
def Obligations.BankService : Prop :=
  let alone (k : BankSt) (a : BankAcc) : Prop := k.parts = [] ∧ k.waiting.any (fun x => decide (x.grp = a.grp)) = false
  (∀ (s : State) (c b : Nat) (a : BankAcc), s.corePresent c = true → ((s.core c).bank b).waiting = [a] → ((s.core c).bank b).granted = none →
    ((s.core c).bank b).trans = none → ((s.core c).bank b).ops = [] → ((s.core c).bank b).lastOp = none → ((s.core c).bank b).parts = [] →
    ((s.core c).bank b).next ≤ s.now → s.ownerPresents c b s.now = false → s.inj = [] →
    let t1 := s.now
    let served (u : State) (g : Option (BankAcc × Nat)) : Prop :=
      (u.core c).bank b = { (s.core c).bank b with waiting := [], rr := a.master.code, next := t1 + a.holds, granted := g } ∧ u.now = t1 ∧
        u.mem = s.mem ∧ (∀ k, sideReg k.reg = false → k ≠ ⟨.SPD_EVT, c, 0⟩ → u.rd k = s.rd k) ∧ (∀ d, d ≠ b → (u.core c).bank d = (s.core c).bank d) ∧
        (u.core c).dmCmds = (s.core c).dmCmds ∧ (∀ d, d ≠ c → u.core d = s.core d) ∧ u.stq = s.stq
    (a.isRead = true → ∃ t u, exec (.bankServe c b .ok) s = .next t ∧ t = u.bankAnswer c a 0 (s.readWin c a.off a.len) ∧ served u none) ∧
    (a.isRead = false → ∃ t, exec (.bankServe c b .ok) s = .next t ∧ served t (some (a, t1)))) ∧
  (∀ (s : State) (c b n : Nat) (a : BankAcc), ((s.core c).bank b).granted = some (a, n) → a.bop = 0 → alone ((s.core c).bank b) a →
    ((s.core c).bank b).ops.any (fun o => decide (o.acc.grp = a.grp)) = false → (∀ id it ret, a.ans ≠ .dm id it ret) →
    ∃ t, exec (.bankWrite c b) s = .next t ∧
      (∀ j, j < a.data.length → t.readByte (winBase c + a.off + j) = a.data.getD j 0) ∧
      (∀ x, x < winBase c + a.off ∨ winBase c + a.off + a.data.length ≤ x → t.readByte x = s.readByte x) ∧
      ((t.core c).bank b).granted = none ∧ ((t.core c).bank b).ops = ((s.core c).bank b).ops ∧
      ((∀ j, j < a.len → s.landWin c (a.off + j) = none) → ∀ k, sideReg k.reg = false → t.rd k = s.rd k)) ∧
  (∀ (s : State) (c b n bop : Nat) (a : BankAcc) (i : Instr),
    (bop, i) ∈ [(1, Instr.bankAdd c b), (2, .bankMax c b), (3, .bankAxpy c b), (4, .bankInc c b), (5, .bankG8acc c b)] →
    ((s.core c).bank b).granted = some (a, n) → a.bop = bop →
    let old := s.readWin c a.off a.len
    ∃ t o, exec i s = .next t ∧ t = { s with regs := t.regs, cores := t.cores, evNow := t.evNow } ∧ ((t.core c).bank b).granted = none ∧
      ((t.core c).bank b).ops = ((s.core c).bank b).ops ++ [o] ∧ o.acc = a ∧ o.old = old ∧ o.writeAt = n + (if a.rows = 2 then 4 else 3) ∧
      (∀ k, k ≠ ⟨.SPD_EVT, c, 0⟩ → t.rd k = s.rd k) ∧
      (bop = 4 → o.result = leBytes 4 (leNat old + 1)) ∧
      (bop < 4 → ∀ j, j < a.len / (Fmt.ofCode a.fmt).bytes →
        let e := (Fmt.ofCode a.fmt).bytes
        leNat ((o.result.drop (j * e)).take e) =
          (bankElem (Fmt.ofCode a.fmt) bop a.imm (leNat ((a.data.drop (j * e)).take e)) (leNat ((old.drop (j * e)).take e))).code % 2 ^ (8 * e)) ∧
      (bop = 5 → a.data.length = 32 → ∀ j, j < 32 → leNat ((o.result.drop (4 * j)).take 4) =
        (toFp32 ((fp32 (g8Decode (a.imm % 256) (a.data.getD j 0).toNat).code).add (fp32 (leNat ((old.drop (4 * j)).take 4))))).code % 2 ^ 32)) ∧
  (∀ (s : State) (c b : Nat) (o : BankOp), ((s.core c).bank b).ops = [o] → ((s.core c).bank b).granted = none → alone ((s.core c).bank b) o.acc →
    (∀ id it ret, o.acc.ans ≠ .dm id it ret) → o.writeAt ≤ s.now →
    (∃ t, exec (.bankOpWriteback c b false) s = .next t ∧
      (∀ j, j < o.result.length → t.readByte (winBase c + o.acc.off + j) = o.result.getD j 0) ∧
      (∀ x, x < winBase c + o.acc.off ∨ winBase c + o.acc.off + o.result.length ≤ x → t.readByte x = s.readByte x) ∧
      ((t.core c).bank b).ops = [] ∧ t.now = s.now) ∧
    (∃ t, exec (.bankOpWriteback c b true) s = .next t ∧ (∀ x, ringByte s x = false → t.readByte x = s.readByte x) ∧
      t.get F.SPD_EVT_BANK_CHECK c = 1 ∧ ((t.core c).bank b).ops = []))

/-- R221, R222. A bank's share of SPD_PWR.STATE is `sub … b 2`; `pwrReq` reads REQ with 0b11 as ON. -/
def Obligations.BankPower : Prop :=
  (∀ (s : State) (c : Nat) (v : Word), s.reach .hub .SPD c = true →
    (∀ b, b < 6 → ((s.core c).bank b).waiting = [] ∧ ((s.core c).bank b).ops = [] ∧ ((s.core c).bank b).granted = none ∧ ((s.core c).bank b).parts = []) →
    ∃ t, exec (.spdPwrReq .hub c v) s = .next t ∧ t.bus = .written ∧ t.mem = s.mem ∧ t.now = s.now ∧
      t.get F.SPD_PWR_REQ c = F.SPD_PWR_REQ.of v ∧ (∀ k, k ≠ ⟨.SPD_PWR, c, 0⟩ → t.rd k = s.rd k) ∧
      (∀ b, b < 6 → s.bit F.SPD_MAP_RETIRED c b = false → ((s.core c).bank b).trans = none →
        (s.sub F.SPD_PWR_STATE c b 2 ≠ t.pwrReq c b →
          ((t.core c).bank b).trans = some (s.sub F.SPD_PWR_STATE c b 2, t.pwrReq c b, s.now + pwrTime (s.sub F.SPD_PWR_STATE c b 2) (t.pwrReq c b)) ∧
          t.sub F.SPD_PWR_STATE c b 2 = 3) ∧
        (s.sub F.SPD_PWR_STATE c b 2 = t.pwrReq c b → ((t.core c).bank b).trans = none ∧ t.sub F.SPD_PWR_STATE c b 2 = s.sub F.SPD_PWR_STATE c b 2))) ∧
  (∀ (s : State) (c b left target e : Nat), b < 6 → target < 3 → ((s.core c).bank b).trans = some (left, target, e) → e ≤ s.now → ((s.core c).bank b).granted = none →
    ((s.core c).bank b).ops = [] → s.pwrReq c b = target →
    ∃ t, exec (.bankTransitionEnd c b) s = .next t ∧ ((t.core c).bank b).trans = none ∧ t.sub F.SPD_PWR_STATE c b 2 = target ∧
      t.now = s.now ∧ (∀ k, sideReg k.reg = false → k ≠ ⟨.SPD_PWR, c, 0⟩ → t.rd k = s.rd k) ∧ t.get F.SPD_PWR_REQ c = s.get F.SPD_PWR_REQ c ∧
      (∀ x, t.readByte x = (if target = 2 ∧ winBase c + 0x20000 * b ≤ x ∧ x < winBase c + 0x20000 * (b + 1) then 0 else s.readByte x)) ∧
      (∀ d, d ≠ b → (t.core c).bank d = (s.core c).bank d) ∧ (∀ d, d ≠ c → t.core d = s.core d))

/-! ### The data mover's transfers (07 R233 to R242, 08 R280 to R293) -/

/-- R235 to R239, R281 to R287, R291, R292. -/
def Obligations.DataMoverBegins : Prop :=
  let ops (c : Nat) : List (Nat × (Cmd → Bool) × Instr) :=
    [(0x13, copyIllegal, .dmCopy c), (0x16, bankopIllegal, .dmBankop c), (0x14, gsIllegal, .dmGather c .ok), (0x15, gsIllegal, .dmScatter c .ok),
     (0x18, raccIllegal, .dmRacc c), (0x19, msuIllegal, .dmMsu c)]
  (∀ (s : State) (c op p : Nat) (q : QCmd) (bad : Cmd → Bool) (i : Instr), (op, bad, i) ∈ ops c →
    s.ready c .dm (fun k => decide (Cmd.opcode k = op)) = some (p, q, s.now) → s.specTask c = none →
    (bad q.cmd = false → ∃ t d, exec i s = .next t ∧ t = { s with cores := t.cores } ∧
      (t.core c).dmCmds = (s.core c).dmCmds ++ [d] ∧ d.q = q ∧ d.nIter = Cmd.iters q.cmd ∧ d.gather = 0 ∧ d.reqs = [] ∧ d.issuing = true ∧
      d.status = 0 ∧ d.open_ = 0 ∧ (∀ j, j ≠ c → t.core j = s.core j)) ∧
    (bad q.cmd = true → (s.core c).dmCmds = [] → ∃ t, exec i s = .next t ∧ t.get F.DM_EVT_ILLEGAL c = 1 ∧ (t.core c).dmCmds = [] ∧
      t.mem = s.mem ∧ t.bit F.CC_TASK_STATUS_SEEN c 2 = true)) ∧
  (∀ (s : State) (c p : Nat) (q : QCmd), s.ready c .dm (fun k => decide (Cmd.opcode k = 0x1A)) = some (p, q, s.now) → s.specTask c = none →
    s.optIllegal c q.cmd = false → s.inj = [] →
    s.windowServes c .dm (s.core c).dmSince [(opDesc q.cmd, 64)] = true →
    ∃ t d, exec (.dmOpt ⟨c, .ok⟩) s = .next t ∧ t = { s with regs := t.regs, cores := t.cores, evNow := t.evNow } ∧ (∀ k, sideReg k.reg = false → k ≠ ⟨.SPD_EVT, c, 0⟩ → t.rd k = s.rd k) ∧ (t.core c).dmCmds = (s.core c).dmCmds ++ [d] ∧
      d.q = q ∧ d.reqs.length = 256 ∧ (∀ m, m < 256 → ∃ r, d.reqs[m]? = some r ∧ r.imm = m ∧ r.bop = 6 ∧ r.typ = 2 ∧
        r.data.drop 64 = s.readWin c (opDesc q.cmd) 64)) ∧
  (∀ (s : State) (c p : Nat) (q : QCmd), s.ready c .dm (fun k => decide (Cmd.opcode k = 0x1B)) = some (p, q, s.now) → stIllegal q.cmd = false →
    let w := stWin q.cmd
    let total := Cmd.iters q.cmd * stBytes q.cmd
    let slot := s.get F.DM_STRM_CFG_NEXT c w
    s.get F.DM_STRM_CFG_EN c w = 1 → 2 ≤ s.get F.DM_STRM_CFG_SLOTS c w →
    ∃ t, exec (.dmStream c) s = .next t ∧ t.get F.DM_STRM_CFG_NEXT c w = (slot + 1) % s.get F.DM_STRM_CFG_SLOTS c w ∧
      t.get F.DM_STRM_CFG_FILLS c w = (s.get F.DM_STRM_CFG_FILLS c w + 1) % 2 ^ F.DM_STRM_CFG_FILLS.width ∧
      t.get F.DM_STRM_ISSUED_BYTES c w = min (s.get F.DM_STRM_ISSUED_BYTES c w + total) (2 ^ F.DM_STRM_ISSUED_BYTES.width - 1) ∧
      t.fillsOf c w = (s.fillsOf c w).filter (fun f => decide (f.slot ≠ slot)) ++ [{ slot := slot, bytes := total, consumed := false }] ∧
      (∀ v, v ≠ w → t.fillsOf c v = s.fillsOf c v) ∧ t.mem = s.mem ∧
      (∃ d, (t.core c).dmCmds = (s.core c).dmCmds ++ [d] ∧ d.q = q ∧ d.stream = some (w, slot, total)))

/-- R235, R238, R240, R774, R308. `issues` says that command `d` issues request `r` in this ACLK, with its banks served. -/
def Obligations.DataMoverRequests : Prop :=
  let due (s : State) (c : Nat) (d : DmCmd) : Nat := max (s.core c).issueAt (((s.core c).eng .dm).lastEntry + (if d.gather = 0 then 0 else 1))
  let issues (s : State) (c : Nat) (d : DmCmd) (r : DmReq) (more : List DmReq) : Prop :=
    s.running c = true ∧ s.dmIssuing c = some d ∧ d.reqs = r :: more ∧ due s c d ≤ s.now ∧ s.reqOn c r = true ∧
      s.windowServes c .dm (due s c d) (s.reqRanges c r) = true
  (∀ (s : State) (c : Nat) (d : DmCmd), s.running c = true → s.dmIssuing c = some d → due s c d ≤ s.now → s.inj = [] → d.ecc = .ok →
    Cmd.opcode d.q.cmd = 0x13 → d.reqs = [] → d.gather = 0 → d.nIter = 1 → cpFmtSC d.q.cmd = cpFmtDC d.q.cmd →
    cpLen d.q.cmd % (cpFmtS d.q.cmd).bytes = 0 → s.isOwn c (cpSrc d.q.cmd 0) = true → s.isOwn c (cpDst d.q.cmd 0) = true →
    (cpSrc d.q.cmd 0).toNat % 16 = 0 → (cpDst d.q.cmd 0).toNat % 16 = 0 →
    s.ownRange c (ownOff (cpSrc d.q.cmd 0)) (cpLen d.q.cmd) = true → s.ownRange c (ownOff (cpDst d.q.cmd 0)) (cpLen d.q.cmd) = true →
    let a := winBase c + winOff (gLoc (cpSrc d.q.cmd 0).toNat)
    let z := winBase c + winOff (gLoc (cpDst d.q.cmd 0).toNat)
    s.windowServes c .dm (due s c d) [(winOff (gLoc (cpSrc d.q.cmd 0).toNat), cpLen d.q.cmd), (winOff (gLoc (cpDst d.q.cmd 0).toNat), cpLen d.q.cmd)] = true →
    ∃ t, exec (.dmIssueRequest ⟨c, .ok⟩) s = .next t ∧ (∀ j, j < cpLen d.q.cmd → t.readByte (z + j) = s.readByte (a + j)) ∧
      (∀ x, x < z ∨ z + cpLen d.q.cmd ≤ x → t.readByte x = s.readByte x)) ∧
  (∀ (s : State) (c tag : Nat) (d : DmCmd) (r : DmReq) (more : List DmReq), issues s c d r more → r.reads = [] → s.inj = [] →
    s.isOwn c r.far = false → r.bop ≠ 6 → s.unmapped r.far = false → s.specR1 r.far = false → (s.core c).freeTag = some tag →
    s.specAddr (s.core c).slot d.spec r.far = r.far → r.isRead = true → r.typ = 0 →
    ∃ t p, exec (.dmIssueRequest ⟨c, .ok⟩) s = .next t ∧ (∃ g, (t.core c).dmTags = (s.core c).dmTags ++ [g] ∧ g.tag = tag ∧ g.cmd = d.id ∧ g.answered = none) ∧
      lookD [] t.stq (nodeKey (dieOf c) (clusterOf c)) = lookD [] s.stq (nodeKey (dieOf c) (clusterOf c)) ++ [p] ∧
      p.typ = r.typ ∧ p.src = c ∧ p.tag = tag ∧ p.len = r.len ∧ p.mod = gMod r.far ∧ p.addr = gLoc r.far ∧ t.mem = s.mem) ∧
  (∀ (s : State) (c : Nat) (d : DmCmd) (r : DmReq) (more : List DmReq), issues s c d r more →
    s.isOwn c r.far = false → r.bop ≠ 6 → s.unmapped r.far = true → s.get F.DM_REMOTE_INFO_VALID c = 0 →
    ∃ t, exec (.dmIssueRequest ⟨c, .ok⟩) s = .next t ∧ t.get F.DM_REMOTE_INFO_VALID c = 1 ∧ t.get F.DM_REMOTE_INFO_REASON c = rUNMAPPED ∧
      t.rd ⟨.DM_REMOTE_ADDR, c, 0⟩ = BitVec.ofNat 64 r.far ∧ t.mem = s.mem ∧ t.stq = s.stq) ∧
  (∀ (s : State) (c : Nat) (d : DmCmd) (r : DmReq) (more : List DmReq), issues s c d r more →
    s.isOwn c r.far = false → r.bop ≠ 6 → s.unmapped r.far = false → s.specR1 r.far = false → (s.core c).freeTag = none →
    (s.core c).tagStall = false →
    ∃ t, exec (.dmIssueRequest ⟨c, .ok⟩) s = .next t ∧ t.get F.DM_EVT_TAG_STALL c = 1 ∧ (t.core c).tagStall = true ∧ t.mem = s.mem ∧ t.stq = s.stq ∧
      t.get F.DM_STALL_CNT_COUNT c = min (s.get F.DM_STALL_CNT_COUNT c + 1) (2 ^ F.DM_STALL_CNT_COUNT.width - 1)) ∧
  (∀ (s : State) (c : Nat) (g : TagSt) (d : DmCmd) (data : List Byte), (s.core c).dmTags.find? (fun g => g.answered.isSome) = some g →
    s.dmFind c g.cmd = some d → g.answered = some (0, 0, data) → (s.core c).abort = none → g.req.isRead = true → g.req.conv = none → s.inj = [] →
    s.rangeOn c g.req.loc data.length = true → s.windowServes c .dm g.at_ [(g.req.loc, data.length)] = true →
    ∃ t, exec (.dmResponse ⟨c, .ok⟩) s = .next t ∧ (∀ h, h ∈ (t.core c).dmTags → h.tag ≠ g.tag) ∧
      (∀ j, j < data.length → t.readByte (winBase c + g.req.loc + j) = data.getD j 0) ∧
      (∀ x, x < winBase c + g.req.loc ∨ winBase c + g.req.loc + data.length ≤ x → t.readByte x = s.readByte x)) ∧
  (∀ (s : State) (c w : Nat) (v : Word), w < 4 → s.reach .hub .DM c = true →
    ∃ t, exec (.strmWindowEnable .hub c w v) s = .next t ∧ t.bus = .written ∧ t.get F.DM_STRM_CFG_EN c w = F.DM_STRM_CFG_EN.of v ∧ t.mem = s.mem ∧
      (s.get F.DM_STRM_CFG_EN c w = 0 → F.DM_STRM_CFG_EN.of v = 1 → t.fillsOf c w = [] ∧ t.get F.DM_STRM_CFG_NEXT c w = 0 ∧
        t.get F.DM_STRM_CFG_FILLS c w = 0 ∧ t.get F.DM_STRM_ISSUED_BYTES c w = 0 ∧ t.get F.DM_STRM_CONSUMED_BYTES c w = 0 ∧
        t.get F.DM_STRM_EVICTED_BYTES c w = 0 ∧ t.get F.DM_STRM_LATE_ACLK c w = 0) ∧
      (s.get F.DM_STRM_CFG_EN c w = 1 → F.DM_STRM_CFG_EN.of v = 0 → t.fillsOf c w = [] ∧
        t.get F.DM_STRM_EVICTED_BYTES c w = min (s.get F.DM_STRM_EVICTED_BYTES c w
          + ((s.fillsOf c w).filter (fun f => !f.consumed)).foldl (fun n f => n + f.bytes) 0) (2 ^ F.DM_STRM_EVICTED_BYTES.width - 1)) ∧
      (∀ u, u ≠ w → t.fillsOf c u = s.fillsOf c u))

/-! ### HBM, the data mesh and the memory-side units (08, 09, 12) -/

/-- R267 to R276, R456 at a memory port; `bank` is the bank of the packet's block. -/
def Obligations.MemoryPortRequests : Prop :=
  let head (s : State) (d n vc : Nat) (p : Packet) : Prop :=
    isMemPort n = true ∧ (lookD [] s.deliv (nodeKey d n)).find? (fun q => decide (q.vc = vc)) = some p
  let here (s : State) (d : Nat) (p : Packet) : Prop := p.addr < hbmEnd ∧ (s.hbmPlace p.addr).stack / 4 = d
  let free (s : State) (p : Packet) : Prop :=
    s.hbmBank (s.hbmPlace p.addr).key = {} ∧ s.bankHeld (s.hbmPlace p.addr).key < 64 ∧ s.bad = [] ∧ s.inj = []
  let answered (s t : State) (d n : Nat) (p : Packet) (typ reason : Nat) (bs : List Byte) : Prop :=
    ∃ a, lookD [] t.stq (nodeKey d n) = lookD [] s.stq (nodeKey d n) ++ [a] ∧ a.typ = typ ∧ a.vc = 1 ∧ a.status = 0 ∧ a.reason = reason ∧
      a.src = p.src ∧ a.tag = p.tag ∧ a.payload = bs ∧ a.dnode = answerNode d n p.sdie p.snode
  let taken (s t : State) (d n : Nat) (p : Packet) : Prop :=
    lookD [] t.deliv (nodeKey d n) = dropFirst (fun q => decide (q.vc = p.vc)) (lookD [] s.deliv (nodeKey d n))
  (∀ (s : State) (d n : Nat) (p : Packet), head s d n 0 p → here s d p → p.typ = 0 → free s p → s.blkLocked p.addr = false →
    ∃ t, exec (.meshRd (.node d n) .ok) s = .next t ∧ answered s t d n p 3 0 (s.readMem p.addr p.len) ∧ taken s t d n p ∧ t.mem = s.mem ∧
      t.msus = s.msus ∧ (∀ k, sideReg k.reg = false → t.rd k = s.rd k)) ∧
  (∀ (s : State) (d n : Nat) (p : Packet), head s d n 0 p → here s d p → p.typ = 1 → free s p → s.blkLocked p.addr = false →
    ∃ t, exec (.meshWr ⟨(.node d n), .ok⟩) s = .next t ∧ answered s t d n p 4 0 [] ∧ taken s t d n p ∧
      (∀ j, j < p.payload.length → t.readByte (p.addr + j) = p.payload.getD j 0) ∧
      (∀ x, x < p.addr ∨ p.addr + p.payload.length ≤ x → t.readByte x = s.readByte x) ∧ (∀ k, sideReg k.reg = false → t.rd k = s.rd k)) ∧
  (∀ (s : State) (d n : Nat) (p : Packet), head s d n 0 p → here s d p → p.typ = 2 → p.bop ≠ 6 → msuFormOk p = true → free s p →
    (s.msu (s.hbmPlace p.addr).msu).ops.length < 32 →
    ∃ t, exec (.meshOp (.node d n)) s = .next t ∧ taken s t d n p ∧ t.mem = s.mem ∧ t.stq = s.stq ∧
      (t.msu (s.hbmPlace p.addr).msu).ops = (s.msu (s.hbmPlace p.addr).msu).ops ++ [{ r := ⟨p, nodeKey d n, none⟩, kind := p.bop, base := p.addr }]) ∧
  (∀ (s : State) (d n : Nat) (p : Packet), head s d n 0 p → p.typ = 0 → (s.hbmPlace p.addr).stack / 4 ≠ d →
    ∃ t, exec (.meshRd (.node d n) .ok) s = .next t ∧ answered s t d n p 5 rUNMAPPED [] ∧ taken s t d n p ∧ t.mem = s.mem) ∧
  (∀ (s : State) (d n : Nat) (p : Packet), head s d n 2 p → here s d p → p.typ = 7 → s.rchOpen (redChan p) = false →
    ∃ t, exec (.red (.node d n)) s = .next t ∧ answered s t d n p 5 rUNMAPPED [] ∧ taken s t d n p ∧ t.mem = s.mem ∧
      t.get F.MSU_RCH_ERR_CNT_CLOSED 0 = min (s.get F.MSU_RCH_ERR_CNT_CLOSED 0 + 1) (2 ^ F.MSU_RCH_ERR_CNT_CLOSED.width - 1)) ∧
  (∀ (s : State) (d n : Nat) (p : Packet), head s d n 2 p → here s d p → p.typ = 7 → s.redBad p = none → s.get F.MSU_RCH_CFG_MODE 0 (redChan p) = 0 →
    redSatn p = 0 → free s p → (s.msu (s.hbmPlace p.addr).msu).ops.length < 32 →
    ∃ t, exec (.red (.node d n)) s = .next t ∧ taken s t d n p ∧ t.mem = s.mem ∧
      (t.msu (s.hbmPlace p.addr).msu).ops = (s.msu (s.hbmPlace p.addr).msu).ops ++ [{ r := ⟨p, nodeKey d n, none⟩, kind := 3, base := p.addr }])

/-- R227, R240, R268, R269, R315, R326, R328 at a cluster router. `x` is the core addressed or answered. -/
def Obligations.ClusterRequests : Prop :=
  let head (s : State) (d cl vc : Nat) (p : Packet) : Prop :=
    cl < 48 ∧ (lookD [] s.deliv (nodeKey d cl)).find? (fun q => decide (q.vc = vc)) = some p
  let local_ (s : State) (d cl c : Nat) (p : Packet) : Prop := s.far p.addr = .core c ∧ dieOf c = d ∧ clusterOf c = cl
  let mine (s : State) (d cl : Nat) (p : Packet) : Prop :=
    p.src < 2048 ∧ s.cutOff p.src = false ∧ (s.router (48 * d + cl)).comb = [] ∧ (s.router (48 * d + cl)).mc = []
  let marked (s t : State) (p : Packet) : Prop :=
    (t.core p.src).dmTags = (s.core p.src).dmTags.map (fun g =>
      if g.tag = p.tag then { g with answered := some (p.status, p.reason, p.payload), parked := false, at_ := s.now } else g) ∧
    (∀ c, c ≠ p.src → t.core c = s.core c) ∧ t.mem = s.mem ∧ t.regs = s.regs
  (∀ (s : State) (d cl c : Nat) (p : Packet), head s d cl 0 p → local_ s d cl c p → p.typ = 0 → s.cutOff c = false → s.clusterOn (cluInst c) = true →
    (0xC0000 ≤ winOff p.addr → s.inj = [] → s.acbBusy c (winOff p.addr) p.len = false → ∃ t a, exec (.meshRd (.node d cl) .ok) s = .next t ∧
      lookD [] t.stq (nodeKey d cl) = lookD [] s.stq (nodeKey d cl) ++ [a] ∧ a.typ = 3 ∧ a.status = 0 ∧ a.tag = p.tag ∧
      a.payload = s.readWin c (winOff p.addr) p.len ∧ t.mem = s.mem ∧ t.regs = s.regs) ∧
    (winOff p.addr < 0xC0000 → s.bankOn c (bankOf (winOff p.addr)) = true → 0 < p.len → p.len ≤ 256 →
      ∃ t a l, exec (.meshRd (.node d cl) .ok) s = .next t ∧ ((t.core c).bank (bankOf (winOff p.addr))).waiting
        = ((s.core c).bank (bankOf (winOff p.addr))).waiting ++ a :: l ∧ a.isRead = true ∧ a.off = winOff p.addr ∧ a.master = .mesh ∧
        t.mem = s.mem ∧ t.regs = s.regs)) ∧
  (∀ (s : State) (d cl c : Nat) (p : Packet), head s d cl 0 p → local_ s d cl c p → p.typ = 0 → s.cutOff c = true →
    ∃ t a, exec (.meshRd (.node d cl) .ok) s = .next t ∧ lookD [] t.stq (nodeKey d cl) = lookD [] s.stq (nodeKey d cl) ++ [a] ∧ a.typ = 5 ∧
      a.reason = rFENCED ∧ t.get F.MESH_EVT_FENCED_REFUSE (cluInst c) = 1 ∧ t.mem = s.mem) ∧
  (∀ (s : State) (d cl : Nat) (p : Packet), head s d cl 1 p → mine s d cl p →
    (p.typ = 3 → ∃ t, exec (.rdata (.node d cl)) s = .next t ∧ marked s t p) ∧ (p.typ = 4 → ∃ t, exec (.ack (.node d cl)) s = .next t ∧ marked s t p) ∧
    (p.typ = 5 → ∃ t, exec (.refuse (.node d cl)) s = .next t ∧ marked s t p) ∧ (p.typ = 9 → ∃ t, exec (.mcack (.node d cl)) s = .next t ∧ marked s t p) ∧
    (p.typ = 6 → ∃ t, exec (.bankFull (.node d cl)) s = .next t ∧ t.mem = s.mem ∧ (t.core p.src).dmTags = (s.core p.src).dmTags.map (fun g =>
      if g.tag = p.tag then { g with parked := true, bank := p.rtag } else g))) ∧
  (∀ (s : State) (d cl : Nat) (m : Packet) (g : TagSt) (l : List TagSt), head s d cl 3 m → m.typ = 10 → g.req.bop ≠ 6 →
    (s.core m.src).dmTags.filter (fun g => g.parked && decide (g.bank = m.tag)) = g :: l →
    ∃ t p, exec (.resume (.node d cl)) s = .next t ∧ (∀ h, h ∈ (t.core m.src).dmTags → h.tag = g.tag → h.parked = false) ∧
      lookD [] t.stq (nodeKey (dieOf m.src) (clusterOf m.src)) = lookD [] s.stq (nodeKey (dieOf m.src) (clusterOf m.src)) ++ [p] ∧ p.tag = g.tag ∧
      p.addr = gLoc g.req.far ∧ p.payload = g.req.data ∧
      (t.hbmBank m.tag).waitList = (s.hbmBank m.tag).waitList.filter (fun w => decide (w ≠ m.src)) ++ (if l = [] then [] else [m.src])) ∧
  (∀ (s : State) (d cl g : Nat) (p : Packet), head s d cl 2 p → p.typ = 8 → d < 2 → s.far p.addr = .group d g → 0xC0000 ≤ winOff p.addr →
    winOff p.addr + p.payload.length ≤ 0x100000 →
    (∀ n, n < 16 → bitOf (s.get F.MESH_MC_CORES (48 * d + cl) g) n = true →
      s.cutOff (d * 1024 + cl * 16 + n) = false ∧ s.acbBusy (d * 1024 + cl * 16 + n) (winOff p.addr) p.len = false) → s.inj = [] → s.clusterOn (48 * d + cl) = true →
    ∃ t, exec (.mcw (.node d cl)) s = .next t ∧ (∀ n, n < 16 → bitOf (s.get F.MESH_MC_CORES (48 * d + cl) g) n = true →
      ∀ j, j < p.payload.length → t.readByte (winBase (d * 1024 + cl * 16 + n) + winOff p.addr + j) = p.payload.getD j 0) ∧
      (∀ n j, n < 16 → j < 0x100000 → bitOf (s.get F.MESH_MC_CORES (48 * d + cl) g) n = false →
        t.readByte (winBase (d * 1024 + cl * 16 + n) + j) = s.readByte (winBase (d * 1024 + cl * 16 + n) + j))) ∧
  (∀ (s : State) (d n : Nat) (p : Packet), (lookD [] s.deliv (nodeKey d n)).find? (fun q => decide (9 < q.typ) && decide (q.vc ≠ 3)) = some p →
    ∃ t a, exec (.reservedPacket (.node d n)) s = .next t ∧ lookD [] t.stq (nodeKey d n) = lookD [] s.stq (nodeKey d n) ++ [a] ∧ a.typ = 5 ∧
      a.reason = rUNMAPPED ∧ t.get F.MESH_EVT_BAD_PKT (routerOf d n) = 1 ∧ t.mem = s.mem)

/-- R313 to R326. -/
def Obligations.RouterForwards : Prop :=
  (∀ (s : State) (d cl port vc : Nat) (p : Packet), s.routerLive d cl = true → port < 5 → vc < 3 → s.inHead d cl port vc = some p → p.vc = vc →
    (p.typ = 8 → p.dnode ≠ cl) → (s.router (48 * d + cl)).outq = [] → s.route d cl p.dnode < 5 →
    s.roomAt d cl (s.route d cl p.dnode) vc = true →
    ∃ t, exec (.routerForward d cl port vc false) s = .next t ∧ t.mem = s.mem ∧ (t.router (48 * d + cl)).outq = [] ∧
      (s.route d cl p.dnode = 0 → lookD [] t.deliv (nodeKey d cl) = lookD [] s.deliv (nodeKey d cl) ++ [p]) ∧
      (∀ c q, s.route d cl p.dnode ≠ 0 → beyond cl (s.route d cl p.dnode) = .router c q →
        lookD [] (t.router (48 * d + c)).inq (inKey q vc) = lookD [] (s.router (48 * d + c)).inq (inKey q vc) ++ [p]) ∧
      (∀ n, s.route d cl p.dnode ≠ 0 → beyond cl (s.route d cl p.dnode) = .station n → n < 0x40 →
        lookD [] t.deliv (nodeKey d n) = lookD [] s.deliv (nodeKey d n) ++ [p])) ∧
  (∀ (s : State) (d cl port : Nat) (p a : Packet), s.routerLive d cl = true → port < 5 → s.inHead d cl port 2 = some p → p.vc = 2 → p.typ = 7 →
    s.route d cl p.dnode < 5 → lookD [] (s.router (48 * d + cl)).outq (inKey (s.route d cl p.dnode) 2) = [a] →
    s.roomAt d cl (s.route d cl p.dnode) 2 = false → combines a p = true → s.get F.MESH_CFG_COMBINE (48 * d + cl) = 1 →
    (s.router (48 * d + cl)).comb.length < 64 →
    ∃ t c, exec (.routerForward d cl port 2 false) s = .next t ∧ lookD [] (t.router (48 * d + cl)).outq (inKey (s.route d cl p.dnode) 2) = [c] ∧
      c.count = a.count + p.count ∧ c.snode = cl ∧ c.sdie = d ∧ c.src = a.src ∧ c.tag = a.tag ∧
      (let e := (Fmt.ofCode a.fmt).bytes
       ∀ j, j < a.payload.length / e → leNat ((c.payload.drop (j * e)).take e) = ((Fmt.ofCode a.fmt).convert false
        (((Fmt.ofCode a.fmt).value (leNat ((a.payload.drop (j * e)).take e))).add ((Fmt.ofCode a.fmt).value (leNat ((p.payload.drop (j * e)).take e))))).code
          % 2 ^ (8 * e)) ∧
      (t.router (48 * d + cl)).comb = ⟨a, p⟩ :: (s.router (48 * d + cl)).comb) ∧
  (∀ (s : State) (d cl port vc : Nat) (p : Packet), s.routerLive d cl = true → port < 5 → vc < 3 → s.inHead d cl port vc = some p →
    (p.typ = 8 → p.dnode ≠ cl) → 4 < s.route d cl p.dnode → (s.router (48 * d + cl)).outq = [] → p.vc = 0 →
    ∃ t, exec (.routerForward d cl port vc false) s = .next t ∧ t.get F.MESH_EVT_DEAD_REFUSE (48 * d + cl) = 1 ∧ t.mem = s.mem ∧
      ∃ a, a ∈ lookD [] t.stq (nodeKey d cl) ∧ a.reason = rFENCED ∧ a.tag = p.tag ∧ a.src = p.src) ∧
  (∀ (s : State) (d cl port g gd : Nat) (p : Packet), s.routerLive d cl = true → port < 5 → s.inHead d cl port 2 = some p → p.typ = 8 → p.dnode = cl →
    s.far p.addr = .group gd g →
    let i := 48 * d + cl
    let br := s.get F.MESH_MC_BRANCH i g
    (s.get F.MESH_MC_VALID i g = 0 → ∃ t a, exec (.mcwForward d cl port) s = .next t ∧ t.get F.MESH_EVT_MC_INVALID i = 1 ∧ t.mem = s.mem ∧
      a ∈ lookD [] t.stq (nodeKey d cl) ∧ a.typ = 9 ∧ a.reason = rUNMAPPED ∧ a.tag = p.tag) ∧
    (s.get F.MESH_MC_VALID i g = 1 → (∀ q c r, q ∈ [1, 2, 3, 4] → beyond cl q = .router c r → bitOf br q = true → s.roomAt d cl q 2 = true) →
      (∃ q c r, q ∈ [1, 2, 3, 4] ∧ q ≠ port ∧ bitOf br q = true ∧ beyond cl q = .router c r) →
      ∃ t m, exec (.mcwForward d cl port) s = .next t ∧ t.mem = s.mem ∧ t.regs = s.regs ∧ (t.router i).mc = (s.router i).mc ++ [m] ∧ m.tag = p.tag ∧
        m.src = p.src ∧ 0 < m.left ∧ m.group = g ∧
        (bitOf br 0 = true → popcount 16 (s.get F.MESH_MC_CORES i g) ≠ 0 → p ∈ lookD [] t.deliv (nodeKey d cl)) ∧
        (∀ q c r, q ∈ [1, 2, 3, 4] → q ≠ port → bitOf br q = true → beyond cl q = .router c r →
          ∃ x, x ∈ lookD [] (t.router (48 * d + c)).inq (inKey r p.vc) ∧ x.dnode = c ∧ x.snode = cl ∧ x.payload = p.payload)))

/-! ### HBM controllers and memory-side units (08_hbm_and_memory_tiers.md) -/

/-- R275 to R288 at one MSU. -/
def Obligations.MemorySideUnits : Prop :=
  (∀ (s : State) (m kind : Nat) (o : MsuOp) (i : Instr), (kind, i) ∈ [(0, Instr.racc ⟨m, .ok⟩), (1, .scale ⟨m, .ok⟩), (2, .fill ⟨m, .ok⟩)] → o.kind = kind →
    (s.msu m).ops.find? (fun x => !x.done) = some o → (s.msu m).ops.any (fun x => x.done && decide (blkOf x.base = blkOf o.base)) = false → s.bad = [] → s.inj = [] →
    let p := o.r.p
    let e := (Fmt.ofCode p.fmt).bytes
    let w := if kind = 0 then 4 else e
    ∃ t bs nb, exec i s = .next t ∧ t.mem = s.mem ∧ t.stq = s.stq ∧
      (t.msu m).ops = (s.msu m).ops.map (fun x => if x = o then { o with done := true, result := bs, bad := nb } else x) ∧
      (∀ j, j < p.len / w → let y := leNat ((s.readMem o.base p.len).drop (j * w) |>.take w)
        leNat ((bs.drop (j * w)).take w) = (match kind with
          | 0 => fp32Add y (match p.fmt with
            | 14 => (g8Decode (p.imm / 256 ^ (j / 32) % 256) (leNat ((p.payload.drop (j * e)).take e))).code
            | 7 => leNat ((p.payload.drop (j * e)).take e) * 2 ^ 16
            | _ => leNat ((p.payload.drop (j * e)).take e))
          | 1 => ((Fmt.ofCode p.fmt).convert false ((fp32 p.imm).mul ((Fmt.ofCode p.fmt).value y))).code
          | _ => ((Fmt.ofCode p.fmt).convert false (fp32 p.imm)).code) % 2 ^ (8 * w)) ∧
      (∀ k, k ≠ ⟨.MSU_EVT, m, 0⟩ → t.rd k = s.rd k)) ∧
  (∀ (s : State) (m : Nat) (o : MsuOp), (s.msu m).ops.find? (fun x => x.done) = some o → (s.hbmPlace o.base).msu = m → o.kind < 3 →
    (∀ k, k / 128 = (s.hbmPlace o.base).key / 128 → s.hbmBank k = {}) →
    (∃ t, exec (.msuOpWriteback m false) s = .next t ∧
      (∀ j, j < o.result.length → t.readByte (o.base + j) = o.result.getD j 0) ∧
      (∀ x, x < o.base ∨ o.base + o.result.length ≤ x → t.readByte x = s.readByte x) ∧
      (t.msu m).ops = dropFirst (fun x => decide (x = o)) (s.msu m).ops ∧
      t.get F.MSU_CNT_BLOCKS m = min (s.get F.MSU_CNT_BLOCKS m + 1) 0xFFFFFFFF ∧
      (∀ k, sideReg k.reg = false → k ≠ ⟨.MSU_CNT, m, 0⟩ → t.rd k = s.rd k)) ∧
    (∃ t, exec (.msuOpWriteback m true) s = .next t ∧ (∀ x, ringByte s x = false → t.readByte x = s.readByte x) ∧
      t.get F.HBMC_EVT_MSU_CHECK (m / 32) = 1 ∧ t.get F.MSU_EVT_CHECK m = 1 ∧ (t.msu m).ops = dropFirst (fun x => decide (x = o)) (s.msu m).ops)) ∧
  (∀ (s : State) (m : Nat) (o : OptCmd) (more : List OptCmd), (s.msu m).opts = o :: more → o.prog ∈ [0, 1, 3] → bitOf o.flags 2 = false →
    bitOf o.flags 0 = false → s.bad = [] → s.inj = [] →
    let a := 256 * o.next
    let arrays := [o.w + a, o.g + a] ++ (if o.prog ≠ 3 then [o.m + a] else []) ++ (if o.prog = 1 then [o.v + a] else [])
    arrays.any (fun x => s.blkLocked x) = false →
    let el (b k : Nat) : Nat := leNat (s.readMem (b + a + 4 * k) 4)
    ∃ t, exec (.optimizerStep m ⟨.ok, false⟩) s = .next t ∧
      (∀ k, k < 64 → leNat (t.readMem (o.w + a + 4 * k) 4) = (optElem o.prog (bitOf o.flags 1) o.desc
        ⟨el o.w k, if o.prog ≠ 3 then el o.m k else 0, if o.prog = 1 then el o.v k else 0, el o.g k⟩).w % 2 ^ 32) ∧
      (∀ x, (∀ y, y ∈ arrays → x < y ∨ y + 256 ≤ x) → t.readByte x = s.readByte x) ∧
      t.get F.MSU_CNT_BLOCKS m = min (s.get F.MSU_CNT_BLOCKS m + 1) 0xFFFFFFFF)

/-- R269, R274, R298. -/
def Obligations.HbmControllers : Prop :=
  (∀ (s : State) (st line : Nat), st < 8 → s.get F.HBMC_SCRUB_PERIOD st ≠ 0 → line < stackLines → s.inj = [] →
    let key := (64 * st + line / pcLines) * 2 ^ 24 + line % pcLines
    (key ∉ s.bad → line + 1 ≠ stackLines → exec (.hbmScrub st line .ok) s = .next s) ∧
    (key ∉ s.bad → line + 1 = stackLines → exec (.hbmScrub st line .ok) s = .next (s.bump F.HBMC_SCRUB_PASSES st)) ∧
    (∃ t, exec (.hbmScrub st line .unc) s = .next t ∧ key ∈ t.bad ∧ t.get F.HBMC_EVT_SCRUB_UE st = 1 ∧
      (∀ x, ringByte s x = false → t.readByte x = s.readByte x))) ∧
  (∀ (s : State) (st q : Nat) (v : Word), q < 3 → s.reach .hub .HBMC st = true →
    ∃ t, exec (.hbmcPairWrite st q v) s = .next t ∧ t.bus = .written ∧ (∀ i, i < 8 → t.rd ⟨.HBMC_PAIR, i, q⟩ = v) ∧ t.mem = s.mem ∧
      (∀ k, ¬ (k.reg = .HBMC_PAIR ∧ k.inst < 8 ∧ k.idx = q) → t.rd k = s.rd k)) ∧
  (∀ (s : State) (chan key who e : Nat), s.lapsing chan = some (key, who, e) → e ≤ s.now →
    ∃ t, exec (.reservationLapse chan) s = .next t ∧ t.now = s.now ∧ (who, e) ∉ (t.hbmBank key).resv ∧
      t.get F.HBMC_EVT_RESV_LAPSED (keyStack key) = 1 ∧ t.mem = s.mem ∧
      (t.hbmBank key).waitList = (if who ∈ (s.hbmBank key).waitList then (s.hbmBank key).waitList.filter (fun w => decide (w ≠ who)) ++ [who]
        else (s.hbmBank key).waitList))

/-! ### Synchronisation (09 R332 to R354, 10_synchronisation.md) -/

/-- R337 to R340, R350, R381, for counters that serve no privileged channel and do not overflow. -/
def Obligations.SignalsAndCounters : Prop :=
  let plain (s : State) (c : Nat) (g : Sig) : Prop := g.ctr < 32 ∧ s.privChans c g.ctr = [] ∧ s.ctr c g.ctr + g.inc ≤ 0xFFFF
  let added (s t : State) (c : Nat) (g : Sig) : Prop :=
    t.ctr c g.ctr = s.ctr c g.ctr + g.inc ∧ (∀ n, n < 32 → n ≠ g.ctr → t.ctr c n = s.ctr c n) ∧ t.mem = s.mem ∧ (∀ d, d ≠ c → t.core d = s.core d)
  let arrives (s : State) (c : Nat) (g : Sig) (more : List Sig) : Prop :=
    (s.core c).sigIn = g :: more ∧ g.due ≤ s.now ∧ g.rel = false ∧ s.cutOff c = false ∧ (s.core c).openSync = true ∧ (s.core c).nodeHeld = []
  (∀ (s : State) (c : Nat) (g : Sig) (more : List Sig), arrives s c g more →
    (g.win = 0xF → plain s c g → ∃ t, exec (.signalArrive c) s = .next t ∧ added s t c g ∧ (t.core c).sigIn = more ∧
      (t.core c).slots = (s.core c).slots) ∧
    (g.win < 8 → 0 < g.bytes → s.get F.SYNC_LWIN_EN c g.win = 1 → (s.core c).slots.length < 16 → s.sigReadyAt c g = true → plain s c g →
      ∃ t, exec (.signalArrive c) s = .next t ∧ added s t c g ∧ (t.core c).slots = (s.core c).slots ∧
        t.get F.SYNC_LAND_CLAIMED c g.win = (s.get F.SYNC_LAND_CLAIMED c g.win + g.bytes) % 2 ^ 32) ∧
    (g.win < 8 → 0 < g.bytes → s.get F.SYNC_LWIN_EN c g.win = 1 → (s.core c).slots.length < 16 → s.sigReadyAt c g = false →
      ∃ t, exec (.signalArrive c) s = .next t ∧ (t.core c).slots = (s.core c).slots ++ [{ g with due := s.now }] ∧ (∀ n, n < 32 → t.ctr c n = s.ctr c n) ∧ t.mem = s.mem) ∧
    (g.win < 8 → 0 < g.bytes → s.get F.SYNC_LWIN_EN c g.win = 1 → 16 ≤ (s.core c).slots.length →
      ∃ t, exec (.signalArrive c) s = .next t ∧ (t.core c).nodeHeld = [g] ∧ (t.core c).slots = (s.core c).slots ∧ t.get F.SYNC_EVT_NODE_HELD c = 1) ∧
    (g.win ≠ 0xF → (8 ≤ g.win ∨ s.get F.SYNC_LWIN_EN c g.win = 0) →
      ∃ t, exec (.signalArrive c) s = .next t ∧ t.get F.SYNC_EVT_BAD_SIGNAL c = 1 ∧ (t.core c).slots = (s.core c).slots ∧
        (∀ n, n < 32 → t.ctr c n = s.ctr c n))) ∧
  (∀ (s : State) (c i : Nat) (g : Sig), (s.core c).slots[i]? = some g → g.due < s.now → s.sigReady c ((s.core c).slots.take i) g = true → s.cutOff c = false →
    (s.core c).openSync = true → g.win < 8 → plain s c g →
    ∃ t, exec (.signalRelease c i) s = .next t ∧ added s t c g ∧ (t.core c).slots = (s.core c).slots.eraseIdx i ∧
      t.get F.SYNC_LAND_CLAIMED c g.win = (s.get F.SYNC_LAND_CLAIMED c g.win + g.bytes) % 2 ^ 32) ∧
  (∀ (s : State) (c : Nat) (g : Sig) (more : List Sig), (s.core c).nodeHeld = g :: more → (s.core c).nodeAt ≤ s.now → (s.core c).slots.length < 16 → g.win < 8 → 0 < g.bytes →
    s.get F.SYNC_LWIN_EN c g.win = 1 → s.sigReadyAt c g = false →
    ∃ t, exec (.nodeHeldSignalSend c) s = .next t ∧ (t.core c).nodeHeld = more ∧ (t.core c).slots = (s.core c).slots ++ [{ g with due := s.now }]) ∧
  (∀ (s : State) (c w : Nat) (v : Word), w < 8 → s.reach .hub .SYNC c = true →
    ∃ t, exec (.lwinEnable .hub c w v) s = .next t ∧ t.bus = .written ∧ t.get F.SYNC_LWIN_EN c w = F.SYNC_LWIN_EN.of v ∧
      t.get F.SYNC_LWIN_BASE c w = F.SYNC_LWIN_BASE.of v ∧ t.get F.SYNC_LWIN_SIZE_M1 c w = F.SYNC_LWIN_SIZE_M1.of v ∧
      (s.get F.SYNC_LWIN_EN c w = 0 → F.SYNC_LWIN_EN.of v = 1 → t.get F.SYNC_LAND_LANDED c w = 0 ∧ t.get F.SYNC_LAND_CLAIMED c w = 0) ∧
      (∀ k, k ≠ ⟨.SYNC_LWIN, c, w⟩ → k ≠ ⟨.SYNC_LAND, c, w⟩ → t.rd k = s.rd k) ∧ t.mem = s.mem) ∧
  (∀ (s : State) (c q : Nat) (v : Word), q < 8 → s.reach .hub .SU c = true →
    ∃ t, exec (.suCtrWrite .hub c q v) s = .next t ∧ t.bus = .written ∧ (∀ j, j < 4 → t.ctr c (4 * q + j) = v.toNat / 2 ^ (16 * j) % 2 ^ 16) ∧
      (∀ k, k ≠ ⟨.SU_CTR, c, q⟩ → t.rd k = s.rd k) ∧ t.mem = s.mem)

/-- R358 to R364. -/
def Obligations.SyncUnitCommands : Prop :=
  let head (s : State) (c op p : Nat) (q : QCmd) : Prop :=
    s.ready c .su (fun k => decide (Cmd.opcode k = op)) = some (p, q, s.now) ∧ Cmd.doneEn q.cmd = false
  let other (s t : State) (c n : Nat) : Prop := ∀ m, m < 32 → m ≠ n → t.ctr c m = s.ctr c m
  (∀ (s : State) (c p : Nat) (q : QCmd), head s c 0x40 p q →
    (Cmd.badHeader q.cmd = false → oneLoop q.cmd = true → suRsv q.cmd = false → suSub q.cmd = false →
      ∃ t, exec (.suSet c) s = .next t ∧ t.ctr c (suCtr q.cmd) = suValue q.cmd ∧ other s t c (suCtr q.cmd) ∧ t.mem = s.mem) ∧
    (Cmd.badHeader q.cmd = true ∨ oneLoop q.cmd = false ∨ suRsv q.cmd = true ∨ suSub q.cmd = true →
      ∃ t, exec (.suSet c) s = .next t ∧ t.get F.SU_EVT_ILLEGAL c = 1 ∧ (∀ n, n < 32 → t.ctr c n = s.ctr c n))) ∧
  (∀ (s : State) (c p : Nat) (q : QCmd), head s c 0x41 p q → Cmd.badHeader q.cmd = false → oneLoop q.cmd = true → suRsv q.cmd = false →
    s.privChans c (suCtr q.cmd) = [] →
    (suSub q.cmd = false → s.ctr c (suCtr q.cmd) + suValue q.cmd ≤ 0xFFFF → ∃ t, exec (.suAdd c) s = .next t ∧
      t.ctr c (suCtr q.cmd) = s.ctr c (suCtr q.cmd) + suValue q.cmd ∧ other s t c (suCtr q.cmd)) ∧
    (suSub q.cmd = true → suValue q.cmd ≤ s.ctr c (suCtr q.cmd) → ∃ t, exec (.suAdd c) s = .next t ∧
      t.ctr c (suCtr q.cmd) = s.ctr c (suCtr q.cmd) - suValue q.cmd ∧ other s t c (suCtr q.cmd)) ∧
    (suSub q.cmd = false → 0xFFFF < s.ctr c (suCtr q.cmd) + suValue q.cmd → ∃ t, exec (.suAdd c) s = .next t ∧
      t.ctr c (suCtr q.cmd) = 0xFFFF ∧ t.get F.SU_EVT_OVF c = 1 ∧ t.bit F.SU_FLAG_OVF c (suCtr q.cmd) = true) ∧
    (suSub q.cmd = true → s.ctr c (suCtr q.cmd) < suValue q.cmd → ∃ t, exec (.suAdd c) s = .next t ∧
      t.ctr c (suCtr q.cmd) = 0 ∧ t.get F.SU_EVT_UNF c = 1 ∧ t.bit F.SU_FLAG_UNF c (suCtr q.cmd) = true)) ∧
  (∀ (s : State) (c p : Nat) (q : QCmd), head s c 0x42 p q → Cmd.badHeader q.cmd = false → sgRsv q.cmd = false → s.specTask c = none →
    Cmd.iters q.cmd = 1 → s.sgBad q.cmd 0 = false → s.ownMod (sgMod q.cmd) = true → sgWin q.cmd ≠ 8 → sgDcore q.cmd 0 ≠ c →
    let d := sgDcore q.cmd 0
    ∃ t g, exec (.suSignal c) s = .next t ∧ (t.core d).sigIn = (s.core d).sigIn ++ [g] ∧ g.ctr = Cmd.f q.cmd 18 4 0 ∧ g.inc = Cmd.f q.cmd 20 15 0 ∧
      g.win = sgWin q.cmd ∧ g.bytes = Cmd.f q.cmd 24 31 0 ∧ g.score = c ∧ g.due = s.now + sigTime c d ∧ (∀ n, n < 32 → t.ctr c n = s.ctr c n) ∧ t.mem = s.mem) ∧
  (∀ (s : State) (c p : Nat) (q : QCmd), head s c 0x43 p q → Cmd.badHeader q.cmd = false → oneLoop q.cmd = true → bgRsv q.cmd = false →
    (∀ slot, s.gmap c (Cmd.f q.cmd 16 6 0) = some slot → s.get F.SU_BAR_MEMBER c slot = 1 → s.get F.SU_BAR_ARRIVED c slot = 0 →
      ∃ t w, exec (.suBarrier c) s = .next t ∧ t.get F.SU_BAR_ARRIVED c slot = 1 ∧ t.get F.SU_BAR_CTR c slot = Cmd.f q.cmd 17 4 0 ∧
        t.get F.SU_BAR_RMASK c slot = Cmd.f q.cmd 19 7 0 ∧ t.get F.SU_BAR_GEN c slot = s.get F.SU_BAR_GEN c slot ∧
        (t.node (nodeNum (.cluster (dieOf c) (clusterOf c)))).inbox = (s.node (nodeNum (.cluster (dieOf c) (clusterOf c)))).inbox ++ [w] ∧
        w.child = corein c ∧ w.slot = slot ∧ w.gen = s.get F.SU_BAR_GEN c slot ∧ w.count = 1 ∧ w.realign = decide (Cmd.f q.cmd 18 0 0 = 1)) ∧
    (∀ slot, s.gmap c (Cmd.f q.cmd 16 6 0) = some slot → s.get F.SU_BAR_MEMBER c slot = 1 → s.get F.SU_BAR_ARRIVED c slot = 1 →
      exec (.suBarrier c) s = .next s) ∧
    ((s.gmap c (Cmd.f q.cmd 16 6 0) = none ∨ ∃ slot, s.gmap c (Cmd.f q.cmd 16 6 0) = some slot ∧ s.get F.SU_BAR_MEMBER c slot = 0) →
      ∃ t, exec (.suBarrier c) s = .next t ∧ t.get F.SU_EVT_BAR_REFUSED c = 1 ∧ t.nodes = s.nodes))

/-- R366. -/
def Obligations.BarrierReleaseEffect : Prop :=
  let released (s t : State) (c slot : Nat) : Prop :=
    t.get F.SU_BAR_ARRIVED c slot = 0 ∧ t.get F.SU_BAR_GEN c slot = (s.get F.SU_BAR_GEN c slot + 1) % 2 ^ 16 ∧
    t.ctr c (s.get F.SU_BAR_CTR c slot) = min (s.ctr c (s.get F.SU_BAR_CTR c slot) + 1) 0xFFFF ∧
    (∀ n, n < 32 → n ≠ s.get F.SU_BAR_CTR c slot → t.ctr c n = s.ctr c n) ∧
    (∀ u, u ≠ slot → t.rd ⟨.SU_BAR, c, u⟩ = s.rd ⟨.SU_BAR, c, u⟩)
  (∀ (s : State) (c : Nat) (g : Sig) (more : List Sig), (s.core c).rels = g :: more → g.due ≤ s.now →
    (s.releaseDue c g = true → ∃ t, exec (.barrierRelease c) s = .next t ∧ released s t c g.slot ∧ (t.core c).rels = more) ∧
    (s.releaseDue c g = false → ∃ t, exec (.barrierRelease c) s = .next t ∧ t.regs = s.regs ∧ t.mem = s.mem ∧ (t.core c).rels = more)) ∧
  (∀ (s : State) (c slot : Nat) (more : List Nat), (s.core c).sigIn = [] → (s.core c).realign = slot :: more → s.get F.SU_BAR_RMASK c slot = 0 →
    ∃ t, exec (.realignRelease c) s = .next t ∧ released s t c slot ∧ (t.core c).realign = more)

/-- R365, R367, R369, R375. -/
def Obligations.BarrierNodes : Prop :=
  (∀ (s : State) (n : SyncNode) (w : BarWord) (more : List BarWord), (s.node (nodeNum n)).inbox = w :: more → w.due ≤ s.now → s.cfgSettled n = true →
    (s.share n w.slot).stopped = false → bitOf (s.share n w.slot).mask w.child = true →
    (w.ecc = true ∨ ((s.share n w.slot).got ≠ 0 ∧ w.gen ≠ (s.share n w.slot).gen) →
      ∃ t, exec (.barrierArrival n) s = .next t ∧ (t.share n w.slot).stopped = true ∧ t.regs = s.regs ∧ t.cores = s.cores) ∧
    (w.ecc = false → ((s.share n w.slot).got = 0 ∨ w.gen = (s.share n w.slot).gen) → bitOf (s.share n w.slot).got w.child = false →
      ((s.share n w.slot).got + 2 ^ w.child ≠ (s.share n w.slot).mask →
        ∃ t, exec (.barrierArrival n) s = .next t ∧ (t.share n w.slot).got = (s.share n w.slot).got + 2 ^ w.child ∧ (t.share n w.slot).gen = w.gen ∧
          (t.node (nodeNum n)).inbox = more ∧ t.cores = s.cores ∧ t.regs = s.regs) ∧
      (∀ up child d, (s.share n w.slot).got + 2 ^ w.child = (s.share n w.slot).mask → nodeUp n = some (up, child, d) → (s.share up w.slot).mask ≠ 0 →
        nodeNum up ≠ nodeNum n →
        ∃ t v, exec (.barrierArrival n) s = .next t ∧ (t.share n w.slot).got = 0 ∧ (t.node (nodeNum up)).inbox = (s.node (nodeNum up)).inbox ++ [v] ∧
          v.child = child ∧ v.slot = w.slot ∧ v.gen = w.gen ∧ v.due = s.now + d ∧ t.cores = s.cores) ∧
      (∀ d cl x, n = .cluster d cl → (s.share n w.slot).got + 2 ^ w.child = (s.share n w.slot).mask → (s.share (.row d (cl / 8)) w.slot).mask = 0 →
        ((s.share n w.slot).got = 0 ∨ (s.share n w.slot).realign = false) → w.realign = false → x < 16 → bitOf (s.share n w.slot).mask x = true →
        ∃ t g, exec (.barrierArrival n) s = .next t ∧ g ∈ (t.core (d * 1024 + cl * 16 + x)).rels ∧ g.slot = w.slot ∧ g.gen = w.gen ∧
          g.due = s.now + 4))) ∧
  (∀ (s : State) (slot : Nat), s.stoppedNode slot = true → ∃ t, exec (.genMismatchReport slot) s = .next t ∧
    (∀ c, c ∈ s.slotCores slot → t.get F.SU_BAR_FAULTED c slot = 1 ∧
      (s.get F.SU_BAR_FAULTED c slot = 0 → t.get F.SU_EVT_GEN_FAULT c = 1 ∧ t.get F.CC_TASK_STATUS_ABORTED c = 1))) ∧
  (∀ (s : State) (n : SyncNode) (w : Nat) (more : List Nat), (s.node (nodeNum n)).cfg = w :: more →
    (bitsOf w 55 54 = 0 → ∃ t, exec (.barrierConfig n) s = .next t ∧ t.share n (bitsOf w 61 56) = { mask := bitsOf w 44 29 } ∧
      (t.node (nodeNum n)).cfg = more ∧ t.regs = s.regs ∧ t.cores = s.cores) ∧
    (bitsOf w 55 54 = 1 → ∃ t, exec (.barrierConfig n) s = .next t ∧ t.share n (bitsOf w 61 56) = {} ∧ (t.node (nodeNum n)).cfg = more ∧
      t.regs = s.regs ∧ t.cores = s.cores)) ∧
  (∀ (s : State) (c slot n : Nat) (more : List Nat), (s.core c).sigIn = [] → (s.core c).realign = slot :: more → n < 8 →
    s.get F.SU_BAR_RMASK c slot = 2 ^ n → s.get F.SU_CCH_EN c n = 1 → s.get F.SU_CCH_PRIV c n = 0 →
    (s.core c).slots.any (fun g => decide (s.get F.SU_CCH_CTR c n = g.ctr)) = false → s.get F.SU_CCH_CTR c n ≠ s.get F.SU_BAR_CTR c slot →
    ∃ t, exec (.realignRelease c) s = .next t ∧ t.ctr c (s.get F.SU_CCH_CTR c n) = s.get F.SU_CCH_REST c n ∧ t.get F.SU_BAR_ARRIVED c slot = 0 ∧
      (s.ctr c (s.get F.SU_CCH_CTR c n) ≠ s.get F.SU_CCH_REST c n → t.get F.SU_CCH_DRIFT c n = min (s.get F.SU_CCH_DRIFT c n + 1) 0xFFFF))

/-! ### Links and the module fabric (11_evpen_links.md) -/

/-- R393 to R396. `down` is what going DOWN leaves. -/
def Obligations.LinkTraining : Prop :=
  let down (s t : State) (n : Nat) : Prop := t.linkState n = 0 ∧ t.get F.EVL_STATUS_RATE n = 0 ∧ t.get F.EVL_EVT_DOWN n = 1 ∧ t.admitted n = false ∧
    (∀ vc, vc < 4 → t.get (credField vc) n = 0) ∧ t.get F.EVL_REPLAY_NEXT_SEQ n = 0 ∧ (t.link n).tx = [] ∧ (t.link n).replay = [] ∧
    (t.link n).rx = [] ∧ (t.link n).rxq = (s.link n).rxq ∧ t.mem = s.mem
  let retrained (s t : State) (n : Nat) : Prop := t.linkState n = 4 ∧ (t.link n).retrain = true ∧ (t.link n).replay = (s.link n).replay ∧
    t.get F.EVL_EVT_RETRAIN n = 1 ∧ t.get F.EVL_STATUS_RETRAINS n = min (s.get F.EVL_STATUS_RETRAINS n + 1) 0xFFFF
  (∀ (s : State) (n : Nat), s.linkMay n = true → s.linkState n = 0 →
    exec (.linkSignalDetect n) s = .next (s.set F.EVL_STATUS_STATE n 1) ∧
    ((s.link n).downAt + 190000000 ≤ s.now → exec (.detectRetry n) s = .next (s.set F.EVL_STATUS_STATE n 1))) ∧
  (∀ (s : State) (n : Nat), s.linkState n = 1 →
    exec (.laneLock n) s = .next ((s.set F.EVL_STATUS_STATE n 2).set F.EVL_STATUS_RATE n 1) ∧ ∃ t, exec (.detectTimeout n) s = .next t ∧ down s t n) ∧
  (∀ (s : State) (n : Nat), s.linkState n = 2 →
    exec (.trainComplete n) s = .next (s.set F.EVL_STATUS_STATE n 3) ∧ ∃ t, exec (.trainTimeout n) s = .next t ∧ down s t n) ∧
  (∀ (s : State) (n : Nat) (cap : CapWord), s.linkState n = 3 →
    (cap.ok = true → ∃ t, exec (.exchange n cap) s = .next t ∧ t.linkState n = 4 ∧ (t.link n).retrain = (s.link n).retrain ∧
      t.get F.EVL_STATUS_RATE n = (if s.get F.EVL_CFG_MAX_RATE n = 3 ∧ cap.evl3 = true then 3 else 2) ∧
      t.get F.EVL_STATUS_PARTNER_MOD n = cap.partner % 2 ^ 16 ∧ t.get F.EVL_STATUS_PARTNER_LINK n = cap.link % 2 ^ 6 ∧
      (∀ vc, vc < 4 → t.get (credField vc) n = cap.bufs.getD vc 0 % 2 ^ 16) ∧ (∀ m, m ≠ n → t.link m = s.link m) ∧ t.mem = s.mem) ∧
    (cap.ok = false → exec (.exchange n cap) s = .next s)) ∧
  (∀ (s : State) (n u : Nat) (pass : Bool), s.linkState n = 4 → (s.link n).retrain = false →
    (pass = true → u = 0 → ∃ t, exec (.rateResult n pass u) s = .next t ∧ t.linkState n = 5 ∧ t.links = s.links ∧
      t.get F.EVL_STATUS_RATE n = s.get F.EVL_STATUS_RATE n) ∧
    (pass = false ∨ u ≠ 0 → s.get F.EVL_STATUS_RATE n = 3 → ∃ t, exec (.rateResult n pass u) s = .next t ∧ t.linkState n = 4 ∧
      t.get F.EVL_STATUS_RATE n = 2 ∧ t.get F.EVL_EVT_FALLBACK n = 1 ∧ t.links = s.links) ∧
    (pass = false ∨ u ≠ 0 → s.get F.EVL_STATUS_RATE n ≠ 3 → ∃ t, exec (.rateResult n pass u) s = .next t ∧ down s t n)) ∧
  (∀ (s : State) (n q : Nat), s.linkState n = 4 → (s.link n).retrain = true →
    (∃ t, exec (.retrainComplete n true q) s = .next t ∧ t.linkState n = 5 ∧ (t.link n).retrain = false ∧ t.admitted n = false ∧
      (∀ f, f ∈ (t.link n).replay ↔ (f ∈ (s.link n).replay ∧ 2048 ≤ ((q + 4095) % 4096 + 4096 - f.seq) % 4096)) ∧
      (t.link n).tx = (s.link n).tx ∧ (t.link n).rxq = (s.link n).rxq) ∧
    ∃ t, exec (.retrainComplete n false q) s = .next t ∧ down s t n) ∧
  (∀ (s : State) (n : Nat), s.linkState n ≠ 0 → ∃ t, exec (.lossOfSignal n) s = .next t ∧ down s t n) ∧
  (∀ (s : State) (n lanes : Nat), s.linkActive n = true → lanes < 16 →
    (lanes ≠ 0 → lanes ≠ 15 → ∃ t, exec (.laneSignalLoss n lanes) s = .next t ∧ retrained s t n) ∧
    (lanes = 15 → ∃ t, exec (.laneSignalLoss n lanes) s = .next t ∧ down s t n)) ∧
  (∀ (s : State) (n : Nat) (v : Word), s.reach .hub .EVL n = true → n < 36 →
    ∃ t, exec (.evlEnWrite .hub n v) s = .next t ∧ t.bus = .written ∧ t.get F.EVL_CFG_EN n = F.EVL_CFG_EN.of v ∧
      t.get F.EVL_CFG_ACK_TIMEOUT n = F.EVL_CFG_ACK_TIMEOUT.of v ∧
      (F.EVL_CFG_EN.of v = 0 → s.linkState n ≠ 0 → down s t n) ∧ (F.EVL_CFG_EN.of v = 1 → t.links = s.links ∧ t.linkState n = s.linkState n))

/-- R398 to R407. -/
def Obligations.FlitExchange : Prop :=
  let whole (f : FlitIn) (k : Nat) : Prop := f.crcOk = true ∧ f.ucw = false ∧ f.ftype = k
  let timeless (p : Packet) : Packet := { p with due := 0 }
  let covered (s t : State) (n : Nat) (f : FlitIn) : Prop := (t.link n).replay = ackDrop f.ack (s.link n).replay
  (∀ (s : State) (n : Nat) (f : FlitIn), s.linkActive n = true → whole f 0 → f.vc < 4 → f.nak = false → f.body ≠ [] →
    (f.firstPtr = 0xFF ∨ f.firstPtr < f.body.length) →
    (f.seq = (s.link n).eseq → vcGet (s.link n).grant f.vc ≠ 0 → s.pertCredit n f.vc = false →
      ∃ t, exec (.dataFlitReceive n f) s = .next t ∧ t.linkActive n = true ∧ (t.link n).eseq = ((s.link n).eseq + 1) % 4096 ∧ covered s t n f ∧
        vcGet (t.link n).grant f.vc = vcGet (s.link n).grant f.vc - 1 ∧ vcGet (t.link n).ret f.vc = vcGet (s.link n).ret f.vc + 1 ∧
        (let r := decodeAll f.vc (f.body.length + 1) (lookD [] (s.link n).rx f.vc ++ f.body)
         (lookD [] (t.link n).rxq f.vc).map timeless = (lookD [] (s.link n).rxq f.vc ++ r.1).map timeless ∧ lookD [] (t.link n).rx f.vc = r.2) ∧
        (∀ m, m ≠ n → t.link m = s.link m) ∧ t.mem = s.mem) ∧
    (f.seq = (s.link n).eseq → vcGet (s.link n).grant f.vc = 0 →
      ∃ t, exec (.dataFlitReceive n f) s = .next t ∧ t.linkState n = 0 ∧ t.get F.EVL_EVT_CREDIT_OVER n = 1 ∧ t.get F.EVL_EVT_SEQ_ERR n = 1) ∧
    (f.seq ≠ (s.link n).eseq → (s.link n).nakWait = false → f.seq < 4096 → (s.link n).eseq < 4096 →
      (((s.link n).eseq + 4096 - f.seq) % 4096 ≤ 2048 → ∃ t, exec (.dataFlitReceive n f) s = .next t ∧ t.linkActive n = true ∧
        (t.link n).eseq = (s.link n).eseq ∧ (t.link n).rxq = (s.link n).rxq ∧ (t.link n).rx = (s.link n).rx ∧ covered s t n f) ∧
      (2048 < ((s.link n).eseq + 4096 - f.seq) % 4096 →
        ∃ t, exec (.dataFlitReceive n f) s = .next t ∧ t.linkState n = 0 ∧ t.get F.EVL_EVT_SEQ_ERR n = 1))) ∧
  (∀ (s : State) (n : Nat) (f : FlitIn), s.linkActive n = true → f.crcOk = false → f.ucw = false → (s.link n).nakWait = false →
    ∃ t, exec (.dataFlitReceive n f) s = .next t ∧ exec (.idleFlitReceive n f) s = .next t ∧ t.linkActive n = true ∧ (t.link n).nakDue = true ∧
      (t.link n).nakWait = true ∧ (t.link n).eseq = (s.link n).eseq ∧ (t.link n).rxq = (s.link n).rxq ∧ (t.link n).replay = (s.link n).replay ∧
      t.get F.EVL_EVT_CRC_FAIL n = 1 ∧ t.get F.EVL_ERR_CNT_CRC n = min (s.get F.EVL_ERR_CNT_CRC n + 1) 0xFFFF) ∧
  (∀ (s : State) (n : Nat) (f : FlitIn), s.linkActive n = true → whole f 1 →
    (f.nak = false → ∃ t, exec (.idleFlitReceive n f) s = .next t ∧ covered s t n f ∧ (t.link n).eseq = (s.link n).eseq ∧
      (t.link n).rxq = (s.link n).rxq ∧ t.linkActive n = true ∧
      (f.credVc < 4 → 0 < f.credN → t.get (credField f.credVc) n = min 0xFFFF (s.get (credField f.credVc) n + f.credN))) ∧
    (f.nak = true → ∃ t, exec (.idleFlitReceive n f) s = .next t ∧ covered s t n f ∧
      (t.link n).resend = ((ackDrop f.ack (s.link n).replay).head?).map (fun g => g.seq))) ∧
  (∀ (s : State) (n : Nat), s.linkActive n = true →
    (∀ q f, (s.link n).resend = some q → (s.link n).replay.find? (fun f => decide (f.seq = q)) = some f →
      ∃ t g, exec (.flitTransmit n) s = .next t ∧ t.out = s.out ++ [.linkFlit n g] ∧ g.ftype = 0 ∧ g.seq = f.seq ∧ g.vc = f.vc ∧ g.body = f.body ∧
        g.firstPtr = f.firstPtr ∧ (t.link n).replay = (s.link n).replay ∧ (t.link n).tx = (s.link n).tx) ∧
    (∀ vc p, (s.link n).resend = none → (s.link n).replay.length < 2048 → s.txVc n = some vc → lookD [] (s.link n).tx vc = [{ p := p }] →
      (encodePacket p).length ≤ 245 → p.vc = vc →
      ∃ t g, exec (.flitTransmit n) s = .next t ∧ t.out = s.out ++ [.linkFlit n g] ∧ g.ftype = 0 ∧ g.crcOk = true ∧ g.vc = vc ∧
        g.seq = s.get F.EVL_REPLAY_NEXT_SEQ n ∧ g.body = encodePacket p ∧ g.firstPtr = 0 ∧ g.ack = ((s.link n).eseq + 4095) % 4096 ∧
        (t.link n).replay = (s.link n).replay ++ [g] ∧ lookD [] (t.link n).tx vc = [] ∧
        t.get F.EVL_REPLAY_NEXT_SEQ n = (s.get F.EVL_REPLAY_NEXT_SEQ n + 1) % 4096 ∧ t.get (credField vc) n = s.get (credField vc) n - 1) ∧
    ((s.link n).resend = none → s.txVc n = none ∨ 2048 ≤ (s.link n).replay.length →
      ∃ t g, exec (.flitTransmit n) s = .next t ∧ t.out = s.out ++ [.linkFlit n g] ∧ g.ftype = 1 ∧ g.body = [] ∧ g.nak = (s.link n).nakDue ∧
        g.ack = ((s.link n).eseq + 4095) % 4096 ∧ (t.link n).replay = (s.link n).replay ∧ (t.link n).tx = (s.link n).tx) ∧
    ((s.link n).replay ≠ [] → (s.link n).ackAt + max 1 (s.get F.EVL_CFG_ACK_TIMEOUT n) * 1900 ≤ s.now → ∃ t, exec (.ackTimeout n) s = .next t ∧ t.linkState n = 4 ∧ (t.link n).retrain = true ∧
      t.get F.EVL_EVT_RETRAIN n = 1 ∧ t.now = s.now) ∧
    (∀ vc at_, vc < 4 → find? (s.link n).zero vc = some at_ → at_ + 190000 ≤ s.now → ∃ t, exec (.creditStall n vc) s = .next t ∧ t.get F.EVL_EVT_CREDIT_STALL n = 1 ∧
      t.now = s.now ∧ t.links = s.links))

/-- R408, R409: decode of encode over a link, for one packet and for a stream. -/
def Obligations.PacketsOverLinks : Prop :=
  let fits (p : Packet) : Prop := p.vc < 3 ∧ p.typ < 16 ∧ p.src < 4096 ∧ p.tag < 2 ^ 18 ∧ p.bop < 8 ∧ p.fmt < 16 ∧ p.status < 16 ∧ p.reason < 8 ∧
    p.mod < 2 ^ 16 ∧ p.addr < 2 ^ 48 ∧ p.rtag < 2 ^ 16 ∧ p.count < 2 ^ 16 ∧ p.imm < 2 ^ 32 ∧ p.smod < 2 ^ 16 ∧
    (if p.typ = 7 then p.red < 2 ^ 38 else p.red = 0) ∧
    (if carries p.typ ∧ msuOnly p = false then 1 ≤ p.payload.length ∧ p.payload.length ≤ 256 ∧ p.len = opTarget p.typ p.bop p.fmt p.addr p.payload.length
     else p.payload = [] ∧ 1 ≤ p.len ∧ (if p.typ = 0 ∨ msuOnly p then p.len ≤ 256 else p.len = 1))
  let arrives (p : Packet) : Packet := { p with dnode := 0, snode := 0, sdie := 0, payload := wirePayload p, due := 0 }
  let small (p : Packet) : Prop := p.vc = 3 ∧ (p.typ = 16 ∨ p.typ = 17) ∧ p.mod < 2 ^ 16 ∧ p.smod < 2 ^ 16 ∧ 1 ≤ p.payload.length ∧ p.payload.length ≤ 256
  (∀ (p : Packet) (more : List Byte), fits p → decodePacket p.vc (encodePacket p ++ more) = some (arrives p, more)) ∧
  (∀ (p : Packet) (more : List Byte), small p → decodePacket 3 (encodePacket p ++ more) =
    some ({ typ := p.typ, vc := 3, dnode := 0, snode := 0, src := 0, tag := 0, len := p.payload.length, mod := p.mod, smod := p.smod,
            payload := p.payload }, more)) ∧
  (∀ (l : List Packet) (vc : Nat), (∀ p ∈ l, fits p ∧ p.vc = vc) → decodeAll vc (l.length + 1) (l.flatMap encodePacket) = (l.map arrives, []))

/-- R408 to R418, R572. -/
def Obligations.HubForwards : Prop :=
  let head (s : State) (k vc : Nat) (p : Packet) (more : List Packet) : Prop := lookD [] (s.link k).rxq vc = p :: more ∧ s.admitted k = true ∧ p.typ ≠ 8
  let popped (t : State) (k vc : Nat) (more : List Packet) : Prop := lookD [] (t.link k).rxq vc = more
  (∀ (s : State) (k vc : Nat) (p : Packet) (more : List Packet), lookD [] (s.link k).rxq vc = p :: more → s.admitted k = false →
    ∃ t, exec (.linkPacketForward k vc) s = .next t ∧ popped t k vc more ∧ t.get F.EVL_COM_EVT_UNROUTABLE 36 = 1 ∧
      t.get F.EVL_DROP_CNT_UNROUTABLE 36 = min (s.get F.EVL_DROP_CNT_UNROUTABLE 36 + 1) (2 ^ F.EVL_DROP_CNT_UNROUTABLE.width - 1) ∧ t.mem = s.mem ∧
      t.stq = s.stq ∧ t.hubTags = s.hubTags) ∧
  (∀ (s : State) (k vc n : Nat) (alt : Bool) (p : Packet) (more : List Packet), head s k vc p more → (vc = 3 → p.typ = 16 ∨ p.typ = 17) →
    s.ownMod p.mod = false → s.routeLink p.mod = some (n, alt) →
    ∃ t, exec (.linkPacketForward k vc) s = .next t ∧ popped t k vc more ∧ lookD [] (t.link n).tx p.vc = lookD [] (s.link n).tx p.vc ++ [{ p := p }] ∧
      (alt = true → t.get F.EVL_COM_EVT_ROUTE_ALT 36 = 1) ∧ t.mem = s.mem ∧ t.stq = s.stq ∧ t.hubTags = s.hubTags) ∧
  (∀ (s : State) (k : Nat) (p : Packet) (more : List Packet), head s k 1 p more → s.ownMod p.mod = false → s.routeLink p.mod = none →
    k < 36 → p.vc < 4 → p.mod < 2 ^ 16 → p.smod < 2 ^ 16 →
    ∃ t, exec (.linkPacketForward k 1) s = .next t ∧ popped t k 1 more ∧ t.get F.EVL_COM_EVT_UNROUTABLE 36 = 1 ∧
      t.get F.EVL_UNROUT_LOG_VALID 36 = 1 ∧ t.stq = s.stq) ∧
  (∀ (s : State) (k vc tag : Nat) (p : Packet) (more : List Packet), head s k vc p more → vc = 0 ∨ vc = 2 → s.ownMod p.mod = true → p.typ ≤ 7 →
    p.addr < 2 ^ 48 → s.far p.addr = .hbm ∨ (∃ c, s.far p.addr = .core c) → s.specR1 (0xFFFF * 2 ^ 48 + p.addr) = false →
    s.specAddr 64 s.specCurs (0xFFFF * 2 ^ 48 + p.addr) = 0xFFFF * 2 ^ 48 + p.addr → (p.typ = 2 → p.bop ≠ 6) →
    let die := (s.bridgeFor p.addr).1
    let col := (s.bridgeFor p.addr).2
    (s.freeHubTag = some tag →
      ∃ t q h, exec (.linkPacketForward k vc) s = .next t ∧ popped t k vc more ∧ t.hubTags = s.hubTags ++ [h] ∧ h.tag = tag ∧ h.kind = 1 ∧ h.p = p ∧
        h.link = k ∧ lookD [] t.stq (nodeKey die (0x40 + col)) = lookD [] s.stq (nodeKey die (0x40 + col)) ++ [q] ∧ q.tag = tag ∧ q.src = 0x800 ∧
        q.typ = p.typ ∧ q.addr = p.addr ∧ q.payload = p.payload ∧ q.snode = 0x40 + col ∧ q.sdie = die ∧ t.mem = s.mem) ∧
    (s.freeHubTag = none → exec (.linkPacketForward k vc) s = .next (s.flag F.EVL_COM_EVT_TAG_STALL 36))) ∧
  (∀ (s : State) (k : Nat) (p : Packet) (more : List Packet), head s k 1 p more → s.ownMod p.mod = true →
    (∀ h, s.hubTag p.tag = some h → h.kind = 0 → ∃ t a, exec (.linkPacketForward k 1) s = .next t ∧ popped t k 1 more ∧ t.hubTag p.tag = none ∧
      lookD [] t.stq (nodeKey h.p.sdie (0x40 + nodeCol h.p.snode)) = lookD [] s.stq (nodeKey h.p.sdie (0x40 + nodeCol h.p.snode)) ++ [a] ∧
      a.typ = p.typ ∧ a.status = p.status ∧ a.reason = p.reason ∧ a.payload = p.payload ∧ a.tag = h.p.tag ∧ a.src = h.p.src ∧ a.dnode = h.p.snode) ∧
    (s.hubTag p.tag = none → ∃ t, exec (.linkPacketForward k 1) s = .next t ∧ popped t k 1 more ∧ t.get F.EVL_COM_EVT_LATE_ANSWER 36 = 1 ∧
      t.stq = s.stq ∧ t.hubTags = s.hubTags)) ∧
  (∀ (s : State) (k : Nat) (p : Packet) (more : List Packet), head s k 3 p more → s.ownMod p.mod = true →
    (p.typ = 17 → ∃ t, exec (.linkPacketForward k 3) s = .next t ∧ popped t k 3 more ∧ t = { s with links := t.links }) ∧
    (p.typ = 16 → let g := sigOf p.smod (s.now + 39) p.payload
      g.win ≠ 8 → ∃ t, exec (.linkSignal k) s = .next t ∧ popped t k 3 more ∧ (t.core g.dcore).sigIn = (s.core g.dcore).sigIn ++ [g] ∧
        t.regs = s.regs ∧ t.mem = s.mem)) ∧
  (∀ (s : State) (tag : Nat) (h : HubTag), s.hubTag tag = some h → h.kind = 0 → h.at_ + max 1 (s.get F.EVL_TAG_CFG_TIMEOUT 36) * 19000 ≤ s.now →
    ∃ t a, exec (.hubTagTimeout tag) s = .next t ∧ t.hubTag tag = none ∧ t.get F.EVL_COM_EVT_TAG_TIMEOUT 36 = 1 ∧
      t.get F.EVL_DROP_CNT_TIMEOUT 36 = min (s.get F.EVL_DROP_CNT_TIMEOUT 36 + 1) (2 ^ F.EVL_DROP_CNT_TIMEOUT.width - 1) ∧
      lookD [] t.stq (nodeKey h.p.sdie (0x40 + nodeCol h.p.snode)) = lookD [] s.stq (nodeKey h.p.sdie (0x40 + nodeCol h.p.snode)) ++ [a] ∧
      a.reason = rUNROUTABLE ∧ a.typ = (if h.p.typ = 8 then 9 else 5) ∧ a.tag = h.p.tag ∧ a.src = h.p.src ∧
      t.now = s.now ∧ t.mem = s.mem)

/-- R420 to R422; `idx` is the arrival link, 63 for this module's cores. -/
def Obligations.HubMulticast : Prop :=
  ∀ (s : State) (idx : Nat) (p : Packet), s.vc2Head idx = some p → p.typ = 8 → p.vc = 2 → (idx = 63 ∨ s.admitted idx = true) →
    let g := p.mod - 0x8000
    let entry : Prop := 0x8000 ≤ p.mod ∧ p.mod < 0x9000 ∧ s.get F.EVL_MC_VALID 36 g = 1 ∧ s.get F.EVL_MC_IN_LINK 36 g = idx
    let branch (n : Nat) : Prop := n < 36 ∧ bitOf (s.get F.EVL_MC_OUT 36 g) n = true
    let room (n : Nat) : Prop := s.linkUp n = true ∧ txBodies (lookD [] (s.link n).tx 2 ++ [{ p := p }]) ≤ s.get F.EVL_CRED_VC2 n
    (∀ tag, entry → (∀ n, branch n → room n) → (idx = 63 ∨ s.get F.EVL_MC_LOCAL 36 g = 1) → (∃ n, branch n) → s.freeHubTag = some tag →
      (s.get F.EVL_MC_LOCAL 36 g = 1 → s.hubUnmapped p.addr = false ∧ s.far p.addr ≠ .host) →
      ∃ t q h, exec (.hubMcForward idx) s = .next t ∧ q.tag = tag ∧ q.src = 0x800 ∧ q.payload = p.payload ∧ q.addr = p.addr ∧ q.mod = p.mod ∧
        (∀ n, branch n → lookD [] (t.link n).tx 2 = lookD [] (s.link n).tx 2 ++ [{ p := q }]) ∧
        (∀ n, ¬ branch n → (t.link n).tx = (s.link n).tx) ∧ t.hubTags = s.hubTags ++ [h] ∧ h.tag = tag ∧ h.kind = 2 ∧ h.p = p ∧ h.link = idx ∧
        h.left = ((List.range 36).filter (fun n => bitOf (s.get F.EVL_MC_OUT 36 g) n)).length + s.get F.EVL_MC_LOCAL 36 g ∧
        (s.get F.EVL_MC_LOCAL 36 g = 1 → let b := s.bridgeFor p.addr
          ∃ x, x ∈ lookD [] t.stq (nodeKey b.1 (0x40 + b.2)) ∧ x.tag = tag ∧ x.src = 0x800 ∧ x.payload = p.payload) ∧
        (s.get F.EVL_MC_LOCAL 36 g = 0 → t.stq = s.stq) ∧ t.mem = s.mem) ∧
    (entry → (∃ n, branch n ∧ s.linkUp n = true ∧ s.get F.EVL_CRED_VC2 n < txBodies (lookD [] (s.link n).tx 2 ++ [{ p := p }])) →
      exec (.hubMcForward idx) s = .next s) ∧
    (entry → idx = 63 → s.freeHubTag = none → exec (.hubMcForward idx) s = .next s) ∧
    (¬ entry → idx = 63 → ∃ t a, exec (.hubMcForward idx) s = .next t ∧ t.get F.EVL_COM_EVT_MC_DROP 36 = 1 ∧ t.links = s.links ∧ t.hubTags = s.hubTags ∧
      lookD [] t.stq (nodeKey p.sdie (0x40 + nodeCol p.snode)) = lookD [] s.stq (nodeKey p.sdie (0x40 + nodeCol p.snode)) ++ [a] ∧
      a.typ = 9 ∧ a.reason = rUNMAPPED ∧ a.tag = p.tag ∧ a.src = p.src)

/-! ### Faulty routers, and the decision on an aborted task (09 R319 to R330, 15 R542 to R546) -/

/-- R319, R321, R329, R330. -/
def Obligations.FaultyRouters : Prop :=
  (∀ (s : State) (die cl port vc dnode : Nat) (kind : RouterFaultKind), die < 2 → cl < 48 → (s.router (48 * die + cl)).faulty = false →
    let i := 48 * die + cl
    ∃ t, exec (.routerFault die cl kind port vc dnode) s = .next t ∧ t.router i = { s.router i with faulty := true } ∧
      (∀ j, j ≠ i → t.router j = s.router j) ∧ (kind = .ecc → t.get F.MESH_EVT_ECC i = 1) ∧
      (kind = .routeMismatch → t.get F.MESH_EVT_ROUTE_MISMATCH i = 1) ∧ t.get F.MESH_FAULT_LOG_VALID i = 1 ∧
      (∀ k x, s.task? k = some x → s.taskOnDie die x = true → x.abort = none → s.taskState k = tsRUNNING →
        t.taskState k = tsENDING ∧ ∀ c, c ∈ x.coreIds → t.get F.CC_TASK_STATUS_ABORTED c = 1)) ∧
  (∀ (s : State) (bridge lane : Nat), bridge < 3 → lane < (if bridge = 0 then 16 else 8) →
    let n := lookD 0 s.laneRetry (16 * bridge + lane)
    (n + 1 < 16 → ∃ t, exec (.bridgeCrcRetry bridge lane) s = .next t ∧ t = { s with laneRetry := t.laneRetry } ∧
      lookD 0 t.laneRetry (16 * bridge + lane) = n + 1) ∧
    (15 ≤ n → ∃ t, exec (.bridgeCrcRetry bridge lane) s = .next t ∧
      (bridge = 0 → (t.router (lane / 2)).faulty = true ∧ (t.router (48 + lane / 2)).faulty = true) ∧
      (bridge ≠ 0 → (t.router (48 * (bridge - 1) + 40 + lane)).faulty = true))) ∧
  (∀ (s : State) (die : Nat), die < 2 → s.drainPending die = true → s.dieRest die = 0 →
    ∃ t, exec (.meshDrainComplete die) s = .next t ∧ t.drainPending die = false ∧
      (∀ cl, cl < 48 → (t.router (48 * die + cl)).inq = [] ∧ (t.router (48 * die + cl)).outq = [] ∧
        ((s.router (48 * die + cl)).faulty = true → ∀ n, n < 16 → t.fenced (coreId (48 * die + cl) n) = true)) ∧
      (∀ node, node < 0x58 → lookD [] t.stq (nodeKey die node) = []) ∧
      (∀ x node, x < 48 → node < 0x58 →
        t.route die x node = westFirst (s.deadRouters die) (ensTable (s.deadRouters die) (nodeRow node * 8 + nodeCol node)) x node))

/-- R529, R542 to R546. With no event ring registered, the event waits in the hub's store. -/
def Obligations.TakeoverDecision : Prop :=
  let ended (s t : State) (k : Nat) (x : TaskSt) (status cause : Nat) : Prop := t.task? k = none ∧ t.get F.HUBC_TASK_VALID 0 k = 0 ∧
    (∀ c, c ∈ x.coreIds → (t.core c).slot ≠ k) ∧ (s.rings = [] → s.events.length < 128 →
      ∃ ev, t.events = s.events ++ [ev] ∧ ev.kind = 2 ∧ ev.mbx = x.mbx ∧ ev.tag = x.tag ∧ ev.record.take 2 = leBytes 1 status ++ leBytes 1 cause)
  let reloads (s t : State) (k : Nat) (x : TaskSt) (m : List (Nat × Nat)) : Prop := t.taskState k = tsRESUMING ∧
    (∃ r, t.loadQ = s.loadQ ++ [r] ∧ r.occ = 3 ∧ r.task = some k ∧ r.addr = x.desc.imageAddr ∧ r.remap = m) ∧ (∃ y, t.task? k = some y ∧ y.loading = true ∧
      y.cores = x.cores) ∧ t.mem = s.mem ∧ t.cores = s.cores
  (∀ (s : State) (k l cause : Nat) (x : TaskSt), k < 64 → s.task? k = some x → x.abort = some (l, cause) → cause < 16 → s.taskState k = tsENDING → x.moving = false →
    x.loading = false → s.taskDrained x = true → s.drainPending 0 = false → s.drainPending 1 = false → x.reg = 0 → x.resident = false →
    (x.coreIds.all (fun c => decide (s.get F.CC_TASK_STATUS_SEEN c = 0))) = true →
    (x.why = 1 → ∃ t, exec (.takeoverDecision k) s = .next t ∧ ended s t k x 3 8) ∧
    (x.why ≠ 1 → eligible x cause = false → ∃ t, exec (.takeoverDecision k) s = .next t ∧ ended s t k x 2 cause) ∧
    (x.why ≠ 1 → eligible x cause = true → max 1 x.desc.resumeMax ≤ s.get F.HUBC_TASK_RESUMES 0 k →
      ∃ t, exec (.takeoverDecision k) s = .next t ∧ ended s t k x 6 cause) ∧
    (x.why ≠ 1 → eligible x cause = true → s.get F.HUBC_TASK_RESUMES 0 k < max 1 x.desc.resumeMax →
      ((x.coreIds.all (fun c => !(s.fenced c))) = true → x.tried = [] → ∃ t, exec (.takeoverDecision k) s = .next t ∧ reloads s t k x x.cores) ∧
      ((x.coreIds.all (fun c => !(s.fenced c))) = false →
        (∀ m, s.remapTask x = some m → ∃ t, exec (.takeoverDecision k) s = .next t ∧ reloads s t k x m) ∧
        (s.remapTask x = none → x.desc.spareMod = false → ∃ t, exec (.takeoverDecision k) s = .next t ∧ ended s t k x 4 cause)))) ∧
  (∀ (s : State) (k : Nat), (∀ x, s.task? k = some x → x.abort = none ∨ s.taskDrained x = false ∨ s.taskState k ≠ tsENDING) →
    exec (.takeoverDecision k) s = .next s)

/-! ### Tasks, speculation and checkpoints (15_tasks_speculation_checkpoints.md) -/

/-- R524 to R526, R568, for programs whose clusters are on. -/
def Obligations.TaskStart : Prop :=
  let runs (s t : State) (k : Nat) (d : TaskDesc) (p : Prog) (mbx : Option Nat) (tag : Nat) : Prop :=
    t.taskState k = tsRUNNING ∧ t.get F.HUBC_TASK_VALID 0 k = 1 ∧ t.get F.HUBC_TASK_SPEC 0 k = b2n d.spec ∧
    (∃ y, t.task? k = some y ∧ y.prog = d.progId ∧ y.cores = p.cores ∧ y.mbx = mbx ∧ y.tag = tag ∧ y.desc = d ∧ y.abort = none ∧ y.exited = []) ∧
    (∀ l c, (l, c) ∈ p.cores → (t.core c).slot = k ∧ (t.core c).logical = l ∧ t.get F.CC_STATE_STATE c = 1 ∧ t.rd ⟨.CC_TASK_STATUS, c, 0⟩ = 0 ∧
      t.get F.VE_SEED_SEED c = d.seed % 2 ^ 64 ∧ (∀ i, p.img.cores.find? (fun i => decide (i.logical = l)) = some i → (t.core c).pc = i.entry)) ∧
    (∀ j, j ≠ k → t.task? j = s.task? j)
  let free (s : State) (k : Nat) (d : TaskDesc) (p : Prog) : Prop := s.startRefused d = none ∧ s.progOf d.progId = some p ∧
    (List.range 64).find? (fun j => (s.task? j).isNone) = some k ∧ (p.cores.map Prod.snd).Nodup ∧ (∀ x, x ∈ p.cores → s.clusterOn (cluInst x.2) = true)
  let calm (s : State) : Prop := s.drainPending 0 = false ∧ s.drainPending 1 = false ∧ s.shedding = false
  (∀ (s u : State) (m tag : Nat) (a : List Nat) (ext : List Byte), calm s → s.takeReq m 0x14 = some (tag, a, u) →
    (a.length = 2 → s.tripped = false → s.argAddr (arg64 a 0) 64 ≠ .bad →
      let d := descOf (s.argRead (s.argAddr (arg64 a 0) 64) 64 ext)
      (d.ok = true → ∀ k p, free s k d p → ∃ t, exec (.start m ext) s = .next t ∧ runs s t k d p (some m) tag ∧
        t.hst.resp = s.hst.resp ++ [(m, [0x14 * 2 ^ 24 + tag * 2 ^ 16 + 1])] ∧ t.hst.mbx = u.hst.mbx) ∧
      (d.ok = true → ∀ k, s.startRefused d = some k → ∃ t, exec (.start m ext) s = .next t ∧
        t.hst.resp = s.hst.resp ++ [(m, [0x14 * 2 ^ 24 + tag * 2 ^ 16 + 1])] ∧ t.tasks = s.tasks ∧ t.cores = s.cores ∧
        (s.rings = [] → s.events.length < 128 → t.events = s.events ++ [{ kind := 2, mbx := some m, tag := tag, record := refusedRecord d.progId k }])) ∧
      (d.ok = false → exec (.start m ext) s = .next (u.respond m 0x14 tag 3))) ∧
    (a.length ≠ 2 → exec (.start m ext) s = .next (u.respond m 0x14 tag 3)) ∧
    (a.length = 2 → s.tripped = true → exec (.start m ext) s = .next (u.respond m 0x14 tag 7)) ∧
    (a.length = 2 → s.tripped = false → s.argAddr (arg64 a 0) 64 = .bad → exec (.start m ext) s = .next (u.respond m 0x14 tag 8))) ∧
  (∀ (s : State) (m : Nat) (ext : List Byte), s.drainPending 0 = true ∨ s.drainPending 1 = true ∨ s.shedding = true → exec (.start m ext) s = .next s) ∧
  (∀ (s : State) (bs : List Byte) (img : Image) (k : Nat) (p : Prog), calm s → s.tripped = false → s.get F.NVCF_STATUS_READY 0 = 1 → s.start.resLoad = 2 →
    s.start.cfg.bind CfgImage.resident = some (img, bs) → free s k (descOf bs) p →
    ∃ t, exec .residentTaskStart s = .next t ∧ t.start.resLoad = 4 ∧ runs s t k (descOf bs) p none 0)

/-- R528, R529, R537, R550. -/
def Obligations.TaskEnd : Prop :=
  let gone (t : State) (k : Nat) (x : TaskSt) : Prop := t.task? k = none ∧ t.get F.HUBC_TASK_VALID 0 k = 0 ∧ ∀ c, c ∈ x.coreIds → (t.core c).slot ≠ k
  let event (s t : State) (x : TaskSt) (status : Nat) : Prop := s.rings = [] → s.events.length < 128 → ∃ ev, ev ∈ t.events ∧ ev.kind = 2 ∧ ev.mbx = x.mbx ∧
    ev.tag = x.tag ∧ ev.record.take 2 = leBytes 1 status ++ leBytes 1 0
  let aborted (s t : State) (k : Nat) (x : TaskSt) (first : Nat × Nat) (why : Nat) : Prop := t.taskState k = tsENDING ∧
    (∃ y, t.task? k = some y ∧ y.abort = some first ∧ y.why = why ∧ y.cores = x.cores) ∧ (∀ c, c ∈ x.coreIds → t.get F.CC_TASK_STATUS_ABORTED c = 1) ∧
    (∀ p h, s.progOf x.prog = some p → h ∈ p.img.chans → t.get F.MSU_RCH_CFG_VALID 0 h.chan = 0) ∧ t.mem = s.mem
  (∀ (s : State) (c k : Nat) (x : TaskSt) (v : Word), s.reach (.cc c) .CC c = true → v.toNat % 2 = 1 → (s.core c).slot = k → s.task? k = some x →
    ∃ t y, exec (.ccExit c v) s = .next t ∧ t.bus = .written ∧ (s.get F.CC_STATE_STATE c ≠ 4 → t.get F.CC_STATE_STATE c = 0) ∧ t.task? k = some y ∧
      c ∈ y.exited ∧ (∀ d, d ∈ y.exited → d = c ∨ d ∈ x.exited) ∧ y.cores = x.cores ∧ t.mem = s.mem) ∧
  (∀ (s : State) (k : Nat) (x : TaskSt), k < 64 → s.task? k = some x → s.taskState k = tsRUNNING → x.abort = none → s.abortedCore x = none →
    (∀ c, c ∈ x.coreIds → c ∈ x.exited ∧ s.coreIdle c = true) →
    let status := b2n (x.coreIds.any (fun c => decide (s.get F.CC_TASK_STATUS_SEEN c ≠ 0)))
    (x.desc.spec = false → ∃ t, exec (.taskEnd k) s = .next t ∧ gone t k x ∧ event s t x status) ∧
    (x.desc.spec = true → specOutcome x.desc status = 1 → ∃ t, exec (.taskEnd k) s = .next t ∧ gone t k x ∧ event s t x status ∧
      ∀ w, w ∈ x.desc.wins → t.get F.HUBC_SPEC_CFG_CUR 0 w = 1 - s.get F.HUBC_SPEC_CFG_CUR 0 w ∧ t.get F.HUBC_SPEC_CFG_HELD 0 w = 0) ∧
    (x.desc.spec = true → specOutcome x.desc status = 3 → ∃ t, exec (.taskEnd k) s = .next t ∧ t.taskState k = tsHELD ∧ event s t x status ∧
      (∃ y, t.task? k = some y ∧ y.desc = x.desc) ∧
      ∀ w, w ∈ x.desc.wins → t.get F.HUBC_SPEC_CFG_CUR 0 w = s.get F.HUBC_SPEC_CFG_CUR 0 w ∧ t.get F.HUBC_SPEC_CFG_HELD 0 w = s.get F.HUBC_SPEC_CFG_HELD 0 w)) ∧
  (∀ (s : State) (k : Nat) (x : TaskSt), s.task? k = some x → x.abort = none → s.taskState k = tsRUNNING →
    (∀ l c, s.abortedCore x = some (l, c) → s.get F.CC_TASK_STATUS_CAUSE c ≠ 8 →
      ∃ t, exec (.hubTaskAbort k) s = .next t ∧ aborted s t k x (l, s.get F.CC_TASK_STATUS_CAUSE c) 0) ∧
    (∀ l c, s.abortedCore x = none → x.cores.find? (fun p => s.fenced p.2) = some (l, c) →
      ∃ t, exec (.hubTaskAbort k) s = .next t ∧ aborted s t k x (l, 8) 2) ∧
    (s.abortedCore x = none → x.cores.find? (fun p => s.fenced p.2) = none → exec (.hubTaskAbort k) s = .next s)) ∧
  (∀ (s u : State) (m tag k : Nat), s.takeReq m 0x15 = some (tag, [k], u) →
    (64 ≤ k → exec (.kill m) s = .next (u.respond m 0x15 tag 3)) ∧
    (k < 64 → s.task? k = none → exec (.kill m) s = .next (u.respond m 0x15 tag 5)) ∧
    (∀ x, k < 64 → s.task? k = some x → s.taskState k = tsHELD → exec (.kill m) s = .next (u.respond m 0x15 tag 7)) ∧
    (∀ x, k < 64 → s.task? k = some x → s.taskState k = tsRUNNING → ∃ t, exec (.kill m) s = .next t ∧ aborted s t k x (0xFFFF, 8) 1 ∧
      t.hst.resp = s.hst.resp ++ [(m, [0x15 * 2 ^ 24 + tag * 2 ^ 16 + 1])]))

/-- R534, R537, R539, R540, R549. -/
def Obligations.SpeculationAndCheckpoints : Prop :=
  let answered (s t : State) (m code tag status : Nat) : Prop := t.hst.resp = s.hst.resp ++ [(m, [code * 2 ^ 24 + tag * 2 ^ 16 + status])]
  (∀ (s u : State) (m tag w r0l r0h r1l r1h sz : Nat), s.takeReq m 0x1A = some (tag, [w, r0l, r0h, r1l, r1h, sz], u) →
    let r0 := r0l + r0h * 2 ^ 32
    let r1 := r1l + r1h * 2 ^ 32
    let n := 256 * (bitsOf sz 27 0 + 1)
    let legal : Prop := w < 16 ∧ sz < 2 ^ 29 ∧ ∀ r, r = r0 ∨ r = r1 → r % 256 = 0 ∧ s.ownMod (gMod r) = true ∧ gLoc r + n ≤ hbmProg
    (legal → s.get F.HUBC_SPEC_CFG_HELD 0 w = 0 → ∃ t, exec (.specCfg m) s = .next t ∧ t.get F.HUBC_SPEC_CFG_VALID 0 w = 1 ∧
      t.get F.HUBC_SPEC_CFG_SIZE_M1 0 w = bitsOf sz 27 0 ∧ t.get F.HUBC_SPEC_CFG_COPY_IN 0 w = bitsOf sz 28 28 ∧ t.get F.HUBC_SPEC_CFG_CUR 0 w = 0 ∧
      t.get F.HUBC_SPEC_R0_BASE 0 w = gLoc r0 ∧ t.get F.HUBC_SPEC_R1_BASE 0 w = gLoc r1 ∧ answered s t m 0x1A tag 0 ∧ t.mem = s.mem) ∧
    (legal → s.get F.HUBC_SPEC_CFG_HELD 0 w = 1 → exec (.specCfg m) s = .next (u.respond m 0x1A tag 7)) ∧
    (¬ legal → exec (.specCfg m) s = .next (u.respond m 0x1A tag 3))) ∧
  (∀ (s u : State) (m tag k : Nat) (commit : Bool), s.takeReq m (if commit then 0x18 else 0x19) = some (tag, [k], u) → k < 64 →
    let code := if commit then 0x18 else 0x19
    let i : Instr := if commit then .commit m else .discard m
    (s.task? k = none → exec i s = .next (u.respond m code tag 5)) ∧
    (∀ x, s.task? k = some x → s.taskState k ≠ tsHELD → exec i s = .next (u.respond m code tag 7)) ∧
    (∀ x, s.task? k = some x → s.taskState k = tsHELD → ∃ t, exec i s = .next t ∧ t.task? k = none ∧ t.get F.HUBC_TASK_VALID 0 k = 0 ∧
      answered s t m code tag 0 ∧ t.mem = s.mem ∧ ∀ w, w ∈ x.desc.wins → t.get F.HUBC_SPEC_CFG_HELD 0 w = 0 ∧
        t.get F.HUBC_SPEC_CFG_CUR 0 w = (if commit then 1 - s.get F.HUBC_SPEC_CFG_CUR 0 w else s.get F.HUBC_SPEC_CFG_CUR 0 w))) ∧
  (∀ (s : State) (c k : Nat) (x : TaskSt) (v : Word), s.reach (.cc c) .CC c = true → (s.core c).slot = k → s.task? k = some x → x.abort = none →
    s.get F.CC_TASK_STATUS_ABORTED c = 0 →
    let n := v.toNat % 2 ^ 32
    (x.desc.spec = false → n = s.nextInstar k → s.get F.CC_CKPT_PENDING c = 0 →
      ∃ t y, exec (.ccCkptDone c v) s = .next t ∧ t.get F.CC_CKPT_PENDING c = 1 ∧ t.task? k = some y ∧ y.ckpt = x.ckpt ++ [c] ∧
        ((∃ d, d ∈ x.coreIds ∧ d ≠ c ∧ d ∉ x.ckpt) → y.ckptSent = x.ckptSent ∧ t.mem = s.mem) ∧
        ((∀ d, d ∈ x.coreIds → d = c ∨ d ∈ x.ckpt) → x.desc.ckptRec = 0 → y.ckptSent = true ∧ y.ckptN = n ∧ t.mem = s.mem) ∧
        ((∀ d, d ∈ x.coreIds → d = c ∨ d ∈ x.ckpt) → x.desc.ckptRec ≠ 0 →
          let chans := ((s.progOf x.prog).map (fun p => p.img.chans)).getD []
          ∀ l, s.argAddr (x.desc.ckptRec + 4096 * (n % 2)) (16 + 4 * chans.length) = .hbm l → y.ckptSent = true ∧ y.ckptN = n ∧
            t.readMem l 16 = leBytes 4 n ++ leBytes 2 chans.length ++ List.replicate 10 0 ∧
            ∀ j h, chans[j]? = some h → t.readMem (l + 16 + 4 * j) 4 = leBytes 4 (s.rchStep h.chan))) ∧
    (x.desc.spec = true ∨ n ≠ s.nextInstar k → ∃ t, exec (.ccCkptDone c v) s = .next t ∧ t.tasks = s.tasks ∧
      t.get F.CC_CKPT_PENDING c = s.get F.CC_CKPT_PENDING c ∧ ∃ r, t.elog.getLast? = some r ∧ r.cls = 0 ∧ r.code = 0x702)) ∧
  (∀ (s : State) (k : Nat) (x : TaskSt), s.task? k = some x → x.ckptSent = true → x.abort = none → s.abortedCore x = none →
    (∀ h, h ∈ s.hubTags → h.kind = 5 → h.p.imm ≠ k) →
    ∃ t y, exec (.checkpointComplete k) s = .next t ∧ t.get F.HUBC_TASK_INSTAR 0 k = x.ckptN % 2 ^ 32 ∧ t.get F.HUBC_TASK_CKPT_VALID 0 k = 1 ∧
      t.get F.HUBC_TASK_RESUMES 0 k = 0 ∧ t.task? k = some y ∧ y.ckpt = [] ∧ y.ckptSent = false ∧ y.steps = x.stepsNew ∧ t.mem = s.mem ∧
      ∀ c, c ∈ x.coreIds → t.get F.CC_CKPT_INSTAR c = x.ckptN % 2 ^ 32 ∧ t.get F.CC_CKPT_VALID c = 1 ∧ t.get F.CC_CKPT_PENDING c = 0) ∧
  (∀ (s : State) (busy cl : List (Nat × Nat)) (other : Nat), (cl.map Prod.fst).Nodup →
    ∃ t, exec (.energyAccrual busy cl other) s = .next t ∧ t = { s with regs := t.regs } ∧
      (∀ k e, (k, e) ∈ cl → k < 96 → t.get F.PWR_CDOM_E_ENERGY 0 k = (s.get F.PWR_CDOM_E_ENERGY 0 k + e) % 2 ^ F.PWR_CDOM_E_ENERGY.width) ∧
      (∀ k x, s.tasks.filter (fun t => decide (s.taskState t.1 = tsRUNNING)) = [(k, x)] →
        let part := x.coreIds.foldl (fun n c => n + lookD 0 cl (cluInst c) * min msAclk (lookD 0 busy c) / (16 * msAclk)) 0
        t.get F.HUBC_TASK_E_ENERGY 0 k = (s.get F.HUBC_TASK_E_ENERGY 0 k + (part + (if part = 0 then 0 else other))) % 2 ^ F.HUBC_TASK_E_ENERGY.width))

/-- R530 to R533, R377, R378. -/
def Obligations.SwitchOutAndBack : Prop :=
  (∀ (s u : State) (m tag k : Nat), s.takeReq m 0x16 = some (tag, [k], u) → k < 64 →
    (s.task? k = none → exec (.switchOut m) s = .next (u.respond m 0x16 tag 5)) ∧
    (∀ x, s.task? k = some x → s.taskState k ≠ tsRUNNING → exec (.switchOut m) s = .next (u.respond m 0x16 tag 7)) ∧
    (∀ x, s.task? k = some x → s.taskState k = tsRUNNING → x.abort = none → s.get F.HUBC_CTX_FREE 0 < x.cores.length →
      exec (.switchOut m) s = .next (u.respond m 0x16 tag 4)) ∧
    (∀ x, s.task? k = some x → s.taskState k = tsRUNNING → x.abort = none → x.cores.length ≤ s.get F.HUBC_CTX_FREE 0 →
      ∃ t y, exec (.switchOut m) s = .next t ∧ t.taskState k = tsSWITCHING ∧ t.get F.HUBC_CTX_FREE 0 = s.get F.HUBC_CTX_FREE 0 - x.cores.length ∧
        t.hst.resp = s.hst.resp ++ [(m, [0x16 * 2 ^ 24 + tag * 2 ^ 16 + 1])] ∧ t.task? k = some y ∧ y.swAt = s.now ∧ y.cores = x.cores ∧ t.mem = s.mem ∧
        ∀ c, c ∈ x.coreIds → (t.core c).stopped = true ∧ (t.core c).openSync = false ∧ (t.core c).push = none ∧
          (s.get F.CC_STATE_STATE c ≠ 4 → t.get F.CC_STATE_STATE c = 0))) ∧
  (∀ (s : State) (k : Nat) (x : TaskSt), s.task? k = some x → s.taskState k = tsSWITCHING → s.abortedCore x = none →
    (∀ c, c ∈ x.coreIds → s.fenced c = false ∧ s.coreStopped c = true) → s.syncDrained x = true →
    s.inj = [] → ∀ d row,
    (∃ t y, exec (.switchSyncDrained ⟨k, d, row, .ok⟩) s = .next t ∧ t.taskState k = tsOUT ∧ t.task? k = some y ∧ y.ctx = x.coreIds.map (fun c => (c, drained (s.core c))) ∧
      y.oldSlots = x.slots ∧ y.slots = [] ∧ y.ctxMem = s.mem.filter (fun a => inWins x.coreIds a.1 && !(s.retiredCell a.1)) ∧
      (∀ c, c ∈ x.coreIds → (t.core c).slot = 0xFF ∧ (t.core c).stopped = false ∧ (t.core c).dmCmds = [] ∧ (∀ e, ((t.core c).eng e).all = []))) ∧
    (d ∈ x.coreIds → ∃ t, exec (.switchSyncDrained ⟨k, d, row, .unc⟩) s = .next t ∧ t.get F.CC_TASK_STATUS_ABORTED d = 1 ∧
      t.get F.CC_TASK_STATUS_CAUSE d = 4 ∧ t.taskState k = tsSWITCHING ∧ t.mem = s.mem)) ∧
  (∀ (s : State) (k : Nat) (x : TaskSt), s.task? k = some x → s.taskState k = tsSWITCHING → x.abort = none →
    x.swAt + (if x.desc.swTimeout = 0 then 1000 else x.desc.swTimeout) * 1900 ≤ s.now →
    ∃ t y, exec (.switchTimeout k) s = .next t ∧ t.taskState k = tsENDING ∧ t.task? k = some y ∧ y.abort = some (0xFFFF, 8) ∧ y.why = 4 ∧
      (∀ c, c ∈ x.coreIds → t.get F.CC_TASK_STATUS_ABORTED c = 1) ∧ t.now = s.now) ∧
  (∀ (s u : State) (m tag k : Nat) (x : TaskSt) (p : Prog), s.takeReq m 0x17 = some (tag, [k], u) → k < 64 → s.task? k = some x → s.taskState k = tsOUT →
    s.tripped = false → s.shedding = false → x.abort = none → s.progOf x.prog = some p → (s.tasks.map Prod.fst).Nodup →
    (∀ j y, (j, y) ∈ s.tasks → j ≠ k → y.swBy ≠ 3) → (∀ c, c ∈ x.coreIds → s.fenced c = false ∧ (s.core c).slot = 0xFF ∧ s.clusterOn (cluInst c) = true ∧
      (s.vat (cluInst c)).rebuild = false) →
    (∀ cl, cl < 96 → x.ctx.foldl (fun n q => if cluInst q.1 = cl then n + ctxCells q.2 else n) 0 ≤ s.get F.VAT_FREE_FREE cl) →
    x.oldSlots.length ≤ s.freeSlots.length → (x.ctx.map Prod.fst).Nodup → Memory.wf x.ctxMem →
    ∃ t, exec (.restore m) s = .next t ∧ t.taskState k = tsRUNNING ∧ t.now = s.now + 1024 ∧ t.hst.resp = s.hst.resp ++ [(m, [0x17 * 2 ^ 24 + tag * 2 ^ 16 + 1])] ∧
      (∀ c y, (c, y) ∈ x.ctx → (t.core c).x = y.x ∧ (t.core c).pc = y.pc ∧ (t.core c).cs = y.cs ∧ (t.core c).trf = y.trf ∧ (t.core c).slot = k ∧
        (t.core c).stopped = false) ∧
      (∀ a, inWins x.coreIds a = true → s.retiredCell a = false → t.readByte a = getByte x.ctxMem a))

/-! ### Gradient reduction (12_gradient_reduction.md) -/

/-- R450 to R467. -/
def Obligations.GradientReduction : Prop :=
  (∀ (s : State) (c op p : Nat) (q : QCmd) (i : Instr) (bad : Bool), s.ready c .dm (fun k => decide (Cmd.opcode k = op)) = some (p, q, s.now) →
    (op, i, bad) ∈ [(0x1C, .rchSend ⟨c, .ok⟩, s.rsIllegal c q.cmd), (0x1D, .rchClose c, s.rcIllegal c q.cmd)] → bad = true → (s.core c).dmCmds = [] →
    ∃ t, exec i s = .next t ∧ t.get F.DM_EVT_ILLEGAL c = 1 ∧ (t.core c).dmCmds = [] ∧ t.mem = s.mem ∧ t.bit F.CC_TASK_STATUS_SEEN c 2 = true) ∧
  (∀ (s : State) (c p : Nat) (q : QCmd), s.ready c .dm (fun k => decide (Cmd.opcode k = 0x1C)) = some (p, q, s.now) → s.rsIllegal c q.cmd = false →
    s.windowServes c .dm (s.core c).dmSince (rsWindow q.cmd) = true → s.inj = [] →
    s.specTask c = none → rsBlks q.cmd = 1 → rsResid q.cmd = false → rsCrate q.cmd = 0 →
    ∃ t d r, exec (.rchSend ⟨c, .ok⟩) s = .next t ∧ (t.core c).dmCmds = (s.core c).dmCmds ++ [d] ∧ d.q = q ∧ d.issuing = true ∧ d.reqs = [r] ∧ d.gather = 1 ∧
      r.typ = 7 ∧ r.far = rsDst q.cmd ∧ r.isRead = false ∧ r.data = (s.rsEncode c q.cmd 0).payload ∧ r.len = r.data.length ∧
      (rsK q.cmd = 0 → r.data.length = 32 * (if rsWfmt q.cmd = 0 then 1 else if rsWfmt q.cmd = 1 then 2 else 4)) ∧ t.mem = s.mem ∧
      t.get F.DM_RCH_CNT_BLOCKS c = min (s.get F.DM_RCH_CNT_BLOCKS c + 1) (2 ^ F.DM_RCH_CNT_BLOCKS.width - 1) ∧ (∀ j, j ≠ c → t.core j = s.core j)) ∧
  (∀ (s : State) (m : Nat), ((s.msu m).landed.map Prod.fst).Nodup →
    ∃ t, exec (.landedReport m) s = .next t ∧ t.msu m = { s.msu m with landed := [] } ∧ (∀ j, j ≠ m → t.msu j = s.msu j) ∧
      ∀ c n, (c, n) ∈ (s.msu m).landed → t.get F.MSU_RCH_LAND_LANDED 0 c = (s.get F.MSU_RCH_LAND_LANDED 0 c + n) % 2 ^ F.MSU_RCH_LAND_LANDED.width) ∧
  (∀ (s : State) (chan : Nat) (g : Sig) (more : List Sig), lookD [] s.rchSig chan = g :: more → s.rchBack = [] → g.due ≤ s.now →
    (g.bytes ≤ s.rchUnclaimed chan → ∃ t h, exec (.rchSignalRelease chan) s = .next t ∧ lookD [] t.rchSig chan = more ∧
      t.get F.MSU_RCH_LAND_CLAIMED 0 chan = (s.get F.MSU_RCH_LAND_CLAIMED 0 chan + g.bytes) % 2 ^ F.MSU_RCH_LAND_CLAIMED.width ∧
      (t.core g.dcore).sigIn = (s.core g.dcore).sigIn ++ [h] ∧ h.ctr = g.ctr ∧ h.inc = g.inc ∧ h.win = 0xF ∧ h.due = s.now + 39) ∧
    (s.rchUnclaimed chan < g.bytes → exec (.rchSignalRelease chan) s = .next s)) ∧
  (∀ (s : State) (c p : Nat) (q : QCmd), s.ready c .dm (fun k => decide (Cmd.opcode k = 0x1D)) = some (p, q, s.now) → s.rcIllegal c q.cmd = false →
    s.specTask c = none →
    ∃ t d, exec (.rchClose c) s = .next t ∧ t = { s with cores := t.cores } ∧ (t.core c).dmCmds = (s.core c).dmCmds ++ [d] ∧ d.q = q ∧
      d.issuing = true ∧ d.at_ = s.now ∧ (∀ j, j ≠ c → t.core j = s.core j)) ∧
  (∀ (s : State) (c : Nat) (d : DmCmd), s.closeHeld c = some d → (s.core c).dmCmds = [d] → d.open_ = 0 → d.stream = none → Cmd.doneEn d.q.cmd = false →
    s.running c = true →
    let k := rcChan d.q.cmd
    (rcTimeout d.q.cmd = 0 ∨ s.now ≤ d.at_ + 1024 * rcTimeout d.q.cmd → s.rchReady k = true →
      (s.rchLanded k = s.rchExpect k → s.get F.MSU_RCH_CFG_MODE 0 k = 0 → s.get F.MSU_RCH_CFG_CRATE 0 k = 0 →
        (s.rchWfmt k = 0 → rcSoutEn d.q.cmd = true → rcSout d.q.cmd % 64 = 0 ∧ s.spdRange c ((rcSout d.q.cmd : Nat) : Int) (s.rchBlks k) = true) →
        ∃ t, exec (.rchCloseProceed ⟨c, .ok⟩) s = .next t ∧ (t.core c).dmCmds = [] ∧
          t.get F.MSU_RCH_STEP_STEP 0 k = (s.get F.MSU_RCH_STEP_STEP 0 k + 1) % 2 ^ F.MSU_RCH_STEP_STEP.width ∧
          t.get F.MSU_RCH_STEP_BASE 0 k = (s.get F.MSU_RCH_STEP_BASE 0 k + s.rchExpect k) % 2 ^ F.MSU_RCH_STEP_BASE.width ∧
          t.get F.CC_TASK_STATUS_ABORTED c = s.get F.CC_TASK_STATUS_ABORTED c ∧ (s.rchWfmt k ≠ 0 → t.mem = s.mem ∧ t.msus = s.msus) ∧
          (s.rchWfmt k = 0 → s.rchBlks k = 1 →
            let z := s.scaleOf k (s.rchBase k)
            let x := if z.2 = 0 then z.1 else min 254 (z.2 + s.get F.MSU_RCH_CFG_HEAD 0 k - 8)
            t.scaleOf k (s.rchBase k) = (x, 0) ∧
            (rcSoutEn d.q.cmd = true → t.readByte (winBase (s.get F.MSU_RCH_CFG_HOME 0 k) + rcSout d.q.cmd) = BitVec.ofNat 8 x))) ∧
      (s.rchExpect k < s.rchLanded k → s.rchWfmt k ≠ 0 → ∃ t, exec (.rchCloseProceed ⟨c, .ok⟩) s = .next t ∧ (t.core c).dmCmds = [] ∧
        t.get F.MSU_RCH_EVT_REDUCE_CHECK 0 = 1 ∧ t.get F.CC_TASK_STATUS_ABORTED c = 1 ∧
        (s.get F.CC_TASK_STATUS_ABORTED c = 0 → t.get F.CC_TASK_STATUS_CAUSE c = 0x0D) ∧
        t.get F.MSU_RCH_STEP_STEP 0 k = s.get F.MSU_RCH_STEP_STEP 0 k)) ∧
    (s.rchReady k = false → exec (.rchCloseProceed ⟨c, .ok⟩) s = .next s ∧
      (rcTimeout d.q.cmd ≠ 0 → d.at_ + 1024 * rcTimeout d.q.cmd + 1 ≤ s.now → ∃ t, exec (.rchCloseTimeout c) s = .next t ∧ (t.core c).dmCmds = [] ∧ t.get F.CC_TASK_STATUS_ABORTED c = 1 ∧
        (s.get F.CC_TASK_STATUS_ABORTED c = 0 → t.get F.CC_TASK_STATUS_CAUSE c = 6) ∧ t.now = s.now ∧
        t.mem = s.mem)))

/-! ### The time reference (13_time_reference.md) -/

/-- R479 to R497, for a module whose timestamps are not disturbed (R730). -/
def Obligations.TimeReference : Prop :=
  let quietStamps (s : State) : Prop := s.get F.PERT_TSTAMP_EN 0 = 0
  let invalid (t : State) : Prop := t.tstate = 4 ∧ t.tvalid = false ∧ t.get F.TIME_EVT_INVALID 0 = 1
  let holdover (t : State) : Prop := t.tstate = 3 ∧ t.tvalid = true ∧ t.get F.TIME_STATUS_QUAL 0 = 2 ∧ t.get F.TIME_EVT_HOLDOVER 0 = 1
  (∀ (s : State) (n : Nat), quietStamps s → s.linkReady n = true →
    (s.time.acting = false → s.tstate = 1 ∨ s.tstate = 2 → n = s.uplink → find? s.time.sentAt n = none →
      let q := lookD 0 s.time.seq n
      ∃ t, exec (.tReqSend n) s = .next t ∧ t.out = s.out ++ [.linkMsg n 0x10 [q]] ∧ find? t.time.req n = some (q, s.timeFull / 2 ^ 28 * 2 ^ 28) ∧
        lookD 0 t.time.seq n = (q + 1) % 2 ^ 16 ∧ t.regs = s.regs ∧ t.mem = s.mem) ∧
    (∀ q t2 t3, exec (.tReq n q t2 t3) s = .next (s.send (.linkMsg n 0x11 [q % 2 ^ 16, s.get F.TIME_STATUS_VALID 0, t2 % 2 ^ 96, t3 % 2 ^ 96]))) ∧
    (∀ q t1 t2 t3 t4 : Nat, find? s.time.req n = some (q, t1) → t4 ≤ t1 + 1000000 * 2 ^ 32 → n = s.uplink →
      let offset : Int := (((t1 : Int) - t2) + ((t4 : Int) - t3)) / 2 + sext 32 (s.get F.TIME_ASYM_ASYM 0 n) * 2 ^ 24
      let delay : Int := (((t4 : Int) - t1) - ((t3 : Int) - t2)) / 2
      (s.tstate = 1 → s.time.stepped = false → ∃ t, exec (.tResp n q true t2 t3 t4) s = .next t ∧
        t.timeFull = ((s.timeFull : Int) - offset).toNat % 2 ^ 96 ∧ t.get F.TIME_MEAS_DELAY 0 = wrapInt 32 (delay / 2 ^ 24) ∧
        t.get F.TIME_MEAS_OFFSET 0 = wrapInt 32 (offset / 2 ^ 24) ∧ t.tstate = 1 ∧ find? t.time.req n = none ∧ t.mem = s.mem) ∧
      (s.tstate = 2 → s.get F.TIME_CFG_XCHK_LIMIT 0 * 2 ^ 32 < offset.natAbs → s.time.outl < 7 →
        ∃ t, exec (.tResp n q true t2 t3 t4) s = .next t ∧ t.get F.TIME_EVT_OUTLIER 0 = 1 ∧ t.time.outl = s.time.outl + 1 ∧ t.tstate = 2 ∧
          t.timeFull = s.timeFull ∧ t.get F.TIME_INC_INC 0 = s.get F.TIME_INC_INC 0) ∧
      (s.tstate = 2 → offset.natAbs ≤ s.get F.TIME_CFG_XCHK_LIMIT 0 * 2 ^ 32 →
        ∃ t, exec (.tResp n q true t2 t3 t4) s = .next t ∧ t.timeFull = s.timeFull ∧ t.tstate = 2 ∧ t.time.outl = 0 ∧
          0x0666666666 - 0x0666666666 / 10000 ≤ t.get F.TIME_INC_INC 0 ∧ t.get F.TIME_INC_INC 0 ≤ 0x0666666666 + 0x0666666666 / 10000) ∧
      exec (.tResp n q false t2 t3 t4) s = .next s ∧ (∀ r, r ≠ q → exec (.tResp n r true t2 t3 t4) s = .next s)) ∧
    (n ≠ 36 → s.tstate ≠ 3 → find? s.time.annAt n = none → ∃ t, exec (.announceSend n) s = .next t ∧ t.out = s.out ++ [.linkMsg n 0x12
      [s.get F.TIME_STATUS_VALID 0 + 2 * s.get F.TIME_GM_LEAP61 0 + 4 * s.get F.TIME_GM_LEAP59 0, s.get F.TIME_STATUS_QUAL 0, s.time.gmPrio,
       s.get F.TIME_STATUS_STEPS 0, s.get F.TIME_GM_GM_ID 0, s.get F.TIME_GM_UTC_OFFSET 0]] ∧ t.regs = s.regs ∧ t.mem = s.mem) ∧
    (∀ a, a.valid = true → s.time.heard = [] → s.time.acting = false → s.time.fatal = false → s.tstate = 0 → a.gmId % 2 ^ 16 ≠ s.modId →
      ∃ t, exec (.announce n a) s = .next t ∧ t.tstate = 1 ∧ t.get F.TIME_GM_GM_ID 0 = a.gmId % 2 ^ 16 ∧ t.uplink = n % 2 ^ F.TIME_STATUS_UPLINK.width ∧
        t.get F.TIME_STATUS_STEPS 0 = min 255 (a.steps + 1) ∧ t.time.gmPrio = a.prio ∧ t.mem = s.mem)) ∧
  (∀ (s : State), s.time.acting = false → s.tstate = 2 → s.tvalid = true →
    (∀ h, h ∈ s.time.heard → h.2.1.gmId % 2 ^ 16 = s.get F.TIME_GM_GM_ID 0 ∧ h.2.2 + 3 * s.annAclk < s.now) → 3 * s.annAclk < s.now →
    ∃ t, exec .announceTimeout s = .next t ∧ holdover t ∧ t.time.heard = [] ∧ t.now = s.now) ∧
  (∀ (s : State), s.tstate = 3 → s.time.holdAt + s.get F.TIME_CFG_HOLD_MAX 0 * 1900000000 < s.now →
    (s.time.acting = true → ∃ t, exec .holdMaxExpiry s = .next t ∧ t.tstate = 0 ∧ t.tvalid = true ∧ t.get F.TIME_STATUS_QUAL 0 = 3) ∧
    (s.time.acting = false → ∃ t, exec .holdMaxExpiry s = .next t ∧ invalid t)) ∧
  (∀ (s : State) (m : Master) (v : Word), s.reach m .TIME 0 = true →
    (s.trole = 2 → s.time.acting = true → s.tstate = 0 → ∃ t, exec (.timeSet m v) s = .next t ∧ t.bus = .written ∧ t.timeFull = v.toNat * 2 ^ 32 % 2 ^ 96 ∧
      t.regs = s.regs ∧ t.mem = s.mem) ∧
    (s.trole ≠ 2 ∨ s.time.acting = false ∨ s.tstate ≠ 0 → ∃ t, exec (.timeSet m v) s = .next t ∧ t.bus = .written ∧ t.timeFull = s.timeFull ∧
      ∃ r, t.elog.getLast? = some r ∧ r.cls = 0 ∧ r.code / 256 = 1)) ∧
  (∀ (s : State), s.tstate ≠ 4 →
    (∃ t, exec .cntMismatch s = .next t ∧ t.get F.TIME_EVT_CNT_MISMATCH 0 = 1 ∧ invalid t ∧ t.time.fatal = true) ∧
    ∀ ppb : Int, (100000 < ppb.natAbs → ∃ t, exec (.freqWindow ppb) s = .next t ∧ t.get F.CLK_STATUS_TCLK_OK 0 = 0 ∧ t.get F.TIME_EVT_FREQ_FAULT 0 = 1 ∧
        invalid t ∧ t.time.fatal = true) ∧
      (ppb.natAbs ≤ 100000 → exec (.freqWindow ppb) s = .next (s.set F.CLK_STATUS_TCLK_OK 0 1))) ∧
  (∀ (s : State) (phase : Int), 2 ≤ s.time.ppsGood → (phase - s.time.ppsLast).natAbs ≤ 1000 * 2 ^ 32 → s.tsource ≠ 1 →
    ∃ t, exec (.ppsInEdge phase) s = .next t ∧ t.get F.TIME_STATUS_PPS_IN_OK 0 = 1 ∧ t.time.ppsGood = s.time.ppsGood + 1 ∧ t.time.ppsLast = phase) ∧
  (∀ (s : State), exec .ref10mInQualified s = .next (s.set F.TIME_STATUS_REF_IN_OK 0 1)) ∧
  (∀ (s : State), s.get F.TIME_STATUS_PPS_IN_OK 0 = 1 → ∃ t, exec (.inputLost 0) s = .next t ∧ t.get F.TIME_STATUS_PPS_IN_OK 0 = 0 ∧
    t.get F.TIME_EVT_INPUT_LOST 0 = 1 ∧ t.time.ppsGood = 0 ∧ (s.trole = 2 → s.tsource = 1 → s.time.acting = true → s.tstate = 2 → s.tvalid = true → holdover t)) ∧
  (∀ (s : State), s.get F.TIME_STATUS_REF_IN_OK 0 = 1 → ∃ t, exec (.inputLost 1) s = .next t ∧ t.get F.TIME_STATUS_REF_IN_OK 0 = 0 ∧
    t.get F.TIME_EVT_INPUT_LOST 0 = 1) ∧
  (∀ (s : State), s.tsource = 2 → s.trole = 2 → s.time.acting = true → s.tstate = 2 → s.tvalid = true →
    ∃ t, exec .ptpSourceLoss s = .next t ∧ t.time.ptpOk = false ∧ holdover t) ∧
  (∀ (s : State), s.tvalid = true → s.timeEnable = true → s.get F.TIME_CFG_PPS_OUT_EN 0 = 1 → s.get F.TIME_INC_INC 0 ≠ 0 →
    let sec := 10 ^ 9 * 2 ^ 32
    let n := (sec - s.timeFull % sec + s.get F.TIME_INC_INC 0 - 1) / s.get F.TIME_INC_INC 0
    let u := s.at_ (((s.ticks + n) * 190000 + 15624) / 15625)
    exec .ppsOutEdge s = .next { u with time := { u.time with ppsUntil := u.now + 19000 }, out := u.out ++ [.pin 0 true] }) ∧
  (∀ (s : State), s.time.acting = true → s.tvalid = true → s.tsource ≠ 2 →
    exec (.ptpMessage .delayReq) s = .next (s.send (.eth [0x09, s.timeFull])) ∧
    (find? s.time.annAt 36 = none → ∃ t, exec (.announceSend 36) s = .next t ∧ ∃ c, t.out = s.out ++ [.eth
      [0x0B, c, s.get F.TIME_GM_UTC_OFFSET 0, s.get F.TIME_GM_LEAP61 0, s.get F.TIME_GM_LEAP59 0]] ∧
      (s.get F.TIME_STATUS_QUAL 0 = 0 → c = 6) ∧ (s.get F.TIME_STATUS_QUAL 0 = 2 → c = 7))) ∧
  (∀ (s : State) (off delay : Int), quietStamps s → s.tsource = 2 → s.trole = 2 → s.time.fatal = false → s.time.acting = true → s.tstate = 0 →
    ∃ t, exec (.ptpMessage (.sync off delay)) s = .next t ∧ t.time.ptpOk = true ∧ t.tstate = 1 ∧ t.uplink = 36 ∧
      t.timeFull = ((s.timeFull : Int) - (off + sext 32 (s.get F.TIME_ASYM_ASYM 0 36)) * 2 ^ 24).toNat % 2 ^ 96)

/-! ### The loader (14_program_images_and_verifier.md), mailboxes, the host and the management port (17_host_and_management_interfaces.md) -/

/-- R512 to R516, for a load that a mailbox asked for. With no ring registered the event waits in the hub's store. -/
def Obligations.LoadAndUnload : Prop :=
  (∀ (s u : State) (m tag a0 a1 r0 r1 f : Nat), s.takeReq m 0x12 = some (tag, [a0, a1, r0, r1, f], u) →
    let addr := a0 + a1 * 2 ^ 32
    let rep := r0 + r1 * 2 ^ 32
    let may : Prop := s.get F.PERT_STATUS_ACTIVE 0 = 1 ∧ bitOf (s.get F.PERT_STATUS_PERM 0) 6 = true
    let here : Prop := s.argAddr addr 64 ≠ .bad ∧ s.argAddr rep 1024 ≠ .bad
    (2 ≤ f → exec (.load m) s = .next (u.respond m 0x12 tag 3)) ∧
    (f = 1 → ¬ may → exec (.load m) s = .next (u.respond m 0x12 tag 6)) ∧
    (f = 0 ∨ (f = 1 ∧ may) → ¬ here → exec (.load m) s = .next (u.respond m 0x12 tag 8)) ∧
    (f = 0 ∨ (f = 1 ∧ may) → here → s.tripped = true → exec (.load m) s = .next (u.respond m 0x12 tag 7)) ∧
    (f = 0 ∨ (f = 1 ∧ may) → here → s.tripped = false → 16 ≤ s.loadQ.length → exec (.load m) s = .next (u.respond m 0x12 tag 4)) ∧
    (f = 0 ∨ (f = 1 ∧ may) → here → s.tripped = false → s.loadQ.length < 16 → ∃ t, exec (.load m) s = .next t ∧
      t.loadQ = s.loadQ ++ [{ occ := f + 1, mbx := some m, tag := tag, addr := addr, report := rep }] ∧
      t.hst.resp = s.hst.resp ++ [(m, [0x12 * 2 ^ 24 + tag * 2 ^ 16 + 1])] ∧ t.progs = s.progs ∧ t.mem = s.mem)) ∧
  (∀ (s u : State) (m tag lo hi : Nat), s.takeReq m 0x13 = some (tag, [lo, hi], u) →
    let id := lo + hi * 2 ^ 32
    let used : Prop := ∃ k x, (k, x) ∈ s.tasks ∧ x.prog = id ∧ s.taskState k ≠ tsHELD
    (s.progOf id = none → exec (.unload m) s = .next (u.respond m 0x13 tag 5)) ∧
    (s.progOf id ≠ none → used → exec (.unload m) s = .next (u.respond m 0x13 tag 7)) ∧
    (s.progOf id ≠ none → ¬ used → ∃ t, exec (.unload m) s = .next t ∧ t.progOf id = none ∧ (∀ j, j ≠ id → t.progOf j = s.progOf j) ∧
      t.hst.resp = s.hst.resp ++ [(m, [0x13 * 2 ^ 24 + tag * 2 ^ 16])] ∧ t.mem = s.mem)) ∧
  (∀ (s : State) (r : LoadReq) (more : List LoadReq) (o : LoaderOutcome), s.loadQ = r :: more → r.occ = 1 → r.task = none → s.chrysalis = false →
    s.tripped = false → s.warmHold = false → 6 ≤ s.get F.NVCF_STATUS_PHASE 0 → s.rings = [] → s.events.length < 128 →
    let map := o.img.coreMap []
    let bases := basesOf o.img map o.bases
    let u := ({ s with loadQ := more } : State).copyImage r o o.img.len
    let vs := u.allViols o.img s.signPolicy.1 s.signPolicy.2 map bases false false
    (vs = [] → ∃ t p ev, exec (.loaderRun o) s = .next t ∧ t.loadQ = more ∧ t.progs = s.progs ++ [p] ∧ p.id = o.img.progId ∧ p.img = o.img ∧ p.cores = map ∧
      p.bases = bases ∧ t.events = s.events ++ [ev] ∧ ev.kind = 1 ∧ ev.mbx = r.mbx ∧ ev.tag = r.tag ∧ ev.record.headD 1 = 0 ∧
      ((map.map Prod.snd).Nodup → (o.img.cores.map ImgCore.logical).Nodup → ∀ k ∈ o.img.cores,
        k.codeOff + k.codeLen ≤ (o.img.relocated bases).code.length →
        getBytes (t.core (lookD k.core map k.logical)).code 0 k.codeLen = ((o.img.relocated bases).code.drop k.codeOff).take k.codeLen)) ∧
    (∀ v, firstViol vs = some v → 0 < v.status → v.status < 256 → ∃ t ev, exec (.loaderRun o) s = .next t ∧ t.loadQ = more ∧ t.progs = s.progs ∧ t.cores = s.cores ∧
      t.events = s.events ++ [ev] ∧ ev.kind = 1 ∧ ev.tag = r.tag ∧ ev.record.take 32 = reportBytes v 1 0))

/-- R594 to R609, R617. `known` says that a write leaves no request with an unknown code at the head of a hub queue. -/
def Obligations.MailboxesAndManagement : Prop :=
  let known (s : State) (p : MbxEnd) (ws : List Nat) : Prop := ∀ n, p = .hubEnd n → s.hubServes = true ∧ ∃ h l, s.mbxQ p ++ ws = h :: l ∧
    reqKnown (bitsOf h 31 24) = true
  (∀ (s : State) (m : Master) (mb p : MbxEnd) (v : Word), s.mgmtPage m mb = false → s.mbxReach m mb = true → s.bar4Held m = false → mb.partner = some p →
    ((s.mbxQ p).length < 8 → known s p [v.toNat % 2 ^ 32] → ∃ t, exec (.mbxTxWrite m mb v) s = .next t ∧ t.bus = .written ∧
      t.mbxQ p = s.mbxQ p ++ [v.toNat % 2 ^ 32] ∧ t.regs = s.regs ∧ t.mem = s.mem) ∧
    (8 ≤ (s.mbxQ p).length → ∃ t, exec (.mbxTxWrite m mb v) s = .next t ∧ t.get F.MBX_STAT_OVERRUN p.inst p.idx = 1 ∧ t.mbxQ p = s.mbxQ p ∧
      t.bus = (if m = .host then .written else .busError)) ∧
    (v.toNat % 2 = 1 → ∃ t d, exec (.mbxDbRing m mb v) s = .next t ∧ t.bus = .written ∧ t.hst.bells = s.hst.bells ++ [(p.inKey, s.now + d)] ∧
      d ≤ 48 ∧ t.regs = s.regs)) ∧
  (∀ (s : State) (m : Master) (mb : MbxEnd), s.mgmtPage m mb = false → s.mbxReach m mb = true →
    (∀ w l, s.mbxQ mb = w :: l → ∃ t, exec (.mbxRxRead m mb) s = .next t ∧ t.bus = .value (BitVec.ofNat 64 (w % 2 ^ 32)) ∧ t.mbxQ mb = l ∧
      t.regs = s.regs ∧ t.mem = s.mem) ∧
    (s.mbxQ mb = [] → ∃ t, exec (.mbxRxRead m mb) s = .next t ∧ t.bus = .value 0 ∧ t.get F.MBX_STAT_EMPTY_RD mb.inst mb.idx = 1 ∧ t.hst = s.hst)) ∧
  (∀ (s : State) (key due : Nat), s.bellNext = some (key, due) → due ≤ s.now →
    ((∀ c, (endOf key).core? = some c → s.corePresent c = true ∧ s.clusterOn (cluInst c) = true) →
      ∃ t, exec .doorbellDeliver s = .next t ∧ t.get F.MBX_STAT_DB (endOf key).inst (endOf key).idx = 1 ∧ 
        t.hst.bells = dropFirst (fun b => decide (b = (key, due))) s.hst.bells ∧ t.now = s.now ∧ t.mem = s.mem) ∧
    (∀ c, (endOf key).core? = some c → s.corePresent c = true → s.clusterOn (cluInst c) = false → s.pwr.turning = [] →
      ∃ t, exec .doorbellDeliver s = .next t ∧ t.hst.bells = s.hst.bells ∧ t.pwr.turning = [(cluInst c, s.now + 3420)] ∧
        bitOf (t.get F.PWR_CDOM_ON 0 (cluInst c / 48)) (cluInst c % 48) = true)) ∧
  (∀ (s : State) (c : Nat) (v : Word), s.mbxReach .host (.hostEnd 0) = true → s.bar4Held .host = false → s.corePresent c = true → s.clusterOn (cluInst c) = true →
    (s.privChans c (v.toNat % 32) ≠ [] → ∃ t g, exec (.hostDoorbell c v) s = .next t ∧ t.bus = .written ∧ (t.core c).sigIn = (s.core c).sigIn ++ [g] ∧
      g.ctr = v.toNat % 32 ∧ g.inc = bitsOf v.toNat 31 16 ∧ g.win = 0xF ∧ g.due = s.now + 39 ∧ t.regs = s.regs) ∧
    (s.privChans c (v.toNat % 32) = [] → ∃ t, exec (.hostDoorbell c v) s = .next t ∧ t.get F.PCIE_EVT_HDB_REFUSED 0 = 1 ∧ t.cores = s.cores)) ∧
  (∀ (s : State) (c d : Nat) (v : Word), s.reach (.cc c) .MBX c = true →
    ((s.mbxQ (.inbox (inboxOf c d))).length < 8 → ∃ t, exec (.clusterInboxWrite c d v) s = .next t ∧ t.bus = .written ∧
      t.mbxQ (.inbox (inboxOf c d)) = s.mbxQ (.inbox (inboxOf c d)) ++ [v.toNat % 2 ^ 32 + corein c * 2 ^ 32] ∧ t.regs = s.regs) ∧
    (8 ≤ (s.mbxQ (.inbox (inboxOf c d))).length → ∃ t, exec (.clusterInboxWrite c d v) s = .next t ∧ t.bus = .busError ∧
      t.get F.MBX_STAT_OVERRUN (inboxOf c d) 2 = 1 ∧ t.hst = s.hst) ∧
    (v.toNat % 2 = 1 →
      (∃ t, exec (.clusterDoorbell c d v) s = .next t ∧ t.bus = .written ∧ t.hst.bells = s.hst.bells ++ [(12288 + inboxOf c d, s.now + 12)] ∧ t.regs = s.regs) ∧
      ∃ t, exec (.mbxHirq c v) s = .next t ∧ t.bus = .written ∧ t.out = s.out ++ [.msix (256 + c)] ∧ t.regs = s.regs ∧ t.hst = s.hst)) ∧
  (∀ (s : State) (m : Nat) (ws : List Nat), s.hst.resp.find? (fun r => decide (r.1 = m)) = some (m, ws) → m < 16 →
    ((s.mbxQ (.hostEnd m)).length + ws.length ≤ 8 → ∃ t, exec (.mbxResponse m) s = .next t ∧ t.mbxQ (.hostEnd m) = s.mbxQ (.hostEnd m) ++ ws ∧
      t.hst.resp = dropFirst (fun r => decide (r.1 = m)) s.hst.resp ∧ t.hst.bells = s.hst.bells ++ [(16 + m, s.now + 20)]) ∧
    (8 < (s.mbxQ (.hostEnd m)).length + ws.length → exec (.mbxResponse m) s = .next s)) ∧
  (∀ (s : State), s.mgmtUp = true →
    (∃ b, exec .mgmtStatus s = .next (s.send (.mgmt b)) ∧ b.length = 8 ∧ b[0]? = some (BitVec.ofNat 8 (s.get F.NVCF_STATUS_PHASE 0)) ∧
      b[2]? = some (BitVec.ofNat 8 (s.get F.NVCF_STATUS_ATTEMPTS 0)) ∧ b[3]? = some (BitVec.ofNat 8 (s.get F.NVCF_STATUS_LIMIT 0))) ∧
    (∃ t, exec .telemetryRefresh s = .next t ∧ t = { s with hst := { s.hst with telem := t.hst.telem } } ∧ t.hst.telem.length = 16 ∧
      t.hst.telem.take 6 = leBytes 2 (s.get F.PWR_IN_VIN 0) ++ leBytes 2 (s.get F.PWR_IN_IIN 0) ++ leBytes 2 (s.get F.PWR_IN_PIN 0)) ∧
    (s.hst.telem.length = 16 → exec .mgmtTelemetry s = .next (s.send (.mgmt s.hst.telem))) ∧
    (∃ b, exec .mgmtIdentity s = .next (s.send (.mgmt b)) ∧ b.length = 16 ∧ b.take 8 = leBytes 8 s.fuse.serial) ∧
    exec .mgmtQueueStatus s = .next (s.send (.mgmt [BitVec.ofNat 8 ((8 - (s.mbxQ (.hubEnd 15)).length) * 16 + (s.mbxQ (.hostEnd 15)).length)])) ∧
    (s.mgmt15 = false → exec .mgmtDoorbell s = .next (s.send (.mgmt [])) ∧ ∀ bs, exec (.mgmtMbxWrite bs) s = .next (s.send (.mgmt []))) ∧
    (s.mgmt15 = true → exec .mgmtDoorbell s = .next (s.modHst (fun h => { h with bells := h.bells ++ [(15, s.now + 20)] })) ∧
      (∀ bs : List Byte, bs.length % 4 = 0 → 4 ≤ bs.length → bs.length ≤ 32 →
        let ws := (List.range (bs.length / 4)).map (fun i => leNat ((bs.drop (4 * i)).take 4))
        ((s.mbxQ (.hubEnd 15)).length + ws.length ≤ 8 → known s (.hubEnd 15) ws → ∃ t, exec (.mgmtMbxWrite bs) s = .next t ∧
          t.mbxQ (.hubEnd 15) = s.mbxQ (.hubEnd 15) ++ ws ∧ t.regs = s.regs) ∧
        (8 < (s.mbxQ (.hubEnd 15)).length + ws.length → ∃ t, exec (.mgmtMbxWrite bs) s = .next t ∧ t.out = s.out ++ [.mgmt []] ∧ t.hst = s.hst)) ∧
      (∀ n, let k := min n (s.mbxQ (.hostEnd 15)).length
        ∃ t, exec (.mgmtMbxRead n) s = .next t ∧ t.mbxQ (.hostEnd 15) = (s.mbxQ (.hostEnd 15)).drop k ∧
          t.out = s.out ++ [.mgmt (leBytes 1 (4 * k) ++ ((s.mbxQ (.hostEnd 15)).take k).flatMap (fun w => leBytes 4 (w % 2 ^ 32)))])) ∧
    (s.hubUp = true → s.get F.HUBC_MGMT_ETH_EN 0 = 1 → exec .ethFrameDrop s = .next (s.bump F.HUBC_MGMT_ETH_DROP 0)))

/-- R603, R610 to R612, R722 to R724. -/
def Obligations.HostRequests : Prop :=
  let answered (s t : State) (m : Nat) (ws : List Nat) : Prop := t.hst.resp = s.hst.resp ++ [(m, ws)]
  (∀ (s u : State) (m tag lo hi : Nat), s.takeReq m 0x10 = some (tag, [lo, hi], u) →
    (s.argAddr (lo + hi * 2 ^ 32) 192 = .bad → exec (.identify m) s = .next (u.respond m 0x10 tag 8)) ∧
    (∀ l, s.argAddr (lo + hi * 2 ^ 32) 192 = .hbm l → ∃ t, exec (.identify m) s = .next t ∧ t.readMem l 192 = s.reportHead [] ∧ t.hst.challenge = some 0 ∧
      answered s t m [0x10 * 2 ^ 24 + tag * 2 ^ 16] ∧ (∀ a, a < l ∨ l + 192 ≤ a → t.readByte a = s.readByte a))) ∧
  (∀ (s u : State) (m tag nl nh dl dh : Nat) (ext : List Byte), s.takeReq m 0x1B = some (tag, [nl, nh, dl, dh], u) →
    let n := 192 + 48 * min 64 s.progs.length + 384
    ∀ x l, s.argAddr (nl + nh * 2 ^ 32) 32 = .hbm x → s.argAddr (dl + dh * 2 ^ 32) n = .hbm l →
      ∃ t, exec (.attest m ext) s = .next t ∧ t.readMem l n = s.reportFull (s.readMem x 32) ∧ t.hst.challenge = some (leNat (s.readMem x 32)) ∧
        t.hst.served = false ∧ answered s t m [0x1B * 2 ^ 24 + tag * 2 ^ 16] ∧ (∀ a, a < l ∨ l + n ≤ a → t.readByte a = s.readByte a)) ∧
  (∀ (s u : State) (m tag lo hi mx : Nat), s.takeReq m 0x1C = some (tag, [lo, hi, mx], u) →
    let bs := (Config.certChain.take 8192).take mx
    (s.argAddr (lo + hi * 2 ^ 32) bs.length = .bad → exec (.cert m) s = .next (u.respond m 0x1C tag 8)) ∧
    (∀ l, s.argAddr (lo + hi * 2 ^ 32) bs.length = .hbm l → ∃ t, exec (.cert m) s = .next t ∧ t.readMem l bs.length = bs ∧
      answered s t m [0x1C * 2 ^ 24 + tag * 2 ^ 16 + 2 ^ 8, (Config.certChain.take 8192).length])) ∧
  (∀ (s u : State) (m tag lo hi k v : Nat), s.takeReq m 0x11 = some (tag, [lo, hi, k + 2 ^ 16 * v], u) → k < 2 ^ 16 → v < 2 ^ 11 →
    let base := lo + hi * 2 ^ 32
    let legal : Prop := base % 128 = 0 ∧ (∃ j, 4 ≤ j ∧ j ≤ 12 ∧ k = 2 ^ j) ∧ (v ≤ 32 ∨ 256 ≤ v)
    (¬ legal → exec (.eventRing m) s = .next (u.respond m 0x11 tag 3)) ∧
    (legal → s.argAddr base (128 * k) = .bad → exec (.eventRing m) s = .next (u.respond m 0x11 tag 8)) ∧
    (legal → s.argAddr base (128 * k) ≠ .bad → s.events = [] → s.evLost = 0 → ∃ t, exec (.eventRing m) s = .next t ∧
      find? t.rings m = some { base := base, size := k, vector := v, phase := 1, seq := 0 } ∧ t.get F.HUBC_EVQ_VALID 0 m = 1 ∧
      t.get F.HUBC_EVQ_TAIL 0 m = 0 ∧ t.get F.HUBC_EVQ_HEAD 0 m = 0 ∧ answered s t m [0x11 * 2 ^ 24 + tag * 2 ^ 16] ∧ t.mem = s.mem)) ∧
  (∀ (s u : State) (m tag lo hi scope : Nat) (tok : Token), s.takeReq m 0x1D = some (tag, [lo, hi, scope], u) → scope < 2 →
    s.argAddr (lo + hi * 2 ^ 32) 512 ≠ .bad →
    (scope = 0 → s.tokenOk tok = true → tok.perms = 0 → ∃ t, exec (.unlock m tok) s = .next t ∧ t.get F.HUBC_MGMT_DBG_UNLOCKED 0 = 1 ∧
      t.hst.unlockEnd = tok.expiry ∧ answered s t m [0x1D * 2 ^ 24 + tag * 2 ^ 16]) ∧
    (scope = 0 → s.tokenOk tok = false ∨ tok.perms ≠ 0 → exec (.unlock m tok) s = .next (u.respond m 0x1D tag 6)) ∧
    (scope = 1 → s.tokenOk tok = true → s.hst.served = false → s.tvalid = true → tok.perms < 2 ^ 7 → ∃ t, exec (.testUnlock m tok) s = .next t ∧
      t.get F.PERT_STATUS_ACTIVE 0 = 1 ∧ t.get F.PERT_STATUS_PERM 0 = tok.perms ∧ t.hst.token = some (tok.perms, tok.expiry) ∧ t.hst.served = true ∧
      answered s t m [0x1D * 2 ^ 24 + tag * 2 ^ 16]) ∧
    (scope = 1 → s.tokenOk tok = false ∨ s.hst.served = true ∨ s.tvalid = false ∨ 2 ^ 7 ≤ tok.perms →
      exec (.testUnlock m tok) s = .next (u.respond m 0x1D tag 6))) ∧
  (∀ (s : State), (s.get F.HUBC_MGMT_DBG_UNLOCKED 0 = 1 → s.hst.unlockEnd * (10 ^ 9 * 2 ^ 32) ≤ s.timeFull →
      exec .debugUnlockExpiry s = .next (s.set F.HUBC_MGMT_DBG_UNLOCKED 0 0)) ∧
    (∀ p e, s.hst.token = some (p, e) → (e + 1) * (10 ^ 9 * 2 ^ 32) ≤ s.timeFull → ∃ t, exec .tokenLapse s = .next t ∧ t.hst.token = none ∧
      t.get F.PERT_STATUS_ACTIVE 0 = 0 ∧ t.get F.PERT_STATUS_PERM 0 = 0 ∧ t.now = s.now ∧ t.mem = s.mem))

/-- R588 to R596, R604, R620, R621; speed and width of a trained link are any the rules allow. -/
def Obligations.PcieFunction : Prop :=
  (∀ (s : State) (off tag n tg : Nat) (wr : Bool) (bytes : List Byte), s.get F.PCIE_STATUS_DL_ACTIVE 0 = 1 → s.get F.PCIE_STATUS_DSTATE 0 = 0 →
    n = (if wr then bytes.length else n) → 1 ≤ n →
    let a := s.get F.PCIE_BAR4_BASE 0 * 2 ^ 30 + off
    let b := s.bridgeFor a
    (a % 256 + n ≤ 256 → a + n ≤ hbmProg → s.hbmUp = true → s.freeHubTag = some tg →
      ∃ t q h, exec (.bar4Access off wr bytes n tag false) s = .next t ∧ t.hubTags = s.hubTags ++ [h] ∧ h.tag = tg ∧ h.kind = 3 ∧ h.p.rtag = tag ∧
        lookD [] t.stq (nodeKey b.1 (0x40 + b.2)) = lookD [] s.stq (nodeKey b.1 (0x40 + b.2)) ++ [q] ∧ q.typ = (if wr then 1 else 0) ∧ q.addr = a ∧
        q.tag = tg ∧ q.len = n ∧ (wr = true → q.payload = bytes) ∧ t.mem = s.mem) ∧
    (n ≤ 4096 → hbmProg < a + n → ∃ t, exec (.bar4Access off wr bytes n tag false) s = .next t ∧ t.get F.PCIE_EVT_BAR4_UR 0 = 1 ∧ t.stq = s.stq ∧
      t.hubTags = s.hubTags ∧ t.out = (if wr then s.out else s.out ++ [.hostCpl tag false []]))) ∧
  (∀ (s : State) (tag : Nat) (h : HubTag), s.hubTags.find? (fun h => decide (h.kind = 4) && decide (h.tag = tag)) = some h → h.link = 63 →
    ∃ t a, exec (.completionTimeout tag) s = .next t ∧ t.get F.PCIE_EVT_HWIN_REFUSED 0 = 1 ∧ t.hubTag tag = none ∧
      lookD [] t.stq (nodeKey h.p.sdie (0x40 + nodeCol h.p.snode)) = lookD [] s.stq (nodeKey h.p.sdie (0x40 + nodeCol h.p.snode)) ++ [a] ∧
      a.reason = rUNROUTABLE ∧ a.typ = 5 ∧ a.tag = h.p.tag) ∧
  (∀ (s : State) (m : Master) (ring : Nat) (v : Word), s.reach m .HUBC 0 = true → ring < 16 →
    (s.events = [] → s.evLost = 0 → ∃ t, exec (.evqHeadWrite m ring v) s = .next t ∧ t.bus = .written ∧
      t.get F.HUBC_EVQ_HEAD 0 ring = F.HUBC_EVQ_HEAD.of v ∧ t.get F.HUBC_EVQ_TAIL 0 ring = s.get F.HUBC_EVQ_TAIL 0 ring ∧ t.mem = s.mem) ∧
    (∀ r e, s.rings = [(ring, r)] → s.events = [e] → s.evLost = 0 → e.mbx = none → r.size ≤ 4096 →
      (s.get F.HUBC_EVQ_TAIL 0 ring + 1) % r.size ≠ F.HUBC_EVQ_HEAD.of v →
      ∃ t, exec (.evqHeadWrite m ring v) s = .next t ∧ t.events = [] ∧
        t.get F.HUBC_EVQ_TAIL 0 ring = (if s.get F.HUBC_EVQ_TAIL 0 ring + 1 = r.size then 0 else (s.get F.HUBC_EVQ_TAIL 0 ring + 1) % 4096) ∧
        .msix r.vector ∈ t.out)) ∧
  (∀ (s : State), s.get F.PCIE_STATUS_DL_ACTIVE 0 = 1 →
    let ended (t : State) : Prop := t.rings = [] ∧ (∀ k, k < 16 → t.rd ⟨.HUBC_EVQ, 0, k⟩ = 0) ∧ (∀ k, k < 15 → t.mbxQ (.hostEnd k) = [] ∧ t.mbxQ (.hubEnd k) = [])
    (s.hubUp = true → ∃ t, exec .flr s = .next t ∧ ended t ∧ t.busMaster = false ∧ t.get F.PCIE_STATUS_DSTATE 0 = 0 ∧ t.get F.PCIE_EVT_FLR 0 = 1 ∧
      t.get F.PCIE_STATUS_DL_ACTIVE 0 = 1) ∧
    (∃ t, exec .dataLinkDown s = .next t ∧ ended t ∧ t.get F.PCIE_STATUS_DL_ACTIVE 0 = 0 ∧ t.get F.PCIE_EVT_LINK_DOWN 0 = 1 ∧
      t.get F.PCIE_STATUS_SPEED 0 = 0 ∧ t.get F.PCIE_STATUS_WIDTH 0 = 0) ∧
    (s.hubUp = true → ∃ t, exec .perstAssert s = .next t ∧ ended t ∧ t.get F.PCIE_STATUS_DL_ACTIVE 0 = 0 ∧ t.busMaster = false ∧
      t.get F.PCIE_STATUS_DSTATE 0 = 0) ∧
    (∀ d3, exec (.d3hotTransition d3) s = .next (s.set F.PCIE_STATUS_DSTATE 0 (if d3 then 3 else 0)))) ∧
  (∀ (s : State), s.hubUp = true → s.get F.PWR_STATUS_STATE 0 ≠ 3 → s.get F.PWR_STATUS_STATE 0 ≠ 4 → s.get F.PCIE_STATUS_DL_ACTIVE 0 = 0 →
    4 ≤ s.get F.NVCF_STATUS_PHASE 0 ∨ s.chrysalis = true →
    ∃ t, exec .pcieLinkUp s = .next t ∧ t.get F.PCIE_STATUS_DL_ACTIVE 0 = 1 ∧ t.busMaster = true ∧ 1 ≤ t.get F.PCIE_STATUS_SPEED 0 ∧
      t.get F.PCIE_STATUS_SPEED 0 ≤ (if s.chrysalis then 3 else 6) ∧ (∃ j, j < 4 ∧ t.get F.PCIE_STATUS_WIDTH 0 = 2 ^ j % 2 ^ F.PCIE_STATUS_WIDTH.width) ∧
      t.mem = s.mem)

/-! ### Start-up and chrysalis mode (R558 to R579) -/

/-- R566, with R559, R560, R569 to R571, R578, R585 and R696. -/
def Obligations.StartUpPhases : Prop :=
  let ends (s t : State) (p : Nat) : Prop := t.get F.NVCF_STATUS_PHASE 0 = p + 1 ∧ t.start.phaseAt = t.now ∧ t.chrysalis = s.chrysalis ∧
    (s.now = t.now → t.get F.NVCF_PHASE_T_TIME 0 p = (s.now - s.romAt) / usAclk % 2 ^ 32)
  let chry (t : State) (cause : Nat) : Prop := t.chrysalis = true ∧ t.get F.NVCF_STATUS_CHRY_CAUSE 0 = cause ∧ t.started = true
  let again (s t : State) : Prop := t.get F.NVCF_STATUS_PHASE 0 = 1 ∧ t.get F.NVCF_STATUS_ATTEMPTS 0 = s.get F.NVCF_STATUS_ATTEMPTS 0 ∧
    t.get F.NVCF_STATUS_READY 0 = 0 ∧ t.tasks = [] ∧ t.mem = []
  (∀ (s : State) (ok : Bool), (s.atPhase 0 = false → exec (.powerPhase ok) s = .next s) ∧ (ok = false ∨ s.pwr.efuse ≠ 2 → exec (.powerPhase ok) s = .next s) ∧
    (s.atPhase 0 = true → ok = true → s.pwr.efuse = 2 → ∃ t, exec (.powerPhase ok) s = .next t ∧ ends s t 0 ∧ t.now = s.now ∧
      t.get F.CLK_STATUS_XO_OK 0 = 1 ∧ t.get F.CLK_STATUS_ROOT_LOCK 0 = 1 ∧ t.mem = s.mem)) ∧
  (∀ (s : State), (s.atPhase 1 = false → exec .backupPhase s = .next s) ∧
    (s.atPhase 1 = true → s.start.backupOk = true → s.get F.NVCF_STATUS_LIMIT 0 ≤ s.get F.NVCF_STATUS_ATTEMPTS 0 →
      ∃ t, exec .backupPhase s = .next t ∧ chry t 1 ∧ t.get F.NVCF_STATUS_ATTEMPTS 0 = s.get F.NVCF_STATUS_ATTEMPTS 0 ∧ t.mem = s.mem) ∧
    (s.atPhase 1 = true → s.start.backupOk = true → s.get F.NVCF_STATUS_ATTEMPTS 0 < s.get F.NVCF_STATUS_LIMIT 0 →
      ∃ t, exec .backupPhase s = .next t ∧ ends s t 1 ∧ t.now = s.now ∧ t.start.counted = true ∧ t.mem = s.mem ∧ t.pers = s.pers ∧ t.props = s.props ∧
        t.get F.NVCF_STATUS_ATTEMPTS 0 = s.get F.NVCF_STATUS_ATTEMPTS 0 + 1 ∧ t.get F.NVCF_STATUS_LIMIT 0 = s.get F.NVCF_STATUS_LIMIT 0) ∧
    (s.atPhase 1 = true → s.start.backupOk = false → ∃ t, exec .backupPhase s = .next t ∧ ends s t 1 ∧ t.start.backupOk = true ∧
      t.get F.NVCF_STATUS_FIRST_USE 0 = 1 ∧ t.get F.NVCF_STATUS_LIMIT 0 = 3 ∧ t.get F.NVCF_STATUS_ATTEMPTS 0 = 1 ∧ t.pers = [] ∧ t.props = [] ∧
      t.get F.RST_COUNT_COUNT 0 = 0 ∧ (∀ n, t.rd ⟨.RST_HIST, 0, n⟩ = 0) ∧ t.mem = s.mem)) ∧
  (∀ (s : State) (a b : FwImage), (s.atPhase 2 = false → exec (.firmwarePhase a b) s = .next s) ∧
    (s.atPhase 2 = true → s.fwOk a = true → ∃ t, exec (.firmwarePhase a b) s = .next t ∧ ends s t 2 ∧ t.now = s.now ∧ t.start.fw = some a ∧
      t.get F.NVCF_STATUS_FW_COPY 0 = 0 ∧ (s.bootBlockOk = false → t.get F.NVCF_EVT_BOOT_BLOCK 0 = 1) ∧ t.mem = s.mem) ∧
    (s.atPhase 2 = true → s.fwOk a = false → s.fwOk b = true → ∃ t, exec (.firmwarePhase a b) s = .next t ∧ ends s t 2 ∧ t.now = s.now ∧ t.start.fw = some b ∧
      t.get F.NVCF_STATUS_FW_COPY 0 = 1 ∧ t.get F.NVCF_EVT_FW_A_BAD 0 = 1 ∧ t.mem = s.mem) ∧
    (s.atPhase 2 = true → s.fwOk a = false → s.fwOk b = false → ∃ t, exec (.firmwarePhase a b) s = .next t ∧ chry t 2 ∧ t.get F.NVCF_EVT_FW_A_BAD 0 = 1)) ∧
  (∀ (s : State) (a b : CfgImage), (s.atPhase 3 = false → exec (.configPhase a b) s = .next s) ∧
    (s.atPhase 3 = true → s.cfgOk a = true → ∃ t, exec (.configPhase a b) s = .next t ∧ t.get F.NVCF_STATUS_PHASE 0 = 4 ∧ t.start.cfg = some a ∧
      t.get F.NVCF_STATUS_CFG_COPY 0 = 0 ∧ t.get F.NVCF_STATUS_CFG_SEQ 0 = a.seq % 2 ^ 32 ∧ t.get F.NVCF_FABRIC_FABRIC_ID 0 = a.fabricId % 2 ^ 32 ∧
      t.pwr.loop = true) ∧
    (s.atPhase 3 = true → s.cfgOk a = false → s.cfgOk b = true → ∃ t, exec (.configPhase a b) s = .next t ∧ t.get F.NVCF_STATUS_PHASE 0 = 4 ∧
      t.start.cfg = some b ∧ t.get F.NVCF_STATUS_CFG_COPY 0 = 1 ∧ t.get F.NVCF_STATUS_CFG_SEQ 0 = b.seq % 2 ^ 32 ∧ t.pwr.loop = true) ∧
    (s.atPhase 3 = true → s.cfgOk a = false → s.cfgOk b = false → ∃ t, exec (.configPhase a b) s = .next t ∧ chry t 3 ∧ t.get F.NVCF_EVT_CFG_A_BAD 0 = 1)) ∧
  (∀ (s : State) (r : SelfTest), (s.atPhase 4 = false → exec (.selftestPhase r) s = .next s) ∧
    (s.atPhase 4 = true → r.aOk = true → r.bOk = true → s.tripped = false → r.ok = true →
      ∃ t, exec (.selftestPhase r) s = .next t ∧ ends s t 4 ∧ t.now = s.now ∧ t.mem = s.mem) ∧
    (s.atPhase 4 = true → r.aOk = true → r.bOk = true → s.tripped = false → r.ok = false → ∃ t, exec (.selftestPhase r) s = .next t ∧ again s t) ∧
    (s.atPhase 4 = true → r.aOk = true → r.bOk = true → s.tripped = true → ∃ t, exec (.selftestPhase r) s = .next t ∧ t.get F.PWR_STATUS_STATE 0 = 3 ∧
      t.get F.NVCF_STATUS_PHASE 0 = 4 ∧ t.start.counted = false ∧ t.mem = s.mem ∧
      t.get F.NVCF_STATUS_ATTEMPTS 0 = s.get F.NVCF_STATUS_ATTEMPTS 0 - (if s.start.counted then 1 else 0)) ∧
    (s.atPhase 4 = true → r.aOk = false ∨ r.bOk = false → ∃ t, exec (.selftestPhase r) s = .next t ∧ t.tripped = true)) ∧
  (∀ (s : State) (r : DiesResult), (s.atPhase 5 = false → exec (.diesPhase r) s = .next s) ∧
    (s.atPhase 5 = true → 0 ∉ r.dieFail ∨ 1 ∉ r.dieFail → ∃ t, exec (.diesPhase r) s = .next t ∧ t.get F.NVCF_STATUS_PHASE 0 = 6 ∧ t.warmHold = false ∧
      (s.rings = [] → s.start.warm = false → t.mem = []) ∧ (s.rings = [] → s.start.warm = true → t.mem = s.mem)) ∧
    (s.atPhase 5 = true → 0 ∈ r.dieFail → 1 ∈ r.dieFail → ∃ t, exec (.diesPhase r) s = .next t ∧ t.get F.NVCF_STATUS_PHASE 0 = 1 ∧
      t.get F.NVCF_STATUS_READY 0 = 0 ∧ t.tasks = [] ∧ t.mem = [])) ∧
  (∀ (s : State), (s.atPhase 6 = false ∨ s.linksUp = false → exec .linksPhase s = .next s) ∧
    (s.atPhase 6 = true → s.linksUp = true → ∃ t, exec .linksPhase s = .next t ∧ ends s t 6 ∧ t.now = s.now ∧ t.mem = s.mem)) ∧
  (∀ (s : State), (s.atPhase 7 = false → exec .neighbourPhase s = .next s) ∧
    (s.atPhase 7 = true → (∃ n, n < 36 ∧ s.linkActive n = true ∧ s.get F.NVCF_NB_RESULT 0 n = 0) → exec .neighbourPhase s = .next s) ∧
    (s.atPhase 7 = true → (∀ n, n < 36 → s.linkActive n = true → s.get F.NVCF_NB_RESULT 0 n ≠ 0) →
      ∃ t, exec .neighbourPhase s = .next t ∧ ends s t 7 ∧ t.now = s.now ∧ t.mem = s.mem)) ∧
  (∀ (s : State), (s.atPhase 8 = false ∨ s.start.warm = true ∨ s.tvalid = false → exec .timePhase s = .next s) ∧
    (s.atPhase 8 = true → s.start.warm = false → s.tvalid = true →
      ∃ t, exec .timePhase s = .next t ∧ t.get F.NVCF_PHASE_T_TIME 0 8 = (s.now - s.romAt) / usAclk % 2 ^ 32 ∧ t.get F.NVCF_STATUS_PHASE 0 = 8 ∧
        t = { s with regs := t.regs })) ∧
  (∀ (s : State), (s.atPhase 8 = true → s.get F.NVCF_PHASE_T_TIME 0 8 = 0xFFFFFFFF → exec .readyPhase s = .next s) ∧
    (s.atPhase 8 = true → s.get F.NVCF_PHASE_T_TIME 0 8 ≠ 0xFFFFFFFF → ∃ t, exec .readyPhase s = .next t ∧ t.get F.NVCF_STATUS_READY 0 = 1 ∧
      t.get F.NVCF_STATUS_PHASE 0 = 9 ∧ t.get F.NVCF_STATUS_ATTEMPTS 0 = 0 ∧ t.get F.NVCF_STATUS_LIMIT 0 = max 2 (s.get F.NVCF_CFG_START_LIMIT 0) ∧
      t.started = true ∧ t.start.warm = false ∧ t.now = s.now ∧ t.mem = s.mem ∧
      t.fuse = { s.fuse with minSvn := t.fuse.minSvn } ∧ s.fuse.minSvn ≤ t.fuse.minSvn)) ∧
  (∀ (s : State) (p : Nat), s.atPhase p = true → (p = 4 → s.tripped = false) → s.start.phaseAt + s.phaseBound p ≤ s.now → let late := s.now
    (p = 0 → exec (.phaseTimeout p) s = .next s) ∧
    (p = 1 → ∃ t, exec (.phaseTimeout p) s = .next t ∧ ends s t 1 ∧ t.now = late ∧ t.get F.NVCF_STATUS_FIRST_USE 0 = 1 ∧ t.get F.NVCF_STATUS_LIMIT 0 = 3) ∧
    (p = 2 ∨ p = 3 → ∃ t, exec (.phaseTimeout p) s = .next t ∧ chry t p ∧ t.now = late) ∧
    (p = 4 ∨ p = 5 → ∃ t, exec (.phaseTimeout p) s = .next t ∧ again s t ∧ t.now = late) ∧
    (p = 6 → ∃ t, exec (.phaseTimeout p) s = .next t ∧ ends s t 6 ∧ t.now = late ∧ (s.linksUp = false → t.get F.NVCF_EVT_LINK_LATE 0 = 1)) ∧
    (p = 7 → ∃ t, exec (.phaseTimeout p) s = .next t ∧ ends s t 7 ∧ t.now = late) ∧
    (p = 8 → s.tvalid = false → s.start.warm = false → ∃ t, exec (.phaseTimeout p) s = .next t ∧ t.get F.NVCF_EVT_TIME_LATE 0 = 1 ∧
      t.get F.NVCF_PHASE_T_TIME 0 8 = (late - s.romAt) / usAclk % 2 ^ 32 ∧ t.now = late))

/-- R579. The status values and the words of a request beyond its code are the model's choices (notes/assumptions/28.md). -/
def Obligations.ChrysalisRequests : Prop :=
  let ready (s : State) (code : Nat) : Prop := s.chrysalis = true ∧ s.episode = none ∧ (s.mbxQ (.hubEnd 0)).head? = some code
  let answered (s t : State) (ws : List Nat) : Prop := t.hst.resp = s.hst.resp ++ [(0, ws)] ∧ t.mbxQ (.hubEnd 0) = []
  let head (code status n : Nat) : Nat := code * 2 ^ 24 + n * 2 ^ 8 + status
  (∀ (s : State), ready s 1 → ∃ t, exec .chStatus s = .next t ∧ t.regs = s.regs ∧
    answered s t [head 1 0 2, (s.rd ⟨.NVCF_STATUS, 0, 0⟩).toNat % 2 ^ 32, (s.rd ⟨.NVCF_STATUS, 0, 0⟩).toNat / 2 ^ 32]) ∧
  (∀ (s : State) (copy fail : Nat) (img : List Byte), ready s 2 → copy < 4 → img.length ≤ (nvPlace copy).2 →
    (fail = 0 → ∃ t, exec (.chProgram copy img fail) s = .next t ∧ answered s t [head 2 0 0] ∧ t.get F.NVCF_STATUS_ATTEMPTS 0 = 0 ∧
      getBytes t.hst.nv (nvPlace copy).1 img.length = img ∧
      ∀ a, a < (nvPlace copy).1 ∨ (nvPlace copy).1 + (nvPlace copy).2 ≤ a → getByte t.hst.nv a = getByte s.hst.nv a) ∧
    (fail ≠ 0 → ∃ t, exec (.chProgram copy img fail) s = .next t ∧ answered s t [head 2 6 1, fail] ∧ t.hst.nv = s.hst.nv ∧ t.regs = s.regs)) ∧
  (∀ (s : State) (hash : Nat), ready s 3 →
    (s.fuse.owner = none → ∃ t, exec (.chSetOwner hash) s = .next t ∧ answered s t [head 3 0 0] ∧ t.fuse = { s.fuse with owner := some hash } ∧ t.regs = s.regs) ∧
    (s.fuse.owner ≠ none → ∃ t, exec (.chSetOwner hash) s = .next t ∧ answered s t [head 3 6 0] ∧ t.fuse = s.fuse ∧ t.regs = s.regs)) ∧
  (∀ (s : State) (addr len host : Nat), ready s 4 →
    (len ≤ 0x4000 → addr + len ≤ 0x4000000 → ∃ t, exec (.chRead addr len host) s = .next t ∧ answered s t [head 4 0 0] ∧
      t.out = s.out ++ [.hostWrite host (getBytes s.hst.nv addr len)] ∧ t.regs = s.regs ∧ t.hst.nv = s.hst.nv) ∧
    (0x4000 < len → ∃ t, exec (.chRead addr len host) s = .next t ∧ answered s t [head 4 3 0] ∧ t.out = s.out)) ∧
  (∀ (s : State), ready s 5 → ∃ t, exec .chClearCount s = .next t ∧ answered s t [head 5 0 0] ∧ t.get F.NVCF_STATUS_ATTEMPTS 0 = 0 ∧ t.hst.nv = s.hst.nv) ∧
  (∀ (s : State), ready s 6 → ∃ t e, exec .chRestart s = .next t ∧ t.episode = some e ∧ e.reach = 2 ∧ e.cause = 2 ^ 8 ∧ t.hst.nv = s.hst.nv) ∧
  (∀ (s : State) (c : Instr) (code : Nat), (c, code) ∈ [(.chStatus, 1), (.chClearCount, 5), (.chRestart, 6)] ∨
      (∃ copy img fail, c = .chProgram copy img fail ∧ code = 2) ∨ (∃ hash, c = .chSetOwner hash ∧ code = 3) ∨
      (∃ addr len host, c = .chRead addr len host ∧ code = 4) → ¬ ready s code → exec c s = .next s)

/-! ### Neighbours and spare modules (R572 to R576) -/

/-- R572 to R576 and steps 1 to 3 of R545. -/
def Obligations.FabricDiscovery : Prop :=
  let said (s t : State) (m cls : Nat) (fields : List Nat) : Prop := ∀ k alt, s.routeLink m = some (k, alt) → t.out = s.out ++ [.linkMsg k cls (m :: fields)]
  let goes (t : State) (m slot imageAddr : Nat) (s : State) : Prop := t.get F.HUBC_ALIAS_ALIAS_EN 0 = 1 ∧ t.get F.HUBC_ALIAS_ALIAS_ID 0 = m % 2 ^ 16 ∧
    ∃ r, t.loadQ = s.loadQ ++ [r] ∧ r.occ = 3 ∧ r.addr = imageAddr ∧ r.report = m * 64 + slot
  (∀ (s : State) (n : Nat), n < 36 → s.linkActive n = true → 6 ≤ s.get F.NVCF_STATUS_PHASE 0 → s.episode = none → s.helloSent n = false →
    ∃ t, exec (.helloSend n) s = .next t ∧ t.regs = s.regs ∧ t.now = s.now ∧ t.mem = s.mem ∧ find? t.start.helloAt n = some s.now ∧
      t.out = s.out ++ [.linkMsg n 1 [0xFFFF, s.modId, n, s.get F.NVCF_FABRIC_FABRIC_ID 0, s.get F.NVCF_FABRIC_FABRIC_GEN 0, s.fuse.serial]]) ∧
  (∀ (s : State) (n : Nat) (h : HelloMsg), n < 36 → s.linkActive n = true →
    let em := s.get F.NVCF_NB_EXPECT_MOD 0 n
    let el := s.get F.NVCF_NB_EXPECT_LINK 0 n
    let fabric : Prop := h.fabricId = s.get F.NVCF_FABRIC_FABRIC_ID 0 ∧ h.fabricGen = s.get F.NVCF_FABRIC_FABRIC_GEN 0
    let modOk : Prop := em = 0xFFFF ∨ h.modId = em
    let linkOk : Prop := el = 63 ∨ h.link = el
    let trained : Prop := h.modId = s.get F.EVL_STATUS_PARTNER_MOD n ∧ h.link = s.get F.EVL_STATUS_PARTNER_LINK n
    let down (r : Nat) : Prop := ∃ t, exec (.hello n h) s = .next t ∧ t.get F.NVCF_NB_RESULT 0 n = r ∧ t.get F.NVCF_NB_ADMITTED 0 n = 0 ∧
      t.get F.EVL_CFG_EN n = 0 ∧ t.linkState n = 0 ∧ t.get F.NVCF_EVT_NEIGHBOUR 0 = 1
    (fabric → modOk → linkOk → trained → ∃ t, exec (.hello n h) s = .next t ∧ t = { s with regs := t.regs } ∧ t.admitted n = true ∧
      t.get F.NVCF_NB_RESULT 0 n = 1 ∧ t.get F.NVCF_NB_SEEN_MOD 0 n = h.modId % 2 ^ 16 ∧ t.linkState n = s.linkState n) ∧
    (¬ fabric → down 4) ∧ (fabric → ¬ modOk → down 2) ∧ (fabric → modOk → ¬ linkOk → down 3) ∧ (fabric → modOk → linkOk → ¬ trained → down 5)) ∧
  (∀ (s : State) (p : Nat), p = s.get F.NVCF_CFG_HB_PERIOD 0 → s.atPhase 9 = true → 0 < p → 0 < s.registrations → s.start.hbAt + p * msAclk ≤ s.now →
    ∃ t, exec .heartbeatSend s = .next t ∧ t.now = s.now ∧ t.start.hbAt = s.now ∧ t.start.hbSeq = (s.start.hbSeq + 1) % 65536 ∧
      said s t (s.get F.NVCF_SPARE_SPARE_MOD 0) 2 [s.modId, (s.start.hbSeq + 1) % 65536, min 255 s.registrations] ∧ t.mem = s.mem) ∧
  (∀ (s : State) (m q : Nat), ∃ t, exec (.heartbeat m q) s = .next t ∧ t = { s with spareRegs := t.spareRegs } ∧
    t.spareRegs = s.spareRegs.map (fun r => if r.mod = m then { r with lastHb := s.now } else r)) ∧
  (∀ (s : State) (m : Nat),
    ((∀ q, q ∈ s.spareRegs → q.mod = m → q.period = 0) → exec (.silent m) s = .next s) ∧
    (∀ r, s.spareRegs.find? (fun q => decide (q.mod = m) && decide (q.period ≠ 0)) = some r → r.lastHb + max 1 r.miss * r.period * msAclk ≤ s.now →
      ∃ t, exec (.silent m) s = .next t ∧ t.now = s.now ∧ t.get F.NVCF_EVT_SILENT 0 = 1 ∧ t.mem = s.mem ∧
      (∀ q, q ∈ s.spareRegs → q.mod = m → q.period ≠ 0 → (q.mod, q.slot) ∈ t.taken) ∧
      (∀ q, q ∈ s.spareRegs → q.mod ≠ m → q ∈ t.spareRegs))) ∧
  (∀ (s : State) (r : RegisterMsg),
    let others := s.spareRegs.filter (fun q => !(decide (q.mod = r.fromMod) && decide (q.slot = r.slot)))
    let answer (t : State) (res : Nat) : Prop := said s t r.fromMod 4 [s.modId, r.slot, res] ∧ t.mem = s.mem ∧ t.tasks = s.tasks
    (s.get F.NVCF_SPARE_SERVES 0 = 0 → ∃ t, exec (.register r) s = .next t ∧ answer t 2 ∧ t.spareRegs = s.spareRegs) ∧
    (s.get F.NVCF_SPARE_SERVES 0 ≠ 0 → 256 ≤ others.length → ∃ t, exec (.register r) s = .next t ∧ answer t 1 ∧ t.spareRegs = s.spareRegs) ∧
    (s.get F.NVCF_SPARE_SERVES 0 ≠ 0 → others.length < 256 → ∃ t q, exec (.register r) s = .next t ∧ answer t 0 ∧ t.spareRegs = others ++ [q] ∧
      q.mod = r.fromMod ∧ q.slot = r.slot ∧ q.period = r.hbPeriod ∧ q.miss = r.hbMiss ∧ q.nbrs = r.nbrs ∧ q.lastHb = s.now ∧
      t.get F.NVCF_SPARE_REG_IN_USE 0 = others.length + 1) ∧
    (∃ t, exec (.unregister r.fromMod r.slot) s = .next t ∧ t.spareRegs = others ∧ t = { s with spareRegs := t.spareRegs, regs := t.regs })) ∧
  (∀ (s : State) (slot res : Nat) (x : TaskSt), s.task? slot = some x → x.reg = 1 →
    (res = 0 → ∃ t, exec (.regAck slot res) s = .next t ∧ t = { s with tasks := t.tasks } ∧ t.task? slot = some { x with reg := 2 }) ∧
    (res ≠ 0 → ∃ t, exec (.regAck slot res) s = .next t ∧ t.task? slot = some { x with reg := 0 } ∧ t.get F.NVCF_EVT_REG_REFUSED 0 = 1 ∧ t.mem = s.mem) ∧
    (x.regAt + 10 * msAclk ≤ s.now → ∃ t, exec (.registerTimeout slot) s = .next t ∧ t.task? slot = some { x with reg := 0 } ∧ t.get F.NVCF_EVT_REG_REFUSED 0 = 1 ∧
      t.now = s.now ∧ t.mem = s.mem)) ∧
  (∀ (s : State) (m : TakeoverMsg),
    let hit := s.spareRegs.find? (fun r => decide (r.mod = m.fromMod) && decide (r.slot = m.slot))
    (hit = none ∨ s.get F.NVCF_SPARE_SERVES 0 = 0 ∨ (m.fromMod, m.slot) ∈ s.taken →
      ∃ t, exec (.takeover m) s = .next t ∧ said s t m.fromMod 7 [s.modId, m.slot, 1] ∧ t.taking = s.taking ∧ t.taken = s.taken ∧ t.loadQ = s.loadQ) ∧
    (∀ r, hit = some r → s.get F.NVCF_SPARE_SERVES 0 = 1 → (m.fromMod, m.slot) ∉ s.taken → ∃ t, exec (.takeover m) s = .next t ∧
      t.taken = s.taken ++ [(m.fromMod, m.slot)] ∧ t.mem = s.mem ∧
      t.spareRegs = s.spareRegs.filter (fun q => !(decide (q.mod = m.fromMod) && decide (q.slot = m.slot))) ∧
      (r.nbrs ≠ [] → t.loadQ = s.loadQ ∧ ∃ k, t.taking = s.taking ++ [k] ∧ k.left = r.nbrs ∧ k.step = 1 ∧ k.asked = true ∧
        ∀ n, n ∈ r.nbrs → ∀ l alt, s.routeLink n = some (l, alt) → Out.linkMsg l 8 [n, m.fromMod] ∈ t.out) ∧
      (r.nbrs = [] → goes t m.fromMod m.slot (descOf m.desc).imageAddr s))) ∧
  (∀ (s : State) (slot res l cause : Nat) (x : TaskSt), slot < 64 → s.task? slot = some x → x.moving = true → x.abort = some (l, cause) → cause < 16 →
    x.resident = false → (x.coreIds.all (fun c => decide (s.get F.CC_TASK_STATUS_SEEN c = 0))) = true → s.rings = [] → s.events.length < 128 →
    ∃ t ev, exec (.takeAck slot res) s = .next t ∧ t.task? slot = none ∧ t.get F.HUBC_TASK_VALID 0 slot = 0 ∧ t.events = s.events ++ [ev] ∧ ev.kind = 2 ∧
      ev.record.take 2 = leBytes 1 (if res = 0 then 5 else 4) ++ leBytes 1 cause) ∧
  (∀ (s : State) (m failed : Nat), let hit (n : Nat) : Prop := n < 36 ∧ s.linkState n ≠ 0 ∧ s.get F.EVL_STATUS_PARTNER_MOD n = failed
    ∃ (t u : State), exec (.isolate m failed) s = .next t ∧ t = u.hubMsg m 9 [s.modId, ((List.range 36).filter (fun n => decide (s.linkState n ≠ 0) &&
        decide (s.get F.EVL_STATUS_PARTNER_MOD n = failed))).length] ∧
      (∀ n, hit n → t.linkState n = 0 ∧ t.get F.EVL_CFG_EN n = 0) ∧
      ∀ n, n < 36 → ¬ hit n → t.linkState n = s.linkState n ∧ t.get F.EVL_CFG_EN n = s.get F.EVL_CFG_EN n) ∧
  (∀ (s : State) (m links : Nat) (k : TakeSt), s.taking.find? (fun q => decide (q.step = 1) && q.left.contains m) = some k →
    (k.left.filter (· ≠ m) ≠ [] → ∃ t, exec (.isolateAck m links) s = .next t ∧ t = { s with taking := t.taking } ∧
      t.taking = s.taking.map (fun q => if q = k then { k with left := k.left.filter (· ≠ m) } else q)) ∧
    (k.left.filter (· ≠ m) = [] → ∃ t, exec (.isolateAck m links) s = .next t ∧ goes t k.reg.mod k.reg.slot k.reg.desc.imageAddr s ∧ t.mem = s.mem)) ∧
  (∀ (s : State), ((∀ q, q ∈ s.taking → q.step ≠ 1) → exec .isolateTimeout s = .next s) ∧
    ∀ k, s.taking.find? (fun q => decide (q.step = 1)) = some k → k.since + 50 * msAclk ≤ s.now →
      ∃ t, exec .isolateTimeout s = .next t ∧ t.now = s.now ∧
      goes t k.reg.mod k.reg.slot k.reg.desc.imageAddr s ∧ t.mem = s.mem) ∧
  (∀ (s : State) (n a b q : Nat), let known : Prop := n < 36 ∧ s.admitted n = true ∧ s.linkActive n = true
    let newer : Prop := ∀ p, find? s.aseq a = some p → 1 ≤ (q + 2 ^ 32 - p) % 2 ^ 32 ∧ (q + 2 ^ 32 - p) % 2 ^ 32 < 2 ^ 31
    (¬ known → ∃ t, exec (.aliasMsg n a b q) s = .next t ∧ t = { s with regs := t.regs, evNow := t.evNow } ∧ t.get F.EVL_COM_EVT_UNROUTABLE 36 = 1 ∧
      t.get F.EVL_DROP_CNT_UNROUTABLE 36 = min (s.get F.EVL_DROP_CNT_UNROUTABLE 36 + 1) (2 ^ F.EVL_DROP_CNT_UNROUTABLE.width - 1)) ∧
    (known → ¬ newer → exec (.aliasMsg n a b q) s = .next s) ∧
    (known → newer → a < 16384 → b < 16384 → ∃ t, exec (.aliasMsg n a b q) s = .next t ∧ t.rd ⟨.EVL_ROUTE, 36, a⟩ = s.rd ⟨.EVL_ROUTE, 36, b⟩ ∧
      find? t.aseq a = some q ∧ t.get F.NVCF_EVT_ALIAS 0 = 1 ∧ t.mem = s.mem ∧
      ∀ l, l < 36 → l ≠ n → s.admitted l = true → Out.linkMsg l 10 [0xFFFF, a, b, q] ∈ t.out))

/-! ### Resets and clocks (18_reset_and_clocks.md) -/

/-- R621 to R625, R628, R630, R634 to R636, R640, R644. -/
def Obligations.ResetEpisodes : Prop :=
  let begun (s t : State) (src reach : Nat) (rel : Option Nat) (domain : Nat) : Prop :=
    (∃ e, t.episode = some e ∧ e.reach = reach ∧ e.cause = 2 ^ src ∧ e.held = [(src, rel)] ∧ e.domain = domain ∧ e.phase = s.get F.NVCF_STATUS_PHASE 0) ∧
    t.get F.RST_HIST_VALID 0 0 = 1 ∧ t.get F.RST_HIST_REACH 0 0 = 3 - reach ∧ t.get F.RST_HIST_CAUSE 0 0 = 2 ^ src ∧
    t.get F.RST_HIST_DOMAIN 0 0 = domain ∧ t.get F.RST_HIST_PHASE 0 0 = s.get F.NVCF_STATUS_PHASE 0 ∧
    (∀ n f, n < 15 → f ∈ Reg.RST_HIST.info.fields → f.of (t.rd ⟨.RST_HIST, 0, n + 1⟩) = f.of (s.rd ⟨.RST_HIST, 0, n⟩)) ∧
    t.get F.RST_COUNT_COUNT 0 = min (s.get F.RST_COUNT_COUNT 0 + 1) (2 ^ 32 - 1) ∧ t.tasks = [] ∧ t.progs = [] ∧ t.loadQ = [] ∧ t.cores = [] ∧
    t.fuse = s.fuse ∧ t.hst.nv = s.hst.nv ∧ t.pwr.efuse = s.pwr.efuse ∧ t.get F.NVCF_STATUS_READY 0 = 0
  let hub (s t : State) : Prop := t.mem = [] ∧ t.rings = [] ∧ t.started = false ∧
    (∀ k f, f ∈ k.reg.info.fields → keepBackup f = false → f.of (t.rd k) = f.of k.reg.resetWord) ∧
    (∀ k f, f ∈ k.reg.info.fields → keepBackup f = true → k.reg.info.blk = .NVCF ∨ k.reg.info.blk = .SAFE → f.of (t.rd k) = f.of (s.rd k))
  let warm (s t : State) : Prop := t.warmHold = true ∧ t.started = false ∧
    (∀ k f, f ∈ k.reg.info.fields → warmCover k = true → keepBackup f = false → f.of (t.rd k) = f.of k.reg.resetWord) ∧
    (s.tasks = [] → s.loadQ = [] → t.mem = s.mem ∧ ∀ k, k.reg.info.blk ∈ [Blk.TIME, .PWR, .THM, .SAFE, .CLK] → t.rd k = s.rd k)
  (∀ (s : State), s.episode = none → s.start.withdrawn = false →
    (∃ t, exec .powerOnReset s = .next t ∧ begun s t 0 3 (some (s.now + msAclk)) 63 ∧ hub s t) ∧
    (∃ t, exec (.brownOut false) s = .next t ∧ begun s t 1 3 none 63 ∧ hub s t) ∧
    (∃ t, exec (.pinReset true) s = .next t ∧ begun s t 2 2 none 63 ∧ hub s t) ∧
    (∃ t, exec .hubLockup s = .next t ∧ begun s t 5 2 (some (s.now + 10 * usAclk)) 63 ∧ hub s t) ∧
    (∀ p, s.hwdogPeriod = some p → s.watch.kick + p ≤ s.now → ∃ t, exec .hubWatchdogExpiry s = .next t ∧ t.now = s.now ∧
      begun s t 3 2 (some (t.now + 10 * usAclk)) 63 ∧ hub s t) ∧
    (s.hwdogPeriod = none → exec .hubWatchdogExpiry s = .next s) ∧
    (∀ i, clkFatal i = true → s.clkRuns i = true → i < 63 → ∃ t, exec (.pllLockLoss i) s = .next t ∧ begun s t 4 2 none i ∧ hub s t) ∧
    (∀ i, clkFatal i = false ∨ s.clkRuns i = false → exec (.pllLockLoss i) s = .next s) ∧
    (s.get F.HUBC_MGMT_DBG_UNLOCKED 0 = 1 → ∃ t, exec .debugReset s = .next t ∧ begun s t 7 1 (some (s.now + 10 * usAclk)) 63 ∧ warm s t) ∧
    (s.get F.HUBC_MGMT_DBG_UNLOCKED 0 = 0 → exec .debugReset s = .next s) ∧
    (∀ m v, m = .hub ∨ m = .host → s.reach m .RST 0 = true →
      (bitsOf v.toNat 31 16 = 0x5745 → v.toNat % 2 = 1 → ∃ t, exec (.warmResetRequest m v) s = .next t ∧ t.bus = .written ∧
        begun s t 6 1 (some (s.now + 10 * usAclk)) 63 ∧ warm s t) ∧
      (bitsOf v.toNat 31 16 ≠ 0x5745 → ∃ t r, exec (.warmResetRequest m v) s = .next t ∧ t.bus = .written ∧ t.episode = none ∧ t.tasks = s.tasks ∧
        t.mem = s.mem ∧ t.elog.getLast? = some r ∧ r.cls = 0 ∧ r.blk = Blk.RST.code ∧ r.code = 0x102))) ∧
  (∀ (s : State) (e : Episode), s.episode = some e → ∃ t e', exec (.pinReset true) s = .next t ∧ t.episode = some e' ∧ e'.reach = max e.reach 2 ∧
    e'.cause = e.cause ||| 4 ∧ (2, none) ∈ e'.held ∧ (∀ h, h ∈ e.held → h.1 ≠ 2 → h ∈ e'.held) ∧ t.get F.RST_HIST_CAUSE 0 0 = (e.cause ||| 4) % 2 ^ 10 ∧
    t.get F.RST_HIST_REACH 0 0 = 3 - max e.reach 2 ∧ t.get F.RST_COUNT_COUNT 0 = s.get F.RST_COUNT_COUNT 0 ∧
    (2 ≤ e.reach → t.tasks = s.tasks ∧ t.mem = s.mem) ∧ (e.reach < 2 → t.tasks = [] ∧ t.mem = [])) ∧
  (∀ (s : State) (e : Episode), s.episode = some e →
    (∃ t e', exec (.pinReset false) s = .next t ∧ t.regs = s.regs ∧ t.mem = s.mem ∧ t.episode = some e' ∧ t.hst.modRstLow = none ∧
      e'.held = e.held.map (fun h => if h = (2, none) then (2, some s.now) else h) ∧ e'.cause = e.cause) ∧
    (∃ t e', exec (.brownOut true) s = .next t ∧ t.regs = s.regs ∧ t.mem = s.mem ∧ t.episode = some e' ∧
      e'.held = e.held.map (fun h => if h = (1, none) then (1, some (s.now + msAclk)) else h) ∧ e'.cause = e.cause)) ∧
  (∀ (s : State), (s.episode = none → exec .resetRelease s = .next s) ∧ ∀ e, s.episode = some e →
    ((∃ h, h ∈ e.held ∧ h.2 = none) → exec .resetRelease s = .next s) ∧
    ((∀ h, h ∈ e.held → ∃ x, h.2 = some x ∧ x + 10 * usAclk ≤ s.now) → e.lastRel + 10 * usAclk ≤ s.now →
      ∃ t, exec .resetRelease s = .next t ∧ t.episode = none ∧ t.now = s.now ∧
      t.get F.NVCF_STATUS_PHASE 0 = (if e.reach = 1 then 5 else if e.reach = 2 then 1 else 0) ∧ t.start.phaseAt = t.now ∧ t.mem = s.mem ∧ t.tasks = s.tasks ∧
      t.get F.NVCF_STATUS_ATTEMPTS 0 = s.get F.NVCF_STATUS_ATTEMPTS 0 - (if s.start.counted && !e.failed then 1 else 0))) ∧
  (∀ (s : State) (p : Nat), s.hwdogPeriod = some p → 3 < s.get F.NVCF_STATUS_PHASE 0 → s.hubUp = true → s.watch.kick + p / 2 ≤ s.now →
    ∃ t, exec .hwdogWarn s = .next t ∧ t.get F.RST_EVT_HWDOG_WARN 0 = 1 ∧ t = { s with regs := t.regs, evNow := t.evNow } ∧
      ∀ k, k.reg ≠ .RST_EVT → t.rd k = s.rd k) ∧
  (∀ (s : State) (m : Master) (v : Word),
    (s.reach m .RST 0 = true → ∃ t, exec (.rstHwdogKick m v) s = .next t ∧ t.bus = .written ∧ t.watch = { s.watch with kick := s.now } ∧ t.regs = s.regs ∧
      t.mem = s.mem) ∧ (s.reach m .RST 0 = false → exec (.rstHwdogKick m v) s = .next (s.refuseBus m))) ∧
  (∀ (s : State) (freqs : List Nat), s.episode = none → freqs.length ≤ 60 →
    (∀ i f, freqs[i]? = some f → clkCounted i = true → s.clkRuns i = true → s.clkOk i f = true) →
    ∃ t, exec (.clockMonitorWindow freqs) s = .next t ∧ t = { s with regs := t.regs, watch := t.watch } ∧ (∀ k, k.reg ≠ .CLK_MEAS → t.rd k = s.rd k) ∧
      ∀ i f, freqs[i]? = some f → t.get F.CLK_MEAS_FREQ 0 i = (if clkCounted i && s.clkRuns i then (f + 50) / 100 * 100 else 0) % 2 ^ F.CLK_MEAS_FREQ.width) ∧
  (∀ (s : State) (f : Nat), s.episode = none → s.get F.CLK_STATUS_C0_LOCK 0 = 1 → s.clkOk 0 f = false →
    (lookD 0 s.watch.clkBad 0 = 0 → ∃ t, exec (.clockMonitorWindow [f]) s = .next t ∧ t.episode = none ∧ t.get F.CLK_EVT_DEV 0 = 1 ∧
      lookD 0 t.watch.clkBad 0 = 1 ∧ t.mem = s.mem) ∧
    (0 < lookD 0 s.watch.clkBad 0 → ∃ t, exec (.clockMonitorWindow [f]) s = .next t ∧ begun s t 4 2 none 0 ∧ hub s t))

/-- R626, R627, R632, R633, R648, R649. -/
def Obligations.CoreResets : Prop :=
  let stops (s t : State) (c src unit : Nat) : Prop := (t.core c).drain = some (t.now + max 1 (s.get F.RST_CFG_DRAIN 0) * msAclk, src, unit) ∧
    (s.taskAt c = none → t.get F.CC_STATE_STATE c = 0 ∧ t.mem = s.mem ∧ (∀ d, d ≠ c → t.core d = s.core d)) ∧
    (∀ k x, s.taskAt c = some (k, x) → s.taskState k = tsRUNNING → x.abort = none → t.taskState k = tsENDING ∧
      ∃ y, t.task? k = some y ∧ y.abort = some (x.logicalOf c, 8) ∧ y.why = 3)
  let live (s : State) (c : Nat) : Prop := s.episode = none ∧ s.corePresent c = true ∧ s.clusterOn (cluInst c) = true ∧ s.fenced c = false ∧ (s.core c).drain = none
  (∀ (s : State) (c : Nat), live s c →
    (s.get F.CC_WDOG_EN c = 1 → wdCounts (s.get F.CC_STATE_STATE c) = true → s.wdNow c = 0 → ∃ t, exec (.coreWatchdogExpiry c) s = .next t ∧ t.now = s.now ∧
      stops s t c 1 7) ∧
    (s.get F.CC_WDOG_EN c = 0 ∨ wdCounts (s.get F.CC_STATE_STATE c) = false → exec (.coreWatchdogExpiry c) s = .next s) ∧
    (∀ u, u < 5 → ∃ t, exec (.coreLockup c u) s = .next t ∧ t.now = s.now ∧ stops s t c 2 u)) ∧
  (∀ (s : State) (c u : Nat), 5 ≤ u ∨ s.fenced c = true ∨ s.episode ≠ none → exec (.coreLockup c u) s = .next s) ∧
  (∀ (s : State) (m : Master) (c : Nat) (v : Word), s.reach m .CC c = true → ∃ t, exec (.ccWdogWrite m c v) s = .next t ∧ t.bus = .written ∧
    (t.core c).wdLeft = t.get F.CC_WDOG_PERIOD c * 1024 ∧ (t.core c).wdAt = s.now ∧ (∀ d, d ≠ c → t.core d = s.core d) ∧
    (∀ k, k ≠ ⟨.CC_WDOG, c, 0⟩ → sideReg k.reg = false → t.rd k = s.rd k)) ∧
  (∀ (s : State) (c : Nat), (s.core c).drain = none → exec (.coreResetDrainEnd c) s = .next s) ∧
  (∀ (s : State) (c e b u : Nat), (s.core c).drain = some (e, b, u) → b < 4 → u < 8 → c < 2048 →
    (if s.drainTags c then e else e - max 1 (s.get F.RST_CFG_DRAIN 0) * msAclk + 320) ≤ s.now →
    let limit : Bool := decide (max 1 (s.get F.RST_CFG_CORE_LIMIT 0) ≤ (s.core c).resets + 1)
    ∃ t, exec (.coreResetDrainEnd c) s = .next t ∧ (t.core c).drain = none ∧ (t.core c).resets = (s.core c).resets + 1 ∧ (t.core c).code = (s.core c).code ∧
      t.now = s.now ∧ t.get F.RST_EVT_CORE_RESET 0 = 1 ∧
      t.get F.RST_CORE_CNT_COUNT 0 = min (s.get F.RST_CORE_CNT_COUNT 0 + 1) (2 ^ 32 - 1) ∧
      (s.get F.RST_CORE_LOG_VALID 0 = 0 → t.get F.RST_CORE_LOG_VALID 0 = 1 ∧ t.get F.RST_CORE_LOG_SOURCE 0 = b ∧ t.get F.RST_CORE_LOG_UNIT 0 = u ∧
        t.get F.RST_CORE_LOG_CORE 0 = c ∧ t.get F.RST_CORE_LOG_FENCED 0 = b2n limit) ∧
      (s.get F.RST_CORE_LOG_VALID 0 = 1 → t.rd ⟨.RST_CORE_LOG, 0, 0⟩ = s.rd ⟨.RST_CORE_LOG, 0, 0⟩) ∧
      (limit = true → t.fenced c = true ∧ t.get F.RST_EVT_CORE_FENCED 0 = 1) ∧ (limit = false → t.fenced c = s.fenced c) ∧
      (s.rings = [] → t.mem = s.mem) ∧ (∀ d, d ≠ c → t.core d = s.core d))

/-! ### Power, cooling and hot-plug (19_power_cooling_and_hot_plug.md) -/

/-- R658, R660 to R664, R666, R667, R672, R623, R767, R772. -/
def Obligations.PowerAndHotPlug : Prop :=
  (∀ (s : State), (s.pwr.mated ≠ none → exec .prsntMate s = .next s) ∧
    (s.pwr.mated = none → ∃ t, exec .prsntMate s = .next t ∧ t = { s with pwr := t.pwr, regs := t.regs } ∧ t.pwr.mated = some s.now ∧ t.pwr.latched = false ∧
      t.get F.PWR_STATUS_PRSNT 0 = 1)) ∧
  (∀ (s : State) (m : Nat), s.pwr.mated = some m → s.pwr.efuse = 0 → s.pwr.latched = false → s.pwr.wdAt = none → m + 100 * msAclk ≤ s.now →
    ∃ t, exec .efuseSoftStart s = .next t ∧ t.now = s.now ∧ t.pwr.efuse = 1 ∧ t.get F.PWR_STATUS_EFUSE_CLOSED 0 = 0 ∧ t.mem = s.mem) ∧
  (∀ (s : State), s.pwr.mated = none ∨ s.pwr.efuse ≠ 0 ∨ s.pwr.latched = true → exec .efuseSoftStart s = .next s) ∧
  (∀ (s : State), (s.pwr.efuse = 1 → ∃ t, exec .softStartComplete s = .next t ∧ t.pwr = { s.pwr with efuse := 2 } ∧ t.get F.PWR_STATUS_EFUSE_CLOSED 0 = 1 ∧
      t.start.phaseAt = s.now ∧ t.mem = s.mem) ∧ (s.pwr.efuse ≠ 1 → exec .softStartComplete s = .next s)) ∧
  (∀ (s : State) (x : Nat), s.pwr.efuse ≠ 0 →
    let opens (c : Instr) (trip : Nat) (latch : Bool) : Prop := ∃ t e, exec c s = .next t ∧ t.pwr.efuse = 0 ∧ t.pwr.latched = latch ∧
      t.get F.PWR_STATUS_EFUSE_TRIP 0 = trip ∧ t.episode = some e ∧ 3 ≤ e.reach ∧ bitOf e.cause 1 = true ∧ (1, none) ∈ e.held
    (1500 < x → opens (.efuseShort x) 1 true) ∧ (850 < x → opens (.efuseOvercurrent x) 2 true) ∧ (700 < x → opens (.efuseSustained x) 3 true) ∧
    (58000 < x → opens (.efuseOvervoltage x) 4 true) ∧ (x < 37000 → opens (.efuseUndervoltage x) 5 false) ∧
    (x ≤ 1500 → exec (.efuseShort x) s = .next s) ∧ (x ≤ 850 → exec (.efuseOvercurrent x) s = .next s) ∧ (x ≤ 700 → exec (.efuseSustained x) s = .next s) ∧
    (x ≤ 58000 → exec (.efuseOvervoltage x) s = .next s) ∧ (37000 ≤ x → exec (.efuseUndervoltage x) s = .next s)) ∧
  (∀ (s : State), let can : Prop := s.pwr.efuse = 0 ∧ s.pwr.latched = false ∧ s.get F.PWR_STATUS_EFUSE_TRIP 0 = 5 ∧ s.pwr.mated ≠ none ∧ s.pwr.wdAt = none
    (can → ∃ t, exec .undervoltageReclose s = .next t ∧ t.pwr.efuse = 1 ∧ t.mem = s.mem ∧ t.episode = s.episode) ∧
    (¬ can → exec .undervoltageReclose s = .next s)) ∧
  (∀ (s : State), s.pwr.wdAt = none →
    (s.pwr.efuse < 2 → ∃ t, exec .prsntBreak s = .next t ∧ t.pwr.efuse = 0 ∧ t.pwr.mated = none ∧ t.get F.PWR_STATUS_PRSNT 0 = 0 ∧ t.tasks = s.tasks ∧ t.mem = s.mem) ∧
    (2 ≤ s.pwr.efuse → ∃ t, exec .prsntBreak s = .next t ∧ t.pwr.wdAt = some s.now ∧ t.start.withdrawn = true ∧ t.get F.PWR_STATUS_STATE 0 = 4 ∧
      t.get F.TIME_STATUS_VALID 0 = 0 ∧ t.tasks = [] ∧ t.progs = [] ∧ t.loadQ = [] ∧ t.cores = [] ∧ t.pwr.released = true ∧ t.mem = s.mem ∧
      (∀ n, n < 36 → t.linkState n = 0) ∧ t.get F.PCIE_STATUS_DL_ACTIVE 0 = 0 ∧
      t.get F.NVCF_STATUS_ATTEMPTS 0 = s.get F.NVCF_STATUS_ATTEMPTS 0 - (if s.start.counted then 1 else 0))) ∧
  (∀ (s : State), (s.pwr.wdAt = none → exec .withdrawRailsDischarged s = .next s) ∧
    ∀ w, s.pwr.wdAt = some w → w + msAclk ≤ s.now → ∃ t, exec .withdrawRailsDischarged s = .next t ∧ t.now = s.now ∧ t.pwr.efuse = 0 ∧ t.pwr.wdAt = none ∧
      t.mem = [] ∧ t.episode = none ∧ t.start.withdrawn = s.start.withdrawn ∧ t.hst.nv = s.hst.nv ∧
      t.get F.NVCF_STATUS_ATTEMPTS 0 = s.get F.NVCF_STATUS_ATTEMPTS 0) ∧
  (∀ (s : State) (mv a : Nat), s.hubUp = true → mv < 2 ^ 16 → s.pwr.sampAt + 10 * usAclk ≤ s.now →
    let l := (mv * a / 1000 :: s.pwr.samples).take 100000
    ∃ t, exec (.powerSample mv a) s = .next t ∧ t.now = s.now ∧ t.pwr.samples = l ∧ t.get F.PWR_IN_VIN 0 = mv ∧
      t.get F.PWR_IN_PIN 0 = average 100000 l % 2 ^ 16 ∧ (s.powerLimit < average 100000 l → t.get F.PWR_EVT_OVER_LIMIT 0 = 1) ∧
      (29000 < average 1000 l → t.get F.PWR_EVT_OVER_PEAK 0 = 1) ∧
      (s.get F.PWR_CFG_SHED_EN 0 = 0 → t.tasks = s.tasks ∧ t.cores = s.cores ∧ t.mem = s.mem ∧ t.get F.PWR_STATUS_SHED 0 = s.get F.PWR_STATUS_SHED 0) ∧
      (s.get F.PWR_CFG_SHED_EN 0 = 1 → s.shedding = false → 29000 < average 1000 l → t.shedding = true ∧ t.get F.PWR_EVT_SHED 0 = 1 ∧ t.get F.THM_EVT_SHED 0 = 1 ∧
        ∀ k x, s.task? k = some x → x.abort = none → t.taskState k ≠ tsRUNNING ∨ s.taskState k ≠ tsRUNNING)) ∧
  (∀ (s : State), (s.pwr.goodAt = none ∨ s.shedding = false → exec .shedEnd s = .next s) ∧
    ∀ g, s.pwr.goodAt = some g → s.shedding = true → g + 1000 * msAclk ≤ s.now →
      (∀ k, k ∈ s.pwr.shedTasks → s.task? k = none ∨ s.taskState k ≠ tsOUT) →
      ∃ t, exec .shedEnd s = .next t ∧ t.shedding = false ∧ t.get F.PWR_EVT_SHED_END 0 = 1 ∧ t.pwr.shedTasks = [] ∧ t.now = s.now ∧
        t.tasks = s.tasks ∧ t.mem = s.mem) ∧
  (∀ (s : State) (r : Nat), (14 ≤ r → exec (.railFault r) s = .next s) ∧
    (r < 14 → ∃ t, exec (.railFault r) s = .next t ∧ t.get F.PWR_RAIL_FAULT 0 r = 1 ∧ t.get F.PWR_EVT_RAIL_FAULT 0 = 1 ∧ (s.rings = [] → t.mem = s.mem) ∧
      (∀ d, (d = 0 ∧ r ∈ [2, 3, 6, 7]) ∨ (d = 1 ∧ r ∈ [4, 5, 8, 9]) → ∀ cl n, cl < 48 → n < 16 → 48 * d + cl ∉ s.fusedCl → t.fenced (coreId (48 * d + cl) n) = true) ∧
      (r ∉ [2, 3, 4, 5, 6, 7, 8, 9] → t = { s with regs := t.regs, evNow := t.evNow }))) ∧
  (∀ (s : State) (cl : Nat), cl < 96 → s.clusterOn cl = true → 0 < s.get F.PWR_CFG_IDLE_OFF 0 →
    (∀ k x, (k, x) ∈ s.tasks → (∃ c, c ∈ x.coreIds ∧ cluInst c = cl) → s.taskState k = tsOUT ∨ s.taskState k = tsHELD) →
    (s.pwr.idle.find? (fun i => decide (i.1 = cl)) = none → ∃ t, exec (.clusterIdleOff cl) s = .next t ∧ t.pwr.idle = s.pwr.idle ++ [(cl, s.now)] ∧
      t = { s with pwr := t.pwr }) ∧
    (∀ i, s.pwr.idle.find? (fun i => decide (i.1 = cl)) = some i → i.2 + s.get F.PWR_CFG_IDLE_OFF 0 * msAclk ≤ s.now →
      ∃ t, exec (.clusterIdleOff cl) s = .next t ∧ t.clusterOn cl = false ∧ t.mem = s.mem ∧
      t.now = s.now ∧ t.vat cl = {} ∧ (∀ n, n < 16 → (t.core (coreId cl n)).trf = []) ∧
      ∀ k, k < 96 → k ≠ cl → t.clusterOn k = s.clusterOn k ∧ t.vat k = s.vat k)) ∧
  (∀ (s : State) (cl : Nat), (s.pwr.turning.find? (fun t => decide (t.1 = cl)) = none → exec (.clusterPowerGood cl) s = .next s) ∧
    ∀ i, cl < 96 → s.pwr.turning.find? (fun t => decide (t.1 = cl)) = some i → i.2 ≤ s.now → ∃ t, exec (.clusterPowerGood cl) s = .next t ∧ t.clusterOn cl = true ∧
      t.now = s.now ∧ t.mem = s.mem ∧ t.get F.VAT_FREE_FREE cl = 8192 ∧ (∀ n, n < 16 → (t.core (coreId cl n)).trf = [] ∧
        (s.fenced (coreId cl n) = false → t.get F.CC_STATE_STATE (coreId cl n) = 0))) ∧
  (∀ (s : State), ∃ t, exec .p3v3AuxLoss s = .next t ∧ t.hst.auxLost = true ∧ t.safe.bActive = 0 ∧ t.mem = s.mem ∧ t.tasks = s.tasks ∧
    (∀ (k : RKey) (f : Field), f ∈ k.reg.info.fields → f.of (t.rd k) = (if k.reg.info.blk = .SAFE ∧ f.src = .chanB then f.of k.reg.resetWord else f.of (s.rd k)))) ∧
  (∀ (s : State), (s.hst.auxLost = false → exec .supercapacitorHoldExpiry s = .next s) ∧
    (s.hst.auxLost = true → ∃ t, exec .supercapacitorHoldExpiry s = .next t ∧ t.pers = [] ∧ t.props = [] ∧ t.start.backupOk = false ∧ t.mem = s.mem ∧
      ∀ (k : RKey) (f : Field), f ∈ k.reg.info.fields → f.of (t.rd k) = (if f.src = .backup then f.of k.reg.resetWord else f.of (s.rd k)))) ∧
  (∀ (s : State) (b : Bool), exec (.ppsTermEnChange b) s = .next { s with hst := { s.hst with ppsTerm := b } })

/-- R666, R668 to R672, R678, R683, R685; control values in 2^-16 percent (notes/assumptions/25.md). -/
def Obligations.SensorsAndValve : Prop :=
  (∀ (s : State) (r mv a : Nat), (14 ≤ r ∨ s.hubUp = false → exec (.railSample r mv a) s = .next s) ∧
    (r < 14 → s.hubUp = true → mv < 2 ^ 16 → a < 2 ^ 16 → ∃ t, exec (.railSample r mv a) s = .next t ∧ t.get F.PWR_RAIL_V 0 r = mv ∧ t.get F.PWR_RAIL_I 0 r = a ∧
      t.get F.PWR_RAIL_P 0 r = mv * a / 1000 % 2 ^ 16 ∧ t = { s with regs := t.regs, pwr := t.pwr } ∧ (∀ k, k.reg ∉ [Reg.PWR_RAIL, .PWR_RAIL_E] → t.rd k = s.rd k) ∧
      (r ≠ 0 → t.get F.PWR_RAIL_E_ENERGY 0 r = (s.get F.PWR_RAIL_E_ENERGY 0 r + (lookD 0 s.pwr.energyFrac r + mv * a * 10) / 1000) % 2 ^ 64))) ∧
  (∀ (s : State) (n : Nat) (x : Int), (56 ≤ n ∨ s.hubUp = false → exec (.thermalSensorSample n x) s = .next s) ∧
    (n < 56 → s.hubUp = true → s.get F.PWR_CFG_SHED_EN 0 = 0 → ∃ t, exec (.thermalSensorSample n x) s = .next t ∧ t.get F.THM_SENS_TEMP 0 n = wrapInt 16 x ∧
      find? t.pwr.temps n = some x ∧ t = { s with regs := t.regs, pwr := t.pwr, evNow := t.evNow } ∧
      (∀ k, k.reg ∉ [Reg.THM_SENS, .THM_HOT, .THM_EVT] → t.rd k = s.rd k) ∧
      (n < 40 → ((s.get F.THM_LIM_DIE_WARN 0 * 10 : Nat) : Int) ≤ x → t.get F.THM_EVT_DIE_WARN 0 = 1) ∧
      (40 ≤ n → n < 48 → ((s.get F.THM_LIM_HBM_WARN 0 * 10 : Nat) : Int) ≤ x → t.get F.THM_EVT_HBM_WARN 0 = 1) ∧
      (n < 16 → t.get F.THM_HOT_C0 0 = wrapInt 16 (t.hottest 0 16)) ∧ (16 ≤ n → n < 32 → t.get F.THM_HOT_C1 0 = wrapInt 16 (t.hottest 16 16)))) ∧
  (∀ (s : State) (i o : Int) (flow pos : Nat), (s.hubUp = false → exec (.coolantSample i o flow pos) s = .next s) ∧
    (s.hubUp = true → flow < 2 ^ 16 → pos < 2 ^ 8 → s.pwr.coolAt + 10 * msAclk ≤ s.now → ∃ t, exec (.coolantSample i o flow pos) s = .next t ∧ t.now = s.now ∧
      t.get F.THM_COOL_T_IN 0 = wrapInt 16 i ∧ t.get F.THM_COOL_T_OUT 0 = wrapInt 16 o ∧ t.get F.THM_COOL_FLOW 0 = flow ∧ t.get F.THM_COOL_VALVE_POS 0 = pos ∧
      (((s.get F.THM_LIM_INLET_MAX 0 * 10 : Nat) : Int) < i → t.get F.THM_EVT_INLET_HIGH 0 = 1) ∧
      (flow < s.flowMin → (∃ b, s.pwr.flowAt = some b ∧ b + 1000 * msAclk ≤ t.now) → t.get F.THM_EVT_FLOW_LOW 0 = 1) ∧
      (flow < s.flowMin → s.pwr.flowAt = none → t.pwr.flowAt = some t.now ∧ t.get F.THM_EVT_FLOW_LOW 0 = s.get F.THM_EVT_FLOW_LOW 0) ∧
      (s.flowMin ≤ flow → t.pwr.flowAt = none) ∧ t.mem = s.mem ∧ t.tasks = s.tasks ∧ (∀ k, k.reg ∉ [Reg.THM_COOL, .THM_EVT] → t.rd k = s.rd k))) ∧
  (∀ (s : State), (s.pwr.loop = false ∨ s.pwr.released = true ∨ s.hubUp = false → exec .valveStep s = .next s) ∧
    (s.pwr.loop = true → s.pwr.released = false → s.hubUp = true → s.pwr.stepAt + 100 * msAclk ≤ s.now →
      let full : Int := 100 * 65536
      let least : Int := ((min 100 (s.get F.THM_LOOP_OPEN_MIN 0) * 65536 : Nat) : Int)
      let e := sext 16 (s.get F.THM_COOL_T_OUT 0) - sext 16 (s.get F.THM_LOOP_T_SET 0)
      let u := (s.get F.THM_LOOP_KP 0 : Int) * e * 256 / 10 + s.pwr.iAcc
      ∃ t, exec .valveStep s = .next t ∧ t.now = s.now ∧ t.mem = s.mem ∧ (∀ k, k.reg ≠ .THM_COOL → t.rd k = s.rd k) ∧
        (least ≤ u → u ≤ full → t.pwr.iAcc = s.pwr.iAcc + (s.get F.THM_LOOP_KI 0 : Int) * e * 256 / 100) ∧ (u < least ∨ full < u → t.pwr.iAcc = s.pwr.iAcc) ∧
        t.pwr.floor = (if s.get F.THM_COOL_FLOW 0 < s.flowMin then min full (s.pwr.floor + (s.get F.THM_LOOP_FLOW_STEP 0 : Int) * 65536) else s.pwr.floor) ∧
        (s.dieWarn = true ∨ s.hbmWarn = true ∨ s.shedding = true → t.get F.THM_COOL_VALVE_CMD 0 = 100) ∧
        (s.dieWarn = false → s.hbmWarn = false → s.shedding = false → t.pwr.floor ≤ full →
          t.get F.THM_COOL_VALVE_CMD 0 = (max (min full (max least u)) t.pwr.floor / 65536).toNat))) ∧
  (∀ (s : State), (s.pwr.valveAt = none ∨ s.pwr.loop = false ∨ s.pwr.released = true → exec .valveFault s = .next s) ∧
    ∀ v, s.pwr.valveAt = some v → s.pwr.loop = true → s.pwr.released = false → v + 2000 * msAclk ≤ s.now → ∃ t, exec .valveFault s = .next t ∧ t.pwr = { s.pwr with released := true } ∧
      t.now = s.now ∧ t.get F.THM_EVT_VALVE_FAULT 0 = 1 ∧ t.mem = s.mem ∧ ∀ k, k.reg ≠ .THM_EVT → t.rd k = s.rd k)

/-! ### Single-fault safety (20_single_fault_safety.md) -/

/-- R689 to R693, R695, R697, R711, R712, R714. -/
def Obligations.SafetyChannels : Prop :=
  let calm (s : State) : Prop := s.tripped = false ∧ s.hubUp = true ∧ s.episode = none ∧ s.get F.PWR_STATUS_STATE 0 ≠ 3 ∧ s.get F.PWR_STATUS_STATE 0 ≠ 4
  let decided (s t : State) (no chans : Nat) (opens : Bool) : Prop := t.tripped = true ∧ t.tasks = [] ∧ t.cores = [] ∧ t.get F.TIME_STATUS_VALID 0 = 0 ∧
    (∀ n, n < 36 → t.linkState n = 0) ∧ t.get F.PCIE_STATUS_DL_ACTIVE 0 = 0 ∧
    (s.get F.SAFE_TRIP_LOG_VALID 0 = 0 → t.get F.SAFE_TRIP_LOG_VALID 0 = 1 ∧ t.get F.SAFE_TRIP_LOG_HAZARD 0 = no ∧ t.get F.SAFE_TRIP_LOG_CHANNEL 0 = chans) ∧
    (s.get F.SAFE_TRIP_LOG_VALID 0 = 1 → t.get F.SAFE_TRIP_LOG_HAZARD 0 = s.get F.SAFE_TRIP_LOG_HAZARD 0) ∧
    (opens = false → t.get F.PWR_STATUS_STATE 0 = 3 ∧ t.pwr.efuse = s.pwr.efuse ∧ t.get F.SAFE_EVT_TRIP 0 = 1 ∧ t.safe.tripAt = some t.now ∧
      (bitOf chans 0 = true → bitOf (t.get F.SAFE_HAZ_A_ACTIVE 0) no = true) ∧ (bitOf chans 1 = true → bitOf (t.get F.SAFE_HAZ_B_ACTIVE 0) no = true)) ∧
    (opens = true → t.pwr.efuse = 0 ∧ t.get F.SAFE_STATUS_EFUSE_BY_SAFE 0 = 1 ∧ (s.pwr.efuse ≠ 0 → t.get F.PWR_STATUS_EFUSE_TRIP 0 = 6))
  let does (c : Instr) (s : State) (no chans : Nat) (opens : Bool) : Prop := ∃ t, exec c s = .next t ∧ decided s t no chans opens
  (∀ (s : State) (ch : Nat) (v : Int), ch < 2 → calm s → (750 < v → does (.hazInput ch v) s 0 (2 ^ ch) true) ∧ (v ≤ 750 → exec (.hazInput ch v) s = .next s)) ∧
  (∀ (s : State) (ch r : Nat) (v : Int), ch < 2 → calm s →
    let above : Int := ((railNominal r * 112 / 1000 : Nat) : Int)
    let much : Int := ((railMax r * 125 / 100 : Nat) : Int)
    (1 ≤ r → r ≤ 12 → above < v → does (.hazRailOv ch r v) s 1 (2 ^ ch) true) ∧ (r = 0 ∨ 12 < r ∨ v ≤ above → exec (.hazRailOv ch r v) s = .next s) ∧
    (2 ≤ r → r ≤ 11 → much < v → does (.hazRailOc ch r v) s 2 (2 ^ ch) false) ∧ (r < 2 ∨ 11 < r ∨ v ≤ much → exec (.hazRailOc ch r v) s = .next s)) ∧
  (∀ (s : State) (n : Nat) (v : Int), calm s →
    let die : Int := s.safeLim F.SAFE_LIM_DIE_TRIP 115
    let hbm : Int := s.safeLim F.SAFE_LIM_HBM_TRIP 105
    (n < 40 → die ≤ v → does (.hazDieOt 0 n v) s 3 1 false) ∧ (40 ≤ n ∨ v < die → exec (.hazDieOt 0 n v) s = .next s) ∧
    (48 ≤ n → n ≤ 50 → 950 ≤ v → does (.hazDieOt 1 n v) s 3 2 false) ∧ (n < 48 ∨ 50 < n ∨ v < 950 → exec (.hazDieOt 1 n v) s = .next s) ∧
    (40 ≤ n → n ≤ 47 → hbm ≤ v → does (.hazHbmOt 0 n v) s 4 1 false) ∧ (n < 40 ∨ 47 < n ∨ v < hbm → exec (.hazHbmOt 0 n v) s = .next s) ∧
    (51 ≤ n → n ≤ 54 → 900 ≤ v → does (.hazHbmOt 1 n v) s 4 2 false) ∧ (n < 51 ∨ 54 < n ∨ v < 900 → exec (.hazHbmOt 1 n v) s = .next s) ∧
    (3000 < s.get F.PWR_IN_PIN 0 →
      (v < ((10 * max 10 (s.get F.SAFE_LIM_FLOW_TRIP 0) : Nat) : Int) → does (.hazCoolant 0 0 v) s 5 1 false) ∧
      (s.safeLim F.SAFE_LIM_OUT_TRIP 80 ≤ v → does (.hazCoolant 0 1 v) s 5 1 false) ∧
      (v ≤ 0 → does (.hazCoolant 1 0 v) s 5 2 false) ∧ (800 ≤ v → does (.hazCoolant 1 55 v) s 5 2 false)) ∧
    (s.get F.PWR_IN_PIN 0 ≤ 3000 → ∀ ch, exec (.hazCoolant ch n v) s = .next s)) ∧
  (∀ (s : State) (ch p : Nat) (v w : Int), ch < 2 → calm s →
    (find? s.safe.out p = none → exec (.hazXchk ch p v w) s = .next s) ∧
    (∀ x, find? s.safe.out p = some x → x + pairTime p ≤ s.now → ∃ t, exec (.hazXchk ch p v w) s = .next t ∧ decided s t 6 3 (decide (p < 29)) ∧ t.now = s.now)) ∧
  (∀ (s : State) (ch : Nat), (2 ≤ ch → exec (.hazChannel ch) s = .next s) ∧ (ch < 2 → calm s → does (.hazChannel ch) s 7 (2 ^ ch) true)) ∧
  (∀ (s : State) (k vc : Nat), calm s → does (.hazFabric k vc) s 8 1 false) ∧
  (∀ (s : State),
    (s.hubUp = true → s.safe.sentA + msAclk ≤ s.now → ∃ t, exec (.safetyHeartbeatSend 0) s = .next t ∧ t.now = s.now ∧ t.safe.sentA = t.now ∧ t.regs = s.regs ∧
      t.out = s.out ++ [.spi 0 [s.get F.SAFE_HAZ_A_ACTIVE 0, s.get F.SAFE_STATUS_A_ACK 0]] ∧ t.mem = s.mem) ∧
    (s.hst.auxLost = false → s.safe.sentB + msAclk ≤ s.now → ∃ t, exec (.safetyHeartbeatSend 1) s = .next t ∧ t.now = s.now ∧ t.safe.sentB = t.now ∧
      t.regs = s.regs ∧ t.out = s.out ++ [.spi 1 [s.safe.bActive, s.get F.SAFE_STATUS_A_ACK 0]] ∧ t.mem = s.mem)) ∧
  (∀ (s : State) (out : List Nat) (active : Nat),
    (∃ t, exec (.safetyHeartbeat 0 false out active) s = .next t ∧ t.get F.SAFE_EVT_HB_MISS 0 = 1 ∧ t.safe = { s.safe with missA := s.safe.missA + 1 } ∧
      t.get F.SAFE_STATUS_B_OK 0 = 0 ∧ t.mem = s.mem) ∧
    (∃ t, exec (.safetyHeartbeat 1 false out active) s = .next t ∧ t.get F.SAFE_EVT_HB_MISS 0 = 1 ∧ t.safe = { s.safe with missB := s.safe.missB + 1 } ∧ t.mem = s.mem) ∧
    (∃ t, exec (.safetyHeartbeat 0 true out active) s = .next t ∧ t.safe.missA = 0 ∧ t.get F.SAFE_STATUS_B_OK 0 = 1 ∧ t.get F.SAFE_HAZ_B_ACTIVE 0 = active % 512 ∧
      t.safe.bActive = active % 512 ∧ (∀ p, p ∈ out → find? t.safe.out p = some (lookD s.now s.safe.out p)) ∧ (∀ p, p ∉ out → find? t.safe.out p = none) ∧
      ((∃ p, p ∈ out ∧ find? s.safe.out p = none) → t.get F.SAFE_EVT_XCHK_WARN 0 = 1) ∧ t.mem = s.mem) ∧
    (∃ t, exec (.safetyHeartbeat 1 true out active) s = .next t ∧ t.safe.missB = 0 ∧ t.get F.SAFE_HAZ_A_ACTIVE 0 = active % 512 ∧ t.mem = s.mem)) ∧
  (∀ (s : State), (s.tripped = false → exec .safeAck s = .next s) ∧ (s.tripped = true → ∃ t, exec .safeAck s = .next t ∧ t.get F.SAFE_STATUS_A_ACK 0 = 1 ∧
      t.safe = { s.safe with tripAt := none } ∧ t.mem = s.mem ∧ t.pwr = s.pwr) ∧
    (s.safe.tripAt = none ∨ s.get F.SAFE_STATUS_A_ACK 0 = 1 → exec .safeAckTimeout s = .next s) ∧
    (∀ x, s.safe.tripAt = some x → s.get F.SAFE_STATUS_A_ACK 0 = 0 → x + msAclk ≤ s.now → ∃ t, exec .safeAckTimeout s = .next t ∧ t.now = s.now ∧ t.pwr.efuse = 0 ∧
      t.safe.tripAt = none ∧ t.get F.SAFE_STATUS_EFUSE_BY_SAFE 0 = 1)) ∧
  (∀ (s : State) (m : Master) (v : Word),
    let may : Prop := s.get F.SAFE_HAZ_A_ACTIVE 0 = 0 ∧ s.safe.bActive = 0 ∧ s.get F.SAFE_STATUS_REARMS 0 < 3 ∧
      (s.pwr.efuse = 0 → s.get F.PWR_STATUS_EFUSE_TRIP 0 ∈ [2, 3, 6])
    let accepted (t : State) : Prop := t.tripped = false ∧ t.get F.SAFE_STATUS_REARMS 0 = s.get F.SAFE_STATUS_REARMS 0 + 1 ∧ t.get F.SAFE_TRIP_LOG_VALID 0 = 0 ∧
      t.pwr.latched = false ∧ t.pwr.efuse = (if s.pwr.efuse = 0 then 1 else s.pwr.efuse) ∧ ∃ e, t.episode = some e ∧ 2 ≤ e.reach ∧ bitOf e.cause 8 = true
    let refused (t : State) : Prop := t.tripped = true ∧ t.get F.SAFE_EVT_REARM_REFUSED 0 = 1 ∧ t.episode = s.episode ∧ t.pwr = s.pwr ∧ t.mem = s.mem
    (m = .hub ∨ m = .host → s.reach m .SAFE 0 = true →
      (bitsOf v.toNat 31 16 = 0x5241 → v.toNat % 2 = 1 → s.tripped = true →
        (may → ∃ t, exec (.safeRearm m v) s = .next t ∧ t.bus = .written ∧ accepted t) ∧
        (¬ may → ∃ t, exec (.safeRearm m v) s = .next t ∧ t.bus = .written ∧ refused t)) ∧
      (bitsOf v.toNat 31 16 ≠ 0x5241 → ∃ t r, exec (.safeRearm m v) s = .next t ∧ t.bus = .written ∧ t.tripped = s.tripped ∧ t.pwr = s.pwr ∧ t.mem = s.mem ∧
        t.elog.getLast? = some r ∧ r.cls = 0 ∧ r.blk = Blk.SAFE.code ∧ r.code = 0x102)) ∧
    (s.hst.modRstLow = none → exec .rearmPin s = .next s) ∧
    (∀ x, s.hst.modRstLow = some x → s.hst.auxLost = false → s.tripped = true → x + 1000 * msAclk ≤ s.now →
      (may → ∃ t, exec .rearmPin s = .next t ∧ t.now = s.now ∧ accepted t) ∧
      (¬ may → ∃ t, exec .rearmPin s = .next t ∧ t.now = s.now ∧ refused t)))

/-! ### The persistent store, performance counters and perturbation controls (21_test_perturbation_and_counters.md) -/

/-- R708, R721, R725, R732 to R735, R744. -/
def Obligations.StoreCountersControls : Prop :=
  (∀ (s : State) (m : Master), s.reach m .ELOG 0 = true →
    (∃ t, exec (.propClearAll m) s = .next t ∧ t.bus = .written ∧ t.props = [] ∧ t.get F.ELOG_STATUS_PROPS 0 = 0 ∧ (∀ n, n < 32 → t.rd ⟨.ELOG_PROP, 0, n⟩ = 0) ∧
      t.pers = s.pers ∧ t.elog = s.elog ∧ t.mem = s.mem) ∧
    (∃ t, exec (.persClear m) s = .next t ∧ t.bus = .written ∧ t.pers = [] ∧ t.get F.ELOG_STATUS_PERS 0 = 0 ∧ t.props = s.props ∧ t.elog = s.elog ∧ t.mem = s.mem) ∧
    (∀ n, ∃ t, exec (.propClearIndex m n) s = .next t ∧ t.bus = .written ∧ find? t.props (n % 32) = none ∧ (∀ j, j ≠ n % 32 → find? t.props j = find? s.props j) ∧
      t.rd ⟨.ELOG_PROP, 0, n % 32⟩ = 0 ∧ t.pers = s.pers ∧ t.elog = s.elog ∧ t.mem = s.mem)) ∧
  (∀ (s : State) (m : Master) (n : Nat), s.reach m .ELOG 0 = false → exec (.propClearAll m) s = .next (s.refuseBus m) ∧
    exec (.persClear m) s = .next (s.refuseBus m) ∧ exec (.propClearIndex m n) s = .next (s.refuseBus m)) ∧
  (∀ (s : State) (m : Master) (i k events : Nat) (v : Word), (8 ≤ k ∨ pmonOwned (i / 2048) = none → exec (.pmonCntWrite m i k v events) s = .next (s.refuseBus m)) ∧
    (k < 8 → pmonOwned (i / 2048) ≠ none → s.reach m .PMON i = true →
      (s.pmonCounts i k = false → ∃ t, exec (.pmonCntWrite m i k v events) s = .next t ∧ t.bus = .written ∧ t.rd ⟨.PMON_CNT, i, k⟩ = v ∧ t.mem = s.mem ∧
        ∀ j, j ≠ ⟨.PMON_CNT, i, k⟩ → t.rd j = s.rd j) ∧
      (s.pmonCounts i k = true → ∃ t, exec (.pmonCntWrite m i k v events) s = .next t ∧ t.bus = .written ∧ t.mem = s.mem ∧
        t.rd ⟨.PMON_CNT, i, k⟩ = v + BitVec.ofNat 64 (min events 64) ∧
        (2 ^ 48 ≤ v.toNat % 2 ^ 48 + min events 64 → bitOf (t.get F.PMON_WRAP_WRAP i) k = true) ∧
        (v.toNat % 2 ^ 48 + min events 64 < 2 ^ 48 → t.get F.PMON_WRAP_WRAP i = s.get F.PMON_WRAP_WRAP i) ∧
        ∀ j, j ≠ ⟨.PMON_CNT, i, k⟩ → j ≠ ⟨.PMON_WRAP, i, 0⟩ → t.rd j = s.rd j))) ∧
  (∀ (s : State) (m : Master) (v : Word), s.reach m .PMON (pmonOf .PMON 0) = true → ∃ t, exec (.pmonGfreezeWrite m v) s = .next t ∧ t.bus = .written ∧
    t.get F.PMON_GFREEZE_FREEZE (pmonOf .PMON 0) = v.toNat % 2 ∧ (v.toNat % 2 = 1 → ∀ i k, t.pmonCounts i k = false) ∧ t.mem = s.mem ∧
    ∀ j, j ≠ ⟨.PMON_GFREEZE, pmonOf .PMON 0, 0⟩ → t.rd j = s.rd j) ∧
  (∀ (s : State) (m : Master) (off n : Nat) (v : Word) (p : RegPlace), placeAt m off = some p → p.hit.high = false →
    off % (if p.hit.reg.info.wide then 8 else 4) = 0 → s.placeReach m p = true → pertClass p.hit.reg = some n → s.pertGranted n = false →
    ∃ t r, exec (.registerWrite m off (if p.hit.reg.info.wide then .w64 else .w32) v) s = .next t ∧ t.bus = .written ∧ t.rd p.key = s.rd p.key ∧
      (∀ k, sideReg k.reg = false → t.rd k = s.rd k) ∧ t.elog.getLast? = some r ∧ r.cls = 0 ∧ r.blk = Blk.PERT.code ∧ r.code = 0x101)

/-! ### The block as a whole -/

/-- The queue of commands: DESIGN CHOICE, notes/assumptions/2.md. -/
def Obligations.StepRunsFront : Prop :=
  (∀ (s : State) (c : Instr) (more : List Instr), s.pending = c :: more → step s = exec c { s with pending := more }) ∧
  (∀ (s : State), s.pending = [] → step s = .next (s.at_ (s.now + 1))) ∧
  (∀ (s : State), s.pending = [] → (∀ u c, s.nextTick = some (u, c) → s.now < u) → (∀ r ∈ s.regs, r.1.reg ≠ .PMON_CFG) →
    step s = .next { s with now := s.now + 1, evNow := [] })

/-- `Memory.wf` is kept by every command, from every state that has it. That an unlisted byte reads 0 is notes/assumptions/5.md. -/
def Obligations.MemoryCanonical : Prop :=
  ∀ (s t : State), Memory.wf s.mem → step s = .next t → Memory.wf t.mem

/-- R10, R580, and the queue of the block's form. -/
def Obligations.ResetState : Prop :=
  State.reset.pending = [] ∧ State.reset.mem = [] ∧ Memory.wf State.reset.mem ∧ (∀ k, State.reset.rd k = k.reg.resetWord) ∧
  State.reset.tasks = [] ∧ State.reset.progs = [] ∧ State.reset.loadQ = [] ∧ State.reset.out = [] ∧ State.reset.get F.NVCF_STATUS_PHASE 0 = 0 ∧
  State.reset.get F.NVCF_STATUS_READY 0 = 0 ∧ State.reset.tripped = false ∧ State.reset.tvalid = false ∧ (∀ n, State.reset.linkState n = 0) ∧
  (∀ c, State.reset.get F.CC_STATE_STATE c = 0 ∧ State.reset.fenced c = false) ∧ (∀ a, State.reset.readByte a = 0) ∧
  (∀ r ∈ [Reg.ME_CHK_CFG, .SPD_CFG, .SAFE_LIM, .PWR_CFG, .NVCF_CFG, .RST_CFG], ∀ f ∈ r.info.fields, f.src = .nv → f.of r.resetWord = 0)

/-! ### Packets at the hub, and the loader: where they complete (11_evpen_links.md, 14_program_images_and_verifier.md) -/

/-- R409, R412, R413, R418, R513, R602, R603: each conclusion is the next state of the command's own effect, on conditions on the state and the
operands alone. -/
def Obligations.HubAndLoaderComplete : Prop :=
  let popped (s : State) (k vc : Nat) (more : List Packet) : State := s.modLink k (fun l => { l with rxq := putD natLt [] l.rxq vc more })
  (∀ (s : State) (k vc n : Nat) (p : Packet) (more : List Packet), lookD [] (s.link k).rxq vc = p :: more → s.admitted k = true → vc ≤ 2 → p.typ ≠ 8 →
    s.ownMod p.mod = false → s.routeLink p.mod = some (n, false) →
    exec (.linkPacketForward k vc) s = .next ((popped s k vc more).linkQueue n p false)) ∧
  (∀ (s : State) (k vc : Nat) (p : Packet) (more : List Packet), lookD [] (s.link k).rxq vc = p :: more → s.admitted k = false →
    exec (.linkPacketForward k vc) s = .next ((popped s k vc more).unroutable p k)) ∧
  (∀ (s : State) (k : Nat) (p : Packet) (more : List Packet), lookD [] (s.link k).rxq 3 = p :: more → s.admitted k = true → p.typ = 16 →
    s.ownMod p.mod = true → (sigOf p.smod (s.now + 39) p.payload).win ≠ 8 →
    exec (.linkSignal k) s = .next ((popped s k 3 more).sigTo (sigOf p.smod (s.now + 39) p.payload))) ∧
  (∀ (s : State) (tag : Nat) (h : HubTag), s.hubTag tag = some h → h.kind = 0 → h.at_ + max 1 (s.get F.EVL_TAG_CFG_TIMEOUT 36) * 19000 ≤ s.now →
    ∃ t, exec (.hubTagTimeout tag) s = .next t ∧ t.hubTag tag = none ∧ (∀ j, j ≠ tag → t.hubTag j = s.hubTag j) ∧ t.get F.EVL_COM_EVT_TAG_TIMEOUT 36 = 1 ∧
      (∃ a, a.reason = rUNROUTABLE ∧ a.tag = h.p.tag ∧ a ∈ lookD [] t.stq (nodeKey h.p.sdie (0x40 + nodeCol h.p.snode))) ∧
      t.now = s.now ∧ t.mem = s.mem) ∧
  (∀ (s : State) (m tag a0 a1 r0 r1 : Nat) (more : List Nat), m < 16 → tag < 256 → s.hubServes = true →
    s.mbxQ (.hubEnd m) = (0x12 * 2 ^ 24 + tag * 2 ^ 16 + 5 * 2 ^ 8) :: a0 :: a1 :: r0 :: r1 :: 0 :: more → a0 < 2 ^ 32 → a1 < 2 ^ 32 → r0 < 2 ^ 32 → r1 < 2 ^ 32 →
    s.argAddr (a0 + a1 * 2 ^ 32) 64 ≠ .bad → s.argAddr (r0 + r1 * 2 ^ 32) 1024 ≠ .bad → s.tripped = false → s.loadQ.length < 16 →
    ∃ t, exec (.load m) s = .next t ∧ t.mbxQ (.hubEnd m) = more ∧
      t.loadQ = s.loadQ ++ [{ occ := 1, mbx := some m, tag := tag, addr := a0 + a1 * 2 ^ 32, report := r0 + r1 * 2 ^ 32 }] ∧
      t.hst.resp = s.hst.resp ++ [(m, [0x12 * 2 ^ 24 + tag * 2 ^ 16 + 1])] ∧ t.regs = s.regs ∧ t.progs = s.progs ∧ t.mem = s.mem ∧ t.now = s.now) ∧
  (∀ (s : State) (r : LoadReq) (more : List LoadReq) (o : LoaderOutcome), s.loadQ = r :: more → r.occ = 1 → r.task = none → s.chrysalis = false →
    s.tripped = false → s.warmHold = false → 6 ≤ s.get F.NVCF_STATUS_PHASE 0 →
    let u := ({ s with loadQ := more } : State).copyImage r o o.img.len
    let v := firstViol (u.allViols o.img s.signPolicy.1 s.signPolicy.2 (o.img.coreMap []) (basesOf o.img (o.img.coreMap []) o.bases) false false)
    ∃ t, exec (.loaderRun o) s = .next t ∧ t.loadQ = more ∧ t.tasks = s.tasks ∧ (v ≠ none → t.progs = s.progs) ∧
      (v = none → ∃ p, t.progs = s.progs ++ [p] ∧ p.id = o.img.progId ∧ p.img = o.img ∧ p.cores = o.img.coreMap [])) ∧
  (∀ (s : State) (m tag lo hi : Nat) (more : List Nat), m < 16 → tag < 256 → s.hubServes = true →
    s.mbxQ (.hubEnd m) = (0x13 * 2 ^ 24 + tag * 2 ^ 16 + 2 * 2 ^ 8) :: lo :: hi :: more → lo < 2 ^ 32 → hi < 2 ^ 32 →
    s.progOf (lo + hi * 2 ^ 32) ≠ none → (∀ k x, (k, x) ∈ s.tasks → x.prog = lo + hi * 2 ^ 32 → s.taskState k = tsHELD) →
    ∃ t, exec (.unload m) s = .next t ∧ t.mbxQ (.hubEnd m) = more ∧ t.progOf (lo + hi * 2 ^ 32) = none ∧
      (∀ j, j ≠ lo + hi * 2 ^ 32 → t.progOf j = s.progOf j) ∧
      t.hst.resp = s.hst.resp ++ [(m, [0x13 * 2 ^ 24 + tag * 2 ^ 16])] ∧ t.tasks = s.tasks ∧ t.mem = s.mem ∧ t.now = s.now)
end

