-- ==== Sys2Proof/Laws/Sparse.lean ====
section
/-! SUPPORT. Laws of the sparse maps: what a write reads back, what it leaves, and that it keeps the canonical form. -/

namespace Sys2Proof.Machine

variable {K V : Type} [DecidableEq K] [DecidableEq V]

omit [DecidableEq V] in
@[simp] theorem find?_insertAt_same (lt : K → K → Bool) (l : List (K × V)) (k : K) (v : V) :
    find? (insertAt lt l k v) k = some v := by
  induction l with
  | nil => simp [insertAt, find?]
  | cons p t ih =>
    obtain ⟨k', v'⟩ := p
    by_cases h : k' = k
    · simp [insertAt, find?, h]
    · by_cases h2 : lt k k' = true
      · simp [insertAt, find?, h, h2]
      · simp [insertAt, find?, h, h2, ih]

omit [DecidableEq V] in
theorem find?_insertAt_other (lt : K → K → Bool) (l : List (K × V)) {k j : K} (v : V) (h : j ≠ k) :
    find? (insertAt lt l k v) j = find? l j := by
  induction l with
  | nil => simp [insertAt, find?, h.symm]
  | cons p t ih =>
    obtain ⟨k', v'⟩ := p
    by_cases h1 : k' = k
    · subst h1; simp [insertAt, find?, h.symm]
    · by_cases h2 : lt k k' = true
      · simp [insertAt, find?, h1, h2, h.symm]
      · simp [insertAt, find?, h1, h2, ih]

omit [DecidableEq V] in
@[simp] theorem find?_dropKey_same (l : List (K × V)) (k : K) : find? (dropKey l k) k = none := by
  induction l with
  | nil => rfl
  | cons p t ih =>
    obtain ⟨k', v'⟩ := p
    by_cases h : k' = k
    · simpa [dropKey, h] using ih
    · simpa [dropKey, find?, h] using ih

omit [DecidableEq V] in
theorem find?_dropKey_other (l : List (K × V)) {k j : K} (h : j ≠ k) : find? (dropKey l k) j = find? l j := by
  induction l with
  | nil => rfl
  | cons p t ih =>
    obtain ⟨k', v'⟩ := p
    by_cases h1 : k' = k
    · subst h1
      have h2 : ¬ k' = j := fun e => h e.symm
      simpa [dropKey, find?, h2] using ih
    · by_cases h3 : k' = j
      · subst h3; simp [dropKey, find?, h1]
      · simpa [dropKey, find?, h1, h3] using ih

@[simp] theorem lookD_putD_same (lt : K → K → Bool) (d : V) (l : List (K × V)) (k : K) (v : V) :
    lookD d (putD lt d l k v) k = v := by
  unfold lookD putD; split <;> simp [*]

theorem lookD_putD_other (lt : K → K → Bool) (d e : V) (l : List (K × V)) {k j : K} (v : V) (h : j ≠ k) :
    lookD e (putD lt d l k v) j = lookD e l j := by
  unfold lookD putD; split
  · rw [find?_dropKey_other _ h]
  · rw [find?_insertAt_other _ _ _ h]

theorem lookD_putD (lt : K → K → Bool) (d : V) (l : List (K × V)) (k j : K) (v : V) :
    lookD d (putD lt d l k v) j = if j = k then v else lookD d l j := by
  split
  · next h => subst h; simp
  · next h => exact lookD_putD_other lt d d l v h

/-! ### The canonical form -/

/-- An order that sorts: transitive, and of two different keys one comes first. -/
structure Sorts (lt : K → K → Bool) : Prop where
  trans : ∀ a b c, lt a b = true → lt b c = true → lt a c = true
  total : ∀ a b, a ≠ b → lt a b = false → lt b a = true

theorem natLt_sorts : Sorts natLt where
  trans a b c h1 h2 := by simp [natLt] at *; omega
  total a b h1 h2 := by simp [natLt] at *; omega

/-- Every key of a list comes after `k`. -/
def after (lt : K → K → Bool) (k : K) (l : List (K × V)) : Prop := ∀ p ∈ l, lt k p.1 = true

omit [DecidableEq K] in
theorem canon_cons_iff (lt : K → K → Bool) (ht : ∀ a b c, lt a b = true → lt b c = true → lt a c = true) (d : K → V)
    (k : K) (v : V) (l : List (K × V)) :
    canon lt d ((k, v) :: l) = true ↔ v ≠ d k ∧ after lt k l ∧ canon lt d l = true := by
  induction l generalizing k v with
  | nil => simp [canon, after]
  | cons p t ih =>
    obtain ⟨k', v'⟩ := p
    have := ih k' v'
    simp only [canon, Bool.and_eq_true, decide_eq_true_eq]
    constructor
    · rintro ⟨⟨h1, h2⟩, h3⟩
      refine ⟨h1, ?_, h3⟩
      intro q hq
      rcases List.mem_cons.mp hq with rfl | hq
      · exact h2
      · exact ht _ _ _ h2 ((this.mp h3).2.1 q hq)
    · rintro ⟨h1, h2, h3⟩
      exact ⟨⟨h1, h2 _ (List.mem_cons_self ..)⟩, h3⟩

theorem canon_dropKey (lt : K → K → Bool) (hs : Sorts lt) (d : K → V) (l : List (K × V)) (k : K) (h : canon lt d l = true) :
    canon lt d (dropKey l k) = true := by
  induction l with
  | nil => rfl
  | cons p t ih =>
    obtain ⟨k', v'⟩ := p
    obtain ⟨h1, h2, h3⟩ := (canon_cons_iff lt hs.trans d k' v' t).mp h
    by_cases e : k' = k
    · simpa [dropKey, e] using ih h3
    · have : dropKey ((k', v') :: t) k = (k', v') :: dropKey t k := by simp [dropKey, e]
      rw [this, canon_cons_iff lt hs.trans]
      exact ⟨h1, fun q hq => h2 q (List.mem_of_mem_filter hq), ih h3⟩

omit [DecidableEq V] in
theorem after_insertAt (lt : K → K → Bool) (l : List (K × V)) {j k : K} (v : V) (hj : lt j k = true) (h : after lt j l) :
    after lt j (insertAt lt l k v) := by
  induction l with
  | nil => intro p hp; simp [insertAt] at hp; simp [hp, hj]
  | cons p t ih =>
    obtain ⟨k', v'⟩ := p
    have ht : after lt j t := fun q hq => h q (List.mem_cons_of_mem _ hq)
    intro q hq
    simp only [insertAt] at hq
    split at hq
    · rcases List.mem_cons.mp hq with rfl | hq
      · exact hj
      · exact ht q hq
    · split at hq
      · rcases List.mem_cons.mp hq with rfl | hq
        · exact hj
        · exact h q hq
      · rcases List.mem_cons.mp hq with rfl | hq
        · exact h _ (List.mem_cons_self ..)
        · exact ih ht q hq

theorem canon_insertAt (lt : K → K → Bool) (hs : Sorts lt) (d : K → V) (l : List (K × V)) (k : K) (v : V) (hv : v ≠ d k)
    (h : canon lt d l = true) : canon lt d (insertAt lt l k v) = true := by
  induction l with
  | nil => simp [insertAt, canon, hv]
  | cons p t ih =>
    obtain ⟨k', v'⟩ := p
    obtain ⟨h1, h2, h3⟩ := (canon_cons_iff lt hs.trans d k' v' t).mp h
    simp only [insertAt]
    split
    · next e => subst e; exact (canon_cons_iff lt hs.trans d k' v t).mpr ⟨hv, h2, h3⟩
    · next e =>
      split
      · next e2 =>
        refine (canon_cons_iff lt hs.trans d k v _).mpr ⟨hv, ?_, h⟩
        intro q hq
        rcases List.mem_cons.mp hq with rfl | hq
        · exact e2
        · exact hs.trans _ _ _ e2 (h2 q hq)
      · next e2 =>
        refine (canon_cons_iff lt hs.trans d k' v' _).mpr ⟨h1, ?_, ih h3⟩
        exact after_insertAt lt t v (hs.total k k' (fun x => e x.symm) (by simpa using e2)) h2

theorem canon_putD (lt : K → K → Bool) (hs : Sorts lt) (d : V) (l : List (K × V)) (k : K) (v : V)
    (h : canon lt (fun _ => d) l = true) : canon lt (fun _ => d) (putD lt d l k v) = true := by
  unfold putD; split
  · exact canon_dropKey lt hs _ l k h
  · next e => exact canon_insertAt lt hs _ l k v e h

/-- Maps whose default depends on the key. -/
theorem canon_putD' (lt : K → K → Bool) (hs : Sorts lt) (d : K → V) (l : List (K × V)) (k : K) (v : V)
    (h : canon lt d l = true) : canon lt d (putD lt (d k) l k v) = true := by
  unfold putD; split
  · exact canon_dropKey lt hs _ l k h
  · next e => exact canon_insertAt lt hs _ l k v e h

/-! ### Byte spaces -/

@[simp] theorem getByte_putByte_same (m : List (Nat × Byte)) (a : Nat) (b : Byte) : getByte (putByte m a b) a = b := by
  simp [getByte, putByte]

theorem getByte_putByte_other (m : List (Nat × Byte)) {a j : Nat} (b : Byte) (h : j ≠ a) :
    getByte (putByte m a b) j = getByte m j := lookD_putD_other _ _ _ _ _ h

/-- A byte outside the bytes written reads as before. -/
theorem getByte_putBytes_other (bs : List Byte) (m : List (Nat × Byte)) (a j : Nat) (h : j < a ∨ a + bs.length ≤ j) :
    getByte (putBytes m a bs) j = getByte m j := by
  induction bs generalizing m a with
  | nil => rfl
  | cons b bs ih =>
    simp only [List.length_cons] at h
    rw [putBytes, ih _ _ (by omega), getByte_putByte_other _ _ (by omega)]

/-- Bytes written are read back. -/
theorem getBytes_putBytes_same (bs : List Byte) (m : List (Nat × Byte)) (a : Nat) :
    getBytes (putBytes m a bs) a bs.length = bs := by
  induction bs generalizing m a with
  | nil => rfl
  | cons b bs ih =>
    simp only [putBytes, List.length_cons, getBytes]
    rw [ih, getByte_putBytes_other _ _ _ _ (by omega), getByte_putByte_same]

@[simp] theorem getBytes_length (m : List (Nat × Byte)) (a n : Nat) : (getBytes m a n).length = n := by
  induction n generalizing a with
  | zero => rfl
  | succ n ih => simp [getBytes, ih]

theorem canon_putByte (m : List (Nat × Byte)) (a : Nat) (b : Byte) (h : canon natLt (fun _ => (0 : Byte)) m = true) :
    canon natLt (fun _ => (0 : Byte)) (putByte m a b) = true := canon_putD natLt natLt_sorts 0 m a b h

theorem canon_putBytes (bs : List Byte) (m : List (Nat × Byte)) (a : Nat) (h : canon natLt (fun _ => (0 : Byte)) m = true) :
    canon natLt (fun _ => (0 : Byte)) (putBytes m a bs) = true := by
  induction bs generalizing m a with
  | nil => exact h
  | cons b bs ih => exact ih _ _ (canon_putByte _ _ _ h)

end Sys2Proof.Machine
end

