-- ==== Sys2Proof/Laws/Fields.lean ====
section
/-! SUPPORT. Laws of registers and fields: what a write of a field reads back, and which fields and registers it leaves. -/

namespace Sys2Proof.Machine

open Sys2Proof

/-- A field's bits lie in a 64-bit register. -/
def Field.ok (f : Field) : Bool := decide (f.lo ≤ f.hi) && decide (f.hi < 64)

/-- Two fields share no bit. -/
def Field.apart (f g : Field) : Bool := decide (f.hi < g.lo) || decide (g.hi < f.lo)

theorem Field.mask_bit (f : Field) (h : f.ok = true) (i : Nat) (hi : i < 64) :
    f.mask.getLsbD i = (decide (f.lo ≤ i) && decide (i ≤ f.hi)) := by
  simp only [Field.ok, Bool.and_eq_true, decide_eq_true_eq] at h
  have e : (2 ^ f.width - 1) * 2 ^ f.lo = (2 ^ f.width - 1) <<< f.lo := by rw [Nat.shiftLeft_eq]
  rw [Field.mask, e, BitVec.getLsbD_ofNat]
  simp only [Nat.testBit_shiftLeft, Nat.testBit_two_pow_sub_one, Field.width]
  by_cases h1 : f.lo ≤ i <;> by_cases h2 : i ≤ f.hi <;> simp [h1, h2, hi] <;> omega

theorem Field.ins_bit (f : Field) (h : f.ok = true) (w : Word) (v i : Nat) (hi : i < 64) :
    (f.ins w v).getLsbD i = if f.lo ≤ i ∧ i ≤ f.hi then v.testBit (i - f.lo) else w.getLsbD i := by
  simp only [Field.ins, BitVec.getLsbD_or, BitVec.getLsbD_and, BitVec.getLsbD_not, BitVec.getLsbD_shiftLeft, BitVec.getLsbD_ofNat,
    Field.mask_bit f h i hi]
  have h3 : i - f.lo < 64 := by omega
  by_cases h1 : f.lo ≤ i <;> by_cases h2 : i ≤ f.hi <;> simp [h1, h2, h3, hi]

/-- A field written and read back: the value modulo the field's width. -/
theorem Field.of_ins_same (f : Field) (h : f.ok = true) (w : Word) (v : Nat) : f.of (f.ins w v) = v % 2 ^ f.width := by
  have h' := h
  simp only [Field.ok, Bool.and_eq_true, decide_eq_true_eq] at h'
  apply Nat.eq_of_testBit_eq
  intro i
  rw [Field.of, BitVec.testBit_toNat, BitVec.getLsbD_extractLsb', Nat.testBit_mod_two_pow]
  by_cases hi : i < f.width
  · have h3 : f.lo + i ≤ f.hi := by simp only [Field.width] at hi; omega
    rw [Field.ins_bit f h w v _ (by omega)]
    simp [hi, h3]
  · simp [hi]

/-- A write of one field leaves the fields apart from it. -/
theorem Field.of_ins_apart (f g : Field) (hf : f.ok = true) (hg : g.ok = true) (h : f.apart g = true) (w : Word) (v : Nat) :
    g.of (f.ins w v) = g.of w := by
  simp only [Field.ok, Field.apart, Bool.and_eq_true, Bool.or_eq_true, decide_eq_true_eq] at *
  apply Nat.eq_of_testBit_eq
  intro i
  rw [Field.of, Field.of, BitVec.testBit_toNat, BitVec.testBit_toNat, BitVec.getLsbD_extractLsb', BitVec.getLsbD_extractLsb']
  by_cases hi : i < g.width
  · have h3 : g.lo + i ≤ g.hi := by simp only [Field.width] at hi; omega
    rw [Field.ins_bit f (by simp [Field.ok]; omega) w v _ (by omega)]
    rw [if_neg (by omega)]
  · simp [hi]

/-! ### Registers -/

@[simp] theorem State.rd_wr_same (s : State) (k : RKey) (v : Word) : (s.wr k v).rd k = v := by
  simp [State.rd, State.wr]

theorem State.rd_wr_other (s : State) {k j : RKey} (v : Word) (h : j ≠ k) : (s.wr k v).rd j = s.rd j := by
  simp only [State.rd, State.wr]; exact lookD_putD_other _ _ _ _ _ h

theorem State.rd_wr (s : State) (k j : RKey) (v : Word) : (s.wr k v).rd j = if j = k then v else s.rd j := by
  split
  · next h => subst h; simp
  · next h => exact State.rd_wr_other s v h

theorem State.get_def (s : State) (f : Field) (i j : Nat) : s.get f i j = f.of (s.rd ⟨f.reg, i, j⟩) := rfl

theorem State.get_set_same (s : State) (f : Field) (i j v : Nat) (h : f.ok = true) :
    (s.set f i v j).get f i j = v % 2 ^ f.width := by
  simp [State.get, State.set, Field.of_ins_same f h]

/-- A field of another register, or of another member or instance, or apart in the same register. -/
def keyApart (f g : Field) (i j i' j' : Nat) : Bool :=
  decide (f.reg ≠ g.reg) || decide (i ≠ i') || decide (j ≠ j') || f.apart g

theorem State.get_set_other (s : State) (f g : Field) (i j i' j' v : Nat) (hf : f.ok = true) (hg : g.ok = true)
    (h : keyApart f g i j i' j' = true) : (s.set f i v j).get g i' j' = s.get g i' j' := by
  simp only [State.get, State.set, State.rd_wr]
  split
  · next e =>
    have e1 : g.reg = f.reg := congrArg RKey.reg e
    have e2 : i' = i := congrArg RKey.inst e
    have e3 : j' = j := congrArg RKey.idx e
    subst e2; subst e3
    have ha : f.apart g = true := by simpa [keyApart, e1] using h
    rw [Field.of_ins_apart f g hf hg ha, e1]
  · rfl

theorem State.rd_set_other (s : State) (f : Field) (i j v : Nat) (k : RKey) (h : k ≠ ⟨f.reg, i, j⟩) :
    (s.set f i v j).rd k = s.rd k := State.rd_wr_other s _ h

end Sys2Proof.Machine
end

