-- ==== Sys2Proof/Laws/State.lean ====
section
/-! SUPPORT. One lemma for each field of the state under each update of Machine/Ops.lean that leaves it, and for the readers of registers
and per-unit records under each update. All hold by unfolding. -/

namespace Sys2Proof.Machine

open Sys2Proof

/-! ### `State.wr` -/

@[simp] theorem State.wr_pending (s : State) (k : RKey) (v : Word) : (s.wr k v).pending = s.pending := rfl
@[simp] theorem State.wr_now (s : State) (k : RKey) (v : Word) : (s.wr k v).now = s.now := rfl
@[simp] theorem State.wr_free (s : State) (k : RKey) (v : Word) : (s.wr k v).free = s.free := rfl
@[simp] theorem State.wr_fusedCl (s : State) (k : RKey) (v : Word) : (s.wr k v).fusedCl = s.fusedCl := rfl
@[simp] theorem State.wr_bus (s : State) (k : RKey) (v : Word) : (s.wr k v).bus = s.bus := rfl
@[simp] theorem State.wr_latch (s : State) (k : RKey) (v : Word) : (s.wr k v).latch = s.latch := rfl
@[simp] theorem State.wr_tlatch (s : State) (k : RKey) (v : Word) : (s.wr k v).tlatch = s.tlatch := rfl
@[simp] theorem State.wr_mem (s : State) (k : RKey) (v : Word) : (s.wr k v).mem = s.mem := rfl
@[simp] theorem State.wr_cores (s : State) (k : RKey) (v : Word) : (s.wr k v).cores = s.cores := rfl
@[simp] theorem State.wr_vats (s : State) (k : RKey) (v : Word) : (s.wr k v).vats = s.vats := rfl
@[simp] theorem State.wr_routers (s : State) (k : RKey) (v : Word) : (s.wr k v).routers = s.routers := rfl
@[simp] theorem State.wr_stq (s : State) (k : RKey) (v : Word) : (s.wr k v).stq = s.stq := rfl
@[simp] theorem State.wr_deliv (s : State) (k : RKey) (v : Word) : (s.wr k v).deliv = s.deliv := rfl
@[simp] theorem State.wr_hbm (s : State) (k : RKey) (v : Word) : (s.wr k v).hbm = s.hbm := rfl
@[simp] theorem State.wr_msus (s : State) (k : RKey) (v : Word) : (s.wr k v).msus = s.msus := rfl
@[simp] theorem State.wr_nodes (s : State) (k : RKey) (v : Word) : (s.wr k v).nodes = s.nodes := rfl
@[simp] theorem State.wr_elog (s : State) (k : RKey) (v : Word) : (s.wr k v).elog = s.elog := rfl
@[simp] theorem State.wr_pers (s : State) (k : RKey) (v : Word) : (s.wr k v).pers = s.pers := rfl
@[simp] theorem State.wr_props (s : State) (k : RKey) (v : Word) : (s.wr k v).props = s.props := rfl
@[simp] theorem State.wr_out (s : State) (k : RKey) (v : Word) : (s.wr k v).out = s.out := rfl
@[simp] theorem State.wr_rings (s : State) (k : RKey) (v : Word) : (s.wr k v).rings = s.rings := rfl
@[simp] theorem State.wr_events (s : State) (k : RKey) (v : Word) : (s.wr k v).events = s.events := rfl
@[simp] theorem State.wr_evLost (s : State) (k : RKey) (v : Word) : (s.wr k v).evLost = s.evLost := rfl
@[simp] theorem State.wr_tbVal (s : State) (k : RKey) (v : Word) : (s.wr k v).tbVal = s.tbVal := rfl
@[simp] theorem State.wr_tbAt (s : State) (k : RKey) (v : Word) : (s.wr k v).tbAt = s.tbAt := rfl
@[simp] theorem State.wr_romAt (s : State) (k : RKey) (v : Word) : (s.wr k v).romAt = s.romAt := rfl
@[simp] theorem State.wr_dieBase (s : State) (k : RKey) (v : Word) : (s.wr k v).dieBase = s.dieBase := rfl
@[simp] theorem State.wr_inj (s : State) (k : RKey) (v : Word) : (s.wr k v).inj = s.inj := rfl
@[simp] theorem State.wr_evNow (s : State) (k : RKey) (v : Word) : (s.wr k v).evNow = s.evNow := rfl
@[simp] theorem State.wr_started (s : State) (k : RKey) (v : Word) : (s.wr k v).started = s.started := rfl
@[simp] theorem State.wr_lockHub (s : State) (k : RKey) (v : Word) : (s.wr k v).lockHub = s.lockHub := rfl
@[simp] theorem State.wr_corr (s : State) (k : RKey) (v : Word) : (s.wr k v).corr = s.corr := rfl
@[simp] theorem State.wr_episode (s : State) (k : RKey) (v : Word) : (s.wr k v).episode = s.episode := rfl
@[simp] theorem State.wr_warmHold (s : State) (k : RKey) (v : Word) : (s.wr k v).warmHold = s.warmHold := rfl
@[simp] theorem State.wr_bad (s : State) (k : RKey) (v : Word) : (s.wr k v).bad = s.bad := rfl
@[simp] theorem State.wr_rchFault (s : State) (k : RKey) (v : Word) : (s.wr k v).rchFault = s.rchFault := rfl
@[simp] theorem State.wr_rchSig (s : State) (k : RKey) (v : Word) : (s.wr k v).rchSig = s.rchSig := rfl
@[simp] theorem State.wr_rchBack (s : State) (k : RKey) (v : Word) : (s.wr k v).rchBack = s.rchBack := rfl
@[simp] theorem State.wr_links (s : State) (k : RKey) (v : Word) : (s.wr k v).links = s.links := rfl
@[simp] theorem State.wr_hubTags (s : State) (k : RKey) (v : Word) : (s.wr k v).hubTags = s.hubTags := rfl
@[simp] theorem State.wr_busMaster (s : State) (k : RKey) (v : Word) : (s.wr k v).busMaster = s.busMaster := rfl
@[simp] theorem State.wr_laneRetry (s : State) (k : RKey) (v : Word) : (s.wr k v).laneRetry = s.laneRetry := rfl
@[simp] theorem State.wr_time (s : State) (k : RKey) (v : Word) : (s.wr k v).time = s.time := rfl
@[simp] theorem State.wr_loadQ (s : State) (k : RKey) (v : Word) : (s.wr k v).loadQ = s.loadQ := rfl
@[simp] theorem State.wr_progs (s : State) (k : RKey) (v : Word) : (s.wr k v).progs = s.progs := rfl
@[simp] theorem State.wr_tasks (s : State) (k : RKey) (v : Word) : (s.wr k v).tasks = s.tasks := rfl
@[simp] theorem State.wr_spareRegs (s : State) (k : RKey) (v : Word) : (s.wr k v).spareRegs = s.spareRegs := rfl
@[simp] theorem State.wr_taking (s : State) (k : RKey) (v : Word) : (s.wr k v).taking = s.taking := rfl
@[simp] theorem State.wr_taken (s : State) (k : RKey) (v : Word) : (s.wr k v).taken = s.taken := rfl
@[simp] theorem State.wr_aseq (s : State) (k : RKey) (v : Word) : (s.wr k v).aseq = s.aseq := rfl
@[simp] theorem State.wr_start (s : State) (k : RKey) (v : Word) : (s.wr k v).start = s.start := rfl
@[simp] theorem State.wr_fuse (s : State) (k : RKey) (v : Word) : (s.wr k v).fuse = s.fuse := rfl
@[simp] theorem State.wr_pwr (s : State) (k : RKey) (v : Word) : (s.wr k v).pwr = s.pwr := rfl
@[simp] theorem State.wr_safe (s : State) (k : RKey) (v : Word) : (s.wr k v).safe = s.safe := rfl
@[simp] theorem State.wr_hst (s : State) (k : RKey) (v : Word) : (s.wr k v).hst = s.hst := rfl
@[simp] theorem State.wr_watch (s : State) (k : RKey) (v : Word) : (s.wr k v).watch = s.watch := rfl
@[simp] theorem State.wr_core_read (s : State) (k : RKey) (v : Word) (n' : Nat) : (s.wr k v).core n' = s.core n' := rfl
@[simp] theorem State.wr_vat_read (s : State) (k : RKey) (v : Word) (n' : Nat) : (s.wr k v).vat n' = s.vat n' := rfl
@[simp] theorem State.wr_router_read (s : State) (k : RKey) (v : Word) (n' : Nat) : (s.wr k v).router n' = s.router n' := rfl
@[simp] theorem State.wr_msu_read (s : State) (k : RKey) (v : Word) (n' : Nat) : (s.wr k v).msu n' = s.msu n' := rfl
@[simp] theorem State.wr_hbmBank_read (s : State) (k : RKey) (v : Word) (n' : Nat) : (s.wr k v).hbmBank n' = s.hbmBank n' := rfl
@[simp] theorem State.wr_node_read (s : State) (k : RKey) (v : Word) (n' : Nat) : (s.wr k v).node n' = s.node n' := rfl
@[simp] theorem State.wr_readByte (s : State) (k : RKey) (v : Word) (a' : Nat) : (s.wr k v).readByte a' = s.readByte a' := rfl

/-! ### `State.set` -/

@[simp] theorem State.set_pending (s : State) (f : Field) (i v j : Nat) : (s.set f i v j).pending = s.pending := rfl
@[simp] theorem State.set_now (s : State) (f : Field) (i v j : Nat) : (s.set f i v j).now = s.now := rfl
@[simp] theorem State.set_free (s : State) (f : Field) (i v j : Nat) : (s.set f i v j).free = s.free := rfl
@[simp] theorem State.set_fusedCl (s : State) (f : Field) (i v j : Nat) : (s.set f i v j).fusedCl = s.fusedCl := rfl
@[simp] theorem State.set_bus (s : State) (f : Field) (i v j : Nat) : (s.set f i v j).bus = s.bus := rfl
@[simp] theorem State.set_latch (s : State) (f : Field) (i v j : Nat) : (s.set f i v j).latch = s.latch := rfl
@[simp] theorem State.set_tlatch (s : State) (f : Field) (i v j : Nat) : (s.set f i v j).tlatch = s.tlatch := rfl
@[simp] theorem State.set_mem (s : State) (f : Field) (i v j : Nat) : (s.set f i v j).mem = s.mem := rfl
@[simp] theorem State.set_cores (s : State) (f : Field) (i v j : Nat) : (s.set f i v j).cores = s.cores := rfl
@[simp] theorem State.set_vats (s : State) (f : Field) (i v j : Nat) : (s.set f i v j).vats = s.vats := rfl
@[simp] theorem State.set_routers (s : State) (f : Field) (i v j : Nat) : (s.set f i v j).routers = s.routers := rfl
@[simp] theorem State.set_stq (s : State) (f : Field) (i v j : Nat) : (s.set f i v j).stq = s.stq := rfl
@[simp] theorem State.set_deliv (s : State) (f : Field) (i v j : Nat) : (s.set f i v j).deliv = s.deliv := rfl
@[simp] theorem State.set_hbm (s : State) (f : Field) (i v j : Nat) : (s.set f i v j).hbm = s.hbm := rfl
@[simp] theorem State.set_msus (s : State) (f : Field) (i v j : Nat) : (s.set f i v j).msus = s.msus := rfl
@[simp] theorem State.set_nodes (s : State) (f : Field) (i v j : Nat) : (s.set f i v j).nodes = s.nodes := rfl
@[simp] theorem State.set_elog (s : State) (f : Field) (i v j : Nat) : (s.set f i v j).elog = s.elog := rfl
@[simp] theorem State.set_pers (s : State) (f : Field) (i v j : Nat) : (s.set f i v j).pers = s.pers := rfl
@[simp] theorem State.set_props (s : State) (f : Field) (i v j : Nat) : (s.set f i v j).props = s.props := rfl
@[simp] theorem State.set_out (s : State) (f : Field) (i v j : Nat) : (s.set f i v j).out = s.out := rfl
@[simp] theorem State.set_rings (s : State) (f : Field) (i v j : Nat) : (s.set f i v j).rings = s.rings := rfl
@[simp] theorem State.set_events (s : State) (f : Field) (i v j : Nat) : (s.set f i v j).events = s.events := rfl
@[simp] theorem State.set_evLost (s : State) (f : Field) (i v j : Nat) : (s.set f i v j).evLost = s.evLost := rfl
@[simp] theorem State.set_tbVal (s : State) (f : Field) (i v j : Nat) : (s.set f i v j).tbVal = s.tbVal := rfl
@[simp] theorem State.set_tbAt (s : State) (f : Field) (i v j : Nat) : (s.set f i v j).tbAt = s.tbAt := rfl
@[simp] theorem State.set_romAt (s : State) (f : Field) (i v j : Nat) : (s.set f i v j).romAt = s.romAt := rfl
@[simp] theorem State.set_dieBase (s : State) (f : Field) (i v j : Nat) : (s.set f i v j).dieBase = s.dieBase := rfl
@[simp] theorem State.set_inj (s : State) (f : Field) (i v j : Nat) : (s.set f i v j).inj = s.inj := rfl
@[simp] theorem State.set_evNow (s : State) (f : Field) (i v j : Nat) : (s.set f i v j).evNow = s.evNow := rfl
@[simp] theorem State.set_started (s : State) (f : Field) (i v j : Nat) : (s.set f i v j).started = s.started := rfl
@[simp] theorem State.set_lockHub (s : State) (f : Field) (i v j : Nat) : (s.set f i v j).lockHub = s.lockHub := rfl
@[simp] theorem State.set_corr (s : State) (f : Field) (i v j : Nat) : (s.set f i v j).corr = s.corr := rfl
@[simp] theorem State.set_episode (s : State) (f : Field) (i v j : Nat) : (s.set f i v j).episode = s.episode := rfl
@[simp] theorem State.set_warmHold (s : State) (f : Field) (i v j : Nat) : (s.set f i v j).warmHold = s.warmHold := rfl
@[simp] theorem State.set_bad (s : State) (f : Field) (i v j : Nat) : (s.set f i v j).bad = s.bad := rfl
@[simp] theorem State.set_rchFault (s : State) (f : Field) (i v j : Nat) : (s.set f i v j).rchFault = s.rchFault := rfl
@[simp] theorem State.set_rchSig (s : State) (f : Field) (i v j : Nat) : (s.set f i v j).rchSig = s.rchSig := rfl
@[simp] theorem State.set_rchBack (s : State) (f : Field) (i v j : Nat) : (s.set f i v j).rchBack = s.rchBack := rfl
@[simp] theorem State.set_links (s : State) (f : Field) (i v j : Nat) : (s.set f i v j).links = s.links := rfl
@[simp] theorem State.set_hubTags (s : State) (f : Field) (i v j : Nat) : (s.set f i v j).hubTags = s.hubTags := rfl
@[simp] theorem State.set_busMaster (s : State) (f : Field) (i v j : Nat) : (s.set f i v j).busMaster = s.busMaster := rfl
@[simp] theorem State.set_laneRetry (s : State) (f : Field) (i v j : Nat) : (s.set f i v j).laneRetry = s.laneRetry := rfl
@[simp] theorem State.set_time (s : State) (f : Field) (i v j : Nat) : (s.set f i v j).time = s.time := rfl
@[simp] theorem State.set_loadQ (s : State) (f : Field) (i v j : Nat) : (s.set f i v j).loadQ = s.loadQ := rfl
@[simp] theorem State.set_progs (s : State) (f : Field) (i v j : Nat) : (s.set f i v j).progs = s.progs := rfl
@[simp] theorem State.set_tasks (s : State) (f : Field) (i v j : Nat) : (s.set f i v j).tasks = s.tasks := rfl
@[simp] theorem State.set_spareRegs (s : State) (f : Field) (i v j : Nat) : (s.set f i v j).spareRegs = s.spareRegs := rfl
@[simp] theorem State.set_taking (s : State) (f : Field) (i v j : Nat) : (s.set f i v j).taking = s.taking := rfl
@[simp] theorem State.set_taken (s : State) (f : Field) (i v j : Nat) : (s.set f i v j).taken = s.taken := rfl
@[simp] theorem State.set_aseq (s : State) (f : Field) (i v j : Nat) : (s.set f i v j).aseq = s.aseq := rfl
@[simp] theorem State.set_start (s : State) (f : Field) (i v j : Nat) : (s.set f i v j).start = s.start := rfl
@[simp] theorem State.set_fuse (s : State) (f : Field) (i v j : Nat) : (s.set f i v j).fuse = s.fuse := rfl
@[simp] theorem State.set_pwr (s : State) (f : Field) (i v j : Nat) : (s.set f i v j).pwr = s.pwr := rfl
@[simp] theorem State.set_safe (s : State) (f : Field) (i v j : Nat) : (s.set f i v j).safe = s.safe := rfl
@[simp] theorem State.set_hst (s : State) (f : Field) (i v j : Nat) : (s.set f i v j).hst = s.hst := rfl
@[simp] theorem State.set_watch (s : State) (f : Field) (i v j : Nat) : (s.set f i v j).watch = s.watch := rfl
@[simp] theorem State.set_core_read (s : State) (f : Field) (i v j : Nat) (n' : Nat) : (s.set f i v j).core n' = s.core n' := rfl
@[simp] theorem State.set_vat_read (s : State) (f : Field) (i v j : Nat) (n' : Nat) : (s.set f i v j).vat n' = s.vat n' := rfl
@[simp] theorem State.set_router_read (s : State) (f : Field) (i v j : Nat) (n' : Nat) : (s.set f i v j).router n' = s.router n' := rfl
@[simp] theorem State.set_msu_read (s : State) (f : Field) (i v j : Nat) (n' : Nat) : (s.set f i v j).msu n' = s.msu n' := rfl
@[simp] theorem State.set_hbmBank_read (s : State) (f : Field) (i v j : Nat) (n' : Nat) : (s.set f i v j).hbmBank n' = s.hbmBank n' := rfl
@[simp] theorem State.set_node_read (s : State) (f : Field) (i v j : Nat) (n' : Nat) : (s.set f i v j).node n' = s.node n' := rfl
@[simp] theorem State.set_readByte (s : State) (f : Field) (i v j : Nat) (a' : Nat) : (s.set f i v j).readByte a' = s.readByte a' := rfl

/-! ### `State.noteSet` -/

@[simp] theorem State.noteSet_pending (s : State) (k : RKey) (m : Word) : (s.noteSet k m).pending = s.pending := rfl
@[simp] theorem State.noteSet_now (s : State) (k : RKey) (m : Word) : (s.noteSet k m).now = s.now := rfl
@[simp] theorem State.noteSet_free (s : State) (k : RKey) (m : Word) : (s.noteSet k m).free = s.free := rfl
@[simp] theorem State.noteSet_fusedCl (s : State) (k : RKey) (m : Word) : (s.noteSet k m).fusedCl = s.fusedCl := rfl
@[simp] theorem State.noteSet_regs (s : State) (k : RKey) (m : Word) : (s.noteSet k m).regs = s.regs := rfl
@[simp] theorem State.noteSet_bus (s : State) (k : RKey) (m : Word) : (s.noteSet k m).bus = s.bus := rfl
@[simp] theorem State.noteSet_latch (s : State) (k : RKey) (m : Word) : (s.noteSet k m).latch = s.latch := rfl
@[simp] theorem State.noteSet_tlatch (s : State) (k : RKey) (m : Word) : (s.noteSet k m).tlatch = s.tlatch := rfl
@[simp] theorem State.noteSet_mem (s : State) (k : RKey) (m : Word) : (s.noteSet k m).mem = s.mem := rfl
@[simp] theorem State.noteSet_cores (s : State) (k : RKey) (m : Word) : (s.noteSet k m).cores = s.cores := rfl
@[simp] theorem State.noteSet_vats (s : State) (k : RKey) (m : Word) : (s.noteSet k m).vats = s.vats := rfl
@[simp] theorem State.noteSet_routers (s : State) (k : RKey) (m : Word) : (s.noteSet k m).routers = s.routers := rfl
@[simp] theorem State.noteSet_stq (s : State) (k : RKey) (m : Word) : (s.noteSet k m).stq = s.stq := rfl
@[simp] theorem State.noteSet_deliv (s : State) (k : RKey) (m : Word) : (s.noteSet k m).deliv = s.deliv := rfl
@[simp] theorem State.noteSet_hbm (s : State) (k : RKey) (m : Word) : (s.noteSet k m).hbm = s.hbm := rfl
@[simp] theorem State.noteSet_msus (s : State) (k : RKey) (m : Word) : (s.noteSet k m).msus = s.msus := rfl
@[simp] theorem State.noteSet_nodes (s : State) (k : RKey) (m : Word) : (s.noteSet k m).nodes = s.nodes := rfl
@[simp] theorem State.noteSet_elog (s : State) (k : RKey) (m : Word) : (s.noteSet k m).elog = s.elog := rfl
@[simp] theorem State.noteSet_pers (s : State) (k : RKey) (m : Word) : (s.noteSet k m).pers = s.pers := rfl
@[simp] theorem State.noteSet_props (s : State) (k : RKey) (m : Word) : (s.noteSet k m).props = s.props := rfl
@[simp] theorem State.noteSet_out (s : State) (k : RKey) (m : Word) : (s.noteSet k m).out = s.out := rfl
@[simp] theorem State.noteSet_rings (s : State) (k : RKey) (m : Word) : (s.noteSet k m).rings = s.rings := rfl
@[simp] theorem State.noteSet_events (s : State) (k : RKey) (m : Word) : (s.noteSet k m).events = s.events := rfl
@[simp] theorem State.noteSet_evLost (s : State) (k : RKey) (m : Word) : (s.noteSet k m).evLost = s.evLost := rfl
@[simp] theorem State.noteSet_tbVal (s : State) (k : RKey) (m : Word) : (s.noteSet k m).tbVal = s.tbVal := rfl
@[simp] theorem State.noteSet_tbAt (s : State) (k : RKey) (m : Word) : (s.noteSet k m).tbAt = s.tbAt := rfl
@[simp] theorem State.noteSet_romAt (s : State) (k : RKey) (m : Word) : (s.noteSet k m).romAt = s.romAt := rfl
@[simp] theorem State.noteSet_dieBase (s : State) (k : RKey) (m : Word) : (s.noteSet k m).dieBase = s.dieBase := rfl
@[simp] theorem State.noteSet_inj (s : State) (k : RKey) (m : Word) : (s.noteSet k m).inj = s.inj := rfl
@[simp] theorem State.noteSet_started (s : State) (k : RKey) (m : Word) : (s.noteSet k m).started = s.started := rfl
@[simp] theorem State.noteSet_lockHub (s : State) (k : RKey) (m : Word) : (s.noteSet k m).lockHub = s.lockHub := rfl
@[simp] theorem State.noteSet_corr (s : State) (k : RKey) (m : Word) : (s.noteSet k m).corr = s.corr := rfl
@[simp] theorem State.noteSet_episode (s : State) (k : RKey) (m : Word) : (s.noteSet k m).episode = s.episode := rfl
@[simp] theorem State.noteSet_warmHold (s : State) (k : RKey) (m : Word) : (s.noteSet k m).warmHold = s.warmHold := rfl
@[simp] theorem State.noteSet_bad (s : State) (k : RKey) (m : Word) : (s.noteSet k m).bad = s.bad := rfl
@[simp] theorem State.noteSet_rchFault (s : State) (k : RKey) (m : Word) : (s.noteSet k m).rchFault = s.rchFault := rfl
@[simp] theorem State.noteSet_rchSig (s : State) (k : RKey) (m : Word) : (s.noteSet k m).rchSig = s.rchSig := rfl
@[simp] theorem State.noteSet_rchBack (s : State) (k : RKey) (m : Word) : (s.noteSet k m).rchBack = s.rchBack := rfl
@[simp] theorem State.noteSet_links (s : State) (k : RKey) (m : Word) : (s.noteSet k m).links = s.links := rfl
@[simp] theorem State.noteSet_hubTags (s : State) (k : RKey) (m : Word) : (s.noteSet k m).hubTags = s.hubTags := rfl
@[simp] theorem State.noteSet_busMaster (s : State) (k : RKey) (m : Word) : (s.noteSet k m).busMaster = s.busMaster := rfl
@[simp] theorem State.noteSet_laneRetry (s : State) (k : RKey) (m : Word) : (s.noteSet k m).laneRetry = s.laneRetry := rfl
@[simp] theorem State.noteSet_time (s : State) (k : RKey) (m : Word) : (s.noteSet k m).time = s.time := rfl
@[simp] theorem State.noteSet_loadQ (s : State) (k : RKey) (m : Word) : (s.noteSet k m).loadQ = s.loadQ := rfl
@[simp] theorem State.noteSet_progs (s : State) (k : RKey) (m : Word) : (s.noteSet k m).progs = s.progs := rfl
@[simp] theorem State.noteSet_tasks (s : State) (k : RKey) (m : Word) : (s.noteSet k m).tasks = s.tasks := rfl
@[simp] theorem State.noteSet_spareRegs (s : State) (k : RKey) (m : Word) : (s.noteSet k m).spareRegs = s.spareRegs := rfl
@[simp] theorem State.noteSet_taking (s : State) (k : RKey) (m : Word) : (s.noteSet k m).taking = s.taking := rfl
@[simp] theorem State.noteSet_taken (s : State) (k : RKey) (m : Word) : (s.noteSet k m).taken = s.taken := rfl
@[simp] theorem State.noteSet_aseq (s : State) (k : RKey) (m : Word) : (s.noteSet k m).aseq = s.aseq := rfl
@[simp] theorem State.noteSet_start (s : State) (k : RKey) (m : Word) : (s.noteSet k m).start = s.start := rfl
@[simp] theorem State.noteSet_fuse (s : State) (k : RKey) (m : Word) : (s.noteSet k m).fuse = s.fuse := rfl
@[simp] theorem State.noteSet_pwr (s : State) (k : RKey) (m : Word) : (s.noteSet k m).pwr = s.pwr := rfl
@[simp] theorem State.noteSet_safe (s : State) (k : RKey) (m : Word) : (s.noteSet k m).safe = s.safe := rfl
@[simp] theorem State.noteSet_hst (s : State) (k : RKey) (m : Word) : (s.noteSet k m).hst = s.hst := rfl
@[simp] theorem State.noteSet_watch (s : State) (k : RKey) (m : Word) : (s.noteSet k m).watch = s.watch := rfl
@[simp] theorem State.noteSet_rd (s : State) (k : RKey) (m : Word) (k' : RKey) : (s.noteSet k m).rd k' = s.rd k' := rfl
@[simp] theorem State.noteSet_get (s : State) (k : RKey) (m : Word) (f' : Field) (i' j' : Nat) : (s.noteSet k m).get f' i' j' = s.get f' i' j' := rfl
@[simp] theorem State.noteSet_core_read (s : State) (k : RKey) (m : Word) (n' : Nat) : (s.noteSet k m).core n' = s.core n' := rfl
@[simp] theorem State.noteSet_vat_read (s : State) (k : RKey) (m : Word) (n' : Nat) : (s.noteSet k m).vat n' = s.vat n' := rfl
@[simp] theorem State.noteSet_router_read (s : State) (k : RKey) (m : Word) (n' : Nat) : (s.noteSet k m).router n' = s.router n' := rfl
@[simp] theorem State.noteSet_msu_read (s : State) (k : RKey) (m : Word) (n' : Nat) : (s.noteSet k m).msu n' = s.msu n' := rfl
@[simp] theorem State.noteSet_hbmBank_read (s : State) (k : RKey) (m : Word) (n' : Nat) : (s.noteSet k m).hbmBank n' = s.hbmBank n' := rfl
@[simp] theorem State.noteSet_node_read (s : State) (k : RKey) (m : Word) (n' : Nat) : (s.noteSet k m).node n' = s.node n' := rfl
@[simp] theorem State.noteSet_readByte (s : State) (k : RKey) (m : Word) (a' : Nat) : (s.noteSet k m).readByte a' = s.readByte a' := rfl

/-! ### `State.flag` -/

@[simp] theorem State.flag_pending (s : State) (f : Field) (i j : Nat) : (s.flag f i j).pending = s.pending := rfl
@[simp] theorem State.flag_now (s : State) (f : Field) (i j : Nat) : (s.flag f i j).now = s.now := rfl
@[simp] theorem State.flag_free (s : State) (f : Field) (i j : Nat) : (s.flag f i j).free = s.free := rfl
@[simp] theorem State.flag_fusedCl (s : State) (f : Field) (i j : Nat) : (s.flag f i j).fusedCl = s.fusedCl := rfl
@[simp] theorem State.flag_bus (s : State) (f : Field) (i j : Nat) : (s.flag f i j).bus = s.bus := rfl
@[simp] theorem State.flag_latch (s : State) (f : Field) (i j : Nat) : (s.flag f i j).latch = s.latch := rfl
@[simp] theorem State.flag_tlatch (s : State) (f : Field) (i j : Nat) : (s.flag f i j).tlatch = s.tlatch := rfl
@[simp] theorem State.flag_mem (s : State) (f : Field) (i j : Nat) : (s.flag f i j).mem = s.mem := rfl
@[simp] theorem State.flag_cores (s : State) (f : Field) (i j : Nat) : (s.flag f i j).cores = s.cores := rfl
@[simp] theorem State.flag_vats (s : State) (f : Field) (i j : Nat) : (s.flag f i j).vats = s.vats := rfl
@[simp] theorem State.flag_routers (s : State) (f : Field) (i j : Nat) : (s.flag f i j).routers = s.routers := rfl
@[simp] theorem State.flag_stq (s : State) (f : Field) (i j : Nat) : (s.flag f i j).stq = s.stq := rfl
@[simp] theorem State.flag_deliv (s : State) (f : Field) (i j : Nat) : (s.flag f i j).deliv = s.deliv := rfl
@[simp] theorem State.flag_hbm (s : State) (f : Field) (i j : Nat) : (s.flag f i j).hbm = s.hbm := rfl
@[simp] theorem State.flag_msus (s : State) (f : Field) (i j : Nat) : (s.flag f i j).msus = s.msus := rfl
@[simp] theorem State.flag_nodes (s : State) (f : Field) (i j : Nat) : (s.flag f i j).nodes = s.nodes := rfl
@[simp] theorem State.flag_elog (s : State) (f : Field) (i j : Nat) : (s.flag f i j).elog = s.elog := rfl
@[simp] theorem State.flag_pers (s : State) (f : Field) (i j : Nat) : (s.flag f i j).pers = s.pers := rfl
@[simp] theorem State.flag_props (s : State) (f : Field) (i j : Nat) : (s.flag f i j).props = s.props := rfl
@[simp] theorem State.flag_out (s : State) (f : Field) (i j : Nat) : (s.flag f i j).out = s.out := rfl
@[simp] theorem State.flag_rings (s : State) (f : Field) (i j : Nat) : (s.flag f i j).rings = s.rings := rfl
@[simp] theorem State.flag_events (s : State) (f : Field) (i j : Nat) : (s.flag f i j).events = s.events := rfl
@[simp] theorem State.flag_evLost (s : State) (f : Field) (i j : Nat) : (s.flag f i j).evLost = s.evLost := rfl
@[simp] theorem State.flag_tbVal (s : State) (f : Field) (i j : Nat) : (s.flag f i j).tbVal = s.tbVal := rfl
@[simp] theorem State.flag_tbAt (s : State) (f : Field) (i j : Nat) : (s.flag f i j).tbAt = s.tbAt := rfl
@[simp] theorem State.flag_romAt (s : State) (f : Field) (i j : Nat) : (s.flag f i j).romAt = s.romAt := rfl
@[simp] theorem State.flag_dieBase (s : State) (f : Field) (i j : Nat) : (s.flag f i j).dieBase = s.dieBase := rfl
@[simp] theorem State.flag_inj (s : State) (f : Field) (i j : Nat) : (s.flag f i j).inj = s.inj := rfl
@[simp] theorem State.flag_started (s : State) (f : Field) (i j : Nat) : (s.flag f i j).started = s.started := rfl
@[simp] theorem State.flag_lockHub (s : State) (f : Field) (i j : Nat) : (s.flag f i j).lockHub = s.lockHub := rfl
@[simp] theorem State.flag_corr (s : State) (f : Field) (i j : Nat) : (s.flag f i j).corr = s.corr := rfl
@[simp] theorem State.flag_episode (s : State) (f : Field) (i j : Nat) : (s.flag f i j).episode = s.episode := rfl
@[simp] theorem State.flag_warmHold (s : State) (f : Field) (i j : Nat) : (s.flag f i j).warmHold = s.warmHold := rfl
@[simp] theorem State.flag_bad (s : State) (f : Field) (i j : Nat) : (s.flag f i j).bad = s.bad := rfl
@[simp] theorem State.flag_rchFault (s : State) (f : Field) (i j : Nat) : (s.flag f i j).rchFault = s.rchFault := rfl
@[simp] theorem State.flag_rchSig (s : State) (f : Field) (i j : Nat) : (s.flag f i j).rchSig = s.rchSig := rfl
@[simp] theorem State.flag_rchBack (s : State) (f : Field) (i j : Nat) : (s.flag f i j).rchBack = s.rchBack := rfl
@[simp] theorem State.flag_links (s : State) (f : Field) (i j : Nat) : (s.flag f i j).links = s.links := rfl
@[simp] theorem State.flag_hubTags (s : State) (f : Field) (i j : Nat) : (s.flag f i j).hubTags = s.hubTags := rfl
@[simp] theorem State.flag_busMaster (s : State) (f : Field) (i j : Nat) : (s.flag f i j).busMaster = s.busMaster := rfl
@[simp] theorem State.flag_laneRetry (s : State) (f : Field) (i j : Nat) : (s.flag f i j).laneRetry = s.laneRetry := rfl
@[simp] theorem State.flag_time (s : State) (f : Field) (i j : Nat) : (s.flag f i j).time = s.time := rfl
@[simp] theorem State.flag_loadQ (s : State) (f : Field) (i j : Nat) : (s.flag f i j).loadQ = s.loadQ := rfl
@[simp] theorem State.flag_progs (s : State) (f : Field) (i j : Nat) : (s.flag f i j).progs = s.progs := rfl
@[simp] theorem State.flag_tasks (s : State) (f : Field) (i j : Nat) : (s.flag f i j).tasks = s.tasks := rfl
@[simp] theorem State.flag_spareRegs (s : State) (f : Field) (i j : Nat) : (s.flag f i j).spareRegs = s.spareRegs := rfl
@[simp] theorem State.flag_taking (s : State) (f : Field) (i j : Nat) : (s.flag f i j).taking = s.taking := rfl
@[simp] theorem State.flag_taken (s : State) (f : Field) (i j : Nat) : (s.flag f i j).taken = s.taken := rfl
@[simp] theorem State.flag_aseq (s : State) (f : Field) (i j : Nat) : (s.flag f i j).aseq = s.aseq := rfl
@[simp] theorem State.flag_start (s : State) (f : Field) (i j : Nat) : (s.flag f i j).start = s.start := rfl
@[simp] theorem State.flag_fuse (s : State) (f : Field) (i j : Nat) : (s.flag f i j).fuse = s.fuse := rfl
@[simp] theorem State.flag_pwr (s : State) (f : Field) (i j : Nat) : (s.flag f i j).pwr = s.pwr := rfl
@[simp] theorem State.flag_safe (s : State) (f : Field) (i j : Nat) : (s.flag f i j).safe = s.safe := rfl
@[simp] theorem State.flag_hst (s : State) (f : Field) (i j : Nat) : (s.flag f i j).hst = s.hst := rfl
@[simp] theorem State.flag_watch (s : State) (f : Field) (i j : Nat) : (s.flag f i j).watch = s.watch := rfl
@[simp] theorem State.flag_core_read (s : State) (f : Field) (i j : Nat) (n' : Nat) : (s.flag f i j).core n' = s.core n' := rfl
@[simp] theorem State.flag_vat_read (s : State) (f : Field) (i j : Nat) (n' : Nat) : (s.flag f i j).vat n' = s.vat n' := rfl
@[simp] theorem State.flag_router_read (s : State) (f : Field) (i j : Nat) (n' : Nat) : (s.flag f i j).router n' = s.router n' := rfl
@[simp] theorem State.flag_msu_read (s : State) (f : Field) (i j : Nat) (n' : Nat) : (s.flag f i j).msu n' = s.msu n' := rfl
@[simp] theorem State.flag_hbmBank_read (s : State) (f : Field) (i j : Nat) (n' : Nat) : (s.flag f i j).hbmBank n' = s.hbmBank n' := rfl
@[simp] theorem State.flag_node_read (s : State) (f : Field) (i j : Nat) (n' : Nat) : (s.flag f i j).node n' = s.node n' := rfl
@[simp] theorem State.flag_readByte (s : State) (f : Field) (i j : Nat) (a' : Nat) : (s.flag f i j).readByte a' = s.readByte a' := rfl

/-! ### `State.bump` -/

@[simp] theorem State.bump_pending (s : State) (f : Field) (i n j : Nat) : (s.bump f i n j).pending = s.pending := rfl
@[simp] theorem State.bump_now (s : State) (f : Field) (i n j : Nat) : (s.bump f i n j).now = s.now := rfl
@[simp] theorem State.bump_free (s : State) (f : Field) (i n j : Nat) : (s.bump f i n j).free = s.free := rfl
@[simp] theorem State.bump_fusedCl (s : State) (f : Field) (i n j : Nat) : (s.bump f i n j).fusedCl = s.fusedCl := rfl
@[simp] theorem State.bump_bus (s : State) (f : Field) (i n j : Nat) : (s.bump f i n j).bus = s.bus := rfl
@[simp] theorem State.bump_latch (s : State) (f : Field) (i n j : Nat) : (s.bump f i n j).latch = s.latch := rfl
@[simp] theorem State.bump_tlatch (s : State) (f : Field) (i n j : Nat) : (s.bump f i n j).tlatch = s.tlatch := rfl
@[simp] theorem State.bump_mem (s : State) (f : Field) (i n j : Nat) : (s.bump f i n j).mem = s.mem := rfl
@[simp] theorem State.bump_cores (s : State) (f : Field) (i n j : Nat) : (s.bump f i n j).cores = s.cores := rfl
@[simp] theorem State.bump_vats (s : State) (f : Field) (i n j : Nat) : (s.bump f i n j).vats = s.vats := rfl
@[simp] theorem State.bump_routers (s : State) (f : Field) (i n j : Nat) : (s.bump f i n j).routers = s.routers := rfl
@[simp] theorem State.bump_stq (s : State) (f : Field) (i n j : Nat) : (s.bump f i n j).stq = s.stq := rfl
@[simp] theorem State.bump_deliv (s : State) (f : Field) (i n j : Nat) : (s.bump f i n j).deliv = s.deliv := rfl
@[simp] theorem State.bump_hbm (s : State) (f : Field) (i n j : Nat) : (s.bump f i n j).hbm = s.hbm := rfl
@[simp] theorem State.bump_msus (s : State) (f : Field) (i n j : Nat) : (s.bump f i n j).msus = s.msus := rfl
@[simp] theorem State.bump_nodes (s : State) (f : Field) (i n j : Nat) : (s.bump f i n j).nodes = s.nodes := rfl
@[simp] theorem State.bump_elog (s : State) (f : Field) (i n j : Nat) : (s.bump f i n j).elog = s.elog := rfl
@[simp] theorem State.bump_pers (s : State) (f : Field) (i n j : Nat) : (s.bump f i n j).pers = s.pers := rfl
@[simp] theorem State.bump_props (s : State) (f : Field) (i n j : Nat) : (s.bump f i n j).props = s.props := rfl
@[simp] theorem State.bump_out (s : State) (f : Field) (i n j : Nat) : (s.bump f i n j).out = s.out := rfl
@[simp] theorem State.bump_rings (s : State) (f : Field) (i n j : Nat) : (s.bump f i n j).rings = s.rings := rfl
@[simp] theorem State.bump_events (s : State) (f : Field) (i n j : Nat) : (s.bump f i n j).events = s.events := rfl
@[simp] theorem State.bump_evLost (s : State) (f : Field) (i n j : Nat) : (s.bump f i n j).evLost = s.evLost := rfl
@[simp] theorem State.bump_tbVal (s : State) (f : Field) (i n j : Nat) : (s.bump f i n j).tbVal = s.tbVal := rfl
@[simp] theorem State.bump_tbAt (s : State) (f : Field) (i n j : Nat) : (s.bump f i n j).tbAt = s.tbAt := rfl
@[simp] theorem State.bump_romAt (s : State) (f : Field) (i n j : Nat) : (s.bump f i n j).romAt = s.romAt := rfl
@[simp] theorem State.bump_dieBase (s : State) (f : Field) (i n j : Nat) : (s.bump f i n j).dieBase = s.dieBase := rfl
@[simp] theorem State.bump_inj (s : State) (f : Field) (i n j : Nat) : (s.bump f i n j).inj = s.inj := rfl
@[simp] theorem State.bump_evNow (s : State) (f : Field) (i n j : Nat) : (s.bump f i n j).evNow = s.evNow := rfl
@[simp] theorem State.bump_started (s : State) (f : Field) (i n j : Nat) : (s.bump f i n j).started = s.started := rfl
@[simp] theorem State.bump_lockHub (s : State) (f : Field) (i n j : Nat) : (s.bump f i n j).lockHub = s.lockHub := rfl
@[simp] theorem State.bump_corr (s : State) (f : Field) (i n j : Nat) : (s.bump f i n j).corr = s.corr := rfl
@[simp] theorem State.bump_episode (s : State) (f : Field) (i n j : Nat) : (s.bump f i n j).episode = s.episode := rfl
@[simp] theorem State.bump_warmHold (s : State) (f : Field) (i n j : Nat) : (s.bump f i n j).warmHold = s.warmHold := rfl
@[simp] theorem State.bump_bad (s : State) (f : Field) (i n j : Nat) : (s.bump f i n j).bad = s.bad := rfl
@[simp] theorem State.bump_rchFault (s : State) (f : Field) (i n j : Nat) : (s.bump f i n j).rchFault = s.rchFault := rfl
@[simp] theorem State.bump_rchSig (s : State) (f : Field) (i n j : Nat) : (s.bump f i n j).rchSig = s.rchSig := rfl
@[simp] theorem State.bump_rchBack (s : State) (f : Field) (i n j : Nat) : (s.bump f i n j).rchBack = s.rchBack := rfl
@[simp] theorem State.bump_links (s : State) (f : Field) (i n j : Nat) : (s.bump f i n j).links = s.links := rfl
@[simp] theorem State.bump_hubTags (s : State) (f : Field) (i n j : Nat) : (s.bump f i n j).hubTags = s.hubTags := rfl
@[simp] theorem State.bump_busMaster (s : State) (f : Field) (i n j : Nat) : (s.bump f i n j).busMaster = s.busMaster := rfl
@[simp] theorem State.bump_laneRetry (s : State) (f : Field) (i n j : Nat) : (s.bump f i n j).laneRetry = s.laneRetry := rfl
@[simp] theorem State.bump_time (s : State) (f : Field) (i n j : Nat) : (s.bump f i n j).time = s.time := rfl
@[simp] theorem State.bump_loadQ (s : State) (f : Field) (i n j : Nat) : (s.bump f i n j).loadQ = s.loadQ := rfl
@[simp] theorem State.bump_progs (s : State) (f : Field) (i n j : Nat) : (s.bump f i n j).progs = s.progs := rfl
@[simp] theorem State.bump_tasks (s : State) (f : Field) (i n j : Nat) : (s.bump f i n j).tasks = s.tasks := rfl
@[simp] theorem State.bump_spareRegs (s : State) (f : Field) (i n j : Nat) : (s.bump f i n j).spareRegs = s.spareRegs := rfl
@[simp] theorem State.bump_taking (s : State) (f : Field) (i n j : Nat) : (s.bump f i n j).taking = s.taking := rfl
@[simp] theorem State.bump_taken (s : State) (f : Field) (i n j : Nat) : (s.bump f i n j).taken = s.taken := rfl
@[simp] theorem State.bump_aseq (s : State) (f : Field) (i n j : Nat) : (s.bump f i n j).aseq = s.aseq := rfl
@[simp] theorem State.bump_start (s : State) (f : Field) (i n j : Nat) : (s.bump f i n j).start = s.start := rfl
@[simp] theorem State.bump_fuse (s : State) (f : Field) (i n j : Nat) : (s.bump f i n j).fuse = s.fuse := rfl
@[simp] theorem State.bump_pwr (s : State) (f : Field) (i n j : Nat) : (s.bump f i n j).pwr = s.pwr := rfl
@[simp] theorem State.bump_safe (s : State) (f : Field) (i n j : Nat) : (s.bump f i n j).safe = s.safe := rfl
@[simp] theorem State.bump_hst (s : State) (f : Field) (i n j : Nat) : (s.bump f i n j).hst = s.hst := rfl
@[simp] theorem State.bump_watch (s : State) (f : Field) (i n j : Nat) : (s.bump f i n j).watch = s.watch := rfl
@[simp] theorem State.bump_core_read (s : State) (f : Field) (i n j : Nat) (n' : Nat) : (s.bump f i n j).core n' = s.core n' := rfl
@[simp] theorem State.bump_vat_read (s : State) (f : Field) (i n j : Nat) (n' : Nat) : (s.bump f i n j).vat n' = s.vat n' := rfl
@[simp] theorem State.bump_router_read (s : State) (f : Field) (i n j : Nat) (n' : Nat) : (s.bump f i n j).router n' = s.router n' := rfl
@[simp] theorem State.bump_msu_read (s : State) (f : Field) (i n j : Nat) (n' : Nat) : (s.bump f i n j).msu n' = s.msu n' := rfl
@[simp] theorem State.bump_hbmBank_read (s : State) (f : Field) (i n j : Nat) (n' : Nat) : (s.bump f i n j).hbmBank n' = s.hbmBank n' := rfl
@[simp] theorem State.bump_node_read (s : State) (f : Field) (i n j : Nat) (n' : Nat) : (s.bump f i n j).node n' = s.node n' := rfl
@[simp] theorem State.bump_readByte (s : State) (f : Field) (i n j : Nat) (a' : Nat) : (s.bump f i n j).readByte a' = s.readByte a' := rfl

/-! ### `State.addw` -/

@[simp] theorem State.addw_pending (s : State) (f : Field) (i n j : Nat) : (s.addw f i n j).pending = s.pending := rfl
@[simp] theorem State.addw_now (s : State) (f : Field) (i n j : Nat) : (s.addw f i n j).now = s.now := rfl
@[simp] theorem State.addw_free (s : State) (f : Field) (i n j : Nat) : (s.addw f i n j).free = s.free := rfl
@[simp] theorem State.addw_fusedCl (s : State) (f : Field) (i n j : Nat) : (s.addw f i n j).fusedCl = s.fusedCl := rfl
@[simp] theorem State.addw_bus (s : State) (f : Field) (i n j : Nat) : (s.addw f i n j).bus = s.bus := rfl
@[simp] theorem State.addw_latch (s : State) (f : Field) (i n j : Nat) : (s.addw f i n j).latch = s.latch := rfl
@[simp] theorem State.addw_tlatch (s : State) (f : Field) (i n j : Nat) : (s.addw f i n j).tlatch = s.tlatch := rfl
@[simp] theorem State.addw_mem (s : State) (f : Field) (i n j : Nat) : (s.addw f i n j).mem = s.mem := rfl
@[simp] theorem State.addw_cores (s : State) (f : Field) (i n j : Nat) : (s.addw f i n j).cores = s.cores := rfl
@[simp] theorem State.addw_vats (s : State) (f : Field) (i n j : Nat) : (s.addw f i n j).vats = s.vats := rfl
@[simp] theorem State.addw_routers (s : State) (f : Field) (i n j : Nat) : (s.addw f i n j).routers = s.routers := rfl
@[simp] theorem State.addw_stq (s : State) (f : Field) (i n j : Nat) : (s.addw f i n j).stq = s.stq := rfl
@[simp] theorem State.addw_deliv (s : State) (f : Field) (i n j : Nat) : (s.addw f i n j).deliv = s.deliv := rfl
@[simp] theorem State.addw_hbm (s : State) (f : Field) (i n j : Nat) : (s.addw f i n j).hbm = s.hbm := rfl
@[simp] theorem State.addw_msus (s : State) (f : Field) (i n j : Nat) : (s.addw f i n j).msus = s.msus := rfl
@[simp] theorem State.addw_nodes (s : State) (f : Field) (i n j : Nat) : (s.addw f i n j).nodes = s.nodes := rfl
@[simp] theorem State.addw_elog (s : State) (f : Field) (i n j : Nat) : (s.addw f i n j).elog = s.elog := rfl
@[simp] theorem State.addw_pers (s : State) (f : Field) (i n j : Nat) : (s.addw f i n j).pers = s.pers := rfl
@[simp] theorem State.addw_props (s : State) (f : Field) (i n j : Nat) : (s.addw f i n j).props = s.props := rfl
@[simp] theorem State.addw_out (s : State) (f : Field) (i n j : Nat) : (s.addw f i n j).out = s.out := rfl
@[simp] theorem State.addw_rings (s : State) (f : Field) (i n j : Nat) : (s.addw f i n j).rings = s.rings := rfl
@[simp] theorem State.addw_events (s : State) (f : Field) (i n j : Nat) : (s.addw f i n j).events = s.events := rfl
@[simp] theorem State.addw_evLost (s : State) (f : Field) (i n j : Nat) : (s.addw f i n j).evLost = s.evLost := rfl
@[simp] theorem State.addw_tbVal (s : State) (f : Field) (i n j : Nat) : (s.addw f i n j).tbVal = s.tbVal := rfl
@[simp] theorem State.addw_tbAt (s : State) (f : Field) (i n j : Nat) : (s.addw f i n j).tbAt = s.tbAt := rfl
@[simp] theorem State.addw_romAt (s : State) (f : Field) (i n j : Nat) : (s.addw f i n j).romAt = s.romAt := rfl
@[simp] theorem State.addw_dieBase (s : State) (f : Field) (i n j : Nat) : (s.addw f i n j).dieBase = s.dieBase := rfl
@[simp] theorem State.addw_inj (s : State) (f : Field) (i n j : Nat) : (s.addw f i n j).inj = s.inj := rfl
@[simp] theorem State.addw_evNow (s : State) (f : Field) (i n j : Nat) : (s.addw f i n j).evNow = s.evNow := rfl
@[simp] theorem State.addw_started (s : State) (f : Field) (i n j : Nat) : (s.addw f i n j).started = s.started := rfl
@[simp] theorem State.addw_lockHub (s : State) (f : Field) (i n j : Nat) : (s.addw f i n j).lockHub = s.lockHub := rfl
@[simp] theorem State.addw_corr (s : State) (f : Field) (i n j : Nat) : (s.addw f i n j).corr = s.corr := rfl
@[simp] theorem State.addw_episode (s : State) (f : Field) (i n j : Nat) : (s.addw f i n j).episode = s.episode := rfl
@[simp] theorem State.addw_warmHold (s : State) (f : Field) (i n j : Nat) : (s.addw f i n j).warmHold = s.warmHold := rfl
@[simp] theorem State.addw_bad (s : State) (f : Field) (i n j : Nat) : (s.addw f i n j).bad = s.bad := rfl
@[simp] theorem State.addw_rchFault (s : State) (f : Field) (i n j : Nat) : (s.addw f i n j).rchFault = s.rchFault := rfl
@[simp] theorem State.addw_rchSig (s : State) (f : Field) (i n j : Nat) : (s.addw f i n j).rchSig = s.rchSig := rfl
@[simp] theorem State.addw_rchBack (s : State) (f : Field) (i n j : Nat) : (s.addw f i n j).rchBack = s.rchBack := rfl
@[simp] theorem State.addw_links (s : State) (f : Field) (i n j : Nat) : (s.addw f i n j).links = s.links := rfl
@[simp] theorem State.addw_hubTags (s : State) (f : Field) (i n j : Nat) : (s.addw f i n j).hubTags = s.hubTags := rfl
@[simp] theorem State.addw_busMaster (s : State) (f : Field) (i n j : Nat) : (s.addw f i n j).busMaster = s.busMaster := rfl
@[simp] theorem State.addw_laneRetry (s : State) (f : Field) (i n j : Nat) : (s.addw f i n j).laneRetry = s.laneRetry := rfl
@[simp] theorem State.addw_time (s : State) (f : Field) (i n j : Nat) : (s.addw f i n j).time = s.time := rfl
@[simp] theorem State.addw_loadQ (s : State) (f : Field) (i n j : Nat) : (s.addw f i n j).loadQ = s.loadQ := rfl
@[simp] theorem State.addw_progs (s : State) (f : Field) (i n j : Nat) : (s.addw f i n j).progs = s.progs := rfl
@[simp] theorem State.addw_tasks (s : State) (f : Field) (i n j : Nat) : (s.addw f i n j).tasks = s.tasks := rfl
@[simp] theorem State.addw_spareRegs (s : State) (f : Field) (i n j : Nat) : (s.addw f i n j).spareRegs = s.spareRegs := rfl
@[simp] theorem State.addw_taking (s : State) (f : Field) (i n j : Nat) : (s.addw f i n j).taking = s.taking := rfl
@[simp] theorem State.addw_taken (s : State) (f : Field) (i n j : Nat) : (s.addw f i n j).taken = s.taken := rfl
@[simp] theorem State.addw_aseq (s : State) (f : Field) (i n j : Nat) : (s.addw f i n j).aseq = s.aseq := rfl
@[simp] theorem State.addw_start (s : State) (f : Field) (i n j : Nat) : (s.addw f i n j).start = s.start := rfl
@[simp] theorem State.addw_fuse (s : State) (f : Field) (i n j : Nat) : (s.addw f i n j).fuse = s.fuse := rfl
@[simp] theorem State.addw_pwr (s : State) (f : Field) (i n j : Nat) : (s.addw f i n j).pwr = s.pwr := rfl
@[simp] theorem State.addw_safe (s : State) (f : Field) (i n j : Nat) : (s.addw f i n j).safe = s.safe := rfl
@[simp] theorem State.addw_hst (s : State) (f : Field) (i n j : Nat) : (s.addw f i n j).hst = s.hst := rfl
@[simp] theorem State.addw_watch (s : State) (f : Field) (i n j : Nat) : (s.addw f i n j).watch = s.watch := rfl
@[simp] theorem State.addw_core_read (s : State) (f : Field) (i n j : Nat) (n' : Nat) : (s.addw f i n j).core n' = s.core n' := rfl
@[simp] theorem State.addw_vat_read (s : State) (f : Field) (i n j : Nat) (n' : Nat) : (s.addw f i n j).vat n' = s.vat n' := rfl
@[simp] theorem State.addw_router_read (s : State) (f : Field) (i n j : Nat) (n' : Nat) : (s.addw f i n j).router n' = s.router n' := rfl
@[simp] theorem State.addw_msu_read (s : State) (f : Field) (i n j : Nat) (n' : Nat) : (s.addw f i n j).msu n' = s.msu n' := rfl
@[simp] theorem State.addw_hbmBank_read (s : State) (f : Field) (i n j : Nat) (n' : Nat) : (s.addw f i n j).hbmBank n' = s.hbmBank n' := rfl
@[simp] theorem State.addw_node_read (s : State) (f : Field) (i n j : Nat) (n' : Nat) : (s.addw f i n j).node n' = s.node n' := rfl
@[simp] theorem State.addw_readByte (s : State) (f : Field) (i n j : Nat) (a' : Nat) : (s.addw f i n j).readByte a' = s.readByte a' := rfl

/-! ### `State.setSub` -/

@[simp] theorem State.setSub_pending (s : State) (f : Field) (i b w v : Nat) : (s.setSub f i b w v).pending = s.pending := rfl
@[simp] theorem State.setSub_now (s : State) (f : Field) (i b w v : Nat) : (s.setSub f i b w v).now = s.now := rfl
@[simp] theorem State.setSub_free (s : State) (f : Field) (i b w v : Nat) : (s.setSub f i b w v).free = s.free := rfl
@[simp] theorem State.setSub_fusedCl (s : State) (f : Field) (i b w v : Nat) : (s.setSub f i b w v).fusedCl = s.fusedCl := rfl
@[simp] theorem State.setSub_bus (s : State) (f : Field) (i b w v : Nat) : (s.setSub f i b w v).bus = s.bus := rfl
@[simp] theorem State.setSub_latch (s : State) (f : Field) (i b w v : Nat) : (s.setSub f i b w v).latch = s.latch := rfl
@[simp] theorem State.setSub_tlatch (s : State) (f : Field) (i b w v : Nat) : (s.setSub f i b w v).tlatch = s.tlatch := rfl
@[simp] theorem State.setSub_mem (s : State) (f : Field) (i b w v : Nat) : (s.setSub f i b w v).mem = s.mem := rfl
@[simp] theorem State.setSub_cores (s : State) (f : Field) (i b w v : Nat) : (s.setSub f i b w v).cores = s.cores := rfl
@[simp] theorem State.setSub_vats (s : State) (f : Field) (i b w v : Nat) : (s.setSub f i b w v).vats = s.vats := rfl
@[simp] theorem State.setSub_routers (s : State) (f : Field) (i b w v : Nat) : (s.setSub f i b w v).routers = s.routers := rfl
@[simp] theorem State.setSub_stq (s : State) (f : Field) (i b w v : Nat) : (s.setSub f i b w v).stq = s.stq := rfl
@[simp] theorem State.setSub_deliv (s : State) (f : Field) (i b w v : Nat) : (s.setSub f i b w v).deliv = s.deliv := rfl
@[simp] theorem State.setSub_hbm (s : State) (f : Field) (i b w v : Nat) : (s.setSub f i b w v).hbm = s.hbm := rfl
@[simp] theorem State.setSub_msus (s : State) (f : Field) (i b w v : Nat) : (s.setSub f i b w v).msus = s.msus := rfl
@[simp] theorem State.setSub_nodes (s : State) (f : Field) (i b w v : Nat) : (s.setSub f i b w v).nodes = s.nodes := rfl
@[simp] theorem State.setSub_elog (s : State) (f : Field) (i b w v : Nat) : (s.setSub f i b w v).elog = s.elog := rfl
@[simp] theorem State.setSub_pers (s : State) (f : Field) (i b w v : Nat) : (s.setSub f i b w v).pers = s.pers := rfl
@[simp] theorem State.setSub_props (s : State) (f : Field) (i b w v : Nat) : (s.setSub f i b w v).props = s.props := rfl
@[simp] theorem State.setSub_out (s : State) (f : Field) (i b w v : Nat) : (s.setSub f i b w v).out = s.out := rfl
@[simp] theorem State.setSub_rings (s : State) (f : Field) (i b w v : Nat) : (s.setSub f i b w v).rings = s.rings := rfl
@[simp] theorem State.setSub_events (s : State) (f : Field) (i b w v : Nat) : (s.setSub f i b w v).events = s.events := rfl
@[simp] theorem State.setSub_evLost (s : State) (f : Field) (i b w v : Nat) : (s.setSub f i b w v).evLost = s.evLost := rfl
@[simp] theorem State.setSub_tbVal (s : State) (f : Field) (i b w v : Nat) : (s.setSub f i b w v).tbVal = s.tbVal := rfl
@[simp] theorem State.setSub_tbAt (s : State) (f : Field) (i b w v : Nat) : (s.setSub f i b w v).tbAt = s.tbAt := rfl
@[simp] theorem State.setSub_romAt (s : State) (f : Field) (i b w v : Nat) : (s.setSub f i b w v).romAt = s.romAt := rfl
@[simp] theorem State.setSub_dieBase (s : State) (f : Field) (i b w v : Nat) : (s.setSub f i b w v).dieBase = s.dieBase := rfl
@[simp] theorem State.setSub_inj (s : State) (f : Field) (i b w v : Nat) : (s.setSub f i b w v).inj = s.inj := rfl
@[simp] theorem State.setSub_evNow (s : State) (f : Field) (i b w v : Nat) : (s.setSub f i b w v).evNow = s.evNow := rfl
@[simp] theorem State.setSub_started (s : State) (f : Field) (i b w v : Nat) : (s.setSub f i b w v).started = s.started := rfl
@[simp] theorem State.setSub_lockHub (s : State) (f : Field) (i b w v : Nat) : (s.setSub f i b w v).lockHub = s.lockHub := rfl
@[simp] theorem State.setSub_corr (s : State) (f : Field) (i b w v : Nat) : (s.setSub f i b w v).corr = s.corr := rfl
@[simp] theorem State.setSub_episode (s : State) (f : Field) (i b w v : Nat) : (s.setSub f i b w v).episode = s.episode := rfl
@[simp] theorem State.setSub_warmHold (s : State) (f : Field) (i b w v : Nat) : (s.setSub f i b w v).warmHold = s.warmHold := rfl
@[simp] theorem State.setSub_bad (s : State) (f : Field) (i b w v : Nat) : (s.setSub f i b w v).bad = s.bad := rfl
@[simp] theorem State.setSub_rchFault (s : State) (f : Field) (i b w v : Nat) : (s.setSub f i b w v).rchFault = s.rchFault := rfl
@[simp] theorem State.setSub_rchSig (s : State) (f : Field) (i b w v : Nat) : (s.setSub f i b w v).rchSig = s.rchSig := rfl
@[simp] theorem State.setSub_rchBack (s : State) (f : Field) (i b w v : Nat) : (s.setSub f i b w v).rchBack = s.rchBack := rfl
@[simp] theorem State.setSub_links (s : State) (f : Field) (i b w v : Nat) : (s.setSub f i b w v).links = s.links := rfl
@[simp] theorem State.setSub_hubTags (s : State) (f : Field) (i b w v : Nat) : (s.setSub f i b w v).hubTags = s.hubTags := rfl
@[simp] theorem State.setSub_busMaster (s : State) (f : Field) (i b w v : Nat) : (s.setSub f i b w v).busMaster = s.busMaster := rfl
@[simp] theorem State.setSub_laneRetry (s : State) (f : Field) (i b w v : Nat) : (s.setSub f i b w v).laneRetry = s.laneRetry := rfl
@[simp] theorem State.setSub_time (s : State) (f : Field) (i b w v : Nat) : (s.setSub f i b w v).time = s.time := rfl
@[simp] theorem State.setSub_loadQ (s : State) (f : Field) (i b w v : Nat) : (s.setSub f i b w v).loadQ = s.loadQ := rfl
@[simp] theorem State.setSub_progs (s : State) (f : Field) (i b w v : Nat) : (s.setSub f i b w v).progs = s.progs := rfl
@[simp] theorem State.setSub_tasks (s : State) (f : Field) (i b w v : Nat) : (s.setSub f i b w v).tasks = s.tasks := rfl
@[simp] theorem State.setSub_spareRegs (s : State) (f : Field) (i b w v : Nat) : (s.setSub f i b w v).spareRegs = s.spareRegs := rfl
@[simp] theorem State.setSub_taking (s : State) (f : Field) (i b w v : Nat) : (s.setSub f i b w v).taking = s.taking := rfl
@[simp] theorem State.setSub_taken (s : State) (f : Field) (i b w v : Nat) : (s.setSub f i b w v).taken = s.taken := rfl
@[simp] theorem State.setSub_aseq (s : State) (f : Field) (i b w v : Nat) : (s.setSub f i b w v).aseq = s.aseq := rfl
@[simp] theorem State.setSub_start (s : State) (f : Field) (i b w v : Nat) : (s.setSub f i b w v).start = s.start := rfl
@[simp] theorem State.setSub_fuse (s : State) (f : Field) (i b w v : Nat) : (s.setSub f i b w v).fuse = s.fuse := rfl
@[simp] theorem State.setSub_pwr (s : State) (f : Field) (i b w v : Nat) : (s.setSub f i b w v).pwr = s.pwr := rfl
@[simp] theorem State.setSub_safe (s : State) (f : Field) (i b w v : Nat) : (s.setSub f i b w v).safe = s.safe := rfl
@[simp] theorem State.setSub_hst (s : State) (f : Field) (i b w v : Nat) : (s.setSub f i b w v).hst = s.hst := rfl
@[simp] theorem State.setSub_watch (s : State) (f : Field) (i b w v : Nat) : (s.setSub f i b w v).watch = s.watch := rfl
@[simp] theorem State.setSub_core_read (s : State) (f : Field) (i b w v : Nat) (n' : Nat) : (s.setSub f i b w v).core n' = s.core n' := rfl
@[simp] theorem State.setSub_vat_read (s : State) (f : Field) (i b w v : Nat) (n' : Nat) : (s.setSub f i b w v).vat n' = s.vat n' := rfl
@[simp] theorem State.setSub_router_read (s : State) (f : Field) (i b w v : Nat) (n' : Nat) : (s.setSub f i b w v).router n' = s.router n' := rfl
@[simp] theorem State.setSub_msu_read (s : State) (f : Field) (i b w v : Nat) (n' : Nat) : (s.setSub f i b w v).msu n' = s.msu n' := rfl
@[simp] theorem State.setSub_hbmBank_read (s : State) (f : Field) (i b w v : Nat) (n' : Nat) : (s.setSub f i b w v).hbmBank n' = s.hbmBank n' := rfl
@[simp] theorem State.setSub_node_read (s : State) (f : Field) (i b w v : Nat) (n' : Nat) : (s.setSub f i b w v).node n' = s.node n' := rfl
@[simp] theorem State.setSub_readByte (s : State) (f : Field) (i b w v : Nat) (a' : Nat) : (s.setSub f i b w v).readByte a' = s.readByte a' := rfl

/-! ### `State.setBit` -/

@[simp] theorem State.setBit_pending (s : State) (f : Field) (i n : Nat) (b : Bool) : (s.setBit f i n b).pending = s.pending := rfl
@[simp] theorem State.setBit_now (s : State) (f : Field) (i n : Nat) (b : Bool) : (s.setBit f i n b).now = s.now := rfl
@[simp] theorem State.setBit_free (s : State) (f : Field) (i n : Nat) (b : Bool) : (s.setBit f i n b).free = s.free := rfl
@[simp] theorem State.setBit_fusedCl (s : State) (f : Field) (i n : Nat) (b : Bool) : (s.setBit f i n b).fusedCl = s.fusedCl := rfl
@[simp] theorem State.setBit_bus (s : State) (f : Field) (i n : Nat) (b : Bool) : (s.setBit f i n b).bus = s.bus := rfl
@[simp] theorem State.setBit_latch (s : State) (f : Field) (i n : Nat) (b : Bool) : (s.setBit f i n b).latch = s.latch := rfl
@[simp] theorem State.setBit_tlatch (s : State) (f : Field) (i n : Nat) (b : Bool) : (s.setBit f i n b).tlatch = s.tlatch := rfl
@[simp] theorem State.setBit_mem (s : State) (f : Field) (i n : Nat) (b : Bool) : (s.setBit f i n b).mem = s.mem := rfl
@[simp] theorem State.setBit_cores (s : State) (f : Field) (i n : Nat) (b : Bool) : (s.setBit f i n b).cores = s.cores := rfl
@[simp] theorem State.setBit_vats (s : State) (f : Field) (i n : Nat) (b : Bool) : (s.setBit f i n b).vats = s.vats := rfl
@[simp] theorem State.setBit_routers (s : State) (f : Field) (i n : Nat) (b : Bool) : (s.setBit f i n b).routers = s.routers := rfl
@[simp] theorem State.setBit_stq (s : State) (f : Field) (i n : Nat) (b : Bool) : (s.setBit f i n b).stq = s.stq := rfl
@[simp] theorem State.setBit_deliv (s : State) (f : Field) (i n : Nat) (b : Bool) : (s.setBit f i n b).deliv = s.deliv := rfl
@[simp] theorem State.setBit_hbm (s : State) (f : Field) (i n : Nat) (b : Bool) : (s.setBit f i n b).hbm = s.hbm := rfl
@[simp] theorem State.setBit_msus (s : State) (f : Field) (i n : Nat) (b : Bool) : (s.setBit f i n b).msus = s.msus := rfl
@[simp] theorem State.setBit_nodes (s : State) (f : Field) (i n : Nat) (b : Bool) : (s.setBit f i n b).nodes = s.nodes := rfl
@[simp] theorem State.setBit_elog (s : State) (f : Field) (i n : Nat) (b : Bool) : (s.setBit f i n b).elog = s.elog := rfl
@[simp] theorem State.setBit_pers (s : State) (f : Field) (i n : Nat) (b : Bool) : (s.setBit f i n b).pers = s.pers := rfl
@[simp] theorem State.setBit_props (s : State) (f : Field) (i n : Nat) (b : Bool) : (s.setBit f i n b).props = s.props := rfl
@[simp] theorem State.setBit_out (s : State) (f : Field) (i n : Nat) (b : Bool) : (s.setBit f i n b).out = s.out := rfl
@[simp] theorem State.setBit_rings (s : State) (f : Field) (i n : Nat) (b : Bool) : (s.setBit f i n b).rings = s.rings := rfl
@[simp] theorem State.setBit_events (s : State) (f : Field) (i n : Nat) (b : Bool) : (s.setBit f i n b).events = s.events := rfl
@[simp] theorem State.setBit_evLost (s : State) (f : Field) (i n : Nat) (b : Bool) : (s.setBit f i n b).evLost = s.evLost := rfl
@[simp] theorem State.setBit_tbVal (s : State) (f : Field) (i n : Nat) (b : Bool) : (s.setBit f i n b).tbVal = s.tbVal := rfl
@[simp] theorem State.setBit_tbAt (s : State) (f : Field) (i n : Nat) (b : Bool) : (s.setBit f i n b).tbAt = s.tbAt := rfl
@[simp] theorem State.setBit_romAt (s : State) (f : Field) (i n : Nat) (b : Bool) : (s.setBit f i n b).romAt = s.romAt := rfl
@[simp] theorem State.setBit_dieBase (s : State) (f : Field) (i n : Nat) (b : Bool) : (s.setBit f i n b).dieBase = s.dieBase := rfl
@[simp] theorem State.setBit_inj (s : State) (f : Field) (i n : Nat) (b : Bool) : (s.setBit f i n b).inj = s.inj := rfl
@[simp] theorem State.setBit_evNow (s : State) (f : Field) (i n : Nat) (b : Bool) : (s.setBit f i n b).evNow = s.evNow := rfl
@[simp] theorem State.setBit_started (s : State) (f : Field) (i n : Nat) (b : Bool) : (s.setBit f i n b).started = s.started := rfl
@[simp] theorem State.setBit_lockHub (s : State) (f : Field) (i n : Nat) (b : Bool) : (s.setBit f i n b).lockHub = s.lockHub := rfl
@[simp] theorem State.setBit_corr (s : State) (f : Field) (i n : Nat) (b : Bool) : (s.setBit f i n b).corr = s.corr := rfl
@[simp] theorem State.setBit_episode (s : State) (f : Field) (i n : Nat) (b : Bool) : (s.setBit f i n b).episode = s.episode := rfl
@[simp] theorem State.setBit_warmHold (s : State) (f : Field) (i n : Nat) (b : Bool) : (s.setBit f i n b).warmHold = s.warmHold := rfl
@[simp] theorem State.setBit_bad (s : State) (f : Field) (i n : Nat) (b : Bool) : (s.setBit f i n b).bad = s.bad := rfl
@[simp] theorem State.setBit_rchFault (s : State) (f : Field) (i n : Nat) (b : Bool) : (s.setBit f i n b).rchFault = s.rchFault := rfl
@[simp] theorem State.setBit_rchSig (s : State) (f : Field) (i n : Nat) (b : Bool) : (s.setBit f i n b).rchSig = s.rchSig := rfl
@[simp] theorem State.setBit_rchBack (s : State) (f : Field) (i n : Nat) (b : Bool) : (s.setBit f i n b).rchBack = s.rchBack := rfl
@[simp] theorem State.setBit_links (s : State) (f : Field) (i n : Nat) (b : Bool) : (s.setBit f i n b).links = s.links := rfl
@[simp] theorem State.setBit_hubTags (s : State) (f : Field) (i n : Nat) (b : Bool) : (s.setBit f i n b).hubTags = s.hubTags := rfl
@[simp] theorem State.setBit_busMaster (s : State) (f : Field) (i n : Nat) (b : Bool) : (s.setBit f i n b).busMaster = s.busMaster := rfl
@[simp] theorem State.setBit_laneRetry (s : State) (f : Field) (i n : Nat) (b : Bool) : (s.setBit f i n b).laneRetry = s.laneRetry := rfl
@[simp] theorem State.setBit_time (s : State) (f : Field) (i n : Nat) (b : Bool) : (s.setBit f i n b).time = s.time := rfl
@[simp] theorem State.setBit_loadQ (s : State) (f : Field) (i n : Nat) (b : Bool) : (s.setBit f i n b).loadQ = s.loadQ := rfl
@[simp] theorem State.setBit_progs (s : State) (f : Field) (i n : Nat) (b : Bool) : (s.setBit f i n b).progs = s.progs := rfl
@[simp] theorem State.setBit_tasks (s : State) (f : Field) (i n : Nat) (b : Bool) : (s.setBit f i n b).tasks = s.tasks := rfl
@[simp] theorem State.setBit_spareRegs (s : State) (f : Field) (i n : Nat) (b : Bool) : (s.setBit f i n b).spareRegs = s.spareRegs := rfl
@[simp] theorem State.setBit_taking (s : State) (f : Field) (i n : Nat) (b : Bool) : (s.setBit f i n b).taking = s.taking := rfl
@[simp] theorem State.setBit_taken (s : State) (f : Field) (i n : Nat) (b : Bool) : (s.setBit f i n b).taken = s.taken := rfl
@[simp] theorem State.setBit_aseq (s : State) (f : Field) (i n : Nat) (b : Bool) : (s.setBit f i n b).aseq = s.aseq := rfl
@[simp] theorem State.setBit_start (s : State) (f : Field) (i n : Nat) (b : Bool) : (s.setBit f i n b).start = s.start := rfl
@[simp] theorem State.setBit_fuse (s : State) (f : Field) (i n : Nat) (b : Bool) : (s.setBit f i n b).fuse = s.fuse := rfl
@[simp] theorem State.setBit_pwr (s : State) (f : Field) (i n : Nat) (b : Bool) : (s.setBit f i n b).pwr = s.pwr := rfl
@[simp] theorem State.setBit_safe (s : State) (f : Field) (i n : Nat) (b : Bool) : (s.setBit f i n b).safe = s.safe := rfl
@[simp] theorem State.setBit_hst (s : State) (f : Field) (i n : Nat) (b : Bool) : (s.setBit f i n b).hst = s.hst := rfl
@[simp] theorem State.setBit_watch (s : State) (f : Field) (i n : Nat) (b : Bool) : (s.setBit f i n b).watch = s.watch := rfl
@[simp] theorem State.setBit_core_read (s : State) (f : Field) (i n : Nat) (b : Bool) (n' : Nat) : (s.setBit f i n b).core n' = s.core n' := rfl
@[simp] theorem State.setBit_vat_read (s : State) (f : Field) (i n : Nat) (b : Bool) (n' : Nat) : (s.setBit f i n b).vat n' = s.vat n' := rfl
@[simp] theorem State.setBit_router_read (s : State) (f : Field) (i n : Nat) (b : Bool) (n' : Nat) : (s.setBit f i n b).router n' = s.router n' := rfl
@[simp] theorem State.setBit_msu_read (s : State) (f : Field) (i n : Nat) (b : Bool) (n' : Nat) : (s.setBit f i n b).msu n' = s.msu n' := rfl
@[simp] theorem State.setBit_hbmBank_read (s : State) (f : Field) (i n : Nat) (b : Bool) (n' : Nat) : (s.setBit f i n b).hbmBank n' = s.hbmBank n' := rfl
@[simp] theorem State.setBit_node_read (s : State) (f : Field) (i n : Nat) (b : Bool) (n' : Nat) : (s.setBit f i n b).node n' = s.node n' := rfl
@[simp] theorem State.setBit_readByte (s : State) (f : Field) (i n : Nat) (b : Bool) (a' : Nat) : (s.setBit f i n b).readByte a' = s.readByte a' := rfl

/-! ### `State.flagBit` -/

@[simp] theorem State.flagBit_pending (s : State) (f : Field) (i n : Nat) : (s.flagBit f i n).pending = s.pending := rfl
@[simp] theorem State.flagBit_now (s : State) (f : Field) (i n : Nat) : (s.flagBit f i n).now = s.now := rfl
@[simp] theorem State.flagBit_free (s : State) (f : Field) (i n : Nat) : (s.flagBit f i n).free = s.free := rfl
@[simp] theorem State.flagBit_fusedCl (s : State) (f : Field) (i n : Nat) : (s.flagBit f i n).fusedCl = s.fusedCl := rfl
@[simp] theorem State.flagBit_bus (s : State) (f : Field) (i n : Nat) : (s.flagBit f i n).bus = s.bus := rfl
@[simp] theorem State.flagBit_latch (s : State) (f : Field) (i n : Nat) : (s.flagBit f i n).latch = s.latch := rfl
@[simp] theorem State.flagBit_tlatch (s : State) (f : Field) (i n : Nat) : (s.flagBit f i n).tlatch = s.tlatch := rfl
@[simp] theorem State.flagBit_mem (s : State) (f : Field) (i n : Nat) : (s.flagBit f i n).mem = s.mem := rfl
@[simp] theorem State.flagBit_cores (s : State) (f : Field) (i n : Nat) : (s.flagBit f i n).cores = s.cores := rfl
@[simp] theorem State.flagBit_vats (s : State) (f : Field) (i n : Nat) : (s.flagBit f i n).vats = s.vats := rfl
@[simp] theorem State.flagBit_routers (s : State) (f : Field) (i n : Nat) : (s.flagBit f i n).routers = s.routers := rfl
@[simp] theorem State.flagBit_stq (s : State) (f : Field) (i n : Nat) : (s.flagBit f i n).stq = s.stq := rfl
@[simp] theorem State.flagBit_deliv (s : State) (f : Field) (i n : Nat) : (s.flagBit f i n).deliv = s.deliv := rfl
@[simp] theorem State.flagBit_hbm (s : State) (f : Field) (i n : Nat) : (s.flagBit f i n).hbm = s.hbm := rfl
@[simp] theorem State.flagBit_msus (s : State) (f : Field) (i n : Nat) : (s.flagBit f i n).msus = s.msus := rfl
@[simp] theorem State.flagBit_nodes (s : State) (f : Field) (i n : Nat) : (s.flagBit f i n).nodes = s.nodes := rfl
@[simp] theorem State.flagBit_elog (s : State) (f : Field) (i n : Nat) : (s.flagBit f i n).elog = s.elog := rfl
@[simp] theorem State.flagBit_pers (s : State) (f : Field) (i n : Nat) : (s.flagBit f i n).pers = s.pers := rfl
@[simp] theorem State.flagBit_props (s : State) (f : Field) (i n : Nat) : (s.flagBit f i n).props = s.props := rfl
@[simp] theorem State.flagBit_out (s : State) (f : Field) (i n : Nat) : (s.flagBit f i n).out = s.out := rfl
@[simp] theorem State.flagBit_rings (s : State) (f : Field) (i n : Nat) : (s.flagBit f i n).rings = s.rings := rfl
@[simp] theorem State.flagBit_events (s : State) (f : Field) (i n : Nat) : (s.flagBit f i n).events = s.events := rfl
@[simp] theorem State.flagBit_evLost (s : State) (f : Field) (i n : Nat) : (s.flagBit f i n).evLost = s.evLost := rfl
@[simp] theorem State.flagBit_tbVal (s : State) (f : Field) (i n : Nat) : (s.flagBit f i n).tbVal = s.tbVal := rfl
@[simp] theorem State.flagBit_tbAt (s : State) (f : Field) (i n : Nat) : (s.flagBit f i n).tbAt = s.tbAt := rfl
@[simp] theorem State.flagBit_romAt (s : State) (f : Field) (i n : Nat) : (s.flagBit f i n).romAt = s.romAt := rfl
@[simp] theorem State.flagBit_dieBase (s : State) (f : Field) (i n : Nat) : (s.flagBit f i n).dieBase = s.dieBase := rfl
@[simp] theorem State.flagBit_inj (s : State) (f : Field) (i n : Nat) : (s.flagBit f i n).inj = s.inj := rfl
@[simp] theorem State.flagBit_started (s : State) (f : Field) (i n : Nat) : (s.flagBit f i n).started = s.started := rfl
@[simp] theorem State.flagBit_lockHub (s : State) (f : Field) (i n : Nat) : (s.flagBit f i n).lockHub = s.lockHub := rfl
@[simp] theorem State.flagBit_corr (s : State) (f : Field) (i n : Nat) : (s.flagBit f i n).corr = s.corr := rfl
@[simp] theorem State.flagBit_episode (s : State) (f : Field) (i n : Nat) : (s.flagBit f i n).episode = s.episode := rfl
@[simp] theorem State.flagBit_warmHold (s : State) (f : Field) (i n : Nat) : (s.flagBit f i n).warmHold = s.warmHold := rfl
@[simp] theorem State.flagBit_bad (s : State) (f : Field) (i n : Nat) : (s.flagBit f i n).bad = s.bad := rfl
@[simp] theorem State.flagBit_rchFault (s : State) (f : Field) (i n : Nat) : (s.flagBit f i n).rchFault = s.rchFault := rfl
@[simp] theorem State.flagBit_rchSig (s : State) (f : Field) (i n : Nat) : (s.flagBit f i n).rchSig = s.rchSig := rfl
@[simp] theorem State.flagBit_rchBack (s : State) (f : Field) (i n : Nat) : (s.flagBit f i n).rchBack = s.rchBack := rfl
@[simp] theorem State.flagBit_links (s : State) (f : Field) (i n : Nat) : (s.flagBit f i n).links = s.links := rfl
@[simp] theorem State.flagBit_hubTags (s : State) (f : Field) (i n : Nat) : (s.flagBit f i n).hubTags = s.hubTags := rfl
@[simp] theorem State.flagBit_busMaster (s : State) (f : Field) (i n : Nat) : (s.flagBit f i n).busMaster = s.busMaster := rfl
@[simp] theorem State.flagBit_laneRetry (s : State) (f : Field) (i n : Nat) : (s.flagBit f i n).laneRetry = s.laneRetry := rfl
@[simp] theorem State.flagBit_time (s : State) (f : Field) (i n : Nat) : (s.flagBit f i n).time = s.time := rfl
@[simp] theorem State.flagBit_loadQ (s : State) (f : Field) (i n : Nat) : (s.flagBit f i n).loadQ = s.loadQ := rfl
@[simp] theorem State.flagBit_progs (s : State) (f : Field) (i n : Nat) : (s.flagBit f i n).progs = s.progs := rfl
@[simp] theorem State.flagBit_tasks (s : State) (f : Field) (i n : Nat) : (s.flagBit f i n).tasks = s.tasks := rfl
@[simp] theorem State.flagBit_spareRegs (s : State) (f : Field) (i n : Nat) : (s.flagBit f i n).spareRegs = s.spareRegs := rfl
@[simp] theorem State.flagBit_taking (s : State) (f : Field) (i n : Nat) : (s.flagBit f i n).taking = s.taking := rfl
@[simp] theorem State.flagBit_taken (s : State) (f : Field) (i n : Nat) : (s.flagBit f i n).taken = s.taken := rfl
@[simp] theorem State.flagBit_aseq (s : State) (f : Field) (i n : Nat) : (s.flagBit f i n).aseq = s.aseq := rfl
@[simp] theorem State.flagBit_start (s : State) (f : Field) (i n : Nat) : (s.flagBit f i n).start = s.start := rfl
@[simp] theorem State.flagBit_fuse (s : State) (f : Field) (i n : Nat) : (s.flagBit f i n).fuse = s.fuse := rfl
@[simp] theorem State.flagBit_pwr (s : State) (f : Field) (i n : Nat) : (s.flagBit f i n).pwr = s.pwr := rfl
@[simp] theorem State.flagBit_safe (s : State) (f : Field) (i n : Nat) : (s.flagBit f i n).safe = s.safe := rfl
@[simp] theorem State.flagBit_hst (s : State) (f : Field) (i n : Nat) : (s.flagBit f i n).hst = s.hst := rfl
@[simp] theorem State.flagBit_watch (s : State) (f : Field) (i n : Nat) : (s.flagBit f i n).watch = s.watch := rfl
@[simp] theorem State.flagBit_core_read (s : State) (f : Field) (i n : Nat) (n' : Nat) : (s.flagBit f i n).core n' = s.core n' := rfl
@[simp] theorem State.flagBit_vat_read (s : State) (f : Field) (i n : Nat) (n' : Nat) : (s.flagBit f i n).vat n' = s.vat n' := rfl
@[simp] theorem State.flagBit_router_read (s : State) (f : Field) (i n : Nat) (n' : Nat) : (s.flagBit f i n).router n' = s.router n' := rfl
@[simp] theorem State.flagBit_msu_read (s : State) (f : Field) (i n : Nat) (n' : Nat) : (s.flagBit f i n).msu n' = s.msu n' := rfl
@[simp] theorem State.flagBit_hbmBank_read (s : State) (f : Field) (i n : Nat) (n' : Nat) : (s.flagBit f i n).hbmBank n' = s.hbmBank n' := rfl
@[simp] theorem State.flagBit_node_read (s : State) (f : Field) (i n : Nat) (n' : Nat) : (s.flagBit f i n).node n' = s.node n' := rfl
@[simp] theorem State.flagBit_readByte (s : State) (f : Field) (i n : Nat) (a' : Nat) : (s.flagBit f i n).readByte a' = s.readByte a' := rfl

/-! ### `State.setCore` -/

@[simp] theorem State.setCore_pending (s : State) (c : Nat) (x : CoreSt) : (s.setCore c x).pending = s.pending := rfl
@[simp] theorem State.setCore_now (s : State) (c : Nat) (x : CoreSt) : (s.setCore c x).now = s.now := rfl
@[simp] theorem State.setCore_free (s : State) (c : Nat) (x : CoreSt) : (s.setCore c x).free = s.free := rfl
@[simp] theorem State.setCore_fusedCl (s : State) (c : Nat) (x : CoreSt) : (s.setCore c x).fusedCl = s.fusedCl := rfl
@[simp] theorem State.setCore_regs (s : State) (c : Nat) (x : CoreSt) : (s.setCore c x).regs = s.regs := rfl
@[simp] theorem State.setCore_bus (s : State) (c : Nat) (x : CoreSt) : (s.setCore c x).bus = s.bus := rfl
@[simp] theorem State.setCore_latch (s : State) (c : Nat) (x : CoreSt) : (s.setCore c x).latch = s.latch := rfl
@[simp] theorem State.setCore_tlatch (s : State) (c : Nat) (x : CoreSt) : (s.setCore c x).tlatch = s.tlatch := rfl
@[simp] theorem State.setCore_mem (s : State) (c : Nat) (x : CoreSt) : (s.setCore c x).mem = s.mem := rfl
@[simp] theorem State.setCore_vats (s : State) (c : Nat) (x : CoreSt) : (s.setCore c x).vats = s.vats := rfl
@[simp] theorem State.setCore_routers (s : State) (c : Nat) (x : CoreSt) : (s.setCore c x).routers = s.routers := rfl
@[simp] theorem State.setCore_stq (s : State) (c : Nat) (x : CoreSt) : (s.setCore c x).stq = s.stq := rfl
@[simp] theorem State.setCore_deliv (s : State) (c : Nat) (x : CoreSt) : (s.setCore c x).deliv = s.deliv := rfl
@[simp] theorem State.setCore_hbm (s : State) (c : Nat) (x : CoreSt) : (s.setCore c x).hbm = s.hbm := rfl
@[simp] theorem State.setCore_msus (s : State) (c : Nat) (x : CoreSt) : (s.setCore c x).msus = s.msus := rfl
@[simp] theorem State.setCore_nodes (s : State) (c : Nat) (x : CoreSt) : (s.setCore c x).nodes = s.nodes := rfl
@[simp] theorem State.setCore_elog (s : State) (c : Nat) (x : CoreSt) : (s.setCore c x).elog = s.elog := rfl
@[simp] theorem State.setCore_pers (s : State) (c : Nat) (x : CoreSt) : (s.setCore c x).pers = s.pers := rfl
@[simp] theorem State.setCore_props (s : State) (c : Nat) (x : CoreSt) : (s.setCore c x).props = s.props := rfl
@[simp] theorem State.setCore_out (s : State) (c : Nat) (x : CoreSt) : (s.setCore c x).out = s.out := rfl
@[simp] theorem State.setCore_rings (s : State) (c : Nat) (x : CoreSt) : (s.setCore c x).rings = s.rings := rfl
@[simp] theorem State.setCore_events (s : State) (c : Nat) (x : CoreSt) : (s.setCore c x).events = s.events := rfl
@[simp] theorem State.setCore_evLost (s : State) (c : Nat) (x : CoreSt) : (s.setCore c x).evLost = s.evLost := rfl
@[simp] theorem State.setCore_tbVal (s : State) (c : Nat) (x : CoreSt) : (s.setCore c x).tbVal = s.tbVal := rfl
@[simp] theorem State.setCore_tbAt (s : State) (c : Nat) (x : CoreSt) : (s.setCore c x).tbAt = s.tbAt := rfl
@[simp] theorem State.setCore_romAt (s : State) (c : Nat) (x : CoreSt) : (s.setCore c x).romAt = s.romAt := rfl
@[simp] theorem State.setCore_dieBase (s : State) (c : Nat) (x : CoreSt) : (s.setCore c x).dieBase = s.dieBase := rfl
@[simp] theorem State.setCore_inj (s : State) (c : Nat) (x : CoreSt) : (s.setCore c x).inj = s.inj := rfl
@[simp] theorem State.setCore_evNow (s : State) (c : Nat) (x : CoreSt) : (s.setCore c x).evNow = s.evNow := rfl
@[simp] theorem State.setCore_started (s : State) (c : Nat) (x : CoreSt) : (s.setCore c x).started = s.started := rfl
@[simp] theorem State.setCore_lockHub (s : State) (c : Nat) (x : CoreSt) : (s.setCore c x).lockHub = s.lockHub := rfl
@[simp] theorem State.setCore_corr (s : State) (c : Nat) (x : CoreSt) : (s.setCore c x).corr = s.corr := rfl
@[simp] theorem State.setCore_episode (s : State) (c : Nat) (x : CoreSt) : (s.setCore c x).episode = s.episode := rfl
@[simp] theorem State.setCore_warmHold (s : State) (c : Nat) (x : CoreSt) : (s.setCore c x).warmHold = s.warmHold := rfl
@[simp] theorem State.setCore_bad (s : State) (c : Nat) (x : CoreSt) : (s.setCore c x).bad = s.bad := rfl
@[simp] theorem State.setCore_rchFault (s : State) (c : Nat) (x : CoreSt) : (s.setCore c x).rchFault = s.rchFault := rfl
@[simp] theorem State.setCore_rchSig (s : State) (c : Nat) (x : CoreSt) : (s.setCore c x).rchSig = s.rchSig := rfl
@[simp] theorem State.setCore_rchBack (s : State) (c : Nat) (x : CoreSt) : (s.setCore c x).rchBack = s.rchBack := rfl
@[simp] theorem State.setCore_links (s : State) (c : Nat) (x : CoreSt) : (s.setCore c x).links = s.links := rfl
@[simp] theorem State.setCore_hubTags (s : State) (c : Nat) (x : CoreSt) : (s.setCore c x).hubTags = s.hubTags := rfl
@[simp] theorem State.setCore_busMaster (s : State) (c : Nat) (x : CoreSt) : (s.setCore c x).busMaster = s.busMaster := rfl
@[simp] theorem State.setCore_laneRetry (s : State) (c : Nat) (x : CoreSt) : (s.setCore c x).laneRetry = s.laneRetry := rfl
@[simp] theorem State.setCore_time (s : State) (c : Nat) (x : CoreSt) : (s.setCore c x).time = s.time := rfl
@[simp] theorem State.setCore_loadQ (s : State) (c : Nat) (x : CoreSt) : (s.setCore c x).loadQ = s.loadQ := rfl
@[simp] theorem State.setCore_progs (s : State) (c : Nat) (x : CoreSt) : (s.setCore c x).progs = s.progs := rfl
@[simp] theorem State.setCore_tasks (s : State) (c : Nat) (x : CoreSt) : (s.setCore c x).tasks = s.tasks := rfl
@[simp] theorem State.setCore_spareRegs (s : State) (c : Nat) (x : CoreSt) : (s.setCore c x).spareRegs = s.spareRegs := rfl
@[simp] theorem State.setCore_taking (s : State) (c : Nat) (x : CoreSt) : (s.setCore c x).taking = s.taking := rfl
@[simp] theorem State.setCore_taken (s : State) (c : Nat) (x : CoreSt) : (s.setCore c x).taken = s.taken := rfl
@[simp] theorem State.setCore_aseq (s : State) (c : Nat) (x : CoreSt) : (s.setCore c x).aseq = s.aseq := rfl
@[simp] theorem State.setCore_start (s : State) (c : Nat) (x : CoreSt) : (s.setCore c x).start = s.start := rfl
@[simp] theorem State.setCore_fuse (s : State) (c : Nat) (x : CoreSt) : (s.setCore c x).fuse = s.fuse := rfl
@[simp] theorem State.setCore_pwr (s : State) (c : Nat) (x : CoreSt) : (s.setCore c x).pwr = s.pwr := rfl
@[simp] theorem State.setCore_safe (s : State) (c : Nat) (x : CoreSt) : (s.setCore c x).safe = s.safe := rfl
@[simp] theorem State.setCore_hst (s : State) (c : Nat) (x : CoreSt) : (s.setCore c x).hst = s.hst := rfl
@[simp] theorem State.setCore_watch (s : State) (c : Nat) (x : CoreSt) : (s.setCore c x).watch = s.watch := rfl
@[simp] theorem State.setCore_rd (s : State) (c : Nat) (x : CoreSt) (k' : RKey) : (s.setCore c x).rd k' = s.rd k' := rfl
@[simp] theorem State.setCore_get (s : State) (c : Nat) (x : CoreSt) (f' : Field) (i' j' : Nat) : (s.setCore c x).get f' i' j' = s.get f' i' j' := rfl
@[simp] theorem State.setCore_vat_read (s : State) (c : Nat) (x : CoreSt) (n' : Nat) : (s.setCore c x).vat n' = s.vat n' := rfl
@[simp] theorem State.setCore_router_read (s : State) (c : Nat) (x : CoreSt) (n' : Nat) : (s.setCore c x).router n' = s.router n' := rfl
@[simp] theorem State.setCore_msu_read (s : State) (c : Nat) (x : CoreSt) (n' : Nat) : (s.setCore c x).msu n' = s.msu n' := rfl
@[simp] theorem State.setCore_hbmBank_read (s : State) (c : Nat) (x : CoreSt) (n' : Nat) : (s.setCore c x).hbmBank n' = s.hbmBank n' := rfl
@[simp] theorem State.setCore_node_read (s : State) (c : Nat) (x : CoreSt) (n' : Nat) : (s.setCore c x).node n' = s.node n' := rfl
@[simp] theorem State.setCore_readByte (s : State) (c : Nat) (x : CoreSt) (a' : Nat) : (s.setCore c x).readByte a' = s.readByte a' := rfl

/-! ### `State.modCore` -/

@[simp] theorem State.modCore_pending (s : State) (c : Nat) (g : CoreSt → CoreSt) : (s.modCore c g).pending = s.pending := rfl
@[simp] theorem State.modCore_now (s : State) (c : Nat) (g : CoreSt → CoreSt) : (s.modCore c g).now = s.now := rfl
@[simp] theorem State.modCore_free (s : State) (c : Nat) (g : CoreSt → CoreSt) : (s.modCore c g).free = s.free := rfl
@[simp] theorem State.modCore_fusedCl (s : State) (c : Nat) (g : CoreSt → CoreSt) : (s.modCore c g).fusedCl = s.fusedCl := rfl
@[simp] theorem State.modCore_regs (s : State) (c : Nat) (g : CoreSt → CoreSt) : (s.modCore c g).regs = s.regs := rfl
@[simp] theorem State.modCore_bus (s : State) (c : Nat) (g : CoreSt → CoreSt) : (s.modCore c g).bus = s.bus := rfl
@[simp] theorem State.modCore_latch (s : State) (c : Nat) (g : CoreSt → CoreSt) : (s.modCore c g).latch = s.latch := rfl
@[simp] theorem State.modCore_tlatch (s : State) (c : Nat) (g : CoreSt → CoreSt) : (s.modCore c g).tlatch = s.tlatch := rfl
@[simp] theorem State.modCore_mem (s : State) (c : Nat) (g : CoreSt → CoreSt) : (s.modCore c g).mem = s.mem := rfl
@[simp] theorem State.modCore_vats (s : State) (c : Nat) (g : CoreSt → CoreSt) : (s.modCore c g).vats = s.vats := rfl
@[simp] theorem State.modCore_routers (s : State) (c : Nat) (g : CoreSt → CoreSt) : (s.modCore c g).routers = s.routers := rfl
@[simp] theorem State.modCore_stq (s : State) (c : Nat) (g : CoreSt → CoreSt) : (s.modCore c g).stq = s.stq := rfl
@[simp] theorem State.modCore_deliv (s : State) (c : Nat) (g : CoreSt → CoreSt) : (s.modCore c g).deliv = s.deliv := rfl
@[simp] theorem State.modCore_hbm (s : State) (c : Nat) (g : CoreSt → CoreSt) : (s.modCore c g).hbm = s.hbm := rfl
@[simp] theorem State.modCore_msus (s : State) (c : Nat) (g : CoreSt → CoreSt) : (s.modCore c g).msus = s.msus := rfl
@[simp] theorem State.modCore_nodes (s : State) (c : Nat) (g : CoreSt → CoreSt) : (s.modCore c g).nodes = s.nodes := rfl
@[simp] theorem State.modCore_elog (s : State) (c : Nat) (g : CoreSt → CoreSt) : (s.modCore c g).elog = s.elog := rfl
@[simp] theorem State.modCore_pers (s : State) (c : Nat) (g : CoreSt → CoreSt) : (s.modCore c g).pers = s.pers := rfl
@[simp] theorem State.modCore_props (s : State) (c : Nat) (g : CoreSt → CoreSt) : (s.modCore c g).props = s.props := rfl
@[simp] theorem State.modCore_out (s : State) (c : Nat) (g : CoreSt → CoreSt) : (s.modCore c g).out = s.out := rfl
@[simp] theorem State.modCore_rings (s : State) (c : Nat) (g : CoreSt → CoreSt) : (s.modCore c g).rings = s.rings := rfl
@[simp] theorem State.modCore_events (s : State) (c : Nat) (g : CoreSt → CoreSt) : (s.modCore c g).events = s.events := rfl
@[simp] theorem State.modCore_evLost (s : State) (c : Nat) (g : CoreSt → CoreSt) : (s.modCore c g).evLost = s.evLost := rfl
@[simp] theorem State.modCore_tbVal (s : State) (c : Nat) (g : CoreSt → CoreSt) : (s.modCore c g).tbVal = s.tbVal := rfl
@[simp] theorem State.modCore_tbAt (s : State) (c : Nat) (g : CoreSt → CoreSt) : (s.modCore c g).tbAt = s.tbAt := rfl
@[simp] theorem State.modCore_romAt (s : State) (c : Nat) (g : CoreSt → CoreSt) : (s.modCore c g).romAt = s.romAt := rfl
@[simp] theorem State.modCore_dieBase (s : State) (c : Nat) (g : CoreSt → CoreSt) : (s.modCore c g).dieBase = s.dieBase := rfl
@[simp] theorem State.modCore_inj (s : State) (c : Nat) (g : CoreSt → CoreSt) : (s.modCore c g).inj = s.inj := rfl
@[simp] theorem State.modCore_evNow (s : State) (c : Nat) (g : CoreSt → CoreSt) : (s.modCore c g).evNow = s.evNow := rfl
@[simp] theorem State.modCore_started (s : State) (c : Nat) (g : CoreSt → CoreSt) : (s.modCore c g).started = s.started := rfl
@[simp] theorem State.modCore_lockHub (s : State) (c : Nat) (g : CoreSt → CoreSt) : (s.modCore c g).lockHub = s.lockHub := rfl
@[simp] theorem State.modCore_corr (s : State) (c : Nat) (g : CoreSt → CoreSt) : (s.modCore c g).corr = s.corr := rfl
@[simp] theorem State.modCore_episode (s : State) (c : Nat) (g : CoreSt → CoreSt) : (s.modCore c g).episode = s.episode := rfl
@[simp] theorem State.modCore_warmHold (s : State) (c : Nat) (g : CoreSt → CoreSt) : (s.modCore c g).warmHold = s.warmHold := rfl
@[simp] theorem State.modCore_bad (s : State) (c : Nat) (g : CoreSt → CoreSt) : (s.modCore c g).bad = s.bad := rfl
@[simp] theorem State.modCore_rchFault (s : State) (c : Nat) (g : CoreSt → CoreSt) : (s.modCore c g).rchFault = s.rchFault := rfl
@[simp] theorem State.modCore_rchSig (s : State) (c : Nat) (g : CoreSt → CoreSt) : (s.modCore c g).rchSig = s.rchSig := rfl
@[simp] theorem State.modCore_rchBack (s : State) (c : Nat) (g : CoreSt → CoreSt) : (s.modCore c g).rchBack = s.rchBack := rfl
@[simp] theorem State.modCore_links (s : State) (c : Nat) (g : CoreSt → CoreSt) : (s.modCore c g).links = s.links := rfl
@[simp] theorem State.modCore_hubTags (s : State) (c : Nat) (g : CoreSt → CoreSt) : (s.modCore c g).hubTags = s.hubTags := rfl
@[simp] theorem State.modCore_busMaster (s : State) (c : Nat) (g : CoreSt → CoreSt) : (s.modCore c g).busMaster = s.busMaster := rfl
@[simp] theorem State.modCore_laneRetry (s : State) (c : Nat) (g : CoreSt → CoreSt) : (s.modCore c g).laneRetry = s.laneRetry := rfl
@[simp] theorem State.modCore_time (s : State) (c : Nat) (g : CoreSt → CoreSt) : (s.modCore c g).time = s.time := rfl
@[simp] theorem State.modCore_loadQ (s : State) (c : Nat) (g : CoreSt → CoreSt) : (s.modCore c g).loadQ = s.loadQ := rfl
@[simp] theorem State.modCore_progs (s : State) (c : Nat) (g : CoreSt → CoreSt) : (s.modCore c g).progs = s.progs := rfl
@[simp] theorem State.modCore_tasks (s : State) (c : Nat) (g : CoreSt → CoreSt) : (s.modCore c g).tasks = s.tasks := rfl
@[simp] theorem State.modCore_spareRegs (s : State) (c : Nat) (g : CoreSt → CoreSt) : (s.modCore c g).spareRegs = s.spareRegs := rfl
@[simp] theorem State.modCore_taking (s : State) (c : Nat) (g : CoreSt → CoreSt) : (s.modCore c g).taking = s.taking := rfl
@[simp] theorem State.modCore_taken (s : State) (c : Nat) (g : CoreSt → CoreSt) : (s.modCore c g).taken = s.taken := rfl
@[simp] theorem State.modCore_aseq (s : State) (c : Nat) (g : CoreSt → CoreSt) : (s.modCore c g).aseq = s.aseq := rfl
@[simp] theorem State.modCore_start (s : State) (c : Nat) (g : CoreSt → CoreSt) : (s.modCore c g).start = s.start := rfl
@[simp] theorem State.modCore_fuse (s : State) (c : Nat) (g : CoreSt → CoreSt) : (s.modCore c g).fuse = s.fuse := rfl
@[simp] theorem State.modCore_pwr (s : State) (c : Nat) (g : CoreSt → CoreSt) : (s.modCore c g).pwr = s.pwr := rfl
@[simp] theorem State.modCore_safe (s : State) (c : Nat) (g : CoreSt → CoreSt) : (s.modCore c g).safe = s.safe := rfl
@[simp] theorem State.modCore_hst (s : State) (c : Nat) (g : CoreSt → CoreSt) : (s.modCore c g).hst = s.hst := rfl
@[simp] theorem State.modCore_watch (s : State) (c : Nat) (g : CoreSt → CoreSt) : (s.modCore c g).watch = s.watch := rfl
@[simp] theorem State.modCore_rd (s : State) (c : Nat) (g : CoreSt → CoreSt) (k' : RKey) : (s.modCore c g).rd k' = s.rd k' := rfl
@[simp] theorem State.modCore_get (s : State) (c : Nat) (g : CoreSt → CoreSt) (f' : Field) (i' j' : Nat) : (s.modCore c g).get f' i' j' = s.get f' i' j' := rfl
@[simp] theorem State.modCore_vat_read (s : State) (c : Nat) (g : CoreSt → CoreSt) (n' : Nat) : (s.modCore c g).vat n' = s.vat n' := rfl
@[simp] theorem State.modCore_router_read (s : State) (c : Nat) (g : CoreSt → CoreSt) (n' : Nat) : (s.modCore c g).router n' = s.router n' := rfl
@[simp] theorem State.modCore_msu_read (s : State) (c : Nat) (g : CoreSt → CoreSt) (n' : Nat) : (s.modCore c g).msu n' = s.msu n' := rfl
@[simp] theorem State.modCore_hbmBank_read (s : State) (c : Nat) (g : CoreSt → CoreSt) (n' : Nat) : (s.modCore c g).hbmBank n' = s.hbmBank n' := rfl
@[simp] theorem State.modCore_node_read (s : State) (c : Nat) (g : CoreSt → CoreSt) (n' : Nat) : (s.modCore c g).node n' = s.node n' := rfl
@[simp] theorem State.modCore_readByte (s : State) (c : Nat) (g : CoreSt → CoreSt) (a' : Nat) : (s.modCore c g).readByte a' = s.readByte a' := rfl

/-! ### `State.setVat` -/

@[simp] theorem State.setVat_pending (s : State) (k : Nat) (x : VatSt) : (s.setVat k x).pending = s.pending := rfl
@[simp] theorem State.setVat_now (s : State) (k : Nat) (x : VatSt) : (s.setVat k x).now = s.now := rfl
@[simp] theorem State.setVat_free (s : State) (k : Nat) (x : VatSt) : (s.setVat k x).free = s.free := rfl
@[simp] theorem State.setVat_fusedCl (s : State) (k : Nat) (x : VatSt) : (s.setVat k x).fusedCl = s.fusedCl := rfl
@[simp] theorem State.setVat_regs (s : State) (k : Nat) (x : VatSt) : (s.setVat k x).regs = s.regs := rfl
@[simp] theorem State.setVat_bus (s : State) (k : Nat) (x : VatSt) : (s.setVat k x).bus = s.bus := rfl
@[simp] theorem State.setVat_latch (s : State) (k : Nat) (x : VatSt) : (s.setVat k x).latch = s.latch := rfl
@[simp] theorem State.setVat_tlatch (s : State) (k : Nat) (x : VatSt) : (s.setVat k x).tlatch = s.tlatch := rfl
@[simp] theorem State.setVat_mem (s : State) (k : Nat) (x : VatSt) : (s.setVat k x).mem = s.mem := rfl
@[simp] theorem State.setVat_cores (s : State) (k : Nat) (x : VatSt) : (s.setVat k x).cores = s.cores := rfl
@[simp] theorem State.setVat_routers (s : State) (k : Nat) (x : VatSt) : (s.setVat k x).routers = s.routers := rfl
@[simp] theorem State.setVat_stq (s : State) (k : Nat) (x : VatSt) : (s.setVat k x).stq = s.stq := rfl
@[simp] theorem State.setVat_deliv (s : State) (k : Nat) (x : VatSt) : (s.setVat k x).deliv = s.deliv := rfl
@[simp] theorem State.setVat_hbm (s : State) (k : Nat) (x : VatSt) : (s.setVat k x).hbm = s.hbm := rfl
@[simp] theorem State.setVat_msus (s : State) (k : Nat) (x : VatSt) : (s.setVat k x).msus = s.msus := rfl
@[simp] theorem State.setVat_nodes (s : State) (k : Nat) (x : VatSt) : (s.setVat k x).nodes = s.nodes := rfl
@[simp] theorem State.setVat_elog (s : State) (k : Nat) (x : VatSt) : (s.setVat k x).elog = s.elog := rfl
@[simp] theorem State.setVat_pers (s : State) (k : Nat) (x : VatSt) : (s.setVat k x).pers = s.pers := rfl
@[simp] theorem State.setVat_props (s : State) (k : Nat) (x : VatSt) : (s.setVat k x).props = s.props := rfl
@[simp] theorem State.setVat_out (s : State) (k : Nat) (x : VatSt) : (s.setVat k x).out = s.out := rfl
@[simp] theorem State.setVat_rings (s : State) (k : Nat) (x : VatSt) : (s.setVat k x).rings = s.rings := rfl
@[simp] theorem State.setVat_events (s : State) (k : Nat) (x : VatSt) : (s.setVat k x).events = s.events := rfl
@[simp] theorem State.setVat_evLost (s : State) (k : Nat) (x : VatSt) : (s.setVat k x).evLost = s.evLost := rfl
@[simp] theorem State.setVat_tbVal (s : State) (k : Nat) (x : VatSt) : (s.setVat k x).tbVal = s.tbVal := rfl
@[simp] theorem State.setVat_tbAt (s : State) (k : Nat) (x : VatSt) : (s.setVat k x).tbAt = s.tbAt := rfl
@[simp] theorem State.setVat_romAt (s : State) (k : Nat) (x : VatSt) : (s.setVat k x).romAt = s.romAt := rfl
@[simp] theorem State.setVat_dieBase (s : State) (k : Nat) (x : VatSt) : (s.setVat k x).dieBase = s.dieBase := rfl
@[simp] theorem State.setVat_inj (s : State) (k : Nat) (x : VatSt) : (s.setVat k x).inj = s.inj := rfl
@[simp] theorem State.setVat_evNow (s : State) (k : Nat) (x : VatSt) : (s.setVat k x).evNow = s.evNow := rfl
@[simp] theorem State.setVat_started (s : State) (k : Nat) (x : VatSt) : (s.setVat k x).started = s.started := rfl
@[simp] theorem State.setVat_lockHub (s : State) (k : Nat) (x : VatSt) : (s.setVat k x).lockHub = s.lockHub := rfl
@[simp] theorem State.setVat_corr (s : State) (k : Nat) (x : VatSt) : (s.setVat k x).corr = s.corr := rfl
@[simp] theorem State.setVat_episode (s : State) (k : Nat) (x : VatSt) : (s.setVat k x).episode = s.episode := rfl
@[simp] theorem State.setVat_warmHold (s : State) (k : Nat) (x : VatSt) : (s.setVat k x).warmHold = s.warmHold := rfl
@[simp] theorem State.setVat_bad (s : State) (k : Nat) (x : VatSt) : (s.setVat k x).bad = s.bad := rfl
@[simp] theorem State.setVat_rchFault (s : State) (k : Nat) (x : VatSt) : (s.setVat k x).rchFault = s.rchFault := rfl
@[simp] theorem State.setVat_rchSig (s : State) (k : Nat) (x : VatSt) : (s.setVat k x).rchSig = s.rchSig := rfl
@[simp] theorem State.setVat_rchBack (s : State) (k : Nat) (x : VatSt) : (s.setVat k x).rchBack = s.rchBack := rfl
@[simp] theorem State.setVat_links (s : State) (k : Nat) (x : VatSt) : (s.setVat k x).links = s.links := rfl
@[simp] theorem State.setVat_hubTags (s : State) (k : Nat) (x : VatSt) : (s.setVat k x).hubTags = s.hubTags := rfl
@[simp] theorem State.setVat_busMaster (s : State) (k : Nat) (x : VatSt) : (s.setVat k x).busMaster = s.busMaster := rfl
@[simp] theorem State.setVat_laneRetry (s : State) (k : Nat) (x : VatSt) : (s.setVat k x).laneRetry = s.laneRetry := rfl
@[simp] theorem State.setVat_time (s : State) (k : Nat) (x : VatSt) : (s.setVat k x).time = s.time := rfl
@[simp] theorem State.setVat_loadQ (s : State) (k : Nat) (x : VatSt) : (s.setVat k x).loadQ = s.loadQ := rfl
@[simp] theorem State.setVat_progs (s : State) (k : Nat) (x : VatSt) : (s.setVat k x).progs = s.progs := rfl
@[simp] theorem State.setVat_tasks (s : State) (k : Nat) (x : VatSt) : (s.setVat k x).tasks = s.tasks := rfl
@[simp] theorem State.setVat_spareRegs (s : State) (k : Nat) (x : VatSt) : (s.setVat k x).spareRegs = s.spareRegs := rfl
@[simp] theorem State.setVat_taking (s : State) (k : Nat) (x : VatSt) : (s.setVat k x).taking = s.taking := rfl
@[simp] theorem State.setVat_taken (s : State) (k : Nat) (x : VatSt) : (s.setVat k x).taken = s.taken := rfl
@[simp] theorem State.setVat_aseq (s : State) (k : Nat) (x : VatSt) : (s.setVat k x).aseq = s.aseq := rfl
@[simp] theorem State.setVat_start (s : State) (k : Nat) (x : VatSt) : (s.setVat k x).start = s.start := rfl
@[simp] theorem State.setVat_fuse (s : State) (k : Nat) (x : VatSt) : (s.setVat k x).fuse = s.fuse := rfl
@[simp] theorem State.setVat_pwr (s : State) (k : Nat) (x : VatSt) : (s.setVat k x).pwr = s.pwr := rfl
@[simp] theorem State.setVat_safe (s : State) (k : Nat) (x : VatSt) : (s.setVat k x).safe = s.safe := rfl
@[simp] theorem State.setVat_hst (s : State) (k : Nat) (x : VatSt) : (s.setVat k x).hst = s.hst := rfl
@[simp] theorem State.setVat_watch (s : State) (k : Nat) (x : VatSt) : (s.setVat k x).watch = s.watch := rfl
@[simp] theorem State.setVat_rd (s : State) (k : Nat) (x : VatSt) (k' : RKey) : (s.setVat k x).rd k' = s.rd k' := rfl
@[simp] theorem State.setVat_get (s : State) (k : Nat) (x : VatSt) (f' : Field) (i' j' : Nat) : (s.setVat k x).get f' i' j' = s.get f' i' j' := rfl
@[simp] theorem State.setVat_core_read (s : State) (k : Nat) (x : VatSt) (n' : Nat) : (s.setVat k x).core n' = s.core n' := rfl
@[simp] theorem State.setVat_router_read (s : State) (k : Nat) (x : VatSt) (n' : Nat) : (s.setVat k x).router n' = s.router n' := rfl
@[simp] theorem State.setVat_msu_read (s : State) (k : Nat) (x : VatSt) (n' : Nat) : (s.setVat k x).msu n' = s.msu n' := rfl
@[simp] theorem State.setVat_hbmBank_read (s : State) (k : Nat) (x : VatSt) (n' : Nat) : (s.setVat k x).hbmBank n' = s.hbmBank n' := rfl
@[simp] theorem State.setVat_node_read (s : State) (k : Nat) (x : VatSt) (n' : Nat) : (s.setVat k x).node n' = s.node n' := rfl
@[simp] theorem State.setVat_readByte (s : State) (k : Nat) (x : VatSt) (a' : Nat) : (s.setVat k x).readByte a' = s.readByte a' := rfl

/-! ### `State.setRouter` -/

@[simp] theorem State.setRouter_pending (s : State) (k : Nat) (x : RouterSt) : (s.setRouter k x).pending = s.pending := rfl
@[simp] theorem State.setRouter_now (s : State) (k : Nat) (x : RouterSt) : (s.setRouter k x).now = s.now := rfl
@[simp] theorem State.setRouter_free (s : State) (k : Nat) (x : RouterSt) : (s.setRouter k x).free = s.free := rfl
@[simp] theorem State.setRouter_fusedCl (s : State) (k : Nat) (x : RouterSt) : (s.setRouter k x).fusedCl = s.fusedCl := rfl
@[simp] theorem State.setRouter_regs (s : State) (k : Nat) (x : RouterSt) : (s.setRouter k x).regs = s.regs := rfl
@[simp] theorem State.setRouter_bus (s : State) (k : Nat) (x : RouterSt) : (s.setRouter k x).bus = s.bus := rfl
@[simp] theorem State.setRouter_latch (s : State) (k : Nat) (x : RouterSt) : (s.setRouter k x).latch = s.latch := rfl
@[simp] theorem State.setRouter_tlatch (s : State) (k : Nat) (x : RouterSt) : (s.setRouter k x).tlatch = s.tlatch := rfl
@[simp] theorem State.setRouter_mem (s : State) (k : Nat) (x : RouterSt) : (s.setRouter k x).mem = s.mem := rfl
@[simp] theorem State.setRouter_cores (s : State) (k : Nat) (x : RouterSt) : (s.setRouter k x).cores = s.cores := rfl
@[simp] theorem State.setRouter_vats (s : State) (k : Nat) (x : RouterSt) : (s.setRouter k x).vats = s.vats := rfl
@[simp] theorem State.setRouter_stq (s : State) (k : Nat) (x : RouterSt) : (s.setRouter k x).stq = s.stq := rfl
@[simp] theorem State.setRouter_deliv (s : State) (k : Nat) (x : RouterSt) : (s.setRouter k x).deliv = s.deliv := rfl
@[simp] theorem State.setRouter_hbm (s : State) (k : Nat) (x : RouterSt) : (s.setRouter k x).hbm = s.hbm := rfl
@[simp] theorem State.setRouter_msus (s : State) (k : Nat) (x : RouterSt) : (s.setRouter k x).msus = s.msus := rfl
@[simp] theorem State.setRouter_nodes (s : State) (k : Nat) (x : RouterSt) : (s.setRouter k x).nodes = s.nodes := rfl
@[simp] theorem State.setRouter_elog (s : State) (k : Nat) (x : RouterSt) : (s.setRouter k x).elog = s.elog := rfl
@[simp] theorem State.setRouter_pers (s : State) (k : Nat) (x : RouterSt) : (s.setRouter k x).pers = s.pers := rfl
@[simp] theorem State.setRouter_props (s : State) (k : Nat) (x : RouterSt) : (s.setRouter k x).props = s.props := rfl
@[simp] theorem State.setRouter_out (s : State) (k : Nat) (x : RouterSt) : (s.setRouter k x).out = s.out := rfl
@[simp] theorem State.setRouter_rings (s : State) (k : Nat) (x : RouterSt) : (s.setRouter k x).rings = s.rings := rfl
@[simp] theorem State.setRouter_events (s : State) (k : Nat) (x : RouterSt) : (s.setRouter k x).events = s.events := rfl
@[simp] theorem State.setRouter_evLost (s : State) (k : Nat) (x : RouterSt) : (s.setRouter k x).evLost = s.evLost := rfl
@[simp] theorem State.setRouter_tbVal (s : State) (k : Nat) (x : RouterSt) : (s.setRouter k x).tbVal = s.tbVal := rfl
@[simp] theorem State.setRouter_tbAt (s : State) (k : Nat) (x : RouterSt) : (s.setRouter k x).tbAt = s.tbAt := rfl
@[simp] theorem State.setRouter_romAt (s : State) (k : Nat) (x : RouterSt) : (s.setRouter k x).romAt = s.romAt := rfl
@[simp] theorem State.setRouter_dieBase (s : State) (k : Nat) (x : RouterSt) : (s.setRouter k x).dieBase = s.dieBase := rfl
@[simp] theorem State.setRouter_inj (s : State) (k : Nat) (x : RouterSt) : (s.setRouter k x).inj = s.inj := rfl
@[simp] theorem State.setRouter_evNow (s : State) (k : Nat) (x : RouterSt) : (s.setRouter k x).evNow = s.evNow := rfl
@[simp] theorem State.setRouter_started (s : State) (k : Nat) (x : RouterSt) : (s.setRouter k x).started = s.started := rfl
@[simp] theorem State.setRouter_lockHub (s : State) (k : Nat) (x : RouterSt) : (s.setRouter k x).lockHub = s.lockHub := rfl
@[simp] theorem State.setRouter_corr (s : State) (k : Nat) (x : RouterSt) : (s.setRouter k x).corr = s.corr := rfl
@[simp] theorem State.setRouter_episode (s : State) (k : Nat) (x : RouterSt) : (s.setRouter k x).episode = s.episode := rfl
@[simp] theorem State.setRouter_warmHold (s : State) (k : Nat) (x : RouterSt) : (s.setRouter k x).warmHold = s.warmHold := rfl
@[simp] theorem State.setRouter_bad (s : State) (k : Nat) (x : RouterSt) : (s.setRouter k x).bad = s.bad := rfl
@[simp] theorem State.setRouter_rchFault (s : State) (k : Nat) (x : RouterSt) : (s.setRouter k x).rchFault = s.rchFault := rfl
@[simp] theorem State.setRouter_rchSig (s : State) (k : Nat) (x : RouterSt) : (s.setRouter k x).rchSig = s.rchSig := rfl
@[simp] theorem State.setRouter_rchBack (s : State) (k : Nat) (x : RouterSt) : (s.setRouter k x).rchBack = s.rchBack := rfl
@[simp] theorem State.setRouter_links (s : State) (k : Nat) (x : RouterSt) : (s.setRouter k x).links = s.links := rfl
@[simp] theorem State.setRouter_hubTags (s : State) (k : Nat) (x : RouterSt) : (s.setRouter k x).hubTags = s.hubTags := rfl
@[simp] theorem State.setRouter_busMaster (s : State) (k : Nat) (x : RouterSt) : (s.setRouter k x).busMaster = s.busMaster := rfl
@[simp] theorem State.setRouter_laneRetry (s : State) (k : Nat) (x : RouterSt) : (s.setRouter k x).laneRetry = s.laneRetry := rfl
@[simp] theorem State.setRouter_time (s : State) (k : Nat) (x : RouterSt) : (s.setRouter k x).time = s.time := rfl
@[simp] theorem State.setRouter_loadQ (s : State) (k : Nat) (x : RouterSt) : (s.setRouter k x).loadQ = s.loadQ := rfl
@[simp] theorem State.setRouter_progs (s : State) (k : Nat) (x : RouterSt) : (s.setRouter k x).progs = s.progs := rfl
@[simp] theorem State.setRouter_tasks (s : State) (k : Nat) (x : RouterSt) : (s.setRouter k x).tasks = s.tasks := rfl
@[simp] theorem State.setRouter_spareRegs (s : State) (k : Nat) (x : RouterSt) : (s.setRouter k x).spareRegs = s.spareRegs := rfl
@[simp] theorem State.setRouter_taking (s : State) (k : Nat) (x : RouterSt) : (s.setRouter k x).taking = s.taking := rfl
@[simp] theorem State.setRouter_taken (s : State) (k : Nat) (x : RouterSt) : (s.setRouter k x).taken = s.taken := rfl
@[simp] theorem State.setRouter_aseq (s : State) (k : Nat) (x : RouterSt) : (s.setRouter k x).aseq = s.aseq := rfl
@[simp] theorem State.setRouter_start (s : State) (k : Nat) (x : RouterSt) : (s.setRouter k x).start = s.start := rfl
@[simp] theorem State.setRouter_fuse (s : State) (k : Nat) (x : RouterSt) : (s.setRouter k x).fuse = s.fuse := rfl
@[simp] theorem State.setRouter_pwr (s : State) (k : Nat) (x : RouterSt) : (s.setRouter k x).pwr = s.pwr := rfl
@[simp] theorem State.setRouter_safe (s : State) (k : Nat) (x : RouterSt) : (s.setRouter k x).safe = s.safe := rfl
@[simp] theorem State.setRouter_hst (s : State) (k : Nat) (x : RouterSt) : (s.setRouter k x).hst = s.hst := rfl
@[simp] theorem State.setRouter_watch (s : State) (k : Nat) (x : RouterSt) : (s.setRouter k x).watch = s.watch := rfl
@[simp] theorem State.setRouter_rd (s : State) (k : Nat) (x : RouterSt) (k' : RKey) : (s.setRouter k x).rd k' = s.rd k' := rfl
@[simp] theorem State.setRouter_get (s : State) (k : Nat) (x : RouterSt) (f' : Field) (i' j' : Nat) : (s.setRouter k x).get f' i' j' = s.get f' i' j' := rfl
@[simp] theorem State.setRouter_core_read (s : State) (k : Nat) (x : RouterSt) (n' : Nat) : (s.setRouter k x).core n' = s.core n' := rfl
@[simp] theorem State.setRouter_vat_read (s : State) (k : Nat) (x : RouterSt) (n' : Nat) : (s.setRouter k x).vat n' = s.vat n' := rfl
@[simp] theorem State.setRouter_msu_read (s : State) (k : Nat) (x : RouterSt) (n' : Nat) : (s.setRouter k x).msu n' = s.msu n' := rfl
@[simp] theorem State.setRouter_hbmBank_read (s : State) (k : Nat) (x : RouterSt) (n' : Nat) : (s.setRouter k x).hbmBank n' = s.hbmBank n' := rfl
@[simp] theorem State.setRouter_node_read (s : State) (k : Nat) (x : RouterSt) (n' : Nat) : (s.setRouter k x).node n' = s.node n' := rfl
@[simp] theorem State.setRouter_readByte (s : State) (k : Nat) (x : RouterSt) (a' : Nat) : (s.setRouter k x).readByte a' = s.readByte a' := rfl

/-! ### `State.setMsu` -/

@[simp] theorem State.setMsu_pending (s : State) (m : Nat) (x : MsuSt) : (s.setMsu m x).pending = s.pending := rfl
@[simp] theorem State.setMsu_now (s : State) (m : Nat) (x : MsuSt) : (s.setMsu m x).now = s.now := rfl
@[simp] theorem State.setMsu_free (s : State) (m : Nat) (x : MsuSt) : (s.setMsu m x).free = s.free := rfl
@[simp] theorem State.setMsu_fusedCl (s : State) (m : Nat) (x : MsuSt) : (s.setMsu m x).fusedCl = s.fusedCl := rfl
@[simp] theorem State.setMsu_regs (s : State) (m : Nat) (x : MsuSt) : (s.setMsu m x).regs = s.regs := rfl
@[simp] theorem State.setMsu_bus (s : State) (m : Nat) (x : MsuSt) : (s.setMsu m x).bus = s.bus := rfl
@[simp] theorem State.setMsu_latch (s : State) (m : Nat) (x : MsuSt) : (s.setMsu m x).latch = s.latch := rfl
@[simp] theorem State.setMsu_tlatch (s : State) (m : Nat) (x : MsuSt) : (s.setMsu m x).tlatch = s.tlatch := rfl
@[simp] theorem State.setMsu_mem (s : State) (m : Nat) (x : MsuSt) : (s.setMsu m x).mem = s.mem := rfl
@[simp] theorem State.setMsu_cores (s : State) (m : Nat) (x : MsuSt) : (s.setMsu m x).cores = s.cores := rfl
@[simp] theorem State.setMsu_vats (s : State) (m : Nat) (x : MsuSt) : (s.setMsu m x).vats = s.vats := rfl
@[simp] theorem State.setMsu_routers (s : State) (m : Nat) (x : MsuSt) : (s.setMsu m x).routers = s.routers := rfl
@[simp] theorem State.setMsu_stq (s : State) (m : Nat) (x : MsuSt) : (s.setMsu m x).stq = s.stq := rfl
@[simp] theorem State.setMsu_deliv (s : State) (m : Nat) (x : MsuSt) : (s.setMsu m x).deliv = s.deliv := rfl
@[simp] theorem State.setMsu_hbm (s : State) (m : Nat) (x : MsuSt) : (s.setMsu m x).hbm = s.hbm := rfl
@[simp] theorem State.setMsu_nodes (s : State) (m : Nat) (x : MsuSt) : (s.setMsu m x).nodes = s.nodes := rfl
@[simp] theorem State.setMsu_elog (s : State) (m : Nat) (x : MsuSt) : (s.setMsu m x).elog = s.elog := rfl
@[simp] theorem State.setMsu_pers (s : State) (m : Nat) (x : MsuSt) : (s.setMsu m x).pers = s.pers := rfl
@[simp] theorem State.setMsu_props (s : State) (m : Nat) (x : MsuSt) : (s.setMsu m x).props = s.props := rfl
@[simp] theorem State.setMsu_out (s : State) (m : Nat) (x : MsuSt) : (s.setMsu m x).out = s.out := rfl
@[simp] theorem State.setMsu_rings (s : State) (m : Nat) (x : MsuSt) : (s.setMsu m x).rings = s.rings := rfl
@[simp] theorem State.setMsu_events (s : State) (m : Nat) (x : MsuSt) : (s.setMsu m x).events = s.events := rfl
@[simp] theorem State.setMsu_evLost (s : State) (m : Nat) (x : MsuSt) : (s.setMsu m x).evLost = s.evLost := rfl
@[simp] theorem State.setMsu_tbVal (s : State) (m : Nat) (x : MsuSt) : (s.setMsu m x).tbVal = s.tbVal := rfl
@[simp] theorem State.setMsu_tbAt (s : State) (m : Nat) (x : MsuSt) : (s.setMsu m x).tbAt = s.tbAt := rfl
@[simp] theorem State.setMsu_romAt (s : State) (m : Nat) (x : MsuSt) : (s.setMsu m x).romAt = s.romAt := rfl
@[simp] theorem State.setMsu_dieBase (s : State) (m : Nat) (x : MsuSt) : (s.setMsu m x).dieBase = s.dieBase := rfl
@[simp] theorem State.setMsu_inj (s : State) (m : Nat) (x : MsuSt) : (s.setMsu m x).inj = s.inj := rfl
@[simp] theorem State.setMsu_evNow (s : State) (m : Nat) (x : MsuSt) : (s.setMsu m x).evNow = s.evNow := rfl
@[simp] theorem State.setMsu_started (s : State) (m : Nat) (x : MsuSt) : (s.setMsu m x).started = s.started := rfl
@[simp] theorem State.setMsu_lockHub (s : State) (m : Nat) (x : MsuSt) : (s.setMsu m x).lockHub = s.lockHub := rfl
@[simp] theorem State.setMsu_corr (s : State) (m : Nat) (x : MsuSt) : (s.setMsu m x).corr = s.corr := rfl
@[simp] theorem State.setMsu_episode (s : State) (m : Nat) (x : MsuSt) : (s.setMsu m x).episode = s.episode := rfl
@[simp] theorem State.setMsu_warmHold (s : State) (m : Nat) (x : MsuSt) : (s.setMsu m x).warmHold = s.warmHold := rfl
@[simp] theorem State.setMsu_bad (s : State) (m : Nat) (x : MsuSt) : (s.setMsu m x).bad = s.bad := rfl
@[simp] theorem State.setMsu_rchFault (s : State) (m : Nat) (x : MsuSt) : (s.setMsu m x).rchFault = s.rchFault := rfl
@[simp] theorem State.setMsu_rchSig (s : State) (m : Nat) (x : MsuSt) : (s.setMsu m x).rchSig = s.rchSig := rfl
@[simp] theorem State.setMsu_rchBack (s : State) (m : Nat) (x : MsuSt) : (s.setMsu m x).rchBack = s.rchBack := rfl
@[simp] theorem State.setMsu_links (s : State) (m : Nat) (x : MsuSt) : (s.setMsu m x).links = s.links := rfl
@[simp] theorem State.setMsu_hubTags (s : State) (m : Nat) (x : MsuSt) : (s.setMsu m x).hubTags = s.hubTags := rfl
@[simp] theorem State.setMsu_busMaster (s : State) (m : Nat) (x : MsuSt) : (s.setMsu m x).busMaster = s.busMaster := rfl
@[simp] theorem State.setMsu_laneRetry (s : State) (m : Nat) (x : MsuSt) : (s.setMsu m x).laneRetry = s.laneRetry := rfl
@[simp] theorem State.setMsu_time (s : State) (m : Nat) (x : MsuSt) : (s.setMsu m x).time = s.time := rfl
@[simp] theorem State.setMsu_loadQ (s : State) (m : Nat) (x : MsuSt) : (s.setMsu m x).loadQ = s.loadQ := rfl
@[simp] theorem State.setMsu_progs (s : State) (m : Nat) (x : MsuSt) : (s.setMsu m x).progs = s.progs := rfl
@[simp] theorem State.setMsu_tasks (s : State) (m : Nat) (x : MsuSt) : (s.setMsu m x).tasks = s.tasks := rfl
@[simp] theorem State.setMsu_spareRegs (s : State) (m : Nat) (x : MsuSt) : (s.setMsu m x).spareRegs = s.spareRegs := rfl
@[simp] theorem State.setMsu_taking (s : State) (m : Nat) (x : MsuSt) : (s.setMsu m x).taking = s.taking := rfl
@[simp] theorem State.setMsu_taken (s : State) (m : Nat) (x : MsuSt) : (s.setMsu m x).taken = s.taken := rfl
@[simp] theorem State.setMsu_aseq (s : State) (m : Nat) (x : MsuSt) : (s.setMsu m x).aseq = s.aseq := rfl
@[simp] theorem State.setMsu_start (s : State) (m : Nat) (x : MsuSt) : (s.setMsu m x).start = s.start := rfl
@[simp] theorem State.setMsu_fuse (s : State) (m : Nat) (x : MsuSt) : (s.setMsu m x).fuse = s.fuse := rfl
@[simp] theorem State.setMsu_pwr (s : State) (m : Nat) (x : MsuSt) : (s.setMsu m x).pwr = s.pwr := rfl
@[simp] theorem State.setMsu_safe (s : State) (m : Nat) (x : MsuSt) : (s.setMsu m x).safe = s.safe := rfl
@[simp] theorem State.setMsu_hst (s : State) (m : Nat) (x : MsuSt) : (s.setMsu m x).hst = s.hst := rfl
@[simp] theorem State.setMsu_watch (s : State) (m : Nat) (x : MsuSt) : (s.setMsu m x).watch = s.watch := rfl
@[simp] theorem State.setMsu_rd (s : State) (m : Nat) (x : MsuSt) (k' : RKey) : (s.setMsu m x).rd k' = s.rd k' := rfl
@[simp] theorem State.setMsu_get (s : State) (m : Nat) (x : MsuSt) (f' : Field) (i' j' : Nat) : (s.setMsu m x).get f' i' j' = s.get f' i' j' := rfl
@[simp] theorem State.setMsu_core_read (s : State) (m : Nat) (x : MsuSt) (n' : Nat) : (s.setMsu m x).core n' = s.core n' := rfl
@[simp] theorem State.setMsu_vat_read (s : State) (m : Nat) (x : MsuSt) (n' : Nat) : (s.setMsu m x).vat n' = s.vat n' := rfl
@[simp] theorem State.setMsu_router_read (s : State) (m : Nat) (x : MsuSt) (n' : Nat) : (s.setMsu m x).router n' = s.router n' := rfl
@[simp] theorem State.setMsu_hbmBank_read (s : State) (m : Nat) (x : MsuSt) (n' : Nat) : (s.setMsu m x).hbmBank n' = s.hbmBank n' := rfl
@[simp] theorem State.setMsu_node_read (s : State) (m : Nat) (x : MsuSt) (n' : Nat) : (s.setMsu m x).node n' = s.node n' := rfl
@[simp] theorem State.setMsu_readByte (s : State) (m : Nat) (x : MsuSt) (a' : Nat) : (s.setMsu m x).readByte a' = s.readByte a' := rfl

/-! ### `State.setHbmBank` -/

@[simp] theorem State.setHbmBank_pending (s : State) (k : Nat) (x : HbmBank) : (s.setHbmBank k x).pending = s.pending := rfl
@[simp] theorem State.setHbmBank_now (s : State) (k : Nat) (x : HbmBank) : (s.setHbmBank k x).now = s.now := rfl
@[simp] theorem State.setHbmBank_free (s : State) (k : Nat) (x : HbmBank) : (s.setHbmBank k x).free = s.free := rfl
@[simp] theorem State.setHbmBank_fusedCl (s : State) (k : Nat) (x : HbmBank) : (s.setHbmBank k x).fusedCl = s.fusedCl := rfl
@[simp] theorem State.setHbmBank_regs (s : State) (k : Nat) (x : HbmBank) : (s.setHbmBank k x).regs = s.regs := rfl
@[simp] theorem State.setHbmBank_bus (s : State) (k : Nat) (x : HbmBank) : (s.setHbmBank k x).bus = s.bus := rfl
@[simp] theorem State.setHbmBank_latch (s : State) (k : Nat) (x : HbmBank) : (s.setHbmBank k x).latch = s.latch := rfl
@[simp] theorem State.setHbmBank_tlatch (s : State) (k : Nat) (x : HbmBank) : (s.setHbmBank k x).tlatch = s.tlatch := rfl
@[simp] theorem State.setHbmBank_mem (s : State) (k : Nat) (x : HbmBank) : (s.setHbmBank k x).mem = s.mem := rfl
@[simp] theorem State.setHbmBank_cores (s : State) (k : Nat) (x : HbmBank) : (s.setHbmBank k x).cores = s.cores := rfl
@[simp] theorem State.setHbmBank_vats (s : State) (k : Nat) (x : HbmBank) : (s.setHbmBank k x).vats = s.vats := rfl
@[simp] theorem State.setHbmBank_routers (s : State) (k : Nat) (x : HbmBank) : (s.setHbmBank k x).routers = s.routers := rfl
@[simp] theorem State.setHbmBank_stq (s : State) (k : Nat) (x : HbmBank) : (s.setHbmBank k x).stq = s.stq := rfl
@[simp] theorem State.setHbmBank_deliv (s : State) (k : Nat) (x : HbmBank) : (s.setHbmBank k x).deliv = s.deliv := rfl
@[simp] theorem State.setHbmBank_msus (s : State) (k : Nat) (x : HbmBank) : (s.setHbmBank k x).msus = s.msus := rfl
@[simp] theorem State.setHbmBank_nodes (s : State) (k : Nat) (x : HbmBank) : (s.setHbmBank k x).nodes = s.nodes := rfl
@[simp] theorem State.setHbmBank_elog (s : State) (k : Nat) (x : HbmBank) : (s.setHbmBank k x).elog = s.elog := rfl
@[simp] theorem State.setHbmBank_pers (s : State) (k : Nat) (x : HbmBank) : (s.setHbmBank k x).pers = s.pers := rfl
@[simp] theorem State.setHbmBank_props (s : State) (k : Nat) (x : HbmBank) : (s.setHbmBank k x).props = s.props := rfl
@[simp] theorem State.setHbmBank_out (s : State) (k : Nat) (x : HbmBank) : (s.setHbmBank k x).out = s.out := rfl
@[simp] theorem State.setHbmBank_rings (s : State) (k : Nat) (x : HbmBank) : (s.setHbmBank k x).rings = s.rings := rfl
@[simp] theorem State.setHbmBank_events (s : State) (k : Nat) (x : HbmBank) : (s.setHbmBank k x).events = s.events := rfl
@[simp] theorem State.setHbmBank_evLost (s : State) (k : Nat) (x : HbmBank) : (s.setHbmBank k x).evLost = s.evLost := rfl
@[simp] theorem State.setHbmBank_tbVal (s : State) (k : Nat) (x : HbmBank) : (s.setHbmBank k x).tbVal = s.tbVal := rfl
@[simp] theorem State.setHbmBank_tbAt (s : State) (k : Nat) (x : HbmBank) : (s.setHbmBank k x).tbAt = s.tbAt := rfl
@[simp] theorem State.setHbmBank_romAt (s : State) (k : Nat) (x : HbmBank) : (s.setHbmBank k x).romAt = s.romAt := rfl
@[simp] theorem State.setHbmBank_dieBase (s : State) (k : Nat) (x : HbmBank) : (s.setHbmBank k x).dieBase = s.dieBase := rfl
@[simp] theorem State.setHbmBank_inj (s : State) (k : Nat) (x : HbmBank) : (s.setHbmBank k x).inj = s.inj := rfl
@[simp] theorem State.setHbmBank_evNow (s : State) (k : Nat) (x : HbmBank) : (s.setHbmBank k x).evNow = s.evNow := rfl
@[simp] theorem State.setHbmBank_started (s : State) (k : Nat) (x : HbmBank) : (s.setHbmBank k x).started = s.started := rfl
@[simp] theorem State.setHbmBank_lockHub (s : State) (k : Nat) (x : HbmBank) : (s.setHbmBank k x).lockHub = s.lockHub := rfl
@[simp] theorem State.setHbmBank_corr (s : State) (k : Nat) (x : HbmBank) : (s.setHbmBank k x).corr = s.corr := rfl
@[simp] theorem State.setHbmBank_episode (s : State) (k : Nat) (x : HbmBank) : (s.setHbmBank k x).episode = s.episode := rfl
@[simp] theorem State.setHbmBank_warmHold (s : State) (k : Nat) (x : HbmBank) : (s.setHbmBank k x).warmHold = s.warmHold := rfl
@[simp] theorem State.setHbmBank_bad (s : State) (k : Nat) (x : HbmBank) : (s.setHbmBank k x).bad = s.bad := rfl
@[simp] theorem State.setHbmBank_rchFault (s : State) (k : Nat) (x : HbmBank) : (s.setHbmBank k x).rchFault = s.rchFault := rfl
@[simp] theorem State.setHbmBank_rchSig (s : State) (k : Nat) (x : HbmBank) : (s.setHbmBank k x).rchSig = s.rchSig := rfl
@[simp] theorem State.setHbmBank_rchBack (s : State) (k : Nat) (x : HbmBank) : (s.setHbmBank k x).rchBack = s.rchBack := rfl
@[simp] theorem State.setHbmBank_links (s : State) (k : Nat) (x : HbmBank) : (s.setHbmBank k x).links = s.links := rfl
@[simp] theorem State.setHbmBank_hubTags (s : State) (k : Nat) (x : HbmBank) : (s.setHbmBank k x).hubTags = s.hubTags := rfl
@[simp] theorem State.setHbmBank_busMaster (s : State) (k : Nat) (x : HbmBank) : (s.setHbmBank k x).busMaster = s.busMaster := rfl
@[simp] theorem State.setHbmBank_laneRetry (s : State) (k : Nat) (x : HbmBank) : (s.setHbmBank k x).laneRetry = s.laneRetry := rfl
@[simp] theorem State.setHbmBank_time (s : State) (k : Nat) (x : HbmBank) : (s.setHbmBank k x).time = s.time := rfl
@[simp] theorem State.setHbmBank_loadQ (s : State) (k : Nat) (x : HbmBank) : (s.setHbmBank k x).loadQ = s.loadQ := rfl
@[simp] theorem State.setHbmBank_progs (s : State) (k : Nat) (x : HbmBank) : (s.setHbmBank k x).progs = s.progs := rfl
@[simp] theorem State.setHbmBank_tasks (s : State) (k : Nat) (x : HbmBank) : (s.setHbmBank k x).tasks = s.tasks := rfl
@[simp] theorem State.setHbmBank_spareRegs (s : State) (k : Nat) (x : HbmBank) : (s.setHbmBank k x).spareRegs = s.spareRegs := rfl
@[simp] theorem State.setHbmBank_taking (s : State) (k : Nat) (x : HbmBank) : (s.setHbmBank k x).taking = s.taking := rfl
@[simp] theorem State.setHbmBank_taken (s : State) (k : Nat) (x : HbmBank) : (s.setHbmBank k x).taken = s.taken := rfl
@[simp] theorem State.setHbmBank_aseq (s : State) (k : Nat) (x : HbmBank) : (s.setHbmBank k x).aseq = s.aseq := rfl
@[simp] theorem State.setHbmBank_start (s : State) (k : Nat) (x : HbmBank) : (s.setHbmBank k x).start = s.start := rfl
@[simp] theorem State.setHbmBank_fuse (s : State) (k : Nat) (x : HbmBank) : (s.setHbmBank k x).fuse = s.fuse := rfl
@[simp] theorem State.setHbmBank_pwr (s : State) (k : Nat) (x : HbmBank) : (s.setHbmBank k x).pwr = s.pwr := rfl
@[simp] theorem State.setHbmBank_safe (s : State) (k : Nat) (x : HbmBank) : (s.setHbmBank k x).safe = s.safe := rfl
@[simp] theorem State.setHbmBank_hst (s : State) (k : Nat) (x : HbmBank) : (s.setHbmBank k x).hst = s.hst := rfl
@[simp] theorem State.setHbmBank_watch (s : State) (k : Nat) (x : HbmBank) : (s.setHbmBank k x).watch = s.watch := rfl
@[simp] theorem State.setHbmBank_rd (s : State) (k : Nat) (x : HbmBank) (k' : RKey) : (s.setHbmBank k x).rd k' = s.rd k' := rfl
@[simp] theorem State.setHbmBank_get (s : State) (k : Nat) (x : HbmBank) (f' : Field) (i' j' : Nat) : (s.setHbmBank k x).get f' i' j' = s.get f' i' j' := rfl
@[simp] theorem State.setHbmBank_core_read (s : State) (k : Nat) (x : HbmBank) (n' : Nat) : (s.setHbmBank k x).core n' = s.core n' := rfl
@[simp] theorem State.setHbmBank_vat_read (s : State) (k : Nat) (x : HbmBank) (n' : Nat) : (s.setHbmBank k x).vat n' = s.vat n' := rfl
@[simp] theorem State.setHbmBank_router_read (s : State) (k : Nat) (x : HbmBank) (n' : Nat) : (s.setHbmBank k x).router n' = s.router n' := rfl
@[simp] theorem State.setHbmBank_msu_read (s : State) (k : Nat) (x : HbmBank) (n' : Nat) : (s.setHbmBank k x).msu n' = s.msu n' := rfl
@[simp] theorem State.setHbmBank_node_read (s : State) (k : Nat) (x : HbmBank) (n' : Nat) : (s.setHbmBank k x).node n' = s.node n' := rfl
@[simp] theorem State.setHbmBank_readByte (s : State) (k : Nat) (x : HbmBank) (a' : Nat) : (s.setHbmBank k x).readByte a' = s.readByte a' := rfl

/-! ### `State.setNode` -/

@[simp] theorem State.setNode_pending (s : State) (k : Nat) (x : NodeSt) : (s.setNode k x).pending = s.pending := rfl
@[simp] theorem State.setNode_now (s : State) (k : Nat) (x : NodeSt) : (s.setNode k x).now = s.now := rfl
@[simp] theorem State.setNode_free (s : State) (k : Nat) (x : NodeSt) : (s.setNode k x).free = s.free := rfl
@[simp] theorem State.setNode_fusedCl (s : State) (k : Nat) (x : NodeSt) : (s.setNode k x).fusedCl = s.fusedCl := rfl
@[simp] theorem State.setNode_regs (s : State) (k : Nat) (x : NodeSt) : (s.setNode k x).regs = s.regs := rfl
@[simp] theorem State.setNode_bus (s : State) (k : Nat) (x : NodeSt) : (s.setNode k x).bus = s.bus := rfl
@[simp] theorem State.setNode_latch (s : State) (k : Nat) (x : NodeSt) : (s.setNode k x).latch = s.latch := rfl
@[simp] theorem State.setNode_tlatch (s : State) (k : Nat) (x : NodeSt) : (s.setNode k x).tlatch = s.tlatch := rfl
@[simp] theorem State.setNode_mem (s : State) (k : Nat) (x : NodeSt) : (s.setNode k x).mem = s.mem := rfl
@[simp] theorem State.setNode_cores (s : State) (k : Nat) (x : NodeSt) : (s.setNode k x).cores = s.cores := rfl
@[simp] theorem State.setNode_vats (s : State) (k : Nat) (x : NodeSt) : (s.setNode k x).vats = s.vats := rfl
@[simp] theorem State.setNode_routers (s : State) (k : Nat) (x : NodeSt) : (s.setNode k x).routers = s.routers := rfl
@[simp] theorem State.setNode_stq (s : State) (k : Nat) (x : NodeSt) : (s.setNode k x).stq = s.stq := rfl
@[simp] theorem State.setNode_deliv (s : State) (k : Nat) (x : NodeSt) : (s.setNode k x).deliv = s.deliv := rfl
@[simp] theorem State.setNode_hbm (s : State) (k : Nat) (x : NodeSt) : (s.setNode k x).hbm = s.hbm := rfl
@[simp] theorem State.setNode_msus (s : State) (k : Nat) (x : NodeSt) : (s.setNode k x).msus = s.msus := rfl
@[simp] theorem State.setNode_elog (s : State) (k : Nat) (x : NodeSt) : (s.setNode k x).elog = s.elog := rfl
@[simp] theorem State.setNode_pers (s : State) (k : Nat) (x : NodeSt) : (s.setNode k x).pers = s.pers := rfl
@[simp] theorem State.setNode_props (s : State) (k : Nat) (x : NodeSt) : (s.setNode k x).props = s.props := rfl
@[simp] theorem State.setNode_out (s : State) (k : Nat) (x : NodeSt) : (s.setNode k x).out = s.out := rfl
@[simp] theorem State.setNode_rings (s : State) (k : Nat) (x : NodeSt) : (s.setNode k x).rings = s.rings := rfl
@[simp] theorem State.setNode_events (s : State) (k : Nat) (x : NodeSt) : (s.setNode k x).events = s.events := rfl
@[simp] theorem State.setNode_evLost (s : State) (k : Nat) (x : NodeSt) : (s.setNode k x).evLost = s.evLost := rfl
@[simp] theorem State.setNode_tbVal (s : State) (k : Nat) (x : NodeSt) : (s.setNode k x).tbVal = s.tbVal := rfl
@[simp] theorem State.setNode_tbAt (s : State) (k : Nat) (x : NodeSt) : (s.setNode k x).tbAt = s.tbAt := rfl
@[simp] theorem State.setNode_romAt (s : State) (k : Nat) (x : NodeSt) : (s.setNode k x).romAt = s.romAt := rfl
@[simp] theorem State.setNode_dieBase (s : State) (k : Nat) (x : NodeSt) : (s.setNode k x).dieBase = s.dieBase := rfl
@[simp] theorem State.setNode_inj (s : State) (k : Nat) (x : NodeSt) : (s.setNode k x).inj = s.inj := rfl
@[simp] theorem State.setNode_evNow (s : State) (k : Nat) (x : NodeSt) : (s.setNode k x).evNow = s.evNow := rfl
@[simp] theorem State.setNode_started (s : State) (k : Nat) (x : NodeSt) : (s.setNode k x).started = s.started := rfl
@[simp] theorem State.setNode_lockHub (s : State) (k : Nat) (x : NodeSt) : (s.setNode k x).lockHub = s.lockHub := rfl
@[simp] theorem State.setNode_corr (s : State) (k : Nat) (x : NodeSt) : (s.setNode k x).corr = s.corr := rfl
@[simp] theorem State.setNode_episode (s : State) (k : Nat) (x : NodeSt) : (s.setNode k x).episode = s.episode := rfl
@[simp] theorem State.setNode_warmHold (s : State) (k : Nat) (x : NodeSt) : (s.setNode k x).warmHold = s.warmHold := rfl
@[simp] theorem State.setNode_bad (s : State) (k : Nat) (x : NodeSt) : (s.setNode k x).bad = s.bad := rfl
@[simp] theorem State.setNode_rchFault (s : State) (k : Nat) (x : NodeSt) : (s.setNode k x).rchFault = s.rchFault := rfl
@[simp] theorem State.setNode_rchSig (s : State) (k : Nat) (x : NodeSt) : (s.setNode k x).rchSig = s.rchSig := rfl
@[simp] theorem State.setNode_rchBack (s : State) (k : Nat) (x : NodeSt) : (s.setNode k x).rchBack = s.rchBack := rfl
@[simp] theorem State.setNode_links (s : State) (k : Nat) (x : NodeSt) : (s.setNode k x).links = s.links := rfl
@[simp] theorem State.setNode_hubTags (s : State) (k : Nat) (x : NodeSt) : (s.setNode k x).hubTags = s.hubTags := rfl
@[simp] theorem State.setNode_busMaster (s : State) (k : Nat) (x : NodeSt) : (s.setNode k x).busMaster = s.busMaster := rfl
@[simp] theorem State.setNode_laneRetry (s : State) (k : Nat) (x : NodeSt) : (s.setNode k x).laneRetry = s.laneRetry := rfl
@[simp] theorem State.setNode_time (s : State) (k : Nat) (x : NodeSt) : (s.setNode k x).time = s.time := rfl
@[simp] theorem State.setNode_loadQ (s : State) (k : Nat) (x : NodeSt) : (s.setNode k x).loadQ = s.loadQ := rfl
@[simp] theorem State.setNode_progs (s : State) (k : Nat) (x : NodeSt) : (s.setNode k x).progs = s.progs := rfl
@[simp] theorem State.setNode_tasks (s : State) (k : Nat) (x : NodeSt) : (s.setNode k x).tasks = s.tasks := rfl
@[simp] theorem State.setNode_spareRegs (s : State) (k : Nat) (x : NodeSt) : (s.setNode k x).spareRegs = s.spareRegs := rfl
@[simp] theorem State.setNode_taking (s : State) (k : Nat) (x : NodeSt) : (s.setNode k x).taking = s.taking := rfl
@[simp] theorem State.setNode_taken (s : State) (k : Nat) (x : NodeSt) : (s.setNode k x).taken = s.taken := rfl
@[simp] theorem State.setNode_aseq (s : State) (k : Nat) (x : NodeSt) : (s.setNode k x).aseq = s.aseq := rfl
@[simp] theorem State.setNode_start (s : State) (k : Nat) (x : NodeSt) : (s.setNode k x).start = s.start := rfl
@[simp] theorem State.setNode_fuse (s : State) (k : Nat) (x : NodeSt) : (s.setNode k x).fuse = s.fuse := rfl
@[simp] theorem State.setNode_pwr (s : State) (k : Nat) (x : NodeSt) : (s.setNode k x).pwr = s.pwr := rfl
@[simp] theorem State.setNode_safe (s : State) (k : Nat) (x : NodeSt) : (s.setNode k x).safe = s.safe := rfl
@[simp] theorem State.setNode_hst (s : State) (k : Nat) (x : NodeSt) : (s.setNode k x).hst = s.hst := rfl
@[simp] theorem State.setNode_watch (s : State) (k : Nat) (x : NodeSt) : (s.setNode k x).watch = s.watch := rfl
@[simp] theorem State.setNode_rd (s : State) (k : Nat) (x : NodeSt) (k' : RKey) : (s.setNode k x).rd k' = s.rd k' := rfl
@[simp] theorem State.setNode_get (s : State) (k : Nat) (x : NodeSt) (f' : Field) (i' j' : Nat) : (s.setNode k x).get f' i' j' = s.get f' i' j' := rfl
@[simp] theorem State.setNode_core_read (s : State) (k : Nat) (x : NodeSt) (n' : Nat) : (s.setNode k x).core n' = s.core n' := rfl
@[simp] theorem State.setNode_vat_read (s : State) (k : Nat) (x : NodeSt) (n' : Nat) : (s.setNode k x).vat n' = s.vat n' := rfl
@[simp] theorem State.setNode_router_read (s : State) (k : Nat) (x : NodeSt) (n' : Nat) : (s.setNode k x).router n' = s.router n' := rfl
@[simp] theorem State.setNode_msu_read (s : State) (k : Nat) (x : NodeSt) (n' : Nat) : (s.setNode k x).msu n' = s.msu n' := rfl
@[simp] theorem State.setNode_hbmBank_read (s : State) (k : Nat) (x : NodeSt) (n' : Nat) : (s.setNode k x).hbmBank n' = s.hbmBank n' := rfl
@[simp] theorem State.setNode_readByte (s : State) (k : Nat) (x : NodeSt) (a' : Nat) : (s.setNode k x).readByte a' = s.readByte a' := rfl

/-! ### `State.send` -/

@[simp] theorem State.send_pending (s : State) (o : Out) : (s.send o).pending = s.pending := rfl
@[simp] theorem State.send_now (s : State) (o : Out) : (s.send o).now = s.now := rfl
@[simp] theorem State.send_free (s : State) (o : Out) : (s.send o).free = s.free := rfl
@[simp] theorem State.send_fusedCl (s : State) (o : Out) : (s.send o).fusedCl = s.fusedCl := rfl
@[simp] theorem State.send_regs (s : State) (o : Out) : (s.send o).regs = s.regs := rfl
@[simp] theorem State.send_bus (s : State) (o : Out) : (s.send o).bus = s.bus := rfl
@[simp] theorem State.send_latch (s : State) (o : Out) : (s.send o).latch = s.latch := rfl
@[simp] theorem State.send_tlatch (s : State) (o : Out) : (s.send o).tlatch = s.tlatch := rfl
@[simp] theorem State.send_mem (s : State) (o : Out) : (s.send o).mem = s.mem := rfl
@[simp] theorem State.send_cores (s : State) (o : Out) : (s.send o).cores = s.cores := rfl
@[simp] theorem State.send_vats (s : State) (o : Out) : (s.send o).vats = s.vats := rfl
@[simp] theorem State.send_routers (s : State) (o : Out) : (s.send o).routers = s.routers := rfl
@[simp] theorem State.send_stq (s : State) (o : Out) : (s.send o).stq = s.stq := rfl
@[simp] theorem State.send_deliv (s : State) (o : Out) : (s.send o).deliv = s.deliv := rfl
@[simp] theorem State.send_hbm (s : State) (o : Out) : (s.send o).hbm = s.hbm := rfl
@[simp] theorem State.send_msus (s : State) (o : Out) : (s.send o).msus = s.msus := rfl
@[simp] theorem State.send_nodes (s : State) (o : Out) : (s.send o).nodes = s.nodes := rfl
@[simp] theorem State.send_elog (s : State) (o : Out) : (s.send o).elog = s.elog := rfl
@[simp] theorem State.send_pers (s : State) (o : Out) : (s.send o).pers = s.pers := rfl
@[simp] theorem State.send_props (s : State) (o : Out) : (s.send o).props = s.props := rfl
@[simp] theorem State.send_rings (s : State) (o : Out) : (s.send o).rings = s.rings := rfl
@[simp] theorem State.send_events (s : State) (o : Out) : (s.send o).events = s.events := rfl
@[simp] theorem State.send_evLost (s : State) (o : Out) : (s.send o).evLost = s.evLost := rfl
@[simp] theorem State.send_tbVal (s : State) (o : Out) : (s.send o).tbVal = s.tbVal := rfl
@[simp] theorem State.send_tbAt (s : State) (o : Out) : (s.send o).tbAt = s.tbAt := rfl
@[simp] theorem State.send_romAt (s : State) (o : Out) : (s.send o).romAt = s.romAt := rfl
@[simp] theorem State.send_dieBase (s : State) (o : Out) : (s.send o).dieBase = s.dieBase := rfl
@[simp] theorem State.send_inj (s : State) (o : Out) : (s.send o).inj = s.inj := rfl
@[simp] theorem State.send_evNow (s : State) (o : Out) : (s.send o).evNow = s.evNow := rfl
@[simp] theorem State.send_started (s : State) (o : Out) : (s.send o).started = s.started := rfl
@[simp] theorem State.send_lockHub (s : State) (o : Out) : (s.send o).lockHub = s.lockHub := rfl
@[simp] theorem State.send_corr (s : State) (o : Out) : (s.send o).corr = s.corr := rfl
@[simp] theorem State.send_episode (s : State) (o : Out) : (s.send o).episode = s.episode := rfl
@[simp] theorem State.send_warmHold (s : State) (o : Out) : (s.send o).warmHold = s.warmHold := rfl
@[simp] theorem State.send_bad (s : State) (o : Out) : (s.send o).bad = s.bad := rfl
@[simp] theorem State.send_rchFault (s : State) (o : Out) : (s.send o).rchFault = s.rchFault := rfl
@[simp] theorem State.send_rchSig (s : State) (o : Out) : (s.send o).rchSig = s.rchSig := rfl
@[simp] theorem State.send_rchBack (s : State) (o : Out) : (s.send o).rchBack = s.rchBack := rfl
@[simp] theorem State.send_links (s : State) (o : Out) : (s.send o).links = s.links := rfl
@[simp] theorem State.send_hubTags (s : State) (o : Out) : (s.send o).hubTags = s.hubTags := rfl
@[simp] theorem State.send_busMaster (s : State) (o : Out) : (s.send o).busMaster = s.busMaster := rfl
@[simp] theorem State.send_laneRetry (s : State) (o : Out) : (s.send o).laneRetry = s.laneRetry := rfl
@[simp] theorem State.send_time (s : State) (o : Out) : (s.send o).time = s.time := rfl
@[simp] theorem State.send_loadQ (s : State) (o : Out) : (s.send o).loadQ = s.loadQ := rfl
@[simp] theorem State.send_progs (s : State) (o : Out) : (s.send o).progs = s.progs := rfl
@[simp] theorem State.send_tasks (s : State) (o : Out) : (s.send o).tasks = s.tasks := rfl
@[simp] theorem State.send_spareRegs (s : State) (o : Out) : (s.send o).spareRegs = s.spareRegs := rfl
@[simp] theorem State.send_taking (s : State) (o : Out) : (s.send o).taking = s.taking := rfl
@[simp] theorem State.send_taken (s : State) (o : Out) : (s.send o).taken = s.taken := rfl
@[simp] theorem State.send_aseq (s : State) (o : Out) : (s.send o).aseq = s.aseq := rfl
@[simp] theorem State.send_start (s : State) (o : Out) : (s.send o).start = s.start := rfl
@[simp] theorem State.send_fuse (s : State) (o : Out) : (s.send o).fuse = s.fuse := rfl
@[simp] theorem State.send_pwr (s : State) (o : Out) : (s.send o).pwr = s.pwr := rfl
@[simp] theorem State.send_safe (s : State) (o : Out) : (s.send o).safe = s.safe := rfl
@[simp] theorem State.send_hst (s : State) (o : Out) : (s.send o).hst = s.hst := rfl
@[simp] theorem State.send_watch (s : State) (o : Out) : (s.send o).watch = s.watch := rfl
@[simp] theorem State.send_rd (s : State) (o : Out) (k' : RKey) : (s.send o).rd k' = s.rd k' := rfl
@[simp] theorem State.send_get (s : State) (o : Out) (f' : Field) (i' j' : Nat) : (s.send o).get f' i' j' = s.get f' i' j' := rfl
@[simp] theorem State.send_core_read (s : State) (o : Out) (n' : Nat) : (s.send o).core n' = s.core n' := rfl
@[simp] theorem State.send_vat_read (s : State) (o : Out) (n' : Nat) : (s.send o).vat n' = s.vat n' := rfl
@[simp] theorem State.send_router_read (s : State) (o : Out) (n' : Nat) : (s.send o).router n' = s.router n' := rfl
@[simp] theorem State.send_msu_read (s : State) (o : Out) (n' : Nat) : (s.send o).msu n' = s.msu n' := rfl
@[simp] theorem State.send_hbmBank_read (s : State) (o : Out) (n' : Nat) : (s.send o).hbmBank n' = s.hbmBank n' := rfl
@[simp] theorem State.send_node_read (s : State) (o : Out) (n' : Nat) : (s.send o).node n' = s.node n' := rfl
@[simp] theorem State.send_readByte (s : State) (o : Out) (a' : Nat) : (s.send o).readByte a' = s.readByte a' := rfl

/-! ### `State.setNow` -/

@[simp] theorem State.setNow_pending (s : State) (t : Nat) : (s.setNow t).pending = s.pending := rfl
@[simp] theorem State.setNow_free (s : State) (t : Nat) : (s.setNow t).free = s.free := rfl
@[simp] theorem State.setNow_fusedCl (s : State) (t : Nat) : (s.setNow t).fusedCl = s.fusedCl := rfl
@[simp] theorem State.setNow_regs (s : State) (t : Nat) : (s.setNow t).regs = s.regs := rfl
@[simp] theorem State.setNow_bus (s : State) (t : Nat) : (s.setNow t).bus = s.bus := rfl
@[simp] theorem State.setNow_latch (s : State) (t : Nat) : (s.setNow t).latch = s.latch := rfl
@[simp] theorem State.setNow_tlatch (s : State) (t : Nat) : (s.setNow t).tlatch = s.tlatch := rfl
@[simp] theorem State.setNow_mem (s : State) (t : Nat) : (s.setNow t).mem = s.mem := rfl
@[simp] theorem State.setNow_cores (s : State) (t : Nat) : (s.setNow t).cores = s.cores := rfl
@[simp] theorem State.setNow_vats (s : State) (t : Nat) : (s.setNow t).vats = s.vats := rfl
@[simp] theorem State.setNow_routers (s : State) (t : Nat) : (s.setNow t).routers = s.routers := rfl
@[simp] theorem State.setNow_stq (s : State) (t : Nat) : (s.setNow t).stq = s.stq := rfl
@[simp] theorem State.setNow_deliv (s : State) (t : Nat) : (s.setNow t).deliv = s.deliv := rfl
@[simp] theorem State.setNow_hbm (s : State) (t : Nat) : (s.setNow t).hbm = s.hbm := rfl
@[simp] theorem State.setNow_msus (s : State) (t : Nat) : (s.setNow t).msus = s.msus := rfl
@[simp] theorem State.setNow_nodes (s : State) (t : Nat) : (s.setNow t).nodes = s.nodes := rfl
@[simp] theorem State.setNow_elog (s : State) (t : Nat) : (s.setNow t).elog = s.elog := rfl
@[simp] theorem State.setNow_pers (s : State) (t : Nat) : (s.setNow t).pers = s.pers := rfl
@[simp] theorem State.setNow_props (s : State) (t : Nat) : (s.setNow t).props = s.props := rfl
@[simp] theorem State.setNow_out (s : State) (t : Nat) : (s.setNow t).out = s.out := rfl
@[simp] theorem State.setNow_rings (s : State) (t : Nat) : (s.setNow t).rings = s.rings := rfl
@[simp] theorem State.setNow_events (s : State) (t : Nat) : (s.setNow t).events = s.events := rfl
@[simp] theorem State.setNow_evLost (s : State) (t : Nat) : (s.setNow t).evLost = s.evLost := rfl
@[simp] theorem State.setNow_tbVal (s : State) (t : Nat) : (s.setNow t).tbVal = s.tbVal := rfl
@[simp] theorem State.setNow_tbAt (s : State) (t : Nat) : (s.setNow t).tbAt = s.tbAt := rfl
@[simp] theorem State.setNow_romAt (s : State) (t : Nat) : (s.setNow t).romAt = s.romAt := rfl
@[simp] theorem State.setNow_dieBase (s : State) (t : Nat) : (s.setNow t).dieBase = s.dieBase := rfl
@[simp] theorem State.setNow_inj (s : State) (t : Nat) : (s.setNow t).inj = s.inj := rfl
@[simp] theorem State.setNow_started (s : State) (t : Nat) : (s.setNow t).started = s.started := rfl
@[simp] theorem State.setNow_lockHub (s : State) (t : Nat) : (s.setNow t).lockHub = s.lockHub := rfl
@[simp] theorem State.setNow_corr (s : State) (t : Nat) : (s.setNow t).corr = s.corr := rfl
@[simp] theorem State.setNow_episode (s : State) (t : Nat) : (s.setNow t).episode = s.episode := rfl
@[simp] theorem State.setNow_warmHold (s : State) (t : Nat) : (s.setNow t).warmHold = s.warmHold := rfl
@[simp] theorem State.setNow_bad (s : State) (t : Nat) : (s.setNow t).bad = s.bad := rfl
@[simp] theorem State.setNow_rchFault (s : State) (t : Nat) : (s.setNow t).rchFault = s.rchFault := rfl
@[simp] theorem State.setNow_rchSig (s : State) (t : Nat) : (s.setNow t).rchSig = s.rchSig := rfl
@[simp] theorem State.setNow_rchBack (s : State) (t : Nat) : (s.setNow t).rchBack = s.rchBack := rfl
@[simp] theorem State.setNow_links (s : State) (t : Nat) : (s.setNow t).links = s.links := rfl
@[simp] theorem State.setNow_hubTags (s : State) (t : Nat) : (s.setNow t).hubTags = s.hubTags := rfl
@[simp] theorem State.setNow_busMaster (s : State) (t : Nat) : (s.setNow t).busMaster = s.busMaster := rfl
@[simp] theorem State.setNow_laneRetry (s : State) (t : Nat) : (s.setNow t).laneRetry = s.laneRetry := rfl
@[simp] theorem State.setNow_time (s : State) (t : Nat) : (s.setNow t).time = s.time := rfl
@[simp] theorem State.setNow_loadQ (s : State) (t : Nat) : (s.setNow t).loadQ = s.loadQ := rfl
@[simp] theorem State.setNow_progs (s : State) (t : Nat) : (s.setNow t).progs = s.progs := rfl
@[simp] theorem State.setNow_tasks (s : State) (t : Nat) : (s.setNow t).tasks = s.tasks := rfl
@[simp] theorem State.setNow_spareRegs (s : State) (t : Nat) : (s.setNow t).spareRegs = s.spareRegs := rfl
@[simp] theorem State.setNow_taking (s : State) (t : Nat) : (s.setNow t).taking = s.taking := rfl
@[simp] theorem State.setNow_taken (s : State) (t : Nat) : (s.setNow t).taken = s.taken := rfl
@[simp] theorem State.setNow_aseq (s : State) (t : Nat) : (s.setNow t).aseq = s.aseq := rfl
@[simp] theorem State.setNow_start (s : State) (t : Nat) : (s.setNow t).start = s.start := rfl
@[simp] theorem State.setNow_fuse (s : State) (t : Nat) : (s.setNow t).fuse = s.fuse := rfl
@[simp] theorem State.setNow_pwr (s : State) (t : Nat) : (s.setNow t).pwr = s.pwr := rfl
@[simp] theorem State.setNow_safe (s : State) (t : Nat) : (s.setNow t).safe = s.safe := rfl
@[simp] theorem State.setNow_hst (s : State) (t : Nat) : (s.setNow t).hst = s.hst := rfl
@[simp] theorem State.setNow_watch (s : State) (t : Nat) : (s.setNow t).watch = s.watch := rfl
@[simp] theorem State.setNow_rd (s : State) (t : Nat) (k' : RKey) : (s.setNow t).rd k' = s.rd k' := rfl
@[simp] theorem State.setNow_get (s : State) (t : Nat) (f' : Field) (i' j' : Nat) : (s.setNow t).get f' i' j' = s.get f' i' j' := rfl
@[simp] theorem State.setNow_core_read (s : State) (t : Nat) (n' : Nat) : (s.setNow t).core n' = s.core n' := rfl
@[simp] theorem State.setNow_vat_read (s : State) (t : Nat) (n' : Nat) : (s.setNow t).vat n' = s.vat n' := rfl
@[simp] theorem State.setNow_router_read (s : State) (t : Nat) (n' : Nat) : (s.setNow t).router n' = s.router n' := rfl
@[simp] theorem State.setNow_msu_read (s : State) (t : Nat) (n' : Nat) : (s.setNow t).msu n' = s.msu n' := rfl
@[simp] theorem State.setNow_hbmBank_read (s : State) (t : Nat) (n' : Nat) : (s.setNow t).hbmBank n' = s.hbmBank n' := rfl
@[simp] theorem State.setNow_node_read (s : State) (t : Nat) (n' : Nat) : (s.setNow t).node n' = s.node n' := rfl
@[simp] theorem State.setNow_readByte (s : State) (t : Nat) (a' : Nat) : (s.setNow t).readByte a' = s.readByte a' := rfl

/-! ### `State.modHst` -/

@[simp] theorem State.modHst_pending (s : State) (g : HostSt → HostSt) : (s.modHst g).pending = s.pending := rfl
@[simp] theorem State.modHst_now (s : State) (g : HostSt → HostSt) : (s.modHst g).now = s.now := rfl
@[simp] theorem State.modHst_free (s : State) (g : HostSt → HostSt) : (s.modHst g).free = s.free := rfl
@[simp] theorem State.modHst_fusedCl (s : State) (g : HostSt → HostSt) : (s.modHst g).fusedCl = s.fusedCl := rfl
@[simp] theorem State.modHst_regs (s : State) (g : HostSt → HostSt) : (s.modHst g).regs = s.regs := rfl
@[simp] theorem State.modHst_bus (s : State) (g : HostSt → HostSt) : (s.modHst g).bus = s.bus := rfl
@[simp] theorem State.modHst_latch (s : State) (g : HostSt → HostSt) : (s.modHst g).latch = s.latch := rfl
@[simp] theorem State.modHst_tlatch (s : State) (g : HostSt → HostSt) : (s.modHst g).tlatch = s.tlatch := rfl
@[simp] theorem State.modHst_mem (s : State) (g : HostSt → HostSt) : (s.modHst g).mem = s.mem := rfl
@[simp] theorem State.modHst_cores (s : State) (g : HostSt → HostSt) : (s.modHst g).cores = s.cores := rfl
@[simp] theorem State.modHst_vats (s : State) (g : HostSt → HostSt) : (s.modHst g).vats = s.vats := rfl
@[simp] theorem State.modHst_routers (s : State) (g : HostSt → HostSt) : (s.modHst g).routers = s.routers := rfl
@[simp] theorem State.modHst_stq (s : State) (g : HostSt → HostSt) : (s.modHst g).stq = s.stq := rfl
@[simp] theorem State.modHst_deliv (s : State) (g : HostSt → HostSt) : (s.modHst g).deliv = s.deliv := rfl
@[simp] theorem State.modHst_hbm (s : State) (g : HostSt → HostSt) : (s.modHst g).hbm = s.hbm := rfl
@[simp] theorem State.modHst_msus (s : State) (g : HostSt → HostSt) : (s.modHst g).msus = s.msus := rfl
@[simp] theorem State.modHst_nodes (s : State) (g : HostSt → HostSt) : (s.modHst g).nodes = s.nodes := rfl
@[simp] theorem State.modHst_elog (s : State) (g : HostSt → HostSt) : (s.modHst g).elog = s.elog := rfl
@[simp] theorem State.modHst_pers (s : State) (g : HostSt → HostSt) : (s.modHst g).pers = s.pers := rfl
@[simp] theorem State.modHst_props (s : State) (g : HostSt → HostSt) : (s.modHst g).props = s.props := rfl
@[simp] theorem State.modHst_out (s : State) (g : HostSt → HostSt) : (s.modHst g).out = s.out := rfl
@[simp] theorem State.modHst_rings (s : State) (g : HostSt → HostSt) : (s.modHst g).rings = s.rings := rfl
@[simp] theorem State.modHst_events (s : State) (g : HostSt → HostSt) : (s.modHst g).events = s.events := rfl
@[simp] theorem State.modHst_evLost (s : State) (g : HostSt → HostSt) : (s.modHst g).evLost = s.evLost := rfl
@[simp] theorem State.modHst_tbVal (s : State) (g : HostSt → HostSt) : (s.modHst g).tbVal = s.tbVal := rfl
@[simp] theorem State.modHst_tbAt (s : State) (g : HostSt → HostSt) : (s.modHst g).tbAt = s.tbAt := rfl
@[simp] theorem State.modHst_romAt (s : State) (g : HostSt → HostSt) : (s.modHst g).romAt = s.romAt := rfl
@[simp] theorem State.modHst_dieBase (s : State) (g : HostSt → HostSt) : (s.modHst g).dieBase = s.dieBase := rfl
@[simp] theorem State.modHst_inj (s : State) (g : HostSt → HostSt) : (s.modHst g).inj = s.inj := rfl
@[simp] theorem State.modHst_evNow (s : State) (g : HostSt → HostSt) : (s.modHst g).evNow = s.evNow := rfl
@[simp] theorem State.modHst_started (s : State) (g : HostSt → HostSt) : (s.modHst g).started = s.started := rfl
@[simp] theorem State.modHst_lockHub (s : State) (g : HostSt → HostSt) : (s.modHst g).lockHub = s.lockHub := rfl
@[simp] theorem State.modHst_corr (s : State) (g : HostSt → HostSt) : (s.modHst g).corr = s.corr := rfl
@[simp] theorem State.modHst_episode (s : State) (g : HostSt → HostSt) : (s.modHst g).episode = s.episode := rfl
@[simp] theorem State.modHst_warmHold (s : State) (g : HostSt → HostSt) : (s.modHst g).warmHold = s.warmHold := rfl
@[simp] theorem State.modHst_bad (s : State) (g : HostSt → HostSt) : (s.modHst g).bad = s.bad := rfl
@[simp] theorem State.modHst_rchFault (s : State) (g : HostSt → HostSt) : (s.modHst g).rchFault = s.rchFault := rfl
@[simp] theorem State.modHst_rchSig (s : State) (g : HostSt → HostSt) : (s.modHst g).rchSig = s.rchSig := rfl
@[simp] theorem State.modHst_rchBack (s : State) (g : HostSt → HostSt) : (s.modHst g).rchBack = s.rchBack := rfl
@[simp] theorem State.modHst_links (s : State) (g : HostSt → HostSt) : (s.modHst g).links = s.links := rfl
@[simp] theorem State.modHst_hubTags (s : State) (g : HostSt → HostSt) : (s.modHst g).hubTags = s.hubTags := rfl
@[simp] theorem State.modHst_busMaster (s : State) (g : HostSt → HostSt) : (s.modHst g).busMaster = s.busMaster := rfl
@[simp] theorem State.modHst_laneRetry (s : State) (g : HostSt → HostSt) : (s.modHst g).laneRetry = s.laneRetry := rfl
@[simp] theorem State.modHst_time (s : State) (g : HostSt → HostSt) : (s.modHst g).time = s.time := rfl
@[simp] theorem State.modHst_loadQ (s : State) (g : HostSt → HostSt) : (s.modHst g).loadQ = s.loadQ := rfl
@[simp] theorem State.modHst_progs (s : State) (g : HostSt → HostSt) : (s.modHst g).progs = s.progs := rfl
@[simp] theorem State.modHst_tasks (s : State) (g : HostSt → HostSt) : (s.modHst g).tasks = s.tasks := rfl
@[simp] theorem State.modHst_spareRegs (s : State) (g : HostSt → HostSt) : (s.modHst g).spareRegs = s.spareRegs := rfl
@[simp] theorem State.modHst_taking (s : State) (g : HostSt → HostSt) : (s.modHst g).taking = s.taking := rfl
@[simp] theorem State.modHst_taken (s : State) (g : HostSt → HostSt) : (s.modHst g).taken = s.taken := rfl
@[simp] theorem State.modHst_aseq (s : State) (g : HostSt → HostSt) : (s.modHst g).aseq = s.aseq := rfl
@[simp] theorem State.modHst_start (s : State) (g : HostSt → HostSt) : (s.modHst g).start = s.start := rfl
@[simp] theorem State.modHst_fuse (s : State) (g : HostSt → HostSt) : (s.modHst g).fuse = s.fuse := rfl
@[simp] theorem State.modHst_pwr (s : State) (g : HostSt → HostSt) : (s.modHst g).pwr = s.pwr := rfl
@[simp] theorem State.modHst_safe (s : State) (g : HostSt → HostSt) : (s.modHst g).safe = s.safe := rfl
@[simp] theorem State.modHst_watch (s : State) (g : HostSt → HostSt) : (s.modHst g).watch = s.watch := rfl
@[simp] theorem State.modHst_rd (s : State) (g : HostSt → HostSt) (k' : RKey) : (s.modHst g).rd k' = s.rd k' := rfl
@[simp] theorem State.modHst_get (s : State) (g : HostSt → HostSt) (f' : Field) (i' j' : Nat) : (s.modHst g).get f' i' j' = s.get f' i' j' := rfl
@[simp] theorem State.modHst_core_read (s : State) (g : HostSt → HostSt) (n' : Nat) : (s.modHst g).core n' = s.core n' := rfl
@[simp] theorem State.modHst_vat_read (s : State) (g : HostSt → HostSt) (n' : Nat) : (s.modHst g).vat n' = s.vat n' := rfl
@[simp] theorem State.modHst_router_read (s : State) (g : HostSt → HostSt) (n' : Nat) : (s.modHst g).router n' = s.router n' := rfl
@[simp] theorem State.modHst_msu_read (s : State) (g : HostSt → HostSt) (n' : Nat) : (s.modHst g).msu n' = s.msu n' := rfl
@[simp] theorem State.modHst_hbmBank_read (s : State) (g : HostSt → HostSt) (n' : Nat) : (s.modHst g).hbmBank n' = s.hbmBank n' := rfl
@[simp] theorem State.modHst_node_read (s : State) (g : HostSt → HostSt) (n' : Nat) : (s.modHst g).node n' = s.node n' := rfl
@[simp] theorem State.modHst_readByte (s : State) (g : HostSt → HostSt) (a' : Nat) : (s.modHst g).readByte a' = s.readByte a' := rfl

/-! ### `State.modPwr` -/

@[simp] theorem State.modPwr_pending (s : State) (g : PwrSt → PwrSt) : (s.modPwr g).pending = s.pending := rfl
@[simp] theorem State.modPwr_now (s : State) (g : PwrSt → PwrSt) : (s.modPwr g).now = s.now := rfl
@[simp] theorem State.modPwr_free (s : State) (g : PwrSt → PwrSt) : (s.modPwr g).free = s.free := rfl
@[simp] theorem State.modPwr_fusedCl (s : State) (g : PwrSt → PwrSt) : (s.modPwr g).fusedCl = s.fusedCl := rfl
@[simp] theorem State.modPwr_regs (s : State) (g : PwrSt → PwrSt) : (s.modPwr g).regs = s.regs := rfl
@[simp] theorem State.modPwr_bus (s : State) (g : PwrSt → PwrSt) : (s.modPwr g).bus = s.bus := rfl
@[simp] theorem State.modPwr_latch (s : State) (g : PwrSt → PwrSt) : (s.modPwr g).latch = s.latch := rfl
@[simp] theorem State.modPwr_tlatch (s : State) (g : PwrSt → PwrSt) : (s.modPwr g).tlatch = s.tlatch := rfl
@[simp] theorem State.modPwr_mem (s : State) (g : PwrSt → PwrSt) : (s.modPwr g).mem = s.mem := rfl
@[simp] theorem State.modPwr_cores (s : State) (g : PwrSt → PwrSt) : (s.modPwr g).cores = s.cores := rfl
@[simp] theorem State.modPwr_vats (s : State) (g : PwrSt → PwrSt) : (s.modPwr g).vats = s.vats := rfl
@[simp] theorem State.modPwr_routers (s : State) (g : PwrSt → PwrSt) : (s.modPwr g).routers = s.routers := rfl
@[simp] theorem State.modPwr_stq (s : State) (g : PwrSt → PwrSt) : (s.modPwr g).stq = s.stq := rfl
@[simp] theorem State.modPwr_deliv (s : State) (g : PwrSt → PwrSt) : (s.modPwr g).deliv = s.deliv := rfl
@[simp] theorem State.modPwr_hbm (s : State) (g : PwrSt → PwrSt) : (s.modPwr g).hbm = s.hbm := rfl
@[simp] theorem State.modPwr_msus (s : State) (g : PwrSt → PwrSt) : (s.modPwr g).msus = s.msus := rfl
@[simp] theorem State.modPwr_nodes (s : State) (g : PwrSt → PwrSt) : (s.modPwr g).nodes = s.nodes := rfl
@[simp] theorem State.modPwr_elog (s : State) (g : PwrSt → PwrSt) : (s.modPwr g).elog = s.elog := rfl
@[simp] theorem State.modPwr_pers (s : State) (g : PwrSt → PwrSt) : (s.modPwr g).pers = s.pers := rfl
@[simp] theorem State.modPwr_props (s : State) (g : PwrSt → PwrSt) : (s.modPwr g).props = s.props := rfl
@[simp] theorem State.modPwr_out (s : State) (g : PwrSt → PwrSt) : (s.modPwr g).out = s.out := rfl
@[simp] theorem State.modPwr_rings (s : State) (g : PwrSt → PwrSt) : (s.modPwr g).rings = s.rings := rfl
@[simp] theorem State.modPwr_events (s : State) (g : PwrSt → PwrSt) : (s.modPwr g).events = s.events := rfl
@[simp] theorem State.modPwr_evLost (s : State) (g : PwrSt → PwrSt) : (s.modPwr g).evLost = s.evLost := rfl
@[simp] theorem State.modPwr_tbVal (s : State) (g : PwrSt → PwrSt) : (s.modPwr g).tbVal = s.tbVal := rfl
@[simp] theorem State.modPwr_tbAt (s : State) (g : PwrSt → PwrSt) : (s.modPwr g).tbAt = s.tbAt := rfl
@[simp] theorem State.modPwr_romAt (s : State) (g : PwrSt → PwrSt) : (s.modPwr g).romAt = s.romAt := rfl
@[simp] theorem State.modPwr_dieBase (s : State) (g : PwrSt → PwrSt) : (s.modPwr g).dieBase = s.dieBase := rfl
@[simp] theorem State.modPwr_inj (s : State) (g : PwrSt → PwrSt) : (s.modPwr g).inj = s.inj := rfl
@[simp] theorem State.modPwr_evNow (s : State) (g : PwrSt → PwrSt) : (s.modPwr g).evNow = s.evNow := rfl
@[simp] theorem State.modPwr_started (s : State) (g : PwrSt → PwrSt) : (s.modPwr g).started = s.started := rfl
@[simp] theorem State.modPwr_lockHub (s : State) (g : PwrSt → PwrSt) : (s.modPwr g).lockHub = s.lockHub := rfl
@[simp] theorem State.modPwr_corr (s : State) (g : PwrSt → PwrSt) : (s.modPwr g).corr = s.corr := rfl
@[simp] theorem State.modPwr_episode (s : State) (g : PwrSt → PwrSt) : (s.modPwr g).episode = s.episode := rfl
@[simp] theorem State.modPwr_warmHold (s : State) (g : PwrSt → PwrSt) : (s.modPwr g).warmHold = s.warmHold := rfl
@[simp] theorem State.modPwr_bad (s : State) (g : PwrSt → PwrSt) : (s.modPwr g).bad = s.bad := rfl
@[simp] theorem State.modPwr_rchFault (s : State) (g : PwrSt → PwrSt) : (s.modPwr g).rchFault = s.rchFault := rfl
@[simp] theorem State.modPwr_rchSig (s : State) (g : PwrSt → PwrSt) : (s.modPwr g).rchSig = s.rchSig := rfl
@[simp] theorem State.modPwr_rchBack (s : State) (g : PwrSt → PwrSt) : (s.modPwr g).rchBack = s.rchBack := rfl
@[simp] theorem State.modPwr_links (s : State) (g : PwrSt → PwrSt) : (s.modPwr g).links = s.links := rfl
@[simp] theorem State.modPwr_hubTags (s : State) (g : PwrSt → PwrSt) : (s.modPwr g).hubTags = s.hubTags := rfl
@[simp] theorem State.modPwr_busMaster (s : State) (g : PwrSt → PwrSt) : (s.modPwr g).busMaster = s.busMaster := rfl
@[simp] theorem State.modPwr_laneRetry (s : State) (g : PwrSt → PwrSt) : (s.modPwr g).laneRetry = s.laneRetry := rfl
@[simp] theorem State.modPwr_time (s : State) (g : PwrSt → PwrSt) : (s.modPwr g).time = s.time := rfl
@[simp] theorem State.modPwr_loadQ (s : State) (g : PwrSt → PwrSt) : (s.modPwr g).loadQ = s.loadQ := rfl
@[simp] theorem State.modPwr_progs (s : State) (g : PwrSt → PwrSt) : (s.modPwr g).progs = s.progs := rfl
@[simp] theorem State.modPwr_tasks (s : State) (g : PwrSt → PwrSt) : (s.modPwr g).tasks = s.tasks := rfl
@[simp] theorem State.modPwr_spareRegs (s : State) (g : PwrSt → PwrSt) : (s.modPwr g).spareRegs = s.spareRegs := rfl
@[simp] theorem State.modPwr_taking (s : State) (g : PwrSt → PwrSt) : (s.modPwr g).taking = s.taking := rfl
@[simp] theorem State.modPwr_taken (s : State) (g : PwrSt → PwrSt) : (s.modPwr g).taken = s.taken := rfl
@[simp] theorem State.modPwr_aseq (s : State) (g : PwrSt → PwrSt) : (s.modPwr g).aseq = s.aseq := rfl
@[simp] theorem State.modPwr_start (s : State) (g : PwrSt → PwrSt) : (s.modPwr g).start = s.start := rfl
@[simp] theorem State.modPwr_fuse (s : State) (g : PwrSt → PwrSt) : (s.modPwr g).fuse = s.fuse := rfl
@[simp] theorem State.modPwr_safe (s : State) (g : PwrSt → PwrSt) : (s.modPwr g).safe = s.safe := rfl
@[simp] theorem State.modPwr_hst (s : State) (g : PwrSt → PwrSt) : (s.modPwr g).hst = s.hst := rfl
@[simp] theorem State.modPwr_watch (s : State) (g : PwrSt → PwrSt) : (s.modPwr g).watch = s.watch := rfl
@[simp] theorem State.modPwr_rd (s : State) (g : PwrSt → PwrSt) (k' : RKey) : (s.modPwr g).rd k' = s.rd k' := rfl
@[simp] theorem State.modPwr_get (s : State) (g : PwrSt → PwrSt) (f' : Field) (i' j' : Nat) : (s.modPwr g).get f' i' j' = s.get f' i' j' := rfl
@[simp] theorem State.modPwr_core_read (s : State) (g : PwrSt → PwrSt) (n' : Nat) : (s.modPwr g).core n' = s.core n' := rfl
@[simp] theorem State.modPwr_vat_read (s : State) (g : PwrSt → PwrSt) (n' : Nat) : (s.modPwr g).vat n' = s.vat n' := rfl
@[simp] theorem State.modPwr_router_read (s : State) (g : PwrSt → PwrSt) (n' : Nat) : (s.modPwr g).router n' = s.router n' := rfl
@[simp] theorem State.modPwr_msu_read (s : State) (g : PwrSt → PwrSt) (n' : Nat) : (s.modPwr g).msu n' = s.msu n' := rfl
@[simp] theorem State.modPwr_hbmBank_read (s : State) (g : PwrSt → PwrSt) (n' : Nat) : (s.modPwr g).hbmBank n' = s.hbmBank n' := rfl
@[simp] theorem State.modPwr_node_read (s : State) (g : PwrSt → PwrSt) (n' : Nat) : (s.modPwr g).node n' = s.node n' := rfl
@[simp] theorem State.modPwr_readByte (s : State) (g : PwrSt → PwrSt) (a' : Nat) : (s.modPwr g).readByte a' = s.readByte a' := rfl

/-! ### `State.modTime` -/

@[simp] theorem State.modTime_pending (s : State) (g : TimeSt → TimeSt) : (s.modTime g).pending = s.pending := rfl
@[simp] theorem State.modTime_now (s : State) (g : TimeSt → TimeSt) : (s.modTime g).now = s.now := rfl
@[simp] theorem State.modTime_free (s : State) (g : TimeSt → TimeSt) : (s.modTime g).free = s.free := rfl
@[simp] theorem State.modTime_fusedCl (s : State) (g : TimeSt → TimeSt) : (s.modTime g).fusedCl = s.fusedCl := rfl
@[simp] theorem State.modTime_regs (s : State) (g : TimeSt → TimeSt) : (s.modTime g).regs = s.regs := rfl
@[simp] theorem State.modTime_bus (s : State) (g : TimeSt → TimeSt) : (s.modTime g).bus = s.bus := rfl
@[simp] theorem State.modTime_latch (s : State) (g : TimeSt → TimeSt) : (s.modTime g).latch = s.latch := rfl
@[simp] theorem State.modTime_tlatch (s : State) (g : TimeSt → TimeSt) : (s.modTime g).tlatch = s.tlatch := rfl
@[simp] theorem State.modTime_mem (s : State) (g : TimeSt → TimeSt) : (s.modTime g).mem = s.mem := rfl
@[simp] theorem State.modTime_cores (s : State) (g : TimeSt → TimeSt) : (s.modTime g).cores = s.cores := rfl
@[simp] theorem State.modTime_vats (s : State) (g : TimeSt → TimeSt) : (s.modTime g).vats = s.vats := rfl
@[simp] theorem State.modTime_routers (s : State) (g : TimeSt → TimeSt) : (s.modTime g).routers = s.routers := rfl
@[simp] theorem State.modTime_stq (s : State) (g : TimeSt → TimeSt) : (s.modTime g).stq = s.stq := rfl
@[simp] theorem State.modTime_deliv (s : State) (g : TimeSt → TimeSt) : (s.modTime g).deliv = s.deliv := rfl
@[simp] theorem State.modTime_hbm (s : State) (g : TimeSt → TimeSt) : (s.modTime g).hbm = s.hbm := rfl
@[simp] theorem State.modTime_msus (s : State) (g : TimeSt → TimeSt) : (s.modTime g).msus = s.msus := rfl
@[simp] theorem State.modTime_nodes (s : State) (g : TimeSt → TimeSt) : (s.modTime g).nodes = s.nodes := rfl
@[simp] theorem State.modTime_elog (s : State) (g : TimeSt → TimeSt) : (s.modTime g).elog = s.elog := rfl
@[simp] theorem State.modTime_pers (s : State) (g : TimeSt → TimeSt) : (s.modTime g).pers = s.pers := rfl
@[simp] theorem State.modTime_props (s : State) (g : TimeSt → TimeSt) : (s.modTime g).props = s.props := rfl
@[simp] theorem State.modTime_out (s : State) (g : TimeSt → TimeSt) : (s.modTime g).out = s.out := rfl
@[simp] theorem State.modTime_rings (s : State) (g : TimeSt → TimeSt) : (s.modTime g).rings = s.rings := rfl
@[simp] theorem State.modTime_events (s : State) (g : TimeSt → TimeSt) : (s.modTime g).events = s.events := rfl
@[simp] theorem State.modTime_evLost (s : State) (g : TimeSt → TimeSt) : (s.modTime g).evLost = s.evLost := rfl
@[simp] theorem State.modTime_tbVal (s : State) (g : TimeSt → TimeSt) : (s.modTime g).tbVal = s.tbVal := rfl
@[simp] theorem State.modTime_tbAt (s : State) (g : TimeSt → TimeSt) : (s.modTime g).tbAt = s.tbAt := rfl
@[simp] theorem State.modTime_romAt (s : State) (g : TimeSt → TimeSt) : (s.modTime g).romAt = s.romAt := rfl
@[simp] theorem State.modTime_dieBase (s : State) (g : TimeSt → TimeSt) : (s.modTime g).dieBase = s.dieBase := rfl
@[simp] theorem State.modTime_inj (s : State) (g : TimeSt → TimeSt) : (s.modTime g).inj = s.inj := rfl
@[simp] theorem State.modTime_evNow (s : State) (g : TimeSt → TimeSt) : (s.modTime g).evNow = s.evNow := rfl
@[simp] theorem State.modTime_started (s : State) (g : TimeSt → TimeSt) : (s.modTime g).started = s.started := rfl
@[simp] theorem State.modTime_lockHub (s : State) (g : TimeSt → TimeSt) : (s.modTime g).lockHub = s.lockHub := rfl
@[simp] theorem State.modTime_corr (s : State) (g : TimeSt → TimeSt) : (s.modTime g).corr = s.corr := rfl
@[simp] theorem State.modTime_episode (s : State) (g : TimeSt → TimeSt) : (s.modTime g).episode = s.episode := rfl
@[simp] theorem State.modTime_warmHold (s : State) (g : TimeSt → TimeSt) : (s.modTime g).warmHold = s.warmHold := rfl
@[simp] theorem State.modTime_bad (s : State) (g : TimeSt → TimeSt) : (s.modTime g).bad = s.bad := rfl
@[simp] theorem State.modTime_rchFault (s : State) (g : TimeSt → TimeSt) : (s.modTime g).rchFault = s.rchFault := rfl
@[simp] theorem State.modTime_rchSig (s : State) (g : TimeSt → TimeSt) : (s.modTime g).rchSig = s.rchSig := rfl
@[simp] theorem State.modTime_rchBack (s : State) (g : TimeSt → TimeSt) : (s.modTime g).rchBack = s.rchBack := rfl
@[simp] theorem State.modTime_links (s : State) (g : TimeSt → TimeSt) : (s.modTime g).links = s.links := rfl
@[simp] theorem State.modTime_hubTags (s : State) (g : TimeSt → TimeSt) : (s.modTime g).hubTags = s.hubTags := rfl
@[simp] theorem State.modTime_busMaster (s : State) (g : TimeSt → TimeSt) : (s.modTime g).busMaster = s.busMaster := rfl
@[simp] theorem State.modTime_laneRetry (s : State) (g : TimeSt → TimeSt) : (s.modTime g).laneRetry = s.laneRetry := rfl
@[simp] theorem State.modTime_loadQ (s : State) (g : TimeSt → TimeSt) : (s.modTime g).loadQ = s.loadQ := rfl
@[simp] theorem State.modTime_progs (s : State) (g : TimeSt → TimeSt) : (s.modTime g).progs = s.progs := rfl
@[simp] theorem State.modTime_tasks (s : State) (g : TimeSt → TimeSt) : (s.modTime g).tasks = s.tasks := rfl
@[simp] theorem State.modTime_spareRegs (s : State) (g : TimeSt → TimeSt) : (s.modTime g).spareRegs = s.spareRegs := rfl
@[simp] theorem State.modTime_taking (s : State) (g : TimeSt → TimeSt) : (s.modTime g).taking = s.taking := rfl
@[simp] theorem State.modTime_taken (s : State) (g : TimeSt → TimeSt) : (s.modTime g).taken = s.taken := rfl
@[simp] theorem State.modTime_aseq (s : State) (g : TimeSt → TimeSt) : (s.modTime g).aseq = s.aseq := rfl
@[simp] theorem State.modTime_start (s : State) (g : TimeSt → TimeSt) : (s.modTime g).start = s.start := rfl
@[simp] theorem State.modTime_fuse (s : State) (g : TimeSt → TimeSt) : (s.modTime g).fuse = s.fuse := rfl
@[simp] theorem State.modTime_pwr (s : State) (g : TimeSt → TimeSt) : (s.modTime g).pwr = s.pwr := rfl
@[simp] theorem State.modTime_safe (s : State) (g : TimeSt → TimeSt) : (s.modTime g).safe = s.safe := rfl
@[simp] theorem State.modTime_hst (s : State) (g : TimeSt → TimeSt) : (s.modTime g).hst = s.hst := rfl
@[simp] theorem State.modTime_watch (s : State) (g : TimeSt → TimeSt) : (s.modTime g).watch = s.watch := rfl
@[simp] theorem State.modTime_rd (s : State) (g : TimeSt → TimeSt) (k' : RKey) : (s.modTime g).rd k' = s.rd k' := rfl
@[simp] theorem State.modTime_get (s : State) (g : TimeSt → TimeSt) (f' : Field) (i' j' : Nat) : (s.modTime g).get f' i' j' = s.get f' i' j' := rfl
@[simp] theorem State.modTime_core_read (s : State) (g : TimeSt → TimeSt) (n' : Nat) : (s.modTime g).core n' = s.core n' := rfl
@[simp] theorem State.modTime_vat_read (s : State) (g : TimeSt → TimeSt) (n' : Nat) : (s.modTime g).vat n' = s.vat n' := rfl
@[simp] theorem State.modTime_router_read (s : State) (g : TimeSt → TimeSt) (n' : Nat) : (s.modTime g).router n' = s.router n' := rfl
@[simp] theorem State.modTime_msu_read (s : State) (g : TimeSt → TimeSt) (n' : Nat) : (s.modTime g).msu n' = s.msu n' := rfl
@[simp] theorem State.modTime_hbmBank_read (s : State) (g : TimeSt → TimeSt) (n' : Nat) : (s.modTime g).hbmBank n' = s.hbmBank n' := rfl
@[simp] theorem State.modTime_node_read (s : State) (g : TimeSt → TimeSt) (n' : Nat) : (s.modTime g).node n' = s.node n' := rfl
@[simp] theorem State.modTime_readByte (s : State) (g : TimeSt → TimeSt) (a' : Nat) : (s.modTime g).readByte a' = s.readByte a' := rfl

/-! ### `State.modWatch` -/

@[simp] theorem State.modWatch_pending (s : State) (g : WatchSt → WatchSt) : (s.modWatch g).pending = s.pending := rfl
@[simp] theorem State.modWatch_now (s : State) (g : WatchSt → WatchSt) : (s.modWatch g).now = s.now := rfl
@[simp] theorem State.modWatch_free (s : State) (g : WatchSt → WatchSt) : (s.modWatch g).free = s.free := rfl
@[simp] theorem State.modWatch_fusedCl (s : State) (g : WatchSt → WatchSt) : (s.modWatch g).fusedCl = s.fusedCl := rfl
@[simp] theorem State.modWatch_regs (s : State) (g : WatchSt → WatchSt) : (s.modWatch g).regs = s.regs := rfl
@[simp] theorem State.modWatch_bus (s : State) (g : WatchSt → WatchSt) : (s.modWatch g).bus = s.bus := rfl
@[simp] theorem State.modWatch_latch (s : State) (g : WatchSt → WatchSt) : (s.modWatch g).latch = s.latch := rfl
@[simp] theorem State.modWatch_tlatch (s : State) (g : WatchSt → WatchSt) : (s.modWatch g).tlatch = s.tlatch := rfl
@[simp] theorem State.modWatch_mem (s : State) (g : WatchSt → WatchSt) : (s.modWatch g).mem = s.mem := rfl
@[simp] theorem State.modWatch_cores (s : State) (g : WatchSt → WatchSt) : (s.modWatch g).cores = s.cores := rfl
@[simp] theorem State.modWatch_vats (s : State) (g : WatchSt → WatchSt) : (s.modWatch g).vats = s.vats := rfl
@[simp] theorem State.modWatch_routers (s : State) (g : WatchSt → WatchSt) : (s.modWatch g).routers = s.routers := rfl
@[simp] theorem State.modWatch_stq (s : State) (g : WatchSt → WatchSt) : (s.modWatch g).stq = s.stq := rfl
@[simp] theorem State.modWatch_deliv (s : State) (g : WatchSt → WatchSt) : (s.modWatch g).deliv = s.deliv := rfl
@[simp] theorem State.modWatch_hbm (s : State) (g : WatchSt → WatchSt) : (s.modWatch g).hbm = s.hbm := rfl
@[simp] theorem State.modWatch_msus (s : State) (g : WatchSt → WatchSt) : (s.modWatch g).msus = s.msus := rfl
@[simp] theorem State.modWatch_nodes (s : State) (g : WatchSt → WatchSt) : (s.modWatch g).nodes = s.nodes := rfl
@[simp] theorem State.modWatch_elog (s : State) (g : WatchSt → WatchSt) : (s.modWatch g).elog = s.elog := rfl
@[simp] theorem State.modWatch_pers (s : State) (g : WatchSt → WatchSt) : (s.modWatch g).pers = s.pers := rfl
@[simp] theorem State.modWatch_props (s : State) (g : WatchSt → WatchSt) : (s.modWatch g).props = s.props := rfl
@[simp] theorem State.modWatch_out (s : State) (g : WatchSt → WatchSt) : (s.modWatch g).out = s.out := rfl
@[simp] theorem State.modWatch_rings (s : State) (g : WatchSt → WatchSt) : (s.modWatch g).rings = s.rings := rfl
@[simp] theorem State.modWatch_events (s : State) (g : WatchSt → WatchSt) : (s.modWatch g).events = s.events := rfl
@[simp] theorem State.modWatch_evLost (s : State) (g : WatchSt → WatchSt) : (s.modWatch g).evLost = s.evLost := rfl
@[simp] theorem State.modWatch_tbVal (s : State) (g : WatchSt → WatchSt) : (s.modWatch g).tbVal = s.tbVal := rfl
@[simp] theorem State.modWatch_tbAt (s : State) (g : WatchSt → WatchSt) : (s.modWatch g).tbAt = s.tbAt := rfl
@[simp] theorem State.modWatch_romAt (s : State) (g : WatchSt → WatchSt) : (s.modWatch g).romAt = s.romAt := rfl
@[simp] theorem State.modWatch_dieBase (s : State) (g : WatchSt → WatchSt) : (s.modWatch g).dieBase = s.dieBase := rfl
@[simp] theorem State.modWatch_inj (s : State) (g : WatchSt → WatchSt) : (s.modWatch g).inj = s.inj := rfl
@[simp] theorem State.modWatch_evNow (s : State) (g : WatchSt → WatchSt) : (s.modWatch g).evNow = s.evNow := rfl
@[simp] theorem State.modWatch_started (s : State) (g : WatchSt → WatchSt) : (s.modWatch g).started = s.started := rfl
@[simp] theorem State.modWatch_lockHub (s : State) (g : WatchSt → WatchSt) : (s.modWatch g).lockHub = s.lockHub := rfl
@[simp] theorem State.modWatch_corr (s : State) (g : WatchSt → WatchSt) : (s.modWatch g).corr = s.corr := rfl
@[simp] theorem State.modWatch_episode (s : State) (g : WatchSt → WatchSt) : (s.modWatch g).episode = s.episode := rfl
@[simp] theorem State.modWatch_warmHold (s : State) (g : WatchSt → WatchSt) : (s.modWatch g).warmHold = s.warmHold := rfl
@[simp] theorem State.modWatch_bad (s : State) (g : WatchSt → WatchSt) : (s.modWatch g).bad = s.bad := rfl
@[simp] theorem State.modWatch_rchFault (s : State) (g : WatchSt → WatchSt) : (s.modWatch g).rchFault = s.rchFault := rfl
@[simp] theorem State.modWatch_rchSig (s : State) (g : WatchSt → WatchSt) : (s.modWatch g).rchSig = s.rchSig := rfl
@[simp] theorem State.modWatch_rchBack (s : State) (g : WatchSt → WatchSt) : (s.modWatch g).rchBack = s.rchBack := rfl
@[simp] theorem State.modWatch_links (s : State) (g : WatchSt → WatchSt) : (s.modWatch g).links = s.links := rfl
@[simp] theorem State.modWatch_hubTags (s : State) (g : WatchSt → WatchSt) : (s.modWatch g).hubTags = s.hubTags := rfl
@[simp] theorem State.modWatch_busMaster (s : State) (g : WatchSt → WatchSt) : (s.modWatch g).busMaster = s.busMaster := rfl
@[simp] theorem State.modWatch_laneRetry (s : State) (g : WatchSt → WatchSt) : (s.modWatch g).laneRetry = s.laneRetry := rfl
@[simp] theorem State.modWatch_time (s : State) (g : WatchSt → WatchSt) : (s.modWatch g).time = s.time := rfl
@[simp] theorem State.modWatch_loadQ (s : State) (g : WatchSt → WatchSt) : (s.modWatch g).loadQ = s.loadQ := rfl
@[simp] theorem State.modWatch_progs (s : State) (g : WatchSt → WatchSt) : (s.modWatch g).progs = s.progs := rfl
@[simp] theorem State.modWatch_tasks (s : State) (g : WatchSt → WatchSt) : (s.modWatch g).tasks = s.tasks := rfl
@[simp] theorem State.modWatch_spareRegs (s : State) (g : WatchSt → WatchSt) : (s.modWatch g).spareRegs = s.spareRegs := rfl
@[simp] theorem State.modWatch_taking (s : State) (g : WatchSt → WatchSt) : (s.modWatch g).taking = s.taking := rfl
@[simp] theorem State.modWatch_taken (s : State) (g : WatchSt → WatchSt) : (s.modWatch g).taken = s.taken := rfl
@[simp] theorem State.modWatch_aseq (s : State) (g : WatchSt → WatchSt) : (s.modWatch g).aseq = s.aseq := rfl
@[simp] theorem State.modWatch_start (s : State) (g : WatchSt → WatchSt) : (s.modWatch g).start = s.start := rfl
@[simp] theorem State.modWatch_fuse (s : State) (g : WatchSt → WatchSt) : (s.modWatch g).fuse = s.fuse := rfl
@[simp] theorem State.modWatch_pwr (s : State) (g : WatchSt → WatchSt) : (s.modWatch g).pwr = s.pwr := rfl
@[simp] theorem State.modWatch_safe (s : State) (g : WatchSt → WatchSt) : (s.modWatch g).safe = s.safe := rfl
@[simp] theorem State.modWatch_hst (s : State) (g : WatchSt → WatchSt) : (s.modWatch g).hst = s.hst := rfl
@[simp] theorem State.modWatch_rd (s : State) (g : WatchSt → WatchSt) (k' : RKey) : (s.modWatch g).rd k' = s.rd k' := rfl
@[simp] theorem State.modWatch_get (s : State) (g : WatchSt → WatchSt) (f' : Field) (i' j' : Nat) : (s.modWatch g).get f' i' j' = s.get f' i' j' := rfl
@[simp] theorem State.modWatch_core_read (s : State) (g : WatchSt → WatchSt) (n' : Nat) : (s.modWatch g).core n' = s.core n' := rfl
@[simp] theorem State.modWatch_vat_read (s : State) (g : WatchSt → WatchSt) (n' : Nat) : (s.modWatch g).vat n' = s.vat n' := rfl
@[simp] theorem State.modWatch_router_read (s : State) (g : WatchSt → WatchSt) (n' : Nat) : (s.modWatch g).router n' = s.router n' := rfl
@[simp] theorem State.modWatch_msu_read (s : State) (g : WatchSt → WatchSt) (n' : Nat) : (s.modWatch g).msu n' = s.msu n' := rfl
@[simp] theorem State.modWatch_hbmBank_read (s : State) (g : WatchSt → WatchSt) (n' : Nat) : (s.modWatch g).hbmBank n' = s.hbmBank n' := rfl
@[simp] theorem State.modWatch_node_read (s : State) (g : WatchSt → WatchSt) (n' : Nat) : (s.modWatch g).node n' = s.node n' := rfl
@[simp] theorem State.modWatch_readByte (s : State) (g : WatchSt → WatchSt) (a' : Nat) : (s.modWatch g).readByte a' = s.readByte a' := rfl

@[simp] theorem State.setCore_same (s : State) (k : Nat) (x : CoreSt) : (s.setCore k x).core k = x := by simp [State.setCore, State.core]
theorem State.setCore_other (s : State) {k j : Nat} (x : CoreSt) (h : j ≠ k) : (s.setCore k x).core j = s.core j := lookD_putD_other _ _ _ _ _ h
@[simp] theorem State.setVat_same (s : State) (k : Nat) (x : VatSt) : (s.setVat k x).vat k = x := by simp [State.setVat, State.vat]
theorem State.setVat_other (s : State) {k j : Nat} (x : VatSt) (h : j ≠ k) : (s.setVat k x).vat j = s.vat j := lookD_putD_other _ _ _ _ _ h
@[simp] theorem State.setRouter_same (s : State) (k : Nat) (x : RouterSt) : (s.setRouter k x).router k = x := by simp [State.setRouter, State.router]
theorem State.setRouter_other (s : State) {k j : Nat} (x : RouterSt) (h : j ≠ k) : (s.setRouter k x).router j = s.router j := lookD_putD_other _ _ _ _ _ h
@[simp] theorem State.setMsu_same (s : State) (k : Nat) (x : MsuSt) : (s.setMsu k x).msu k = x := by simp [State.setMsu, State.msu]
theorem State.setMsu_other (s : State) {k j : Nat} (x : MsuSt) (h : j ≠ k) : (s.setMsu k x).msu j = s.msu j := lookD_putD_other _ _ _ _ _ h
@[simp] theorem State.setHbmBank_same (s : State) (k : Nat) (x : HbmBank) : (s.setHbmBank k x).hbmBank k = x := by simp [State.setHbmBank, State.hbmBank]
theorem State.setHbmBank_other (s : State) {k j : Nat} (x : HbmBank) (h : j ≠ k) : (s.setHbmBank k x).hbmBank j = s.hbmBank j := lookD_putD_other _ _ _ _ _ h
@[simp] theorem State.setNode_same (s : State) (k : Nat) (x : NodeSt) : (s.setNode k x).node k = x := by simp [State.setNode, State.node]
theorem State.setNode_other (s : State) {k j : Nat} (x : NodeSt) (h : j ≠ k) : (s.setNode k x).node j = s.node j := lookD_putD_other _ _ _ _ _ h
@[simp] theorem State.modCore_same (s : State) (c : Nat) (g : CoreSt → CoreSt) : (s.modCore c g).core c = g (s.core c) := by
  simp [State.modCore]
theorem State.modCore_other (s : State) {c d : Nat} (g : CoreSt → CoreSt) (h : d ≠ c) : (s.modCore c g).core d = s.core d :=
  State.setCore_other s _ h

@[simp] theorem State.setNow_now (s : State) (t : Nat) : (s.setNow t).now = max s.now t := rfl

end Sys2Proof.Machine
end

