-- ==== Sys2Proof/Laws/Clock.lean ====
section
/-! SUPPORT. The clock carried forward: when no event of an engine falls due on the way, only the clock moves. -/

namespace Sys2Proof.Machine

open Sys2Proof

@[simp] theorem State.elapse_zero (s : State) : s.elapse 0 = s := rfl

/-- With no performance counter set up, time that passes leaves no trace. -/
theorem State.elapse_none (s : State) (d : Nat) (h : ∀ r ∈ s.regs, r.1.reg ≠ .PMON_CFG) : s.elapse d = s := by
  unfold State.elapse
  have : s.regs.filter (fun r => decide (r.1.reg = .PMON_CFG)) = [] := List.filter_eq_nil_iff.mpr (fun r hr => by simpa using h r hr)
  rw [this]; split <;> rfl

theorem State.setNow_of_le (s : State) (t : Nat) (h : t ≤ s.now) : s.setNow t = s := by
  unfold State.setNow
  rw [Nat.max_eq_left h, if_neg (by omega)]

/-- No engine's event falls due before an instant: none runs. -/
theorem State.runTo_idle (s : State) (t n : Nat) (h : ∀ u c, s.nextTick = some (u, c) → t ≤ u) : State.runTo t n s = s := by
  cases n with
  | zero => rfl
  | succ n =>
    unfold State.runTo
    split
    · rfl
    · next u c e => rw [if_neg (by have := h u c e; omega)]

/-- The clock never goes back. -/
theorem State.at_of_le (s : State) (t : Nat) (h : t ≤ s.now) : s.at_ t = s := by
  have e : t - s.now = 0 := by omega
  simp only [State.at_, e, Nat.mul_zero, State.runTo, State.elapse_zero]
  exact s.setNow_of_le t h

/-- While nothing that has begun falls due, only the clock and the counters of elapsed ACLK move. -/
theorem State.at_of_idle (s : State) (t : Nat) (h : ∀ u c, s.nextTick = some (u, c) → t ≤ u) :
    s.at_ t = (s.elapse (t - s.now)).setNow t := by
  simp only [State.at_, State.runTo_idle s t _ h]

theorem State.at_idle (s : State) (t : Nat) (h : ∀ u c, s.nextTick = some (u, c) → t ≤ u) (hp : ∀ r ∈ s.regs, r.1.reg ≠ .PMON_CFG) :
    s.at_ t = s.setNow t := by
  rw [State.at_of_idle s t h, State.elapse_none s _ hp]

end Sys2Proof.Machine
end

