-- ==== Sys2Proof/Laws/Quiet.lean ====
section
/-! SUPPORT. What recording an event can do, once for each operation that records: every other part of the state stays (`Quiet`). -/

namespace Sys2Proof.Machine

open Sys2Proof

theorem Quiet.refl (s : State) : Quiet s s := ⟨rfl, fun _ _ => rfl, fun _ _ => rfl, fun _ => rfl, rfl⟩

theorem Quiet.trans {s t u : State} (h : Quiet s t) (g : Quiet t u) : Quiet s u where
  rest := by
    have h1 := h.rest; have g1 := g.rest
    rw [h1] at g1
    rw [g1]
  regs k hk := (g.regs k hk).trans (h.regs k hk)
  mem a ha := (g.mem a (by rw [h.ring]; exact ha)).trans (h.mem a ha)
  ring a := (g.ring a).trans (h.ring a)
  out := g.out.trans h.out

theorem Quiet.get {s t : State} (h : Quiet s t) (f : Field) (i j : Nat) (hf : sideReg f.reg = false) : t.get f i j = s.get f i j := by
  simp only [State.get]; rw [h.regs _ hf]

/-- Writing a register in both. -/
theorem Quiet.wr {s t : State} (h : Quiet s t) (k : RKey) (v : Word) : Quiet (s.wr k v) (t.wr k v) where
  rest := by have := h.rest; rw [this]; rfl
  regs j hj := by rw [State.rd_wr, State.rd_wr]; split; rfl; exact h.regs j hj
  mem a ha := h.mem a ha
  ring a := h.ring a
  out := h.out

theorem Quiet.set {s t : State} (h : Quiet s t) (f : Field) (i v j : Nat) (hf : sideReg f.reg = false) :
    Quiet (s.set f i v j) (t.set f i v j) := by
  have e := h.regs ⟨f.reg, i, j⟩ hf
  unfold State.set; rw [e]; exact h.wr _ _

/-- A write of a side register. -/
theorem Quiet.of_wr_side (s : State) (k : RKey) (v : Word) (hk : sideReg k.reg = true) : Quiet s (s.wr k v) where
  rest := rfl
  regs j hj := State.rd_wr_other s v (by rintro rfl; simp [hk] at hj)
  mem a ha := rfl
  ring a := rfl
  out := rfl

theorem Quiet.of_set_side (s : State) (f : Field) (i v j : Nat) (hf : sideReg f.reg = true) : Quiet s (s.set f i v j) :=
  Quiet.of_wr_side s _ _ hf

theorem Quiet.of_noteSet (s : State) (k : RKey) (m : Word) : Quiet s (s.noteSet k m) where
  rest := rfl
  regs _ _ := rfl
  mem _ _ := rfl
  ring _ := rfl
  out := rfl

theorem Quiet.of_flag_side (s : State) (f : Field) (i j : Nat) (hf : sideReg f.reg = true) : Quiet s (s.flag f i j) :=
  (Quiet.of_set_side s f i 1 j hf).trans (Quiet.of_noteSet _ _ _)

theorem Quiet.of_bump_side (s : State) (f : Field) (i n j : Nat) (hf : sideReg f.reg = true) : Quiet s (s.bump f i n j) :=
  Quiet.of_wr_side s _ _ hf

/-- An update of parts that recording may change. -/
theorem Quiet.of_parts (s : State) (elog pers : List LogRec) (props : List (Nat × Proposal)) (events : List Ev) (lost : Nat)
    (corr : List (Nat × Nat × Nat)) (inj : List InjTag) :
    Quiet s { s with elog := elog, pers := pers, props := props, events := events, evLost := lost, corr := corr, inj := inj } where
  rest := rfl
  regs _ _ := rfl
  mem _ _ := rfl
  ring _ := rfl
  out := rfl

theorem Quiet.of_send (s : State) (o : Out) (ho : recordOut o = true) : Quiet s (s.send o) where
  rest := rfl
  regs _ _ := rfl
  mem _ _ := rfl
  ring _ := rfl
  out := by simp [State.send, ho]

/-! ### Events for the host -/

theorem leBytes_length (n v : Nat) : (leBytes n v).length = n := by
  induction n generalizing v with
  | zero => rfl
  | succ n ih => simp [leBytes, ih]

theorem mem_of_find? {K V : Type} [DecidableEq K] (l : List (K × V)) (k : K) (v : V) (h : find? l k = some v) : (k, v) ∈ l := by
  induction l with
  | nil => simp [find?] at h
  | cons p t ih =>
    obtain ⟨k', v'⟩ := p
    by_cases e : k' = k
    · subst e; simp [find?] at h; simp [h]
    · simp [find?, e] at h; simp [ih h]

/-- Replacing a ring by one at the same base leaves the bytes of rings. -/
theorem ringByte_insertAt (l : List (Nat × Ring)) (m : Nat) (r r' : Ring) (hr : find? l m = some r)
    (q : Ring → Bool) (hq : q r' = q r) : (insertAt natLt l m r').any (fun x => q x.2) = l.any (fun x => q x.2) := by
  induction l with
  | nil => simp [find?] at hr
  | cons p t ih =>
    obtain ⟨k, x⟩ := p
    by_cases e : k = m
    · subst e; simp [find?] at hr; simp [insertAt, hr, hq]
    · simp [find?, e] at hr
      by_cases e2 : natLt m k = true
      · have hm := mem_of_find? t m r hr
        simp only [insertAt, if_neg e, if_pos e2, List.any_cons]
        by_cases hq2 : q r = true
        · have : t.any (fun x => q x.2) = true := List.any_eq_true.mpr ⟨_, hm, hq2⟩
          simp [this]
        · simp [hq, hq2]
      · simp [insertAt, e, e2, ih hr]

/-- A ring of the list, under its number: what `ringPut` needs of its arguments. -/
def State.ringAt (s : State) (m : Nat) (r : Ring) : Prop := find? s.rings m = some r

theorem State.ringFor_at (s : State) (e : Ev) (m : Nat) (r : Ring) (h : s.ringFor e = some (m, r)) : s.ringAt m r := by
  have head (h : s.rings.head? = some (m, r)) : s.ringAt m r := by
    cases hl : s.rings with
    | nil => simp [hl] at h
    | cons p t => simp [hl] at h; subst h; simp [State.ringAt, hl, find?]
  unfold State.ringFor at h
  split at h
  · split at h
    · next m' r' e' => simp at h; obtain ⟨rfl, rfl⟩ := h; exact e'
    · exact head h
  · exact head h

theorem State.get_tail_lt (s : State) (m : Nat) : s.get F.HUBC_EVQ_TAIL 0 m < 4096 := by
  have h : s.get F.HUBC_EVQ_TAIL 0 m < 2 ^ F.HUBC_EVQ_TAIL.width := BitVec.isLt _
  have e : 2 ^ F.HUBC_EVQ_TAIL.width = 4096 := by decide
  rwa [e] at h

/-- Advancing a ring. -/
theorem Quiet.of_ring (s : State) (m : Nat) (r r' : Ring) (hr : s.ringAt m r) (hb : r'.base = r.base) :
    Quiet s { s with rings := insertAt natLt s.rings m r' } where
  rest := rfl
  regs _ _ := rfl
  mem _ _ := rfl
  ring a := ringByte_insertAt s.rings m r r' hr
    (fun x => decide (x.base % 2 ^ 48 ≤ a) && decide (a < x.base % 2 ^ 48 + 128 * 4096)) (by simp [hb])
  out := rfl

/-- Bytes written within the entries of a ring. -/
theorem Quiet.of_entry (s : State) (m : Nat) (r : Ring) (hr : s.ringAt m r) (o : Nat) (bs : List Byte)
    (hl : o + bs.length ≤ 128 * 4096) : Quiet s { s with mem := putBytes s.mem (r.base % 2 ^ 48 + o) bs } where
  rest := rfl
  regs _ _ := rfl
  mem a ha := by
    have hn : ¬ (r.base % 2 ^ 48 ≤ a ∧ a < r.base % 2 ^ 48 + 128 * 4096) := by
      intro hc
      have : ringByte s a = true := List.any_eq_true.mpr ⟨(m, r), mem_of_find? _ _ _ hr, by simpa using hc⟩
      simp [this] at ha
    exact getByte_putBytes_other bs s.mem _ a (by omega)
  ring _ := rfl
  out := rfl

theorem State.ringPut_quiet (s : State) (m : Nat) (r : Ring) (e : Ev) (hr : s.ringAt m r) : Quiet s (s.ringPut m r e) := by
  have ht := s.get_tail_lt m
  have step (t : State) (hq : Quiet s t) (r' : Ring) (hr' : t.ringAt m r') (hb : r'.base = r.base) (bs : List Byte) (hl : bs.length = 128)
      (v : Nat) :
      Quiet s ((if r.base % 2 ^ 48 + 128 * s.get F.HUBC_EVQ_TAIL 0 m < 0x300000000000
        then { t with mem := putBytes t.mem (r.base % 2 ^ 48 + 128 * s.get F.HUBC_EVQ_TAIL 0 m) bs }
        else t.send (.hostWrite (t.get F.PCIE_HWIN_BASE 0 * 4096
          + (r.base % 2 ^ 48 + 128 * s.get F.HUBC_EVQ_TAIL 0 m - 0x300000000000)) bs)).send (.msix v)) := by
    refine hq.trans (Quiet.trans ?_ (Quiet.of_send _ _ rfl))
    split
    · rw [← hb]; exact Quiet.of_entry t m r' hr' _ bs (by omega)
    · exact Quiet.of_send _ _ rfl
  unfold State.ringPut
  refine step _ ((Quiet.of_ring s m r _ hr ?_).trans (Quiet.of_set_side _ _ _ _ _ ?_)) _ (find?_insertAt_same ..) ?_ _ ?_ _
  · rfl
  · rfl
  · rfl
  · simp [leBytes_length]

theorem State.ringDrain_quiet (n : Nat) (s : State) : Quiet s (s.ringDrain n) := by
  induction n generalizing s with
  | zero => exact Quiet.refl s
  | succ n ih =>
    unfold State.ringDrain
    split
    · split
      · exact Quiet.refl s
      · dsimp only
        split
        · next m r h =>
          split
          · exact (Quiet.of_parts s s.elog s.pers s.props s.events 0 s.corr s.inj).trans
              (State.ringPut_quiet _ m r _ (s.ringFor_at _ m r h))
          · exact Quiet.refl s
        · exact Quiet.refl s
    · next e es _ =>
      split
      · next m r h =>
        split
        · exact ((Quiet.of_parts s s.elog s.pers s.props es s.evLost s.corr s.inj).trans
            (State.ringPut_quiet _ m r _ (s.ringFor_at _ m r h))).trans (ih _)
        · exact Quiet.refl s
      · exact Quiet.refl s

theorem State.evSettle_quiet (s : State) : Quiet s s.evSettle :=
  (s.ringDrain_quiet 129).trans (Quiet.of_set_side _ _ _ _ _ rfl)

theorem State.post_quiet (s : State) (e : Ev) : Quiet s (s.post e) := by
  unfold State.post
  refine Quiet.trans ?_ (State.evSettle_quiet _)
  split
  · exact Quiet.of_parts s s.elog s.pers s.props _ s.evLost s.corr s.inj
  · split
    · exact (Quiet.of_parts s s.elog s.pers s.props s.events _ s.corr s.inj).trans (Quiet.of_bump_side _ _ _ _ _ rfl)
    · split
      · exact (Quiet.of_parts s s.elog s.pers s.props _ _ s.corr s.inj).trans (Quiet.of_bump_side _ _ _ _ _ rfl)
      · exact Quiet.of_parts s s.elog s.pers s.props _ s.evLost s.corr s.inj

/-! ### The error log -/

theorem State.logRec_quiet (s : State) (cls blk code unit slot flags : Nat) (data : List Byte) (count : Nat) :
    Quiet s (s.logRec cls blk code unit slot flags data count) := by
  unfold State.logRec
  extract_lets seq valid t r log s1 s2 pp qq s3
  have h1 : Quiet s s1 := (Quiet.of_parts s _ s.pers s.props s.events s.evLost s.corr s.inj).trans (Quiet.of_set_side _ _ _ _ _ rfl)
  have h2 : Quiet s1 s2 := by
    dsimp only [s2]
    split
    · exact Quiet.of_bump_side _ _ _ _ _ rfl
    · exact Quiet.of_bump_side _ _ _ _ _ rfl
    · exact Quiet.of_bump_side _ _ _ _ _ rfl
    · exact Quiet.of_bump_side _ _ _ _ _ rfl
    · exact Quiet.refl _
  have h3 : Quiet s2 s3 := by
    dsimp only [s3]
    split
    · exact (((Quiet.of_parts s2 s2.elog _ s2.props s2.events s2.evLost s2.corr s2.inj).trans
        (Quiet.of_set_side _ _ _ _ _ rfl)).trans (Quiet.of_send _ _ rfl)).trans (Quiet.of_send _ _ rfl)
    · exact Quiet.refl _
  refine (h1.trans (h2.trans h3)).trans ?_
  split
  · exact State.post_quiet _ _
  · exact Quiet.refl _

theorem State.logHw_quiet (s : State) (cls : Nat) (b : Blk) (bit unit : Nat) (data : List Byte) :
    Quiet s (s.logHw cls b bit unit data) := State.logRec_quiet ..
theorem State.logAccess_quiet (s : State) (b : Blk) (unit detail master addr v : Nat) :
    Quiet s (s.logAccess b unit detail master addr v) := State.logRec_quiet ..
theorem State.logNotice_quiet (s : State) (b : Blk) (unit detail : Nat) (data : List Byte) (slot : Nat) :
    Quiet s (s.logNotice b unit detail data slot) := State.logRec_quiet ..

theorem State.corrected_quiet (s : State) (b : Blk) (bit unit : Nat) : Quiet s (s.corrected b bit unit) := by
  unfold State.corrected
  dsimp only
  split
  · exact (Quiet.of_parts s s.elog s.pers s.props s.events s.evLost _ s.inj).trans (State.logRec_quiet ..)
  · exact Quiet.of_parts s s.elog s.pers s.props s.events s.evLost _ s.inj

theorem State.propose_quiet (s : State) (p : Proposal) : Quiet s (s.propose p) := by
  unfold State.propose
  split
  · exact Quiet.refl s
  · dsimp only
    generalize hs1 : s.logRec 0 Blk.ELOG.code (0x400 + p.kind) 0 0xFF 8 (leBytes 8 p.word) = s1
    refine Quiet.trans (t := s1) (hs1 ▸ State.logRec_quiet ..) ?_
    split
    · exact ((Quiet.of_parts s1 s1.elog s1.pers _ s1.events s1.evLost s1.corr s1.inj).trans (Quiet.of_wr_side _ _ _ rfl)).trans
        (Quiet.of_set_side _ _ _ _ _ rfl)
    · exact Quiet.of_flag_side _ _ _ _ rfl

/-! ### Performance counters and injection -/

theorem State.pmonAdd_quiet (s : State) (inst k n : Nat) : Quiet s (s.pmonAdd inst k n) := by
  unfold State.pmonAdd
  dsimp only
  split
  · exact ((Quiet.of_set_side _ _ _ _ _ rfl).trans (Quiet.of_set_side _ _ _ _ _ rfl)).trans
      ((Quiet.of_set_side _ _ _ _ _ rfl).trans (Quiet.of_noteSet _ _ _))
  · exact Quiet.of_set_side _ _ _ _ _ rfl

theorem Quiet.foldl {α : Type} (g : State → α → State) (hg : ∀ s a, Quiet s (g s a)) (l : List α) (s : State) :
    Quiet s (l.foldl g s) := by
  induction l generalizing s with
  | nil => exact Quiet.refl s
  | cons a l ih => exact (hg s a).trans (ih _)

theorem State.pmon_quiet (s : State) (b : Blk) (unit ev sub n : Nat) : Quiet s (s.pmon b unit ev sub n) := by
  unfold State.pmon
  split
  · exact Quiet.refl s
  · refine Quiet.foldl _ (fun s k => ?_) _ _
    split
    · exact State.pmonAdd_quiet ..
    · exact Quiet.refl s

theorem State.injWrite_quiet (s : State) (unit owner a n : Nat) : Quiet s (s.injWrite unit owner a n) := by
  unfold State.injWrite
  split
  · exact Quiet.refl s
  · extract_lets g s1 l core own t
    have h1 : Quiet s s1 := Quiet.of_parts s s.elog s.pers s.props s.events s.evLost s.corr _
    refine h1.trans ?_
    split
    · exact ((Quiet.of_set_side s1 F.PERT_ECC_ARM 0 0 0 rfl).trans (Quiet.of_set_side _ F.PERT_ECC_FIRED 0 1 0 rfl)).trans
        (Quiet.of_parts t t.elog t.pers t.props t.events t.evLost t.corr _)
    · exact Quiet.refl _

/-! ### The same update on both sides -/

theorem getByte_putBytes_congr (bs : List Byte) (m m' : List (Nat × Byte)) (a j : Nat) (h : getByte m j = getByte m' j) :
    getByte (putBytes m a bs) j = getByte (putBytes m' a bs) j := by
  induction bs generalizing m m' a with
  | nil => exact h
  | cons b bs ih =>
    refine ih _ _ _ ?_
    by_cases e : j = a
    · subst e; simp
    · rw [getByte_putByte_other _ _ e, getByte_putByte_other _ _ e, h]

theorem Quiet.putMem {s t : State} (h : Quiet s t) (a : Nat) (bs : List Byte) :
    Quiet { s with mem := putBytes s.mem a bs } { t with mem := putBytes t.mem a bs } where
  rest := by have := h.rest; rw [this]
  regs k hk := h.regs k hk
  mem j hj := getByte_putBytes_congr bs _ _ a j (h.mem j hj)
  ring a := h.ring a
  out := h.out


theorem Quiet.setCore {s t : State} (h : Quiet s t) (c : Nat) (x : CoreSt) : Quiet (s.setCore c x) (t.setCore c x) where
  rest := by have := h.rest; rw [this]; rfl
  regs k hk := h.regs k hk
  mem j hj := h.mem j hj
  ring a := h.ring a
  out := h.out

theorem Quiet.modCore {s t : State} (h : Quiet s t) (c : Nat) (g : CoreSt → CoreSt) : Quiet (s.modCore c g) (t.modCore c g) where
  rest := by have := h.rest; rw [this]; rfl
  regs k hk := h.regs k hk
  mem j hj := h.mem j hj
  ring a := h.ring a
  out := h.out

theorem Quiet.setVat {s t : State} (h : Quiet s t) (k : Nat) (x : VatSt) : Quiet (s.setVat k x) (t.setVat k x) where
  rest := by have := h.rest; rw [this]; rfl
  regs k hk := h.regs k hk
  mem j hj := h.mem j hj
  ring a := h.ring a
  out := h.out

theorem Quiet.setRouter {s t : State} (h : Quiet s t) (k : Nat) (x : RouterSt) : Quiet (s.setRouter k x) (t.setRouter k x) where
  rest := by have := h.rest; rw [this]; rfl
  regs k hk := h.regs k hk
  mem j hj := h.mem j hj
  ring a := h.ring a
  out := h.out

theorem Quiet.setMsu {s t : State} (h : Quiet s t) (m : Nat) (x : MsuSt) : Quiet (s.setMsu m x) (t.setMsu m x) where
  rest := by have := h.rest; rw [this]; rfl
  regs k hk := h.regs k hk
  mem j hj := h.mem j hj
  ring a := h.ring a
  out := h.out

theorem Quiet.setHbmBank {s t : State} (h : Quiet s t) (k : Nat) (x : HbmBank) : Quiet (s.setHbmBank k x) (t.setHbmBank k x) where
  rest := by have := h.rest; rw [this]; rfl
  regs k hk := h.regs k hk
  mem j hj := h.mem j hj
  ring a := h.ring a
  out := h.out

theorem Quiet.setNode {s t : State} (h : Quiet s t) (k : Nat) (x : NodeSt) : Quiet (s.setNode k x) (t.setNode k x) where
  rest := by have := h.rest; rw [this]; rfl
  regs k hk := h.regs k hk
  mem j hj := h.mem j hj
  ring a := h.ring a
  out := h.out

theorem Quiet.setNow {s t : State} (h : Quiet s t) (n : Nat) : Quiet (s.setNow n) (t.setNow n) where
  rest := by have := h.rest; rw [this]; rfl
  regs k hk := h.regs k hk
  mem j hj := h.mem j hj
  ring a := h.ring a
  out := h.out

theorem Quiet.modHst {s t : State} (h : Quiet s t) (g : HostSt → HostSt) : Quiet (s.modHst g) (t.modHst g) where
  rest := by have := h.rest; rw [this]; rfl
  regs k hk := h.regs k hk
  mem j hj := h.mem j hj
  ring a := h.ring a
  out := h.out

theorem Quiet.modPwr {s t : State} (h : Quiet s t) (g : PwrSt → PwrSt) : Quiet (s.modPwr g) (t.modPwr g) where
  rest := by have := h.rest; rw [this]; rfl
  regs k hk := h.regs k hk
  mem j hj := h.mem j hj
  ring a := h.ring a
  out := h.out

theorem Quiet.modTime {s t : State} (h : Quiet s t) (g : TimeSt → TimeSt) : Quiet (s.modTime g) (t.modTime g) where
  rest := by have := h.rest; rw [this]; rfl
  regs k hk := h.regs k hk
  mem j hj := h.mem j hj
  ring a := h.ring a
  out := h.out

theorem Quiet.send {s t : State} (h : Quiet s t) (o : Out) : Quiet (s.send o) (t.send o) where
  rest := by have := h.rest; rw [this]; rfl
  regs k hk := h.regs k hk
  mem j hj := h.mem j hj
  ring a := h.ring a
  out := by simp only [State.send, List.filter_append, h.out]

/-- A part of the state that recording leaves. -/
theorem Quiet.core {s t : State} (h : Quiet s t) (c : Nat) : t.core c = s.core c := by rw [h.rest]; rfl
theorem Quiet.vat {s t : State} (h : Quiet s t) (k : Nat) : t.vat k = s.vat k := by rw [h.rest]; rfl
theorem Quiet.router {s t : State} (h : Quiet s t) (k : Nat) : t.router k = s.router k := by rw [h.rest]; rfl
theorem Quiet.msu {s t : State} (h : Quiet s t) (k : Nat) : t.msu k = s.msu k := by rw [h.rest]; rfl
theorem Quiet.hbmBank {s t : State} (h : Quiet s t) (k : Nat) : t.hbmBank k = s.hbmBank k := by rw [h.rest]; rfl
theorem Quiet.now {s t : State} (h : Quiet s t) : t.now = s.now := by rw [h.rest]
theorem Quiet.pending {s t : State} (h : Quiet s t) : t.pending = s.pending := by rw [h.rest]

/-- A step that reads an injected line differs from the step alone only in what is recorded, if the step does as `f` says. -/
theorem State.injStep_none (s : State) (f : State → State) : s.injStep none f = f s := rfl

end Sys2Proof.Machine
end

