-- ==== Sys2Proof/Laws/Memory.lean ====
section
/-! SUPPORT. Laws of memory: every operation that changes it keeps its canonical form, and what a write and a copy leave at an address. -/

namespace Sys2Proof.Machine

open Sys2Proof

/-! ### The canonical form -/

theorem Memory.wf_filter (p : Host.Cell → Bool) (m : List Host.Cell) (h : Memory.wf m) : Memory.wf (m.filter p) := by
  unfold Memory.wf at *
  induction m with
  | nil => rfl
  | cons c t ih =>
    obtain ⟨a, b⟩ := c
    obtain ⟨h1, h2, h3⟩ := (canon_cons_iff natLt natLt_sorts.trans _ a b t).mp h
    by_cases e : p (a, b) = true
    · rw [List.filter_cons_of_pos e, canon_cons_iff natLt natLt_sorts.trans]
      exact ⟨h1, fun q hq => h2 q (List.mem_filter.mp hq).1, ih h3⟩
    · rw [List.filter_cons_of_neg e]; exact ih h3

theorem Memory.wf_putBytes (m : List Host.Cell) (a : Nat) (bs : List Byte) (h : Memory.wf m) : Memory.wf (putBytes m a bs) :=
  canon_putBytes bs m a h

theorem Memory.wf_putAll (f : Host.Cell → Nat) (l m : List Host.Cell) (h : Memory.wf m) :
    Memory.wf (l.foldl (fun m c => putByte m (f c) c.2) m) := by
  induction l generalizing m with
  | nil => exact h
  | cons c l ih => exact ih _ (canon_putByte _ _ _ h)

theorem Memory.wf_copyCells (m : List Host.Cell) (src dst n : Nat) (h : Memory.wf m) : Memory.wf (copyCells m src dst n) :=
  Memory.wf_putAll (fun c => c.1 - src + dst) _ _ (Memory.wf_filter _ m h)

theorem Memory.wf_nil : Memory.wf [] := rfl

@[simp] theorem State.injWrite_mem (s : State) (u o a n : Nat) : (s.injWrite u o a n).mem = s.mem := by
  unfold State.injWrite; split
  · rfl
  · extract_lets g s1 l core own t; split <;> rfl

@[simp] theorem State.lineWrite_mem (s : State) (a n : Nat) : (s.lineWrite a n).mem = s.mem := by
  unfold State.lineWrite; split <;> rfl

/-- A write of memory changes the bytes as `putBytes` says. -/
theorem State.writeMem_mem (s : State) (a : Nat) (bs : List Byte) : (s.writeMem a bs).mem = putBytes s.mem a bs := by
  unfold State.writeMem; dsimp only
  split
  · simp
  · split <;> simp

theorem State.copyMem_mem (s : State) (src dst n : Nat) : (s.copyMem src dst n).mem = copyCells s.mem src dst n := rfl

theorem State.writeMem_wf (s : State) (a : Nat) (bs : List Byte) (h : Memory.wf s.mem) : Memory.wf (s.writeMem a bs).mem := by
  rw [State.writeMem_mem]; exact Memory.wf_putBytes _ _ _ h

theorem State.writeWin_wf (s : State) (c off : Nat) (bs : List Byte) (h : Memory.wf s.mem) : Memory.wf (s.writeWin c off bs).mem :=
  s.writeMem_wf _ bs h

theorem State.copyMem_wf (s : State) (src dst n : Nat) (h : Memory.wf s.mem) : Memory.wf (s.copyMem src dst n).mem :=
  Memory.wf_copyCells _ _ _ _ h

theorem State.zeroMem_wf (s : State) (a n : Nat) (h : Memory.wf s.mem) : Memory.wf (s.zeroMem a n).mem := Memory.wf_filter _ _ h

theorem foldl_mem {α : Type} (g : State → α → State) (hg : ∀ s a, (g s a).mem = s.mem) (l : List α) (s : State) :
    (l.foldl g s).mem = s.mem := by
  induction l generalizing s with
  | nil => rfl
  | cons a l ih => exact (ih _).trans (hg s a)

theorem State.zeroPair_wf (s : State) (p : Nat) (h : Memory.wf s.mem) : Memory.wf (s.zeroPair p).mem := by
  unfold State.zeroPair
  dsimp only
  rw [foldl_mem _ (fun s m => State.bump_mem ..)]
  exact Memory.wf_filter _ _ (by simpa using h)

/-- Placing an event changes memory by its ring's entry at most. -/
theorem State.ringPut_mem (s : State) (m : Nat) (r : Ring) (e : Ev) :
    (s.ringPut m r e).mem = s.mem ∨ ∃ a bs, (s.ringPut m r e).mem = putBytes s.mem a bs := by
  unfold State.ringPut
  extract_lets tail bytes tail' r' s1 a s2
  have h1 : s1.mem = s.mem := rfl
  rw [State.send_mem]
  by_cases c : a < 0x300000000000
  · have h2 : s2 = { s1 with mem := putBytes s1.mem a bytes } := if_pos c
    rw [h2]
    exact .inr ⟨a, bytes, by rw [← h1]⟩
  · have h2 : s2 = s1.send (.hostWrite (s1.get F.PCIE_HWIN_BASE 0 * 4096 + (a - 0x300000000000)) bytes) := if_neg c
    rw [h2, State.send_mem, h1]
    exact .inl rfl

/-- Everything that records an event keeps the form. -/
theorem State.ringPut_wf (s : State) (m : Nat) (r : Ring) (e : Ev) (h : Memory.wf s.mem) : Memory.wf (s.ringPut m r e).mem := by
  rcases s.ringPut_mem m r e with e' | ⟨a, bs, e'⟩ <;> rw [e']
  · exact h
  · exact Memory.wf_putBytes _ _ _ h

theorem State.ringDrain_wf (n : Nat) (s : State) (h : Memory.wf s.mem) : Memory.wf (s.ringDrain n).mem := by
  induction n generalizing s with
  | zero => exact h
  | succ n ih =>
    unfold State.ringDrain
    split
    · split
      · exact h
      · dsimp only; split
        · split
          · exact State.ringPut_wf _ _ _ _ h
          · exact h
        · exact h
    · split
      · split
        · exact ih _ (State.ringPut_wf _ _ _ _ h)
        · exact h
      · exact h

theorem State.post_wf (s : State) (e : Ev) (h : Memory.wf s.mem) : Memory.wf (s.post e).mem := by
  unfold State.post State.evSettle
  dsimp only
  rw [State.set_mem]
  refine State.ringDrain_wf _ _ ?_
  split
  · exact h
  · split
    · exact h
    · split <;> exact h

/-! ### Reads after writes -/

theorem State.readByte_writeMem_other (s : State) (a : Nat) (bs : List Byte) (j : Nat) (h : j < a ∨ a + bs.length ≤ j) :
    (s.writeMem a bs).readByte j = s.readByte j := by
  simp only [State.readByte, State.writeMem_mem]; exact getByte_putBytes_other bs s.mem a j h

theorem State.readMem_writeMem_same (s : State) (a : Nat) (bs : List Byte) : (s.writeMem a bs).readMem a bs.length = bs := by
  simp only [State.readMem, State.writeMem_mem]; exact getBytes_putBytes_same bs s.mem a

/-- A write of memory moves nothing but the bytes, the lines' errors and the injection. -/
theorem State.writeMem_core (s : State) (a : Nat) (bs : List Byte) (c : Nat) : (s.writeMem a bs).core c = s.core c := by
  have inj (u o a n : Nat) : (s.injWrite u o a n).core c = s.core c := by
    unfold State.injWrite; split
    · rfl
    · extract_lets g s1 l core own t; split <;> rfl
  have line (t : State) (a n : Nat) : (t.lineWrite a n).core c = t.core c := by unfold State.lineWrite; split <;> rfl
  unfold State.writeMem; dsimp only
  split
  · exact (line _ _ _).trans (inj ..)
  · split
    · exact inj ..
    · rfl

end Sys2Proof.Machine
end

