-- ==== Sys2Proof/Laws/Ops.lean ====
section
/-! SUPPORT. What each shared operation can do, said once: the parts of the state it may write (`Local`), when it acts, and what it
leaves in what it writes. -/

namespace Sys2Proof.Machine

open Sys2Proof

/-! ### Operations that write registers and per-core records only -/

/-- `t` differs from `s` in registers, per-core records and the events of the present ACLK alone. -/
def Local (s t : State) : Prop := t = { s with regs := t.regs, cores := t.cores, evNow := t.evNow }

theorem Local.refl (s : State) : Local s s := rfl

theorem Local.trans {s t u : State} (h : Local s t) (g : Local t u) : Local s u := by
  unfold Local at *
  rw [h] at g
  rw [g]

theorem Local.mem {s t : State} (h : Local s t) : t.mem = s.mem := by rw [h]
theorem Local.now {s t : State} (h : Local s t) : t.now = s.now := by rw [h]
theorem Local.pending {s t : State} (h : Local s t) : t.pending = s.pending := by rw [h]
theorem Local.out {s t : State} (h : Local s t) : t.out = s.out := by rw [h]

theorem Local.wr (s : State) (k : RKey) (v : Word) : Local s (s.wr k v) := rfl
theorem Local.set (s : State) (f : Field) (i v j : Nat) : Local s (s.set f i v j) := rfl
theorem Local.setBit (s : State) (f : Field) (i n : Nat) (b : Bool) : Local s (s.setBit f i n b) := rfl
theorem Local.flag (s : State) (f : Field) (i j : Nat) : Local s (s.flag f i j) := rfl
theorem Local.flagBit (s : State) (f : Field) (i n : Nat) : Local s (s.flagBit f i n) := rfl
theorem Local.modCore (s : State) (c : Nat) (g : CoreSt → CoreSt) : Local s (s.modCore c g) := rfl

theorem State.flagIf_local (s : State) (b : Bool) (f : Field) (i j : Nat) : Local s (s.flagIf b f i j) := by
  unfold State.flagIf; split
  · exact Local.flag ..
  · exact Local.refl s

theorem State.ccState_local (s : State) (c v : Nat) : Local s (s.ccState c v) := by
  unfold State.ccState
  exact (Local.modCore ..).trans (Local.set ..)

theorem State.raiseAbort_local (s : State) (c cause : Nat) : Local s (s.raiseAbort c cause) := by
  unfold State.raiseAbort
  split
  · exact Local.refl s
  · refine Local.trans ?_ (Local.modCore ..)
    have h : Local s ((s.set F.CC_TASK_STATUS_ABORTED c 1).set F.CC_TASK_STATUS_CAUSE c cause) := rfl
    split
    · exact h
    · exact h.trans (State.ccState_local ..)

theorem State.suLog_local (s : State) (c reason ctr chan slot group value id : Nat) :
    Local s (s.suLog c reason ctr chan slot group value id) := by
  unfold State.suLog; split
  · exact Local.refl s
  · exact Local.wr ..

theorem State.creditFault_local (s : State) (c reason ctr chan value id : Nat) : Local s (s.creditFault c reason ctr chan value id) :=
  ((State.suLog_local ..).trans (Local.flag ..)).trans (State.raiseAbort_local ..)

theorem State.ctrAdd_local (s : State) (c ctr n id : Nat) : Local s (s.ctrAdd c ctr n id).1 := by
  unfold State.ctrAdd
  extract_lets v t
  have h : Local s t := by
    show Local s (if _ then _ else _)
    split
    · exact ((Local.set ..).trans (Local.flagBit ..)).trans (Local.flag ..)
    · exact Local.set ..
  split
  · exact h.trans (State.creditFault_local ..)
  · exact h

theorem State.ctrSub_local (s : State) (c ctr n id : Nat) : Local s (s.ctrSub c ctr n id).1 := by
  unfold State.ctrSub
  extract_lets v t
  split
  · exact Local.set ..
  · have h : Local s t := ((Local.set ..).trans (Local.flagBit ..)).trans (Local.flag ..)
    split
    · exact h.trans (State.creditFault_local ..)
    · exact h

theorem State.freeCell_local (s : State) (c n : Nat) : Local s (s.freeCell c n) := rfl
theorem State.cellBack_local (s : State) (c : Nat) (e : Eng) (q : QCmd) (t : Nat) : Local s (s.cellBack c e q t) := rfl
theorem State.fence_local (s : State) (c : Nat) : Local s (s.fence c) :=
  ((Local.setBit s F.CLU_FENCE_FENCED (cluInst c) (corein c) true).trans (State.ccState_local ..)).trans (Local.modCore ..)

/-- A completion touches registers and per-core records alone: memory, the clock, other queues and what leaves the block stay. -/
theorem State.complete_local (s : State) (c : Nat) (e : Eng) (q : QCmd) (status iter : Nat) : Local s (s.complete c e q status iter) := by
  unfold State.complete
  extract_lets cmd s1 s2 r s3 s4 s5
  have h1 : Local s s1 := State.cellBack_local ..
  have h2 : Local s1 s2 := by
    show Local s1 (if _ then _ else _)
    split
    · exact State.ctrAdd_local ..
    · exact Local.refl _
  have h3 : Local s2 s3 := by
    show Local s2 (if _ then _ else _)
    split
    · split
      · exact Local.modCore ..
      · exact Local.flag ..
    · exact Local.refl _
  have h13 := (h1.trans h2).trans h3
  split
  · exact h13
  · have h5 : Local s4 s5 := by
      show Local s4 (if _ then _ else _)
      split
      · exact Local.refl _
      · exact Local.wr ..
    have h := (h13.trans (Local.setBit ..)).trans h5
    split
    · exact h.trans (State.raiseAbort_local ..)
    · exact h

/-- An abort already raised stays as it is (R166). -/
theorem State.raiseAbort_again (s : State) (c cause : Nat) (h : s.get F.CC_TASK_STATUS_ABORTED c = 1) : s.raiseAbort c cause = s := by
  unfold State.raiseAbort; rw [if_pos h]

/-! ### Counters of a core's SU (R356, R357) -/

theorem ctrField_ok (n : Nat) : (ctrField n).ok = true := by
  unfold ctrField; split <;> decide

theorem ctrField_width (n : Nat) : (ctrField n).width = 16 := by
  unfold ctrField; split <;> rfl

@[simp] theorem State.ctr_setCtr_same (s : State) (c n v : Nat) : (s.setCtr c n v).ctr c n = v % 2 ^ 16 := by
  unfold State.setCtr State.ctr
  rw [State.get_set_same _ _ _ _ _ (ctrField_ok _), ctrField_width]

/-! ### Events -/

/-- An event bit that has been set reads 1. -/
theorem State.get_flag_same (s : State) (f : Field) (i j : Nat) (h : f.ok = true) (hw : 0 < f.width) : (s.flag f i j).get f i j = 1 := by
  show (s.set f i 1 j).get f i j = 1
  rw [State.get_set_same _ _ _ _ _ h, Nat.mod_eq_of_lt (Nat.one_lt_two_pow (by omega))]

@[simp] theorem State.flagIf_true (s : State) (f : Field) (i j : Nat) : s.flagIf true f i j = s.flag f i j := rfl
@[simp] theorem State.flagIf_false (s : State) (f : Field) (i j : Nat) : s.flagIf false f i j = s := rfl

/-! ### Registers as commands (R4, R5, R752) -/

theorem State.regCmd_reached (s : State) (m : Master) (b : Blk) (i : Nat) (f : State → State) (h : s.reach m b i = true) :
    s.regCmd m b i f = { f (s.access m) with bus := .written } := by unfold State.regCmd; rw [if_pos h]

theorem State.regCmd_refused (s : State) (m : Master) (b : Blk) (i : Nat) (f : State → State) (h : s.reach m b i = false) :
    s.regCmd m b i f = s.refuseBus m := by unfold State.regCmd; rw [if_neg (by simp [h])]

/-- A refused access changes nothing but the latches of its master and the answer on the bus. -/
theorem State.refuseBus_frame (s : State) (m : Master) :
    s.refuseBus m = { s with latch := (s.refuseBus m).latch, tlatch := (s.refuseBus m).tlatch, bus := (s.refuseBus m).bus } := rfl

/-! ### Engines' queues (R152) -/

/-- An engine that is ready to begin belongs to a core that runs, holds nothing, and its command passes the test. -/
theorem State.ready_some (s : State) (c : Nat) (e : Eng) (ok : Cmd → Bool) (p b : Nat) (q : QCmd) (h : s.ready c e ok = some (p, q, b)) :
    s.running c = true ∧ (s.core c).free e = true ∧ ok q.cmd = true ∧ s.now ≤ b := by
  unfold State.ready at h
  dsimp only at h
  split at h
  · next hr =>
    rw [Bool.and_eq_true] at hr
    refine ⟨hr.1, hr.2, ?_⟩
    split at h
    · split at h
      · next hk => cases h; exact ⟨hk, Nat.le_max_left ..⟩
      · cases h
    · split at h
      · split at h
        · next hk => cases h; exact ⟨hk, Nat.le_max_left ..⟩
        · cases h
      · cases h
  · cases h

/-- Beginning a command in the present ACLK moves no clock: the command leaves its list. -/
theorem State.begin_now (s : State) (c : Nat) (e : Eng) (p : Nat) :
    s.begin_ c e p s.now = s.modCore c (fun x => x.setEng e ((x.eng e).begun p s.now)) := by
  unfold State.begin_; rw [State.setNow_of_le s s.now (Nat.le_refl _)]

/-! ### Packets at a port, and delivered (R314, R315) -/

@[simp] theorem State.inject_same (s : State) (k : Nat) (p : Packet) : lookD [] (s.inject k p).stq k = lookD [] s.stq k ++ [p] :=
  lookD_putD_same ..
theorem State.inject_other (s : State) {k j : Nat} (p : Packet) (h : j ≠ k) : lookD [] (s.inject k p).stq j = lookD [] s.stq j :=
  lookD_putD_other _ _ _ _ _ h
@[simp] theorem State.deliver_same (s : State) (k : Nat) (p : Packet) : lookD [] (s.deliver k p).deliv k = lookD [] s.deliv k ++ [p] :=
  lookD_putD_same ..
theorem State.deliver_other (s : State) {k j : Nat} (p : Packet) (h : j ≠ k) : lookD [] (s.deliver k p).deliv j = lookD [] s.deliv j :=
  lookD_putD_other _ _ _ _ _ h
theorem State.inject_frame (s : State) (k : Nat) (p : Packet) : s.inject k p = { s with stq := (s.inject k p).stq } := rfl
theorem State.deliver_frame (s : State) (k : Nat) (p : Packet) : s.deliver k p = { s with deliv := (s.deliver k p).deliv } := rfl

/-! ### Requests of the host (R602) -/

@[simp] theorem State.respond_resp (s : State) (m code tag status : Nat) (ws : List Nat) :
    (s.respond m code tag status ws).hst.resp = s.hst.resp ++ [(m, (code * 2 ^ 24 + tag * 2 ^ 16 + ws.length * 2 ^ 8 + status) :: ws)] := rfl
theorem State.respond_frame (s : State) (m code tag status : Nat) (ws : List Nat) :
    s.respond m code tag status ws = { s with hst := (s.respond m code tag status ws).hst } := rfl

/-- A request that is taken is the head of its mailbox, and leaves only that queue. -/
theorem State.takeReq_some (s u : State) (m code tag : Nat) (a : List Nat) (h : s.takeReq m code = some (tag, a, u)) :
    m < 16 ∧ s.hubServes = true ∧ (∃ w, s.reqHead m = some (w, a) ∧ bitsOf w 31 24 = code ∧ bitsOf w 23 16 = tag)
      ∧ u = s.setMbxQ (.hubEnd m) ((s.mbxQ (.hubEnd m)).drop (1 + a.length)) := by
  unfold State.takeReq at h
  split at h
  · next h0 =>
    split at h
    · next w b hw =>
      split at h
      · next hc => cases h; exact ⟨h0.1, h0.2, ⟨w, hw, hc, rfl⟩, rfl⟩
      · cases h
    · cases h
  · cases h

@[simp] theorem State.mbxQ_setMbxQ_same (s : State) (e : MbxEnd) (l : List Nat) : (s.setMbxQ e l).mbxQ e = l := lookD_putD_same ..

end Sys2Proof.Machine
end

