-- ==== Sys2Proof/Laws/Registers.lean ====
section
/-! SUPPORT. Laws of a register write by its access codes (R6 to R9). -/

namespace Sys2Proof.Machine

open Sys2Proof

/-- A list of fields whose members lie in a register and share no bit. -/
def fieldsApart : List Field → Bool
  | [] => true
  | f :: l => f.ok && l.all (fun g => f.apart g) && fieldsApart l

/-- No register of the map has overlapping fields, and every field is its own register's. -/
def Reg.sound (r : Reg) : Bool :=
  fieldsApart r.info.fields && r.info.fields.all (fun f => decide (f.reg = r)) && r.info.fields.all (fun f => r.info.wide || decide (f.hi < 32))

theorem Reg.sound_all (r : Reg) : r.sound = true := by cases r <;> decide

theorem Field.apart_comm (f g : Field) : f.apart g = g.apart f := by simp [Field.apart, Bool.or_comm]

theorem fieldsApart_ok {l : List Field} (h : fieldsApart l = true) : ∀ f ∈ l, f.ok = true := by
  induction l with
  | nil => simp
  | cons g l ih =>
    simp only [fieldsApart, Bool.and_eq_true] at h
    intro f hf
    rcases List.mem_cons.mp hf with rfl | hf
    · exact h.1.1
    · exact ih h.2 f hf

/-- Writing a list of fields leaves a field apart from all of them. -/
theorem of_foldl_apart (l : List Field) (val : Field → Nat) (g : Field) (hg : g.ok = true) (hl : ∀ f ∈ l, f.ok = true ∧ f.apart g = true)
    (w : Word) : g.of (l.foldl (fun w f => f.ins w (val f)) w) = g.of w := by
  induction l generalizing w with
  | nil => rfl
  | cons f l ih =>
    simp only [List.foldl_cons]
    rw [ih (fun f hf => hl f (List.mem_cons_of_mem _ hf))]
    exact Field.of_ins_apart f g (hl f (List.mem_cons_self ..)).1 hg (hl f (List.mem_cons_self ..)).2 w _

/-- Writing a list of fields that share no bit gives each its value. -/
theorem of_foldl_ins (l : List Field) (val : Field → Nat) (h : fieldsApart l = true) (g : Field) (hg : g ∈ l) (w : Word) :
    g.of (l.foldl (fun w f => f.ins w (val f)) w) = val g % 2 ^ g.width := by
  induction l generalizing w with
  | nil => simp at hg
  | cons f l ih =>
    simp only [fieldsApart, Bool.and_eq_true, List.all_eq_true] at h
    simp only [List.foldl_cons]
    by_cases hm : g ∈ l
    · exact ih h.2 hm _
    · rcases List.mem_cons.mp hg with rfl | hg
      · rw [of_foldl_apart l val g h.1.1 (fun f hf => ⟨fieldsApart_ok h.2 f hf, by rw [Field.apart_comm]; exact h.1.2 f hf⟩)]
        exact Field.of_ins_same g h.1.1 w _
      · exact absurd hg hm

theorem Field.of_lt (f : Field) (w : Word) : f.of w < 2 ^ f.width := by
  unfold Field.of; exact BitVec.isLt _

theorem Field.written_lt (f : Field) (m : Master) (b : Bool) (o v : Word) : f.written m b o v < 2 ^ f.width := by
  have h1 := Field.of_lt f o
  have h2 := Field.of_lt f v
  unfold Field.written
  split
  · exact h2
  · exact lt_of_le_of_lt Nat.and_le_left h1
  · exact Nat.or_lt_two_pow h1 h2
  · split <;> assumption
  · split <;> assumption
  · exact h1
  · exact h1

/-- What a write leaves in one field of a register. -/
theorem Reg.written_of (r : Reg) (m : Master) (locked : Bool) (old v mask held : Word) (f : Field) (hf : f ∈ r.info.fields) :
    f.of (r.written m locked old v mask held) = f.written m locked old (match f.acc with
      | .w1c => v &&& mask &&& ~~~held
      | .w1s => v &&& mask
      | _ => (v &&& mask) ||| (old &&& ~~~mask)) := by
  have hs := Reg.sound_all r
  simp only [Reg.sound, Bool.and_eq_true] at hs
  have := of_foldl_ins r.info.fields (fun f => f.written m locked old (match f.acc with
      | .w1c => v &&& mask &&& ~~~held
      | .w1s => v &&& mask
      | _ => (v &&& mask) ||| (old &&& ~~~mask))) hs.1.1 f hf old
  rw [Nat.mod_eq_of_lt (Field.written_lt ..)] at this
  exact this

/-- A record of the error log leaves every register but those of the log and of the event rings. -/
def logReg : Reg → Bool
  | .ELOG_STATUS | .ELOG_CNT | .ELOG_PROP | .HUBC_EVQ | .HUBC_EVQ_STAT => true
  | _ => false

/-! ### Resets (R10, R622, R623) -/

theorem fieldsApart_filter (p : Field → Bool) : ∀ l : List Field, fieldsApart l = true → fieldsApart (l.filter p) = true
  | [], _ => rfl
  | f :: l, h => by
    simp only [fieldsApart, Bool.and_eq_true] at h
    by_cases hp : p f = true
    · simp only [List.filter_cons_of_pos hp, fieldsApart, Bool.and_eq_true]
      exact ⟨⟨h.1.1, List.all_eq_true.mpr fun g hg => List.all_eq_true.mp h.1.2 g (List.mem_filter.mp hg).1⟩, fieldsApart_filter p l h.2⟩
    · rw [List.filter_cons_of_neg hp]; exact fieldsApart_filter p l h.2

theorem Reg.fields_apart (r : Reg) : fieldsApart r.info.fields = true := by
  have h := r.sound_all
  simp only [Reg.sound, Bool.and_eq_true] at h
  exact h.1.1

theorem apart_of_mem {l : List Field} (h : fieldsApart l = true) {f g : Field} (hf : f ∈ l) (hg : g ∈ l) (hne : f ≠ g) : f.apart g = true := by
  induction l with
  | nil => simp at hf
  | cons x l ih =>
    simp only [fieldsApart, Bool.and_eq_true, List.all_eq_true] at h
    rcases List.mem_cons.mp hf with hf' | hf'
    · rcases List.mem_cons.mp hg with hg' | hg'
      · exact absurd (hf'.trans hg'.symm) hne
      · exact hf' ▸ h.1.2 g hg'
    · rcases List.mem_cons.mp hg with hg' | hg'
      · rw [Field.apart_comm, hg']; exact h.1.2 f hf'
      · exact ih h.2 hf' hg'

/-- A kept field has its value before. -/
theorem Reg.keptWord_kept (r : Reg) (keep : Field → Bool) (w : Word) (f : Field) (hf : f ∈ r.info.fields) (hk : keep f = true) :
    f.of (r.keptWord keep w) = f.of w := by
  rw [Reg.keptWord, of_foldl_ins _ _ (fieldsApart_filter keep _ r.fields_apart) f (List.mem_filter.mpr ⟨hf, hk⟩), Nat.mod_eq_of_lt (f.of_lt w)]

/-- A field that is not kept has its reset value. -/
theorem Reg.keptWord_reset (r : Reg) (keep : Field → Bool) (w : Word) (f : Field) (hf : f ∈ r.info.fields) (hk : keep f = false) :
    f.of (r.keptWord keep w) = f.of r.resetWord := by
  rw [Reg.keptWord]
  refine of_foldl_apart _ _ f (fieldsApart_ok r.fields_apart f hf) (fun g hg => ?_) _
  have hg := List.mem_filter.mp hg
  exact ⟨fieldsApart_ok r.fields_apart g hg.1, apart_of_mem r.fields_apart hg.1 hf (by rintro rfl; simp [hk] at hg)⟩

theorem find?_keep {K V : Type} [DecidableEq K] (c : K → Bool) (g : K → Option V) (l : List (K × V)) (k : K) :
    find? (l.filterMap (fun p => if c p.1 then (g p.1).map (fun w => (p.1, w)) else some p)) k =
      if c k then (find? l k).bind (fun _ => g k) else find? l k := by
  induction l with
  | nil => simp [find?]
  | cons p l ih =>
    obtain ⟨a, v⟩ := p
    by_cases h : a = k
    · subst h
      by_cases ha : c a = true
      · cases hg : g a with
        | none => simp_all [find?]
        | some w => simp_all [find?]
      · simp_all [find?]
    · by_cases ha : c a = true
      · cases hg : g a with
        | none => simp_all [find?]
        | some w => simp_all [find?]
      · simp_all [find?]

/-- Registers outside the cover keep their words. -/
theorem State.rd_resetRegs_out (s : State) (cover : RKey → Bool) (keep : Field → Bool) (k : RKey) (h : cover k = false) :
    (s.resetRegs cover keep).rd k = s.rd k := by
  simp [State.resetRegs, State.rd, lookD, find?_keep, h]

/-- Registers inside the cover hold their reset word with the kept fields. -/
theorem State.rd_resetRegs_in (s : State) (cover : RKey → Bool) (keep : Field → Bool) (k : RKey) (h : cover k = true) :
    (s.resetRegs cover keep).rd k = k.reg.resetWord ∧ find? s.regs k = none ∨
      (s.resetRegs cover keep).rd k = k.reg.keptWord keep (s.rd k) := by
  cases hk : find? s.regs k with
  | none => left; simp [State.resetRegs, State.rd, lookD, find?_keep, h, hk]
  | some w =>
    right
    have : (s.resetRegs cover keep).rd k = (s.keptEntry keep k).getD k.reg.resetWord := by
      simp [State.resetRegs, State.rd, lookD, find?_keep, h, hk]
    rw [this, State.keptEntry]
    split
    · rename_i h'; rw [Option.getD_none, h']
    · rfl

/-- A kept field of a covered register has its value before, any other field its reset value. -/
theorem State.of_resetRegs_in (s : State) (cover : RKey → Bool) (keep : Field → Bool) (k : RKey) (f : Field) (hf : f ∈ k.reg.info.fields)
    (h : cover k = true) : f.of ((s.resetRegs cover keep).rd k) = if keep f = true then f.of (s.rd k) else f.of k.reg.resetWord := by
  rcases s.rd_resetRegs_in cover keep k h with ⟨h1, h2⟩ | h1
  · rw [h1]
    split
    · simp [State.rd, lookD, h2]
    · rfl
  · rw [h1]
    split
    · rename_i hk; exact Reg.keptWord_kept _ _ _ f hf hk
    · rename_i hk; exact Reg.keptWord_reset _ _ _ f hf (by simpa using hk)

end Sys2Proof.Machine
end

