-- ==== Sys2Proof/WellFormed.lean ====
section
/-! DEFINITION. Well-formed commands: the numbers that name units lie in the ranges the spec gives those units. A command that
is not well formed names a unit that no module has. -/

namespace Sys2Proof

/-- A core ID of the form of 00_scope.md: die, cluster below 48, core in cluster. -/
def coreOk (c : Nat) : Bool := decide (c < 2048) && decide (c / 16 % 64 < 48)
/-- A cluster instance (R758). -/
def clInstOk (c : Nat) : Bool := decide (c < 96)
/-- A die, and a cluster of a die (R1). -/
def dieOk (d : Nat) : Bool := decide (d < 2)
def clOk (c : Nat) : Bool := decide (c < 48)
/-- A port of a cluster router (R313). -/
def portOk (p : Nat) : Bool := decide (p < 5)
/-- A virtual channel (R315). -/
def vcOk (v : Nat) : Bool := decide (v < 4)
/-- A node number of a die (R312). -/
def nodeOk (n : Nat) : Bool := decide (n < 96)
/-- A die bridge and a lane of it (R321). -/
def bridgeOk (b : Nat) : Bool := decide (b < 3)
def laneOk (l : Nat) : Bool := decide (l < 16)
/-- A scratchpad bank (R213). -/
def bankOk (b : Nat) : Bool := decide (b < 6)
/-- An EvPen link (R386), and a link or this module as the origin of a packet. -/
def linkOk (l : Nat) : Bool := decide (l < 36)
def arrivalOk (l : Nat) : Bool := decide (l < 36) || decide (l = 63)
/-- A link, or 36 for the management port (R484, R497). -/
def portLinkOk (l : Nat) : Bool := decide (l < 37)
/-- An MSU (R258), an HBM stack, and a word of the pair map (R298). -/
def msuOk (m : Nat) : Bool := decide (m < 256)
def stackOk (s : Nat) : Bool := decide (s < 8)
def pairWordOk (q : Nat) : Bool := decide (q < 3)
/-- A bank key of HBM with reservations (R269), the MSUs' optimizer queues included. -/
def hbmChanOk (k : Nat) : Bool := decide (k < 0x8000 + 256)
/-- A reduction channel (R448). -/
def rchOk (c : Nat) : Bool := decide (c < 1024)
/-- A master of the register space. -/
def masterOk : Master → Bool
  | .cc c => coreOk c
  | _ => true
/-- A place of the mesh. -/
def placeOk : Place → Bool
  | .node d n => dieOk d && nodeOk n
  | .hub => true
/-- A node of the sync network (R332). -/
def syncOk : SyncNode → Bool
  | .cluster d c => dieOk d && clOk c
  | .row d r => dieOk d && decide (r < 6)
  | .die d => dieOk d
  | .module => true
/-- A hub mailbox (R597). -/
def mailboxOk (m : Nat) : Bool := decide (m < 16)
def endOk : MbxEnd → Bool
  | .hostEnd m => mailboxOk m
  | .hubEnd m => mailboxOk m
  | .coreEnd c => coreOk c
  | .coreHubEnd c => coreOk c
  | .inbox c => coreOk c
/-- A stream window (R290) and a landing window (R350). -/
def streamOk (w : Nat) : Bool := decide (w < 4)
def landOk (w : Nat) : Bool := decide (w < 8)
/-- A word of SU counters (R381), a tie (R201), a hold slot (R335), a barrier slot (R363). -/
def ctrWordOk (q : Nat) : Bool := decide (q < 8)
def tieOk (s : Nat) : Bool := decide (s < 8)
def holdSlotOk (s : Nat) : Bool := decide (s < 16)
def syncSlotOk (s : Nat) : Bool := decide (s < 64)
/-- A task slot (R523). -/
def taskSlotOk (s : Nat) : Bool := decide (s < 64)
/-- A safety channel (R687), and a cross-checked pair (R689): 0 to 13 a rail's current, 16 to 28 a rail's voltage, 48 to 55 a board
thermistor, 60 the flow. -/
def chanOk (c : Nat) : Bool := decide (c < 2)
def pairOk (p : Nat) : Bool := decide (p < 14) || decide (16 ≤ p) && decide (p < 29) || decide (48 ≤ p) && decide (p < 56) || decide (p = 60)
/-- An index of the proposal store (R709). -/
def propOk (n : Nat) : Bool := decide (n < 32)
/-- A register-space offset (R750). -/
def regOffOk (a : Nat) : Bool := decide (a < 0x40000000)

/-- A command whose operands name existing units. -/
def Instr.wellFormed : Instr → Bool
  | .registerWrite m off _ _ => masterOk m && regOffOk off
  | .lowHalfLatchRead m off _ => masterOk m && regOffOk off
  | .timeNowRead m _ => masterOk m
  | .timeFracRead m => masterOk m
  | .ccInstruction core _ => coreOk core
  | .ccInterrupt core => coreOk core
  | .cmdLdt core _ => coreOk core
  | .cmdWr core _ => coreOk core
  | .cmdPush core _ => coreOk core
  | .cmdCpl core _ => coreOk core
  | .cmdQst core _ => coreOk core
  | .vatPushServe cl => clInstOk cl
  | .cmdLink cl _ => clInstOk cl
  | .vatFreeListRebuild cl => clInstOk cl
  | .headSelect core _ _ => coreOk core
  | .idle core _ => coreOk core
  | .wait core _ => coreOk core
  | .waitRelease core _ => coreOk core
  | .waitTimeout core _ => coreOk core
  | .coreTaskAbort core _ => coreOk core
  | .meSweep core _ => coreOk core
  | .meLoad core _ => coreOk core
  | .meMm core _ => coreOk core
  | .dmTload core _ => coreOk core
  | .tloadWritePhase core => coreOk core
  | .writeBufferDrain core bank => coreOk core && bankOk bank
  | .dmTstore core _ => coreOk core
  | .veCvt core _ => coreOk core
  | .veAdd core _ => coreOk core
  | .veMul core _ => coreOk core
  | .veAxpy core _ => coreOk core
  | .veMax core _ => coreOk core
  | .veAffine core _ => coreOk core
  | .veFn core _ => coreOk core
  | .veRsum core _ => coreOk core
  | .veRmax core _ => coreOk core
  | .veRdot core _ => coreOk core
  | .veNorm core _ => coreOk core
  | .veSmax core _ => coreOk core
  | .veDrop core _ => coreOk core
  | .veActb core _ => coreOk core
  | .veNormb core _ => coreOk core
  | .veSmaxb core _ => coreOk core
  | .veUnscale core _ => coreOk core
  | .veSlice core _ => coreOk core
  | .veUnslice core _ => coreOk core
  | .vePhase core => coreOk core
  | .vePhaseComplete core => coreOk core
  | .vePhaseTimeout core => coreOk core
  | .veTieArm m core slot _ => masterOk m && coreOk core && tieOk slot
  | .dmTurn core _ => coreOk core
  | .spdPwrReq m core _ => masterOk m && coreOk core
  | .bankTransitionEnd core bank => coreOk core && bankOk bank
  | .bankServe core bank _ => coreOk core && bankOk bank
  | .bankWrite core bank => coreOk core && bankOk bank
  | .bankAdd core bank => coreOk core && bankOk bank
  | .bankMax core bank => coreOk core && bankOk bank
  | .bankAxpy core bank => coreOk core && bankOk bank
  | .bankInc core bank => coreOk core && bankOk bank
  | .bankG8acc core bank => coreOk core && bankOk bank
  | .bankOpWriteback core bank _ => coreOk core && bankOk bank
  | .dmCopy core => coreOk core
  | .dmGather core _ => coreOk core
  | .dmScatter core _ => coreOk core
  | .dmBankop core => coreOk core
  | .dmFence core => coreOk core
  | .dmRacc core => coreOk core
  | .dmMsu core => coreOk core
  | .dmOpt x => coreOk x.unit
  | .dmStream core => coreOk core
  | .strmWindowEnable m core win _ => masterOk m && coreOk core && streamOk win
  | .dmIssueRequest x => coreOk x.unit
  | .dmResponse x => coreOk x.unit
  | .meshRd at_ _ => placeOk at_
  | .meshWr x => placeOk x.at_
  | .meshOp at_ => placeOk at_
  | .rdata at_ => placeOk at_
  | .ack at_ => placeOk at_
  | .refuse at_ => placeOk at_
  | .bankFull at_ => placeOk at_
  | .resume at_ => placeOk at_
  | .reservationLapse chan => hbmChanOk chan
  | .red at_ => placeOk at_
  | .mcw at_ => placeOk at_
  | .mcack at_ => placeOk at_
  | .reservedPacket at_ => placeOk at_
  | .routerForward die cl port vc _ => dieOk die && clOk cl && portOk port && vcOk vc
  | .mcwForward die cl port => dieOk die && clOk cl && portOk port
  | .routerFault die cl _ port vc dnode => dieOk die && clOk cl && portOk port && vcOk vc && nodeOk dnode
  | .meshDrainComplete die => dieOk die
  | .bridgeCrcRetry bridge lane => bridgeOk bridge && laneOk lane
  | .hbmcPairWrite stack q _ => stackOk stack && pairWordOk q
  | .hbmScrub stack _ _ => stackOk stack
  | .racc x => msuOk x.unit
  | .scale x => msuOk x.unit
  | .fill x => msuOk x.unit
  | .optimizerStep msu _ => msuOk msu
  | .msuOpWriteback msu _ => msuOk msu
  | .signalArrive core => coreOk core
  | .signalRelease core slot => coreOk core && holdSlotOk slot
  | .nodeHeldSignalSend core => coreOk core
  | .lwinEnable m core win _ => masterOk m && coreOk core && landOk win
  | .suSet core => coreOk core
  | .suAdd core => coreOk core
  | .suSignal core => coreOk core
  | .suBarrier core => coreOk core
  | .suCtrWrite m core q _ => masterOk m && coreOk core && ctrWordOk q
  | .barrierArrival node => syncOk node
  | .genMismatchReport slot => syncSlotOk slot
  | .barrierRelease core => coreOk core
  | .realignRelease core => coreOk core
  | .barrierConfig node => syncOk node
  | .linkSignalDetect link => linkOk link
  | .detectTimeout link => linkOk link
  | .laneLock link => linkOk link
  | .trainComplete link => linkOk link
  | .trainTimeout link => linkOk link
  | .exchange link _ => linkOk link
  | .rateResult link _ _ => linkOk link
  | .retrainComplete link _ _ => linkOk link
  | .lossOfSignal link => linkOk link
  | .laneSignalLoss link _ => linkOk link
  | .evlEnWrite m link _ => masterOk m && linkOk link
  | .dataFlitReceive link _ => linkOk link
  | .idleFlitReceive link _ => linkOk link
  | .flitTransmit link => linkOk link
  | .ackTimeout link => linkOk link
  | .creditStall link vc => linkOk link && vcOk vc
  | .linkPacketForward inLink vc => arrivalOk inLink && vcOk vc
  | .hubTagTimeout _ => true
  | .hubMcForward _ => true
  | .linkSignal inLink => arrivalOk inLink
  | .rchSend x => coreOk x.unit
  | .landedReport msu => msuOk msu
  | .rchSignalRelease chan => rchOk chan
  | .rchClose core => coreOk core
  | .rchCloseProceed x => coreOk x.unit
  | .rchCloseTimeout core => coreOk core
  | .tReqSend link => linkOk link
  | .tReq link _ _ _ => linkOk link
  | .tResp link _ _ _ _ _ => linkOk link
  | .announceSend link => portLinkOk link
  | .announce link _ => portLinkOk link
  | .announceTimeout => true
  | .holdMaxExpiry => true
  | .timeSet m _ => masterOk m
  | .cntMismatch => true
  | .freqWindow _ => true
  | .ppsInEdge _ => true
  | .inputLost _ => true
  | .ppsOutEdge => true
  | .ptpMessage _ => true
  | .ethFrameDrop => true
  | .load m => mailboxOk m
  | .loaderRun _ => true
  | .unload m => mailboxOk m
  | .start m _ => mailboxOk m
  | .residentTaskStart => true
  | .ccExit core _ => coreOk core
  | .taskEnd slot => taskSlotOk slot
  | .hubTaskAbort slot => taskSlotOk slot
  | .takeoverDecision slot => taskSlotOk slot
  | .kill m => mailboxOk m
  | .switchOut m => mailboxOk m
  | .switchSyncDrained x => taskSlotOk x.slot && coreOk x.core && decide (x.row < 1024)
  | .switchTimeout slot => taskSlotOk slot
  | .restore m => mailboxOk m
  | .commit m => mailboxOk m
  | .discard m => mailboxOk m
  | .specCfg m => mailboxOk m
  | .ccCkptDone core _ => coreOk core
  | .checkpointComplete slot => taskSlotOk slot
  | .energyAccrual _ _ _ => true
  | .identify m => mailboxOk m
  | .eventRing m => mailboxOk m
  | .attest m _ => mailboxOk m
  | .cert m => mailboxOk m
  | .unlock m _ => mailboxOk m
  | .testUnlock m _ => mailboxOk m
  | .tokenLapse => true
  | .mbxTxWrite m mb _ => masterOk m && endOk mb
  | .mbxRxRead m mb => masterOk m && endOk mb
  | .mbxDbRing m mb _ => masterOk m && endOk mb
  | .doorbellDeliver => true
  | .hostDoorbell core _ => coreOk core
  | .clusterInboxWrite core _ _ => coreOk core
  | .clusterDoorbell core _ _ => coreOk core
  | .mbxHirq core _ => coreOk core
  | .mbxResponse m => mailboxOk m
  | .evqHeadWrite m ring _ => masterOk m && mailboxOk ring
  | .bar4Access _ _ _ _ _ _ => true
  | .completionTimeout _ => true
  | .flr => true
  | .dataLinkDown => true
  | .perstAssert => true
  | .mgmtStatus => true
  | .mgmtTelemetry => true
  | .mgmtIdentity => true
  | .mgmtMbxWrite _ => true
  | .mgmtMbxRead _ => true
  | .mgmtDoorbell => true
  | .mgmtQueueStatus => true
  | .telemetryRefresh => true
  | .chStatus => true
  | .chProgram _ _ _ => true
  | .chSetOwner _ => true
  | .chRead _ _ _ => true
  | .chClearCount => true
  | .chRestart => true
  | .powerPhase _ => true
  | .backupPhase => true
  | .firmwarePhase _ _ => true
  | .configPhase _ _ => true
  | .selftestPhase _ => true
  | .diesPhase _ => true
  | .linksPhase => true
  | .neighbourPhase => true
  | .timePhase => true
  | .readyPhase => true
  | .phaseTimeout _ => true
  | .helloSend link => linkOk link
  | .hello link _ => linkOk link
  | .heartbeatSend => true
  | .heartbeat _ _ => true
  | .silent _ => true
  | .register _ => true
  | .regAck slot _ => taskSlotOk slot
  | .registerTimeout slot => taskSlotOk slot
  | .unregister _ slot => taskSlotOk slot
  | .takeover _ => true
  | .takeAck slot _ => taskSlotOk slot
  | .isolate _ _ => true
  | .isolateAck _ _ => true
  | .isolateTimeout => true
  | .aliasMsg link _ _ _ => linkOk link
  | .powerOnReset => true
  | .brownOut _ => true
  | .pinReset _ => true
  | .hubWatchdogExpiry => true
  | .hwdogWarn => true
  | .rstHwdogKick m _ => masterOk m
  | .hubLockup => true
  | .clockMonitorWindow _ => true
  | .warmResetRequest m _ => masterOk m
  | .debugReset => true
  | .coreWatchdogExpiry core => coreOk core
  | .ccWdogWrite m core _ => masterOk m && coreOk core
  | .coreLockup core _ => coreOk core
  | .coreResetDrainEnd core => coreOk core
  | .resetRelease => true
  | .prsntMate => true
  | .efuseSoftStart => true
  | .softStartComplete => true
  | .prsntBreak => true
  | .withdrawRailsDischarged => true
  | .efuseShort _ => true
  | .efuseOvercurrent _ => true
  | .efuseSustained _ => true
  | .efuseOvervoltage _ => true
  | .efuseUndervoltage _ => true
  | .undervoltageReclose => true
  | .powerSample _ _ => true
  | .shedEnd => true
  | .railFault _ => true
  | .clusterIdleOff cl => clInstOk cl
  | .clusterPowerGood cl => clInstOk cl
  | .coolantSample _ _ _ _ => true
  | .valveStep => true
  | .valveFault => true
  | .railSample _ _ _ => true
  | .hazInput ch _ => chanOk ch
  | .hazRailOv ch _ _ => chanOk ch
  | .hazRailOc ch _ _ => chanOk ch
  | .hazDieOt ch _ _ => chanOk ch
  | .hazHbmOt ch _ _ => chanOk ch
  | .hazCoolant ch _ _ => chanOk ch
  | .hazXchk ch pair _ _ => chanOk ch && pairOk pair
  | .hazChannel ch => chanOk ch
  | .hazFabric inLink vc => arrivalOk inLink && vcOk vc
  | .safetyHeartbeatSend ch => chanOk ch
  | .safetyHeartbeat ch _ _ _ => chanOk ch
  | .safeAck => true
  | .safeAckTimeout => true
  | .safeRearm m _ => masterOk m
  | .rearmPin => true
  | .propClearAll m => masterOk m
  | .persClear m => masterOk m
  | .propClearIndex m n => masterOk m && propOk n
  | .pmonGfreezeWrite m _ => masterOk m
  | .pmonCntWrite m _ _ _ _ => masterOk m
  | .debugUnlockExpiry => true
  | .pcieLinkUp => true
  | .d3hotTransition _ => true
  | .ref10mInQualified => true
  | .ptpSourceLoss => true
  | .thermalSensorSample _ _ => true
  | .p3v3AuxLoss => true
  | .supercapacitorHoldExpiry => true
  | .pllLockLoss _ => true
  | .detectRetry link => linkOk link
  | .ppsTermEnChange _ => true

end Sys2Proof
end

