-- ==== Sys2Proof/Tests/Slice0.lean ====
section
/-! SUPPORT. The model's own tests: ill-formed commands are refused, examples of the spec, and for every statement a state that meets
its hypotheses. -/

namespace Sys2Proof.Tests

set_option Elab.async false

open Sys2Proof Sys2Proof.Machine

/-! ### Ill-formed commands are refused by the check -/

theorem test_wf_core : (Instr.meSweep (16 * 48) .ok).wellFormed = false := by decide
theorem test_wf_cluster : (Instr.vatPushServe 96).wellFormed = false := by decide
theorem test_wf_die : (Instr.routerForward 2 0 0 0 false).wellFormed = false := by decide
theorem test_wf_cl : (Instr.routerForward 0 48 0 0 false).wellFormed = false := by decide
theorem test_wf_port : (Instr.routerForward 0 0 5 0 false).wellFormed = false := by decide
theorem test_wf_vc : (Instr.routerForward 0 0 0 4 false).wellFormed = false := by decide
theorem test_wf_node : (Instr.meshWr ⟨(.node 0 96), .ok⟩).wellFormed = false := by decide
theorem test_wf_bridge : (Instr.bridgeCrcRetry 3 0).wellFormed = false := by decide
theorem test_wf_lane : (Instr.bridgeCrcRetry 0 16).wellFormed = false := by decide
theorem test_wf_bank : (Instr.writeBufferDrain 0 6).wellFormed = false := by decide
theorem test_wf_link : (Instr.detectTimeout 36).wellFormed = false := by decide
theorem test_wf_arrival : (Instr.linkSignal 62).wellFormed = false := by decide
theorem test_wf_port_link : (Instr.announceSend 37).wellFormed = false := by decide
theorem test_wf_msu : (Instr.racc ⟨256, .ok⟩).wellFormed = false := by decide
theorem test_wf_stack : (Instr.hbmcPairWrite 8 0 0).wellFormed = false := by decide
theorem test_wf_pair_word : (Instr.hbmcPairWrite 0 3 0).wellFormed = false := by decide
theorem test_wf_hbm_channel : (Instr.reservationLapse (0x8000 + 256)).wellFormed = false := by decide
theorem test_wf_rch : (Instr.rchSignalRelease 1024).wellFormed = false := by decide
theorem test_wf_master : (Instr.timeFracRead (.cc 2048)).wellFormed = false := by decide
theorem test_wf_offset : (Instr.registerWrite .hub 0x40000000 .w32 0).wellFormed = false := by decide
theorem test_wf_sync_node : (Instr.barrierArrival (.row 0 6)).wellFormed = false := by decide
theorem test_wf_mailbox : (Instr.mbxRxRead .hub (.hubEnd 16)).wellFormed = false := by decide
theorem test_wf_stream : (Instr.strmWindowEnable .hub 0 4 0).wellFormed = false := by decide
theorem test_wf_landing : (Instr.lwinEnable .hub 0 8 0).wellFormed = false := by decide
theorem test_wf_tie : (Instr.veTieArm .hub 0 8 0).wellFormed = false := by decide
theorem test_wf_hold_slot : (Instr.signalRelease 0 16).wellFormed = false := by decide
theorem test_wf_counters : (Instr.suCtrWrite .hub 0 8 0).wellFormed = false := by decide
theorem test_wf_sync_slot : (Instr.genMismatchReport 64).wellFormed = false := by decide
theorem test_wf_task : (Instr.taskEnd 64).wellFormed = false := by decide
theorem test_wf_channel : (Instr.hazChannel 2).wellFormed = false := by decide
theorem test_wf_pair : (Instr.hazXchk 0 14 0 0).wellFormed = false := by decide
theorem test_wf_proposal : (Instr.propClearIndex .hub 32).wellFormed = false := by decide

/-! ### Small states -/

/-- Cluster 0 is on, core 0 runs, the hub serves; the clock stands at 100. -/
def base : State :=
  { (((State.reset.set F.PWR_CDOM_PG_PG 0 1).set F.CC_STATE_STATE 0 1).set F.NVCF_STATUS_PHASE 0 9).set F.PCIE_STATUS_DL_ACTIVE 0 1 with now := 100 }

/-- A command of one iteration from its opcode and fields: byte, low bit, value (R143). -/
def mkCmd (op : Nat) (l : List (Nat × Nat × Nat)) : Cmd :=
  BitVec.ofNat 512 (l.foldl (fun n p => n + p.2.2 * 2 ^ (8 * p.1 + p.2.1)) (op + 2 ^ 64 + 2 ^ 80 + 2 ^ 96 + 2 ^ 112))

/-- `base` with a command at the head of an engine of core 0. -/
def headed (e : Eng) (q : Cmd) : State :=
  base.modCore 0 (fun x => x.setEng e { (x.eng e).setList 0 [⟨q, 0, 0, 0⟩] with head := some 0 })

/-- `base` with the 32-bit instruction `w` at the pc of core 0. -/
def coded (w : Nat) : State := base.modCore 0 (fun x => { x with code := putBytes [] 0 (leBytes 4 w) })

/-- The state after a command. -/
def nx (i : Instr) (s : State) : State := match exec i s with
  | .next t => t
  | _ => State.reset

/-! ### Witnesses: registers and the control core -/

theorem wit_RegisterWriteAccessCodes : ∃ (s : State) (m : Master) (off : Nat) (p : RegPlace), placeAt m off = some p ∧ p.hit.high = false ∧
    off % (if p.hit.reg.info.wide then 8 else 4) = 0 ∧ ownWrite p.hit.reg = false ∧ s.placeReach m p = true ∧
    s.mgmtPage m (mbxEndOf p.inst p.hit.idx) = false := ⟨base, .hub, 0x3014010, _, rfl, by decide⟩

theorem wit_LockedFieldWrite : ∃ (s : State) (k : RKey) (v : Word) (f : Field), f ∈ k.reg.info.fields ∧ f.acc = .rwl ∧
    s.locked k.reg.info.blk = true ∧ f.of v ≠ f.of (s.rd k) :=
  ⟨{ State.reset with started := true }, ⟨.PWR_CFG, 0, 0⟩, BitVec.ofNat 64 (2 ^ 64 - 1), F.PWR_CFG_LIMIT, by decide⟩

theorem wit_AccessesAndLatch_narrow : (nx (.registerWrite .host 0x3014010 .w32 1) base).bus ≠ .unsupported ∧
    (nx (.registerWrite .host 0x3014010 .w8 1) base).bus = .unsupported ∧ (nx (.lowHalfLatchRead .hub 0x3014012 .w32) base).bus = .busError := by
  decide +kernel

theorem wit_AccessesAndLatch_low : ∃ p, placeAt .hub 0x3014010 = some p ∧ p.hit.high = false ∧ p.hit.reg.info.wide = true ∧ p.hit.reg ≠ .TIME_NOW ∧
    base.placeReach .hub p = true := ⟨_, rfl, by decide⟩

/-- The hub holds the latch of a high half. -/
def latched : State := { base with latch := [(Master.hub.code, ⟨.THM_LIM, 0, 0⟩, 7)] }

theorem wit_AccessesAndLatch_high : (∃ p, placeAt .hub 0x3014014 = some p ∧ p.hit.high = true ∧ p.hit.reg = .THM_LIM ∧ latched.placeReach .hub p = true ∧
    latched.latch = [(Master.hub.code, p.key, 7)]) ∧ (nx (.lowHalfLatchRead .hub 0x3014014 .w32) latched).bus = .value 7 :=
  ⟨⟨_, rfl, by decide⟩, by decide +kernel⟩

theorem wit_TimeNowAndFraction : base.reach .hub .TIME 0 = true ∧
    ({ base with tlatch := [(Master.hub.code, 5, 6, true)] } : State).reach .hub .TIME 0 = true := by decide +kernel

/-- LDT, WR, PUSH, CPL and QST as 32-bit words (R140): opcode 0x0B with funct3 0 to 4. -/
theorem wit_StagingInstructions : (coded 0x0B).ccReady 0 = true ∧ ((coded 0x0B).core 0).fetch = some (0x0B, 4) ∧ customOp 0x0B = some 0 ∧
    ((coded 0x100B).core 0).fetch = some (0x100B, 4) ∧ customOp 0x100B = some 1 ∧ customOp 0x300B = some 3 ∧ customOp 0x400B = some 4 ∧
    (coded 0x100B).ccReady 0 = true ∧ ((nx (.cmdLdt 0 .ok) (coded 0x0B)).core 0).getCs 0 = 0x0B ∧ ((nx (.cmdWr 0 .ok) (coded 0x100B)).core 0).pc = 4 := by
  decide +kernel

theorem wit_TrapsAndInterrupts_trap : (base.core 0).debug = false ∧ (base.core 0).pc < 0x10000 ∧ (2 : Nat) < 256 := by decide +kernel
theorem wit_TrapsAndInterrupts_debug : ((base.modCore 0 (fun x => { x with debug := true })).core 0).debug = true := by decide +kernel

/-- Core 0 takes an interrupt: a mailbox word for it waits. -/
def irqState : State :=
  (base.setMbxQ (.coreEnd 0) [1]).modCore 0 (fun x => { x with mstatus := mMIE, mie := mMEIE })

theorem wit_TrapsAndInterrupts_irq : irqState.running 0 = true ∧ 1 ≤ irqState.get F.CC_STATE_STATE 0 ∧ irqState.get F.CC_STATE_STATE 0 ≤ 3 ∧
    (irqState.core 0).push = none ∧ irqState.irqPending 0 = true ∧ (irqState.core 0).mstatus &&& mMIE ≠ 0 ∧ (irqState.core 0).mie &&& mMEIE ≠ 0 ∧
    ((nx (.ccInterrupt 0) irqState).core 0).mcause = 0x800000000000000B := by decide +kernel

/-- ADD x3, x1, x2, and C.LI x8, 1. -/
theorem wit_IntegerInstructions : (coded 0x002081B3).ccReady 0 = true ∧ ((coded 0x002081B3).core 0).fetch = some (0x002081B3, 4) ∧
    0x002081B3 % 128 = 0x33 ∧ customOp 0x002081B3 = none ∧ ((coded 0x4405).core 0).fetch = some (0x4405, 2) ∧ (expandC 0x4405).isSome = true ∧
    (coded 0x4405).get F.CC_STATE_STATE 0 = 1 ∧ ((nx (.ccInstruction 0 .ok) (coded 0x4405)).core 0).xreg 8 = 1 ∧
    ((nx (.ccInstruction 0 .ok) (coded 0x4405)).core 0).pc = 2 := by decide +kernel

/-- LB x1, 0(x2) and SB x1, 0(x2) with x2 at the window of core 0. -/
def memState (w : Nat) : State := (coded w).modCore 0 (fun x => x.setX 2 (BitVec.ofNat 64 (winBase 0)))

theorem wit_CcLoadsAndStores_load : (memState 0x00010083).ccReady 0 = true ∧ ((memState 0x00010083).core 0).fetch = some (0x00010083, 4) ∧
    0x00010083 % 128 = 0x03 ∧ inWindow 0 (((memState 0x00010083).core 0).xreg 2 + immI 0x00010083).toNat 1 = true ∧
    (memState 0x00010083).rangeOn 0 0 1 = true ∧ (memState 0x00010083).windowServes 0 .cc 0 [(0, 1)] = true ∧ (memState 0x00010083).inj = [] ∧
    ((nx (.ccInstruction 0 .ok) (memState 0x00010083)).core 0).pc = 4 := by decide +kernel

theorem wit_CcLoadsAndStores_store : ((memState 0x00210023).core 0).fetch = some (0x00210023, 4) ∧ 0x00210023 % 128 = 0x23 ∧
    inWindow 0 (((memState 0x00210023).core 0).xreg 2 + immS 0x00210023).toNat 1 = true ∧ (memState 0x00210023).windowServes 0 .cc 0 [(0, 1)] = true ∧
    ((nx (.ccInstruction 0 .ok) (memState 0x00110023)).core 0).pc = 4 := by decide +kernel

/-- The next byte of the window, one past its end, and a bank that is off. -/
def edgeState (x : Nat) : State := (coded 0x00011083).modCore 0 (fun y => y.setX 2 (BitVec.ofNat 64 x))

theorem wit_CcLoadsAndStores_traps : (nx (.ccInstruction 0 .ok) (edgeState (winBase 0 + 1))).get F.CC_TRAP_CAUSE 0 = 4 ∧
    (nx (.ccInstruction 0 .ok) (edgeState 0)).get F.CC_TRAP_CAUSE 0 = 5 ∧
    ((edgeState (winBase 0)).setSub F.SPD_PWR_STATE 0 0 2 2).rangeOn 0 0 2 = false ∧
    (nx (.ccInstruction 0 .ok) ((edgeState (winBase 0)).setSub F.SPD_PWR_STATE 0 0 2 2)).get F.CC_TRAP_CAUSE 0 = 5 := by decide +kernel

/-! ### Witnesses: queues -/

theorem wit_PushAndLink_push : (coded 0x200B).ccReady 0 = true ∧ ((coded 0x200B).core 0).fetch = some (0x200B, 4) ∧ customOp 0x200B = some 2 ∧
    (coded 0x200B).vatEmpty 0 = false ∧ (coded 0x200B).vatQuota 0 = false ∧ ((nx (.cmdPush 0 .ok) (coded 0x200B)).vat 0).waiting = [0] := by decide +kernel

/-- No vat cell is free. -/
def fullVat : State := (coded 0x200B).set F.VAT_FREE_FREE 0 0

theorem wit_PushAndLink_stall : fullVat.ccReady 0 = true ∧ (fullVat.core 0).fetch = some (0x200B, 4) ∧ fullVat.vatEmpty 0 = true ∧
    (nx (.cmdPush 0 .ok) fullVat).get F.CC_STATE_STATE 0 = 2 := by decide +kernel

/-- A push waits at the vat. -/
def pushing : State := (base.modCore 0 (fun x => { x with push := some ⟨mkCmd 0 [], 1, false⟩ })).setVat 0 { base.vat 0 with waiting := [0] }

theorem wit_PushAndLink_serve : pushing.clusterOn 0 = true ∧ cluInst 0 = 0 ∧ 0 = coreId 0 (corein 0) ∧ (pushing.vat 0).rebuild = false ∧
    ((pushing.at_ 101).vat 0).waiting = [0] ∧ ((pushing.at_ 101).core 0).push = some ⟨mkCmd 0 [], 1, false⟩ ∧ (pushing.at_ 101).vatEmpty 0 = false ∧
    (pushing.at_ 101).vatQuota 0 = false ∧ (pushing.at_ 101).get F.VAT_QUOTA_USED 0 (corein 0) < 8192 ∧
    (nx (.vatPushServe 0) pushing).get F.VAT_FREE_FREE 0 = 8191 := by decide +kernel

/-- A served push waits for its link. -/
def linking : State := base.setVat 0 { base.vat 0 with served := [⟨0, 0, 0, ⟨mkCmd 0 [], 0, 0, 0⟩, 104⟩] }

theorem wit_PushAndLink_link : linking.clusterOn 0 = true ∧ (linking.vat 0).served = [⟨0, 0, 0, ⟨mkCmd 0 [], 0, 0, 0⟩, 104⟩] ∧
    ((nx (.cmdLink 0 .ok) linking).core 0).me.q0 = [⟨mkCmd 0 [], 0, 0, 0⟩] ∧
    (nx (.cmdLink 0 .link) linking).get F.CC_TASK_STATUS_CAUSE (coreId 0 15) = 7 := by decide +kernel

/-- A rebuild waits for the queues of the cluster, which are empty. -/
def rebuilding : State := base.setVat 0 { base.vat 0 with rebuild := true }

theorem wit_PushAndLink_rebuild : rebuilding.clusterOn 0 = true ∧ (rebuilding.vat 0).rebuild = true ∧
    (∀ n < 16, (rebuilding.core (coreId 0 n)).unfinished = []) ∧ ((nx (.vatFreeListRebuild 0) rebuilding).vat 0).rebuild = false := by decide +kernel

/-- An IDLE in the first list of the ME, not yet head. -/
def queued : State := base.modCore 0 (fun x => { x with me := { x.me with q0 := [⟨mkCmd 0 [], 0, 0, 0⟩] } })

theorem wit_QueueHeadsAndAbort_select : queued.running 0 = true ∧ queued.bpEngine 0 .me = false ∧ queued.inj = [] ∧
    (queued.core 0).choice .me = some (0, ⟨mkCmd 0 [], 0, 0, 0⟩) ∧ ((queued.core 0).eng .me).head = none ∧
    ((nx (.headSelect 0 .me .ok) queued).core 0).me.head = some 0 ∧ (nx (.headSelect 0 .me .cell) queued).get F.CC_TASK_STATUS_ABORTED 0 = 1 := by
  decide +kernel

theorem wit_QueueHeadsAndAbort_begin : (.idle 0 .me, Eng.me, fun k => !(engDefined .me (Cmd.opcode k))) ∈ beginsOf 0 ∧
    ((headed .me (mkCmd 0 [])).modCore 0 (fun x => { x with me := { x.me with headSince := 100 } })).ready 0 .me
      (fun k => !(engDefined .me (Cmd.opcode k))) = some (0, ⟨mkCmd 0 [], 0, 0, 0⟩, 104) := ⟨by simp [beginsOf], by decide +kernel⟩

theorem wit_QueueHeadsAndAbort_idle : (headed .me (mkCmd 0 [])).ready 0 .me (fun k => !(engDefined .me (Cmd.opcode k))) = some (0, ⟨mkCmd 0 [], 0, 0, 0⟩, 100) ∧
    Cmd.opcode (mkCmd 0 []) = 0 ∧ Cmd.hdrRsv (mkCmd 0 []) = 0 ∧ (BitVec.extractLsb' 128 384 (mkCmd 0 [])).toNat = 0 ∧
    (headed .me (mkCmd 0x7F [])).ready 0 .me (fun k => !(engDefined .me (Cmd.opcode k))) = some (0, ⟨mkCmd 0x7F [], 0, 0, 0⟩, 100) ∧
    (nx (.idle 0 .me) (headed .me (mkCmd 0x7F []))).get F.ME_EVT_ILLEGAL 0 = 1 := by decide +kernel

/-- A core that an abort has reached. -/
def aborted : State := queued.modCore 0 (fun x => { x with abort := some 1 })

theorem wit_QueueHeadsAndAbort_abort : (aborted.core 0).abort = some 1 ∧
    (aborted.core 0).dmCmds.filter (fun d => decide (Cmd.opcode d.q.cmd = 0x1A) && decide (0 < d.open_)) = [] ∧ (base.core 0).abort ≠ some 1 ∧
    ((nx (.coreTaskAbort 0 1) aborted).core 0).me.all = [] := by decide +kernel

/-- A WAIT on counter 0 for the value 1, with and without a limit, begun in ACLK 4 or to begin. -/
def waitCmd (limit : Nat) : Cmd := mkCmd 0x0F [(18, 0, 1), (20, 0, limit)]
def held (limit ctr : Nat) : State :=
  (base.setCtr 0 0 ctr).modCore 0 (fun x => { x with su := { x.su with hold := some ⟨waitCmd limit, 0, 0, 4⟩ } })

theorem wit_WaitLifecycle_begin : (headed .su (waitCmd 0)).ready 0 .su (fun k => decide (Cmd.opcode k = 0x0F)) = some (0, ⟨waitCmd 0, 0, 0, 0⟩, 100) ∧
    waitIllegal (waitCmd 0) = false ∧ (headed .su (mkCmd 0x0F [(17, 0, 3)])).ready 0 .su (fun k => decide (Cmd.opcode k = 0x0F)) =
      some (0, ⟨mkCmd 0x0F [(17, 0, 3)], 0, 0, 0⟩, 100) ∧ Cmd.f (mkCmd 0x0F [(17, 0, 3)]) 17 1 0 = 3 := by decide +kernel

theorem wit_WaitLifecycle_release : (held 0 1).running 0 = true ∧ (held 0 1).waitHeld 0 .su = some ⟨waitCmd 0, 0, 0, 4⟩ ∧
    waitCond (waitCmd 0) ((held 0 1).waitValueNow 0 (waitCtr (waitCmd 0))) = true ∧ waitLimit (waitCmd 0) = 0 ∧
    (held 0 1).streamWins 0 (waitCtr (waitCmd 0)) = [] ∧ waitConsume (waitCmd 0) = false ∧
    ((nx (.waitRelease 0 .su) (held 0 1)).core 0).su.lastEntry = 102 := by decide +kernel

theorem wit_WaitLifecycle_timeout : (held 2 0).waitHeld 0 .su = some ⟨waitCmd 2, 0, 0, 4⟩ ∧ waitLimit (waitCmd 2) = 2 ∧
    ((held 2 0).at_ 2053).running 0 = true ∧ waitCond (waitCmd 2) (((held 2 0).at_ 2053).waitValueNow 0 (waitCtr (waitCmd 2))) = false ∧
    Cmd.doneEn (waitCmd 2) = false ∧ (nx (.waitTimeout 0 .su) (held 2 0)).get F.CC_TASK_STATUS_CAUSE 0 = 6 := by decide +kernel

/-! ### Witnesses: the matrix and vector engines and the tiles -/

/-- The deckle of 16 rows of 16 BF16 elements, and an ME command that streams tile 1 against tile 0 into the ACB. -/
def dk16 : Nat := 7 * 2 ^ 28 + 15 * 2 ^ 24 + 31 * 2 ^ 18 + 256
def meCmd (op slices : Nat) : Cmd := mkCmd op [(4, 0, dk16), (16, 0, dk16), (20, 8, 1), (20, 24, 1), (20, 28, slices)]

/-- Tiles 0 and 1 tagged; a block in the arrays. -/
def tiled : State :=
  ((((base.set F.TRF_TAG_TAGGED 0 1 0).set F.TRF_TAG_TAG 0 dk16 0).set F.TRF_TAG_TAGGED 0 1 1).set F.TRF_TAG_TAG 0 dk16 1).modCore 0
    (fun x => { x with blk := some ⟨0, 7, 16, 16, List.replicate 16 (List.replicate 32 1), []⟩ })

def meF (op : Nat) : MeFly := { q := ⟨meCmd op 0, 0, 0, 0⟩, op := op, hw := .ok, todo := [], last := 132, frozen := none }
def actLoad : MeAct := { load := true, at_ := 100, n := 0, tile := 0 }
def actRow : MeAct := { load := false, at_ := 117, n := 0, tile := 1 }

theorem wit_MatrixPass_timeline : (meFmt (meCmd 1 0)).isSlice = false ∧ (meTimeline (meCmd 1 0) 1 100 0).2 = 133 ∧
    (meFmt (mkCmd 1 [(4, 0, 12 * 2 ^ 28)])).isSlice = true ∧ 0 < Cmd.loop (mkCmd 1 [(4, 0, 12 * 2 ^ 28)]) 0 := by decide +kernel

theorem wit_MatrixPass_load : tiled.inj = [] ∧ (meF 1).hw = .ok ∧ actLoad.load = true ∧ meInAcb (meF 1).q.cmd 0 = true ∧
    (tiled.tileCheck 0 (actLoad.tile / 2) (meShape (meF 1).q.cmd) (32 * (actLoad.tile % 2)) 100).bad = false ∧
    (tiled.meAct 0 (meF 1) actLoad 100).1.get F.ME_STATUS_LOADED 0 = 1 := by decide +kernel

theorem wit_MatrixPass_stream : actRow.load = false ∧ (meF 1).op ≠ 2 ∧ (meF 1).dead = none ∧ (tiled.core 0).blk ≠ none ∧
    (tiled.tileCheck 0 actRow.tile (Cmd.deckle (meF 1).q.cmd) 0 117).bad = false ∧ (tiled.meAct 0 (meF 1) actRow 117).2.rows.length = 16 := by
  decide +kernel

theorem wit_MatrixPass_refused : (base.tileCheck 0 1 dk16 0 117).bad = true ∧ (meF 1).stop = none ∧
    (base.meAct 0 (meF 1) actRow 117).2.stop = some (2, 0, 117) ∧ (base.meAct 0 (meF 1) actRow 117).1.get F.ME_EVT_SHAPE_FAULT 0 = 1 := by decide +kernel

/-- A result row of two columns, 1.0 and 2.0, at ACB byte 64; the same with a failed comparison. -/
def row64 : MeRow := ⟨117, 0, 1, 1, 0, 64, [0x3F800000, 0x40000000], 2, false, false, false, 1, 0, false, false, false, none⟩

theorem wit_MatrixPass_write : (meFmt (meCmd 1 0)).isSlice = false ∧ row64.k0 = false ∧ row64.vals.length = row64.nExt ∧ row64.addr + 64 ≤ 0x40000 ∧
    (tiled.meWriteRow 0 (meCmd 1 0) row64).1.winNat 0 0xC0044 4 = 0x40000000 := by decide +kernel

theorem wit_MatrixPass_fails : ({ row64 with diff := some 3 } : MeRow).diff = some 3 ∧ (meF 1).ended = false ∧
    tiled.get F.CC_TASK_STATUS_ABORTED 0 = 0 ∧ Cmd.doneEn (meF 1).q.cmd = false ∧ (∀ n < 8, tiled.get F.VE_TIE_ARMED 0 n = 0) ∧
    (tiled.meCompare 0 (meF 1) { row64 with diff := some 3 }).2.2.isSome = true := by decide +kernel

theorem wit_MatrixPass_completes : let s := tiled.modCore 0 (fun x => { x with meFly := [meF 1] })
    (s.core 0).meFly = [meF 1] ∧ (meF 1).cut = none ∧ (meF 1).completeAt = 173 := by decide +kernel

/-- A tile load of tile 2 from the window's start, and its gathered rows. -/
def loadCmd : Cmd := mkCmd 0x10 [(4, 0, dk16), (20, 0, 1), (22, 0, 2)]
def gathered : State := base.modCore 0 (fun x => { x with staged := [⟨2, dk16, List.replicate 16 (List.replicate 64 7), 0, true, 0, 90⟩] })

theorem wit_TileLoadAndStore_gather : (headed .dm loadCmd).ready 0 .dm (fun k => decide (Cmd.opcode k = 0x10)) = some (0, ⟨loadCmd, 0, 0, 0⟩, 100) ∧
    tcIllegal loadCmd = false ∧ Cmd.iters loadCmd = 1 ∧ (headed .dm loadCmd).tcBad 0 loadCmd 0 = false ∧
    (headed .dm loadCmd).windowServes 0 .dm 100 ((tcRanges loadCmd 0).map (fun r => (r.1.toNat, r.2))) = true ∧
    ((nx (.dmTload 0 .ok) (headed .dm loadCmd)).core 0).staged.length = 1 := by decide +kernel

theorem wit_TileLoadAndStore_phase : gathered.running 0 = true ∧ (gathered.core 0).phase = [] ∧ (gathered.core 0).dmEnd ≤ gathered.now ∧
    (gathered.core 0).lockedUntil 2 gathered.now = none ∧ gathered.get F.PERT_SLIP_EN 0 = 0 ∧
    (nx (.tloadWritePhase 0) gathered).get F.TRF_TAG_TAG 0 2 = dk16 ∧ ((nx (.tloadWritePhase 0) gathered).core 0).phase.length = 16 := by decide +kernel

theorem wit_TileLoadAndStore_row : ((base.core 0).loadRow 63 15 100 (List.replicate 64 7)).1.tileByte 63 15 63 = 7 ∧ (base.core 0).wbuf = [] := by
  decide +kernel

/-- A tile store of tile 1 to the window's start, begun, and its row 0 due. -/
def storeCmd : Cmd := mkCmd 0x11 [(4, 0, dk16), (20, 0, 1), (22, 0, 1)]
def storing : State := tiled.modCore 0 (fun x => { x with store := some { id := 0, cmd := storeCmd, hw := .ok, at_ := 100, since := 100 },
                                                          trf := putBytes [] 1024 [1, 2, 3] })

theorem wit_TileLoadAndStore_store : (headed .dm storeCmd).ready 0 .dm (fun k => decide (Cmd.opcode k = 0x11)) = some (0, ⟨storeCmd, 0, 0, 0⟩, 100) ∧
    tcIllegal storeCmd = false ∧ ((headed .dm storeCmd).core 0).loading = false ∧ ((nx (.dmTstore 0 .ok) (headed .dm storeCmd)).core 0).store.isSome = true ∧
    (storing.core 0).stopped = false ∧ storing.tcBad 0 storeCmd 0 = false ∧ (storing.tileCheck 0 (tcTile storeCmd 0) (Cmd.deckle storeCmd) 0 100).bad = false ∧
    storing.windowServes 0 .dm 100 [((tcRow storeCmd 0 0).toNat, dkRbytes (Cmd.deckle storeCmd))] = true ∧ (storing.core 0).abort = none ∧
    (storing.storeTick 0 100 []).readByte (winBase 0 + 2) = 3 := by decide +kernel

/-- A DM_TURN of the first FP64 block, in place, with rows 64 bytes apart. -/
def turnCmd : Cmd := mkCmd 0x12 [(16, 28, 10), (20, 28, 10), (24, 0, 4), (26, 0, 1)]
def turning : State := { headed .dm turnCmd with mem := putBytes [] (winBase 0 + 8) [5] }

theorem wit_TileLoadAndStore_turn : turning.ready 0 .dm (fun k => decide (Cmd.opcode k = 0x12)) = some (0, ⟨turnCmd, 0, 0, 0⟩, 100) ∧
    tnIllegal turnCmd = false ∧ Cmd.iters turnCmd = 1 ∧ turning.tnBad 0 turnCmd 0 = false ∧ turning.tnServed 0 turnCmd = true ∧
    tnFmtS turnCmd = tnFmtD turnCmd ∧ 0 < Cmd.f turnCmd 26 15 0 ∧ Cmd.doneEn turnCmd = false ∧
    (nx (.dmTurn 0 .ok) turning).readByte (winBase 0 + 64) = 5 ∧ (nx (.dmTurn 0 .ok) turning).readByte (winBase 0 + 8) = 0 := by decide +kernel

theorem wit_TileLoadAndStore_fence : (headed .dm (mkCmd 0x17 [])).ready 0 .dm (fun k => decide (Cmd.opcode k = 0x17)) = some (0, ⟨mkCmd 0x17 [], 0, 0, 0⟩, 100) ∧
    ((headed .dm (mkCmd 0x17 [])).core 0).dmCmds = [] ∧ fenceBad (mkCmd 0x17 []) = false ∧ fenceBad (mkCmd 0x17 [(63, 0, 1)]) = true := by decide +kernel

/-- VE_ADD of one FP32 element. -/
def addCmd : Cmd := mkCmd 0x21 [(16, 28, 9), (20, 28, 9), (24, 28, 9), (20, 0, 64), (24, 0, 128)]
def veF (q : Cmd) : VeFly := { q := ⟨q, 0, 0, 0⟩, hw := .ok, at_ := 100, lastW := 100, since := 100 }
def adding : State := { headed .ve addCmd with mem := putBytes (putBytes [] (winBase 0) (leBytes 4 0x3F800000)) (winBase 0 + 64) (leBytes 4 0x40000000) }

theorem wit_VectorRows_enter : (veF addCmd).hw = .ok ∧ adding.inj = [] ∧ adding.veIterBad 0 addCmd 0 = false ∧
    (veRanges addCmd 0).any (adding.tiedRange 0) = false ∧ (adding.veRowStart 0 (veF addCmd) 100).2.late.length = 1 := by decide +kernel

theorem wit_VectorRow : Cmd.opcode addCmd ∈ [0x20, 0x21, 0x22] ∧ (veFmtA addCmd).isMx = false ∧ (veFmtD addCmd).isMx = false ∧
    (adding.veRow 0 addCmd 0).writes = [(128, leBytes 4 0x40400000)] := by decide +kernel

theorem wit_VectorRows_land : ((adding.core 0).meWrote.1 ≠ 110) ∧
    (adding.veLand 0 addCmd (adding.veRow 0 addCmd 0) 110).winNat 0 128 4 = 0x40400000 := by decide +kernel

theorem wit_VectorRows_finish : let s := adding.modCore 0 (fun x => { x with veFly := some { veF addCmd with n := 1, lastW := 110 } })
    (s.core 0).veFly = some { veF addCmd with n := 1, lastW := 110 } ∧ Cmd.iters addCmd = 1 ∧ ((s.veFinish 0 110).core 0).veFly = none := by decide +kernel

/-- BF16 2.0 in each of the rows of VE_NORM, VE_SLICE and VE_UNSLICE. -/
theorem wit_VectorRow_others : Cmd.opcode (mkCmd 0x2A [(24, 28, 9)]) = 0x2A ∧ (veFmtD (mkCmd 0x2A [(24, 28, 9)])).isMx = false ∧
    Cmd.opcode (mkCmd 0x38 []) = 0x38 ∧ Cmd.opcode (mkCmd 0x39 []) = 0x39 := by decide +kernel

theorem wit_EngineCommandsBegin_me : (1, Instr.meSweep 0 .ok) ∈ meOps 0 .ok ∧
    (headed .me (meCmd 1 0)).ready 0 .me (fun k => decide (Cmd.opcode k = 1)) = some (0, ⟨meCmd 1 0, 0, 0, 0⟩, 100) ∧ meIllegal (meCmd 1 0) 1 = false ∧
    (headed .me (meCmd 1 0)).gradeS = false ∧ ((nx (.meSweep 0 .ok) (headed .me (meCmd 1 0))).core 0).meFly.length = 1 ∧
    meIllegal (meCmd 1 3) 1 = true ∧ ((headed .me (meCmd 3 0)).core 0).blk = none ∧
    (nx (.meMm 0 .ok) (headed .me (meCmd 3 0))).get F.ME_STATUS_LAST_STATUS 0 = 3 := by decide +kernel

/-- A module with eight fused clusters is of grade S. -/
theorem wit_EngineCommandsBegin_gradeS : ({ base with fusedCl := [1, 2, 3, 4, 5, 6, 7, 8] } : State).gradeS = true := by decide +kernel

theorem wit_EngineCommandsBegin_ve : (0x21, Instr.veAdd 0 .ok) ∈ veOps 0 .ok ∧
    adding.ready 0 .ve (fun k => decide (Cmd.opcode k = 0x21)) = some (0, ⟨addCmd, 0, 0, 0⟩, 100) ∧ adding.veIllegal 0 addCmd = false ∧
    veBackward addCmd = false ∧ ((nx (.veAdd 0 .ok) adding).core 0).veFly.isSome = true ∧ adding.veIllegal 0 (mkCmd 0x21 []) = true := by decide +kernel

/-- A VE_PHASE to backward with a limit, to begin, and begun in ACLK 90. -/
def phaseCmd : Cmd := mkCmd 0x3F [(16, 0, 1), (24, 0, 1)]
def phased : State := base.modCore 0 (fun x => { x with ve := { x.ve with hold := some ⟨phaseCmd, 0, 3, 90⟩ } })

theorem wit_PhaseFenceAndTies_begin : (headed .ve phaseCmd).ready 0 .ve (fun k => decide (Cmd.opcode k = 0x3F)) = some (0, ⟨phaseCmd, 0, 0, 0⟩, 100) ∧
    phaseIllegal phaseCmd = false ∧ phaseIllegal (mkCmd 0x3F [(16, 1, 1)]) = true := by decide +kernel

theorem wit_PhaseFenceAndTies_complete : phased.running 0 = true ∧ phased.phaseHeld 0 = some ⟨phaseCmd, 0, 3, 90⟩ ∧ phased.earlier 0 3 = false ∧
    phased.now ≤ 90 + 1024 * Cmd.f phaseCmd 24 31 0 ∧ ((nx (.vePhaseComplete 0) phased).core 0).dueCpl.length = 1 ∧
    (((nx (.vePhaseComplete 0) phased).dueTick 0 101)).get F.VE_CTX_PHASE 0 = 1 := by decide +kernel

/-- An earlier command stays open. -/
def phaseLate : State := phased.modCore 0 (fun x => { x with su := { x.su with hold := some ⟨waitCmd 0, 0, 1, 4⟩ } })

theorem wit_PhaseFenceAndTies_timeout : Cmd.f phaseCmd 24 31 0 ≠ 0 ∧ (phaseLate.at_ 1115).running 0 = true ∧ (phaseLate.at_ 1115).earlier 0 3 = true ∧
    (nx (.vePhaseTimeout 0) phaseLate).get F.VE_EVT_TIMEOUT 0 = 1 := by decide +kernel

theorem wit_PhaseFenceAndTies_tie : base.reach .hub .VE 0 = true ∧ F.VE_TIE_DONE_EN.of 0 = 0 ∧
    (nx (.veTieArm .hub 0 7 (F.VE_TIE_ARMED.ins 0 1)) base).get F.VE_TIE_COMPLETE 0 7 = 1 := by decide +kernel

/-! ### Witnesses: banks, the data mover, the mesh, HBM and synchronisation -/

/-- A one-row access of the mesh to the first row of a bank. -/
def acc (rd : Bool) (bop : Nat) : BankAcc :=
  { master := .mesh, isRead := rd, bop := bop, fmt := 9, off := 0, len := if bop = 4 then 4 else if bop = 5 then 128 else 64, imm := 0x3F800000, count := 1,
    data := if rd then [] else List.replicate (if bop = 5 then 32 else 64) 1, since := 90, ans := .none, grp := 0 }
def banked (k : BankSt) : State := base.modCore 0 (fun x => { x with banks := putD natLt {} x.banks 0 k })

theorem wit_BankService_serve : (banked { waiting := [acc true 0] }).corePresent 0 = true ∧ ((banked { waiting := [acc true 0] }).core 0).bank 0 = { waiting := [acc true 0] } ∧
    (banked { waiting := [acc true 0] }).ownerPresents 0 0 100 = false ∧ (banked { waiting := [acc true 0] }).inj = [] ∧
    ((((nx (.bankServe 0 0 .ok) (banked { waiting := [acc true 0] })).core 0).bank 0).waiting = []) ∧
    (((nx (.bankServe 0 0 .ok) (banked { waiting := [acc false 0] })).core 0).bank 0).granted = some (acc false 0, 100) := by decide +kernel

theorem wit_BankService_write : ((banked { granted := some (acc false 0, 100) }).core 0).bank 0 = { granted := some (acc false 0, 100) } ∧ (acc false 0).bop = 0 ∧
    (nx (.bankWrite 0 0) (banked { granted := some (acc false 0, 100) })).readByte (winBase 0 + 63) = 1 := by decide +kernel

theorem wit_BankService_ops : ∀ b ∈ [(1, Instr.bankAdd 0 0), (2, .bankMax 0 0), (3, .bankAxpy 0 0), (4, .bankInc 0 0), (5, .bankG8acc 0 0)],
    (acc false b.1).bop = b.1 ∧ (((nx b.2 (banked { granted := some (acc false b.1, 100) })).core 0).bank 0).ops.length = 1 := by decide +kernel

theorem wit_BankService_back : (((banked { ops := [⟨acc false 4, leBytes 4 0, leBytes 4 1, 100⟩] }).core 0).bank 0).granted = none ∧
    (nx (.bankOpWriteback 0 0 false) (banked { ops := [⟨acc false 4, leBytes 4 0, leBytes 4 1, 100⟩] })).readByte (winBase 0) = 1 ∧
    (nx (.bankOpWriteback 0 0 true) (banked { ops := [⟨acc false 4, leBytes 4 0, leBytes 4 1, 100⟩] })).get F.SPD_EVT_BANK_CHECK 0 = 1 := by decide +kernel

/-- Bank 0 leaves ON for OFF, with the end of its transition reached. -/
def darkening : State := (banked { trans := some (0, 2, 100) }).setSub F.SPD_PWR_REQ 0 0 2 2

theorem wit_BankPower : base.reach .hub .SPD 0 = true ∧ (base.core 0).bank 5 = {} ∧ base.bit F.SPD_MAP_RETIRED 0 5 = false ∧
    ((darkening.core 0).bank 0).trans = some (0, 2, 100) ∧ darkening.pwrReq 0 0 = 2 ∧
    (nx (.bankTransitionEnd 0 0) darkening).sub F.SPD_PWR_STATE 0 0 2 = 2 := by decide +kernel

/-- A DM_COPY of 16 raw bytes from the window's start to 64 bytes on, both ends of core 0's own window. -/
def copyCmd : Cmd := mkCmd 0x13 [(16, 0, 0xFFFF * 2 ^ 48 + winBase 0), (24, 0, 0xFFFF * 2 ^ 48 + winBase 0 + 64), (32, 0, 15)]

theorem wit_DataMoverBegins_copy : (headed .dm copyCmd).ready 0 .dm (fun k => decide (Cmd.opcode k = 0x13)) = some (0, ⟨copyCmd, 0, 0, 0⟩, 100) ∧
    (headed .dm copyCmd).specTask 0 = none ∧ copyIllegal copyCmd = false ∧ copyIllegal (mkCmd 0x13 [(1, 0, 1)]) = true ∧
    ((nx (.dmCopy 0) (headed .dm copyCmd)).core 0).dmCmds.length = 1 := by decide +kernel

/-- A DM_OPT with program LAMB2 over one group; DM_STREAM into window 3 with two slots. -/
def optCmd_ : Cmd := mkCmd 0x1A [(16, 0, 0xFFFF * 2 ^ 48), (24, 0, 0xFFFF * 2 ^ 48), (32, 0, 0xFFFF * 2 ^ 48), (40, 0, 0xFFFF * 2 ^ 48), (48, 0, 0xFFFF * 2 ^ 48), (56, 0, 1), (60, 30, 3)]
def streamCmd_ : Cmd := mkCmd 0x1B [(16, 0, 0xFFFF * 2 ^ 48), (24, 0, 3), (32, 0, 15)]
def streaming : State := ((headed .dm streamCmd_).set F.DM_STRM_CFG_EN 0 1 3).set F.DM_STRM_CFG_SLOTS 0 2 3

theorem wit_DataMoverBegins_stream : streaming.ready 0 .dm (fun k => decide (Cmd.opcode k = 0x1B)) = some (0, ⟨streamCmd_, 0, 0, 0⟩, 100) ∧
    stWin streamCmd_ = 3 ∧ streaming.get F.DM_STRM_CFG_EN 0 3 = 1 ∧ 2 ≤ streaming.get F.DM_STRM_CFG_SLOTS 0 3 ∧
    (nx (.dmStream 0) streaming).get F.DM_STRM_CFG_NEXT 0 3 = 1 := by decide +kernel

theorem wit_DataMoverBegins_opt : (headed .dm optCmd_).ready 0 .dm (fun k => decide (Cmd.opcode k = 0x1A)) = some (0, ⟨optCmd_, 0, 0, 0⟩, 100) ∧
    (headed .dm optCmd_).optIllegal 0 optCmd_ = false ∧ (headed .dm optCmd_).windowServes 0 .dm ((headed .dm optCmd_).core 0).dmSince [(opDesc optCmd_, 64)] = true ∧
    ((nx (.dmOpt ⟨0, .ok⟩) (headed .dm optCmd_)).core 0).dmCmds.map (fun d => d.reqs.length) = [256] := by decide +kernel

/-- A begun DM_COPY of core 0, with its iteration to come, or with one request. -/
def dmD (q : Cmd) (reqs : List DmReq) : DmCmd := { id := 7, q := ⟨q, 0, 0, 0⟩, at_ := 90, reqs := reqs, gather := if reqs.isEmpty then 0 else 1 }
def issuing (d : DmCmd) : State := { base.modCore 0 (fun x => { x with dmCmds := [d] }) with mem := putBytes [] (winBase 0) [9] }
def farReq (a : Nat) : DmReq :=
  { iter := 0, isRead := true, typ := 0, far := a, loc := 0, len := 16, bop := 0, fmt := 0, imm := 0, conv := none, data := [] }

theorem wit_DataMoverRequests_local : (issuing (dmD copyCmd [])).running 0 = true ∧ (issuing (dmD copyCmd [])).dmIssuing 0 = some (dmD copyCmd []) ∧
    (issuing (dmD copyCmd [])).isOwn 0 (cpSrc copyCmd 0) = true ∧ (issuing (dmD copyCmd [])).isOwn 0 (cpDst copyCmd 0) = true ∧
    (issuing (dmD copyCmd [])).ownRange 0 (ownOff (cpDst copyCmd 0)) (cpLen copyCmd) = true ∧
    (issuing (dmD copyCmd [])).windowServes 0 .dm 0 [(winOff (gLoc (cpSrc copyCmd 0).toNat), 16), (winOff (gLoc (cpDst copyCmd 0).toNat), 16)] = true ∧
    (nx (.dmIssueRequest ⟨0, .ok⟩) (issuing (dmD copyCmd []))).readByte (winBase 0 + 64) = 9 := by decide +kernel

/-- A request to HBM, and one into the hole behind it. -/
def okReq : Nat := 0xFFFF * 2 ^ 48
def badReq : Nat := 0xFFFF * 2 ^ 48 + 0x010000000000

theorem wit_DataMoverRequests_far : (issuing (dmD copyCmd [farReq okReq])).dmIssuing 0 = some (dmD copyCmd [farReq okReq]) ∧
    (issuing (dmD copyCmd [farReq okReq])).reqOn 0 (farReq okReq) = true ∧ (issuing (dmD copyCmd [farReq okReq])).isOwn 0 okReq = false ∧
    (issuing (dmD copyCmd [farReq okReq])).unmapped okReq = false ∧ (issuing (dmD copyCmd [farReq okReq])).specR1 okReq = false ∧
    ((issuing (dmD copyCmd [farReq okReq])).core 0).freeTag = some 0 ∧
    ((nx (.dmIssueRequest ⟨0, .ok⟩) (issuing (dmD copyCmd [farReq okReq]))).core 0).dmTags.map (fun g => g.tag) = [0] := by decide +kernel

theorem wit_DataMoverRequests_refused : (issuing (dmD copyCmd [farReq badReq])).unmapped badReq = true ∧ (issuing (dmD copyCmd [farReq badReq])).isOwn 0 badReq = false ∧
    (nx (.dmIssueRequest ⟨0, .ok⟩) (issuing (dmD copyCmd [farReq badReq]))).get F.DM_REMOTE_INFO_REASON 0 = rUNMAPPED := by decide +kernel

/-- All 512 tags are taken. -/
def noTag : State := (issuing (dmD copyCmd [farReq okReq])).modCore 0 (fun x => { x with dmTags := (List.range 512).map (fun n => { tag := n, cmd := 7, req := farReq okReq }) })

theorem wit_DataMoverRequests_stall : (noTag.core 0).freeTag = none ∧ (noTag.core 0).tagStall = false ∧
    (nx (.dmIssueRequest ⟨0, .ok⟩) noTag).get F.DM_EVT_TAG_STALL 0 = 1 := by decide +kernel

/-- A tag whose read has been answered. -/
def answered : State := (issuing { dmD copyCmd [] with gather := 1, open_ := 1, issuing := false }).modCore 0 (fun x => { x with dmTags := [{ tag := 3, cmd := 7, req := farReq okReq, answered := some (0, 0, List.replicate 16 8) }] })

theorem wit_DataMoverRequests_response : (answered.dmFind 0 7).isSome = true ∧ (answered.core 0).abort = none ∧ answered.rangeOn 0 0 16 = true ∧
    answered.windowServes 0 .dm 0 [(0, 16)] = true ∧ (nx (.dmResponse ⟨0, .ok⟩) answered).readByte (winBase 0 + 15) = 8 := by decide +kernel

theorem wit_DataMoverRequests_stream : base.reach .hub .DM 0 = true ∧ base.get F.DM_STRM_CFG_EN 0 3 = 0 ∧
    (nx (.strmWindowEnable .hub 0 3 (F.DM_STRM_CFG_EN.ins 0 1)) base).get F.DM_STRM_CFG_EN 0 3 = 1 := by decide +kernel

/-- A packet delivered at memory port 0x80 of die 0, and one delivered at a cluster's router. -/
def pkt (typ vc a : Nat) : Packet := { typ := typ, vc := vc, dnode := 0, snode := 3, src := 3, tag := 5, len := 64, addr := a, payload := List.replicate 64 6 }
def delivered (n : Nat) (p : Packet) : State := { base with deliv := [(nodeKey 0 n, [p])] }

theorem wit_MemoryPortRequests : isMemPort 0x30 = true ∧ (base.hbmPlace 0).stack / 4 = 0 ∧ base.bankHeld (base.hbmPlace 0).key < 64 ∧ base.blkLocked 0 = false ∧
    (nx (.meshRd (.node 0 0x30) .ok) (delivered 0x30 (pkt 0 0 0))).deliv = [] ∧
    (nx (.meshWr ⟨(.node 0 0x30), .ok⟩) (delivered 0x30 (pkt 1 0 0))).readByte 63 = 6 ∧ msuFormOk { pkt 2 0 0 with bop := 1, fmt := 9 } = true ∧
    base.rchOpen (redChan (pkt 7 2 0)) = false ∧
    (nx (.red (.node 0 0x30)) (delivered 0x30 (pkt 7 2 0))).get F.MSU_RCH_ERR_CNT_CLOSED 0 = 1 := by decide +kernel

/-- Reduction channel 0 open with FP32 contributions from one source. -/
def chanOpen (s : State) : State := (s.set F.MSU_RCH_CFG_VALID 0 1).set F.MSU_RCH_CFG_WFMT 0 2
def redPkt : Packet := { pkt 7 2 0 with fmt := 9, bop := 1, len := 128, payload := List.replicate 128 0 }

theorem wit_MemoryPortRequests_red : (chanOpen base).redBad redPkt = none ∧ (chanOpen base).get F.MSU_RCH_CFG_MODE 0 0 = 0 ∧ redSatn redPkt = 0 ∧
    ((nx (.red (.node 0 0x30)) (chanOpen (delivered 0x30 redPkt))).msu ((chanOpen base).hbmPlace 0).msu).ops.length = 1 := by decide +kernel

/-- A read of core 0's ACB and of its scratchpad, at its router. -/
theorem wit_ClusterRequests_read : base.far (winBase 0 + 0xC0000) = .core 0 ∧ base.cutOff 0 = false ∧ base.clusterOn 0 = true ∧
    0xC0000 ≤ winOff (winBase 0 + 0xC0000) ∧ base.acbBusy 0 0xC0000 64 = false ∧
    ((nx (.meshRd (.node 0 0) .ok) (delivered 0 (pkt 0 0 (winBase 0 + 0xC0000)))).stq.map (fun q => q.2.map Packet.typ)) = [[3]] ∧
    base.bankOn 0 0 = true ∧ (((nx (.meshRd (.node 0 0) .ok) (delivered 0 (pkt 0 0 (winBase 0)))).core 0).bank 0).waiting.length = 1 := by decide +kernel

/-- Core 0 is fenced. -/
theorem wit_ClusterRequests_fenced : (base.fence 0).cutOff 0 = true ∧
    (nx (.meshRd (.node 0 0) .ok) ((delivered 0 (pkt 0 0 (winBase 0))).fence 0)).get F.MESH_EVT_FENCED_REFUSE 0 = 1 := by decide +kernel

/-- Core 3 holds tag 5, parked at bank 9 or not; an answer for it has arrived at its router. -/
def tagged (p : Packet) (parked : Bool) : State :=
  (delivered 0 p).modCore 3 (fun x => { x with dmTags := [{ tag := 5, cmd := 7, req := farReq okReq, parked := parked, bank := 9 }] })

theorem wit_ClusterRequests_answers : (pkt 3 1 0).src < 2048 ∧ base.cutOff 3 = false ∧ (base.router 0).comb = [] ∧ (base.router 0).mc = [] ∧
    ((nx (.rdata (.node 0 0)) (tagged (pkt 3 1 0) false)).core 3).dmTags.all (fun g => g.answered.isSome) = true ∧
    ((nx (.bankFull (.node 0 0)) (tagged (pkt 6 1 0) false)).core 3).dmTags.all (fun g => g.parked) = true := by decide +kernel

theorem wit_ClusterRequests_resume : ((tagged { pkt 10 3 0 with tag := 9 } true).core 3).dmTags.filter (fun g => g.parked && decide (g.bank = 9)) =
      [{ tag := 5, cmd := 7, req := farReq okReq, parked := true, bank := 9 }] ∧
    ((nx (.resume (.node 0 0)) (tagged { pkt 10 3 0 with tag := 9 } true)).core 3).dmTags.any (fun g => g.parked) = false := by decide +kernel

/-- A multicast write to group 2 of cluster 0, whose members are cores 0 and 1. -/

theorem wit_ClusterRequests_reserved : (lookD [] (delivered 0 (pkt 11 0 0)).deliv (nodeKey 0 0)).find? (fun q => decide (9 < q.typ) && decide (q.vc ≠ 3)) = some (pkt 11 0 0) ∧
    (nx (.reservedPacket (.node 0 0)) (delivered 0 (pkt 11 0 0))).get F.MESH_EVT_BAD_PKT 0 = 1 := by decide +kernel

/-- A packet at the LOCAL input of router 0. -/
def atLocal (p : Packet) : State := { base with stq := [(nodeKey 0 0, [p])] }

theorem wit_RouterForwards_moves : (atLocal (pkt 0 0 0)).routerLive 0 0 = true ∧ (atLocal (pkt 0 0 0)).inHead 0 0 0 0 = some (pkt 0 0 0) ∧
    ((atLocal (pkt 0 0 0)).router 0).outq = [] ∧ (atLocal (pkt 0 0 0)).route 0 0 0 = 0 ∧ (atLocal (pkt 0 0 0)).roomAt 0 0 0 0 = true ∧
    (nx (.routerForward 0 0 0 0 false) (atLocal (pkt 0 0 0))).deliv = [(0, [pkt 0 0 0])] ∧
    (base.route 0 0 1 = 2 ∧ beyond 0 2 = .router 1 4 ∧ beyond 0 1 = .station 0x50) := by decide +kernel

/-- A full buffer behind port 2 with a combinable packet queued for it. -/
def combPkt (d : Nat) : Packet := { redPkt with rtag := 1, dnode := d }
def jammed : State :=
  ((atLocal (combPkt 1)).setRouter 0 { outq := [(inKey 2 2, [combPkt 1])] }).setRouter 1 { inq := [(inKey 4 2, List.replicate 4 (combPkt 1))] }

theorem wit_RouterForwards_combines : jammed.inHead 0 0 0 2 = some (combPkt 1) ∧ jammed.route 0 0 1 = 2 ∧ jammed.roomAt 0 0 2 2 = false ∧
    combines (combPkt 1) (combPkt 1) = true ∧ jammed.get F.MESH_CFG_COMBINE 0 = 1 ∧
    ((nx (.routerForward 0 0 0 2 false) jammed).router 0).comb.length = 1 := by decide +kernel

theorem wit_RouterForwards_dead : ((atLocal { pkt 0 0 0 with dnode := 1 }).setRoute 0 0 1 5).route 0 0 1 = 5 ∧
    (nx (.routerForward 0 0 0 0 false) ((atLocal { pkt 0 0 0 with dnode := 1 }).setRoute 0 0 1 5)).get F.MESH_EVT_DEAD_REFUSE 0 = 1 := by decide +kernel

theorem wit_MemorySideUnits_ops : ∀ x ∈ [(0, Instr.racc ⟨0, .ok⟩), (1, .scale ⟨0, .ok⟩), (2, .fill ⟨0, .ok⟩)],
    let o : MsuOp := { r := ⟨{ pkt 2 0 0 with bop := x.1, fmt := 9 }, nodeKey 0 0x30, none⟩, kind := x.1, base := 0 }
    ((nx x.2 (base.setMsu 0 { ops := [o] })).msu 0).ops.all (fun y => y.done) = true := by decide +kernel

/-- A computed operation on the first block. -/
def msuDone : MsuOp := { r := ⟨pkt 2 0 0, nodeKey 0 0x30, none⟩, kind := 2, base := 0, done := true, result := List.replicate 64 4 }

theorem wit_MemorySideUnits_back : (base.hbmPlace 0).msu = 0 ∧ ((base.setMsu 0 { ops := [msuDone] }).msu 0).ops.find? (fun x => x.done) = some msuDone ∧
    (nx (.msuOpWriteback 0 false) (base.setMsu 0 { ops := [msuDone] })).readByte 63 = 4 ∧
    (nx (.msuOpWriteback 0 true) (base.setMsu 0 { ops := [msuDone] })).get F.MSU_EVT_CHECK 0 = 1 := by decide +kernel

/-- An SGDM step over one group. -/
def opt1 : OptCmd :=
  { r := ⟨pkt 2 0 0, nodeKey 0 0x30, none⟩, w := 0, m := 2 ^ 26, v := 0, g := 2 ^ 27, c := 0, blocks := 2, prog := 0, flags := 0, desc := List.replicate 16 0 }

theorem wit_MemorySideUnits_opt : ((base.setMsu 0 { opts := [opt1] }).msu 0).opts = [opt1] ∧ opt1.prog ∈ [0, 1, 3] ∧ bitOf opt1.flags 2 = false ∧
    [opt1.w, opt1.g, opt1.m].any (fun x => base.blkLocked x) = false ∧
    (nx (.optimizerStep 0 ⟨.ok, false⟩) (base.setMsu 0 { opts := [opt1] })).get F.MSU_CNT_BLOCKS 0 = 1 := by decide +kernel

theorem wit_HbmControllers : base.reach .hub .HBMC 0 = true ∧ (base.set F.HBMC_SCRUB_PERIOD 0 1).get F.HBMC_SCRUB_PERIOD 0 ≠ 0 ∧ stackLines - 1 < stackLines ∧
    (nx (.hbmScrub 0 (stackLines - 1) .ok) (base.set F.HBMC_SCRUB_PERIOD 0 1)).get F.HBMC_SCRUB_PASSES 0 = 1 ∧
    (nx (.hbmScrub 0 0 .unc) (base.set F.HBMC_SCRUB_PERIOD 0 1)).bad = [0] ∧ (base.setHbmBank 5 { resv := [(3, 60)] }).lapsing 0 = some (5, 3, 60) := by
  decide +kernel

/-- A signal for counter 4 of core 0, on its way, in a slot or held at the node. -/
def sig (win bytes : Nat) : Sig := { dcore := 0, ctr := 4, inc := 2, win := win, score := 9, bytes := bytes, rchan := 0, mod := 0xFFFF, due := 60 }
def sigWay (g : Sig) : State := (base.set F.SYNC_LWIN_EN 0 1 1).modCore 0 (fun x => { x with sigIn := [g] })

theorem wit_SignalsAndCounters_arrive : (sigWay (sig 0xF 0)).cutOff 0 = false ∧ ((sigWay (sig 0xF 0)).core 0).openSync = true ∧
    (sigWay (sig 0xF 0)).privChans 0 4 = [] ∧ (nx (.signalArrive 0) (sigWay (sig 0xF 0))).ctr 0 4 = 2 ∧
    ((sigWay (sig 1 8)).set F.SYNC_LAND_LANDED 0 8 1).sigReadyAt 0 (sig 1 8) = true ∧ (sigWay (sig 1 8)).sigReadyAt 0 (sig 1 8) = false ∧
    ((nx (.signalArrive 0) (sigWay (sig 1 8))).core 0).slots.length = 1 ∧
    (nx (.signalArrive 0) (sigWay (sig 2 8))).get F.SYNC_EVT_BAD_SIGNAL 0 = 1 := by decide +kernel

theorem wit_SignalsAndCounters_full : ((nx (.signalArrive 0) ((sigWay (sig 1 8)).modCore 0 (fun x => { x with slots := List.replicate 16 (sig 1 8) }))).core 0).nodeHeld = [sig 1 8] := by
  decide +kernel

theorem wit_SignalsAndCounters_release : let s := ((base.set F.SYNC_LWIN_EN 0 1 1).set F.SYNC_LAND_LANDED 0 8 1).modCore 0 (fun x => { x with slots := [sig 1 8] })
    s.sigReady 0 [] (sig 1 8) = true ∧ (sig 1 8).due < s.now ∧ (nx (.signalRelease 0 0) s).ctr 0 4 = 2 ∧
    ((nx (.nodeHeldSignalSend 0) ((base.set F.SYNC_LWIN_EN 0 1 1).modCore 0 (fun x => { x with nodeHeld := [sig 1 8] }))).core 0).slots.length = 1 := by decide +kernel

theorem wit_SignalsAndCounters_writes : base.reach .hub .SYNC 0 = true ∧ base.reach .hub .SU 0 = true ∧
    (nx (.lwinEnable .hub 0 7 (F.SYNC_LWIN_EN.ins 0 1)) base).get F.SYNC_LWIN_EN 0 7 = 1 ∧ (nx (.suCtrWrite .hub 0 7 5) base).ctr 0 28 = 5 := by decide +kernel

/-- SU_SET and SU_ADD of counter 4, an SU_SIGNAL to core 1, an SU_BARRIER of group 0. -/
def suCmd (op v : Nat) : Cmd := mkCmd op [(16, 0, 4), (18, 0, v)]

theorem wit_SyncUnitCommands_counters : (headed .su (suCmd 0x40 7)).ready 0 .su (fun k => decide (Cmd.opcode k = 0x40)) = some (0, ⟨suCmd 0x40 7, 0, 0, 0⟩, 100) ∧
    Cmd.badHeader (suCmd 0x40 7) = false ∧ oneLoop (suCmd 0x40 7) = true ∧ suRsv (suCmd 0x40 7) = false ∧ suSub (suCmd 0x40 7) = false ∧
    (nx (.suSet 0) (headed .su (suCmd 0x40 7))).ctr 0 (suCtr (suCmd 0x40 7)) = 7 ∧ (nx (.suAdd 0) (headed .su (suCmd 0x41 7))).ctr 0 (suCtr (suCmd 0x41 7)) = 7 := by
  decide +kernel

def sigCmd : Cmd := mkCmd 0x42 [(16, 0, 1), (18, 0, 4), (19, 0, 15), (20, 0, 2), (22, 0, 0xFFFF)]

theorem wit_SyncUnitCommands_bounds : let f := fun (v : Nat) => (headed .su (suCmd 0x41 v)).setCtr 0 4 0xFFFE
    ((nx (.suAdd 0) (f 1)).ctr 0 4 = 0xFFFF ∧ (nx (.suAdd 0) (f 1)).get F.SU_EVT_OVF 0 = 0) ∧
    ((nx (.suAdd 0) (f 2)).ctr 0 4 = 0xFFFF ∧ (nx (.suAdd 0) (f 2)).get F.SU_EVT_OVF 0 = 1) ∧
    (let g := headed .su (mkCmd 0x41 [(16, 0, 4), (17, 0, 1), (18, 0, 1)])
     (nx (.suAdd 0) (g.setCtr 0 4 1)).ctr 0 4 = 0 ∧ (nx (.suAdd 0) g).get F.SU_EVT_UNF 0 = 1) := by decide +kernel

theorem wit_SyncUnitCommands_signal : (headed .su sigCmd).ready 0 .su (fun k => decide (Cmd.opcode k = 0x42)) = some (0, ⟨sigCmd, 0, 0, 0⟩, 100) ∧
    Cmd.badHeader sigCmd = false ∧ sgRsv sigCmd = false ∧ Cmd.iters sigCmd = 1 ∧ base.sgBad sigCmd 0 = false ∧ base.ownMod (sgMod sigCmd) = true ∧
    sgDcore sigCmd 0 = 1 ∧ ((nx (.suSignal 0) (headed .su sigCmd)).core 1).sigIn.map (fun g => (g.ctr, g.inc, g.win, g.due)) = [(4, 2, 15, 100 + sigTime 0 1)] := by
  decide +kernel

/-- Core 0 is a member of slot 5, which group 0 names. -/
def member : State := ((headed .su (mkCmd 0x43 [(17, 0, 4)])).set F.SU_GMAP_ENTRIES 0 (128 + 5)).set F.SU_BAR_MEMBER 0 1 5

theorem wit_SyncUnitCommands_barrier : let q := mkCmd 0x43 [(17, 0, 4)]
    Cmd.badHeader q = false ∧ oneLoop q = true ∧ bgRsv q = false ∧ member.gmap 0 0 = some 5 ∧
    (nx (.suBarrier 0) member).get F.SU_BAR_ARRIVED 0 5 = 1 ∧ nx (.suBarrier 0) (member.set F.SU_BAR_ARRIVED 0 1 5) = member.set F.SU_BAR_ARRIVED 0 1 5 ∧
    (nx (.suBarrier 0) (headed .su q)).get F.SU_EVT_BAR_REFUSED 0 = 1 ∧ (nx (.suBarrier 0) (member.set F.SU_BAR_MEMBER 0 0 5)).get F.SU_EVT_BAR_REFUSED 0 = 1 := by
  decide +kernel

/-- A release of slot 5 on its way to core 0, which has arrived. -/
def relSig : Sig := { sig 0 0 with rel := true, slot := 5 }
def arrived : State := (base.set F.SU_BAR_ARRIVED 0 1 5).modCore 0 (fun x => { x with rels := [relSig], realign := [5] })

theorem wit_BarrierReleaseEffect : arrived.releaseDue 0 relSig = true ∧ (nx (.barrierRelease 0) arrived).get F.SU_BAR_GEN 0 5 = 1 ∧
    (arrived.set F.SU_BAR_GEN 0 3 5).releaseDue 0 relSig = false ∧ (nx (.barrierRelease 0) (arrived.set F.SU_BAR_GEN 0 3 5)).get F.SU_BAR_GEN 0 5 = 3 ∧
    (arrived.core 0).sigIn = [] ∧ arrived.get F.SU_BAR_RMASK 0 5 = 0 ∧ (nx (.realignRelease 0) arrived).ctr 0 0 = 1 := by decide +kernel

/-- Child 0's word at the cluster node of cluster 0 whose share names `m`; the row node's share names `up`. -/
def noded (m up gen : Nat) : State :=
  (({ base with nodes := [] } : State).setNode (nodeNum (.cluster 0 0)) { slots := [(5, { mask := m })], inbox := [⟨0, 5, gen, false, 1, 0, false, 60⟩] }).setNode
    (nodeNum (.row 0 0)) { slots := if up = 0 then [] else [(5, { mask := up })] }

theorem wit_BarrierNodes_arrival : (noded 3 0 7).cfgSettled (.cluster 0 0) = true ∧ ((noded 3 0 7).share (.cluster 0 0) 5).stopped = false ∧
    ((nx (.barrierArrival (.cluster 0 0)) (noded 3 0 7)).share (.cluster 0 0) 5).got = 1 ∧
    ((nx (.barrierArrival (.cluster 0 0)) (noded 1 1 7)).node (nodeNum (.row 0 0))).inbox.length = 1 ∧
    (((nx (.barrierArrival (.cluster 0 0)) (noded 1 0 7)).core 0).rels.map (fun g => (g.slot, g.gen, g.due))) = [(5, 7, 104)] := by decide +kernel

theorem wit_BarrierNodes_stop : let s := (noded 3 0 7).setShare (.cluster 0 0) 5 { mask := 3, got := 2, gen := 6 }
    let t := nx (.barrierArrival (.cluster 0 0)) s
    (t.share (.cluster 0 0) 5).stopped = true ∧ t.stoppedNode 5 = true ∧ (t.set F.SU_BAR_MEMBER 0 1 5).slotCores 5 = [0] ∧
    (nx (.genMismatchReport 5) (t.set F.SU_BAR_MEMBER 0 1 5)).get F.SU_BAR_FAULTED 0 5 = 1 := by decide +kernel

theorem wit_BarrierNodes_config : let s := fun (w : Nat) => (noded 3 0 7).setNode (nodeNum (.cluster 0 0)) { slots := [(5, { mask := 3 })], cfg := [w] }
    bitsOf (cfgWord 5 0 0 0 0 9) 55 54 = 0 ∧ ((nx (.barrierConfig (.cluster 0 0)) (s (cfgWord 5 0 0 0 0 9))).share (.cluster 0 0) 5).mask = 9 ∧
    bitsOf (cfgWord 5 1 0 0 0 9) 55 54 = 1 ∧ ((nx (.barrierConfig (.cluster 0 0)) (s (cfgWord 5 1 0 0 0 9))).share (.cluster 0 0) 5).mask = 0 := by decide +kernel

theorem wit_BarrierNodes_realign : let s := (((arrived.set F.SU_BAR_RMASK 0 4 5).set F.SU_CCH_EN 0 1 2).set F.SU_CCH_CTR 0 9 2).set F.SU_CCH_REST 0 6 2
    s.get F.SU_CCH_PRIV 0 2 = 0 ∧ s.get F.SU_CCH_CTR 0 2 ≠ s.get F.SU_BAR_CTR 0 5 ∧ (nx (.realignRelease 0) s).ctr 0 9 = 6 ∧
    (nx (.realignRelease 0) s).get F.SU_CCH_DRIFT 0 2 = 1 := by decide +kernel

/-! ### Links and the hub -/

def sets (s : State) (l : List (Field × Nat × Nat × Nat)) : State := l.foldl (fun s x => s.set x.1 x.2.1 x.2.2.2 x.2.2.1) s

/-- Link 3 enabled and in a state; `active` with its partner admitted and credits both ways. -/
def linked (st : Nat) : State := (base.set F.EVL_CFG_EN 3 1).set F.EVL_STATUS_STATE 3 st
def active : State :=
  (sets ((linked 5).set F.NVCF_NB_ADMITTED 0 1 3) [(F.EVL_CRED_VC0, 3, 0, 2), (F.EVL_CRED_VC1, 3, 0, 2), (F.EVL_CRED_VC2, 3, 0, 2), (F.EVL_CRED_VC3, 3, 0, 2)]).modLink
    3 (fun l => { l with grant := [(0, 2), (1, 2), (2, 2), (3, 2)] })

theorem wit_LinkTraining_up : (linked 0).linkMay 3 = true ∧ (nx (.linkSignalDetect 3) (linked 0)).linkState 3 = 1 ∧
    (nx (.detectRetry 3) { linked 0 with now := 190000000 }).linkState 3 = 1 ∧ (nx (.laneLock 3) (linked 1)).linkState 3 = 2 ∧
    (nx (.trainComplete 3) (linked 2)).linkState 3 = 3 ∧ (nx (.exchange 3 ⟨true, 7, 4, true, [8, 8, 8, 8]⟩) (linked 3)).linkState 3 = 4 ∧
    nx (.exchange 3 ⟨false, 7, 4, true, [8, 8, 8, 8]⟩) (linked 3) = linked 3 ∧ (nx (.rateResult 3 true 0) (linked 4)).linkState 3 = 5 := by decide +kernel

theorem wit_LinkTraining_down : (nx (.detectTimeout 3) (linked 1)).linkState 3 = 0 ∧ (nx (.trainTimeout 3) (linked 2)).linkState 3 = 0 ∧
    (nx (.rateResult 3 true 1) ((linked 4).set F.EVL_STATUS_RATE 3 3)).get F.EVL_STATUS_RATE 3 = 2 ∧ (nx (.rateResult 3 false 0) (linked 4)).linkState 3 = 0 ∧
    (nx (.lossOfSignal 3) (linked 3)).linkState 3 = 0 ∧ (nx (.laneSignalLoss 3 15) (linked 5)).linkState 3 = 0 := by decide +kernel

theorem wit_LinkTraining_retrain : let s := nx (.laneSignalLoss 3 1) (linked 5)
    s.linkState 3 = 4 ∧ (s.link 3).retrain = true ∧ (nx (.retrainComplete 3 true 0) s).linkState 3 = 5 ∧ (nx (.retrainComplete 3 false 0) s).linkState 3 = 0 ∧
    (linked 5).reach .hub .EVL 3 = true ∧ (nx (.evlEnWrite .hub 3 0) (linked 5)).linkState 3 = 0 ∧
    (nx (.evlEnWrite .hub 3 (F.EVL_CFG_EN.ins 0 1)) (linked 5)).linkState 3 = 5 := by decide +kernel

/-- A DATA flit of VC1 with one ACK packet; an IDLE flit. -/
def ackPkt : Packet := { pkt 5 1 0 with len := 1, payload := [] }
def dataFlit (seq : Nat) : FlitIn := ⟨true, false, 0, 1, seq, 0, false, 0, 7, 0, encodePacket ackPkt, 0⟩
def idleFlit (nak : Bool) : FlitIn := { dataFlit 0 with ftype := 1, nak := nak, firstPtr := 0xFF, credVc := 2, credN := 3, body := [] }

theorem wit_FlitExchange_good : active.linkActive 3 = true ∧ active.pertCredit 3 1 = false ∧ ((nx (.dataFlitReceive 3 (dataFlit 0)) active).link 3).eseq = 1 ∧
    (lookD [] ((nx (.dataFlitReceive 3 (dataFlit 0)) active).link 3).rxq 1).length = 1 ∧
    (nx (.idleFlitReceive 3 (idleFlit false)) active).get F.EVL_CRED_VC2 3 = 5 := by decide +kernel

theorem wit_FlitExchange_bad : (nx (.dataFlitReceive 3 (dataFlit 0)) (active.modLink 3 (fun l => { l with grant := [] }))).linkState 3 = 0 ∧
    (nx (.dataFlitReceive 3 (dataFlit 4095)) active).linkState 3 = 5 ∧ (nx (.dataFlitReceive 3 (dataFlit 1)) active).linkState 3 = 0 ∧
    (nx (.dataFlitReceive 3 { dataFlit 0 with crcOk := false }) active).get F.EVL_ERR_CNT_CRC 3 = 1 ∧
    ((nx (.idleFlitReceive 3 (idleFlit true)) (active.modLink 3 (fun l => { l with replay := [dataFlit 1] }))).link 3).resend = some 1 := by decide +kernel

theorem wit_FlitExchange_send : let s := active.modLink 3 (fun l => { l with tx := [(1, [{ p := ackPkt }])] })
    s.txVc 3 = some 1 ∧ (encodePacket ackPkt).length ≤ 245 ∧ (nx (.flitTransmit 3) s).get F.EVL_REPLAY_NEXT_SEQ 3 = 1 ∧ active.txVc 3 = none ∧
    (nx (.flitTransmit 3) active).out.length = 1 ∧
    (nx (.flitTransmit 3) (active.modLink 3 (fun l => { l with replay := [dataFlit 1], resend := some 1 }))).out.length = 1 := by decide +kernel

theorem wit_FlitExchange_late : (nx (.ackTimeout 3) { active.modLink 3 (fun l => { l with replay := [dataFlit 1] }) with now := 1900 * 65535 }).linkState 3 = 4 ∧
    (nx (.creditStall 3 1) { active.modLink 3 (fun l => { l with zero := [(1, 0)] }) with now := 190000 }).get F.EVL_EVT_CREDIT_STALL 3 = 1 := by decide +kernel

/-- A write over a link, and a signal. -/
def wrPkt : Packet := { pkt 2 0 0 with len := 64, bop := 0 }
def sigPkt : Packet := { typ := 16, vc := 3, dnode := 0, snode := 0, src := 0, tag := 0, len := 2, mod := 5, smod := 6, payload := [1, 2] }

theorem wit_PacketsOverLinks : decodePacket 0 (encodePacket { pkt 1 0 64 with mod := 5 } ++ [7]) =
      some ({ pkt 1 0 64 with mod := 5, dnode := 0, snode := 0, sdie := 0, payload := wirePayload (pkt 1 0 64), due := 0 }, [7]) ∧
    decodePacket 3 (encodePacket sigPkt ++ [7]) = some (sigPkt, [7]) ∧
    decodeAll 1 3 ([ackPkt, ackPkt].flatMap encodePacket) = ([ackPkt, ackPkt].map (fun p => { p with snode := 0 }), []) := by decide +kernel

/-- A packet at the head of a VC of link 3; link 4 is a route to module 9. -/
def rcvd (vc : Nat) (p : Packet) : State := active.modLink 3 (fun l => { l with rxq := [(vc, [p])] })
def routed (s : State) : State :=
  (sets s [(F.EVL_CFG_EN, 4, 0, 1), (F.EVL_STATUS_STATE, 4, 0, 5), (F.EVL_ROUTE_VALID, 36, 9, 1), (F.EVL_ROUTE_PRIMARY, 36, 9, 4)]).set F.NVCF_NB_ADMITTED 0 1 4

theorem wit_HubForwards_on : (routed (rcvd 0 { pkt 1 0 0 with mod := 9 })).routeLink 9 = some (4, false) ∧ active.ownMod 9 = false ∧
    (lookD [] ((nx (.linkPacketForward 3 0) (routed (rcvd 0 { pkt 1 0 0 with mod := 9 }))).link 4).tx 0).length = 1 ∧
    (nx (.linkPacketForward 3 0) ((rcvd 0 (pkt 1 0 0)).set F.NVCF_NB_ADMITTED 0 0 3)).get F.EVL_COM_EVT_UNROUTABLE 36 = 1 ∧
    (nx (.linkPacketForward 3 1) (rcvd 1 { ackPkt with mod := 9 })).get F.EVL_UNROUT_LOG_VALID 36 = 1 := by decide +kernel

theorem wit_HubForwards_here : let p : Packet := pkt 1 0 64
    active.ownMod p.mod = true ∧ active.far p.addr = .hbm ∧ active.specR1 (0xFFFF * 2 ^ 48 + p.addr) = false ∧
    active.specAddr 64 active.specCurs (0xFFFF * 2 ^ 48 + p.addr) = 0xFFFF * 2 ^ 48 + p.addr ∧ active.freeHubTag = some 0 ∧
    (nx (.linkPacketForward 3 0) (rcvd 0 p)).hubTags.length = 1 ∧
    (lookD [] (nx (.linkPacketForward 3 0) (rcvd 0 p)).stq (nodeKey (active.bridgeFor p.addr).1 (0x40 + (active.bridgeFor p.addr).2))).length = 1 := by decide +kernel

/-- An outgoing request's tag 5, which an answer frees. -/
def outTag : HubTag := ⟨5, 0, { pkt 0 0 0 with mod := 9 }, 4, 0, 0, 0, none, { pkt 0 0 0 with mod := 9 }⟩

theorem wit_HubForwards_answers : let s := { rcvd 1 ackPkt with hubTags := [outTag] }
    s.hubTag 5 = some outTag ∧ (nx (.linkPacketForward 3 1) s).hubTags = [] ∧ (nx (.linkPacketForward 3 1) (rcvd 1 ackPkt)).get F.EVL_COM_EVT_LATE_ANSWER 36 = 1 ∧
    (lookD [] ((nx (.linkPacketForward 3 3) (rcvd 3 { sigPkt with typ := 17, mod := 0xFFFF })).link 3).rxq 3) = [] ∧
    (nx (.hubTagTimeout 5) { s with now := 19000 * 65536 }).get F.EVL_COM_EVT_TAG_TIMEOUT 36 = 1 := by decide +kernel

theorem wit_HubForwards_signal : let p : Packet := { sigPkt with mod := 0xFFFF, payload := [0, 0, 4, 0xF, 2, 0] }
    (sigOf p.smod 139 p.payload).win ≠ 8 ∧ ((nx (.linkSignal 3) (rcvd 3 p)).core (sigOf p.smod 139 p.payload).dcore).sigIn = [sigOf p.smod 139 p.payload] := by
  decide +kernel

/-- Group 1 leaves on link 3, from this module's cores. -/
def mcast : Packet := { pkt 8 2 0 with mod := 0x8001 }
def grouped : State := { (sets active [(F.EVL_MC_VALID, 36, 1, 1), (F.EVL_MC_IN_LINK, 36, 1, 63), (F.EVL_MC_OUT, 36, 1, 8)]) with deliv := [(hubKey, [mcast])] }

theorem wit_HubMulticast : grouped.vc2Head 63 = some mcast ∧ grouped.linkUp 3 = true ∧ txBodies [{ p := mcast }] ≤ grouped.get F.EVL_CRED_VC2 3 ∧
    grouped.freeHubTag = some 0 ∧ (lookD [] ((nx (.hubMcForward 63) grouped).link 3).tx 2).length = 1 ∧
    nx (.hubMcForward 63) (grouped.set F.EVL_CRED_VC2 3 0) = grouped.set F.EVL_CRED_VC2 3 0 ∧
    (nx (.hubMcForward 63) (grouped.set F.EVL_MC_VALID 36 0 1)).get F.EVL_COM_EVT_MC_DROP 36 = 1 := by decide +kernel

/-! ### Routers and tasks -/

theorem wit_FaultyRouters : (nx (.routerFault 0 3 .ecc 0 0 0) base).get F.MESH_EVT_ECC 3 = 1 ∧ (nx (.routerFault 1 3 .routeMismatch 0 0 0) base).get F.MESH_EVT_ROUTE_MISMATCH 51 = 1 ∧
    lookD 0 (nx (.bridgeCrcRetry 2 7) base).laneRetry 39 = 1 ∧ ((nx (.bridgeCrcRetry 2 7) { base with laneRetry := [(39, 15)] }).router 95).faulty = true ∧
    ((nx (.bridgeCrcRetry 0 15) { base with laneRetry := [(15, 15)] }).router 55).faulty = true := by decide +kernel

theorem wit_FaultyRouters_drain : let s := nx (.routerFault 0 3 .ecc 0 0 0) base
    s.drainPending 0 = true ∧ s.dieRest 0 = 0 ∧ (s.router 3).faulty = true := by decide +kernel

/-- An image of one core with no code, its descriptor, and a task of it on core 0 in slot 2. -/
def img0 : Image :=
  { magic := 0, version := 0, nsect := 0, len := 0, flags := 0, progId := 7, digest := 0, hdrOk := true, layoutOk := true, digestOk := true, sig := none, sects := [],
    grade := 0, mapExact := false, fenced := [], cores := [⟨0, 0, 0, 0, 0, 0, 0, 0, 0, 0⟩], code := [], cmds := [], sched := [], relocs := [], allocs := [], groups := [],
    mcast := [], chans := [], inits := [] }
def prog0 : Prog := { id := 7, img := img0, key := 0, cores := [(0, 0)], bases := [], sbase := [] }
def descBytes (flags ckpt : Nat) : List Byte := leBytes 8 7 ++ leBytes 12 0 ++ leBytes 4 flags ++ leBytes 8 0 ++ leBytes 8 ckpt ++ List.replicate 24 0
def task0 (flags : Nat) : TaskSt := { prog := 7, desc := descOf (descBytes flags 0), cores := [(0, 0)] }
def tasked (st : Nat) (x : TaskSt) : State :=
  ({ (base.modCore 0 (fun y => { y with slot := 2 })) with progs := [prog0], tasks := [(2, x)] }.set F.HUBC_TASK_STATE 0 st 2).set F.HUBC_TASK_VALID 0 1 2
/-- A request in mailbox 1. -/
def asked (s : State) (code : Nat) (a : List Nat) : State := s.setMbxQ (.hubEnd 1) ((code * 2 ^ 24 + 9 * 2 ^ 16 + a.length * 2 ^ 8) :: a)
def status (s : State) : List Nat := (s.hst.resp.map (fun r => r.2.headD 0 % 256))

/-- An aborted task in ENDING. -/
def ended_ (flags why cause : Nat) : State := tasked tsENDING { task0 flags with abort := some (0, cause), why := why }

theorem wit_TakeoverDecision_ends : (ended_ 0 1 8).taskDrained { task0 0 with abort := some (0, 8), why := 1 } = true ∧ (ended_ 0 1 8).drainPending 0 = false ∧
    (ended_ 0 1 8).drainPending 1 = false ∧ (nx (.takeoverDecision 2) (ended_ 0 1 8)).task? 2 = none ∧
    eligible { task0 0 with why := 0 } 2 = false ∧ (nx (.takeoverDecision 2) (ended_ 0 0 2)).task? 2 = none ∧
    eligible { task0 8 with why := 0 } 2 = true ∧ ((ended_ 8 0 2).set F.HUBC_TASK_RESUMES 0 1 2).get F.HUBC_TASK_RESUMES 0 2 = 1 ∧
    (nx (.takeoverDecision 2) ((ended_ 8 0 2).set F.HUBC_TASK_RESUMES 0 1 2)).task? 2 = none ∧ nx (.takeoverDecision 2) (tasked tsRUNNING (task0 0)) = tasked tsRUNNING (task0 0) := by
  decide +kernel

theorem wit_TakeoverDecision_reloads : (nx (.takeoverDecision 2) (ended_ 8 0 2)).taskState 2 = tsRESUMING ∧
    (let s := (ended_ 8 0 2).set F.CLU_FENCE_FENCED 0 1
     s.fenced 0 = true ∧ s.remapTask (task0 8) = none ∧ (nx (.takeoverDecision 2) s).task? 2 = none ∧
     (s.set F.NVCF_SPARE_CL_ENTRIES 0 129).remapTask (task0 8) = some [(0, 16)] ∧
     (nx (.takeoverDecision 2) (s.set F.NVCF_SPARE_CL_ENTRIES 0 129)).taskState 2 = tsRESUMING) := by decide +kernel

/-- The program loaded, with no task; its descriptor in HBM. -/
def loaded : State := { base with progs := [prog0], mem := putBytes [] 0 (descBytes 0 0) }
def startReq : State := asked loaded 0x14 [0, 0xFFFF * 2 ^ 16]

theorem wit_TaskStart_runs : (startReq.takeReq 1 0x14).isSome = true ∧ startReq.tripped = false ∧ startReq.shedding = false ∧ startReq.drainPending 0 = false ∧
    startReq.drainPending 1 = false ∧ arg64 [0, 0xFFFF * 2 ^ 16] 0 = 0xFFFF * 2 ^ 48 ∧ startReq.argAddr (0xFFFF * 2 ^ 48) 64 = .hbm 0 ∧ (descOf (descBytes 0 0)).ok = true ∧
    startReq.startRefused (descOf (descBytes 0 0)) = none ∧ startReq.progOf 7 = some prog0 ∧ startReq.clusterOn 0 = true ∧
    (nx (.start 1 []) startReq).taskState 0 = tsRUNNING ∧ status (nx (.start 1 []) startReq) = [1] := by decide +kernel

theorem wit_TaskStart_refused : ({ startReq with progs := [] } : State).startRefused (descOf (descBytes 0 0)) = some 1 ∧
    (nx (.start 1 []) { startReq with progs := [] }).events.length = 1 ∧
    (descOf (descBytes 0x1000 0)).ok = false ∧ status (nx (.start 1 []) { startReq with mem := putBytes [] 0 (descBytes 0x1000 0) }) = [3] ∧
    status (nx (.start 1 []) (asked loaded 0x14 [0])) = [3] ∧ status (nx (.start 1 []) (startReq.set F.SAFE_STATUS_TRIPPED 0 1)) = [7] ∧
    status (nx (.start 1 []) (asked loaded 0x14 [0, 0x12340000])) = [8] ∧ nx (.start 1 []) (startReq.set F.PWR_STATUS_SHED 0 1) = startReq.set F.PWR_STATUS_SHED 0 1 := by decide +kernel

def cfg0 : CfgImage :=
  { magicOk := true, layoutOk := true, digestOk := true, keyHash := 0, sigOk := true, seq := 0, serial := 0, fabricId := 0, fabricGen := 0, digest := 0, regs := [],
    routes := [], expect := [], spareCl := [], spareMod := none, serves := false, requireSigned := false, keys := [], resident := some (img0, descBytes 0 0) }

theorem wit_TaskStart_resident : let s := ({ loaded with start := { loaded.start with resLoad := 2, cfg := some cfg0 } } : State).set F.NVCF_STATUS_READY 0 1
    s.startRefused (descOf (descBytes 0 0)) = none ∧ (nx .residentTaskStart s).taskState 0 = tsRUNNING ∧ (nx .residentTaskStart s).start.resLoad = 4 := by decide +kernel

/-- A running task; `part` is its core's part ended. -/
def running0 : State := tasked tsRUNNING (task0 0)
def part (flags : Nat) : State := tasked tsRUNNING { task0 flags with exited := [0] }

theorem wit_TaskEnd_exit : running0.reach (.cc 0) .CC 0 = true ∧ (nx (.ccExit 0 1) running0).get F.CC_STATE_STATE 0 = 0 ∧
    (((nx (.ccExit 0 1) running0).task? 2).map (fun x => x.exited)) = some [0] := by decide +kernel

theorem wit_TaskEnd_end : (part 0).coreIdle 0 = true ∧ (part 0).abortedCore (task0 0) = none ∧ (nx (.taskEnd 2) (part 0)).task? 2 = none ∧
    specOutcome (task0 1).desc 0 = 1 ∧ (nx (.taskEnd 2) (part 1)).task? 2 = none ∧ specOutcome (task0 3).desc 0 = 3 ∧ (nx (.taskEnd 2) (part 3)).taskState 2 = tsHELD := by
  decide +kernel

theorem wit_TaskEnd_abort : let s := (running0.set F.CC_TASK_STATUS_ABORTED 0 1).set F.CC_TASK_STATUS_CAUSE 0 5
    s.abortedCore (task0 0) = some (0, 0) ∧ (((nx (.hubTaskAbort 2) s).task? 2).bind (fun x => x.abort)) = some (0, 5) ∧
    (((nx (.hubTaskAbort 2) (running0.set F.CLU_FENCE_FENCED 0 1)).task? 2).bind (fun x => x.abort)) = some (0, 8) ∧ nx (.hubTaskAbort 2) running0 = running0 := by
  decide +kernel

theorem wit_TaskEnd_kill : ((asked running0 0x15 [2]).takeReq 1 0x15).map (fun r => (r.1, r.2.1)) = some (9, [2]) ∧
    (nx (.kill 1) (asked running0 0x15 [2])).taskState 2 = tsENDING ∧ status (nx (.kill 1) (asked running0 0x15 [64])) = [3] ∧
    status (nx (.kill 1) (asked running0 0x15 [3])) = [5] ∧ status (nx (.kill 1) (asked (tasked tsHELD (task0 0)) 0x15 [2])) = [7] := by decide +kernel

theorem wit_SpeculationAndCheckpoints_windows : let a := [3, 0, 0xFFFF * 2 ^ 16, 0x1000, 0xFFFF * 2 ^ 16, 7]
    ((asked base 0x1A a).takeReq 1 0x1A).map (fun r => r.2.1) = some a ∧ gMod (0xFFFF * 2 ^ 16 * 2 ^ 32) = 0xFFFF ∧
    (nx (.specCfg 1) (asked base 0x1A a)).get F.HUBC_SPEC_CFG_VALID 0 3 = 1 ∧ status (nx (.specCfg 1) ((asked base 0x1A a).set F.HUBC_SPEC_CFG_HELD 0 1 3)) = [7] ∧
    status (nx (.specCfg 1) (asked base 0x1A [16, 0, 0xFFFF * 2 ^ 16, 0x1000, 0xFFFF * 2 ^ 16, 7])) = [3] ∧
    (nx (.commit 1) (asked (tasked tsHELD (task0 3)) 0x18 [2])).task? 2 = none ∧ status (nx (.discard 1) (asked (tasked tsHELD (task0 3)) 0x19 [2])) = [0] ∧
    status (nx (.commit 1) (asked running0 0x18 [2])) = [7] ∧ status (nx (.discard 1) (asked running0 0x19 [4])) = [5] := by decide +kernel

theorem wit_SpeculationAndCheckpoints_record : let n := running0.nextInstar 2
    (running0.core 0).slot = 2 ∧ (nx (.ccCkptDone 0 (BitVec.ofNat 64 n)) running0).get F.CC_CKPT_PENDING 0 = 1 ∧
    (((nx (.ccCkptDone 0 (BitVec.ofNat 64 n)) running0).task? 2).map (fun x => x.ckptSent)) = some true ∧
    (nx (.ccCkptDone 0 (BitVec.ofNat 64 (n + 1))) running0).elog.length = 1 ∧
    (let s := tasked tsRUNNING { task0 0 with desc := descOf (descBytes 0 (0xFFFF * 2 ^ 48 + 0x2000)) }
     s.argAddr (0xFFFF * 2 ^ 48 + 0x2000 + 4096 * (n % 2)) 16 = .hbm (0x2000 + 4096 * (n % 2)) ∧
     leNat ((nx (.ccCkptDone 0 (BitVec.ofNat 64 n)) s).readMem (0x2000 + 4096 * (n % 2)) 4) = n) ∧
    (nx (.checkpointComplete 2) (tasked tsRUNNING { task0 0 with ckptSent := true, ckptN := 4 })).get F.HUBC_TASK_INSTAR 0 2 = 4 ∧
    (nx (.energyAccrual [(0, msAclk)] [(0, 32)] 5) running0).get F.HUBC_TASK_E_ENERGY 0 2 = 7 := by decide +kernel

theorem wit_SwitchOutAndBack_out : let s := asked (running0.set F.HUBC_CTX_FREE 0 3) 0x16 [2]
    (nx (.switchOut 1) s).taskState 2 = tsSWITCHING ∧ (nx (.switchOut 1) s).get F.HUBC_CTX_FREE 0 = 2 ∧
    status (nx (.switchOut 1) (s.set F.HUBC_CTX_FREE 0 0)) = [4] ∧ status (nx (.switchOut 1) (asked running0 0x16 [3])) = [5] ∧
    status (nx (.switchOut 1) (asked (tasked tsHELD (task0 0)) 0x16 [2])) = [7] ∧
    (nx (.switchTimeout 2) { tasked tsSWITCHING (task0 0) with now := 1900000 }).taskState 2 = tsENDING := by decide +kernel

theorem wit_SwitchOutAndBack_save : let s := tasked tsSWITCHING (task0 0)
    s.coreStopped 0 = true ∧ s.syncDrained (task0 0) = true ∧ s.abortedCore (task0 0) = none ∧ s.fenced 0 = false ∧
    (nx (.switchSyncDrained ⟨2, 0, 0, .ok⟩) s).taskState 2 = tsOUT ∧ (nx (.switchSyncDrained ⟨2, 0, 0, .unc⟩) s).get F.CC_TASK_STATUS_CAUSE 0 = 4 := by decide +kernel

theorem wit_SwitchOutAndBack_back : let x : TaskSt := { task0 0 with ctx := [(0, { (base.core 0) with pc := 8 })] }
    let s := asked ((tasked tsOUT x).modCore 0 (fun y => { y with slot := 0xFF })) 0x17 [2]
    s.progOf 7 = some prog0 ∧ s.clusterOn 0 = true ∧ (s.vat 0).rebuild = false ∧ ctxCells (base.core 0) = 0 ∧
    (nx (.restore 1) s).taskState 2 = tsRUNNING ∧ ((nx (.restore 1) s).core 0).pc = 8 := by decide +kernel

/-! ### Reduction and time -/

/-- RCH_SEND of 32 FP32 elements as FP32 to an MSU target, dense; RCH_CLOSE of channel 5. -/
def sendCmd : Cmd := mkCmd 0x1C [(16, 0, 0xFFFF * 2 ^ 48 + 2 ^ 20), (28, 20, 9), (32, 22, 2)]
def closeCmd (limit : Nat) : Cmd := mkCmd 0x1D [(16, 0, 5), (28, 0, limit)]
def chan5 (s : State) : State := (s.set F.MSU_RCH_CFG_VALID 0 1 5).set F.MSU_RCH_CFG_WFMT 0 2 5
def closing (limit landed : Nat) : State :=
  (chan5 (base.modCore 0 (fun x => { x with dmCmds := [{ id := 7, q := ⟨closeCmd limit, 0, 0, 0⟩, at_ := 90, issuing := true, reqs := [], gather := 0 }] }))).set
    F.MSU_RCH_LAND_LANDED 0 landed 5

theorem wit_GradientReduction_send : (headed .dm sendCmd).ready 0 .dm (fun k => decide (Cmd.opcode k = 0x1C)) = some (0, ⟨sendCmd, 0, 0, 0⟩, 100) ∧
    (headed .dm sendCmd).rsIllegal 0 sendCmd = false ∧ (headed .dm sendCmd).windowServes 0 .dm 0 (rsWindow sendCmd) = true ∧ rsBlks sendCmd = 1 ∧ rsResid sendCmd = false ∧
    rsCrate sendCmd = 0 ∧ rsK sendCmd = 0 ∧ ((nx (.rchSend ⟨0, .ok⟩) (headed .dm sendCmd)).core 0).dmCmds.map (fun d => d.reqs.map (fun r => r.len)) = [[128]] ∧
    (headed .dm (mkCmd 0x1C [])).rsIllegal 0 (mkCmd 0x1C []) = true ∧ (nx (.rchSend ⟨0, .ok⟩) (headed .dm (mkCmd 0x1C []))).get F.DM_EVT_ILLEGAL 0 = 1 := by decide +kernel

theorem wit_GradientReduction_report : (nx (.landedReport 3) (base.setMsu 3 { landed := [(5, 128)] })).get F.MSU_RCH_LAND_LANDED 0 5 = 128 ∧
    (let s := { base.set F.MSU_RCH_LAND_LANDED 0 128 5 with rchSig := [(5, [sig 0xF 128])] }
     s.rchUnclaimed 5 = 128 ∧ (nx (.rchSignalRelease 5) s).get F.MSU_RCH_LAND_CLAIMED 0 5 = 128 ∧
     nx (.rchSignalRelease 5) (s.set F.MSU_RCH_LAND_LANDED 0 0 5) = s.set F.MSU_RCH_LAND_LANDED 0 0 5) := by decide +kernel

theorem wit_GradientReduction_close : (chan5 (headed .dm (closeCmd 0))).rcIllegal 0 (closeCmd 0) = false ∧
    ((nx (.rchClose 0) (chan5 (headed .dm (closeCmd 0)))).closeHeld 0).isSome = true ∧ (headed .dm (closeCmd 0)).rcIllegal 0 (closeCmd 0) = true ∧
    (closing 0 128).rchReady 5 = true ∧ (closing 0 128).rchLanded 5 = (closing 0 128).rchExpect 5 ∧ (closing 0 128).running 0 = true ∧
    (nx (.rchCloseProceed ⟨0, .ok⟩) (closing 0 128)).get F.MSU_RCH_STEP_STEP 0 5 = 1 ∧ (closing 0 256).rchExpect 5 < (closing 0 256).rchLanded 5 ∧ (closing 0 256).rchWfmt 5 ≠ 0 ∧
    (closing 1 0).rchReady 5 = false ∧ nx (.rchCloseProceed ⟨0, .ok⟩) (closing 1 0) = closing 1 0 ∧
    (nx (.rchCloseTimeout 0) { closing 1 0 with now := 90 + 1025 }).get F.CC_TASK_STATUS_CAUSE 0 = 6 := by decide +kernel

theorem wit_GradientReduction_scale : let s := ((closing 0 32).set F.MSU_RCH_CFG_WFMT 0 0 5).set F.MSU_RCH_CFG_HEAD 0 3 5
    s.rchBlks 5 = 1 ∧ s.rchReady 5 = true ∧ s.rchLanded 5 = s.rchExpect 5 ∧ (nx (.rchCloseProceed ⟨0, .ok⟩) s).get F.MSU_RCH_STEP_STEP 0 5 = 1 := by decide +kernel

/-- Time in a state; a follower of link 3, or a grandmaster. -/
def timed (st : Nat) : State := (active.set F.TIME_STATUS_STATE 0 st).set F.TIME_STATUS_UPLINK 0 3
def master (st : Nat) : State := { ((timed st).set F.TIME_STATUS_VALID 0 1).set F.TIME_CFG_ROLE 0 2 with time := { base.time with acting := true } }
def ann : AnnounceMsg := ⟨true, false, false, 0, 9, 0, 77, 0⟩
/-- An exchange under way, asked at 0. -/
def asking (st : Nat) : State := { timed st with time := { base.time with req := [(3, 5, 0)], outl := 0 } }

theorem wit_TimeReference_exchange : (timed 1).linkReady 3 = true ∧ (timed 1).get F.PERT_TSTAMP_EN 0 = 0 ∧ find? (nx (.tReqSend 3) (timed 1)).time.req 3 ≠ none ∧
    (nx (.tReq 3 5 1 2) (timed 1)).out.length = 1 ∧ find? (asking 1).time.req 3 = some (5, 0) ∧
    ((nx (.tResp 3 5 true (2 ^ 33) (2 ^ 33) (2 ^ 32)) (asking 1)).timeFull ≠ (asking 1).timeFull) ∧
    nx (.tResp 3 5 false 0 0 0) (asking 1) = asking 1 ∧ nx (.tResp 3 6 true 0 0 0) (asking 1) = asking 1 := by decide +kernel

theorem wit_TimeReference_locked : (nx (.tResp 3 5 true (2 ^ 60) (2 ^ 60) (2 ^ 32)) (asking 2)).get F.TIME_EVT_OUTLIER 0 = 1 ∧
    (0 : Int).natAbs ≤ (asking 2).get F.TIME_CFG_XCHK_LIMIT 0 * 2 ^ 32 ∧ (asking 2).tstate = 2 ∧ (asking 2).uplink = 3 := by decide +kernel

theorem wit_TimeReference_masters : (nx (.announceSend 3) (timed 0)).out.length = 1 ∧ 77 % 2 ^ 16 ≠ base.modId ∧ (nx (.announce 3 ann) (timed 0)).tstate = 1 ∧
    (let s := { (timed 2).set F.TIME_STATUS_VALID 0 1 with now := 3 * 1900000000 + 1 }
     (nx .announceTimeout s).tstate = 3) ∧
    (nx .holdMaxExpiry { master 3 with now := 2 ^ 60 }).tstate = 0 ∧ (nx .holdMaxExpiry { timed 3 with now := 2 ^ 60 }).tstate = 4 := by decide +kernel

theorem wit_TimeReference_set : base.reach .hub .TIME 0 = true ∧ (master 0).trole = 2 ∧ (nx (.timeSet .hub 9) (master 0)).timeFull = 9 * 2 ^ 32 ∧
    (nx (.timeSet .hub 9) (timed 0)).elog.length = 1 ∧ (nx .cntMismatch (timed 0)).tstate = 4 ∧ (nx (.freqWindow (-100001)) (timed 0)).tstate = 4 ∧
    nx (.freqWindow 100000) (timed 0) = (timed 0).set F.CLK_STATUS_TCLK_OK 0 1 := by decide +kernel

theorem wit_TimeReference_inputs : let p := { master 2 with time := { (master 2).time with ppsGood := 2 } }
    p.tsource ≠ 1 ∧ (nx (.ppsInEdge 1000) p).get F.TIME_STATUS_PPS_IN_OK 0 = 1 ∧
    (nx (.inputLost 0) (((master 2).set F.TIME_STATUS_PPS_IN_OK 0 1).set F.TIME_CFG_SOURCE 0 1)).tstate = 3 ∧
    (nx (.inputLost 1) ((master 2).set F.TIME_STATUS_REF_IN_OK 0 1)).get F.TIME_STATUS_REF_IN_OK 0 = 0 ∧
    (nx .ptpSourceLoss ((master 2).set F.TIME_CFG_SOURCE 0 2)).tstate = 3 := by decide +kernel

theorem wit_TimeReference_outputs : let s := (master 2).set F.TIME_CFG_PPS_OUT_EN 0 1
    s.tvalid = true ∧ s.timeEnable = true ∧ s.get F.TIME_INC_INC 0 ≠ 0 ∧ (nx .ppsOutEdge s).out.length = 1 ∧ s.tsource ≠ 2 ∧ (nx (.ptpMessage .delayReq) s).out.length = 1 ∧
    (nx (.announceSend 36) s).out.length = 1 ∧ (nx (.ptpMessage (.sync 3 4)) ((master 0).set F.TIME_CFG_SOURCE 0 2)).tstate = 1 := by decide +kernel

/-! ### The loader, the host, PCIe -/

/-- A legal image of no cores, and one that fails. -/
def imgOk : Image := { img0 with magic := 0x50395456, version := 1, nsect := 1, cores := [] }
def loadQ1 : LoadReq := { occ := 1, mbx := some 1, tag := 9, addr := 0, report := 0 }
def loading : State := { base with loadQ := [loadQ1] }
def violsOf (i : Image) : List Viol :=
  let o : LoaderOutcome := ⟨i, [], [], []⟩
  (({ loading with loadQ := [] } : State).copyImage loadQ1 o i.len).allViols i loading.signPolicy.1 loading.signPolicy.2 (i.coreMap []) (basesOf i (i.coreMap []) []) false false

theorem wit_LoadAndUnload_load : let a := fun (f : Nat) => asked base 0x12 [0, 0xFFFF * 2 ^ 16, 0, 0xFFFF * 2 ^ 16, f]
    base.argAddr (0xFFFF * 2 ^ 48) 1024 = .hbm 0 ∧ ((nx (.load 1) (a 0)).loadQ.map (fun r => r.occ)) = [1] ∧ status (nx (.load 1) (a 0)) = [1] ∧
    status (nx (.load 1) (a 2)) = [3] ∧ status (nx (.load 1) (a 1)) = [6] ∧
    status (nx (.load 1) (((a 1).set F.PERT_STATUS_ACTIVE 0 1).set F.PERT_STATUS_PERM 0 64)) = [1] ∧
    status (nx (.load 1) (asked base 0x12 [0, 0x12340000, 0, 0, 0])) = [8] ∧ status (nx (.load 1) ((a 0).set F.SAFE_STATUS_TRIPPED 0 1)) = [7] ∧
    status (nx (.load 1) { a 0 with loadQ := List.replicate 16 loadQ1 }) = [4] := by decide +kernel

theorem wit_LoadAndUnload_run : violsOf imgOk = [] ∧ ((firstViol (violsOf img0)).map (fun v => v.status)) = some 1 ∧ loading.chrysalis = false ∧ loading.warmHold = false ∧
    ((nx (.loaderRun ⟨imgOk, [], [], []⟩) loading).progs.map (fun p => p.id)) = [7] ∧ (nx (.loaderRun ⟨img0, [], [], []⟩) loading).progs = [] ∧
    (nx (.loaderRun ⟨img0, [], [], []⟩) loading).events.length = 1 := by decide +kernel

theorem wit_LoadAndUnload_unload : status (nx (.unload 1) (asked loaded 0x13 [7, 0])) = [0] ∧ status (nx (.unload 1) (asked running0 0x13 [7, 0])) = [7] ∧
    status (nx (.unload 1) (asked loaded 0x13 [8, 0])) = [5] := by decide +kernel

theorem wit_HubAndLoaderComplete : (let s := routed (rcvd 0 { pkt 1 0 0 with mod := 9 });
      s.admitted 3 = true ∧ s.routeLink 9 = some (4, false)) ∧
    (let p : Packet := { sigPkt with mod := 0xFFFF, payload := [0, 0, 4, 0xF, 2, 0] };
      (rcvd 3 p).ownMod p.mod = true ∧ p.typ = 16 ∧ (sigOf p.smod 139 p.payload).win ≠ 8) ∧
    (asked base 0x12 [0, 0xFFFF * 2 ^ 16, 0, 0xFFFF * 2 ^ 16, 0]).mbxQ (.hubEnd 1) = [0x12 * 2 ^ 24 + 9 * 2 ^ 16 + 5 * 2 ^ 8, 0, 0xFFFF * 2 ^ 16, 0, 0xFFFF * 2 ^ 16, 0] ∧
    (asked loaded 0x13 [7, 0]).mbxQ (.hubEnd 1) = [0x13 * 2 ^ 24 + 9 * 2 ^ 16 + 2 * 2 ^ 8, 7, 0] ∧ (asked loaded 0x13 [7, 0]).hubServes = true ∧
    loading.tripped = false ∧ 6 ≤ loading.get F.NVCF_STATUS_PHASE 0 := by decide +kernel

theorem wit_MailboxesAndManagement_words : let m : MbxEnd := .hostEnd 2
    base.mgmtPage .host m = false ∧ base.mbxReach .host m = true ∧ base.bar4Held .host = false ∧ m.partner = some (.hubEnd 2) ∧ base.hubServes = true ∧
    reqKnown (bitsOf (0x12 * 2 ^ 24 + 5 * 2 ^ 8) 31 24) = true ∧ (nx (.mbxTxWrite .host m (0x12 * 2 ^ 24 + 5 * 2 ^ 8)) base).mbxQ (.hubEnd 2) = [0x12 * 2 ^ 24 + 5 * 2 ^ 8] ∧
    (nx (.mbxTxWrite .host m 0) (base.setMbxQ (.hubEnd 2) (List.replicate 8 0))).get F.MBX_STAT_OVERRUN 2048 (MbxEnd.idx (.hubEnd 2)) = 1 ∧
    (nx (.mbxDbRing .host m 1) base).hst.bells.length = 1 ∧ (nx (.mbxRxRead .host m) (base.setMbxQ m [7])).bus = .value 7 ∧ (nx (.mbxRxRead .host m) base).bus = .value 0 := by
  decide +kernel

theorem wit_MailboxesAndManagement_bells : ({ base with hst := { base.hst with bells := [(8192, 100)] } } : State).bellNext = some (8192, 100) ∧ (endOf 8192).core? = some 0 ∧
    (nx .doorbellDeliver { base with hst := { base.hst with bells := [(8192, 100)] } }).get F.MBX_STAT_DB 0 (endOf 8192).idx = 1 ∧ (endOf (8192 + 16)).core? = some 16 ∧
    base.corePresent 16 = true ∧ base.clusterOn 1 = false ∧ base.pwr.turning = [] ∧
    (nx .doorbellDeliver { base with hst := { base.hst with bells := [(8192 + 16, 100)] } }).pwr.turning = [(1, 3520)] ∧
    (nx (.hostDoorbell 0 4) base).get F.PCIE_EVT_HDB_REFUSED 0 = 1 ∧
    (let s := ((base.set F.SU_CCH_EN 0 1 2).set F.SU_CCH_PRIV 0 1 2).set F.SU_CCH_CTR 0 4 2
     s.privChans 0 4 ≠ [] ∧ ((nx (.hostDoorbell 0 (4 + 3 * 2 ^ 16)) s).core 0).sigIn.length = 1) ∧
    base.reach (.cc 0) .MBX 0 = true ∧ (nx (.clusterInboxWrite 0 1 5) base).mbxQ (.inbox (inboxOf 0 1)) = [5] ∧
    (nx (.clusterInboxWrite 0 1 5) (base.setMbxQ (.inbox (inboxOf 0 1)) (List.replicate 8 0))).get F.MBX_STAT_OVERRUN (inboxOf 0 1) 2 = 1 ∧
    (nx (.clusterDoorbell 0 1 1) base).hst.bells.length = 1 ∧ (nx (.mbxHirq 0 1) base).out = [.msix 256] := by decide +kernel

theorem wit_MailboxesAndManagement_port : (({ base with hst := { base.hst with resp := [(2, [1, 2])] } } : State).hst.resp.find? (fun r => decide (r.1 = 2))) = some (2, [1, 2]) ∧
    (nx (.mbxResponse 2) { base with hst := { base.hst with resp := [(2, [1, 2])] } }).mbxQ (.hostEnd 2) = [1, 2] ∧ base.mgmtUp = true ∧
    (nx .mgmtStatus base).out.length = 1 ∧ base.mgmt15 = false ∧
    (let s := base.set F.HUBC_MGMT_MBX15_MGMT 0 1
     s.mgmt15 = true ∧ (nx (.mgmtMbxWrite [0, 0, 0, 0x12]) s).mbxQ (.hubEnd 15) = [0x12000000] ∧
     (nx (.mgmtMbxWrite [0, 0, 0, 0x12]) (s.setMbxQ (.hubEnd 15) (List.replicate 8 0))).out = [.mgmt []]) ∧
    base.hubUp = true ∧ (nx .ethFrameDrop (base.set F.HUBC_MGMT_ETH_EN 0 1)).get F.HUBC_MGMT_ETH_DROP 0 = 1 := by decide +kernel

/-- A good token for a challenge of 5. -/
def tok : Token := ⟨true, 0, 5, 9, 0⟩
def challenged : State := { asked (base.set F.TIME_STATUS_VALID 0 1) 0x1D [0, 0xFFFF * 2 ^ 16, 0] with hst := { (asked base 0x1D [0, 0xFFFF * 2 ^ 16, 0]).hst with challenge := some 5 } }
def challenged1 : State := { challenged with hst := { (asked base 0x1D [0, 0xFFFF * 2 ^ 16, 1]).hst with challenge := some 5 } }

theorem wit_HostRequests : (asked base 0x10 [0, 0xFFFF * 2 ^ 16]).argAddr (0xFFFF * 2 ^ 48) 192 = .hbm 0 ∧
    ((asked base 0x10 [0, 0xFFFF * 2 ^ 16]).takeReq 1 0x10).isSome = true ∧ status (nx (.identify 1) (asked base 0x10 [0, 0x12340000])) = [8] ∧
    ((asked base 0x1B [0, 0xFFFF * 2 ^ 16, 64, 0xFFFF * 2 ^ 16]).takeReq 1 0x1B).isSome = true ∧ base.argAddr (0xFFFF * 2 ^ 48 + 64) 576 = .hbm 64 ∧
    ((asked base 0x1C [0, 0xFFFF * 2 ^ 16, 9]).takeReq 1 0x1C).isSome = true ∧
    (nx (.eventRing 1) (asked base 0x11 [0, 0xFFFF * 2 ^ 16, 16 + 2 ^ 16 * 7])).get F.HUBC_EVQ_VALID 0 1 = 1 ∧
    status (nx (.eventRing 1) (asked base 0x11 [0, 0xFFFF * 2 ^ 16, 15])) = [3] ∧ status (nx (.eventRing 1) (asked base 0x11 [0, 0x12340000, 16])) = [8] := by decide +kernel

theorem wit_HostRequests_tokens : challenged.tokenOk tok = true ∧ (nx (.unlock 1 tok) challenged).get F.HUBC_MGMT_DBG_UNLOCKED 0 = 1 ∧
    status (nx (.unlock 1 { tok with perms := 1 }) challenged) = [6] ∧ challenged1.tvalid = true ∧ challenged1.tokenOk { tok with perms := 3 } = true ∧
    (nx (.testUnlock 1 { tok with perms := 3 }) challenged1).get F.PERT_STATUS_PERM 0 = 3 ∧ status (nx (.testUnlock 1 { tok with perms := 128 }) challenged1) = [6] ∧
    (nx .debugUnlockExpiry (base.set F.HUBC_MGMT_DBG_UNLOCKED 0 1)).get F.HUBC_MGMT_DBG_UNLOCKED 0 = 0 ∧
    (let s := { base with hst := { base.hst with token := some (3, 0) }, now := 2 * 1900000000 }
     (0 + 1) * (10 ^ 9 * 2 ^ 32) ≤ s.timeFull ∧ (nx .tokenLapse s).hst.token = none) := by decide +kernel

/-- A host-window read that waits; a ring with an event held. -/
def hwTag : HubTag := ⟨5, 4, pkt 0 0 0x300000000000, 63, 0, 0, 0, none, pkt 0 0 0x300000000000⟩
def ringed : State := { base with rings := [(1, ⟨0xFFFF * 2 ^ 48, 16, 7, 1, 0⟩)], events := [{ kind := 2, mbx := none, tag := 0, record := [] }] }

theorem wit_PcieFunction : base.hbmUp = true ∧ base.freeHubTag = some 0 ∧ base.get F.PCIE_STATUS_DL_ACTIVE 0 = 1 ∧ base.get F.PCIE_STATUS_DSTATE 0 = 0 ∧
    (nx (.bar4Access 0 true [1, 2] 0 4 false) base).hubTags.length = 1 ∧ hbmProg < hbmProg - 1 + 2 ∧
    (nx (.bar4Access (hbmProg - 1) false [] 2 4 false) base).get F.PCIE_EVT_BAR4_UR 0 = 1 ∧
    (nx (.completionTimeout 5) { base with hubTags := [hwTag] }).get F.PCIE_EVT_HWIN_REFUSED 0 = 1 ∧ base.reach .hub .HUBC 0 = true ∧
    (nx (.evqHeadWrite .hub 1 3) base).get F.HUBC_EVQ_HEAD 0 1 = F.HUBC_EVQ_HEAD.of 3 ∧ (nx (.evqHeadWrite .hub 1 0) ringed).events = [] := by decide +kernel

theorem wit_PcieFunction_links : base.hubUp = true ∧ (nx .dataLinkDown base).get F.PCIE_EVT_LINK_DOWN 0 = 1 ∧ (nx (.d3hotTransition true) base).get F.PCIE_STATUS_DSTATE 0 = 3 ∧
    (let s := base.set F.PCIE_STATUS_DL_ACTIVE 0 0
     s.get F.PWR_STATUS_STATE 0 ≠ 3 ∧ s.get F.PWR_STATUS_STATE 0 ≠ 4 ∧ (nx .pcieLinkUp s).busMaster = true) := by decide +kernel

/-! ### Start-up and the fabric -/

/-- Start-up at a phase. -/
def phaseS (p : Nat) : State := base.set F.NVCF_STATUS_PHASE 0 p
def fwOk_ : FwImage := ⟨true, true, 0, true, 0, false, 0⟩
def fwBad : FwImage := { fwOk_ with magicOk := false }

theorem wit_StartUpPhases_early : (let s := { phaseS 0 with pwr := { base.pwr with efuse := 2 } };
      s.atPhase 0 = true ∧ (nx (.powerPhase true) s).get F.NVCF_STATUS_PHASE 0 = 1) ∧
    (phaseS 1).atPhase 1 = true ∧ (phaseS 1).start.backupOk = false ∧ (nx .backupPhase (phaseS 1)).get F.NVCF_STATUS_FIRST_USE 0 = 1 ∧
    (let s := (({ phaseS 1 with start := { base.start with backupOk := true } } : State)).set F.NVCF_STATUS_LIMIT 0 2
     (nx .backupPhase s).get F.NVCF_STATUS_ATTEMPTS 0 = 1 ∧ (nx .backupPhase (s.set F.NVCF_STATUS_ATTEMPTS 0 2)).chrysalis = true) := by decide +kernel

theorem wit_StartUpPhases_images : (phaseS 2).fwOk { fwOk_ with keyHash := base.fuse.vendorKey } = true ∧ (phaseS 2).fwOk fwBad = false ∧
    (nx (.firmwarePhase fwBad fwBad) (phaseS 2)).chrysalis = true ∧ (phaseS 3).atPhase 3 = true ∧ (phaseS 3).cfgOk { cfg0 with magicOk := false } = false ∧
    (nx (.configPhase { cfg0 with magicOk := false } { cfg0 with magicOk := false }) (phaseS 3)).chrysalis = true := by decide +kernel

theorem wit_StartUpPhases_tests : (nx (.selftestPhase ⟨true, true, true⟩) (phaseS 4)).get F.NVCF_STATUS_PHASE 0 = 5 ∧ (phaseS 4).atPhase 4 = true ∧
    ((phaseS 4).set F.SAFE_STATUS_TRIPPED 0 1).atPhase 4 = true ∧
    (nx (.selftestPhase ⟨true, true, true⟩) ((phaseS 4).set F.SAFE_STATUS_TRIPPED 0 1)).get F.PWR_STATUS_STATE 0 = 3 ∧ (phaseS 5).atPhase 5 = true := by decide +kernel

theorem wit_StartUpPhases_late : (phaseS 6).linksUp = true ∧ (nx .linksPhase (phaseS 6)).get F.NVCF_STATUS_PHASE 0 = 7 ∧
    ((phaseS 6).set F.EVL_CFG_EN 3 1).linksUp = false ∧ (List.range 36).all (fun n => !(phaseS 7).linkActive n) = true ∧
    (nx .neighbourPhase (phaseS 7)).get F.NVCF_STATUS_PHASE 0 = 8 ∧ (linked 5).get F.NVCF_NB_RESULT 0 3 = 0 ∧ (phaseS 8).atPhase 8 = true ∧ (phaseS 8).start.warm = false ∧
    (nx .timePhase ((phaseS 8).set F.TIME_STATUS_VALID 0 1)).get F.NVCF_PHASE_T_TIME 0 8 = (100 - base.romAt) / usAclk % 2 ^ 32 ∧
    nx .readyPhase ((phaseS 8).set F.NVCF_PHASE_T_TIME 0 0xFFFFFFFF 8) = (phaseS 8).set F.NVCF_PHASE_T_TIME 0 0xFFFFFFFF 8 ∧
    (nx .readyPhase ((phaseS 8).set F.NVCF_PHASE_T_TIME 0 7 8)).get F.NVCF_STATUS_READY 0 = 1 := by decide +kernel

theorem wit_StartUpPhases_timeouts : let late := fun (p : Nat) => { phaseS p with now := (phaseS p).start.phaseAt + (phaseS p).phaseBound p }
    (late 0).atPhase 0 = true ∧ (late 1).atPhase 1 = true ∧ (late 2).atPhase 2 = true ∧ (late 3).atPhase 3 = true ∧ (late 4).atPhase 4 = true ∧ (late 4).tripped = false ∧
    (late 5).atPhase 5 = true ∧ (nx (.phaseTimeout 6) (late 6)).get F.NVCF_STATUS_PHASE 0 = 7 ∧ (nx (.phaseTimeout 7) (late 7)).get F.NVCF_STATUS_PHASE 0 = 8 ∧
    (late 8).tvalid = false ∧ (nx (.phaseTimeout 8) (late 8)).get F.NVCF_EVT_TIME_LATE 0 = 1 := by decide +kernel

/-- Chrysalis mode with a request's code in mailbox 0. -/
def chry (code : Nat) : State := (base.set F.NVCF_STATUS_CHRYSALIS 0 1).setMbxQ (.hubEnd 0) [code]

theorem wit_ChrysalisRequests : (chry 1).chrysalis = true ∧ (chry 1).episode = none ∧ ((chry 1).mbxQ (.hubEnd 0)).head? = some 1 ∧ status (nx .chStatus (chry 1)) = [0] ∧
    status (nx (.chProgram 2 [7] 0) (chry 2)) = [0] ∧ status (nx (.chProgram 2 [7] 3) (chry 2)) = [6] ∧ (chry 3).fuse.owner = none ∧
    (nx (.chSetOwner 8) (chry 3)).fuse.owner = some 8 ∧ status (nx (.chSetOwner 8) { chry 3 with fuse := { (chry 3).fuse with owner := some 1 } }) = [6] ∧
    status (nx (.chRead 0 4 9) (chry 4)) = [0] ∧ status (nx (.chRead 0 0x4001 9) (chry 4)) = [3] ∧ status (nx .chClearCount (chry 5)) = [0] ∧
    (nx .chRestart (chry 6)).episode.isSome = true ∧ nx .chStatus (chry 2) = chry 2 := by decide +kernel

def hello_ : HelloMsg := ⟨7, 4, 0, 0, 0⟩
def greeted : State := ((((linked 5).set F.EVL_STATUS_PARTNER_MOD 3 7).set F.EVL_STATUS_PARTNER_LINK 3 4).set F.NVCF_NB_EXPECT_MOD 0 0xFFFF 3).set F.NVCF_NB_EXPECT_LINK 0 63 3

theorem wit_FabricDiscovery_hello : (linked 5).linkActive 3 = true ∧ (linked 5).helloSent 3 = false ∧ (nx (.helloSend 3) (linked 5)).out.length = 1 ∧
    (nx (.hello 3 hello_) greeted).admitted 3 = true ∧ (nx (.hello 3 { hello_ with fabricId := 1 }) greeted).get F.NVCF_NB_RESULT 0 3 = 4 ∧
    (nx (.hello 3 hello_) (greeted.set F.NVCF_NB_EXPECT_MOD 0 8 3)).get F.NVCF_NB_RESULT 0 3 = 2 ∧
    (nx (.hello 3 hello_) (greeted.set F.NVCF_NB_EXPECT_LINK 0 5 3)).get F.NVCF_NB_RESULT 0 3 = 3 ∧
    (nx (.hello 3 { hello_ with link := 5 }) greeted).get F.NVCF_NB_RESULT 0 3 = 5 := by decide +kernel

/-- A registration of module 7's slot 2, and a takeover under way. -/
def reg7 (nbrs : List Nat) : SpareReg := ⟨7, 2, 1, 3, descOf (descBytes 0 0), nbrs, 0⟩
def spare (nbrs : List Nat) : State := { base.set F.NVCF_SPARE_SERVES 0 1 with spareRegs := [reg7 nbrs] }
def takeMsg : TakeoverMsg := ⟨7, 2, 0, descBytes 0 0⟩

theorem wit_FabricDiscovery_beats : (let s := { (running0.set F.NVCF_CFG_HB_PERIOD 0 1) with tasks := [(2, { task0 0 with reg := 2 })], now := msAclk };
      s.atPhase 9 = true ∧ 0 < s.registrations ∧ (nx .heartbeatSend s).start.hbSeq = 1) ∧
    ((nx (.heartbeat 7 3) (spare [])).spareRegs.map (fun r => r.lastHb)) = [100] ∧ nx (.silent 8) (spare []) = spare [] ∧
    (nx (.silent 7) { spare [] with now := 3 * msAclk }).get F.NVCF_EVT_SILENT 0 = 1 := by decide +kernel

theorem wit_FabricDiscovery_register : let r : RegisterMsg := ⟨8, 1, 1, 3, descBytes 0 0, []⟩
    (nx (.register r) base).spareRegs = [] ∧ (nx (.register r) (spare [])).spareRegs.length = 2 ∧
    (nx (.register r) { spare [] with spareRegs := List.replicate 256 (reg7 []) }).spareRegs.length = 256 ∧ (nx (.unregister 7 2) (spare [])).spareRegs = [] ∧
    (let s := tasked tsRUNNING { task0 0 with reg := 1 }
     (((nx (.regAck 2 0) s).task? 2).map (fun x => x.reg)) = some 2 ∧ (((nx (.regAck 2 1) s).task? 2).map (fun x => x.reg)) = some 0 ∧
     (((nx (.registerTimeout 2) { s with now := 10 * msAclk }).task? 2).map (fun x => x.reg)) = some 0) := by decide +kernel

theorem wit_FabricDiscovery_takeover : (nx (.takeover takeMsg) base).taken = [] ∧ (nx (.takeover takeMsg) (spare [])).taken = [(7, 2)] ∧
    (nx (.takeover takeMsg) (spare [9])).taking.length = 1 ∧ (nx (.takeover takeMsg) (spare [])).loadQ.length = 1 ∧
    (nx (.takeAck 2 0) (tasked tsENDING { task0 0 with moving := true, abort := some (0, 2) })).task? 2 = none ∧
    (nx (.isolate 9 7) greeted).linkState 3 = 0 ∧
    (let k : TakeSt := ⟨reg7 [9], true, 0, [9], 1⟩
     (nx (.isolateAck 9 1) { base with taking := [k] }).loadQ.length = 1 ∧
     ((nx (.isolateAck 9 1) { base with taking := [{ k with left := [9, 10] }] }).taking.map (fun q => q.left)) = [[10]] ∧
     (nx .isolateTimeout { base with taking := [k], now := 50 * msAclk }).loadQ.length = 1 ∧ nx .isolateTimeout base = base) := by decide +kernel

theorem wit_FabricDiscovery_alias : let s := routed active
    s.admitted 3 = true ∧ s.linkActive 3 = true ∧ (nx (.aliasMsg 3 5 9 1) s).get F.EVL_ROUTE_PRIMARY 36 5 = 4 ∧ (nx (.aliasMsg 5 5 9 1) s).get F.EVL_COM_EVT_UNROUTABLE 36 = 1 ∧
    nx (.aliasMsg 3 5 9 1) { s with aseq := [(5, 1)] } = { s with aseq := [(5, 1)] } := by decide +kernel

/-! ### Resets, power, safety, logs -/

/-- A reset of the module under way: the pin held, or a source with a release time. -/
def epi (held : List (Nat × Option Nat)) : State := { base with episode := some ⟨2, 4, held, 63, 9, 0, false, 0⟩ }

theorem wit_ResetEpisodes_sources : base.episode = none ∧ base.start.withdrawn = false ∧ (nx .powerOnReset base).get F.RST_HIST_CAUSE 0 0 = 1 ∧
    (nx (.brownOut false) base).get F.RST_HIST_CAUSE 0 0 = 2 ∧ (nx (.pinReset true) base).get F.RST_HIST_REACH 0 0 = 1 ∧ (nx .hubLockup base).get F.RST_HIST_CAUSE 0 0 = 32 ∧
    base.hwdogPeriod = none ∧ (base.set F.NVCF_STATUS_PHASE 0 1).hwdogPeriod = some (2000 * msAclk) ∧
    (nx .hubWatchdogExpiry { base.set F.NVCF_STATUS_PHASE 0 1 with now := 2000 * msAclk }).get F.RST_HIST_CAUSE 0 0 = 8 := by decide +kernel

theorem wit_ResetEpisodes_warm : (nx .debugReset (base.set F.HUBC_MGMT_DBG_UNLOCKED 0 1)).warmHold = true ∧ nx .debugReset base = base ∧ base.reach .hub .RST 0 = true ∧
    (nx (.warmResetRequest .hub 0x57450001) base).get F.RST_HIST_CAUSE 0 0 = 64 ∧ (nx (.warmResetRequest .hub 1) base).elog.length = 1 := by decide +kernel

theorem wit_ResetEpisodes_clocks : (base.set F.CLK_STATUS_C0_LOCK 0 1).clkRuns 0 = true ∧ clkFatal 0 = true ∧
    (nx (.pllLockLoss 0) (base.set F.CLK_STATUS_C0_LOCK 0 1)).get F.RST_HIST_CAUSE 0 0 = 16 ∧ base.clkRuns 0 = false ∧ nx (.pllLockLoss 0) base = base ∧
    (base.set F.CLK_STATUS_C0_LOCK 0 1).clkOk 0 1000 = false ∧ lookD 0 (nx (.clockMonitorWindow [1000]) (base.set F.CLK_STATUS_C0_LOCK 0 1)).watch.clkBad 0 = 1 ∧
    (nx (.clockMonitorWindow [1000]) { base.set F.CLK_STATUS_C0_LOCK 0 1 with watch := { base.watch with clkBad := [(0, 1)] } }).get F.RST_HIST_CAUSE 0 0 = 16 ∧
    (nx (.clockMonitorWindow []) base).episode = none := by decide +kernel

theorem wit_ResetEpisodes_release : ((nx (.pinReset true) (epi [(5, some 0)])).episode.map (fun e => e.held.length)) = some 2 ∧
    ((nx (.pinReset false) (epi [(2, none)])).episode.map (fun e => e.held)) = some [(2, some 100)] ∧
    ((nx (.brownOut true) (epi [(1, none)])).episode.map (fun e => e.held)) = some [(1, some (100 + msAclk))] ∧ nx .resetRelease base = base ∧
    nx .resetRelease (epi [(2, none)]) = epi [(2, none)] ∧ (nx .resetRelease { epi [(2, some 0)] with now := 10 * usAclk }).episode = none := by decide +kernel

theorem wit_ResetEpisodes_watchdog : let s := (base.set F.RST_HWDOG_EN 0 1).set F.RST_HWDOG_PERIOD 0 1
    s.hwdogPeriod = some msAclk ∧ (nx .hwdogWarn { s with now := msAclk }).get F.RST_EVT_HWDOG_WARN 0 = 1 ∧ (nx (.rstHwdogKick .hub 0) base).watch.kick = 100 ∧
    base.reach (.cc 0) .RST 0 = false := by decide +kernel

/-- A core whose reset drains. -/
def draining : State := base.modCore 0 (fun x => { x with drain := some (0, 1, 7) })

theorem wit_CoreResets : base.corePresent 0 = true ∧ base.clusterOn 0 = true ∧ base.fenced 0 = false ∧ (base.core 0).drain = none ∧
    (let s := base.set F.CC_WDOG_EN 0 1; s.wdNow 0 = 0 ∧ wdCounts (s.get F.CC_STATE_STATE 0) = true ∧ ((nx (.coreWatchdogExpiry 0) s).core 0).drain.isSome = true) ∧
    nx (.coreWatchdogExpiry 0) base = base ∧ ((nx (.coreLockup 0 2) base).core 0).drain.isSome = true ∧ ((nx (.coreLockup 0 2) running0).taskState 2) = tsENDING ∧
    nx (.coreLockup 0 5) base = base ∧ base.reach .hub .CC 0 = true ∧ ((nx (.ccWdogWrite .hub 0 3) base).core 0).wdAt = 100 ∧
    nx (.coreResetDrainEnd 0) base = base ∧
    (let s := { draining with now := msAclk * 2 ^ 16 }; (nx (.coreResetDrainEnd 0) s).get F.RST_CORE_LOG_SOURCE 0 = 1 ∧
     (nx (.coreResetDrainEnd 0) (s.set F.RST_CFG_CORE_LIMIT 0 5)).fenced 0 = false ∧ (nx (.coreResetDrainEnd 0) s).fenced 0 = true) := by decide +kernel

/-- The power state with the eFuse in a state. -/
def fused (n : Nat) : State := { base with pwr := { base.pwr with efuse := n, mated := some 0 } }

theorem wit_PowerAndHotPlug_insert : (nx .prsntMate base).pwr.mated = some 100 ∧ nx .prsntMate (fused 0) = fused 0 ∧
    (nx .efuseSoftStart { fused 0 with now := 100 * msAclk }).pwr.efuse = 1 ∧ nx .efuseSoftStart (fused 1) = fused 1 ∧ (nx .softStartComplete (fused 1)).pwr.efuse = 2 ∧
    nx .softStartComplete (fused 2) = fused 2 := by decide +kernel

theorem wit_PowerAndHotPlug_trips : (nx (.efuseShort 1501) (fused 2)).get F.PWR_STATUS_EFUSE_TRIP 0 = 1 ∧ nx (.efuseShort 1500) (fused 2) = fused 2 ∧
    (nx (.efuseOvercurrent 851) (fused 2)).get F.PWR_STATUS_EFUSE_TRIP 0 = 2 ∧ (nx (.efuseSustained 701) (fused 2)).get F.PWR_STATUS_EFUSE_TRIP 0 = 3 ∧
    (nx (.efuseOvervoltage 58001) (fused 2)).get F.PWR_STATUS_EFUSE_TRIP 0 = 4 ∧ (nx (.efuseUndervoltage 36999) (fused 2)).get F.PWR_STATUS_EFUSE_TRIP 0 = 5 ∧
    nx (.efuseUndervoltage 37000) (fused 2) = fused 2 ∧ (nx .undervoltageReclose ((fused 0).set F.PWR_STATUS_EFUSE_TRIP 0 5)).pwr.efuse = 1 ∧
    nx .undervoltageReclose (fused 2) = fused 2 := by decide +kernel

theorem wit_PowerAndHotPlug_withdrawal : (nx .prsntBreak (fused 1)).pwr.mated = none ∧ (nx .prsntBreak (fused 2)).get F.PWR_STATUS_STATE 0 = 4 ∧
    nx .withdrawRailsDischarged base = base ∧
    (nx .withdrawRailsDischarged { fused 2 with pwr := { (fused 2).pwr with wdAt := some 0 }, now := msAclk }).pwr.efuse = 0 := by decide +kernel

theorem wit_PowerAndHotPlug_samples : let s := { base with now := 10 * usAclk }
    base.hubUp = true ∧ (nx (.powerSample 48000 100) s).get F.PWR_IN_VIN 0 = 48000 ∧ 29000 < average 1000 [48000 * 700 / 1000] ∧
    (nx (.powerSample 48000 700) (s.set F.PWR_CFG_SHED_EN 0 1)).shedding = true ∧ nx .shedEnd base = base ∧
    (nx .shedEnd { base.set F.PWR_STATUS_SHED 0 1 with pwr := { base.pwr with goodAt := some 0 }, now := 1000 * msAclk }).get F.PWR_EVT_SHED_END 0 = 1 := by decide +kernel

theorem wit_PowerAndHotPlug_rails : nx (.railFault 14) base = base ∧ (nx (.railFault 0) base).get F.PWR_RAIL_FAULT 0 0 = 1 ∧
    (let s := base.set F.PWR_CFG_IDLE_OFF 0 1; s.clusterOn 0 = true ∧ (nx (.clusterIdleOff 0) s).pwr.idle = [(0, 100)] ∧
      (nx (.clusterIdleOff 0) { s with pwr := { s.pwr with idle := [(0, 0)] }, now := msAclk }).clusterOn 0 = false) ∧
    nx (.clusterPowerGood 1) base = base ∧ (nx (.clusterPowerGood 1) { base with pwr := { base.pwr with turning := [(1, 100)] } }).clusterOn 1 = true ∧
    (nx .p3v3AuxLoss base).hst.auxLost = true ∧ nx .supercapacitorHoldExpiry base = base ∧
    (nx .supercapacitorHoldExpiry { base with hst := { base.hst with auxLost := true } }).start.backupOk = false := by decide +kernel

theorem wit_SensorsAndValve : (nx (.railSample 3 800 1000) base).get F.PWR_RAIL_V 0 3 = 800 ∧ nx (.railSample 14 1 1) base = base ∧
    (nx (.thermalSensorSample 0 500) base).get F.THM_SENS_TEMP 0 0 = 500 ∧ nx (.thermalSensorSample 56 1) base = base ∧ base.get F.PWR_CFG_SHED_EN 0 = 0 ∧
    (nx (.coolantSample 300 400 90 50) { base with now := 10 * msAclk }).get F.THM_COOL_FLOW 0 = 90 ∧ nx .valveStep base = base ∧
    (let s := { base with pwr := { base.pwr with loop := true, valveAt := some 0 }, now := 2000 * msAclk }
     (nx .valveStep s).pwr.stepAt = 2000 * msAclk ∧ (nx .valveFault s).pwr.released = true) ∧ nx .valveFault base = base := by decide +kernel

theorem wit_SafetyChannels_hazards : base.tripped = false ∧ base.hubUp = true ∧ base.get F.PWR_STATUS_STATE 0 ≠ 3 ∧ base.get F.PWR_STATUS_STATE 0 ≠ 4 ∧
    (nx (.hazInput 0 751) base).get F.SAFE_STATUS_EFUSE_BY_SAFE 0 = 1 ∧ nx (.hazInput 1 750) base = base ∧
    (nx (.hazRailOv 0 1 100000) base).get F.SAFE_TRIP_LOG_HAZARD 0 = 1 ∧ nx (.hazRailOv 0 0 100000) base = base ∧
    (nx (.hazRailOc 1 2 10000000) base).get F.SAFE_TRIP_LOG_HAZARD 0 = 2 ∧ (nx (.hazDieOt 0 0 (base.safeLim F.SAFE_LIM_DIE_TRIP 115)) base).tripped = true ∧
    (nx (.hazDieOt 1 48 950) base).get F.SAFE_TRIP_LOG_CHANNEL 0 = 2 ∧ (nx (.hazHbmOt 1 54 900) base).get F.SAFE_TRIP_LOG_HAZARD 0 = 4 ∧
    (nx (.hazHbmOt 0 40 (base.safeLim F.SAFE_LIM_HBM_TRIP 105)) base).tripped = true ∧ nx (.hazHbmOt 1 55 900) base = base := by decide +kernel

theorem wit_SafetyChannels_more : (nx (.hazCoolant 1 55 800) (base.set F.PWR_IN_PIN 0 3001)).tripped = true ∧ nx (.hazCoolant 1 55 800) base = base ∧
    nx (.hazXchk 0 3 0 0) base = base ∧ (nx (.hazXchk 0 3 0 0) { base with safe := { base.safe with out := [(3, 0)] }, now := pairTime 3 }).get F.SAFE_TRIP_LOG_HAZARD 0 = 6 ∧
    (nx (.hazChannel 1) base).pwr.efuse = 0 ∧ (nx (.hazFabric 7 0) base).get F.SAFE_TRIP_LOG_HAZARD 0 = 8 := by decide +kernel

theorem wit_SafetyChannels_beats : (nx (.safetyHeartbeatSend 0) { base with now := msAclk }).safe.sentA = msAclk ∧ base.hst.auxLost = false ∧
    (nx (.safetyHeartbeat 0 false [] 0) base).safe.missA = 1 ∧ (nx (.safetyHeartbeat 1 true [] 3) base).get F.SAFE_HAZ_A_ACTIVE 0 = 3 ∧ nx .safeAck base = base ∧
    (let s := { base.set F.SAFE_STATUS_TRIPPED 0 1 with safe := { base.safe with tripAt := some 0 }, now := msAclk }
     (nx .safeAck s).safe.tripAt = none ∧ s.get F.SAFE_STATUS_A_ACK 0 = 0 ∧ (nx .safeAckTimeout s).get F.SAFE_STATUS_EFUSE_BY_SAFE 0 = 1) := by decide +kernel

theorem wit_SafetyChannels_rearm : let s := base.set F.SAFE_STATUS_TRIPPED 0 1
    base.reach .hub .SAFE 0 = true ∧ (nx (.safeRearm .hub 0x52410001) ((fused 2).set F.SAFE_STATUS_TRIPPED 0 1)).tripped = false ∧
    (nx (.safeRearm .hub 0x52410001) (s.set F.SAFE_STATUS_REARMS 0 3)).get F.SAFE_EVT_REARM_REFUSED 0 = 1 ∧ (nx (.safeRearm .hub 1) s).elog.length = 1 ∧
    nx .rearmPin base = base ∧
    (let p := { (fused 2).set F.SAFE_STATUS_TRIPPED 0 1 with hst := { base.hst with modRstLow := some 0 }, now := 1000 * msAclk }
     (nx .rearmPin p).tripped = false ∧ (nx .rearmPin (p.set F.SAFE_STATUS_REARMS 0 3)).tripped = true) := by decide +kernel

theorem wit_StoreCountersControls : base.reach .hub .ELOG 0 = true ∧ (nx (.propClearAll .hub) base).bus = .written ∧ (nx (.persClear .hub) base).bus = .written ∧
    (nx (.propClearIndex .hub 33) base).bus = .written ∧ base.reach (.cc 0) .ELOG 0 = false ∧
    (let i := pmonOf .ME 0; pmonOwned (i / 2048) ≠ none ∧ base.reach .hub .PMON i = true ∧ base.pmonCounts i 0 = false ∧
      (nx (.pmonCntWrite .hub i 0 9 3) base).rd ⟨.PMON_CNT, i, 0⟩ = 9 ∧
      (let s := ((base.set F.PMON_CFG_EN i 1 0).set F.PMON_CFG_EVENT i 16 0).set F.PMON_CTRL_EN i 1; s.pmonCounts i 0 = true ∧ (nx (.pmonCntWrite .hub i 0 9 3) s).rd ⟨.PMON_CNT, i, 0⟩ = 12)) ∧
    base.reach .hub .PMON (pmonOf .PMON 0) = true ∧ (nx (.pmonGfreezeWrite .hub 1) base).get F.PMON_GFREEZE_FREEZE (pmonOf .PMON 0) = 1 := by decide +kernel

theorem wit_StepRunsFront : ({ base with pending := [.chStatus] } : State).pending = .chStatus :: [] ∧ base.nextTick = none ∧ (∀ r ∈ base.regs, r.1.reg ≠ .PMON_CFG) ∧
    (match step base with | .next t => t | _ => State.reset) = { base with now := 101, evNow := [] } := by decide +kernel

theorem wit_MemoryCanonical : Memory.wf ({ base with mem := putBytes [] 7 [1, 2] } : State).mem ∧ Memory.wf [(7, 1), (8, 2)] ∧ ¬ Memory.wf [(8, 2), (7, 1)] := by decide +kernel

/-! ### Worked examples of the spec -/

/-- 23_address_map.md, three registers of core 0x4A7. -/
theorem test_place_examples : ((placeAt .hub 0x129D260).map (fun p => p.key)) = some ⟨.SU_BAR, 0x4A7, 12⟩ ∧
    ((placeAt .hub 0x129E0F8).map (fun p => p.key)) = some ⟨.TRF_STAMP, 0x4A7, 63⟩ ∧ ((placeAt .hub 0x204AC14).map (fun p => p.key)) = some ⟨.MESH_MC, 58, 5⟩ ∧
    pmonOf .SU 0x4A7 = 0x2CA7 := by decide +kernel

/-- 03_number_formats_and_sliced_precision.md, slicing 5.75 and -1.3 with s = 3 on a grid of 2^-20; -1.3 is FP32 0xBFA66666. -/
theorem test_slices_example : let row := [fmtFP32.decode 0x40B80000, fmtFP32.decode 0xBFA66666]
    sliceRecord 3 row = 4 ∧ ([1, 2, 3].map (fun i => slicePlane 3 i row (fmtFP32.decode 0x40B80000))) = [92, 0, 0] ∧
    ([1, 2, 3].map (fun i => slicePlane 3 i row (fmtFP32.decode 0xBFA66666))) = [256 - 21, 51, 51] ∧
    sliceRecord 3 [fmtFP32.decode 0x3F400000] = 1 ∧ slicePlane 3 1 [fmtFP32.decode 0x3F400000] (fmtFP32.decode 0x3F400000) = 96 := by decide +kernel

/-- The same example's products: 92 · 96 in pass (1, 1), and 4.3125 in FP32. -/
theorem test_sliced_product_example : passShift 1 1 0 = 36 ∧ passShift 2 1 0 = 28 ∧ passShift 3 1 0 = 20 ∧
    (sliceConvert fmtFP32 3 4 1 0 (8832 * 2 ^ 36)).code = 0x408A0000 := by decide +kernel

/-- 02_matrix_engine.md, the BF16 sweep with two K blocks, begun in ACLK 0. -/
def sweep : Cmd :=
  mkCmd 1 [(4, 0, 0x7FFC0200), (8, 0, 1), (10, 0, 1), (16, 0, 0x7F7C0100), (20, 0, 80), (20, 24, 2), (20, 26, 1), (33, 0, 1), (36, 0, 32), (40, 0, 1), (41, 0, 2)]

theorem test_sweep_example : ((List.range 4).map (fun n => (meSel sweep n, meX sweep n, meAddr sweep n / 64))) = [(80, 0, 0), (80, 1, 32), (81, 2, 0), (81, 3, 32)] ∧
    ((meTimeline sweep 1 0 0).1.map (fun p => (p.loadAt, p.streamAt))) = [(some 0, some 17), (none, some 33), (some 49, some 66), (none, some 82)] ∧
    (meTimeline sweep 1 0 0).2 = 98 ∧ meIllegal sweep 1 = false ∧ ({ q := ⟨sweep, 0, 0, 0⟩, op := 1, hw := .ok, todo := [], last := 97, frozen := none } : MeFly).completeAt = 138 := by
  decide +kernel

/-- 13_time_reference.md, one exchange: delay 12 ns, offset -50 ns; the first exchange in ACQUIRE steps the timebase by it. -/
theorem test_exchange_example : let ns : Nat := 2 ^ 32
    let t := nx (.tResp 3 5 true (1000000062 * ns) (1000000082 * ns) (1000000044 * ns)) { asking 1 with time := { (asking 1).time with req := [(3, 5, 1000000000 * ns)] } }
    t.get F.TIME_MEAS_DELAY 0 = 12 * 256 ∧ t.get F.TIME_MEAS_OFFSET 0 = 2 ^ 32 - 50 * 256 := by decide +kernel

end Sys2Proof.Tests
end

section
/-! PROOFS. Writes of a whole register (R6 to R9): where the register space sends them, and what the access codes leave. -/

namespace Sys2Proof.Machine

open Sys2Proof

/-! ### Fields of a word -/

/-- A field depends on its own bits alone. -/
theorem Field.of_congr (f : Field) (a b : Word) (h : ∀ i, f.lo ≤ i → i ≤ f.hi → a.getLsbD i = b.getLsbD i) : f.of a = f.of b := by
  apply Nat.eq_of_testBit_eq
  intro i
  rw [Field.of, Field.of, BitVec.testBit_toNat, BitVec.testBit_toNat, BitVec.getLsbD_extractLsb', BitVec.getLsbD_extractLsb']
  by_cases hi : i < f.width
  · rw [h _ (Nat.le_add_right ..) (by unfold Field.width at hi; omega)]
  · simp [hi]

/-- The complement of a field within its width is the field of the complement. -/
theorem Field.of_not (f : Field) (hf : f.ok = true) (w : Word) : (2 ^ f.width - 1) ^^^ f.of w = f.of (~~~w) := by
  simp only [Field.ok, Bool.and_eq_true, decide_eq_true_eq] at hf
  apply Nat.eq_of_testBit_eq
  intro i
  simp only [Field.of, Nat.testBit_xor, Nat.testBit_two_pow_sub_one, BitVec.testBit_toNat, BitVec.getLsbD_extractLsb', BitVec.getLsbD_not]
  by_cases hi : i < f.width
  · have hw : f.lo + i < 64 := by unfold Field.width at hi; omega
    simp [hi, hw]
  · simp [hi]

/-- Writing a list of fields leaves the bits outside all of them. -/
theorem getLsbD_foldl_ins (l : List Field) (val : Field → Nat) (hl : ∀ f ∈ l, f.ok = true) (i : Nat) (hi : i < 64)
    (h : ∀ f ∈ l, ¬ (f.lo ≤ i ∧ i ≤ f.hi)) (w : Word) : (l.foldl (fun w f => f.ins w (val f)) w).getLsbD i = w.getLsbD i := by
  induction l generalizing w with
  | nil => rfl
  | cons f l ih =>
    rw [List.foldl_cons, ih (fun g hg => hl g (List.mem_cons_of_mem _ hg)) (fun g hg => h g (List.mem_cons_of_mem _ hg)),
      Field.ins_bit f (hl f List.mem_cons_self) w _ i hi, if_neg (h f List.mem_cons_self)]

/-! ### The access codes under the lanes of a whole register -/

theorem Reg.field_ok (r : Reg) {f : Field} (hf : f ∈ r.info.fields) : f.ok = true := fieldsApart_ok r.fields_apart f hf

/-- The byte lanes of a write as wide as its register. -/
def Reg.lanes (r : Reg) : Word := if r.info.wide then fullMask else lowMask

/-- The lanes of a register cover its fields. -/
theorem Reg.lanes_bit (r : Reg) {f : Field} (hf : f ∈ r.info.fields) (i : Nat) (hi : i ≤ f.hi) : r.lanes.getLsbD i = true := by
  have hs := r.sound_all
  simp only [Reg.sound, Bool.and_eq_true, List.all_eq_true, Bool.or_eq_true, decide_eq_true_eq] at hs
  obtain ⟨_, hnarrow⟩ := hs
  have hok := r.field_ok hf
  simp only [Field.ok, Bool.and_eq_true, decide_eq_true_eq] at hok
  have full : fullMask = BitVec.ofNat 64 (2 ^ 64 - 1) := rfl
  have low : lowMask = BitVec.ofNat 64 (2 ^ 32 - 1) := rfl
  unfold Reg.lanes
  split
  · rw [full, BitVec.getLsbD_ofNat, Nat.testBit_two_pow_sub_one]
    simp; omega
  · next hw =>
    have := (hnarrow f hf).resolve_left hw
    rw [low, BitVec.getLsbD_ofNat, Nat.testBit_two_pow_sub_one]
    simp; omega

/-- A field of a register has its value under the register's lanes. -/
theorem Reg.of_lanes (r : Reg) {f : Field} (hf : f ∈ r.info.fields) (a b : Word)
    (h : ∀ i, r.lanes.getLsbD i = true → i < 64 → a.getLsbD i = b.getLsbD i) : f.of a = f.of b := by
  have hok := r.field_ok hf
  simp only [Field.ok, Bool.and_eq_true, decide_eq_true_eq] at hok
  exact f.of_congr a b (fun i _ hi => h i (r.lanes_bit hf i hi) (by omega))

/-- A write of the whole register leaves in each field what its access code says (R6 to R8). -/
theorem Reg.written_lanes (r : Reg) (m : Master) (locked : Bool) (old v held : Word) {f : Field} (hf : f ∈ r.info.fields) :
    f.of (r.written m locked old (v &&& r.lanes &&& ~~~r.holes) r.lanes held) =
      fieldAfter f m.isHub locked old (v &&& ~~~r.holes) held := by
  have plain : f.of ((v &&& r.lanes &&& ~~~r.holes) &&& r.lanes ||| old &&& ~~~r.lanes) = f.of (v &&& ~~~r.holes) :=
    r.of_lanes hf _ _ (fun i hl hi => by simp [hl, hi, -BitVec.getLsbD_eq_getElem])
  have ones : f.of ((v &&& r.lanes &&& ~~~r.holes) &&& r.lanes) = f.of (v &&& ~~~r.holes) :=
    r.of_lanes hf _ _ (fun i hl hi => by simp [hl])
  have kept : f.of (~~~((v &&& r.lanes &&& ~~~r.holes) &&& r.lanes &&& ~~~held)) = f.of (~~~(v &&& ~~~r.holes) ||| held) :=
    r.of_lanes hf _ _ (fun i hl hi => by simp [hl, hi, -BitVec.getLsbD_eq_getElem])
  rw [Reg.written_of r m locked old _ _ held f hf]
  unfold Field.written fieldAfter
  cases f.acc with
  | w1c => simp only [Field.of_not f (r.field_ok hf), kept]
  | w1s => simp only [ones]
  | ro => rfl
  | wo => rfl
  | rw => simp only [plain]
  | rwl => simp only [plain]
  | hubOnly => simp only [plain]

/-- Bits that no field holds keep their values. -/
theorem Reg.written_outside (r : Reg) (m : Master) (locked : Bool) (old v mask held : Word) (i : Nat) (hi : i < 64)
    (h : ∀ f ∈ r.info.fields, ¬ (f.lo ≤ i ∧ i ≤ f.hi)) : (r.written m locked old v mask held).getLsbD i = old.getLsbD i :=
  getLsbD_foldl_ins r.info.fields _ (fun _ hf => r.field_ok hf) i hi h old

/-! ### The write with its record -/

/-- A register-access record is of class 0, which raises no event. -/
theorem State.logAccess_evNow (s : State) (b : Blk) (unit detail master addr v : Nat) :
    (s.logAccess b unit detail master addr v).evNow = s.evNow := rfl

/-- A write by the access codes: a record at most, then the word that the codes give. -/
theorem State.accWrite_cases (s : State) (m : Master) (k : RKey) (v mask : Word) (addr : Nat) :
    ∃ u, Quiet s u ∧ s.accWrite m k v mask addr =
      u.wr k (k.reg.written m (s.locked k.reg.info.blk) (s.rd k) (v &&& ~~~k.reg.holes) mask (s.setMask k)) := by
  unfold State.accWrite
  dsimp only
  split
  · next d _ =>
    refine ⟨_, s.logAccess_quiet k.reg.info.blk k.inst d m.code addr v.toNat, ?_⟩
    unfold State.setMask
    rw [State.logAccess_evNow]
  · exact ⟨s, Quiet.refl s, rfl⟩

/-! ### From an offset to the write -/

/-- A register without behaviour of its own is written by its access codes. -/
theorem State.placeWrite_acc (s : State) (m : Master) (p : RegPlace) (v mask : Word) (addr : Nat) (h : Machine.ownWrite p.hit.reg = false) :
    s.placeWrite m p v mask addr = s.accWrite m p.key v mask addr := by
  unfold State.placeWrite
  dsimp only
  split
  pick_goal -1
  · rfl
  all_goals
    next own => rw [own] at h; exact absurd h (by decide)

/-- Such a register, where it is no dead mailbox page, answers the write and discards its master's latches. -/
theorem State.writeAt_acc (s : State) (m : Master) (p : RegPlace) (v mask : Word) (addr : Nat) (h : Machine.ownWrite p.hit.reg = false)
    (hp : s.mgmtPage m (mbxEndOf p.inst p.hit.idx) = false) :
    s.writeAt m p v mask addr = { (s.access m).accWrite m p.key v mask addr with bus := .written } := by
  unfold State.writeAt
  dsimp only
  split
  pick_goal -1
  · rw [hp, Bool.and_false, if_neg Bool.false_ne_true, State.placeWrite_acc _ _ _ _ _ _ h]
  all_goals
    next own => rw [own] at h; exact absurd h (by decide)

/-- No register place lies in the host's doorbells to counters (R601). -/
theorem placeAt_lt (m : Master) (off : Nat) (p : RegPlace) (h : placeAt m off = some p) : off < 0x4010000 := by
  unfold placeAt at h
  split at h
  · omega
  · split at h
    · next hb => exact hb.2
    · cases h

/-- A naturally aligned write as wide as its register goes to the register, under the lanes of the whole register. -/
theorem State.regWrite_whole (s : State) (m : Master) (off : Nat) (v : Word) (p : RegPlace) (hp : placeAt m off = some p)
    (hl : p.hit.high = false) (ha : off % (if p.hit.reg.info.wide then 8 else 4) = 0) (hr : s.placeReach m p = true) :
    s.regWrite m off p.hit.reg.info.wide v = s.writeAt m p (v &&& p.hit.reg.lanes) p.hit.reg.lanes off := by
  have hlt := placeAt_lt m off p hp
  unfold State.regWrite
  rw [if_neg (not_not_intro ha), if_neg (by omega), hp]
  cases hw : p.hit.reg.info.wide with
  | true =>
    have hv : v &&& fullMask = v := BitVec.and_allOnes
    simp [Reg.lanes, hr, hw, hv]
  | false => simp [Reg.lanes, hr, hw, hl]

/-- The width of an access that is as wide as the register. -/
theorem State.busWrite_whole (s : State) (m : Master) (off : Nat) (wide : Bool) (v : Word) :
    s.busWrite m off (if wide then .w64 else .w32) v = s.regWrite m off wide v := by
  cases wide <;> rfl

/-- Settles O1: the write goes to the register under its lanes (`State.regWrite_whole`), where it is a record at most and the word of the
access codes (`State.accWrite_cases`, `Reg.written_lanes`). -/
theorem registerWriteAccessCodes : Obligations.RegisterWriteAccessCodes := by
  intro s m off v p hp hl ha hown hr hpage
  obtain ⟨u, hu, hw⟩ := (s.access m).accWrite_cases m p.key (v &&& p.hit.reg.lanes) p.hit.reg.lanes off
  have write : exec (.registerWrite m off (if p.hit.reg.info.wide then .w64 else .w32) v) s =
      .next { (s.access m).accWrite m p.key (v &&& p.hit.reg.lanes) p.hit.reg.lanes off with bus := .written } := by
    show execRegisterWrite .. = _
    rw [execRegisterWrite, State.busWrite_whole, State.regWrite_whole s m off v p hp hl ha hr, State.writeAt_acc _ _ _ _ _ _ hown hpage]
  rw [hw] at write
  refine ⟨_, write, rfl, fun f hf => ?_, fun i hi ho => ?_, fun k hk hside => ?_, fun a ha => ?_, ?_⟩
  · exact (congrArg f.of (State.rd_wr_same u p.key _)).trans (p.hit.reg.written_lanes m _ _ v _ hf)
  · exact (congrArg (BitVec.getLsbD · i) (State.rd_wr_same u p.key _)).trans (p.hit.reg.written_outside m _ _ _ _ _ i hi ho)
  · exact (State.rd_wr_other u _ hk).trans (hu.regs k hside)
  · exact hu.mem a ha
  · exact hu.pending

/-! ### A doorbell that is held back (R592, R601) -/

/-- The host's doorbell to the counters of a core. -/
theorem State.regWrite_hdb (s : State) (core : Nat) (v : Word) (h : core < 2048) :
    s.regWrite .host (0x4080000 + 8 * core) false v = s.hdbWrite core (v &&& lowMask) := by
  have hn : (0x4080000 + 8 * core - 0x4080000) / 8 = core := by omega
  unfold State.regWrite
  rw [if_neg (by simp; omega), if_pos ⟨rfl, by omega, by omega, by omega, rfl⟩, hn]

/-- Behind a BAR4 write that its controller has not accepted, a doorbell leaves the state as it is. -/
theorem State.hdbWrite_held (s : State) (core : Nat) (v : Word) (hr : s.mbxReach .host (.hostEnd 0) = true)
    (hc : core < 2048) (hcl : clusterOf core < 48) (hb : s.bar4Held .host = true) : s.hdbWrite core v = s := by
  unfold State.hdbWrite
  rw [if_neg (by simp [hr, hc, hcl]), if_pos hb]

/-- A write of the host through BAR4. -/
def bar4Write : Packet := { typ := 1, vc := 0, dnode := 0, snode := 0, src := 0, tag := 0, len := 0 }

/-- PCIe is up, a BAR4 write of the host waits for its controller, and the host holds the latch of a high half. -/
def heldDoorbell : State :=
  { State.reset.set F.PCIE_STATUS_DL_ACTIVE 0 1 with
    hubTags := [{ tag := 0, kind := 3, p := bar4Write, link := 63, at_ := 0, sent := bar4Write }]
    latch := [(Master.host.code, ⟨.THM_LIM, 0, 0⟩, 7)] }

/-- The command answers the state itself: the doorbell waits behind the BAR4 write. -/
theorem heldDoorbell_registerWrite : exec (.registerWrite .host 0x4080000 .w32 1) heldDoorbell = .next heldDoorbell := by
  show Host.Outcome.next (heldDoorbell.regWrite .host (0x4080000 + 8 * 0) false 1) = _
  rw [State.regWrite_hdb _ _ _ (by decide), State.hdbWrite_held _ _ _ (by decide) (by decide) (by decide) (by decide)]

/-- Refutes O3, in its last clause: a host doorbell that an earlier BAR4 write holds back (R592) answers the state as it was, and with it
the latch that the host holds. -/
theorem not_accessesAndLatch : ¬ Obligations.AccessesAndLatch := by
  unfold Obligations.AccessesAndLatch
  rintro ⟨_, _, _, _, discards⟩
  exact discards heldDoorbell heldDoorbell .host 0x4080000 .w32 1 heldDoorbell_registerWrite _ List.mem_cons_self rfl

end Sys2Proof.Machine
end

section
/-! PROOFS. The state after reset (R10, R580). -/

namespace Sys2Proof.Machine

open Sys2Proof

/-- A field of the reset word has the number of its Reset column (R10). -/
theorem Reg.of_resetWord (r : Reg) {f : Field} (hf : f ∈ r.info.fields) : f.of r.resetWord = f.rst % 2 ^ f.width :=
  of_foldl_ins r.info.fields (·.rst) r.fields_apart f hf 0

/-- After reset every register holds its reset word. -/
@[simp] theorem State.rd_reset (k : RKey) : State.reset.rd k = k.reg.resetWord := rfl

/-- After reset every field holds its Reset value, in every unit that has it. -/
theorem State.get_reset (f : Field) (i j : Nat) (hf : f ∈ f.reg.info.fields) : State.reset.get f i j = f.rst % 2 ^ f.width := by
  rw [State.get_def, State.rd_reset, Reg.of_resetWord _ hf]

/-- A field whose Reset value is 0 reads 0 after reset. -/
theorem State.get_reset_zero (f : Field) (i j : Nat) (hf : f ∈ f.reg.info.fields) (h0 : f.rst = 0) : State.reset.get f i j = 0 := by
  rw [State.get_reset f i j hf, h0, Nat.zero_mod]

/-- After reset no core is fenced. -/
theorem State.fenced_reset (c : Nat) : State.reset.fenced c = false := by
  unfold State.fenced State.bit State.sub
  rw [State.get_reset_zero _ _ _ (by decide) rfl, Nat.zero_div, Nat.zero_mod]
  rfl

/-- Settles O59: the reset state lists nothing, so that every register reads its reset word and every byte 0. -/
theorem resetState : Obligations.ResetState := by
  unfold Obligations.ResetState
  have zero (f : Field) (i : Nat) (hf : f ∈ f.reg.info.fields) (h0 : f.rst = 0) : State.reset.get f i = 0 :=
    State.get_reset_zero f i 0 hf h0
  refine ⟨rfl, rfl, Memory.wf_nil, State.rd_reset, rfl, rfl, rfl, rfl, zero _ _ (by decide) rfl, zero _ _ (by decide) rfl, ?_, ?_,
    fun n => zero _ n (by decide) rfl, fun c => ⟨zero _ c (by decide) rfl, State.fenced_reset c⟩, fun _ => rfl, ?_⟩
  · unfold State.tripped; rw [zero _ _ (by decide) rfl]; rfl
  · unfold State.tvalid; rw [zero _ _ (by decide) rfl]; rfl
  · have nv : ∀ r ∈ [Reg.ME_CHK_CFG, .SPD_CFG, .SAFE_LIM, .PWR_CFG, .NVCF_CFG, .RST_CFG], ∀ f ∈ r.info.fields, f.src = .nv → f.rst = 0 := by
      decide
    intro r hr f hf hsrc
    rw [Reg.of_resetWord r hf, nv r hr f hf hsrc, Nat.zero_mod]

end Sys2Proof.Machine
end

section
/-! PROOFS. Commands of the matrix and vector engines as they begin (R44 to R46, R52, R54, R163, R177, R189, R191). -/

namespace Sys2Proof.Machine

open Sys2Proof

/-- A command of the ME runs the begin of its opcode. -/
theorem exec_of_meOps {c op : Nat} {hw : MeHw} {i : Instr} (h : (op, i) ∈ meOps c hw) (s : State) : exec i s = .next (meRun op c hw s) := by
  unfold meOps at h
  fin_cases h <;> rfl

/-- A command of the VE that runs rows runs the begin of its opcode. -/
theorem exec_of_veOps {c op : Nat} {hw : VeHw} {i : Instr} (h : (op, i) ∈ veOps c hw) (s : State) : exec i s = .next (veRun op c hw s) := by
  unfold veOps at h
  fin_cases h <;> rfl

/-- A command that can begin in the present ACLK begins in it. -/
theorem State.beginHead_now (s : State) {c : Nat} {e : Eng} {ok : State → Cmd → Bool} (run : Nat → Nat → QCmd → State → State) {p : Nat} {q : QCmd}
    (h : s.ready c e (ok s) = some (p, q, s.now)) : s.beginHead c e ok run = run p s.now q s := by
  have hat : s.at_ s.now = s := s.at_of_le _ (Nat.le_refl _)
  simp only [State.beginHead, h, hat]

/-- A command that `ready` takes from a list stands before no command to resume. -/
theorem State.ready_resume {s : State} {c : Nat} {e : Eng} {ok : Cmd → Bool} {p b : Nat} {q : QCmd} (h : s.ready c e ok = some (p, q, b))
    (hp : p ≠ resumed) : ((s.core c).eng e).resume = none := by
  unfold State.ready at h
  cases hr : ((s.core c).eng e).resume with
  | none => rfl
  | some r =>
    simp only [hr] at h
    split at h
    · split at h
      · cases h; exact absurd rfl hp
      · cases h
    · cases h

/-- Without a command to resume the first iteration is iteration 0. -/
theorem EngSt.firstIter_of_none {g : EngSt} (h : g.resume = none) : g.firstIter = 0 := by unfold EngSt.firstIter; rw [h]

/-! ### Lists of an engine -/

@[simp] theorem EngSt.list_setList_same (g : EngSt) (p : Nat) (l : List QCmd) : (g.setList p l).list p = l := by
  match p with
  | 0 | 1 | 2 | _ + 3 => rfl

@[simp] theorem EngSt.begun_lastBegin (g : EngSt) (p b : Nat) : (g.begun p b).lastBegin = b := by
  unfold EngSt.begun; split <;> rfl

/-- Who changes no list of an engine leaves each of them. -/
theorem EngSt.list_congr {g h : EngSt} (h0 : g.q0 = h.q0) (h1 : g.q1 = h.q1) (h2 : g.q2 = h.q2) (h3 : g.q3 = h.q3) (p : Nat) :
    g.list p = h.list p := by
  match p with
  | 0 => exact h0
  | 1 => exact h1
  | 2 => exact h2
  | _ + 3 => exact h3

/-- A command that begins leaves its list. -/
theorem EngSt.begun_list (g : EngSt) {p : Nat} (b : Nat) (hp : p ≠ resumed) : (g.begun p b).list p = (g.list p).drop 1 := by
  unfold EngSt.begun
  rw [if_neg hp]
  exact (EngSt.list_congr rfl rfl rfl rfl p).trans (g.list_setList_same p _)

/-! ### The matrix engine begins a command -/

/-- The acts of a pass are of its iteration. -/
theorem MePass.acts_n {p : MePass} {a : MeAct} (h : a ∈ p.acts) : a.n = p.n := by
  simp only [MePass.acts, List.mem_append, Option.mem_toList, Option.map_eq_some_iff] at h
  rcases h with ⟨_, _, rfl⟩ | ⟨_, _, rfl⟩ <;> rfl

/-- The passes of a command that is not sliced are those of its iterations. -/
theorem mePasses_n (c : Cmd) (op : Nat) (ns : List Nat) (t : Nat) (last : Option Nat) :
    (mePasses c op ns t last).1.map MePass.n = ns := by
  induction ns generalizing t last with
  | nil => rfl
  | cons n ns ih => simp [mePasses, ih]

/-- No act of a command that is not sliced comes before its first iteration. -/
theorem meFlyOf_todo_ge (q : QCmd) (op b n0 : Nat) (reload : Option Nat) (hw : MeHw) (frozen : Option Nat) (hs : (meFmt q.cmd).isSlice = false) :
    ∀ a ∈ (meFlyOf q op b n0 reload hw frozen).todo, n0 ≤ a.n := by
  intro a ha
  simp only [meFlyOf, meTimeline, hs, Bool.false_eq_true, if_false, List.mem_append, List.mem_flatMap] at ha
  rcases ha with ha | ⟨p, hp, ha⟩
  · cases reload with
    | none => cases ha
    | some sel => cases List.mem_singleton.mp ha; exact Nat.le_refl _
  · have hn := List.mem_map_of_mem (f := MePass.n) hp
    rw [mePasses_n] at hn
    obtain ⟨k, _, hk⟩ := List.mem_map.mp hn
    rw [MePass.acts_n ha, ← hk]
    exact Nat.le_add_left ..

/-- The command that the ME begins in the present ACLK. -/
def State.meFlyNow (s : State) (c op : Nat) (hw : MeHw) (q : QCmd) : MeFly :=
  meFlyOf q op s.now (s.core c).me.firstIter (if op = 3 then (s.core c).me.resume.map Resume.sel else none) hw (s.freezeSample c)

/-- A core whose ME has begun `f` from list `p` in ACLK `b`. -/
def CoreSt.meBegun (x : CoreSt) (f : MeFly) (p b : Nat) : CoreSt :=
  { x with me := { x.me.begun p b with lastEntry := f.last }, meFly := x.meFly ++ [f] }

/-- The checks of the begin find nothing against the command (R46, R52, R54). -/
structure MeAccepts (s : State) (c op p : Nat) (cmd : Cmd) : Prop where
  legal : meIllegal cmd op = false
  block : op = 3 → p = resumed ∨ (s.core c).blk ≠ none
  grade : s.gradeS = false ∨ (meFmt cmd).isSlice = false

@[simp] theorem State.modCore_gradeS (s : State) (c : Nat) (g : CoreSt → CoreSt) : (s.modCore c g).gradeS = s.gradeS := rfl
@[simp] theorem State.modCore_freezeSample (s : State) (c d : Nat) (g : CoreSt → CoreSt) : (s.modCore c g).freezeSample d = s.freezeSample d := rfl

/-- The block that the arrays of a core hold does not depend on its queues. -/
@[simp] theorem CoreSt.setEng_blk (x : CoreSt) (e : Eng) (g : EngSt) : (x.setEng e g).blk = x.blk := by cases e <;> rfl

/-- The ME begins an accepted command: it joins the begun commands. -/
theorem meBegin_accepted {s : State} {c op p : Nat} {q : QCmd} (hw : MeHw) (h : MeAccepts s c op p q.cmd) :
    meBegin op c hw p s.now q s = ((s.modCore c (fun x => x.setEng .me ((x.eng .me).begun p s.now))).modCore c
      (fun x => { x with meFly := x.meFly ++ [s.meFlyNow c op hw q] })).setEntry c .me (s.meFlyNow c op hw q).last := by
  have hblock : ¬ (op = 3 ∧ p ≠ resumed ∧ (s.core c).blk.isNone = true) := by
    rintro ⟨h3, hp, hb⟩
    exact (h.block h3).elim hp (fun hn => hn (Option.isNone_iff_eq_none.mp hb))
  have hgrade : ¬ ((s.gradeS && (meFmt q.cmd).isSlice) = true) := by
    rcases h.grade with hg | hg <;> simp [hg]
  unfold meBegin State.meFlyNow
  simp only [State.begin_now, h.legal, Bool.false_eq_true, if_false, State.modCore_same, CoreSt.setEng_blk, if_neg hblock, State.modCore_gradeS,
    if_neg hgrade, State.modCore_freezeSample]
/-- The core in which the ME has begun `f`. -/
theorem State.core_meBegun (s : State) (c p : Nat) (f : MeFly) :
    (((s.modCore c (fun x => x.setEng .me ((x.eng .me).begun p s.now))).modCore c
      (fun x => { x with meFly := x.meFly ++ [f] })).setEntry c .me f.last).core c = (s.core c).meBegun f p s.now := by
  simp only [State.setEntry, State.modCore_same]; rfl

/-- The opcode that `ready` asked for. -/
theorem State.ready_opcode {s : State} {c op p b : Nat} {e : Eng} {q : QCmd} (h : s.ready c e (fun k => decide (Cmd.opcode k = op)) = some (p, q, b)) :
    Cmd.opcode q.cmd = op := by
  obtain ⟨_, _, hop, _⟩ := s.ready_some c e _ p b q h
  exact of_decide_eq_true hop

/-- A command that a list offers begins with its first iteration. -/
theorem State.meFlyNow_fresh (s : State) (c op : Nat) (hw : MeHw) (q : QCmd) (h : (s.core c).me.resume = none) :
    (s.meFlyNow c op hw q).todo = (meTimeline q.cmd op s.now 0).1.flatMap MePass.acts ∧
      (s.meFlyNow c op hw q).last = (meTimeline q.cmd op s.now 0).2 - 1 := by
  have hreload : (if op = 3 then (s.core c).me.resume.map Resume.sel else none) = none := by rw [h]; exact ite_self _
  unfold State.meFlyNow
  rw [EngSt.firstIter_of_none h, hreload]
  exact ⟨rfl, rfl⟩

/-! ### The vector engine begins a command -/

@[simp] theorem State.modCore_veIllegal (s : State) (c d : Nat) (g : CoreSt → CoreSt) (k : Cmd) : (s.modCore c g).veIllegal d k = s.veIllegal d k := rfl
@[simp] theorem State.modCore_veIterBad (s : State) (c d n : Nat) (g : CoreSt → CoreSt) (k : Cmd) :
    (s.modCore c g).veIterBad d k n = s.veIterBad d k n := rfl

/-- The begun command of the VE, its first row due in the present ACLK. -/
def State.veFlyNow (s : State) (c : Nat) (hw : VeHw) (q : QCmd) : VeFly :=
  { q := q, hw := hw, n := (s.core c).ve.firstIter, at_ := s.now, since := s.now, lastW := s.now }

/-- The VE begins a command that its checks accept (R52, R189, R191). -/
theorem veBegin_accepted {s : State} {c op p : Nat} {q : QCmd} (hw : VeHw) (hlegal : s.veIllegal c q.cmd = false)
    (hgrade : 0x38 ≤ op → s.gradeS = false) (hphase : veBackward q.cmd = true → s.get F.VE_CTX_PHASE c = 1) :
    veBegin op c hw p s.now q s = (s.modCore c (fun x => x.setEng .ve ((x.eng .ve).begun p s.now))).modCore c
      (fun x => { x with veFly := some (s.veFlyNow c hw q) }) := by
  have habsent : (s.gradeS && (decide (op = 0x38) || decide (op = 0x39))) = false := by
    by_cases hop : 0x38 ≤ op
    · rw [hgrade hop, Bool.false_and]
    · simp; omega
  have hback : (veBackward q.cmd && decide (s.get F.VE_CTX_PHASE c = 0)) = false := by
    by_cases hb : veBackward q.cmd = true
    · simp [hphase hb]
    · simp [hb]
  unfold veBegin
  simp only [State.begin_now, State.modCore_gradeS, State.modCore_veIllegal, State.modCore_veIterBad, State.modCore_get, hlegal, habsent, hback,
    Bool.false_and, Bool.or_self, Bool.false_eq_true, if_false]
  rfl

/-- The VE refuses a command whose fields are refused, and on grade S a slicing one whose first iteration is. -/
theorem veBegin_illegal {s : State} {c op p : Nat} {q : QCmd} (hw : VeHw)
    (h : s.veIllegal c q.cmd = true ∨ (0x38 ≤ op ∧ op ≤ 0x39 ∧ s.gradeS = true ∧ s.veIterBad c q.cmd 0 = true)) :
    veBegin op c hw p s.now q s = veEndNow (s.begin_ c .ve p s.now) c q 3 := by
  have hbad : (s.veIllegal c q.cmd || (s.gradeS && (decide (op = 0x38) || decide (op = 0x39)) && s.veIterBad c q.cmd 0)) = true := by
    rcases h with h | ⟨h1, h2, hg, hi⟩
    · rw [h, Bool.true_or]
    · have : op = 0x38 ∨ op = 0x39 := by omega
      simp [hg, hi, this]
  unfold veBegin
  simp only [State.begin_now, State.modCore_gradeS, State.modCore_veIllegal, State.modCore_veIterBad, hbad, if_true]

/-- The slicing commands are absent on grade S (R52). -/
theorem veBegin_absent {s : State} {c op p : Nat} {q : QCmd} (hw : VeHw) (hlegal : s.veIllegal c q.cmd = false) (hg : s.gradeS = true)
    (hop : 0x38 ≤ op) (hop' : op ≤ 0x39) (hi : s.veIterBad c q.cmd 0 = false) :
    veBegin op c hw p s.now q s = veEndNow (s.begin_ c .ve p s.now) c q 4 := by
  have hsl : (decide (op = 0x38) || decide (op = 0x39)) = true := by simp; omega
  unfold veBegin
  simp only [State.begin_now, State.modCore_gradeS, State.modCore_veIllegal, State.modCore_veIterBad, hlegal, hi, hg, hsl, Bool.and_false, Bool.or_self,
    Bool.and_self, Bool.false_eq_true, if_false, if_true]

/-- A backward opcode in the forward phase (R191). -/
theorem veBegin_phase {s : State} {c op p : Nat} {q : QCmd} (hw : VeHw) (hlegal : s.veIllegal c q.cmd = false) (hop : op < 0x38)
    (hb : veBackward q.cmd = true) (hp : s.get F.VE_CTX_PHASE c = 0) :
    veBegin op c hw p s.now q s = veEndNow (s.begin_ c .ve p s.now) c q 9 := by
  have hsl : (decide (op = 0x38) || decide (op = 0x39)) = false := by simp; omega
  unfold veBegin
  simp only [State.begin_now, State.modCore_gradeS, State.modCore_veIllegal, State.modCore_get, hlegal, hb, hp, hsl, Bool.and_false, Bool.false_and,
    Bool.or_self, Bool.and_self, Bool.false_eq_true, if_false, if_true, decide_true]

/-! ### Commands that complete as they begin -/

/-- The ME refuses a command that R54 names, or a streaming one without a block (R46). -/
theorem meBegin_illegal {s : State} {c op p : Nat} {q : QCmd} (hw : MeHw)
    (h : meIllegal q.cmd op = true ∨ (op = 3 ∧ p ≠ resumed ∧ (s.core c).blk = none)) :
    meBegin op c hw p s.now q s = meEndNow (s.begin_ c .me p s.now) c q 3 := by
  unfold meBegin
  simp only [State.begin_now, State.modCore_same, CoreSt.setEng_blk, Option.isNone_iff_eq_none]
  rcases h with h | h
  · rw [if_pos h]
  · rw [if_pos h, ite_self]

/-- A sliced command is absent on grade S (R52). -/
theorem meBegin_absent {s : State} {c op p : Nat} {q : QCmd} (hw : MeHw) (hlegal : meIllegal q.cmd op = false)
    (hb : ¬ (op = 3 ∧ p ≠ resumed ∧ (s.core c).blk = none)) (hg : s.gradeS = true) (hs : (meFmt q.cmd).isSlice = true) :
    meBegin op c hw p s.now q s = meEndNow (s.begin_ c .me p s.now) c q 4 := by
  unfold meBegin
  simp only [State.begin_now, State.modCore_same, CoreSt.setEng_blk, Option.isNone_iff_eq_none, hlegal, Bool.false_eq_true, if_false, if_neg hb,
    State.modCore_gradeS, hg, hs, Bool.and_self, if_true]

/-! ### The statement -/

/-- `t` differs from `s` in per-core records alone. -/
def OnlyCores (s t : State) : Prop := t = { s with cores := t.cores }

theorem OnlyCores.trans {s t u : State} (h : OnlyCores s t) (g : OnlyCores t u) : OnlyCores s u := by
  unfold OnlyCores at *
  rw [h] at g
  rw [g]

theorem OnlyCores.modCore (s : State) (c : Nat) (g : CoreSt → CoreSt) : OnlyCores s (s.modCore c g) := rfl

/-- ME_SWEEP, ME_LOAD and ME_MM run when their checks accept them. -/
theorem meRun_now (s : State) {c op p : Nat} {hw : MeHw} {q : QCmd} {i : Instr} (hi : (op, i) ∈ meOps c hw)
    (hr : s.ready c .me (fun k => decide (Cmd.opcode k = op)) = some (p, q, s.now)) : exec i s = .next (meBegin op c hw p s.now q s) := by
  rw [exec_of_meOps hi, meRun, s.beginHead_now _ hr]

theorem veRun_now (s : State) {c op p : Nat} {hw : VeHw} {q : QCmd} {i : Instr} (hi : (op, i) ∈ veOps c hw)
    (hr : s.ready c .ve (fun k => decide (Cmd.opcode k = op)) = some (p, q, s.now)) : exec i s = .next (veBegin op c hw p s.now q s) := by
  rw [exec_of_veOps hi, veRun, s.beginHead_now _ hr]

/-- The last opcode of the VE that runs rows is VE_UNSLICE. -/
theorem veOps_le {c op : Nat} {hw : VeHw} {i : Instr} (h : (op, i) ∈ veOps c hw) : op ≤ 0x39 := by
  unfold veOps at h
  fin_cases h <;> decide

/-- The opcodes 0x30 to 0x33 are the backward ones (R191). -/
theorem veBackward_of_range {q : Cmd} (h1 : 0x30 ≤ Cmd.opcode q) (h2 : Cmd.opcode q ≤ 0x33) : veBackward q = true := by
  have : Cmd.opcode q = 0x30 ∨ Cmd.opcode q = 0x31 ∨ Cmd.opcode q = 0x32 ∨ Cmd.opcode q = 0x33 := by omega
  simpa [veBackward] using this

/-- Settles O16: the begin's checks decide (`meBegin_accepted`, `meBegin_illegal`, `meBegin_absent` and their like of the VE), and a command that
no context switch stopped begins with its first iteration. -/
theorem engineCommandsBegin : Obligations.EngineCommandsBegin := by
  unfold Obligations.EngineCommandsBegin
  refine ⟨?_, ?_, ?_, ?_⟩
  · intro s c op p hw q i hi hr hlegal hblock hgrade
    have hrun := meRun_now s hi hr
    rw [meBegin_accepted hw ⟨hlegal, hblock, hgrade⟩] at hrun
    refine ⟨_, s.meFlyNow c op hw q, hrun, ((OnlyCores.modCore ..).trans (OnlyCores.modCore ..)).trans (OnlyCores.modCore ..), ?_⟩
    rw [State.core_meBegun]
    refine ⟨rfl, rfl, rfl, rfl, rfl, rfl, rfl, rfl, fun hp => s.meFlyNow_fresh c op hw q (State.ready_resume hr hp), fun _ => ?_, rfl,
      EngSt.begun_lastBegin .., fun hp => ?_, rfl, rfl, rfl, rfl, rfl, rfl, fun d hd => ?_⟩
    · by_cases hs : (meFmt q.cmd).isSlice = true
      · exact .inr hs
      · refine .inl (List.filter_eq_nil_iff.mpr fun a ha => ?_)
        have := meFlyOf_todo_ge _ _ _ _ _ _ _ (Bool.not_eq_true _ ▸ hs) a ha
        simpa using this
    · exact (EngSt.list_congr rfl rfl rfl rfl p).trans ((s.core c).me.begun_list s.now hp)
    · simp only [State.setEntry, State.modCore_other _ _ hd]
  · intro s c op p hw q i hi hr hlegal hgrade hphase
    have hrun := veRun_now s hi hr
    rw [veBegin_accepted hw hlegal hgrade hphase] at hrun
    refine ⟨_, s.veFlyNow c hw q, hrun, (OnlyCores.modCore ..).trans (OnlyCores.modCore ..), ?_⟩
    rw [State.modCore_same, State.modCore_same]
    refine ⟨rfl, rfl, rfl, rfl, rfl, rfl, rfl, rfl, rfl, fun hp => ⟨EngSt.firstIter_of_none (State.ready_resume hr hp), ?_⟩, rfl, rfl, rfl, rfl, rfl,
      fun d hd => ?_⟩
    · exact (s.core c).ve.begun_list s.now hp
    · rw [State.modCore_other _ _ hd, State.modCore_other _ _ hd]
  · intro s c op p hw q i hi hr
    refine ⟨fun h => ?_, fun hlegal hb hg hs => ?_⟩
    · rw [meRun_now s hi hr, meBegin_illegal hw h]; rfl
    · rw [meRun_now s hi hr, meBegin_absent hw hlegal hb hg hs]; rfl
  · intro s c op p hw q i hi hr
    refine ⟨fun h => ?_, fun hlegal hg hop hiter => ?_, fun hlegal h1 h2 hp => ?_⟩
    · rw [veRun_now s hi hr, veBegin_illegal hw (h.imp_right fun ⟨h1, hrest⟩ => ⟨h1, veOps_le hi, hrest⟩)]; rfl
    · rw [veRun_now s hi hr, veBegin_absent hw hlegal hg hop (veOps_le hi) hiter]; rfl
    · have hop := State.ready_opcode hr
      rw [veRun_now s hi hr, veBegin_phase hw hlegal (by omega) (veBackward_of_range (by omega) (by omega)) hp]; rfl

end Sys2Proof.Machine
end

section
/-! PROOFS. A vat cell that is read with an uncorrectable error, with an event ring in HBM (R159, R604, R702). -/

namespace Sys2Proof.Machine

open Sys2Proof

/-- HEAD_SELECT on a cell with an uncorrectable error, for a queue without a head (R159): the event and its record, then the command
leaves its list and completes with ECC. -/
theorem exec_headSelect_cell {s : State} {c : Nat} {e : Eng} {p : Nat} {q : QCmd} (hrun : s.running c = true) (hbp : s.bpEngine c e = false)
    (hinj : s.inj = []) (hc : (s.core c).choice e = some (p, q)) (hh : ((s.core c).eng e).head = none) (hme : e ≠ .me) (hdm : e ≠ .dm) :
    exec (.headSelect c e .cell) s = .next ((((s.flag F.VAT_EVT_CELL_ECC (cluInst c)).logHw 2 .VAT 3 (cluInst c)).modCore c (fun x =>
      x.setEng e { ((s.core c).eng e).setList p ((((s.core c).eng e).list p).drop 1) with head := none })).complete c e q 6 0) := by
  have hat : s.injAt 3 (cluInst c) [(q.cell, 1)] = none := by unfold State.injAt; rw [hinj]; rfl
  show execHeadSelect c e .cell s = _
  unfold execHeadSelect
  dsimp only
  rw [if_neg (by simp [hrun, hbp]), hc]
  dsimp only
  rw [hh]
  dsimp only
  rw [if_neg (by simp), hat, State.injStep_none, if_neg (by simp)]
  dsimp only
  split
  · exact absurd rfl hme
  · exact absurd rfl hdm
  · rfl

/-- Core 0 runs with one command in a list of its SU, and the host has registered an event ring at the first byte of HBM. -/
def ringedQueue : State :=
  { (State.reset.set F.PWR_CDOM_PG_PG 0 1).modCore 0 (fun x => { x with su := { q0 := [⟨0, 0, 0, 0⟩] } }) with
    rings := [(0, { base := 0, size := 16, vector := 7, phase := 1, seq := 0 })] }

/-- The record of the cell's error is of class 2, and its notice (KIND 4) goes into the ring. -/
theorem ringedQueue_notice : ((ringedQueue.flag F.VAT_EVT_CELL_ECC (cluInst 0)).logHw 2 .VAT 3 (cluInst 0)).readByte 0 = 4 := by decide +kernel

theorem ringedQueue_memory : ringedQueue.readByte 0 = 0 := by decide +kernel

/-- Refutes O10, in its clause on a cell that is read with an uncorrectable error: its error notice (R702) is an entry of the event ring
(R604), and a ring that lies in HBM is memory. -/
theorem not_queueHeadsAndAbort : ¬ Obligations.QueueHeadsAndAbort := by
  unfold Obligations.QueueHeadsAndAbort
  rintro ⟨⟨select, _⟩, _⟩
  have hrun : ringedQueue.running 0 = true := by decide +kernel
  have hc : (ringedQueue.core 0).choice .su = some (0, ⟨0, 0, 0, 0⟩) := by decide +kernel
  have hh : ((ringedQueue.core 0).eng .su).head = none := by decide +kernel
  have hbp : ringedQueue.bpEngine 0 .su = false := by decide +kernel
  obtain ⟨t, ht, -, -, -, -, hmem⟩ := (select ringedQueue 0 .su 0 ⟨0, 0, 0, 0⟩ hrun hbp rfl hc (.inl hh)).2.1 (by decide)
  have hcell := exec_headSelect_cell hrun hbp rfl hc hh (by decide) (by decide)
  rw [ht] at hcell
  rw [Host.Outcome.next.inj hcell, (State.complete_local ..).mem, State.modCore_mem] at hmem
  have hbyte := congrArg (getByte · 0) hmem
  exact absurd ((ringedQueue_notice.symm.trans hbyte).trans ringedQueue_memory) (by decide)

end Sys2Proof.Machine
end

section
/-! PROOFS. The timeline of a command of the matrix engine (R45, R50). -/

namespace Sys2Proof.Machine

open Sys2Proof

/-! ### Commands that are not sliced (R45) -/

/-- Loads alone take 17 ACLK each. -/
theorem mePasses_load_end (c : Cmd) (ns : List Nat) (t : Nat) (last : Option Nat) : (mePasses c 2 ns t last).2 = t + 17 * ns.length := by
  induction ns generalizing t last with
  | nil => rfl
  | cons n ns ih => simp only [mePasses, decide_true, Bool.true_or, if_true, ih, List.length_cons]; omega

/-- The load of the `k`-th iteration begins 17 ACLK after the one before it. -/
theorem mePasses_load_get (c : Cmd) (ns : List Nat) (t : Nat) (last : Option Nat) (k : Nat) :
    (mePasses c 2 ns t last).1[k]? = ns[k]?.map (fun n => ⟨n, some (t + 17 * k), meSel c n, meX c n, none, 1, 1⟩) := by
  induction ns generalizing t last k with
  | nil => rfl
  | cons n ns ih =>
    cases k with
    | zero => rfl
    | succ k =>
      have ht : t + 17 + 17 * k = t + 17 * (k + 1) := by omega
      simp [mePasses, ih, ht]

/-- Streamed tiles alone take 16 ACLK each. -/
theorem mePasses_stream_end (c : Cmd) (ns : List Nat) (t : Nat) (last : Option Nat) : (mePasses c 3 ns t last).2 = t + 16 * ns.length := by
  induction ns generalizing t last with
  | nil => rfl
  | cons n ns ih => simp [mePasses, ih]; omega

/-- The tile of the `k`-th iteration begins 16 ACLK after the one before it. -/
theorem mePasses_stream_get (c : Cmd) (ns : List Nat) (t : Nat) (last : Option Nat) (k : Nat) :
    (mePasses c 3 ns t last).1[k]? = ns[k]?.map (fun n => ⟨n, none, meSel c n, meX c n, some (t + 16 * k), 1, 1⟩) := by
  induction ns generalizing t last k with
  | nil => rfl
  | cons n ns ih =>
    cases k with
    | zero => rfl
    | succ k =>
      have ht : t + 16 + 16 * k = t + 16 * (k + 1) := by omega
      simp [mePasses, ih, ht]

/-- A sweep loads a block in its first iteration and wherever the selection changes. -/
def meLoads (c : Cmd) (n : Nat) : Bool := decide (n = 0) || decide (meSel c n ≠ meSel c (n - 1))

/-- The selection that the arrays of a sweep hold before iteration `n`. -/
def meSelBefore (c : Cmd) (n : Nat) : Option Nat := if n = 0 then none else some (meSel c (n - 1))

/-- A sweep loads where the arrays hold another selection, or none. -/
theorem meSelBefore_ne (c : Cmd) (n : Nat) : decide (meSelBefore c n ≠ some (meSel c n)) = meLoads c n := by
  unfold meSelBefore meLoads
  by_cases h : n = 0
  · simp [h]
  · simp [h, eq_comm]

/-- An iteration of a sweep: a load where the block changes, then the tile. -/
theorem mePasses_sweep_cons (c : Cmd) (n : Nat) (ns : List Nat) (t : Nat) (last : Option Nat) : (mePasses c 1 (n :: ns) t last).2 =
    (mePasses c 1 ns (t + 16 + if decide (last ≠ some (meSel c n)) = true then 17 else 0) (some (meSel c n))).2 := by
  by_cases h : last = some (meSel c n)
  · simp [mePasses, h]
  · simp [mePasses, h, Nat.add_right_comm]

/-- A sweep takes 16 ACLK for each tile and 17 for each load. -/
theorem mePasses_sweep_end (c : Cmd) (k m t : Nat) : (mePasses c 1 (List.range' k m) t (meSelBefore c k)).2 =
    t + 16 * m + 17 * (List.range' k m).countP (meLoads c) := by
  induction m generalizing k t with
  | zero => rfl
  | succ m ih =>
    have hnext : some (meSel c k) = meSelBefore c (k + 1) := rfl
    rw [List.range'_succ, mePasses_sweep_cons, meSelBefore_ne, hnext, ih, List.countP_cons]
    split <;> omega

/-- A command that is not sliced runs its iterations in order. -/
theorem meTimeline_plain (c : Cmd) (op b : Nat) (h : (meFmt c).isSlice = false) :
    meTimeline c op b 0 = mePasses c op (List.range (Cmd.iters c)) b none := by
  simp [meTimeline, h]

/-- R45 for the commands that are not sliced. -/
theorem meTimeline_plain_entries (q : Cmd) (b : Nat) (h : (meFmt q).isSlice = false) :
    (meTimeline q 2 b 0).2 = b + 17 * Cmd.iters q ∧ (meTimeline q 3 b 0).2 = b + 16 * Cmd.iters q ∧
    (meTimeline q 1 b 0).2 = b + 16 * Cmd.iters q + 17 * (List.range (Cmd.iters q)).countP (meLoads q) ∧
    (∀ n, n < Cmd.iters q → (meTimeline q 3 b 0).1[n]? = some ⟨n, none, meSel q n, meX q n, some (b + 16 * n), 1, 1⟩ ∧
      (meTimeline q 2 b 0).1[n]? = some ⟨n, some (b + 17 * n), meSel q n, meX q n, none, 1, 1⟩) := by
  simp only [meTimeline_plain q _ b h]
  refine ⟨?_, ?_, ?_, fun n hn => ⟨?_, ?_⟩⟩
  · rw [mePasses_load_end, List.length_range]
  · rw [mePasses_stream_end, List.length_range]
  · rw [List.range_eq_range']; exact mePasses_sweep_end q 0 _ b
  · rw [mePasses_stream_get, List.getElem?_range hn]; rfl
  · rw [mePasses_load_get, List.getElem?_range hn]; rfl

/-! ### Sliced sweeps (R50) -/

/-- A stationary slice takes 17 ACLK for its load and 16 for each streamed slice. -/
theorem slicePasses_end (c : Cmd) (s : Nat) (l : List (Nat × Nat)) (t : Nat) :
    (slicePasses c s l t).2 = t + (l.map (fun pj => 17 + 16 * (Cmd.loop c 0 * (s + 1 - pj.2)))).sum := by
  induction l generalizing t with
  | nil => rfl
  | cons pj l ih =>
    simp [slicePasses, ih]; omega

/-- Stationary slice `j` of `s` meets `s - j` streamed slices. -/
theorem sum_map_range_sub (s : Nat) : ((List.range s).map (fun j => s - j)).sum = s * (s + 1) / 2 := by
  have twice : ((List.range s).map (fun j => s - j)).sum * 2 = s * (s + 1) := by
    induction s with
    | zero => rfl
    | succ s ih =>
      rw [List.range_succ_eq_map, List.map_cons, List.map_map, List.sum_cons]
      simp only [Function.comp_def, Nat.succ_eq_add_one, Nat.add_sub_add_right, Nat.sub_zero]
      rw [Nat.add_mul, ih]
      ring
  omega

/-- The slices of one level-0 pass. -/
theorem sum_map_slices (l0 s : Nat) :
    ((List.range s).map (fun j => 17 + 16 * (l0 * (s + 1 - (j + 1))))).sum = 17 * s + 16 * l0 * (s * (s + 1) / 2) := by
  rw [← sum_map_range_sub]
  simp only [Nat.add_sub_add_right, List.sum_map_add, ← Nat.mul_assoc, List.sum_map_mul_left]
  simp [Nat.mul_comm]

/-- R50 for a sliced sweep. -/
theorem meTimeline_sliced_end (q : Cmd) (b : Nat) (h : (meFmt q).isSlice = true) : (meTimeline q 1 b 0).2 =
    b + Cmd.loop q 1 * Cmd.loop q 2 * Cmd.loop q 3 * (17 * meSlices q + 16 * Cmd.loop q 0 * (meSlices q * (meSlices q + 1) / 2)) := by
  have hpass (p : Nat) : (((List.range (meSlices q)).map (fun j => (p, j + 1))).map
      (fun pj : Nat × Nat => 17 + 16 * (Cmd.loop q 0 * (meSlices q + 1 - pj.2)))).sum =
      17 * meSlices q + 16 * Cmd.loop q 0 * (meSlices q * (meSlices q + 1) / 2) := by
    rw [List.map_map]; exact sum_map_slices _ _
  simp only [meTimeline, h, if_true, Nat.zero_div, Nat.sub_zero, Nat.zero_add]
  rw [slicePasses_end, List.map_flatMap, List.flatMap_def, List.sum_flatten, List.map_map]
  simp only [Function.comp_def, hpass, List.map_const', List.sum_replicate, List.length_range, smul_eq_mul]

end Sys2Proof.Machine
end

section
/-! PROOFS. The acts of a begun command of the matrix engine: loads, streams and refusals (R20, R21, R23, R25, R29). -/

namespace Sys2Proof.Machine

open Sys2Proof

/-! ### What an act of the matrix engine leaves -/

/-- Memory outside the entries of event rings stays, and the rings lie where they lay. -/
structure MemQuiet (s t : State) : Prop where
  mem : ∀ a, ringByte s a = false → t.readByte a = s.readByte a
  ring : ∀ a, ringByte t a = ringByte s a

theorem MemQuiet.trans {s t u : State} (h : MemQuiet s t) (g : MemQuiet t u) : MemQuiet s u where
  mem a ha := (g.mem a (by rw [h.ring]; exact ha)).trans (h.mem a ha)
  ring a := (g.ring a).trans (h.ring a)

theorem MemQuiet.of_quiet {s t : State} (h : Quiet s t) : MemQuiet s t := ⟨h.mem, h.ring⟩
theorem MemQuiet.of_local {s t : State} (h : Local s t) : MemQuiet s t := by
  rw [h]; exact ⟨fun _ _ => rfl, fun _ => rfl⟩

/-- What every act of a begun ME command keeps: memory outside event-ring entries, the other cores, and of its own core the tile rows and the
integer registers. -/
structure ActFrame (s t : State) (c : Nat) : Prop where
  mem : MemQuiet s t
  others : ∀ d, d ≠ c → t.core d = s.core d
  trf : (t.core c).trf = (s.core c).trf
  wbuf : (t.core c).wbuf = (s.core c).wbuf
  x : (t.core c).x = (s.core c).x

section
variable {s t u : State} {c : Nat}

theorem ActFrame.trans (h : ActFrame s t c) (g : ActFrame t u c) : ActFrame s u c where
  mem := h.mem.trans g.mem
  others d hd := (g.others d hd).trans (h.others d hd)
  trf := g.trf.trans h.trf
  wbuf := g.wbuf.trans h.wbuf
  x := g.x.trans h.x

/-- Operations that leave every core. -/
theorem ActFrame.of_cores (h : MemQuiet s t) (hc : ∀ d, t.core d = s.core d) : ActFrame s t c where
  mem := h
  others d _ := hc d
  trf := by rw [hc]
  wbuf := by rw [hc]
  x := by rw [hc]

theorem ActFrame.of_quiet (h : Quiet s t) : ActFrame s t c := .of_cores (.of_quiet h) h.core

theorem ActFrame.wr (s : State) (c : Nat) (k : RKey) (v : Word) : ActFrame s (s.wr k v) c := .of_cores (.of_local (Local.wr ..)) fun _ => rfl
theorem ActFrame.set (s : State) (c : Nat) (f : Field) (i v j : Nat) : ActFrame s (s.set f i v j) c := ActFrame.wr s c _ _
theorem ActFrame.bump (s : State) (c : Nat) (f : Field) (i n j : Nat) : ActFrame s (s.bump f i n j) c := ActFrame.wr s c _ _
theorem ActFrame.flag (s : State) (c : Nat) (f : Field) (i j : Nat) : ActFrame s (s.flag f i j) c := .of_cores (.of_local (Local.flag ..)) fun _ => rfl
theorem ActFrame.refl (s : State) (c : Nat) : ActFrame s s c := .of_cores (.of_local (Local.refl s)) fun _ => rfl

theorem ActFrame.flagIf (s : State) (c : Nat) (b : Bool) (f : Field) (i j : Nat) : ActFrame s (s.flagIf b f i j) c := by
  unfold State.flagIf
  split
  · exact .flag ..
  · exact .refl ..

theorem ActFrame.modCore (s : State) (c : Nat) (g : CoreSt → CoreSt) (htrf : (g (s.core c)).trf = (s.core c).trf)
    (hwbuf : (g (s.core c)).wbuf = (s.core c).wbuf) (hx : (g (s.core c)).x = (s.core c).x) : ActFrame s (s.modCore c g) c where
  mem := .of_local (Local.modCore ..)
  others d hd := State.modCore_other s g hd
  trf := by rw [State.modCore_same, htrf]
  wbuf := by rw [State.modCore_same, hwbuf]
  x := by rw [State.modCore_same, hx]
end

/-! ### Reads of tiles without errors -/

/-- A scheduled tile read leaves the tiles and the block in the arrays. -/
theorem State.meRead_frame (s : State) (c tile rows t : Nat) (st : Bool) : ActFrame s (s.meRead c tile rows t st) c := by
  unfold State.meRead
  refine (ActFrame.of_quiet (State.pmon_quiet ..)).trans (.modCore _ _ _ ?_ ?_ ?_) <;> cases st <;> rfl

theorem State.meRead_blk (s : State) (c tile rows t : Nat) (st : Bool) : ((s.meRead c tile rows t st).core c).blk = (s.core c).blk := by
  unfold State.meRead
  rw [State.modCore_same, (State.pmon_quiet ..).core]
  cases st <;> rfl

/-- Without injected errors no read meets one. -/
theorem State.injAt_nil {s : State} (h : s.inj = []) (unit owner : Nat) (rs : List (Nat × Nat)) : s.injAt unit owner rs = none := by
  unfold State.injAt; rw [h]; rfl

/-- Without errors of the hardware and of PERT_ECC every read of an act is good. -/
theorem State.actEcc_ok {s : State} {f : MeFly} (hinj : s.inj = []) (hhw : f.hw = .ok) (c : Nat) (a : MeAct) : s.actEcc c f a = ([], none) := by
  simp [State.actEcc, State.injAt_nil hinj, hhw]

/-- A write of a field leaves the fields of other registers. -/
theorem State.get_set_reg (s : State) (f g : Field) (i v j i' j' : Nat) (h : g.reg ≠ f.reg) : (s.set f i v j).get g i' j' = s.get g i' j' := by
  rw [State.get_def, State.rd_set_other _ _ _ _ _ _ (fun e => h (congrArg RKey.reg e))]; rfl

/-- A write of a field leaves the fields apart from it, in every unit. -/
theorem State.get_set_apart (s : State) {f g : Field} (i v j i' j' : Nat) (hf : f.ok = true) (hg : g.ok = true) (h : f.apart g = true) :
    (s.set f i v j).get g i' j' = s.get g i' j' :=
  s.get_set_other f g i j i' j' v hf hg (by simp [keyApart, h])

theorem State.get_flag_apart (s : State) {f g : Field} (i j i' j' : Nat) (hf : f.ok = true) (hg : g.ok = true) (h : f.apart g = true) :
    (s.flag f i j).get g i' j' = s.get g i' j' := by
  unfold State.flag; rw [State.noteSet_get, State.get_set_apart _ _ _ _ _ _ hf hg h]

/-- The iteration that ME_STATUS shows is nothing to the checks of a tile. -/
@[simp] theorem State.tileCheck_set_iter (s : State) (i v c tile d off t0 : Nat) :
    (s.set F.ME_STATUS_ITER i v).tileCheck c tile d off t0 = s.tileCheck c tile d off t0 := by
  simp (disch := decide) only [State.tileCheck, State.get_set_reg]

@[simp] theorem State.set_coreBase (s : State) (f : Field) (i v j c : Nat) : (s.set f i v j).coreBase c = s.coreBase c := rfl

/-! ### Loads and streams -/

/-- The block that a load takes is read from tile rows and write buffers. -/
theorem CoreSt.loadBlock_congr {x y : CoreSt} (htrf : x.trf = y.trf) (hwbuf : x.wbuf = y.wbuf) (sel shape sc : Nat) :
    x.loadBlock sel shape sc = y.loadBlock sel shape sc := by
  simp only [CoreSt.loadBlock, CoreSt.dkRow, CoreSt.dkByte, CoreSt.tileByte, htrf, hwbuf]

/-- The load of a block whose tile passes its checks. -/
theorem State.meAct_load {s : State} {c t : Nat} {f : MeFly} {a : MeAct} (hinj : s.inj = []) (hhw : f.hw = .ok) (hl : a.load = true)
    (hacb : f.op = 2 ∨ meInAcb f.q.cmd a.n = true)
    (hk : (s.tileCheck c (a.tile / 2) (meShape f.q.cmd) (32 * (a.tile % 2)) (t - s.coreBase c)).bad = false) :
    ∃ u, ActFrame s u c ∧ s.meAct c f a t = (((u.modCore c (fun x => { x with blk := some (x.loadBlock a.tile (meShape f.q.cmd) (meSc f.q.cmd a.n)) })).set
      F.ME_STATUS_LOADED c 1).set F.ME_STATUS_LOADED_S c a.tile, { f with cur := a.n }) := by
  have hin : ¬ (f.op ≠ 2 ∧ (!meInAcb f.q.cmd a.n) = true) := by
    rcases hacb with h | h <;> simp [h]
  have hecc := State.actEcc_ok (s := s.set F.ME_STATUS_ITER c a.n) (f := { f with cur := a.n }) hinj hhw c a
  refine ⟨_, ((ActFrame.set s c F.ME_STATUS_ITER c a.n 0).trans (State.meRead_frame _ c (a.tile / 2) (dkRows (meShape f.q.cmd)) t true)).trans
    (.of_quiet (State.pmon_quiet _ .ME c 0x11 0 17)), ?_⟩
  simp only [State.meAct, if_neg hin, hl, if_true, State.meLoad, State.tileCheck_set_iter, State.set_coreBase, hk, Bool.false_eq_true, if_false, hecc]
  rfl

/-- What an act leaves that loads a block whose tile passes its checks (R20, R21). -/
theorem State.meAct_load_leaves {s : State} {c t : Nat} {f : MeFly} {a : MeAct} (hinj : s.inj = []) (hhw : f.hw = .ok) (hl : a.load = true)
    (hacb : f.op = 2 ∨ meInAcb f.q.cmd a.n = true)
    (hk : (s.tileCheck c (a.tile / 2) (meShape f.q.cmd) (32 * (a.tile % 2)) (t - s.coreBase c)).bad = false) :
    (s.meAct c f a t).2 = { f with cur := a.n } ∧
      ((s.meAct c f a t).1.core c).blk = some ((s.core c).loadBlock a.tile (meShape f.q.cmd) (meSc f.q.cmd a.n)) ∧
      (s.meAct c f a t).1.get F.ME_STATUS_LOADED c = 1 ∧ (s.meAct c f a t).1.get F.ME_STATUS_LOADED_S c = a.tile % 128 ∧
      ActFrame s (s.meAct c f a t).1 c := by
  obtain ⟨u, hu, hact⟩ := State.meAct_load hinj hhw hl hacb hk
  rw [hact]
  refine ⟨rfl, ?_, ?_, ?_, ((hu.trans (.modCore _ _ _ rfl rfl rfl)).trans (.set ..)).trans (.set ..)⟩
  · rw [State.set_core_read, State.set_core_read, State.modCore_same, CoreSt.loadBlock_congr hu.trf hu.wbuf]
  · rw [State.get_set_apart _ _ _ _ _ _ (by decide) (by decide) (by decide), State.get_set_same _ _ _ _ _ (by decide)]
    rfl
  · rw [State.get_set_same _ _ _ _ _ (by decide)]; rfl

/-! ### Streams -/

section
variable (s : State) (c : Nat) (f : MeFly) (a : MeAct) (b : MeBlock) (m t : Nat)

/-- INT8 and the slice formats give integers. -/
theorem State.meEnter_isInt : (s.meEnter c f a b m t).isInt = (decide (meFmt f.q.cmd = .int8) || (meFmt f.q.cmd).isSlice) := rfl

/-- A row counts as one of K = 0 when the block has K = 0 or its result row is frozen. -/
theorem State.meEnter_k0 : (s.meEnter c f a b m t).k0 =
    (decide (b.kExt = 0) || frozenRow f.frozen ((s.meEnter c f a b m t).addr / 64)) := rfl

/-- In INT8 every column holds the integer pass result of signed operands (R29, R49). -/
theorem State.meEnter_vals_int (h : meFmt f.q.cmd = .int8) : (s.meEnter c f a b m t).vals =
    (List.range b.nExt).map (intPass b ((s.core c).dkRow a.tile (Cmd.deckle f.q.cmd) 0 (m / 2) (32 * (m % 2)) 32) true true) := by
  simp [State.meEnter, h]

/-- In a float format every column holds the pass result under the row's scale (R29). -/
theorem State.meEnter_vals_float (h : meFmt f.q.cmd ≠ .int8) (hs : (meFmt f.q.cmd).isSlice = false) : (s.meEnter c f a b m t).vals =
    (List.range b.nExt).map (fun n => ((floatPass b (meFmt f.q.cmd) ((s.core c).dkRow a.tile (Cmd.deckle f.q.cmd) 0 (m / 2) (32 * (m % 2)) 32)
      ((s.core c).tileByte (meSc f.q.cmd a.n) 0 m).toNat n : Nat) : Int)) := by
  simp [State.meEnter, h, hs]
end

/-- Only a sliced command can find its slice sums full. -/
theorem State.sliceFull_plain (s : State) (c : Nat) {f : MeFly} (a : MeAct) (b : MeBlock) (hs : (meFmt f.q.cmd).isSlice = false) :
    s.sliceFull c f a b = false := by simp [State.sliceFull, hs]

/-- The streaming of a tile that passes its checks: its valid rows enter, two per ACLK. -/
theorem State.meStream_ok {s : State} {c t : Nat} {f : MeFly} {a : MeAct} {b : MeBlock} (hinj : s.inj = []) (hhw : f.hw = .ok) (hd : f.dead = none)
    (hb : (s.core c).blk = some b) (hs : (meFmt f.q.cmd).isSlice = false)
    (hk : (s.tileCheck c a.tile (Cmd.deckle f.q.cmd) 0 (t - s.coreBase c)).bad = false) :
    s.meStream c f a t = ((s.meRead c a.tile (dkRows (Cmd.deckle f.q.cmd)) t false).pmon .ME c 0x10 0 16,
      { f with rows := f.rows ++ (List.range (min 32 (meRows f.q.cmd))).map (fun m => s.meEnter c f a b m (t + m / 2)) }) := by
  have hecc := State.actEcc_ok hinj hhw c a
  simp only [State.meStream, hk, Bool.false_eq_true, if_false, hb, s.sliceFull_plain c a b hs, hecc, hd, Bool.and_self, List.filter_true]
  rfl

/-- The act that streams a tile which passes its checks. -/
theorem State.meAct_stream {s : State} {c t : Nat} {f : MeFly} {a : MeAct} {b : MeBlock} (hinj : s.inj = []) (hhw : f.hw = .ok) (hl : a.load = false)
    (hacb : meInAcb f.q.cmd a.n = true) (hd : f.dead = none) (hb : (s.core c).blk = some b) (hs : (meFmt f.q.cmd).isSlice = false)
    (hk : (s.tileCheck c a.tile (Cmd.deckle f.q.cmd) 0 (t - s.coreBase c)).bad = false) :
    ∃ u, ActFrame s u c ∧ (u.core c).blk = some b ∧ s.meAct c f a t = (u, { f with
      cur := a.n,
      rows := f.rows ++ (List.range (min 32 (meRows f.q.cmd))).map (fun m =>
        (s.set F.ME_STATUS_ITER c a.n).meEnter c { f with cur := a.n } a b m (t + m / 2)) }) := by
  have hin : ¬ (f.op ≠ 2 ∧ (!meInAcb f.q.cmd a.n) = true) := by simp [hacb]
  refine ⟨_, ((ActFrame.set s c F.ME_STATUS_ITER c a.n 0).trans (State.meRead_frame _ c a.tile (dkRows (Cmd.deckle f.q.cmd)) t false)).trans
    (.of_quiet (State.pmon_quiet _ .ME c 0x10 0 16)), ?_, ?_⟩
  · rw [(State.pmon_quiet ..).core, State.meRead_blk]; exact hb
  · simp only [State.meAct, if_neg hin, hl, Bool.false_eq_true, if_false]
    exact State.meStream_ok (s := s.set F.ME_STATUS_ITER c a.n) (f := { f with cur := a.n }) hinj hhw hd hb hs
      ((congrArg TileCheck.bad (s.tileCheck_set_iter ..)).trans hk)

/-! ### Refusals -/

/-- The log of the tile registers is a register. -/
theorem State.trfLog_frame (s : State) (c deckle kind unit tile early : Nat) : ActFrame s (s.trfLog c deckle kind unit tile early) c := by
  unfold State.trfLog
  split
  · exact .refl ..
  · exact .wr ..

/-- The record of a refused tile: events, their counts and the log. -/
theorem State.tileRefuse_frame (s : State) (c tile deckle unit : Nat) (k : TileCheck) : ActFrame s (s.tileRefuse c tile deckle unit k) c := by
  have event (u : State) (b : Bool) (f g : Field) : ActFrame u (if b = true then (u.flag f c).bump g c else u) c := by
    split
    · exact (ActFrame.flag ..).trans (.bump ..)
    · exact .refl ..
  exact ((event s k.shape _ _).trans (event _ k.slip _ _)).trans (State.trfLog_frame ..)

theorem State.meRefuse_frame (s : State) (c tile deckle unit : Nat) (k : TileCheck) : ActFrame s (s.meRefuse c tile deckle unit k) c :=
  ((State.tileRefuse_frame ..).trans (.flagIf ..)).trans (.flagIf ..)

/-- A refused tile sets the event bit of its status. -/
theorem State.meRefuse_evt (s : State) (c tile deckle unit : Nat) {k : TileCheck} (h : k.bad = true) :
    (s.meRefuse c tile deckle unit k).get (meEvt k.status) c = 1 := by
  obtain ⟨shape, slip, early⟩ := k
  cases shape with
  | false =>
    cases slip with
    | false => cases h
    | true => exact State.get_flag_same _ _ _ _ (by decide) (by decide)
  | true =>
    have hshape (u : State) : (u.flag F.ME_EVT_SHAPE_FAULT c).get F.ME_EVT_SHAPE_FAULT c = 1 := State.get_flag_same _ _ _ _ (by decide) (by decide)
    cases slip with
    | false => exact hshape _
    | true => exact (State.get_flag_apart (g := F.ME_EVT_SHAPE_FAULT) _ _ _ _ _ (by decide) (by decide) (by decide)).trans (hshape _)

/-- What refuses an act: result rows outside the ACB, or a tile that fails a check. -/
def State.meActBad (s : State) (c : Nat) (f : MeFly) (a : MeAct) (t : Nat) : Option Nat :=
  if f.op ≠ 2 ∧ meInAcb f.q.cmd a.n = false then some 3
  else
    let k := if a.load then s.tileCheck c (a.tile / 2) (meShape f.q.cmd) (32 * (a.tile % 2)) (t - s.coreBase c)
      else s.tileCheck c a.tile (Cmd.deckle f.q.cmd) 0 (t - s.coreBase c)
    if k.bad then some k.status else none

/-- A refused act skips its iteration and the later ones. -/
theorem State.meAct_bad {s : State} {c t st : Nat} {f : MeFly} {a : MeAct} (h : s.meActBad c f a t = some st) :
    ∃ u, ActFrame s u c ∧ u.get (meEvt st) c = 1 ∧ s.meAct c f a t = (u, { f with cur := a.n }.skipFrom st a.n t) := by
  have hiter := ActFrame.set s c F.ME_STATUS_ITER c a.n 0
  unfold State.meActBad at h
  by_cases hin : f.op ≠ 2 ∧ meInAcb f.q.cmd a.n = false
  · rw [if_pos hin] at h
    cases h
    refine ⟨_, hiter.trans (.flag _ c F.ME_EVT_ILLEGAL c 0), State.get_flag_same _ _ _ _ (by decide) (by decide), ?_⟩
    have hin' : f.op ≠ 2 ∧ (!meInAcb f.q.cmd a.n) = true := by simpa using hin
    unfold State.meAct
    exact if_pos hin'
  · rw [if_neg hin] at h
    have hin' : ¬ (f.op ≠ 2 ∧ (!meInAcb f.q.cmd a.n) = true) := by simpa using hin
    cases hl : a.load with
    | true =>
      simp only [hl, if_true, Option.ite_none_right_eq_some, Option.some.injEq] at h
      obtain ⟨hk, rfl⟩ := h
      refine ⟨_, hiter.trans (State.meRefuse_frame _ c (a.tile / 2) (meShape f.q.cmd) 0 _), State.meRefuse_evt _ _ _ _ _ hk, ?_⟩
      simp only [State.meAct, if_neg hin', hl, if_true, State.meLoad, State.tileCheck_set_iter, State.set_coreBase, hk]
    | false =>
      simp only [hl, Bool.false_eq_true, if_false, Option.ite_none_right_eq_some, Option.some.injEq] at h
      obtain ⟨hk, rfl⟩ := h
      refine ⟨_, hiter.trans (State.meRefuse_frame _ c a.tile (Cmd.deckle f.q.cmd) 1 _), State.meRefuse_evt _ _ _ _ _ hk, ?_⟩
      simp only [State.meAct, if_neg hin', hl, Bool.false_eq_true, if_false, State.meStream, State.tileCheck_set_iter, State.set_coreBase, hk, if_true]

end Sys2Proof.Machine
end

section
/-! PROOFS. The write of a result row (R25, R30 to R34). -/

namespace Sys2Proof.Machine

open Sys2Proof

/-! ### Bytes and numbers -/

/-- The number of the low bytes of a value. -/
theorem leNat_leBytes (n v : Nat) : leNat (leBytes n v) = v % 2 ^ (8 * n) := by
  induction n generalizing v with
  | zero => simp [leBytes, leNat, Nat.mod_one]
  | succ n ih =>
    have hp : 2 ^ (8 * (n + 1)) = 256 * 2 ^ (8 * n) := by rw [Nat.mul_add, Nat.pow_add, Nat.mul_comm]
    rw [leBytes, leNat, ih, BitVec.toNat_ofNat, hp, Nat.mod_mul]

/-- Bytes are written piece by piece. -/
theorem putBytes_append (l l' : List Byte) (m : List (Nat × Byte)) (a : Nat) :
    putBytes m a (l ++ l') = putBytes (putBytes m a l) (a + l.length) l' := by
  induction l generalizing m a with
  | nil => rfl
  | cons b l ih =>
    have ha : a + 1 + l.length = a + (b :: l).length := by rw [List.length_cons]; omega
    rw [List.cons_append, putBytes, ih, ha, putBytes]

/-- A read depends on the bytes of its range alone. -/
theorem getBytes_congr {m m' : List (Nat × Byte)} {a n : Nat} (h : ∀ j, a ≤ j → j < a + n → getByte m j = getByte m' j) :
    getBytes m a n = getBytes m' a n := by
  induction n generalizing a with
  | zero => rfl
  | succ n ih => rw [getBytes, getBytes, h a (Nat.le_refl _) (by omega), ih (fun j h1 h2 => h j (by omega) (by omega))]

/-- A part of the bytes written is read back. -/
theorem getBytes_putBytes_mid (pre mid post : List Byte) (m : List (Nat × Byte)) (a : Nat) :
    getBytes (putBytes m a (pre ++ mid ++ post)) (a + pre.length) mid.length = mid := by
  rw [putBytes_append, putBytes_append]
  rw [getBytes_congr (fun j _ hj => getByte_putBytes_other post _ _ j (.inl (by rw [List.length_append]; omega)))]
  exact getBytes_putBytes_same mid _ _

/-- Numbers of 4 bytes each, one after the other. -/
def leWords (vs : List Nat) : List Byte := vs.flatMap (leBytes 4)

@[simp] theorem leWords_length (vs : List Nat) : (leWords vs).length = 4 * vs.length := by
  simp [leWords, List.length_flatMap, leBytes_length, Nat.mul_comm]

/-- A number of a list that has been written is read back modulo 2^32. -/
theorem winNat_writeWin_leWords (s : State) (c off : Nat) (vs : List Nat) (n : Nat) (hn : n < vs.length) :
    (s.writeWin c off (leWords vs)).winNat c (off + 4 * n) 4 = vs.getD n 0 % 2 ^ 32 := by
  have hsplit : leWords vs = leWords (vs.take n) ++ leBytes 4 (vs.getD n 0) ++ leWords (vs.drop (n + 1)) := by
    have hvs : vs = vs.take n ++ vs.getD n 0 :: vs.drop (n + 1) := by
      rw [List.getD_eq_getElem _ _ hn, ← List.drop_eq_getElem_cons hn, List.take_append_drop]
    conv_lhs => rw [hvs]
    rw [leWords, List.flatMap_append, List.flatMap_cons, List.append_assoc]
    rfl
  have hpre : winBase c + (off + 4 * n) = winBase c + off + (leWords (vs.take n)).length := by
    rw [leWords_length, List.length_take, Nat.min_eq_left hn.le]; omega
  have hread := getBytes_putBytes_mid (leWords (vs.take n)) (leBytes 4 (vs.getD n 0)) (leWords (vs.drop (n + 1))) s.mem (winBase c + off)
  rw [leBytes_length, ← hsplit, ← hpre] at hread
  unfold State.winNat State.readWin State.readMem State.writeWin
  rw [State.writeMem_mem, hread, leNat_leBytes]

/-! ### The write of a result row -/

/-- The value that the write of a row leaves in a column that held `old` (R30 to R32). -/
def MeRow.left (r : MeRow) (old : Nat) (v : Int) : Nat :=
  if r.isInt then (if r.ovw then wrapInt 32 v else (accInt old v).1) else (if r.ovw then v.toNat else accFloat old v.toNat)

/-- The columns of a row as its write leaves them. -/
def State.rowLeft (s : State) (c : Nat) (r : MeRow) : List Nat :=
  (((List.range r.nExt).map (fun n => s.winNat c (0xC0000 + r.addr + 4 * n) 4)).zip r.vals).map (fun p => r.left p.1 p.2)

theorem State.rowLeft_length (s : State) (c : Nat) {r : MeRow} (h : r.vals.length = r.nExt) : (s.rowLeft c r).length = r.nExt := by
  simp [State.rowLeft, h]

/-- A column of a row as its write leaves it. -/
theorem State.rowLeft_getD (s : State) (c : Nat) {r : MeRow} (h : r.vals.length = r.nExt) {n : Nat} (hn : n < r.nExt) :
    (s.rowLeft c r).getD n 0 = r.left (s.winNat c (0xC0000 + r.addr + 4 * n) 4) (r.vals.getD n 0) := by
  have hv : n < r.vals.length := by omega
  rw [List.getD_eq_getElem _ _ (by rw [s.rowLeft_length c h]; exact hn), List.getD_eq_getElem _ _ hv]
  simp [State.rowLeft]

/-- A row that is not sliced, of a block with K > 0, writes its columns and nothing else. -/
theorem State.meWriteRow_plain (s : State) (c : Nat) {cmd : Cmd} {r : MeRow} (hs : (meFmt cmd).isSlice = false) (hk : r.k0 = false) :
    (s.meWriteRow c cmd r).1 = s.writeWin c (0xC0000 + r.addr) (leWords (s.rowLeft c r)) := by
  have hcol (o : Nat) (v : Int) : (if r.k0 = true then ((0 : Nat), false)
      else if r.isInt = true then (if r.ovw = true then (wrapInt 32 v, false) else accInt o v)
      else ((if r.ovw = true then v.toNat else accFloat o v.toNat), false)).1 = r.left o v := by
    rw [hk]
    unfold MeRow.left
    cases r.isInt <;> cases r.ovw <;> rfl
  have hwrite : ¬ ((r.k0 && !r.ovw) = true) := by simp [hk]
  simp only [State.meWriteRow, hs, Bool.false_eq_true, if_false, State.writeRow, if_neg hwrite, leWords, State.rowLeft, List.flatMap_map, hcol]

/-- A write of memory leaves every register but those of the injection, and every core. -/
theorem State.writeMem_regs_cores (s : State) (a : Nat) (bs : List Byte) :
    (∀ k, sideReg k.reg = false → (s.writeMem a bs).rd k = s.rd k) ∧ (s.writeMem a bs).cores = s.cores := by
  have inj (u o b n : Nat) : (∀ k, sideReg k.reg = false → (s.injWrite u o b n).rd k = s.rd k) ∧ (s.injWrite u o b n).cores = s.cores := by
    have hq := s.injWrite_quiet u o b n
    exact ⟨hq.regs, by rw [hq.rest]⟩
  have line (t : State) (b n : Nat) : (∀ k, (t.lineWrite b n).rd k = t.rd k) ∧ (t.lineWrite b n).cores = t.cores := by
    unfold State.lineWrite
    split
    · exact ⟨fun _ => rfl, rfl⟩
    · exact ⟨fun _ => rfl, rfl⟩
  unfold State.writeMem
  dsimp only
  split
  · exact ⟨fun k hk => ((line _ _ _).1 k).trans ((inj ..).1 k hk), (line _ _ _).2.trans (inj ..).2⟩
  · split
    · exact inj ..
    · exact ⟨fun _ _ => rfl, rfl⟩

/-- R25 and R30 to R34 for the write of one row. -/
theorem State.meWriteRow_leaves (s : State) (c : Nat) {cmd : Cmd} {r : MeRow} (hs : (meFmt cmd).isSlice = false) (hk : r.k0 = false)
    (hv : r.vals.length = r.nExt) :
    (∀ n, n < r.nExt → (s.meWriteRow c cmd r).1.winNat c (0xC0000 + r.addr + 4 * n) 4 =
      r.left (s.winNat c (0xC0000 + r.addr + 4 * n) 4) (r.vals.getD n 0) % 2 ^ 32) ∧
    (∀ j, j < winBase c + (0xC0000 + r.addr) ∨ winBase c + (0xC0000 + r.addr) + 4 * r.nExt ≤ j →
      (s.meWriteRow c cmd r).1.readByte j = s.readByte j) ∧
    (∀ k, sideReg k.reg = false → (s.meWriteRow c cmd r).1.rd k = s.rd k) ∧ (s.meWriteRow c cmd r).1.cores = s.cores := by
  have hlen := s.rowLeft_length c hv
  obtain ⟨hregs, hcores⟩ := s.writeMem_regs_cores (winBase c + (0xC0000 + r.addr)) (leWords (s.rowLeft c r))
  rw [s.meWriteRow_plain c hs hk]
  refine ⟨fun n hn => ?_, fun j hj => ?_, hregs, hcores⟩
  · rw [winNat_writeWin_leWords _ _ _ _ _ (hlen ▸ hn), s.rowLeft_getD c hv hn]
  · exact State.readByte_writeMem_other _ _ _ _ (by rw [leWords_length, hlen]; exact hj)

end Sys2Proof.Machine
end

section
/-! PROOFS. Failed checks and completions of the matrix engine (R40 to R42, R51, R53, R57). -/

namespace Sys2Proof.Machine

open Sys2Proof

/-! ### What the operations of a failed check leave -/

/-- `t` has the registers of `s` but for those of the list and those in which events are recorded, and its memory outside event-ring
entries. -/
structure RegFrame (l : List Reg) (s t : State) : Prop where
  regs : ∀ k, k.reg ∉ l → sideReg k.reg = false → t.rd k = s.rd k
  mem : MemQuiet s t

section
variable {l : List Reg} {s t u : State}

/-- A field of a register that stays, stays. -/
theorem RegFrame.get (h : RegFrame l s t) {f : Field} (i j : Nat) (hl : f.reg ∉ l) (hs : sideReg f.reg = false) : t.get f i j = s.get f i j :=
  congrArg f.of (h.regs ⟨f.reg, i, j⟩ hl hs)

theorem RegFrame.trans (h : RegFrame l s t) (g : RegFrame l t u) : RegFrame l s u where
  regs k hk hs := (g.regs k hk hs).trans (h.regs k hk hs)
  mem := h.mem.trans g.mem

/-- What only records events keeps every other register. -/
theorem RegFrame.of_quiet (h : Quiet s t) : RegFrame l s t := ⟨fun k _ hs => h.regs k hs, .of_quiet h⟩
theorem RegFrame.refl (s : State) : RegFrame l s s := .of_quiet (Quiet.refl s)

theorem RegFrame.wr (s : State) (k : RKey) (v : Word) (h : k.reg ∈ l) : RegFrame l s (s.wr k v) where
  regs _ hj _ := State.rd_wr_other s v (fun e => hj (e ▸ h))
  mem := .of_local (Local.wr ..)

theorem RegFrame.set (s : State) (f : Field) (i v j : Nat) (h : f.reg ∈ l) : RegFrame l s (s.set f i v j) := .wr s _ _ h
theorem RegFrame.bump (s : State) (f : Field) (i n j : Nat) (h : f.reg ∈ l) : RegFrame l s (s.bump f i n j) := .wr s _ _ h
theorem RegFrame.setBit (s : State) (f : Field) (i n : Nat) (b : Bool) (h : f.reg ∈ l) : RegFrame l s (s.setBit f i n b) := .wr s _ _ h
/-- An event bit is written, and its interrupt noted. -/
theorem RegFrame.flag (s : State) (f : Field) (i j : Nat) (h : f.reg ∈ l) : RegFrame l s (s.flag f i j) :=
  (RegFrame.wr s _ _ h).trans (.of_quiet (Quiet.of_noteSet ..))

theorem RegFrame.flagIf (s : State) (b : Bool) (f : Field) (i j : Nat) (h : f.reg ∈ l) : RegFrame l s (s.flagIf b f i j) := by
  unfold State.flagIf
  split
  · exact .flag _ _ _ _ h
  · exact .refl _

theorem RegFrame.modCore (s : State) (c : Nat) (g : CoreSt → CoreSt) : RegFrame l s (s.modCore c g) := ⟨fun _ _ _ => rfl, .of_local (Local.modCore ..)⟩

theorem RegFrame.ccState (s : State) (c v : Nat) (h : Reg.CC_STATE ∈ l) : RegFrame l s (s.ccState c v) :=
  (RegFrame.modCore ..).trans (.set _ _ _ _ _ h)

theorem RegFrame.fence (s : State) (c : Nat) (hf : Reg.CLU_FENCE ∈ l) (hc : Reg.CC_STATE ∈ l) : RegFrame l s (s.fence c) :=
  ((RegFrame.setBit _ _ _ _ _ hf).trans (.ccState _ _ _ hc)).trans (.modCore ..)

/-- Raising an abort writes CC_TASK_STATUS and CC_STATE (R158, R166). -/
theorem RegFrame.raiseAbort (s : State) (c cause : Nat) (ht : Reg.CC_TASK_STATUS ∈ l) (hc : Reg.CC_STATE ∈ l) :
    RegFrame l s (s.raiseAbort c cause) := by
  unfold State.raiseAbort
  split
  · exact .refl _
  · refine RegFrame.trans ?_ (.modCore ..)
    have hset : RegFrame l s ((s.set F.CC_TASK_STATUS_ABORTED c 1).set F.CC_TASK_STATUS_CAUSE c cause) := (RegFrame.set _ _ _ _ _ ht).trans (.set _ _ _ _ _ ht)
    split
    · exact hset
    · exact hset.trans (.ccState _ _ _ hc)
end

/-- The abort that is raised shows its cause (R166). -/
theorem State.raiseAbort_first (s : State) (c cause : Nat) (h : s.get F.CC_TASK_STATUS_ABORTED c = 0) :
    (s.raiseAbort c cause).get F.CC_TASK_STATUS_ABORTED c = 1 ∧ (s.raiseAbort c cause).get F.CC_TASK_STATUS_CAUSE c = cause % 2 ^ 8 := by
  have hset : let u := (s.set F.CC_TASK_STATUS_ABORTED c 1).set F.CC_TASK_STATUS_CAUSE c cause
      u.get F.CC_TASK_STATUS_ABORTED c = 1 ∧ u.get F.CC_TASK_STATUS_CAUSE c = cause % 2 ^ 8 := by
    refine ⟨?_, State.get_set_same _ _ _ _ _ (by decide)⟩
    rw [State.get_set_apart _ _ _ _ _ _ (by decide) (by decide) (by decide), State.get_set_same _ _ _ _ _ (by decide)]
    rfl
  unfold State.raiseAbort
  rw [if_neg (by omega)]
  dsimp only
  split
  · exact hset
  · have hcc (u : State) : RegFrame [.CC_STATE] u (u.ccState c 0) := .ccState _ _ _ List.mem_cons_self
    rw [State.modCore_get, State.modCore_get, (hcc _).get _ _ (by decide) rfl, (hcc _).get _ _ (by decide) rfl]
    exact hset

/-! ### A completion with an abort -/

/-- A completion without DONE_EN writes the reports of its core and, with an abort, the state of its CC. -/
theorem RegFrame.complete {l : List Reg} (s : State) (c : Nat) (e : Eng) {q : QCmd} (status iter : Nat) (hd : Cmd.doneEn q.cmd = false)
    (hl : ∀ r ∈ [Reg.CC_IRQ, .CC_TASK_STATUS, .CC_CMD_LOG, .CC_STATE], r ∈ l) : RegFrame l s (s.complete c e q status iter) := by
  have hirq : Reg.CC_IRQ ∈ l := hl _ (by decide)
  have htask : Reg.CC_TASK_STATUS ∈ l := hl _ (by decide)
  have hlog : Reg.CC_CMD_LOG ∈ l := hl _ (by decide)
  have hst : Reg.CC_STATE ∈ l := hl _ (by decide)
  unfold State.complete
  extract_lets cmd s1 s2 r s3 s4 s5
  have h2 : s2 = s1 := if_neg (by rw [hd]; decide)
  have h3 : RegFrame l s s3 := by
    refine RegFrame.trans (t := s2) (h2 ▸ RegFrame.modCore ..) ?_
    show RegFrame l s2 (if _ then _ else _)
    split
    · split
      · exact .modCore ..
      · exact .flag _ _ _ _ hirq
    · exact .refl _
  split
  · exact h3
  · have h5 : RegFrame l s4 s5 := by
      show RegFrame l s4 (if _ then _ else _)
      split
      · exact .refl _
      · exact .wr _ _ _ hlog
    have h := (h3.trans (.setBit _ _ _ _ _ htask)).trans h5
    split
    · exact h.trans (.raiseAbort _ _ _ htask hst)
    · exact h

/-- A completion whose status aborts raises the first abort of its core with the cause of the status (R158, R161). -/
theorem State.complete_aborts (s : State) (c : Nat) (e : Eng) {q : QCmd} {status k : Nat} (iter : Nat) (hd : Cmd.doneEn q.cmd = false)
    (hk : abortCause status = some k) (h : s.get F.CC_TASK_STATUS_ABORTED c = 0) :
    (s.complete c e q status iter).get F.CC_TASK_STATUS_ABORTED c = 1 ∧ (s.complete c e q status iter).get F.CC_TASK_STATUS_CAUSE c = k % 2 ^ 8 := by
  have hne : status ≠ 0 := by rintro rfl; cases hk
  unfold State.complete
  extract_lets cmd s1 s2 r s3 s4 s5
  rw [if_neg hne, hk]
  refine s5.raiseAbort_first c k ?_
  have h2 : s2 = s1 := if_neg (by rw [hd]; decide)
  have h3 : RegFrame [.CC_IRQ] s2 s3 := by
    show RegFrame _ s2 (if _ then _ else _)
    split
    · split
      · exact .modCore ..
      · exact .flag _ _ _ _ List.mem_cons_self
    · exact .refl _
  have h5 : RegFrame [.CC_CMD_LOG] s4 s5 := by
    show RegFrame _ s4 (if _ then _ else _)
    split
    · exact .refl _
    · exact .wr _ _ _ List.mem_cons_self
  calc s5.get F.CC_TASK_STATUS_ABORTED c = s4.get F.CC_TASK_STATUS_ABORTED c := h5.get _ _ (by decide) rfl
    _ = s3.get F.CC_TASK_STATUS_ABORTED c := State.get_set_apart _ _ _ _ _ _ (by decide) (by decide) (by decide)
    _ = s2.get F.CC_TASK_STATUS_ABORTED c := h3.get _ _ (by decide) rfl
    _ = 0 := by rw [h2]; exact h

/-! ### The record of a failed check (R40 to R42, R66, R67) -/

/-- The count and the first record of a failed check. -/
def State.checkLogged (s : State) (c : Nat) (r : MeRow) (diff : Nat) : State :=
  let s := s.bump F.ME_CHK_CNT_COUNT c
  if s.get F.ME_CHK_LOG_VALID c = 1 then s
  else s.wr ⟨.ME_CHK_LOG, c, 0⟩ (BitVec.ofNat 64 (r.n * 2 ^ 32 + diff % 256 * 2 ^ 20 + r.m * 2 ^ 15 + r.m % 2 * 2 ^ 14
    + r.tile * 2 ^ 8 + 2 ^ 7 + r.sel))

/-- The count and the record are two registers. -/
theorem State.checkLogged_frame (s : State) (c : Nat) (r : MeRow) (diff : Nat) : RegFrame [.ME_CHK_CNT, .ME_CHK_LOG] s (s.checkLogged c r diff) := by
  have hbump : RegFrame [.ME_CHK_CNT, .ME_CHK_LOG] s (s.bump F.ME_CHK_CNT_COUNT c) := .bump _ _ _ _ _ (by decide)
  unfold State.checkLogged
  dsimp only
  split
  · exact hbump
  · exact hbump.trans (.wr _ _ _ (.tail _ (.head _)))

/-- The count of failed checks rises by one and stays at its maximum (R42). -/
theorem State.checkLogged_count (s : State) (c : Nat) (r : MeRow) (diff : Nat) : (s.checkLogged c r diff).get F.ME_CHK_CNT_COUNT c =
    min (s.get F.ME_CHK_CNT_COUNT c + 1) (2 ^ F.ME_CHK_CNT_COUNT.width - 1) := by
  have hbump : (s.bump F.ME_CHK_CNT_COUNT c).get F.ME_CHK_CNT_COUNT c = min (s.get F.ME_CHK_CNT_COUNT c + 1) (2 ^ F.ME_CHK_CNT_COUNT.width - 1) := by
    unfold State.bump
    rw [State.get_set_same _ _ _ _ _ (by decide), Nat.mod_eq_of_lt]
    exact lt_of_le_of_lt (Nat.min_le_right ..) (by decide)
  unfold State.checkLogged
  dsimp only
  split
  · exact hbump
  · rw [State.get_def, State.rd_wr_other _ _ (by simp), ← State.get_def]; exact hbump

/-- VALID of a word that holds a selection below it. -/
theorem chkLog_valid (hi sel : Nat) (h : sel < 128) : F.ME_CHK_LOG_VALID.of (BitVec.ofNat 64 (hi * 2 ^ 8 + 2 ^ 7 + sel)) = 1 := by
  simp [Field.of, Field.width, BitVec.extractLsb', Nat.shiftRight_eq_div_pow]
  omega

/-- Once a check has failed the log holds a record (R41). -/
theorem State.checkLogged_valid (s : State) (c : Nat) {r : MeRow} (diff : Nat) (h : r.sel < 128) :
    (s.checkLogged c r diff).get F.ME_CHK_LOG_VALID c = 1 := by
  unfold State.checkLogged
  dsimp only
  split
  · assumption
  · have hword : r.n * 2 ^ 32 + diff % 256 * 2 ^ 20 + r.m * 2 ^ 15 + r.m % 2 * 2 ^ 14 + r.tile * 2 ^ 8 + 2 ^ 7 + r.sel =
        (r.n * 2 ^ 24 + diff % 256 * 2 ^ 12 + r.m * 2 ^ 7 + r.m % 2 * 2 ^ 6 + r.tile) * 2 ^ 8 + 2 ^ 7 + r.sel := by ring
    rw [State.get_def, State.rd_wr_same, hword]
    exact chkLog_valid _ _ h

/-- After the count and the record come the log of the event and, at LIMIT, the fence. -/
theorem State.checkFailLog_frame (s : State) (c bit : Nat) (r : MeRow) (diff : Nat) :
    RegFrame [.CLU_FENCE, .CC_STATE] (s.checkLogged c r diff) (s.checkFailLog c bit r diff) := by
  have hfence (u : State) (p : Proposal) : RegFrame [.CLU_FENCE, .CC_STATE] u ((u.fenceDegraded c).propose p) :=
    ((RegFrame.fence u c (by decide) (by decide)).trans (.of_quiet (State.logRec_quiet ..))).trans (.of_quiet (State.propose_quiet ..))
  unfold State.checkFailLog
  extract_lets s1 s2 s3
  have hlog : RegFrame [.CLU_FENCE, .CC_STATE] (s.checkLogged c r diff) s3 := .of_quiet (State.logHw_quiet s2 ..)
  split
  · exact hlog.trans (hfence _ _)
  · exact hlog

/-! ### A failed check ends its command (R40, R57) -/

/-- A fold whose every step leaves its value leaves it. -/
theorem foldl_eq_self {α β : Type} {g : β → α → β} {b : β} {l : List α} (h : ∀ a ∈ l, g b a = b) : l.foldl g b = b := by
  induction l with
  | nil => rfl
  | cons a l ih => rw [List.foldl_cons, h a List.mem_cons_self, ih (fun x hx => h x (List.mem_cons_of_mem _ hx))]

/-- Without an armed tie slot a completion counts at none (R203). -/
theorem State.tieCount_unarmed {s : State} {c : Nat} (rows : List Nat) (h : ∀ n, n < 8 → s.get F.VE_TIE_ARMED c n = 0) : s.tieCount c rows = s := by
  unfold State.tieCount
  refine foldl_eq_self fun n hn => if_neg ?_
  rw [h n (List.mem_range.mp hn)]
  exact fun hc => absurd hc.1 (by decide)

/-- What is left of a begun command when a fault keeps its later rows from the ACB. -/
def MeFly.cutAt (f : MeFly) (h : MeHit) : MeFly := { f with rows := f.rows.filter h.keeps, todo := [], fault := none }

/-- The one fault of an ACLK ends a command with its status. -/
theorem State.meFail_one {s : State} {c t a : Nat} {f : MeFly} {h : MeHit} (he : f.ended = false) (hs : f.stop = none)
    (ha : abortCause h.status = some a) : s.meFail c f [h] t =
      ((s.meComplete c (f.cutAt h) h.status h.n).raiseAbort c a, { f.cutAt h with ended := true }) := by
  simp [State.meFail, MeFly.cutAt, he, hs, ha]

/-- A begun command after the comparison of a row: the flags with their first iterations (R58). -/
def MeFly.noted (f : MeFly) (r : MeRow) : MeFly :=
  { f with nan := firstOf f.nan r.nan r.n, inf := firstOf f.inf r.inf r.n, chkSkip := firstOf f.chkSkip r.skipped r.n }

/-- The event bits of the comparison of a row. -/
def State.rowFlags (s : State) (c : Nat) (r : MeRow) : State :=
  ((s.flagIf r.nan F.ME_EVT_NAN c).flagIf r.inf F.ME_EVT_INF c).flagIf r.skipped F.ME_EVT_CHK_SKIP c

/-- The event bits of a row are bits of one register. -/
theorem State.rowFlags_frame (s : State) (c : Nat) (r : MeRow) : RegFrame [.ME_EVT] s (s.rowFlags c r) :=
  ((RegFrame.flagIf _ _ _ _ _ (by decide)).trans (.flagIf _ _ _ _ _ (by decide))).trans (.flagIf _ _ _ _ _ (by decide))

/-- The comparison of a row that differs. -/
theorem State.meCompare_diff {s : State} {c d : Nat} {f : MeFly} {r : MeRow} (hhw : f.hw = .ok) (hd : r.diff = some d) :
    s.meCompare c f r = (((s.rowFlags c r).flag F.ME_EVT_CHECK_FAIL c).checkFailLog c 4 r d, f.noted r, some ⟨5, r.n, r.t, r.m⟩) := by
  unfold State.meCompare State.rowFlags MeFly.noted
  simp only [hhw, hd]

/-- The completion of a command whose check has failed (R40, R58). -/
theorem State.meComplete_checkFail {s : State} {c n : Nat} {f : MeFly} (hd : Cmd.doneEn f.q.cmd = false) (ha : s.get F.CC_TASK_STATUS_ABORTED c = 0)
    (hties : ∀ k, k < 8 → s.get F.VE_TIE_ARMED c k = 0) :
    RegFrame [.ME_STATUS, .CC_IRQ, .CC_TASK_STATUS, .CC_CMD_LOG, .CC_STATE] s (s.meComplete c f 5 n) ∧
      (s.meComplete c f 5 n).get F.ME_STATUS_LAST_STATUS c = 5 ∧ (s.meComplete c f 5 n).get F.CC_TASK_STATUS_ABORTED c = 1 ∧
      (s.meComplete c f 5 n).get F.CC_TASK_STATUS_CAUSE c = 3 := by
  unfold State.meComplete
  rw [State.tieCount_unarmed _ hties]
  extract_lets s1 s2
  have h1 : RegFrame [.ME_STATUS] s s1 := .set _ _ _ _ _ (by decide)
  have hst : s2.get F.ME_STATUS_LAST_STATUS c = 5 := State.get_set_same s F.ME_STATUS_LAST_STATUS c 0 5 (by decide)
  have hab : s2.get F.CC_TASK_STATUS_ABORTED c = 0 := (h1.get c 0 (by decide) rfl).trans ha
  obtain ⟨haborted, hcause⟩ := s2.complete_aborts c .me n hd (rfl : abortCause 5 = some 3) hab
  refine ⟨?_, ?_, haborted, hcause⟩
  · exact ((RegFrame.set s _ _ _ _ (by decide)).trans (.modCore ..)).trans (.complete _ _ _ _ _ hd (by decide))
  · have hc : RegFrame [.CC_IRQ, .CC_TASK_STATUS, .CC_CMD_LOG, .CC_STATE] s2 (s2.complete c .me f.q 5 n) := .complete _ _ _ _ _ hd (by decide)
    exact (hc.get _ _ (by decide) rfl).trans hst

/-- R40, R41, R57 for a row whose check fails. -/
theorem State.checkFail_ends {s : State} {c t d : Nat} {f : MeFly} {r : MeRow} (hhw : f.hw = .ok) (hd : r.diff = some d) (hsel : r.sel < 128)
    (he : f.ended = false) (hs : f.stop = none) (ha : s.get F.CC_TASK_STATUS_ABORTED c = 0) (hdone : Cmd.doneEn f.q.cmd = false)
    (hties : ∀ n, n < 8 → s.get F.VE_TIE_ARMED c n = 0) :
    let u := s.meCompare c f r
    let v := u.1.meFail c u.2.1 u.2.2.toList t
    v.2.ended = true ∧ v.2.todo = [] ∧ v.2.rows = f.rows.filter (fun w => decide (w.t < r.t) || (decide (w.t = r.t) && decide (w.m < r.m))) ∧
      v.1.get F.ME_EVT_CHECK_FAIL c = 1 ∧ v.1.get F.ME_STATUS_LAST_STATUS c = 5 ∧
      v.1.get F.ME_CHK_CNT_COUNT c = min (s.get F.ME_CHK_CNT_COUNT c + 1) (2 ^ F.ME_CHK_CNT_COUNT.width - 1) ∧ v.1.get F.ME_CHK_LOG_VALID c = 1 ∧
      v.1.get F.CC_TASK_STATUS_ABORTED c = 1 ∧ v.1.get F.CC_TASK_STATUS_CAUSE c = 3 ∧ MemQuiet s v.1 := by
  intro u v
  generalize hfl : (s.rowFlags c r).flag F.ME_EVT_CHECK_FAIL c = fl
  generalize hw : fl.checkFailLog c 4 r d = w
  have hA : RegFrame [.ME_EVT] s fl := hfl ▸ (s.rowFlags_frame c r).trans (.flag _ _ _ _ (by decide))
  have hfail : fl.get F.ME_EVT_CHECK_FAIL c = 1 := hfl ▸ State.get_flag_same _ _ _ _ (by decide) (by decide)
  have hB := fl.checkLogged_frame c r d
  have hC : RegFrame [.CLU_FENCE, .CC_STATE] (fl.checkLogged c r d) w := hw ▸ fl.checkFailLog_frame c 4 r d
  have kept (g : Field) (i : Nat) (hg : g.reg ∉ [Reg.ME_EVT, .ME_CHK_CNT, .ME_CHK_LOG, .CLU_FENCE, .CC_STATE]) (hside : sideReg g.reg = false) :
      w.get g c i = s.get g c i := by
    simp only [List.mem_cons, List.not_mem_nil, or_false, not_or] at hg
    rw [hC.get _ _ (by simp [hg]) hside, hB.get _ _ (by simp [hg]) hside, hA.get _ _ (by simp [hg]) hside]
  obtain ⟨hD, hlast, haborted, hcause⟩ := State.meComplete_checkFail (s := w) (c := c) (n := r.n) (f := (f.noted r).cutAt ⟨5, r.n, r.t, r.m⟩) hdone
    ((kept _ _ (by decide) rfl).trans ha) (fun k hk => (kept _ _ (by decide) rfl).trans (hties k hk))
  have hu : u = (w, f.noted r, some ⟨5, r.n, r.t, r.m⟩) := (State.meCompare_diff hhw hd).trans (by rw [hfl, hw])
  have hend := State.meFail_one (s := w) (c := c) (t := t) (f := f.noted r) (h := ⟨5, r.n, r.t, r.m⟩) he hs (rfl : abortCause 5 = some 3)
  dsimp only at hend
  rw [State.raiseAbort_again _ _ _ haborted] at hend
  have hv : v = (w.meComplete c ((f.noted r).cutAt ⟨5, r.n, r.t, r.m⟩) 5 r.n, { (f.noted r).cutAt ⟨5, r.n, r.t, r.m⟩ with ended := true }) := by
    show u.1.meFail c u.2.1 u.2.2.toList t = _
    rw [hu]
    dsimp only [Option.toList_some]
    exact hend
  rw [hv]
  refine ⟨rfl, rfl, rfl, ?_, hlast, ?_, ?_, haborted, hcause, ((hA.mem.trans hB.mem).trans hC.mem).trans hD.mem⟩
  · exact (hD.get _ _ (by decide) rfl).trans ((hC.get _ _ (by decide) rfl).trans ((hB.get _ _ (by decide) rfl).trans hfail))
  · rw [hD.get _ _ (by decide) rfl, hC.get _ _ (by decide) rfl, State.checkLogged_count, hA.get _ _ (by decide) rfl]
  · rw [hD.get _ _ (by decide) rfl, hC.get _ _ (by decide) rfl, fl.checkLogged_valid c d hsel]

/-! ### Completions (R51, R53) -/

/-- The ACLK of a completion, by the opcode (R51, R53). -/
theorem MeFly.completeAt_eq (f : MeFly) : f.completeAt = f.last + (if f.op = 2 then 1 else 41) := by
  unfold MeFly.completeAt; split <;> rfl

/-- The only begun command of a core completes in the ACLK that its timeline gives. -/
theorem State.meCompletions_one {s : State} {c t : Nat} {f : MeFly} (hf : (s.core c).meFly = [f]) (he : f.ended = false) (hd : f.dead = none)
    (hc : f.cut = none) (ht : f.completeAt ≤ t) : s.meCompletions c t =
      (s.modCore c (fun x => { x with meFly := [{ f with ended := true }] })).meComplete c f ((f.stop.map (fun k => k.1)).getD 0)
        ((f.stop.map (fun k => k.2.1)).getD 0) := by
  have hend : s.modCore c (fun x => { x with meFly := x.meFly.modify 0 (fun g => { g with ended := true }) }) =
      s.modCore c (fun x => { x with meFly := [{ f with ended := true }] }) := by
    unfold State.modCore
    dsimp only
    rw [hf]
    rfl
  have hdue : (!f.ended && f.dead.isNone && f.cut.isNone && decide (f.completeAt ≤ t)) = true := by simp [he, hd, hc, ht]
  unfold State.meCompletions
  rw [hf]
  simp only [List.length_singleton, List.range_one, List.foldl_cons, List.foldl_nil, hf, List.getElem?_cons_zero, if_pos hdue, hend]
  cases f.stop <;> rfl

/-- Before that ACLK the command does not complete. -/
theorem State.meCompletions_early {s : State} {c t : Nat} {f : MeFly} (hf : (s.core c).meFly = [f]) (ht : t < f.completeAt) : s.meCompletions c t = s := by
  simp [State.meCompletions, hf]; omega

/-- The ACB address of a result row of an iteration that lies in the ACB. -/
theorem meAddr_row {q : Cmd} {n : Nat} (m : Nat) (h : meInAcb q n = true) (hs : (meFmt q).isSlice = false) :
    (meAddr q n + (meRowBytes q * m : Nat)).toNat = (meAddr q n).toNat + 64 * m := by
  have hb : meRowBytes q = 64 := by simp [meRowBytes, hs]
  have h0 : 0 ≤ meAddr q n := by
    simp only [meInAcb, Bool.and_eq_true, decide_eq_true_eq] at h
    exact h.1
  rw [hb]; omega

/-- Settles O12: the timelines (`meTimeline_plain_entries`, `meTimeline_sliced_end`), an act that loads (`State.meAct_load_leaves`), streams
(`State.meAct_stream`) or is refused (`State.meAct_bad`), the write of a row (`State.meWriteRow_leaves`), a failed check
(`State.checkFail_ends`) and the completion (`State.meCompletions_one`, `State.meCompletions_early`). -/
theorem matrixPass : Obligations.MatrixPass := by
  unfold Obligations.MatrixPass
  refine ⟨fun q b => meTimeline_plain_entries q b, fun q b h _ => meTimeline_sliced_end q b h, ?_, ?_, ?_, ?_, ?_, ?_⟩
  · intro s c t f a ⟨hinj, hhw⟩ hl hacb hk
    obtain ⟨hf, hblk, hloaded, hsel, hframe⟩ := State.meAct_load_leaves hinj hhw hl hacb hk
    exact ⟨hf, hblk, hloaded, hsel, hframe.mem.mem, hframe.others, hframe.trf, hframe.x⟩
  · intro s c t f a b ⟨hinj, hhw⟩ hl _ hacb hd hb hs hk
    obtain ⟨u, hframe, hblk, hact⟩ := State.meAct_stream hinj hhw hl hacb hd hb hs hk
    dsimp only
    rw [hact]
    refine ⟨_, rfl, by simp, fun m hm =>
      ⟨(s.set F.ME_STATUS_ITER c a.n).meEnter c { f with cur := a.n } a b m (t + m / 2), ?_, ?_⟩, hblk, hframe.mem.mem, hframe.others, hframe.trf, hframe.x⟩
    · rw [List.getElem?_map, List.getElem?_range hm]; rfl
    · refine ⟨rfl, rfl, rfl, rfl, rfl, meAddr_row m hacb hs, rfl, ?_, ?_, ?_⟩
      · rw [State.meEnter_isInt]; simp [hs]
      · rw [State.meEnter_k0, Bool.or_eq_true, decide_eq_true_eq]
      · by_cases hi : meFmt f.q.cmd = .int8
        · simp only [if_pos hi]; exact State.meEnter_vals_int _ _ _ _ _ _ _ hi
        · simp only [if_neg hi]; exact State.meEnter_vals_float _ _ _ _ _ _ _ hi hs
  · intro s c t f a hstop bad st hbad
    obtain ⟨u, hframe, hevt, hact⟩ := State.meAct_bad hbad
    dsimp only
    rw [hact]
    refine ⟨?_, rfl, rfl, rfl, hevt, hframe.mem.mem, hframe.others, hframe.trf, hframe.x⟩
    simp only [MeFly.skipFrom, hstop]
  · intro s c cmd r hs hk _ hv _
    exact s.meWriteRow_leaves c hs hk hv
  · intro s c t f r d hhw hd hsel he hstop ha hdone hties
    obtain ⟨hended, htodo, hrows, hevt, hlast, hcnt, hvalid, haborted, hcause, hmem⟩ := State.checkFail_ends (t := t) hhw hd hsel he hstop ha hdone hties
    exact ⟨hended, htodo, hrows, hevt, hlast, hcnt, hvalid, haborted, hcause, hmem.mem⟩
  · intro s c f hf he hd hc
    exact ⟨fun t ht => State.meCompletions_one hf he hd hc ht, fun t ht => State.meCompletions_early hf ht, f.completeAt_eq⟩

end Sys2Proof.Machine
end

section
/-! PROOFS. The rows of a tile as readers see them, through write buffers and drains (R102, R103). -/

namespace Sys2Proof.Machine

open Sys2Proof

/-! ### Bytes of a byte space -/

/-- The bytes of a range, one by one. -/
theorem getBytes_eq_map (m : List (Nat × Byte)) (a n : Nat) : getBytes m a n = (List.range n).map (fun i => getByte m (a + i)) := by
  induction n generalizing a with
  | zero => rfl
  | succ n ih =>
    have hstep (i : Nat) : a + 1 + i = a + (i + 1) := by omega
    simp [getBytes, ih, List.range_succ_eq_map, hstep]

/-- A byte that has been written. -/
theorem getByte_putBytes_at (m : List (Nat × Byte)) (a : Nat) (bs : List Byte) {j : Nat} (hj : j < bs.length) :
    getByte (putBytes m a bs) (a + j) = bs.getD j 0 := by
  have h := congrArg (fun l => l.getD j 0) (getBytes_putBytes_same bs m a)
  simpa [getBytes_eq_map, List.getD_eq_getElem?_getD, hj] using h

/-! ### The newest buffered row -/

/-- The row that readers take from the write buffers for row `r` of tile `t`: the newest. -/
def newestRow (l : List BufRow) (t r : Nat) : Option BufRow := l.reverse.find? (fun w => decide (w.tile = t) && decide (w.row = r))

theorem CoreSt.tileByte_eq (x : CoreSt) (t r b : Nat) : x.tileByte t r b =
    ((newestRow x.wbuf t r).map (fun w => w.bytes.getD b 0)).getD (getByte x.trf (t * 1024 + r * 64 + b)) := by
  unfold CoreSt.tileByte newestRow
  split <;> next h => rw [h]; rfl

theorem newestRow_append (l l' : List BufRow) (t r : Nat) : newestRow (l ++ l') t r = (newestRow l' t r).or (newestRow l t r) := by
  simp [newestRow]

theorem newestRow_singleton (w : BufRow) (t r : Nat) : newestRow [w] t r = if w.tile = t ∧ w.row = r then some w else none := by
  simp only [newestRow, List.reverse_singleton, List.find?_singleton, Bool.and_eq_true, decide_eq_true_eq]

theorem newestRow_eq_none {l : List BufRow} {t r : Nat} (h : ∀ w ∈ l, ¬ (w.tile = t ∧ w.row = r)) : newestRow l t r = none := by
  simpa [newestRow] using h

/-- What a row of a write buffer always is: 64 bytes of one of the 16 rows of a tile, before the bank of that row (R101, R103). -/
def BufRow.wf (w : BufRow) : Prop := w.bytes.length = 64 ∧ w.row < 16 ∧ w.bank = (w.row + w.tile) % 16

/-! ### A row that a load writes (R103) -/

theorem CoreSt.loadRow_buffered {x : CoreSt} {tile row t : Nat} (bytes : List Byte)
    (h : (x.bankTaken ((row + tile) % 16) t || x.wbuf.any (fun w => decide (w.bank = (row + tile) % 16))) = true) :
    (x.loadRow tile row t bytes).1 = { x with wbuf := x.wbuf ++ [⟨(row + tile) % 16, tile, row, bytes, t + 1⟩] } := by
  unfold CoreSt.loadRow; simp only [h, if_true]

theorem CoreSt.loadRow_banked {x : CoreSt} {tile row t : Nat} (bytes : List Byte)
    (h : (x.bankTaken ((row + tile) % 16) t || x.wbuf.any (fun w => decide (w.bank = (row + tile) % 16))) = false) :
    (x.loadRow tile row t bytes).1 = { x with trf := putBytes x.trf (tile * 1024 + row * 64) bytes } := by
  unfold CoreSt.loadRow; simp only [h, Bool.false_eq_true, if_false]

/-- A bank without buffered rows holds every row of it. -/
theorem newestRow_none_of_bank {l : List BufRow} {tile row : Nat} (hwf : ∀ w ∈ l, w.wf) (h : ∀ w ∈ l, w.bank ≠ (row + tile) % 16) :
    newestRow l tile row = none := by
  refine newestRow_eq_none fun w hw ⟨ht, hr⟩ => h w hw ?_
  obtain ⟨_, _, hbank⟩ := hwf w hw
  rw [hbank, ht, hr]

/-- A row written to the tile registers reads back its bytes. -/
theorem getByte_tileRow_same (m : List (Nat × Byte)) (tile row : Nat) {bytes : List Byte} (hlen : bytes.length = 64) {j : Nat} (hj : j < 64) :
    getByte (putBytes m (tile * 1024 + row * 64) bytes) (tile * 1024 + row * 64 + j) = bytes.getD j 0 :=
  getByte_putBytes_at _ _ _ (by omega)

/-- A row written to the tile registers leaves every other row. -/
theorem getByte_tileRow_other (m : List (Nat × Byte)) {tile row u r j : Nat} {bytes : List Byte} (hlen : bytes.length = 64) (hrow : row < 16)
    (hr : r < 16) (hj : j < 64) (h : u ≠ tile ∨ r ≠ row) :
    getByte (putBytes m (tile * 1024 + row * 64) bytes) (u * 1024 + r * 64 + j) = getByte m (u * 1024 + r * 64 + j) :=
  getByte_putBytes_other _ _ _ _ (by omega)

/-- Readers see the bytes of a row from the ACLK in which a load writes it. -/
theorem CoreSt.loadRow_same (x : CoreSt) (tile row t : Nat) {bytes : List Byte} (hlen : bytes.length = 64) (hwf : ∀ w ∈ x.wbuf, w.wf) {j : Nat}
    (hj : j < 64) : (x.loadRow tile row t bytes).1.tileByte tile row j = bytes.getD j 0 := by
  cases h : (x.bankTaken ((row + tile) % 16) t || x.wbuf.any (fun w => decide (w.bank = (row + tile) % 16))) with
  | true =>
    rw [CoreSt.loadRow_buffered bytes h, CoreSt.tileByte_eq, newestRow_append, newestRow_singleton, if_pos ⟨rfl, rfl⟩]
    rfl
  | false =>
    have hbank : ∀ w ∈ x.wbuf, w.bank ≠ (row + tile) % 16 := by simp_all
    rw [CoreSt.loadRow_banked bytes h, CoreSt.tileByte_eq, newestRow_none_of_bank hwf hbank]
    exact getByte_tileRow_same _ _ _ hlen hj

/-- Every other row is to its readers as it was. -/
theorem CoreSt.loadRow_other (x : CoreSt) {tile row : Nat} (t : Nat) {bytes : List Byte} (hlen : bytes.length = 64) (hrow : row < 16) {u r j : Nat}
    (h : u ≠ tile ∨ r ≠ row) (hr : r < 16) (hj : j < 64) : (x.loadRow tile row t bytes).1.tileByte u r j = x.tileByte u r j := by
  cases hb : (x.bankTaken ((row + tile) % 16) t || x.wbuf.any (fun w => decide (w.bank = (row + tile) % 16))) with
  | true =>
    rw [CoreSt.loadRow_buffered bytes hb, CoreSt.tileByte_eq, CoreSt.tileByte_eq, newestRow_append, newestRow_singleton,
      if_neg (fun e => h.elim (fun hu => hu e.1.symm) (fun hr => hr e.2.symm)), Option.none_or]
  | false =>
    rw [CoreSt.loadRow_banked bytes hb, CoreSt.tileByte_eq, CoreSt.tileByte_eq, getByte_tileRow_other _ hlen hrow hr hj h]

/-! ### Drains (R102, R103) -/

/-- The row that drains from a bank's buffer is the oldest of the bank. -/
theorem CoreSt.drainBank_some {x : CoreSt} {bank : Nat} {w : BufRow} (h : x.wbuf.find? (fun w => decide (w.bank = bank)) = some w) :
    ∃ older newer, x.wbuf = older ++ w :: newer ∧ w.bank = bank ∧ (∀ v ∈ older, v.bank ≠ bank) ∧
      x.drainBank bank = { x with trf := putBytes x.trf (w.tile * 1024 + w.row * 64) w.bytes, wbuf := older ++ newer } := by
  obtain ⟨hw, older, newer, hsplit, hold⟩ := List.find?_eq_some_iff_append.mp h
  have hold' : ∀ v ∈ older, v.bank ≠ bank := by simpa using hold
  have hbank : w.bank = bank := of_decide_eq_true hw
  have herase : x.wbuf.erase w = older ++ newer := by
    rw [hsplit, List.erase_append_right _ (fun hm => hold' w hm hbank), List.erase_cons_head]
  refine ⟨older, newer, hsplit, hbank, hold', ?_⟩
  unfold CoreSt.drainBank
  rw [h]
  simp only [herase]

/-- A drain of one bank changes nothing that a reader sees. -/
theorem CoreSt.drainBank_tileByte (x : CoreSt) (bank : Nat) (hwf : ∀ w ∈ x.wbuf, w.wf) {u r j : Nat} (hr : r < 16) (hj : j < 64) :
    (x.drainBank bank).tileByte u r j = x.tileByte u r j := by
  cases h : x.wbuf.find? (fun w => decide (w.bank = bank)) with
  | none => unfold CoreSt.drainBank; rw [h]
  | some w =>
    obtain ⟨older, newer, hsplit, hbank, hold, hdrain⟩ := CoreSt.drainBank_some h
    obtain ⟨hlen, hrow, hwbank⟩ := hwf w (by rw [hsplit]; simp)
    rw [hdrain, CoreSt.tileByte_eq, CoreSt.tileByte_eq, hsplit, List.append_cons, newestRow_append, newestRow_append, newestRow_append,
      newestRow_singleton]
    by_cases e : w.tile = u ∧ w.row = r
    · obtain ⟨rfl, rfl⟩ := e
      have hnone : newestRow older w.tile w.row = none :=
        newestRow_none_of_bank (fun v hv => hwf v (by rw [hsplit]; simp [hv])) (fun v hv => by rw [← hwbank, hbank]; exact hold v hv)
      rw [hnone, if_pos ⟨rfl, rfl⟩]
      cases newestRow newer w.tile w.row with
      | none => exact getByte_tileRow_same _ _ _ hlen hj
      | some v => rfl
    · rw [if_neg e, Option.none_or, getByte_tileRow_other _ hlen hrow hr hj (by omega)]

theorem CoreSt.drainBank_wf {x : CoreSt} (bank : Nat) (hwf : ∀ w ∈ x.wbuf, w.wf) : ∀ w ∈ (x.drainBank bank).wbuf, w.wf := by
  unfold CoreSt.drainBank
  split
  · exact fun v hv => hwf v (List.mem_of_mem_erase hv)
  · exact hwf

theorem CoreSt.drainBanks_tileByte (banks : List Nat) (x : CoreSt) (hwf : ∀ w ∈ x.wbuf, w.wf) {u r j : Nat} (hr : r < 16) (hj : j < 64) :
    (banks.foldl CoreSt.drainBank x).tileByte u r j = x.tileByte u r j := by
  induction banks generalizing x with
  | nil => rfl
  | cons b banks ih => exact (ih _ (CoreSt.drainBank_wf b hwf)).trans (x.drainBank_tileByte b hwf hr hj)

/-- The rows that stay in the buffers try again in a later ACLK, which no reader sees. -/
theorem CoreSt.tileByte_retimed (x : CoreSt) (f : BufRow → BufRow) (ht : ∀ w, (f w).tile = w.tile) (hr : ∀ w, (f w).row = w.row)
    (hb : ∀ w, (f w).bytes = w.bytes) (u r j : Nat) : ({ x with wbuf := x.wbuf.map f } : CoreSt).tileByte u r j = x.tileByte u r j := by
  have hnew : newestRow (x.wbuf.map f) u r = (newestRow x.wbuf u r).map f := by
    simp only [newestRow, ← List.map_reverse, List.find?_map, Function.comp_def, ht, hr]
  rw [CoreSt.tileByte_eq, CoreSt.tileByte_eq, hnew]
  cases newestRow x.wbuf u r <;> simp [hb]

/-- The drains of an ACLK change nothing that a reader sees. -/
theorem CoreSt.drains_tileByte (x : CoreSt) (t : Nat) (used : List Nat) (hwf : ∀ w ∈ x.wbuf, w.wf) {u r j : Nat} (hr : r < 16) (hj : j < 64) :
    (x.drains t used).1.tileByte u r j = x.tileByte u r j := by
  unfold CoreSt.drains
  dsimp only
  rw [CoreSt.tileByte_retimed _ _ (fun w => by split <;> rfl) (fun w => by split <;> rfl) (fun w => by split <;> rfl)]
  exact CoreSt.drainBanks_tileByte _ x hwf hr hj

end Sys2Proof.Machine
end

section
/-! PROOFS. What the data mover's work inside its core leaves: banks it takes, commands that begin, and completions (R152, R219, R239). -/

namespace Sys2Proof.Machine

open Sys2Proof

/-! ### Banks that an access takes (R26, R219) -/

theorem State.pmonAdd_local (s : State) (inst k n : Nat) : Local s (s.pmonAdd inst k n) := by
  unfold State.pmonAdd
  dsimp only
  split
  · exact ((Local.set s F.PMON_CNT_COUNT inst _ k).trans (.set _ F.PMON_CNT_EPOCH inst _ k)).trans (.flagBit ..)
  · exact .set ..

theorem State.pmon_local (s : State) (b : Blk) (unit ev sub n : Nat) : Local s (s.pmon b unit ev sub n) := by
  unfold State.pmon
  split
  · exact .refl s
  · refine List.foldlRecOn _ _ (Local.refl s) fun t ht k _ => ht.trans ?_
    split
    · exact State.pmonAdd_local ..
    · exact .refl t

@[simp] theorem State.pmon_zero (s : State) (b : Blk) (unit ev sub : Nat) : s.pmon b unit ev sub 0 = s := rfl

/-- Taking banks writes SPD_EVT, performance counters and the uses of the core's ACB ports. -/
structure BanksTaken (s t : State) (c : Nat) : Prop where
  rest : Local s t
  regs : ∀ k, k.reg ≠ .SPD_EVT → sideReg k.reg = false → t.rd k = s.rd k
  core : t.core c = { s.core c with acbPort := (t.core c).acbPort }
  others : ∀ d, d ≠ c → t.core d = s.core d

theorem BanksTaken.refl (s : State) (c : Nat) : BanksTaken s s c := ⟨.refl s, fun _ _ _ => rfl, rfl, fun _ _ => rfl⟩

theorem BanksTaken.trans {s t u : State} {c : Nat} (h : BanksTaken s t c) (g : BanksTaken t u c) : BanksTaken s u c where
  rest := h.rest.trans g.rest
  regs k hk hs := (g.regs k hk hs).trans (h.regs k hk hs)
  core := by rw [g.core, h.core]
  others d hd := (g.others d hd).trans (h.others d hd)

theorem BanksTaken.pmon (s : State) (c : Nat) (b : Blk) (unit ev sub n : Nat) : BanksTaken s (s.pmon b unit ev sub n) c where
  rest := s.pmon_local ..
  regs k _ hs := (s.pmon_quiet ..).regs k hs
  core := by rw [(s.pmon_quiet ..).core]
  others d _ := (s.pmon_quiet ..).core d

theorem BanksTaken.flagIf (s : State) (c : Nat) (b : Bool) (f : Field) (hf : f.reg = .SPD_EVT) : BanksTaken s (s.flagIf b f c) c := by
  have hcore (d : Nat) : (s.flagIf b f c).core d = s.core d := by cases b <;> rfl
  have hregs : RegFrame [.SPD_EVT] s (s.flagIf b f c) := .flagIf _ _ _ _ _ (by simp [hf])
  exact ⟨s.flagIf_local .., fun k hk hs => hregs.regs k (by simpa using hk) hs, by rw [hcore], fun d _ => hcore d⟩

theorem BanksTaken.acbUse (s : State) (c off n : Nat) : BanksTaken s (s.acbUse c off n) c := by
  unfold State.acbUse
  dsimp only
  split
  · exact .refl s c
  · exact ⟨.modCore .., fun _ _ _ => rfl, by simp, fun d hd => State.modCore_other _ _ hd⟩

theorem BanksTaken.foldl {α : Type} {c : Nat} {g : State → α → State} (hg : ∀ s a, BanksTaken s (g s a) c) (l : List α) (s : State) :
    BanksTaken s (l.foldl g s) c := by
  induction l generalizing s with
  | nil => exact .refl s c
  | cons a l ih => exact (hg s a).trans (ih _)

theorem State.windowTake_taken (s : State) (c : Nat) (m : BankMaster) (since : Nat) (rs : List (Nat × Nat)) :
    BanksTaken s (s.windowTake c m since rs) c := by
  unfold State.windowTake
  refine (BanksTaken.flagIf s c _ _ rfl).trans (BanksTaken.foldl (fun t r => ?_) _ _)
  exact (BanksTaken.foldl (fun u b => (BanksTaken.pmon ..).trans (.pmon ..)) _ _).trans (.acbUse ..)

theorem BanksTaken.get {s t : State} {c : Nat} (h : BanksTaken s t c) {f : Field} (i j : Nat) (hf : f.reg ≠ .SPD_EVT) (hs : sideReg f.reg = false) :
    t.get f i j = s.get f i j := congrArg f.of (h.regs ⟨f.reg, i, j⟩ hf hs)

theorem BanksTaken.inj {s t : State} {c : Nat} (h : BanksTaken s t c) : t.inj = s.inj := by rw [h.rest]
theorem BanksTaken.mem {s t : State} {c : Nat} (h : BanksTaken s t c) : t.mem = s.mem := h.rest.mem
theorem BanksTaken.trf {s t : State} {c : Nat} (h : BanksTaken s t c) : (t.core c).trf = (s.core c).trf := by rw [h.core]
theorem BanksTaken.staged {s t : State} {c : Nat} (h : BanksTaken s t c) : (t.core c).staged = (s.core c).staged := by rw [h.core]
theorem BanksTaken.dmCmds {s t : State} {c : Nat} (h : BanksTaken s t c) : (t.core c).dmCmds = (s.core c).dmCmds := by rw [h.core]
theorem BanksTaken.abort {s t : State} {c : Nat} (h : BanksTaken s t c) : (t.core c).abort = (s.core c).abort := by rw [h.core]
theorem BanksTaken.gatherAt {s t : State} {c : Nat} (h : BanksTaken s t c) : (t.core c).gatherAt = (s.core c).gatherAt := by rw [h.core]
theorem BanksTaken.now {s t : State} {c : Nat} (h : BanksTaken s t c) : t.now = s.now := h.rest.now

/-! ### The checks of ranges (R115, R200) -/

/-- Which banks can serve is in SPD_MAP and SPD_PWR. -/
theorem BanksTaken.bankOn {s t : State} {c : Nat} (h : BanksTaken s t c) (b : Nat) : t.bankOn c b = s.bankOn c b := by
  unfold State.bankOn State.bit State.sub
  rw [h.get (f := F.SPD_MAP_RETIRED) _ _ (by decide) rfl, h.get (f := F.SPD_PWR_STATE) _ _ (by decide) rfl]

theorem BanksTaken.rangeOn {s t : State} {c : Nat} (h : BanksTaken s t c) (off n : Nat) : t.rangeOn c off n = s.rangeOn c off n := by
  simp only [State.rangeOn, h.bankOn]

theorem BanksTaken.tcBad {s t : State} {c : Nat} (h : BanksTaken s t c) (cmd : Cmd) (n : Nat) : t.tcBad c cmd n = s.tcBad c cmd n := by
  simp only [State.tcBad, State.spdRange, h.rangeOn]

theorem BanksTaken.tnBad {s t : State} {c : Nat} (h : BanksTaken s t c) (cmd : Cmd) (n : Nat) : t.tnBad c cmd n = s.tnBad c cmd n := by
  simp only [State.tnBad, State.spdRange, h.rangeOn]

/-- Reads without errors of the hardware and of PERT_ECC change nothing. -/
theorem State.dmRead_ok {s : State} (h : s.inj = []) (c : Nat) (rs : List (Nat × Nat)) : s.dmRead c rs .ok = (s, false) := by
  have hl : s.winLines c rs = [] := by simp [State.winLines, h]
  simp [State.dmRead, State.winReads, hl]

/-! ### Changes of one core -/

/-- `t` is `s` with core `c` become `x`. -/
structure CoreBecomes (s t : State) (c : Nat) (x : CoreSt) : Prop where
  rest : OnlyCores s t
  core : t.core c = x
  others : ∀ d, d ≠ c → t.core d = s.core d

theorem CoreBecomes.refl (s : State) (c : Nat) : CoreBecomes s s c (s.core c) := ⟨rfl, rfl, fun _ _ => rfl⟩

theorem CoreBecomes.trans {s t u : State} {c : Nat} {x y : CoreSt} (h : CoreBecomes s t c x) (g : CoreBecomes t u c y) : CoreBecomes s u c y where
  rest := h.rest.trans g.rest
  core := g.core
  others d hd := (g.others d hd).trans (h.others d hd)

theorem CoreBecomes.modCore {s t : State} {c : Nat} {x : CoreSt} (h : CoreBecomes s t c x) (g : CoreSt → CoreSt) :
    CoreBecomes s (t.modCore c g) c (g x) :=
  h.trans ⟨.modCore .., by rw [State.modCore_same, h.core], fun _ hd => State.modCore_other _ _ hd⟩

theorem CoreBecomes.setEntry {s t : State} {c : Nat} {x : CoreSt} (h : CoreBecomes s t c x) (e : Eng) (n : Nat) :
    CoreBecomes s (t.setEntry c e n) c (x.setEng e { x.eng e with lastEntry := n }) := h.modCore _

/-- A core with one of its begun commands changed. -/
def CoreSt.modDm (x : CoreSt) (id : Nat) (f : DmCmd → DmCmd) : CoreSt := { x with dmCmds := x.dmCmds.map (fun d => if d.id = id then f d else d) }

theorem CoreSt.modDm_single {x : CoreSt} {d : DmCmd} (h : x.dmCmds = [d]) (f : DmCmd → DmCmd) : (x.modDm d.id f).dmCmds = [f d] := by
  simp [CoreSt.modDm, h]

theorem CoreBecomes.modDm {s t : State} {c : Nat} {x : CoreSt} (h : CoreBecomes s t c x) (id : Nat) (f : DmCmd → DmCmd) :
    CoreBecomes s (t.modDm c id f) c (x.modDm id f) := h.modCore _

theorem CoreBecomes.mem {s t : State} {c : Nat} {x : CoreSt} (h : CoreBecomes s t c x) : t.mem = s.mem := by rw [h.rest]
theorem CoreBecomes.now {s t : State} {c : Nat} {x : CoreSt} (h : CoreBecomes s t c x) : t.now = s.now := by rw [h.rest]
theorem CoreBecomes.inj {s t : State} {c : Nat} {x : CoreSt} (h : CoreBecomes s t c x) : t.inj = s.inj := by rw [h.rest]
theorem CoreBecomes.rd {s t : State} {c : Nat} {x : CoreSt} (h : CoreBecomes s t c x) (k : RKey) : t.rd k = s.rd k := by rw [h.rest]; rfl

theorem CoreBecomes.get {s t : State} {c : Nat} {x : CoreSt} (h : CoreBecomes s t c x) (f : Field) (i j : Nat) : t.get f i j = s.get f i j :=
  congrArg f.of (h.rd _)
theorem CoreBecomes.tcBad {s t : State} {c : Nat} {x : CoreSt} (h : CoreBecomes s t c x) (cmd : Cmd) (n : Nat) : t.tcBad c cmd n = s.tcBad c cmd n := by
  rw [h.rest]; rfl
theorem CoreBecomes.tnBad {s t : State} {c : Nat} {x : CoreSt} (h : CoreBecomes s t c x) (cmd : Cmd) (n : Nat) : t.tnBad c cmd n = s.tnBad c cmd n := by
  rw [h.rest]; rfl

section
variable {s t : State} {c : Nat} {x : CoreSt} (h : CoreBecomes s t c x) (hb : x.banks = (s.core c).banks) (ho : x.ownOld = (s.core c).ownOld)
include h hb ho

/-- Whether a bank serves an access depends, of the core, on its banks and on who owns them. -/
theorem CoreBecomes.bankServes (b : Nat) (m : BankMaster) (since off n : Nat) : t.bankServes c b m since off n = s.bankServes c b m since off n := by
  have hbank : x.bank b = (s.core c).bank b := by unfold CoreSt.bank; rw [hb]
  have howner : t.bankOwner c b = s.bankOwner c b := by
    unfold State.bankOwner
    dsimp only
    rw [h.core, ho, h.now, h.get]
  unfold State.bankServes
  rw [howner, h.core, hbank, h.now, h.get]

theorem CoreBecomes.windowServes (hp : x.acbPort = (s.core c).acbPort) (m : BankMaster) (since : Nat) (rs : List (Nat × Nat)) :
    t.windowServes c m since rs = s.windowServes c m since rs := by
  have hport (off n : Nat) : t.acbBusy c off n = s.acbBusy c off n := by
    unfold State.acbBusy
    rw [h.core, hp, h.now]
  simp only [State.windowServes, h.bankServes hb ho, hport]
end

/-! ### The data mover begins a command (R152, R239) -/

/-- A test that accepts the command that begins makes no difference. -/
theorem State.ready_of_ok {s : State} {c p b : Nat} {e : Eng} {ok ok' : Cmd → Bool} {q : QCmd} (h : s.ready c e ok = some (p, q, b))
    (hok : ok' q.cmd = true) : s.ready c e ok' = some (p, q, b) := by
  unfold State.ready at h ⊢
  dsimp only at h ⊢
  split at h
  · next hr =>
    rw [if_pos hr]
    split at h
    · split at h
      · cases h; rw [if_pos hok]
      · cases h
    · split at h
      · split at h
        · cases h; rw [if_pos hok]
        · cases h
      · cases h
  · cases h

/-- A core whose data mover has begun `d` from list `p` in ACLK `b`. -/
def CoreSt.dmBegun (x : CoreSt) (p b : Nat) (d : DmCmd) : CoreSt :=
  { x with dm := x.dm.begun p b, dmCmds := x.dmCmds ++ [{ d with id := x.dmNext }], dmNext := x.dmNext + 1 }

@[simp] theorem CoreSt.dmBegun_dmCmds (x : CoreSt) (p b : Nat) (d : DmCmd) : (x.dmBegun p b d).dmCmds = x.dmCmds ++ [{ d with id := x.dmNext }] := rfl
@[simp] theorem CoreSt.dmBegun_staged (x : CoreSt) (p b : Nat) (d : DmCmd) : (x.dmBegun p b d).staged = x.staged := rfl
@[simp] theorem CoreSt.dmBegun_phase (x : CoreSt) (p b : Nat) (d : DmCmd) : (x.dmBegun p b d).phase = x.phase := rfl
@[simp] theorem CoreSt.dmBegun_gatherAt (x : CoreSt) (p b : Nat) (d : DmCmd) : (x.dmBegun p b d).gatherAt = x.gatherAt := rfl
@[simp] theorem CoreSt.dmBegun_trf (x : CoreSt) (p b : Nat) (d : DmCmd) : (x.dmBegun p b d).trf = x.trf := rfl
@[simp] theorem CoreSt.dmBegun_abort (x : CoreSt) (p b : Nat) (d : DmCmd) : (x.dmBegun p b d).abort = x.abort := rfl

/-- A begun command as `dmBegin` makes it in the present ACLK. -/
def State.dmFresh (s : State) (q : QCmd) : DmCmd := { id := 0, q := q, at_ := s.now, spec := s.specCurs }

theorem State.dmBegin_id (s : State) (c p b : Nat) (q : QCmd) (g : DmCmd → DmCmd) : (s.dmBegin c p b q g).2 = (s.core c).dmNext := by
  simp [State.dmBegin, State.dmPush, State.begin_, State.setNow, CoreSt.setEng, State.core, State.modCore, State.setCore]

theorem State.dmBegin_becomes (s : State) (c p : Nat) (q : QCmd) (g : DmCmd → DmCmd) :
    CoreBecomes s (s.dmBegin c p s.now q g).1 c ((s.core c).dmBegun p s.now (g (s.dmFresh q))) := by
  have h := (CoreBecomes.refl s c).modCore (fun x => x.setEng .dm ((x.eng .dm).begun p s.now))
  unfold State.dmBegin State.dmPush
  dsimp only
  rw [State.begin_now, h.core]
  exact h.modCore _

end Sys2Proof.Machine
end

section
/-! PROOFS. Tile loads: the gather and the begin of the write phase (R116, R119, R120), the begin of a tile store (R118), WRITE_BUFFER_DRAIN
(R103) and DM_FENCE (R239). -/

namespace Sys2Proof.Machine

open Sys2Proof

/-! ### The gather (R116) -/

/-- A staged tile as a gather that begins now stages it. -/
def State.gathered (s : State) (c : Nat) (d : DmCmd) : Staged :=
  { tile := tcTile d.q.cmd d.gather, deckle := Cmd.deckle d.q.cmd, iter := d.gather, last := decide (d.gather + 1 = d.nIter), id := d.id,
    ready := max (max s.now d.at_) (s.core c).gatherAt + dkRows (Cmd.deckle d.q.cmd),
    rows := (List.range (dkRows (Cmd.deckle d.q.cmd))).map (s.gatherRow c d.q.cmd d.gather) }

/-- A core whose gather has staged a tile. -/
def CoreSt.stage (x : CoreSt) (st : Staged) : CoreSt := { x with staged := x.staged ++ [st], gatherAt := st.ready }

/-- A begun load after the gather of its iteration `n`: a write phase is to come, and after the last gather it issues nothing more. -/
def DmCmd.gatheredOne (n nIter : Nat) (d : DmCmd) : DmCmd :=
  { d with gather := n + 1, open_ := d.open_ + 1, issuing := !decide (n + 1 = nIter) }

/-- A core after the gather of the last iteration of command `d`. -/
def CoreSt.gatheredLast (x : CoreSt) (d : DmCmd) (st : Staged) (entry : Nat) : CoreSt :=
  let y := (x.stage st).modDm d.id (DmCmd.gatheredOne d.gather d.nIter)
  { y with dm := { y.dm with lastEntry := entry } }

@[simp] theorem CoreSt.gatheredLast_staged (x : CoreSt) (d : DmCmd) (st : Staged) (n : Nat) : (x.gatheredLast d st n).staged = x.staged ++ [st] := rfl
@[simp] theorem CoreSt.gatheredLast_trf (x : CoreSt) (d : DmCmd) (st : Staged) (n : Nat) : (x.gatheredLast d st n).trf = x.trf := rfl
theorem CoreSt.gatheredLast_dmCmds {x : CoreSt} {d : DmCmd} (h : x.dmCmds = [d]) (st : Staged) (n : Nat) :
    (x.gatheredLast d st n).dmCmds = [d.gatheredOne d.gather d.nIter] := (x.stage st).modDm_single h _

/-- The gather of the last iteration of a begun load whose check and reads find nothing. -/
theorem State.gatherOne_last {s : State} {d : DmCmd} (c : Nat) (hinj : s.inj = []) (hecc : d.ecc = .ok)
    (hbad : s.tcBad c d.q.cmd d.gather = false) (hlast : d.gather + 1 = d.nIter) :
    ∃ entry, CoreBecomes s (s.gatherOne c d) c ((s.core c).gatheredLast d (s.gathered c d) entry) := by
  have hhw : dmHwAt d.ecc d.gather = .ok := by rw [hecc]; rfl
  let u := (s.modCore c (fun x => x.stage (s.gathered c d))).modDm c d.id (DmCmd.gatheredOne d.gather d.nIter)
  let entry := max (max (max s.now d.at_) (s.core c).gatherAt) (((u.core c).eng .dm).lastEntry)
  have heq : s.gatherOne c d = u.setEntry c .dm entry := by
    unfold State.gatherOne
    simp only [hbad, Bool.false_eq_true, if_false, hhw, State.dmRead_ok hinj]
    exact if_pos (decide_eq_true hlast)
  rw [heq]
  exact ⟨entry, (((CoreBecomes.refl s c).modCore _).modDm _ _).setEntry .dm entry⟩

/-- With a staging buffer free and banks that serve its rows, the next iteration is gathered. -/
theorem State.gatherMore_step {s : State} {c k : Nat} {d : DmCmd} (hst : (s.core c).staging < 2)
    (hfind : (s.core c).dmCmds.find? (fun d => d.issuing && decide (Cmd.opcode d.q.cmd = 0x10)) = some d) (hbad : s.tcBad c d.q.cmd d.gather = false)
    (hserves : s.windowServes c .dm d.at_ ((tcRanges d.q.cmd d.gather).map (fun r => (r.1.toNat, r.2))) = true) :
    s.gatherMore c (k + 1) =
      ((s.windowTake c .dm d.at_ ((tcRanges d.q.cmd d.gather).map (fun r => (r.1.toNat, r.2)))).gatherOne c d).gatherMore c k := by
  rw [State.gatherMore, if_neg (by omega), hfind]
  simp only [hbad, hserves, Bool.false_or, if_true, Bool.false_eq_true, if_false]

/-- With no load to gather nothing is gathered. -/
theorem State.gatherMore_none {s : State} {c : Nat} (k : Nat)
    (hfind : (s.core c).dmCmds.find? (fun d => d.issuing && decide (Cmd.opcode d.q.cmd = 0x10)) = none) : s.gatherMore c k = s := by
  cases k with
  | zero => rfl
  | succ k => rw [State.gatherMore, hfind]; exact ite_self s

/-- A command that is not done keeps itself and those behind it from completing (R239). -/
theorem State.dmSettle_open {s : State} {c : Nat} {d : DmCmd} {rest : List DmCmd} (hcmds : (s.core c).dmCmds = d :: rest) (hd : d.done = false) :
    s.dmSettle c = s := by
  unfold State.dmSettle
  rw [hcmds, List.length_cons, State.dmReport, hcmds]
  simp only [hd, Bool.false_eq_true, if_false]

/-- What a gather stages depends on memory, the clock and the gather before. -/
theorem State.gathered_congr {s t : State} {c : Nat} (hmem : t.mem = s.mem) (hnow : t.now = s.now) (hat : (t.core c).gatherAt = (s.core c).gatherAt)
    (d : DmCmd) : t.gathered c d = s.gathered c d := by
  have hrow (n r : Nat) : t.gatherRow c d.q.cmd n r = s.gatherRow c d.q.cmd n r := by
    unfold State.gatherRow State.readWin State.readMem
    rw [hmem]
  unfold State.gathered
  rw [hnow, hat, funext (hrow d.gather)]

/-- A tile load as DM_TLOAD begins it in the present ACLK. -/
def State.loadBegun (s : State) (c : Nat) (q : QCmd) : DmCmd := { s.dmFresh q with id := (s.core c).dmNext, nIter := Cmd.iters q.cmd }

/-- A legal DM_TLOAD that can begin in the present ACLK begins, and gathers what it can. -/
theorem dmTload_begins {s : State} {c p : Nat} {q : QCmd} (hw : DmHw)
    (hready : s.ready c .dm (fun k => decide (Cmd.opcode k = 0x10)) = some (p, q, s.now)) (hlegal : tcIllegal q.cmd = false) :
    exec (.dmTload c hw) s =
      .next (((s.dmBegin c p s.now q (fun d => { d with nIter := Cmd.iters q.cmd, ecc := hw })).1.gatherMore c 2).dmSettle c) := by
  show execDmTload c hw s = _
  unfold execDmTload State.dmBeginHead
  rw [s.beginHead_now _ hready]
  simp only [hlegal, Bool.false_eq_true, if_false]

/-- DM_TLOAD with one iteration whose rows the banks serve: the gather of its rows (R116). -/
theorem dmTload_gathers {s : State} {c p : Nat} {q : QCmd} (hready : s.ready c .dm (fun k => decide (Cmd.opcode k = 0x10)) = some (p, q, s.now))
    (hlegal : tcIllegal q.cmd = false) (hiters : Cmd.iters q.cmd = 1) (hcmds : (s.core c).dmCmds = []) (hstaged : (s.core c).staged = [])
    (hphase : (s.core c).phase = []) (hinj : s.inj = []) (hbad : s.tcBad c q.cmd 0 = false)
    (hserves : s.windowServes c .dm s.now ((tcRanges q.cmd 0).map (fun r => (r.1.toNat, r.2))) = true) :
    ∃ t, exec (.dmTload c .ok) s = .next t ∧ t.mem = s.mem ∧ (t.core c).staged = [s.gathered c (s.loadBegun c q)] ∧
      (t.core c).trf = (s.core c).trf ∧ ∀ d, d ≠ c → t.core d = s.core d := by
  have hbegin := dmTload_begins .ok hready hlegal
  have hbegun := s.dmBegin_becomes c p q (fun d => { d with nIter := Cmd.iters q.cmd, ecc := .ok })
  generalize (s.dmBegin c p s.now q (fun d => { d with nIter := Cmd.iters q.cmd, ecc := .ok })).1 = u at hbegin hbegun
  let d := s.loadBegun c q
  have hu : (u.core c).dmCmds = [d] := by rw [hbegun.core, CoreSt.dmBegun_dmCmds, hcmds]; rfl
  have hfind : (u.core c).dmCmds.find? (fun d => d.issuing && decide (Cmd.opcode d.q.cmd = 0x10)) = some d := by
    rw [hu]
    exact List.find?_cons_of_pos (by simp [d, State.loadBegun, State.dmFresh, State.ready_opcode hready])
  have hfree : (u.core c).staging < 2 := by simp [hbegun.core, CoreSt.staging, hstaged, hphase]
  have hstep := State.gatherMore_step (k := 1) hfree hfind ((hbegun.tcBad ..).trans hbad) ((hbegun.windowServes rfl rfl rfl ..).trans hserves)
  have htaken := u.windowTake_taken c .dm d.at_ ((tcRanges d.q.cmd d.gather).map (fun r => (r.1.toNat, r.2)))
  generalize u.windowTake c .dm d.at_ ((tcRanges d.q.cmd d.gather).map (fun r => (r.1.toNat, r.2))) = w at hstep htaken
  obtain ⟨entry, hgather⟩ := State.gatherOne_last (d := d) c (htaken.inj.trans (hbegun.inj.trans hinj)) rfl
    ((htaken.tcBad ..).trans ((hbegun.tcBad ..).trans hbad)) hiters.symm
  have hone : ((w.gatherOne c d).core c).dmCmds = [d.gatheredOne 0 (Cmd.iters q.cmd)] := by
    rw [hgather.core]
    exact CoreSt.gatheredLast_dmCmds (htaken.dmCmds.trans hu) _ _
  have hnone : (w.gatherOne c d).gatherMore c 1 = w.gatherOne c d :=
    State.gatherMore_none 1 (by rw [hone]; simp [DmCmd.gatheredOne, hiters])
  have hsettle : (w.gatherOne c d).dmSettle c = w.gatherOne c d := State.dmSettle_open hone (by simp [DmCmd.gatheredOne, DmCmd.done])
  have hsame : w.gathered c d = s.gathered c d :=
    State.gathered_congr (htaken.mem.trans hbegun.mem) (htaken.now.trans hbegun.now) (by rw [htaken.gatherAt, hbegun.core, CoreSt.dmBegun_gatherAt]) d
  refine ⟨w.gatherOne c d, ?_, ?_, ?_, ?_, fun e he => ?_⟩
  · rw [hbegin, hstep, hnone, hsettle]
  · rw [hgather.mem, htaken.mem, hbegun.mem]
  · rw [hgather.core, CoreSt.gatheredLast_staged, htaken.staged, hbegun.core, CoreSt.dmBegun_staged, hstaged, List.nil_append, hsame]
  · rw [hgather.core, CoreSt.gatheredLast_trf, htaken.trf, hbegun.core, CoreSt.dmBegun_trf]
  · rw [hgather.others e he, htaken.others e he, hbegun.others e he]

/-! ### The begin of a write phase (R116, R119, R120) -/

/-- No lock: no time passes. -/
theorem State.unlock_free {s : State} {c tile : Nat} (h : (s.core c).lockedUntil tile s.now = none) (n : Nat) : s.unlock c tile n = s := by
  cases n with
  | zero => rfl
  | succ n => rw [State.unlock, h]

/-- Without PERT_SLIP nothing is added to a stamp. -/
theorem State.slipAdd_off {s : State} (h : s.get F.PERT_SLIP_EN 0 = 0) (c tile : Nat) : s.slipAdd c tile = (0, s) := by
  unfold State.slipAdd
  rw [h]
  rfl

/-- A core whose oldest staged tile goes into its write phase in ACLK `w`. -/
def CoreSt.phaseBegun (x : CoreSt) (st : Staged) (w : Nat) : CoreSt :=
  { x with
    staged := x.staged.drop 1, dmEnd := w + st.rows.length, injected := x.injected.filter (· ≠ st.tile)
    latS := x.latS.filter (· ≠ st.tile), latX := x.latX.filter (· ≠ st.tile)
    phase := st.rows.zipIdx.map (fun p => ⟨w + p.2, st.tile, p.2, p.1, decide (p.2 + 1 = st.rows.length), st.id⟩) }

/-- A tile that takes its tag and its stamp. -/
def State.tagTile (s : State) (c tile deckle stamp : Nat) : State :=
  ((s.set F.TRF_TAG_TAGGED c 1 tile).set F.TRF_TAG_TAG c deckle tile).set F.TRF_STAMP_STAMP c stamp tile

section
variable (s : State) (c tile deckle stamp : Nat)

@[simp] theorem State.tagTile_core (d : Nat) : (s.tagTile c tile deckle stamp).core d = s.core d := rfl
@[simp] theorem State.tagTile_mem : (s.tagTile c tile deckle stamp).mem = s.mem := rfl

theorem State.tagTile_tagged : (s.tagTile c tile deckle stamp).get F.TRF_TAG_TAGGED c tile = 1 := by
  unfold State.tagTile
  rw [State.get_set_reg _ _ _ _ _ _ _ _ (by decide), State.get_set_apart _ _ _ _ _ _ (by decide) (by decide) (by decide),
    State.get_set_same _ _ _ _ _ (by decide)]
  rfl

theorem State.tagTile_tag : (s.tagTile c tile deckle stamp).get F.TRF_TAG_TAG c tile = deckle % 2 ^ 32 := by
  unfold State.tagTile
  rw [State.get_set_reg _ _ _ _ _ _ _ _ (by decide)]
  exact State.get_set_same _ _ _ _ _ (by decide)

theorem State.tagTile_stamp : (s.tagTile c tile deckle stamp).get F.TRF_STAMP_STAMP c tile = stamp % 2 ^ 64 :=
  State.get_set_same _ _ _ _ _ (by decide)

/-- The tags and stamps of other tiles stay. -/
theorem State.tagTile_other {u : Nat} (h : u ≠ tile) {f : Field} (hf : f.ok = true) :
    (s.tagTile c tile deckle stamp).get f c u = s.get f c u := by
  have apart (g : Field) : keyApart g f c tile c u = true := by simp [keyApart, h.symm]
  unfold State.tagTile
  rw [State.get_set_other _ _ _ _ _ _ _ _ (by decide) hf (apart _), State.get_set_other _ _ _ _ _ _ _ _ (by decide) hf (apart _),
    State.get_set_other _ _ _ _ _ _ _ _ (by decide) hf (apart _)]
end

theorem tloadWritePhase_begins {s : State} {c : Nat} {st : Staged} {more : List Staged} (hrun : s.running c = true)
    (hstaged : (s.core c).staged = st :: more) (hphase : (s.core c).phase = []) (hready : st.ready ≤ s.now) (hend : (s.core c).dmEnd ≤ s.now)
    (hlock : (s.core c).lockedUntil st.tile s.now = none) (hslip : s.get F.PERT_SLIP_EN 0 = 0) :
    exec (.tloadWritePhase c) s = .next ((s.modCore c (fun x => x.phaseBegun st s.now)).tagTile c st.tile st.deckle
      (s.now - s.coreBase c + st.rows.length)) := by
  have ht0 : max s.now (max st.ready (s.core c).dmEnd) = s.now := by omega
  have hat : s.at_ s.now = s := s.at_of_le _ (Nat.le_refl _)
  have hbase (g : CoreSt → CoreSt) (h : (g (s.core c)).base = (s.core c).base) : (s.modCore c g).coreBase c = s.coreBase c := by
    unfold State.coreBase
    rw [State.modCore_same, h]
    rfl
  show execTloadWritePhase c s = _
  unfold execTloadWritePhase
  simp only [hstaged, ht0, hat, State.unlock_free hlock, hrun, hlock, hphase, List.head?_cons, ne_self_iff_false, decide_false, Bool.not_true,
    Option.isSome_none, List.isEmpty_nil, Bool.or_self, Bool.false_eq_true, if_false, lt_irrefl, State.flagIf_false,
    show b2n false = 0 from rfl, State.pmon_zero, State.slipAdd_off hslip]
  rw [State.set_coreBase, State.set_coreBase, hbase _ rfl]
  rfl

/-- What the begin of a write phase leaves: the rows that follow, the tile's tag and stamp, and nothing else of the tile registers. -/
theorem State.phaseBegun_leaves (s : State) (c : Nat) (st : Staged) (stamp : Nat) :
    let t := (s.modCore c (fun x => x.phaseBegun st s.now)).tagTile c st.tile st.deckle stamp
    t.core c = (s.core c).phaseBegun st s.now ∧ t.get F.TRF_TAG_TAGGED c st.tile = 1 ∧ t.get F.TRF_TAG_TAG c st.tile = st.deckle % 2 ^ 32 ∧
      t.get F.TRF_STAMP_STAMP c st.tile = stamp % 2 ^ 64 ∧
      (∀ u, u ≠ st.tile → t.get F.TRF_STAMP_STAMP c u = s.get F.TRF_STAMP_STAMP c u ∧ t.get F.TRF_TAG_TAG c u = s.get F.TRF_TAG_TAG c u) ∧
      t.mem = s.mem ∧ ∀ d, d ≠ c → t.core d = s.core d := by
  refine ⟨?_, State.tagTile_tagged .., State.tagTile_tag .., State.tagTile_stamp .., fun u hu => ⟨?_, ?_⟩, ?_, fun d hd => ?_⟩
  · rw [State.tagTile_core, State.modCore_same]
  · rw [State.tagTile_other _ _ _ _ _ hu (by decide), State.modCore_get]
  · rw [State.tagTile_other _ _ _ _ _ hu (by decide), State.modCore_get]
  · rw [State.tagTile_mem, State.modCore_mem]
  · rw [State.tagTile_core, State.modCore_other _ _ hd]

/-! ### WRITE_BUFFER_DRAIN (R103) -/

/-- The clock that is carried to an instant has reached it. -/
theorem State.le_at_now (s : State) (t : Nat) : t ≤ (s.at_ t).now := Nat.le_max_right ..

/-- WRITE_BUFFER_DRAIN lets at least one ACLK pass when the bank has a buffered row. -/
theorem writeBufferDrain_passes (s : State) (c bank : Nat) : ∃ t, exec (.writeBufferDrain c bank) s = .next t ∧
    ((s.core c).wbuf.any (fun w => decide (w.bank = bank)) = false → t = s) ∧
    ((s.core c).wbuf.any (fun w => decide (w.bank = bank)) = true → s.now + 1 ≤ t.now) := by
  show ∃ t, execWriteBufferDrain c bank s = .next t ∧ _
  unfold execWriteBufferDrain
  cases h : (s.core c).wbuf.find? (fun w => decide (w.bank = bank)) with
  | none =>
    refine ⟨s, rfl, fun _ => rfl, fun hany => ?_⟩
    rw [← List.isSome_find?, h] at hany
    cases hany
  | some w =>
    have hany : (s.core c).wbuf.any (fun w => decide (w.bank = bank)) = true := by rw [← List.isSome_find?, h]; rfl
    have hfirst := s.le_at_now (s.now + 1)
    dsimp only
    split
    · exact ⟨_, rfl, fun hno => absurd (hno.symm.trans hany) (by decide), fun _ => hfirst.trans ((Nat.le_succ _).trans (State.le_at_now ..))⟩
    · exact ⟨_, rfl, fun hno => absurd (hno.symm.trans hany) (by decide), fun _ => hfirst⟩

/-! ### The begin of a tile store (R118) -/

/-- A core whose tile store has begun in ACLK `b`. -/
def CoreSt.storeBegun (x : CoreSt) (id : Nat) (cmd : Cmd) (hw : DmHw) (b : Nat) : CoreSt :=
  { x with store := some { id := id, cmd := cmd, hw := hw, at_ := b, since := b } }

/-- A legal DM_TSTORE behind no tile load begins in the present ACLK. -/
theorem dmTstore_begins {s : State} {c p : Nat} {q : QCmd} (hw : DmHw)
    (hready : s.ready c .dm (fun k => decide (Cmd.opcode k = 0x11)) = some (p, q, s.now)) (hlegal : tcIllegal q.cmd = false)
    (hload : (s.core c).loading = false) :
    ∃ t, exec (.dmTstore c hw) s = .next t ∧
      CoreBecomes s t c (((s.core c).dmBegun p s.now (s.dmFresh q)).storeBegun (s.core c).dmNext q.cmd hw s.now) := by
  refine ⟨(s.dmBegin c p s.now q id).1.modCore c (fun x => x.storeBegun (s.dmBegin c p s.now q id).2 q.cmd hw s.now), ?_, ?_⟩
  · show execDmTstore c hw s = _
    unfold execDmTstore State.dmBeginHead
    rw [s.beginHead_now _ hready]
    simp only [hload, hlegal, Bool.false_eq_true, if_false]
    rfl
  · rw [State.dmBegin_id]
    exact (s.dmBegin_becomes c p q id).modCore _

/-! ### DM_FENCE (R239) -/

/-- DM_FENCE stays in its queue while an earlier command is open. -/
theorem dmFence_waits {s : State} {c : Nat} (h : (s.core c).dmCmds ≠ []) : exec (.dmFence c) s = .next s := by
  show execDmFence c s = _
  unfold execDmFence
  simp [h]

/-- DM_FENCE begins when no earlier command is open: a reserved bit ends it, else its OK falls due in the next ACLK. -/
theorem dmFence_begins {s : State} {c p : Nat} {q : QCmd}
    (hready : s.ready c .dm (fun k => decide (Cmd.opcode k = 0x17)) = some (p, q, s.now)) (hcmds : (s.core c).dmCmds = []) :
    exec (.dmFence c) s = .next (if fenceBad q.cmd then ((s.begin_ c .dm p s.now).flag F.DM_EVT_ILLEGAL c).complete c .dm q 3 0
      else (s.begin_ c .dm p s.now).completeAt c .dm q 0 (s.now + 1)) := by
  show execDmFence c s = _
  unfold execDmFence
  rw [s.beginHead_now _ hready, hcmds]
  rfl

end Sys2Proof.Machine
end

section
/-! PROOFS. The rows of a tile store (R110, R118), and what completions of the data mover leave (R239). -/

namespace Sys2Proof.Machine

open Sys2Proof

/-! ### Completions -/

/-- What a completion keeps: everything but registers and per-core records, the other cores, and of its own core the tile registers and the
data mover's timeline. -/
structure CplFrame (s t : State) (c : Nat) : Prop where
  rest : Local s t
  others : ∀ d, d ≠ c → t.core d = s.core d
  trf : (t.core c).trf = (s.core c).trf
  dm : (t.core c).dm = (s.core c).dm

section
variable {s t u : State} {c : Nat}

theorem CplFrame.trans (h : CplFrame s t c) (g : CplFrame t u c) : CplFrame s u c where
  rest := h.rest.trans g.rest
  others d hd := (g.others d hd).trans (h.others d hd)
  trf := g.trf.trans h.trf
  dm := g.dm.trans h.dm

theorem CplFrame.refl (s : State) (c : Nat) : CplFrame s s c := ⟨.refl s, fun _ _ => rfl, rfl, rfl⟩

theorem CplFrame.wr (s : State) (c : Nat) (k : RKey) (v : Word) : CplFrame s (s.wr k v) c := ⟨.wr .., fun _ _ => rfl, rfl, rfl⟩
theorem CplFrame.set (s : State) (c : Nat) (f : Field) (i v j : Nat) : CplFrame s (s.set f i v j) c := .wr s c _ _
theorem CplFrame.flag (s : State) (c : Nat) (f : Field) (i j : Nat) : CplFrame s (s.flag f i j) c := ⟨.flag .., fun _ _ => rfl, rfl, rfl⟩
theorem CplFrame.flagBit (s : State) (c : Nat) (f : Field) (i n : Nat) : CplFrame s (s.flagBit f i n) c := ⟨.flagBit .., fun _ _ => rfl, rfl, rfl⟩

theorem CplFrame.modCore (s : State) (c : Nat) {g : CoreSt → CoreSt} (htrf : ∀ x, (g x).trf = x.trf) (hdm : ∀ x, (g x).dm = x.dm) :
    CplFrame s (s.modCore c g) c where
  rest := .modCore ..
  others d hd := State.modCore_other _ _ hd
  trf := by rw [State.modCore_same, htrf]
  dm := by rw [State.modCore_same, hdm]

theorem CplFrame.ccState (s : State) (c v : Nat) : CplFrame s (s.ccState c v) c := by
  have hcore : CplFrame s (s.modCore c (fun x => { x with wdLeft := s.wdNow c, wdAt := s.now })) c := .modCore _ _ (fun _ => rfl) (fun _ => rfl)
  unfold State.ccState
  exact hcore.trans (.set ..)

theorem CplFrame.raiseAbort (s : State) (c cause : Nat) : CplFrame s (s.raiseAbort c cause) c := by
  unfold State.raiseAbort
  split
  · exact .refl s c
  · have hset : CplFrame s ((s.set F.CC_TASK_STATUS_ABORTED c 1).set F.CC_TASK_STATUS_CAUSE c cause) c := (CplFrame.set ..).trans (.set ..)
    refine CplFrame.trans ?_ (.modCore _ _ (fun _ => rfl) (fun _ => rfl))
    split
    · exact hset
    · exact hset.trans (.ccState ..)

theorem CplFrame.suLog (s : State) (c reason ctr chan slot group value id : Nat) : CplFrame s (s.suLog c reason ctr chan slot group value id) c := by
  unfold State.suLog
  split
  · exact .refl s c
  · exact .wr ..

theorem CplFrame.ctrAdd (s : State) (c ctr n id : Nat) : CplFrame s (s.ctrAdd c ctr n id).1 c := by
  unfold State.ctrAdd
  extract_lets v t
  have h : CplFrame s t c := by
    show CplFrame s (if _ then _ else _) c
    split
    · exact ((CplFrame.set ..).trans (.flagBit ..)).trans (.flag ..)
    · exact .set ..
  split
  · exact h.trans (((CplFrame.suLog ..).trans (.flag ..)).trans (.raiseAbort ..))
  · exact h

theorem CplFrame.complete (s : State) (c : Nat) (e : Eng) (q : QCmd) (status iter : Nat) : CplFrame s (s.complete c e q status iter) c := by
  unfold State.complete
  extract_lets cmd s1 s2 r s3 s4 s5
  have h1 : CplFrame s s1 c := .modCore _ _ (fun _ => rfl) (fun _ => rfl)
  have h2 : CplFrame s1 s2 c := by
    show CplFrame s1 (if _ then _ else _) c
    split
    · exact .ctrAdd ..
    · exact .refl _ c
  have h3 : CplFrame s2 s3 c := by
    show CplFrame s2 (if _ then _ else _) c
    split
    · split
      · exact .modCore _ _ (fun _ => rfl) (fun _ => rfl)
      · exact .flag ..
    · exact .refl _ c
  have h13 := (h1.trans h2).trans h3
  split
  · exact h13
  · have h5 : CplFrame s4 s5 c := by
      show CplFrame s4 (if _ then _ else _) c
      split
      · exact .refl _ c
      · exact .wr ..
    have h := (h13.trans (.set ..)).trans h5
    split
    · exact h.trans (.raiseAbort ..)
    · exact h

theorem CplFrame.dmComplete (s : State) (c : Nat) (d : DmCmd) : CplFrame s (s.dmComplete c d) c := by
  unfold State.dmComplete
  extract_lets s1 s2 s3
  have h1 : CplFrame s s1 c := by
    show CplFrame s (s.dmEvt c d.status) c
    unfold State.dmEvt
    split
    · exact .flag ..
    · exact .flag ..
    · exact .flag ..
    · exact .flag ..
    · exact .refl s c
  have h2 : CplFrame s1 s2 c := by
    show CplFrame s1 (match d.stream with
      | some (w, _, _) => (s1.ctrAdd c (s1.get F.DM_STRM_CFG_CTR c w) 1).1
      | none => s1) c
    split
    · exact .ctrAdd ..
    · exact .refl _ c
  have h3 : CplFrame s2 s3 c := by
    show CplFrame s2 (if _ then _ else _) c
    split
    · exact .refl _ c
    · exact .raiseAbort ..
  exact ((h1.trans h2).trans h3).trans (.complete ..)

/-- The reports of the commands that are done (R239). -/
theorem CplFrame.dmReport (n : Nat) (s : State) (c : Nat) : CplFrame s (s.dmReport c n) c := by
  induction n generalizing s with
  | zero => exact .refl s c
  | succ n ih =>
    unfold State.dmReport
    split
    · exact .refl s c
    · next d rest _ =>
      split
      · have hdrop : CplFrame s (s.modCore c (fun x => { x with dmCmds := rest })) c := .modCore _ _ (fun _ => rfl) (fun _ => rfl)
        refine hdrop.trans (CplFrame.trans ?_ (ih _))
        split
        · exact .modCore _ _ (fun _ => rfl) (fun _ => rfl)
        · exact .dmComplete ..
      · exact .refl s c

theorem CplFrame.dmSettle (s : State) (c : Nat) : CplFrame s (s.dmSettle c) c := .dmReport ..

/-- A store that ends well leaves memory and the tile registers. -/
theorem State.storeEnd_ok (s : State) (c : Nat) (k : StoreFly) (t : Nat) :
    (s.storeEnd c k 0 t).mem = s.mem ∧ ((s.storeEnd c k 0 t).core c).trf = (s.core c).trf := by
  have hend := (((CoreBecomes.refl s c).modCore (fun x => { x with store := none })).setEntry .dm t).modDm k.id (fun d => { d with issuing := false })
  have hsettle := CplFrame.dmSettle (((s.modCore c (fun x => { x with store := none })).setEntry c .dm t).modDm c k.id (fun d => { d with issuing := false })) c
  unfold State.storeEnd
  dsimp only
  rw [if_pos rfl]
  exact ⟨hsettle.rest.mem.trans hend.mem, hsettle.trf.trans (by rw [hend.core]; rfl)⟩
end

/-! ### The row of a store whose ACLK has come (R102, R110, R118) -/

/-- The row of the tile store is due, its checks find nothing, and banks serve its read and its write. -/
structure StoreServed (s : State) (c t : Nat) (used : List Nat) (k : StoreFly) : Prop where
  store : (s.core c).store = some k
  due : k.at_ ≤ t
  going : (s.core c).stopped = false
  inj : s.inj = []
  hw : k.hw = .ok
  addr : k.r = 0 → s.tcBad c k.cmd k.n = false
  tile : k.r = 0 → (s.tileCheck c (tcTile k.cmd k.n) (Cmd.deckle k.cmd) 0 (t - s.coreBase c)).bad = false
  free : used.contains ((k.r + tcTile k.cmd k.n) % 16) = false
  serves : s.windowServes c .dm k.since [((tcRow k.cmd k.n k.r).toNat, dkRbytes (Cmd.deckle k.cmd))] = true

/-- The store behind the row it has written in ACLK `t`. -/
def StoreFly.next (k : StoreFly) (t : Nat) : StoreFly :=
  if k.r + 1 = dkRows (Cmd.deckle k.cmd) then { k with r := 0, n := k.n + 1, at_ := t + 1, since := t + 1 }
  else { k with r := k.r + 1, at_ := t + 1, since := t + 1 }

/-- A core whose tile store goes on as `k`. -/
def CoreSt.storing (x : CoreSt) (k : StoreFly) : CoreSt := { x with store := some k }

@[simp] theorem CoreSt.storing_store (x : CoreSt) (k : StoreFly) : (x.storing k).store = some k := rfl
@[simp] theorem CoreSt.storing_trf (x : CoreSt) (k : StoreFly) : (x.storing k).trf = x.trf := rfl

/-- The bytes of the row that the store writes, as a reader with its deckle sees them. -/
def CoreSt.storeRow (x : CoreSt) (k : StoreFly) : List Byte :=
  x.dkRow (tcTile k.cmd k.n) (Cmd.deckle k.cmd) 0 k.r 0 (dkRbytes (Cmd.deckle k.cmd))

/-- The state in which the row has been written. -/
def State.storeWritten (s : State) (c : Nat) (k : StoreFly) : State :=
  (s.windowTake c .dm k.since [((tcRow k.cmd k.n k.r).toNat, dkRbytes (Cmd.deckle k.cmd))]).writeWin c (tcRow k.cmd k.n k.r).toNat
    ((s.core c).storeRow k)

theorem State.storeHw_ok {s : State} {k : StoreFly} (hinj : s.inj = []) (hhw : k.hw = .ok) (c : Nat) (buffered : Bool) :
    s.storeHw c k buffered = (s, false) := by
  have hok : (if k.r = 0 then dmHwAt k.hw k.n else .ok) = MemHw.ok := by rw [hhw]; exact ite_self _
  unfold State.storeHw
  simp only [State.injAt_nil hinj, hok, ite_self, injHw]

theorem State.storeTick_served {s : State} {c t : Nat} {used : List Nat} {k : StoreFly} (h : StoreServed s c t used k) :
    s.storeTick c t used = if (k.next t).n = Cmd.iters k.cmd then (s.storeWritten c k).storeEnd c k 0 t
      else (s.storeWritten c k).modCore c (fun x => x.storing (k.next t)) := by
  have hdue : (decide (t < k.at_) || ((s.core c).stopped && decide (k.r = 0))) = false := by
    rw [h.going, Bool.false_and, Bool.or_false, decide_eq_false_iff_not]
    exact Nat.not_lt.mpr h.due
  have haddr : ¬ (k.r = 0 ∧ s.tcBad c k.cmd k.n = true) := fun ⟨h0, hb⟩ => by rw [h.addr h0] at hb; cases hb
  have htile : ¬ (k.r = 0 ∧ (s.tileCheck c (tcTile k.cmd k.n) (Cmd.deckle k.cmd) 0 (t - s.coreBase c)).bad = true) := fun ⟨h0, hb⟩ => by
    rw [h.tile h0] at hb; cases hb
  have hinj := (s.windowTake_taken c .dm k.since [((tcRow k.cmd k.n k.r).toNat, dkRbytes (Cmd.deckle k.cmd))]).inj.trans h.inj
  unfold State.storeTick
  simp only [h.store, hdue, haddr, htile, h.free, h.serves, Bool.and_false, Bool.not_true, Bool.false_eq_true, if_false, State.storeHw_ok hinj h.hw,
    State.dmRead_ok hinj, Bool.or_self]
  rfl

theorem CoreSt.storeRow_length (x : CoreSt) (k : StoreFly) : (x.storeRow k).length = dkRbytes (Cmd.deckle k.cmd) := by
  simp [CoreSt.storeRow, CoreSt.dkRow]

theorem CoreSt.storeRow_getD (x : CoreSt) (k : StoreFly) {j : Nat} (hj : j < dkRbytes (Cmd.deckle k.cmd)) :
    (x.storeRow k).getD j 0 = x.dkByte (tcTile k.cmd k.n) (Cmd.deckle k.cmd) 0 k.r j := by
  simp [CoreSt.storeRow, CoreSt.dkRow, List.getD_eq_getElem?_getD, hj]

/-- The write of a row changes the row's bytes and no other. -/
theorem State.storeWritten_mem (s : State) (c : Nat) (k : StoreFly) :
    (s.storeWritten c k).mem = putBytes s.mem (winBase c + (tcRow k.cmd k.n k.r).toNat) ((s.core c).storeRow k) := by
  unfold State.storeWritten State.writeWin
  rw [State.writeMem_mem, (s.windowTake_taken ..).mem]

theorem State.storeWritten_trf (s : State) (c : Nat) (k : StoreFly) : ((s.storeWritten c k).core c).trf = (s.core c).trf := by
  unfold State.storeWritten State.writeWin
  rw [State.writeMem_core, (s.windowTake_taken ..).trf]

/-- The store's ACLK leaves the row in memory and the tile registers as they were. -/
theorem State.storeTick_leaves {s : State} {c t : Nat} {used : List Nat} {k : StoreFly} (h : StoreServed s c t used k) :
    (s.storeTick c t used).mem = putBytes s.mem (winBase c + (tcRow k.cmd k.n k.r).toNat) ((s.core c).storeRow k) ∧
      ((s.storeTick c t used).core c).trf = (s.core c).trf := by
  have hmem := s.storeWritten_mem c k
  have htrf := s.storeWritten_trf c k
  rw [State.storeTick_served h]
  split
  · obtain ⟨hm, ht⟩ := State.storeEnd_ok (s.storeWritten c k) c k t
    exact ⟨hm.trans hmem, ht.trans htrf⟩
  · rw [State.modCore_mem, State.modCore_same, CoreSt.storing_trf]
    exact ⟨hmem, htrf⟩

/-- Behind a row that is not the last of its tile the store goes on with the next row. -/
theorem State.storeTick_next {s : State} {c t : Nat} {used : List Nat} {k : StoreFly} (h : StoreServed s c t used k) (hn : k.n < Cmd.iters k.cmd)
    (hr : k.r + 1 < dkRows (Cmd.deckle k.cmd)) :
    ((s.storeTick c t used).core c).store = some { k with r := k.r + 1, at_ := t + 1, since := t + 1 } := by
  have hnext : k.next t = { k with r := k.r + 1, at_ := t + 1, since := t + 1 } := if_neg (Nat.ne_of_lt hr)
  rw [State.storeTick_served h, hnext, if_neg (Nat.ne_of_lt hn), State.modCore_same, CoreSt.storing_store]

end Sys2Proof.Machine
end

section
/-! PROOFS. The turn of a block between equal formats (R200). -/

namespace Sys2Proof.Machine

open Sys2Proof

/-! ### Elements of byte strings -/

theorem getBytes_add (m : List (Nat × Byte)) (a n k : Nat) : getBytes m a (n + k) = getBytes m a n ++ getBytes m (a + n) k := by
  simp [getBytes_eq_map, List.range_add, Nat.add_assoc]

/-- The elements of a range of memory. -/
theorem elems_getBytes (e : Nat) (m : List (Nat × Byte)) (a n : Nat) :
    elems e (getBytes m a (n * e)) n = (List.range n).map (fun i => leNat (getBytes m (a + i * e) e)) := by
  induction n generalizing a with
  | zero => rfl
  | succ n ih =>
    have hsplit : getBytes m a ((n + 1) * e) = getBytes m a e ++ getBytes m (a + e) (n * e) := by
      rw [← getBytes_add, Nat.add_mul, Nat.one_mul, Nat.add_comm]
    have hstep (i : Nat) : a + e + i * e = a + (i + 1) * e := by rw [Nat.add_mul, Nat.one_mul]; omega
    rw [elems, hsplit, List.take_left' (getBytes_length ..), List.drop_left' (getBytes_length ..), ih, List.range_succ_eq_map, List.map_cons, List.map_map]
    simp only [Function.comp_def, hstep, Nat.zero_mul, Nat.add_zero, Nat.succ_eq_add_one]

/-- The elements of numbers written one after the other. -/
theorem elems_leBytes (e : Nat) (vs : List Nat) : elems e (vs.flatMap (leBytes e)) vs.length = vs.map (fun v => v % 2 ^ (8 * e)) := by
  induction vs with
  | nil => rfl
  | cons v vs ih =>
    rw [List.flatMap_cons, List.length_cons, elems, List.take_left' (leBytes_length ..), List.drop_left' (leBytes_length ..), ih, leNat_leBytes,
      List.map_cons]

theorem flatMap_leBytes_length (e : Nat) (vs : List Nat) : (vs.flatMap (leBytes e)).length = vs.length * e := by
  simp [List.length_flatMap, leBytes_length]

/-- A number of `n` bytes is below 2^(8n). -/
theorem leNat_lt (bs : List Byte) : leNat bs < 2 ^ (8 * bs.length) := by
  induction bs with
  | nil => exact Nat.one_pos
  | cons b bs ih =>
    have hp : 2 ^ (8 * (bs.length + 1)) = 256 * 2 ^ (8 * bs.length) := by rw [Nat.mul_add, Nat.pow_add, Nat.mul_comm]
    have hb : b.toNat < 256 := b.isLt
    rw [leNat, List.length_cons, hp]
    omega

theorem State.winNat_lt (s : State) (c off n : Nat) : s.winNat c off n < 2 ^ (8 * n) := by
  have h := leNat_lt (s.readWin c off n)
  rwa [State.readWin, State.readMem, getBytes_length] at h

/-! ### Rows written one after the other -/

/-- Row `r` of `n` rows is written at offset `off r` of the core's window, in order. -/
def State.writeRows (s : State) (c : Nat) (off : Nat → Nat) (row : Nat → List Byte) (n : Nat) : State :=
  (List.range n).foldl (fun s r => s.writeWin c (off r) (row r)) s

section
variable (s : State) (c : Nat) (off : Nat → Nat) (row : Nat → List Byte)

theorem State.writeRows_succ (n : Nat) : s.writeRows c off row (n + 1) = (s.writeRows c off row n).writeWin c (off n) (row n) := by
  simp [State.writeRows, List.range_succ]

theorem State.writeRows_regs_cores (n : Nat) :
    (∀ k, sideReg k.reg = false → (s.writeRows c off row n).rd k = s.rd k) ∧ (s.writeRows c off row n).cores = s.cores := by
  induction n with
  | zero => exact ⟨fun _ _ => rfl, rfl⟩
  | succ n ih =>
    obtain ⟨hregs, hcores⟩ := ih
    obtain ⟨hregs', hcores'⟩ := (s.writeRows c off row n).writeMem_regs_cores (winBase c + off n) (row n)
    rw [State.writeRows_succ]
    exact ⟨fun k hk => (hregs' k hk).trans (hregs k hk), hcores'.trans hcores⟩

/-- Bytes outside the rows stay. -/
theorem State.writeRows_other (n : Nat) {a : Nat} (h : ∀ r < n, a < winBase c + off r ∨ winBase c + off r + (row r).length ≤ a) :
    (s.writeRows c off row n).readByte a = s.readByte a := by
  induction n with
  | zero => rfl
  | succ n ih =>
    rw [State.writeRows_succ]
    exact (State.readByte_writeMem_other _ _ _ _ (h n (Nat.lt_succ_self n))).trans (ih fun r hr => h r (by omega))

/-- A row that ends before the later ones begin reads back its bytes. -/
theorem State.writeRows_same {n r : Nat} (hr : r < n) (h : ∀ r', r < r' → r' < n → off r + (row r).length ≤ off r') :
    (s.writeRows c off row n).readWin c (off r) (row r).length = row r := by
  induction n with
  | zero => omega
  | succ n ih =>
    rw [State.writeRows_succ]
    rcases Nat.lt_succ_iff_lt_or_eq.mp hr with hlt | rfl
    · refine Eq.trans ?_ (ih hlt fun r' h1 h2 => h r' h1 (by omega))
      have hoff := h n hlt (Nat.lt_succ_self n)
      exact getBytes_congr fun j _ hj => State.readByte_writeMem_other _ _ _ _ (.inl (by omega))
    · exact State.readMem_writeMem_same ..
end

/-! ### One block (R200) -/

/-- Row `r` of a destination block between equal formats: element `r` of every source row. -/
def State.turnRow (s : State) (c : Nat) (cmd : Cmd) (n r : Nat) : List Byte :=
  ((List.range (tnB cmd)).map (fun col => s.winNat c ((tnSrc cmd n col).toNat + r * (tnFmtD cmd).bytes) (tnFmtD cmd).bytes)).flatMap
    (leBytes (tnFmtD cmd).bytes)

theorem State.turnRow_length (s : State) (c : Nat) (cmd : Cmd) (n r : Nat) : (s.turnRow c cmd n r).length = tnB cmd * (tnFmtD cmd).bytes := by
  rw [State.turnRow, flatMap_leBytes_length, List.length_map, List.length_range]

/-- A row of a block has 64 bytes at most. -/
theorem State.turnRow_length_le (s : State) (c : Nat) (cmd : Cmd) (n r : Nat) : (s.turnRow c cmd n r).length ≤ 64 := by
  rw [State.turnRow_length]
  exact Nat.div_mul_le_self ..

/-- An element of a source row, as the rows are read before any is written. -/
theorem State.turnElem (s : State) (c : Nat) (cmd : Cmd) (n : Nat) (e : Nat) {r col : Nat} (hr : r < tnB cmd) (hcol : col < tnB cmd) :
    (((List.range (tnB cmd)).map (fun r => elems e (s.readWin c (tnSrc cmd n r).toNat (tnB cmd * e)) (tnB cmd))).getD col []).getD r 0 =
      s.winNat c ((tnSrc cmd n col).toNat + r * e) e := by
  simp [State.readWin, State.readMem, elems_getBytes, List.getD_eq_getElem?_getD, hr, hcol, State.winNat, Nat.add_assoc]

/-- A block between equal formats is turned row by row, without a flag. -/
theorem State.turnIter_plain (s : State) (c : Nat) {cmd : Cmd} (n : Nat) (h : tnFmtS cmd = tnFmtD cmd) :
    s.turnIter c cmd n = s.writeRows c (fun r => (tnDst cmd n r).toNat) (s.turnRow c cmd n) (tnB cmd) := by
  have hflags : s.dmFlags c {} = s := rfl
  unfold State.turnIter State.writeRows
  simp only [h, if_true, hflags]
  refine List.foldl_ext _ _ _ fun u r hr => ?_
  congr 1
  unfold State.turnRow
  rw [List.flatMap_map]
  refine List.flatMap_congr fun col hcol => ?_
  rw [State.turnElem s c cmd n _ (List.mem_range.mp hr) (List.mem_range.mp hcol)]

/-- Destination rows of a block whose stride is not 0 lie apart, in order. -/
theorem tnDst_apart {cmd : Cmd} {r r' : Nat} (hstride : 0 < Cmd.f cmd 26 15 0) (h0 : 0 ≤ tnDst cmd 0 r) (hr : r < r') :
    (tnDst cmd 0 r).toNat + 64 ≤ (tnDst cmd 0 r').toNat := by
  have hmul : r * Cmd.f cmd 26 15 0 + 1 ≤ r' * Cmd.f cmd 26 15 0 := by
    have := Nat.mul_le_mul_right (Cmd.f cmd 26 15 0) hr
    rw [Nat.succ_mul] at this
    omega
  unfold tnDst at *
  omega

/-- A block whose address check finds nothing has no row before the window. -/
theorem State.tnDst_nonneg {s : State} {c n r : Nat} {cmd : Cmd} (h : s.tnBad c cmd n = false) (hr : r < tnB cmd) : 0 ≤ tnDst cmd n r := by
  simp only [State.tnBad, Bool.or_eq_false_iff, List.any_eq_false, List.mem_range] at h
  obtain ⟨_, hrows⟩ := h
  have hrow := hrows r hr
  simp only [State.spdRange, Bool.or_eq_true, Bool.not_eq_true', not_or, Bool.not_eq_false, Bool.and_eq_true, decide_eq_true_eq] at hrow
  obtain ⟨_, ⟨h0, _⟩, _⟩ := hrow
  exact h0

/-- Element `k` of destination row `r` is what element `r` of source row `k` was (R200). -/
theorem State.writeRows_turned (s : State) {c : Nat} {cmd : Cmd} (hstride : 0 < Cmd.f cmd 26 15 0) (hpos : ∀ r < tnB cmd, 0 ≤ tnDst cmd 0 r)
    {r k : Nat} (hr : r < tnB cmd) (hk : k < tnB cmd) :
    (s.writeRows c (fun r => (tnDst cmd 0 r).toNat) (s.turnRow c cmd 0) (tnB cmd)).winNat c ((tnDst cmd 0 r).toNat + k * (tnFmtD cmd).bytes)
      (tnFmtD cmd).bytes = s.winNat c ((tnSrc cmd 0 k).toNat + r * (tnFmtD cmd).bytes) (tnFmtD cmd).bytes := by
  have hsame := s.writeRows_same c (fun r => (tnDst cmd 0 r).toNat) (s.turnRow c cmd 0) hr fun r' h1 _ =>
    (Nat.add_le_add_left (s.turnRow_length_le c cmd 0 r) _).trans (tnDst_apart hstride (hpos r hr) h1)
  generalize s.writeRows c (fun r => (tnDst cmd 0 r).toNat) (s.turnRow c cmd 0) (tnB cmd) = u at hsame ⊢
  rw [State.turnRow_length] at hsame
  have hread := elems_getBytes (tnFmtD cmd).bytes u.mem (winBase c + (tnDst cmd 0 r).toNat) (tnB cmd)
  have hwrote := elems_leBytes (tnFmtD cmd).bytes
    ((List.range (tnB cmd)).map (fun col => s.winNat c ((tnSrc cmd 0 col).toNat + r * (tnFmtD cmd).bytes) (tnFmtD cmd).bytes))
  rw [List.length_map, List.length_range] at hwrote
  have hget := congrArg (fun l => l.getD k 0) (hread.symm.trans ((congrArg (fun l => elems _ l _) hsame).trans hwrote))
  simp only [List.getD_eq_getElem?_getD, List.getElem?_map, List.getElem?_range hk, Option.map_some, Option.getD_some] at hget
  rw [Nat.mod_eq_of_lt (State.winNat_lt ..)] at hget
  rw [← hget, State.winNat, State.readWin, State.readMem, Nat.add_assoc]

/-! ### A command that is done as it begins (R239) -/

/-- A completion with OK and without DONE_EN writes CC_IRQ at most. -/
theorem State.complete_ok_regs (s : State) (c : Nat) (e : Eng) {q : QCmd} (iter : Nat) (hdone : Cmd.doneEn q.cmd = false) :
    RegFrame [.CC_IRQ] s (s.complete c e q 0 iter) := by
  unfold State.complete
  simp only [hdone, Bool.false_eq_true, if_false, if_true]
  refine RegFrame.trans (t := s.cellBack c e q (s.now + 1)) (.modCore ..) ?_
  split
  · split
    · exact .modCore ..
    · exact .flag _ _ _ _ List.mem_cons_self
  · exact .refl _

/-- A command of the data mover without failure, stream and abort. -/
structure DmCmd.Plain (d : DmCmd) : Prop where
  status : d.status = 0
  stream : d.stream = none
  cause : d.cause = 0
  closed : d.open_ = 0

theorem State.dmComplete_plain (s : State) (c : Nat) {d : DmCmd} (h : d.Plain) : s.dmComplete c d = s.complete c .dm d.q 0 d.iter := by
  unfold State.dmComplete
  simp only [h.status, h.stream, h.cause, if_true]
  rfl

/-- A core that runs has no abort. -/
theorem State.abort_of_running {s : State} {c : Nat} (h : s.running c = true) : (s.core c).abort = none := by
  simp only [State.running, Bool.and_eq_true, Option.isNone_iff_eq_none] at h
  obtain ⟨⟨_, habort⟩, _⟩ := h
  exact habort

/-- The only begun command, plain and with nothing left to issue, completes with OK. -/
theorem State.dmSettle_plain {s : State} {c : Nat} {d : DmCmd} (hcmds : (s.core c).dmCmds = [d]) (hd : d.Plain) (hissued : d.issuing = false)
    (habort : (s.core c).abort = none) :
    s.dmSettle c = (s.modCore c (fun x => { x with dmCmds := [] })).complete c .dm d.q 0 d.iter := by
  have hlast : d.done = true := by simp [DmCmd.done, hissued, hd.closed]
  unfold State.dmSettle
  rw [hcmds, List.length_singleton, State.dmReport, hcmds]
  simp only [hlast, if_true, State.modCore_same, habort, Option.isSome_none, Bool.false_eq_true, if_false, State.dmReport, State.dmComplete_plain _ _ hd]

/-- The only begun command, plain and with nothing left to issue, ends with entry `n` of the data mover's timeline. -/
theorem State.dmEnds_plain {s : State} {c : Nat} {d : DmCmd} {id : Nat} (n : Nat) (hid : d.id = id) (hcmds : (s.core c).dmCmds = [d])
    (habort : (s.core c).abort = none) (hd : d.Plain) (hdone : Cmd.doneEn d.q.cmd = false) :
    let t := ((s.setEntry c .dm n).modDm c id (fun d => { d with issuing := false })).dmSettle c
    t.mem = s.mem ∧ (∀ k, k.reg ≠ .CC_IRQ → sideReg k.reg = false → t.rd k = s.rd k) ∧ (t.core c).trf = (s.core c).trf ∧
      (t.core c).dm.lastEntry = n ∧ ∀ e, e ≠ c → t.core e = s.core e := by
  subst hid
  have hz := ((CoreBecomes.refl s c).setEntry .dm n).modDm d.id (fun d => { d with issuing := false })
  generalize (s.setEntry c .dm n).modDm c d.id (fun d => { d with issuing := false }) = z at hz
  have hclosed : (z.core c).dmCmds = [{ d with issuing := false }] := by
    rw [hz.core]
    exact CoreSt.modDm_single hcmds _
  have hrun : (z.core c).abort = none := by rw [hz.core]; exact habort
  have hregs : RegFrame [.CC_IRQ] z (z.dmSettle c) := by
    rw [State.dmSettle_plain hclosed ⟨hd.status, hd.stream, hd.cause, hd.closed⟩ rfl hrun]
    exact (RegFrame.modCore ..).trans (State.complete_ok_regs _ _ _ _ hdone)
  have hframe := CplFrame.dmSettle z c
  refine ⟨hframe.rest.mem.trans hz.mem, fun k hk hs => (hregs.regs k (by simpa using hk) hs).trans (hz.rd k), ?_, ?_, fun e he =>
    (hframe.others e he).trans (hz.others e he)⟩
  · rw [hframe.trf, hz.core]; rfl
  · rw [hframe.dm, hz.core]; rfl

/-! ### DM_TURN with one block -/

/-- A block whose check and reads find nothing. -/
theorem State.turnIters_one {s : State} {c : Nat} {cmd : Cmd} (hbad : s.tnBad c cmd 0 = false) (hinj : s.inj = []) :
    s.turnIters c cmd .ok 1 0 = ((s.turnIter c cmd 0).pmon .VE c 0x43 0 1, none) := by
  have hhw : dmHwAt .ok 0 = .ok := rfl
  simp only [State.turnIters, hbad, Bool.false_eq_true, if_false, hhw, State.dmRead_ok hinj]

/-- DM_TURN that can begin in the present ACLK and whose rows the banks serve turns its one block and completes. -/
theorem dmTurn_begins {s : State} {c p : Nat} {q : QCmd} (hready : s.ready c .dm (fun k => decide (Cmd.opcode k = 0x12)) = some (p, q, s.now))
    (hlegal : tnIllegal q.cmd = false) (hiters : Cmd.iters q.cmd = 1) (hinj : s.inj = []) (hbad : s.tnBad c q.cmd 0 = false)
    (hserved : s.tnServed c q.cmd = true) :
    ∃ w, BanksTaken (s.dmBegin c p s.now q id).1 w c ∧ exec (.dmTurn c .ok) s =
      .next (((((w.turnIter c q.cmd 0).pmon .VE c 0x43 0 1).setEntry c .dm (s.now + (tnB q.cmd - 1))).modDm c (s.core c).dmNext
        (fun d => { d with issuing := false })).dmSettle c) := by
  have hbegun := s.dmBegin_becomes c p q id
  have hready' : s.ready c .dm (fun k => decide (Cmd.opcode k = 0x12) && (tnIllegal k || s.tnServed c k)) = some (p, q, s.now) :=
    State.ready_of_ok hready (by simp [State.ready_opcode hready, hserved])
  have htaken := (s.dmBegin c p s.now q id).1.windowTake_taken c .dm ((s.dmBegin c p s.now q id).1.core c).dmSince (tnWindow q.cmd)
  have hturn := State.turnIters_one ((htaken.tnBad q.cmd 0).trans ((hbegun.tnBad ..).trans hbad)) (htaken.inj.trans (hbegun.inj.trans hinj))
  refine ⟨_, htaken, ?_⟩
  show execDmTurn c .ok s = _
  unfold execDmTurn
  rw [s.beginHead_now _ hready']
  simp only [hlegal, Bool.false_eq_true, if_false, hiters, State.dmBegin_id, hturn, Nat.one_mul]

/-- What the turn of one block between equal formats leaves (R200). -/
theorem dmTurn_leaves {s : State} {c p : Nat} {q : QCmd} (hready : s.ready c .dm (fun k => decide (Cmd.opcode k = 0x12)) = some (p, q, s.now))
    (hlegal : tnIllegal q.cmd = false) (hiters : Cmd.iters q.cmd = 1) (hcmds : (s.core c).dmCmds = []) (hinj : s.inj = [])
    (hbad : s.tnBad c q.cmd 0 = false) (hserved : s.tnServed c q.cmd = true) (hfmt : tnFmtS q.cmd = tnFmtD q.cmd) (hdone : Cmd.doneEn q.cmd = false) :
    ∃ t w : State, exec (.dmTurn c .ok) s = .next t ∧ w.mem = s.mem ∧
      t.mem = (w.writeRows c (fun r => (tnDst q.cmd 0 r).toNat) (w.turnRow c q.cmd 0) (tnB q.cmd)).mem ∧
      (∀ k, sideReg k.reg = false → k.reg ∉ [Reg.CC_IRQ, .SPD_EVT] → t.rd k = s.rd k) ∧ (t.core c).trf = (s.core c).trf ∧
      (t.core c).dm.lastEntry = s.now + (tnB q.cmd - 1) ∧ ∀ d, d ≠ c → t.core d = s.core d := by
  have hbegun := s.dmBegin_becomes c p q id
  obtain ⟨w, htaken, hexec⟩ := dmTurn_begins hready hlegal hiters hinj hbad hserved
  obtain ⟨hrun, _, _, _⟩ := s.ready_some c .dm _ p s.now q hready
  have habort := State.abort_of_running hrun
  obtain ⟨hregs, hcores⟩ := w.writeRows_regs_cores c (fun r => (tnDst q.cmd 0 r).toNat) (w.turnRow c q.cmd 0) (tnB q.cmd)
  rw [State.turnIter_plain w c 0 hfmt] at hexec
  generalize hv : w.writeRows c (fun r => (tnDst q.cmd 0 r).toNat) (w.turnRow c q.cmd 0) (tnB q.cmd) = v at hregs hcores hexec
  have hquiet := v.pmon_quiet .VE c 0x43 0 1
  have hlocal := v.pmon_local .VE c 0x43 0 1
  generalize v.pmon .VE c 0x43 0 1 = x at hquiet hlocal hexec
  have hcore (d : Nat) : x.core d = w.core d := (hquiet.core d).trans (by unfold State.core; rw [hcores])
  let d : DmCmd := { s.dmFresh q with id := (s.core c).dmNext }
  have hone : (x.core c).dmCmds = [d] := by
    rw [hcore, htaken.dmCmds, hbegun.core, CoreSt.dmBegun_dmCmds, hcmds]
    rfl
  have hgoes : (x.core c).abort = none := by rw [hcore, htaken.abort, hbegun.core, CoreSt.dmBegun_abort, habort]
  obtain ⟨hmem, hrd, htrf, hlast, hothers⟩ :=
    State.dmEnds_plain (s.now + (tnB q.cmd - 1)) (id := (s.core c).dmNext) rfl hone hgoes ⟨rfl, rfl, rfl, rfl⟩ hdone
  refine ⟨_, w, hexec, htaken.mem.trans hbegun.mem, hv ▸ hmem.trans hlocal.mem, fun k hk hl => ?_, ?_, hlast, fun e he => ?_⟩
  · simp only [List.mem_cons, List.not_mem_nil, or_false, not_or] at hl
    obtain ⟨hirq, hspd⟩ := hl
    rw [hrd k hirq hk, hquiet.regs k hk, hregs k hk, htaken.regs k hspd hk, hbegun.rd]
  · rw [htrf, hcore, htaken.trf, hbegun.core, CoreSt.dmBegun_trf]
  · rw [hothers e he, hcore, htaken.others e he, hbegun.others e he]

end Sys2Proof.Machine
end

section
/-! PROOFS. Tile loads and stores, DM_TURN and DM_FENCE, put together (R103, R116, R118, R119, R200, R239). -/

namespace Sys2Proof.Machine

open Sys2Proof

/-- A number in a window depends on memory alone. -/
theorem State.winNat_congr {s t : State} (h : t.mem = s.mem) (c off n : Nat) : t.winNat c off n = s.winNat c off n := by
  unfold State.winNat State.readWin State.readMem
  rw [h]

/-- Settles O13: the gather of a load (`dmTload_gathers`), the begin of its write phase (`tloadWritePhase_begins`), its rows
(`CoreSt.loadRow_same`, `CoreSt.loadRow_other`) and drains (`CoreSt.drains_tileByte`, `writeBufferDrain_passes`), the begin and the rows of a store
(`dmTstore_begins`, `State.storeTick_leaves`), the turn of a block (`dmTurn_leaves`, `State.writeRows_turned`) and the fence
(`dmFence_begins`, `dmFence_waits`). -/
theorem tileLoadAndStore : Obligations.TileLoadAndStore := by
  unfold Obligations.TileLoadAndStore
  refine ⟨?_, ?_, ?_, ?_, ?_, ?_, ?_, ?_, ?_⟩
  · intro s c p q hready hlegal hiters hcmds hstaged hphase hinj hbad hserves
    obtain ⟨t, hexec, hmem, hst, htrf, hothers⟩ := dmTload_gathers hready hlegal hiters hcmds hstaged hphase hinj hbad hserves
    exact ⟨t, _, hexec, hmem, hst, rfl, rfl, decide_eq_true hiters.symm, by simp [State.gathered, State.loadBegun, State.dmFresh], rfl, htrf, hothers⟩
  · intro s c st more hrun hstaged hphase hready hend hlock hslip _
    obtain ⟨hcore, htagged, htag, hstamp, hothertags, hmem, hothers⟩ := s.phaseBegun_leaves c st (s.now - s.coreBase c + st.rows.length)
    refine ⟨_, tloadWritePhase_begins hrun hstaged hphase hready hend hlock hslip, ?_, ?_, ?_, ?_, htagged, htag, hstamp, hothertags, hmem, hothers⟩
    · rw [hcore]; rfl
    · rw [hcore]; exact congrArg (List.drop 1) hstaged
    · rw [hcore]; rfl
    · rw [hcore]; rfl
  · intro x tile row t bytes hlen hrow hwf
    exact ⟨fun j hj => x.loadRow_same tile row t hlen hwf hj, fun u r j h hr hj => x.loadRow_other t hlen hrow h hr hj⟩
  · intro x t used hwf u r j hr hj
    exact x.drains_tileByte t used hwf hr hj
  · intro s c bank
    obtain ⟨t, hexec, hidle, hpass⟩ := writeBufferDrain_passes s c bank
    refine ⟨t, hexec, ?_, hidle, hpass⟩
    cases h : (s.core c).wbuf.any (fun w => decide (w.bank = bank)) with
    | true => exact (Nat.le_succ _).trans (hpass h)
    | false => rw [hidle h]
  · intro s c p q hready hlegal hload
    obtain ⟨t, hexec, ht⟩ := dmTstore_begins .ok hready hlegal hload
    refine ⟨t, { s.dmFresh q with id := (s.core c).dmNext }, ⟨(s.core c).dmNext, q.cmd, .ok, 0, 0, s.now, s.now⟩, hexec, ht.rest, ?_, rfl, ?_, rfl, rfl,
      rfl, rfl, rfl, ?_, ht.others⟩
    · rw [ht.core]; rfl
    · rw [ht.core]; rfl
    · rw [ht.core]; rfl
  · intro s c t used k hstore hdue hgoing hinj hhw hn hchecks hfree _ _ hserves _
    have hserved : StoreServed s c t used k :=
      ⟨hstore, hdue, hgoing, hinj, hhw, fun h0 => (hchecks h0).1, fun h0 => (hchecks h0).2, hfree, hserves⟩
    obtain ⟨hmem, htrf⟩ := State.storeTick_leaves hserved
    have hlen := (s.core c).storeRow_length k
    refine ⟨fun j hj => ?_, fun a _ ha => ?_, htrf, State.storeTick_next hserved hn⟩
    · rw [State.readByte, hmem, getByte_putBytes_at _ _ _ (hlen ▸ hj), CoreSt.storeRow_getD _ _ hj]
    · rw [State.readByte, hmem, getByte_putBytes_other _ _ _ _ (by rw [hlen]; exact ha), State.readByte]
  · intro s c p q hready hlegal hiters hcmds hinj hbad hserved hfmt hstride hdone
    obtain ⟨t, w, hexec, hwmem, hmem, hregs, htrf, hlast, hothers⟩ := dmTurn_leaves hready hlegal hiters hcmds hinj hbad hserved hfmt hdone
    refine ⟨t, hexec, fun r k hr hk => ?_, fun a ha => ?_, hregs, htrf, hlast, hothers⟩
    · rw [State.winNat_congr hmem, State.writeRows_turned w hstride (fun _ h => State.tnDst_nonneg hbad h) hr hk, State.winNat_congr hwmem]
    · have houtside := w.writeRows_other c (fun r => (tnDst q.cmd 0 r).toNat) (w.turnRow c q.cmd 0) (tnB q.cmd) (a := a) fun r hr =>
        (ha r hr).imp_right (Nat.le_trans (Nat.add_le_add_left (w.turnRow_length_le c q.cmd 0 r) _))
      rw [State.readByte, hmem, ← State.readByte, houtside, State.readByte, hwmem, State.readByte]
  · intro s c p q hready
    refine ⟨fun hcmds hbad => ?_, fun hcmds hbad => ?_, dmFence_waits⟩
    · rw [dmFence_begins hready hcmds, hbad]; rfl
    · rw [dmFence_begins hready hcmds, hbad]; rfl

end Sys2Proof.Machine
end

section
/-! PROOFS. The push instructions of a control core that complete at once (R140). -/

namespace Sys2Proof.Machine

open Sys2Proof

/-! ### Writing a core twice -/

theorem insertAt_insertAt {K V : Type} [DecidableEq K] (lt : K → K → Bool) (l : List (K × V)) (k : K) (v v' : V) :
    insertAt lt (insertAt lt l k v) k v' = insertAt lt l k v' := by
  induction l with
  | nil => simp [insertAt]
  | cons p t ih =>
    obtain ⟨j, u⟩ := p
    by_cases hj : j = k
    · simp [insertAt, hj]
    · by_cases hlt : lt k j = true
      · simp [insertAt, hj, hlt]
      · simp [insertAt, hj, hlt, ih]

theorem dropKey_insertAt {K V : Type} [DecidableEq K] (lt : K → K → Bool) (l : List (K × V)) (k : K) (v : V) :
    dropKey (insertAt lt l k v) k = dropKey l k := by
  induction l with
  | nil => simp [insertAt, dropKey]
  | cons p t ih =>
    obtain ⟨j, u⟩ := p
    unfold dropKey at ih ⊢
    by_cases hj : j = k
    · simp [insertAt, hj]
    · by_cases hlt : lt k j = true
      · simp [insertAt, hj, hlt]
      · simpa [insertAt, hj, hlt] using ih

/-- The second of two writes of a key counts, unless the first removed the key's entry. -/
theorem putD_putD {K V : Type} [DecidableEq K] [DecidableEq V] (lt : K → K → Bool) {d v : V} (l : List (K × V)) (k : K) (v' : V) (h : v ≠ d) :
    putD lt d (putD lt d l k v) k v' = putD lt d l k v' := by
  unfold putD
  rw [if_neg h, insertAt_insertAt, dropKey_insertAt]

/-- Two changes of a core are one, when the first does not leave an unused core. -/
theorem State.modCore_modCore (s : State) (c : Nat) (f g : CoreSt → CoreSt) (h : f (s.core c) ≠ {}) :
    (s.modCore c f).modCore c g = s.modCore c (fun x => g (f x)) := by
  have hcores : ((s.modCore c f).modCore c g).cores = (s.modCore c (fun x => g (f x))).cores := by
    show putD natLt {} (putD natLt {} s.cores c (f (s.core c))) c (g ((s.modCore c f).core c)) = _
    rw [State.modCore_same, putD_putD _ _ _ _ h]
    rfl
  calc (s.modCore c f).modCore c g = { s with cores := ((s.modCore c f).modCore c g).cores } := rfl
    _ = s.modCore c (fun x => g (f x)) := by rw [hcores]; rfl

/-- A change of a core depends on what it makes of that core alone. -/
theorem State.modCore_congr (s : State) (c : Nat) {f g : CoreSt → CoreSt} (h : f (s.core c) = g (s.core c)) : s.modCore c f = s.modCore c g := by
  unfold State.modCore; rw [h]

/-! ### The instruction at the pc -/

/-- A core that fetches a 32-bit instruction has code. -/
theorem CoreSt.code_of_fetch {x : CoreSt} {w : Nat} (h : x.fetch = some (w, 4)) : x.code ≠ [] := by
  intro hnil
  have hparcel (a : Nat) : x.parcel a = 0 := by unfold CoreSt.parcel; rw [hnil]; rfl
  unfold CoreSt.fetch at h
  simp [hparcel] at h

/-- A core with code is in use. -/
theorem CoreSt.ne_unused {x : CoreSt} (h : x.code ≠ []) : x ≠ {} := by
  rintro rfl
  exact h rfl

/-- A push instruction at the pc of a CC that can issue. -/
theorem State.customAt_some {s : State} {c w f3 : Nat} (hr : s.ccReady c = true) (hf : (s.core c).fetch = some (w, 4)) (hw : customOp w = some f3) :
    s.customAt c f3 = some w := by
  unfold State.customAt
  simp only [hr, hf, hw, if_true]

theorem bitsOf_lt (w hi lo : Nat) : bitsOf w hi lo < 2 ^ (hi + 1 - lo) := Nat.mod_lt _ (Nat.two_pow_pos _)

/-- A write of x0 is discarded. -/
@[simp] theorem CoreSt.setX_zero (x : CoreSt) (v : Word) : x.setX 0 v = x := rfl

theorem CoreSt.setCs_ne_unused {x : CoreSt} (h : x.code ≠ []) (n : Nat) (v : Cmd) : x.setCs n v ≠ {} := CoreSt.ne_unused (x := x.setCs n v) h

theorem CoreSt.getCs_setCs_same (x : CoreSt) (n : Nat) (v : Cmd) : (x.setCs n v).getCs n = v := lookD_putD_same ..

theorem CoreSt.getCs_setCs_other (x : CoreSt) {n m : Nat} (v : Cmd) (h : m ≠ n) : (x.setCs n v).getCs m = x.getCs m :=
  lookD_putD_other _ _ _ _ _ h

/-! ### A word of a staging register (R140) -/

/-- A staging register with the 32 bits from bit `sh` on replaced. -/
def Cmd.putWord (old : Cmd) (sh : Nat) (v : BitVec 32) : Cmd := (old &&& ~~~((0xFFFFFFFF : Cmd) <<< sh)) ||| (v.setWidth 512 <<< sh)

theorem Cmd.getLsbD_putWord (old : Cmd) (sh : Nat) (v : BitVec 32) {i : Nat} (hi : i < 512) :
    (Cmd.putWord old sh v).getLsbD i = if sh ≤ i ∧ i < sh + 32 then v.getLsbD (i - sh) else old.getLsbD i := by
  have hones : (0xFFFFFFFF : Cmd) = BitVec.ofNat 512 (2 ^ 32 - 1) := rfl
  unfold Cmd.putWord
  rw [hones]
  simp only [BitVec.getLsbD_or, BitVec.getLsbD_and, BitVec.getLsbD_not, BitVec.getLsbD_shiftLeft, BitVec.getLsbD_ofNat, BitVec.getLsbD_setWidth,
    Nat.testBit_two_pow_sub_one]
  by_cases hlo : sh ≤ i
  · have hd : i - sh < 512 := by omega
    by_cases hin : i - sh < 32
    · have : i < sh + 32 := by omega
      simp [hi, hlo, hd, hin, this, Nat.not_lt.mpr hlo]
    · have : ¬ i < sh + 32 := by omega
      simp [hi, hlo, hd, hin, this, Nat.not_lt.mpr hlo, BitVec.getLsbD_of_ge v (i - sh) (Nat.not_lt.mp hin)]
  · simp [hi, hlo, Nat.lt_of_not_le hlo]

theorem Cmd.putWord_extract (old : Cmd) {sh : Nat} (v : BitVec 32) (h : sh + 32 ≤ 512) : (Cmd.putWord old sh v).extractLsb' sh 32 = v := by
  apply BitVec.eq_of_getLsbD_eq
  intro i hi
  rw [BitVec.getLsbD_extractLsb', Cmd.getLsbD_putWord _ _ _ (by omega), if_pos (by omega)]
  simp [hi]

/-! ### The instructions -/

/-- CMD.LDT at an aligned address in the code memory. -/
theorem cmdLdt_loads {s : State} {c w : Nat} (hat : s.customAt c 0 = some w) (hcode : (s.core c).code ≠ []) (a : Nat)
    (ha : a = ((s.core c).xreg (bitsOf w 19 15) + BitVec.ofInt 64 (sext 12 (bitsOf w 31 20))).toNat) :
    (a % 64 = 0 → a + 64 ≤ 0x8000 →
      exec (.cmdLdt c .ok) s = .next (s.modCore c (fun x => { x with
        cs := putD natLt 0 x.cs (bitsOf w 8 7) (BitVec.ofNat 512 (leNat (getBytes x.code a 64))),
        pc := x.pc + 4, minstret := x.minstret + 1 }))) ∧
    (a % 64 ≠ 0 → exec (.cmdLdt c .ok) s = .next (s.trap c 4)) ∧
    (a % 64 = 0 → 0x8000 < a + 64 → exec (.cmdLdt c .ok) s = .next (s.trap c 5)) := by
  have hexec : exec (.cmdLdt c .ok) s = .next (if a % 64 ≠ 0 then s.trap c 4 else if 0x8000 < a + 64 then s.trap c 5
      else (s.modCore c (fun x => x.setCs (bitsOf w 8 7) (BitVec.ofNat 512 (leNat (getBytes x.code a 64))))).retire c 4 0 0) := by
    subst ha
    show execCmdLdt c .ok s = _
    unfold execCmdLdt
    rw [hat]
    rfl
  rw [hexec]
  refine ⟨fun halign hin => ?_, fun hmis => by rw [if_pos hmis], fun halign hout => by rw [if_neg (not_not.mpr halign), if_pos hout]⟩
  rw [if_neg (not_not.mpr halign), if_neg (Nat.not_lt.mpr hin)]
  unfold State.retire
  rw [State.modCore_modCore _ _ _ _ (CoreSt.setCs_ne_unused hcode _ _)]
  simp only [CoreSt.setX_zero, CoreSt.setCs]

/-- CMD.WR puts a word into a staging register. -/
theorem cmdWr_writes {s : State} {c w : Nat} (hat : s.customAt c 1 = some w) (hcode : (s.core c).code ≠ []) :
    exec (.cmdWr c .ok) s = .next (s.modCore c (fun x => { x.setCs (bitsOf w 31 30)
        (Cmd.putWord (x.getCs (bitsOf w 31 30)) (32 * bitsOf w 29 26) ((x.xreg (bitsOf w 19 15) + x.xreg (bitsOf w 24 20)).setWidth 32)) with
      pc := x.pc + 4, minstret := x.minstret + 1 })) := by
  change execCmdWr c .ok s = _
  unfold execCmdWr
  rw [hat]
  show Host.Outcome.next ((s.modCore c _).retire c 4 0 0) = _
  unfold State.retire
  rw [State.modCore_modCore _ _ _ _ (CoreSt.setCs_ne_unused hcode _ _)]
  rfl

/-- CC_QSTAT reads the state of the engine its index names (R170). -/
theorem State.view_qstat (s : State) (c n : Nat) : s.view ⟨.CC_QSTAT, c, n⟩ = s.qstat c (Eng.ofCode n) := rfl

/-- Settles O5: CMD.LDT by `cmdLdt_loads`, CMD.WR by `cmdWr_writes` and the bits of `Cmd.putWord`; CMD.CPL and CMD.QST are one change of the
core each. -/
theorem stagingInstructions : Obligations.StagingInstructions := by
  unfold Obligations.StagingInstructions
  intro s c w hready hfetch
  have hcode := CoreSt.code_of_fetch hfetch
  refine ⟨fun h => ?_, fun h => ?_, fun h => ?_, fun h => ?_⟩
  · exact cmdLdt_loads (State.customAt_some hready hfetch h) hcode _ rfl
  · have hsh : 32 * bitsOf w 29 26 + 32 ≤ 512 := by have := bitsOf_lt w 29 26; omega
    refine ⟨_, cmdWr_writes (State.customAt_some hready hfetch h) hcode, ?_⟩
    rw [State.modCore_same]
    refine ⟨rfl, rfl, rfl, ?_, fun i hi hout => ?_, fun n hn => CoreSt.getCs_setCs_other _ _ hn, rfl, rfl,
      fun d hd => State.modCore_other _ _ hd, rfl⟩
    · exact (congrArg (BitVec.extractLsb' _ 32) (CoreSt.getCs_setCs_same ..)).trans (Cmd.putWord_extract _ _ hsh)
    · exact (congrArg (·.getLsbD i) (CoreSt.getCs_setCs_same ..)).trans ((Cmd.getLsbD_putWord _ _ _ hi).trans (if_neg hout))
  · change execCmdCpl c .ok s = _
    unfold execCmdCpl
    rw [State.customAt_some hready hfetch h]
    show Host.Outcome.next ((s.modCore c _).retire c 4 _ _) = _
    unfold State.retire
    rw [State.modCore_modCore _ _ _ _ (CoreSt.ne_unused hcode)]
    refine congrArg Host.Outcome.next (State.modCore_congr _ _ ?_)
    unfold CoreSt.setX
    split <;> rfl
  · change execCmdQst c .ok s = _
    unfold execCmdQst
    rw [State.customAt_some hready hfetch h]
    simp only [State.view_qstat]
    show Host.Outcome.next (s.retire c 4 (bitsOf w 11 7) (s.qstat c (Eng.ofCode (((s.core c).xreg (bitsOf w 19 15)).toNat % 4)))) = _
    unfold State.retire
    exact congrArg Host.Outcome.next (State.modCore_congr s c rfl)

end Sys2Proof.Machine
end

section
/-! PROOFS. What a completion keeps of its core, and the aborts it raises (R146, R158, R166); the phase fence and the tie slots
(R157, R191 to R193, R203). -/

namespace Sys2Proof.Machine

open Sys2Proof

/-! ### Aborts -/

theorem State.get_lt (s : State) (f : Field) (i j : Nat) : s.get f i j < 2 ^ f.width := Field.of_lt _ _

/-- A task on which an abort has been raised is aborted. -/
theorem State.raiseAbort_raised (s : State) (c cause : Nat) : (s.raiseAbort c cause).get F.CC_TASK_STATUS_ABORTED c = 1 := by
  by_cases h : s.get F.CC_TASK_STATUS_ABORTED c = 1
  · rw [State.raiseAbort_again _ _ _ h, h]
  · have hlt : s.get F.CC_TASK_STATUS_ABORTED c < 2 := s.get_lt F.CC_TASK_STATUS_ABORTED c 0
    exact (s.raiseAbort_first c cause (by omega)).1

/-- A completion whose status aborts leaves an aborted task. -/
theorem State.complete_raised (s : State) (c : Nat) (e : Eng) (q : QCmd) {status k : Nat} (iter : Nat) (hk : abortCause status = some k) :
    (s.complete c e q status iter).get F.CC_TASK_STATUS_ABORTED c = 1 := by
  have hne : status ≠ 0 := by rintro rfl; cases hk
  unfold State.complete
  extract_lets cmd s1 s2 r s3 s4 s5
  rw [if_neg hne, hk]
  exact State.raiseAbort_raised ..

/-! ### A part of the core that completions and aborts do not touch -/

/-- A part of a core that stays while an abort is raised on it and its CC changes state. -/
structure AbortKeeps {α : Type} (π : CoreSt → α) : Prop where
  wd : ∀ x n t, π { x with wdLeft := n, wdAt := t } = π x
  halt : ∀ x k t, π (CoreSt.halt { x with abort := some k, push := none } t) = π x

/-- … and while commands complete on it. -/
structure CplKeeps {α : Type} (π : CoreSt → α) : Prop extends AbortKeeps π where
  cpl : ∀ x l, π { x with cpl := l } = π x
  due : ∀ x l, π { x with dueCpl := l } = π x

section
variable {α : Type} {π : CoreSt → α}

theorem AbortKeeps.ccState (h : AbortKeeps π) (s : State) (c v : Nat) : π ((s.ccState c v).core c) = π (s.core c) := by
  unfold State.ccState
  rw [State.set_core_read, State.modCore_same, h.wd]

theorem AbortKeeps.raiseAbort (h : AbortKeeps π) (s : State) (c cause : Nat) : π ((s.raiseAbort c cause).core c) = π (s.core c) := by
  unfold State.raiseAbort
  split
  · rfl
  · dsimp only
    rw [State.modCore_same, h.halt]
    split
    · simp only [State.set_core_read]
    · rw [h.ccState]
      simp only [State.set_core_read]

theorem State.suLog_core (s : State) (c reason ctr chan slot group value id d : Nat) :
    (s.suLog c reason ctr chan slot group value id).core d = s.core d := by
  unfold State.suLog
  split
  · rfl
  · rw [State.wr_core_read]

theorem AbortKeeps.ctrAdd (h : AbortKeeps π) (s : State) (c ctr n id : Nat) : π ((s.ctrAdd c ctr n id).1.core c) = π (s.core c) := by
  unfold State.ctrAdd
  extract_lets v t
  have ht : t.core c = s.core c := by
    show State.core (if _ then _ else _) c = _
    unfold State.setCtr
    split <;> simp only [State.set_core_read, State.flag_core_read, State.flagBit_core_read]
  split
  · unfold State.creditFault
    rw [h.raiseAbort, State.flag_core_read, State.suLog_core, ht]
  · exact congrArg π ht

/-- A completion changes the completion FIFO and the cells on their way back of its core, and with an abort what the abort changes. -/
theorem CplKeeps.complete (h : CplKeeps π) (s : State) (c : Nat) (e : Eng) (q : QCmd) (status iter : Nat) :
    π ((s.complete c e q status iter).core c) = π (s.core c) := by
  unfold State.complete
  extract_lets cmd s1 s2 r s3 s4 s5
  have h1 : π (s1.core c) = π (s.core c) := by
    simp only [s1, State.cellBack, State.modCore_same, h.due]
  have h2 : π (s2.core c) = π (s1.core c) := by
    simp only [s2]
    split
    · exact h.toAbortKeeps.ctrAdd ..
    · rfl
  have h3 : π (s3.core c) = π (s2.core c) := by
    simp only [s3]
    split
    · split
      · rw [State.modCore_same, h.cpl]
      · rw [State.flag_core_read]
    · rfl
  have h5 : π (s5.core c) = π (s3.core c) := by
    have h4 : s4.core c = s3.core c := State.setBit_core_read ..
    rw [← h4]
    simp only [s5]
    split
    · rfl
    · exact congrArg π (State.wr_core_read ..)
  split
  · rw [h3, h2, h1]
  · split
    · rw [h.toAbortKeeps.raiseAbort, h5, h3, h2, h1]
    · rw [h5, h3, h2, h1]
end

/-- The command that holds an engine's queue. -/
def CoreSt.holdOf (e : Eng) (x : CoreSt) : Option Begun := (x.eng e).hold

theorem CoreSt.holdOf_kept (e : Eng) : CplKeeps (CoreSt.holdOf e) where
  wd _ _ _ := by cases e <;> rfl
  halt _ _ _ := by cases e <;> rfl
  cpl _ _ := by cases e <;> rfl
  due _ _ := by cases e <;> rfl

theorem State.complete_hold (s : State) (c : Nat) (e d : Eng) (q : QCmd) (status iter : Nat) :
    (((s.complete c e q status iter).core c).eng d).hold = ((s.core c).eng d).hold := (CoreSt.holdOf_kept d).complete s c e q status iter

theorem State.complete_veHold (s : State) (c : Nat) (e : Eng) (q : QCmd) (status iter : Nat) :
    ((s.complete c e q status iter).core c).ve.hold = (s.core c).ve.hold := s.complete_hold c e .ve q status iter

/-! ### Registers a completion writes -/

/-- The registers that a completion may write (R146, R166, R356, R357). -/
def cplRegs : List Reg := [.CC_IRQ, .CC_TASK_STATUS, .CC_CMD_LOG, .CC_STATE, .SU_CTR, .SU_FLAG, .SU_EVT, .SU_LOG]

theorem RegFrame.suLog (s : State) (c reason ctr chan slot group value id : Nat) : RegFrame cplRegs s (s.suLog c reason ctr chan slot group value id) := by
  unfold State.suLog
  split
  · exact .refl s
  · exact .wr _ _ _ (show Reg.SU_LOG ∈ cplRegs by decide)

theorem RegFrame.flagBit {l : List Reg} (s : State) (f : Field) (i n : Nat) (h : f.reg ∈ l) : RegFrame l s (s.flagBit f i n) :=
  (RegFrame.setBit _ _ _ _ _ h).trans (.of_quiet (Quiet.of_noteSet ..))

theorem RegFrame.setCtr (s : State) (c n v : Nat) : RegFrame cplRegs s (s.setCtr c n v) := by
  refine .set _ _ _ _ _ ?_
  unfold ctrField
  split <;> decide

theorem RegFrame.ctrAdd (s : State) (c ctr n id : Nat) : RegFrame cplRegs s (s.ctrAdd c ctr n id).1 := by
  unfold State.ctrAdd
  extract_lets v t
  have ht : RegFrame cplRegs s t := by
    show RegFrame cplRegs s (if _ then _ else _)
    split
    · exact ((RegFrame.setCtr ..).trans (.flagBit _ _ _ _ (by decide))).trans (.flag _ _ _ _ (by decide))
    · exact .setCtr ..
  split
  · exact ht.trans (((RegFrame.suLog ..).trans (.flag _ _ _ _ (by decide))).trans (.raiseAbort _ _ _ (by decide) (by decide)))
  · exact ht

/-- Every completion writes registers of `cplRegs` alone. -/
theorem RegFrame.complete_any (s : State) (c : Nat) (e : Eng) (q : QCmd) (status iter : Nat) :
    RegFrame cplRegs s (s.complete c e q status iter) := by
  unfold State.complete
  extract_lets cmd s1 s2 r s3 s4 s5
  have h2 : RegFrame cplRegs s1 s2 := by
    show RegFrame cplRegs s1 (if _ then _ else _)
    split
    · exact .ctrAdd ..
    · exact .refl _
  have h3 : RegFrame cplRegs s2 s3 := by
    show RegFrame cplRegs s2 (if _ then _ else _)
    split
    · split
      · exact .modCore ..
      · exact .flag _ _ _ _ (by decide)
    · exact .refl _
  have h13 : RegFrame cplRegs s s3 := ((RegFrame.modCore ..).trans h2).trans h3
  split
  · exact h13
  · have h5 : RegFrame cplRegs s3 s5 := by
      show RegFrame cplRegs s3 (if _ then _ else _)
      split
      · exact .setBit _ _ _ _ _ (by decide)
      · exact (RegFrame.setBit _ _ _ _ _ (by decide)).trans (.wr _ _ _ (show Reg.CC_CMD_LOG ∈ cplRegs by decide))
    split
    · exact (h13.trans h5).trans (.raiseAbort _ _ _ (by decide) (by decide))
    · exact h13.trans h5

/-- A completion with OK, without DONE_EN and NOTIFY, gives the cell back and no more (R146). -/
theorem State.complete_silent (s : State) (c : Nat) (e : Eng) {q : QCmd} (iter : Nat) (hdone : Cmd.doneEn q.cmd = false)
    (hnotify : Cmd.notify q.cmd = false) : s.complete c e q 0 iter = s.cellBack c e q (s.now + 1) := by
  unfold State.complete
  simp only [hdone, hnotify, Bool.false_eq_true, if_false, if_true]

/-! ### The phase fence (R191 to R193) -/

section
variable {s : State} {c : Nat}

theorem Cmd.f_lt (q : Cmd) (b hi lo : Nat) : Cmd.f q b hi lo < 2 ^ (hi + 1 - lo) := (BitVec.isLt _)

/-- VE_PHASE begins in the ACLK in which it is ready. -/
theorem vePhase_begins {p : Nat} {q : QCmd} (hr : s.ready c .ve (fun k => decide (Cmd.opcode k = 0x3F)) = some (p, q, s.now)) :
    exec (.vePhase c) s = .next (if phaseIllegal q.cmd then veEndNow (s.begin_ c .ve p s.now) c q 3
      else (s.begin_ c .ve p s.now).modCore c (fun x => { x with ve := { x.ve with hold := some ⟨q.cmd, q.cell, q.ord, s.now⟩ } })) := by
  change execVePhase c s = _
  unfold execVePhase
  rw [s.beginHead_now _ hr]

/-- A fence without open earlier commands and within its limit completes in the next ACLK. -/
theorem vePhaseComplete_completes {h : Begun} (hrun : s.running c = true) (hheld : s.phaseHeld c = some h) (hearlier : s.earlier c h.ord = false)
    (hlimit : Cmd.f h.cmd 24 31 0 = 0 ∨ s.now ≤ h.at_ + 1024 * Cmd.f h.cmd 24 31 0) :
    exec (.vePhaseComplete c) s = .next (s.completeAt c .ve h.q 0 (max h.at_ s.now + 1)) := by
  have hlate : (decide (0 < Cmd.f h.cmd 24 31 0) && decide (h.at_ + 1024 * Cmd.f h.cmd 24 31 0 < s.now)) = false := by
    rw [← Bool.not_eq_true, Bool.and_eq_true, decide_eq_true_eq, decide_eq_true_eq]
    omega
  change execVePhaseComplete c s = _
  unfold execVePhaseComplete
  simp only [hheld, hrun, hearlier, hlate, Bool.not_true, Bool.or_self, Bool.false_eq_true, if_false]

/-- The only entry of the due completions, and it is due. -/
theorem dueTick_one {t : Nat} {d : DueCpl} (hdue : (s.core c).dueCpl = [d]) (hat : d.at_ ≤ t) (hstatus : d.status = 0)
    (heng : d.eng = Eng.ve.code) (hop : Cmd.opcode d.q.cmd = 0x3F) :
    s.dueTick c t =
      let u := (s.modCore c (fun x => { x with dueCpl := x.dueCpl.filter (fun d => !(decide (d.at_ ≤ t))) })).set F.VE_CTX_PHASE c (Cmd.f d.q.cmd 16 0 0)
      let u := if Cmd.f d.q.cmd 16 0 0 = 0 then u.set F.VE_CTX_STEP c (Cmd.f d.q.cmd 20 31 0) else u
      (u.modCore c (fun x => { x with ve := { x.ve with hold := none, lastEntry := t } })).complete c .ve d.q 0 d.iter := by
  have hone : (s.core c).dueCpl.filter (fun d => decide (d.at_ ≤ t)) = [d] := by simp [hdue, hat]
  unfold State.dueTick
  simp only [hone, List.isEmpty_cons, Bool.false_eq_true, if_false, List.foldl_cons, List.foldl_nil, hstatus, heng, hop, if_true,
    OfNat.zero_ne_ofNat]
  rfl

/-- VE_PHASE_COMPLETE's completion changes the phase, a forward phase also the step, and the VE's queue goes on (R192, R193). -/
theorem dueTick_phase {t : Nat} {d : DueCpl} (hdue : (s.core c).dueCpl = [d]) (hat : d.at_ ≤ t) (hstatus : d.status = 0)
    (heng : d.eng = Eng.ve.code) (hop : Cmd.opcode d.q.cmd = 0x3F) (hdone : Cmd.doneEn d.q.cmd = false) (hnotify : Cmd.notify d.q.cmd = false) :
    let u := s.dueTick c t
    u.get F.VE_CTX_PHASE c = Cmd.f d.q.cmd 16 0 0 ∧
      u.get F.VE_CTX_STEP c = (if Cmd.f d.q.cmd 16 0 0 = 0 then Cmd.f d.q.cmd 20 31 0 else s.get F.VE_CTX_STEP c) ∧
      (u.core c).ve.hold = none ∧ u.mem = s.mem ∧ (∀ k, k.reg ≠ .VE_CTX → u.rd k = s.rd k) ∧ (∀ e, e ≠ c → u.core e = s.core e) := by
  have hphase : Cmd.f d.q.cmd 16 0 0 % 2 ^ F.VE_CTX_PHASE.width = Cmd.f d.q.cmd 16 0 0 := Nat.mod_eq_of_lt (Cmd.f_lt ..)
  have hstep : Cmd.f d.q.cmd 20 31 0 % 2 ^ F.VE_CTX_STEP.width = Cmd.f d.q.cmd 20 31 0 := Nat.mod_eq_of_lt (Cmd.f_lt ..)
  have hkey (k : RKey) (hk : k.reg ≠ .VE_CTX) : k ≠ ⟨.VE_CTX, c, 0⟩ := fun h => hk (congrArg RKey.reg h)
  rw [dueTick_one hdue hat hstatus heng hop]
  simp only [State.complete_silent _ _ _ _ hdone hnotify, State.cellBack, State.modCore_get, State.modCore_same, State.modCore_mem, State.modCore_rd]
  split
  · refine ⟨?_, ?_, trivial, rfl, fun k hk => ?_, fun e he => ?_⟩
    · rw [State.get_set_apart _ _ _ _ _ _ (by decide) (by decide) (by decide), State.get_set_same _ _ _ _ _ (by decide), hphase]
    · rw [State.get_set_same _ _ _ _ _ (by decide), hstep]
    · rw [State.rd_set_other _ _ _ _ _ _ (hkey k hk), State.rd_set_other _ _ _ _ _ _ (hkey k hk), State.modCore_rd]
    · simp only [State.modCore_other _ _ he, State.set_core_read]
  · refine ⟨?_, ?_, trivial, rfl, fun k hk => ?_, fun e he => ?_⟩
    · rw [State.get_set_same _ _ _ _ _ (by decide), hphase]
    · rw [State.get_set_apart _ _ _ _ _ _ (by decide) (by decide) (by decide), State.modCore_get]
    · rw [State.rd_set_other _ _ _ _ _ _ (hkey k hk), State.modCore_rd]
    · simp only [State.modCore_other _ _ he, State.set_core_read]

/-- Past its limit the fence completes with TIMEOUT, which aborts the task (R157, R193). -/
theorem vePhaseTimeout_aborts {u : State} {h : Begun} (hheld : s.phaseHeld c = some h) (hlimit : Cmd.f h.cmd 24 31 0 ≠ 0)
    (hu : u = s.at_ (h.at_ + 1024 * Cmd.f h.cmd 24 31 0 + 1)) (hrun : u.running c = true) (hearlier : u.earlier c h.ord = true) :
    ∃ t, exec (.vePhaseTimeout c) s = .next t ∧ t.now = u.now ∧ t.get F.VE_EVT_TIMEOUT c = 1 ∧ t.get F.CC_TASK_STATUS_ABORTED c = 1 ∧
      (Cmd.doneEn h.cmd = false → u.get F.CC_TASK_STATUS_ABORTED c = 0 → t.get F.CC_TASK_STATUS_CAUSE c = 6) ∧ (t.core c).ve.hold = none ∧
      t.get F.VE_CTX_PHASE c = u.get F.VE_CTX_PHASE c ∧ t.mem = u.mem := by
  let left := (u.flag F.VE_EVT_TIMEOUT c).modCore c (fun x => { x with ve := { x.ve with hold := none, lastEntry := h.at_ + 1024 * Cmd.f h.cmd 24 31 0 + 1 } })
  have hexec : exec (.vePhaseTimeout c) s = .next (left.complete c .ve h.q 8 0) := by
    change execVePhaseTimeout c s = _
    unfold execVePhaseTimeout
    simp only [hheld, ← hu, hrun, hearlier, decide_eq_false hlimit, Bool.not_true, Bool.or_self, Bool.false_eq_true, if_false]
    rfl
  have hlocal := left.complete_local c .ve h.q 8 0
  have hregs := RegFrame.complete_any left c .ve h.q 8 0
  have habort : abortCause 8 = some 6 := rfl
  have hleft (f : Field) (hf : f.ok = true) (hapart : F.VE_EVT_TIMEOUT.apart f = true) : left.get f c = u.get f c := by
    simp only [left, State.modCore_get]
    exact State.get_flag_apart _ _ _ _ _ (by decide) hf hapart
  refine ⟨_, hexec, hlocal.now, ?_, State.complete_raised _ _ _ _ _ habort, fun hdone hfirst => ?_, ?_, ?_, hlocal.mem⟩
  · rw [hregs.get _ _ (by decide) rfl]
    simp only [left, State.modCore_get]
    exact State.get_flag_same _ _ _ _ (by decide) (by decide)
  · exact (State.complete_aborts left c .ve (q := h.q) 0 hdone habort ((hleft _ (by decide) (by decide)).trans hfirst)).2
  · rw [State.complete_veHold]
    simp only [left, State.modCore_same]
  · rw [hregs.get _ _ (by decide) rfl, hleft _ (by decide) (by decide)]

end

/-! ### The tie slots (R203) -/

/-- No field of a tie slot depends on a lock or on its master: a write is never denied. -/
theorem tieDenied (m : Master) (locked : Bool) (old v mask : Word) : Reg.denied .VE_TIE m locked old v mask = none := by
  unfold Reg.denied
  simp [Reg.info]

/-- The hub's write of a tie slot, as one write of its register. -/
theorem tieAccWrite (s : State) (c n : Nat) (v : Word) (addr : Nat) :
    s.accWrite .hub ⟨.VE_TIE, c, n⟩ v fullMask addr =
      s.wr ⟨.VE_TIE, c, n⟩ (Reg.written .VE_TIE .hub (s.locked .VE) (s.rd ⟨.VE_TIE, c, n⟩) v fullMask (s.setMask ⟨.VE_TIE, c, n⟩)) := by
  have hholes : v &&& ~~~Reg.holes .VE_TIE = v := (BitVec.and_allOnes ..)
  unfold State.accWrite
  simp only [tieDenied, hholes]
  rfl

/-- A read-write field of a tie slot takes its value from the hub. -/
theorem tieAccWrite_get (s : State) (c n : Nat) (v : Word) (addr : Nat) {f : Field} (hreg : f.reg = .VE_TIE)
    (hf : f ∈ (Reg.info .VE_TIE).fields) (hacc : f.acc = .rw) : (s.accWrite .hub ⟨.VE_TIE, c, n⟩ v fullMask addr).get f c n = f.of v := by
  have hall (old : Word) : v &&& fullMask ||| old &&& ~~~fullMask = v := by
    rw [show ~~~fullMask = 0#64 from rfl, BitVec.and_zero, BitVec.or_zero]
    exact BitVec.and_allOnes ..
  rw [tieAccWrite, State.get_def, hreg, State.rd_wr_same, Reg.written_of _ _ _ _ _ _ _ f hf]
  simp only [Field.written, hacc, hall]

/-- COUNT and COMPLETE of a slot written; the other fields of the slot stay. -/
theorem tieCounts_fields (a : State) (c n k : Nat) (hk : k < 2) :
    let t := (a.set F.VE_TIE_COUNT c 0 n).set F.VE_TIE_COMPLETE c k n
    t.get F.VE_TIE_COUNT c n = 0 ∧ t.get F.VE_TIE_COMPLETE c n = k ∧
      (∀ f : Field, f.ok = true → F.VE_TIE_COUNT.apart f = true → F.VE_TIE_COMPLETE.apart f = true → t.get f c n = a.get f c n) := by
  refine ⟨?_, ?_, fun f hf hcount hcomplete => ?_⟩
  · rw [State.get_set_apart _ _ _ _ _ _ (by decide) (by decide) (by decide), State.get_set_same _ _ _ _ _ (by decide)]
    rfl
  · rw [State.get_set_same _ _ _ _ _ (by decide)]
    exact Nat.mod_eq_of_lt hk
  · rw [State.get_set_apart _ _ _ _ _ _ (by decide) hf hcomplete, State.get_set_apart _ _ _ _ _ _ (by decide) hf hcount]

/-- The hub's write of a slot without DONE_EN: arming clears COUNT and sets COMPLETE when no use is left. -/
theorem tieWrite_hub (s : State) (c n : Nat) (v : Word) (addr : Nat) (hdone : F.VE_TIE_DONE_EN.of v = 0) :
    s.tieWrite .hub c n v fullMask addr =
      let a := s.accWrite .hub ⟨.VE_TIE, c, n⟩ v fullMask addr
      let armed := (a.set F.VE_TIE_COUNT c 0 n).set F.VE_TIE_COMPLETE c 0 n
      if F.VE_TIE_ARMED.of v = 1 then (if F.VE_TIE_USES.of v = 0 then armed.set F.VE_TIE_COMPLETE c 1 n else armed) else a := by
  have hv : v &&& fullMask = v := BitVec.and_allOnes ..
  unfold State.tieWrite
  extract_lets a armed complete
  have huses : armed.get F.VE_TIE_USES c n = F.VE_TIE_USES.of v :=
    ((tieCounts_fields a c n 0 (by decide)).2.2 _ (by decide) (by decide) (by decide)).trans (tieAccWrite_get s c n v addr rfl (by decide) rfl)
  have hen : complete.get F.VE_TIE_DONE_EN c n = 0 := by
    refine (State.get_set_apart _ _ _ _ _ _ (by decide) (by decide) (by decide)).trans ?_
    exact ((tieCounts_fields a c n 0 (by decide)).2.2 _ (by decide) (by decide) (by decide)).trans
      ((tieAccWrite_get s c n v addr rfl (by decide) rfl).trans hdone)
  simp only [hv, huses, hen, Nat.zero_ne_one, if_false]
  rfl

/-- What the hub's write of a slot makes of it. -/
theorem tieWrite_fields (s : State) (c n : Nat) (v : Word) (addr : Nat) (hdone : F.VE_TIE_DONE_EN.of v = 0) :
    let t := s.tieWrite .hub c n v fullMask addr
    (∀ f : Field, f.reg = .VE_TIE → f ∈ (Reg.info .VE_TIE).fields → f.acc = .rw → f.ok = true → F.VE_TIE_COUNT.apart f = true →
      F.VE_TIE_COMPLETE.apart f = true → t.get f c n = f.of v) ∧
    (F.VE_TIE_ARMED.of v = 1 → t.get F.VE_TIE_COUNT c n = 0 ∧ t.get F.VE_TIE_COMPLETE c n = (if F.VE_TIE_USES.of v = 0 then 1 else 0)) ∧
    (∀ k, k ≠ ⟨.VE_TIE, c, n⟩ → t.rd k = s.rd k) ∧ t.mem = s.mem := by
  have hslot {f : Field} (hreg : f.reg = .VE_TIE) (hf : f ∈ (Reg.info .VE_TIE).fields) (hacc : f.acc = .rw) :=
    tieAccWrite_get s c n v addr hreg hf hacc
  have hrd (k : RKey) (hk : k ≠ ⟨.VE_TIE, c, n⟩) : (s.accWrite .hub ⟨.VE_TIE, c, n⟩ v fullMask addr).rd k = s.rd k := by
    rw [tieAccWrite, State.rd_wr_other _ _ hk]
  have hmem : (s.accWrite .hub ⟨.VE_TIE, c, n⟩ v fullMask addr).mem = s.mem := by rw [tieAccWrite, State.wr_mem]
  rw [tieWrite_hub s c n v addr hdone]
  generalize s.accWrite .hub ⟨.VE_TIE, c, n⟩ v fullMask addr = a at hslot hrd hmem
  obtain ⟨hcount, hcomplete, hothers⟩ := tieCounts_fields a c n 0 (by decide)
  by_cases harmed : F.VE_TIE_ARMED.of v = 1
  · by_cases huses : F.VE_TIE_USES.of v = 0
    · simp only [harmed, huses, if_true]
      refine ⟨fun f hreg hf hacc hok hc hd => ?_, fun _ => ⟨?_, ?_⟩, fun k hk => ?_, hmem⟩
      · rw [State.get_set_apart _ _ _ _ _ _ (by decide) hok hd, hothers f hok hc hd, hslot hreg hf hacc]
      · rw [State.get_set_apart _ _ _ _ _ _ (by decide) (by decide) (by decide), hcount]
      · exact State.get_set_same _ _ _ _ _ (by decide)
      · rw [State.rd_set_other _ _ _ _ _ _ hk, State.rd_set_other _ _ _ _ _ _ hk, State.rd_set_other _ _ _ _ _ _ hk, hrd k hk]
    · simp only [harmed, huses, if_true, if_false]
      refine ⟨fun f hreg hf hacc hok hc hd => ?_, fun _ => ⟨hcount, hcomplete⟩, fun k hk => ?_, hmem⟩
      · rw [hothers f hok hc hd, hslot hreg hf hacc]
      · rw [State.rd_set_other _ _ _ _ _ _ hk, State.rd_set_other _ _ _ _ _ _ hk, hrd k hk]
  · simp only [harmed, if_false]
    exact ⟨fun f hreg hf hacc _ _ _ => hslot hreg hf hacc, fun h => h.elim, hrd, hmem⟩

/-- The hub arms a tie slot by a write of its register. -/
theorem veTieArm_written (s : State) {c n : Nat} (v : Word) (hn : n < 8) (hreach : s.reach .hub .VE c = true) :
    exec (.veTieArm .hub c n v) s =
      .next { (s.access .hub).tieWrite .hub c n v fullMask (0x4000 * c + 0x880 + 8 * n) with bus := .written } := by
  change execVeTieArm .hub c n v s = _
  unfold execVeTieArm
  rw [State.regCmd_reached _ _ _ _ _ hreach, Nat.mod_eq_of_lt hn]

/-- Settles O17. The begin by `vePhase_begins`, the end by `vePhaseComplete_completes` and `dueTick_phase`, the expiry by
`vePhaseTimeout_aborts`, the tie slots by `tieWrite_fields`. -/
theorem phaseFenceAndTies : Obligations.PhaseFenceAndTies := by
  unfold Obligations.PhaseFenceAndTies
  refine ⟨fun s c p q hr => ⟨fun hlegal => ?_, fun hbad => ?_⟩, fun s c h hrun hheld hearlier hlimit =>
    vePhaseComplete_completes hrun hheld hearlier hlimit, fun s c t d hdue hat hstatus heng hop hdone hnotify =>
    dueTick_phase hdue hat hstatus heng hop hdone hnotify, fun s u c h hheld hlimit hu hrun hearlier =>
    vePhaseTimeout_aborts hheld hlimit hu hrun hearlier, fun s c n v hn hreach hdone => ?_⟩
  · rw [vePhase_begins hr, hlegal]
    rfl
  · rw [vePhase_begins hr, hbad]
    rfl
  · obtain ⟨hslot, harm, hrd, hmem⟩ := tieWrite_fields (s.access .hub) c n v (0x4000 * c + 0x880 + 8 * n) hdone
    exact ⟨_, veTieArm_written s v hn hreach, rfl, hslot _ rfl (by decide) rfl (by decide) (by decide) (by decide),
      hslot _ rfl (by decide) rfl (by decide) (by decide) (by decide), hslot _ rfl (by decide) rfl (by decide) (by decide) (by decide),
      hslot _ rfl (by decide) rfl (by decide) (by decide) (by decide), harm, hrd, hmem⟩

end Sys2Proof.Machine
end

section
/-! PROOFS. WAIT: its begin, its release and its timeout (R155 to R157). -/

namespace Sys2Proof.Machine

open Sys2Proof

/-! ### Engines of a core -/

@[simp] theorem CoreSt.eng_setEng_same (x : CoreSt) (e : Eng) (g : EngSt) : (x.setEng e g).eng e = g := by cases e <;> rfl

theorem CoreSt.eng_setEng_other (x : CoreSt) {e d : Eng} (g : EngSt) (h : d ≠ e) : (x.setEng e g).eng d = x.eng d := by
  cases e with
  | me =>
    cases d with
    | me => exact absurd rfl h
    | _ => rfl
  | ve =>
    cases d with
    | ve => exact absurd rfl h
    | _ => rfl
  | dm =>
    cases d with
    | dm => exact absurd rfl h
    | _ => rfl
  | su =>
    cases d with
    | su => exact absurd rfl h
    | _ => rfl

theorem CoreSt.setEng_setEng (x : CoreSt) (e : Eng) (g g' : EngSt) : (x.setEng e g).setEng e g' = x.setEng e g' := by cases e <;> rfl

@[simp] theorem CoreSt.setEng_x (x : CoreSt) (e : Eng) (g : EngSt) : (x.setEng e g).x = x.x := by cases e <;> rfl
@[simp] theorem CoreSt.setEng_cpl (x : CoreSt) (e : Eng) (g : EngSt) : (x.setEng e g).cpl = x.cpl := by cases e <;> rfl
@[simp] theorem CoreSt.setEng_dueCpl (x : CoreSt) (e : Eng) (g : EngSt) : (x.setEng e g).dueCpl = x.dueCpl := by cases e <;> rfl

theorem State.waitHeld_some {s : State} {c : Nat} {e : Eng} {w : Begun} (h : s.waitHeld c e = some w) :
    ((s.core c).eng e).hold = some w ∧ Cmd.opcode w.cmd = 0x0F := by
  unfold State.waitHeld at h
  split at h
  · next k hk =>
    split at h
    · next hop =>
      obtain rfl := Option.some.inj h
      exact ⟨hk, hop⟩
    · cases h
  · cases h

/-! ### The begin (R155) -/

/-- The core of a WAIT that holds its queue from ACLK `b` on; the ACLK from which one stands on its counter is noted (R292). -/
def CoreSt.holdWait (x : CoreSt) (e : Eng) (q : QCmd) (b : Nat) : CoreSt :=
  let x := x.setEng e { x.eng e with hold := some ⟨q.cmd, q.cell, q.ord, b⟩ }
  { x with lateAt := if x.lateAt.any (fun l => decide (l.1 = waitCtr q.cmd)) then x.lateAt else x.lateAt ++ [(waitCtr q.cmd, b)] }

/-- Holding a queue changes the core's note of standing WAITs and the engine that it holds. -/
theorem CoreSt.holdWait_eng (x : CoreSt) (e d : Eng) (q : QCmd) (b : Nat) :
    (x.holdWait e q b).eng d = (x.setEng e { x.eng e with hold := some ⟨q.cmd, q.cell, q.ord, b⟩ }).eng d := by cases d <;> rfl

@[simp] theorem CoreSt.holdWait_cpl (x : CoreSt) (e : Eng) (q : QCmd) (b : Nat) : (x.holdWait e q b).cpl = x.cpl := CoreSt.setEng_cpl ..
@[simp] theorem CoreSt.holdWait_x (x : CoreSt) (e : Eng) (q : QCmd) (b : Nat) : (x.holdWait e q b).x = x.x := CoreSt.setEng_x ..

section
variable {s : State} {c : Nat} {e : Eng}

theorem wait_begins {p : Nat} {q : QCmd} (hr : s.ready c e (fun k => decide (Cmd.opcode k = 0x0F)) = some (p, q, s.now)) :
    exec (.wait c e) s = .next (if waitIllegal q.cmd then ((s.begin_ c e p s.now).evtIllegal c e).endNow c e q 3
      else (s.begin_ c e p s.now).modCore c (fun x => x.holdWait e q s.now)) := by
  change execWait c e s = _
  unfold execWait
  rw [s.beginHead_now _ hr]
  rfl

/-- A legal WAIT at the head holds its queue. -/
theorem wait_holds {p : Nat} {q : QCmd} (hr : s.ready c e (fun k => decide (Cmd.opcode k = 0x0F)) = some (p, q, s.now))
    (hlegal : waitIllegal q.cmd = false) :
    ∃ t, exec (.wait c e) s = .next t ∧ t = { s with cores := t.cores } ∧ ((t.core c).eng e).hold = some ⟨q.cmd, q.cell, q.ord, s.now⟩ ∧
      (t.core c).cpl = (s.core c).cpl ∧ (t.core c).x = (s.core c).x ∧ (∀ d, d ≠ e → (t.core c).eng d = (s.core c).eng d) ∧
      ∀ d, d ≠ c → t.core d = s.core d := by
  rw [wait_begins hr, hlegal, if_neg (by decide), State.begin_now]
  refine ⟨_, rfl, rfl, ?_, ?_, ?_, fun d hd => ?_, fun d hd => ?_⟩
  · simp only [State.modCore_same, CoreSt.holdWait_eng, CoreSt.eng_setEng_same]
  · simp only [State.modCore_same, CoreSt.holdWait_cpl, CoreSt.setEng_cpl]
  · simp only [State.modCore_same, CoreSt.holdWait_x, CoreSt.setEng_x]
  · simp only [State.modCore_same, CoreSt.holdWait_eng, CoreSt.eng_setEng_other _ _ hd]
  · exact (State.modCore_other _ _ hd).trans (State.modCore_other _ _ hd)

/-- COND reserved, CONSUME without GE, or a reserved bit of the header. -/
theorem waitIllegal_of {q : Cmd} (h : Cmd.f q 17 1 0 = 3 ∨ (Cmd.f q 17 7 7 = 1 ∧ Cmd.f q 17 1 0 ≠ 0) ∨ Cmd.hdrRsv q ≠ 0) : waitIllegal q = true := by
  unfold waitIllegal
  obtain hcond | ⟨hconsume, hcond⟩ | hheader := h
  · simp only [hcond, decide_true, Bool.or_true, Bool.true_or]
  · simp only [hconsume, ne_eq, hcond, not_false_eq_true, decide_true, Bool.and_self, Bool.or_true]
  · simp only [ne_eq, hheader, not_false_eq_true, decide_true, Bool.true_or]

/-! ### The end of a standing WAIT (R292) -/

/-- Of the standing of WAITs on a counter, a core keeps its note alone. -/
structure LateOnly (s t : State) (c : Nat) : Prop where
  rest : t = { s with cores := t.cores }
  same : ∃ l, t.core c = { s.core c with lateAt := l }
  others : ∀ d, d ≠ c → t.core d = s.core d

/-- On a counter of no stream window the end of a WAIT's standing is noted in its core alone. -/
theorem State.lateEnd_noWindows {ctr t : Nat} (h : s.streamWins c ctr = []) : LateOnly s (s.lateEnd c ctr t) c := by
  have hrefl : LateOnly s s c := ⟨rfl, ⟨_, rfl⟩, fun _ _ => rfl⟩
  unfold State.lateEnd
  split
  · exact hrefl
  · split
    · exact hrefl
    · simp only [h, List.foldl_nil]
      exact ⟨rfl, ⟨_, State.modCore_same ..⟩, fun d hd => State.modCore_other _ _ hd⟩

/-- The end of a WAIT's standing leaves the engines of its core and everything outside it but registers. -/
structure LateKeeps (s t : State) (c : Nat) : Prop where
  rest : Local s t
  eng : ∀ e, (t.core c).eng e = (s.core c).eng e
  others : ∀ d, d ≠ c → t.core d = s.core d

theorem State.lateEnd_keeps (s : State) (c ctr t : Nat) : LateKeeps s (s.lateEnd c ctr t) c := by
  have hbumps (at_ : Nat) (ws : List Nat) (u : State) : Local u (ws.foldl (fun s w => s.bump F.DM_STRM_LATE_ACLK c at_ w) u) ∧
      (ws.foldl (fun s w => s.bump F.DM_STRM_LATE_ACLK c at_ w) u).core = u.core := by
    induction ws generalizing u with
    | nil => exact ⟨.refl u, rfl⟩
    | cons w ws ih => exact ⟨(Local.set ..).trans (ih _).1, (ih _).2⟩
  unfold State.lateEnd
  split
  · exact ⟨.refl s, fun _ => rfl, fun _ _ => rfl⟩
  · split
    · exact ⟨.refl s, fun _ => rfl, fun _ _ => rfl⟩
    · obtain ⟨hrest, hcore⟩ := hbumps (t - _) (s.streamWins c ctr) s
      refine ⟨hrest.trans (.modCore ..), fun e => ?_, fun d hd => ?_⟩
      · rw [State.modCore_same, hcore]
        cases e <;> rfl
      · rw [State.modCore_other _ _ hd, hcore]

theorem RegFrame.foldl {β : Type} {l : List Reg} (g : State → β → State) (hg : ∀ u a, RegFrame l u (g u a)) (bs : List β) (s : State) :
    RegFrame l s (bs.foldl g s) := by
  induction bs generalizing s with
  | nil => exact .refl s
  | cons b bs ih => exact (hg s b).trans (ih _)

/-- With stream windows the end is also counted in their LATE. -/
theorem State.lateEnd_regs (s : State) (c ctr t : Nat) : RegFrame [.DM_STRM_LATE] s (s.lateEnd c ctr t) := by
  unfold State.lateEnd
  split
  · exact .refl s
  · split
    · exact .refl s
    · exact (RegFrame.foldl _ (fun u w => .bump u F.DM_STRM_LATE_ACLK c _ w (by decide)) _ s).trans (.modCore ..)

/-! ### The release (R155, R156) -/

/-- The subtraction of a WAIT that releases in the present ACLK (R156). -/
def State.waitTake (s : State) (c : Nat) (w : Begun) : State :=
  if waitConsume w.cmd then
    (s.setCtr c (waitCtr w.cmd) (s.ctr c (waitCtr w.cmd) - waitValue w.cmd)).modCore c (fun x => { x with
      subs := x.subs.filter (fun u => decide (u.1 = s.now)) ++ [(s.now, waitCtr w.cmd, waitValue w.cmd)] })
  else s

theorem ctrField_reg (n : Nat) : (ctrField n).reg = .SU_CTR := by
  unfold ctrField
  split <;> rfl

theorem State.rd_setCtr (s : State) (c n v : Nat) {k : RKey} (h : k.reg ≠ .SU_CTR) : (s.setCtr c n v).rd k = s.rd k :=
  State.rd_set_other _ _ _ _ _ _ (fun e => h ((congrArg RKey.reg e).trans (ctrField_reg _)))

theorem RegFrame.get_ctr {l : List Reg} {t : State} (h : RegFrame l s t) (c n : Nat) (hl : Reg.SU_CTR ∉ l) : t.ctr c n = s.ctr c n :=
  h.get _ _ (by rwa [ctrField_reg]) (by rw [ctrField_reg]; rfl)

/-- Two counters of a core lie apart. -/
theorem ctrField_apart {n m : Nat} (h : n ≠ m) (c : Nat) : keyApart (ctrField (m % 4)) (ctrField (n % 4)) c (m / 4) c (n / 4) = true := by
  by_cases hdiv : m / 4 = n / 4
  · have hmod : m % 4 ≠ n % 4 := by omega
    have hm : m % 4 < 4 := Nat.mod_lt _ (by decide)
    have hn : n % 4 < 4 := Nat.mod_lt _ (by decide)
    have hall : ∀ a < 4, ∀ b < 4, a ≠ b → (ctrField a).apart (ctrField b) = true := by decide
    simp [keyApart, hall _ hm _ hn hmod]
  · simp [keyApart, hdiv]

theorem State.ctr_setCtr_other (s : State) (c : Nat) {n m : Nat} (v : Nat) (h : n ≠ m) : (s.setCtr c m v).ctr c n = s.ctr c n :=
  State.get_set_other _ _ _ _ _ _ _ _ (ctrField_ok _) (ctrField_ok _) (ctrField_apart h c)

theorem State.ctr_lt (s : State) (c n : Nat) : s.ctr c n < 2 ^ 16 := by
  have h := s.get_lt (ctrField (n % 4)) c (n / 4)
  rwa [ctrField_width] at h

/-- What the subtraction changes: with CONSUME the WAIT's counter, and the core's note of it. -/
structure Takes (s t : State) (c : Nat) (w : Begun) : Prop where
  rest : t = { s with regs := t.regs, cores := t.cores }
  ctr : t.ctr c (waitCtr w.cmd) = s.ctr c (waitCtr w.cmd) - (if waitConsume w.cmd then waitValue w.cmd else 0)
  ctrs : ∀ n, n ≠ waitCtr w.cmd → t.ctr c n = s.ctr c n
  regs : ∀ k, k.reg ≠ .SU_CTR → t.rd k = s.rd k
  same : ∃ l, t.core c = { s.core c with subs := l }
  others : ∀ d, d ≠ c → t.core d = s.core d

theorem State.waitTake_takes (s : State) (c : Nat) (w : Begun) : Takes s (s.waitTake c w) c w := by
  unfold State.waitTake
  split
  · next hconsume =>
    refine ⟨rfl, ?_, fun n hn => ?_, fun k hk => ?_, ⟨_, State.modCore_same ..⟩, fun d hd => State.modCore_other _ _ hd⟩
    · have hlt := s.ctr_lt c (waitCtr w.cmd)
      refine (State.ctr_setCtr_same s c (waitCtr w.cmd) _).trans ?_
      rw [if_pos hconsume]
      exact Nat.mod_eq_of_lt (by omega)
    · exact State.ctr_setCtr_other s c _ hn
    · exact State.rd_setCtr s c _ _ hk
  · next hconsume => exact ⟨rfl, by rw [if_neg hconsume, Nat.sub_zero], fun _ _ => rfl, fun _ _ => rfl, ⟨_, rfl⟩, fun _ _ => rfl⟩

theorem Takes.streamWins {t : State} {w : Begun} (h : Takes s t c w) (ctr : Nat) : t.streamWins c ctr = s.streamWins c ctr := by
  have hget (f : Field) (hf : f.reg = .DM_STRM_CFG) (i : Nat) : t.get f c i = s.get f c i :=
    congrArg f.of (h.regs ⟨f.reg, c, i⟩ (fun h => absurd (hf.symm.trans h) (by decide)))
  unfold State.streamWins
  simp only [hget F.DM_STRM_CFG_EN rfl, hget F.DM_STRM_CFG_CTR rfl]

theorem State.waitEnd_streamWins (s : State) (c d t ctr : Nat) (e : Eng) : (s.waitEnd c e t).streamWins d ctr = s.streamWins d ctr := rfl

/-- WAIT_RELEASE in an ACLK in which the condition holds, not after the expiry. -/
theorem waitRelease_releases {w : Begun} (hrun : s.running c = true) (hheld : s.waitHeld c e = some w) (hbegun : w.at_ ≤ s.now)
    (hcond : waitCond w.cmd (s.waitValueNow c (waitCtr w.cmd)) = true) (hlimit : waitLimit w.cmd = 0 ∨ s.now ≤ w.at_ + 1024 * waitLimit w.cmd)
    (hwins : s.streamWins c (waitCtr w.cmd) = [])
    (htake : waitConsume w.cmd = true → waitValue w.cmd ≤ s.ctr c (waitCtr w.cmd) ∧ s.waitsBefore c e (waitCtr w.cmd) = false) :
    exec (.waitRelease c e) s = .next ((((s.waitTake c w).waitEnd c e (s.now + 3)).lateEnd c (waitCtr w.cmd) s.now).completeAt c e w.q 0 (s.now + 3)) := by
  have hat : s.at_ (max s.now w.at_) = s := s.at_of_le _ (by omega)
  have hlate : (decide (0 < waitLimit w.cmd) && decide (w.at_ + 1024 * waitLimit w.cmd < s.now)) = false := by
    rw [← Bool.not_eq_true, Bool.and_eq_true, decide_eq_true_eq, decide_eq_true_eq]
    omega
  have hnone (n : Nat) : (s.waitTake c w).consume c (waitCtr w.cmd) n = s.waitTake c w := by
    unfold State.consume
    rw [(s.waitTake_takes c w).streamWins, hwins, List.foldl_nil]
  change execWaitRelease c e s = _
  unfold execWaitRelease
  simp only [hheld, hat, hrun, hcond, hlate, Bool.not_true, Bool.or_false, Bool.false_or]
  by_cases hconsume : waitConsume w.cmd = true
  · obtain ⟨hle, hfirst⟩ := htake hconsume
    have hsub : s.ctrSub c (waitCtr w.cmd) (waitValue w.cmd) (Cmd.id w.cmd)
        = (s.setCtr c (waitCtr w.cmd) (s.ctr c (waitCtr w.cmd) - waitValue w.cmd), false) := by
      unfold State.ctrSub
      rw [if_pos hle]
    rw [← hnone (waitValue w.cmd)]
    unfold State.waitTake
    simp only [hconsume, hfirst, if_true, Bool.and_false, Bool.or_false, decide_eq_false (Nat.not_lt.mpr hle), Bool.false_eq_true, if_false, hsub]
  · rw [← hnone 0]
    unfold State.waitTake
    simp only [hconsume, Bool.false_and, Bool.or_false, Nat.not_lt_zero, decide_false, Bool.false_eq_true, if_false]

/-- What the release leaves. -/
theorem waitRelease_state {w : Begun} (hwins : s.streamWins c (waitCtr w.cmd) = []) :
    let t := (((s.waitTake c w).waitEnd c e (s.now + 3)).lateEnd c (waitCtr w.cmd) s.now).completeAt c e w.q 0 (s.now + 3)
    t.now = s.now ∧ ((t.core c).eng e).hold = none ∧
      ((t.core c).eng e).lastEntry = s.now + 2 ∧ ((t.core c).eng e).head = ((s.core c).eng e).head ∧
      (t.core c).dueCpl = (s.core c).dueCpl ++ [⟨s.now + 3, e.code, ⟨w.cmd, w.cell, w.ord, 0⟩, 0, 0⟩] ∧
      t.ctr c (waitCtr w.cmd) = s.ctr c (waitCtr w.cmd) - (if waitConsume w.cmd then waitValue w.cmd else 0) ∧
      (∀ n, n < 32 → n ≠ waitCtr w.cmd → t.ctr c n = s.ctr c n) ∧
      (∀ k, k.reg ≠ .SU_CTR → t.rd k = s.rd k) ∧ (t.core c).cpl = (s.core c).cpl ∧ t.mem = s.mem ∧ t.out = s.out ∧
      (∀ d, d ≠ c → t.core d = s.core d) := by
  have htakes := s.waitTake_takes c w
  have hleft : ((s.waitTake c w).waitEnd c e (s.now + 3)).streamWins c (waitCtr w.cmd) = [] := by
    rw [State.waitEnd_streamWins, htakes.streamWins, hwins]
  obtain ⟨hrest, ⟨l, hsame⟩, hothers⟩ := State.lateEnd_noWindows (t := s.now) hleft
  obtain ⟨hsrest, hctr, hctrs, hregs, ⟨subs, hsubs⟩, htothers⟩ := htakes
  generalize State.lateEnd _ _ _ _ = u at hrest hsame hothers ⊢
  have hget (f : Field) (i j : Nat) : (u.completeAt c e w.q 0 (s.now + 3)).get f i j = (s.waitTake c w).get f i j := by
    rw [hrest]
    rfl
  have hcore : u.core c = { ({ s.core c with subs := subs } : CoreSt).setEng e
      { (s.core c).eng e with hold := none, lastEntry := s.now + 2 } with lateAt := l } := by
    rw [hsame]
    unfold State.waitEnd
    rw [State.modCore_same, hsubs]
    cases e <;> rfl
  have heng : ((u.completeAt c e w.q 0 (s.now + 3)).core c).eng e = { (s.core c).eng e with hold := none, lastEntry := s.now + 2 } := by
    unfold State.completeAt
    rw [State.modCore_same, hcore]
    cases e <;> rfl
  refine ⟨?_, by rw [heng], by rw [heng], by rw [heng], ?_, (hget _ _ _).trans hctr, fun n _ hn => (hget _ _ _).trans (hctrs n hn), fun k hk => ?_,
    ?_, ?_, ?_, fun d hd => ?_⟩
  · rw [hrest, hsrest]
    rfl
  · unfold State.completeAt
    rw [State.modCore_same, hcore]
    simp only [CoreSt.setEng_dueCpl]
    rfl
  · rw [hrest]
    exact hregs k hk
  · unfold State.completeAt
    rw [State.modCore_same, hcore]
    simp only [CoreSt.setEng_cpl]
  · rw [hrest, hsrest]
    rfl
  · rw [hrest, hsrest]
    rfl
  · exact (State.modCore_other _ _ hd).trans ((hothers d hd).trans ((State.modCore_other _ _ hd).trans (htothers d hd)))

/-- WAIT_RELEASE has no effect in an ACLK in which the condition does not hold. -/
theorem waitRelease_waits {w : Begun} (hheld : s.waitHeld c e = some w) (hbegun : w.at_ ≤ s.now)
    (hcond : waitCond w.cmd (s.waitValueNow c (waitCtr w.cmd)) = false) : exec (.waitRelease c e) s = .next s := by
  have hat : s.at_ (max s.now w.at_) = s := s.at_of_le _ (by omega)
  change execWaitRelease c e s = _
  unfold execWaitRelease
  simp only [hheld, hat, hcond, Bool.not_false, Bool.or_true, Bool.true_or, if_true]

/-! ### The timeout (R157) -/

/-- WAIT_TIMEOUT without the condition by the expiry: `u` is the state in the ACLK after it. -/
theorem waitTimeout_aborts {u : State} {w : Begun} (hheld : s.waitHeld c e = some w) (hlimit : waitLimit w.cmd ≠ 0)
    (hu : u = s.at_ (w.at_ + 1024 * waitLimit w.cmd + 1)) (hrun : u.running c = true)
    (hcond : waitCond w.cmd (u.waitValueNow c (waitCtr w.cmd)) = false) (hdone : Cmd.doneEn w.cmd = false) :
    ∃ t, exec (.waitTimeout c e) s = .next t ∧ t.now = u.now ∧ ((t.core c).eng e).hold = none ∧ t.get F.CC_TASK_STATUS_ABORTED c = 1 ∧
      (u.get F.CC_TASK_STATUS_ABORTED c = 0 → t.get F.CC_TASK_STATUS_CAUSE c = 6) ∧
      (∀ n, n < 32 → t.ctr c n = u.ctr c n) ∧ t.mem = u.mem ∧ (∀ d, d ≠ c → t.core d = u.core d) := by
  let end_ := w.at_ + 1024 * waitLimit w.cmd + 1
  have hexec : exec (.waitTimeout c e) s = .next (((u.waitEnd c e end_).lateEnd c (waitCtr w.cmd) end_).complete c e w.q 8 0) := by
    change execWaitTimeout c e s = _
    unfold execWaitTimeout
    simp only [hheld, ← hu, hrun, hcond, decide_eq_false hlimit, Bool.not_true, Bool.or_self, Bool.false_and, Bool.false_eq_true, if_false]
    rfl
  have hlate := State.lateEnd_keeps (u.waitEnd c e end_) c (waitCtr w.cmd) end_
  have hregs := State.lateEnd_regs (u.waitEnd c e end_) c (waitCtr w.cmd) end_
  generalize State.lateEnd _ _ _ _ = v at hexec hlate hregs
  have hlocal := v.complete_local c e w.q 8 0
  have habort : abortCause 8 = some 6 := rfl
  refine ⟨_, hexec, hlocal.now.trans hlate.rest.now, ?_, State.complete_raised _ _ _ _ _ habort, fun hfirst => ?_, fun n _ => ?_,
    hlocal.mem.trans hlate.rest.mem, fun d hd => ?_⟩
  · rw [State.complete_hold, hlate.eng]
    unfold State.waitEnd
    rw [State.modCore_same, CoreSt.eng_setEng_same]
  · exact (State.complete_aborts v c e (q := w.q) 0 hdone habort ((hregs.get _ _ (by decide) rfl).trans hfirst)).2
  · have hcpl : RegFrame [.CC_IRQ, .CC_TASK_STATUS, .CC_CMD_LOG, .CC_STATE] v (v.complete c e w.q 8 0) := .complete v c e 8 0 hdone (fun _ h => h)
    exact (hcpl.get_ctr c n (by decide)).trans (hregs.get_ctr c n (by decide))
  · exact ((CplFrame.complete v c e w.q 8 0).others d hd).trans ((hlate.others d hd).trans (State.modCore_other _ _ hd))

end

/-- Settles O11: the begin by `wait_begins`, the release by `waitRelease_releases` and `waitRelease_state`, the timeout by
`waitTimeout_aborts`. -/
theorem waitLifecycle : Obligations.WaitLifecycle := by
  unfold Obligations.WaitLifecycle
  refine ⟨fun s c e p q hr => ⟨wait_holds hr, fun hbad => ?_⟩, fun s c e w hrun hheld hbegun hcond hlimit hwins htake => ?_,
    fun s u c e w hheld hlimit hu hrun hcond hdone => waitTimeout_aborts hheld hlimit hu hrun hcond hdone,
    fun s c e w hheld hbegun hcond => waitRelease_waits hheld hbegun hcond⟩
  · rw [wait_begins hr, waitIllegal_of hbad]
    rfl
  · exact ⟨_, waitRelease_releases hrun hheld hbegun hcond hlimit hwins htake, waitRelease_state hwins⟩

end Sys2Proof.Machine
end

section
/-! PROOFS. Traps and interrupts of a control core (R137 to R139, R150). -/

namespace Sys2Proof.Machine

open Sys2Proof

/-! ### The abort that a trap raises (R158, R166) -/

theorem CoreSt.x_kept : AbortKeeps CoreSt.x := ⟨fun _ _ _ => rfl, fun _ _ _ => rfl⟩
theorem CoreSt.pc_kept : AbortKeeps CoreSt.pc := ⟨fun _ _ _ => rfl, fun _ _ _ => rfl⟩
theorem CoreSt.cs_kept : AbortKeeps CoreSt.cs := ⟨fun _ _ _ => rfl, fun _ _ _ => rfl⟩

section
variable {s : State} {c : Nat}

/-- The state in which the first abort of a task halts its CC (R158). -/
def State.abortState (s : State) (c cause : Nat) : State :=
  let u := (s.set F.CC_TASK_STATUS_ABORTED c 1).set F.CC_TASK_STATUS_CAUSE c cause
  if u.get F.CC_STATE_STATE c = 4 then u else u.ccState c 0

theorem State.raiseAbort_eq (cause : Nat) (h : s.get F.CC_TASK_STATUS_ABORTED c = 0) :
    s.raiseAbort c cause = (s.abortState c cause).modCore c (fun x =>
      CoreSt.halt { x with abort := some cause, push := none } (s.abortState c cause).now) := by
  unfold State.raiseAbort
  rw [if_neg (by omega)]
  rfl

/-- The first abort of a task stops its CC. -/
theorem State.raiseAbort_halts (cause : Nat) (h : s.get F.CC_TASK_STATUS_ABORTED c = 0) :
    ((s.raiseAbort c cause).core c).abort = some cause ∧ ((s.raiseAbort c cause).core c).push = none := by
  rw [State.raiseAbort_eq cause h, State.modCore_same]
  exact ⟨rfl, rfl⟩

/-- … and shows it halted, unless it waits for the loader. -/
theorem State.raiseAbort_state (cause : Nat) (h : s.get F.CC_TASK_STATUS_ABORTED c = 0) (hstate : s.get F.CC_STATE_STATE c ≠ 4) :
    (s.raiseAbort c cause).get F.CC_STATE_STATE c = 0 := by
  rw [State.raiseAbort_eq cause h, State.modCore_get]
  unfold State.abortState
  dsimp only
  rw [State.get_set_reg _ _ _ _ _ _ _ _ (by decide), State.get_set_reg _ _ _ _ _ _ _ _ (by decide), if_neg hstate]
  unfold State.ccState
  rw [State.get_set_same _ _ _ _ _ (by decide)]
  rfl

/-! ### The trap (R137) -/

/-- CC_TRAP as a synchronous exception leaves it. -/
def State.trapNoted (s : State) (c cause : Nat) : State :=
  ((s.set F.CC_TRAP_EPC c (s.core c).pc).set F.CC_TRAP_VALID c 1).set F.CC_TRAP_CAUSE c cause

theorem State.trap_eq {cause : Nat} (h : ¬ (cause = 3 ∧ (s.core c).debug = true)) : s.trap c cause = (s.trapNoted c cause).raiseAbort c 1 := by
  unfold State.trap
  rw [if_neg h]
  rfl

theorem State.trapNoted_fields {cause : Nat} (hcause : cause < 256) (hpc : (s.core c).pc < 0x10000) :
    (s.trapNoted c cause).get F.CC_TRAP_VALID c = 1 ∧ (s.trapNoted c cause).get F.CC_TRAP_CAUSE c = cause ∧
      (s.trapNoted c cause).get F.CC_TRAP_EPC c = (s.core c).pc ∧ (s.trapNoted c cause).get F.CC_TRAP_ECC_CORR c = s.get F.CC_TRAP_ECC_CORR c := by
  unfold State.trapNoted
  refine ⟨?_, ?_, ?_, ?_⟩
  · rw [State.get_set_apart _ _ _ _ _ _ (by decide) (by decide) (by decide), State.get_set_same _ _ _ _ _ (by decide)]
    rfl
  · rw [State.get_set_same _ _ _ _ _ (by decide)]
    exact Nat.mod_eq_of_lt hcause
  · rw [State.get_set_apart _ _ _ _ _ _ (by decide) (by decide) (by decide), State.get_set_apart _ _ _ _ _ _ (by decide) (by decide) (by decide),
      State.get_set_same _ _ _ _ _ (by decide)]
    exact Nat.mod_eq_of_lt hpc
  · rw [State.get_set_apart _ _ _ _ _ _ (by decide) (by decide) (by decide), State.get_set_apart _ _ _ _ _ _ (by decide) (by decide) (by decide),
      State.get_set_apart _ _ _ _ _ _ (by decide) (by decide) (by decide)]

/-- Noting a trap writes CC_TRAP alone. -/
theorem State.trapNoted_get (s : State) (c cause : Nat) {f : Field} (i j : Nat) (h : f.reg ≠ .CC_TRAP) :
    (s.trapNoted c cause).get f i j = s.get f i j := by
  unfold State.trapNoted
  rw [State.get_set_reg _ _ _ _ _ _ _ _ h, State.get_set_reg _ _ _ _ _ _ _ _ h, State.get_set_reg _ _ _ _ _ _ _ _ h]

/-- A synchronous exception records itself, halts the CC and aborts the task. -/
theorem State.trap_aborts {cause : Nat} (hdebug : ¬ (cause = 3 ∧ (s.core c).debug = true)) (hcause : cause < 256) (hpc : (s.core c).pc < 0x10000) :
    let t := s.trap c cause
    t.get F.CC_TRAP_VALID c = 1 ∧ t.get F.CC_TRAP_CAUSE c = cause ∧ t.get F.CC_TRAP_EPC c = (s.core c).pc ∧
    t.get F.CC_TRAP_ECC_CORR c = s.get F.CC_TRAP_ECC_CORR c ∧ t.get F.CC_TASK_STATUS_ABORTED c = 1 ∧
    (s.get F.CC_TASK_STATUS_ABORTED c = 0 → t.get F.CC_TASK_STATUS_CAUSE c = 1 ∧ (t.core c).abort = some 1 ∧ (t.core c).push = none ∧
      (s.get F.CC_STATE_STATE c ≠ 4 → t.get F.CC_STATE_STATE c = 0)) ∧
    (s.get F.CC_TASK_STATUS_ABORTED c = 1 → t.get F.CC_TASK_STATUS_CAUSE c = s.get F.CC_TASK_STATUS_CAUSE c) ∧
    t.mem = s.mem ∧ t.elog = s.elog ∧ (t.core c).x = (s.core c).x ∧ (t.core c).pc = (s.core c).pc ∧ (∀ d, d ≠ c → t.core d = s.core d) := by
  have hkeep {f : Field} (hf : f.reg ≠ .CC_TRAP) : (s.trapNoted c cause).get f c = s.get f c := State.trapNoted_get s c cause c 0 hf
  have hcore (d : Nat) : (s.trapNoted c cause).core d = s.core d := rfl
  have hmem : (s.trapNoted c cause).mem = s.mem := rfl
  have helog : (s.trapNoted c cause).elog = s.elog := rfl
  obtain ⟨hvalid, hc, hepc, hcorr⟩ := State.trapNoted_fields hcause hpc
  rw [State.trap_eq hdebug]
  generalize s.trapNoted c cause = u at hkeep hcore hmem helog hvalid hc hepc hcorr
  have hregs : RegFrame [.CC_TASK_STATUS, .CC_STATE] u (u.raiseAbort c 1) := .raiseAbort _ _ _ (by decide) (by decide)
  have htrap {f : Field} (hf : f.reg = .CC_TRAP) : (u.raiseAbort c 1).get f c = u.get f c :=
    hregs.get _ _ (by rw [hf]; decide) (by rw [hf]; rfl)
  have hlocal := u.raiseAbort_local c 1
  refine ⟨(htrap rfl).trans hvalid, (htrap rfl).trans hc, (htrap rfl).trans hepc, (htrap rfl).trans hcorr, State.raiseAbort_raised .., fun hfirst => ?_,
    fun hagain => ?_, hlocal.mem.trans hmem, ?_, ?_, ?_, fun d hd => ((CplFrame.raiseAbort u c 1).others d hd).trans (hcore d)⟩
  · have hfirst := (hkeep (f := F.CC_TASK_STATUS_ABORTED) (by decide)).trans hfirst
    obtain ⟨habort, hpush⟩ := State.raiseAbort_halts 1 hfirst
    exact ⟨(u.raiseAbort_first c 1 hfirst).2, habort, hpush, fun hstate => State.raiseAbort_state 1 hfirst (by rwa [hkeep (by decide)])⟩
  · rw [State.raiseAbort_again _ _ _ ((hkeep (by decide)).trans hagain), hkeep (by decide)]
  · rw [hlocal, helog]
  · exact (CoreSt.x_kept.raiseAbort u c 1).trans (congrArg CoreSt.x (hcore c))
  · exact (CoreSt.pc_kept.raiseAbort u c 1).trans (congrArg CoreSt.pc (hcore c))

/-- A mismatch of the duplicated address adders at a CMD.LDT (R139). -/
theorem cmdLdt_mismatch {w : Nat} (hat : s.customAt c 0 = some w) :
    ∃ t, exec (.cmdLdt c .addrMismatch) s = .next t ∧ t = (s.raiseAbort c 2).logHw 2 .CC 0 c (leBytes 8 (s.core c).pc) ∧
      (t.core c).pc = (s.core c).pc ∧ (t.core c).cs = (s.core c).cs := by
  have hexec : exec (.cmdLdt c .addrMismatch) s = .next (s.addrMismatch c) := by
    change execCmdLdt c .addrMismatch s = _
    unfold execCmdLdt
    rw [hat]
    rfl
  have hlog := (s.raiseAbort c 2).logHw_quiet 2 .CC 0 c (leBytes 8 (s.core c).pc)
  refine ⟨_, hexec, rfl, ?_, ?_⟩
  · exact (congrArg CoreSt.pc (hlog.core c)).trans (CoreSt.pc_kept.raiseAbort s c 2)
  · exact (congrArg CoreSt.cs (hlog.core c)).trans (CoreSt.cs_kept.raiseAbort s c 2)

/-! ### The external interrupt (R138, R150) -/

/-- The CC that takes the interrupt, with its handler's address. -/
def CoreSt.interrupted (x : CoreSt) : CoreSt :=
  { x with push := none, ccSince := none, mepc := BitVec.ofNat 64 x.pc, mcause := 0x800000000000000B, mtval := 0, mstatus := mMPIE,
           pc := ((x.mtvec &&& ~~~3) + (if x.mtvec &&& 3 = 1 then 44 else 0)).toNat }

/-- The vats when a core's push no longer waits. -/
def State.unpush (s : State) (c : Nat) : State :=
  s.setVat (cluInst c) { s.vat (cluInst c) with waiting := (s.vat (cluInst c)).waiting.filter (· ≠ c) }

/-- A direct vector: the handler stands at mtvec. -/
theorem mtvec_direct {v : Word} (h : v &&& 3 = 0) : (v &&& ~~~3) + (if v &&& 3 = 1 then 44 else 0) = v := by
  have hsplit : v &&& ~~~3 = v := by
    have hall : v = (v &&& ~~~3) ||| (v &&& 3) := by
      rw [← BitVec.and_or_distrib_left]
      exact (BitVec.and_allOnes ..).symm
    rw [h] at hall
    exact (hall.trans (BitVec.or_zero ..)).symm
  rw [h, hsplit]
  simp

theorem ccInterrupt_enters (hrun : s.running c = true) (hlo : 1 ≤ s.get F.CC_STATE_STATE c) (hhi : s.get F.CC_STATE_STATE c ≤ 3)
    (hpush : (s.core c).push = none ∨ s.get F.CC_STATE_STATE c = 2) (hirq : s.irqPending c = true)
    (hmie : (s.core c).mstatus &&& mMIE ≠ 0) (hmeie : (s.core c).mie &&& mMEIE ≠ 0) :
    exec (.ccInterrupt c) s =
      .next ((if s.get F.CC_STATE_STATE c = 1 then s.unpush c else (s.unpush c).ccState c 1).modCore c CoreSt.interrupted) := by
  have hbusy : ((s.core c).push.isSome && decide (s.get F.CC_STATE_STATE c ≠ 2)) = false := by
    obtain hnone | hstall := hpush
    · rw [hnone]
      rfl
    · rw [hstall]
      exact Bool.and_false _
  change execCcInterrupt c s = _
  unfold execCcInterrupt
  simp only [hrun, hbusy, hlo, hhi, hirq, decide_eq_false hmie, decide_eq_false hmeie, decide_true, Bool.not_true, Bool.and_self, Bool.or_self,
    Bool.false_eq_true, if_false]
  rfl

/-- With either enable clear nothing happens. -/
theorem ccInterrupt_masked (h : (s.core c).mstatus &&& mMIE = 0 ∨ (s.core c).mie &&& mMEIE = 0) : exec (.ccInterrupt c) s = .next s := by
  change execCcInterrupt c s = _
  unfold execCcInterrupt
  obtain hmie | hmeie := h
  · simp only [hmie, decide_true, Bool.or_true, Bool.true_or, if_true]
  · simp only [hmeie, decide_true, Bool.or_true, if_true]

/-- What the interrupt's entry leaves. -/
theorem ccInterrupt_state (u : State) {n at_ : Nat} (hcore : u.core c = { s.core c with wdLeft := n, wdAt := at_ }) :
    let t := u.modCore c CoreSt.interrupted
    (t.core c).mepc = BitVec.ofNat 64 (s.core c).pc ∧ (t.core c).mcause = 0x800000000000000B ∧
    (t.core c).mstatus &&& mMIE = 0 ∧ (t.core c).mstatus &&& mMPIE = mMPIE ∧
    ((s.core c).mtvec &&& 3 = 0 → (t.core c).pc = (s.core c).mtvec.toNat) ∧ (t.core c).push = none ∧
    (t.core c).x = (s.core c).x ∧ (t.core c).minstret = (s.core c).minstret := by
  simp only [State.modCore_same]
  rw [hcore]
  exact ⟨rfl, rfl, show mMPIE &&& mMIE = 0 by decide, show mMPIE &&& mMPIE = mMPIE by decide, fun h => congrArg BitVec.toNat (mtvec_direct h), rfl, rfl, rfl⟩

end

/-- Settles O6: traps by `State.trap_aborts`, the address mismatch by `cmdLdt_mismatch`, the interrupt by `ccInterrupt_enters` and
`ccInterrupt_state`. -/
theorem trapsAndInterrupts : Obligations.TrapsAndInterrupts := by
  unfold Obligations.TrapsAndInterrupts
  refine ⟨⟨fun s c cause hdebug hcause hpc => State.trap_aborts hdebug hcause hpc, fun s c hdebug => if_pos ⟨rfl, hdebug⟩,
    fun s c w hready hfetch hop => cmdLdt_mismatch (State.customAt_some hready hfetch hop)⟩,
    fun s c hrun hlo hhi hpush hirq hmie hmeie => ?_, fun s c h => ccInterrupt_masked h⟩
  rw [ccInterrupt_enters hrun hlo hhi hpush hirq hmie hmeie]
  have hwaiting : c ∉ ((s.unpush c).vat (cluInst c)).waiting := by
    unfold State.unpush
    rw [State.setVat_same]
    simp
  by_cases hstate : s.get F.CC_STATE_STATE c = 1
  · rw [if_pos hstate]
    obtain ⟨hmepc, hmcause, hoff, hmpie, hpc, hnone, hx, hret⟩ := ccInterrupt_state (s := s) (c := c) (s.unpush c) rfl
    exact ⟨_, rfl, hmepc, hmcause, hoff, hmpie, hpc, hnone, hstate, hwaiting, hx, hret, fun d hd => State.modCore_other _ _ hd, fun _ _ => rfl, rfl, rfl⟩
  · rw [if_neg hstate]
    have hcore : ((s.unpush c).ccState c 1).core c = { s.core c with wdLeft := (s.unpush c).wdNow c, wdAt := s.now } := by
      unfold State.ccState
      simp only [State.set_core_read, State.modCore_same]
      rfl
    obtain ⟨hmepc, hmcause, hoff, hmpie, hpc, hnone, hx, hret⟩ := ccInterrupt_state _ hcore
    refine ⟨_, rfl, hmepc, hmcause, hoff, hmpie, hpc, hnone, ?_, hwaiting, hx, hret, fun d hd => ?_, fun k hk => ?_, rfl, rfl⟩
    · rw [State.modCore_get]
      unfold State.ccState
      rw [State.get_set_same _ _ _ _ _ (by decide)]
      rfl
    · exact (State.modCore_other _ _ hd).trans ((CplFrame.ccState _ c 1).others d hd)
    · rw [State.modCore_rd]
      unfold State.ccState
      rw [State.rd_set_other _ _ _ _ _ _ hk]
      rfl

end Sys2Proof.Machine
end

section
/-! PROOFS. Loads and stores of a control core in its own window (R135, R139, R215, R222, R225). -/

namespace Sys2Proof.Machine

open Sys2Proof

/-! ### Addresses and memory -/

theorem inRegs_eq_false {a : Nat} (h : a < 0x200000000000 ∨ 0x200040000000 ≤ a) : inRegs a = false := by
  rw [← Bool.not_eq_true]
  simp only [inRegs, Bool.and_eq_true, decide_eq_true_eq]
  omega

/-- A write of memory fetches nothing. -/
theorem State.writeMem_pending (s : State) (a : Nat) (bs : List Byte) : (s.writeMem a bs).pending = s.pending := by
  have hline (u : State) (b n : Nat) : (u.lineWrite b n).pending = u.pending := by
    unfold State.lineWrite
    split <;> rfl
  unfold State.writeMem
  dsimp only
  split
  · exact (hline ..).trans (s.injWrite_quiet ..).pending
  · split
    · exact (s.injWrite_quiet ..).pending
    · rfl

/-! ### The access at the banks -/

/-- A register that each step of a fold keeps, the fold keeps. -/
theorem rd_foldl {α : Type} {k : RKey} {g : State → α → State} (hg : ∀ u a, (g u a).rd k = u.rd k) (l : List α) (s : State) :
    (l.foldl g s).rd k = s.rd k := by
  induction l generalizing s with
  | nil => rfl
  | cons a l ih => exact (ih _).trans (hg s a)

theorem State.rd_flag_other (s : State) (f : Field) (i j : Nat) {k : RKey} (h : k ≠ ⟨f.reg, i, j⟩) : (s.flag f i j).rd k = s.rd k := by
  unfold State.flag
  exact State.rd_set_other s f i j 1 k h

/-- Of the registers of a core's scratchpad, an access served writes the event register alone (R219). -/
theorem State.windowTake_rd (s : State) (c : Nat) (m : BankMaster) (since : Nat) (rs : List (Nat × Nat)) {k : RKey} (hside : sideReg k.reg = false)
    (hk : k ≠ ⟨.SPD_EVT, c, 0⟩) : (s.windowTake c m since rs).rd k = s.rd k := by
  have haged (b : Bool) : (s.flagIf b F.SPD_EVT_AGED c).rd k = s.rd k := by
    cases b with
    | false => rfl
    | true => exact State.rd_flag_other s F.SPD_EVT_AGED c 0 hk
  have hpmon (u : State) (b : Blk) (unit ev sub n : Nat) : (u.pmon b unit ev sub n).rd k = u.rd k := (u.pmon_quiet b unit ev sub n).regs k hside
  have hacb (u : State) (off n : Nat) : (u.acbUse c off n).rd k = u.rd k := by
    unfold State.acbUse
    dsimp only
    split <;> rfl
  unfold State.windowTake
  dsimp only
  rw [rd_foldl (fun u r => by rw [hacb, rd_foldl (fun u b => by rw [hpmon, hpmon])]), haged]

/-- Without injected errors and failures of the access nothing is found in what it reads. -/
theorem State.winReads_clean {s : State} (h : s.inj = []) (c master : Nat) (rs : List (Nat × Nat)) (off : Nat) :
    s.winReads c master rs .ok off = (s, false, false) := by
  unfold State.winReads State.winLines
  simp [h]

/-- What an access of the CC in its window keeps until the instruction's own effect. -/
structure WindowTaken (s t : State) (c : Nat) : Prop where
  mem : t.mem = s.mem
  pending : t.pending = s.pending
  regs : ∀ k, sideReg k.reg = false → k ≠ ⟨.SPD_EVT, c, 0⟩ → t.rd k = s.rd k
  core : ∃ l, t.core c = { s.core c with acbPort := l, ccSince := none }
  others : ∀ d, d ≠ c → t.core d = s.core d

section
variable {s : State} {c : Nat}

/-- An access that its banks and ports serve in this ACLK. -/
theorem State.ccWindow_served {off n : Nat} (reads : List (Nat × Nat)) (f : State → State) (hinj : s.inj = [])
    (h : s.windowServes c .cc ((s.core c).ccSince.getD s.now) [(off, n)] = true) :
    ∃ t, WindowTaken s t c ∧ s.ccWindow c .ok off n reads f = f t := by
  have htaken := s.windowTake_taken c .cc ((s.core c).ccSince.getD s.now) [(off, n)]
  have hregs {k : RKey} := s.windowTake_rd c .cc ((s.core c).ccSince.getD s.now) [(off, n)] (k := k)
  unfold State.ccWindow
  simp only [h, Bool.not_true, Bool.false_eq_true, if_false]
  generalize s.windowTake c .cc ((s.core c).ccSince.getD s.now) [(off, n)] = u at htaken hregs
  have hclean : (u.modCore c (fun x => { x with ccSince := none })).inj = [] := htaken.inj.trans hinj
  refine ⟨u.modCore c (fun x => { x with ccSince := none }),
    ⟨htaken.mem, htaken.rest.pending, fun k hside hk => hregs hside hk, ⟨(u.core c).acbPort, ?_⟩, fun d hd => ?_⟩, ?_⟩
  · rw [State.modCore_same, htaken.core]
  · exact (State.modCore_other _ _ hd).trans (htaken.others d hd)
  · rw [State.winReads_clean hclean]
    rfl

/-- An access that is not served presents itself and waits. -/
theorem State.ccWindow_waits {off n : Nat} (hw : CcHw) (reads : List (Nat × Nat)) (f : State → State)
    (h : s.windowServes c .cc ((s.core c).ccSince.getD s.now) [(off, n)] = false) :
    s.ccWindow c hw off n reads f = s.modCore c (fun x => { x with ccSince := some (x.ccSince.getD s.now) }) := by
  unfold State.ccWindow
  simp only [h, Bool.not_false, if_true]
  rfl

/-! ### The instruction at the pc -/

/-- A running CC executes the 32-bit instruction at its pc. -/
theorem ccInstruction_word {w : Nat} (hready : s.ccReady c = true) (hstate : s.get F.CC_STATE_STATE c = 1) (hfetch : (s.core c).fetch = some (w, 4))
    (hcustom : w % 128 ≠ 0x0B) : exec (.ccInstruction c .ok) s = .next (s.ccExec c .ok w 4) := by
  have hwake : s.ccWake c = s := if_neg (fun h => absurd (hstate.symm.trans h.1) (by decide))
  have hop : customOp w = none := if_pos hcustom
  change execCcInstruction c .ok s = _
  unfold execCcInstruction
  simp only [hwake, hready, hfetch, hop, Bool.not_true, Bool.false_eq_true, if_false, and_false, Option.isSome_none]
  rfl

theorem State.ccExec_load {w : Nat} (hop : w % 128 = 0x03) (hf3 : iF3 w < 7) (hw : CcHw) (len : Nat) :
    s.ccExec c hw w len = s.ccLoad c hw ((s.core c).xreg (iRs1 w) + immI w).toNat (2 ^ (iF3 w % 4)) len (iRd w) (loadExt (iF3 w)) := by
  unfold State.ccExec
  simp only [hop]
  rw [if_neg (by omega)]

theorem State.ccExec_store {w : Nat} (hop : w % 128 = 0x23) (hf3 : iF3 w < 4) (hw : CcHw) (len : Nat) :
    s.ccExec c hw w len = s.ccStore c hw ((s.core c).xreg (iRs1 w) + immS w).toNat (2 ^ iF3 w) len ((s.core c).xreg (iRs2 w)) := by
  unfold State.ccExec
  simp only [hop]
  rw [if_neg (by omega)]

/-! ### Loads -/

/-- Where an access of the CC traps, loads (R135, R215). -/
theorem State.ccLoad_traps (len rd : Nat) (ext : Nat → Word) (a n : Nat) :
    (a % n ≠ 0 → s.ccLoad c .ok a n len rd ext = (if inRegs a then s.access (.cc c) else s).trap c 4) ∧
    (a % n = 0 → inWindow c a n = true → s.rangeOn c (a - winBase c) n = false →
      s.ccLoad c .ok a n len rd ext = (s.flag F.SPD_EVT_REFUSED c).trap c 5) ∧
    (a % n = 0 → inWindow c a n = false → (a < 0x200000000000 ∨ 0x200040000000 ≤ a) → s.ccLoad c .ok a n len rd ext = s.trap c 5) := by
  unfold State.ccLoad
  rw [if_neg (by decide)]
  refine ⟨fun hmis => ?_, fun halign hin hoff => ?_, fun halign hout hregs => ?_⟩
  · rw [if_pos hmis]
    rfl
  · simp only [halign, hin, hoff, ne_eq, not_true_eq_false, if_false, if_true, Bool.not_false]
  · simp only [halign, hout, inRegs_eq_false hregs, ne_eq, not_true_eq_false, Bool.false_eq_true, if_false]

/-- An aligned load in the window goes to the banks. -/
theorem State.ccLoad_window (len rd : Nat) (ext : Nat → Word) {a n : Nat} (halign : a % n = 0) (hin : inWindow c a n = true)
    (hon : s.rangeOn c (a - winBase c) n = true) :
    s.ccLoad c .ok a n len rd ext = s.ccWindow c .ok (a - winBase c) n [(a - winBase c, n)]
      (fun s => s.retire c len rd (ext (s.winNat c (a - winBase c) n))) := by
  unfold State.ccLoad
  rw [if_neg (by decide)]
  simp only [halign, hin, hon, ne_eq, not_true_eq_false, Bool.not_true, Bool.false_eq_true, if_false, if_true]

/-- The address of a byte of the window, from its offset. -/
theorem winBase_add {a n : Nat} (hin : inWindow c a n = true) : winBase c + (a - winBase c) = a := by
  simp only [inWindow, Bool.and_eq_true, decide_eq_true_eq] at hin
  omega

/-- A served load gives rd what memory holds. -/
theorem State.ccLoad_served {rd : Nat} {ext : Nat → Word} {a n : Nat} (hinj : s.inj = []) (halign : a % n = 0) (hin : inWindow c a n = true)
    (hon : s.rangeOn c (a - winBase c) n = true)
    (hserved : s.windowServes c .cc ((s.core c).ccSince.getD s.now) [(a - winBase c, n)] = true) :
    let t := s.ccLoad c .ok a n 4 rd ext
    (t.core c).x = ((s.core c).setX rd (ext (leNat (s.readMem a n)))).x ∧ (t.core c).pc = (s.core c).pc + 4 ∧
      (t.core c).minstret = (s.core c).minstret + 1 ∧ t.mem = s.mem ∧ (∀ d, d ≠ c → t.core d = s.core d) ∧
      (∀ k, sideReg k.reg = false → k ≠ ⟨.SPD_EVT, c, 0⟩ → t.rd k = s.rd k) ∧ t.pending = s.pending := by
  obtain ⟨u, hu, heq⟩ := State.ccWindow_served [(a - winBase c, n)]
    (fun s => s.retire c 4 rd (ext (s.winNat c (a - winBase c) n))) hinj hserved
  obtain ⟨l, hcore⟩ := hu.core
  have hval : u.winNat c (a - winBase c) n = leNat (s.readMem a n) := by
    rw [State.winNat_congr hu.mem]
    unfold State.winNat State.readWin
    rw [winBase_add hin]
  rw [State.ccLoad_window 4 rd ext halign hin hon, heq, hval]
  have hretired : (u.retire c 4 rd (ext (leNat (s.readMem a n)))).core c = { (u.core c).setX rd (ext (leNat (s.readMem a n))) with
      pc := (u.core c).pc + 4, minstret := (u.core c).minstret + 1 } := State.modCore_same ..
  refine ⟨?_, ?_, ?_, hu.mem, fun d hd => (State.modCore_other _ _ hd).trans (hu.others d hd), hu.regs, hu.pending⟩
  · rw [hretired, hcore]
    unfold CoreSt.setX
    split <;> rfl
  · rw [hretired, hcore]
  · rw [hretired, hcore]

/-! ### Stores -/

/-- Where an access of the CC traps, stores (R135, R215). -/
theorem State.ccStore_traps (len : Nat) (v : Word) (a n : Nat) :
    (a % n ≠ 0 → s.ccStore c .ok a n len v = (if inRegs a then s.access (.cc c) else s).trap c 6) ∧
    (a % n = 0 → inWindow c a n = true → s.rangeOn c (a - winBase c) n = false →
      s.ccStore c .ok a n len v = (s.flag F.SPD_EVT_REFUSED c).trap c 7) ∧
    (a % n = 0 → inWindow c a n = false → (a < 0x200000000000 ∨ 0x200040000000 ≤ a) → s.ccStore c .ok a n len v = s.trap c 7) := by
  unfold State.ccStore
  rw [if_neg (by decide)]
  refine ⟨fun hmis => ?_, fun halign hin hoff => ?_, fun halign hout hregs => ?_⟩
  · rw [if_pos hmis]
    rfl
  · simp only [halign, hin, hoff, ne_eq, not_true_eq_false, if_false, if_true, Bool.not_false]
  · simp only [halign, hout, inRegs_eq_false hregs, ne_eq, not_true_eq_false, Bool.false_eq_true, if_false]

/-- An aligned store in the window goes to the banks. -/
theorem State.ccStore_window (len : Nat) (v : Word) {a n : Nat} (halign : a % n = 0) (hin : inWindow c a n = true)
    (hon : s.rangeOn c (a - winBase c) n = true) :
    s.ccStore c .ok a n len v = s.ccWindow c .ok (a - winBase c) n (partWords (a - winBase c) n)
      (fun s => (s.writeWin c (a - winBase c) (leBytes n v.toNat)).retire c len 0 0) := by
  unfold State.ccStore
  rw [if_neg (by decide)]
  simp only [halign, hin, hon, ne_eq, not_true_eq_false, Bool.not_true, Bool.false_eq_true, if_false, if_true]

/-- A served store writes its bytes alone. -/
theorem State.ccStore_served {v : Word} {a n : Nat} (hinj : s.inj = []) (halign : a % n = 0) (hin : inWindow c a n = true)
    (hon : s.rangeOn c (a - winBase c) n = true)
    (hserved : s.windowServes c .cc ((s.core c).ccSince.getD s.now) [(a - winBase c, n)] = true) :
    let t := s.ccStore c .ok a n 4 v
    (∀ j, j < n → t.readByte (a + j) = (leBytes n v.toNat).getD j 0) ∧ (∀ j, j < a ∨ a + n ≤ j → t.readByte j = s.readByte j) ∧
      (t.core c).pc = (s.core c).pc + 4 ∧ (t.core c).x = (s.core c).x ∧ (∀ d, d ≠ c → t.core d = s.core d) ∧
      (∀ k, sideReg k.reg = false → k ≠ ⟨.SPD_EVT, c, 0⟩ → t.rd k = s.rd k) ∧ t.pending = s.pending := by
  obtain ⟨u, hu, heq⟩ := State.ccWindow_served (partWords (a - winBase c) n)
    (fun s => (s.writeWin c (a - winBase c) (leBytes n v.toNat)).retire c 4 0 0) hinj hserved
  obtain ⟨l, hcore⟩ := hu.core
  have hlen : (leBytes n v.toNat).length = n := leBytes_length ..
  have hread (j : Nat) : u.readByte j = s.readByte j := congrArg (getByte · j) hu.mem
  rw [State.ccStore_window 4 v halign hin hon, heq]
  unfold State.writeWin
  rw [winBase_add hin]
  have hretired : ((u.writeMem a (leBytes n v.toNat)).retire c 4 0 0).core c = { u.core c with
      pc := (u.core c).pc + 4, minstret := (u.core c).minstret + 1 } := by
    unfold State.retire
    rw [State.modCore_same, State.writeMem_core, CoreSt.setX_zero]
  refine ⟨fun j hj => ?_, fun j hj => ?_, ?_, ?_, fun d hd => ?_, fun k hside hk => ?_, ?_⟩
  · refine (congrArg (getByte · (a + j)) (State.writeMem_mem ..)).trans ?_
    exact getByte_putBytes_at _ _ _ (by rwa [hlen])
  · exact (State.readByte_writeMem_other u a _ j (by rwa [hlen])).trans (hread j)
  · rw [hretired, hcore]
  · rw [hretired, hcore]
  · exact (State.modCore_other _ _ hd).trans ((State.writeMem_core ..).trans (hu.others d hd))
  · exact ((u.writeMem_regs_cores a _).1 k hside).trans (hu.regs k hside hk)
  · exact (State.writeMem_pending ..).trans hu.pending

end

/-- Settles O8: loads by `State.ccLoad_served` and `State.ccLoad_traps`, stores by `State.ccStore_served` and `State.ccStore_traps`, waiting
accesses by `State.ccWindow_waits`. -/
theorem ccLoadsAndStores : Obligations.CcLoadsAndStores := by
  unfold Obligations.CcLoadsAndStores
  intro s c w hready hstate hfetch hinj
  refine ⟨fun hop hf3 => ?_, fun hop hf3 => ?_⟩
  · have hexec := (ccInstruction_word hready hstate hfetch (by omega)).trans (congrArg Host.Outcome.next (State.ccExec_load hop hf3 .ok 4))
    obtain ⟨hmis, hoff, hout⟩ := State.ccLoad_traps (s := s) (c := c) 4 (iRd w) (loadExt (iF3 w)) ((s.core c).xreg (iRs1 w) + immI w).toNat (2 ^ (iF3 w % 4))
    refine ⟨fun halign hin hon hserved => ⟨_, hexec, State.ccLoad_served hinj halign hin hon hserved⟩, fun halign hin hon hwaits => ?_, fun h => ?_,
      fun halign hin h => ?_, fun halign hin h => ?_⟩
    · rw [hexec, State.ccLoad_window _ _ _ halign hin hon, State.ccWindow_waits _ _ _ hwaits]
    · rw [hexec, hmis h]
    · rw [hexec, hoff halign hin h]
    · rw [hexec, hout halign hin h]
  · have hexec := (ccInstruction_word hready hstate hfetch (by omega)).trans (congrArg Host.Outcome.next (State.ccExec_store hop hf3 .ok 4))
    obtain ⟨hmis, hoff, hout⟩ := State.ccStore_traps (s := s) (c := c) 4 ((s.core c).xreg (iRs2 w)) ((s.core c).xreg (iRs1 w) + immS w).toNat (2 ^ iF3 w)
    refine ⟨fun halign hin hon hserved => ⟨_, hexec, State.ccStore_served hinj halign hin hon hserved⟩, fun halign hin hon hwaits => ?_, fun h => ?_,
      fun halign hin h => ?_, fun halign hin h => ?_⟩
    · rw [hexec, State.ccStore_window _ _ halign hin hon, State.ccWindow_waits _ _ _ hwaits]
    · rw [hexec, hmis h]
    · rw [hexec, hoff halign hin h]
    · rw [hexec, hout halign hin h]

end Sys2Proof.Machine
end

section
/-! PROOFS. The clock: the parts of an ACLK of a core act in their ACLK, and `at_` stops where it is told to. -/

namespace Sys2Proof.Machine

open Sys2Proof

/-! ### Folds -/

theorem State.foldl_now {α : Type} {g : State → α → State} (hg : ∀ u a, (g u a).now = u.now) (l : List α) (s : State) :
    (l.foldl g s).now = s.now := by
  induction l generalizing s with
  | nil => rfl
  | cons a l ih => exact (ih _).trans (hg s a)

/-- … with a result collected beside the state. -/
theorem State.foldl_fst_now {α β : Type} {g : State × β → α → State × β} (hg : ∀ p a, (g p a).1.now = p.1.now) (l : List α) (p : State × β) :
    (l.foldl g p).1.now = p.1.now := by
  induction l generalizing p with
  | nil => rfl
  | cons a l ih => exact (ih _).trans (hg p a)

/-- A step's answer, taken apart. -/
theorem State.now_of_pair {β : Type} {p : State × β} {u : State} {b : β} {n : Nat} (h : p = (u, b)) (hp : p.1.now = n) : u.now = n := by
  rw [h] at hp
  exact hp

/-! ### Records and error reports -/

theorem State.flagIf_now (s : State) (b : Bool) (f : Field) (i j : Nat) : (s.flagIf b f i j).now = s.now := (s.flagIf_local b f i j).now
theorem State.logHw_now (s : State) (cls : Nat) (b : Blk) (bit unit : Nat) (data : List Byte) : (s.logHw cls b bit unit data).now = s.now :=
  (s.logHw_quiet cls b bit unit data).now
theorem State.corrected_now (s : State) (b : Blk) (bit unit : Nat) : (s.corrected b bit unit).now = s.now := (s.corrected_quiet b bit unit).now
theorem State.propose_now (s : State) (p : Proposal) : (s.propose p).now = s.now := (s.propose_quiet p).now
theorem State.pmon_now (s : State) (b : Blk) (unit ev sub n : Nat) : (s.pmon b unit ev sub n).now = s.now := (s.pmon_quiet b unit ev sub n).now
theorem State.injWrite_now (s : State) (unit owner a n : Nat) : (s.injWrite unit owner a n).now = s.now := (s.injWrite_quiet unit owner a n).now
theorem State.raiseAbort_now (s : State) (c cause : Nat) : (s.raiseAbort c cause).now = s.now := (s.raiseAbort_local c cause).now
theorem State.ctrAdd_now (s : State) (c ctr n id : Nat) : (s.ctrAdd c ctr n id).1.now = s.now := (s.ctrAdd_local c ctr n id).now
theorem State.complete_now (s : State) (c : Nat) (e : Eng) (q : QCmd) (status iter : Nat) : (s.complete c e q status iter).now = s.now :=
  (s.complete_local c e q status iter).now
theorem State.cellBack_now (s : State) (c : Nat) (e : Eng) (q : QCmd) (t : Nat) : (s.cellBack c e q t).now = s.now := rfl
theorem State.windowTake_now (s : State) (c : Nat) (m : BankMaster) (since : Nat) (rs : List (Nat × Nat)) : (s.windowTake c m since rs).now = s.now :=
  (s.windowTake_taken c m since rs).now

theorem State.injStep_now (s : State) (o : Option Bool) {f : State → State} (hf : ∀ u, (f u).now = u.now) : (s.injStep o f).now = s.now := by
  unfold State.injStep
  split
  · exact hf s
  · exact (hf _).trans (State.flag_now ..)

theorem State.spdCorr_now (s : State) (c b : Nat) : (s.spdCorr c b).now = s.now := by
  have hcorr : (((s.flag F.SPD_EVT_ECC_CORR c).setSub F.SPD_ECC_CNT_CNT c b 8 (min (s.sub F.SPD_ECC_CNT_CNT c b 8 + 1) 0xFF)).corrected .SPD 1 c).now = s.now := by
    rw [State.corrected_now, State.setSub_now, State.flag_now]
  unfold State.spdCorr
  dsimp only
  split
  · rw [State.propose_now, hcorr]
  · exact hcorr

theorem State.spdLog_now (s : State) (c master kind off : Nat) : (s.spdLog c master kind off).now = s.now := by
  unfold State.spdLog
  split
  · rfl
  · exact State.wr_now ..

theorem State.spdFail_now (s : State) (c master kind off : Nat) : (s.spdFail c master kind off).now = s.now := by
  unfold State.spdFail
  rw [State.logHw_now, State.spdLog_now, State.flag_now]

theorem State.acbCorr_now (s : State) (c : Nat) : (s.acbCorr c).now = s.now := by
  unfold State.acbCorr
  rw [State.corrected_now, State.bump_now, State.flag_now]

theorem State.acbFail_now (s : State) (c : Nat) : (s.acbFail c).now = s.now := by
  unfold State.acbFail
  rw [State.logHw_now, State.flag_now]

theorem State.trfCorr_now (s : State) (c : Nat) : (s.trfCorr c).now = s.now := by
  unfold State.trfCorr
  rw [State.corrected_now, State.flag_now]


theorem State.trfLog_now (s : State) (c deckle kind unit tile early : Nat) : (s.trfLog c deckle kind unit tile early).now = s.now := by
  unfold State.trfLog
  dsimp only
  split
  · rfl
  · exact State.wr_now ..

theorem State.trfFail_now (s : State) (c deckle unit tile : Nat) : (s.trfFail c deckle unit tile).now = s.now := by
  unfold State.trfFail
  rw [State.logHw_now, State.trfLog_now, State.flag_now]

theorem State.tileRefuse_now (s : State) (c tile deckle unit : Nat) (k : TileCheck) : (s.tileRefuse c tile deckle unit k).now = s.now := by
  unfold State.tileRefuse
  dsimp only
  rw [State.trfLog_now]
  split <;> split <;> simp only [State.bump_now, State.flag_now]

theorem State.winCorr_now (s : State) (c off : Nat) : (s.winCorr c off).now = s.now := by
  unfold State.winCorr
  split
  · exact State.spdCorr_now ..
  · exact State.acbCorr_now ..

theorem State.winFail_now (s : State) (c master off : Nat) : (s.winFail c master off).now = s.now := by
  unfold State.winFail
  split
  · exact State.spdFail_now ..
  · exact State.acbFail_now ..

/-! ### Memory -/

theorem State.lineWrite_now (s : State) (a n : Nat) : (s.lineWrite a n).now = s.now := by
  unfold State.lineWrite
  split <;> rfl

theorem State.writeMem_now (s : State) (a : Nat) (bs : List Byte) : (s.writeMem a bs).now = s.now := by
  unfold State.writeMem
  dsimp only
  split
  · exact (State.lineWrite_now ..).trans (State.injWrite_now ..)
  · split
    · exact State.injWrite_now ..
    · rfl

theorem State.writeWin_now (s : State) (c off : Nat) (bs : List Byte) : (s.writeWin c off bs).now = s.now := State.writeMem_now ..

theorem State.winReads_now (s : State) (c master : Nat) (rs : List (Nat × Nat)) (hw : MemHw) (off : Nat) :
    (s.winReads c master rs hw off).1.now = s.now := by
  have hlines (l : List (Nat × Bool)) (u : State) :
      (l.foldl (fun s l => s.injStep (some l.2) (fun s => if l.2 then s.winFail c master l.1 else s.winCorr c l.1)) u).now = u.now := by
    refine State.foldl_now (fun u l => State.injStep_now _ _ (fun v => ?_)) l u
    split
    · exact State.winFail_now ..
    · exact State.winCorr_now ..
  unfold State.winReads
  dsimp only
  split
  · exact hlines ..
  · exact (State.winCorr_now ..).trans (hlines ..)
  · exact (State.winFail_now ..).trans (hlines ..)

/-! ### The data mover's part -/

theorem State.dmRead_now (s : State) (c : Nat) (rs : List (Nat × Nat)) (hw : MemHw) : (s.dmRead c rs hw).1.now = s.now := State.winReads_now ..
theorem State.dmSettle_now (s : State) (c : Nat) : (s.dmSettle c).now = s.now := (CplFrame.dmSettle s c).rest.now
theorem State.dmRefuseBank_now (s : State) (c : Nat) (rs : List (Int × Nat)) : (s.dmRefuseBank c rs).now = s.now := State.flagIf_now ..

theorem State.gatherOne_now (s : State) (c : Nat) (d : DmCmd) : (s.gatherOne c d).now = s.now := by
  unfold State.gatherOne
  dsimp only
  split
  · exact State.dmRefuseBank_now ..
  · have hread := s.dmRead_now c ((tcRanges d.q.cmd d.gather).map (fun r => (r.1.toNat, r.2))) (dmHwAt d.ecc d.gather)
    split
    · exact hread
    · split
      · exact hread
      · exact hread

theorem State.gatherMore_now (n : Nat) (s : State) (c : Nat) : (s.gatherMore c n).now = s.now := by
  induction n generalizing s with
  | zero => rfl
  | succ n ih =>
    unfold State.gatherMore
    split
    · rfl
    · split
      · dsimp only
        split
        · rw [ih, State.gatherOne_now]
          split
          · rfl
          · exact State.windowTake_now ..
        · rfl
      · rfl

theorem State.storeHw_now (s : State) (c : Nat) (k : StoreFly) (buffered : Bool) : (s.storeHw c k buffered).1.now = s.now := by
  unfold State.storeHw
  dsimp only
  split
  · rfl
  · exact State.injStep_now _ _ (fun u => u.trfCorr_now c)
  · exact State.injStep_now _ _ (fun _ => State.trfFail_now ..)

theorem State.storeEnd_now (s : State) (c : Nat) (k : StoreFly) (st t : Nat) : (s.storeEnd c k st t).now = s.now := by
  unfold State.storeEnd
  dsimp only
  rw [State.dmSettle_now]
  split <;> rfl

/-! ### The tile registers' part of an ACLK -/

theorem State.phaseTick_now (s : State) (c t : Nat) : (s.phaseTick c t).1.now = s.now := by
  unfold State.phaseTick
  refine State.foldl_fst_now (fun p r => ?_) _ _
  have hwrite (x : CoreSt) (bank : Nat) : ((((p.1.injWrite 2 c (16 * r.tile + r.row) 1).modCore c (fun y => { y with
      trf := x.trf, wbuf := x.wbuf, phase := y.phase.filter (fun q => decide (q ≠ r)) })).pmon .TRF c 0x21 0 bank)).now = p.1.now :=
    (State.pmon_now ..).trans (State.injWrite_now ..)
  dsimp only
  split
  · exact (State.dmSettle_now ..).trans ((State.gatherMore_now ..).trans (hwrite ..))
  · exact hwrite ..

theorem State.storeTick_now (s : State) (c t : Nat) (used : List Nat) : (s.storeTick c t used).now = s.now := by
  unfold State.storeTick
  split
  · rfl
  · next k _ =>
    extract_lets x d tile buffered chk off rs u k'
    have hu : u.now = s.now := State.windowTake_now ..
    split
    · rfl
    · split
      · exact (State.storeEnd_now ..).trans (State.dmRefuseBank_now ..)
      · split
        · exact (State.pmon_now ..).trans (State.modCore_now ..)
        · split
          · exact (State.storeEnd_now ..).trans (State.tileRefuse_now ..)
          · split
            · exact State.modCore_now ..
            · split
              next u1 bad h1 =>
              have hu1 : u1.now = s.now := State.now_of_pair h1 ((State.storeHw_now ..).trans hu)
              split
              next u2 bad' h2 =>
              have hu2 : u2.now = s.now := by
                refine State.now_of_pair h2 ?_
                split
                · exact hu1
                · exact (State.dmRead_now ..).trans hu1
              split
              · exact (State.storeEnd_now ..).trans hu2
              · have hwritten (bs : List Byte) : (u2.writeWin c off bs).now = s.now := (State.writeWin_now ..).trans hu2
                dsimp only
                split
                · rw [State.storeEnd_now, hwritten]
                · rw [State.modCore_now, hwritten]

theorem State.trfTick_now (s : State) (c t : Nat) : (s.trfTick c t).now = s.now := by
  unfold State.trfTick
  exact (State.storeTick_now ..).trans (State.phaseTick_now ..)

/-! ### The vector engine's part -/

theorem State.veEvt_now (s : State) (c st : Nat) : (s.veEvt c st).now = s.now := by
  unfold State.veEvt
  split <;> simp only [State.flag_now, State.bump_now, State.logHw_now]

theorem State.veStop_now (s : State) (c : Nat) (v : VeFly) (st t : Nat) (kill : Bool) : (s.veStop c v st t kill).1.now = s.now := State.veEvt_now ..

theorem State.veRowStart_now (s : State) (c : Nat) (v : VeFly) (t : Nat) : (s.veRowStart c v t).1.now = s.now := by
  unfold State.veRowStart
  extract_lets cmd
  split
  · rw [State.veStop_now]
    exact State.flagIf_now ..
  · split
    · exact State.veStop_now ..
    · split
      next hw off _ =>
      split
      next u corr unc h1 =>
      have hu : u.now = s.now := State.now_of_pair h1 (State.winReads_now ..)
      extract_lets u1 u2 u3
      have hu2 : u2.now = s.now := (State.windowTake_now ..).trans ((State.flagIf_now ..).trans hu)
      split
      · rw [State.veStop_now, hu2]
      · split
        · rw [State.veStop_now, hu2]
        · exact (State.pmon_now ..).trans hu2

theorem State.veBeginRow_now (s : State) (c t : Nat) : (s.veBeginRow c t).now = s.now := by
  unfold State.veBeginRow
  split
  · rfl
  · split
    · split
      next u v' h1 =>
      exact (State.modCore_now ..).trans (State.now_of_pair h1 (State.veRowStart_now ..))
    · rfl

theorem State.veLand_now (s : State) (c : Nat) (cmd : Cmd) (r : VeRow) (t : Nat) : (s.veLand c cmd r t).now = s.now := by
  unfold State.veLand
  extract_lets x lost u u1 u2 u3
  have hu : u.now = s.now := by
    refine State.foldl_now (fun v w => State.foldl_now (fun v q => ?_) _ _) _ _
    split
    · rfl
    · exact State.writeWin_now ..
  have hu3 : u3.now = s.now := (State.flagIf_now ..).trans ((State.flagIf_now ..).trans ((State.flagIf_now ..).trans hu))
  split
  · rw [State.flag_now, State.bump_now, hu3]
  · exact hu3

theorem State.veFinish_now (s : State) (c t : Nat) : (s.veFinish c t).now = s.now := by
  unfold State.veFinish
  split
  · rfl
  · next v _ =>
    extract_lets u v' ran left
    have hu : u.now = s.now := State.foldl_now (fun _ _ => State.veLand_now ..) _ _
    have hleft : left.now = s.now := hu
    split
    · exact (State.modCore_now ..).trans hu
    · split
      · exact (State.cellBack_now ..).trans hleft
      · split
        · rw [State.complete_now, hleft]
        · split
          · rw [State.complete_now, hleft]
          · rw [State.modCore_now, hleft]
        · rw [State.complete_now, hleft]

/-! ### The matrix engine's part -/

theorem State.tieCount_now (s : State) (c : Nat) (rows : List Nat) : (s.tieCount c rows).now = s.now := by
  unfold State.tieCount
  refine State.foldl_now (fun u n => ?_) _ _
  extract_lets base last cnt uses u1 u2
  split
  · split
    · rw [State.flag_now, State.flag_now, State.set_now]
    · split
      · split
        · rw [State.ctrAdd_now, State.flag_now, State.set_now]
        · rw [State.flag_now, State.set_now]
      · rw [State.set_now]
  · rfl

theorem State.meComplete_now (s : State) (c : Nat) (f : MeFly) (st n : Nat) : (s.meComplete c f st n).now = s.now := by
  unfold State.meComplete
  dsimp only
  rw [State.complete_now, State.modCore_now, State.set_now, State.tieCount_now]

theorem State.meCompletions_now (s : State) (c t : Nat) : (s.meCompletions c t).now = s.now := by
  unfold State.meCompletions
  refine State.foldl_now (fun u k => ?_) _ _
  dsimp only
  split
  · rfl
  · split
    · rw [State.meComplete_now, State.modCore_now]
    · rfl

theorem State.meRefuse_now (s : State) (c tile deckle unit : Nat) (k : TileCheck) : (s.meRefuse c tile deckle unit k).now = s.now := by
  unfold State.meRefuse
  rw [State.flagIf_now, State.flagIf_now, State.tileRefuse_now]

theorem State.meCorr_now (s : State) (c : Nat) (l : List Bool) : (s.meCorr c l).now = s.now := by
  unfold State.meCorr
  refine State.foldl_now (fun u inj => State.injStep_now _ _ (fun v => ?_)) _ _
  rw [State.trfCorr_now, State.flag_now]

theorem State.meRead_now (s : State) (c tile rows t : Nat) (stationary : Bool) : (s.meRead c tile rows t stationary).now = s.now := by
  unfold State.meRead
  dsimp only
  rw [State.modCore_now, State.pmon_now]

theorem State.meLoad_now (s : State) (c : Nat) (f : MeFly) (a : MeAct) (t : Nat) : (s.meLoad c f a t).1.now = s.now := by
  unfold State.meLoad
  extract_lets cmd k
  split
  · exact State.meRefuse_now ..
  · split
    next corr unc _ =>
    extract_lets u1 u2 u3
    have hu2 : u2.now = s.now := (State.pmon_now ..).trans ((State.meRead_now ..).trans (State.meCorr_now ..))
    split
    · exact hu2
    · exact (State.set_now ..).trans ((State.set_now ..).trans hu2)

theorem State.meStream_now (s : State) (c : Nat) (f : MeFly) (a : MeAct) (t : Nat) : (s.meStream c f a t).1.now = s.now := by
  unfold State.meStream
  extract_lets cmd k
  split
  · exact State.meRefuse_now ..
  · split
    · rfl
    · split
      · exact State.flag_now ..
      · split
        next corr unc _ =>
        extract_lets rows rows' u1 u2 f'
        have hu2 : u2.now = s.now := (State.pmon_now ..).trans ((State.meRead_now ..).trans (State.meCorr_now ..))
        split
        · exact hu2
        · exact hu2

theorem State.meAct_now (s : State) (c : Nat) (f : MeFly) (a : MeAct) (t : Nat) : (s.meAct c f a t).1.now = s.now := by
  unfold State.meAct
  extract_lets u f'
  have hu : u.now = s.now := State.set_now ..
  split
  · exact (State.flag_now ..).trans hu
  · split
    · rw [State.meLoad_now, hu]
    · rw [State.meStream_now, hu]

theorem State.fenceDegraded_now (s : State) (c : Nat) : (s.fenceDegraded c).now = s.now := by
  unfold State.fenceDegraded
  exact (State.logRec_quiet ..).now.trans (s.fence_local c).now

theorem State.checkFailLog_now (s : State) (c bit : Nat) (r : MeRow) (diff : Nat) : (s.checkFailLog c bit r diff).now = s.now := by
  unfold State.checkFailLog
  extract_lets u1 u2 u3
  have hu2 : u2.now = s.now := by
    show State.now (if _ then _ else _) = _
    split
    · exact State.bump_now ..
    · exact (State.wr_now ..).trans (State.bump_now ..)
  have hu3 : u3.now = s.now := (State.logHw_now ..).trans hu2
  split
  · rw [State.propose_now, State.fenceDegraded_now, hu3]
  · exact hu3

theorem State.meCompare_now (s : State) (c : Nat) (f : MeFly) (r : MeRow) : (s.meCompare c f r).1.now = s.now := by
  unfold State.meCompare
  extract_lets f' u diff
  have hu : u.now = s.now := (State.flagIf_now ..).trans ((State.flagIf_now ..).trans (State.flagIf_now ..))
  generalize diff = o
  cases o with
  | some d => exact (State.checkFailLog_now ..).trans ((State.flag_now ..).trans hu)
  | none => exact hu

theorem State.meAccStage_now (s : State) (c : Nat) (f : MeFly) (r : MeRow) : (s.meAccStage c f r).1.now = s.now := by
  unfold State.meAccStage
  extract_lets reads o hw
  split
  · exact State.injStep_now _ _ (fun _ => (State.acbFail_now ..).trans (State.flag_now ..))
  · exact State.injStep_now _ _ (fun _ => (State.acbCorr_now ..).trans (State.flag_now ..))
  · split
    · split
      · exact (State.checkFailLog_now ..).trans (State.flag_now ..)
      · rfl
    · rfl

theorem State.meReadFault_now (s : State) (c : Nat) (f : MeFly) (k : MeFault) : (s.meReadFault c f k).1.now = s.now :=
  State.injStep_now _ _ (fun _ => (State.trfFail_now ..).trans (State.flag_now ..))

theorem State.meFail_now (s : State) (c : Nat) (f : MeFly) (hits : List MeHit) (t : Nat) : (s.meFail c f hits t).1.now = s.now := by
  unfold State.meFail
  split
  · rfl
  · extract_lets top f'
    split
    · rfl
    · split
      next st n _ =>
      dsimp only
      split
      · rw [State.raiseAbort_now, State.meComplete_now]
      · rw [State.meComplete_now]

theorem State.writeRow_now (s : State) (c : Nat) (r : MeRow) : (s.writeRow c r).1.now = s.now := by
  unfold State.writeRow
  dsimp only
  split
  · rfl
  · exact State.writeWin_now ..

theorem State.writeSliced_now (s : State) (c : Nat) (r : MeRow) : (s.writeSliced c r).now = s.now := by
  have htag (u : State) (row : Nat) (g : SliceTag) : (u.setTag c row g).now = u.now := State.modCore_now ..
  unfold State.writeSliced
  dsimp only
  split
  · split
    · rw [htag, State.writeWin_now]
    · rfl
  · split
    · rw [htag, State.writeWin_now]
    · rw [htag, State.writeWin_now]

theorem State.meWriteRow_now (s : State) (c : Nat) (cmd : Cmd) (r : MeRow) : (s.meWriteRow c cmd r).1.now = s.now := by
  unfold State.meWriteRow
  split
  · exact State.writeSliced_now ..
  · exact State.writeRow_now ..

theorem State.meWrites_now (s : State) (c : Nat) (f : MeFly) (t : Nat) : (s.meWrites c f t).1.now = s.now := by
  unfold State.meWrites
  refine State.foldl_fst_now (fun p r => ?_) _ _
  dsimp only
  rw [State.modCore_now, State.flagIf_now, State.flagIf_now, State.flagIf_now, State.meWriteRow_now]

/-- The rows and acts of a command in one ACLK. -/
theorem State.meRowsAct_now (s : State) (c : Nat) (f : MeFly) (t : Nat) : (s.meRowsAct c f t).1.now = s.now := by
  unfold State.meRowsAct
  split
  next u1 hits1 h1 =>
  have hu1 : u1.now = s.now := by
    refine State.now_of_pair h1 ?_
    split
    · split
      · exact State.meReadFault_now ..
      · rfl
    · rfl
  split
  next u2 hits2 h2 =>
  have hu2 : u2.now = s.now := by
    refine State.now_of_pair h2 ((State.foldl_fst_now (fun p r => ?_) _ _).trans hu1)
    exact p.1.meAccStage_now c f r
  split
  next u3 f3 hits3 h3 =>
  have hu3 : u3.now = s.now := by
    refine State.now_of_pair h3 ((State.foldl_fst_now (fun p r => ?_) _ _).trans hu2)
    exact p.1.meCompare_now c p.2.1 r
  split
  next u4 f4 h4 =>
  have hu4 : u4.now = s.now := State.now_of_pair h4 ((State.meWrites_now ..).trans hu3)
  split
  next u5 f5 h5 =>
  have hu5 : u5.now = s.now := by
    refine State.now_of_pair h5 ((State.foldl_fst_now (fun p a => ?_) _ _).trans hu4)
    split
    · exact State.meAct_now ..
    · rfl
  exact (State.meFail_now ..).trans hu5

theorem State.meStep_now (s : State) (c k t : Nat) : (s.meStep c k t).now = s.now := by
  unfold State.meStep
  split
  · rfl
  · split
    next u f' h =>
    exact (State.modCore_now ..).trans (State.now_of_pair h (State.meRowsAct_now ..))

theorem State.meSweepUp_now (s : State) (c t : Nat) : (s.meSweepUp c t).now = s.now := by
  unfold State.meSweepUp
  split
  next out keep _ =>
  dsimp only
  split
  · rfl
  · refine (State.foldl_now (fun u f => ?_) _ _).trans (State.modCore_now ..)
    split
    · rfl
    · split
      · exact State.cellBack_now ..
      · exact State.modCore_now ..
      · rfl

theorem State.meTick_now (s : State) (c t : Nat) : (s.meTick c t).now = s.now := by
  unfold State.meTick
  exact (State.meSweepUp_now ..).trans (State.foldl_now (fun _ _ => State.meStep_now ..) _ _)

/-! ### An ACLK of a core, and the clock -/

theorem State.evtIllegal_now (s : State) (c : Nat) (e : Eng) : (s.evtIllegal c e).now = s.now := by
  cases e with
  | me => exact (State.set_now ..).trans (State.flag_now ..)
  | ve => exact State.flag_now ..
  | dm => exact State.flag_now ..
  | su => exact State.flag_now ..

theorem State.dueTick_now (s : State) (c t : Nat) : (s.dueTick c t).now = s.now := by
  unfold State.dueTick
  extract_lets due u
  split
  · rfl
  · refine (State.foldl_now (fun v d => ?_) _ _).trans (State.modCore_now ..)
    split
    · exact (v.freeCell_local c 1).now
    · extract_lets ph v1 v2 v3 v4
      have hv3 : v3.now = v.now := by
        show State.now (if _ then _ else _) = _
        split
        · refine (State.modCore_now ..).trans ?_
          show State.now (if _ then _ else _) = _
          split
          · exact (State.set_now ..).trans (State.set_now ..)
          · exact State.set_now ..
        · rfl
      have hv4 : v4.now = v.now := by
        show State.now (if _ then _ else _) = _
        split
        · exact (State.evtIllegal_now ..).trans hv3
        · exact hv3
      exact (State.complete_now ..).trans hv4

/-- A core acts in the present ACLK. -/
theorem State.coreTick_now (s : State) (c t : Nat) : (s.coreTick c t).now = s.now := by
  unfold State.coreTick
  extract_lets u v
  refine (State.modCore_now ..).trans ?_
  show State.now (if _ then _ else _) = _
  split
  · exact State.dueTick_now ..
  · rw [State.veFinish_now, State.trfTick_now, State.meTick_now, State.veBeginRow_now, State.meCompletions_now]
    exact State.dueTick_now ..

theorem State.pmonAdd_now (s : State) (inst k n : Nat) : (s.pmonAdd inst k n).now = s.now := by
  unfold State.pmonAdd
  dsimp only
  split
  · rw [State.flagBit_now, State.addw_now, State.set_now]
  · rw [State.set_now]

/-- Counting the ACLK that pass moves no clock. -/
theorem State.elapse_now (s : State) (d : Nat) : (s.elapse d).now = s.now := by
  unfold State.elapse
  split
  · rfl
  · refine State.foldl_now (fun u r => ?_) _ _
    dsimp only
    split
    · exact State.pmonAdd_now ..
    · rfl

theorem State.runTo_now_le (n t : Nat) (s : State) : (s.runTo t n).now ≤ max s.now t := by
  induction n generalizing s with
  | zero => exact Nat.le_max_left ..
  | succ n ih =>
    unfold State.runTo
    split
    · exact Nat.le_max_left ..
    · next u c _ =>
      split
      · next hu =>
        have hnow : (((s.elapse (u - s.now)).setNow u).coreTick c u).now = max s.now u := by
          rw [State.coreTick_now]
          exact congrArg (max · u) (State.elapse_now ..)
        have := ih (((s.elapse (u - s.now)).setNow u).coreTick c u)
        omega
      · exact Nat.le_max_left ..

/-- Moving the clock forward stops in the ACLK it is told. -/
theorem State.at_now (s : State) {t : Nat} (h : s.now ≤ t) : (s.at_ t).now = t := by
  have hrun := State.runTo_now_le (s.cores.length * (t - s.now)) t s
  have hat : (s.at_ t).now = max (s.runTo t (s.cores.length * (t - s.now))).now t := by
    unfold State.at_
    exact congrArg (max · t) (State.elapse_now ..)
  omega

end Sys2Proof.Machine
end

section
/-! PROOFS. A command from CMD.PUSH to its list (R140, R147 to R149, R151, R159). -/

namespace Sys2Proof.Machine

open Sys2Proof

/-! ### CMD.PUSH (R140, R148, R149) -/

section
variable {s : State} {c : Nat}

/-- The state in which a core's staging register waits at the vat. -/
def State.pushed (s : State) (c w : Nat) : State :=
  (s.modCore c (fun x => { x with push := some ⟨x.getCs (bitsOf w 21 20), bitsOf w 11 7, false⟩ })).setVat (cluInst c) { s.vat (cluInst c) with
    waiting := (s.vat (cluInst c)).waiting.filter (fun d => decide (d ≠ c)) ++ [c] }

theorem State.pushed_core (s : State) (c w : Nat) :
    (s.pushed c w).core c = { s.core c with push := some ⟨(s.core c).getCs (bitsOf w 21 20), bitsOf w 11 7, false⟩ } := by
  unfold State.pushed
  rw [State.setVat_core_read, State.modCore_same]

theorem State.pushed_others (s : State) {c d : Nat} (w : Nat) (h : d ≠ c) : (s.pushed c w).core d = s.core d := by
  unfold State.pushed
  rw [State.setVat_core_read, State.modCore_other _ _ h]

theorem cmdPush_pushes {w : Nat} (hat : s.customAt c 2 = some w) : exec (.cmdPush c .ok) s = .next ((s.pushed c w).noteStall c) := by
  change execCmdPush c .ok s = _
  unfold execCmdPush
  rw [hat]
  rfl

/-- A push that meets a free cell and room in its quota is not stalled. -/
theorem State.noteStall_room (hempty : s.vatEmpty c = false) (hquota : s.vatQuota c = false) : s.noteStall c = s := by
  unfold State.noteStall
  split
  · rw [hempty, hquota, Bool.or_self, Bool.and_false, if_neg Bool.false_ne_true]
  · rfl

/-- The state in which a stalled push has set the event bits of its causes and is counted (R149). -/
def State.stallNoted (s : State) (c : Nat) : State :=
  ((s.flagIf (s.vatEmpty c) F.VAT_EVT_EXHAUSTED (cluInst c)).flagIf
    ((s.flagIf (s.vatEmpty c) F.VAT_EVT_EXHAUSTED (cluInst c)).vatQuota c) F.VAT_EVT_QUOTA (cluInst c)).bump F.VAT_STALL_CNT_COUNT (cluInst c)

theorem State.noteStall_stalls {p : PendPush} (hpush : (s.core c).push = some p) (hfresh : p.stalled = false)
    (hroom : s.vatEmpty c = true ∨ s.vatQuota c = true) :
    s.noteStall c = ((s.stallNoted c).ccState c 2).modCore c (fun x => { x with push := some { p with stalled := true } }) := by
  have hstall : (!p.stalled && (s.vatEmpty c || s.vatQuota c)) = true := by
    rw [hfresh]
    simpa using hroom
  unfold State.noteStall
  simp only [hpush, hstall, if_true]
  rfl

/-- Room at the vat is told by its registers and quotas alone, not by its event bits. -/
theorem State.flagIf_vatQuota (s : State) (b : Bool) (k d : Nat) : (s.flagIf b F.VAT_EVT_EXHAUSTED k).vatQuota d = s.vatQuota d := by
  have hflag : RegFrame [.VAT_EVT] s (s.flagIf b F.VAT_EVT_EXHAUSTED k) := .flagIf _ _ _ _ _ (by decide)
  unfold State.vatQuota
  dsimp only
  rw [hflag.get _ _ (by decide) rfl, hflag.get _ _ (by decide) rfl]

/-- What the stall writes. -/
theorem State.stallNoted_fields (s : State) (c : Nat) :
    (s.stallNoted c).get F.VAT_STALL_CNT_COUNT (cluInst c) = min (s.get F.VAT_STALL_CNT_COUNT (cluInst c) + 1) 0xFFFFFFFF ∧
      (s.vatEmpty c = true → (s.stallNoted c).get F.VAT_EVT_EXHAUSTED (cluInst c) = 1) ∧
      (s.vatQuota c = true → (s.stallNoted c).get F.VAT_EVT_QUOTA (cluInst c) = 1) := by
  have hevents : RegFrame [.VAT_EVT] s ((s.flagIf (s.vatEmpty c) F.VAT_EVT_EXHAUSTED (cluInst c)).flagIf
      ((s.flagIf (s.vatEmpty c) F.VAT_EVT_EXHAUSTED (cluInst c)).vatQuota c) F.VAT_EVT_QUOTA (cluInst c)) :=
    (RegFrame.flagIf _ _ _ _ _ (by decide)).trans (.flagIf _ _ _ _ _ (by decide))
  have hbump {f : Field} (u : State) (hf : f.reg ≠ .VAT_STALL_CNT) :
      (u.bump F.VAT_STALL_CNT_COUNT (cluInst c)).get f (cluInst c) = u.get f (cluInst c) := State.get_set_reg _ _ _ _ _ _ _ _ hf
  unfold State.stallNoted
  refine ⟨?_, fun hempty => ?_, fun hquota => ?_⟩
  · unfold State.bump
    rw [State.get_set_same _ _ _ _ _ (by decide), hevents.get _ _ (by decide) rfl]
    exact Nat.mod_eq_of_lt (by show min _ (2 ^ 32 - 1) < 2 ^ 32; omega)
  · rw [hbump _ (by decide), State.flagIf_vatQuota, hempty, State.flagIf_true]
    cases s.vatQuota c with
    | false => exact State.get_flag_same _ _ _ _ (by decide) (by decide)
    | true =>
      rw [State.flagIf_true, State.get_flag_apart _ _ _ _ _ (by decide) (by decide) (by decide)]
      exact State.get_flag_same _ _ _ _ (by decide) (by decide)
  · rw [hbump _ (by decide), State.flagIf_vatQuota, hquota, State.flagIf_true]
    exact State.get_flag_same _ _ _ _ (by decide) (by decide)

theorem State.stallNoted_local (s : State) (c : Nat) : Local s (s.stallNoted c) :=
  ((State.flagIf_local ..).trans (State.flagIf_local ..)).trans (Local.set ..)

theorem State.stallNoted_core (s : State) (c d : Nat) : (s.stallNoted c).core d = s.core d := by
  have hflag (u : State) (b : Bool) (f : Field) (i : Nat) : (u.flagIf b f i).core d = u.core d := by
    cases b with
    | false => rfl
    | true => exact State.flag_core_read ..
  unfold State.stallNoted
  rw [State.bump_core_read, hflag, hflag]

/-- The push of a core without a free cell or without room in its quota stalls its CC. -/
theorem cmdPush_stalls {w : Nat} (hat : s.customAt c 2 = some w) (hroom : s.vatEmpty c = true ∨ s.vatQuota c = true) :
    ∃ t, exec (.cmdPush c .ok) s = .next t ∧ t.get F.CC_STATE_STATE c = 2 ∧ (t.core c).pc = (s.core c).pc ∧
      t.get F.VAT_STALL_CNT_COUNT (cluInst c) = min (s.get F.VAT_STALL_CNT_COUNT (cluInst c) + 1) 0xFFFFFFFF ∧
      (s.vatEmpty c = true → t.get F.VAT_EVT_EXHAUSTED (cluInst c) = 1) ∧ (s.vatQuota c = true → t.get F.VAT_EVT_QUOTA (cluInst c) = 1) ∧
      (∃ p, (t.core c).push = some p ∧ p.stalled = true ∧ p.cmd = (s.core c).getCs (bitsOf w 21 20)) ∧
      (∀ d, d ≠ c → t.core d = s.core d) ∧ t.mem = s.mem ∧ t.elog = s.elog := by
  have hpushed := s.pushed_core c w
  have hothers {d : Nat} (hd : d ≠ c) := s.pushed_others w hd
  have hempty : (s.pushed c w).vatEmpty c = s.vatEmpty c := rfl
  have hquota : (s.pushed c w).vatQuota c = s.vatQuota c := rfl
  have hcount : (s.pushed c w).get F.VAT_STALL_CNT_COUNT (cluInst c) = s.get F.VAT_STALL_CNT_COUNT (cluInst c) := rfl
  have hmem : (s.pushed c w).mem = s.mem := rfl
  have helog : (s.pushed c w).elog = s.elog := rfl
  rw [cmdPush_pushes hat]
  generalize s.pushed c w = u at hpushed hothers hempty hquota hcount hmem helog ⊢
  rw [← hempty, ← hquota] at hroom
  rw [State.noteStall_stalls (congrArg CoreSt.push hpushed) rfl hroom, ← hempty, ← hquota, ← hcount]
  obtain ⟨hstalls, hexhausted, hover⟩ := u.stallNoted_fields c
  have hlocal := u.stallNoted_local c
  have hcore := u.stallNoted_core c
  generalize u.stallNoted c = v at hstalls hexhausted hover hlocal hcore ⊢
  have hstate : RegFrame [.CC_STATE] v (v.ccState c 2) := .ccState _ _ _ (by decide)
  have hkeep {f : Field} (g : CoreSt → CoreSt) (hf : f.reg = .VAT_EVT ∨ f.reg = .VAT_STALL_CNT) :
      ((v.ccState c 2).modCore c g).get f (cluInst c) = v.get f (cluInst c) := by
    rw [State.modCore_get]
    obtain hf | hf := hf
    · exact hstate.get _ _ (by rw [hf]; decide) (by rw [hf]; rfl)
    · exact hstate.get _ _ (by rw [hf]; decide) (by rw [hf]; rfl)
  have hpc : ((v.ccState c 2).core c).pc = (s.core c).pc := by
    rw [CoreSt.pc_kept.ccState, hcore, hpushed]
  refine ⟨_, rfl, ?_, ?_, (hkeep _ (.inr rfl)).trans hstalls, fun h => (hkeep _ (.inl rfl)).trans (hexhausted h),
    fun h => (hkeep _ (.inl rfl)).trans (hover h), ⟨_, congrArg CoreSt.push (State.modCore_same ..), rfl, rfl⟩, fun d hd => ?_, ?_, ?_⟩
  · rw [State.modCore_get]
    unfold State.ccState
    rw [State.get_set_same _ _ _ _ _ (by decide)]
    rfl
  · rw [State.modCore_same]
    exact hpc
  · rw [State.modCore_other _ _ hd, (CplFrame.ccState v c 2).others d hd, hcore, hothers hd]
  · exact (v.ccState_local c 2).mem.trans (hlocal.mem.trans hmem)
  · have helog' : (v.ccState c 2).elog = v.elog := by rw [v.ccState_local c 2]
    exact helog'.trans (by rw [hlocal, helog])

end

/-! ### The order in which the vat serves its cores (R148) -/

/-- A core's push that waits alone is served first. -/
theorem State.pushOrder_alone {s : State} {k c : Nat} (hc : c = coreId k (corein c)) (hwaiting : (s.vat k).waiting = [c]) : s.pushOrder k = [c] := by
  let pos (i : Nat) : Nat := coreId k (((s.vat k).rr + 1 + i) % 16)
  have hlt : corein c < 16 := Nat.mod_lt _ (by decide)
  have hinj : ((List.range 16).map pos).Nodup := by
    refine List.Nodup.map_on (fun i hi j hj h => ?_) List.nodup_range
    have hi := List.mem_range.mp hi
    have hj := List.mem_range.mp hj
    have h : ((s.vat k).rr + 1 + i) % 16 = ((s.vat k).rr + 1 + j) % 16 := Nat.add_left_cancel h
    omega
  have hmem : c ∈ (List.range 16).map pos := by
    refine List.mem_map.mpr ⟨(corein c + 15 - (s.vat k).rr % 16) % 16, List.mem_range.mpr (by omega), ?_⟩
    have hpos : ((s.vat k).rr + 1 + (corein c + 15 - (s.vat k).rr % 16) % 16) % 16 = corein c := by omega
    exact (congrArg (coreId k) hpos).trans hc.symm
  have hfilter : ((List.range 16).map pos).filter (fun d => [c].contains d) = [c] := by
    have hcontains : (fun d => [c].contains d) = (fun d => d == c) := by
      funext d
      simp only [List.contains_cons, List.contains_nil, Bool.or_false]
    rw [hcontains, List.filter_beq, List.count_eq_one_of_mem hinj hmem]
    rfl
  unfold State.pushOrder
  dsimp only
  rw [hwaiting]
  exact hfilter

/-! ### A push served (R148) -/

/-- The cell taken for a command of the cluster, any that no live command holds. -/
theorem State.takeCell_free (s : State) (k : Nat) : (s.takeCell k).1 < 8192 ∧
    ((∃ i, i < 8192 ∧ i ∉ s.cellsUsed k) → (s.takeCell k).1 ∉ s.cellsUsed k) := by
  unfold State.takeCell
  dsimp only
  generalize (s.fresh).1.toNat = w
  generalize s.cellsUsed k = used
  cases hfind : ((List.range 8192).map (fun i => (w + i) % 8192)).find? (fun c => !(used.contains c)) with
  | none =>
    refine ⟨by decide, fun ⟨i, hi, hfree⟩ => ?_⟩
    have hin : i ∈ (List.range 8192).map (fun i => (w + i) % 8192) :=
      List.mem_map.mpr ⟨(i + (8192 - w % 8192)) % 8192, List.mem_range.mpr (Nat.mod_lt _ (by decide)), by omega⟩
    have := List.find?_eq_none.mp hfind i hin
    simp [hfree] at this
  | some cell =>
    have hmem := List.mem_of_find?_eq_some hfind
    have hfree := List.find?_some hfind
    obtain ⟨i, -, rfl⟩ := List.mem_map.mp hmem
    exact ⟨Nat.mod_lt _ (by decide), fun _ => by simpa using hfree⟩

/-- The vat's accounts after one cell has been taken for a core. -/
def State.charged (s : State) (c : Nat) : State :=
  let k := cluInst c
  let s1 := s.set F.VAT_FREE_FREE k (s.get F.VAT_FREE_FREE k - 1)
  let s2 := s1.set F.VAT_FREE_LOW_WATER k (min (s1.get F.VAT_FREE_LOW_WATER k) (s.get F.VAT_FREE_FREE k - 1))
  s2.set F.VAT_QUOTA_USED k (s2.get F.VAT_QUOTA_USED k (corein c) + 1) (corein c)

/-- The accounts settled and the cell written. -/
def State.celled (s : State) (c : Nat) : State :=
  let a := s.charged c
  (({ a with free := a.free + 1 }.injWrite 3 (cluInst c) (a.takeCell (cluInst c)).1 1).pmon .CC c 0x30 0 1)

/-- The command in the cell taken for it. -/
def State.inCell (s : State) (c : Nat) (p : PendPush) : QCmd :=
  { cmd := p.cmd, cell := ((s.charged c).takeCell (cluInst c)).1, ord := ((s.charged c).core c).ordNext, from_ := (s.charged c).now + 4 }

theorem State.inCell_cell (s : State) (c : Nat) (p : PendPush) : (s.inCell c p).cell = ((s.charged c).takeCell (cluInst c)).1 := by
  simp only [State.inCell]

@[simp] theorem CoreSt.setX_push (x : CoreSt) (n : Nat) (v : Word) : (x.setX n v).push = x.push := by
  unfold CoreSt.setX
  split <;> rfl

theorem CoreSt.xreg_setX_same (x : CoreSt) {n : Nat} (v : Word) (h : n ≠ 0) : (x.setX n v).xreg n = v := by
  unfold CoreSt.setX CoreSt.xreg
  rw [if_neg h, if_neg h]
  exact lookD_putD_same ..

theorem CoreSt.xreg_setX_other (x : CoreSt) {n m : Nat} (v : Word) (h : m ≠ n) : (x.setX n v).xreg m = x.xreg m := by
  unfold CoreSt.setX
  split
  · rfl
  · show (if m = 0 then 0 else lookD 0 (putD natLt 0 x.x n v) m) = _
    rw [lookD_putD_other _ _ _ _ _ h]
    rfl

/-- The served core's CC goes on: the vat `x` holds its command, rd has the cells left (R140). -/
def State.restart (s : State) (c : Nat) (x : VatSt) (rd : Nat) (v : Word) : State :=
  (((s.setVat (cluInst c) x).modCore c (fun x => { x with push := none, ordNext := x.ordNext + 1 })).ccState c 1).retire c 4 rd v

theorem State.servePush_serves {s : State} {c : Nat} {p : PendPush} (hpush : (s.core c).push = some p) (hempty : s.vatEmpty c = false)
    (hquota : s.vatQuota c = false) :
    s.servePush c = (s.celled c).restart c { (s.celled c).vat (cluInst c) with
        waiting := ((s.celled c).vat (cluInst c)).waiting.filter (· ≠ c), rr := corein c,
        served := ((s.celled c).vat (cluInst c)).served ++ [⟨c, Cmd.engine p.cmd, Cmd.prio p.cmd, s.inCell c p, (s.celled c).now + 3⟩] }
      p.rd (BitVec.ofNat 64 (s.get F.VAT_FREE_FREE (cluInst c) - 1)) := by
  unfold State.servePush
  simp only [hpush, hempty, hquota, Bool.or_self, Bool.false_eq_true, if_false]
  rfl

section
variable (u : State) (c : Nat) (x : VatSt) (rd : Nat) (v : Word)

theorem State.restart_get {f : Field} (i j : Nat) (hf : f.reg ≠ .CC_STATE) (hs : sideReg f.reg = false) : (u.restart c x rd v).get f i j = u.get f i j := by
  have hstate (w : State) : RegFrame [.CC_STATE] w (w.ccState c 1) := .ccState _ _ _ (by decide)
  unfold State.restart State.retire
  rw [State.modCore_get, (hstate _).get i j (by simpa using hf) hs, State.modCore_get, State.setVat_get]

theorem State.restart_state : (u.restart c x rd v).get F.CC_STATE_STATE c = 1 := by
  unfold State.restart State.retire State.ccState
  rw [State.modCore_get, State.get_set_same _ _ _ _ _ (by decide)]
  rfl

theorem State.restart_now : (u.restart c x rd v).now = u.now := by
  unfold State.restart State.retire
  rw [State.modCore_now, (State.ccState_local ..).now, State.modCore_now, State.setVat_now]

theorem State.restart_mem : (u.restart c x rd v).mem = u.mem := by
  unfold State.restart State.retire
  rw [State.modCore_mem, (State.ccState_local ..).mem, State.modCore_mem, State.setVat_mem]

theorem State.restart_vat : (u.restart c x rd v).vat (cluInst c) = x := by
  have hcc (w : State) (k : Nat) : (w.ccState c 1).vat k = w.vat k := rfl
  unfold State.restart State.retire
  rw [State.modCore_vat_read, hcc, State.modCore_vat_read, State.setVat_same]

theorem State.restart_others {d : Nat} (h : d ≠ c) : (u.restart c x rd v).core d = u.core d := by
  unfold State.restart State.retire
  rw [State.modCore_other _ _ h, (CplFrame.ccState _ c 1).others d h, State.modCore_other _ _ h, State.setVat_core_read]

/-- The core after its push: past the instruction, with rd written. -/
theorem State.restart_core : ∃ n t, (u.restart c x rd v).core c =
    { ({ u.core c with push := none, ordNext := (u.core c).ordNext + 1, wdLeft := n, wdAt := t } : CoreSt).setX rd v with
      pc := (u.core c).pc + 4, minstret := (u.core c).minstret + 1 } := by
  unfold State.restart State.retire State.ccState
  exact ⟨_, _, by simp only [State.modCore_same, State.set_core_read, State.setVat_core_read]; rfl⟩
end

/-- The accounts are the FREE, LOW_WATER and USED of R147, in fields of 14 bits. -/
theorem State.charged_fields {s : State} {c : Nat} (hused : s.get F.VAT_QUOTA_USED (cluInst c) (corein c) < 8192) :
    (s.charged c).get F.VAT_FREE_FREE (cluInst c) = s.get F.VAT_FREE_FREE (cluInst c) - 1 ∧
      (s.charged c).get F.VAT_FREE_LOW_WATER (cluInst c) = min (s.get F.VAT_FREE_LOW_WATER (cluInst c)) (s.get F.VAT_FREE_FREE (cluInst c) - 1) ∧
      (s.charged c).get F.VAT_QUOTA_USED (cluInst c) (corein c) = s.get F.VAT_QUOTA_USED (cluInst c) (corein c) + 1 := by
  have hfree : s.get F.VAT_FREE_FREE (cluInst c) < 2 ^ 14 := s.get_lt F.VAT_FREE_FREE (cluInst c) 0
  have hquota (u : State) (v : Nat) {f : Field} (hf : f.reg = .VAT_FREE) :
      (u.set F.VAT_QUOTA_USED (cluInst c) v (corein c)).get f (cluInst c) = u.get f (cluInst c) :=
    State.get_set_reg _ _ _ _ _ _ _ _ (by rw [hf]; decide)
  unfold State.charged
  refine ⟨?_, ?_, ?_⟩
  · rw [hquota _ _ rfl, State.get_set_apart _ _ _ _ _ _ (by decide) (by decide) (by decide), State.get_set_same _ _ _ _ _ (by decide)]
    exact Nat.mod_eq_of_lt (Nat.lt_of_le_of_lt (Nat.sub_le ..) hfree)
  · rw [hquota _ _ rfl, State.get_set_same _ _ _ _ _ (by decide), State.get_set_apart _ _ _ _ _ _ (by decide) (by decide) (by decide)]
    exact Nat.mod_eq_of_lt (Nat.lt_of_le_of_lt (Nat.min_le_right ..) (Nat.lt_of_le_of_lt (Nat.sub_le ..) hfree))
  · rw [State.get_set_same _ _ _ _ _ (by decide), State.get_set_reg _ _ _ _ _ _ _ _ (by decide), State.get_set_reg _ _ _ _ _ _ _ _ (by decide)]
    exact Nat.mod_eq_of_lt (Nat.lt_of_lt_of_le (Nat.succ_lt_succ hused) (by decide))

theorem State.charged_core (s : State) (c d : Nat) : (s.charged c).core d = s.core d := by
  unfold State.charged
  simp only [State.set_core_read]

theorem State.charged_cellsUsed (s : State) (c k : Nat) : (s.charged c).cellsUsed k = s.cellsUsed k := by
  unfold State.cellsUsed
  simp only [State.charged_core]
  rfl

/-- Writing the cell records at most an injected error and an event (R728). -/
theorem State.celled_quiet (s : State) (c : Nat) : Quiet { s.charged c with free := (s.charged c).free + 1 } (s.celled c) :=
  (State.injWrite_quiet ..).trans (State.pmon_quiet ..)

theorem State.celled_mem (s : State) (c : Nat) : (s.celled c).mem = s.mem :=
  (State.pmon_local ..).mem.trans (State.injWrite_mem ..)

/-- What the vat's service of a push leaves. -/
theorem State.servePush_state {s : State} {c : Nat} {p : PendPush} (hpush : (s.core c).push = some p) (hempty : s.vatEmpty c = false)
    (hquota : s.vatQuota c = false) (hused : s.get F.VAT_QUOTA_USED (cluInst c) (corein c) < 8192) :
    let k := cluInst c
    let t := s.servePush c
    t.now = s.now ∧ t.get F.VAT_FREE_FREE k = s.get F.VAT_FREE_FREE k - 1 ∧
      t.get F.VAT_FREE_LOW_WATER k = min (s.get F.VAT_FREE_LOW_WATER k) (s.get F.VAT_FREE_FREE k - 1) ∧
      t.get F.VAT_QUOTA_USED k (corein c) = s.get F.VAT_QUOTA_USED k (corein c) + 1 ∧
      (t.vat k).waiting = (s.vat k).waiting.filter (· ≠ c) ∧
      (∃ q, (t.vat k).served = (s.vat k).served ++ [⟨c, Cmd.engine p.cmd, Cmd.prio p.cmd, q, s.now + 3⟩] ∧ q.cmd = p.cmd ∧
        q.cell < 8192 ∧ ((∃ i, i < 8192 ∧ i ∉ s.cellsUsed k) → q.cell ∉ s.cellsUsed k) ∧ q.ord = (s.core c).ordNext) ∧
      t.get F.CC_STATE_STATE c = 1 ∧ (t.core c).push = none ∧ (t.core c).pc = (s.core c).pc + 4 ∧
      (p.rd ≠ 0 → (t.core c).xreg p.rd = BitVec.ofNat 64 (s.get F.VAT_FREE_FREE k - 1)) ∧
      (∀ n, n ≠ p.rd → (t.core c).xreg n = (s.core c).xreg n) ∧ (∀ d, d ≠ c → t.core d = s.core d) ∧ t.mem = s.mem := by
  obtain ⟨hfree, hlow, hcount⟩ := State.charged_fields hused
  have hquiet := s.celled_quiet c
  have hnow : (s.celled c).now = s.now := hquiet.now
  have hcore (d : Nat) : (s.celled c).core d = s.core d := (hquiet.core d).trans (s.charged_core c d)
  have hvat : (s.celled c).vat (cluInst c) = s.vat (cluInst c) := hquiet.vat _
  have hget (f : Field) (i j : Nat) (hf : sideReg f.reg = false) : (s.celled c).get f i j = (s.charged c).get f i j := hquiet.get f i j hf
  have hmem := s.celled_mem c
  have hord : (s.inCell c p).ord = (s.core c).ordNext := congrArg CoreSt.ordNext (s.charged_core c c)
  have hcell : (s.inCell c p).cell < 8192 ∧ ((∃ i, i < 8192 ∧ i ∉ s.cellsUsed (cluInst c)) → (s.inCell c p).cell ∉ s.cellsUsed (cluInst c)) := by
    rw [State.inCell_cell, ← s.charged_cellsUsed c (cluInst c)]
    exact State.takeCell_free ..
  dsimp only
  rw [State.servePush_serves hpush hempty hquota, hvat, hnow]
  generalize s.celled c = u at hnow hcore hget hmem ⊢
  obtain ⟨n, at_, hself⟩ := u.restart_core c { s.vat (cluInst c) with
        waiting := (s.vat (cluInst c)).waiting.filter (· ≠ c), rr := corein c,
        served := (s.vat (cluInst c)).served ++ [⟨c, Cmd.engine p.cmd, Cmd.prio p.cmd, s.inCell c p, s.now + 3⟩] }
      p.rd (BitVec.ofNat 64 (s.get F.VAT_FREE_FREE (cluInst c) - 1))
  refine ⟨(State.restart_now ..).trans hnow, ?_, ?_, ?_, ?_, ?_, State.restart_state .., ?_, ?_, ?_, ?_, fun d hd => ?_, ?_⟩
  · rw [State.restart_get _ _ _ _ _ _ _ (by decide) rfl, hget _ _ _ rfl, hfree]
  · rw [State.restart_get _ _ _ _ _ _ _ (by decide) rfl, hget _ _ _ rfl, hlow]
  · rw [State.restart_get _ _ _ _ _ _ _ (by decide) rfl, hget _ _ _ rfl, hcount]
  · rw [State.restart_vat]
  · rw [State.restart_vat]
    exact ⟨_, rfl, rfl, hcell.1, hcell.2, hord⟩
  · rw [hself]
    exact CoreSt.setX_push ..
  · rw [hself, hcore]
  · intro hne
    rw [hself]
    exact CoreSt.xreg_setX_same _ _ hne
  · intro m hm
    rw [hself]
    have hx : (u.core c).xreg m = (s.core c).xreg m := congrArg (CoreSt.xreg · m) (hcore c)
    exact (CoreSt.xreg_setX_other _ _ hm).trans hx
  · rw [State.restart_others _ _ _ _ _ hd, hcore]
  · rw [State.restart_mem, hmem]

/-- The cores that the vat serves in the ACLK it acts in, at most four. -/
def State.servable (u : State) (k : Nat) : List Nat := (u.pushOrder k).filter (fun c => !(u.vatEmpty c || u.vatQuota c))

theorem vatPushServe_acts {s : State} {k : Nat} (hon : s.clusterOn k = true) (hrebuild : (s.vat k).rebuild = false) (hwaiting : (s.vat k).waiting ≠ []) :
    exec (.vatPushServe k) s = .next ((((s.at_ (s.now + 1)).pushOrder k).filter (fun c => !(((s.at_ (s.now + 1)).servable k).contains c))).foldl
      State.noteStall ((((s.at_ (s.now + 1)).servable k).take 4).foldl State.servePush (s.at_ (s.now + 1)))) := by
  have hsome : (s.vat k).waiting.isEmpty = false := by rwa [List.isEmpty_eq_false_iff]
  change execVatPushServe k s = _
  unfold execVatPushServe
  simp only [hon, hrebuild, hsome, Bool.not_true, Bool.or_self, Bool.false_eq_true, if_false]
  rfl

/-- With one core waiting, which the vat can serve, it serves that core's push. -/
theorem vatPushServe_one {s u : State} {k c : Nat} (hu : u = s.at_ (s.now + 1)) (hon : s.clusterOn k = true) (hrebuild : (s.vat k).rebuild = false)
    (hsome : (s.vat k).waiting ≠ []) (hc : c = coreId k (corein c)) (hwaiting : (u.vat k).waiting = [c]) (hempty : u.vatEmpty c = false)
    (hquota : u.vatQuota c = false) : exec (.vatPushServe k) s = .next (u.servePush c) := by
  have hservable : u.servable k = [c] := by
    unfold State.servable
    rw [State.pushOrder_alone hc hwaiting]
    simp [hempty, hquota]
  rw [vatPushServe_acts hon hrebuild hsome, ← hu, hservable, State.pushOrder_alone hc hwaiting]
  simp

/-! ### At most four pushes in an ACLK -/

theorem State.noteStall_local (s : State) (c : Nat) : Local s (s.noteStall c) := by
  unfold State.noteStall
  split
  · dsimp only
    split
    · exact (State.stallNoted_local s c).trans ((State.ccState_local ..).trans (.modCore ..))
    · exact .refl s
  · exact .refl s

theorem Local.vat {s t : State} (h : Local s t) (k : Nat) : t.vat k = s.vat k := by
  rw [h]
  rfl

theorem State.restart_vat_other {j : Nat} (u : State) (c : Nat) (x : VatSt) (rd : Nat) (v : Word) (h : j ≠ cluInst c) :
    (u.restart c x rd v).vat j = u.vat j := by
  unfold State.restart State.retire
  rw [State.modCore_vat_read, (State.ccState_local ..).vat, State.modCore_vat_read, State.setVat_other _ _ h]

/-- Serving a core adds at most its command to the served ones. -/
theorem State.servePush_served_le (s : State) (c k : Nat) : ((s.servePush c).vat k).served.length ≤ (s.vat k).served.length + 1 := by
  cases hpush : (s.core c).push with
  | none =>
    have hleaves : s.servePush c = s.setVat (cluInst c) { s.vat (cluInst c) with waiting := (s.vat (cluInst c)).waiting.filter (· ≠ c) } := by
      unfold State.servePush
      rw [hpush]
    rw [hleaves]
    by_cases hk : k = cluInst c
    · rw [hk, State.setVat_same]
      exact Nat.le_succ _
    · rw [State.setVat_other _ _ hk]
      exact Nat.le_succ _
  | some p =>
    by_cases hroom : (s.vatEmpty c || s.vatQuota c) = true
    · have hstalls : s.servePush c = s.noteStall c := by
        unfold State.servePush
        simp only [hpush, hroom, if_true]
      rw [hstalls, (s.noteStall_local c).vat]
      exact Nat.le_succ _
    · obtain ⟨hempty, hquota⟩ := Bool.or_eq_false_iff.mp (Bool.not_eq_true _ ▸ hroom)
      have hvat (j : Nat) : (s.celled c).vat j = s.vat j := (s.celled_quiet c).vat j
      rw [State.servePush_serves hpush hempty hquota]
      by_cases hk : k = cluInst c
      · rw [hk, State.restart_vat, hvat]
        simp
      · rw [State.restart_vat_other _ _ _ _ _ hk, hvat]
        exact Nat.le_succ _

/-- Serving a list of cores adds at most one command for each. -/
theorem State.servePushes_served_le (l : List Nat) (s : State) (k : Nat) :
    ((l.foldl State.servePush s).vat k).served.length ≤ (s.vat k).served.length + l.length := by
  induction l generalizing s with
  | nil => exact Nat.le_refl _
  | cons c l ih =>
    have hfirst := s.servePush_served_le c k
    have hrest := ih (s.servePush c)
    rw [List.foldl_cons, List.length_cons]
    omega

theorem State.noteStalls_vat (l : List Nat) (s : State) (k : Nat) : (l.foldl State.noteStall s).vat k = s.vat k := by
  induction l generalizing s with
  | nil => rfl
  | cons c l ih => exact (ih _).trans ((s.noteStall_local c).vat k)

/-- VAT_PUSH_SERVE completes, and adds at most four commands to the served ones. -/
theorem vatPushServe_at_most_four (s : State) (k : Nat) : ∃ t, exec (.vatPushServe k) s = .next t ∧
    (t = s ∨ (t.vat k).served.length ≤ ((s.at_ (s.now + 1)).vat k).served.length + 4) := by
  by_cases hidle : (!(s.clusterOn k) || (s.vat k).rebuild || (s.vat k).waiting.isEmpty) = true
  · refine ⟨s, ?_, .inl rfl⟩
    change execVatPushServe k s = _
    unfold execVatPushServe
    rw [if_pos hidle]
  · simp only [Bool.or_eq_true, Bool.not_eq_true', not_or, Bool.not_eq_false, Bool.not_eq_true] at hidle
    obtain ⟨⟨hon, hrebuild⟩, hsome⟩ := hidle
    refine ⟨_, vatPushServe_acts hon hrebuild (List.isEmpty_eq_false_iff.mp hsome), .inr ?_⟩
    have hserved := State.servePushes_served_le (((s.at_ (s.now + 1)).servable k).take 4) (s.at_ (s.now + 1)) k
    have hfour : (((s.at_ (s.now + 1)).servable k).take 4).length ≤ 4 := List.length_take_le ..
    rw [State.noteStalls_vat]
    omega

/-! ### The link of a served command (R151, R159) -/

/-- CMD_LINK of the oldest served command appends it to the list its header names. -/
theorem cmdLink_appends {s : State} {k : Nat} {p : Served} {more : List Served} (hon : s.clusterOn k = true) (hserved : (s.vat k).served = p :: more) :
    exec (.cmdLink k .ok) s = .next (((s.at_ p.due).setVat k { s.vat k with served := more }).modCore p.core (fun x =>
      x.setEng (Eng.ofCode p.eng) ((x.eng (Eng.ofCode p.eng)).setList p.prio ((x.eng (Eng.ofCode p.eng)).list p.prio ++ [p.q])))) := by
  change execCmdLink k .ok s = _
  unfold execCmdLink
  simp only [hserved, hon, Bool.not_true, Bool.false_eq_true, if_false]
  rfl

theorem cmdLink_fails {s : State} {k : Nat} {p : Served} {more : List Served} (hon : s.clusterOn k = true) (hserved : (s.vat k).served = p :: more) :
    exec (.cmdLink k .link) s = .next ((s.at_ p.due).vatLinkError k) := by
  change execCmdLink k .link s = _
  unfold execCmdLink
  simp only [hserved, hon, Bool.not_true, Bool.false_eq_true, if_false]

/-- Raising an abort on a core changes no register of another. -/
theorem State.raiseAbort_rd_other (s : State) {c : Nat} (cause : Nat) {k : RKey} (h : k.inst ≠ c) : (s.raiseAbort c cause).rd k = s.rd k := by
  have hset (u : State) (f : Field) (v : Nat) : (u.set f c v).rd k = u.rd k := State.rd_set_other _ _ _ _ _ _ (fun e => h (congrArg RKey.inst e))
  have hcc (u : State) : (u.ccState c 0).rd k = u.rd k := by
    unfold State.ccState
    rw [hset, State.modCore_rd]
  unfold State.raiseAbort
  split
  · rfl
  · dsimp only
    rw [State.modCore_rd]
    split
    · rw [hset, hset]
    · rw [hcc, hset, hset]

/-- The task of a core has aborted with this cause. -/
structure AbortedWith (s : State) (c cause : Nat) : Prop where
  raised : s.get F.CC_TASK_STATUS_ABORTED c = 1
  shown : s.get F.CC_TASK_STATUS_CAUSE c = cause
  abort : (s.core c).abort = some cause

theorem AbortedWith.raise {s : State} {c cause : Nat} (h : AbortedWith s c cause) (d k : Nat) : AbortedWith (s.raiseAbort d k) c cause := by
  by_cases hd : d = c
  · subst hd
    rwa [State.raiseAbort_again _ _ _ h.raised]
  · have hrd (f : Field) : (s.raiseAbort d k).get f c = s.get f c := congrArg f.of (s.raiseAbort_rd_other k (fun e => hd e.symm))
    exact ⟨(hrd _).trans h.raised, (hrd _).trans h.shown, ((CplFrame.raiseAbort s d k).others c (fun e => hd e.symm)) ▸ h.abort⟩

theorem AbortedWith.of_raise {s : State} {c cause : Nat} (h : s.get F.CC_TASK_STATUS_ABORTED c = 0) (hcause : cause < 256) :
    AbortedWith (s.raiseAbort c cause) c cause where
  raised := State.raiseAbort_raised ..
  shown := (s.raiseAbort_first c cause h).2.trans (Nat.mod_eq_of_lt hcause)
  abort := (State.raiseAbort_halts cause h).1

theorem AbortedWith.raises {c cause : Nat} (k : Nat) (l : List Nat) {s : State} (h : AbortedWith s c cause) :
    AbortedWith (l.foldl (fun s d => s.raiseAbort d k) s) c cause := by
  induction l generalizing s with
  | nil => exact h
  | cons d l ih => exact ih (h.raise d k)

/-- An aborted task stays aborted while aborts are raised. -/
theorem State.raiseAborts_raised {c : Nat} (cause : Nat) (l : List Nat) {s : State} (h : s.get F.CC_TASK_STATUS_ABORTED c = 1) :
    (l.foldl (fun s d => s.raiseAbort d cause) s).get F.CC_TASK_STATUS_ABORTED c = 1 := by
  induction l generalizing s with
  | nil => exact h
  | cons d l ih =>
    refine ih ?_
    by_cases hd : d = c
    · rw [hd]
      exact State.raiseAbort_raised ..
    · exact (congrArg F.CC_TASK_STATUS_ABORTED.of (s.raiseAbort_rd_other cause (fun e => hd e.symm))).trans h

/-- Aborts raised on a list of cores: each of them is aborted, for the first time with this cause. -/
theorem State.raiseAborts (cause : Nat) (hcause : cause < 256) (l : List Nat) (s : State) {c : Nat} (hc : c ∈ l) :
    let t := l.foldl (fun s d => s.raiseAbort d cause) s
    t.get F.CC_TASK_STATUS_ABORTED c = 1 ∧ (s.get F.CC_TASK_STATUS_ABORTED c = 0 → AbortedWith t c cause) := by
  induction l generalizing s with
  | nil => cases hc
  | cons d l ih =>
    by_cases hd : d = c
    · subst hd
      exact ⟨State.raiseAborts_raised cause l (State.raiseAbort_raised ..), fun h => (AbortedWith.of_raise h hcause).raises cause l⟩
    · have hget : (s.raiseAbort d cause).get F.CC_TASK_STATUS_ABORTED c = s.get F.CC_TASK_STATUS_ABORTED c :=
        congrArg F.CC_TASK_STATUS_ABORTED.of (s.raiseAbort_rd_other cause (fun e => hd e.symm))
      obtain ⟨hraised, hfirst⟩ := ih (s.raiseAbort d cause) ((List.mem_cons.mp hc).resolve_left (fun e => hd e.symm))
      exact ⟨hraised, fun h => hfirst (hget.trans h)⟩

/-- An uncorrectable link aborts the tasks of the cluster's cores and stops the vat (R159). -/
theorem State.vatLinkError_aborts (s : State) (k : Nat) :
    let t := s.vatLinkError k
    t.get F.VAT_EVT_LINK_ECC k = 1 ∧ (t.vat k).rebuild = true ∧ (t.vat k).served = [] ∧
      ∀ n, n < 16 → t.get F.CC_TASK_STATUS_ABORTED (coreId k n) = 1 ∧
        (s.get F.CC_TASK_STATUS_ABORTED (coreId k n) = 0 →
          t.get F.CC_TASK_STATUS_CAUSE (coreId k n) = 7 ∧ (t.core (coreId k n)).abort = some 7) := by
  have hlog := (s.flag F.VAT_EVT_LINK_ECC k).logHw_quiet 2 .VAT 4 k []
  have hflag : ((s.flag F.VAT_EVT_LINK_ECC k).logHw 2 .VAT 4 k []).get F.VAT_EVT_LINK_ECC k = 1 :=
    (hlog.get _ _ _ rfl).trans (State.get_flag_same _ _ _ _ (by decide) (by decide))
  have htask (c : Nat) : ((s.flag F.VAT_EVT_LINK_ECC k).logHw 2 .VAT 4 k []).get F.CC_TASK_STATUS_ABORTED c = s.get F.CC_TASK_STATUS_ABORTED c := by
    have hevt : RegFrame [.VAT_EVT] s (s.flag F.VAT_EVT_LINK_ECC k) := .flag _ _ _ _ (by decide)
    exact (hlog.get _ _ _ rfl).trans (hevt.get _ _ (by decide) rfl)
  unfold State.vatLinkError
  dsimp only
  generalize (s.flag F.VAT_EVT_LINK_ECC k).logHw 2 .VAT 4 k [] = u at hflag htask ⊢
  rw [← List.foldl_map (f := coreId k) (g := fun s c => State.raiseAbort s c 7)]
  have hraises : RegFrame [.CC_TASK_STATUS, .CC_STATE] u (((List.range 16).map (coreId k)).foldl (fun s c => s.raiseAbort c 7) u) :=
    .foldl _ (fun v c => .raiseAbort v c 7 (by decide) (by decide)) _ _
  refine ⟨?_, ?_, ?_, fun n hn => ?_⟩
  · rw [State.setVat_get, hraises.get _ _ (by decide) rfl, hflag]
  · rw [State.setVat_same]
  · rw [State.setVat_same]
  · obtain ⟨hraised, hfirst⟩ := State.raiseAborts 7 (by decide) ((List.range 16).map (coreId k)) u
      (List.mem_map.mpr ⟨n, List.mem_range.mpr hn, rfl⟩)
    refine ⟨hraised, fun h => ?_⟩
    obtain ⟨-, hshown, habort⟩ := hfirst ((htask _).trans h)
    exact ⟨hshown, habort⟩

/-! ### The free list rebuilt (R159) -/

/-- One core's account cleared: nothing of it waits to return. -/
def State.forgetCells (s : State) (k n : Nat) : State :=
  (s.set F.VAT_QUOTA_USED k 0 n).modCore (coreId k n) (fun x => { x with dueCpl := [] })

theorem vatFreeListRebuild_frees {s : State} {k : Nat} (hon : s.clusterOn k = true) (hrebuild : (s.vat k).rebuild = true)
    (hdone : ∀ n, n < 16 → (s.core (coreId k n)).unfinished = []) :
    exec (.vatFreeListRebuild k) s = .next (((List.range 16).foldl (fun s n => s.forgetCells k n) (s.set F.VAT_FREE_FREE k 8192)).setVat k
      { ((List.range 16).foldl (fun s n => s.forgetCells k n) (s.set F.VAT_FREE_FREE k 8192)).vat k with rebuild := false }) := by
  have hidle : (List.range 16).any (fun n => !((s.core (coreId k n)).unfinished).isEmpty) = false := by
    rw [List.any_eq_false]
    intro n hn
    rw [hdone n (List.mem_range.mp hn)]
    decide
  change execVatFreeListRebuild k s = _
  unfold execVatFreeListRebuild
  simp only [hrebuild, hidle, hon, Bool.not_true, Bool.or_self, Bool.false_eq_true, if_false]
  rfl

/-- What clearing the accounts of a list of cores leaves. -/
structure Forgets (s t : State) (k : Nat) (l : List Nat) : Prop where
  rest : t = { s with regs := t.regs, cores := t.cores }
  used : ∀ n ∈ l, t.get F.VAT_QUOTA_USED k n = 0
  unused : ∀ n, n ∉ l → t.get F.VAT_QUOTA_USED k n = s.get F.VAT_QUOTA_USED k n
  cores : ∀ n ∈ l, t.core (coreId k n) = { s.core (coreId k n) with dueCpl := [] }
  others : ∀ d, (∀ n ∈ l, d ≠ coreId k n) → t.core d = s.core d
  regs : ∀ r, r.reg ≠ .VAT_QUOTA → t.rd r = s.rd r

theorem coreId_inj {k n m : Nat} (h : coreId k n = coreId k m) : n = m := Nat.add_left_cancel h

theorem State.forgetCells_one (s : State) (k n : Nat) : Forgets s (s.forgetCells k n) k [n] where
  rest := rfl
  used m hm := by
    unfold State.forgetCells
    rw [List.mem_singleton.mp hm, State.modCore_get, State.get_set_same _ _ _ _ _ (by decide)]
    rfl
  unused m hm := by
    have hne : n ≠ m := fun h => hm (List.mem_singleton.mpr h.symm)
    unfold State.forgetCells
    rw [State.modCore_get, State.get_set_other _ _ _ _ _ _ _ _ (by decide) (by decide) (by simp [keyApart, hne])]
  cores m hm := by
    rw [List.mem_singleton.mp hm]
    unfold State.forgetCells
    rw [State.modCore_same, State.set_core_read]
  others d hd := by
    unfold State.forgetCells
    rw [State.modCore_other _ _ (hd n (List.mem_singleton.mpr rfl)), State.set_core_read]
  regs r hr := by
    unfold State.forgetCells
    rw [State.modCore_rd, State.rd_set_other _ _ _ _ _ _ (fun h => hr (congrArg RKey.reg h))]

/-- The accounts of one core, then those of others. -/
theorem Forgets.cons {s u t : State} {k n : Nat} {l : List Nat} (hone : Forgets s u k [n]) (hall : Forgets u t k l) : Forgets s t k (n :: l) where
  rest := by
    have hu := hone.rest
    have ht := hall.rest
    rw [hu] at ht
    exact ht
  used m hm := by
    by_cases hin : m ∈ l
    · exact hall.used m hin
    · rw [hall.unused m hin]
      exact hone.used m (List.mem_singleton.mpr ((List.mem_cons.mp hm).resolve_right hin))
  unused m hm := by
    rw [hall.unused m (fun h => hm (List.mem_cons_of_mem _ h))]
    exact hone.unused m (fun h => hm (List.mem_cons.mpr (.inl (List.mem_singleton.mp h))))
  cores m hm := by
    by_cases hmn : m = n
    · have hhead : u.core (coreId k m) = { s.core (coreId k m) with dueCpl := [] } := hone.cores m (List.mem_singleton.mpr hmn)
      by_cases hin : m ∈ l
      · rw [hall.cores m hin, hhead]
      · rw [hall.others (coreId k m) (fun j hj e => hin (coreId_inj e ▸ hj)), hhead]
    · have hother : u.core (coreId k m) = s.core (coreId k m) :=
        hone.others _ (fun j hj e => hmn ((coreId_inj e).trans (List.mem_singleton.mp hj)))
      rw [hall.cores m ((List.mem_cons.mp hm).resolve_left hmn), hother]
  others d hd := by
    rw [hall.others d (fun m hm => hd m (List.mem_cons_of_mem _ hm))]
    exact hone.others d (fun m hm => hd m (List.mem_cons.mpr (.inl (List.mem_singleton.mp hm))))
  regs r hr := (hall.regs r hr).trans (hone.regs r hr)

theorem State.forgetCells_all (l : List Nat) (s : State) (k : Nat) : Forgets s (l.foldl (fun s n => s.forgetCells k n) s) k l := by
  induction l generalizing s with
  | nil => exact ⟨rfl, fun _ h => absurd h List.not_mem_nil, fun _ _ => rfl, fun _ h => absurd h List.not_mem_nil, fun _ _ => rfl, fun _ _ => rfl⟩
  | cons n l ih => exact (s.forgetCells_one k n).cons (ih _)

/-- VAT_FREE_LIST_REBUILD frees all cells and lets the vat serve again. -/
theorem vatFreeListRebuild_state {s : State} {k : Nat} (hon : s.clusterOn k = true) (hrebuild : (s.vat k).rebuild = true)
    (hdone : ∀ n, n < 16 → (s.core (coreId k n)).unfinished = []) :
    ∃ t, exec (.vatFreeListRebuild k) s = .next t ∧ t = { s with regs := t.regs, vats := t.vats, cores := t.cores } ∧ t.get F.VAT_FREE_FREE k = 8192 ∧
      (∀ n, n < 16 → t.get F.VAT_QUOTA_USED k n = 0 ∧ t.core (coreId k n) = { s.core (coreId k n) with dueCpl := [] }) ∧
      (∀ d, (∀ n, n < 16 → d ≠ coreId k n) → t.core d = s.core d) ∧
      t.vat k = { s.vat k with rebuild := false } ∧ (∀ j, j ≠ k → t.vat j = s.vat j) ∧
      (∀ r, r.reg ≠ .VAT_FREE → r.reg ≠ .VAT_QUOTA → t.rd r = s.rd r) := by
  have hall := State.forgetCells_all (List.range 16) (s.set F.VAT_FREE_FREE k 8192) k
  have hin {n : Nat} (hn : n < 16) : n ∈ List.range 16 := List.mem_range.mpr hn
  have hfree : (s.set F.VAT_FREE_FREE k 8192).get F.VAT_FREE_FREE k = 8192 := by
    rw [State.get_set_same _ _ _ _ _ (by decide)]
    rfl
  rw [vatFreeListRebuild_frees hon hrebuild hdone]
  generalize (List.range 16).foldl (fun s n => s.forgetCells k n) (s.set F.VAT_FREE_FREE k 8192) = u at hall ⊢
  have hvat (j : Nat) : u.vat j = s.vat j := by
    rw [hall.rest]
    rfl
  refine ⟨_, rfl, ?_, ?_, fun n hn => ⟨?_, ?_⟩, fun d hd => ?_, ?_, fun j hj => ?_, fun r hr hr' => ?_⟩
  · rw [hall.rest]
    rfl
  · rw [State.setVat_get, State.get_def, hall.regs _ (show Reg.VAT_FREE ≠ .VAT_QUOTA by decide), ← State.get_def, hfree]
  · rw [State.setVat_get, hall.used n (hin hn)]
  · rw [State.setVat_core_read, hall.cores n (hin hn), State.set_core_read]
  · rw [State.setVat_core_read, hall.others d (fun n hn => hd n (List.mem_range.mp hn)), State.set_core_read]
  · rw [State.setVat_same, hvat]
  · rw [State.setVat_other _ _ hj, hvat]
  · rw [State.setVat_rd, hall.regs r hr', State.rd_set_other _ _ _ _ _ _ (fun h => hr (congrArg RKey.reg h))]

/-- Settles O9: the push by `cmdPush_pushes` and `cmdPush_stalls`, its service by `vatPushServe_one` and `State.servePush_state` in the ACLK of
`State.at_now`, the bound by `vatPushServe_at_most_four`, the link by `cmdLink_appends` and `State.vatLinkError_aborts`, the new free list by
`vatFreeListRebuild_state`. -/
theorem pushAndLink : Obligations.PushAndLink := by
  unfold Obligations.PushAndLink
  refine ⟨fun s c w hready hfetch hop hempty hquota => ?_, fun s c w hready hfetch hop hroom =>
    cmdPush_stalls (State.customAt_some hready hfetch hop) hroom,
    fun s u k c p hu hon hrebuild hsome hk hc hwaiting hpush _ hempty hquota hused => ?_, vatPushServe_at_most_four,
    fun s k p more hon hserved => ⟨cmdLink_appends hon hserved, _, cmdLink_fails hon hserved, State.vatLinkError_aborts ..⟩,
    fun s k hon hrebuild hdone => vatFreeListRebuild_state hon hrebuild hdone⟩
  · rw [cmdPush_pushes (State.customAt_some hready hfetch hop)]
    exact congrArg Host.Outcome.next (State.noteStall_room (s := s.pushed c w) hempty hquota)
  · subst hk
    have hnow : u.now = s.now + 1 := hu ▸ s.at_now (Nat.le_succ _)
    obtain ⟨htnow, hfree, hlow, hcount, hleft, ⟨q, hserved, hcmd, hcell, hfresh, hord⟩, hrest⟩ := State.servePush_state hpush hempty hquota hused
    refine ⟨_, vatPushServe_one hu hon hrebuild hsome hc hwaiting hempty hquota, htnow.trans hnow, hfree, hlow, hcount, ?_,
      ⟨q, ?_, hcmd, hcell, hfresh, hord⟩, hrest⟩
    · rw [hleft, hwaiting]
      simp
    · rw [hserved, hnow]

end Sys2Proof.Machine
end

section
/-! PROOFS. The rows of a vector command: how a row enters, how it lands, and the end of the command (R178, R184, R188 to R190). -/

namespace Sys2Proof.Machine

open Sys2Proof

/-! ### A row that enters -/

/-- The parts of the state that the values of a row of core `c` depend on are those of `s`: memory, the generator's key and step, and of the
core the tags of its sliced accumulator rows and its logical number (R90, R183, R195). -/
structure SameRowInputs (s t : State) (c : Nat) : Prop where
  mem : t.mem = s.mem
  seed : t.get F.VE_SEED_SEED c = s.get F.VE_SEED_SEED c
  step : t.get F.VE_CTX_STEP c = s.get F.VE_CTX_STEP c
  tags : (t.core c).tags = (s.core c).tags
  logical : (t.core c).logical = (s.core c).logical

section
variable {s t : State} {c : Nat}

theorem SameRowInputs.readWin (h : SameRowInputs s t c) (off n : Nat) : t.readWin c off n = s.readWin c off n := by
  unfold State.readWin State.readMem
  rw [h.mem]

theorem SameRowInputs.winNat (h : SameRowInputs s t c) (off n : Nat) : t.winNat c off n = s.winNat c off n :=
  congrArg leNat (h.readWin off n)

theorem SameRowInputs.dropWord (h : SameRowInputs s t c) (layer e : Nat) : t.dropWord c layer e = s.dropWord c layer e := by
  unfold State.dropWord
  rw [h.seed, h.step]

theorem SameRowInputs.stochWord (h : SameRowInputs s t c) (id e : Nat) : t.stochWord c id e = s.stochWord c id e := by
  unfold State.stochWord
  rw [h.seed, h.step, h.logical]

theorem SameRowInputs.veReadA (h : SameRowInputs s t c) (q : Cmd) (n : Nat) : t.veReadA c q n = s.veReadA c q n := by
  unfold State.veReadA
  simp only [h.readWin, h.winNat]

theorem SameRowInputs.veReadB (h : SameRowInputs s t c) (q : Cmd) (n : Nat) : t.veReadB c q n = s.veReadB c q n := by
  unfold State.veReadB
  simp only [h.readWin]

theorem SameRowInputs.vePack (h : SameRowInputs s t c) (q : Cmd) (n e0 dst : Nat) (vals : List Num) :
    t.vePack c q n e0 dst vals = s.vePack c q n e0 dst vals := by
  unfold State.vePack
  simp only [h.stochWord]

theorem SameRowInputs.veRow (h : SameRowInputs s t c) (q : Cmd) (n : Nat) : t.veRow c q n = s.veRow c q n := by
  unfold State.veRow
  simp only [h.veReadA, h.veReadB, h.winNat, h.tags, h.dropWord, h.vePack]

/-- An access that takes banks leaves the inputs of a row. -/
theorem BanksTaken.rowInputs (h : BanksTaken s t c) : SameRowInputs s t c where
  mem := h.mem
  seed := h.get c 0 (by decide) rfl
  step := h.get c 0 (by decide) rfl
  tags := by rw [h.core]
  logical := by rw [h.core]

/-- A row whose checks pass, without errors, enters: it takes the banks of its ranges and is counted, and its result is due to land as many
ACLK later as R189 gives. -/
theorem State.veRowStart_enters {v : VeFly} (hhw : v.hw = .ok) (hinj : s.inj = []) (hiter : s.veIterBad c v.q.cmd v.n = false)
    (htied : (veRanges v.q.cmd v.n).any (s.tiedRange c) = false) (t : Nat) :
    BanksTaken s (s.veRowStart c v t).1 c ∧
      (s.veRowStart c v t).2 =
        { v with n := v.n + 1, at_ := t + veRowLen v.q.cmd, since := t + veRowLen v.q.cmd, lastW := max v.lastW (t + veRowLast v.q.cmd),
                 late := v.late ++ [(t + veRowLast v.q.cmd, s.veRow c v.q.cmd v.n)] } := by
  have htaken := (s.windowTake_taken c .ve v.since ((veRanges v.q.cmd v.n).map (fun r => (r.1.toNat, r.2)))).trans
    (.pmon _ c .VE c 0x40 0 (((vePasses v.q.cmd).map (vePassLen v.q.cmd)).foldl (· + ·) 0))
  unfold State.veRowStart
  simp only [hiter, htied, hhw, State.winReads_clean hinj, State.flagIf_false, Bool.false_eq_true, if_false, reduceCtorEq]
  exact ⟨htaken, by rw [htaken.rowInputs.veRow]⟩

end

/-! ### The bytes of a row that lands -/

/-- The pieces of a write, one after the other, are the whole write (R178). The fuel covers the 64-byte rows that the write touches. -/
theorem foldl_cutRowsFuel (base : Nat) {fuel a : Nat} {bs : List Byte} (m : List (Nat × Byte)) (h : a % 64 + bs.length ≤ 64 * fuel) :
    (cutRowsFuel a fuel bs).foldl (fun m q => putBytes m (base + q.1) q.2) m = putBytes m (base + a) bs := by
  induction fuel generalizing a bs m with
  | zero =>
    have hbs : bs = [] := List.length_eq_zero_iff.mp (by omega)
    subst hbs
    rfl
  | succ fuel ih =>
    unfold cutRowsFuel
    split
    · next hbs =>
      rw [List.isEmpty_iff.mp hbs]
      rfl
    · have hrest := ih (a := a + (64 - a % 64)) (bs := bs.drop (64 - a % 64)) (putBytes m (base + a) (bs.take (64 - a % 64)))
        (by rw [List.length_drop]; omega)
      have hwhole := putBytes_append (bs.take (64 - a % 64)) (bs.drop (64 - a % 64)) m (base + a)
      rw [List.take_append_drop] at hwhole
      rw [List.foldl_cons, hrest, hwhole]
      by_cases hlong : 64 - a % 64 ≤ bs.length
      · rw [List.length_take, Nat.min_eq_left hlong, Nat.add_assoc]
      · rw [List.drop_eq_nil_of_le (by omega)]
        rfl

theorem foldl_cutRows (base a : Nat) (bs : List Byte) (m : List (Nat × Byte)) :
    (cutRows a bs).foldl (fun m q => putBytes m (base + q.1) q.2) m = putBytes m (base + a) bs :=
  foldl_cutRowsFuel base m (by omega)

/-- Writes in a core's window, one after the other, change the bytes and leave every register but those of the injection, and every core. -/
theorem State.foldl_writeWin (l : List (Nat × List Byte)) (s : State) (c : Nat) :
    let u := l.foldl (fun s q => s.writeWin c q.1 q.2) s
    u.mem = l.foldl (fun m q => putBytes m (winBase c + q.1) q.2) s.mem ∧ (∀ k, sideReg k.reg = false → u.rd k = s.rd k) ∧ u.cores = s.cores := by
  induction l generalizing s with
  | nil => exact ⟨rfl, fun _ _ => rfl, rfl⟩
  | cons q l ih =>
    obtain ⟨hmem, hregs, hcores⟩ := ih (s.writeWin c q.1 q.2)
    obtain ⟨hregs', hcores'⟩ := s.writeMem_regs_cores (winBase c + q.1) q.2
    refine ⟨hmem.trans ?_, fun k hk => (hregs k hk).trans (hregs' k hk), hcores.trans hcores'⟩
    rw [List.foldl_cons, State.writeWin, State.writeMem_mem]

/-! ### The events of a row that lands -/

/-- `t` is `s` but for registers of the list and the event bits set in the present ACLK. -/
structure RegsMarked (l : List Reg) (s t : State) : Prop where
  rest : t = { s with regs := t.regs, evNow := t.evNow }
  regs : ∀ k, k.reg ∉ l → t.rd k = s.rd k

section
variable {l : List Reg} {s t u : State}

theorem RegsMarked.mem (h : RegsMarked l s t) : t.mem = s.mem := by rw [h.rest]
theorem RegsMarked.cores (h : RegsMarked l s t) : t.cores = s.cores := by rw [h.rest]
theorem RegsMarked.refl (s : State) : RegsMarked l s s := ⟨rfl, fun _ _ => rfl⟩

theorem RegsMarked.trans (h : RegsMarked l s t) (g : RegsMarked l t u) : RegsMarked l s u where
  rest := by
    have hu := g.rest
    rw [h.rest] at hu
    exact hu
  regs k hk := (g.regs k hk).trans (h.regs k hk)

theorem RegsMarked.set (s : State) (f : Field) (i v j : Nat) (h : f.reg ∈ l) : RegsMarked l s (s.set f i v j) :=
  ⟨rfl, fun k hk => State.rd_set_other _ _ _ _ _ k (fun e => hk (e ▸ h))⟩

theorem RegsMarked.flag (s : State) (f : Field) (i j : Nat) (h : f.reg ∈ l) : RegsMarked l s (s.flag f i j) :=
  ⟨rfl, fun _ hk => State.rd_flag_other _ _ _ _ (fun e => hk (e ▸ h))⟩

theorem RegsMarked.flagIf (s : State) (b : Bool) (f : Field) (i j : Nat) (h : f.reg ∈ l) : RegsMarked l s (s.flagIf b f i j) := by
  cases b with
  | false => exact .refl s
  | true => exact .flag _ _ _ _ h

end

section
variable (s : State) (c : Nat) (cmd : Cmd) (r : VeRow)

/-- The event bits of the values of a row (R184, R208). -/
def State.veRowFlags : State := ((s.flagIf r.nan F.VE_EVT_NAN c).flagIf r.inf F.VE_EVT_INF c).flagIf r.sat F.VE_EVT_SAT c

/-- The count of the results of a gradient that are not finite (R194). -/
def State.veGradCount : State :=
  if veGrad cmd && decide (s.get F.VE_CTX_PHASE c = 1) && decide (0 < r.bad) then
    (s.bump F.VE_CNT_NONFINITE c r.bad).flag F.VE_EVT_GRAD_NF c
  else s

theorem State.veRowFlags_marked : RegsMarked [.VE_EVT, .VE_CNT] s (s.veRowFlags c r) :=
  ((RegsMarked.flagIf _ _ _ _ _ (by decide)).trans (.flagIf _ _ _ _ _ (by decide))).trans (.flagIf _ _ _ _ _ (by decide))

theorem State.veGradCount_marked : RegsMarked [.VE_EVT, .VE_CNT] s (s.veGradCount c cmd r) := by
  unfold State.veGradCount
  split
  · exact (RegsMarked.set _ _ _ _ _ (by decide)).trans (.flag _ _ _ _ (by decide))
  · exact .refl s

/-- An event bit that may be set leaves the fields apart from it. -/
theorem State.get_flagIf_apart {f g : Field} (b : Bool) (i j i' j' : Nat) (hf : f.ok = true) (hg : g.ok = true) (h : f.apart g = true) :
    (s.flagIf b f i j).get g i' j' = s.get g i' j' := by
  cases b with
  | false => rfl
  | true => exact s.get_flag_apart i j i' j' hf hg h

/-- The event bits of a row's values that are set (R208). -/
theorem State.veRowFlags_set : (r.nan = true → (s.veRowFlags c r).get F.VE_EVT_NAN c = 1) ∧ (r.inf = true → (s.veRowFlags c r).get F.VE_EVT_INF c = 1) ∧
    (r.sat = true → (s.veRowFlags c r).get F.VE_EVT_SAT c = 1) := by
  unfold State.veRowFlags
  refine ⟨fun h => ?_, fun h => ?_, fun h => ?_⟩
  · rw [State.get_flagIf_apart _ _ _ _ _ _ (by decide) (by decide) (by decide), State.get_flagIf_apart _ _ _ _ _ _ (by decide) (by decide) (by decide),
      h, State.flagIf_true, State.get_flag_same _ _ _ _ (by decide) (by decide)]
  · rw [State.get_flagIf_apart _ _ _ _ _ _ (by decide) (by decide) (by decide), h, State.flagIf_true, State.get_flag_same _ _ _ _ (by decide) (by decide)]
  · rw [h, State.flagIf_true, State.get_flag_same _ _ _ _ (by decide) (by decide)]

/-- The count of a gradient leaves the fields apart from it and from its event bit. -/
theorem State.veGradCount_get {f : Field} (i j : Nat) (hf : f.ok = true) (hcnt : Field.apart F.VE_CNT_NONFINITE f = true)
    (hevt : Field.apart F.VE_EVT_GRAD_NF f = true) : (s.veGradCount c cmd r).get f i j = s.get f i j := by
  unfold State.veGradCount
  split
  · rw [State.get_flag_apart _ _ _ _ _ (by decide) hf hevt]
    exact State.get_set_apart _ _ _ _ _ _ (by decide) hf hcnt
  · rfl

/-- In the backward phase the results of a gradient command that are not finite are counted, up to the field's largest value (R194). -/
theorem State.veGradCount_counts (hg : veGrad cmd = true) (hp : s.get F.VE_CTX_PHASE c = 1) : (s.veGradCount c cmd r).get F.VE_CNT_NONFINITE c =
    min (s.get F.VE_CNT_NONFINITE c + r.bad) (2 ^ F.VE_CNT_NONFINITE.width - 1) := by
  have hlt : s.get F.VE_CNT_NONFINITE c < 2 ^ F.VE_CNT_NONFINITE.width := Field.of_lt ..
  unfold State.veGradCount
  by_cases hbad : 0 < r.bad
  · rw [if_pos (by simp [hg, hp, hbad]), State.get_flag_apart _ _ _ _ _ (by decide) (by decide) (by decide), State.bump,
      State.get_set_same _ _ _ _ _ (by decide)]
    exact Nat.mod_eq_of_lt (by omega)
  · rw [if_neg (by simp [hbad])]
    omega

end

/-! ### A row that lands -/

/-- A row of one write that the ME does not write over lands whole (R190). -/
theorem State.veLand_one {s : State} {c t a : Nat} {r : VeRow} {bs : List Byte} (cmd : Cmd) (hw : r.writes = [(a, bs)])
    (hme : (s.core c).meWrote.1 ≠ t) :
    s.veLand c cmd r t = (((cutRows a bs).foldl (fun s q => s.writeWin c q.1 q.2) s).veRowFlags c r).veGradCount c cmd r := by
  unfold State.veLand
  simp only [hw, hme, decide_false, Bool.false_and, Bool.false_eq_true, if_false, List.foldl_cons, List.foldl_nil]
  rfl

/-- What such a row leaves: its bytes, its event bits and its count, and everything else as it was. -/
theorem State.veLand_leaves {s : State} {c t a : Nat} {r : VeRow} {bs : List Byte} (cmd : Cmd) (hw : r.writes = [(a, bs)])
    (hme : (s.core c).meWrote.1 ≠ t) :
    let u := s.veLand c cmd r t
    u.mem = putBytes s.mem (winBase c + a) bs ∧
      (r.nan = true → u.get F.VE_EVT_NAN c = 1) ∧ (r.inf = true → u.get F.VE_EVT_INF c = 1) ∧ (r.sat = true → u.get F.VE_EVT_SAT c = 1) ∧
      (veGrad cmd = true → s.get F.VE_CTX_PHASE c = 1 →
        u.get F.VE_CNT_NONFINITE c = min (s.get F.VE_CNT_NONFINITE c + r.bad) (2 ^ F.VE_CNT_NONFINITE.width - 1)) ∧
      (∀ k, sideReg k.reg = false → k.reg ∉ [Reg.VE_EVT, .VE_CNT] → u.rd k = s.rd k) ∧ u.cores = s.cores := by
  rw [State.veLand_one cmd hw hme]
  obtain ⟨hmem, hregs, hcores⟩ := State.foldl_writeWin (cutRows a bs) s c
  rw [foldl_cutRows] at hmem
  generalize (cutRows a bs).foldl (fun s q => s.writeWin c q.1 q.2) s = w at hmem hregs hcores
  have hflags := w.veRowFlags_marked c r
  have hall := hflags.trans ((w.veRowFlags c r).veGradCount_marked c cmd r)
  obtain ⟨hnan, hinf, hsat⟩ := w.veRowFlags_set c r
  refine ⟨hall.mem.trans hmem, fun h => ?_, fun h => ?_, fun h => ?_, fun hg hp => ?_, fun k hk hne => (hall.regs k hne).trans (hregs k hk),
    hall.cores.trans hcores⟩
  · rw [State.veGradCount_get _ _ _ _ _ _ (by decide) (by decide) (by decide), hnan h]
  · rw [State.veGradCount_get _ _ _ _ _ _ (by decide) (by decide) (by decide), hinf h]
  · rw [State.veGradCount_get _ _ _ _ _ _ (by decide) (by decide) (by decide), hsat h]
  · have hphase : (w.veRowFlags c r).get F.VE_CTX_PHASE c = 1 := by
      rw [State.get_def, hflags.regs ⟨.VE_CTX, c, 0⟩ (show Reg.VE_CTX ∉ _ by decide), hregs _ rfl]
      exact hp
    have hcount : (w.veRowFlags c r).get F.VE_CNT_NONFINITE c = s.get F.VE_CNT_NONFINITE c := by
      unfold State.veRowFlags
      rw [State.get_flagIf_apart _ _ _ _ _ _ (by decide) (by decide) (by decide), State.get_flagIf_apart _ _ _ _ _ _ (by decide) (by decide) (by decide),
        State.get_flagIf_apart _ _ _ _ _ _ (by decide) (by decide) (by decide), State.get_def, hregs _ rfl]
      rfl
    rw [State.veGradCount_counts _ _ _ _ hg hphase, hcount]

/-! ### The end of a command -/

section
variable {s : State} {c t : Nat} {v : VeFly}

/-- A command with every row landed is done in the ACLK of its last write, and stays as it is before. -/
theorem State.veFinish_done (hv : (s.core c).veFly = some v) (hlate : v.late = []) (hstop : v.stop = none) (hdead : v.dead = false) (hcut : v.cut = none)
    (hn : v.n = Cmd.iters v.q.cmd) :
    s.veFinish c t = if v.lastW ≤ t then ((s.modCore c (fun x => { x with veFly := none })).setEntry c .ve v.lastW).complete c .ve v.q 0 0
      else s.modCore c (fun x => { x with veFly := some v }) := by
  have hsame : ({ v with late := [] } : VeFly) = v := by rw [← hlate]
  unfold State.veFinish
  simp only [hv, hlate, List.filter_nil, List.foldl_nil, hsame]
  by_cases ht : v.lastW ≤ t
  · simp [hstop, hdead, hcut, hn, ht]
  · simp [ht, hdead]

end

/-- Settles O14: a row enters by `State.veRowStart_enters` and lands by `State.veLand_leaves`; the command is done by `State.veFinish_done`. -/
theorem vectorRows : Obligations.VectorRows := by
  unfold Obligations.VectorRows
  refine ⟨fun s c t v hhw hinj hiter htied => ?_, fun s c t a cmd r bs hw hme => ?_, fun s c t v hv hlate hstop hdead hcut hn => ?_⟩
  · obtain ⟨htaken, hfly⟩ := State.veRowStart_enters hhw hinj hiter htied t
    exact ⟨hfly, htaken.mem, fun k hside hspd => htaken.regs k hspd hside, htaken.trf, htaken.others⟩
  · obtain ⟨hmem, hevents⟩ := State.veLand_leaves cmd hw hme
    refine ⟨fun j hj => ?_, fun x hx => ?_, hevents⟩
    · rw [State.readByte, hmem]
      exact getByte_putBytes_at _ _ _ hj
    · rw [State.readByte, hmem]
      exact getByte_putBytes_other _ _ _ _ hx
  · rw [State.veFinish_done hv hlate hstop hdead hcut hn]
    refine ⟨fun ht => if_pos ht, fun ht => ?_⟩
    rw [if_neg (by omega), State.modCore_same]
    exact ⟨rfl, rfl, rfl⟩

end Sys2Proof.Machine
end

section
/-! PROOFS. One access at a scratchpad bank: its service, its write, the bank-unit operations (R216 to R231). -/

namespace Sys2Proof.Machine

open Sys2Proof

/-! ### Banks of a core -/

@[simp] theorem CoreSt.bank_setBank_same (x : CoreSt) (b : Nat) (k : BankSt) : (x.setBank b k).bank b = k := lookD_putD_same ..

theorem CoreSt.bank_setBank_other (x : CoreSt) {b d : Nat} (k : BankSt) (h : d ≠ b) : (x.setBank b k).bank d = x.bank d := lookD_putD_other _ _ _ _ _ h

@[simp] theorem State.bank_modBank_same (s : State) (c b : Nat) (f : BankSt → BankSt) :
    ((s.modBank c b f).core c).bank b = f ((s.core c).bank b) := by
  simp [State.modBank]

theorem State.bank_modBank_other (s : State) (c : Nat) {b d : Nat} (f : BankSt → BankSt) (h : d ≠ b) :
    ((s.modBank c b f).core c).bank d = (s.core c).bank d := by
  simp [State.modBank, CoreSt.bank_setBank_other _ _ h]

theorem State.core_modBank_other (s : State) {c d : Nat} (b : Nat) (f : BankSt → BankSt) (h : d ≠ c) : (s.modBank c b f).core d = s.core d :=
  State.modCore_other _ _ h

@[simp] theorem State.modBank_dmCmds (s : State) (c b : Nat) (f : BankSt → BankSt) : ((s.modBank c b f).core c).dmCmds = (s.core c).dmCmds := by
  simp [State.modBank, CoreSt.setBank]

theorem State.modBank_local (s : State) (c b : Nat) (f : BankSt → BankSt) : Local s (s.modBank c b f) := .modCore ..

@[simp] theorem State.modBank_rd (s : State) (c b : Nat) (f : BankSt → BankSt) (k : RKey) : (s.modBank c b f).rd k = s.rd k := rfl

theorem State.rd_flagIf_other (s : State) (b : Bool) (f : Field) (i j : Nat) {k : RKey} (h : k ≠ ⟨f.reg, i, j⟩) :
    (s.flagIf b f i j).rd k = s.rd k := by
  cases b with
  | false => rfl
  | true => exact s.rd_flag_other f i j h

/-! ### The choice of a bank at which one access waits (R218, R219) -/

theorem BankSt.oldest_lone {k : BankSt} {a : BankAcc} (h : k.waiting = [a]) (m : BankMaster) :
    k.oldest m = if a.master = m then some a else none := by
  simp [BankSt.oldest, h, List.find?_cons]
  split <;> simp_all

/-- The access of a bank without operations presents itself. -/
theorem BankSt.presented_lone {k : BankSt} {a : BankAcc} (h : k.waiting = [a]) (hops : k.ops = []) (t : Nat) : k.presented t = [a] := by
  have hlock : k.lockedRow a = false := by simp [BankSt.lockedRow, hops]
  have hslot : k.slotOk a t = true := by simp [BankSt.slotOk, hops]
  unfold BankSt.presented
  simp only [BankSt.oldest_lone h]
  cases hm : a.master <;> simp [hlock, hslot]

/-- It is chosen, by ageing or by its turn. -/
theorem BankSt.pick_lone {k : BankSt} {a : BankAcc} (h : k.waiting = [a]) (hops : k.ops = []) (owner age t : Nat) :
    ∃ g, k.pick owner age t = some (a, g) := by
  unfold BankSt.pick
  rw [BankSt.presented_lone h hops]
  by_cases hown : a.master.code = owner
  · exact ⟨false, by simp [hown, firstSince]⟩
  · by_cases haged : 0 < age ∧ a.since + age ≤ t
    · exact ⟨true, by simp [hown, haged, firstSince]⟩
    · refine ⟨false, ?_⟩
      have hrr (n : Nat) : rrPick n [a] = some a := by
        unfold rrPick
        split
        · next h => exact congrArg some (List.mem_singleton.mp (List.mem_of_find?_eq_some h))
        · rfl
      have hfilter : [a].filter (fun a => decide (0 < age) && decide (a.since + age ≤ t)) = [] := by simpa using haged
      simp [hown, hfilter, firstSince, hrr]

theorem BankSt.take_lone {k : BankSt} {a : BankAcc} (h : k.waiting = [a]) (t : Nat) : k.take a t = { k with waiting := [], rr := a.master.code } := by
  simp [BankSt.take, h, dropFirst]

/-- A bank behind the service of its access in ACLK `t`. -/
def BankSt.served (k : BankSt) (a : BankAcc) (t : Nat) : BankSt := { k with waiting := [], rr := a.master.code, next := t + a.holds }

/-- The state in which bank `b` has taken its access, by ageing or not. -/
def State.bankTakes (s : State) (c b : Nat) (a : BankAcc) (aged : Bool) : State :=
  ((((s.modBank c b (fun k => k.served a s.now)).flagIf aged F.SPD_EVT_AGED c).pmon .SPD c 0x50 b a.holds).pmon .SPD c 0x52 b
    (b2n aged)).pmon .SPD c 0x53 b (b2n a.isOp)

/-- Behind the change of its bank, the service of an access records events alone. -/
theorem State.bankTakes_taken (s : State) (c b : Nat) (a : BankAcc) (aged : Bool) :
    BanksTaken (s.modBank c b (fun k => k.served a s.now)) (s.bankTakes c b a aged) c :=
  (((BanksTaken.flagIf _ _ _ _ rfl).trans (.pmon ..)).trans (.pmon ..)).trans (.pmon ..)

theorem State.bankTakes_rd (s : State) (c b : Nat) (a : BankAcc) (aged : Bool) {k : RKey} (hs : sideReg k.reg = false) (hk : k ≠ ⟨.SPD_EVT, c, 0⟩) :
    (s.bankTakes c b a aged).rd k = s.rd k := by
  unfold State.bankTakes
  rw [(State.pmon_quiet ..).regs k hs, (State.pmon_quiet ..).regs k hs, (State.pmon_quiet ..).regs k hs, State.rd_flagIf_other _ _ _ _ _ hk,
    State.modBank_rd]

/-- Bank `b` of core `c` is free, and the access `a` alone waits at it. -/
structure BankFree (s : State) (c b : Nat) (a : BankAcc) : Prop where
  present : s.corePresent c = true
  waiting : ((s.core c).bank b).waiting = [a]
  granted : ((s.core c).bank b).granted = none
  trans : ((s.core c).bank b).trans = none
  ops : ((s.core c).bank b).ops = []
  lastOp : ((s.core c).bank b).lastOp = none
  parts : ((s.core c).bank b).parts = []
  next : ((s.core c).bank b).next ≤ s.now
  owner : s.ownerPresents c b s.now = false
  inj : s.inj = []

section
variable {s : State} {c b : Nat} {a : BankAcc}

/-- A free bank serves the access that waits at it in the present ACLK. -/
theorem BankFree.serve (h : BankFree s c b a) : ∃ aged, exec (.bankServe c b .ok) s = .next (
    if a.isRead then (s.bankTakes c b a aged).bankDone c b a 0 (s.readWin c a.off a.len)
    else (s.bankTakes c b a aged).modBank c b (fun k => { k with granted := some (a, s.now) })) := by
  obtain ⟨aged, hpick⟩ := BankSt.pick_lone h.waiting h.ops (s.bankOwner c b) (s.get F.SPD_CFG_AGE c) s.now
  have hfwd : ((s.core c).bank b).forward s.now = none := by simp [BankSt.forward, h.lastOp]
  have hslots : (((s.core c).bank b).ops.any fun o => o.slots.any fun w => decide (w ≤ s.now)) = false := by rw [h.ops]; rfl
  have htake : (s.modBank c b fun k => { k.take a s.now with next := s.now + a.holds }) = s.modBank c b (fun k => k.served a s.now) := by
    unfold State.modBank State.modCore
    dsimp only
    rw [BankSt.take_lone h.waiting]
    rfl
  have hinj : (s.bankTakes c b a aged).inj = [] := (s.bankTakes_taken c b a aged).inj.trans h.inj
  have hmem : (s.bankTakes c b a aged).mem = s.mem := (s.bankTakes_taken c b a aged).mem
  have hread : (s.bankTakes c b a aged).readWin c a.off a.len = s.readWin c a.off a.len := by
    unfold State.readWin State.readMem
    rw [hmem]
  have hclean := State.winReads_clean hinj c a.master.code a.readRanges a.off
  refine ⟨aged, ?_⟩
  show execBankServe c b .ok s = _
  unfold execBankServe
  simp only [Nat.max_eq_left h.next, hfwd, hslots, h.owner, hpick, h.present, h.granted, h.trans, Option.map_some, Option.isSome_none, Bool.not_true,
    Bool.or_self, Bool.false_eq_true, if_false, and_false, s.at_of_le s.now (Nat.le_refl _), htake]
  unfold State.bankTakes at hclean hread ⊢
  simp only [hclean, hread, Bool.false_eq_true, if_false]
  split <;> rfl

/-- What the service of an access leaves: its bank behind the service, granting `g`, with events recorded and everything else as it was. -/
structure BankServed (s u : State) (c b : Nat) (a : BankAcc) (g : Option (BankAcc × Nat)) : Prop where
  bank : (u.core c).bank b = { ((s.core c).bank b).served a s.now with granted := g }
  now : u.now = s.now
  mem : u.mem = s.mem
  regs : ∀ k, sideReg k.reg = false → k ≠ ⟨.SPD_EVT, c, 0⟩ → u.rd k = s.rd k
  banks : ∀ d, d ≠ b → (u.core c).bank d = (s.core c).bank d
  dmCmds : (u.core c).dmCmds = (s.core c).dmCmds
  others : ∀ d, d ≠ c → u.core d = s.core d
  stq : u.stq = s.stq

theorem State.bankTakes_bank (s : State) (c b : Nat) (a : BankAcc) (aged : Bool) (d : Nat) :
    ((s.bankTakes c b a aged).core c).bank d = ((s.modBank c b (fun k => k.served a s.now)).core c).bank d := by
  rw [(s.bankTakes_taken c b a aged).core]; rfl

/-- The service, and a last change of the bank behind it. -/
theorem State.bankTakes_served (s : State) (c b : Nat) (a : BankAcc) (aged : Bool) (f : BankSt → BankSt) {g : Option (BankAcc × Nat)}
    (hf : f (((s.core c).bank b).served a s.now) = { ((s.core c).bank b).served a s.now with granted := g }) :
    BankServed s ((s.bankTakes c b a aged).modBank c b f) c b a g where
  bank := by rw [State.bank_modBank_same, s.bankTakes_bank, State.bank_modBank_same, hf]
  now := (s.bankTakes_taken c b a aged).now
  mem := (s.bankTakes_taken c b a aged).mem
  regs k hs hk := s.bankTakes_rd c b a aged hs hk
  banks d hd := by rw [State.bank_modBank_other _ _ _ hd, s.bankTakes_bank, State.bank_modBank_other _ _ _ hd]
  dmCmds := by rw [State.modBank_dmCmds, (s.bankTakes_taken c b a aged).dmCmds, State.modBank_dmCmds]
  others d hd := by
    rw [State.core_modBank_other _ _ _ hd, (s.bankTakes_taken c b a aged).others d hd, State.core_modBank_other _ _ _ hd]
  stq := by
    have h : (s.bankTakes c b a aged).stq = (s.modBank c b (fun k => k.served a s.now)).stq := by rw [(s.bankTakes_taken c b a aged).rest]
    exact h
end

/-! ### The end of an access (R227, R231, R232) -/

/-- No access of the request `grp` is left at the bank, and none of its answers has been gathered. -/
structure BankSt.Alone (k : BankSt) (grp : Nat) : Prop where
  parts : k.parts = []
  waiting : k.waiting.any (fun x => decide (x.grp = grp)) = false
  ops : k.ops.any (fun o => decide (o.acc.grp = grp)) = false
  granted : k.granted = none

theorem BankSt.Alone.openOf {k : BankSt} {grp : Nat} (h : k.Alone grp) : k.openOf grp = false := by
  simp [BankSt.openOf, h.waiting, h.ops, h.granted]

/-- The answer of a request of one access leaves as the access ends. -/
theorem State.bankDone_alone {s : State} {c b : Nat} {a : BankAcc} {st : Nat} (data : List Byte) (h : ((s.core c).bank b).Alone a.grp)
    (hst : st ≠ partRefused) :
    s.bankDone c b a st data = (s.modBank c b (fun k => { k with parts := dropKey k.parts a.grp })).bankAnswer c a st data := by
  have hfind : find? ((s.core c).bank b).parts a.grp = none := by rw [h.parts]; rfl
  unfold State.bankDone
  simp only [hfind, Option.getD_none, if_true, h.openOf, Bool.false_eq_true, if_false, if_neg hst, List.nil_append]

/-- An answer that is not for the own data mover enters the mesh, or a multicast's record. -/
theorem State.bankAnswer_far (s : State) (c : Nat) {a : BankAcc} (st : Nat) (data : List Byte) (h : ∀ id it ret, a.ans ≠ .dm id it ret) :
    ∃ r q, s.bankAnswer c a st data = { s with routers := r, stq := q } := by
  have hmc (die cl src tag reason : Nat) : ∃ r q, s.mcAnswer die cl src tag reason = { s with routers := r, stq := q } := by
    unfold State.mcAnswer
    dsimp only
    split
    · exact ⟨_, _, rfl⟩
    · split <;> exact ⟨_, _, rfl⟩
  unfold State.bankAnswer
  split
  · exact ⟨_, _, rfl⟩
  · next id it ret ha => exact absurd ha (h id it ret)
  · split
    · exact hmc ..
    · exact ⟨_, _, rfl⟩

/-- The end of a request's one access keeps memory, registers, the clock and the operations of the bank. -/
structure BankEnded (s t : State) (c b : Nat) : Prop where
  bank : (t.core c).bank b = (s.core c).bank b
  mem : t.mem = s.mem
  regs : t.regs = s.regs
  now : t.now = s.now

theorem BankSt.dropParts {k : BankSt} (h : k.parts = []) (grp : Nat) : { k with parts := dropKey k.parts grp } = k := by
  cases k; cases h; rfl

theorem State.bankDone_ended {s : State} {c b : Nat} {a : BankAcc} {st : Nat} (data : List Byte) (h : ((s.core c).bank b).Alone a.grp)
    (hst : st ≠ partRefused) (ha : ∀ id it ret, a.ans ≠ .dm id it ret) : BankEnded s (s.bankDone c b a st data) c b := by
  have hbank : ((s.modBank c b (fun k => { k with parts := dropKey k.parts a.grp })).core c).bank b = (s.core c).bank b := by
    rw [State.bank_modBank_same, BankSt.dropParts h.parts]
  obtain ⟨r, q, hfar⟩ := State.bankAnswer_far (s.modBank c b (fun k => { k with parts := dropKey k.parts a.grp })) c st data ha
  rw [State.bankDone_alone data h hst, hfar]
  exact ⟨hbank, rfl, rfl, rfl⟩

/-! ### Bytes that land (R336, R338) -/

/-- What the count of landed bytes keeps: everything but registers and records of the core, and of these its banks. -/
structure BankKeeps (s t : State) (c : Nat) : Prop where
  rest : Local s t
  bank : ∀ b, (t.core c).bank b = (s.core c).bank b

theorem BankKeeps.refl (s : State) (c : Nat) : BankKeeps s s c := ⟨.refl s, fun _ => rfl⟩

theorem BankKeeps.trans {s t u : State} {c : Nat} (h : BankKeeps s t c) (g : BankKeeps t u c) : BankKeeps s u c :=
  ⟨h.rest.trans g.rest, fun b => (g.bank b).trans (h.bank b)⟩

theorem State.landBytes_keeps (n : Nat) (s : State) (c off count : Nat) : BankKeeps s (s.landBytes c off count n) c := by
  induction n generalizing s off with
  | zero => exact .refl s c
  | succ n ih =>
    refine BankKeeps.trans ?_ (ih _ _)
    split
    · exact ⟨rfl, fun _ => by simp [State.noteLand, CoreSt.bank]⟩
    · exact .refl s c

theorem State.landed_keeps (s : State) (c : Nat) (a : BankAcc) : BankKeeps s (s.landed c a) c := by
  unfold State.landed
  split
  · exact State.landBytes_keeps ..
  · exact .refl s c

/-- Outside every landing window nothing is counted. -/
theorem State.landBytes_none (n : Nat) (s : State) (c off count : Nat) (h : ∀ j, j < n → s.landWin c (off + j) = none) :
    s.landBytes c off count n = s := by
  induction n generalizing off with
  | zero => rfl
  | succ n ih =>
    have h0 : s.landWin c off = none := h 0 (Nat.succ_pos n)
    unfold State.landBytes
    simp only [h0]
    exact ih _ (fun j hj => by rw [Nat.add_assoc, Nat.add_comm 1 j]; exact h (j + 1) (Nat.succ_lt_succ hj))

theorem State.landed_none (s : State) (c : Nat) {a : BankAcc} (h : ∀ j, j < a.len → s.landWin c (a.off + j) = none) : s.landed c a = s := by
  unfold State.landed
  split
  · exact s.landBytes_none _ _ _ _ h
  · rfl

/-- Landing windows are laid out in SYNC_LWIN. -/
theorem State.landWin_congr {s t : State} (h : ∀ k, sideReg k.reg = false → t.rd k = s.rd k) (c off : Nat) : t.landWin c off = s.landWin c off := by
  have hget (f : Field) (w : Nat) (hf : sideReg f.reg = false) : t.get f c w = s.get f c w := congrArg f.of (h _ hf)
  unfold State.landWin
  simp only [hget F.SYNC_LWIN_EN _ rfl, hget F.SYNC_LWIN_BASE _ rfl, hget F.SYNC_LWIN_SIZE_M1 _ rfl]

/-! ### A write of the bank (R227) -/

@[simp] theorem State.writeWin_mem (s : State) (c off : Nat) (bs : List Byte) : (s.writeWin c off bs).mem = putBytes s.mem (winBase c + off) bs :=
  State.writeMem_mem ..

@[simp] theorem State.writeWin_core (s : State) (c d off : Nat) (bs : List Byte) : (s.writeWin c off bs).core d = s.core d := State.writeMem_core ..

theorem State.writeWin_rd (s : State) (c off : Nat) (bs : List Byte) {k : RKey} (hk : sideReg k.reg = false) :
    (s.writeWin c off bs).rd k = s.rd k := (s.writeMem_regs_cores _ _).1 k hk

/-- A write of the window writes its bytes, and no other. -/
theorem readByte_of_putBytes {s t : State} {a : Nat} {bs : List Byte} (h : t.mem = putBytes s.mem a bs) :
    (∀ j, j < bs.length → t.readByte (a + j) = bs.getD j 0) ∧ (∀ x, x < a ∨ a + bs.length ≤ x → t.readByte x = s.readByte x) := by
  unfold State.readByte
  rw [h]
  exact ⟨fun j hj => getByte_putBytes_at _ _ _ hj, fun x hx => getByte_putBytes_other _ _ _ _ hx⟩

/-- The write of an access or of an operation: its bytes are written, those of the mesh land, and the access ends. -/
def State.bankWrites (s : State) (c b : Nat) (a : BankAcc) (bs data : List Byte) : State :=
  ((s.writeWin c a.off bs).landed c a).bankDone c b a 0 data

/-- What the write of an access leaves: the bytes `bs` at the offset `off`, every other byte, the bank and the clock, and outside landing
windows every register. -/
structure BankWrote (s t : State) (c b : Nat) (a : BankAcc) (bs : List Byte) : Prop where
  same : ∀ j, j < bs.length → t.readByte (winBase c + a.off + j) = bs.getD j 0
  other : ∀ x, x < winBase c + a.off ∨ winBase c + a.off + bs.length ≤ x → t.readByte x = s.readByte x
  bank : (t.core c).bank b = (s.core c).bank b
  now : t.now = s.now
  regs : (∀ j, j < a.len → s.landWin c (a.off + j) = none) → ∀ k, sideReg k.reg = false → t.rd k = s.rd k

theorem State.bankWrites_wrote {s : State} {c b : Nat} {a : BankAcc} (bs data : List Byte) (h : ((s.core c).bank b).Alone a.grp)
    (ha : ∀ id it ret, a.ans ≠ .dm id it ret) : BankWrote s (s.bankWrites c b a bs data) c b a bs := by
  have hland := State.landed_keeps (s.writeWin c a.off bs) c a
  have hended : BankEnded ((s.writeWin c a.off bs).landed c a) (s.bankWrites c b a bs data) c b := by
    refine State.bankDone_ended data ?_ (by decide) ha
    rw [hland.bank, State.writeWin_core]
    exact h
  have hmem : (s.bankWrites c b a bs data).mem = putBytes s.mem (winBase c + a.off) bs := by
    rw [hended.mem, hland.rest.mem, State.writeWin_mem]
  obtain ⟨hsame, hother⟩ := readByte_of_putBytes hmem
  refine ⟨hsame, hother, ?_, ?_, fun hnone k hk => ?_⟩
  · rw [hended.bank, hland.bank, State.writeWin_core]
  · rw [hended.now, hland.rest.now, State.writeWin_now]
  · have hwin := State.landWin_congr (t := s.writeWin c a.off bs) (fun k hk => s.writeWin_rd c a.off bs hk)
    unfold State.rd
    rw [hended.regs, State.landed_none _ _ (fun j hj => (hwin ..).trans (hnone j hj))]
    exact s.writeWin_rd c a.off bs hk

/-! ### Operations (R227, R228) -/

/-- The elements of a string of bytes. -/
theorem elems_eq_map (e : Nat) (bs : List Byte) (n : Nat) : elems e bs n = (List.range n).map (fun i => leNat ((bs.drop (i * e)).take e)) := by
  induction n generalizing bs with
  | zero => rfl
  | succ n ih =>
    have hstep (i : Nat) : e + i * e = (i + 1) * e := by rw [Nat.add_mul, Nat.one_mul, Nat.add_comm]
    rw [elems, ih, List.range_succ_eq_map, List.map_cons, List.map_map]
    simp only [List.drop_drop, hstep, Function.comp_def, Nat.zero_mul, List.drop_zero, Nat.succ_eq_add_one]

theorem getElem_elems {e n j : Nat} (bs : List Byte) (hj : j < (elems e bs n).length) :
    (elems e bs n)[j] = leNat ((bs.drop (j * e)).take e) := by simp [elems_eq_map]

/-- An element of numbers written one after the other. -/
theorem leNat_slice_leBytes (e : Nat) (vs : List Nat) {j : Nat} (hj : j < vs.length) :
    leNat (((vs.flatMap (leBytes e)).drop (j * e)).take e) = vs[j] % 2 ^ (8 * e) := by
  have h := elems_leBytes e vs
  rw [elems_eq_map] at h
  have hat := congrArg (fun l => l.getD j 0) h
  simpa [List.getD_eq_getElem?_getD, hj] using hat

/-- ADD, MAX and AXPY, element by element. -/
theorem bankCompute_elem {a : BankAcc} (old : List Byte) (h4 : a.bop ≠ 4) (h5 : a.bop ≠ 5) {j : Nat} (hj : j < a.len / (Fmt.ofCode a.fmt).bytes) :
    leNat (((bankCompute a old).1.drop (j * (Fmt.ofCode a.fmt).bytes)).take (Fmt.ofCode a.fmt).bytes) =
      (bankElem (Fmt.ofCode a.fmt) a.bop a.imm (leNat ((a.data.drop (j * (Fmt.ofCode a.fmt).bytes)).take (Fmt.ofCode a.fmt).bytes))
        (leNat ((old.drop (j * (Fmt.ofCode a.fmt).bytes)).take (Fmt.ofCode a.fmt).bytes))).code % 2 ^ (8 * (Fmt.ofCode a.fmt).bytes) := by
  unfold bankCompute
  dsimp only
  split
  · next h => exact absurd h h4
  · next h => exact absurd h h5
  · rw [← List.flatMap_map (f := fun z : Conv => z.code) (g := leBytes (Fmt.ofCode a.fmt).bytes), leNat_slice_leBytes _ _ (by simpa [elems_eq_map] using hj)]
    simp [elems_eq_map]

/-- G8ACC, element by element. -/
theorem bankCompute_g8 {a : BankAcc} (old : List Byte) (h5 : a.bop = 5) (hlen : a.data.length = 32) {j : Nat} (hj : j < 32) :
    leNat (((bankCompute a old).1.drop (4 * j)).take 4) =
      (toFp32 ((fp32 (g8Decode (a.imm % 256) (a.data.getD j 0).toNat).code).add (fp32 (leNat ((old.drop (4 * j)).take 4))))).code % 2 ^ 32 := by
  unfold bankCompute
  simp only [h5]
  rw [← List.flatMap_map (f := fun z : Nat × Bool × Bool => z.1) (g := leBytes 4), Nat.mul_comm, leNat_slice_leBytes _ _ (by simpa [elems_eq_map, hlen] using hj)]
  simp [elems_eq_map, List.getD_eq_getElem?_getD, hlen, hj]

theorem bankCompute_inc {a : BankAcc} (old : List Byte) (h4 : a.bop = 4) : (bankCompute a old).1 = leBytes 4 (leNat old + 1) := by
  unfold bankCompute; simp only [h4]

/-- A granted operation between its read and its write. -/
def State.bankOpOf (s : State) (c : Nat) (a : BankAcc) (n : Nat) : BankOp :=
  { acc := a, old := s.readWin c a.off a.len, result := (bankCompute a (s.readWin c a.off a.len)).1, writeAt := n + (if a.rows = 2 then 4 else 3) }

theorem State.bankFlags_keeps (s : State) (c : Nat) (r : List Byte × Bool × Bool × Bool) : BankKeeps s (s.bankFlags c r) c := by
  have hflag (t : State) (b : Bool) (f : Field) : BankKeeps t (t.flagIf b f c) c := ⟨t.flagIf_local b f c 0, fun _ => by cases b <;> rfl⟩
  exact ((hflag ..).trans (hflag ..)).trans (hflag ..)

theorem State.bankFlags_rd (s : State) (c : Nat) (r : List Byte × Bool × Bool × Bool) {k : RKey} (hk : k ≠ ⟨.SPD_EVT, c, 0⟩) :
    (s.bankFlags c r).rd k = s.rd k := by
  unfold State.bankFlags
  rw [State.rd_flagIf_other _ _ _ _ _ hk, State.rd_flagIf_other _ _ _ _ _ hk, State.rd_flagIf_other _ _ _ _ _ hk]

/-- A granted operation reads its row and joins the operations of its bank. -/
theorem State.bankStart_granted {s : State} {c b n bop : Nat} {a : BankAcc} (hg : ((s.core c).bank b).granted = some (a, n)) (hb : a.bop = bop) :
    s.bankStart c b bop = (s.modBank c b (fun k => { k with granted := none, ops := k.ops ++ [s.bankOpOf c a n] })).bankFlags c
      (bankCompute a (s.readWin c a.off a.len)) := by
  have hop : s.grantedOp c b bop = some (a, n) := by simp [State.grantedOp, hg, hb]
  unfold State.bankStart
  rw [hop]
  rfl

/-- What the read of a granted operation leaves. -/
theorem State.bankStart_leaves {s : State} {c b n bop : Nat} {a : BankAcc} (hg : ((s.core c).bank b).granted = some (a, n)) (hb : a.bop = bop) :
    Local s (s.bankStart c b bop) ∧ ((s.bankStart c b bop).core c).bank b =
        { (s.core c).bank b with granted := none, ops := ((s.core c).bank b).ops ++ [s.bankOpOf c a n] } ∧
      (∀ k, k ≠ ⟨.SPD_EVT, c, 0⟩ → (s.bankStart c b bop).rd k = s.rd k) := by
  rw [State.bankStart_granted hg hb]
  have hkeep := State.bankFlags_keeps (s.modBank c b (fun k => { k with granted := none, ops := k.ops ++ [s.bankOpOf c a n] })) c
    (bankCompute a (s.readWin c a.off a.len))
  exact ⟨(s.modBank_local ..).trans hkeep.rest, by rw [hkeep.bank, State.bank_modBank_same], fun k hk => by rw [State.bankFlags_rd _ _ _ hk, State.modBank_rd]⟩

/-! ### A check that fails (R231) -/

/-- The record of a failed access is written to SPD_ECC_LOG alone (R250). -/
theorem State.spdLog_frame (s : State) (c master kind off : Nat) :
    RegFrame [.SPD_ECC_LOG] s (s.spdLog c master kind off) ∧ (s.spdLog c master kind off).core c = s.core c := by
  by_cases h : s.get F.SPD_ECC_LOG_VALID c = 1
  · rw [State.spdLog, if_pos h]
    exact ⟨.refl _, rfl⟩
  · rw [State.spdLog, if_neg h]
    exact ⟨.wr _ _ _ (by simp), State.wr_core_read ..⟩

/-- A failed check of a bank unit sets BANK_CHECK and leaves the core; memory changes in event rings only. -/
theorem State.spdFail_check (s : State) (c master off : Nat) :
    (s.spdFail c master 1 off).get F.SPD_EVT_BANK_CHECK c = 1 ∧ (s.spdFail c master 1 off).core c = s.core c ∧ MemQuiet s (s.spdFail c master 1 off) := by
  obtain ⟨hlog, hcore⟩ := (s.flag F.SPD_EVT_BANK_CHECK c).spdLog_frame c master 1 off
  have hrec (d : List Byte) := ((s.flag F.SPD_EVT_BANK_CHECK c).spdLog c master 1 off).logHw_quiet 2 .SPD 4 c d
  unfold State.spdFail
  simp only [Nat.one_ne_zero, if_false]
  refine ⟨?_, ?_, ((MemQuiet.of_local (.flag ..)).trans hlog.mem).trans (.of_quiet (hrec _))⟩
  · rw [(hrec _).get _ _ _ rfl, hlog.get _ _ (by decide) rfl]
    exact State.get_flag_same _ _ _ _ (by decide) (by decide)
  · rw [(hrec _).core, hcore]
    exact State.flag_core_read ..

/-! ### The statement -/

/-- A bank without a granted access. -/
def BankSt.ungranted (k : BankSt) : BankSt := { k with granted := none }

/-- BANK_WRITE writes the granted access. -/
theorem State.bankWrite_granted {s : State} {c b n : Nat} {a : BankAcc} (hg : ((s.core c).bank b).granted = some (a, n)) (hb : a.bop = 0) :
    exec (.bankWrite c b) s = .next ((s.modBank c b BankSt.ungranted).bankWrites c b a a.data []) := by
  have hop : s.grantedOp c b 0 = some (a, n) := by simp [State.grantedOp, hg, hb]
  show execBankWrite c b s = _
  unfold execBankWrite
  rw [hop]
  rfl

/-- A bank behind the write slot of its only operation. -/
def BankSt.written (k : BankSt) (o : BankOp) : BankSt :=
  { k with ops := [], next := max k.next (o.writeAt + 1), lastOp := some (o.acc.row, o.acc.rows, o.writeAt) }

/-- BANK_OP_WRITEBACK of the only operation of a bank, when its slot has come. -/
theorem State.bankOpWriteback_one {s : State} {c b : Nat} {o : BankOp} (ho : ((s.core c).bank b).ops = [o]) (ht : o.writeAt ≤ s.now) (fail : Bool) :
    exec (.bankOpWriteback c b fail) s = .next (
      let u := s.modBank c b (fun k => k.written o)
      if fail then (u.spdFail c o.acc.master.code 1 o.acc.off).bankDone c b o.acc 0xD []
      else u.bankWrites c b o.acc o.result (if o.acc.bop = 4 then o.old else [])) := by
  show execBankOpWriteback c b fail s = _
  unfold execBankOpWriteback
  simp only [ho, s.at_of_le _ ht]
  split <;> rfl

/-- Settles O18: the service (`BankFree.serve`, `State.bankTakes_served`), the write (`State.bankWrites_wrote`), the operations
(`State.bankStart_leaves`, `bankCompute_elem`, `bankCompute_g8`) and their write slot (`State.bankOpWriteback_one`, `State.spdFail_check`). -/
theorem bankService : Obligations.BankService := by
  unfold Obligations.BankService
  refine ⟨?serve, ?write, ?op, ?back⟩
  case serve =>
    intro s c b a hpres hwait hgr htr hops hlast hparts hnext hown hinj
    obtain ⟨aged, hexec⟩ := BankFree.serve ⟨hpres, hwait, hgr, htr, hops, hlast, hparts, hnext, hown, hinj⟩
    constructor
    · intro hread
      have hserved := s.bankTakes_served c b a aged (fun k => { k with parts := dropKey k.parts a.grp }) (g := none)
        (by simp only [BankSt.served, hparts, hgr]; rfl)
      have halone : (((s.bankTakes c b a aged).core c).bank b).Alone a.grp := by
        rw [s.bankTakes_bank, State.bank_modBank_same]
        exact ⟨hparts, rfl, by simp [BankSt.served, hops], hgr⟩
      rw [if_pos hread, State.bankDone_alone _ halone (by decide)] at hexec
      exact ⟨_, _, hexec, rfl, hserved.bank, hserved.now, hserved.mem, hserved.regs, hserved.banks, hserved.dmCmds, hserved.others, hserved.stq⟩
    · intro hwrite
      have hserved := s.bankTakes_served c b a aged (fun k => { k with granted := some (a, s.now) }) rfl
      rw [if_neg (by simp [hwrite])] at hexec
      exact ⟨_, hexec, hserved.bank, hserved.now, hserved.mem, hserved.regs, hserved.banks, hserved.dmCmds, hserved.others, hserved.stq⟩
  case write =>
    rintro s c b n a hg hb ⟨hparts, hwait⟩ hops ha
    have hbank : ((s.modBank c b BankSt.ungranted).core c).bank b = ((s.core c).bank b).ungranted := State.bank_modBank_same ..
    have hwrote := State.bankWrites_wrote a.data [] (by rw [hbank]; exact ⟨hparts, hwait, hops, rfl⟩) ha
    have hleft := hwrote.bank.trans hbank
    exact ⟨_, State.bankWrite_granted hg hb, hwrote.same, hwrote.other, congrArg BankSt.granted hleft, (congrArg BankSt.ops hleft :), hwrote.regs⟩
  case op =>
    intro s c b n bop a i hi hg hb
    have hexec : exec i s = .next (s.bankStart c b bop) ∧ bop ≤ 5 := by
      simp only [List.mem_cons, Prod.mk.injEq, List.not_mem_nil, or_false] at hi
      rcases hi with ⟨rfl, rfl⟩ | ⟨rfl, rfl⟩ | ⟨rfl, rfl⟩ | ⟨rfl, rfl⟩ | ⟨rfl, rfl⟩ <;> exact ⟨rfl, by decide⟩
    obtain ⟨hlocal, hbank, hregs⟩ := State.bankStart_leaves hg hb
    exact ⟨_, s.bankOpOf c a n, hexec.1, hlocal, by rw [hbank], by rw [hbank], rfl, rfl, rfl, hregs,
      fun h4 => bankCompute_inc _ (hb.trans h4), fun hlt j hj => hb ▸ bankCompute_elem _ (by omega) (by omega) hj,
      fun h5 hlen j hj => bankCompute_g8 _ (hb.trans h5) hlen hj⟩
  case back =>
    rintro s c b o ho hg ⟨hparts, hwait⟩ ha ht
    have hbank : ((s.modBank c b (fun k => k.written o)).core c).bank b = ((s.core c).bank b).written o := State.bank_modBank_same ..
    have halone : (((s.modBank c b (fun k => k.written o)).core c).bank b).Alone o.acc.grp := by
      rw [hbank]
      exact ⟨hparts, hwait, rfl, hg⟩
    constructor
    · have hwrote := State.bankWrites_wrote o.result (if o.acc.bop = 4 then o.old else []) halone ha
      exact ⟨_, State.bankOpWriteback_one ho ht false, hwrote.same, hwrote.other, congrArg BankSt.ops (hwrote.bank.trans hbank), hwrote.now⟩
    · obtain ⟨hevt, hcore, hquiet⟩ := (s.modBank c b (fun k => k.written o)).spdFail_check c o.acc.master.code o.acc.off
      have hended := State.bankDone_ended (st := 0xD) [] (by rw [hcore]; exact halone) (by decide) ha
      have hleft := hended.bank.trans ((congrArg (fun x => x.bank b) hcore).trans hbank)
      refine ⟨_, State.bankOpWriteback_one ho ht true, fun x hx => ?_, ?_, (congrArg BankSt.ops hleft :)⟩
      · exact (congrArg (fun m => getByte m x) hended.mem).trans (hquiet.mem x hx)
      · unfold State.get State.rd at hevt ⊢
        rw [← hended.regs] at hevt
        exact hevt

end Sys2Proof.Machine
end

section
/-! PROOFS. Power states of the scratchpad banks (R221 to R225). -/

namespace Sys2Proof.Machine

open Sys2Proof

/-! ### Elements of a packed field -/

/-- The bits of a number with the `w` bits from `p` on replaced. -/
theorem testBit_replace (x v p w i : Nat) :
    (x - x / 2 ^ p % 2 ^ w * 2 ^ p + v % 2 ^ w * 2 ^ p).testBit i = if p ≤ i ∧ i < p + w then v.testBit (i - p) else x.testBit i := by
  have hlow : x % 2 ^ p < 2 ^ p := Nat.mod_lt _ (by positivity)
  have hx : x = 2 ^ p * (x / 2 ^ p) + x % 2 ^ p := (Nat.div_add_mod x (2 ^ p)).symm
  have hq : x / 2 ^ p = 2 ^ w * (x / 2 ^ p / 2 ^ w) + x / 2 ^ p % 2 ^ w := (Nat.div_add_mod _ _).symm
  have hnew : x - x / 2 ^ p % 2 ^ w * 2 ^ p + v % 2 ^ w * 2 ^ p = 2 ^ p * (2 ^ w * (x / 2 ^ p / 2 ^ w) + v % 2 ^ w) + x % 2 ^ p := by
    have hsplit : x = 2 ^ p * (2 ^ w * (x / 2 ^ p / 2 ^ w)) + x / 2 ^ p % 2 ^ w * 2 ^ p + x % 2 ^ p := by
      conv_lhs => rw [hx, hq, Nat.mul_add, Nat.mul_comm (2 ^ p) (x / 2 ^ p % 2 ^ w)]
    rw [Nat.mul_add, Nat.mul_comm (2 ^ p) (v % 2 ^ w)]
    omega
  have hold : x.testBit i = (2 ^ p * (2 ^ w * (x / 2 ^ p / 2 ^ w) + x / 2 ^ p % 2 ^ w) + x % 2 ^ p).testBit i := by rw [← hq, ← hx]
  rw [hnew, hold, Nat.testBit_two_pow_mul_add _ hlow, Nat.testBit_two_pow_mul_add _ hlow]
  by_cases hp : i < p
  · rw [if_pos hp, if_pos hp, if_neg (by omega)]
  · rw [if_neg hp, if_neg hp, Nat.testBit_two_pow_mul_add _ (Nat.mod_lt _ (by positivity)),
      Nat.testBit_two_pow_mul_add _ (Nat.mod_lt _ (by positivity))]
    by_cases hw : i - p < w
    · rw [if_pos hw, if_pos ⟨by omega, by omega⟩, Nat.testBit_mod_two_pow, decide_eq_true hw, Bool.true_and]
    · rw [if_neg hw, if_neg hw, if_neg (by omega)]

/-- Writing an element of a packed field leaves the other elements. -/
theorem State.sub_setSub (s : State) {f : Field} (i b w v d : Nat) (hf : f.ok = true) (hd : (d + 1) * w ≤ f.width) :
    (s.setSub f i b w v).sub f i d w = if d = b then v % 2 ^ w else s.sub f i d w := by
  have hget : (s.setSub f i b w v).get f i = (s.get f i - s.get f i / 2 ^ (b * w) % 2 ^ w * 2 ^ (b * w) + v % 2 ^ w * 2 ^ (b * w)) % 2 ^ f.width :=
    State.get_set_same _ _ _ _ _ hf
  have hplace (n : Nat) (hn : n < w) : (b * w ≤ n + d * w ∧ n + d * w < b * w + w) ↔ d = b := by
    rw [← Nat.succ_mul]
    constructor
    · rintro ⟨h1, h2⟩
      by_contra hne
      rcases Nat.lt_or_gt_of_ne hne with h | h
      · have := Nat.mul_le_mul_right w (Nat.succ_le_of_lt h)
        rw [Nat.succ_mul] at this
        omega
      · have := Nat.mul_le_mul_right w (Nat.succ_le_of_lt h)
        omega
    · rintro rfl
      rw [Nat.succ_mul]
      omega
  refine Nat.eq_of_testBit_eq fun n => ?_
  unfold State.sub
  rw [hget, apply_ite (fun x => Nat.testBit x n)]
  simp only [Nat.testBit_mod_two_pow, Nat.testBit_div_two_pow, testBit_replace]
  by_cases hn : n < w
  · have hin : n + d * w < f.width := by rw [Nat.add_mul, Nat.one_mul] at hd; omega
    simp only [hn, hin, hplace n hn, decide_true, Bool.true_and]
    by_cases h : d = b
    · simp only [h, if_true, Nat.add_sub_cancel]
    · simp only [h, if_false]
  · simp [hn]

theorem State.get_setSub_apart (s : State) {f g : Field} (i b w v i' j' : Nat) (hf : f.ok = true) (hg : g.ok = true) (h : f.apart g = true) :
    (s.setSub f i b w v).get g i' j' = s.get g i' j' := State.get_set_apart _ _ _ _ _ _ hf hg h

theorem State.rd_setSub_other (s : State) (f : Field) (i b w v : Nat) {k : RKey} (h : k ≠ ⟨f.reg, i, 0⟩) : (s.setSub f i b w v).rd k = s.rd k :=
  State.rd_set_other s f i 0 _ k h

/-! ### A write of the hub to a register without fields that lock -/

/-- The hub's write of a whole register: each RW field takes its value, each RO field stays, and nothing is recorded. -/
theorem State.accWrite_hub (s : State) {k : RKey} (v : Word) (addr : Nat) (hk : k.reg.holes = 0) (hl : ∀ f ∈ k.reg.info.fields, f.acc ≠ .rwl) :
    ∃ w, s.accWrite .hub k v k.reg.lanes addr = s.wr k w ∧ (∀ f ∈ k.reg.info.fields, f.acc = .rw → f.of w = f.of v) ∧
      (∀ f ∈ k.reg.info.fields, f.acc = .ro → f.of w = f.of (s.rd k)) := by
  have hdenied : k.reg.denied .hub (s.locked k.reg.info.blk) (s.rd k) (v &&& ~~~k.reg.holes) k.reg.lanes = none := by
    have hnone : (k.reg.info.fields.any fun f => decide (f.acc = .rwl) &&
        decide (f.of ((v &&& ~~~k.reg.holes) &&& k.reg.lanes ||| s.rd k &&& ~~~k.reg.lanes) ≠ f.of (s.rd k))) = false := by
      simp only [List.any_eq_false, Bool.and_eq_true, decide_eq_true_eq, not_and]
      exact fun f hf h => absurd h (hl f hf)
    unfold Reg.denied
    simp only [hnone, Bool.and_false, Bool.false_eq_true, if_false]
    rfl
  have hwr : s.accWrite .hub k v k.reg.lanes addr =
      s.wr k (k.reg.written .hub (s.locked k.reg.info.blk) (s.rd k) (v &&& ~~~k.reg.holes) k.reg.lanes (s.setMask k)) := by
    unfold State.accWrite
    simp only [hdenied]
  refine ⟨_, hwr, fun f hf ha => ?_, fun f hf ha => ?_⟩
  · rw [Reg.written_of _ _ _ _ _ _ _ f hf]
    have hv : v &&& ~~~k.reg.holes = v := by rw [hk]; exact BitVec.and_allOnes
    simp only [Field.written, ha, hv]
    exact Reg.of_lanes k.reg hf _ _ (fun i hi h => by simp [hi, -BitVec.getLsbD_eq_getElem])
  · rw [Reg.written_of _ _ _ _ _ _ _ f hf]
    simp only [Field.written, ha]

/-! ### A request for a power state (R222, R225) -/

/-- Nothing waits at a bank, and it works at nothing. -/
structure BankSt.Idle (k : BankSt) : Prop where
  waiting : k.waiting = []
  ops : k.ops = []
  granted : k.granted = none
  parts : k.parts = []

/-- What a request of the hub keeps: everything but registers and records of the core, every register but SPD_PWR, and of that the
states asked for. -/
structure PwrFrame (s t : State) (c : Nat) : Prop where
  rest : Local s t
  regs : ∀ k, k ≠ ⟨.SPD_PWR, c, 0⟩ → t.rd k = s.rd k
  req : t.get F.SPD_PWR_REQ c = s.get F.SPD_PWR_REQ c

theorem PwrFrame.refl (s : State) (c : Nat) : PwrFrame s s c := ⟨.refl s, fun _ _ => rfl, rfl⟩

theorem PwrFrame.trans {s t u : State} {c : Nat} (h : PwrFrame s t c) (g : PwrFrame t u c) : PwrFrame s u c :=
  ⟨h.rest.trans g.rest, fun k hk => (g.regs k hk).trans (h.regs k hk), g.req.trans h.req⟩

theorem PwrFrame.pwrReq {s t : State} {c : Nat} (h : PwrFrame s t c) (b : Nat) : t.pwrReq c b = s.pwrReq c b := by
  unfold State.pwrReq State.sub; rw [h.req]

theorem PwrFrame.retired {s t : State} {c : Nat} (h : PwrFrame s t c) (b : Nat) : t.bit F.SPD_MAP_RETIRED c b = s.bit F.SPD_MAP_RETIRED c b := by
  unfold State.bit State.sub State.get; rw [h.regs _ (by simp)]

/-- Bank `b` is as it was, and shows the power state it showed. -/
structure PwrKeeps (s t : State) (c b : Nat) : Prop where
  bank : (t.core c).bank b = (s.core c).bank b
  state : t.sub F.SPD_PWR_STATE c b 2 = s.sub F.SPD_PWR_STATE c b 2

theorem PwrKeeps.trans {s t u : State} {c b : Nat} (h : PwrKeeps s t c b) (g : PwrKeeps t u c b) : PwrKeeps s u c b :=
  ⟨g.bank.trans h.bank, g.state.trans h.state⟩

/-- A bank in transition from the state it shows to the one asked for (R221). -/
def State.leaving (s : State) (c b : Nat) (k : BankSt) : BankSt :=
  { k with trans := some (s.sub F.SPD_PWR_STATE c b 2, s.pwrReq c b, s.now + pwrTime (s.sub F.SPD_PWR_STATE c b 2) (s.pwrReq c b)) }

/-- A bank that ignores its request: it is retired, in transition, or in the state asked for. -/
def State.pwrSkips (s : State) (c b : Nat) : Bool :=
  s.bit F.SPD_MAP_RETIRED c b || ((s.core c).bank b).trans.isSome || decide (s.sub F.SPD_PWR_STATE c b 2 = s.pwrReq c b)

theorem State.pwrApply_skips {s : State} {c b : Nat} (h : s.pwrSkips c b = true) : s.pwrApply c b = s := by
  unfold State.pwrSkips at h
  unfold State.pwrApply
  rw [if_pos h]

/-- An idle bank starts its transition in the present ACLK. -/
theorem State.pwrApply_idle {s : State} {c b : Nat} (h : s.pwrSkips c b = false) (hi : ((s.core c).bank b).Idle) :
    s.pwrApply c b = (s.modBank c b (s.leaving c b)).setSub F.SPD_PWR_STATE c b 2 3 := by
  obtain ⟨hw, ho, hg, hp⟩ := hi
  have hmod : s.modBank c b (fun k => { k with
      waiting := [], trans := some (s.sub F.SPD_PWR_STATE c b 2, s.pwrReq c b, s.now + pwrTime (s.sub F.SPD_PWR_STATE c b 2) (s.pwrReq c b)),
      parts := [] }) = s.modBank c b (s.leaving c b) := by
    unfold State.modBank State.modCore State.leaving
    dsimp only
    rw [hw, hp]
  unfold State.pwrSkips at h
  unfold State.pwrApply
  simp only [if_neg (Bool.eq_false_iff.mp h), hw, ho, hg, hp, List.zipIdx_nil, List.filter_nil, List.map_nil, List.foldl_nil, Nat.max_zero, List.isEmpty_nil,
    Bool.not_true, State.flagIf_false]
  rw [← hmod]

/-- A request taken by an idle bank leaves the other banks. -/
theorem State.pwrApply_frame {s : State} {c b : Nat} (hi : ((s.core c).bank b).Idle) : PwrFrame s (s.pwrApply c b) c ∧ (∀ d, d < 6 → d ≠ b → PwrKeeps s (s.pwrApply c b) c d) ∧
    (((s.pwrApply c b).core c).bank b).Idle := by
  cases h : s.pwrSkips c b with
  | true =>
    rw [State.pwrApply_skips h]
    exact ⟨.refl s c, fun _ _ _ => ⟨rfl, rfl⟩, hi⟩
  | false =>
    rw [State.pwrApply_idle h hi]
    refine ⟨⟨(s.modBank_local ..).trans (.set ..), fun k hk => ?_, ?_⟩, fun d hd hne => ⟨?_, ?_⟩, ?_⟩
    · rw [State.rd_setSub_other _ _ _ _ _ _ hk, State.modBank_rd]
    · exact State.get_setSub_apart _ _ _ _ _ _ _ (by decide) (by decide) (by decide)
    · exact State.bank_modBank_other _ _ _ hne
    · rw [State.sub_setSub _ _ _ _ _ _ (by decide) (by show (d + 1) * 2 ≤ 12; omega), if_neg hne]
      rfl
    · have hbank : (((s.modBank c b (s.leaving c b)).setSub F.SPD_PWR_STATE c b 2 3).core c).bank b = s.leaving c b ((s.core c).bank b) :=
        State.bank_modBank_same ..
      rw [hbank]
      exact ⟨hi.waiting, hi.ops, hi.granted, hi.parts⟩

/-- An idle bank that is not retired takes its request. -/
theorem State.pwrApply_takes {s : State} {c b : Nat} (hb : b < 6) (hi : ((s.core c).bank b).Idle) (hr : s.bit F.SPD_MAP_RETIRED c b = false) (ht : ((s.core c).bank b).trans = none) :
    (s.sub F.SPD_PWR_STATE c b 2 ≠ s.pwrReq c b →
      (((s.pwrApply c b).core c).bank b).trans = some (s.sub F.SPD_PWR_STATE c b 2, s.pwrReq c b,
        s.now + pwrTime (s.sub F.SPD_PWR_STATE c b 2) (s.pwrReq c b)) ∧ (s.pwrApply c b).sub F.SPD_PWR_STATE c b 2 = 3) ∧
    (s.sub F.SPD_PWR_STATE c b 2 = s.pwrReq c b → PwrKeeps s (s.pwrApply c b) c b) := by
  constructor
  · intro hne
    have hskip : s.pwrSkips c b = false := by simp [State.pwrSkips, hr, ht, hne]
    have hbank : (((s.modBank c b (s.leaving c b)).setSub F.SPD_PWR_STATE c b 2 3).core c).bank b = s.leaving c b ((s.core c).bank b) :=
      State.bank_modBank_same ..
    rw [State.pwrApply_idle hskip hi, hbank, State.sub_setSub _ _ _ _ _ _ (by decide) (by show (b + 1) * 2 ≤ 12; omega), if_pos rfl]
    exact ⟨rfl, rfl⟩
  · intro heq
    rw [State.pwrApply_skips (by simp [State.pwrSkips, heq])]
    exact ⟨rfl, rfl⟩

/-- The requests of a list of idle banks keep every other bank. -/
theorem State.pwrApply_foldl {c : Nat} (l : List Nat) (s : State) (hl : ∀ b ∈ l, b < 6) (hi : ∀ b, b < 6 → ((s.core c).bank b).Idle) :
    PwrFrame s (l.foldl (fun s b => s.pwrApply c b) s) c ∧ (∀ d, d < 6 → d ∉ l → PwrKeeps s (l.foldl (fun s b => s.pwrApply c b) s) c d) ∧
      (∀ b, b < 6 → (((l.foldl (fun s b => s.pwrApply c b) s).core c).bank b).Idle) := by
  induction l generalizing s with
  | nil => exact ⟨.refl s c, fun _ _ _ => ⟨rfl, rfl⟩, hi⟩
  | cons b l ih =>
    have hb := hl b List.mem_cons_self
    obtain ⟨hframe, hkeeps, hidle⟩ := State.pwrApply_frame (hi b hb)
    obtain ⟨hframe', hkeeps', hidle'⟩ := ih (s.pwrApply c b) (fun d hd => hl d (List.mem_cons_of_mem _ hd)) (fun d hd => by
      by_cases h : d = b
      · exact h ▸ hidle
      · rw [(hkeeps d hd h).bank]
        exact hi d hd)
    exact ⟨hframe.trans hframe', fun d hd hn => (hkeeps d hd (fun h => hn (h ▸ List.mem_cons_self))).trans
      (hkeeps' d hd (fun h => hn (List.mem_cons_of_mem _ h))), hidle'⟩

/-- Each of the six banks takes the request that it finds when its turn comes. -/
theorem State.pwrApply_all {s : State} {c b : Nat} (hb : b < 6) (hi : ∀ b, b < 6 → ((s.core c).bank b).Idle) :
    ∃ u, PwrFrame s u c ∧ PwrKeeps s u c b ∧ ((u.core c).bank b).Idle ∧ PwrFrame (u.pwrApply c b) ((List.range 6).foldl (fun s b => s.pwrApply c b) s) c ∧
      PwrKeeps (u.pwrApply c b) ((List.range 6).foldl (fun s b => s.pwrApply c b) s) c b := by
  obtain ⟨l, l', hsplit⟩ := List.append_of_mem (List.mem_range.mpr hb)
  have hnodup : (l ++ b :: l').Nodup := hsplit ▸ List.nodup_range
  have hlt : ∀ d ∈ l ++ b :: l', d < 6 := fun d hd => List.mem_range.mp (hsplit ▸ hd)
  obtain ⟨-, hcons, hdisj⟩ := List.nodup_append'.mp hnodup
  have hbl : b ∉ l := fun h => hdisj h List.mem_cons_self
  have hbl' : b ∉ l' := (List.nodup_cons.mp hcons).1
  obtain ⟨hframe, hkeeps, hidle⟩ := State.pwrApply_foldl l s (fun d hd => hlt d (List.mem_append_left _ hd)) hi
  let u := l.foldl (fun s b => s.pwrApply c b) s
  obtain ⟨-, hkeeps', hidle'⟩ := State.pwrApply_frame (hidle b hb)
  obtain ⟨hframe'', hkeeps'', -⟩ := State.pwrApply_foldl l' (u.pwrApply c b)
    (fun d hd => hlt d (List.mem_append_right _ (List.mem_cons_of_mem _ hd))) (fun d hd => by
      by_cases h : d = b
      · rw [h]
        exact hidle'
      · rw [(hkeeps' d hd h).bank]
        exact hidle d hd)
  refine ⟨u, hframe, hkeeps b hb hbl, hidle b hb, ?_⟩
  rw [hsplit, List.foldl_append, List.foldl_cons]
  exact ⟨hframe'', hkeeps'' b hb hbl'⟩

/-! ### The end of a transition (R221) -/

/-- A byte of a memory from which a range has been taken. -/
theorem getByte_filter_range (m : List (Nat × Byte)) (a n x : Nat) :
    getByte (m.filter (fun y => decide (y.1 < a) || decide (a + n ≤ y.1))) x = if a ≤ x ∧ x < a + n then 0 else getByte m x := by
  induction m with
  | nil => simp [getByte, lookD, find?]
  | cons y m ih =>
    unfold getByte lookD at ih ⊢
    by_cases hy : y.1 < a ∨ a + n ≤ y.1
    · rw [List.filter_cons_of_pos (by simpa using hy)]
      unfold find?
      by_cases hx : y.1 = x
      · rw [if_pos hx, if_pos hx, if_neg (by omega)]
      · rw [if_neg hx, if_neg hx, ih]
    · rw [List.filter_cons_of_neg (by simpa using hy), ih]
      conv_rhs => unfold find?
      by_cases hx : y.1 = x
      · rw [if_pos (by omega), if_pos (by omega)]
      · rw [if_neg hx]

/-- A bank whose transition has ended. -/
def BankSt.arrived (k : BankSt) : BankSt := { k with trans := none }

/-- The bank shows `target`, and its contents are lost when that is OFF. -/
def State.pwrArrives (s : State) (c b target : Nat) : State :=
  let u := (s.modBank c b BankSt.arrived).setSub F.SPD_PWR_STATE c b 2 target
  if target = 2 then
    { u.zeroMem (winBase c + 0x20000 * b) 0x20000 with
      inj := u.inj.filter (fun t => !(decide (t.unit = 0) && decide (t.owner = c) && decide (t.line / 0x20000 = b))) }
  else u

/-- What the end of a transition leaves. -/
structure PwrArrived (s t : State) (c b target : Nat) : Prop where
  cores : t.cores = (s.modBank c b BankSt.arrived).cores
  now : t.now = s.now
  regs : ∀ k, sideReg k.reg = false → t.rd k = ((s.modBank c b BankSt.arrived).setSub F.SPD_PWR_STATE c b 2 target).rd k
  bytes : ∀ x, t.readByte x = if target = 2 ∧ winBase c + 0x20000 * b ≤ x ∧ x < winBase c + 0x20000 * (b + 1) then 0 else s.readByte x

theorem State.pwrArrives_arrived (s : State) (c b target : Nat) : PwrArrived s (s.pwrArrives c b target) c b target := by
  have hend : winBase c + 0x20000 * (b + 1) = winBase c + 0x20000 * b + 0x20000 := by omega
  unfold State.pwrArrives
  dsimp only
  split
  · next h =>
    refine ⟨rfl, rfl, fun _ _ => rfl, fun x => ?_⟩
    simp only [h, true_and, hend]
    exact getByte_filter_range s.mem (winBase c + 0x20000 * b) 0x20000 x
  · next h => exact ⟨rfl, rfl, fun _ _ => rfl, fun x => by rw [if_neg (fun e => h e.1)]; rfl⟩

/-- Filling a bank with valid check bits changes no byte (R221). -/
theorem PwrArrived.injWrite {s t : State} {c b target : Nat} (h : PwrArrived s t c b target) (unit owner a n : Nat) :
    PwrArrived s (t.injWrite unit owner a n) c b target where
  cores := by rw [(t.injWrite_quiet unit owner a n).rest]; exact h.cores
  now := (t.injWrite_quiet unit owner a n).now.trans h.now
  regs k hk := ((t.injWrite_quiet unit owner a n).regs k hk).trans (h.regs k hk)
  bytes x := by
    rw [← h.bytes]
    unfold State.readByte
    rw [State.injWrite_mem]

section
variable {s t : State} {c b target : Nat} (h : PwrArrived s t c b target)
include h

theorem PwrArrived.core (d : Nat) : t.core d = (s.modBank c b BankSt.arrived).core d := by unfold State.core; rw [h.cores]

theorem PwrArrived.get (f : Field) (i : Nat) (hf : sideReg f.reg = false) :
    t.get f i = ((s.modBank c b BankSt.arrived).setSub F.SPD_PWR_STATE c b 2 target).get f i := congrArg f.of (h.regs _ hf)

theorem PwrArrived.state (hb : b < 6) (ht : target < 3) : t.sub F.SPD_PWR_STATE c b 2 = target := by
  have heq : t.sub F.SPD_PWR_STATE c b 2 = ((s.modBank c b BankSt.arrived).setSub F.SPD_PWR_STATE c b 2 target).sub F.SPD_PWR_STATE c b 2 := by
    unfold State.sub; rw [h.get _ _ rfl]
  rw [heq, State.sub_setSub _ _ _ _ _ _ (by decide) (by show (b + 1) * 2 ≤ 12; omega), if_pos rfl]
  exact Nat.mod_eq_of_lt (by omega)

theorem PwrArrived.req : t.get F.SPD_PWR_REQ c = s.get F.SPD_PWR_REQ c := by
  rw [h.get _ _ rfl, State.get_setSub_apart _ _ _ _ _ _ _ (by decide) (by decide) (by decide)]; rfl
end

/-- The transition of a bank that has ended its work ends, and the state it has reached is the one asked for. -/
theorem State.bankTransitionEnd_reached {s : State} {c b left target e : Nat} (hb : b < 6) (ht : target < 3)
    (htr : ((s.core c).bank b).trans = some (left, target, e)) (he : e ≤ s.now) (hg : ((s.core c).bank b).granted = none)
    (ho : ((s.core c).bank b).ops = []) (hreq : s.pwrReq c b = target) :
    ∃ t, exec (.bankTransitionEnd c b) s = .next t ∧ PwrArrived s t c b target := by
  let t := if left = 2 then (s.pwrArrives c b target).injWrite 0 c (0x20000 * b) 0x20000 else s.pwrArrives c b target
  have harr : PwrArrived s t c b target := by
    show PwrArrived s (if _ then _ else _) c b target
    split
    · exact (s.pwrArrives_arrived c b target).injWrite ..
    · exact s.pwrArrives_arrived c b target
  have hskip : t.pwrSkips c b = true := by
    have : t.pwrReq c b = target := by
      rw [← hreq]
      unfold State.pwrReq State.sub
      rw [harr.req]
    simp [State.pwrSkips, harr.state hb ht, this]
  have hexec : exec (.bankTransitionEnd c b) s = .next (t.pwrApply c b) := by
    show execBankTransitionEnd c b s = _
    unfold execBankTransitionEnd
    simp only [htr, hg, ho, s.at_of_le _ he, Option.isSome_none, List.isEmpty_nil, Bool.not_true, Bool.or_self, Bool.false_eq_true, if_false]
    rfl
  exact ⟨t, by rw [hexec, State.pwrApply_skips hskip], harr⟩

/-! ### The statement -/

/-- Settles O19: the hub's write (`State.accWrite_hub`), the banks that take it one after the other (`State.pwrApply_all`,
`State.pwrApply_takes`) and the end of a transition (`State.bankTransitionEnd_reached`). -/
theorem bankPower : Obligations.BankPower := by
  unfold Obligations.BankPower
  refine ⟨?request, ?arrival⟩
  case request =>
    intro s c v hreach hidle
    have hlocks : ∀ f ∈ Reg.SPD_PWR.info.fields, f.acc ≠ .rwl := by decide
    have hreqf : F.SPD_PWR_REQ ∈ Reg.SPD_PWR.info.fields := by decide
    have hstatef : F.SPD_PWR_STATE ∈ Reg.SPD_PWR.info.fields := by decide
    obtain ⟨w, hw, hrw, hro⟩ := (s.access .hub).accWrite_hub (k := ⟨.SPD_PWR, c, 0⟩) v (0x4000 * c + 0x1408) rfl hlocks
    let u := (s.access .hub).wr ⟨.SPD_PWR, c, 0⟩ w
    have hidle' : ∀ b, b < 6 → ((u.core c).bank b).Idle := fun b hb => by
      obtain ⟨h1, h2, h3, h4⟩ := hidle b hb
      exact ⟨h1, h2, h3, h4⟩
    have hexec : exec (.spdPwrReq .hub c v) s = .next { (List.range 6).foldl (fun s b => s.pwrApply c b) u with bus := .written } := by
      show Host.Outcome.next (s.regCmd .hub .SPD c _) = _
      rw [State.regCmd_reached _ _ _ _ _ hreach]
      unfold State.pwrWrite
      rw [show lowMask = Reg.lanes .SPD_PWR from rfl, hw]
    have hrd : u.rd ⟨.SPD_PWR, c, 0⟩ = w := State.rd_wr_same ..
    have hreq : u.get F.SPD_PWR_REQ c = F.SPD_PWR_REQ.of v := (congrArg F.SPD_PWR_REQ.of hrd).trans (hrw _ hreqf rfl)
    have hstate (b : Nat) : u.sub F.SPD_PWR_STATE c b 2 = s.sub F.SPD_PWR_STATE c b 2 := by
      have : u.get F.SPD_PWR_STATE c = s.get F.SPD_PWR_STATE c := (congrArg F.SPD_PWR_STATE.of hrd).trans (hro _ hstatef rfl)
      unfold State.sub
      rw [this]
    obtain ⟨hall, -, -⟩ := State.pwrApply_foldl (List.range 6) u (fun b hb => List.mem_range.mp hb) hidle'
    refine ⟨_, hexec, rfl, hall.rest.mem, hall.rest.now, hall.req.trans hreq, fun k hk => (hall.regs k hk).trans (State.rd_wr_other _ _ hk), fun b hb hret htr => ?_⟩
    obtain ⟨x, hframe, hkeeps, hidleb, hframe', hkeeps'⟩ := State.pwrApply_all hb hidle'
    have hret' : x.bit F.SPD_MAP_RETIRED c b = false := by
      rw [hframe.retired]
      have : u.get F.SPD_MAP_RETIRED c = s.get F.SPD_MAP_RETIRED c := congrArg F.SPD_MAP_RETIRED.of (State.rd_wr_other _ _ (by simp))
      unfold State.bit State.sub at hret ⊢
      rw [this]
      exact hret
    obtain ⟨htakes, hstays⟩ := State.pwrApply_takes hb hidleb hret' ((congrArg BankSt.trans hkeeps.bank).trans htr)
    have hreqx : x.pwrReq c b = ((List.range 6).foldl (fun s b => s.pwrApply c b) u).pwrReq c b := (hframe.pwrReq b).trans (hall.pwrReq b).symm
    have hstatex : x.sub F.SPD_PWR_STATE c b 2 = s.sub F.SPD_PWR_STATE c b 2 := hkeeps.state.trans (hstate b)
    have hnow : x.now = s.now := hframe.rest.now
    rw [hreqx, hstatex, hnow] at htakes
    rw [hreqx, hstatex] at hstays
    refine ⟨fun hne => ?_, fun heq => ?_⟩
    · obtain ⟨h1, h2⟩ := htakes hne
      exact ⟨(congrArg BankSt.trans hkeeps'.bank).trans h1, hkeeps'.state.trans h2⟩
    · have hk := (hkeeps.trans (hstays heq)).trans hkeeps'
      exact ⟨(congrArg BankSt.trans hk.bank).trans htr, hk.state.trans (hstate b)⟩
  case arrival =>
    intro s c b left target e hb ht htr he hg ho hreq
    obtain ⟨t, hexec, harr⟩ := State.bankTransitionEnd_reached hb ht htr he hg ho hreq
    refine ⟨t, hexec, ?_, harr.state hb ht, harr.now, fun k hs hk => ?_, harr.req, harr.bytes, fun d hd => ?_, fun d hd => ?_⟩
    · rw [harr.core, State.bank_modBank_same]; rfl
    · rw [harr.regs k hs, State.rd_setSub_other _ _ _ _ _ _ hk, State.modBank_rd]
    · rw [harr.core, State.bank_modBank_other _ _ _ hd]
    · rw [harr.core, State.core_modBank_other _ _ _ hd]

end Sys2Proof.Machine
end

section
/-! PROOFS. A request that waits at a busy ACB port (R26, R328). -/

namespace Sys2Proof.Machine

open Sys2Proof

/-- A request that waits for the shared port of an ACB bank stays where it was delivered, and the state with it. -/
theorem State.request_acbWaits (s t : State) (die node typ : Nat) (hw : MemHw) (p : Packet) (hn : isCluster node = true)
    (ht : s.takeDeliv (nodeKey die node) (vcOf typ) (fun t => decide (t = typ)) = some (p, t))
    (hb : t.acbWaits p (t.coreOf p.addr) = true) : s.request (.node die node) typ hw = s := by
  simp only [State.request, placeKey, ht, hn, hb, if_true]

/-- A read of the first bytes of core 0's ACB. -/
def acbRead : Packet := { typ := 0, vc := 0, dnode := 0, snode := 3, src := 3, tag := 5, len := 64, addr := winBase 0 + 0xC0000 }

/-- The read has reached the router of core 0, which is fenced, and ACB bank 0 has served another access in this ACLK. -/
def fencedBusyAcb : State :=
  ({ State.reset with deliv := [(nodeKey 0 0, [acbRead])] }.setBit F.CLU_FENCE_FENCED 0 0 true).modCore 0 (fun x => { x with acbPort := [(0, 0)] })

/-- The command answers the state itself: the read waits for the port, before its router looks at the fence. -/
theorem fencedBusyAcb_meshRd : exec (.meshRd (.node 0 0) .ok) fencedBusyAcb = .next fencedBusyAcb :=
  congrArg Host.Outcome.next (State.request_acbWaits fencedBusyAcb _ 0 0 0 .ok acbRead (by decide) rfl (by decide +kernel))

/-- Refutes O23, in its clause on a fenced core: a read of that core's ACB, whose shared port has served another access in this ACLK (R26),
waits unanswered. -/
theorem not_clusterRequests : ¬ Obligations.ClusterRequests := by
  unfold Obligations.ClusterRequests
  rintro ⟨_, refuses, _⟩
  obtain ⟨t, a, he, hq, -⟩ := refuses fencedBusyAcb 0 0 0 acbRead ⟨by decide, rfl⟩ (by decide +kernel) rfl (by decide +kernel)
  obtain rfl : fencedBusyAcb = t := Host.Outcome.next.inj (fencedBusyAcb_meshRd.symm.trans he)
  exact absurd (congrArg List.length hq) (by simp)

end Sys2Proof.Machine
end

section
/-! PROOFS. Data-mover commands that begin, and what the completions of the data mover keep (R233 to R239, R282, R291, R292). -/

namespace Sys2Proof.Machine

open Sys2Proof

/-! ### What the completions of the data mover keep -/

theorem RegFrame.weaken {l l' : List Reg} {s t : State} (h : RegFrame l s t) (hl : ∀ r ∈ l, r ∈ l') : RegFrame l' s t :=
  ⟨fun k hk hs => h.regs k (fun hm => hk (hl _ hm)) hs, h.mem⟩

/-- The registers that the completion of a data-mover command may write. -/
def dmRegs : List Reg := .DM_EVT :: cplRegs

theorem cplRegs_dmRegs : ∀ r ∈ cplRegs, r ∈ dmRegs := fun _ h => List.mem_cons_of_mem _ h

theorem RegFrame.dmEvt (s : State) (c st : Nat) : RegFrame dmRegs s (s.dmEvt c st) := by
  unfold State.dmEvt
  split
  · exact .flag _ _ _ _ (by decide)
  · exact .flag _ _ _ _ (by decide)
  · exact .flag _ _ _ _ (by decide)
  · exact .flag _ _ _ _ (by decide)
  · exact .refl _

/-- Behind its event, the completion of a data-mover command writes what every completion writes. -/
theorem RegFrame.dmComplete_evt (s : State) (c : Nat) (d : DmCmd) : RegFrame cplRegs (s.dmEvt c d.status) (s.dmComplete c d) := by
  unfold State.dmComplete
  extract_lets s1 s2 s3
  have h2 : RegFrame cplRegs s1 s2 := by
    show RegFrame cplRegs s1 (match d.stream with
      | some (w, _, _) => (s1.ctrAdd c (s1.get F.DM_STRM_CFG_CTR c w) 1).1
      | none => s1)
    split
    · exact .ctrAdd ..
    · exact .refl _
  have h3 : RegFrame cplRegs s2 s3 := by
    show RegFrame cplRegs s2 (if _ then _ else _)
    split
    · exact .refl _
    · exact .raiseAbort _ _ _ (by decide) (by decide)
  exact (h2.trans h3).trans (.complete_any ..)

theorem RegFrame.dmComplete (s : State) (c : Nat) (d : DmCmd) : RegFrame dmRegs s (s.dmComplete c d) :=
  (RegFrame.dmEvt ..).trans ((RegFrame.dmComplete_evt s c d).weaken cplRegs_dmRegs)

theorem RegFrame.dmReport (n : Nat) (s : State) (c : Nat) : RegFrame dmRegs s (s.dmReport c n) := by
  induction n generalizing s with
  | zero => exact .refl s
  | succ n ih =>
    unfold State.dmReport
    split
    · exact .refl s
    · next d rest _ =>
      split
      · have hdrop : RegFrame dmRegs s (s.modCore c (fun x => { x with dmCmds := rest })) := .modCore ..
        refine hdrop.trans (RegFrame.trans ?_ (ih _))
        split
        · exact .modCore ..
        · exact .dmComplete ..
      · exact .refl s

/-- Commands of the data mover that complete write `dmRegs` alone. -/
theorem RegFrame.dmSettle (s : State) (c : Nat) : RegFrame dmRegs s (s.dmSettle c) := .dmReport ..

/-- A part of a core that stays while commands of its data mover complete. -/
structure DmKeeps {α : Type} (π : CoreSt → α) : Prop extends CplKeeps π where
  cmds : ∀ x l, π { x with dmCmds := l } = π x

section
variable {α : Type} {π : CoreSt → α}

theorem CplKeeps.dmComplete (h : CplKeeps π) (s : State) (c : Nat) (d : DmCmd) : π ((s.dmComplete c d).core c) = π (s.core c) := by
  unfold State.dmComplete
  extract_lets s1 s2 s3
  have h1 : s1.core c = s.core c := by
    show (s.dmEvt c d.status).core c = s.core c
    unfold State.dmEvt
    split <;> simp only [State.flag_core_read]
  have h2 : π (s2.core c) = π (s1.core c) := by
    show π (State.core (match d.stream with
      | some (w, _, _) => (s1.ctrAdd c (s1.get F.DM_STRM_CFG_CTR c w) 1).1
      | none => s1) c) = _
    split
    · exact h.toAbortKeeps.ctrAdd ..
    · rfl
  have h3 : π (s3.core c) = π (s2.core c) := by
    show π (State.core (if _ then _ else _) c) = _
    split
    · rfl
    · exact h.toAbortKeeps.raiseAbort ..
  rw [h.complete, h3, h2, h1]

theorem DmKeeps.dmReport (h : DmKeeps π) (n : Nat) (s : State) (c : Nat) : π ((s.dmReport c n).core c) = π (s.core c) := by
  induction n generalizing s with
  | zero => rfl
  | succ n ih =>
    unfold State.dmReport
    split
    · rfl
    · next d rest _ =>
      have hdrop : π ((s.modCore c (fun x => { x with dmCmds := rest })).core c) = π (s.core c) := by rw [State.modCore_same, h.cmds]
      split
      · dsimp only
        rw [ih, ← hdrop]
        split
        · unfold State.cellBack
          rw [State.modCore_same, h.due]
        · exact h.toCplKeeps.dmComplete ..
      · rfl

theorem DmKeeps.dmSettle (h : DmKeeps π) (s : State) (c : Nat) : π ((s.dmSettle c).core c) = π (s.core c) := h.dmReport ..
end

theorem CoreSt.dmTags_kept : DmKeeps CoreSt.dmTags := ⟨⟨⟨fun _ _ _ => rfl, fun _ _ _ => rfl⟩, fun _ _ => rfl, fun _ _ => rfl⟩, fun _ _ => rfl⟩
theorem CoreSt.tagStall_kept : DmKeeps CoreSt.tagStall := ⟨⟨⟨fun _ _ _ => rfl, fun _ _ _ => rfl⟩, fun _ _ => rfl, fun _ _ => rfl⟩, fun _ _ => rfl⟩
theorem CoreSt.dmCmds_kept : CplKeeps CoreSt.dmCmds := ⟨⟨fun _ _ _ => rfl, fun _ _ _ => rfl⟩, fun _ _ => rfl, fun _ _ => rfl⟩

/-- The only begun command, with nothing left to issue and nothing outstanding, completes. -/
theorem State.dmSettle_one {s : State} {c : Nat} {d : DmCmd} (hcmds : (s.core c).dmCmds = [d]) (hd : d.done = true)
    (habort : (s.core c).abort = none) : s.dmSettle c = (s.modCore c (fun x => { x with dmCmds := [] })).dmComplete c d := by
  unfold State.dmSettle
  rw [hcmds, List.length_singleton, State.dmReport, hcmds]
  simp only [hd, if_true, State.modCore_same, habort, Option.isSome_none, Bool.false_eq_true, if_false, State.dmReport]

/-! ### The record of a status (R162) -/

theorem State.raiseAbort_seen (s : State) (c cause : Nat) : (s.raiseAbort c cause).get F.CC_TASK_STATUS_SEEN c = s.get F.CC_TASK_STATUS_SEEN c := by
  have hset : ((s.set F.CC_TASK_STATUS_ABORTED c 1).set F.CC_TASK_STATUS_CAUSE c cause).get F.CC_TASK_STATUS_SEEN c = s.get F.CC_TASK_STATUS_SEEN c := by
    rw [State.get_set_apart _ _ _ _ _ _ (by decide) (by decide) (by decide), State.get_set_apart _ _ _ _ _ _ (by decide) (by decide) (by decide)]
  unfold State.raiseAbort
  split
  · rfl
  · dsimp only
    rw [State.modCore_get]
    split
    · exact hset
    · have hcc (u : State) : RegFrame [.CC_STATE] u (u.ccState c 0) := .ccState _ _ _ List.mem_cons_self
      exact ((hcc _).get _ _ (by decide) rfl).trans hset

/-- A status other than OK is noted in SEEN. -/
theorem State.complete_seen (s : State) (c : Nat) (e : Eng) (q : QCmd) {status : Nat} (iter : Nat) (h0 : status ≠ 0) (h15 : status ≤ 15) :
    (s.complete c e q status iter).bit F.CC_TASK_STATUS_SEEN c (status - 1) = true := by
  unfold State.complete
  extract_lets cmd s1 s2 r s3 s4 s5
  have h4 : s4.bit F.CC_TASK_STATUS_SEEN c (status - 1) = true := by
    have hsub : s4.sub F.CC_TASK_STATUS_SEEN c (status - 1) 1 = 1 := by
      show (s3.setSub F.CC_TASK_STATUS_SEEN c (status - 1) 1 (b2n true)).sub F.CC_TASK_STATUS_SEEN c (status - 1) 1 = 1
      rw [State.sub_setSub _ _ _ _ _ _ (by decide) (by show (status - 1 + 1) * 1 ≤ 15; omega), if_pos rfl]
      rfl
    unfold State.bit
    rw [hsub]
    rfl
  have h5 : s5.get F.CC_TASK_STATUS_SEEN c = s4.get F.CC_TASK_STATUS_SEEN c := by
    show State.get (if _ then _ else _) F.CC_TASK_STATUS_SEEN c = _
    split
    · rfl
    · exact congrArg F.CC_TASK_STATUS_SEEN.of (State.rd_wr_other _ _ (by simp))
  rw [if_neg h0]
  unfold State.bit State.sub at h4 ⊢
  split
  · rw [State.raiseAbort_seen, h5, h4]
  · rw [h5, h4]

theorem CoreBecomes.toLocal {s t : State} {c : Nat} {x : CoreSt} (h : CoreBecomes s t c x) : Local s t := by
  unfold Local
  rw [h.rest]

/-! ### Commands that begin (R234 to R239, R280, R281) -/

@[simp] theorem CoreSt.dmBegun_fills (x : CoreSt) (p b : Nat) (d : DmCmd) : (x.dmBegun p b d).fills = x.fills := rfl

theorem State.specIllegal_none {s : State} {c : Nat} (h : s.specTask c = none) (cmd : Cmd) : s.specIllegal c cmd = false := by
  unfold State.specIllegal; rw [h]

/-- A command that is accepted joins the begun commands with its iterations to come. -/
theorem State.dmStart_legal {s : State} {c op p : Nat} {q : QCmd} {bad : Cmd → Bool}
    (hr : s.ready c .dm (fun k => decide (Cmd.opcode k = op)) = some (p, q, s.now)) (hspec : s.specTask c = none) (hbad : bad q.cmd = false) (hw : DmHw) :
    s.dmStart c op bad hw = (s.dmBegin c p s.now q (fun d => { d with nIter := Cmd.iters q.cmd, ecc := hw })).1 := by
  unfold State.dmStart State.dmBeginHead
  rw [s.beginHead_now _ hr, if_neg (by simp [hbad, s.specIllegal_none hspec])]

/-- A command with illegal fields ends as it begins. -/
theorem State.dmStart_illegal {s : State} {c op p : Nat} {q : QCmd} {bad : Cmd → Bool}
    (hr : s.ready c .dm (fun k => decide (Cmd.opcode k = op)) = some (p, q, s.now)) (hbad : bad q.cmd = true) (hw : DmHw) :
    s.dmStart c op bad hw = s.dmEndNow c p s.now q 3 := by
  unfold State.dmStart State.dmBeginHead
  rw [s.beginHead_now _ hr, if_pos (by simp [hbad])]

/-- The end of a command that is ILLEGAL, with no other begun. -/
theorem State.dmEndNow_illegal {s : State} {c p : Nat} (q : QCmd) (hcmds : (s.core c).dmCmds = []) (habort : (s.core c).abort = none) :
    (s.dmEndNow c p s.now q 3).get F.DM_EVT_ILLEGAL c = 1 ∧ ((s.dmEndNow c p s.now q 3).core c).dmCmds = [] ∧
      (s.dmEndNow c p s.now q 3).mem = s.mem ∧ (s.dmEndNow c p s.now q 3).bit F.CC_TASK_STATUS_SEEN c 2 = true := by
  have hbegun := s.dmBegin_becomes c p q (fun d => { d with status := 3, issuing := false })
  let d : DmCmd := { s.dmFresh q with status := 3, issuing := false, id := (s.core c).dmNext }
  have hone : ((s.dmBegin c p s.now q (fun d => { d with status := 3, issuing := false })).1.core c).dmCmds = [d] := by
    rw [hbegun.core, CoreSt.dmBegun_dmCmds, hcmds]; rfl
  have hsettle := State.dmSettle_one hone rfl (by rw [hbegun.core]; exact habort)
  let u := (s.dmBegin c p s.now q (fun d => { d with status := 3, issuing := false })).1.modCore c (fun x => { x with dmCmds := [] })
  have hend : s.dmEndNow c p s.now q 3 = (u.flag F.DM_EVT_ILLEGAL c).complete c .dm q 3 0 := hsettle
  rw [hend]
  refine ⟨?_, ?_, ?_, State.complete_seen _ _ _ _ _ (by decide) (by decide)⟩
  · rw [(RegFrame.complete_any ..).get _ _ (by decide) rfl]
    exact State.get_flag_same _ _ _ _ (by decide) (by decide)
  · rw [CoreSt.dmCmds_kept.complete, State.flag_core_read, State.modCore_same]
  · rw [(State.complete_local ..).mem]
    exact hbegun.mem

/-! ### DM_OPT (R282, R287) -/

/-- DM_OPT can begin: its descriptor lies outside the scratchpad's ranges, or its bank serves it. -/
def State.optOk (c : Nat) (s : State) (k : Cmd) : Bool :=
  decide (Cmd.opcode k = 0x1A) && (!(s.spdRange c (opDesc k) 64) || s.windowServes c .dm (s.core c).dmSince [(opDesc k, 64)])

/-- DM_OPT that its checks accept begins, with one request to each MSU, once the bank of its descriptor serves it. -/
theorem State.dmOpt_begins {s : State} {c p : Nat} {q : QCmd} (hr : s.ready c .dm (fun k => decide (Cmd.opcode k = 0x1A)) = some (p, q, s.now))
    (hspec : s.specTask c = none) (hlegal : s.optIllegal c q.cmd = false) (hinj : s.inj = [])
    (hserves : s.windowServes c .dm (s.core c).dmSince [(opDesc q.cmd, 64)] = true) :
    let u := s.windowTake c .dm (s.core c).dmSince [(opDesc q.cmd, 64)]
    exec (.dmOpt ⟨c, .ok⟩) s = .next (u.dmBegin c p u.now q
      (fun d => { d with gather := 1, reqs := (List.range 256).map (optReq (u.optMapped c q.cmd) (s.readWin c (opDesc q.cmd) 64)) })).1 := by
  intro u
  have htaken := s.windowTake_taken c .dm (s.core c).dmSince [(opDesc q.cmd, 64)]
  have hread : u.readWin c (opDesc q.cmd) 64 = s.readWin c (opDesc q.cmd) 64 := by
    unfold State.readWin State.readMem
    rw [htaken.mem]
  have hready : s.ready c .dm (State.optOk c s) = some (p, q, s.now) :=
    State.ready_of_ok hr (by simp [State.optOk, State.ready_opcode hr, hserves])
  show execDmOpt ⟨c, .ok⟩ s = _
  refine congrArg Host.Outcome.next ((State.beginHead_now (ok := State.optOk c) s _ hready).trans ?_)
  rw [if_neg (by simp [hlegal, s.specIllegal_none hspec])]
  have hdm := State.dmRead_ok (htaken.inj.trans hinj) c [(opDesc q.cmd, 64)]
  dsimp only
  rw [hdm]
  simp only [Bool.false_eq_true, if_false]
  rw [hread, ← htaken.now]

/-! ### DM_STREAM (R291, R292) -/

/-- The fills that a window keeps when a fill takes `slot`. -/
def fillsTaken (l : List Fill) (slot total : Nat) : List Fill :=
  l.filter (fun f => decide (f.slot ≠ slot)) ++ [{ slot := slot, bytes := total, consumed := false }]

/-- Window `w` with the fills `l` after a fill of `total` bytes that evicts `dead` bytes and is followed by slot `next`. -/
def State.fillTaken (s : State) (c w : Nat) (l : List Fill) (dead total next : Nat) : State :=
  ((((s.setFills c w l).bump F.DM_STRM_EVICTED_BYTES c dead w).bump F.DM_STRM_ISSUED_BYTES c total w).addw F.DM_STRM_CFG_FILLS c 1 w).set
    F.DM_STRM_CFG_NEXT c next w

section
variable (s : State) (c w : Nat) (l : List Fill) (dead total next : Nat)

theorem State.fillTaken_next : (s.fillTaken c w l dead total next).get F.DM_STRM_CFG_NEXT c w = next % 4 :=
  State.get_set_same _ _ _ _ _ (by decide)

theorem State.fillTaken_fills : (s.fillTaken c w l dead total next).get F.DM_STRM_CFG_FILLS c w =
    (s.get F.DM_STRM_CFG_FILLS c w + 1) % 2 ^ F.DM_STRM_CFG_FILLS.width := by
  unfold State.fillTaken State.addw State.bump
  rw [State.get_set_apart _ _ _ _ _ _ (by decide) (by decide) (by decide), State.get_set_same _ _ _ _ _ (by decide),
    State.get_set_reg _ _ _ _ _ _ _ _ (by decide), State.get_set_reg _ _ _ _ _ _ _ _ (by decide)]
  rfl

theorem State.fillTaken_issued : (s.fillTaken c w l dead total next).get F.DM_STRM_ISSUED_BYTES c w =
    min (s.get F.DM_STRM_ISSUED_BYTES c w + total) (2 ^ F.DM_STRM_ISSUED_BYTES.width - 1) := by
  unfold State.fillTaken State.addw State.bump
  rw [State.get_set_reg _ _ _ _ _ _ _ _ (by decide), State.get_set_reg _ _ _ _ _ _ _ _ (by decide), State.get_set_same _ _ _ _ _ (by decide),
    State.get_set_reg _ _ _ _ _ _ _ _ (by decide)]
  exact Nat.mod_eq_of_lt (lt_of_le_of_lt (Nat.min_le_right _ _) (Nat.sub_lt (by positivity) Nat.one_pos))

theorem State.fillTaken_core : (s.fillTaken c w l dead total next).core c =
    { s.core c with fills := putD natLt [] (s.core c).fills w l } := by
  unfold State.fillTaken State.addw State.bump State.setFills
  simp only [State.set_core_read, State.modCore_same]

theorem State.fillTaken_fillsOf (v : Nat) : (s.fillTaken c w l dead total next).fillsOf c v = if v = w then l else s.fillsOf c v := by
  unfold State.fillsOf
  rw [State.fillTaken_core]
  split
  · next h => rw [h]; exact lookD_putD_same ..
  · next h => exact lookD_putD_other _ _ _ _ _ h

theorem State.fillTaken_dmCmds : ((s.fillTaken c w l dead total next).core c).dmCmds = (s.core c).dmCmds := by rw [State.fillTaken_core]

theorem State.fillTaken_mem : (s.fillTaken c w l dead total next).mem = s.mem := by
  unfold State.fillTaken State.addw State.bump State.setFills
  simp only [State.set_mem, State.modCore_mem]
end

/-- DM_STREAM begins and takes the next slot of its window. -/
theorem State.dmStream_begins {s : State} {c p : Nat} {q : QCmd} (hr : s.ready c .dm (fun k => decide (Cmd.opcode k = 0x1B)) = some (p, q, s.now))
    (hlegal : stIllegal q.cmd = false) (hen : s.get F.DM_STRM_CFG_EN c (stWin q.cmd) = 1) (hslots : 2 ≤ s.get F.DM_STRM_CFG_SLOTS c (stWin q.cmd)) :
    let w := stWin q.cmd
    let total := Cmd.iters q.cmd * stBytes q.cmd
    let slot := s.get F.DM_STRM_CFG_NEXT c w
    let u := (s.dmBegin c p s.now q (fun d => { d with nIter := Cmd.iters q.cmd, stream := some (w, slot, total) })).1
    ∃ dead, exec (.dmStream c) s = .next (u.fillTaken c w (fillsTaken (s.fillsOf c w) slot total) dead total
      ((slot + 1) % s.get F.DM_STRM_CFG_SLOTS c w)) := by
  intro w total slot u
  have hbegun := s.dmBegin_becomes c p q (fun d => { d with nIter := Cmd.iters q.cmd, stream := some (w, slot, total) })
  have hfills : u.fillsOf c w = s.fillsOf c w := by
    unfold State.fillsOf
    rw [hbegun.core, CoreSt.dmBegun_fills]
  have hgood : ¬ (stIllegal q.cmd || decide (s.get F.DM_STRM_CFG_EN c (stWin q.cmd) = 0) || decide (s.get F.DM_STRM_CFG_SLOTS c (stWin q.cmd) < 2)) = true := by
    simp [hlegal, hen]; omega
  refine ⟨((s.fillsOf c w).filter (fun f => decide (f.slot = slot) && !f.consumed)).foldl (fun n f => n + f.bytes) 0, ?_⟩
  show execDmStream c s = _
  unfold execDmStream State.dmBeginHead
  rw [s.beginHead_now _ hr]
  simp only [if_neg hgood]
  unfold fillsTaken
  simp only [decide_not]
  rw [← hfills]
  rfl

/-! ### The statement -/

/-- Settles O20: commands that begin (`State.dmStart_legal`, `State.dmBegin_becomes`) or end with ILLEGAL (`State.dmStart_illegal`,
`State.dmEndNow_illegal`), DM_OPT (`State.dmOpt_begins`) and DM_STREAM (`State.dmStream_begins`, `State.fillTaken_fillsOf`). -/
theorem dataMoverBegins : Obligations.DataMoverBegins := by
  unfold Obligations.DataMoverBegins
  refine ⟨?start, ?opt, ?stream⟩
  case start =>
    intro s c op p q bad i hi hr hspec
    have hexec : exec i s = .next (s.dmStart c op bad .ok) := by
      simp only [List.mem_cons, Prod.mk.injEq, List.not_mem_nil, or_false] at hi
      rcases hi with ⟨rfl, rfl, rfl⟩ | ⟨rfl, rfl, rfl⟩ | ⟨rfl, rfl, rfl⟩ | ⟨rfl, rfl, rfl⟩ | ⟨rfl, rfl, rfl⟩ | ⟨rfl, rfl, rfl⟩ <;> rfl
    obtain ⟨hrun, -, -, -⟩ := s.ready_some c .dm _ p s.now q hr
    constructor
    · intro hbad
      have hbegun := s.dmBegin_becomes c p q (fun d => { d with nIter := Cmd.iters q.cmd, ecc := .ok })
      rw [State.dmStart_legal hr hspec hbad] at hexec
      exact ⟨_, _, hexec, hbegun.rest, by rw [hbegun.core, CoreSt.dmBegun_dmCmds], rfl, rfl, rfl, rfl, rfl, rfl, rfl, hbegun.others⟩
    · intro hbad hcmds
      rw [State.dmStart_illegal hr hbad] at hexec
      exact ⟨_, hexec, State.dmEndNow_illegal q hcmds (State.abort_of_running hrun)⟩
  case opt =>
    intro s c p q hr hspec hlegal hinj hserves
    have htaken := s.windowTake_taken c .dm (s.core c).dmSince [(opDesc q.cmd, 64)]
    have hexec := State.dmOpt_begins hr hspec hlegal hinj hserves
    generalize hu : s.windowTake c .dm (s.core c).dmSince [(opDesc q.cmd, 64)] = u at htaken hexec
    have hbegun := u.dmBegin_becomes c p q
      (fun d => { d with gather := 1, reqs := (List.range 256).map (optReq (u.optMapped c q.cmd) (s.readWin c (opDesc q.cmd) 64)) })
    refine ⟨_, _, hexec, htaken.rest.trans hbegun.toLocal, fun k hs hk => ?_, by rw [hbegun.core, CoreSt.dmBegun_dmCmds, htaken.dmCmds], rfl, ?_, fun m hm => ?_⟩
    · rw [hbegun.rd, ← hu, State.windowTake_rd _ _ _ _ _ hs hk]
    · simp
    · exact ⟨optReq (u.optMapped c q.cmd) (s.readWin c (opDesc q.cmd) 64) m, by simp [hm], rfl, rfl, rfl, List.drop_left' (leBytes_length ..)⟩
  case stream =>
    intro s c p q hr hlegal w total slot hen hslots
    have hbegun := s.dmBegin_becomes c p q (fun d => { d with nIter := Cmd.iters q.cmd, stream := some (w, slot, total) })
    obtain ⟨dead, hexec⟩ := State.dmStream_begins hr hlegal hen hslots
    generalize (s.dmBegin c p s.now q (fun d => { d with nIter := Cmd.iters q.cmd, stream := some (w, slot, total) })).1 = u at hbegun hexec
    have hslot : s.get F.DM_STRM_CFG_SLOTS c w < 4 := s.get_lt ..
    have hlt := Nat.mod_lt (slot + 1) (show 0 < s.get F.DM_STRM_CFG_SLOTS c w by omega)
    refine ⟨_, hexec, (State.fillTaken_next ..).trans (Nat.mod_eq_of_lt (lt_trans hlt hslot)), (State.fillTaken_fills ..).trans (by rw [hbegun.get]),
      (State.fillTaken_issued ..).trans (by rw [hbegun.get]), (State.fillTaken_fillsOf ..).trans (if_pos rfl), fun v hv => ?_,
      (State.fillTaken_mem ..).trans hbegun.mem, ?_⟩
    · rw [State.fillTaken_fillsOf, if_neg hv]
      unfold State.fillsOf
      rw [hbegun.core, CoreSt.dmBegun_fills]
    · exact ⟨_, by rw [State.fillTaken_dmCmds, hbegun.core, CoreSt.dmBegun_dmCmds], rfl, rfl⟩

end Sys2Proof.Machine
end

section
/-! PROOFS. Requests of the data mover, their answers, and the stream windows (R235, R238, R240, R292, R308, R774). -/

namespace Sys2Proof.Machine

open Sys2Proof

/-! ### What a request touches depends on registers alone -/

section
variable {s t : State} {c : Nat} {x : CoreSt} (h : CoreBecomes s t c x)
include h

theorem CoreBecomes.isOwn (d : Nat) (a : Int) : t.isOwn d a = s.isOwn d a := by rw [h.rest]; rfl
theorem CoreBecomes.ownRange (d : Nat) (a : Int) (n : Nat) : t.ownRange d a n = s.ownRange d a n := by rw [h.rest]; rfl
theorem CoreBecomes.reqOwn (r : DmReq) : t.reqOwn c r = s.reqOwn c r := by rw [h.rest]; rfl
theorem CoreBecomes.reqOn (r : DmReq) : t.reqOn c r = s.reqOn c r := by rw [h.rest]; rfl
theorem CoreBecomes.reqRanges (r : DmReq) : t.reqRanges c r = s.reqRanges c r := by rw [h.rest]; rfl
theorem CoreBecomes.unmapped (a : Nat) : t.unmapped a = s.unmapped a := by rw [h.rest]; rfl
theorem CoreBecomes.specR1 (a : Nat) : t.specR1 a = s.specR1 a := by rw [h.rest]; rfl
theorem CoreBecomes.specAddr (slot curs a : Nat) : t.specAddr slot curs a = s.specAddr slot curs a := by rw [h.rest]; rfl
theorem CoreBecomes.transfer (iter typ bop imm : Nat) (src dst : Int) (len ca cb : Nat) (sr sat : Bool) :
    t.transfer c iter typ bop imm src dst len ca cb sr sat = s.transfer c iter typ bop imm src dst len ca cb sr sat := by rw [h.rest]; rfl
theorem CoreBecomes.readWin (off n : Nat) : t.readWin c off n = s.readWin c off n := by rw [h.rest]; rfl
theorem CoreBecomes.stq : t.stq = s.stq := by rw [h.rest]
end

/-- No ranges take no bank. -/
@[simp] theorem State.windowTake_nil (s : State) (c : Nat) (m : BankMaster) (since : Nat) : s.windowTake c m since [] = s := rfl

/-- A conversion that raises nothing sets no flag. -/
@[simp] theorem State.dmFlags_none (s : State) (c : Nat) : s.dmFlags c {} = s := rfl

@[simp] theorem State.modDm_mem (s : State) (c id : Nat) (f : DmCmd → DmCmd) : (s.modDm c id f).mem = s.mem := rfl

/-- What a read of the window finds is in memory. -/
theorem State.readWin_congr {s t : State} (h : t.mem = s.mem) (c off n : Nat) : t.readWin c off n = s.readWin c off n := by
  unfold State.readWin State.readMem
  rw [h]

/-! ### The request that is due -/

/-- Since when the data mover presents the next request of command `d` (R218, R239). -/
def State.dmDue (s : State) (c : Nat) (d : DmCmd) : Nat :=
  max (s.core c).issueAt (((s.core c).eng .dm).lastEntry + (if d.gather = 0 then 0 else 1))

/-- The data mover at work on a request in the present ACLK. -/
def State.dmEntered (s : State) (c : Nat) : State := s.setEntry c .dm s.now

/-- A core whose data mover has entered a request in ACLK `n`. -/
def CoreSt.dmEnter (x : CoreSt) (n : Nat) : CoreSt := x.setEng .dm { x.eng .dm with lastEntry := n }

theorem State.dmEntered_becomes (s : State) (c : Nat) : CoreBecomes s (s.dmEntered c) c ((s.core c).dmEnter s.now) :=
  (CoreBecomes.refl s c).setEntry .dm s.now

theorem State.dmEntered_serves (s : State) (c : Nat) (m : BankMaster) (since : Nat) (rs : List (Nat × Nat)) :
    (s.dmEntered c).windowServes c m since rs = s.windowServes c m since rs := (s.dmEntered_becomes c).windowServes rfl rfl rfl m since rs

section
variable {s : State} {c : Nat} {d : DmCmd} (hrun : s.running c = true) (hd : s.dmIssuing c = some d) (hdue : s.dmDue c d ≤ s.now)
include hrun hd hdue

/-- The next request of the command that issues is presented in the present ACLK. -/
theorem State.dmIssueRequest_next {r : DmReq} {more : List DmReq} (hreqs : d.reqs = r :: more) :
    exec (.dmIssueRequest ⟨c, .ok⟩) s = .next (((s.dmEntered c).dmIssueNext c d r .ok (s.dmDue c d)).getD s) := by
  show execDmIssueRequest ⟨c, .ok⟩ s = _
  unfold State.dmDue at hdue ⊢
  unfold execDmIssueRequest
  simp only [hd, Nat.max_eq_left hdue, s.at_of_le _ (Nat.le_refl _), hrun, Bool.true_or, Bool.not_true, Bool.false_eq_true, if_false, hreqs]
  rfl

/-- The next iteration of the command that issues is taken up in the present ACLK. -/
theorem State.dmIssueRequest_iterate (hreqs : d.reqs = []) :
    exec (.dmIssueRequest ⟨c, .ok⟩) s = .next (((s.dmEntered c).dmIterate c d .ok (s.dmDue c d)).getD s) := by
  show execDmIssueRequest ⟨c, .ok⟩ s = _
  unfold State.dmDue at hdue ⊢
  unfold execDmIssueRequest
  simp only [hd, Nat.max_eq_left hdue, s.at_of_le _ (Nat.le_refl _), hrun, Bool.true_or, Bool.not_true, Bool.false_eq_true, if_false, hreqs]
  rfl
end

/-- A request whose banks serve it is issued. -/
theorem State.dmIssueNext_served {s : State} {c since : Nat} {r : DmReq} (d : DmCmd) (hw : MemHw) (h : s.windowServes c .dm since (s.reqRanges c r) = true) :
    s.dmIssueNext c d r hw since = some ((s.dmIssue c d r hw since).dmIssuedAll c d.id) := by
  unfold State.dmIssueNext
  rw [if_neg (by simp [h])]

/-- What follows the issue of a request keeps memory and what waits in the mesh. -/
theorem State.dmIssuedAll_local (s : State) (c id : Nat) : Local s (s.dmIssuedAll c id) :=
  (Local.modCore ..).trans (CplFrame.dmSettle ..).rest

theorem DmKeeps.dmIssuedAll {α : Type} {π : CoreSt → α} (h : DmKeeps π) (s : State) (c id : Nat) : π ((s.dmIssuedAll c id).core c) = π (s.core c) := by
  unfold State.dmIssuedAll
  rw [h.dmSettle]
  unfold State.modDm
  rw [State.modCore_same, h.cmds]

theorem RegFrame.dmIssuedAll (s : State) (c id : Nat) : RegFrame dmRegs s (s.dmIssuedAll c id) := (RegFrame.modCore ..).trans (.dmSettle ..)

/-- Without errors of the hardware and of PERT_ECC the reads of a request find nothing. -/
theorem State.dmReadReq_ok {s : State} (h : s.inj = []) (c : Nat) (d : DmCmd) (r : DmReq) (since : Nat) :
    s.dmReadReq c d r .ok since = (s.windowTake c .dm since (s.reqRanges c r), false) := by
  have hread := State.dmRead_ok ((s.windowTake_taken c .dm since (s.reqRanges c r)).inj.trans h) c (s.reqReads c r)
  unfold State.dmReadReq
  simp only [hread, Bool.false_eq_true, if_false]

/-! ### A copy within the own window (R235, R238) -/

theorem State.rangeOn_of_ownRange {s : State} {c n off : Nat} (h : s.ownRange c ((off : Nat) : Int) n = true) : s.rangeOn c off n = true := by
  simp only [State.ownRange, State.spdRange, Bool.and_eq_true, Bool.or_eq_true, decide_eq_true_eq] at h
  obtain ⟨-, hacb | ⟨-, hon⟩⟩ := h
  · simp only [State.rangeOn, List.all_eq_true, List.mem_range, Bool.or_eq_true, decide_eq_true_eq]
    exact fun b hb => .inl (.inr (by omega))
  · exact hon

/-- The one request of a copy of `len` bytes within the own window. -/
def copyReq (iter src dst len fmt e0 : Nat) : DmReq :=
  { iter := iter, isRead := false, typ := 1, far := dst, loc := 0, len := len, bop := 0, fmt := fmt, imm := 0, conv := none, data := [], e0 := e0,
    reads := [(winOff (gLoc src), len)] }

theorem gAddr_own {s : State} {c : Nat} {a : Int} (h : s.isOwn c a = true) : gAddr a = some a.toNat := by
  simp only [State.isOwn, Bool.and_eq_true, decide_eq_true_eq] at h
  obtain ⟨⟨⟨h0, h1⟩, -⟩, -⟩ := h
  exact if_pos ⟨h0, h1⟩

theorem isOwn_toNat {s : State} {c : Nat} {a : Int} (h : s.isOwn c a = true) : s.isOwn c ((a.toNat : Nat) : Int) = true := by
  have h0 : 0 ≤ a := by
    simp only [State.isOwn, Bool.and_eq_true, decide_eq_true_eq] at h
    obtain ⟨⟨⟨h0, -⟩, -⟩, -⟩ := h
    exact h0
  rw [Int.toNat_of_nonneg h0]
  exact h

/-- What R235 asks of a copy of `len` bytes from `src` to `dst`, both in the own window, without conversion. -/
structure OwnCopy (s : State) (c : Nat) (src dst : Int) (len : Nat) (fmt : Nat) : Prop where
  whole : len % (Fmt.ofCode fmt).bytes = 0
  srcOwn : s.isOwn c src = true
  dstOwn : s.isOwn c dst = true
  srcAligned : src.toNat % 16 = 0
  dstAligned : dst.toNat % 16 = 0
  srcRange : s.ownRange c (ownOff src) len = true
  dstRange : s.ownRange c (ownOff dst) len = true

section
variable {s : State} {c : Nat} {src dst : Int} {len fmt : Nat} (h : OwnCopy s c src dst len fmt)
include h

theorem OwnCopy.transfer (iter : Nat) (sr sat : Bool) : s.transfer c iter 1 0 0 src dst len fmt fmt sr sat =
    some [copyReq iter src.toNat dst.toNat len fmt (iter * (len / (Fmt.ofCode fmt).bytes))] := by
  have hlen : len / (Fmt.ofCode fmt).bytes * (Fmt.ofCode fmt).bytes = len := Nat.div_mul_cancel (Nat.dvd_of_mod_eq_zero h.whole)
  have hconv : convOf fmt fmt sr sat = none := if_pos rfl
  unfold State.transfer
  simp only [h.whole, gAddr_own h.srcOwn, gAddr_own h.dstOwn, h.srcAligned, h.dstAligned, h.srcOwn, h.dstOwn, hlen, h.srcRange, h.dstRange, hconv, ne_eq, not_true_eq_false,
    or_self, if_false, if_true, Bool.and_self]
  rfl

theorem OwnCopy.reqOwn (iter e0 : Nat) : s.reqOwn c (copyReq iter src.toNat dst.toNat len fmt e0) = true := by
  simp only [State.reqOwn, copyReq, isOwn_toNat h.dstOwn]
  rfl

theorem OwnCopy.reqRanges (iter e0 : Nat) : s.reqRanges c (copyReq iter src.toNat dst.toNat len fmt e0) =
    [(winOff (gLoc src.toNat), len), (winOff (gLoc dst.toNat), len)] := by
  unfold State.reqRanges
  rw [h.reqOwn]
  rfl

theorem OwnCopy.reqOn (iter e0 : Nat) : s.reqOn c (copyReq iter src.toNat dst.toNat len fmt e0) = true := by
  unfold State.reqOn
  rw [h.reqRanges, h.reqOwn]
  simp [State.rangeOn_of_ownRange h.srcRange, State.rangeOn_of_ownRange h.dstRange, copyReq]

/-- The request of the copy moves the bytes as they stand. -/
theorem OwnCopy.dmIssue_mem (d : DmCmd) (iter e0 since : Nat) (hinj : s.inj = []) :
    (s.dmIssue c d (copyReq iter src.toNat dst.toNat len fmt e0) .ok since).mem =
      putBytes s.mem (winBase c + winOff (gLoc dst.toNat)) (s.readWin c (winOff (gLoc src.toNat)) len) := by
  have hmem := (s.windowTake_taken c .dm since (s.reqRanges c (copyReq iter src.toNat dst.toNat len fmt e0))).mem
  unfold State.dmIssue
  simp only [h.reqOn, h.reqOwn, Bool.not_true, Bool.false_eq_true, if_false, if_true, State.dmReadReq_ok hinj]
  generalize s.windowTake c .dm since (s.reqRanges c (copyReq iter src.toNat dst.toNat len fmt e0)) = u at hmem
  have hread : (u.modDm c d.id (fun d => { d with reqs := d.reqs.drop 1 })).readWin c (winOff (gLoc src.toNat)) len =
      s.readWin c (winOff (gLoc src.toNat)) len := State.readWin_congr ((State.modDm_mem ..).trans hmem) ..
  unfold State.dmLocal
  simp only [copyReq, State.reqData, List.isEmpty_nil, State.dmFlags_none, if_true, State.writeWin_mem, hread]
  rw [State.modDm_mem, hmem]

/-- A copy that is accepted is accepted in whatever the core is doing. -/
theorem OwnCopy.becomes {t : State} {x : CoreSt} (hb : CoreBecomes s t c x) : OwnCopy t c src dst len fmt where
  whole := h.whole
  srcOwn := (hb.isOwn ..).trans h.srcOwn
  dstOwn := (hb.isOwn ..).trans h.dstOwn
  srcAligned := h.srcAligned
  dstAligned := h.dstAligned
  srcRange := (hb.ownRange ..).trans h.srcRange
  dstRange := (hb.ownRange ..).trans h.dstRange
end

/-- A command whose requests of the next iteration are `l`. -/
def DmCmd.expanded (l : List DmReq) (d : DmCmd) : DmCmd := { d with reqs := l, gather := d.gather + 1 }

/-- The first iteration of a DM_COPY within the own window issues its one request once the banks serve it, and so moves the bytes. -/
theorem OwnCopy.dmIterate {s : State} {c since : Nat} {d : DmCmd} (h : OwnCopy s c (cpSrc d.q.cmd 0) (cpDst d.q.cmd 0) (cpLen d.q.cmd) (cpFmtSC d.q.cmd))
    (hop : Cmd.opcode d.q.cmd = 0x13) (hfmt : cpFmtSC d.q.cmd = cpFmtDC d.q.cmd) (hg : d.gather = 0) (hecc : d.ecc = .ok) (hinj : s.inj = [])
    (hserves : s.windowServes c .dm since
      [(winOff (gLoc (cpSrc d.q.cmd 0).toNat), cpLen d.q.cmd), (winOff (gLoc (cpDst d.q.cmd 0).toNat), cpLen d.q.cmd)] = true) :
    ∃ t, s.dmIterate c d .ok since = some t ∧ t.mem = putBytes s.mem (winBase c + winOff (gLoc (cpDst d.q.cmd 0).toNat))
      (s.readWin c (winOff (gLoc (cpSrc d.q.cmd 0).toNat)) (cpLen d.q.cmd)) := by
  have hidx : s.idxRange c d = [] := by simp [State.idxRange, hop]
  have hhw : dmHwAt d.ecc d.gather = .ok := by rw [hecc]; rfl
  obtain ⟨e0, hexpand⟩ : ∃ e0, s.dmExpand c d d.gather =
      some [copyReq 0 (cpSrc d.q.cmd 0).toNat (cpDst d.q.cmd 0).toNat (cpLen d.q.cmd) (cpFmtSC d.q.cmd) e0] := by
    refine ⟨0 * (cpLen d.q.cmd / (Fmt.ofCode (cpFmtSC d.q.cmd)).bytes), ?_⟩
    rw [hg]
    unfold State.dmExpand
    simp only [hop, ← hfmt]
    exact h.transfer ..
  have hmod (r : DmReq) := (CoreBecomes.refl s c).modDm d.id (DmCmd.expanded [r])
  have hserved (r : DmReq) (hr : r = copyReq 0 (cpSrc d.q.cmd 0).toNat (cpDst d.q.cmd 0).toNat (cpLen d.q.cmd) (cpFmtSC d.q.cmd) e0) :
      (s.modDm c d.id (DmCmd.expanded [r])).windowServes c .dm since ((s.modDm c d.id (DmCmd.expanded [r])).reqRanges c r) = true := by
    rw [(hmod r).reqRanges, hr, h.reqRanges, (hmod _).windowServes rfl rfl rfl]
    exact hserves
  have hmem (r : DmReq) (hr : r = copyReq 0 (cpSrc d.q.cmd 0).toNat (cpDst d.q.cmd 0).toNat (cpLen d.q.cmd) (cpFmtSC d.q.cmd) e0) :
      (((s.modDm c d.id (DmCmd.expanded [r])).dmIssue c { d with reqs := [r] } r .ok since).dmIssuedAll c d.id).mem =
        putBytes s.mem (winBase c + winOff (gLoc (cpDst d.q.cmd 0).toNat)) (s.readWin c (winOff (gLoc (cpSrc d.q.cmd 0).toNat)) (cpLen d.q.cmd)) := by
    have hissued := (h.becomes (hmod r)).dmIssue_mem { d with reqs := [r] } 0 e0 since ((hmod r).inj.trans hinj)
    rw [← hr, (hmod r).mem, (hmod r).readWin] at hissued
    exact (State.dmIssuedAll_local ..).mem.trans hissued
  generalize copyReq 0 (cpSrc d.q.cmd 0).toNat (cpDst d.q.cmd 0).toNat (cpLen d.q.cmd) (cpFmtSC d.q.cmd) e0 = r at hexpand hserved hmem
  have hissue := State.dmIssueNext_served { d with reqs := [r] } .ok (hserved r rfl)
  have hnone : s.windowServes c .dm since [] = true := rfl
  refine ⟨_, ?_, hmem r rfl⟩
  unfold State.dmIterate
  simp only [hidx, hnone, State.windowTake_nil, hhw, State.dmRead_ok hinj, hexpand, Bool.not_true, Bool.false_eq_true, if_false]
  unfold DmCmd.expanded at hissue ⊢
  simp only [hissue, Option.getD_some]

/-! ### A request to a far address (R238) -/

/-- A read that leaves the core: nothing of the own window goes with it. -/
def DmReq.sent (r : DmReq) : DmReq := { r with isRead := true, data := [], reads := [] }

/-- A command whose next request has been issued, and one that waits for one more answer. -/
def DmCmd.nextReq (d : DmCmd) : DmCmd := { d with reqs := d.reqs.drop 1 }
def DmCmd.opened (d : DmCmd) : DmCmd := { d with open_ := d.open_ + 1 }

/-- The data mover with the request `r` of command `id` outstanding under `tag`. -/
def State.tagTaken (s : State) (c id tag : Nat) (r : DmReq) : State :=
  ((s.modDm c id DmCmd.nextReq).modDm c id DmCmd.opened).modCore c
    (fun x => { x with dmTags := x.dmTags ++ [{ tag := tag, cmd := id, req := r }], tagStall := false })

theorem State.tagTaken_local (s : State) (c id tag : Nat) (r : DmReq) : Local s (s.tagTaken c id tag r) :=
  ((Local.modCore ..).trans (.modCore ..)).trans (.modCore ..)

theorem State.tagTaken_dmTags (s : State) (c id tag : Nat) (r : DmReq) :
    ((s.tagTaken c id tag r).core c).dmTags = (s.core c).dmTags ++ [{ tag := tag, cmd := id, req := r }] := by
  unfold State.tagTaken State.modDm
  simp only [State.modCore_same]

/-- A read of a far address that is mapped takes a tag and is sent. -/
theorem State.dmIssue_far {s : State} {c tag since : Nat} {d : DmCmd} {r : DmReq} (hon : s.reqOn c r = true) (hown : s.isOwn c r.far = false)
    (hmapped : s.reqUnmapped d r = none) (htag : (s.core c).freeTag = some tag) (hinj : s.inj = []) (hread : r.isRead = true) (hreads : r.reads = [])
    (hspec : s.specAddr (s.core c).slot d.spec r.far = r.far) :
    ∃ n group, s.dmIssue c d r .ok since = (((s.tagTaken c d.id tag r.sent).set F.DM_TAGS_HIGH_WATER c n).dmSend c
      (reqPacket c tag r.sent [] group)).pmon .DM c 0x55 0 1 := by
  have hlocal : s.reqOwn c r = false := by simp [State.reqOwn, hown]
  have hranges : s.reqRanges c r = [] := by simp [State.reqRanges, hlocal, hreads]
  have hmod := ((CoreBecomes.refl s c).modDm d.id DmCmd.nextReq).modDm d.id DmCmd.opened
  have hspec' : ((s.modDm c d.id DmCmd.nextReq).modDm c d.id DmCmd.opened).specAddr
      (((s.modDm c d.id DmCmd.nextReq).modDm c d.id DmCmd.opened).core c).slot d.spec r.far = r.far := by
    rw [hmod.specAddr, hmod.core]
    exact hspec
  let u := s.tagTaken c d.id tag r.sent
  let v := u.set F.DM_TAGS_HIGH_WATER c (max (u.get F.DM_TAGS_HIGH_WATER c) (u.core c).dmTags.length)
  refine ⟨max (u.get F.DM_TAGS_HIGH_WATER c) (u.core c).dmTags.length, v.isGroup r.far, ?_⟩
  unfold DmCmd.nextReq DmCmd.opened at hspec'
  unfold State.dmIssue
  simp only [hon, hlocal, hmapped, htag, State.dmReadReq_ok hinj, hranges, State.windowTake_nil, hread, Bool.not_true, Bool.false_eq_true, if_false, if_true,
    State.dmFlags_none, hspec', State.reqImm, hreads]
  rfl

/-- The packet of a read that is sent from core `c` under `tag`. -/
structure ReadSent (s t : State) (c tag : Nat) (r : DmReq) (p : Packet) : Prop where
  stq : lookD [] t.stq (nodeKey (dieOf c) (clusterOf c)) = lookD [] s.stq (nodeKey (dieOf c) (clusterOf c)) ++ [p]
  typ : p.typ = r.typ
  src : p.src = c
  tag : p.tag = tag
  len : p.len = r.len
  mod : p.mod = gMod r.far
  addr : p.addr = gLoc r.far

/-- A read enters the mesh at the core's router. -/
theorem State.dmSend_read (s : State) (c tag : Nat) {r : DmReq} (group : Bool) (htyp : r.typ = 0) :
    ∃ p, ReadSent s (s.dmSend c (reqPacket c tag r.sent [] group)) c tag r p ∧ (s.dmSend c (reqPacket c tag r.sent [] group)).core = s.core ∧
      (s.dmSend c (reqPacket c tag r.sent [] group)).mem = s.mem := by
  have hsend : s.dmSend c (reqPacket c tag r.sent [] group) = s.sendFrom (dieOf c) (clusterOf c) (reqPacket c tag r.sent [] group) := by
    unfold State.dmSend
    exact if_neg (by simp [reqPacket, DmReq.sent, htyp])
  rw [hsend]
  exact ⟨_, ⟨State.inject_same .., by simp [reqPacket, DmReq.sent, htyp], rfl, rfl, rfl, rfl, rfl⟩, rfl, rfl⟩

/-! ### A request that is refused or held (R238, R774) -/

theorem Field.of_ofNat (f : Field) {n : Nat} (h : n < 2 ^ 64) : f.of (BitVec.ofNat 64 n) = n / 2 ^ f.lo % 2 ^ f.width := by
  rw [Field.of, BitVec.extractLsb'_toNat, BitVec.toNat_ofNat, Nat.mod_eq_of_lt h, Nat.shiftRight_eq_div_pow]

/-- The word that records a refusal: VALID, the reason, and a command ID. -/
theorem remoteInfo_fields {reason n : Nat} (hr : reason < 8) (hn : n < 2 ^ 10) :
    F.DM_REMOTE_INFO_VALID.of (BitVec.ofNat 64 (2 ^ 31 + reason * 2 ^ 28 + n)) = 1 ∧
      F.DM_REMOTE_INFO_REASON.of (BitVec.ofNat 64 (2 ^ 31 + reason * 2 ^ 28 + n)) = reason := by
  rw [Field.of_ofNat _ (by omega), Field.of_ofNat _ (by omega)]
  constructor
  · show (2 ^ 31 + reason * 2 ^ 28 + n) / 2 ^ 31 % 2 ^ 1 = 1
    omega
  · show (2 ^ 31 + reason * 2 ^ 28 + n) / 2 ^ 28 % 2 ^ 3 = reason
    omega

/-- The first refused iteration of a command that ends with REMOTE. -/
def DmCmd.refusedAt (iter : Nat) (d : DmCmd) : DmCmd := if d.status = 0xC ∧ iter < d.iter then { d with iter := iter } else d

/-- A refusal writes its record when VALID is clear, and ends its command. -/
theorem State.dmRefused_word (s : State) (c id iter far : Nat) {reason : Nat} (hr : reason < 8) (hv : s.get F.DM_REMOTE_INFO_VALID c = 0) :
    ∃ w, F.DM_REMOTE_INFO_VALID.of w = 1 ∧ F.DM_REMOTE_INFO_REASON.of w = reason ∧ s.dmRefused c id iter reason far =
      (((s.wr ⟨.DM_REMOTE_ADDR, c, 0⟩ (BitVec.ofNat 64 far)).wr ⟨.DM_REMOTE_INFO, c, 0⟩ w).dmFail c id 0xC iter).modDm c id (DmCmd.refusedAt iter) := by
  have hclear : ¬ s.get F.DM_REMOTE_INFO_VALID c = 1 := by omega
  unfold State.dmRefused
  cases s.dmFind c id with
  | none =>
    simp only [if_neg hclear]
    obtain ⟨h1, h2⟩ := remoteInfo_fields hr (show 0 < 2 ^ 10 by decide)
    exact ⟨_, h1, h2, rfl⟩
  | some d =>
    simp only [if_neg hclear]
    obtain ⟨h1, h2⟩ := remoteInfo_fields hr (show Cmd.id d.q.cmd < 2 ^ 10 from Cmd.f_lt ..)
    exact ⟨_, h1, h2, rfl⟩

/-- The first refusal after VALID was cleared is recorded. -/
theorem State.dmRefused_records {s : State} (c id iter far : Nat) {reason : Nat} (hr : reason < 8) (hv : s.get F.DM_REMOTE_INFO_VALID c = 0) :
    (s.dmRefused c id iter reason far).get F.DM_REMOTE_INFO_VALID c = 1 ∧ (s.dmRefused c id iter reason far).get F.DM_REMOTE_INFO_REASON c = reason ∧
      (s.dmRefused c id iter reason far).rd ⟨.DM_REMOTE_ADDR, c, 0⟩ = BitVec.ofNat 64 far ∧ Local s (s.dmRefused c id iter reason far) := by
  obtain ⟨w, hw1, hw2, hrefused⟩ := s.dmRefused_word c id iter far hr hv
  have hinfo (f : Field) (hf : f.reg = .DM_REMOTE_INFO) : (s.dmRefused c id iter reason far).get f c = f.of w := by
    rw [hrefused, State.modDm, State.modCore_get, State.dmFail, State.modDm, State.modCore_get, State.get_def, hf, State.rd_wr_same]
  refine ⟨(hinfo _ rfl).trans hw1, (hinfo _ rfl).trans hw2, ?_, ?_⟩
  · rw [hrefused, State.modDm, State.modCore_rd, State.dmFail, State.modDm, State.modCore_rd, State.rd_wr_other _ _ (by simp), State.rd_wr_same]
  · rw [hrefused]
    exact (((Local.wr ..).trans (.wr ..)).trans (.modCore ..)).trans (.modCore ..)

/-- A request to an address that is refused before it is issued. -/
theorem State.dmIssue_refused {s : State} {c since a : Nat} {d : DmCmd} {r : DmReq} (hon : s.reqOn c r = true) (hown : s.isOwn c r.far = false)
    (hun : s.reqUnmapped d r = some a) (hw : MemHw) : s.dmIssue c d r hw since = s.dmRefused c d.id r.iter rUNMAPPED a := by
  have hlocal : s.reqOwn c r = false := by simp [State.reqOwn, hown]
  unfold State.dmIssue
  simp only [hon, hlocal, hun, Bool.not_true, Bool.false_eq_true, if_false]

/-- A request that finds no tag free stalls the data mover. -/
theorem State.dmIssue_noTag {s : State} {c since : Nat} {d : DmCmd} {r : DmReq} (hon : s.reqOn c r = true) (hown : s.isOwn c r.far = false)
    (hun : s.reqUnmapped d r = none) (htag : (s.core c).freeTag = none) (hstall : (s.core c).tagStall = false) (hw : MemHw) :
    s.dmIssue c d r hw since = ((s.flag F.DM_EVT_TAG_STALL c).bump F.DM_STALL_CNT_COUNT c).modCore c (fun x => { x with tagStall := true }) := by
  have hlocal : s.reqOwn c r = false := by simp [State.reqOwn, hown]
  unfold State.dmIssue
  simp only [hon, hlocal, hun, htag, hstall, Bool.not_true, Bool.false_eq_true, if_false]

/-- Commands that complete leave the event of a stall. -/
theorem State.dmReport_tagStall (n : Nat) (s : State) (c : Nat) : (s.dmReport c n).get F.DM_EVT_TAG_STALL c = s.get F.DM_EVT_TAG_STALL c := by
  have hevt (u : State) (st : Nat) : (u.dmEvt c st).get F.DM_EVT_TAG_STALL c = u.get F.DM_EVT_TAG_STALL c := by
    unfold State.dmEvt
    split
    · exact State.get_flag_apart _ _ _ _ _ (by decide) (by decide) (by decide)
    · exact State.get_flag_apart _ _ _ _ _ (by decide) (by decide) (by decide)
    · exact State.get_flag_apart _ _ _ _ _ (by decide) (by decide) (by decide)
    · exact State.get_flag_apart _ _ _ _ _ (by decide) (by decide) (by decide)
    · rfl
  have hcomplete (u : State) (d : DmCmd) : (u.dmComplete c d).get F.DM_EVT_TAG_STALL c = u.get F.DM_EVT_TAG_STALL c :=
    ((RegFrame.dmComplete_evt u c d).get _ _ (by decide) rfl).trans (hevt u d.status)
  induction n generalizing s with
  | zero => rfl
  | succ n ih =>
    unfold State.dmReport
    split
    · rfl
    · split
      · dsimp only
        rw [ih]
        split
        · rw [State.cellBack, State.modCore_get, State.modCore_get]
        · rw [hcomplete, State.modCore_get]
      · rfl

theorem State.dmIssuedAll_tagStall (s : State) (c id : Nat) : (s.dmIssuedAll c id).get F.DM_EVT_TAG_STALL c = s.get F.DM_EVT_TAG_STALL c :=
  State.dmReport_tagStall ..

/-! ### Answers (R240) -/

/-- The data of an answer is written where it is to land, once the banks serve it. -/
theorem State.dmLand_ok {s : State} {c since : Nat} {r : DmReq} {bs : List Byte} (d : DmCmd) (hon : s.rangeOn c r.loc bs.length = true) (hinj : s.inj = []) :
    s.dmLand c d r bs {} .ok since = (s.windowTake c .dm since [(r.loc, bs.length)]).writeWin c r.loc bs := by
  have hread := State.dmRead_ok ((s.windowTake_taken c .dm since [(r.loc, bs.length)]).inj.trans hinj) c (partWords r.loc bs.length)
  unfold State.dmLand
  simp only [hon, hread, Bool.not_true, Bool.false_eq_true, if_false, State.dmFlags_none]

/-- A command with one outstanding piece less. -/
def DmCmd.closed (d : DmCmd) : DmCmd := { d with open_ := d.open_ - 1 }

/-- The end of an answer: its tag is free, and its command waits for one answer less. -/
def State.dmClose (s : State) (c tag id : Nat) : State := ((s.dmTagBack c tag).modDm c id DmCmd.closed).dmSettle c

theorem State.dmClose_mem (s : State) (c tag id : Nat) : (s.dmClose c tag id).mem = s.mem := by
  unfold State.dmClose
  rw [(CplFrame.dmSettle ..).rest.mem, State.modDm_mem]
  exact State.modCore_mem ..

/-- No tag of that number is left. -/
theorem State.dmClose_tags (s : State) (c tag id : Nat) : ∀ h ∈ ((s.dmClose c tag id).core c).dmTags, h.tag ≠ tag := by
  intro h hh
  unfold State.dmClose State.modDm State.dmTagBack at hh
  rw [CoreSt.dmTags_kept.dmSettle, State.modCore_same, State.modCore_same] at hh
  simpa using (List.mem_filter.mp hh).2

/-- The oldest answer brings the data of an unconverted read. -/
theorem State.dmResponse_lands {s : State} {c : Nat} {g : TagSt} {d : DmCmd} {data : List Byte}
    (htag : (s.core c).dmTags.find? (fun g => g.answered.isSome) = some g) (hfind : s.dmFind c g.cmd = some d) (hans : g.answered = some (0, 0, data))
    (habort : (s.core c).abort = none) (hread : g.req.isRead = true) (hconv : g.req.conv = none) (hinj : s.inj = [])
    (hon : s.rangeOn c g.req.loc data.length = true) (hserves : s.windowServes c .dm g.at_ [(g.req.loc, data.length)] = true) :
    exec (.dmResponse ⟨c, .ok⟩) s = .next (((s.windowTake c .dm g.at_ [(g.req.loc, data.length)]).writeWin c g.req.loc data).dmClose c g.tag d.id) := by
  have hlanding : s.dmLanding c (Cmd.id d.q.cmd) g.req data = some (data, {}) := by
    unfold State.dmLanding
    simp only [hread, hconv, if_true, ite_self]
  show execDmResponse ⟨c, .ok⟩ s = _
  unfold execDmResponse
  simp only [htag, hfind, hans, habort, hlanding, hserves, State.dmLand_ok d hon hinj, Option.isSome_none, Bool.false_eq_true, if_false, ne_eq, not_true_eq_false,
    Bool.not_true, Bool.and_false]
  rfl

/-! ### Stream windows (R292, R308) -/

/-- What the counting of LATE keeps: everything but registers and per-core records, the cores, and every register but LATE. -/
structure LateCounted (s t : State) : Prop where
  rest : Local s t
  core : t.core = s.core
  regs : RegFrame [.DM_STRM_LATE] s t

theorem LateCounted.refl (s : State) : LateCounted s s := ⟨.refl s, rfl, .refl s⟩

theorem LateCounted.trans {s t u : State} (h : LateCounted s t) (g : LateCounted t u) : LateCounted s u :=
  ⟨h.rest.trans g.rest, g.core.trans h.core, h.regs.trans g.regs⟩

theorem LateCounted.bump (s : State) (c n w : Nat) : LateCounted s (s.bump F.DM_STRM_LATE_ACLK c n w) := ⟨.set .., funext fun d => State.set_core_read .., .bump _ _ _ _ _ (by simp)⟩

theorem LateCounted.foldl {α : Type} {g : State → α → State} (hg : ∀ s a, LateCounted s (g s a)) (l : List α) (s : State) : LateCounted s (l.foldl g s) := by
  induction l generalizing s with
  | nil => exact .refl s
  | cons a l ih => exact (hg s a).trans (ih _)

/-- Behind the settling of LATE the windows of a core are as they were, but for LATE. -/
structure LateSettled (s t : State) (c : Nat) : Prop where
  rest : Local s t
  fills : ∀ w, t.fillsOf c w = s.fillsOf c w
  regs : RegFrame [.DM_STRM_LATE] s t

theorem State.lateSettle_settled (s : State) (c : Nat) : LateSettled s (s.lateSettle c) c := by
  have h : LateCounted s ((s.core c).lateAt.foldl (fun s l => (s.streamWins c l.1).foldl (fun s w => s.bump F.DM_STRM_LATE_ACLK c (s.now - l.2) w) s) s) := by
    refine LateCounted.foldl (fun u l => ?_) _ _
    show LateCounted u (List.foldl (fun s w => s.bump F.DM_STRM_LATE_ACLK c (s.now - l.2) w) u _)
    exact LateCounted.foldl (fun v w => LateCounted.bump ..) _ _
  unfold State.lateSettle
  refine ⟨h.rest.trans (.modCore ..), fun w => ?_, h.regs.trans (.modCore ..)⟩
  unfold State.fillsOf
  rw [State.modCore_same, h.core]

/-- A window that has been enabled: no fills, no counts (R308). -/
def State.strmOpened (s : State) (c w : Nat) : State :=
  ((((((s.set F.DM_STRM_CFG_NEXT c 0 w).set F.DM_STRM_CFG_FILLS c 0 w).set F.DM_STRM_ISSUED_BYTES c 0 w).set F.DM_STRM_CONSUMED_BYTES c 0 w).set
    F.DM_STRM_EVICTED_BYTES c 0 w).set F.DM_STRM_LATE_ACLK c 0 w).setFills c w []

/-- The bytes of the fills of a window that have not been consumed. -/
def State.unconsumed (s : State) (c w : Nat) : Nat := ((s.fillsOf c w).filter (fun f => !f.consumed)).foldl (fun n f => n + f.bytes) 0

/-- A window that has been disabled: its fills are evicted (R292). -/
def State.strmClosed (s : State) (c w : Nat) : State := (s.bump F.DM_STRM_EVICTED_BYTES c (s.unconsumed c w) w).setFills c w []

theorem State.setFills_fillsOf (s : State) (c w v : Nat) (l : List Fill) : (s.setFills c w l).fillsOf c v = if v = w then l else s.fillsOf c v := by
  unfold State.fillsOf State.setFills
  rw [State.modCore_same]
  split
  · next h => rw [h]; exact lookD_putD_same ..
  · next h => exact lookD_putD_other _ _ _ _ _ h

@[simp] theorem State.setFills_get (s : State) (c w : Nat) (l : List Fill) (f : Field) (i j : Nat) : (s.setFills c w l).get f i j = s.get f i j := rfl

theorem State.set_fillsOf (s : State) (f : Field) (i n j c v : Nat) : (s.set f i n j).fillsOf c v = s.fillsOf c v := by
  unfold State.fillsOf
  rw [State.set_core_read]

section
variable (s : State) (c w : Nat)

theorem State.strmOpened_fillsOf (v : Nat) : (s.strmOpened c w).fillsOf c v = if v = w then [] else s.fillsOf c v := by
  unfold State.strmOpened
  simp only [State.setFills_fillsOf, State.set_fillsOf]

theorem State.strmOpened_mem : (s.strmOpened c w).mem = s.mem := by
  unfold State.strmOpened State.setFills
  simp only [State.modCore_mem, State.set_mem]

/-- Every field that the opening clears reads 0, and EN stays. -/
theorem State.strmOpened_counts : (s.strmOpened c w).get F.DM_STRM_CFG_EN c w = s.get F.DM_STRM_CFG_EN c w ∧
    (s.strmOpened c w).get F.DM_STRM_CFG_NEXT c w = 0 ∧ (s.strmOpened c w).get F.DM_STRM_CFG_FILLS c w = 0 ∧
    (s.strmOpened c w).get F.DM_STRM_ISSUED_BYTES c w = 0 ∧ (s.strmOpened c w).get F.DM_STRM_CONSUMED_BYTES c w = 0 ∧
    (s.strmOpened c w).get F.DM_STRM_EVICTED_BYTES c w = 0 ∧ (s.strmOpened c w).get F.DM_STRM_LATE_ACLK c w = 0 := by
  have hreg (u : State) (f g : Field) (h : g.reg ≠ f.reg) : (u.set f c 0 w).get g c w = u.get g c w := State.get_set_reg _ _ _ _ _ _ _ _ h
  have hzero (u : State) (f : Field) (hf : f.ok = true) : (u.set f c 0 w).get f c w = 0 := (State.get_set_same _ _ _ _ _ hf).trans (Nat.zero_mod _)
  unfold State.strmOpened
  simp only [State.setFills_get]
  refine ⟨?_, ?_, ?_, ?_, ?_, ?_, ?_⟩
  · rw [hreg _ _ _ (by decide), hreg _ _ _ (by decide), hreg _ _ _ (by decide), hreg _ _ _ (by decide),
      State.get_set_apart _ _ _ _ _ _ (by decide) (by decide) (by decide), State.get_set_apart _ _ _ _ _ _ (by decide) (by decide) (by decide)]
  · rw [hreg _ _ _ (by decide), hreg _ _ _ (by decide), hreg _ _ _ (by decide), hreg _ _ _ (by decide),
      State.get_set_apart _ _ _ _ _ _ (by decide) (by decide) (by decide), hzero _ _ (by decide)]
  · rw [hreg _ _ _ (by decide), hreg _ _ _ (by decide), hreg _ _ _ (by decide), hreg _ _ _ (by decide), hzero _ _ (by decide)]
  · rw [hreg _ _ _ (by decide), hreg _ _ _ (by decide), hreg _ _ _ (by decide), hzero _ _ (by decide)]
  · rw [hreg _ _ _ (by decide), hreg _ _ _ (by decide), hzero _ _ (by decide)]
  · rw [hreg _ _ _ (by decide), hzero _ _ (by decide)]
  · exact hzero _ _ (by decide)

theorem State.strmClosed_fillsOf (v : Nat) : (s.strmClosed c w).fillsOf c v = if v = w then [] else s.fillsOf c v := by
  unfold State.strmClosed State.bump
  rw [State.setFills_fillsOf, State.set_fillsOf]

theorem State.strmClosed_mem : (s.strmClosed c w).mem = s.mem := by
  unfold State.strmClosed State.setFills State.bump
  simp only [State.modCore_mem, State.set_mem]

theorem State.strmClosed_enabled : (s.strmClosed c w).get F.DM_STRM_CFG_EN c w = s.get F.DM_STRM_CFG_EN c w := by
  unfold State.strmClosed State.bump
  rw [State.setFills_get, State.get_set_reg _ _ _ _ _ _ _ _ (by decide)]

theorem State.strmClosed_evicted : (s.strmClosed c w).get F.DM_STRM_EVICTED_BYTES c w =
    min (s.get F.DM_STRM_EVICTED_BYTES c w + s.unconsumed c w) (2 ^ F.DM_STRM_EVICTED_BYTES.width - 1) := by
  unfold State.strmClosed State.bump
  rw [State.setFills_get, State.get_set_same _ _ _ _ _ (by decide)]
  exact Nat.mod_eq_of_lt (lt_of_le_of_lt (Nat.min_le_right _ _) (Nat.sub_lt (by positivity) Nat.one_pos))
end

/-- The hub writes DM_STRM_CFG: the window `u` with EN as written, opened, closed or neither. -/
theorem State.strmWrite_hub (s : State) (c w : Nat) (v : Word) (addr : Nat) :
    ∃ u : State, u.mem = s.mem ∧ (∀ x, u.fillsOf c x = s.fillsOf c x) ∧ u.get F.DM_STRM_CFG_EN c w = F.DM_STRM_CFG_EN.of v ∧
      u.get F.DM_STRM_EVICTED_BYTES c w = s.get F.DM_STRM_EVICTED_BYTES c w ∧ s.strmWrite .hub c w v fullMask addr =
        (if s.get F.DM_STRM_CFG_EN c w = 0 ∧ F.DM_STRM_CFG_EN.of v = 1 then u.strmOpened c w
         else if s.get F.DM_STRM_CFG_EN c w = 1 ∧ F.DM_STRM_CFG_EN.of v = 0 then u.strmClosed c w else u) := by
  have hlocks : ∀ f ∈ Reg.DM_STRM_CFG.info.fields, f.acc ≠ .rwl := by decide
  have henf : F.DM_STRM_CFG_EN ∈ Reg.DM_STRM_CFG.info.fields := by decide
  have hlate := s.lateSettle_settled c
  obtain ⟨x, hx, hrw, -⟩ := (s.lateSettle c).accWrite_hub (k := ⟨.DM_STRM_CFG, c, w⟩) v addr rfl hlocks
  have hen : ((s.lateSettle c).wr ⟨.DM_STRM_CFG, c, w⟩ x).get F.DM_STRM_CFG_EN c w = F.DM_STRM_CFG_EN.of v :=
    (congrArg F.DM_STRM_CFG_EN.of (State.rd_wr_same ..)).trans (hrw _ henf rfl)
  refine ⟨(s.lateSettle c).wr ⟨.DM_STRM_CFG, c, w⟩ x, (State.wr_mem ..).trans hlate.rest.mem, fun y => ?_, hen, ?_, ?_⟩
  · rw [← hlate.fills]
    unfold State.fillsOf
    rw [State.wr_core_read]
  · exact (congrArg F.DM_STRM_EVICTED_BYTES.of (State.rd_wr_other _ _ (by simp))).trans (hlate.regs.get _ _ (by decide) rfl)
  · unfold State.strmWrite
    rw [show fullMask = Reg.lanes .DM_STRM_CFG from rfl]
    simp only [hx, hen]
    rfl

/-! ### The statement -/

/-- The next request of the command that issues is issued in the present ACLK once its banks serve it. -/
theorem State.dmIssueRequest_served {s : State} {c : Nat} {d : DmCmd} {r : DmReq} {more : List DmReq} (hrun : s.running c = true)
    (hd : s.dmIssuing c = some d) (hdue : s.dmDue c d ≤ s.now) (hreqs : d.reqs = r :: more)
    (hserves : s.windowServes c .dm (s.dmDue c d) (s.reqRanges c r) = true) :
    exec (.dmIssueRequest ⟨c, .ok⟩) s = .next (((s.dmEntered c).dmIssue c d r .ok (s.dmDue c d)).dmIssuedAll c d.id) := by
  have hserves' : (s.dmEntered c).windowServes c .dm (s.dmDue c d) ((s.dmEntered c).reqRanges c r) = true := by
    rw [(s.dmEntered_becomes c).reqRanges, s.dmEntered_serves]
    exact hserves
  rw [State.dmIssueRequest_next hrun hd hdue hreqs, State.dmIssueNext_served d .ok hserves', Option.getD_some]

/-- A request that R774 lets pass. -/
theorem State.reqUnmapped_none {s : State} {d : DmCmd} {r : DmReq} (hb : r.bop ≠ 6) (hu : s.unmapped r.far = false) (h1 : s.specR1 r.far = false) :
    s.reqUnmapped d r = none := by
  unfold State.reqUnmapped
  rw [if_neg hb, hu, h1]
  rfl

/-- A request that R774 refuses. -/
theorem State.reqUnmapped_some {s : State} {d : DmCmd} {r : DmReq} (hb : r.bop ≠ 6) (hu : s.unmapped r.far = true) : s.reqUnmapped d r = some r.far := by
  unfold State.reqUnmapped
  rw [if_neg hb, hu]
  rfl

/-- A read of a far address that is mapped: its tag, and its packet at the core's router. -/
theorem State.dmIssue_far_leaves {s : State} {c tag since : Nat} {d : DmCmd} {r : DmReq} (hon : s.reqOn c r = true) (hown : s.isOwn c r.far = false)
    (hmapped : s.reqUnmapped d r = none) (htag : (s.core c).freeTag = some tag) (hinj : s.inj = []) (hread : r.isRead = true) (hreads : r.reads = [])
    (hspec : s.specAddr (s.core c).slot d.spec r.far = r.far) (htyp : r.typ = 0) :
    let t := (s.dmIssue c d r .ok since).dmIssuedAll c d.id
    ∃ p, ReadSent s t c tag r p ∧ (t.core c).dmTags = (s.core c).dmTags ++ [{ tag := tag, cmd := d.id, req := r.sent }] ∧ t.mem = s.mem := by
  intro t
  obtain ⟨n, group, hissue⟩ := State.dmIssue_far (since := since) hon hown hmapped htag hinj hread hreads hspec
  have htaken : Local s ((s.tagTaken c d.id tag r.sent).set F.DM_TAGS_HIGH_WATER c n) := (s.tagTaken_local ..).trans (.set ..)
  have htags : (((s.tagTaken c d.id tag r.sent).set F.DM_TAGS_HIGH_WATER c n).core c).dmTags =
      (s.core c).dmTags ++ [{ tag := tag, cmd := d.id, req := r.sent }] := by rw [State.set_core_read, State.tagTaken_dmTags]
  generalize (s.tagTaken c d.id tag r.sent).set F.DM_TAGS_HIGH_WATER c n = v at hissue htaken htags
  obtain ⟨p, hsent, hcore, hmem⟩ := v.dmSend_read c tag group htyp
  generalize v.dmSend c (reqPacket c tag r.sent [] group) = u at hissue hsent hcore hmem
  have ht : t = (u.pmon .DM c 0x55 0 1).dmIssuedAll c d.id := congrArg (fun u => State.dmIssuedAll u c d.id) hissue
  have hlocal : Local u t := by
    rw [ht]
    exact (u.pmon_local ..).trans (State.dmIssuedAll_local ..)
  have hstq : t.stq = u.stq := by rw [hlocal]
  have hstqv : v.stq = s.stq := by rw [htaken]
  refine ⟨p, ⟨by rw [hstq, ← hstqv]; exact hsent.stq, hsent.typ, hsent.src, hsent.tag, hsent.len, hsent.mod, hsent.addr⟩, ?_,
    (hlocal.mem.trans hmem).trans htaken.mem⟩
  rw [ht, CoreSt.dmTags_kept.dmIssuedAll, (u.pmon_quiet ..).core, hcore, htags]

/-- The stall for want of a tag is flagged and counted once. -/
theorem State.dmIssue_noTag_leaves {s : State} {c since : Nat} {d : DmCmd} {r : DmReq} (hon : s.reqOn c r = true) (hown : s.isOwn c r.far = false)
    (hun : s.reqUnmapped d r = none) (htag : (s.core c).freeTag = none) (hstall : (s.core c).tagStall = false) :
    let t := (s.dmIssue c d r .ok since).dmIssuedAll c d.id
    Local s t ∧ t.get F.DM_EVT_TAG_STALL c = 1 ∧ (t.core c).tagStall = true ∧
      t.get F.DM_STALL_CNT_COUNT c = min (s.get F.DM_STALL_CNT_COUNT c + 1) (2 ^ F.DM_STALL_CNT_COUNT.width - 1) := by
  rw [State.dmIssue_noTag hon hown hun htag hstall]
  have hcount : (s.flag F.DM_EVT_TAG_STALL c).get F.DM_STALL_CNT_COUNT c = s.get F.DM_STALL_CNT_COUNT c := by
    unfold State.flag
    rw [State.noteSet_get, State.get_set_reg _ _ _ _ _ _ _ _ (by decide)]
  refine ⟨(((Local.flag ..).trans (.set ..)).trans (.modCore ..)).trans (State.dmIssuedAll_local ..), ?_, ?_, ?_⟩
  · rw [State.dmIssuedAll_tagStall, State.modCore_get]
    unfold State.bump
    rw [State.get_set_reg _ _ _ _ _ _ _ _ (by decide)]
    exact State.get_flag_same _ _ _ _ (by decide) (by decide)
  · rw [CoreSt.tagStall_kept.dmIssuedAll, State.modCore_same]
  · rw [(RegFrame.dmIssuedAll ..).get _ _ (by decide) rfl, State.modCore_get]
    unfold State.bump
    rw [State.get_set_same _ _ _ _ _ (by decide), hcount]
    exact Nat.mod_eq_of_lt (lt_of_le_of_lt (Nat.min_le_right _ _) (Nat.sub_lt (by positivity) Nat.one_pos))

/-- Settles O21: the copy within the own window (`OwnCopy.dmIterate`), a far read (`State.dmIssue_far_leaves`), a refusal
(`State.dmRefused_records`), the stall (`State.dmIssue_noTag_leaves`), an answer (`State.dmResponse_lands`) and the windows
(`State.strmWrite_hub`). -/
theorem dataMoverRequests : Obligations.DataMoverRequests := by
  unfold Obligations.DataMoverRequests
  refine ⟨?copy, ?far, ?refused, ?stalled, ?answer, ?window⟩
  case copy =>
    intro s c d hrun hd hdue hinj hecc hop hreqs hg _ hfmt hwhole hsrc hdst hsa hda hsr hdr a z hserves
    have hent := s.dmEntered_becomes c
    have hcopy : OwnCopy (s.dmEntered c) c (cpSrc d.q.cmd 0) (cpDst d.q.cmd 0) (cpLen d.q.cmd) (cpFmtSC d.q.cmd) :=
      OwnCopy.becomes ⟨hwhole, hsrc, hdst, hsa, hda, hsr, hdr⟩ hent
    obtain ⟨t, hiter, hmem⟩ := hcopy.dmIterate (since := s.dmDue c d) hop hfmt hg hecc (hent.inj.trans hinj) ((s.dmEntered_serves ..).trans hserves)
    have hexec := State.dmIssueRequest_iterate hrun hd hdue hreqs
    rw [hiter, Option.getD_some] at hexec
    rw [hent.mem, hent.readWin] at hmem
    obtain ⟨hsame, hother⟩ := readByte_of_putBytes hmem
    have hlen : (s.readWin c (winOff (gLoc (cpSrc d.q.cmd 0).toNat)) (cpLen d.q.cmd)).length = cpLen d.q.cmd := getBytes_length ..
    rw [hlen] at hsame hother
    refine ⟨t, hexec, fun j hj => (hsame j hj).trans ?_, hother⟩
    unfold State.readWin State.readMem State.readByte
    simp [getBytes_eq_map, List.getD_eq_getElem?_getD, hj, a]
  case far =>
    rintro s c tag d r more ⟨hrun, hd, hreqs, hdue, hon, hserves⟩ hreads hinj hown hbop hmapped hr1 htag hspec hread htyp
    have hent := s.dmEntered_becomes c
    have hun : (s.dmEntered c).reqUnmapped d r = none :=
      State.reqUnmapped_none hbop ((hent.unmapped _).trans hmapped) ((hent.specR1 _).trans hr1)
    obtain ⟨p, hsent, htags, hmem⟩ := State.dmIssue_far_leaves (since := s.dmDue c d) ((hent.reqOn r).trans hon) ((hent.isOwn ..).trans hown) hun
      ((congrArg CoreSt.freeTag hent.core).trans htag) (hent.inj.trans hinj) hread hreads
      ((hent.specAddr ..).trans ((congrArg (fun x => s.specAddr (CoreSt.slot x) d.spec r.far) hent.core).trans hspec)) htyp
    rw [hent.core] at htags
    exact ⟨_, p, State.dmIssueRequest_served hrun hd hdue hreqs hserves, ⟨_, htags, rfl, rfl, rfl⟩, hsent.stq, hsent.typ, hsent.src, hsent.tag, hsent.len,
      hsent.mod, hsent.addr, hmem⟩
  case refused =>
    rintro s c d r more ⟨hrun, hd, hreqs, hdue, hon, hserves⟩ hown hbop hun hv
    have hent := s.dmEntered_becomes c
    have hissue := State.dmIssue_refused (since := s.dmDue c d) ((hent.reqOn r).trans hon) ((hent.isOwn ..).trans hown)
      (State.reqUnmapped_some (d := d) hbop ((hent.unmapped _).trans hun)) .ok
    have hexec := State.dmIssueRequest_served hrun hd hdue hreqs hserves
    rw [hissue] at hexec
    obtain ⟨hvalid, hreason, haddr, hlocal⟩ := State.dmRefused_records c d.id r.iter r.far (show rUNMAPPED < 8 by decide) ((hent.get ..).trans hv)
    generalize (s.dmEntered c).dmRefused c d.id r.iter rUNMAPPED r.far = u at hvalid hreason haddr hlocal hexec
    have hall := RegFrame.dmIssuedAll u c d.id
    have hrest := (hent.toLocal.trans hlocal).trans (u.dmIssuedAll_local c d.id)
    have hkept : Reg.DM_REMOTE_ADDR ∉ dmRegs := by decide
    exact ⟨_, hexec, (hall.get _ _ (by decide) rfl).trans hvalid, (hall.get _ _ (by decide) rfl).trans hreason,
      (hall.regs _ hkept rfl).trans haddr, hrest.mem, by rw [hrest]⟩
  case stalled =>
    rintro s c d r more ⟨hrun, hd, hreqs, hdue, hon, hserves⟩ hown hbop hmapped hr1 htag hstall
    have hent := s.dmEntered_becomes c
    have hun : (s.dmEntered c).reqUnmapped d r = none :=
      State.reqUnmapped_none hbop ((hent.unmapped _).trans hmapped) ((hent.specR1 _).trans hr1)
    obtain ⟨hlocal, hevt, hstalled, hcount⟩ := State.dmIssue_noTag_leaves (since := s.dmDue c d) ((hent.reqOn r).trans hon) ((hent.isOwn ..).trans hown) hun
      ((congrArg CoreSt.freeTag hent.core).trans htag) ((congrArg CoreSt.tagStall hent.core).trans hstall)
    have hrest := hent.toLocal.trans hlocal
    rw [hent.get] at hcount
    exact ⟨_, State.dmIssueRequest_served hrun hd hdue hreqs hserves, hevt, hstalled, hrest.mem, by rw [hrest], hcount⟩
  case answer =>
    intro s c g d data htag hfind hans habort hread hconv hinj hon hserves
    have hexec := State.dmResponse_lands htag hfind hans habort hread hconv hinj hon hserves
    have hmem : (((s.windowTake c .dm g.at_ [(g.req.loc, data.length)]).writeWin c g.req.loc data).dmClose c g.tag d.id).mem =
        putBytes s.mem (winBase c + g.req.loc) data := by
      rw [State.dmClose_mem, State.writeWin_mem, (s.windowTake_taken ..).mem]
    obtain ⟨hsame, hother⟩ := readByte_of_putBytes hmem
    exact ⟨_, hexec, fun h hh => State.dmClose_tags _ _ _ _ h hh, hsame, hother⟩
  case window =>
    intro s c w v hw hreach
    obtain ⟨u, hmem, hfills, hen, hevicted, hwrite⟩ := (s.access .hub).strmWrite_hub c w v (0x4000 * c + 0xD00 + 0x40 * w)
    have hexec : exec (.strmWindowEnable .hub c w v) s =
        .next { (s.access .hub).strmWrite .hub c w v fullMask (0x4000 * c + 0xD00 + 0x40 * w) with bus := .written } := by
      show Host.Outcome.next (s.regCmd .hub .DM c _) = _
      rw [State.regCmd_reached _ _ _ _ _ hreach, Nat.mod_eq_of_lt hw]
    have hwas : (s.access .hub).get F.DM_STRM_CFG_EN c w = s.get F.DM_STRM_CFG_EN c w := rfl
    have hdead : u.unconsumed c w = s.unconsumed c w := by
      unfold State.unconsumed
      rw [hfills]
      rfl
    rw [hwas] at hwrite
    rw [hwrite] at hexec
    refine ⟨_, hexec, rfl, ?_⟩
    by_cases hopen : s.get F.DM_STRM_CFG_EN c w = 0 ∧ F.DM_STRM_CFG_EN.of v = 1
    · obtain ⟨hen', hnext, hfillsc, hissued, hconsumed, hev, hlate⟩ := u.strmOpened_counts c w
      rw [if_pos hopen]
      exact ⟨hen'.trans hen, (u.strmOpened_mem c w).trans hmem,
        fun _ _ => ⟨(u.strmOpened_fillsOf c w w).trans (if_pos rfl), hnext, hfillsc, hissued, hconsumed, hev, hlate⟩,
        fun h1 _ => absurd h1 (by omega), fun x hx => (u.strmOpened_fillsOf c w x).trans ((if_neg hx).trans (hfills x))⟩
    · rw [if_neg hopen]
      by_cases hclose : s.get F.DM_STRM_CFG_EN c w = 1 ∧ F.DM_STRM_CFG_EN.of v = 0
      · rw [if_pos hclose]
        refine ⟨(u.strmClosed_enabled c w).trans hen, (u.strmClosed_mem c w).trans hmem, fun h0 h1 => absurd ⟨h0, h1⟩ hopen,
          fun _ _ => ⟨(u.strmClosed_fillsOf c w w).trans (if_pos rfl), ?_⟩, fun x hx => (u.strmClosed_fillsOf c w x).trans ((if_neg hx).trans (hfills x))⟩
        refine (u.strmClosed_evicted c w).trans ?_
        rw [hevicted, hdead]
        rfl
      · rw [if_neg hclose]
        exact ⟨hen, hmem, fun h0 h1 => absurd ⟨h0, h1⟩ hopen, fun h1 h0 => absurd ⟨h1, h0⟩ hclose, fun x _ => hfills x⟩

end Sys2Proof.Machine
end

section
/-! PROOFS. The HBM controllers: scrub reads, pair modes and reservations that lapse (R269, R273, R274, R298). -/

namespace Sys2Proof.Machine

open Sys2Proof

/-! ### Uncorrectable errors of a scrub (R273, R274) -/

/-- Without injected errors there is no line to correct. -/
theorem State.hbmMend_clean {s : State} (h : s.inj = []) (ls : List Nat) : s.hbmMend ls = s := by
  cases s; cases h; rfl

@[simp] theorem State.hbmMend_bad (s : State) (ls : List Nat) : (s.hbmMend ls).bad = s.bad := rfl
@[simp] theorem State.hbmMend_get (s : State) (ls : List Nat) (f : Field) (i j : Nat) : (s.hbmMend ls).get f i j = s.get f i j := rfl
@[simp] theorem State.hbmMend_readByte (s : State) (ls : List Nat) (a : Nat) : (s.hbmMend ls).readByte a = s.readByte a := rfl

/-- The log of the first uncorrectable error writes HBMC_ECC_LOG alone (R302). -/
theorem State.hbmLog_frame (s : State) (stack kind pc line src : Nat) : Local s (s.hbmLog stack kind pc line src) ∧
    RegFrame [.HBMC_ECC_LOG] s (s.hbmLog stack kind pc line src) := by
  unfold State.hbmLog
  split
  · exact ⟨.refl s, .refl s⟩
  · exact ⟨.wr .., .wr _ _ _ (by simp)⟩

/-- A state in which a line is bad. -/
def State.badMarked (s : State) (key : Nat) : State := if s.bad.contains key then s else { s with bad := key :: s.bad }

theorem State.badMarked_leaves (s : State) (key : Nat) : key ∈ (s.badMarked key).bad ∧ MemQuiet s (s.badMarked key) := by
  unfold State.badMarked
  split
  · next h => exact ⟨by simpa using h, .of_quiet (Quiet.refl s)⟩
  · exact ⟨List.mem_cons_self .., fun _ _ => rfl, fun _ => rfl⟩

/-- An uncorrectable error of a scrub marks its line bad and sets SCRUB_UE; memory stays outside event rings. -/
theorem State.hbmUnc_scrub (s : State) (stack key src : Nat) : key ∈ (s.hbmUnc stack 1 key src).bad ∧
    (s.hbmUnc stack 1 key src).get F.HBMC_EVT_SCRUB_UE stack = 1 ∧ MemQuiet s (s.hbmUnc stack 1 key src) := by
  obtain ⟨hbad, hmarked⟩ := s.badMarked_leaves key
  obtain ⟨hlocal, hlog⟩ := (s.badMarked key).hbmLog_frame stack 1 (key / 2 ^ 24) (key % 2 ^ 24) src
  have hrecord : Quiet (((s.badMarked key).hbmLog stack 1 (key / 2 ^ 24) (key % 2 ^ 24) src).flag F.HBMC_EVT_SCRUB_UE stack)
      (s.hbmUnc stack 1 key src) := State.logHw_quiet ..
  refine ⟨?_, ?_, hmarked.trans (hlog.mem.trans (.trans (.of_local (Local.flag ..)) (.of_quiet hrecord)))⟩
  · rw [hrecord.rest]
    show key ∈ ((s.badMarked key).hbmLog stack 1 (key / 2 ^ 24) (key % 2 ^ 24) src).bad
    rw [hlocal]
    exact hbad
  · rw [hrecord.get _ _ _ rfl, State.get_flag_same _ _ _ _ (by decide) (by decide)]

/-- The line that a scrub reads, as HBMC_ECC_LOG names it (R274, R302). -/
def scrubKey (stack line : Nat) : Nat := (64 * stack + line / pcLines) * 2 ^ 24 + line % pcLines

/-- What the read of a scrub leaves, without injected errors (R274). -/
def State.scrubRead (s : State) (stack line : Nat) (hw : MemHw) : State :=
  match hw with
  | .ok => if s.bad.contains (scrubKey stack line) then s.hbmUnc stack 1 (scrubKey stack line) 0 else s
  | .corr => ((s.flag F.HBMC_EVT_SCRUB_CORR stack).bump F.HBMC_ECC_CNT_COUNT stack).corrected .HBMC 2 stack
  | .unc => s.hbmUnc stack 1 (scrubKey stack line) 0

/-- A good line leaves no trace of its read. -/
theorem State.scrubRead_good {s : State} {stack line : Nat} (h : scrubKey stack line ∉ s.bad) : s.scrubRead stack line .ok = s :=
  if_neg (by simpa using h)

/-- A scrub of a stack that runs, without injected errors: its read, and the pass that ends with the last line (R274). -/
theorem execHbmScrub_runs {s : State} {stack line : Nat} (hst : stack < 8) (hp : s.get F.HBMC_SCRUB_PERIOD stack ≠ 0) (hline : line < stackLines)
    (hinj : s.inj = []) (hw : MemHw) : execHbmScrub stack line hw s =
      .next (if line + 1 = stackLines then ((s.scrubRead stack line hw).hbmMend []).bump F.HBMC_SCRUB_PASSES stack
        else (s.scrubRead stack line hw).hbmMend []) := by
  have hruns : (!(decide (stack < 8)) || decide (s.get F.HBMC_SCRUB_PERIOD stack = 0) || decide (stackLines ≤ line)) = false := by
    simp [hst, hp, hline]
  unfold execHbmScrub
  rw [if_neg (by rw [hruns]; exact Bool.false_ne_true), hinj]
  rfl

/-- A line that cannot be corrected is bad behind the scrub, whether it ends a pass or not. -/
theorem State.scrubRead_bad (s : State) (stack line : Nat) :
    let t := if line + 1 = stackLines then ((s.scrubRead stack line .unc).hbmMend []).bump F.HBMC_SCRUB_PASSES stack
      else (s.scrubRead stack line .unc).hbmMend []
    scrubKey stack line ∈ t.bad ∧ t.get F.HBMC_EVT_SCRUB_UE stack = 1 ∧ ∀ x, ringByte s x = false → t.readByte x = s.readByte x := by
  have hread : s.scrubRead stack line .unc = s.hbmUnc stack 1 (scrubKey stack line) 0 := rfl
  obtain ⟨hbad, hue, hmem⟩ := s.hbmUnc_scrub stack (scrubKey stack line) 0
  rw [hread]
  intro t
  unfold t
  split
  · refine ⟨?_, ?_, fun x hx => ?_⟩
    · rw [State.bump_bad, State.hbmMend_bad]; exact hbad
    · rw [State.bump, State.get_set_reg _ _ _ _ _ _ _ _ (by decide), State.hbmMend_get, hue]
    · rw [State.bump_readByte, State.hbmMend_readByte, hmem.mem x hx]
  · refine ⟨?_, ?_, fun x hx => ?_⟩
    · rw [State.hbmMend_bad]; exact hbad
    · rw [State.hbmMend_get, hue]
    · rw [State.hbmMend_readByte, hmem.mem x hx]

/-! ### Pair modes (R298) -/

/-- A word of pair modes written at the first `n` instances. -/
def State.pairsWritten (s : State) (q : Nat) (v : Word) (n : Nat) : State := (List.range n).foldl (fun s i => s.wr ⟨.HBMC_PAIR, i, q⟩ v) s

theorem State.pairsWritten_mem (s : State) (q : Nat) (v : Word) (n : Nat) : (s.pairsWritten q v n).mem = s.mem :=
  foldl_mem (fun (s : State) i => s.wr ⟨.HBMC_PAIR, i, q⟩ v) (fun _ _ => rfl) _ s

theorem State.rd_pairsWritten (s : State) (q : Nat) (v : Word) (n : Nat) (k : RKey) :
    (s.pairsWritten q v n).rd k = if k.reg = .HBMC_PAIR ∧ k.inst < n ∧ k.idx = q then v else s.rd k := by
  induction n with
  | zero => simp [State.pairsWritten]
  | succ n ih =>
    have hkey : k = ⟨.HBMC_PAIR, n, q⟩ ↔ k.reg = .HBMC_PAIR ∧ k.inst = n ∧ k.idx = q := by cases k; simp
    have hstep : s.pairsWritten q v (n + 1) = (s.pairsWritten q v n).wr ⟨.HBMC_PAIR, n, q⟩ v := by
      simp [State.pairsWritten, List.range_succ]
    rw [hstep, State.rd_wr, ih]
    by_cases hk : k.reg = .HBMC_PAIR ∧ k.idx = q
    · by_cases hn : k.inst = n
      · simp [hkey, hk, hn]
      · have hlt : k.inst < n + 1 ↔ k.inst < n := by omega
        simp [hkey, hk, hn, hlt]
    · rw [if_neg (fun h => hk ⟨(hkey.mp h).1, (hkey.mp h).2.2⟩), if_neg (fun h => hk ⟨h.1, h.2.2⟩), if_neg (fun h => hk ⟨h.1, h.2.2⟩)]

/-- The hub's write of a word of pair modes writes that word of every stack. -/
theorem State.pairWrite_hub (s : State) (stack q addr : Nat) (v : Word) : s.pairWrite .hub stack q v fullMask addr = s.pairsWritten q v 8 := by
  have hword (old : Word) : (v &&& fullMask) ||| (old &&& ~~~fullMask) = v := by
    show (v &&& BitVec.allOnes 64) ||| (old &&& ~~~BitVec.allOnes 64) = v
    rw [BitVec.not_allOnes, BitVec.and_zero, BitVec.or_zero, BitVec.and_allOnes]
  unfold State.pairWrite
  simp only [hword]
  rfl

/-! ### Places that become free (R269) -/

/-- What the passing-on of a freed place keeps. -/
structure PlacePassed (s t : State) (key : Nat) : Prop where
  now : t.now = s.now
  mem : t.mem = s.mem
  regs : ∀ k, sideReg k.reg = false → t.rd k = s.rd k
  resv : ∀ v ∈ (t.hbmBank key).resv, v ∈ (s.hbmBank key).resv ∨ v.1 ∈ (s.hbmBank key).waitList

theorem State.freedPlace_passed (s : State) (key : Nat) : PlacePassed s (s.freedPlace key) key := by
  have hsame : PlacePassed s s key := ⟨rfl, rfl, fun _ _ => rfl, fun _ => .inl⟩
  unfold State.freedPlace
  dsimp only
  split
  · split
    · next w hw =>
      have hlocal := s.pmon_local .HBMC (keyStack key) 0x72 0 1
      refine ⟨hlocal.now, hlocal.mem, fun k hk => (s.pmon_quiet ..).regs k hk, fun v hv => ?_⟩
      have hbank (b : HbmBank) : (((s.pmon .HBMC (keyStack key) 0x72 0 1).setHbmBank key b).sendResume w key).hbmBank key = b := lookD_putD_same ..
      rw [hbank] at hv
      rcases List.mem_append.mp hv with hold | hnew
      · exact .inl hold
      · exact .inr (List.mem_singleton.mp hnew ▸ List.mem_of_find?_eq_some hw)
    · exact hsame
  · exact hsame

/-- The bank of a lapsed reservation, which is withdrawn, without its requester in the wait list. -/
def HbmBank.lapsed (k : HbmBank) (who e : Nat) : HbmBank :=
  { k with resv := k.resv.filter (fun v => decide (v ≠ (who, e))), waitList := k.waitList.filter (fun w => decide (w ≠ who)) }

/-- The wait list of a bank behind a lapsed reservation: its requester at the tail, if it still waits. -/
def HbmBank.requeued (k : HbmBank) (who : Nat) : List Nat :=
  if k.waitList.contains who then k.waitList.filter (fun w => decide (w ≠ who)) ++ [who] else k.waitList.filter (fun w => decide (w ≠ who))

/-- A state in which the reservation has been withdrawn, its event set and its place passed on. -/
def State.resvWithdrawn (s : State) (key who e : Nat) : State :=
  ((s.setHbmBank key ((s.hbmBank key).lapsed who e)).flag F.HBMC_EVT_RESV_LAPSED (keyStack key)).freedPlace key

theorem execReservationLapse_lapses {s : State} {chan key who e : Nat} (h : s.lapsing chan = some (key, who, e)) (he : e ≤ s.now) :
    execReservationLapse chan s = .next ((s.resvWithdrawn key who e).setHbmBank key
      { (s.resvWithdrawn key who e).hbmBank key with waitList := (s.hbmBank key).requeued who }) := by
  unfold execReservationLapse
  simp only [h, s.at_of_le e he]
  rfl

theorem State.resvWithdrawn_passed (s : State) (key who e : Nat) :
    PlacePassed ((s.setHbmBank key ((s.hbmBank key).lapsed who e)).flag F.HBMC_EVT_RESV_LAPSED (keyStack key)) (s.resvWithdrawn key who e) key :=
  State.freedPlace_passed ..

/-- A withdrawn reservation is not given again to its requester in this step. -/
theorem State.resvWithdrawn_resv (s : State) (key who e : Nat) : (who, e) ∉ ((s.resvWithdrawn key who e).hbmBank key).resv := by
  intro hmem
  have hbank : ((s.setHbmBank key ((s.hbmBank key).lapsed who e)).flag F.HBMC_EVT_RESV_LAPSED (keyStack key)).hbmBank key =
      (s.hbmBank key).lapsed who e := lookD_putD_same ..
  have hresv := (s.resvWithdrawn_passed key who e).resv _ hmem
  rw [hbank] at hresv
  simp [HbmBank.lapsed] at hresv

/-- The requester moves to the tail of the wait list exactly when it is in it. -/
theorem HbmBank.requeued_eq (k : HbmBank) (who : Nat) : k.requeued who =
    if who ∈ k.waitList then k.waitList.filter (fun w => decide (w ≠ who)) ++ [who] else k.waitList := by
  unfold HbmBank.requeued
  by_cases h : who ∈ k.waitList
  · rw [if_pos (by simpa using h), if_pos h]
  · rw [if_neg (by simpa using h), if_neg h, List.filter_eq_self]
    exact fun w hw => decide_eq_true (fun hwho => h (hwho ▸ hw))

/-! ### The statement -/

/-- Settles O26: a scrub records what its read found, a write of the hub reaches the pair modes of every stack, and a lapsed
reservation is withdrawn before its requester joins the tail of its wait list. -/
theorem hbmControllers : Obligations.HbmControllers := by
  unfold Obligations.HbmControllers
  refine ⟨?scrub, ?pairs, ?lapse⟩
  case scrub =>
    intro s st line hst hp hline hinj
    have hruns := execHbmScrub_runs hst hp hline hinj
    refine ⟨fun hb hn => ?_, fun hb hl => ?_, _, hruns .unc, ?_⟩
    · refine (hruns .ok).trans ?_
      rw [State.scrubRead_good hb, if_neg hn, State.hbmMend_clean hinj]
    · refine (hruns .ok).trans ?_
      rw [State.scrubRead_good hb, if_pos hl, State.hbmMend_clean hinj]
    · exact State.scrubRead_bad ..
  case pairs =>
    intro s st q v hq hreach
    have hexec : exec (.hbmcPairWrite st q v) s =
        .next { (s.access .hub).pairsWritten q v 8 with bus := .written } := by
      show Host.Outcome.next (s.regCmd .hub .HBMC st _) = _
      rw [State.regCmd_reached _ _ _ _ _ hreach, Nat.mod_eq_of_lt hq, State.pairWrite_hub]
    have hrd := (s.access .hub).rd_pairsWritten q v 8
    exact ⟨_, hexec, rfl, fun i hi => (hrd ⟨.HBMC_PAIR, i, q⟩).trans (if_pos ⟨rfl, hi, rfl⟩), (s.access .hub).pairsWritten_mem q v 8,
      fun k hk => (hrd k).trans (if_neg hk)⟩
  case lapse =>
    intro s chan key who e hlapsing he
    have hpassed := s.resvWithdrawn_passed key who e
    have hbank (b : HbmBank) : ((s.resvWithdrawn key who e).setHbmBank key b).hbmBank key = b := lookD_putD_same ..
    refine ⟨_, execReservationLapse_lapses hlapsing he, hpassed.now, ?_, ?_, hpassed.mem, ?_⟩
    · rw [hbank]
      exact s.resvWithdrawn_resv key who e
    · exact (congrArg F.HBMC_EVT_RESV_LAPSED.of (hpassed.regs _ rfl)).trans (State.get_flag_same _ _ _ _ (by decide) (by decide))
    · rw [hbank]
      exact HbmBank.requeued_eq ..

end Sys2Proof.Machine
end

section
/-! PROOFS. Requests at a memory port (R267 to R276, R315, R456): what reaches an open bank is served, or accepted by its MSU. -/

namespace Sys2Proof.Machine

open Sys2Proof

/-! ### Events that are counted -/

/-- `t` is `s` but for counted events: registers in which events are recorded, and nothing beyond registers and per-core records. -/
structure Counted (s t : State) : Prop where
  rest : Local s t
  regs : ∀ k, sideReg k.reg = false → t.rd k = s.rd k

/-- A count that has been added to. -/
theorem State.get_bump_same (s : State) (f : Field) (i n j : Nat) (h : f.ok = true) :
    (s.bump f i n j).get f i j = min (s.get f i j + n) (2 ^ f.width - 1) := by
  have hpos := Nat.two_pow_pos f.width
  unfold State.bump
  rw [State.get_set_same _ _ _ _ _ h, Nat.mod_eq_of_lt (by omega)]

theorem Counted.pmon (s : State) (b : Blk) (unit ev sub n : Nat) : Counted s (s.pmon b unit ev sub n) :=
  ⟨s.pmon_local .., (s.pmon_quiet ..).regs⟩

/-- The place of an HBM block depends on the pair modes of stack 0 (R261). -/
theorem State.hbmPlace_congr {s t : State} (h : ∀ q, t.rd ⟨.HBMC_PAIR, 0, q⟩ = s.rd ⟨.HBMC_PAIR, 0, q⟩) (a : Nat) : t.hbmPlace a = s.hbmPlace a := by
  have hget (q : Nat) : t.get F.HBMC_PAIR_LOCAL 0 q = s.get F.HBMC_PAIR_LOCAL 0 q := congrArg F.HBMC_PAIR_LOCAL.of (h q)
  unfold State.hbmPlace State.pairLocal
  simp only [hget]

section
variable {s t u : State}

theorem Counted.trans (h : Counted s t) (g : Counted t u) : Counted s u :=
  ⟨h.rest.trans g.rest, fun k hk => (g.regs k hk).trans (h.regs k hk)⟩

theorem Counted.get (h : Counted s t) {f : Field} (i j : Nat) (hf : sideReg f.reg = false) : t.get f i j = s.get f i j :=
  congrArg f.of (h.regs ⟨f.reg, i, j⟩ hf)

theorem Counted.mem (h : Counted s t) : t.mem = s.mem := h.rest.mem
theorem Counted.stq (h : Counted s t) : t.stq = s.stq := by rw [h.rest]
theorem Counted.deliv (h : Counted s t) : t.deliv = s.deliv := by rw [h.rest]
theorem Counted.msus (h : Counted s t) : t.msus = s.msus := by rw [h.rest]
theorem Counted.bad (h : Counted s t) : t.bad = s.bad := by rw [h.rest]
theorem Counted.inj (h : Counted s t) : t.inj = s.inj := by rw [h.rest]
theorem Counted.rchFault (h : Counted s t) : t.rchFault = s.rchFault := by rw [h.rest]
theorem Counted.msu (h : Counted s t) (m : Nat) : t.msu m = s.msu m := by rw [h.rest]; rfl
theorem Counted.hbmBank (h : Counted s t) (key : Nat) : t.hbmBank key = s.hbmBank key := by rw [h.rest]; rfl
theorem Counted.hbmPlace (h : Counted s t) (a : Nat) : t.hbmPlace a = s.hbmPlace a := State.hbmPlace_congr (fun _ => h.regs _ rfl) a

theorem Counted.bankHeld (h : Counted s t) (key : Nat) : t.bankHeld key = s.bankHeld key := by
  unfold State.bankHeld
  simp only [h.msu, h.hbmBank, h.hbmPlace]

theorem Counted.canServe (h : Counted s t) (r : HbmReq) : t.canServe r = s.canServe r := by
  unfold State.canServe State.blkLocked
  simp only [h.msu, h.hbmPlace]

/-- Which reduction packets are refused depends on the registers of the reduction channels and on their faults (R456). -/
theorem Counted.redBad (h : Counted s t) (p : Packet) : t.redBad p = s.redBad p := by
  unfold State.redBad State.rchP State.rchBase State.rchBlks State.rchDense State.rchStep State.rchWfmt State.rchOpen
  simp only [h.rchFault, h.get (f := F.MSU_RCH_CFG_VALID) _ _ rfl, h.get (f := F.MSU_RCH_CFG_WFMT) _ _ rfl, h.get (f := F.MSU_RCH_CFG_K) _ _ rfl,
    h.get (f := F.MSU_RCH_CFG_FLUSH_M1) _ _ rfl, h.get (f := F.MSU_RCH_STEP_STEP) _ _ rfl, h.get (f := F.MSU_RCH_TGT_BASE) _ _ rfl,
    h.get (f := F.MSU_RCH_TGT_NBLK_M1) _ _ rfl]
end

/-! ### Reads and writes without errors (R273) -/

section
variable {s : State}

/-- Without bad lines and injected errors a read of the controller finds nothing and leaves no trace. -/
theorem State.hbmRead_clean (hbad : s.bad = []) (hinj : s.inj = []) (stack kind src : Nat) (rs : List (Nat × Nat)) (at_ : Nat) :
    s.hbmRead stack kind src rs .ok at_ = (s, false) := by
  have htags : s.hbmTags rs = [] := by simp [State.hbmTags, hinj]
  have hline : rs.findSome? (fun r => s.badLine r.1 r.2) = none := by simp [State.badLine, hbad]
  unfold State.hbmRead
  simp [htags, State.hbmMend_clean hinj, hline]

theorem State.hbmWrite_clean (hbad : s.bad = []) (hinj : s.inj = []) (src a : Nat) (bs : List Byte) :
    s.hbmWrite src a bs .ok = (s.writeMem a bs, false) := by
  unfold State.hbmWrite
  simp [State.hbmRead_clean hbad hinj]

/-- A write of memory changes its bytes, what is known of errors, and the registers of the injection. -/
theorem State.writeMem_frame (s : State) (a : Nat) (bs : List Byte) : s.writeMem a bs =
    { s with regs := (s.writeMem a bs).regs, mem := (s.writeMem a bs).mem, inj := (s.writeMem a bs).inj, bad := (s.writeMem a bs).bad } := by
  have hinj (u o b n : Nat) : s.injWrite u o b n = { s with regs := (s.injWrite u o b n).regs, inj := (s.injWrite u o b n).inj } := by
    unfold State.injWrite
    split
    · rfl
    · extract_lets g s1 l core own t
      split <;> rfl
  have hline (t : State) (b n : Nat) : t.lineWrite b n = { t with bad := (t.lineWrite b n).bad } := by
    unfold State.lineWrite
    split <;> rfl
  unfold State.writeMem
  dsimp only
  split
  · rw [hline, hinj]
  · split
    · rw [hinj]
    · rfl

/-- A place that becomes free is kept for nobody when nobody waits. -/
theorem State.freedPlace_unwanted {key : Nat} (h : (s.hbmBank key).waitList = []) : s.freedPlace key = s := by
  unfold State.freedPlace
  simp only [h, List.find?_nil, ite_self]
end

/-! ### A request at an open bank (R267, R271, R276) -/

/-- Nobody waits at the bank of a packet's block, it has a place, and no line of HBM is in error. -/
structure BankOpen (s : State) (p : Packet) : Prop where
  bank : s.hbmBank (s.hbmPlace p.addr).key = {}
  held : s.bankHeld (s.hbmPlace p.addr).key < 64
  bad : s.bad = []
  inj : s.inj = []

section
variable {s : State} {p : Packet} {place : Nat}

/-- A request that may be served, at an open bank, is taken in the present ACLK. -/
theorem BankOpen.arrive (h : BankOpen s p) (hserve : s.canServe ⟨p, place, none⟩ = true) (hw : MemHw) :
    ∃ t, Counted s t ∧ s.hbmArrive ⟨p, place, none⟩ hw = (t.hbmTake ⟨p, place, none⟩ hw).freedPlace (s.hbmPlace p.addr).key := by
  have hc := Counted.pmon s .HBMC (s.hbmPlace p.addr).stack 0x70 0 1
  have hnone : ([] : List (Nat × Nat)).any (fun v => decide (v.1 = reqOf p)) = false := rfl
  refine ⟨_, hc, ?_⟩
  unfold State.hbmArrive
  simp only [HbmReq.addr, Option.getD_none, hc.hbmBank, h.bank, hc.bankHeld, hc.canServe, hserve, hnone, List.length_nil, Nat.add_zero,
    decide_eq_false (Nat.not_le.mpr h.held), List.any_nil, Bool.not_false, Bool.and_false, Bool.and_self, Bool.false_eq_true, if_false, if_true]

theorem BankOpen.freed (h : BankOpen s p) {t : State} (ht : t.hbm = s.hbm) : t.freedPlace (s.hbmPlace p.addr).key = t := by
  refine State.freedPlace_unwanted ?_
  have hbank : t.hbmBank (s.hbmPlace p.addr).key = s.hbmBank (s.hbmPlace p.addr).key := by unfold State.hbmBank; rw [ht]
  rw [hbank, h.bank]

theorem State.canServe_plain (htyp : p.typ ≤ 1) (hfree : s.blkLocked p.addr = false) : s.canServe ⟨p, place, none⟩ = true := by
  simp [State.canServe, HbmReq.plain, HbmReq.addr, htyp, hfree]

theorem State.canServe_op (htyp : 1 < p.typ) (hroom : (s.msu (s.hbmPlace p.addr).msu).ops.length < 32) : s.canServe ⟨p, place, none⟩ = true := by
  simp [State.canServe, HbmReq.plain, Nat.not_le.mpr htyp, hroom]

/-- A read is answered with the bytes in memory (R272). -/
theorem BankOpen.read (h : BankOpen s p) (htyp : p.typ = 0) (hfree : s.blkLocked p.addr = false) :
    ∃ t, Counted s t ∧ s.hbmArrive ⟨p, place, none⟩ .ok = t.hbmAnswer ⟨p, place, none⟩ 3 0 (s.readMem p.addr p.len) := by
  obtain ⟨t, hc, harrive⟩ := h.arrive (place := place) (State.canServe_plain (by omega) hfree) .ok
  have hserve : t.hbmTake ⟨p, place, none⟩ .ok = t.hbmAnswer ⟨p, place, none⟩ 3 0 (s.readMem p.addr p.len) := by
    have hread : t.readMem p.addr p.len = s.readMem p.addr p.len := by unfold State.readMem; rw [hc.mem]
    simp [State.hbmTake, HbmReq.plain, htyp, State.hbmServe, State.hbmRead_clean (hc.bad.trans h.bad) (hc.inj.trans h.inj), hread]
  refine ⟨t, hc, ?_⟩
  rw [harrive, hserve]
  exact h.freed (by show t.hbm = s.hbm; rw [hc.rest])

/-- A write writes its payload and is acknowledged (R271). -/
theorem BankOpen.write (h : BankOpen s p) (htyp : p.typ = 1) (hfree : s.blkLocked p.addr = false) :
    ∃ t, Counted s t ∧ s.hbmArrive ⟨p, place, none⟩ .ok = (t.writeMem p.addr p.payload).hbmAnswer ⟨p, place, none⟩ 4 0 [] := by
  obtain ⟨t, hc, harrive⟩ := h.arrive (place := place) (State.canServe_plain (by omega) hfree) .ok
  have hserve : t.hbmTake ⟨p, place, none⟩ .ok = (t.writeMem p.addr p.payload).hbmAnswer ⟨p, place, none⟩ 4 0 [] := by
    simp [State.hbmTake, HbmReq.plain, htyp, State.hbmServe, State.hbmWrite_clean (hc.bad.trans h.bad) (hc.inj.trans h.inj)]
  refine ⟨t, hc, ?_⟩
  rw [harrive, hserve]
  refine h.freed ?_
  show (t.writeMem p.addr p.payload).hbm = s.hbm
  rw [State.writeMem_frame, hc.rest]

/-- An operation is accepted by the MSU of its block (R276). -/
theorem BankOpen.accept (h : BankOpen s p) (htyp : 1 < p.typ) (hroom : (s.msu (s.hbmPlace p.addr).msu).ops.length < 32) :
    ∃ t, Counted s t ∧ s.hbmArrive ⟨p, place, none⟩ .ok = t.msuAccept ⟨p, place, none⟩ := by
  obtain ⟨t, hc, harrive⟩ := h.arrive (place := place) (State.canServe_op htyp hroom) .ok
  have htake : t.hbmTake ⟨p, place, none⟩ .ok = t.msuAccept ⟨p, place, none⟩ := by
    simp [State.hbmTake, HbmReq.plain, Nat.not_le.mpr htyp]
  refine ⟨t, hc, ?_⟩
  rw [harrive, htake]
  exact h.freed (by show t.hbm = s.hbm; rw [hc.rest])

/-- An MSU's operations behind an acceptance. -/
theorem Counted.msuAccept_ops {t : State} (hc : Counted s t) (r : HbmReq) :
    ((t.msuAccept r).msu (s.hbmPlace r.p.addr).msu).ops = (s.msu (s.hbmPlace r.p.addr).msu).ops ++
      [{ r := r, kind := if r.p.typ = 7 then 3 else r.p.bop, base := r.p.addr }] := by
  unfold State.msuAccept
  simp only [hc.hbmPlace, hc.msu]
  exact congrArg MsuSt.ops (lookD_putD_same ..)
end

theorem BankOpen.counted {s t : State} {p : Packet} (h : BankOpen s p) (hc : Counted s t) : BankOpen t p := by
  refine ⟨?_, ?_, hc.bad.trans h.bad, hc.inj.trans h.inj⟩
  · rw [hc.hbmPlace, hc.hbmBank, h.bank]
  · rw [hc.hbmPlace, hc.bankHeld]; exact h.held

/-! ### From the port to the bank (R315, R456) -/

/-- The state in which the oldest packet of a virtual channel has been taken from a node's deliveries. -/
def State.portTaken (s : State) (d n vc : Nat) : State :=
  { s with deliv := putD natLt [] s.deliv (nodeKey d n) (dropFirst (fun q => decide (q.vc = vc)) (lookD [] s.deliv (nodeKey d n))) }

section
variable (s : State) (d n vc : Nat)

theorem State.portTaken_deliv :
    lookD [] (s.portTaken d n vc).deliv (nodeKey d n) = dropFirst (fun q => decide (q.vc = vc)) (lookD [] s.deliv (nodeKey d n)) := lookD_putD_same ..

theorem State.portTaken_mem : (s.portTaken d n vc).mem = s.mem := rfl
theorem State.portTaken_msu (m : Nat) : (s.portTaken d n vc).msu m = s.msu m := rfl
theorem State.portTaken_hbmPlace (a : Nat) : (s.portTaken d n vc).hbmPlace a = s.hbmPlace a := State.hbmPlace_congr (fun _ => rfl) a

theorem State.portTaken_blkLocked (a : Nat) : (s.portTaken d n vc).blkLocked a = s.blkLocked a := by
  unfold State.blkLocked
  simp only [State.portTaken_hbmPlace, State.portTaken_msu]

theorem State.portTaken_bankHeld (key : Nat) : (s.portTaken d n vc).bankHeld key = s.bankHeld key := by
  unfold State.bankHeld
  simp only [State.portTaken_hbmPlace]
  rfl
end

theorem BankOpen.portTaken {s : State} {p : Packet} (h : BankOpen s p) (d n vc : Nat) : BankOpen (s.portTaken d n vc) p := by
  refine ⟨?_, ?_, h.bad, h.inj⟩
  · rw [State.portTaken_hbmPlace]; exact h.bank
  · rw [State.portTaken_hbmPlace, State.portTaken_bankHeld]; exact h.held

/-- The answer to `p` joins the source queue of its node. -/
def PortAnswered (s t : State) (d n : Nat) (p : Packet) (typ reason : Nat) (bs : List Byte) : Prop :=
  ∃ a, lookD [] t.stq (nodeKey d n) = lookD [] s.stq (nodeKey d n) ++ [a] ∧ a.typ = typ ∧ a.vc = 1 ∧ a.status = 0 ∧ a.reason = reason ∧
    a.src = p.src ∧ a.tag = p.tag ∧ a.payload = bs ∧ a.dnode = answerNode d n p.sdie p.snode

theorem isMemPort_lt {n : Nat} (h : isMemPort n = true) : 0x30 ≤ n ∧ n < 0x3C := by simpa [isMemPort] using h

section
variable {s : State} {d n : Nat} {p : Packet}

theorem State.answer_answered (u : State) (typ reason : Nat) (bs : List Byte) (hstq : u.stq = s.stq) :
    PortAnswered s (u.answer d n p typ 0 reason bs) d n p typ reason bs := by
  exact ⟨{ p with typ := typ, vc := 1, dnode := answerNode d n p.sdie p.snode, status := 0, reason := reason, payload := bs },
    (State.inject_same ..).trans (by rw [hstq]), rfl, rfl, rfl, rfl, rfl, rfl, rfl, rfl⟩

/-- A place of a memory port names its die and its node. -/
theorem nodeKey_place (hport : isMemPort n = true) : nodeKey d n / 256 = d ∧ nodeKey d n % 256 = n := by
  have hn := isMemPort_lt hport
  unfold nodeKey
  omega

theorem State.hbmAnswer_answered (u : State) (hport : isMemPort n = true) (typ : Nat) (bs : List Byte) (hstq : u.stq = s.stq) :
    PortAnswered s (u.hbmAnswer ⟨p, nodeKey d n, none⟩ typ 0 bs) d n p typ 0 bs := by
  obtain ⟨hdie, hnode⟩ := nodeKey_place (d := d) hport
  unfold State.hbmAnswer
  rw [hdie, hnode]
  exact State.answer_answered u typ 0 bs hstq

/-- `p` is the oldest packet of virtual channel `vc` delivered at memory port `n` of die `d`. -/
structure PortHead (s : State) (d n vc : Nat) (p : Packet) : Prop where
  port : isMemPort n = true
  head : (lookD [] s.deliv (nodeKey d n)).find? (fun q => decide (q.vc = vc)) = some p

/-- It leaves the deliveries of its node. -/
theorem PortHead.taken {vc : Nat} (h : PortHead s d n vc p) {t : State} (ht : t.deliv = (s.portTaken d n vc).deliv) :
    lookD [] t.deliv (nodeKey d n) = dropFirst (fun q => decide (q.vc = p.vc)) (lookD [] s.deliv (nodeKey d n)) := by
  have hvc : p.vc = vc := by simpa using List.find?_some h.head
  rw [ht, hvc, State.portTaken_deliv]

/-- It is taken to the memory behind its port (R315). -/
theorem PortHead.request {typ vc : Nat} (h : PortHead s d n vc p) (htyp : p.typ = typ) (hvc : vcOf typ = vc) (hw : MemHw) :
    s.request (.node d n) typ hw = (s.portTaken d n vc).memRequest d n p hw := by
  have hcluster : isCluster n = false := by simp [isCluster, (isMemPort_lt h.port).1]
  have htake : s.takeDeliv (placeKey (.node d n)) (vcOf typ) (fun t => decide (t = typ)) = some (p, s.portTaken d n vc) := by
    unfold State.takeDeliv
    simp only [placeKey, hvc, h.head, htyp, decide_true, if_true]
    rfl
  unfold State.request
  simp only [htake, hcluster, h.port, Bool.false_eq_true, if_false, if_true]

/-- An address below the end of HBM names HBM, or the part kept for contexts (R750). -/
theorem State.far_hbm {a : Nat} (h : a < hbmEnd) : s.far a = .hbm ∨ s.far a = .ctx := by
  unfold State.far
  by_cases hprog : a < hbmProg
  · exact .inl (if_pos hprog)
  · rw [if_neg hprog, if_pos h]; exact .inr rfl

/-- A request for another die's stack is refused (R257). -/
theorem PortHead.elsewhere {vc : Nat} (h : PortHead s d n vc p) (htyp : p.typ = 0) (hvc : vcOf 0 = vc) (hdie : (s.hbmPlace p.addr).stack / 4 ≠ d)
    (hw : MemHw) : s.request (.node d n) 0 hw = (s.portTaken d n vc).answer d n p 5 0 rUNMAPPED [] := by
  rw [h.request htyp hvc]
  unfold State.memRequest State.nodeRefuse
  simp [htyp, hdie, State.portTaken_hbmPlace]

section
variable {typ vc : Nat} (h : PortHead s d n vc p) (haddr : p.addr < hbmEnd) (hdie : (s.hbmPlace p.addr).stack / 4 = d)
include h haddr hdie

/-- A request for this die's HBM reaches its bank. -/
theorem PortHead.arrives (htyp : p.typ = typ) (hvc : vcOf typ = vc) (hopt : ¬ (typ = 2 ∧ p.bop = 6)) (hred : typ ≠ 7)
    (hform : typ = 2 → msuFormOk p = true) (hw : MemHw) :
    s.request (.node d n) typ hw = (s.portTaken d n vc).hbmArrive ⟨p, nodeKey d n, none⟩ hw := by
  have hop : ¬ (typ = 2 ∧ (!(msuFormOk p)) = true) := fun h => by simp [hform h.1] at h
  rw [h.request htyp hvc]
  unfold State.memRequest
  rcases (s.portTaken d n vc).far_hbm haddr with hfar | hfar <;>
    simp only [hfar, htyp, State.portTaken_hbmPlace, hdie, if_neg hopt, if_neg hred, if_neg hop] <;> simp

/-- A reduction packet for this die's HBM reaches its channel. -/
theorem PortHead.arrives_red (htyp : p.typ = 7) (hvc : vcOf 7 = vc) (hw : MemHw) :
    s.request (.node d n) 7 hw = (s.portTaken d n vc).redArrive ⟨p, nodeKey d n, none⟩ hw := by
  rw [h.request htyp hvc]
  unfold State.memRequest
  rcases (s.portTaken d n vc).far_hbm haddr with hfar | hfar <;> simp [hfar, State.portTaken_hbmPlace, hdie, htyp]
end

/-- A packet of a channel that is not open is refused and counted (R456). -/
theorem State.redArrive_closed (hport : isMemPort n = true) (hclosed : s.rchOpen (redChan p) = false) (hw : MemHw) : ∃ t, Counted s t ∧
    s.redArrive ⟨p, nodeKey d n, none⟩ hw = (t.bump F.MSU_RCH_ERR_CNT_CLOSED 0).answer d n p 5 0 rUNMAPPED [] := by
  obtain ⟨hd, hn⟩ := nodeKey_place (d := d) hport
  have hc := Counted.pmon s .MSU 256 0x80 0 1
  have hbad : s.redBad p = some .closed := by unfold State.redBad; simp [hclosed]
  refine ⟨_, hc.trans (.pmon _ .MSU 256 0x81 0 1), ?_⟩
  unfold State.redArrive
  simp only [hc.redBad, hbad, hd, hn]
  rfl

/-- A good packet of a channel in its plain mode goes to the bank of its block (R456). -/
theorem State.redArrive_good (hgood : s.redBad p = none) (hmode : s.get F.MSU_RCH_CFG_MODE 0 (redChan p) = 0) (hsat : redSatn p = 0) (hw : MemHw) :
    ∃ t, Counted s t ∧ s.redArrive ⟨p, nodeKey d n, none⟩ hw = t.hbmArrive ⟨p, nodeKey d n, none⟩ hw := by
  have hc := Counted.pmon s .MSU 256 0x80 0 1
  refine ⟨_, hc, ?_⟩
  have hm := hc.get (f := F.MSU_RCH_CFG_MODE) 0 (redChan p) rfl
  unfold State.redArrive
  simp only [hc.redBad, hgood, hsat, if_true, hm, hmode, Nat.zero_ne_one, if_false]
end

/-! ### The statement -/

/-- Settles O22: a packet taken at its port reaches a bank that is open, or is refused before it. -/
theorem memoryPortRequests : Obligations.MemoryPortRequests := by
  unfold Obligations.MemoryPortRequests
  refine ⟨?read, ?write, ?op, ?elsewhere, ?closed, ?reduction⟩
  case read =>
    intro s d n p ⟨hport, hfind⟩ ⟨haddr, hdie⟩ htyp ⟨hbank, hheld, hbad, hinj⟩ hfree
    have hhead : PortHead s d n 0 p := ⟨hport, hfind⟩
    have hopen := BankOpen.portTaken ⟨hbank, hheld, hbad, hinj⟩ d n 0
    obtain ⟨t, hc, harrive⟩ := hopen.read (place := nodeKey d n) htyp ((s.portTaken_blkLocked ..).trans hfree)
    have hexec := (hhead.arrives haddr hdie htyp rfl (by omega) (by omega) (by omega) .ok).trans harrive
    exact ⟨_, congrArg Host.Outcome.next hexec, State.hbmAnswer_answered t hport 3 _ hc.stq, hhead.taken hc.deliv, hc.mem, hc.msus, hc.regs⟩
  case write =>
    intro s d n p ⟨hport, hfind⟩ ⟨haddr, hdie⟩ htyp ⟨hbank, hheld, hbad, hinj⟩ hfree
    have hhead : PortHead s d n 0 p := ⟨hport, hfind⟩
    have hopen := BankOpen.portTaken ⟨hbank, hheld, hbad, hinj⟩ d n 0
    obtain ⟨t, hc, harrive⟩ := hopen.write (place := nodeKey d n) htyp ((s.portTaken_blkLocked ..).trans hfree)
    have hexec := (hhead.arrives haddr hdie htyp rfl (by omega) (by omega) (by omega) .ok).trans harrive
    have hframe := t.writeMem_frame p.addr p.payload
    have hmem : (t.writeMem p.addr p.payload).mem = putBytes s.mem p.addr p.payload := by
      rw [State.writeMem_mem, hc.mem, State.portTaken_mem]
    obtain ⟨hsame, hother⟩ := readByte_of_putBytes hmem
    exact ⟨_, congrArg Host.Outcome.next hexec, State.hbmAnswer_answered _ hport 4 _ (by rw [hframe]; exact hc.stq),
      hhead.taken ((congrArg State.deliv hframe).trans hc.deliv), hsame, hother,
      fun k hk => ((t.writeMem_regs_cores _ _).1 k hk).trans (hc.regs k hk)⟩
  case op =>
    intro s d n p ⟨hport, hfind⟩ ⟨haddr, hdie⟩ htyp hbop hform ⟨hbank, hheld, hbad, hinj⟩ hroom
    have hhead : PortHead s d n 0 p := ⟨hport, hfind⟩
    have hopen := BankOpen.portTaken ⟨hbank, hheld, hbad, hinj⟩ d n 0
    obtain ⟨t, hc, harrive⟩ := hopen.accept (place := nodeKey d n) (by omega) (by rw [State.portTaken_hbmPlace]; exact hroom)
    have hexec := (hhead.arrives haddr hdie htyp rfl (fun h => hbop h.2) (by omega) (fun _ => hform) .ok).trans harrive
    have hops := hc.msuAccept_ops ⟨p, nodeKey d n, none⟩
    rw [State.portTaken_hbmPlace, htyp] at hops
    exact ⟨_, congrArg Host.Outcome.next hexec, hhead.taken hc.deliv, hc.mem, hc.stq, hops⟩
  case elsewhere =>
    intro s d n p ⟨hport, hfind⟩ htyp hdie
    have hhead : PortHead s d n 0 p := ⟨hport, hfind⟩
    exact ⟨_, congrArg Host.Outcome.next (hhead.elsewhere htyp rfl hdie .ok), State.answer_answered _ 5 rUNMAPPED [] rfl, hhead.taken rfl, rfl⟩
  case closed =>
    intro s d n p ⟨hport, hfind⟩ ⟨haddr, hdie⟩ htyp hclosed
    have hhead : PortHead s d n 2 p := ⟨hport, hfind⟩
    obtain ⟨t, hc, hred⟩ := State.redArrive_closed (s := s.portTaken d n 2) (d := d) hport hclosed .ok
    have hcount := t.get_bump_same F.MSU_RCH_ERR_CNT_CLOSED 0 1 0 (by decide)
    rw [hc.get _ _ rfl] at hcount
    exact ⟨_, congrArg Host.Outcome.next ((hhead.arrives_red haddr hdie htyp rfl .ok).trans hred), State.answer_answered _ 5 rUNMAPPED [] hc.stq,
      hhead.taken hc.deliv, hc.mem, hcount⟩
  case reduction =>
    intro s d n p ⟨hport, hfind⟩ ⟨haddr, hdie⟩ htyp hgood hmode hsat ⟨hbank, hheld, hbad, hinj⟩ hroom
    have hhead : PortHead s d n 2 p := ⟨hport, hfind⟩
    have hopen := BankOpen.portTaken ⟨hbank, hheld, hbad, hinj⟩ d n 2
    obtain ⟨u, hu, hred⟩ := State.redArrive_good (s := s.portTaken d n 2) (d := d) (n := n) hgood hmode hsat .ok
    obtain ⟨t, ht, harrive⟩ := (hopen.counted hu).accept (place := nodeKey d n) (by omega)
      (by rw [hu.hbmPlace, hu.msu, State.portTaken_hbmPlace]; exact hroom)
    have hc := hu.trans ht
    have hops := hc.msuAccept_ops ⟨p, nodeKey d n, none⟩
    rw [State.portTaken_hbmPlace, htyp] at hops
    exact ⟨_, congrArg Host.Outcome.next ((hhead.arrives_red haddr hdie htyp rfl .ok).trans (hred.trans harrive)), hhead.taken hc.deliv, hc.mem, hops⟩

end Sys2Proof.Machine
end

section
/-! PROOFS. Memory-side units (R273 to R288): operations read and computed, their writeback, and the steps of an optimizer command. -/

namespace Sys2Proof.Machine

open Sys2Proof

/-! ### Events of an MSU -/

/-- `t` is `s` but for events of MSU `m`. -/
structure MsuEvents (m : Nat) (s t : State) : Prop where
  rest : Local s t
  regs : ∀ k, k ≠ ⟨.MSU_EVT, m, 0⟩ → t.rd k = s.rd k

section
variable {m : Nat} {s t u : State}

theorem MsuEvents.trans (h : MsuEvents m s t) (g : MsuEvents m t u) : MsuEvents m s u :=
  ⟨h.rest.trans g.rest, fun k hk => (g.regs k hk).trans (h.regs k hk)⟩

theorem MsuEvents.flagIf (s : State) (b : Bool) (f : Field) (m : Nat) (h : f.reg = .MSU_EVT) : MsuEvents m s (s.flagIf b f m) :=
  ⟨s.flagIf_local .., fun _ hk => s.rd_flagIf_other _ _ _ _ (h ▸ hk)⟩

theorem MsuEvents.mem (h : MsuEvents m s t) : t.mem = s.mem := h.rest.mem
theorem MsuEvents.stq (h : MsuEvents m s t) : t.stq = s.stq := by rw [h.rest]
theorem MsuEvents.msu (h : MsuEvents m s t) (n : Nat) : t.msu n = s.msu n := by rw [h.rest]; rfl

theorem MsuEvents.resFlags (s : State) (m : Nat) (f : Fmt) (new : List Nat) (dec : List Bool) : MsuEvents m s (s.resFlags m f new dec).1 :=
  .trans (.flagIf _ _ _ _ rfl) (.flagIf _ _ _ _ rfl)

/-- Without errors in HBM the reads of an MSU find nothing (R273). -/
theorem State.msuRead_clean (hbad : s.bad = []) (hinj : s.inj = []) (m src : Nat) (rs : List (Nat × Nat)) (at_ : Nat) :
    s.msuRead m src rs .ok at_ = (s, false) := by
  unfold State.msuRead
  rw [State.hbmRead_clean hbad hinj]
  rfl
end

/-! ### RACC, SCALE and FILL (R275, R277) -/

/-- Element `j` of `e` bytes each. -/
def elemAt (e : Nat) (bs : List Byte) (j : Nat) : Nat := leNat ((bs.drop (j * e)).take e)

/-- The format of an operation's operand. -/
def MsuOp.fmt (o : MsuOp) : Fmt := Fmt.ofCode o.r.p.fmt

/-- Bytes of an element of an operation's target: FP32 for RACC. -/
def MsuOp.width (o : MsuOp) : Nat := if o.kind = 0 then 4 else o.fmt.bytes

/-- What a RACC adds to element `j`, given the operand's code. -/
def MsuOp.addend (o : MsuOp) (j x : Nat) : Conv :=
  match o.r.p.fmt with
  | 14 => g8Decode (o.r.p.imm / 256 ^ (j / 32) % 256) x
  | 7 => redValue 1 0 x
  | _ => redValue 2 0 x

/-- The new element `j` of an operation's target, which held `y`. -/
def MsuOp.elem (o : MsuOp) (j y : Nat) : Nat :=
  match o.kind with
  | 0 => fp32Add y (o.addend j (elemAt o.fmt.bytes o.r.p.payload j)).code
  | 1 => (o.fmt.convert false ((fp32 o.r.p.imm).mul (o.fmt.value y))).code
  | _ => (o.fmt.convert false (fp32 o.r.p.imm)).code

/-- The new elements of an operation's target. -/
structure MsuNew (s : State) (o : MsuOp) (new : List Nat) : Prop where
  length : new.length = o.r.p.len / o.width
  elem : ∀ j (h : j < new.length), new[j] = o.elem j (elemAt o.width (s.readMem o.base o.r.p.len) j)

section
variable {s : State} {m : Nat} {o : MsuOp}

theorem State.opLen_plain (h : o.kind ≠ 3) : s.opLen o = o.r.p.len := if_neg h

theorem State.opCompute_racc (h : o.kind = 0) :
    ∃ t new nb, s.opCompute m o = (t, new.flatMap (leBytes o.width), nb) ∧ MsuEvents m s t ∧ MsuNew s o new := by
  have hw : o.width = 4 := if_pos h
  unfold State.opCompute
  simp only [h, State.opLen_plain (s := s) (o := o) (by omega), hw]
  refine ⟨_, _, _, rfl, ?_, ?_, ?_⟩
  · exact .trans (.trans (.flagIf _ _ _ _ rfl) (.flagIf _ _ _ _ rfl)) (.resFlags ..)
  · simp [elems_eq_map, hw]
  · intro j hj
    simp [getElem_elems, MsuOp.elem, MsuOp.addend, MsuOp.fmt, elemAt, h, hw] <;> rfl

theorem State.opCompute_map (h : o.kind = 1 ∨ o.kind = 2) :
    ∃ t new nb, s.opCompute m o = (t, new.flatMap (leBytes o.width), nb) ∧ MsuEvents m s t ∧ MsuNew s o new := by
  have hw : o.width = (Fmt.ofCode o.r.p.fmt).bytes := if_neg (by omega)
  unfold State.opCompute
  rcases h with h | h <;> simp only [h, State.opLen_plain (s := s) (o := o) (by omega), hw]
  all_goals
    refine ⟨_, _, _, rfl, .resFlags .., ?_, ?_⟩
    · simp [elems_eq_map, hw]
    · intro j hj
      simp [getElem_elems, MsuOp.elem, MsuOp.fmt, elemAt, h, hw]

/-- An operation is computed from its target's elements in memory and its operand; only events of its MSU record it. -/
theorem State.opCompute_new (h : o.kind < 3) :
    ∃ t new nb, s.opCompute m o = (t, new.flatMap (leBytes o.width), nb) ∧ MsuEvents m s t ∧ MsuNew s o new := by
  rcases Nat.eq_zero_or_pos o.kind with h0 | h0
  · exact State.opCompute_racc h0
  · exact State.opCompute_map (by omega)

/-- The result's element is the new element, as far as its bytes reach. -/
theorem MsuNew.result_elem {new : List Nat} (h : MsuNew s o new) {j : Nat} (hj : j < o.r.p.len / o.width) :
    elemAt o.width (new.flatMap (leBytes o.width)) j =
      o.elem j (elemAt o.width (s.readMem o.base o.r.p.len) j) % 2 ^ (8 * o.width) := by
  have hlt : j < new.length := h.length ▸ hj
  exact (leNat_slice_leBytes o.width new hlt).trans (congrArg (· % 2 ^ (8 * o.width)) (h.elem j hlt))

/-- The operations of an MSU, `o` among them computed with result `bs`. -/
def MsuOp.computed (o : MsuOp) (bs : List Byte) (nb : Nat) (l : List MsuOp) : List MsuOp :=
  l.map (fun x => if x = o then { o with done := true, result := bs, bad := nb } else x)

/-- The next operation of an MSU is the first that has not been read, its block being free (R275). -/
theorem MsuSt.nextOp_some {k : MsuSt} {kinds : List Nat} (hfind : k.ops.find? (fun x => !x.done) = some o) (hkind : o.kind ∈ kinds)
    (hfree : k.ops.any (fun x => x.done && decide (blkOf x.base = blkOf o.base)) = false) : k.nextOp kinds = some o := by
  unfold MsuSt.nextOp
  simp [hfind, hkind, hfree]

/-- An operation that runs on lines without errors leaves memory and keeps its new elements (R275). -/
theorem State.opRun_runs {kinds : List Nat} (hnext : (s.msu m).nextOp kinds = some o) (hkind : o.kind < 3) (hbad : s.bad = []) (hinj : s.inj = []) :
    let t := s.opRun m kinds .ok
    ∃ new nb, MsuNew s o new ∧ t.mem = s.mem ∧ t.stq = s.stq ∧
      (t.msu m).ops = o.computed (new.flatMap (leBytes o.width)) nb (s.msu m).ops ∧ ∀ k, k ≠ ⟨.MSU_EVT, m, 0⟩ → t.rd k = s.rd k := by
  obtain ⟨t, new, nb, hcompute, hevents, hnew⟩ := State.opCompute_new (s := s) (m := m) hkind
  have hrun : s.opRun m kinds .ok = t.setMsu m { t.msu m with ops := o.computed (new.flatMap (leBytes o.width)) nb (t.msu m).ops } := by
    unfold State.opRun
    simp only [hnext, State.msuRead_clean hbad hinj, hcompute]
    rfl
  rw [hrun]
  refine ⟨new, nb, hnew, hevents.mem, hevents.stq, ?_, hevents.regs⟩
  rw [← hevents.msu m]
  exact congrArg MsuSt.ops (lookD_putD_same ..)

/-- The state after a RACC, a SCALE or a FILL of an MSU (R275). -/
theorem exec_opRun {kind : Nat} {i : Instr} (h : (kind, i) ∈ [(0, Instr.racc ⟨m, .ok⟩), (1, .scale ⟨m, .ok⟩), (2, .fill ⟨m, .ok⟩)]) :
    ∃ kinds, kind ∈ kinds ∧ kind < 3 ∧ exec i s = .next (s.opRun m kinds .ok) := by
  simp only [List.mem_cons, List.not_mem_nil, or_false, Prod.mk.injEq] at h
  rcases h with ⟨rfl, rfl⟩ | ⟨rfl, rfl⟩ | ⟨rfl, rfl⟩
  · exact ⟨[0, 3], by decide, by decide, rfl⟩
  · exact ⟨[1], by decide, by decide, rfl⟩
  · exact ⟨[2], by decide, by decide, rfl⟩

/-- The code that is added is the operand's, but for a G8 operand and a BF16 one, which are widened. -/
theorem MsuOp.addend_code (o : MsuOp) (j x : Nat) : (o.addend j x).code = (match o.r.p.fmt with
    | 14 => (g8Decode (o.r.p.imm / 256 ^ (j / 32) % 256) x).code
    | 7 => x * 2 ^ 16
    | _ => x) := by
  unfold MsuOp.addend
  split <;> rfl
end

/-! ### Writeback (R277, R279) -/

section
variable {s : State} {key : Nat}

theorem State.hbmDrain_idle (h : (s.hbmBank key).waiting = []) (n : Nat) : s.hbmDrain key n = s := by
  cases n with
  | zero => rfl
  | succ n => simp only [State.hbmDrain, h, firstFree]

/-- Behind an operation nothing happens in a channel at whose banks nobody waits. -/
theorem State.hbmAfter_idle (h : ∀ k, k / 128 = key / 128 → s.hbmBank k = {}) : s.hbmAfter key = s := by
  have hbank (k : Nat) (hk : k / 128 = key / 128) :
      (List.range 64).foldl (fun s _ => s.freedPlace k) (s.hbmDrain k ((s.hbmBank k).waiting.length + 1)) = s := by
    rw [State.hbmDrain_idle (by rw [h k hk])]
    exact foldl_eq_self (fun _ _ => State.freedPlace_unwanted (by rw [h k hk]))
  refine foldl_eq_self fun k hk => hbank k ?_
  rcases List.mem_cons.mp hk with rfl | hk
  · rfl
  · simp only [List.mem_filter, Bool.and_eq_true, decide_eq_true_eq] at hk
    exact hk.2.1

/-- `t` is what is left of `s` when operation `o` has left MSU `m`: memory, registers and the other operations. -/
structure OpLeft (m : Nat) (o : MsuOp) (s t : State) : Prop where
  mem : t.mem = s.mem
  regs : ∀ k, t.rd k = s.rd k
  ops : (t.msu m).ops = dropFirst (fun x => decide (x = o)) (s.msu m).ops

/-- An operation that leaves its MSU is answered, and at an idle channel that is all. -/
theorem State.opEnd_left (m : Nat) {o : MsuOp} (h : ∀ k, k / 128 = (s.hbmPlace o.base).key / 128 → s.hbmBank k = {}) (status : Nat) :
    OpLeft m o s (s.opEnd m o status) := by
  have hkey (k : MsuSt) : ((s.setMsu m k).hbmPlace o.base).key = (s.hbmPlace o.base).key :=
    congrArg HbmPlace.key (State.hbmPlace_congr (fun _ => rfl) _)
  have hidle (u : State) (hu : ∀ k, u.hbmBank k = s.hbmBank k) : u.hbmAfter (s.hbmPlace o.base).key = u :=
    State.hbmAfter_idle (fun k hk => (hu k).trans (h k hk))
  unfold State.opEnd
  dsimp only
  rw [hkey, hidle]
  · exact ⟨rfl, fun _ => rfl, congrArg MsuSt.ops (lookD_putD_same ..)⟩
  · exact fun _ => rfl
end

/-- The state in which an operation's bytes stand in memory and its block has been counted (R277, R307). -/
def State.opWritten (s : State) (m : Nat) (o : MsuOp) : State :=
  ((s.writeMem o.base o.result).bump F.MSU_CNT_BLOCKS m).bump F.MSU_CNT_NONFINITE m o.bad

section
variable {s : State} {m : Nat} {o : MsuOp}

theorem execMsuOpWriteback_writes (h : (s.msu m).ops.find? (fun x => x.done) = some o) (hkind : o.kind ≠ 3) :
    execMsuOpWriteback m false s = .next ((s.opWritten m o).opEnd m o 0) := by
  unfold execMsuOpWriteback
  simp only [h, hkind, if_false, Bool.false_eq_true]
  rfl

theorem execMsuOpWriteback_fails (h : (s.msu m).ops.find? (fun x => x.done) = some o) :
    execMsuOpWriteback m true s = .next ((s.msuCheck m).opEnd m o 0xE) := by
  unfold execMsuOpWriteback
  simp only [h, if_true]

theorem State.opWritten_mem (s : State) (m : Nat) (o : MsuOp) : (s.opWritten m o).mem = putBytes s.mem o.base o.result := State.writeMem_mem ..

theorem State.opWritten_msu (s : State) (m : Nat) (o : MsuOp) (n : Nat) : (s.opWritten m o).msu n = s.msu n := by
  show (s.writeMem o.base o.result).msu n = s.msu n
  rw [State.writeMem_frame]
  rfl

theorem State.opWritten_hbmBank (s : State) (m : Nat) (o : MsuOp) (k : Nat) : (s.opWritten m o).hbmBank k = s.hbmBank k := by
  show (s.writeMem o.base o.result).hbmBank k = s.hbmBank k
  rw [State.writeMem_frame]
  rfl

/-- A written operation's registers are those of its counts. -/
theorem State.opWritten_rd (s : State) (m : Nat) (o : MsuOp) {k : RKey} (hside : sideReg k.reg = false) (hk : k ≠ ⟨.MSU_CNT, m, 0⟩) :
    (s.opWritten m o).rd k = s.rd k := by
  unfold State.opWritten State.bump
  rw [State.rd_set_other _ _ _ _ _ _ hk, State.rd_set_other _ _ _ _ _ _ hk, (s.writeMem_regs_cores ..).1 k hside]

theorem State.opWritten_blocks (s : State) (m : Nat) (o : MsuOp) :
    (s.opWritten m o).get F.MSU_CNT_BLOCKS m = min (s.get F.MSU_CNT_BLOCKS m + 1) 0xFFFFFFFF := by
  have hcount : (s.writeMem o.base o.result).get F.MSU_CNT_BLOCKS m = s.get F.MSU_CNT_BLOCKS m :=
    congrArg F.MSU_CNT_BLOCKS.of ((s.writeMem_regs_cores ..).1 _ rfl)
  refine (State.get_set_apart _ _ _ _ _ _ (by decide) (by decide) (by decide)).trans ?_
  rw [State.get_bump_same _ _ _ _ _ (by decide), hcount]
  rfl

/-- A failed check sets its two events; what else it records is quiet (R279). -/
theorem State.msuCheck_recorded (s : State) (m : Nat) :
    Quiet ((s.flag F.HBMC_EVT_MSU_CHECK (m / 32)).flag F.MSU_EVT_CHECK m) (s.msuCheck m) := State.logHw_quiet ..

theorem State.msuCheck_mem (s : State) (m : Nat) : MemQuiet s (s.msuCheck m) :=
  .trans (.of_local (.trans (.flag ..) (.flag ..))) (.of_quiet (s.msuCheck_recorded m))

theorem State.msuCheck_events (s : State) (m : Nat) :
    (s.msuCheck m).get F.HBMC_EVT_MSU_CHECK (m / 32) = 1 ∧ (s.msuCheck m).get F.MSU_EVT_CHECK m = 1 := by
  have hq := s.msuCheck_recorded m
  constructor
  · rw [hq.get _ _ _ rfl, State.flag, State.noteSet_get, State.get_set_reg _ _ _ _ _ _ _ _ (by decide),
      State.get_flag_same _ _ _ _ (by decide) (by decide)]
  · rw [hq.get _ _ _ rfl, State.get_flag_same _ _ _ _ (by decide) (by decide)]

theorem State.msuCheck_rd (s : State) (m : Nat) {k : RKey} (hside : sideReg k.reg = false) (hh : k ≠ ⟨.HBMC_EVT, m / 32, 0⟩)
    (hm : k ≠ ⟨.MSU_EVT, m, 0⟩) : (s.msuCheck m).rd k = s.rd k :=
  ((s.msuCheck_recorded m).regs k hside).trans ((State.rd_flag_other _ _ _ _ hm).trans (State.rd_flag_other _ _ _ _ hh))
end

/-! ### Steps of an optimizer command (R285 to R288) -/

/-- A step reads and writes V. -/
def OptCmd.usesV (o : OptCmd) : Bool := decide (o.prog = 1) || decide (o.prog = 2)

/-- The 64 numbers of a command's next group in the array at `x`. -/
def State.optRead (s : State) (o : OptCmd) (x : Nat) : List Nat := elems 4 (s.readMem (x + 256 * o.next) 256) 64

/-- The elements of a command's next group. -/
def State.optGroup (s : State) (o : OptCmd) : List OptElem :=
  (((s.optRead o o.w).zip (s.optRead o o.g)).zip ((if decide (o.prog ≠ 3) then s.optRead o o.m else List.replicate 64 0).zip
    (if o.usesV then s.optRead o o.v else List.replicate 64 0))).map (fun ((w, g), (m, v)) => ⟨w, m, v, g⟩)

/-- The new elements of the group. -/
def State.optNew (s : State) (o : OptCmd) : List OptElem := (s.optGroup o).map (optElem o.prog (bitOf o.flags 1) o.desc)

/-- Numbers written to the group in the array at `x`. -/
def State.optPut (s : State) (o : OptCmd) (x : Nat) (l : List Nat) : State := s.writeMem (x + 256 * o.next) (l.flatMap (leBytes 4))

/-- Numbers written when the step writes their array. -/
def State.optPutIf (s : State) (b : Bool) (o : OptCmd) (x : Nat) (l : List Nat) : State := if b then s.optPut o x l else s

/-- The state in which the new M, V and W of the group stand in memory. -/
def State.optWritten (s : State) (o : OptCmd) (new : List OptElem) : State :=
  ((s.optPutIf (decide (o.prog ≠ 3)) o o.m (new.map (·.m))).optPutIf o.usesV o o.v (new.map (·.v))).optPut o o.w (new.map (·.w))

/-- The results of a step that are not finite (R307). -/
def OptCmd.nonfinite (o : OptCmd) (new : List OptElem) : List Num :=
  ((new.flatMap (fun e => [e.w] ++ (if decide (o.prog ≠ 3) then [e.m] else []) ++ (if o.usesV then [e.v] else []))).map fp32).filter
    (fun v => !v.isFinite)

/-- The events and counts of a step's results `bads` that are not finite (R77, R307). -/
def State.optCounted (s : State) (m : Nat) (bads : List Num) : State :=
  (((s.flagIf (bads.any (fun v => v.isNan)) F.MSU_EVT_NAN m).flagIf (bads.any (fun v => v.isInf)) F.MSU_EVT_INF m).bump
    F.MSU_CNT_NONFINITE m bads.length).bump F.MSU_CNT_BLOCKS m

/-- A command goes on to its next group on MSU `m`, or ends (R287). -/
def State.optGoOn (s : State) (m : Nat) (o : OptCmd) : Host.Outcome State Fault Refusal :=
  match s.optNext o.w m (o.blocks - (o.next + 1)) (o.next + 1) with
  | none => .next (s.optEnd m o 0)
  | some i => .next (s.setMsu m { s.msu m with opts := { o with next := i } :: (s.msu m).opts.drop 1 })

section
variable {s : State} {m : Nat} {o : OptCmd} {more : List OptCmd}

/-- A step of SGDM, ADAMW or LAMB2, without the BF16 copy and without clearing G, on lines without errors. -/
theorem execOptimizerStep_steps (hopts : (s.msu m).opts = o :: more) (hprog : o.prog ≠ 2) (hclear : bitOf o.flags 2 = false)
    (hcopy : bitOf o.flags 0 = false) (hbad : s.bad = []) (hinj : s.inj = []) (hfree : o.reads.any (fun x => s.blkLocked x) = false) :
    execOptimizerStep m ⟨.ok, false⟩ s = ((s.optWritten o (s.optNew o)).optCounted m (o.nonfinite (s.optNew o))).optGoOn m o := by
  have hcopies : o.copies = false := by simp [OptCmd.copies, hcopy]
  unfold execOptimizerStep
  simp only [hopts, hcopies, Bool.false_eq_true, if_false, List.append_nil, hfree, State.msuRead_clean hbad hinj, hclear, and_false, if_pos hprog, if_neg hprog,
    List.map_nil]
  rfl
end

/-- A command goes on without a change of memory and of registers in which no events are recorded. -/
theorem State.optGoOn_keeps (s : State) (m : Nat) (o : OptCmd) :
    ∃ t, s.optGoOn m o = .next t ∧ t.mem = s.mem ∧ ∀ k, sideReg k.reg = false → t.rd k = s.rd k := by
  unfold State.optGoOn
  split
  · have hpassed (u : State) (hmem : u.mem = s.mem) (hregs : ∀ k, u.rd k = s.rd k) :
        (u.freedPlace (optKey m)).mem = s.mem ∧ ∀ k, sideReg k.reg = false → (u.freedPlace (optKey m)).rd k = s.rd k :=
      ⟨(u.freedPlace_passed _).mem.trans hmem, fun k hk => ((u.freedPlace_passed _).regs k hk).trans (hregs k)⟩
    exact ⟨_, rfl, hpassed _ rfl (fun _ => rfl)⟩
  · exact ⟨_, rfl, rfl, fun _ _ => rfl⟩

/-! ### The elements of a group -/

theorem State.optRead_eq (s : State) (o : OptCmd) (x : Nat) :
    s.optRead o x = (List.range 64).map (fun k => leNat (s.readMem (x + 256 * o.next + 4 * k) 4)) := by
  simp only [Nat.mul_comm 4]
  exact elems_getBytes 4 s.mem (x + 256 * o.next) 64

/-- Element `k` of a command's next group. -/
def State.optElemAt (s : State) (o : OptCmd) (k : Nat) : OptElem :=
  let el (b : Nat) : Nat := leNat (s.readMem (b + 256 * o.next + 4 * k) 4)
  ⟨el o.w, if o.prog ≠ 3 then el o.m else 0, if o.usesV then el o.v else 0, el o.g⟩

theorem State.optNew_eq (s : State) (o : OptCmd) :
    s.optNew o = (List.range 64).map (fun k => optElem o.prog (bitOf o.flags 1) o.desc (s.optElemAt o k)) := by
  have hzeros : List.replicate 64 0 = (List.range 64).map (fun _ => 0) := by decide
  have hif (b : Bool) (x : Nat) : (if b then s.optRead o x else List.replicate 64 0) =
      (List.range 64).map (fun k => if b then leNat (s.readMem (x + 256 * o.next + 4 * k) 4) else 0) := by
    cases b
    · exact hzeros
    · exact s.optRead_eq o x
  unfold State.optNew State.optGroup
  rw [hif, hif, s.optRead_eq, s.optRead_eq, List.zip_map', List.zip_map', List.zip_map', List.map_map, List.map_map]
  simp [State.optElemAt, Function.comp_def]

/-! ### What a step writes -/

/-- `t` differs from `s` in the 256-byte blocks at `l`, and in what is recorded. -/
structure BlocksOnly (l : List Nat) (s t : State) : Prop where
  bytes : ∀ x, (∀ y, y ∈ l → x < y ∨ y + 256 ≤ x) → t.readByte x = s.readByte x
  regs : ∀ k, sideReg k.reg = false → t.rd k = s.rd k

section
variable {l : List Nat} {s t u : State} {o : OptCmd}

theorem BlocksOnly.trans (h : BlocksOnly l s t) (g : BlocksOnly l t u) : BlocksOnly l s u :=
  ⟨fun x hx => (g.bytes x hx).trans (h.bytes x hx), fun k hk => (g.regs k hk).trans (h.regs k hk)⟩

theorem BlocksOnly.optPut (s : State) {x : Nat} {vs : List Nat} (hlen : vs.length = 64) (hx : x + 256 * o.next ∈ l) : BlocksOnly l s (s.optPut o x vs) := by
  refine ⟨fun y hy => s.readByte_writeMem_other _ _ y ?_, (s.writeMem_regs_cores ..).1⟩
  rw [flatMap_leBytes_length, hlen]
  exact hy _ hx

theorem BlocksOnly.optPutIf (s : State) {b : Bool} {x : Nat} {vs : List Nat} (hlen : vs.length = 64) (hx : b = true → x + 256 * o.next ∈ l) :
    BlocksOnly l s (s.optPutIf b o x vs) := by
  cases b with
  | false => exact ⟨fun _ _ => rfl, fun _ _ => rfl⟩
  | true => exact .optPut s hlen (hx rfl)

/-- A step writes blocks that it reads. -/
theorem BlocksOnly.optWritten (s : State) (o : OptCmd) {new : List OptElem} (hlen : new.length = 64) : BlocksOnly o.reads s (s.optWritten o new) := by
  have hmap (f : OptElem → Nat) : (new.map f).length = 64 := (List.length_map f).trans hlen
  refine .trans (.trans (.optPutIf s (hmap _) fun h => ?m) (.optPutIf _ (hmap _) fun h => ?v)) (.optPut _ (hmap _) ?w)
  case m => simp [OptCmd.reads, of_decide_eq_true h]
  case v =>
    have hv : o.prog = 1 ∨ o.prog = 2 := by simpa [OptCmd.usesV] using h
    simp [OptCmd.reads, hv]
  case w => simp [OptCmd.reads]

/-- A number of those written one after the other is read back. -/
theorem leNat_getBytes_putBytes (e : Nat) (vs : List Nat) (mem : List (Nat × Byte)) (a : Nat) {j : Nat} (hj : j < vs.length) :
    leNat (getBytes (putBytes mem a (vs.flatMap (leBytes e))) (a + j * e) e) = vs[j] % 2 ^ (8 * e) := by
  have h := elems_getBytes e (putBytes mem a (vs.flatMap (leBytes e))) a vs.length
  rw [← flatMap_leBytes_length e vs, getBytes_putBytes_same, elems_leBytes] at h
  have hat := congrArg (fun l => l.getD j 0) h
  simpa [List.getD_eq_getElem?_getD, hj] using hat.symm

/-- W holds the new elements behind a step, whatever arrays overlap it: it is written last. -/
theorem State.optWritten_w (s : State) (o : OptCmd) {k : Nat} (hk : k < 64) :
    leNat ((s.optWritten o (s.optNew o)).readMem (o.w + 256 * o.next + 4 * k) 4) =
      (optElem o.prog (bitOf o.flags 1) o.desc (s.optElemAt o k)).w % 2 ^ 32 := by
  have hlen : k < ((s.optNew o).map (·.w)).length := by simpa [s.optNew_eq] using hk
  rw [Nat.mul_comm 4]
  unfold State.optWritten State.optPut State.readMem
  rw [State.writeMem_mem, leNat_getBytes_putBytes 4 _ _ _ hlen]
  simp [s.optNew_eq]

theorem State.optCounted_mem (s : State) (m : Nat) (bads : List Num) : (s.optCounted m bads).mem = s.mem :=
  ((s.flagIf_local ..).trans (State.flagIf_local ..)).mem

/-- A step counts its block (R307). -/
theorem State.optCounted_blocks (s : State) (m : Nat) (bads : List Num) :
    (s.optCounted m bads).get F.MSU_CNT_BLOCKS m = min (s.get F.MSU_CNT_BLOCKS m + 1) 0xFFFFFFFF := by
  have hflags : RegFrame [.MSU_EVT] s ((s.flagIf (bads.any (fun v => v.isNan)) F.MSU_EVT_NAN m).flagIf (bads.any (fun v => v.isInf)) F.MSU_EVT_INF m) :=
    .trans (.flagIf _ _ _ _ _ (by simp)) (.flagIf _ _ _ _ _ (by simp))
  unfold State.optCounted
  rw [State.get_bump_same _ _ _ _ _ (by decide), State.bump, State.get_set_apart _ _ _ _ _ _ (by decide) (by decide) (by decide),
    hflags.get _ _ (by simp) rfl]
  rfl
end

/-! ### The statement -/

/-- Settles O25: an operation is computed from memory as it stands, its bytes are written back or its failed check is recorded, and an
optimizer step writes the group's new elements, W last. -/
theorem memorySideUnits : Obligations.MemorySideUnits := by
  unfold Obligations.MemorySideUnits
  refine ⟨?operation, ?writeback, ?step⟩
  case operation =>
    intro s m kind o i hi hkind hfind hfree hbad hinj
    subst hkind
    obtain ⟨kinds, hin, hlt, hexec⟩ := exec_opRun (s := s) hi
    obtain ⟨new, nb, hnew, hmem, hstq, hops, hregs⟩ := State.opRun_runs (MsuSt.nextOp_some hfind hin hfree) hlt hbad hinj
    refine ⟨_, _, nb, hexec, hmem, hstq, hops, fun j hj => (hnew.result_elem hj).trans ?_, hregs⟩
    unfold MsuOp.elem
    rw [MsuOp.addend_code]
    rfl
  case writeback =>
    intro s m o hfind _ hkind hidle
    constructor
    · have hplace : (s.opWritten m o).hbmPlace o.base = s.hbmPlace o.base :=
        State.hbmPlace_congr (fun _ => s.opWritten_rd m o rfl (by simp)) _
      have hleft := State.opEnd_left m (o := o) (s := s.opWritten m o)
        (fun k hk => (s.opWritten_hbmBank m o k).trans (hidle k (by rwa [hplace] at hk))) 0
      obtain ⟨hsame, hother⟩ := readByte_of_putBytes (hleft.mem.trans (s.opWritten_mem m o))
      exact ⟨_, execMsuOpWriteback_writes hfind (by omega), hsame, hother, by rw [hleft.ops, s.opWritten_msu],
        (congrArg F.MSU_CNT_BLOCKS.of (hleft.regs _)).trans (s.opWritten_blocks m o), fun k hside hk => (hleft.regs k).trans (s.opWritten_rd m o hside hk)⟩
    · have hplace : (s.msuCheck m).hbmPlace o.base = s.hbmPlace o.base :=
        State.hbmPlace_congr (fun _ => s.msuCheck_rd m rfl (by simp) (by simp)) _
      have hq := s.msuCheck_recorded m
      have hleft := State.opEnd_left m (o := o) (s := s.msuCheck m) (fun k hk => (hq.hbmBank k).trans (hidle k (by rwa [hplace] at hk))) 0xE
      obtain ⟨hhbm, hmsu⟩ := s.msuCheck_events m
      refine ⟨_, execMsuOpWriteback_fails hfind, fun x hx => ?_, (congrArg F.HBMC_EVT_MSU_CHECK.of (hleft.regs _)).trans hhbm,
        (congrArg F.MSU_EVT_CHECK.of (hleft.regs _)).trans hmsu, ?_⟩
      · rw [State.readByte, hleft.mem]
        exact (s.msuCheck_mem m).mem x hx
      · rw [hleft.ops, hq.msu m]
        rfl
  case step =>
    intro s m o more hopts hprog hclear hcopy hbad hinj a arrays hfree el
    have hprog2 : o.prog ≠ 2 := by rintro h; simp [h] at hprog
    have hreads : o.reads = arrays := by simp [OptCmd.reads, arrays, a, hprog2]
    have hexec := execOptimizerStep_steps hopts hprog2 hclear hcopy hbad hinj (hreads ▸ hfree)
    obtain ⟨t, hgoes, hkept, hregs⟩ := ((s.optWritten o (s.optNew o)).optCounted m (o.nonfinite (s.optNew o))).optGoOn_keeps m o
    have hwrites := BlocksOnly.optWritten s o (new := s.optNew o) (by simp [s.optNew_eq])
    have hmem := hkept.trans (State.optCounted_mem ..)
    refine ⟨t, hexec.trans hgoes, fun k hk => ?_, fun x hx => ?_, ?_⟩
    · rw [State.readMem, hmem]
      refine (s.optWritten_w o hk).trans ?_
      simp [State.optElemAt, OptCmd.usesV, hprog2, el, a]
    · rw [State.readByte, hmem]
      exact hwrites.bytes x (hreads ▸ hx)
    · refine (congrArg F.MSU_CNT_BLOCKS.of (hregs _ rfl)).trans ((State.optCounted_blocks ..).trans ?_)
      rw [State.get_def, hwrites.regs _ rfl]
      rfl

end Sys2Proof.Machine
end

section
/-! PROOFS. Packets as bytes on a link: decoding what encodes a packet gives it back (R314, R408, R409, R450). -/

namespace Sys2Proof.Machine

open Sys2Proof

/-! ### The header (R314) -/

/-- LEN_M1 of the header. -/
def Packet.lenM1 (p : Packet) : Nat := if p.typ = 0 then p.len - 1 else (wirePayload p).length - 1

/-- The header as a number of 256 bits. -/
def Packet.headWord (p : Packet) : Nat :=
  p.vc * 2 ^ 254 + p.typ * 2 ^ 250 + p.src % 4096 * 2 ^ 222 + p.tag * 2 ^ 204 + p.lenM1 * 2 ^ 196 + p.bop * 2 ^ 193
    + p.fmt * 2 ^ 189 + p.status * 2 ^ 185 + p.reason * 2 ^ 182 + p.mod * 2 ^ 166 + p.addr * 2 ^ 118 + p.rtag * 2 ^ 102
    + p.count * 2 ^ 86 + p.imm * 2 ^ 54 + p.smod * 2 ^ 38 + p.red

theorem encodeHeader_eq (p : Packet) : encodeHeader p = leBytes 32 p.headWord := rfl

/-- Every field of the header lies within its bits. -/
structure Packet.HeadFits (p : Packet) : Prop where
  vc : p.vc < 3
  typ : p.typ < 16
  src : p.src < 4096
  tag : p.tag < 2 ^ 18
  lenM1 : p.lenM1 < 256
  bop : p.bop < 8
  fmt : p.fmt < 16
  status : p.status < 16
  reason : p.reason < 8
  mod : p.mod < 2 ^ 16
  addr : p.addr < 2 ^ 48
  rtag : p.rtag < 2 ^ 16
  count : p.count < 2 ^ 16
  imm : p.imm < 2 ^ 32
  smod : p.smod < 2 ^ 16
  red : p.red < 2 ^ 38

/-- The header read field by field, as a receiver does. -/
structure Packet.HeadRead (p : Packet) (h : Nat) : Prop where
  typ : h / 2 ^ 250 % 16 = p.typ
  src : h / 2 ^ 222 % 4096 = p.src
  tag : h / 2 ^ 204 % 2 ^ 18 = p.tag
  lenM1 : h / 2 ^ 196 % 256 = p.lenM1
  bop : h / 2 ^ 193 % 8 = p.bop
  fmt : h / 2 ^ 189 % 16 = p.fmt
  status : h / 2 ^ 185 % 16 = p.status
  reason : h / 2 ^ 182 % 8 = p.reason
  mod : h / 2 ^ 166 % 2 ^ 16 = p.mod
  addr : h / 2 ^ 118 % 2 ^ 48 = p.addr
  rtag : h / 2 ^ 102 % 2 ^ 16 = p.rtag
  count : h / 2 ^ 86 % 2 ^ 16 = p.count
  imm : h / 2 ^ 54 % 2 ^ 32 = p.imm
  smod : h / 2 ^ 38 % 2 ^ 16 = p.smod
  red : h % 2 ^ 38 = p.red

/-- Fields within their bits do not touch each other. -/
theorem Packet.HeadFits.read {p : Packet} (h : p.HeadFits) : p.HeadRead (leNat (leBytes 32 p.headWord)) := by
  obtain ⟨hvc, htyp, hsrc, htag, hlen, hbop, hfmt, hstatus, hreason, hmod, haddr, hrtag, hcount, himm, hsmod, hred⟩ := h
  have hword : leNat (leBytes 32 p.headWord) = p.headWord := by
    rw [leNat_leBytes, Packet.headWord]
    omega
  rw [hword]
  unfold Packet.headWord
  constructor <;> omega

/-! ### The payload (R408) -/

/-- LEN_M1 and the payload on the link belong together, and the target's length follows from them (R408). -/
structure Packet.LenFits (p : Packet) : Prop where
  lenM1 : p.lenM1 < 256
  payload : (if carries p.typ then p.lenM1 + 1 else 0) = (wirePayload p).length
  len : opTarget p.typ p.bop p.fmt p.addr (p.lenM1 + 1) = p.len

/-- A packet with data of its own. -/
theorem Packet.LenFits.of_data {p : Packet} (hc : carries p.typ = true) (hm : msuOnly p = false) (h1 : 1 ≤ p.payload.length)
    (h256 : p.payload.length ≤ 256) (hlen : p.len = opTarget p.typ p.bop p.fmt p.addr p.payload.length) : p.LenFits := by
  have hwire : wirePayload p = p.payload := by simp [wirePayload, hc, hm]
  have htyp : p.typ ≠ 0 := by
    intro h
    rw [h] at hc
    exact absurd hc (by decide)
  have hlenM1 : p.lenM1 + 1 = p.payload.length := by
    rw [Packet.lenM1, if_neg htyp, hwire]
    omega
  exact ⟨by omega, by rw [if_pos hc, hwire, hlenM1], by rw [hlenM1, hlen]⟩

/-- A SCALE or FILL of HBM carries LEN bytes of 0. -/
theorem Packet.LenFits.of_msuOnly {p : Packet} (hm : msuOnly p = true) (h1 : 1 ≤ p.len) (h256 : p.len ≤ 256) : p.LenFits := by
  have hm' := hm
  simp only [msuOnly, Bool.and_eq_true, Bool.or_eq_true, decide_eq_true_eq] at hm'
  obtain ⟨⟨htyp, haddr⟩, hbop⟩ := hm'
  have hc : carries p.typ = true := by rw [htyp]; rfl
  have hwire : (wirePayload p).length = p.len := by simp [wirePayload, hc, hm]
  have hlenM1 : p.lenM1 + 1 = p.len := by
    rw [Packet.lenM1, if_neg (by omega), hwire]
    omega
  refine ⟨by omega, by rw [if_pos hc, hlenM1, hwire], ?_⟩
  unfold opTarget
  rw [hlenM1, if_neg (by simp [htyp]), if_pos haddr, if_neg (by omega)]

/-- A packet without data: a read request has its length, every other LEN 1. -/
theorem Packet.LenFits.of_empty {p : Packet} (hc : carries p.typ = false) (h1 : 1 ≤ p.len)
    (hlen : if p.typ = 0 then p.len ≤ 256 else p.len = 1) : p.LenFits := by
  have hwire : wirePayload p = [] := by simp [wirePayload, hc]
  have htyp : p.typ ≠ 2 := by
    intro h
    rw [h] at hc
    exact absurd hc (by decide)
  have hlenM1 : p.lenM1 + 1 = p.len ∧ p.lenM1 < 256 := by
    rw [Packet.lenM1, hwire]
    split at hlen
    · next h => rw [if_pos h]; omega
    · next h => rw [if_neg h, hlen]; decide
  exact ⟨hlenM1.2, by rw [hc, hwire]; rfl, by rw [hlenM1.1]; exact if_pos htyp⟩

/-! ### One packet -/

/-- A packet as the receiver sees it: without the places it had in its die, with the bytes on the link for its payload. -/
def Packet.received (p : Packet) : Packet := { p with dnode := 0, snode := 0, sdie := 0, payload := wirePayload p, due := 0 }

/-- A packet of VC0 to VC2 whose fields and lengths fit, and that has reduction fields only as a reduction packet, survives its way. -/
theorem decodePacket_encodePacket {p : Packet} (hf : p.HeadFits) (hl : p.LenFits) (hred : p.typ ≠ 7 → p.red = 0) (more : List Byte) :
    decodePacket p.vc (encodePacket p ++ more) = some (p.received, more) := by
  have hvc : p.vc ≠ 3 := by have := hf.vc; omega
  obtain ⟨htyp, hsrc, htag, hlen, hbop, hfmt, hstatus, hreason, hmod, haddr, hrtag, hcount, himm, hsmod, hredn⟩ := hf.read
  have hbytes : encodePacket p ++ more = leBytes 32 p.headWord ++ (wirePayload p ++ more) := by
    rw [encodePacket, if_neg hvc, encodeHeader_eq, List.append_assoc]
  have h32 : (leBytes 32 p.headWord).length = 32 := leBytes_length ..
  have hredIf : (if p.typ = 7 then p.red else 0) = p.red := by
    split
    · rfl
    · next h => exact (hred h).symm
  unfold decodePacket
  simp only [hbytes, List.take_left' h32, List.drop_left' h32, if_neg hvc, htyp, hsrc, htag, hlen, hbop, hfmt, hstatus, hreason, hmod, haddr, hrtag,
    hcount, himm, hsmod, hredn, hl.payload, hl.len, hredIf, List.length_append, h32, List.take_left, ← List.drop_drop, List.drop_left]
  rw [if_neg (by omega), if_neg (by omega)]
  rfl

/-- The packet that a signal or hub message of VC3 arrives as. -/
def Packet.vc3Received (p : Packet) : Packet :=
  { typ := p.typ, vc := 3, dnode := 0, snode := 0, src := 0, tag := 0, len := p.payload.length, mod := p.mod, smod := p.smod, payload := p.payload }

/-- A signal or a hub message survives its way (R409). -/
theorem decodePacket_vc3 {p : Packet} (hvc : p.vc = 3) (htyp : p.typ = 16 ∨ p.typ = 17) (hmod : p.mod < 2 ^ 16) (hsmod : p.smod < 2 ^ 16)
    (h1 : 1 ≤ p.payload.length) (h256 : p.payload.length ≤ 256) (more : List Byte) :
    decodePacket 3 (encodePacket p ++ more) = some (p.vc3Received, more) := by
  obtain ⟨kind, hkind, hback, hlt⟩ : ∃ k, vc3Kind p.typ = k ∧ (if k = 1 then 16 else if k = 2 then 17 else 18) = p.typ ∧ k < 3 := by
    rcases htyp with h | h <;> rw [h] <;> exact ⟨_, rfl, rfl, by decide⟩
  have hbytes : encodePacket p ++ more =
      leBytes 8 (kind * 2 ^ 60 + p.mod * 2 ^ 44 + p.smod * 2 ^ 28 + (p.payload.length - 1) * 2 ^ 20) ++ (p.payload ++ more) := by
    rw [encodePacket, if_pos hvc, hkind, List.append_assoc]
  generalize hw : kind * 2 ^ 60 + p.mod * 2 ^ 44 + p.smod * 2 ^ 28 + (p.payload.length - 1) * 2 ^ 20 = w at hbytes
  have h8 : (leBytes 8 w).length = 8 := leBytes_length ..
  have hword : leNat (leBytes 8 w) = w := by rw [leNat_leBytes]; omega
  have hk : w / 2 ^ 60 = kind := by omega
  have hm : w / 2 ^ 44 % 2 ^ 16 = p.mod := by omega
  have hs : w / 2 ^ 28 % 2 ^ 16 = p.smod := by omega
  have hn : w / 2 ^ 20 % 256 + 1 = p.payload.length := by omega
  unfold decodePacket
  simp only [hbytes, List.take_left' h8, List.drop_left' h8, if_true, hword, hk, hm, hs, hn, hback, List.length_append, h8, List.take_left, ← List.drop_drop,
    List.drop_left]
  rw [if_neg (by omega), if_neg (by omega)]
  rfl

/-! ### A stream of packets -/

/-- No packet begins in an empty stream. -/
theorem decodePacket_nil (vc : Nat) : decodePacket vc [] = none := by
  unfold decodePacket
  split <;> rfl

/-- A stream of packets that each survive decodes to them. -/
theorem decodeAll_flatMap {vc : Nat} (l : List Packet) (h : ∀ p ∈ l, ∀ more, decodePacket vc (encodePacket p ++ more) = some (p.received, more)) :
    decodeAll vc (l.length + 1) (l.flatMap encodePacket) = (l.map Packet.received, []) := by
  induction l with
  | nil => simp [decodeAll, decodePacket_nil]
  | cons p l ih =>
    have hrest := ih (fun q hq => h q (List.mem_cons_of_mem _ hq))
    rw [List.flatMap_cons, List.length_cons, decodeAll, h p List.mem_cons_self]
    simp only [hrest, List.map_cons]

/-! ### The statement -/

/-- Settles O33: a header's fields lie apart (`Packet.HeadFits.read`), and its length tells the payload from what follows (`Packet.LenFits`); a
stream follows packet by packet. -/
theorem packetsOverLinks : Obligations.PacketsOverLinks := by
  unfold Obligations.PacketsOverLinks
  extract_lets fits arrives small
  have one (p : Packet) (more : List Byte) (h : fits p) : decodePacket p.vc (encodePacket p ++ more) = some (p.received, more) := by
    obtain ⟨hvc, htyp, hsrc, htag, hbop, hfmt, hstatus, hreason, hmod, haddr, hrtag, hcount, himm, hsmod, hred, hlen⟩ := h
    have hred38 : p.red < 2 ^ 38 ∧ (p.typ ≠ 7 → p.red = 0) := by
      split at hred
      · next h7 => exact ⟨hred, fun h => absurd h7 h⟩
      · exact ⟨by omega, fun _ => hred⟩
    have hl : p.LenFits := by
      split at hlen
      · next h => exact .of_data h.1 h.2 hlen.1 hlen.2.1 hlen.2.2
      · next h =>
        obtain ⟨-, h1, hlen⟩ := hlen
        cases hm : msuOnly p with
        | true => exact .of_msuOnly hm h1 (by simpa [hm] using hlen)
        | false => exact .of_empty (by simpa [hm] using h) h1 (by simpa [hm] using hlen)
    exact decodePacket_encodePacket ⟨hvc, htyp, hsrc, htag, hl.lenM1, hbop, hfmt, hstatus, hreason, hmod, haddr, hrtag, hcount, himm, hsmod, hred38.1⟩
      hl hred38.2 more
  refine ⟨fun p more h => one p more h, fun p more h => ?_, fun l vc h => ?_⟩
  · obtain ⟨hvc, htyp, hmod, hsmod, h1, h256⟩ := h
    exact decodePacket_vc3 hvc htyp hmod hsmod h1 h256 more
  · refine decodeAll_flatMap l fun p hp more => ?_
    obtain ⟨hfits, rfl⟩ := h p hp
    exact one p more hfits

end Sys2Proof.Machine
end

section
/-! PROOFS. Routers of the data mesh: forwarding, combining, DEAD entries and multicast branches (R313, R318, R322, R323, R325, R326). -/

namespace Sys2Proof.Machine

open Sys2Proof

/-! ### Folds -/

/-- A fold in which one member of a list without duplicates acts alone. -/
theorem foldl_acts_once {α β : Type} {g : β → α → β} {b b' : β} {a : α} {l : List α} (hd : l.Nodup) (ha : a ∈ l) (act : g b a = b')
    (before : ∀ x ∈ l, x ≠ a → g b x = b) (after : ∀ x ∈ l, x ≠ a → g b' x = b') : l.foldl g b = b' := by
  induction l with
  | nil => cases ha
  | cons x l ih =>
    obtain ⟨hx, hd⟩ := List.nodup_cons.mp hd
    rw [List.foldl_cons]
    by_cases h : x = a
    · subst h
      rw [act]
      exact foldl_eq_self fun y hy => after y (List.mem_cons_of_mem _ hy) (fun e => hx (e ▸ hy))
    · rw [before x List.mem_cons_self h]
      exact ih hd ((List.mem_cons.mp ha).resolve_left (fun e => h e.symm)) (fun y hy => before y (List.mem_cons_of_mem _ hy))
        (fun y hy => after y (List.mem_cons_of_mem _ hy))

/-- What one member of a list brings about and the others keep holds after the fold. -/
theorem foldl_reaches {α β : Type} {P : β → Prop} {g : β → α → β} {a : α} {l : List α} (ha : a ∈ l) (reach : ∀ b, P (g b a))
    (keep : ∀ b, ∀ x ∈ l, P b → P (g b x)) (b : β) : P (l.foldl g b) := by
  induction l generalizing b with
  | nil => cases ha
  | cons x l ih =>
    rcases List.mem_cons.mp ha with rfl | ha
    · exact List.foldlRecOn l g (reach b) fun c hc y hy => keep c y (List.mem_cons_of_mem _ hy) hc
    · exact ih ha (fun c y hy => keep c y (List.mem_cons_of_mem _ hy)) _

/-! ### Places around a router -/

/-- A router's neighbour is another router. -/
theorem beyond_ne {cl port c q : Nat} (h : beyond cl port = .router c q) : c ≠ cl := by
  unfold beyond at h
  dsimp only at h
  split at h <;> split at h <;> simp only [Beyond.router.injEq, reduceCtorEq] at h <;> omega

theorem inKey_inj {port q vc : Nat} : inKey port vc = inKey q vc ↔ port = q := by
  unfold inKey
  omega

/-- What comes behind in every input buffer. -/
def QueuesGrow (s t : State) : Prop := ∀ j k, ∃ l, lookD [] (t.router j).inq k = lookD [] (s.router j).inq k ++ l

theorem QueuesGrow.of_same {s t : State} (h : ∀ j, (t.router j).inq = (s.router j).inq) : QueuesGrow s t :=
  fun j _ => ⟨[], by rw [h, List.append_nil]⟩

theorem QueuesGrow.trans {s t u : State} (h : QueuesGrow s t) (g : QueuesGrow t u) : QueuesGrow s u := fun j k => by
  obtain ⟨l, hl⟩ := h j k
  obtain ⟨m, hm⟩ := g j k
  exact ⟨l ++ m, by rw [hm, hl, List.append_assoc]⟩

/-- A full buffer stays full while packets come behind. -/
theorem QueuesGrow.full {s t : State} (h : QueuesGrow s t) {d cl port vc : Nat} (hs : s.roomAt d cl port vc = false) :
    t.roomAt d cl port vc = false := by
  unfold State.roomAt at hs ⊢
  split at hs
  · cases hs
  · next h0 =>
    rw [if_neg h0]
    split at hs
    · cases hs
    · next c q _ =>
      obtain ⟨l, hl⟩ := h (48 * d + c) (inKey q vc)
      simp only [decide_eq_false_iff_not] at hs ⊢
      rw [hl, List.length_append]
      omega

/-- Room beyond a port depends on the neighbour there. -/
theorem State.roomAt_congr {s t : State} {d cl : Nat} (h : ∀ j, j ≠ 48 * d + cl → t.router j = s.router j) (port vc : Nat) :
    t.roomAt d cl port vc = s.roomAt d cl port vc := by
  unfold State.roomAt
  split
  · rfl
  · split
    · rfl
    · next c q hb => rw [h _ (by have := beyond_ne hb; omega)]

/-! ### Taking a packet from an input -/

/-- Taking the head of an input changes the router's input buffers or the queue of a station. -/
structure Popped (s t : State) (i : Nat) : Prop where
  rest : t = { s with stq := t.stq, routers := t.routers }
  own : t.router i = { s.router i with inq := (t.router i).inq }
  others : ∀ j, j ≠ i → t.router j = s.router j

theorem State.inPop_popped (s : State) (d cl port vc : Nat) : Popped s (s.inPop d cl port vc) (48 * d + cl) := by
  unfold State.inPop
  split
  · exact ⟨rfl, rfl, fun _ _ => rfl⟩
  · exact ⟨rfl, by rw [State.setRouter_same], fun _ hj => State.setRouter_other _ _ hj⟩

section
variable {s t : State} {i : Nat}

theorem Popped.mem (h : Popped s t i) : t.mem = s.mem := by rw [h.rest]
theorem Popped.regs (h : Popped s t i) : t.regs = s.regs := by rw [h.rest]
theorem Popped.deliv (h : Popped s t i) : t.deliv = s.deliv := by rw [h.rest]
theorem Popped.get (h : Popped s t i) (f : Field) (n j : Nat) : t.get f n j = s.get f n j := by
  unfold State.get State.rd
  rw [h.regs]
theorem Popped.outq (h : Popped s t i) : (t.router i).outq = (s.router i).outq := by rw [h.own]
theorem Popped.comb (h : Popped s t i) : (t.router i).comb = (s.router i).comb := by rw [h.own]
theorem Popped.mc (h : Popped s t i) : (t.router i).mc = (s.router i).mc := by rw [h.own]
end

/-! ### Leaving by a port (R313, R320) -/

/-- A packet that leaves a router joins a neighbour's buffer, a delivery queue or a station; the router itself stays. -/
structure Left (s t : State) (i : Nat) : Prop where
  rest : t = { s with routers := t.routers, deliv := t.deliv, stq := t.stq, laneRetry := t.laneRetry }
  own : t.router i = s.router i
  queues : QueuesGrow s t

section
variable {s t u : State} {i : Nat}

theorem Left.refl (s : State) (i : Nat) : Left s s i := ⟨rfl, rfl, .of_same fun _ => rfl⟩
theorem Left.trans (h : Left s t i) (g : Left t u i) : Left s u i :=
  ⟨by have h1 := h.rest; have g1 := g.rest; rw [h1] at g1; rw [g1], g.own.trans h.own, h.queues.trans g.queues⟩
theorem Left.mem (h : Left s t i) : t.mem = s.mem := by rw [h.rest]
theorem Left.regs (h : Left s t i) : t.regs = s.regs := by rw [h.rest]
end

theorem State.leave_local (s : State) (d cl : Nat) (p : Packet) : s.leave d cl 0 p = s.deliver (nodeKey d cl) p := rfl

theorem State.leave_router (s : State) {d cl port c q : Nat} (p : Packet) (h0 : port ≠ 0) (hb : beyond cl port = .router c q) :
    s.leave d cl port p = s.setRouter (48 * d + c) { s.router (48 * d + c) with
      inq := putD natLt [] (s.router (48 * d + c)).inq (inKey q p.vc) (lookD [] (s.router (48 * d + c)).inq (inKey q p.vc) ++ [p]) } := by
  unfold State.leave
  simp only [if_neg h0, hb]

theorem State.leave_station (s : State) {d cl port n : Nat} (p : Packet) (h0 : port ≠ 0) (hb : beyond cl port = .station n) (hn : n < 0x40) :
    s.leave d cl port p = s.deliver (nodeKey d n) p := by
  unfold State.leave
  simp only [if_neg h0, hb, if_pos hn]

theorem State.leave_left (s : State) (d cl port : Nat) (p : Packet) : Left s (s.leave d cl port p) (48 * d + cl) := by
  by_cases h0 : port = 0
  · subst h0
    exact ⟨rfl, rfl, .of_same fun _ => rfl⟩
  cases hb : beyond cl port with
  | router c q =>
    rw [s.leave_router p h0 hb]
    refine ⟨rfl, State.setRouter_other _ _ (by have := beyond_ne hb; omega), fun j k => ?_⟩
    by_cases hj : j = 48 * d + c
    · subst hj
      rw [State.setRouter_same]
      by_cases hk : k = inKey q p.vc
      · subst hk
        exact ⟨[p], lookD_putD_same ..⟩
      · exact ⟨[], by rw [lookD_putD_other _ _ _ _ _ hk, List.append_nil]⟩
    · exact ⟨[], by rw [State.setRouter_other _ _ hj, List.append_nil]⟩
  | station n =>
    unfold State.leave
    simp only [if_neg h0, hb]
    split
    · exact ⟨rfl, rfl, .of_same fun _ => rfl⟩
    · split <;> exact ⟨rfl, rfl, .of_same fun _ => rfl⟩

/-- The packet stands in the neighbour's buffer. -/
theorem State.leave_queued (s : State) {d cl port c q : Nat} (p : Packet) (h0 : port ≠ 0) (hb : beyond cl port = .router c q) :
    lookD [] ((s.leave d cl port p).router (48 * d + c)).inq (inKey q p.vc) = lookD [] (s.router (48 * d + c)).inq (inKey q p.vc) ++ [p] := by
  rw [s.leave_router p h0 hb, State.setRouter_same, lookD_putD_same]

/-! ### Output queues (R322) -/

/-- What one output queue of a virtual channel sends. -/
def State.outSendPort (s : State) (die cl vc port : Nat) : State :=
  match lookD [] (s.router (48 * die + cl)).outq (inKey port vc) with
  | p :: rest =>
    if s.roomAt die cl port vc then
      ((s.pmon .MESH (48 * die + cl) 0x90 port 1).setRouter (48 * die + cl) { s.router (48 * die + cl) with
        outq := putD natLt [] (s.router (48 * die + cl)).outq (inKey port vc) rest }).leave die cl port p
    else s
  | [] => s

theorem State.outSend_eq (s : State) (die cl vc : Nat) :
    s.outSend die cl vc = (List.range 5).foldl (fun s port => s.outSendPort die cl vc port) s := rfl

section
variable {s : State} {d cl vc port : Nat}

theorem State.outSendPort_empty (h : lookD [] (s.router (48 * d + cl)).outq (inKey port vc) = []) : s.outSendPort d cl vc port = s := by
  unfold State.outSendPort
  simp only [h]

theorem State.outSendPort_full (h : s.roomAt d cl port vc = false) : s.outSendPort d cl vc port = s := by
  unfold State.outSendPort
  split
  · simp only [h, Bool.false_eq_true, if_false]
  · rfl

theorem State.outSendPort_sends {p : Packet} {more : List Packet} (h : lookD [] (s.router (48 * d + cl)).outq (inKey port vc) = p :: more)
    (hr : s.roomAt d cl port vc = true) : s.outSendPort d cl vc port =
      ((s.pmon .MESH (48 * d + cl) 0x90 port 1).setRouter (48 * d + cl) { s.router (48 * d + cl) with
        outq := putD natLt [] (s.router (48 * d + cl)).outq (inKey port vc) more }).leave d cl port p := by
  unfold State.outSendPort
  simp only [h, hr, if_true]

/-- A router without queued packets sends nothing. -/
theorem State.outSend_idle (h : (s.router (48 * d + cl)).outq = []) : s.outSend d cl vc = s := by
  rw [State.outSend_eq]
  exact foldl_eq_self fun port _ => State.outSendPort_empty (by rw [h]; rfl)

/-- A packet that joins an empty output queue. -/
theorem State.outPush_empty {p : Packet} (h : (s.router (48 * d + cl)).outq = []) : s.outPush d cl port p =
    s.setRouter (48 * d + cl) { s.router (48 * d + cl) with outq := [(inKey port p.vc, [p])] } := by
  unfold State.outPush
  simp only [h, lookD, find?, Option.getD_none, List.getLast?_nil, List.nil_append]
  rfl

/-- An output queue that held one packet and has sent it. -/
theorem RouterSt.outq_cleared {r : RouterSt} (h : r.outq = []) (k : Nat) (p : Packet) : { r with outq := putD natLt [] [(k, [p])] k [] } = r := by
  have hnil : putD natLt [] [(k, [p])] k [] = r.outq := by simp [putD, dropKey, h]
  rw [hnil]

/-- A packet routed to a port with room leaves in the same step, and the router stands as before. -/
theorem State.outPush_outSend {e : Nat} {p : Packet} (hq : (s.router (48 * d + cl)).outq = []) (he : e < 5) (hr : s.roomAt d cl e p.vc = true) :
    ∃ u : State, u.mem = s.mem ∧ u.deliv = s.deliv ∧ (∀ j, u.router j = s.router j) ∧
      (s.outPush d cl e p).outSend d cl p.vc = u.leave d cl e p := by
  rw [State.outPush_empty hq]
  generalize hv : s.setRouter (48 * d + cl) { s.router (48 * d + cl) with outq := [(inKey e p.vc, [p])] } = v
  have hown : v.router (48 * d + cl) = { s.router (48 * d + cl) with outq := [(inKey e p.vc, [p])] } := by rw [← hv, State.setRouter_same]
  have hothers (j : Nat) (hj : j ≠ 48 * d + cl) : v.router j = s.router j := by rw [← hv, State.setRouter_other _ _ hj]
  have hqueue : lookD [] (v.router (48 * d + cl)).outq (inKey e p.vc) = [p] := by rw [hown]; simp [lookD, find?]
  have hcount := Counted.pmon v .MESH (48 * d + cl) 0x90 e 1
  generalize hu : (v.pmon .MESH (48 * d + cl) 0x90 e 1).setRouter (48 * d + cl) { v.router (48 * d + cl) with
    outq := putD natLt [] (v.router (48 * d + cl)).outq (inKey e p.vc) [] } = u
  have hclear : (u.router (48 * d + cl)) = s.router (48 * d + cl) := by
    rw [← hu, State.setRouter_same, hown]
    exact RouterSt.outq_cleared hq _ p
  have hleft := u.leave_left d cl e p
  refine ⟨u, by rw [← hu, State.setRouter_mem, hcount.mem, ← hv, State.setRouter_mem], by rw [← hu, State.setRouter_deliv, hcount.deliv, ← hv, State.setRouter_deliv],
    fun j => ?_, ?_⟩
  · by_cases hj : j = 48 * d + cl
    · rw [hj, hclear]
    · rw [← hu, State.setRouter_other _ _ hj, ← hothers j hj, hcount.rest]
      rfl
  · rw [State.outSend_eq]
    refine foldl_acts_once List.nodup_range (List.mem_range.mpr he) ?_ (fun port _ hp => State.outSendPort_empty ?_) (fun port _ _ => State.outSendPort_empty ?_)
    · rw [State.outSendPort_sends hqueue ((State.roomAt_congr hothers e p.vc).trans hr), hu]
    · have hk : ¬ inKey e p.vc = inKey port p.vc := fun h => hp (inKey_inj.mp h).symm
      rw [hown]
      simp [lookD, find?, hk]
    · rw [hleft.own, hclear, hq]
      rfl
end

/-! ### Combining (R322, R323) -/

/-- The packet that two reductions combine to. -/
def combinedPacket (die cl : Nat) (a b : Packet) : Packet := { a with payload := combined a b, count := a.count + b.count, snode := cl, sdie := die }

/-- Its elements are the sums, rounded once. -/
theorem combined_elem (a b : Packet) {j : Nat} (hj : j < a.payload.length / (Fmt.ofCode a.fmt).bytes) :
    leNat (((combined a b).drop (j * (Fmt.ofCode a.fmt).bytes)).take (Fmt.ofCode a.fmt).bytes) =
      ((Fmt.ofCode a.fmt).convert false (((Fmt.ofCode a.fmt).value (leNat ((a.payload.drop (j * (Fmt.ofCode a.fmt).bytes)).take (Fmt.ofCode a.fmt).bytes))).add
        ((Fmt.ofCode a.fmt).value (leNat ((b.payload.drop (j * (Fmt.ofCode a.fmt).bytes)).take (Fmt.ofCode a.fmt).bytes))))).code
          % 2 ^ (8 * (Fmt.ofCode a.fmt).bytes) := by
  unfold combined
  dsimp only
  rw [← List.flatMap_map (f := fun z : Nat × Nat => ((Fmt.ofCode a.fmt).convert false (((Fmt.ofCode a.fmt).value z.1).add ((Fmt.ofCode a.fmt).value z.2))).code)
    (g := leBytes (Fmt.ofCode a.fmt).bytes), leNat_slice_leBytes _ _ (by simpa [elems_eq_map] using hj)]
  simp [elems_eq_map]

/-- The tail of the queue and the packet become one, with one record. -/
theorem State.outPush_combines {s : State} {d cl port : Nat} {a p : Packet}
    (hq : lookD [] (s.router (48 * d + cl)).outq (inKey port p.vc) = [a]) (hc : combines a p = true)
    (hon : s.get F.MESH_CFG_COMBINE (48 * d + cl) = 1) (hlen : (s.router (48 * d + cl)).comb.length < 64) :
    (s.outPush d cl port p).router (48 * d + cl) = { s.router (48 * d + cl) with
        comb := ⟨a, p⟩ :: (s.router (48 * d + cl)).comb
        outq := putD natLt [] (s.router (48 * d + cl)).outq (inKey port p.vc) [combinedPacket d cl a p] } ∧
      ∀ j, j ≠ 48 * d + cl → (s.outPush d cl port p).router j = s.router j := by
  have hcount := Counted.pmon s .MESH (48 * d + cl) 0x93 0 1
  unfold State.outPush
  simp only [hq, List.getLast?_singleton, hc, hon, decide_true, Bool.and_true, Bool.not_true, Bool.false_eq_true, if_false, if_neg (Nat.not_le.mpr hlen),
    List.dropLast_singleton, List.nil_append, State.set_router_read]
  refine ⟨State.setRouter_same .., fun j hj => ?_⟩
  rw [State.setRouter_other _ _ hj, hcount.rest]
  rfl

/-- A combined packet waits behind a full buffer, with its record. -/
structure Jammed (s : State) (d cl e : Nat) (c : Packet) (comb : List CombRec) : Prop where
  queue : lookD [] (s.router (48 * d + cl)).outq (inKey e 2) = [c]
  comb : (s.router (48 * d + cl)).comb = comb
  full : s.roomAt d cl e 2 = false

/-- It waits while the other queues send. -/
theorem Jammed.outSendPort {s : State} {d cl e : Nat} {c : Packet} {comb : List CombRec} (h : Jammed s d cl e c comb) (port : Nat) :
    Jammed (s.outSendPort d cl 2 port) d cl e c comb := by
  cases hr : s.roomAt d cl port 2 with
  | false => rwa [State.outSendPort_full hr]
  | true =>
    cases hq : lookD [] (s.router (48 * d + cl)).outq (inKey port 2) with
    | nil => rwa [State.outSendPort_empty hq]
    | cons p more =>
      have hport : inKey e 2 ≠ inKey port 2 := fun k => by
        rw [← inKey_inj.mp k, h.full] at hr
        cases hr
      rw [State.outSendPort_sends hq hr]
      have hcount := Counted.pmon s .MESH (48 * d + cl) 0x90 port 1
      generalize hu : (s.pmon .MESH (48 * d + cl) 0x90 port 1).setRouter (48 * d + cl) { s.router (48 * d + cl) with
        outq := putD natLt [] (s.router (48 * d + cl)).outq (inKey port 2) more } = u
      have hown : u.router (48 * d + cl) = { s.router (48 * d + cl) with outq := putD natLt [] (s.router (48 * d + cl)).outq (inKey port 2) more } := by
        rw [← hu, State.setRouter_same]
      have hothers (j : Nat) (hj : j ≠ 48 * d + cl) : u.router j = s.router j := by
        rw [← hu, State.setRouter_other _ _ hj, hcount.rest]
        rfl
      have hleft := u.leave_left d cl port p
      refine ⟨?_, ?_, hleft.queues.full ((State.roomAt_congr hothers e 2).trans h.full)⟩
      · rw [hleft.own, hown, lookD_putD_other _ _ _ _ _ hport, h.queue]
      · rw [hleft.own, hown, h.comb]

theorem Jammed.outSend {s : State} {d cl e : Nat} {c : Packet} {comb : List CombRec} (h : Jammed s d cl e c comb) :
    Jammed (s.outSend d cl 2) d cl e c comb := by
  rw [State.outSend_eq]
  exact List.foldlRecOn (motive := fun u : State => Jammed u d cl e c comb) _ _ h fun u hu port _ => hu.outSendPort port

/-! ### ROUTER_FORWARD -/

/-- The head of an input is routed, unless MCW_FORWARD takes it. -/
theorem routerForward_head {s : State} {d cl port vc : Nat} {p : Packet} (hlive : s.routerLive d cl = true) (hport : port < 5) (hvc : vc < 3)
    (hhead : s.inHead d cl port vc = some p) (htyp : p.typ = 8 → p.dnode ≠ cl) : exec (.routerForward d cl port vc false) s =
      .next (if 4 < s.route d cl p.dnode then ((s.inPop d cl port vc).deadEnd d cl p).outSend d cl vc
        else ((s.inPop d cl port vc).outPush d cl (s.route d cl p.dnode) p).outSend d cl vc) := by
  show execRouterForward d cl port vc false s = _
  have hgo : ¬ ((!(s.routerLive d cl) || decide (4 < port) || decide (2 < vc)) = true) := by simp [hlive]; omega
  unfold execRouterForward
  rw [if_neg hgo]
  simp only [Bool.false_eq_true, if_false, hhead, if_neg (fun h : p.typ = 8 ∧ p.dnode = cl => htyp h.1 h.2)]
  split <;> rfl

/-- A request to a DEAD entry is refused where it stands (R318). -/
theorem State.deadEnd_request (s : State) (d cl : Nat) {p : Packet} (h : p.vc = 0) :
    s.deadEnd d cl p = (s.flag F.MESH_EVT_DEAD_REFUSE (48 * d + cl)).nodeRefuse d cl p rFENCED := by
  unfold State.deadEnd
  dsimp only
  rw [if_pos (Or.inl h)]

theorem State.nodeRefuse_get (s : State) (d node : Nat) (p : Packet) (reason : Nat) (f : Field) (i j : Nat) :
    (s.nodeRefuse d node p reason).get f i j = s.get f i j := rfl
theorem State.nodeRefuse_mem (s : State) (d node : Nat) (p : Packet) (reason : Nat) : (s.nodeRefuse d node p reason).mem = s.mem := rfl
theorem State.nodeRefuse_router (s : State) (d node : Nat) (p : Packet) (reason i : Nat) : (s.nodeRefuse d node p reason).router i = s.router i := rfl

/-- The refusal stands in the node's queue. -/
theorem State.nodeRefuse_refused (s : State) (d node : Nat) (p : Packet) (reason : Nat) :
    ∃ a, a ∈ lookD [] (s.nodeRefuse d node p reason).stq (nodeKey d node) ∧ a.typ = (if p.typ = 8 then 9 else 5) ∧ a.reason = reason ∧
      a.tag = p.tag ∧ a.src = p.src := by
  unfold State.nodeRefuse State.answer
  refine ⟨_, by rw [State.inject_same]; exact List.mem_append_right _ List.mem_cons_self, ?_⟩
  exact ⟨rfl, rfl, rfl, rfl⟩

/-! ### MCW_FORWARD (R325, R326) -/

/-- The branches of a multicast word but the port it came by: the ports, and the routers there. -/
def mcNext (cl br port : Nat) : List (Nat × Nat) :=
  ([1, 2, 3, 4].filter (fun q => bitOf br q && decide (q ≠ port))).filterMap (fun q => match beyond cl q with
    | .router c _ => some (q, c)
    | .station _ => none)

theorem mem_mcNext {cl br port q c : Nat} :
    (q, c) ∈ mcNext cl br port ↔ q ∈ [1, 2, 3, 4] ∧ q ≠ port ∧ bitOf br q = true ∧ ∃ r, beyond cl q = .router c r := by
  unfold mcNext
  rw [List.mem_filterMap]
  constructor
  · rintro ⟨x, hx, hsome⟩
    simp only [List.mem_filter, Bool.and_eq_true, decide_eq_true_eq] at hx
    obtain ⟨hmem, hbit, hne⟩ := hx
    split at hsome
    · next c' r hb =>
      cases hsome
      exact ⟨hmem, hne, hbit, r, hb⟩
    · cases hsome
  · rintro ⟨hmem, hne, hbit, r, hb⟩
    refine ⟨q, ?_, by rw [hb]⟩
    simp only [List.mem_filter, Bool.and_eq_true, decide_eq_true_eq]
    exact ⟨hmem, hbit, hne⟩

/-- The member cores of a router that answer for themselves. -/
def State.mcMembers (s : State) (i g : Nat) : Nat :=
  if bitOf (s.get F.MESH_MC_BRANCH i g) 0 then popcount 16 (s.get F.MESH_MC_CORES i g) else 0

/-- What a multicast router owes its sender. -/
def mcRecord (p : Packet) (g left : Nat) : McRec :=
  { src := p.src, tag := p.tag, group := g, snode := p.snode, sdie := p.sdie, left := left, reason := 0 }

/-- The packet on its way to a branch. -/
def mcCopy (d cl c : Nat) (p : Packet) : Packet := { p with snode := cl, sdie := d, dnode := c }

/-- The multicast leaves by every branch. -/
def State.mcLeave (s : State) (d cl : Nat) (p : Packet) (next : List (Nat × Nat)) : State :=
  next.foldl (fun s x => s.leave d cl x.1 (mcCopy d cl x.2 p)) s

theorem State.mcLeave_left (s : State) (d cl : Nat) (p : Packet) (next : List (Nat × Nat)) : Left s (s.mcLeave d cl p next) (48 * d + cl) :=
  List.foldlRecOn (motive := fun u : State => Left s u (48 * d + cl)) next _ (Left.refl s _) fun u hu x _ => hu.trans (u.leave_left d cl x.1 _)

/-- Every branch has its copy. -/
theorem State.mcLeave_queued (s : State) {d cl q c r : Nat} (p : Packet) {next : List (Nat × Nat)} (hx : (q, c) ∈ next) (h0 : q ≠ 0)
    (hb : beyond cl q = .router c r) : mcCopy d cl c p ∈ lookD [] ((s.mcLeave d cl p next).router (48 * d + c)).inq (inKey r p.vc) := by
  refine foldl_reaches (P := fun u : State => mcCopy d cl c p ∈ lookD [] (u.router (48 * d + c)).inq (inKey r p.vc)) hx (fun u => ?_) (fun u x _ hu => ?_) s
  · exact (u.leave_queued (mcCopy d cl c p) h0 hb) ▸ List.mem_append_right _ (List.mem_singleton.mpr rfl)
  · obtain ⟨l, hl⟩ := (u.leave_left d cl x.1 (mcCopy d cl x.2 p)).queues (48 * d + c) (inKey r p.vc)
    rw [hl]
    exact List.mem_append_left _ hu

section
variable {s : State} {d cl port g gd : Nat} {p : Packet} (hlive : s.routerLive d cl = true) (hport : port < 5)
  (hhead : s.inHead d cl port 2 = some p) (htyp : p.typ = 8) (hnode : p.dnode = cl) (hfar : s.far p.addr = .group gd g)
include hlive hport hhead htyp hnode hfar

/-- A group that is not valid here is refused. -/
theorem mcwForward_invalid (h : s.get F.MESH_MC_VALID (48 * d + cl) g = 0) : exec (.mcwForward d cl port) s =
    .next (((s.inPop d cl port 2).flag F.MESH_EVT_MC_INVALID (48 * d + cl)).nodeRefuse d cl p rUNMAPPED) := by
  show execMcwForward d cl port s = _
  have hgo : ¬ ((!(s.routerLive d cl) || decide (4 < port)) = true) := by simp [hlive]; omega
  unfold execMcwForward
  rw [if_neg hgo]
  simp only [hhead]
  rw [if_neg (by simp [htyp, hnode])]
  simp only [hfar, h, if_true]

/-- With room on all branches the multicast goes to all of them, and the router records how many answers it owes. -/
theorem mcwForward_branches (hv : s.get F.MESH_MC_VALID (48 * d + cl) g ≠ 0) {next : List (Nat × Nat)} {members : Nat}
    (hnext : mcNext cl (s.get F.MESH_MC_BRANCH (48 * d + cl) g) port = next) (hmembers : s.mcMembers (48 * d + cl) g = members)
    (hroom : ∀ x ∈ next, s.roomAt d cl x.1 2 = true) (hleft : next.length + members ≠ 0) :
    ∃ u : State, u = (s.inPop d cl port 2).setRouter (48 * d + cl) { (s.inPop d cl port 2).router (48 * d + cl) with
        mc := ((s.inPop d cl port 2).router (48 * d + cl)).mc ++ [mcRecord p g (next.length + members)] } ∧
      exec (.mcwForward d cl port) s = .next (if members = 0 then u.mcLeave d cl p next else (u.mcLeave d cl p next).deliver (nodeKey d cl) p) := by
  refine ⟨_, rfl, ?_⟩
  show execMcwForward d cl port s = _
  have hgo : ¬ ((!(s.routerLive d cl) || decide (4 < port)) = true) := by simp [hlive]; omega
  have hall : next.all (fun x => s.roomAt d cl x.1 2) = true := List.all_eq_true.mpr hroom
  subst hnext hmembers
  unfold execMcwForward
  rw [if_neg hgo]
  simp only [hhead]
  rw [if_neg (by simp [htyp, hnode])]
  simp only [hfar, if_neg hv]
  change (if (!(mcNext cl (s.get F.MESH_MC_BRANCH (48 * d + cl) g) port).all fun x => s.roomAt d cl x.1 2) = true then _
    else if (mcNext cl (s.get F.MESH_MC_BRANCH (48 * d + cl) g) port).length + s.mcMembers (48 * d + cl) g = 0 then _ else _) = _
  rw [hall, if_neg (by decide), if_neg hleft]
  rfl
end

/-! ### The statement -/

/-- Settles O24: taking the head leaves the router's output queues (`Popped`), leaving touches neighbours alone (`Left`); a packet with room
goes straight through (`State.outPush_outSend`), a combined one waits (`Jammed`), and a multicast reaches each branch (`State.mcLeave_queued`). -/
theorem routerForwards : Obligations.RouterForwards := by
  unfold Obligations.RouterForwards
  refine ⟨?moves, ?combines, ?dead, ?multicast⟩
  case moves =>
    intro s d cl port vc p hlive hport hvc hhead hpvc htyp hout he hroom
    subst hpvc
    have hpop := s.inPop_popped d cl port p.vc
    obtain ⟨u, hmem, hdeliv, hrouter, hsend⟩ := State.outPush_outSend (p := p) (hpop.outq.trans hout) he
      ((State.roomAt_congr hpop.others _ _).trans hroom)
    have hleft := u.leave_left d cl (s.route d cl p.dnode) p
    refine ⟨u.leave d cl (s.route d cl p.dnode) p, ?_, hleft.mem.trans (hmem.trans hpop.mem), ?_, fun h0 => ?_, fun c q h0 hb => ?_, fun n h0 hb hn => ?_⟩
    · rw [routerForward_head hlive hport hvc hhead htyp, if_neg (by omega), hsend]
    · rw [hleft.own, hrouter, hpop.outq, hout]
    · rw [h0, State.leave_local, State.deliver_same, hdeliv, hpop.deliv]
    · rw [State.leave_queued u p h0 hb, hrouter, hpop.others _ (by have := beyond_ne hb; omega)]
    · rw [State.leave_station u p h0 hb hn, State.deliver_same, hdeliv, hpop.deliv]
  case combines =>
    intro s d cl port p a hlive hport hhead hpvc htyp he hq hroom hc hon hlen
    have hpop := s.inPop_popped d cl port 2
    obtain ⟨hown, hothers⟩ := State.outPush_combines (s := s.inPop d cl port 2) (port := s.route d cl p.dnode) (p := p)
      (by rw [hpop.outq, hpvc, hq]) hc ((hpop.get ..).trans hon) (by rw [hpop.comb]; exact hlen)
    have hjam : Jammed ((s.inPop d cl port 2).outPush d cl (s.route d cl p.dnode) p) d cl (s.route d cl p.dnode) (combinedPacket d cl a p)
        (⟨a, p⟩ :: (s.router (48 * d + cl)).comb) :=
      ⟨by rw [hown, hpvc, lookD_putD_same], by rw [hown, hpop.comb],
        (State.roomAt_congr (fun j hj => (hothers j hj).trans (hpop.others j hj)) _ _).trans hroom⟩
    refine ⟨_, combinedPacket d cl a p, ?_, hjam.outSend.queue, rfl, rfl, rfl, rfl, rfl, fun j hj => combined_elem a p hj, hjam.outSend.comb⟩
    rw [routerForward_head hlive hport (by decide) hhead (fun h => absurd (htyp.symm.trans h) (by decide)), if_neg (by omega)]
  case dead =>
    intro s d cl port vc p hlive hport hvc hhead htyp he hout hpvc
    have hpop := s.inPop_popped d cl port vc
    obtain ⟨a, ha, -, hreason, htag, hsrc⟩ := ((s.inPop d cl port vc).flag F.MESH_EVT_DEAD_REFUSE (48 * d + cl)).nodeRefuse_refused d cl p rFENCED
    refine ⟨((s.inPop d cl port vc).flag F.MESH_EVT_DEAD_REFUSE (48 * d + cl)).nodeRefuse d cl p rFENCED, ?_, ?_, ?_,
      a, ha, hreason, htag, hsrc⟩
    · rw [routerForward_head hlive hport hvc hhead htyp, if_pos he, State.deadEnd_request _ _ _ hpvc, State.outSend_idle]
      rw [State.nodeRefuse_router, State.flag_router_read, hpop.outq, hout]
    · rw [State.nodeRefuse_get, State.get_flag_same _ _ _ _ (by decide) (by decide)]
    · rw [State.nodeRefuse_mem, State.flag_mem, hpop.mem]
  case multicast =>
    intro s d cl port g gd p hlive hport hhead htyp hnode hfar i br
    have hpop := s.inPop_popped d cl port 2
    refine ⟨fun hinvalid => ?_, fun hvalid hroom hbranch => ?_⟩
    · obtain ⟨a, ha, hatyp, hreason, htag, -⟩ := ((s.inPop d cl port 2).flag F.MESH_EVT_MC_INVALID i).nodeRefuse_refused d cl p rUNMAPPED
      refine ⟨_, a, mcwForward_invalid hlive hport hhead htyp hnode hfar hinvalid, ?_, ?_, ha, hatyp.trans (if_pos htyp), hreason, htag⟩
      · rw [State.nodeRefuse_get, State.get_flag_same _ _ _ _ (by decide) (by decide)]
      · rw [State.nodeRefuse_mem, State.flag_mem, hpop.mem]
    · obtain ⟨q, c, r, hq, hne, hbit, hb⟩ := hbranch
      have hfirst : (q, c) ∈ mcNext cl br port := mem_mcNext.mpr ⟨hq, hne, hbit, r, hb⟩
      have hlen : 0 < (mcNext cl br port).length := List.length_pos_of_mem hfirst
      obtain ⟨u, hu, hexec⟩ := mcwForward_branches hlive hport hhead htyp hnode hfar (by rw [hvalid]; decide) rfl rfl
        (fun x hx => by
          obtain ⟨hx, -, hbit, r, hb⟩ := mem_mcNext.mp hx
          exact hroom x.1 x.2 r hx hb hbit) (Nat.ne_of_gt (Nat.lt_of_lt_of_le hlen (Nat.le_add_right ..)))
      have hleft := u.mcLeave_left d cl p (mcNext cl br port)
      have hown : u.router i = { (s.inPop d cl port 2).router i with
          mc := ((s.inPop d cl port 2).router i).mc ++ [mcRecord p g ((mcNext cl br port).length + s.mcMembers i g)] } := by
        rw [hu]
        exact State.setRouter_same ..
      have hmem : u.mem = s.mem := by rw [hu]; exact hpop.mem
      have hregs : u.regs = s.regs := by rw [hu]; exact hpop.regs
      have hmc : ((u.mcLeave d cl p (mcNext cl br port)).router i).mc =
          (s.router i).mc ++ [mcRecord p g ((mcNext cl br port).length + s.mcMembers i g)] := by
        rw [hleft.own, hown, hpop.mc]
      have hqueued (q c r : Nat) (hq : q ∈ [1, 2, 3, 4]) (hne : q ≠ port) (hbit : bitOf br q = true) (hb : beyond cl q = .router c r) :
          ∃ x, x ∈ lookD [] ((u.mcLeave d cl p (mcNext cl br port)).router (48 * d + c)).inq (inKey r p.vc) ∧ x.dnode = c ∧ x.snode = cl ∧
            x.payload = p.payload :=
        ⟨mcCopy d cl c p, u.mcLeave_queued p (mem_mcNext.mpr ⟨hq, hne, hbit, r, hb⟩) (by rintro rfl; simp at hq) hb, rfl, rfl, rfl⟩
      refine ⟨_, mcRecord p g ((mcNext cl br port).length + s.mcMembers i g), hexec, ?_⟩
      split
      · next hnone =>
        refine ⟨hleft.mem.trans hmem, hleft.regs.trans hregs, hmc, rfl, rfl, Nat.lt_of_lt_of_le hlen (Nat.le_add_right ..), rfl, fun hself hcores => ?_, hqueued⟩
        exact absurd ((if_pos hself).symm.trans hnone) hcores
      · refine ⟨hleft.mem.trans hmem, hleft.regs.trans hregs, hmc, rfl, rfl, Nat.lt_of_lt_of_le hlen (Nat.le_add_right ..), rfl, fun _ _ => ?_, hqueued⟩
        rw [State.deliver_same]
        exact List.mem_append_right _ (List.mem_singleton.mpr rfl)

end Sys2Proof.Machine
end

section
/-! PROOFS. Signals at a core's sync port, landing windows, and writes of the counters (R337 to R340, R350, R356, R357, R381). -/

namespace Sys2Proof.Machine

open Sys2Proof

/-! ### A counter that takes a signal's INC (R356, R357) -/

theorem State.privChans_setCtr (s : State) (c n v d ctr : Nat) : (s.setCtr c n v).privChans d ctr = s.privChans d ctr := by
  have hget (f : Field) (hf : f.reg ≠ .SU_CTR) (j : Nat) : (s.setCtr c n v).get f d j = s.get f d j := congrArg f.of (s.rd_setCtr c n v hf)
  unfold State.privChans
  simp only [hget _ (show F.SU_CCH_EN.reg ≠ .SU_CTR by decide), hget _ (show F.SU_CCH_PRIV.reg ≠ .SU_CTR by decide),
    hget _ (show F.SU_CCH_CTR.reg ≠ .SU_CTR by decide)]

/-- Below its limit, a counter without privileged channels takes the sum and no more. -/
theorem State.ctrAdd_plain {s : State} {c ctr n : Nat} (hpriv : s.privChans c ctr = []) (hle : s.ctr c ctr + n ≤ 0xFFFF) :
    (s.ctrAdd c ctr n).1 = s.setCtr c ctr (s.ctr c ctr + n) := by
  unfold State.ctrAdd
  dsimp only
  rw [if_neg (by omega), State.privChans_setCtr, hpriv]
  rfl

/-- A signal's INC is added to its counter; the other counters of the core, every record of a core and memory stay. -/
structure CtrAdded (s t : State) (c : Nat) (g : Sig) : Prop where
  ctr : t.ctr c g.ctr = s.ctr c g.ctr + g.inc
  ctrs : ∀ n, n ≠ g.ctr → t.ctr c n = s.ctr c n
  mem : t.mem = s.mem
  cores : t.cores = s.cores

section
variable {s : State} {c : Nat} {g : Sig}

theorem CtrAdded.ctrAdd (hpriv : s.privChans c g.ctr = []) (hle : s.ctr c g.ctr + g.inc ≤ 0xFFFF) :
    CtrAdded s (s.ctrAdd c g.ctr g.inc).1 c g := by
  rw [State.ctrAdd_plain hpriv hle]
  exact ⟨by rw [State.ctr_setCtr_same, Nat.mod_eq_of_lt (by omega)], fun n hn => s.ctr_setCtr_other c _ hn, rfl, rfl⟩

/-- The release of a signal of a window claims its bytes, too (R337). -/
theorem CtrAdded.sigRelease (hwin : g.win < 8) (hpriv : s.privChans c g.ctr = []) (hle : s.ctr c g.ctr + g.inc ≤ 0xFFFF) :
    CtrAdded s (s.sigRelease c g) c g ∧
      (s.sigRelease c g).get F.SYNC_LAND_CLAIMED c g.win = (s.get F.SYNC_LAND_CLAIMED c g.win + g.bytes) % 2 ^ 32 := by
  have hland : RegFrame [.SYNC_LAND] s (s.addw F.SYNC_LAND_CLAIMED c g.bytes g.win) := .set _ _ _ _ _ (by decide)
  have hctr (n : Nat) : (s.addw F.SYNC_LAND_CLAIMED c g.bytes g.win).ctr c n = s.ctr c n := hland.get_ctr c n (by decide)
  have hchans : (s.addw F.SYNC_LAND_CLAIMED c g.bytes g.win).privChans c g.ctr = [] := by
    rw [← hpriv]
    unfold State.privChans
    simp only [hland.get (f := F.SU_CCH_EN) _ _ (by decide) rfl, hland.get (f := F.SU_CCH_PRIV) _ _ (by decide) rfl,
      hland.get (f := F.SU_CCH_CTR) _ _ (by decide) rfl]
  have hclaim : (s.addw F.SYNC_LAND_CLAIMED c g.bytes g.win).get F.SYNC_LAND_CLAIMED c g.win = (s.get F.SYNC_LAND_CLAIMED c g.win + g.bytes) % 2 ^ 32 :=
    State.get_set_same _ _ _ _ _ (by decide)
  obtain ⟨hsum, hothers, hmem, hcores⟩ := CtrAdded.ctrAdd hchans (by rw [hctr]; exact hle)
  unfold State.sigRelease
  rw [if_pos hwin]
  refine ⟨⟨by rw [hsum, hctr], fun n hn => (hothers n hn).trans (hctr n), hmem, hcores⟩, ?_⟩
  rw [State.ctrAdd_plain hchans (by rw [hctr]; exact hle), ← hclaim]
  exact congrArg F.SYNC_LAND_CLAIMED.of (State.rd_setCtr _ _ _ _ (show Reg.SYNC_LAND ≠ .SU_CTR by decide))

/-! ### A signal at the port (R337, R338, R340) -/

theorem State.sigPort_free (hwin : g.win = 0xF) : s.sigPort c g = (s.ctrAdd c g.ctr g.inc).1 := by
  unfold State.sigPort
  rw [if_neg (not_and_of_not_left _ (not_not_intro hwin)), if_pos (Or.inl hwin)]

/-- A signal of an enabled window whose bytes have landed is released as it arrives. -/
theorem State.sigPort_ready (hwin : g.win < 8) (hbytes : 0 < g.bytes) (hen : s.get F.SYNC_LWIN_EN c g.win = 1) (hready : s.sigReadyAt c g = true) :
    s.sigPort c g = s.sigRelease c g := by
  unfold State.sigPort
  rw [if_neg (by rw [hen]; omega), if_neg (by omega), if_pos hready]

/-- One whose bytes have not landed takes a slot. -/
theorem State.sigPort_waits (hwin : g.win < 8) (hbytes : 0 < g.bytes) (hen : s.get F.SYNC_LWIN_EN c g.win = 1) (hready : s.sigReadyAt c g = false) :
    ∃ n, s.sigPort c g =
      (s.modCore c (fun x => { x with slots := x.slots ++ [{ g with due := s.now }] })).set F.SYNC_PEND_HIGH_WATER c n := by
  unfold State.sigPort
  rw [if_neg (by rw [hen]; omega), if_neg (by omega), if_neg (by simp [hready])]
  exact ⟨_, rfl⟩

/-- A signal that is dropped sets its event, and SYNC_BAD_LOG keeps the first one. -/
theorem State.badSignal_cases (s : State) (c : Nat) (g : Sig) : s.badSignal c g = s.flag F.SYNC_EVT_BAD_SIGNAL c ∨
    ∃ v, s.badSignal c g = (s.flag F.SYNC_EVT_BAD_SIGNAL c).wr ⟨.SYNC_BAD_LOG, c, 0⟩ v := by
  unfold State.badSignal
  extract_lets u
  split
  · exact .inl rfl
  · exact .inr ⟨_, rfl⟩

/-- What the drop of a signal leaves: registers of the sync port alone change. -/
structure SigDropped (s t : State) (c : Nat) : Prop where
  evt : t.get F.SYNC_EVT_BAD_SIGNAL c = 1
  cores : t.cores = s.cores
  regs : RegFrame [.SYNC_EVT, .SYNC_BAD_LOG] s t

/-- A signal that names no window in service is dropped. -/
theorem State.sigPort_bad (h15 : g.win ≠ 0xF) (hbad : 8 ≤ g.win ∨ s.get F.SYNC_LWIN_EN c g.win = 0) : SigDropped s (s.sigPort c g) c := by
  have hflag : (s.flag F.SYNC_EVT_BAD_SIGNAL c).get F.SYNC_EVT_BAD_SIGNAL c = 1 := State.get_flag_same _ _ _ _ (by decide) (by decide)
  have hevt : RegFrame [.SYNC_EVT, .SYNC_BAD_LOG] s (s.flag F.SYNC_EVT_BAD_SIGNAL c) := .flag _ _ _ _ (by decide)
  have hport : s.sigPort c g = s.badSignal c g := by
    unfold State.sigPort
    exact if_pos ⟨h15, hbad⟩
  rw [hport]
  rcases s.badSignal_cases c g with h | ⟨v, h⟩
  · rw [h]
    exact ⟨hflag, State.flag_cores .., hevt⟩
  · have hlog : RegFrame [.SYNC_BAD_LOG] (s.flag F.SYNC_EVT_BAD_SIGNAL c) ((s.flag F.SYNC_EVT_BAD_SIGNAL c).wr ⟨.SYNC_BAD_LOG, c, 0⟩ v) :=
      .wr _ _ _ List.mem_cons_self
    rw [h]
    exact ⟨(hlog.get _ _ (by decide) rfl).trans hflag, (State.wr_cores ..).trans (State.flag_cores ..), hevt.trans (hlog.weaken (by decide))⟩

/-! ### SIGNAL_ARRIVE -/

/-- The next signal has left its way in. -/
def State.sigTaken (s : State) (c : Nat) (more : List Sig) : State := s.modCore c (fun x => { x with sigIn := more })

theorem State.sigTaken_core (s : State) (c : Nat) (more : List Sig) : (s.sigTaken c more).core c = { s.core c with sigIn := more } :=
  State.modCore_same ..

theorem State.sigTaken_others (s : State) {c d : Nat} (more : List Sig) (h : d ≠ c) : (s.sigTaken c more).core d = s.core d :=
  State.modCore_other _ _ h

theorem State.sigTaken_sigReadyAt (s : State) (c : Nat) (more : List Sig) (g : Sig) : (s.sigTaken c more).sigReadyAt c g = s.sigReadyAt c g := by
  unfold State.sigReadyAt State.landedNow
  rw [State.sigTaken_core]
  rfl

/-- What becomes of a signal that has reached the node of its core. -/
def State.sigAtNode (s : State) (c : Nat) (g : Sig) : State :=
  if s.cutOff c || (!(s.core c).openSync && decide (g.mod ≠ 0xFFFF)) then s.sigNotice g
  else if !(s.core c).nodeHeld.isEmpty then s.modCore c (fun x => { x with nodeHeld := x.nodeHeld ++ [g] })
  else if g.counted && decide (s.get F.SYNC_LWIN_EN c g.win = 1) && decide (16 ≤ (s.core c).slots.length) then
    (s.flag F.SYNC_EVT_NODE_HELD c).modCore c (fun x => { x with nodeHeld := [g] })
  else s.sigPort c g

theorem signalArrive_eq {more : List Sig} (hin : (s.core c).sigIn = g :: more) (hdue : g.due ≤ s.now) (hrel : g.rel = false) :
    exec (.signalArrive c) s = .next ((s.sigTaken c more).sigAtNode c g) := by
  show execSignalArrive c s = _
  unfold execSignalArrive State.sigAtNode State.sigTaken
  simp only [hin, hrel, Bool.false_eq_true, if_false, s.at_of_le g.due hdue]
  split
  · rfl
  · split
    · rfl
    · split <;> rfl

/-- At an open port, behind no held signal, it is held for a slot or goes to the port. -/
theorem State.sigAtNode_open (hcut : s.cutOff c = false) (hopen : (s.core c).openSync = true) (hheld : (s.core c).nodeHeld = []) :
    s.sigAtNode c g = if (g.counted && decide (s.get F.SYNC_LWIN_EN c g.win = 1) && decide (16 ≤ (s.core c).slots.length)) = true then
      (s.flag F.SYNC_EVT_NODE_HELD c).modCore c (fun x => { x with nodeHeld := [g] }) else s.sigPort c g := by
  unfold State.sigAtNode
  simp only [hcut, hopen, hheld, Bool.not_true, Bool.false_and, Bool.or_false, Bool.false_eq_true, if_false, List.isEmpty_nil]

theorem signalArrive_open {more : List Sig} (hin : (s.core c).sigIn = g :: more) (hdue : g.due ≤ s.now) (hrel : g.rel = false)
    (hcut : s.cutOff c = false) (hopen : (s.core c).openSync = true) (hheld : (s.core c).nodeHeld = []) :
    exec (.signalArrive c) s = .next (if (g.counted && decide (s.get F.SYNC_LWIN_EN c g.win = 1) && decide (16 ≤ (s.core c).slots.length)) = true then
        ((s.sigTaken c more).flag F.SYNC_EVT_NODE_HELD c).modCore c (fun x => { x with nodeHeld := [g] })
      else (s.sigTaken c more).sigPort c g) := by
  have hcore := s.sigTaken_core c more
  have hcut' : (s.sigTaken c more).cutOff c = false := by
    rw [← hcut]
    unfold State.cutOff
    rw [hcore]
    rfl
  have hnode := State.sigAtNode_open (g := g) hcut' (by rw [hcore]; exact hopen) (by rw [hcore]; exact hheld)
  rw [hcore] at hnode
  rw [signalArrive_eq hin hdue hrel, hnode]
  rfl

/-- With a free slot, or without the need of one, it goes to the port. -/
theorem Sig.not_held {en slots : Nat} (h : g.counted = false ∨ en ≠ 1 ∨ slots < 16) :
    ¬ (g.counted && decide (en = 1) && decide (16 ≤ slots)) = true := by
  simp only [Bool.and_eq_true, decide_eq_true_eq]
  rintro ⟨⟨h1, h2⟩, h3⟩
  rcases h with h | h | h
  · rw [h] at h1; cases h1
  · exact h h2
  · omega

theorem Sig.counted_of {g : Sig} (hwin : g.win < 8) (hbytes : 0 < g.bytes) : g.counted = true := by simp [Sig.counted, hwin, hbytes]

theorem Sig.not_counted {g : Sig} (hwin : 8 ≤ g.win) : g.counted = false := by
  simp only [Sig.counted, Bool.and_eq_false_iff, decide_eq_false_iff_not]
  omega

/-! ### SIGNAL_RELEASE and NODE_HELD_SIGNAL_SEND (R337 to R339) -/

/-- A signal whose slot has become ready is released, and its slot is free. -/
theorem signalRelease_ready {i : Nat} (hslot : (s.core c).slots[i]? = some g) (hdue : g.due < s.now)
    (hready : s.sigReady c ((s.core c).slots.take i) g = true) (hcut : s.cutOff c = false) (hopen : (s.core c).openSync = true) :
    ∃ n : CoreSt → Nat, exec (.signalRelease c i) s = .next ((s.modCore c (fun x => { x with slots := x.slots.eraseIdx i, nodeAt := n x })).sigRelease c g) := by
  refine ⟨fun x => if x.slots.length = 16 then s.now + 3 else x.nodeAt, ?_⟩
  show execSignalRelease c i s = _
  unfold execSignalRelease
  simp only [hslot, s.at_of_le (g.due + 1) hdue, hready, hcut, hopen, decide_true, Bool.not_false, Bool.and_self, if_true]

/-- The oldest signal that the node holds goes to the port. -/
theorem nodeHeldSignalSend_goes {more : List Sig} (hheld : (s.core c).nodeHeld = g :: more) (hat : (s.core c).nodeAt ≤ s.now)
    (hlen : (s.core c).slots.length < 16) :
    exec (.nodeHeldSignalSend c) s = .next ((s.modCore c (fun x => { x with nodeHeld := more, nodeAt := s.now + 1 })).sigPort c g) := by
  have hroom : ¬ (g.counted && decide (16 ≤ (s.core c).slots.length)) = true := by
    simp only [Bool.and_eq_true, decide_eq_true_eq]
    omega
  show execNodeHeldSignalSend c s = _
  unfold execNodeHeldSignalSend
  simp only [hheld]
  rw [if_neg hroom, s.at_of_le _ hat]

end

/-! ### Writes of the hub (R350, R381) -/

/-- The write that opens a landing window clears its counts; any other leaves them. -/
theorem State.lwinWrite_hub (s : State) (c w : Nat) (v : Word) (addr : Nat) :
    let t := s.lwinWrite .hub c w v fullMask addr
    (∀ f ∈ Reg.SYNC_LWIN.info.fields, t.get f c w = f.of v) ∧
      (s.get F.SYNC_LWIN_EN c w = 0 → F.SYNC_LWIN_EN.of v = 1 → t.get F.SYNC_LAND_LANDED c w = 0 ∧ t.get F.SYNC_LAND_CLAIMED c w = 0) ∧
      (∀ k, k ≠ ⟨.SYNC_LWIN, c, w⟩ → k ≠ ⟨.SYNC_LAND, c, w⟩ → t.rd k = s.rd k) ∧ t.mem = s.mem := by
  obtain ⟨x, hx, hrw, -⟩ := s.accWrite_hub (k := ⟨.SYNC_LWIN, c, w⟩) v addr rfl
    (show ∀ f ∈ Reg.SYNC_LWIN.info.fields, f.acc ≠ .rwl by decide)
  have hwrite : s.accWrite .hub ⟨.SYNC_LWIN, c, w⟩ v fullMask addr = s.wr ⟨.SYNC_LWIN, c, w⟩ x := hx
  have hfields (f : Field) (hf : f ∈ Reg.SYNC_LWIN.info.fields) : (s.wr ⟨.SYNC_LWIN, c, w⟩ x).get f c w = f.of v := by
    have hall : ∀ f ∈ Reg.SYNC_LWIN.info.fields, f.reg = .SYNC_LWIN ∧ f.acc = .rw := by decide
    obtain ⟨hreg, hacc⟩ := hall f hf
    rw [State.get_def, hreg, State.rd_wr_same, hrw f hf hacc]
  have hen : (s.wr ⟨.SYNC_LWIN, c, w⟩ x).get F.SYNC_LWIN_EN c w = F.SYNC_LWIN_EN.of v := hfields _ (by decide)
  unfold State.lwinWrite
  simp only [hwrite, hen]
  split
  · refine ⟨fun f hf => ?_, fun _ _ => ⟨?_, State.get_set_same _ _ _ _ _ (by decide)⟩, fun k hk hl => ?_, rfl⟩
    · rw [← hfields f hf]
      have hreg : ∀ f ∈ Reg.SYNC_LWIN.info.fields, f.reg ≠ .SYNC_LAND := by decide
      have hk : (⟨f.reg, c, w⟩ : RKey) ≠ ⟨.SYNC_LAND, c, w⟩ := fun e => hreg f hf (congrArg RKey.reg e)
      exact congrArg f.of ((State.rd_set_other _ _ _ _ _ _ hk).trans (State.rd_set_other _ _ _ _ _ _ hk))
    · rw [State.get_set_apart _ _ _ _ _ _ (by decide) (by decide) (by decide), State.get_set_same _ _ _ _ _ (by decide)]
      rfl
    · exact ((State.rd_set_other _ _ _ _ _ _ hl).trans (State.rd_set_other _ _ _ _ _ _ hl)).trans (State.rd_wr_other _ _ hk)
  · next hno => exact ⟨hfields, fun h0 h1 => absurd ⟨h0, h1⟩ hno, fun k hk _ => State.rd_wr_other _ _ hk, rfl⟩

/-- A counter's part of the word written to its register. -/
theorem ctrField_of {j : Nat} (hj : j < 4) (v : Word) : (ctrField j).of v = v.toNat / 2 ^ (16 * j) % 2 ^ 16 := by
  have hlo : (ctrField j).lo = 16 * j ∧ (ctrField j).width = 16 := by
    have hall : ∀ j < 4, (ctrField j).lo = 16 * j ∧ (ctrField j).width = 16 := by decide
    exact hall j hj
  rw [Field.of, hlo.1, hlo.2, BitVec.extractLsb'_toNat, Nat.shiftRight_eq_div_pow]

/-- The hub's write of SU_CTR sets its four counters. -/
theorem State.suCtrWrite_hub (s : State) (c q : Nat) (v : Word) (addr : Nat) :
    let t := s.accWrite .hub ⟨.SU_CTR, c, q⟩ v fullMask addr
    (∀ j, j < 4 → t.ctr c (4 * q + j) = v.toNat / 2 ^ (16 * j) % 2 ^ 16) ∧ (∀ k, k ≠ ⟨.SU_CTR, c, q⟩ → t.rd k = s.rd k) ∧ t.mem = s.mem := by
  obtain ⟨x, hx, hrw, -⟩ := s.accWrite_hub (k := ⟨.SU_CTR, c, q⟩) v addr rfl (show ∀ f ∈ Reg.SU_CTR.info.fields, f.acc ≠ .rwl by decide)
  have hwrite : s.accWrite .hub ⟨.SU_CTR, c, q⟩ v fullMask addr = s.wr ⟨.SU_CTR, c, q⟩ x := hx
  rw [hwrite]
  refine ⟨fun j hj => ?_, fun k hk => State.rd_wr_other _ _ hk, rfl⟩
  have hall : ∀ j < 4, ctrField j ∈ Reg.SU_CTR.info.fields ∧ (ctrField j).acc = .rw := by decide
  have hmod : (4 * q + j) % 4 = j := by omega
  have hdiv : (4 * q + j) / 4 = q := by omega
  rw [State.ctr, hmod, hdiv, State.get_def, ctrField_reg, State.rd_wr_same, hrw _ (hall j hj).1 (hall j hj).2, ctrField_of hj]

/-! ### The statement -/

/-- Settles O27: what a signal does at the port (`State.sigPort_free` and the lemmas after it), its release (`CtrAdded.sigRelease`), and the
writes of the hub (`State.lwinWrite_hub`, `State.suCtrWrite_hub`). -/
theorem signalsAndCounters : Obligations.SignalsAndCounters := by
  unfold Obligations.SignalsAndCounters
  extract_lets plain added arrives
  have added_of {s u t : State} {c : Nat} {g : Sig} (h : CtrAdded u t c g) (hregs : u.regs = s.regs) (hmem : u.mem = s.mem)
      (hothers : ∀ d, d ≠ c → u.core d = s.core d) : added s t c g := by
    have hctr (n : Nat) : u.ctr c n = s.ctr c n := by
      unfold State.ctr State.get State.rd
      rw [hregs]
    refine ⟨h.ctr.trans (by rw [hctr]), fun n _ hn => (h.ctrs n hn).trans (hctr n), h.mem.trans hmem, fun d hd => ?_⟩
    rw [← hothers d hd]
    unfold State.core
    rw [h.cores]
  have core_of {u t : State} {c : Nat} {g : Sig} (h : CtrAdded u t c g) (d : Nat) : t.core d = u.core d := by
    unfold State.core
    rw [h.cores]
  refine ⟨?arrive, ?release, ?send, ?window, ?counters⟩
  case arrive =>
    intro s c g more ⟨hin, hdue, hrel, hcut, hopen, hheld⟩
    have hexec := signalArrive_open hin hdue hrel hcut hopen hheld
    have hcore := s.sigTaken_core c more
    refine ⟨fun hwin hplain => ?_, fun hwin hbytes hen hlen hready hplain => ?_, fun hwin hbytes hen hlen hready => ?_,
      fun hwin hbytes hen hlen => ?_, fun h15 hbad => ?_⟩
    · rw [if_neg (Sig.not_held (.inl (Sig.not_counted (by omega)))), State.sigPort_free hwin] at hexec
      obtain ⟨-, hpriv, hle⟩ := hplain
      have h : CtrAdded (s.sigTaken c more) ((s.sigTaken c more).ctrAdd c g.ctr g.inc).1 c g := .ctrAdd hpriv hle
      exact ⟨_, hexec, added_of h rfl rfl (fun d hd => s.sigTaken_others more hd), by rw [core_of h, hcore], by rw [core_of h, hcore]⟩
    · rw [if_neg (Sig.not_held (.inr (.inr hlen))), State.sigPort_ready (s := s.sigTaken c more) hwin hbytes hen ((s.sigTaken_sigReadyAt c more g).trans hready)] at hexec
      obtain ⟨-, hpriv, hle⟩ := hplain
      obtain ⟨h, hclaim⟩ := CtrAdded.sigRelease (s := s.sigTaken c more) hwin hpriv hle
      exact ⟨_, hexec, added_of h rfl rfl (fun d hd => s.sigTaken_others more hd), by rw [core_of h, hcore], hclaim⟩
    · obtain ⟨n, hport⟩ := State.sigPort_waits (s := s.sigTaken c more) hwin hbytes hen ((s.sigTaken_sigReadyAt c more g).trans hready)
      rw [if_neg (Sig.not_held (.inr (.inr hlen))), hport] at hexec
      refine ⟨_, hexec, ?_, fun n _ => ?_, rfl⟩
      · rw [State.set_core_read, State.modCore_same, hcore]
        rfl
      · exact (RegFrame.set (l := [.SYNC_PEND]) _ F.SYNC_PEND_HIGH_WATER _ _ _ (by decide)).get_ctr c n (by decide)
    · rw [if_pos (by simp [Sig.counted_of hwin hbytes, hen, hlen])] at hexec
      refine ⟨_, hexec, by rw [State.modCore_same], ?_, ?_⟩
      · rw [State.modCore_same, State.flag_core_read, hcore]
      · rw [State.modCore_get, State.get_flag_same _ _ _ _ (by decide) (by decide)]
    · have hgo : g.counted = false ∨ s.get F.SYNC_LWIN_EN c g.win ≠ 1 ∨ (s.core c).slots.length < 16 := by
        rcases hbad with h | h
        · exact .inl (Sig.not_counted h)
        · exact .inr (.inl (by omega))
      rw [if_neg (Sig.not_held hgo)] at hexec
      obtain ⟨hevt, hcores, hframe⟩ := State.sigPort_bad (s := s.sigTaken c more) h15 hbad
      refine ⟨_, hexec, hevt, ?_, fun n _ => hframe.get_ctr c n (by decide)⟩
      have hsame : ((s.sigTaken c more).sigPort c g).core c = (s.sigTaken c more).core c := by
        unfold State.core
        rw [hcores]
      rw [hsame, hcore]
  case release =>
    intro s c i g hslot hdue hready hcut hopen hwin hplain
    obtain ⟨n, hexec⟩ := signalRelease_ready hslot hdue hready hcut hopen
    obtain ⟨-, hpriv, hle⟩ := hplain
    obtain ⟨h, hclaim⟩ := CtrAdded.sigRelease (s := s.modCore c (fun x => { x with slots := x.slots.eraseIdx i, nodeAt := n x })) hwin hpriv hle
    exact ⟨_, hexec, added_of h rfl rfl (fun d hd => State.modCore_other _ _ hd), by rw [core_of h, State.modCore_same], hclaim⟩
  case send =>
    intro s c g more hheld hat hlen hwin hbytes hen hready
    have hready' : (s.modCore c (fun x => { x with nodeHeld := more, nodeAt := s.now + 1 })).sigReadyAt c g = false := by
      rw [← hready]
      unfold State.sigReadyAt State.landedNow
      rw [State.modCore_same]
      rfl
    obtain ⟨n, hport⟩ := State.sigPort_waits (s := s.modCore c (fun x => { x with nodeHeld := more, nodeAt := s.now + 1 })) hwin hbytes hen hready'
    refine ⟨_, (nodeHeldSignalSend_goes hheld hat hlen).trans (congrArg Host.Outcome.next hport), ?_, ?_⟩
    · rw [State.set_core_read, State.modCore_same, State.modCore_same]
    · rw [State.set_core_read, State.modCore_same, State.modCore_same]
      rfl
  case window =>
    intro s c w v hw hreach
    obtain ⟨hfields, hclear, hregs, hmem⟩ := (s.access .hub).lwinWrite_hub c (w % 8) v (0x4000 * c + 0x2400 + 8 * (w % 8))
    rw [Nat.mod_eq_of_lt hw] at hfields hclear hregs hmem
    refine ⟨{ (s.access .hub).lwinWrite .hub c w v fullMask (0x4000 * c + 0x2400 + 8 * w) with bus := .written }, ?_, rfl, hfields _ (by decide),
      hfields _ (by decide), hfields _ (by decide), hclear, hregs, hmem⟩
    show execLwinEnable .hub c w v s = _
    rw [execLwinEnable, State.regCmd_reached _ _ _ _ _ hreach, Nat.mod_eq_of_lt hw]
  case counters =>
    intro s c q v hq hreach
    obtain ⟨hctrs, hregs, hmem⟩ := (s.access .hub).suCtrWrite_hub c q v (0x4000 * c + 0x1000 + 8 * q)
    refine ⟨{ (s.access .hub).accWrite .hub ⟨.SU_CTR, c, q⟩ v fullMask (0x4000 * c + 0x1000 + 8 * q) with bus := .written }, ?_, rfl, hctrs, hregs, hmem⟩
    show execSuCtrWrite .hub c q v s = _
    rw [execSuCtrWrite, State.regCmd_reached _ _ _ _ _ hreach, Nat.mod_eq_of_lt hq]

end Sys2Proof.Machine
end

section
/-! PROOFS. A router that stops: its record, the aborts of its die's tasks, and beats that fail on a bridge (R321, R329, R330). -/

namespace Sys2Proof.Machine

open Sys2Proof

/-! ### What an abort of a task keeps (R529) -/

/-- Registers that an abort writes for the cores and channels of its task. -/
def abortRegs : List Reg := [.CC_TASK_STATUS, .CC_STATE, .MSU_RCH_CFG, .HUBC_CTX]

/-- A change of cores, channels and contexts of a task that is aborted: routers, tasks and data-mover tags stay, and an aborted core stays
aborted. -/
structure AbortFrame (s t : State) : Prop where
  routers : t.routers = s.routers
  fused : t.fusedCl = s.fusedCl
  tags : ∀ c, (t.core c).dmTags = (s.core c).dmTags
  raised : ∀ c, s.get F.CC_TASK_STATUS_ABORTED c = 1 → t.get F.CC_TASK_STATUS_ABORTED c = 1
  regs : RegFrame abortRegs s t
  tasks : t.tasks = s.tasks

section
variable {s t u : State}

theorem AbortFrame.refl (s : State) : AbortFrame s s := ⟨rfl, rfl, fun _ => rfl, fun _ h => h, .refl s, rfl⟩

theorem AbortFrame.trans (h : AbortFrame s t) (g : AbortFrame t u) : AbortFrame s u where
  routers := g.routers.trans h.routers
  fused := g.fused.trans h.fused
  tags c := (g.tags c).trans (h.tags c)
  raised c hc := g.raised c (h.raised c hc)
  regs := h.regs.trans g.regs
  tasks := g.tasks.trans h.tasks

theorem AbortFrame.foldl {α : Type} (g : State → α → State) (hg : ∀ s a, AbortFrame s (g s a)) (l : List α) (s : State) :
    AbortFrame s (l.foldl g s) := List.foldlRecOn l g (AbortFrame.refl s) fun u hu a _ => hu.trans (hg u a)

theorem AbortFrame.of_quiet (h : Quiet s t) : AbortFrame s t where
  routers := by rw [h.rest]
  fused := by rw [h.rest]
  tags c := by rw [h.core]
  raised c hc := (h.get _ _ _ rfl).trans hc
  regs := .of_quiet h
  tasks := by rw [h.rest]

theorem AbortFrame.raiseAbort (s : State) (c cause : Nat) : AbortFrame s (s.raiseAbort c cause) where
  routers := by rw [s.raiseAbort_local c cause]
  fused := by rw [s.raiseAbort_local c cause]
  tags d := by
    by_cases h : d = c
    · rw [h, CoreSt.dmTags_kept.toAbortKeeps.raiseAbort]
    · rw [(CplFrame.raiseAbort s c cause).others d h]
  raised _ hd := State.raiseAborts_raised cause [c] hd
  regs := .raiseAbort _ _ _ (by decide) (by decide)
  tasks := by rw [s.raiseAbort_local c cause]

theorem AbortFrame.modCore (s : State) (c : Nat) {g : CoreSt → CoreSt} (hg : ∀ x, (g x).dmTags = x.dmTags) : AbortFrame s (s.modCore c g) where
  routers := rfl
  fused := rfl
  tags d := by
    by_cases h : d = c
    · rw [h, State.modCore_same, hg]
    · rw [State.modCore_other _ _ h]
  raised _ h := h
  regs := .modCore ..
  tasks := rfl

theorem AbortFrame.set (s : State) (f : Field) (i v j : Nat) (hf : f.reg ∈ abortRegs) (ha : f.reg ≠ .CC_TASK_STATUS) : AbortFrame s (s.set f i v j) where
  routers := rfl
  fused := rfl
  tags _ := rfl
  raised _ h := (congrArg F.CC_TASK_STATUS_ABORTED.of (State.rd_set_other _ _ _ _ _ _ (fun e => ha (congrArg RKey.reg e).symm))).trans h
  regs := .set _ _ _ _ _ hf
  tasks := rfl

theorem AbortFrame.closeChan (s : State) (c : Nat) : AbortFrame s (s.closeChan c) := by
  have h : AbortFrame s (s.set F.MSU_RCH_CFG_VALID 0 0 c) := .set _ _ _ _ _ (by decide) (by decide)
  exact ⟨h.routers, h.fused, h.tags, h.raised, ⟨h.regs.regs, ⟨h.regs.mem.mem, h.regs.mem.ring⟩⟩, h.tasks⟩

theorem AbortFrame.closeChans (s : State) (l : List ImgChan) : AbortFrame s (l.foldl (fun s h => s.closeChan h.chan) s) :=
  .foldl (fun (s : State) (h : ImgChan) => s.closeChan h.chan) (fun u h => .closeChan u h.chan) l s

/-- The contexts of a task return, and the host hears of it. -/
theorem AbortFrame.freeCtx (s : State) (n : Nat) (e : Ev) : AbortFrame s ((s.freeCtx n).post e) :=
  (AbortFrame.set s F.HUBC_CTX_FREE 0 _ 0 (by decide) (by decide)).trans (.of_quiet (State.post_quiet ..))

/-- The cores of the task leave the states of a context switch. -/
theorem AbortFrame.release (s : State) (cs : List Nat) :
    AbortFrame s (cs.foldl (fun s c => s.modCore c (fun y => { y with stopped := false, openSync := true })) s) :=
  .foldl (fun (s : State) (c : Nat) => s.modCore c (fun y => { y with stopped := false, openSync := true })) (fun u c => .modCore u c (fun _ => rfl)) cs s
end

/-- What keeps registers, memory and rings. -/
theorem RegFrame.of_same {l : List Reg} {s t : State} (hregs : t.regs = s.regs) (hmem : t.mem = s.mem) (hrings : t.rings = s.rings) : RegFrame l s t := by
  refine ⟨fun _ _ _ => ?_, ⟨fun _ _ => ?_, fun _ => ?_⟩⟩
  · unfold State.rd
    rw [hregs]
  · unfold State.readByte
    rw [hmem]
  · unfold ringByte
    rw [hrings]

/-! ### The abort of one task -/

/-- The cores, channels and contexts of a task that is aborted, before its entry changes. -/
def State.abortParts (s : State) (t : Nat) (x : TaskSt) : State :=
  let s := x.coreIds.foldl (fun s c => s.raiseAbort c 8) s
  let s := match s.progOf x.prog with
    | some p => p.img.chans.foldl (fun (s : State) (h : ImgChan) => s.closeChan h.chan) s
    | none => s
  let s := if s.taskState t = tsSWITCHING then
      (s.freeCtx x.cores.length).post { kind := 3, mbx := x.swMbx, tag := x.swTag, record := leBytes 1 t ++ leBytes 1 1 }
    else s
  x.coreIds.foldl (fun s c => s.modCore c (fun y => { y with stopped := false, openSync := true })) s

theorem State.abortTask_eq {s : State} {t : Nat} {x : TaskSt} (h : s.task? t = some x) (first : Nat × Nat) (why : Nat) :
    s.abortTask t first why = ((s.abortParts t x).modTask t (fun x => { x with
      abort := some first, why := why, ckpt := [], ckptSent := false })).setTaskState t tsENDING := by
  unfold State.abortTask
  simp only [h]
  rfl

theorem State.abortParts_frame (s : State) (t : Nat) (x : TaskSt) :
    AbortFrame s (s.abortParts t x) ∧ ∀ c ∈ x.coreIds, (s.abortParts t x).get F.CC_TASK_STATUS_ABORTED c = 1 := by
  unfold State.abortParts
  extract_lets s1 s2 s3
  have h1 : AbortFrame s s1 := .foldl (fun s c => s.raiseAbort c 8) (fun u c => .raiseAbort u c 8) _ _
  have hraised (c : Nat) (hc : c ∈ x.coreIds) : s1.get F.CC_TASK_STATUS_ABORTED c = 1 := (State.raiseAborts 8 (by decide) _ s hc).1
  have h2 : AbortFrame s1 s2 := by
    simp only [s2]
    split
    · exact .closeChans ..
    · exact .refl _
  have h3 : AbortFrame s2 s3 := by
    simp only [s3]
    split
    · exact .freeCtx ..
    · exact .refl _
  have h4 := AbortFrame.release s3 x.coreIds
  exact ⟨((h1.trans h2).trans h3).trans h4, fun c hc => h4.raised c (h3.raised c (h2.raised c (hraised c hc)))⟩

/-! ### What a router's failure does to the tasks of its die (R330 step 1) -/

/-- A task of the die is aborted with cause FENCED, where it may be. -/
def State.failTask (s : State) (die t : Nat) (x : TaskSt) : State :=
  if s.taskOnDie die x && x.abort.isNone && s.abortable t && decide (s.taskState t ≠ tsOUT) then
    (s.abortTask t (0xFFFF, 8) 2).modTask t (fun x => { x with fencedIn := true })
  else s

/-- What the abort of task `k` keeps of the others. -/
structure FailFrame (s t : State) (k : Nat) : Prop where
  routers : t.routers = s.routers
  fused : t.fusedCl = s.fusedCl
  tags : ∀ c, (t.core c).dmTags = (s.core c).dmTags
  raised : ∀ c, s.get F.CC_TASK_STATUS_ABORTED c = 1 → t.get F.CC_TASK_STATUS_ABORTED c = 1
  regs : RegFrame (.HUBC_TASK :: abortRegs) s t
  states : ∀ j, j ≠ k → t.taskState j = s.taskState j
  tasks : ∀ j, j ≠ k → t.task? j = s.task? j

section
variable {s t u : State} {k : Nat}

theorem FailFrame.trans (h : FailFrame s t k) (g : FailFrame t u k) : FailFrame s u k where
  routers := g.routers.trans h.routers
  fused := g.fused.trans h.fused
  tags c := (g.tags c).trans (h.tags c)
  raised c hc := g.raised c (h.raised c hc)
  regs := h.regs.trans g.regs
  states j hj := (g.states j hj).trans (h.states j hj)
  tasks j hj := (g.tasks j hj).trans (h.tasks j hj)

theorem FailFrame.refl (s : State) (k : Nat) : FailFrame s s k := ⟨rfl, rfl, fun _ => rfl, fun _ h => h, .refl s, fun _ _ => rfl, fun _ _ => rfl⟩

theorem FailFrame.of_abort (h : AbortFrame s t) : FailFrame s t k where
  routers := h.routers
  fused := h.fused
  tags := h.tags
  raised := h.raised
  regs := h.regs.weaken fun _ hr => List.mem_cons_of_mem _ hr
  states _ _ := h.regs.get _ _ (by decide) rfl
  tasks j _ := by unfold State.task?; rw [h.tasks]

theorem FailFrame.modTask (s : State) (k : Nat) (g : TaskSt → TaskSt) : FailFrame s (s.modTask k g) k := by
  unfold State.modTask
  split
  · exact ⟨rfl, rfl, fun _ => rfl, fun _ h => h, .of_same rfl rfl rfl, fun _ _ => rfl, fun j hj => find?_insertAt_other _ _ _ hj⟩
  · exact .refl s k

theorem FailFrame.setTaskState (s : State) (k v : Nat) : FailFrame s (s.setTaskState k v) k where
  routers := rfl
  fused := rfl
  tags _ := rfl
  raised _ h := (congrArg F.CC_TASK_STATUS_ABORTED.of (State.rd_set_other _ _ _ _ _ _ (by simp))).trans h
  regs := .set _ _ _ _ _ List.mem_cons_self
  states j hj := congrArg F.HUBC_TASK_STATE.of (State.rd_set_other _ _ _ _ _ _ (by simpa using hj))
  tasks _ _ := rfl

theorem State.modTask_taskState (s : State) (k : Nat) (g : TaskSt → TaskSt) (j : Nat) : (s.modTask k g).taskState j = s.taskState j := by
  unfold State.modTask
  split <;> rfl

/-- The task ends, and each of its cores is aborted. -/
theorem State.abortTask_aborts {x : TaskSt} (h : s.task? k = some x) (first : Nat × Nat) (why : Nat) :
    FailFrame s (s.abortTask k first why) k ∧ (s.abortTask k first why).taskState k = tsENDING ∧
      ∀ c ∈ x.coreIds, (s.abortTask k first why).get F.CC_TASK_STATUS_ABORTED c = 1 := by
  obtain ⟨hparts, hraised⟩ := s.abortParts_frame k x
  rw [State.abortTask_eq h]
  have hrest := (FailFrame.modTask (s.abortParts k x) k (fun x => { x with abort := some first, why := why, ckpt := [], ckptSent := false })).trans
    (.setTaskState _ k tsENDING)
  exact ⟨(FailFrame.of_abort hparts).trans hrest, State.get_set_same _ _ _ _ _ (by decide), fun c hc => hrest.raised c (hraised c hc)⟩

theorem State.failTask_frame (s : State) (die k : Nat) (x : TaskSt) : FailFrame s (s.failTask die k x) k := by
  unfold State.failTask
  split
  · refine FailFrame.trans ?_ (.modTask ..)
    cases h : s.task? k with
    | some y => exact (State.abortTask_aborts h _ _).1
    | none =>
      unfold State.abortTask
      simp only [h]
      exact .refl s k
  · exact .refl s k

/-- Which tasks a die holds depends on their cores, on the tags of the data movers, and on where addresses lie. -/
theorem State.taskOnDie_congr (htags : ∀ c, (t.core c).dmTags = (s.core c).dmTags) (hfused : t.fusedCl = s.fusedCl)
    (hregs : ∀ r : RKey, r.reg ∈ [Reg.EVL_MODID, .HUBC_ALIAS, .HBMC_PAIR] → t.rd r = s.rd r) (die : Nat) (x : TaskSt) :
    t.taskOnDie die x = s.taskOnDie die x := by
  have hget (f : Field) (i j : Nat) (hf : f.reg ∈ [Reg.EVL_MODID, .HUBC_ALIAS, .HBMC_PAIR]) : t.get f i j = s.get f i j :=
    congrArg f.of (hregs ⟨f.reg, i, j⟩ hf)
  have hown (m : Nat) : t.ownMod m = s.ownMod m := by
    unfold State.ownMod State.modId
    rw [hget F.EVL_MODID_MOD_ID _ _ (by decide), hget F.HUBC_ALIAS_ALIAS_EN _ _ (by decide), hget F.HUBC_ALIAS_ALIAS_ID _ _ (by decide)]
  have hfar (a : Nat) : t.far a = s.far a := by
    unfold State.far
    rw [hfused]
  have hplace (a : Nat) : t.hbmPlace a = s.hbmPlace a := State.hbmPlace_congr (fun q => hregs _ (show Reg.HBMC_PAIR ∈ _ by decide)) a
  unfold State.taskOnDie State.farDie
  simp only [htags, hown, hfar, hplace]

theorem RegFrame.addressing {l : List Reg} (h : RegFrame l s t) (hl : ∀ r ∈ [Reg.EVL_MODID, .HUBC_ALIAS, .HBMC_PAIR], r ∉ l ∧ sideReg r = false) :
    ∀ r : RKey, r.reg ∈ [Reg.EVL_MODID, .HUBC_ALIAS, .HBMC_PAIR] → t.rd r = s.rd r :=
  fun r hr => h.regs r (hl _ hr).1 (hl _ hr).2

theorem FailFrame.taskOnDie (h : FailFrame s t k) (die : Nat) (x : TaskSt) : t.taskOnDie die x = s.taskOnDie die x :=
  State.taskOnDie_congr h.tags h.fused (h.regs.addressing (by decide)) die x

/-- A task whose end the failure has brought about. -/
structure TaskFailed (s : State) (k : Nat) (x : TaskSt) : Prop where
  ending : s.taskState k = tsENDING
  raised : ∀ c ∈ x.coreIds, s.get F.CC_TASK_STATUS_ABORTED c = 1

/-- A running task of the die fails. -/
theorem State.failTask_fails {die : Nat} {x : TaskSt} (htask : s.task? k = some x) (hon : s.taskOnDie die x = true) (hab : x.abort = none)
    (hrun : s.taskState k = tsRUNNING) : TaskFailed (s.failTask die k x) k x := by
  have hcond : (s.taskOnDie die x && x.abort.isNone && s.abortable k && decide (s.taskState k ≠ tsOUT)) = true := by
    unfold State.abortable
    rw [hon, hab, hrun]
    decide
  obtain ⟨-, hending, hraised⟩ := State.abortTask_aborts htask (0xFFFF, 8) 2
  unfold State.failTask
  rw [if_pos hcond]
  exact ⟨(State.modTask_taskState ..).trans hending, fun c hc => (FailFrame.modTask ..).raised c (hraised c hc)⟩

/-- It stays so while other tasks fail. -/
theorem TaskFailed.failTask {x : TaskSt} (h : TaskFailed s k x) (die j : Nat) (y : TaskSt) : TaskFailed (s.failTask die j y) k x := by
  have hframe := s.failTask_frame die j y
  refine ⟨?_, fun c hc => hframe.raised c (h.raised c hc)⟩
  by_cases hj : j = k
  · have hno : (s.taskOnDie die y && y.abort.isNone && s.abortable j && decide (s.taskState j ≠ tsOUT)) = false := by
      have : s.abortable j = false := by
        unfold State.abortable
        rw [hj, h.ending]
        rfl
      rw [this, Bool.and_false, Bool.false_and]
    unfold State.failTask
    rw [hno]
    exact h.ending
  · exact (hframe.states k (fun e => hj e.symm)).trans h.ending

/-- Of a list of tasks, the running one of the die that the table names fails. -/
theorem State.failTasks {die : Nat} {x : TaskSt} (l : List (Nat × TaskSt)) (hl : find? l k = some x) (htask : s.task? k = some x)
    (hon : s.taskOnDie die x = true) (hab : x.abort = none) (hrun : s.taskState k = tsRUNNING) :
    TaskFailed (l.foldl (fun s p => s.failTask die p.1 p.2) s) k x := by
  induction l generalizing s with
  | nil => cases hl
  | cons p l ih =>
    obtain ⟨j, y⟩ := p
    rw [List.foldl_cons]
    by_cases hj : j = k
    · subst hj
      have hy : y = x := by simpa [find?] using hl
      subst hy
      exact List.foldlRecOn (motive := fun u : State => TaskFailed u j y) l _ (State.failTask_fails htask hon hab hrun)
        fun u hu q _ => hu.failTask die q.1 q.2
    · have hframe := s.failTask_frame die j y
      have hne : k ≠ j := fun e => hj e.symm
      exact ih (by simpa [find?, hj] using hl) ((hframe.tasks k hne).trans htask) ((hframe.taskOnDie die x).trans hon)
        ((hframe.states k hne).trans hrun)

theorem State.failTasks_frame (s : State) (die : Nat) (l : List (Nat × TaskSt)) :
    (l.foldl (fun s p => s.failTask die p.1 p.2) s).routers = s.routers ∧
      RegFrame (.HUBC_TASK :: abortRegs) s (l.foldl (fun s p => s.failTask die p.1 p.2) s) :=
  ⟨List.foldlRecOn (motive := fun u : State => u.routers = s.routers) l _ rfl fun u hu p _ => (u.failTask_frame die p.1 p.2).routers.trans hu,
    .foldl (fun s p => s.failTask die p.1 p.2) (fun u p => (u.failTask_frame die p.1 p.2).regs) l s⟩
end

/-! ### A router stops (R329) -/

/-- The first fault of a router, as MESH_FAULT_LOG keeps it. -/
def State.faultLogged (s : State) (i kind port vc dnode : Nat) : State :=
  if s.get F.MESH_FAULT_LOG_VALID i = 1 then s
  else s.wr ⟨.MESH_FAULT_LOG, i, 0⟩ (BitVec.ofNat 64 (2 ^ 63 + kind * 2 ^ 61 + port % 8 * 2 ^ 58 + vc % 4 * 2 ^ 56 + dnode % 256 * 2 ^ 48))

/-- The stopped router with its event and its record. -/
def State.routerStopped (s : State) (i kind port vc dnode : Nat) : State :=
  let s := s.setRouter i { s.router i with faulty := true }
  let s := if kind = 0 then s.flag F.MESH_EVT_ECC i else if kind = 1 then s.flag F.MESH_EVT_ROUTE_MISMATCH i else s
  s.faultLogged i kind port vc dnode

/-- … reported to the host. -/
def State.routerReported (s : State) (i kind : Nat) : State :=
  (s.logHw 3 .MESH (if kind = 0 then 1 else 2) i (leBytes 8 (s.rd ⟨.MESH_FAULT_LOG, i, 0⟩).toNat)).propose ⟨2, coreId i 0, 0, 0, 0⟩

theorem State.routerReported_quiet (s : State) (i kind : Nat) : Quiet s (s.routerReported i kind) :=
  (State.logHw_quiet ..).trans (State.propose_quiet ..)

/-- The record of the first fault is kept, whichever fault it was. -/
theorem State.faultLogged_cases (s : State) (i port vc dnode : Nat) {kind : Nat} (hkind : kind < 3) :
    s.get F.MESH_FAULT_LOG_VALID i = 1 ∧ s.faultLogged i kind port vc dnode = s ∨
      ∃ v, F.MESH_FAULT_LOG_VALID.of v = 1 ∧ s.faultLogged i kind port vc dnode = s.wr ⟨.MESH_FAULT_LOG, i, 0⟩ v := by
  unfold State.faultLogged
  split
  · next h => exact .inl ⟨h, rfl⟩
  · refine .inr ⟨_, ?_, rfl⟩
    rw [Field.of, BitVec.extractLsb'_toNat, BitVec.toNat_ofNat, Nat.shiftRight_eq_div_pow]
    show _ / 2 ^ 63 % 2 ^ 1 = 1
    omega

/-- Afterwards the record is valid, and nothing beyond registers has changed. -/
theorem State.faultLogged_logged (s : State) (i port vc dnode : Nat) {kind : Nat} (hkind : kind < 3) :
    (s.faultLogged i kind port vc dnode).get F.MESH_FAULT_LOG_VALID i = 1 ∧ RegFrame [.MESH_FAULT_LOG] s (s.faultLogged i kind port vc dnode) ∧
      s.faultLogged i kind port vc dnode = { s with regs := (s.faultLogged i kind port vc dnode).regs } := by
  rcases s.faultLogged_cases i port vc dnode hkind with ⟨hvalid, h⟩ | ⟨v, hvalid, h⟩
  · rw [h]
    exact ⟨hvalid, .refl s, rfl⟩
  · rw [h]
    exact ⟨by rw [State.get_def, State.rd_wr_same, hvalid], .wr _ _ _ List.mem_cons_self, rfl⟩

/-- The router has stopped, with its event and its record; nothing else has changed. -/
structure Stopped (s t : State) (i kind : Nat) : Prop where
  tasks : t.tasks = s.tasks
  fused : t.fusedCl = s.fusedCl
  cores : t.cores = s.cores
  router : t.router i = { s.router i with faulty := true }
  others : ∀ j, j ≠ i → t.router j = s.router j
  regs : RegFrame [.MESH_EVT, .MESH_FAULT_LOG] s t
  ecc : kind = 0 → t.get F.MESH_EVT_ECC i = 1
  mismatch : kind = 1 → t.get F.MESH_EVT_ROUTE_MISMATCH i = 1
  log : t.get F.MESH_FAULT_LOG_VALID i = 1

theorem State.routerStopped_stopped (s : State) (i port vc dnode : Nat) {kind : Nat} (hkind : kind < 3) :
    Stopped s (s.routerStopped i kind port vc dnode) i kind := by
  unfold State.routerStopped
  extract_lets r s1 s2
  have hframe1 : RegFrame [.MESH_EVT, .MESH_FAULT_LOG] s s1 := .of_same rfl rfl rfl
  have h2 : s2 = { s1 with regs := s2.regs, evNow := s2.evNow } ∧ RegFrame [.MESH_EVT, .MESH_FAULT_LOG] s1 s2 ∧
      (kind = 0 → s2.get F.MESH_EVT_ECC i = 1) ∧ (kind = 1 → s2.get F.MESH_EVT_ROUTE_MISMATCH i = 1) := by
    simp only [s2]
    split
    · exact ⟨rfl, .flag _ _ _ _ (by decide), fun _ => State.get_flag_same _ _ _ _ (by decide) (by decide), fun h => by omega⟩
    · split
      · exact ⟨rfl, .flag _ _ _ _ (by decide), fun h => by omega, fun _ => State.get_flag_same _ _ _ _ (by decide) (by decide)⟩
      · exact ⟨rfl, .refl _, fun h => by omega, fun h => by omega⟩
  obtain ⟨hrest2, hregs2, hecc, hmismatch⟩ := h2
  obtain ⟨hvalid, hregs3, hrest3⟩ := s2.faultLogged_logged i port vc dnode hkind
  generalize s2.faultLogged i kind port vc dnode = u at hvalid hregs3 hrest3
  have hrest : u = { s1 with regs := u.regs, evNow := s2.evNow } := by
    rw [hrest2] at hrest3
    exact hrest3
  have hrouter (j : Nat) : u.router j = s1.router j := by rw [hrest]; rfl
  refine ⟨by rw [hrest]; rfl, by rw [hrest]; rfl, by rw [hrest]; rfl, (hrouter i).trans (State.setRouter_same ..),
    fun j hj => (hrouter j).trans (State.setRouter_other _ _ hj), (hframe1.trans hregs2).trans (hregs3.weaken (by decide)), fun h => ?_, fun h => ?_, hvalid⟩
  · exact (hregs3.get _ _ (by decide) rfl).trans (hecc h)
  · exact (hregs3.get _ _ (by decide) rfl).trans (hmismatch h)

section
variable {s : State} {die cl kind port vc dnode : Nat}

theorem State.routerFail_eq (hdie : die < 2) (hcl : cl < 48) (hf : (s.router (48 * die + cl)).faulty = false) (hkind : kind < 3) :
    s.routerFail die cl kind port vc dnode = s.tasks.foldl (fun s p => s.failTask die p.1 p.2)
      ((s.routerStopped (48 * die + cl) kind port vc dnode).routerReported (48 * die + cl) kind) := by
  have htasks : ((s.routerStopped (48 * die + cl) kind port vc dnode).routerReported (48 * die + cl) kind).tasks = s.tasks := by
    rw [(State.routerReported_quiet ..).rest]
    exact (s.routerStopped_stopped (48 * die + cl) port vc dnode hkind).tasks
  rw [← htasks]
  unfold State.routerFail
  dsimp only
  rw [if_neg (by rw [hf]; simp; omega)]
  rfl

/-- A router that stops: it alone becomes faulty, with its event and its record, and the running tasks of the die end. -/
theorem State.routerFail_stops (hdie : die < 2) (hcl : cl < 48) (hf : (s.router (48 * die + cl)).faulty = false) (hkind : kind < 3) :
    let t := s.routerFail die cl kind port vc dnode
    t.router (48 * die + cl) = { s.router (48 * die + cl) with faulty := true } ∧ (∀ j, j ≠ 48 * die + cl → t.router j = s.router j) ∧
      (kind = 0 → t.get F.MESH_EVT_ECC (48 * die + cl) = 1) ∧ (kind = 1 → t.get F.MESH_EVT_ROUTE_MISMATCH (48 * die + cl) = 1) ∧
      t.get F.MESH_FAULT_LOG_VALID (48 * die + cl) = 1 ∧
      ∀ k x, s.task? k = some x → s.taskOnDie die x = true → x.abort = none → s.taskState k = tsRUNNING → TaskFailed t k x := by
  have hstop := s.routerStopped_stopped (48 * die + cl) port vc dnode hkind
  rw [State.routerFail_eq hdie hcl hf hkind]
  generalize s.routerStopped (48 * die + cl) kind port vc dnode = u at hstop
  have hquiet := u.routerReported_quiet (48 * die + cl) kind
  generalize u.routerReported (48 * die + cl) kind = v at hquiet
  obtain ⟨hrouters, hregs⟩ := v.failTasks_frame die s.tasks
  have hrouter (j : Nat) : (s.tasks.foldl (fun s p => s.failTask die p.1 p.2) v).router j = u.router j := by
    rw [← hquiet.router]
    unfold State.router
    rw [hrouters]
  have hget {f : Field} (i : Nat) (hl : f.reg ∉ Reg.HUBC_TASK :: abortRegs) (hs : sideReg f.reg = false) :
      (s.tasks.foldl (fun s p => s.failTask die p.1 p.2) v).get f i = u.get f i := (hregs.get _ _ hl hs).trans (hquiet.get _ _ _ hs)
  refine ⟨(hrouter _).trans hstop.router, fun j hj => (hrouter j).trans (hstop.others j hj), fun h => (hget _ (by decide) rfl).trans (hstop.ecc h),
    fun h => (hget _ (by decide) rfl).trans (hstop.mismatch h), (hget _ (by decide) rfl).trans hstop.log, fun k x htask hon hab hrun => ?_⟩
  have hcore (c : Nat) : v.core c = s.core c := by
    rw [hquiet.core]
    unfold State.core
    rw [hstop.cores]
  have hsv : RegFrame [.MESH_EVT, .MESH_FAULT_LOG] s v := hstop.regs.trans (.of_quiet hquiet)
  refine State.failTasks s.tasks htask ?_ ?_ hab ((hsv.get _ _ (by decide) rfl).trans hrun)
  · unfold State.task?
    rw [hquiet.rest]
    exact (congrArg (fun l => find? l k) hstop.tasks).trans htask
  · refine (State.taskOnDie_congr (fun c => by rw [hcore]) ?_ (hsv.addressing (by decide)) die x).trans hon
    rw [hquiet.rest]
    exact hstop.fused

/-- After a failure its router is faulty, and every router that was. -/
theorem State.routerFail_faulty (hdie : die < 2) (hcl : cl < 48) (hkind : kind < 3) :
    ((s.routerFail die cl kind port vc dnode).router (48 * die + cl)).faulty = true ∧
      ∀ j, (s.router j).faulty = true → ((s.routerFail die cl kind port vc dnode).router j).faulty = true := by
  cases hf : (s.router (48 * die + cl)).faulty with
  | true =>
    have hsame : s.routerFail die cl kind port vc dnode = s := by
      unfold State.routerFail
      dsimp only
      rw [if_pos (Or.inr (Or.inr hf))]
    rw [hsame]
    exact ⟨hf, fun _ h => h⟩
  | false =>
    obtain ⟨hown, hothers, -⟩ := State.routerFail_stops (s := s) (port := port) (vc := vc) (dnode := dnode) hdie hcl hf hkind
    refine ⟨by rw [hown], fun j hj => ?_⟩
    by_cases h : j = 48 * die + cl
    · rw [h, hown]
    · rwa [hothers j h]
end

/-! ### A beat that fails on a bridge (R321) -/

theorem routerFaultCode_lt (kind : RouterFaultKind) : routerFaultCode kind < 3 := by cases kind <;> decide

/-- The retries of a lane with one more. -/
def State.laneRetried (s : State) (k : Nat) : State := { s with laneRetry := putD natLt 0 s.laneRetry k (lookD 0 s.laneRetry k + 1) }

theorem State.laneRetried_count (s : State) (k : Nat) : lookD 0 (s.laneRetried k).laneRetry k = lookD 0 s.laneRetry k + 1 := by
  show lookD 0 (putD natLt 0 s.laneRetry k (lookD 0 s.laneRetry k + 1)) k = _
  rw [lookD_putD_same]

/-- A beat that fails counts; the sixteenth in a row stops the routers at the lane's ends. -/
theorem bridgeCrcRetry_counts {s : State} {bridge lane : Nat} (hb : bridge < 3) (hl : lane < (if bridge = 0 then 16 else 8)) :
    exec (.bridgeCrcRetry bridge lane) s = .next (if lookD 0 s.laneRetry (16 * bridge + lane) + 1 < 16 then s.laneRetried (16 * bridge + lane)
      else if bridge = 0 then
        ((s.laneRetried (16 * bridge + lane)).routerFail 0 (lane / 2) 2 1 0 (0x50 + lane / 2)).routerFail 1 (lane / 2) 2 1 0 (0x50 + lane / 2)
      else (s.laneRetried (16 * bridge + lane)).routerFail (bridge - 1) (40 + lane) 2 3 0 (0x40 + lane)) := by
  show execBridgeCrcRetry bridge lane s = _
  unfold execBridgeCrcRetry
  rw [if_neg (by omega)]
  dsimp only
  split
  · rfl
  · split <;> rfl

end Sys2Proof.Machine
end

section
/-! PROOFS. A die whose faulty routers are drained: queues emptied, cores fenced, routes rewritten (R319, R329, R330). -/

namespace Sys2Proof.Machine

open Sys2Proof

/-! ### Route words (R318, R348) -/

/-- A number whose hexadecimal digits are given one by one. -/
theorem foldl_digits_lt {f : Nat → Nat} (hf : ∀ j, f j < 8) (n : Nat) : (List.range n).foldl (fun w j => w + f j * 2 ^ (4 * j)) 0 < 2 ^ (4 * n) := by
  induction n with
  | zero => simp
  | succ n ih =>
    have hdigit : f n * 2 ^ (4 * n) ≤ 7 * 2 ^ (4 * n) := Nat.mul_le_mul_right _ (Nat.le_of_lt_succ (hf n))
    have hp : 2 ^ (4 * (n + 1)) = 16 * 2 ^ (4 * n) := by rw [Nat.mul_add, Nat.pow_add, Nat.mul_comm]
    rw [List.range_succ, List.foldl_append, List.foldl_cons, List.foldl_nil, hp]
    omega

theorem stationPort_lt (node : Nat) : stationPort node < 8 := by
  unfold stationPort
  repeat' split
  all_goals decide

theorem defaultRoute_lt (row col node : Nat) : defaultRoute row col node < 8 := by
  have hstation := stationPort_lt node
  unfold defaultRoute
  dsimp only
  split_ifs <;> omega

theorem defaultRouteWord_lt (cl q : Nat) : defaultRouteWord cl q < 2 ^ 64 := foldl_digits_lt (fun _ => defaultRoute_lt ..) 16

theorem State.routeWord_lt (s : State) (die cl q : Nat) : s.routeWord die cl q < 2 ^ 64 :=
  Nat.xor_lt_two_pow (s.get_lt F.MESH_ROUTE_ENTRIES _ _) (defaultRouteWord_lt cl q)

/-- A route word after one of its entries has been set. -/
def routeWordWith (w node v : Nat) : Nat :=
  w - w / 2 ^ (4 * (node % 16)) % 2 ^ 4 * 2 ^ (4 * (node % 16)) + v % 8 % 2 ^ 4 * 2 ^ (4 * (node % 16))

theorem routeWordWith_lt {w : Nat} (hw : w < 2 ^ 64) (node v : Nat) : routeWordWith w node v < 2 ^ 64 := by
  refine Nat.lt_pow_two_of_testBit _ fun i hi => ?_
  rw [routeWordWith, testBit_replace, if_neg (by omega)]
  exact Nat.testBit_eq_false_of_lt (Nat.lt_of_lt_of_le hw (Nat.pow_le_pow_right (by decide) hi))

theorem State.setRoute_eq (s : State) (die cl node v : Nat) : s.setRoute die cl node v =
    s.set F.MESH_ROUTE_ENTRIES (48 * die + cl) (routeWordWith (s.routeWord die cl (node / 16)) node v ^^^ defaultRouteWord cl (node / 16)) (node / 16) := by
  have hv : v % 8 % 2 ^ 4 = v % 8 := Nat.mod_eq_of_lt (by omega)
  unfold routeWordWith
  rw [hv]
  rfl

/-- The word of the entry is written, every other word stays. -/
theorem State.setRoute_routeWord (s : State) (die cl node v x q : Nat) : (s.setRoute die cl node v).routeWord die x q =
    if x = cl ∧ q = node / 16 then routeWordWith (s.routeWord die cl (node / 16)) node v else s.routeWord die x q := by
  rw [State.setRoute_eq]
  unfold State.routeWord
  split
  · next h =>
    obtain ⟨rfl, rfl⟩ := h
    have hlt : routeWordWith (s.routeWord die x (node / 16)) node v ^^^ defaultRouteWord x (node / 16) < 2 ^ 64 :=
      Nat.xor_lt_two_pow (routeWordWith_lt (s.routeWord_lt ..) ..) (defaultRouteWord_lt ..)
    have hget := State.get_set_same s F.MESH_ROUTE_ENTRIES (48 * die + x) (node / 16)
      (routeWordWith (s.routeWord die x (node / 16)) node v ^^^ defaultRouteWord x (node / 16)) (by decide)
    rw [show F.MESH_ROUTE_ENTRIES.width = 64 from rfl, Nat.mod_eq_of_lt hlt] at hget
    refine (congrArg (fun w => Nat.xor w (defaultRouteWord x (node / 16))) hget).trans ?_
    exact Nat.xor_xor_cancel_right ..
  · next h =>
    have hk : (⟨.MESH_ROUTE, 48 * die + x, q⟩ : RKey) ≠ ⟨.MESH_ROUTE, 48 * die + cl, node / 16⟩ := fun e => by
      simp only [RKey.mk.injEq, true_and] at e
      exact h ⟨by omega, e.2⟩
    exact congrArg (fun w => Nat.xor (F.MESH_ROUTE_ENTRIES.of w) (defaultRouteWord x q)) (State.rd_set_other _ _ _ _ _ _ hk)

/-- Setting an entry sets it, and no other. -/
theorem State.route_setRoute (s : State) (die cl node x n : Nat) {v : Nat} (hv : v < 8) :
    (s.setRoute die cl node v).route die x n = if x = cl ∧ n = node then v else s.route die x n := by
  unfold State.route
  rw [State.setRoute_routeWord]
  by_cases hq : x = cl ∧ n / 16 = node / 16
  · obtain ⟨rfl, hq⟩ := hq
    rw [if_pos ⟨rfl, hq⟩, ← hq]
    refine Nat.eq_of_testBit_eq fun i => ?_
    rw [apply_ite (fun y => Nat.testBit y i)]
    simp only [show (8 : Nat) = 2 ^ 3 by rfl, Nat.testBit_mod_two_pow, Nat.testBit_div_two_pow, routeWordWith, testBit_replace, true_and]
    by_cases hn : n = node
    · subst hn
      have hbit : 3 ≤ i → v.testBit i = false := fun h =>
        Nat.testBit_eq_false_of_lt (Nat.lt_of_lt_of_le hv (Nat.pow_le_pow_right (n := 2) (i := 3) (by decide) h))
      by_cases hi : i < 3
      · simp only [hi, decide_true, Bool.true_and, if_true, Nat.add_sub_cancel]
        rw [if_pos (by omega)]
      · simp only [hi, decide_false, Bool.false_and, if_true]
        exact (hbit (by omega)).symm
    · rw [if_neg hn]
      by_cases hi : i < 3
      · rw [if_neg (by omega)]
      · simp only [hi, decide_false, Bool.false_and]
  · rw [if_neg hq, if_neg (fun h => hq ⟨h.1, by rw [h.2]⟩)]

/-! ### West-first tables (R319) -/

theorem ensRound_ports {dead : List Nat} {t : List (Nat × Nat)} (h : ∀ p ∈ t, p.2 < 8) : ∀ p ∈ ensRound dead t, p.2 < 8 := by
  intro p hp
  unfold ensRound at hp
  rcases List.mem_append.mp hp with hp | hp
  · exact h p hp
  · obtain ⟨x, -, hx⟩ := List.mem_filterMap.mp hp
    split at hx
    · cases hx
    · obtain ⟨port, hport, rfl⟩ := Option.map_eq_some_iff.mp hx
      have hmem := List.mem_of_find?_eq_some hport
      simp only [List.mem_cons, List.not_mem_nil, or_false] at hmem
      show port < 8
      omega

theorem ensTable_ports (dead : List Nat) (dr : Nat) : ∀ p ∈ ensTable dead dr, p.2 < 8 := by
  unfold ensTable
  split
  · simp
  · exact List.foldlRecOn (motive := fun t : List (Nat × Nat) => ∀ p ∈ t, p.2 < 8) _ _ (by simp) fun t ht _ _ => ensRound_ports ht

theorem westFirst_lt (dead : List Nat) (dr x node : Nat) : westFirst dead (ensTable dead dr) x node < 8 := by
  unfold westFirst
  split
  · decide
  · split
    · split
      · decide
      · exact stationPort_lt node
    · split
      · next p hp => exact ensTable_ports dead dr p (List.mem_of_find?_eq_some hp)
      · split <;> decide

/-- The router at which a node stands. -/
def nodeRouter (node : Nat) : Nat := nodeRow node * 8 + nodeCol node

theorem nodeRouter_lt : ∀ node < 0x58, nodeRouter node < 48 := by decide

/-! ### Rewriting the routes of a die (R319) -/

/-- The west-first entry of a router for a node. -/
def State.newRoute (s : State) (die x node : Nat) : Nat := westFirst (s.deadRouters die) (ensTable (s.deadRouters die) (nodeRouter node)) x node

/-- One entry rewritten. -/
def State.rerouteEntry (s : State) (die x node e : Nat) : State := if s.route die x node = e then s else s.setRoute die x node e

theorem State.rerouteEntry_route (s : State) (die x node x' node' : Nat) {e : Nat} (he : e < 8) :
    (s.rerouteEntry die x node e).route die x' node' = if x' = x ∧ node' = node then e else s.route die x' node' := by
  unfold State.rerouteEntry
  split
  · next h =>
    split
    · next h' => rw [h'.1, h'.2, h]
    · rfl
  · exact s.route_setRoute die x node x' node' he

theorem State.rerouteEntry_frame (s : State) (die x node e : Nat) :
    RegFrame [.MESH_ROUTE] s (s.rerouteEntry die x node e) ∧ Local s (s.rerouteEntry die x node e) := by
  unfold State.rerouteEntry
  split
  · exact ⟨.refl s, .refl s⟩
  · exact ⟨.set _ _ _ _ _ (by decide), .set ..⟩

theorem State.reroute_eq (s : State) (die : Nat) : s.reroute die = (List.range 48).foldl (fun u dr =>
    ((List.range 0x58).filter (fun n => decide (nodeRouter n = dr))).foldl (fun u node =>
      (List.range 48).foldl (fun u x => u.rerouteEntry die x node (westFirst (s.deadRouters die) (ensTable (s.deadRouters die) dr) x node)) u) u) s := rfl

/-- Changes of registers that leave all but those of the list. -/
def RegsMoved (l : List Reg) (s t : State) : Prop := RegFrame l s t ∧ Local s t

theorem RegsMoved.refl {l : List Reg} (s : State) : RegsMoved l s s := ⟨.refl s, .refl s⟩
theorem RegsMoved.trans {l : List Reg} {s t u : State} (h : RegsMoved l s t) (g : RegsMoved l t u) : RegsMoved l s u :=
  ⟨RegFrame.trans h.1 g.1, Local.trans h.2 g.2⟩
theorem RegsMoved.foldl {α : Type} {l : List Reg} {g : State → α → State} (hg : ∀ u a, RegsMoved l u (g u a)) (as : List α) (s : State) :
    RegsMoved l s (as.foldl g s) := List.foldlRecOn as g (RegsMoved.refl s) fun u hu a _ => hu.trans (hg u a)

theorem State.reroute_moved (s : State) (die : Nat) : RegsMoved [.MESH_ROUTE] s (s.reroute die) := by
  rw [State.reroute_eq]
  exact .foldl (fun u dr => .foldl (fun u node => .foldl (fun u x => u.rerouteEntry_frame die x node _) _ u) _ u) _ s

/-- Every entry of the die's tables is the west-first one. -/
theorem State.reroute_route (s : State) (die : Nat) {x node : Nat} (hx : x < 48) (hnode : node < 0x58) :
    (s.reroute die).route die x node = s.newRoute die x node := by
  have keep (dr : Nat) (u : State) (n : Nat) (hn : n ∈ (List.range 0x58).filter (fun n => decide (nodeRouter n = dr)))
      (hu : u.route die x node = s.newRoute die x node) :
      ((List.range 48).foldl (fun u y => u.rerouteEntry die y n (westFirst (s.deadRouters die) (ensTable (s.deadRouters die) dr) y n)) u).route die x node =
        s.newRoute die x node := by
    have hdr : nodeRouter n = dr := by simpa using (List.mem_filter.mp hn).2
    refine List.foldlRecOn (motive := fun u : State => u.route die x node = s.newRoute die x node) _ _ hu fun u hu y _ => ?_
    rw [State.rerouteEntry_route _ _ _ _ _ _ (westFirst_lt ..)]
    split
    · next h =>
      obtain ⟨rfl, rfl⟩ := h
      rw [← hdr]
      rfl
    · exact hu
  rw [State.reroute_eq]
  refine foldl_reaches (P := fun u : State => u.route die x node = s.newRoute die x node) (List.mem_range.mpr (nodeRouter_lt node hnode))
    (fun u => ?_) (fun u dr _ hu =>
      List.foldlRecOn (motive := fun v : State => v.route die x node = s.newRoute die x node) _ _ hu fun v hv n hn => keep dr v n hn hv) s
  refine foldl_reaches (P := fun u : State => u.route die x node = s.newRoute die x node)
    (List.mem_filter.mpr ⟨List.mem_range.mpr hnode, decide_eq_true rfl⟩) (fun u => ?_) (fun u n hn hu => keep _ u n hn hu) u
  refine foldl_reaches (P := fun u : State => u.route die x node = s.newRoute die x node) (List.mem_range.mpr hx) (fun u => ?_) (fun u y _ hu => ?_) u
  · rw [State.rerouteEntry_route _ _ _ _ _ _ (westFirst_lt ..), if_pos ⟨rfl, rfl⟩]
    rfl
  · rw [State.rerouteEntry_route _ _ _ _ _ _ (westFirst_lt ..)]
    split
    · next h => rw [h.1]; rfl
    · exact hu

/-- A branch of a router's multicast entry is cut. -/
def State.mcCut (s : State) (die g n q : Nat) : State :=
  let b := s.get F.MESH_MC_BRANCH (48 * die + n) g
  if bitOf b q then s.set F.MESH_MC_BRANCH (48 * die + n) (b - 2 ^ q) g else s

/-- The entry of a stopped router is void, and its neighbours' branches toward it are cut. -/
def State.pruneEntry (s : State) (die cl g : Nat) : State :=
  let s := if s.get F.MESH_MC_VALID (48 * die + cl) g = 1 then s.wr ⟨.MESH_MC, 48 * die + cl, g⟩ 0 else s
  let s := if 8 ≤ cl then s.mcCut die g (cl - 8) 3 else s
  let s := if cl < 40 then s.mcCut die g (cl + 8) 1 else s
  let s := if cl % 8 ≠ 0 then s.mcCut die g (cl - 1) 2 else s
  if cl % 8 ≠ 7 then s.mcCut die g (cl + 1) 4 else s

theorem State.pruneMc_eq (s : State) (die : Nat) : s.pruneMc die = (List.range 48).foldl (fun s cl =>
    if !((s.router (48 * die + cl)).faulty) then s else (List.range 256).foldl (fun s g => s.pruneEntry die cl g) s) s := rfl

theorem State.mcCut_moved (s : State) (die g n q : Nat) : RegsMoved [.MESH_MC] s (s.mcCut die g n q) := by
  unfold State.mcCut
  dsimp only
  split
  · exact ⟨.set _ _ _ _ _ List.mem_cons_self, .set ..⟩
  · exact .refl s

theorem RegsMoved.ite {l : List Reg} {s t : State} {P : Prop} [Decidable P] (h : RegsMoved l s t) : RegsMoved l s (if P then t else s) := by
  split
  · exact h
  · exact .refl s

theorem State.pruneEntry_moved (s : State) (die cl g : Nat) : RegsMoved [.MESH_MC] s (s.pruneEntry die cl g) := by
  unfold State.pruneEntry
  extract_lets s1 s2 s3 s4
  have hvoid : RegsMoved [.MESH_MC] s (s.wr ⟨.MESH_MC, 48 * die + cl, g⟩ 0) := ⟨.wr _ _ _ List.mem_cons_self, .wr ..⟩
  have h1 : RegsMoved [.MESH_MC] s s1 := .ite hvoid
  have h2 : RegsMoved [.MESH_MC] s1 s2 := .ite (s1.mcCut_moved ..)
  have h3 : RegsMoved [.MESH_MC] s2 s3 := .ite (s2.mcCut_moved ..)
  have h4 : RegsMoved [.MESH_MC] s3 s4 := .ite (s3.mcCut_moved ..)
  exact (((h1.trans h2).trans h3).trans h4).trans (.ite (s4.mcCut_moved ..))

/-- Cutting branches toward stopped routers writes multicast entries alone. -/
theorem State.pruneMc_moved (s : State) (die : Nat) : RegsMoved [.MESH_MC] s (s.pruneMc die) := by
  rw [State.pruneMc_eq]
  refine .foldl (fun u cl => ?_) _ s
  split
  · exact .refl u
  · exact .foldl (fun u g => u.pruneEntry_moved die cl g) _ u

/-! ### Fencing (R176, R330) -/

/-- A bit set in a field reads 1, and every other bit stays. -/
theorem State.bit_setBit (s : State) {f : Field} (i b d : Nat) (hf : f.ok = true) (hd : d < f.width) :
    (s.setBit f i b true).bit f i d = (decide (d = b) || s.bit f i d) := by
  unfold State.bit State.setBit
  rw [State.sub_setSub s i b 1 _ d hf (by omega)]
  by_cases h : d = b
  · simp [h, b2n]
  · simp [h]

theorem corein_lt (c : Nat) : corein c < 16 := Nat.mod_lt _ (by decide)

/-- Fencing a core fences it and no other. -/
theorem State.fenced_fence (s : State) (c d : Nat) :
    (s.fence c).fenced d = (decide (cluInst d = cluInst c ∧ corein d = corein c) || s.fenced d) := by
  have hrest : (s.fence c).fenced d = (s.setBit F.CLU_FENCE_FENCED (cluInst c) (corein c) true).fenced d := by
    have hstate (u : State) : (u.ccState c 4).get F.CLU_FENCE_FENCED (cluInst d) = u.get F.CLU_FENCE_FENCED (cluInst d) :=
      (RegFrame.ccState (l := [.CC_STATE]) u c 4 List.mem_cons_self).get _ _ (by decide) rfl
    unfold State.fenced State.bit State.sub State.fence
    rw [State.modCore_get, hstate]
  rw [hrest]
  unfold State.fenced
  by_cases h : cluInst d = cluInst c
  · rw [h, State.bit_setBit s _ _ _ (by decide) (corein_lt d)]
    simp
  · have hk : (⟨.CLU_FENCE, cluInst d, 0⟩ : RKey) ≠ ⟨.CLU_FENCE, cluInst c, 0⟩ := fun e => h (congrArg RKey.inst e)
    have hget : (s.setBit F.CLU_FENCE_FENCED (cluInst c) (corein c) true).get F.CLU_FENCE_FENCED (cluInst d) = s.get F.CLU_FENCE_FENCED (cluInst d) :=
      congrArg F.CLU_FENCE_FENCED.of (State.rd_setSub_other _ _ _ _ _ _ hk)
    unfold State.bit State.sub
    simp [hget, h]

theorem State.fence_fences (s : State) (c : Nat) : (s.fence c).fenced c = true := by simp [State.fenced_fence]
theorem State.fence_keeps {s : State} (c : Nat) {d : Nat} (h : s.fenced d = true) : (s.fence c).fenced d = true := by simp [State.fenced_fence, h]

theorem cluInst_coreId {die cl n : Nat} (hcl : cl < 48) (hn : n < 16) :
    cluInst (coreId (48 * die + cl) n) = 48 * die + cl ∧ corein (coreId (48 * die + cl) n) = n := by
  unfold cluInst dieOf clusterOf corein coreId
  omega

/-- All cores of a cluster are fenced when every bit of its CLU_FENCE is set. -/
theorem State.fenced_cluster (s : State) {die cl : Nat} (hcl : cl < 48) :
    s.get F.CLU_FENCE_FENCED (48 * die + cl) = 0xFFFF ↔ ∀ n, n < 16 → s.fenced (coreId (48 * die + cl) n) = true := by
  have hbit (n : Nat) (hn : n < 16) : s.fenced (coreId (48 * die + cl) n) = (s.get F.CLU_FENCE_FENCED (48 * die + cl)).testBit n := by
    obtain ⟨h1, h2⟩ := cluInst_coreId hcl hn
    unfold State.fenced State.bit State.sub
    rw [h1, h2, Nat.mul_one, Nat.pow_one, Nat.testBit_eq_decide_div_mod_eq]
    rfl
  have hlt : s.get F.CLU_FENCE_FENCED (48 * die + cl) < 2 ^ 16 := s.get_lt F.CLU_FENCE_FENCED _ 0
  constructor
  · intro h n hn
    rw [hbit n hn, h, show (0xFFFF : Nat) = 2 ^ 16 - 1 by rfl, Nat.testBit_two_pow_sub_one, decide_eq_true hn]
  · intro h
    refine Nat.eq_of_testBit_eq fun n => ?_
    rw [show (0xFFFF : Nat) = 2 ^ 16 - 1 by rfl, Nat.testBit_two_pow_sub_one]
    by_cases hn : n < 16
    · rw [← hbit n hn, h n hn, decide_eq_true hn]
    · rw [decide_eq_false hn]
      exact Nat.testBit_eq_false_of_lt (Nat.lt_of_lt_of_le hlt (Nat.pow_le_pow_right (by decide) (by omega)))

/-- The cores of a router are fenced. -/
def State.fenceCores (s : State) (die cl : Nat) : State := (List.range 16).foldl (fun s n => s.fence (coreId (48 * die + cl) n)) s

/-- The cores of a stopped router are fenced, and the decision is recorded. -/
def State.fenceRouter (s : State) (die cl : Nat) : State :=
  (s.fenceCores die cl).logRec 3 Blk.MESH.code 0x603 (48 * die + cl) 0xFF 0
    (leBytes 4 (die * 2 ^ 16 + cl) ++ leBytes 4 0 ++ leBytes 4 (s.get F.ELOG_STATUS_NEXT_SEQ 0 - 1))

/-- Fences and what is recorded of them keep routers and stations. -/
structure FenceFrame (s t : State) : Prop where
  routers : t.routers = s.routers
  stq : t.stq = s.stq
  fenced : ∀ c, s.fenced c = true → t.fenced c = true

theorem FenceFrame.refl (s : State) : FenceFrame s s := ⟨rfl, rfl, fun _ h => h⟩
theorem FenceFrame.trans {s t u : State} (h : FenceFrame s t) (g : FenceFrame t u) : FenceFrame s u :=
  ⟨g.routers.trans h.routers, g.stq.trans h.stq, fun c hc => g.fenced c (h.fenced c hc)⟩
theorem FenceFrame.foldl {α : Type} {g : State → α → State} (hg : ∀ u a, FenceFrame u (g u a)) (l : List α) (s : State) : FenceFrame s (l.foldl g s) :=
  List.foldlRecOn l g (FenceFrame.refl s) fun u hu a _ => hu.trans (hg u a)

theorem FenceFrame.fence (s : State) (c : Nat) : FenceFrame s (s.fence c) :=
  ⟨by rw [s.fence_local c], by rw [s.fence_local c], fun _ h => State.fence_keeps c h⟩

theorem FenceFrame.of_moved {l : List Reg} {s t : State} (h : RegsMoved l s t) (hl : Reg.CLU_FENCE ∉ l) : FenceFrame s t := by
  obtain ⟨hregs, hlocal⟩ := h
  refine ⟨by rw [hlocal], by rw [hlocal], fun c hc => ?_⟩
  unfold State.fenced State.bit State.sub at hc ⊢
  rwa [hregs.get _ _ hl rfl]

theorem FenceFrame.of_quiet {s t : State} (h : Quiet s t) : FenceFrame s t := by
  refine ⟨by rw [h.rest], by rw [h.rest], fun c hc => ?_⟩
  unfold State.fenced State.bit State.sub at hc ⊢
  rwa [h.get _ _ _ rfl]

theorem State.fenceCores_fences (s : State) (die cl : Nat) : FenceFrame s (s.fenceCores die cl) ∧
    ∀ n, n < 16 → (s.fenceCores die cl).fenced (coreId (48 * die + cl) n) = true := by
  unfold State.fenceCores
  refine ⟨FenceFrame.foldl (g := fun s n => s.fence (coreId (48 * die + cl) n)) (fun u n => .fence u _) _ s, fun n hn => ?_⟩
  exact foldl_reaches (g := fun (s : State) n => s.fence (coreId (48 * die + cl) n)) (P := fun u : State => u.fenced (coreId (48 * die + cl) n) = true) (List.mem_range.mpr hn) (fun u => u.fence_fences _)
    (fun u m _ hu => State.fence_keeps _ hu) s

theorem State.fenceRouter_fences (s : State) (die cl : Nat) : FenceFrame s (s.fenceRouter die cl) ∧
    ∀ n, n < 16 → (s.fenceRouter die cl).fenced (coreId (48 * die + cl) n) = true := by
  obtain ⟨hframe, hfenced⟩ := s.fenceCores_fences die cl
  have hlog : FenceFrame (s.fenceCores die cl) (s.fenceRouter die cl) := by
    unfold State.fenceRouter
    exact .of_quiet (State.logRec_quiet ..)
  exact ⟨hframe.trans hlog, fun n hn => hlog.fenced _ (hfenced n hn)⟩

/-! ### The drain (R330 step 2) -/

/-- A router with its queues and its records emptied. -/
def RouterSt.emptied (r : RouterSt) : RouterSt := { r with inq := [], outq := [], comb := [], mc := [] }

/-- The drain empties the routers and stations of its die. -/
theorem State.dieDrain_empties (s : State) (die : Nat) : (∀ cl, cl < 48 → (s.dieDrain die).router (48 * die + cl) = (s.router (48 * die + cl)).emptied) ∧
    ∀ node, node < 0x58 → lookD [] (s.dieDrain die).stq (nodeKey die node) = [] := by
  unfold State.dieDrain
  extract_lets s1 s2
  have hrouters (cl : Nat) (hcl : cl < 48) : s1.router (48 * die + cl) = (s.router (48 * die + cl)).emptied := by
    refine foldl_reaches (P := fun u : State => u.router (48 * die + cl) = (s.router (48 * die + cl)).emptied) (List.mem_range.mpr hcl)
      (fun u => State.setRouter_same ..) (fun u x _ hu => ?_) s
    by_cases h : x = cl
    · rw [h]
      exact State.setRouter_same ..
    · exact (State.setRouter_other _ _ (by omega)).trans hu
  have hstations : s2.routers = s1.routers ∧ ∀ node, node < 0x58 → lookD [] s2.stq (nodeKey die node) = [] := by
    refine ⟨List.foldlRecOn (motive := fun u : State => u.routers = s1.routers) _ _ rfl fun u hu _ _ => hu, fun node hnode => ?_⟩
    refine foldl_reaches (P := fun u : State => lookD [] u.stq (nodeKey die node) = []) (List.mem_range.mpr hnode)
      (fun u => ?_) (fun u x _ hu => ?_) s1
    · exact lookD_putD_same natLt [] u.stq (nodeKey die node) []
    show lookD [] (putD natLt [] u.stq (nodeKey die x) []) (nodeKey die node) = []
    rw [lookD_putD]
    split
    · rfl
    · exact hu
  have hlocal : Local s2 (s.endingCores.foldl (fun s' c => (s'.modCore c CoreSt.forget).dmSettle c) s2) :=
    List.foldlRecOn _ _ (Local.refl s2) fun u hu c _ => hu.trans ((Local.modCore u c _).trans (CplFrame.dmSettle _ c).rest)
  clear_value s2 s1
  refine ⟨fun cl hcl => ?_, fun node hnode => ?_⟩
  · rw [← hrouters cl hcl, hlocal]
    unfold State.router
    rw [← hstations.1]
  · rw [hlocal]
    exact hstations.2 node hnode

/-! ### MESH_DRAIN_COMPLETE -/

/-- The routers of a die whose cores wait for their fence. -/
def State.unfencedRouters (s : State) (die : Nat) : List Nat :=
  (s.deadRouters die).filter (fun cl => decide (s.get F.CLU_FENCE_FENCED (48 * die + cl) ≠ 0xFFFF))

/-- The die after its drain and its fences. -/
def State.drained (s : State) (die : Nat) : State :=
  ((s.dieDrain die).unfencedRouters die).foldl (fun s cl => s.fenceRouter die cl) (s.dieDrain die)

theorem meshDrainComplete_rewrites {s : State} {die : Nat} (hdie : die < 2) (hpend : s.drainPending die = true) (hrest : s.dieRest die = 0) :
    exec (.meshDrainComplete die) s = .next (((s.drained die).reroute die).pruneMc die) := by
  show execMeshDrainComplete die s = _
  unfold execMeshDrainComplete
  rw [if_neg (by simp [hpend, hrest]; omega)]
  unfold State.drained State.unfencedRouters State.fenceRouter State.fenceCores
  with_reducible rfl

theorem State.drained_frame (s : State) (die : Nat) : FenceFrame (s.dieDrain die) (s.drained die) :=
  .foldl (fun u cl => (u.fenceRouter_fences die cl).1) _ _

theorem State.mem_deadRouters (s : State) (die cl : Nat) : cl ∈ s.deadRouters die ↔ cl < 48 ∧ (s.router (48 * die + cl)).faulty = true := by
  unfold State.deadRouters
  rw [List.mem_filter, List.mem_range]

/-- Every core of a stopped router is fenced. -/
theorem State.drained_fenced (s : State) {die cl n : Nat} (hcl : cl < 48) (hn : n < 16)
    (hf : ((s.dieDrain die).router (48 * die + cl)).faulty = true) : (s.drained die).fenced (coreId (48 * die + cl) n) = true := by
  by_cases hfull : (s.dieDrain die).get F.CLU_FENCE_FENCED (48 * die + cl) = 0xFFFF
  · exact (s.drained_frame die).fenced _ (((s.dieDrain die).fenced_cluster hcl).mp hfull n hn)
  · have hmem : cl ∈ (s.dieDrain die).unfencedRouters die :=
      List.mem_filter.mpr ⟨((s.dieDrain die).mem_deadRouters die cl).mpr ⟨hcl, hf⟩, decide_eq_true hfull⟩
    exact foldl_reaches (P := fun u : State => u.fenced (coreId (48 * die + cl) n) = true) hmem (fun u => (u.fenceRouter_fences die cl).2 n hn)
      (fun u c _ hu => (u.fenceRouter_fences die c).1.fenced _ hu) _

/-- The stopped routers of a die are the same in states with the same routers. -/
theorem State.deadRouters_congr {s t : State} {die : Nat} (h : ∀ cl, cl < 48 → (t.router (48 * die + cl)).faulty = (s.router (48 * die + cl)).faulty) :
    t.deadRouters die = s.deadRouters die := by
  unfold State.deadRouters
  exact List.filter_congr fun cl hcl => h cl (List.mem_range.mp hcl)

/-- A route is what its register holds. -/
theorem RegsMoved.route {l : List Reg} {s t : State} (h : RegsMoved l s t) (hl : Reg.MESH_ROUTE ∉ l) (die x node : Nat) :
    t.route die x node = s.route die x node := by
  unfold State.route State.routeWord
  rw [h.1.get _ _ hl rfl]

/-! ### The statement -/

/-- Settles O36: what stops a router (`State.routerFail_stops`), the sixteenth retry (`bridgeCrcRetry_counts`), and the end of the drain
(`State.dieDrain_empties`, `State.drained_fenced`, `State.reroute_route`). -/
theorem faultyRouters : Obligations.FaultyRouters := by
  unfold Obligations.FaultyRouters
  refine ⟨?fault, ?retry, ?drain⟩
  case fault =>
    intro s die cl port vc dnode kind hdie hcl hf i
    obtain ⟨hrouter, hothers, hecc, hmismatch, hlog, htasks⟩ :=
      State.routerFail_stops (port := port) (vc := vc) (dnode := dnode) hdie hcl hf (routerFaultCode_lt kind)
    refine ⟨s.routerFail die cl (routerFaultCode kind) port vc dnode, rfl, hrouter, hothers, fun h => hecc (by rw [h]; rfl),
      fun h => hmismatch (by rw [h]; rfl), hlog, fun k x htask hon hab hrun => ?_⟩
    obtain ⟨hending, hraised⟩ := htasks k x htask hon hab hrun
    exact ⟨hending, hraised⟩
  case retry =>
    intro s bridge lane hb hl n
    have hexec := bridgeCrcRetry_counts (s := s) hb hl
    refine ⟨fun hlt => ?_, fun hmany => ?_⟩
    · rw [if_pos hlt] at hexec
      exact ⟨_, hexec, rfl, s.laneRetried_count _⟩
    · rw [if_neg (by omega)] at hexec
      by_cases h0 : bridge = 0
      · rw [if_pos h0] at hexec hl
        refine ⟨_, hexec, fun _ => ?_, fun h => absurd h0 h⟩
        have hlane : lane / 2 < 48 := by omega
        have hnear := (State.routerFail_faulty (s := s.laneRetried (16 * bridge + lane)) (die := 0) (cl := lane / 2) (kind := 2) (port := 1) (vc := 0)
          (dnode := 0x50 + lane / 2) (by decide) hlane (by decide)).1
        obtain ⟨hfar, hkeep⟩ := State.routerFail_faulty (s := (s.laneRetried (16 * bridge + lane)).routerFail 0 (lane / 2) 2 1 0 (0x50 + lane / 2))
          (die := 1) (cl := lane / 2) (kind := 2) (port := 1) (vc := 0) (dnode := 0x50 + lane / 2) (by decide) hlane (by decide)
        rw [Nat.mul_zero, Nat.zero_add] at hnear
        exact ⟨hkeep _ hnear, hfar⟩
      · rw [if_neg h0] at hexec hl
        refine ⟨_, hexec, fun h => absurd h h0, fun _ => ?_⟩
        rw [Nat.add_assoc]
        exact (State.routerFail_faulty (by omega) (by omega) (by decide)).1
  case drain =>
    intro s die hdie hpend hrest
    obtain ⟨hempty, hstations⟩ := s.dieDrain_empties die
    have hdrained := s.drained_frame die
    have hreroute := (s.drained die).reroute_moved die
    have hprune := ((s.drained die).reroute die).pruneMc_moved die
    have hend := (FenceFrame.of_moved hreroute (by decide)).trans (.of_moved hprune (by decide))
    have hrouter (cl : Nat) (hcl : cl < 48) : (s.drained die).router (48 * die + cl) = (s.router (48 * die + cl)).emptied := by
      rw [← hempty cl hcl]
      unfold State.router
      rw [hdrained.routers]
    have hrouter' (cl : Nat) (hcl : cl < 48) :
        (((s.drained die).reroute die).pruneMc die).router (48 * die + cl) = (s.router (48 * die + cl)).emptied := by
      rw [← hrouter cl hcl]
      unfold State.router
      rw [hend.routers]
    have hfenced (cl n : Nat) (hcl : cl < 48) (hn : n < 16) (hf : (s.router (48 * die + cl)).faulty = true) :
        (((s.drained die).reroute die).pruneMc die).fenced (coreId (48 * die + cl) n) = true :=
      hend.fenced _ (s.drained_fenced hcl hn (by rw [hempty cl hcl]; exact hf))
    refine ⟨_, meshDrainComplete_rewrites hdie hpend hrest, ?_, fun cl hcl => ?_, fun node hnode => ?_, fun x node hx hnode => ?_⟩
    · refine List.any_eq_false.mpr fun cl hcl => ?_
      have hcl := List.mem_range.mp hcl
      rw [hrouter' cl hcl, Bool.and_eq_true, decide_eq_true_eq]
      rintro ⟨hf, hne⟩
      exact hne ((State.fenced_cluster _ hcl).mpr fun n hn => hfenced cl n hcl hn hf)
    · rw [hrouter' cl hcl]
      exact ⟨rfl, rfl, fun hf n hn => hfenced cl n hcl hn hf⟩
    · rw [hend.stq, hdrained.stq]
      exact hstations node hnode
    · rw [hprune.route (by decide), State.reroute_route _ _ hx hnode, State.newRoute, State.deadRouters_congr (s := s) (fun cl hcl => by rw [hrouter cl hcl]; rfl)]
      rfl

end Sys2Proof.Machine
end

section
/-! PROOFS. What a release of a barrier does at a member core (R356, R357, R366, R374, R375). -/

namespace Sys2Proof.Machine

open Sys2Proof

/-! ### A counter and its flags (R356, R357) -/

/-- A counter at the end of its range, with its flag and its event. -/
def State.ctrBound (s : State) (c k v : Nat) (f e : Field) : State := ((s.setCtr c k v).flagBit f c k).flag e c

/-- The sum of step 2, before any credit fault: it saturates with OVF. -/
def State.ctrSum (s : State) (c k n : Nat) : State :=
  if 0xFFFF < s.ctr c k + n then s.ctrBound c k 0xFFFF F.SU_FLAG_OVF F.SU_EVT_OVF else s.setCtr c k (s.ctr c k + n)

/-- The difference of step 4, before any credit fault: it stops at 0 with UNF. -/
def State.ctrDiff (s : State) (c k n : Nat) : State :=
  if n ≤ s.ctr c k then s.setCtr c k (s.ctr c k - n) else s.ctrBound c k 0 F.SU_FLAG_UNF F.SU_EVT_UNF

section
variable {s : State} {c k n : Nat} {f e : Field}

theorem RegFrame.ctrBound_setCtr (v : Nat) (hf : f.reg = .SU_FLAG) (he : e.reg = .SU_EVT) :
    RegFrame [.SU_FLAG, .SU_EVT] (s.setCtr c k v) (s.ctrBound c k v f e) :=
  (RegFrame.flagBit _ _ _ _ (by simp [hf])).trans (.flag _ _ _ _ (by simp [he]))

theorem State.ctrBound_ctr (v m : Nat) (hf : f.reg = .SU_FLAG) (he : e.reg = .SU_EVT) : (s.ctrBound c k v f e).ctr c m = (s.setCtr c k v).ctr c m :=
  (RegFrame.ctrBound_setCtr v hf he).get_ctr c m (by decide)

/-- The event of the bound is set. -/
theorem State.ctrBound_evt (v : Nat) (he : e.ok = true) (hw : 0 < e.width) : (s.ctrBound c k v f e).get e c = 1 := State.get_flag_same _ _ _ _ he hw

theorem State.bit_congr {s t : State} {f : Field} {c : Nat} (h : t.get f c = s.get f c) (k : Nat) : t.bit f c k = s.bit f c k := by
  unfold State.bit State.sub
  rw [h]

/-- So is the counter's bit of the flags. -/
theorem State.ctrBound_flag (v : Nat) (hf : f.ok = true) (hk : k < f.width) (hne : f.reg ≠ e.reg) : (s.ctrBound c k v f e).bit f c k = true := by
  have hflag : (s.ctrBound c k v f e).get f c = ((s.setCtr c k v).setBit f c k true).get f c :=
    congrArg f.of (State.rd_flag_other ((s.setCtr c k v).flagBit f c k) e c 0 (fun h => hne (congrArg RKey.reg h)))
  rw [State.bit_congr hflag, State.bit_setBit _ _ _ _ hf hk]
  simp

theorem State.ctr_setCtr (v m : Nat) : (s.setCtr c k v).ctr c m = if m = k then v % 2 ^ 16 else s.ctr c m := by
  split
  · next h => rw [h, State.ctr_setCtr_same]
  · next h => exact s.ctr_setCtr_other c v h

theorem State.ctrSum_ctr (m : Nat) : (s.ctrSum c k n).ctr c m = if m = k then min (s.ctr c k + n) 0xFFFF else s.ctr c m := by
  unfold State.ctrSum
  split
  · rw [State.ctrBound_ctr _ _ rfl rfl, State.ctr_setCtr, Nat.min_eq_right (by omega), Nat.mod_eq_of_lt (by decide)]
  · rw [State.ctr_setCtr, Nat.min_eq_left (by omega), Nat.mod_eq_of_lt (by omega)]

theorem State.ctrDiff_ctr (m : Nat) : (s.ctrDiff c k n).ctr c m = if m = k then s.ctr c k - n else s.ctr c m := by
  have hlt := s.ctr_lt c k
  unfold State.ctrDiff
  split
  · rw [State.ctr_setCtr, Nat.mod_eq_of_lt (by omega)]
  · rw [State.ctrBound_ctr _ _ rfl rfl, State.ctr_setCtr, Nat.sub_eq_zero_of_le (by omega), Nat.zero_mod]

/-- A bound, a sum and a difference write counters, flags and events of the SU alone. -/
theorem RegFrame.ctrBound (v : Nat) (hf : f.reg = .SU_FLAG) (he : e.reg = .SU_EVT) : RegFrame cplRegs s (s.ctrBound c k v f e) :=
  (RegFrame.setCtr ..).trans ((RegFrame.ctrBound_setCtr v hf he).weaken (by decide))

theorem RegFrame.ctrSum : RegFrame cplRegs s (s.ctrSum c k n) := by
  unfold State.ctrSum
  split
  · exact .ctrBound _ rfl rfl
  · exact .setCtr ..

theorem RegFrame.ctrDiff : RegFrame cplRegs s (s.ctrDiff c k n) := by
  unfold State.ctrDiff
  split
  · exact .setCtr ..
  · exact .ctrBound _ rfl rfl

theorem RegFrame.privChans {l : List Reg} {t : State} (h : RegFrame l s t) (hl : Reg.SU_CCH ∉ l) (d j : Nat) : t.privChans d j = s.privChans d j := by
  unfold State.privChans
  simp only [h.get (f := F.SU_CCH_EN) _ _ hl rfl, h.get (f := F.SU_CCH_PRIV) _ _ hl rfl, h.get (f := F.SU_CCH_CTR) _ _ hl rfl]

/-- An addition is the sum, and may raise a credit fault of a privileged channel (R373). -/
theorem State.ctrAdd_cases (s : State) (c k n id : Nat) : s.ctrAdd c k n id = (s.ctrSum c k n, false) ∨
    ∃ chan v, s.ctrAdd c k n id = ((s.ctrSum c k n).creditFault c 4 k chan v id, true) := by
  unfold State.ctrAdd
  extract_lets v t
  split
  · exact .inr ⟨_, _, rfl⟩
  · exact .inl rfl

theorem State.ctrAdd_unprivileged (id : Nat) (h : s.privChans c k = []) : s.ctrAdd c k n id = (s.ctrSum c k n, false) := by
  have hsum : (s.ctrSum c k n).privChans c k = [] := (RegFrame.ctrSum.privChans (by decide) c k).trans h
  unfold State.ctrSum State.ctrBound at hsum
  unfold State.ctrAdd
  extract_lets v t
  have ht : t.privChans c k = [] := hsum
  rw [ht]
  rfl

theorem State.ctrSub_unprivileged (id : Nat) (h : s.privChans c k = []) : s.ctrSub c k n id = (s.ctrDiff c k n, false) := by
  unfold State.ctrSub State.ctrDiff
  extract_lets v t
  have ht : t.privChans c k = [] := ((RegFrame.ctrBound 0 rfl rfl).privChans (by decide) c k).trans h
  rw [ht]
  split <;> rfl

end

/-- The registers that a credit fault writes. -/
theorem RegFrame.creditFault (s : State) (c reason ctr chan value id : Nat) :
    RegFrame [.SU_LOG, .SU_EVT, .CC_TASK_STATUS, .CC_STATE] s (s.creditFault c reason ctr chan value id) := by
  unfold State.creditFault
  refine ((RegFrame.trans ?_ (.flag _ _ _ _ (by decide))).trans (.raiseAbort _ _ _ (by decide) (by decide)))
  unfold State.suLog
  split
  · exact .refl s
  · exact .wr _ _ _ (show Reg.SU_LOG ∈ _ by decide)

/-- With or without a credit fault, the counter has taken the sum and the other counters stay. -/
theorem State.ctrAdd_ctr (s : State) (c k n id m : Nat) :
    (s.ctrAdd c k n id).1.ctr c m = if m = k then min (s.ctr c k + n) 0xFFFF else s.ctr c m := by
  rw [← State.ctrSum_ctr]
  rcases s.ctrAdd_cases c k n id with h | ⟨chan, v, h⟩
  · rw [h]
  · rw [h]
    exact (RegFrame.creditFault ..).get_ctr c m (by decide)

/-! ### The effect of a release (R366) -/

/-- What a release changes of its member core's counters and barrier slots. -/
structure Released (s t : State) (c slot : Nat) : Prop where
  arrived : t.get F.SU_BAR_ARRIVED c slot = 0
  gen : t.get F.SU_BAR_GEN c slot = (s.get F.SU_BAR_GEN c slot + 1) % 2 ^ 16
  ctr : t.ctr c (s.get F.SU_BAR_CTR c slot) = min (s.ctr c (s.get F.SU_BAR_CTR c slot) + 1) 0xFFFF
  ctrs : ∀ n, n ≠ s.get F.SU_BAR_CTR c slot → t.ctr c n = s.ctr c n
  slots : ∀ u, u ≠ slot → t.rd ⟨.SU_BAR, c, u⟩ = s.rd ⟨.SU_BAR, c, u⟩

/-- The counter has taken the release; the slot does not show it yet. -/
def State.releaseCounted (s : State) (c slot : Nat) : State := (s.ctrAdd c (s.get F.SU_BAR_CTR c slot) 1).1

/-- The slot is free for its next episode. -/
def State.slotTurned (s : State) (c slot : Nat) : State := (s.set F.SU_BAR_ARRIVED c 0 slot).addw F.SU_BAR_GEN c 1 slot

theorem State.releaseAt_eq (s : State) (c slot : Nat) :
    s.releaseAt c slot = ((s.releaseCounted c slot).slotTurned c slot).pmon .SU c 0x60 0 1 := rfl

theorem State.slotTurned_arrived (s : State) (c slot : Nat) : (s.slotTurned c slot).get F.SU_BAR_ARRIVED c slot = 0 := by
  unfold State.slotTurned State.addw
  rw [State.get_set_apart _ _ _ _ _ _ (by decide) (by decide) (by decide), State.get_set_same _ _ _ _ _ (by decide)]
  rfl

theorem State.slotTurned_gen (s : State) (c slot : Nat) : (s.slotTurned c slot).get F.SU_BAR_GEN c slot = (s.get F.SU_BAR_GEN c slot + 1) % 2 ^ 16 := by
  unfold State.slotTurned State.addw
  rw [State.get_set_same _ _ _ _ _ (by decide), State.get_set_apart _ _ _ _ _ _ (by decide) (by decide) (by decide)]
  rfl

theorem State.slotTurned_others (s : State) (c : Nat) {slot u : Nat} (h : u ≠ slot) : (s.slotTurned c slot).rd ⟨.SU_BAR, c, u⟩ = s.rd ⟨.SU_BAR, c, u⟩ := by
  have hk : (⟨.SU_BAR, c, u⟩ : RKey) ≠ ⟨.SU_BAR, c, slot⟩ := fun e => h (congrArg RKey.idx e)
  exact (State.rd_set_other _ _ _ _ _ _ hk).trans (State.rd_set_other _ _ _ _ _ _ hk)

theorem RegFrame.slotTurned (s : State) (c slot : Nat) : RegFrame [.SU_BAR] s (s.slotTurned c slot) :=
  (RegFrame.set _ _ _ _ _ (by decide)).trans (.set _ _ _ _ _ (by decide))

theorem RegFrame.releaseAt (s : State) (c slot : Nat) : RegFrame (.SU_BAR :: cplRegs) s (s.releaseAt c slot) := by
  rw [State.releaseAt_eq]
  exact (((RegFrame.ctrAdd ..).weaken (by decide)).trans ((RegFrame.slotTurned ..).weaken (by decide))).trans (.of_quiet (State.pmon_quiet ..))

theorem State.releaseAt_released (s : State) (c slot : Nat) : Released s (s.releaseAt c slot) c slot := by
  have hcounted : RegFrame cplRegs s (s.releaseCounted c slot) := .ctrAdd ..
  have hquiet := ((s.releaseCounted c slot).slotTurned c slot).pmon_quiet .SU c 0x60 0 1
  have hctr (n : Nat) : (s.releaseAt c slot).ctr c n = (s.releaseCounted c slot).ctr c n :=
    ((RegFrame.of_quiet (l := []) hquiet).get_ctr c n (by decide)).trans ((RegFrame.slotTurned ..).get_ctr c n (by decide))
  rw [State.releaseAt_eq] at hctr ⊢
  refine ⟨?_, ?_, ?_, fun n hn => ?_, fun u hu => ?_⟩
  · rw [hquiet.get _ _ _ rfl, State.slotTurned_arrived]
  · rw [hquiet.get _ _ _ rfl, State.slotTurned_gen, hcounted.get _ _ (by decide) rfl]
  · rw [hctr, State.releaseCounted, State.ctrAdd_ctr, if_pos rfl]
  · rw [hctr, State.releaseCounted, State.ctrAdd_ctr, if_neg hn]
  · rw [hquiet.regs _ rfl, State.slotTurned_others _ _ hu, hcounted.regs _ (show Reg.SU_BAR ∉ cplRegs by decide) rfl]

/-- Of its core's records a release changes what a credit fault's abort changes. -/
theorem AbortKeeps.releaseAt {α : Type} {π : CoreSt → α} (h : AbortKeeps π) (s : State) (c slot : Nat) :
    π ((s.releaseAt c slot).core c) = π (s.core c) := by
  rw [State.releaseAt_eq, (State.pmon_quiet ..).core]
  exact h.ctrAdd ..

theorem CoreSt.rels_kept : AbortKeeps CoreSt.rels := ⟨fun _ _ _ => rfl, fun _ _ _ => rfl⟩
theorem CoreSt.realign_kept : AbortKeeps CoreSt.realign := ⟨fun _ _ _ => rfl, fun _ _ _ => rfl⟩

/-! ### BARRIER_RELEASE -/

theorem barrierRelease_arrives {s : State} {c : Nat} {g : Sig} {more : List Sig} (hrels : (s.core c).rels = g :: more) (hdue : g.due ≤ s.now) :
    exec (.barrierRelease c) s = .next (if s.releaseDue c g = true then (s.modCore c (fun x => { x with rels := more })).releaseAt c g.slot
      else s.modCore c (fun x => { x with rels := more })) := by
  show execBarrierRelease c s = _
  unfold execBarrierRelease
  simp only [hrels, s.at_of_le _ hdue]
  rfl

/-! ### REALIGN_RELEASE (R374, R375) -/

/-- The channels that an RMASK names. -/
def rmaskChans (mask : Nat) : List Nat := (List.range 8).filter (fun n => bitOf mask n)

theorem rmaskChans_none : rmaskChans 0 = [] := by decide

theorem rmaskChans_one {n : Nat} (h : n < 8) : rmaskChans (2 ^ n) = [n] := by
  have hall : ∀ n < 8, rmaskChans (2 ^ n) = [n] := by decide
  exact hall n h

/-- A pending slot holds a signal for a counter of an enabled channel. -/
def State.realignHeld (s : State) (c : Nat) (chans : List Nat) : Bool :=
  (s.core c).slots.any (fun g => (chans.filter (fun n => decide (s.get F.SU_CCH_EN c n = 1))).any (fun n => decide (s.get F.SU_CCH_CTR c n = g.ctr)))

/-- The channels of a slot realigned, the release that waited for it taken. -/
def State.realigned (s : State) (c slot : Nat) (more : List Nat) : State :=
  (rmaskChans (s.get F.SU_BAR_RMASK c slot)).foldl (fun s n => s.realignChan c n) (s.modCore c (fun x => { x with realign := more }))

/-- A release that waits for its realignment acts when no slot holds a signal for its channels. -/
theorem realignRelease_acts {s : State} {c slot : Nat} {more : List Nat} (hin : (s.core c).sigIn = []) (hre : (s.core c).realign = slot :: more)
    (hfree : s.realignHeld c (rmaskChans (s.get F.SU_BAR_RMASK c slot)) = false) :
    exec (.realignRelease c) s = .next ((s.realigned c slot more).releaseAt c slot) := by
  unfold State.realignHeld rmaskChans at hfree
  show execRealignRelease c s = _
  unfold execRealignRelease
  simp only [hin, hre, hfree, Bool.false_eq_true, if_false]
  rfl

theorem realignRelease_without_channels {s : State} {c slot : Nat} {more : List Nat} (hin : (s.core c).sigIn = [])
    (hre : (s.core c).realign = slot :: more) (hmask : s.get F.SU_BAR_RMASK c slot = 0) :
    exec (.realignRelease c) s = .next ((s.modCore c (fun x => { x with realign := more })).releaseAt c slot) := by
  rw [realignRelease_acts hin hre (by rw [hmask, rmaskChans_none]; simp [State.realignHeld]), State.realigned, hmask, rmaskChans_none]
  rfl

/-- Settles O29: both ways of a release end in `State.releaseAt`, whose effect is `State.releaseAt_released`. -/
theorem barrierReleaseEffect : Obligations.BarrierReleaseEffect := by
  unfold Obligations.BarrierReleaseEffect
  extract_lets released
  have released_of {s u t : State} {c slot : Nat} (h : Released u t c slot) (hregs : u.regs = s.regs) : released s t c slot := by
    have hrd (k : RKey) : u.rd k = s.rd k := by unfold State.rd; rw [hregs]
    have hget (f : Field) (i j : Nat) : u.get f i j = s.get f i j := congrArg f.of (hrd _)
    have hctr (n : Nat) : u.ctr c n = s.ctr c n := hget ..
    obtain ⟨harrived, hgen, hsum, hothers, hslots⟩ := h
    simp only [hget, hctr, hrd] at hgen hsum hothers hslots
    exact ⟨harrived, hgen, hsum, fun n _ => hothers n, hslots⟩
  refine ⟨fun s c g more hrels hdue => ?wires, fun s c slot more hin hre hmask => ?signals⟩
  case wires =>
    have hexec := barrierRelease_arrives hrels hdue
    refine ⟨fun h => ?_, fun h => ?_⟩
    · rw [if_pos h] at hexec
      exact ⟨_, hexec, released_of (State.releaseAt_released ..) rfl, by rw [CoreSt.rels_kept.releaseAt, State.modCore_same]⟩
    · rw [if_neg (by simp [h])] at hexec
      exact ⟨_, hexec, rfl, rfl, by rw [State.modCore_same]⟩
  case signals =>
    exact ⟨_, realignRelease_without_channels hin hre hmask, released_of (State.releaseAt_released ..) rfl,
      by rw [CoreSt.realign_kept.releaseAt, State.modCore_same]⟩

end Sys2Proof.Machine
end

section
/-! PROOFS. Barriers at the nodes of the sync network, and realignment (R365, R367, R369, R375). -/

namespace Sys2Proof.Machine

open Sys2Proof

/-! ### Shares of a node -/

/-- The share that has been set reads back. -/
@[simp] theorem State.share_setShare (s : State) (n : SyncNode) (slot : Nat) (x : SlotSt) : (s.setShare n slot x).share n slot = x := by
  unfold State.share State.setShare
  dsimp only
  rw [State.setNode_same, lookD_putD_same]

/-- A node other than the one that is written keeps its shares. -/
theorem State.share_setNode_other (s : State) {n m : SyncNode} (k : NodeSt) (slot : Nat) (h : nodeNum m ≠ nodeNum n) :
    (s.setNode (nodeNum n) k).share m slot = s.share m slot := by
  unfold State.share
  rw [State.setNode_other _ _ h]

theorem State.setShare_node (s : State) (n : SyncNode) (slot : Nat) (x : SlotSt) :
    (s.setShare n slot x).node (nodeNum n) = { s.node (nodeNum n) with slots := putD natLt {} (s.node (nodeNum n)).slots slot x } := State.setNode_same ..

theorem State.setShare_node_other (s : State) {n : SyncNode} {k : Nat} (slot : Nat) (x : SlotSt) (h : k ≠ nodeNum n) :
    (s.setShare n slot x).node k = s.node k := State.setNode_other _ _ h

/-- A share with the same mask leaves every mask of the network as it was, also where two nodes bear one number. -/
theorem State.share_setShare_mask {s : State} {n : SyncNode} {slot : Nat} {x : SlotSt} (hx : x.mask = (s.share n slot).mask) (m : SyncNode) :
    ((s.setShare n slot x).share m slot).mask = (s.share m slot).mask := by
  by_cases h : nodeNum m = nodeNum n
  · have hm (u : State) : u.share m slot = u.share n slot := by unfold State.share; rw [h]
    rw [hm, hm, State.share_setShare, hx]
  · unfold State.share
    rw [State.setShare_node_other _ _ _ h]

/-- The next arrival word of a node taken from its inbox. -/
def State.arrivalTaken (s : State) (n : SyncNode) (more : List BarWord) : State :=
  s.setNode (nodeNum n) { s.node (nodeNum n) with inbox := more }

theorem State.arrivalTaken_share (s : State) (n m : SyncNode) (more : List BarWord) (slot : Nat) : (s.arrivalTaken n more).share m slot = s.share m slot := by
  unfold State.arrivalTaken State.share
  by_cases h : nodeNum m = nodeNum n
  · rw [h, State.setNode_same]
  · rw [State.setNode_other _ _ h]

/-! ### BARRIER_ARRIVAL (R365, R367) -/

/-- The next word at a node is due, and the share of its slot, which has not stopped, names its child. -/
structure Arrives (s : State) (n : SyncNode) (w : BarWord) (more : List BarWord) : Prop where
  next : (s.node (nodeNum n)).inbox = w :: more
  due : w.due ≤ s.now
  settled : s.cfgSettled n = true
  live : (s.share n w.slot).stopped = false
  child : bitOf (s.share n w.slot).mask w.child = true

/-- The word may not join the share: it is uncorrectable, or of another generation (R367). -/
def SlotSt.clashes (x : SlotSt) (w : BarWord) : Bool := w.ecc || (decide (x.got ≠ 0) && decide (w.gen ≠ x.gen))

/-- The share with the word of one more child. -/
def SlotSt.joined (x : SlotSt) (w : BarWord) : SlotSt :=
  { x with got := x.got + 2 ^ w.child, gen := w.gen, realign := (decide (x.got = 0) || x.realign) && w.realign,
           count := (if decide (x.got = 0) = true then 0 else x.count) + w.count, score := w.score }

/-- The share before the slot's next episode. -/
def SlotSt.emptied (x : SlotSt) : SlotSt := { x with got := 0, gen := 0, realign := true, count := 0, score := 0 }

/-- The word that a node sends on for a complete share. -/
def SlotSt.wordUp (x : SlotSt) (slot child due : Nat) : BarWord :=
  { child := child, slot := slot, gen := x.gen, realign := x.realign, count := x.count, score := x.score, due := due }

section
variable {s : State} {n : SyncNode} {w : BarWord} {more : List BarWord}

theorem Arrives.goes (h : Arrives s n w more) : ((s.share n w.slot).stopped || !(bitOf (s.share n w.slot).mask w.child)) = false := by
  simp [h.live, h.child]

/-- A word that clashes stops the slot. -/
theorem barrierArrival_stops (h : Arrives s n w more) (hclash : (s.share n w.slot).clashes w = true) :
    exec (.barrierArrival n) s = .next ((s.arrivalTaken n more).setShare n w.slot { s.share n w.slot with stopped := true }) := by
  have hat : (s.arrivalTaken n more).at_ w.due = s.arrivalTaken n more := State.at_of_le _ _ h.due
  have hshare := s.arrivalTaken_share n n more w.slot
  unfold State.arrivalTaken at hat hshare
  unfold SlotSt.clashes at hclash
  show execBarrierArrival n s = _
  unfold execBarrierArrival
  simp only [h.next, h.settled, hat, hshare, h.goes, hclash, Bool.not_true, Bool.false_eq_true, if_false, if_true]
  rfl

/-- A word that joins and leaves the share incomplete is kept. -/
theorem barrierArrival_joins (h : Arrives s n w more) (hclash : (s.share n w.slot).clashes w = false) (hfresh : bitOf (s.share n w.slot).got w.child = false)
    (hpart : (s.share n w.slot).got + 2 ^ w.child ≠ (s.share n w.slot).mask) :
    exec (.barrierArrival n) s = .next ((s.arrivalTaken n more).setShare n w.slot ((s.share n w.slot).joined w)) := by
  have hat : (s.arrivalTaken n more).at_ w.due = s.arrivalTaken n more := State.at_of_le _ _ h.due
  have hshare := s.arrivalTaken_share n n more w.slot
  unfold State.arrivalTaken at hat hshare
  unfold SlotSt.clashes at hclash
  show execBarrierArrival n s = _
  unfold execBarrierArrival
  simp only [h.next, h.settled, hat, hshare, h.goes, hclash, hfresh, Bool.not_true, Bool.false_eq_true, if_false]
  exact if_pos hpart

/-- The word taken, and the share of its slot empty again. -/
def State.shareEmptied (s : State) (n : SyncNode) (slot : Nat) (more : List BarWord) : State :=
  (s.arrivalTaken n more).setShare n slot (s.share n slot).emptied

theorem State.shareEmptied_mask (s : State) (n m : SyncNode) (slot : Nat) (more : List BarWord) :
    ((s.shareEmptied n slot more).share m slot).mask = (s.share m slot).mask := by
  unfold State.shareEmptied
  rw [State.share_setShare_mask (by rw [State.arrivalTaken_share]; rfl), State.arrivalTaken_share]

/-- A complete share is emptied; its node sends it up, or releases its members where the node above does not cover the slot. -/
theorem barrierArrival_completes (h : Arrives s n w more) (hclash : (s.share n w.slot).clashes w = false) (hfresh : bitOf (s.share n w.slot).got w.child = false)
    (hall : (s.share n w.slot).got + 2 ^ w.child = (s.share n w.slot).mask) {up : SyncNode} {child d : Nat} (hup : nodeUp n = some (up, child, d)) :
    exec (.barrierArrival n) s = .next (if (s.share up w.slot).mask = 0
      then (s.shareEmptied n w.slot more).release n w.slot s.now ((s.share n w.slot).joined w)
      else (s.shareEmptied n w.slot more).arrivalTo up (((s.share n w.slot).joined w).wordUp w.slot child (s.now + d))) := by
  have hat : (s.arrivalTaken n more).at_ w.due = s.arrivalTaken n more := State.at_of_le _ _ h.due
  have hshare := s.arrivalTaken_share n n more w.slot
  have hmask := s.shareEmptied_mask n up w.slot more
  unfold State.arrivalTaken at hat hshare
  unfold SlotSt.clashes at hclash
  show execBarrierArrival n s = _
  unfold execBarrierArrival
  simp only [h.next, h.settled, hat, hshare, h.goes, hclash, hfresh, hup, Bool.not_true, Bool.false_eq_true, if_false]
  rw [if_neg (not_not_intro hall)]
  by_cases hcover : (s.share up w.slot).mask = 0
  · rw [if_pos hcover]
    exact if_pos (hmask.trans hcover)
  · rw [if_neg hcover]
    exact if_neg (fun h0 => hcover (hmask.symm.trans h0))

end

theorem SlotSt.clashes_of {x : SlotSt} {w : BarWord} (h : w.ecc = true ∨ (x.got ≠ 0 ∧ w.gen ≠ x.gen)) : x.clashes w = true := by
  simpa [SlotSt.clashes] using h

theorem SlotSt.not_clashes {x : SlotSt} {w : BarWord} (hecc : w.ecc = false) (h : x.got = 0 ∨ w.gen = x.gen) : x.clashes w = false := by
  simp only [SlotSt.clashes, hecc, Bool.false_or, Bool.and_eq_false_iff, decide_eq_false_iff_not, not_not]
  exact h

/-! ### The release by wires (R365) -/

/-- The release word of a slot for a member core. -/
def releaseWord (n : SyncNode) (slot t gen c : Nat) : Sig :=
  { dcore := c, ctr := 0, inc := 0, win := 0, score := 0, bytes := 0, rchan := 0, mod := 0xFFFF, due := t + releaseTime n, rel := true, slot := slot, gen := gen }

/-- With one arrival that carries no REALIGN, every member gets its word by wire. -/
theorem State.release_wires (s : State) {n : SyncNode} {slot c : Nat} (t : Nat) {x : SlotSt} (hwire : x.realign = false) (hc : c ∈ s.members n slot) :
    releaseWord n slot t x.gen c ∈ ((s.release n slot t x).core c).rels := by
  unfold State.release
  refine foldl_reaches (P := fun u : State => releaseWord n slot t x.gen c ∈ (u.core c).rels) hc (fun u => ?_) (fun u d _ hu => ?_) s
  · simp only [hwire, Bool.false_eq_true, if_false, State.modCore_same]
    exact List.mem_append_right _ List.mem_cons_self
  · simp only [hwire, Bool.false_eq_true, if_false]
    by_cases hd : c = d
    · subst hd
      rw [State.modCore_same]
      exact List.mem_append_left _ hu
    · rwa [State.modCore_other _ _ hd]

theorem State.mem_clusterMembers {s : State} {d cl slot x : Nat} (hx : x < 16) (h : bitOf (s.share (.cluster d cl) slot).mask x = true) :
    d * 1024 + cl * 16 + x ∈ s.clusterMembers d cl slot :=
  List.mem_map_of_mem (List.mem_filter.mpr ⟨List.mem_range.mpr hx, h⟩)

/-! ### GEN_MISMATCH_REPORT (R367) -/

/-- A member core of a slot that a node has stopped is marked, and its task aborted. -/
def State.genFault (s : State) (c slot : Nat) : State :=
  (((s.set F.SU_BAR_FAULTED c 1 slot).flag F.SU_EVT_GEN_FAULT c).suLog c 5 0 0 slot 0 0 0).raiseAbort c 0x0C

/-- The member cores of a slot that are not yet marked. -/
def State.unmarked (s : State) (slot : Nat) : List Nat := (s.slotCores slot).filter (fun c => decide (s.get F.SU_BAR_FAULTED c slot = 0))

theorem genMismatchReport_reports {s : State} {slot : Nat} (h : s.stoppedNode slot = true) :
    exec (.genMismatchReport slot) s = .next ((s.unmarked slot).foldl (fun s c => s.genFault c slot) s) := by
  show execGenMismatchReport slot s = _
  unfold execGenMismatchReport
  rw [if_neg (by simp [h])]
  rfl

/-- What a core that has been marked shows. -/
structure GenFaulted (s : State) (c slot : Nat) : Prop where
  faulted : s.get F.SU_BAR_FAULTED c slot = 1
  evt : s.get F.SU_EVT_GEN_FAULT c = 1
  aborted : s.get F.CC_TASK_STATUS_ABORTED c = 1

/-- The record of a fault and the abort leave the core's marks. -/
theorem State.genFault_tail (u : State) (c slot : Nat) :
    RegFrame [.SU_LOG, .CC_TASK_STATUS, .CC_STATE] u ((u.suLog c 5 0 0 slot 0 0 0).raiseAbort c 0x0C) := by
  refine RegFrame.trans ?_ (.raiseAbort _ _ _ (by decide) (by decide))
  unfold State.suLog
  split
  · exact .refl u
  · exact .wr _ _ _ (show Reg.SU_LOG ∈ _ by decide)

theorem State.genFault_marks (s : State) (c slot : Nat) : GenFaulted (s.genFault c slot) c slot where
  faulted := by
    unfold State.genFault
    rw [(State.genFault_tail ..).get _ _ (by decide) rfl, (RegFrame.flag (l := [.SU_EVT]) _ _ _ _ (by decide)).get _ _ (by decide) rfl]
    exact State.get_set_same _ _ _ _ _ (by decide)
  evt := by
    unfold State.genFault
    rw [(State.genFault_tail ..).get _ _ (by decide) rfl]
    exact State.get_flag_same _ _ _ _ (by decide) (by decide)
  aborted := State.raiseAbort_raised ..

/-- The marks of another core are its own. -/
theorem State.genFault_other (s : State) {c d : Nat} (slot : Nat) (h : c ≠ d) (f : Field) (j : Nat) : (s.genFault d slot).get f c j = s.get f c j := by
  have hk (r : Reg) (i : Nat) : (⟨f.reg, c, j⟩ : RKey) ≠ ⟨r, d, i⟩ := fun e => h (congrArg RKey.inst e)
  have hlog (u : State) : (u.suLog d 5 0 0 slot 0 0 0).rd ⟨f.reg, c, j⟩ = u.rd ⟨f.reg, c, j⟩ := by
    unfold State.suLog
    split
    · rfl
    · exact State.rd_wr_other _ _ (hk _ _)
  refine congrArg f.of ?_
  unfold State.genFault
  rw [State.raiseAbort_rd_other _ _ h, hlog, State.rd_flag_other _ _ _ _ (hk _ _), State.rd_set_other _ _ _ _ _ _ (hk _ _)]

theorem GenFaulted.genFault {s : State} {c slot : Nat} (h : GenFaulted s c slot) (d : Nat) : GenFaulted (s.genFault d slot) c slot := by
  by_cases hd : c = d
  · subst hd
    exact State.genFault_marks ..
  · exact ⟨(s.genFault_other slot hd ..).trans h.faulted, (s.genFault_other slot hd ..).trans h.evt, (s.genFault_other slot hd ..).trans h.aborted⟩

theorem State.genFault_faulted {s : State} {c slot : Nat} (h : s.get F.SU_BAR_FAULTED c slot = 1) (d : Nat) :
    (s.genFault d slot).get F.SU_BAR_FAULTED c slot = 1 := by
  by_cases hd : c = d
  · subst hd
    exact (s.genFault_marks c slot).faulted
  · exact (s.genFault_other slot hd ..).trans h

/-- The report marks every core that was not marked, and every marked core stays marked. -/
theorem State.genFaults (s : State) {c slot : Nat} (hc : c ∈ s.slotCores slot) :
    let t := (s.unmarked slot).foldl (fun s c => s.genFault c slot) s
    t.get F.SU_BAR_FAULTED c slot = 1 ∧ (s.get F.SU_BAR_FAULTED c slot = 0 → GenFaulted t c slot) := by
  extract_lets t
  by_cases h : s.get F.SU_BAR_FAULTED c slot = 0
  · have hmarked : GenFaulted t c slot := foldl_reaches (P := fun u : State => GenFaulted u c slot) (List.mem_filter.mpr ⟨hc, decide_eq_true h⟩)
      (fun u => u.genFault_marks c slot) (fun u d _ hu => hu.genFault d) s
    exact ⟨hmarked.faulted, fun _ => hmarked⟩
  · have hlt : s.get F.SU_BAR_FAULTED c slot < 2 := s.get_lt F.SU_BAR_FAULTED c slot
    exact ⟨List.foldlRecOn (motive := fun u : State => u.get F.SU_BAR_FAULTED c slot = 1) _ _ (by omega) fun u hu d _ => State.genFault_faulted hu d,
      fun h0 => absurd h0 h⟩

/-! ### BARRIER_CONFIG (R369) -/

/-- The next configuration word taken at its node. -/
def State.cfgTaken (s : State) (n : SyncNode) (more : List Nat) : State := s.setNode (nodeNum n) { s.node (nodeNum n) with cfg := more }

theorem barrierConfig_applies {s : State} {n : SyncNode} {w : Nat} {more : List Nat} (hcfg : (s.node (nodeNum n)).cfg = w :: more) :
    exec (.barrierConfig n) s = .next ((s.cfgTaken n more).applyCfg n w) := by
  show execBarrierConfig n s = _
  unfold execBarrierConfig
  simp only [hcfg]
  rfl

theorem State.cfgTaken_setShare (s : State) (n : SyncNode) (more : List Nat) (slot : Nat) (x : SlotSt) :
    (((s.cfgTaken n more).setShare n slot x).node (nodeNum n)).cfg = more := by
  rw [State.setShare_node, State.cfgTaken, State.setNode_same]

/-! ### Realignment of a channel (R375) -/

section
variable {s : State} {c n : Nat}

/-- An ordinary channel whose counter has drifted is set to REST. -/
theorem State.realignChan_drifted (hen : s.get F.SU_CCH_EN c n = 1) (hpriv : s.get F.SU_CCH_PRIV c n = 0)
    (hdrift : s.ctr c (s.get F.SU_CCH_CTR c n) ≠ s.get F.SU_CCH_REST c n) :
    s.realignChan c n = ((s.setCtr c (s.get F.SU_CCH_CTR c n) (s.get F.SU_CCH_REST c n)).bump F.SU_CCH_DRIFT c 1 n).flag F.SU_EVT_DRIFT c := by
  unfold State.realignChan
  extract_lets k v rest
  rw [if_neg (by rw [hen]; exact not_or_intro (by decide) hdrift), if_pos hpriv]

theorem State.realignChan_level (h : s.ctr c (s.get F.SU_CCH_CTR c n) = s.get F.SU_CCH_REST c n) : s.realignChan c n = s := by
  unfold State.realignChan
  exact if_pos (.inr h)

/-- What realignment leaves of an ordinary channel: its counter at REST, a drift counted, the slots of barriers as they were. -/
theorem State.realignChan_aligns (hen : s.get F.SU_CCH_EN c n = 1) (hpriv : s.get F.SU_CCH_PRIV c n = 0) :
    (s.realignChan c n).ctr c (s.get F.SU_CCH_CTR c n) = s.get F.SU_CCH_REST c n ∧
      (s.ctr c (s.get F.SU_CCH_CTR c n) ≠ s.get F.SU_CCH_REST c n →
        (s.realignChan c n).get F.SU_CCH_DRIFT c n = min (s.get F.SU_CCH_DRIFT c n + 1) 0xFFFF) ∧
      (∀ slot, (s.realignChan c n).rd ⟨.SU_BAR, c, slot⟩ = s.rd ⟨.SU_BAR, c, slot⟩) := by
  by_cases hdrift : s.ctr c (s.get F.SU_CCH_CTR c n) = s.get F.SU_CCH_REST c n
  · rw [State.realignChan_level hdrift]
    exact ⟨hdrift, fun h => absurd hdrift h, fun _ => rfl⟩
  · rw [State.realignChan_drifted hen hpriv hdrift]
    generalize hk : s.get F.SU_CCH_CTR c n = k
    generalize hrest : s.get F.SU_CCH_REST c n = rest
    have hlt : rest < 2 ^ 16 := hrest ▸ s.get_lt F.SU_CCH_REST c n
    have hset : RegFrame cplRegs s (s.setCtr c k rest) := .setCtr ..
    have hbump (u : State) : RegFrame [.SU_CCH] u (u.bump F.SU_CCH_DRIFT c 1 n) := .bump _ _ _ _ _ (by decide)
    have hflag (u : State) : RegFrame [.SU_EVT] u (u.flag F.SU_EVT_DRIFT c) := .flag _ _ _ _ (by decide)
    refine ⟨?_, fun _ => ?_, fun slot => ?_⟩
    · rw [(hflag _).get_ctr c k (by decide), (hbump _).get_ctr c k (by decide), State.ctr_setCtr_same, Nat.mod_eq_of_lt hlt]
    · rw [(hflag _).get _ _ (by decide) rfl, State.get_bump_same _ _ _ _ _ (by decide), hset.get _ _ (by decide) rfl]
      rfl
    · rw [(hflag _).regs _ (show Reg.SU_BAR ∉ _ by decide) rfl, (hbump _).regs _ (show Reg.SU_BAR ∉ _ by decide) rfl,
        hset.regs _ (show Reg.SU_BAR ∉ cplRegs by decide) rfl]

end

/-! ### The statement -/

/-- Settles O30: a word at a node (`barrierArrival_stops`, `barrierArrival_joins`, `barrierArrival_completes` with `State.release_wires`), the report
of a mismatch (`State.genFaults`), a configuration word (`barrierConfig_applies`) and realignment (`State.realignChan_aligns`). -/
theorem barrierNodes : Obligations.BarrierNodes := by
  unfold Obligations.BarrierNodes
  refine ⟨?arrival, ?mismatch, ?config, ?realign⟩
  case arrival =>
    intro s n w more hnext hdue hsettled hlive hchild
    have harrives : Arrives s n w more := ⟨hnext, hdue, hsettled, hlive, hchild⟩
    refine ⟨fun hclash => ?stops, fun hecc hgen hfresh => ⟨fun hpart => ?joins, fun up child d hall hup hcover hne => ?forwards,
      fun d cl x hn hall hcover _ hw hx hmember => ?releases⟩⟩
    case stops => exact ⟨_, barrierArrival_stops harrives (SlotSt.clashes_of hclash), by rw [State.share_setShare], rfl, rfl⟩
    case joins =>
      refine ⟨_, barrierArrival_joins harrives (SlotSt.not_clashes hecc hgen) hfresh hpart, ?_, ?_, ?_, rfl, rfl⟩
      · rw [State.share_setShare]
        rfl
      · rw [State.share_setShare]
        rfl
      · rw [State.setShare_node, State.arrivalTaken, State.setNode_same]
    case forwards =>
      have hexec := barrierArrival_completes harrives (SlotSt.not_clashes hecc hgen) hfresh hall hup
      rw [if_neg hcover] at hexec
      refine ⟨_, ((s.share n w.slot).joined w).wordUp w.slot child (s.now + d), hexec, ?_, ?_, rfl, rfl, rfl, rfl, rfl⟩
      · rw [State.arrivalTo, State.share_setNode_other _ _ _ hne.symm, State.shareEmptied, State.share_setShare]
        rfl
      · rw [State.arrivalTo, State.setNode_same, State.shareEmptied, State.setShare_node_other _ _ _ hne, State.arrivalTaken, State.setNode_other _ _ hne]
    case releases =>
      subst hn
      have hexec := barrierArrival_completes harrives (SlotSt.not_clashes hecc hgen) hfresh hall rfl
      rw [if_pos hcover] at hexec
      have hwire : ((s.share (.cluster d cl) w.slot).joined w).realign = false := by simp [SlotSt.joined, hw]
      refine ⟨_, _, hexec, State.release_wires _ _ hwire (State.mem_clusterMembers hx ?_), rfl, rfl, rfl⟩
      rw [State.shareEmptied_mask]
      exact hmember
  case mismatch =>
    intro s slot hstopped
    refine ⟨_, genMismatchReport_reports hstopped, fun c hc => ?_⟩
    obtain ⟨hfaulted, hmarked⟩ := s.genFaults hc
    exact ⟨hfaulted, fun h => ⟨(hmarked h).evt, (hmarked h).aborted⟩⟩
  case config =>
    intro s n w more hcfg
    have hexec := barrierConfig_applies hcfg
    unfold State.applyCfg at hexec
    refine ⟨fun hop => ?_, fun hop => ?_⟩ <;>
    · simp only [hop] at hexec
      exact ⟨_, hexec, by rw [State.share_setShare], State.cfgTaken_setShare .., rfl, rfl⟩
  case realign =>
    intro s c slot n more hin hre hn hmask hen hpriv hfree hctr
    have hchans : rmaskChans (s.get F.SU_BAR_RMASK c slot) = [n] := by rw [hmask, rmaskChans_one hn]
    have hexec := realignRelease_acts hin hre (by rw [hchans]; simpa [State.realignHeld, hen] using hfree)
    rw [State.realigned, hchans] at hexec
    obtain ⟨hrest, hdrift, hslots⟩ := State.realignChan_aligns (s := s.modCore c (fun x => { x with realign := more })) (c := c) (n := n) hen hpriv
    have hreleased := State.releaseAt_released ((s.modCore c (fun x => { x with realign := more })).realignChan c n) c slot
    have hbarCtr : ((s.modCore c (fun x => { x with realign := more })).realignChan c n).get F.SU_BAR_CTR c slot = s.get F.SU_BAR_CTR c slot :=
      congrArg F.SU_BAR_CTR.of (hslots slot)
    refine ⟨_, hexec, (hreleased.ctrs _ (by rw [hbarCtr]; exact hctr)).trans hrest, hreleased.arrived, fun h => ?_⟩
    exact ((RegFrame.releaseAt ..).get _ _ (by decide) rfl).trans (hdrift h)

end Sys2Proof.Machine
end

section
/-! PROOFS. The commands of the SU (R334, R358 to R364). -/

namespace Sys2Proof.Machine

open Sys2Proof

/-! ### A command of the SU as it begins -/

/-- A head that passes a second test is ready under both. -/
theorem State.ready_and {s : State} {c p b : Nat} {e : Eng} {ok : Cmd → Bool} {q : QCmd} (h : s.ready c e ok = some (p, q, b)) (more : Cmd → Bool) :
    s.ready c e (fun k => ok k && more k) = if more q.cmd = true then some (p, q, b) else none := by
  unfold State.ready at h ⊢
  dsimp only at h ⊢
  split at h
  · next hrun =>
    rw [if_pos hrun]
    split at h
    · next r hr =>
      split at h
      · next hok =>
        cases h
        simp only [hok, Bool.true_and]
      · cases h
    · split at h
      · next p' q' hq =>
        split at h
        · next hok =>
          cases h
          simp only [hok, Bool.true_and]
        · cases h
      · cases h
  · cases h

/-- The SU has taken its next command in the present ACLK. -/
def State.suTaken (s : State) (c p : Nat) : State := s.begin_ c .su p s.now

section
variable (s : State) (c p : Nat)

theorem State.suTaken_eq : s.suTaken c p = s.modCore c (fun x => x.setEng .su ((x.eng .su).begun p s.now)) := s.begin_now c .su p
theorem State.suTaken_regs : (s.suTaken c p).regs = s.regs := rfl
theorem State.suTaken_get (f : Field) (i j : Nat) : (s.suTaken c p).get f i j = s.get f i j := rfl
theorem State.suTaken_ctr (n : Nat) : (s.suTaken c p).ctr c n = s.ctr c n := rfl
theorem State.suTaken_now : (s.suTaken c p).now = s.now := by rw [State.suTaken_eq, State.modCore_now]
theorem State.suTaken_core_other {d : Nat} (h : d ≠ c) : (s.suTaken c p).core d = s.core d := by rw [State.suTaken_eq, State.modCore_other _ _ h]

end

section
variable {s : State} {c p op : Nat} {q : QCmd}

/-- The SU begins a head with its opcode, and reports it with ILLEGAL when it fails the checks. -/
theorem State.suBegin_now (hready : s.ready c .su (fun k => decide (Cmd.opcode k = op)) = some (p, q, s.now)) (bad : Cmd → Bool)
    (run : Nat → QCmd → State → State) : s.suBegin c op bad run =
      if bad q.cmd = true then ((s.suTaken c p).evtIllegal c .su).endNow c .su q 3 else run s.now q (s.suTaken c p) :=
  State.beginHead_now (ok := fun _ k => decide (Cmd.opcode k = op)) s _ hready

/-! ### Completions of the SU -/

/-- The registers that a completion without DONE_EN may write. -/
def reportRegs : List Reg := [.CC_IRQ, .CC_TASK_STATUS, .CC_CMD_LOG, .CC_STATE]

theorem RegFrame.reports (u : State) (status : Nat) (hdone : Cmd.doneEn q.cmd = false) : RegFrame reportRegs u (u.complete c .su q status 0) :=
  .complete _ _ _ _ _ hdone (fun _ h => h)

/-- A command that ends with ILLEGAL sets the event and changes no counter. -/
theorem State.suIllegal (u : State) (hdone : Cmd.doneEn q.cmd = false) :
    let t := (u.evtIllegal c .su).endNow c .su q 3
    t.get F.SU_EVT_ILLEGAL c = 1 ∧ ∀ n, t.ctr c n = u.ctr c n := by
  have hreports : RegFrame reportRegs (u.evtIllegal c .su) ((u.evtIllegal c .su).endNow c .su q 3) := .reports _ _ hdone
  have hevt : RegFrame [.SU_EVT] u (u.evtIllegal c .su) := .flag _ _ _ _ (by decide)
  exact ⟨(hreports.get _ _ (by decide) rfl).trans (State.get_flag_same _ _ _ _ (by decide) (by decide)),
    fun n => (hreports.get_ctr c n (by decide)).trans (hevt.get_ctr c n (by decide))⟩

/-- The increment taken with the SU's own change does not come again. -/
theorem QCmd.noDone_doneEn (q : QCmd) : Cmd.doneEn q.noDone.cmd = false := by
  have hbit : BitVec.extractLsb' 31 1 (q.cmd &&& ~~~(BitVec.ofNat 512 (2 ^ 31))) = 0#1 := by
    refine BitVec.eq_of_getLsbD_eq fun i hi => ?_
    obtain rfl : i = 0 := by omega
    simp
  show ((BitVec.extractLsb' 31 1 (q.cmd &&& ~~~(BitVec.ofNat 512 (2 ^ 31)))).toNat == 1) = false
  rw [hbit]
  rfl

/-! ### SU_SET and SU_ADD (R358) -/

/-- The fields that SU_SET and SU_ADD check alike. -/
def suFormBad (k : Cmd) : Bool := Cmd.badHeader k || !(oneLoop k) || suRsv k

theorem suSet_begins (hready : s.ready c .su (fun k => decide (Cmd.opcode k = 0x40)) = some (p, q, s.now)) :
    exec (.suSet c) s = .next (if (suFormBad q.cmd || suSub q.cmd) = true then ((s.suTaken c p).evtIllegal c .su).endNow c .su q 3
      else ((s.suTaken c p).setCtr c (suCtr q.cmd) (suValue q.cmd)).endNow c .su q 0) :=
  congrArg Host.Outcome.next (State.suBegin_now hready _ _)

theorem suAdd_begins (hready : s.ready c .su (fun k => decide (Cmd.opcode k = 0x41)) = some (p, q, s.now)) (hform : suFormBad q.cmd = false)
    (hdone : Cmd.doneEn q.cmd = false) (hpriv : s.privChans c (suCtr q.cmd) = []) :
    exec (.suAdd c) s = .next ((if suSub q.cmd = true then (s.suTaken c p).ctrDiff c (suCtr q.cmd) (suValue q.cmd)
      else (s.suTaken c p).ctrSum c (suCtr q.cmd) (suValue q.cmd)).complete c .su q.noDone 0 0) := by
  have hpriv' : (s.suTaken c p).privChans c (suCtr q.cmd) = [] := hpriv
  show execSuAdd c s = _
  unfold execSuAdd
  rw [State.suBegin_now hready]
  unfold suFormBad at hform
  simp only [hform, hdone, State.doneAdd, State.ctrSub_unprivileged _ hpriv', State.ctrAdd_unprivileged _ hpriv', Bool.false_eq_true, false_and, if_false]
  split <;> rfl

end

/-! ### SU_SIGNAL (R334, R360) -/

/-- The signal of the first iteration of an SU_SIGNAL, issued in ACLK `b`. -/
def firstSignal (c : Nat) (k : Cmd) (b : Nat) : Sig :=
  { dcore := sgDcore k 0, ctr := Cmd.f k 18 4 0, inc := Cmd.f k 20 15 0, win := sgWin k, score := c, bytes := Cmd.f k 24 31 0,
    rchan := Cmd.f k 28 9 0, mod := 0xFFFF, due := b + sigTime c (sgDcore k 0) }

/-- One iteration to a core of this module sends one signal there. -/
theorem State.sgIters_one {u : State} {c b : Nat} {k : Cmd} (hok : u.sgBad k 0 = false) (hown : u.ownMod (sgMod k) = true) (hwin : sgWin k ≠ 8) :
    u.sgIters c k b 1 0 = (u.sigTo (firstSignal c k b), none) := by
  simp only [State.sgIters, State.sendSig, hok, hown, hwin, Bool.not_true, Bool.false_eq_true, if_false]
  rfl

/-- The state after an SU_SIGNAL of one iteration: its end falls due in two ACLK. -/
def State.signalled (u : State) (c : Nat) (q : QCmd) (b : Nat) : State :=
  (((u.sigTo (firstSignal c q.cmd b)).pmon .SU c 0x62 0 1).setEntry c .su (b + 2)).completeAt c .su q 0 (b + 2)

section
variable {s : State} {c p : Nat} {q : QCmd}

theorem suSignal_sends (hready : s.ready c .su (fun k => decide (Cmd.opcode k = 0x42)) = some (p, q, s.now)) (hheader : Cmd.badHeader q.cmd = false)
    (hrsv : sgRsv q.cmd = false) (hspec : s.specTask c = none) (hone : Cmd.iters q.cmd = 1) (hok : s.sgBad q.cmd 0 = false)
    (hown : s.ownMod (sgMod q.cmd) = true) (hwin : sgWin q.cmd ≠ 8) : exec (.suSignal c) s = .next ((s.suTaken c p).signalled c q s.now) := by
  have hsends := State.sgIters_one (u := s.suTaken c p) (c := c) (b := s.now) hok hown hwin
  show execSuSignal c s = _
  unfold execSuSignal
  rw [State.suBegin_now hready]
  simp only [hheader, hrsv, hspec, hone, hsends, Option.isSome_none, Bool.false_and, Bool.or_self, Bool.false_eq_true, if_false]
  rfl

/-- The signal stands behind those on their way to its core; counters and memory stay. -/
theorem State.signalled_effect (u : State) (b : Nat) (hother : sgDcore q.cmd 0 ≠ c) :
    ((u.signalled c q b).core (sgDcore q.cmd 0)).sigIn = (u.core (sgDcore q.cmd 0)).sigIn ++ [firstSignal c q.cmd b] ∧
      (∀ n, (u.signalled c q b).ctr c n = u.ctr c n) ∧ (u.signalled c q b).mem = u.mem := by
  have hpmon := (u.sigTo (firstSignal c q.cmd b)).pmon_quiet .SU c 0x62 0 1
  unfold State.signalled State.completeAt State.setEntry
  refine ⟨?_, fun n => ?_, ?_⟩
  · rw [State.modCore_other _ _ hother, State.modCore_other _ _ hother, hpmon.core, State.sigTo]
    exact congrArg CoreSt.sigIn (State.modCore_same ..)
  · unfold State.ctr
    rw [State.modCore_get, State.modCore_get]
    exact (RegFrame.of_quiet (l := []) hpmon).get_ctr c n (by decide)
  · rw [State.modCore_mem, State.modCore_mem, (State.pmon_local ..).mem]
    rfl

end

/-! ### SU_BARRIER (R361, R364) -/

/-- The arrival of a core at a slot, as its SU notes it. -/
def State.barNoted (u : State) (c slot : Nat) (k : Cmd) : State :=
  (((u.set F.SU_BAR_ARRIVED c 1 slot).set F.SU_BAR_CTR c (Cmd.f k 17 4 0) slot).set F.SU_BAR_REALIGN c (Cmd.f k 18 0 0) slot).set
    F.SU_BAR_RMASK c (Cmd.f k 19 7 0) slot

/-- The arrival noted, and its word sent. -/
def State.barArrived (u : State) (c slot b : Nat) (q : QCmd) : State :=
  (((u.barNoted c slot q.cmd).sendArrival c slot b).setEntry c .su (b + 1)).completeAt c .su q 0 (b + 1)

section
variable {s : State} {c p slot : Nat} {q : QCmd}

/-- What the fields of SU_BAR hold after an arrival: what the release needs, and the generation as it was. -/
theorem State.barNoted_fields (u : State) (k : Cmd) :
    (u.barNoted c slot k).get F.SU_BAR_ARRIVED c slot = 1 ∧ (u.barNoted c slot k).get F.SU_BAR_CTR c slot = Cmd.f k 17 4 0 ∧
      (u.barNoted c slot k).get F.SU_BAR_REALIGN c slot = Cmd.f k 18 0 0 ∧ (u.barNoted c slot k).get F.SU_BAR_RMASK c slot = Cmd.f k 19 7 0 ∧
      (u.barNoted c slot k).get F.SU_BAR_GEN c slot = u.get F.SU_BAR_GEN c slot := by
  have happart (v : State) {f g : Field} (x : Nat) (hf : f.ok = true) (hg : g.ok = true) (h : f.apart g = true) :
      (v.set f c x slot).get g c slot = v.get g c slot := State.get_set_apart _ _ _ _ _ _ hf hg h
  have hsame (v : State) {f : Field} {x : Nat} (hf : f.ok = true) (hx : x < 2 ^ f.width) : (v.set f c x slot).get f c slot = x :=
    (State.get_set_same _ _ _ _ _ hf).trans (Nat.mod_eq_of_lt hx)
  unfold State.barNoted
  refine ⟨?_, ?_, ?_, ?_, ?_⟩
  · rw [happart _ _ (by decide) (by decide) (by decide), happart _ _ (by decide) (by decide) (by decide),
      happart _ _ (by decide) (by decide) (by decide), hsame _ (by decide) (by decide)]
  · rw [happart _ _ (by decide) (by decide) (by decide), happart _ _ (by decide) (by decide) (by decide), hsame _ (by decide) (Cmd.f_lt k 17 4 0)]
  · rw [happart _ _ (by decide) (by decide) (by decide), hsame _ (by decide) (Cmd.f_lt k 18 0 0)]
  · rw [hsame _ (by decide) (Cmd.f_lt k 19 7 0)]
  · rw [happart _ _ (by decide) (by decide) (by decide), happart _ _ (by decide) (by decide) (by decide),
      happart _ _ (by decide) (by decide) (by decide), happart _ _ (by decide) (by decide) (by decide)]

theorem State.barArrived_get (u : State) (b : Nat) (f : Field) (i j : Nat) :
    (u.barArrived c slot b q).get f i j = (u.barNoted c slot q.cmd).get f i j := by
  unfold State.barArrived State.completeAt State.setEntry State.sendArrival State.arrivalTo
  rw [State.modCore_get, State.modCore_get, State.setNode_get]

/-- A legal head that does not wait for its slot begins. -/
theorem State.barReady (hready : s.ready c .su (fun k => decide (Cmd.opcode k = 0x43)) = some (p, q, s.now)) (hgo : s.barWaits c q.cmd = false) :
    s.ready c .su (fun k => decide (Cmd.opcode k = 0x43) && !(s.barWaits c k)) = some (p, q, s.now) := by
  rw [State.ready_and hready, if_pos (by simp [hgo])]

theorem suBarrier_arrives (hready : s.ready c .su (fun k => decide (Cmd.opcode k = 0x43)) = some (p, q, s.now)) (hform : barIllegal q.cmd = false)
    (hslot : s.gmap c (Cmd.f q.cmd 16 6 0) = some slot) (hmember : s.get F.SU_BAR_MEMBER c slot = 1) (harrived : s.get F.SU_BAR_ARRIVED c slot = 0) :
    exec (.suBarrier c) s = .next ((s.suTaken c p).barArrived c slot s.now q) := by
  have hgo : s.barWaits c q.cmd = false := by simp [State.barWaits, hslot, harrived]
  have hslot' : (s.suTaken c p).gmap c (Cmd.f q.cmd 16 6 0) = some slot := hslot
  have hmember' : (s.suTaken c p).get F.SU_BAR_MEMBER c slot = 1 := hmember
  unfold State.suTaken at hslot' hmember'
  show execSuBarrier c s = _
  unfold execSuBarrier
  rw [State.beginHead_now (ok := fun s k => decide (Cmd.opcode k = 0x43) && !(s.barWaits c k)) s _ (State.barReady hready hgo)]
  simp only [hform, hslot', hmember', Bool.false_eq_true, if_false]
  rfl

/-- While its core has arrived at the slot, it stays head. -/
theorem suBarrier_waits (hready : s.ready c .su (fun k => decide (Cmd.opcode k = 0x43)) = some (p, q, s.now)) (hform : barIllegal q.cmd = false)
    (hslot : s.gmap c (Cmd.f q.cmd 16 6 0) = some slot) (hmember : s.get F.SU_BAR_MEMBER c slot = 1) (harrived : s.get F.SU_BAR_ARRIVED c slot = 1) :
    exec (.suBarrier c) s = .next s := by
  have hwaits : s.barWaits c q.cmd = true := by simp [State.barWaits, hslot, hmember, harrived, hform]
  have hnone : s.ready c .su (fun k => decide (Cmd.opcode k = 0x43) && !(s.barWaits c k)) = none := by
    rw [State.ready_and hready, if_neg (by simp [hwaits])]
  show execSuBarrier c s = _
  unfold execSuBarrier State.beginHead
  simp only [hnone]

/-- Without a slot, or by a core that is no member of it, it is refused. -/
theorem suBarrier_refused (hready : s.ready c .su (fun k => decide (Cmd.opcode k = 0x43)) = some (p, q, s.now)) (hform : barIllegal q.cmd = false)
    (hno : s.gmap c (Cmd.f q.cmd 16 6 0) = none ∨ ∃ slot, s.gmap c (Cmd.f q.cmd 16 6 0) = some slot ∧ s.get F.SU_BAR_MEMBER c slot = 0) :
    ∃ reason slot, exec (.suBarrier c) s = .next ((s.suTaken c p).barRefused c q reason slot) := by
  have hgo : s.barWaits c q.cmd = false := by
    rcases hno with h | ⟨slot, h, hmember⟩
    · simp [State.barWaits, h]
    · simp [State.barWaits, h, hmember]
  have hexec : exec (.suBarrier c) s = _ := congrArg Host.Outcome.next
    (State.beginHead_now (ok := fun s k => decide (Cmd.opcode k = 0x43) && !(s.barWaits c k)) s _ (State.barReady hready hgo))
  rcases hno with h | ⟨slot, h, hmember⟩
  · have hslot : (s.begin_ c .su p s.now).gmap c (Cmd.f q.cmd 16 6 0) = none := h
    simp only [hform, hslot, Bool.false_eq_true, if_false] at hexec
    exact ⟨_, _, hexec⟩
  · have hslot : (s.begin_ c .su p s.now).gmap c (Cmd.f q.cmd 16 6 0) = some slot := h
    have hmember' : (s.begin_ c .su p s.now).get F.SU_BAR_MEMBER c slot = 0 := hmember
    simp only [hform, hslot, hmember', Bool.false_eq_true, if_false, if_true] at hexec
    exact ⟨_, _, hexec⟩

/-- A refusal sets its event and sends no word. -/
theorem State.barRefused_effect (u : State) (reason : Nat) (hdone : Cmd.doneEn q.cmd = false) :
    (u.barRefused c q reason slot).get F.SU_EVT_BAR_REFUSED c = 1 ∧ (u.barRefused c q reason slot).nodes = u.nodes := by
  have hlog (v : State) (group id : Nat) : RegFrame [.SU_LOG] v (v.suLog c reason 0 0 slot group 0 id) := by
    unfold State.suLog
    split
    · exact .refl v
    · exact .wr _ _ _ List.mem_cons_self
  unfold State.barRefused State.endNow
  refine ⟨?_, ?_⟩
  · rw [(RegFrame.reports _ _ hdone).get _ _ (by decide) rfl, (hlog ..).get _ _ (by decide) rfl]
    exact State.get_flag_same _ _ _ _ (by decide) (by decide)
  · have hlocal := (State.suLog_local (u.flag F.SU_EVT_BAR_REFUSED c) c reason 0 0 slot (Cmd.f q.cmd 16 6 0) 0 (Cmd.id q.cmd)).trans
      (State.complete_local _ c .su q 0xF 0)
    rw [hlocal]
    rfl

/-- The arrival word of a core, the last in the inbox of its cluster node. -/
theorem State.barArrived_word (u : State) (b : Nat) :
    ∃ w, ((u.barArrived c slot b q).node (nodeNum (.cluster (dieOf c) (clusterOf c)))).inbox =
        (u.node (nodeNum (.cluster (dieOf c) (clusterOf c)))).inbox ++ [w] ∧
      w.child = corein c ∧ w.slot = slot ∧ w.gen = u.get F.SU_BAR_GEN c slot ∧ w.count = 1 ∧ w.realign = decide (Cmd.f q.cmd 18 0 0 = 1) := by
  obtain ⟨-, -, hrealign, -, hgen⟩ := u.barNoted_fields (c := c) (slot := slot) q.cmd
  unfold State.barArrived State.completeAt State.setEntry State.sendArrival State.arrivalTo
  have hnode (k : Nat) : (u.barNoted c slot q.cmd).node k = u.node k := by
    unfold State.barNoted
    simp only [State.set_node_read]
  rw [State.modCore_node_read, State.modCore_node_read, State.setNode_same, hrealign, hgen, hnode]
  exact ⟨_, rfl, rfl, rfl, rfl, rfl, rfl⟩

end

/-! ### The statement -/

/-- Settles O28: SU_SET and SU_ADD (`suSet_begins`, `suAdd_begins`), SU_SIGNAL (`suSignal_sends`) and SU_BARRIER (`suBarrier_arrives`,
`suBarrier_waits`, `suBarrier_refused`). -/
theorem syncUnitCommands : Obligations.SyncUnitCommands := by
  unfold Obligations.SyncUnitCommands
  extract_lets head other
  have form_of {k : Cmd} (hheader : Cmd.badHeader k = false) (hloop : oneLoop k = true) (hrsv : suRsv k = false) : suFormBad k = false := by
    simp [suFormBad, hheader, hloop, hrsv]
  refine ⟨?set, ?add, ?signal, ?barrier⟩
  case set =>
    intro s c p q ⟨hready, hdone⟩
    have hexec := suSet_begins hready
    refine ⟨fun hheader hloop hrsv hsub => ?_, fun hbad => ?_⟩
    · have hreports := RegFrame.reports (c := c) ((s.suTaken c p).setCtr c (suCtr q.cmd) (suValue q.cmd)) 0 hdone
      rw [if_neg (by simp [form_of hheader hloop hrsv, hsub])] at hexec
      refine ⟨_, hexec, ?_, fun m _ hm => ?_, (State.complete_local ..).mem⟩
      · exact (hreports.get_ctr c _ (by decide)).trans ((State.ctr_setCtr_same ..).trans (Nat.mod_eq_of_lt (Cmd.f_lt q.cmd 18 15 0)))
      · exact (hreports.get_ctr c m (by decide)).trans (State.ctr_setCtr_other _ c _ hm)
    · rw [if_pos (by rcases hbad with h | h | h | h <;> simp [suFormBad, h])] at hexec
      obtain ⟨hevt, hctr⟩ := (s.suTaken c p).suIllegal (c := c) hdone
      exact ⟨_, hexec, hevt, fun n _ => hctr n⟩
  case add =>
    intro s c p q ⟨hready, hdone⟩ hheader hloop hrsv hpriv
    have hexec := suAdd_begins hready (form_of hheader hloop hrsv) hdone hpriv
    have hreports (u : State) : RegFrame reportRegs u (u.complete c .su q.noDone 0 0) := .reports _ _ q.noDone_doneEn
    have hk : suCtr q.cmd < 32 := Cmd.f_lt q.cmd 16 4 0
    have hsum (n : Nat) : (((s.suTaken c p).ctrSum c (suCtr q.cmd) (suValue q.cmd)).complete c .su q.noDone 0 0).ctr c n =
        if n = suCtr q.cmd then min (s.ctr c (suCtr q.cmd) + suValue q.cmd) 0xFFFF else s.ctr c n :=
      ((hreports _).get_ctr c n (by decide)).trans (State.ctrSum_ctr n)
    have hdiff (n : Nat) : (((s.suTaken c p).ctrDiff c (suCtr q.cmd) (suValue q.cmd)).complete c .su q.noDone 0 0).ctr c n =
        if n = suCtr q.cmd then s.ctr c (suCtr q.cmd) - suValue q.cmd else s.ctr c n :=
      ((hreports _).get_ctr c n (by decide)).trans (State.ctrDiff_ctr n)
    refine ⟨fun hsub hle => ?_, fun hsub hle => ?_, fun hsub hgt => ?_, fun hsub hlt => ?_⟩
    · rw [if_neg (by simp [hsub])] at hexec
      exact ⟨_, hexec, by rw [hsum, if_pos rfl, Nat.min_eq_left hle], fun m _ hm => by rw [hsum, if_neg hm]⟩
    · rw [if_pos hsub] at hexec
      exact ⟨_, hexec, by rw [hdiff, if_pos rfl], fun m _ hm => by rw [hdiff, if_neg hm]⟩
    · have hbound : (s.suTaken c p).ctrSum c (suCtr q.cmd) (suValue q.cmd) =
          (s.suTaken c p).ctrBound c (suCtr q.cmd) 0xFFFF F.SU_FLAG_OVF F.SU_EVT_OVF := if_pos hgt
      rw [if_neg (by simp [hsub])] at hexec
      refine ⟨_, hexec, by rw [hsum, if_pos rfl, Nat.min_eq_right (by omega)], ?_, ?_⟩
      · rw [hbound, (hreports _).get _ _ (by decide) rfl, State.ctrBound_evt _ (by decide) (by decide)]
      · rw [hbound, State.bit_congr ((hreports _).get _ _ (by decide) rfl), State.ctrBound_flag _ (by decide) hk (by decide)]
    · have hbound : (s.suTaken c p).ctrDiff c (suCtr q.cmd) (suValue q.cmd) =
          (s.suTaken c p).ctrBound c (suCtr q.cmd) 0 F.SU_FLAG_UNF F.SU_EVT_UNF := if_neg (Nat.not_le.mpr hlt)
      rw [if_pos hsub] at hexec
      refine ⟨_, hexec, by rw [hdiff, if_pos rfl, Nat.sub_eq_zero_of_le hlt.le], ?_, ?_⟩
      · rw [hbound, (hreports _).get _ _ (by decide) rfl, State.ctrBound_evt _ (by decide) (by decide)]
      · rw [hbound, State.bit_congr ((hreports _).get _ _ (by decide) rfl), State.ctrBound_flag _ (by decide) hk (by decide)]
  case signal =>
    intro s c p q ⟨hready, _⟩ hheader hrsv hspec hone hok hown hwin hother d
    obtain ⟨hsent, hctr, hmem⟩ := (s.suTaken c p).signalled_effect s.now hother
    exact ⟨_, firstSignal c q.cmd s.now, suSignal_sends hready hheader hrsv hspec hone hok hown hwin,
      by rw [hsent, State.suTaken_core_other _ _ _ hother], rfl, rfl, rfl, rfl, rfl, rfl, fun n _ => hctr n, hmem⟩
  case barrier =>
    intro s c p q ⟨hready, hdone⟩ hheader hloop hrsv
    have hform : barIllegal q.cmd = false := by simp [barIllegal, hheader, hloop, hrsv]
    refine ⟨fun slot hslot hmember harrived => ?_, fun slot hslot hmember harrived => suBarrier_waits hready hform hslot hmember harrived, fun hno => ?_⟩
    · obtain ⟨harrived', hctr, -, hmask, hgen⟩ := (s.suTaken c p).barNoted_fields (c := c) (slot := slot) q.cmd
      obtain ⟨w, hinbox, hword⟩ := (s.suTaken c p).barArrived_word (c := c) (slot := slot) (q := q) s.now
      simp only [← State.barArrived_get (q := q) _ s.now] at harrived' hctr hmask hgen
      exact ⟨_, w, suBarrier_arrives hready hform hslot hmember harrived, harrived', hctr, hmask, hgen, hinbox, hword⟩
    · obtain ⟨reason, slot, hexec⟩ := suBarrier_refused hready hform hno
      obtain ⟨hevt, hnodes⟩ := (s.suTaken c p).barRefused_effect (c := c) (slot := slot) (q := q) reason hdone
      exact ⟨_, hexec, hevt, hnodes⟩

end Sys2Proof.Machine
end

section
/-! PROOFS. The records of the links, fields read back after one write, and what a write of an event or a count leaves (R396, R429, R434). -/

namespace Sys2Proof.Machine

open Sys2Proof

/-! ### Fields read after a write of another register or of the same field -/

section
variable (s : State) {f g : Field} (i j i' j' : Nat)

theorem State.get_wr_reg (r : Reg) (v : Word) (h : g.reg ≠ r) : (s.wr ⟨r, i, j⟩ v).get g i' j' = s.get g i' j' :=
  congrArg g.of (s.rd_wr_other v (fun e => h (congrArg RKey.reg e)))

theorem State.get_flag_reg (h : g.reg ≠ f.reg) : (s.flag f i j).get g i' j' = s.get g i' j' :=
  s.get_set_reg f g i 1 j i' j' h

theorem State.get_bump_reg (n : Nat) (h : g.reg ≠ f.reg) : (s.bump f i n j).get g i' j' = s.get g i' j' :=
  s.get_set_reg f g i _ j i' j' h

theorem State.get_bump_apart (n : Nat) (hf : f.ok = true) (hg : g.ok = true) (h : f.apart g = true) :
    (s.bump f i n j).get g i' j' = s.get g i' j' := s.get_set_apart i _ j i' j' hf hg h

/-- A field that is written with a value it can hold has that value. -/
theorem State.get_set_fits (v : Nat) (hf : f.ok = true) (hv : v < 2 ^ f.width) : (s.set f i v j).get f i j = v := by
  rw [State.get_set_same _ _ _ _ _ hf, Nat.mod_eq_of_lt hv]
end

/-! ### Writes of registers and event bits alone -/

section
variable {l : List Reg} {s t : State}

theorem RegsMarked.wr (s : State) (k : RKey) (v : Word) (h : k.reg ∈ l) : RegsMarked l s (s.wr k v) :=
  ⟨rfl, fun _ hj => State.rd_wr_other s v (fun e => hj (e ▸ h))⟩
theorem RegsMarked.bump (s : State) (f : Field) (i n j : Nat) (h : f.reg ∈ l) : RegsMarked l s (s.bump f i n j) := .set s _ _ _ _ h
theorem RegsMarked.links (h : RegsMarked l s t) : t.links = s.links := by rw [h.rest]
theorem RegsMarked.link (h : RegsMarked l s t) (n : Nat) : t.link n = s.link n := by rw [State.link, h.links, State.link]
theorem RegsMarked.hubTags (h : RegsMarked l s t) : t.hubTags = s.hubTags := by rw [h.rest]
theorem RegsMarked.stq (h : RegsMarked l s t) : t.stq = s.stq := by rw [h.rest]
theorem RegsMarked.now (h : RegsMarked l s t) : t.now = s.now := by rw [h.rest]
theorem RegsMarked.out (h : RegsMarked l s t) : t.out = s.out := by rw [h.rest]
theorem RegsMarked.get (h : RegsMarked l s t) {f : Field} (i j : Nat) (hf : f.reg ∉ l) : t.get f i j = s.get f i j :=
  congrArg f.of (h.regs ⟨f.reg, i, j⟩ hf)

theorem RegsMarked.foldl {β : Type} (g : State → β → State) (hg : ∀ u a, RegsMarked l u (g u a)) (bs : List β) (s : State) :
    RegsMarked l s (bs.foldl g s) := by
  induction bs generalizing s with
  | nil => exact .refl s
  | cons a bs ih => exact (hg s a).trans (ih (g s a))
end

theorem RegsMarked.noteSet (s : State) (k : RKey) (m : Word) : RegsMarked l s (s.noteSet k m) := ⟨rfl, fun _ _ => rfl⟩
theorem RegsMarked.flagBit (s : State) (f : Field) (i n : Nat) (h : f.reg ∈ l) : RegsMarked l s (s.flagBit f i n) :=
  (RegsMarked.set s f i _ 0 h).trans (.noteSet ..)

/-- Performance events write the counters and their WRAP bits (R733). -/
theorem State.pmon_marked (s : State) (b : Blk) (unit ev sub n : Nat) : RegsMarked [.PMON_CNT, .PMON_WRAP] s (s.pmon b unit ev sub n) := by
  have hadd (u : State) (inst k m : Nat) : RegsMarked [.PMON_CNT, .PMON_WRAP] u (u.pmonAdd inst k m) := by
    unfold State.pmonAdd
    dsimp only
    split
    · exact ((RegsMarked.set u _ _ _ _ (by decide)).trans (.set _ _ _ _ _ (by decide))).trans (.flagBit _ _ _ _ (by decide))
    · exact .set u _ _ _ _ (by decide)
  unfold State.pmon
  split
  · exact .refl s
  · refine .foldl _ (fun u k => ?_) _ _
    split
    · exact hadd u _ k n
    · exact .refl u

/-! ### The record of a link -/

@[simp] theorem State.link_setLink_same (s : State) (n : Nat) (x : LinkSt) : (s.setLink n x).link n = x := lookD_putD_same ..
theorem State.link_setLink_other (s : State) {n m : Nat} (x : LinkSt) (h : m ≠ n) : (s.setLink n x).link m = s.link m :=
  lookD_putD_other _ _ _ _ _ h
@[simp] theorem State.link_modLink_same (s : State) (n : Nat) (g : LinkSt → LinkSt) : (s.modLink n g).link n = g (s.link n) :=
  s.link_setLink_same ..
theorem State.link_modLink_other (s : State) {n m : Nat} (g : LinkSt → LinkSt) (h : m ≠ n) : (s.modLink n g).link m = s.link m :=
  s.link_setLink_other _ h

/-- What a change of a link's record keeps of the record, it keeps of every link. -/
theorem State.link_modLink_field {A : Type} (s : State) (n m : Nat) (g : LinkSt → LinkSt) (π : LinkSt → A) (h : ∀ l, π (g l) = π l) :
    π ((s.modLink n g).link m) = π (s.link m) := by
  by_cases hm : m = n
  · rw [hm, s.link_modLink_same, h]
  · rw [s.link_modLink_other g hm]

@[simp] theorem State.setLink_get (s : State) (n : Nat) (x : LinkSt) (f : Field) (i j : Nat) : (s.setLink n x).get f i j = s.get f i j := rfl
@[simp] theorem State.modLink_get (s : State) (n : Nat) (g : LinkSt → LinkSt) (f : Field) (i j : Nat) : (s.modLink n g).get f i j = s.get f i j := rfl
@[simp] theorem State.set_link (s : State) (f : Field) (i v j n : Nat) : (s.set f i v j).link n = s.link n := rfl
@[simp] theorem State.wr_link (s : State) (k : RKey) (v : Word) (n : Nat) : (s.wr k v).link n = s.link n := rfl
@[simp] theorem State.flag_link (s : State) (f : Field) (i j n : Nat) : (s.flag f i j).link n = s.link n := rfl
@[simp] theorem State.bump_link (s : State) (f : Field) (i k j n : Nat) : (s.bump f i k j).link n = s.link n := rfl
@[simp] theorem State.flagIf_link (s : State) (b : Bool) (f : Field) (i j n : Nat) : (s.flagIf b f i j).link n = s.link n := by cases b <;> rfl

/-! ### Credits (R404, R407, R434) -/

theorem credField_reg (vc : Nat) : (credField vc).reg = .EVL_CRED := by unfold credField; split <;> rfl
theorem credField_ok (vc : Nat) : (credField vc).ok = true := by unfold credField; split <;> rfl
theorem credField_width (vc : Nat) : (credField vc).width = 16 := by unfold credField; split <;> rfl
/-- The credits of two VCs share no bit. -/
theorem credField_apart : ∀ a < 4, ∀ b < 4, a ≠ b → (credField a).apart (credField b) = true := by decide

section
variable (s : State) (n vc v : Nat)

/-- Setting credits writes their field, and a link's record. -/
theorem State.setCred_rest : s.setCred n vc v = { s.set (credField vc) n v with links := (s.setCred n vc v).links } := by
  unfold State.setCred
  dsimp only
  split
  · rfl
  · split <;> rfl

/-- Of a link's record, setting credits changes the time since which none are held. -/
theorem State.setCred_link (m : Nat) : (s.setCred n vc v).link m = { s.link m with zero := ((s.setCred n vc v).link m).zero } := by
  unfold State.setCred
  dsimp only
  split
  · by_cases h : m = n
    · rw [h, State.link_modLink_same]; rfl
    · rw [State.link_modLink_other _ _ h]; rfl
  · split
    · by_cases h : m = n
      · rw [h, State.link_modLink_same]; rfl
      · rw [State.link_modLink_other _ _ h]; rfl
    · rfl

theorem State.setCred_other {m : Nat} (h : m ≠ n) : (s.setCred n vc v).link m = s.link m := by
  unfold State.setCred
  dsimp only
  split
  · rw [State.link_modLink_other _ _ h]; rfl
  · split
    · rw [State.link_modLink_other _ _ h]; rfl
    · rfl

theorem State.setCred_get (f : Field) (i j : Nat) : (s.setCred n vc v).get f i j = (s.set (credField vc) n v).get f i j := by
  rw [State.setCred_rest]; rfl

theorem State.setCred_get_reg {f : Field} (i j : Nat) (h : f.reg ≠ .EVL_CRED) : (s.setCred n vc v).get f i j = s.get f i j := by
  rw [State.setCred_get, State.get_set_reg _ _ _ _ _ _ _ _ (credField_reg vc ▸ h)]

/-- The credits set are the credits held. -/
theorem State.setCred_get_same : (s.setCred n vc v).get (credField vc) n = v % 2 ^ 16 := by
  rw [State.setCred_get, State.get_set_same _ _ _ _ _ (credField_ok vc), credField_width]

theorem State.setCred_get_vc {b : Nat} (hvc : vc < 4) (hb : b < 4) (h : vc ≠ b) : (s.setCred n vc v).get (credField b) n = s.get (credField b) n := by
  rw [State.setCred_get, State.get_set_apart _ _ _ _ _ _ (credField_ok vc) (credField_ok b) (credField_apart vc hvc b hb h)]

theorem State.setCred_mem : (s.setCred n vc v).mem = s.mem := by rw [State.setCred_rest]; rfl
theorem State.setCred_out : (s.setCred n vc v).out = s.out := by rw [State.setCred_rest]; rfl
end

/-! ### What the hub does with packets of its own (R412 to R422): registers of the hub, streams of links that are up, tags, injections -/

/-- The registers in which the hub reports what it does with packets and tags. -/
def hubRegs : List Reg := [.EVL_COM_EVT, .EVL_DROP_CNT, .EVL_UNROUT_LOG, .EVL_TAGS]

/-- `t` follows `s` by work of the hub: reports, tags, packets injected into a die, and packets that join the streams of links that are
up. -/
structure HubFrame (s t : State) : Prop where
  rest : t = { s with regs := t.regs, evNow := t.evNow, links := t.links, stq := t.stq, hubTags := t.hubTags }
  regs : ∀ k, k.reg ∉ hubRegs → t.rd k = s.rd k
  link : ∀ n, t.link n = { s.link n with tx := (t.link n).tx }
  tx : ∀ n, s.linkUp n = false → (t.link n).tx = (s.link n).tx

section
variable {s t u : State}

/-- Whether a link is up rests on its state, on NVCF_NB and on its retraining alone (R412). -/
theorem State.linkUp_congr (hget : ∀ f i j, Field.reg f ∉ hubRegs → t.get f i j = s.get f i j) {n : Nat}
    (hretrain : (t.link n).retrain = (s.link n).retrain) : t.linkUp n = s.linkUp n := by
  have hst : t.linkState n = s.linkState n := hget F.EVL_STATUS_STATE n 0 (by decide)
  have hadm : t.get F.NVCF_NB_ADMITTED 0 n = s.get F.NVCF_NB_ADMITTED 0 n := hget _ _ _ (by decide)
  simp only [State.linkUp, State.linkActive, State.admitted, hst, hadm, hretrain]

theorem HubFrame.get (h : HubFrame s t) {f : Field} (i j : Nat) (hf : f.reg ∉ hubRegs) : t.get f i j = s.get f i j :=
  congrArg f.of (h.regs ⟨f.reg, i, j⟩ hf)

theorem HubFrame.linkUp (h : HubFrame s t) (n : Nat) : t.linkUp n = s.linkUp n :=
  State.linkUp_congr (fun _ i j hf => h.get i j hf) (by rw [h.link n])

theorem HubFrame.refl (s : State) : HubFrame s s := ⟨rfl, fun _ _ => rfl, fun _ => rfl, fun _ _ => rfl⟩

theorem HubFrame.trans (h : HubFrame s t) (g : HubFrame t u) : HubFrame s u where
  rest := by
    have hu := g.rest
    rw [h.rest] at hu
    exact hu
  regs k hk := (g.regs k hk).trans (h.regs k hk)
  link n := by
    have hu := g.link n
    rw [h.link n] at hu
    exact hu
  tx n hn := (g.tx n ((h.linkUp n).trans hn)).trans (h.tx n hn)

theorem HubFrame.of_marked (h : RegsMarked hubRegs s t) : HubFrame s t where
  rest := by rw [h.rest]
  regs := h.regs
  link n := by rw [h.link n]
  tx n _ := by rw [h.link n]

theorem HubFrame.mem (h : HubFrame s t) : t.mem = s.mem := by rw [h.rest]

theorem HubFrame.foldl {β : Type} (g : State → β → State) (hg : ∀ u a, HubFrame u (g u a)) (bs : List β) (s : State) : HubFrame s (bs.foldl g s) := by
  induction bs generalizing s with
  | nil => exact .refl s
  | cons a bs ih => exact (hg s a).trans (ih (g s a))
end

section
variable (s : State)

theorem HubFrame.inject (k : Nat) (p : Packet) : HubFrame s (s.inject k p) := ⟨rfl, fun _ _ => rfl, fun _ => rfl, fun _ _ => rfl⟩
theorem HubFrame.dropHubTag (t : Nat) : HubFrame s (s.dropHubTag t) := ⟨rfl, fun _ _ => rfl, fun _ => rfl, fun _ _ => rfl⟩
theorem HubFrame.modHubTag (t : Nat) (g : HubTag → HubTag) : HubFrame s (s.modHubTag t g) := ⟨rfl, fun _ _ => rfl, fun _ => rfl, fun _ _ => rfl⟩
theorem HubFrame.hubToCore (p : Packet) (typ status reason : Nat) (data : List Byte) : HubFrame s (s.hubToCore p typ status reason data) := .inject ..

theorem HubFrame.flagIf (b : Bool) (f : Field) (i j : Nat) (h : f.reg ∈ hubRegs) : HubFrame s (s.flagIf b f i j) := .of_marked (.flagIf _ _ _ _ _ h)

/-- A packet joins the stream of a link that is up. -/
theorem HubFrame.linkQueue {n : Nat} (p : Packet) (ring : Bool) (h : s.linkUp n = true) : HubFrame s (s.linkQueue n p ring) where
  rest := rfl
  regs _ _ := rfl
  link m := by
    by_cases hm : m = n
    · rw [hm, State.linkQueue, State.link_modLink_same]
    · rw [State.linkQueue, State.link_modLink_other _ _ hm]
  tx m hm := by rw [State.linkQueue, State.link_modLink_other _ _ (by rintro rfl; rw [h] at hm; cases hm)]

/-- The count, event and record of a miss (R413) write the hub's registers. -/
theorem State.unroutable_marked (p : Packet) (k : Nat) : RegsMarked hubRegs s (s.unroutable p k) := by
  have hcount := (RegsMarked.bump s F.EVL_DROP_CNT_UNROUTABLE 36 1 0 (by decide)).trans (.flag _ F.EVL_COM_EVT_UNROUTABLE 36 0 (l := hubRegs) (by decide))
  unfold State.unroutable
  dsimp only
  split
  · exact hcount
  · exact hcount.trans (.wr _ _ _ (by decide))

/-- The link that a lookup names is up (R412). -/
theorem State.routeLink_up {mod n : Nat} {alt : Bool} (h : s.routeLink mod = some (n, alt)) : s.linkUp n = true := by
  unfold State.routeLink at h
  dsimp only at h
  split at h
  · cases h
  · split at h
    · cases h
    · split at h
      · next hup => cases h; exact hup
      · split at h
        · next hready =>
          cases h
          obtain ⟨-, -, hr⟩ := hready
          obtain ⟨hadm, hact⟩ := Bool.and_eq_true_iff.mp hr
          rw [State.linkUp, hadm, hact]
          rfl
        · cases h

/-- A packet that is routed joins the stream of a link that is up (R412, R426). -/
theorem HubFrame.routeOut (p : Packet) (own : Bool) {t : State} (h : s.routeOut p own = some t) : HubFrame s t := by
  unfold State.routeOut at h
  dsimp only at h
  split at h
  · next k hk =>
    cases h
    split at hk
    · split at hk
      · next n _ hup => cases hk; exact .linkQueue _ _ _ hup.2
      · cases hk
    · cases hk
  · split at h
    · next k alt hk =>
      cases h
      have hup := (HubFrame.flagIf _ alt F.EVL_COM_EVT_ROUTE_ALT 36 0 (by decide)).linkUp k |>.trans (State.routeLink_up _ hk)
      exact ((HubFrame.flagIf _ _ _ _ _ (by decide)).trans (.flagIf _ _ _ _ _ (by decide))).trans (.linkQueue _ _ _ hup)
    · cases h

theorem HubFrame.unroutable (p : Packet) (k : Nat) : HubFrame s (s.unroutable p k) := .of_marked (s.unroutable_marked p k)

/-- An answer over a link is routed, or counted (R408, R413). -/
theorem HubFrame.hubToLink (p : Packet) (typ status reason : Nat) (data : List Byte) : HubFrame s (s.hubToLink p typ status reason data) := by
  unfold State.hubToLink
  dsimp only
  split
  · next u hu => exact .routeOut s _ _ hu
  · exact .unroutable ..

theorem HubFrame.hubRefuse (p : Packet) (k reason : Nat) : HubFrame s (s.hubRefuse p k reason) := by
  unfold State.hubRefuse
  dsimp only
  split
  · exact .hubToCore ..
  · exact .hubToLink ..

/-- An answer of a branch leaves one branch less, or is the multicast's last (R422). -/
theorem HubFrame.mcBranch (h : HubTag) (reason : Nat) : HubFrame s (s.mcBranch h reason) := by
  unfold State.mcBranch
  dsimp only
  split
  · exact .modHubTag ..
  · split
    · exact (HubFrame.dropHubTag ..).trans (.hubToCore ..)
    · exact (HubFrame.dropHubTag ..).trans (.hubToLink ..)
end

end Sys2Proof.Machine
end

section
/-! PROOFS. The states of a link: training, going DOWN, retraining, and the write of EVL_CFG (R393 to R396). -/

namespace Sys2Proof.Machine

open Sys2Proof

/-! ### Going DOWN -/

/-- The record of a link that goes DOWN (R396): the packets that came whole, and since when it is DOWN. -/
def LinkSt.lost (l : LinkSt) (now : Nat) : LinkSt := { ({} : LinkSt) with downAt := now, rxq := l.rxq }

/-- A link that has gone DOWN, before the packets that waited at it are looked up again (R396). -/
def State.linkCleared (s : State) (n : Nat) : State :=
  let l := s.link n
  let u := ((s.setLink n (l.lost s.now)).flag F.EVL_EVT_DOWN n).flagIf
    (l.rx.any (fun x => !x.2.isEmpty) && decide (l.retrain || s.linkActive n)) F.EVL_EVT_SEQ_ERR n
  let u := (u.set F.EVL_STATUS_STATE n 0).set F.EVL_STATUS_RATE n 0
  let u := (u.set F.NVCF_NB_ADMITTED 0 0 n).set F.NVCF_NB_RESULT 0 0 n
  (u.wr ⟨.EVL_CRED, n, 0⟩ 0).set F.EVL_REPLAY_NEXT_SEQ n 0

/-- What going DOWN leaves of link `n` (R396, R404): nothing held but the packets that came whole. -/
def WentDown (s t : State) (n : Nat) : Prop :=
  t.linkState n = 0 ∧ t.get F.EVL_STATUS_RATE n = 0 ∧ t.get F.EVL_EVT_DOWN n = 1 ∧ t.admitted n = false ∧
    (∀ vc, vc < 4 → t.get (credField vc) n = 0) ∧ t.get F.EVL_REPLAY_NEXT_SEQ n = 0 ∧ (t.link n).tx = [] ∧ (t.link n).replay = [] ∧
    (t.link n).rx = [] ∧ (t.link n).rxq = (s.link n).rxq ∧ t.mem = s.mem

section
variable (s : State) (n : Nat)

/-- Beside the link's record, registers of the link and of its neighbour are cleared. -/
theorem State.linkCleared_marked : RegsMarked [.EVL_EVT, .EVL_STATUS, .NVCF_NB, .EVL_CRED, .EVL_REPLAY]
    (s.setLink n ((s.link n).lost s.now)) (s.linkCleared n) :=
  (((((((RegsMarked.flag _ _ _ _ (by decide)).trans (.flagIf _ _ _ _ _ (by decide))).trans (.set _ _ _ _ _ (by decide))).trans
    (.set _ _ _ _ _ (by decide))).trans (.set _ _ _ _ _ (by decide))).trans (.set _ _ _ _ _ (by decide))).trans
    (.wr _ ⟨.EVL_CRED, n, 0⟩ _ (by decide : Reg.EVL_CRED ∈ _))).trans (.set _ _ _ _ _ (by decide))

/-- What is cleared of a link that goes DOWN. -/
theorem State.linkCleared_down : WentDown s (s.linkCleared n) n := by
  have hlink : (s.linkCleared n).link n = (s.link n).lost s.now := ((s.linkCleared_marked n).link n).trans (s.link_setLink_same ..)
  have hadm : (s.linkCleared n).get F.NVCF_NB_ADMITTED 0 n = 0 := by
    unfold State.linkCleared
    simp (disch := decide) only [State.get_set_reg, State.get_wr_reg, State.get_set_apart, State.get_set_same, Nat.zero_mod]
  refine ⟨?_, ?_, ?_, by rw [State.admitted, hadm]; rfl, fun vc _ => ?_, ?_, by rw [hlink]; rfl, by rw [hlink]; rfl, by rw [hlink]; rfl,
    by rw [hlink]; rfl, (s.linkCleared_marked n).mem⟩
  all_goals unfold State.linkCleared
  · simp (disch := decide) only [State.linkState, State.get_set_reg, State.get_wr_reg, State.get_set_apart, State.get_set_same, Nat.zero_mod]
  · simp (disch := decide) only [State.get_set_reg, State.get_wr_reg, State.get_set_same, Nat.zero_mod]
  · simp (disch := decide) only [State.get_set_reg, State.get_wr_reg, State.get_flagIf_apart, State.get_flag_same]
  · rw [State.get_set_reg _ _ _ _ _ _ _ _ (by rw [credField_reg]; decide), State.get_def, credField_reg, State.rd_wr_same]
    exact Nat.eq_zero_of_le_zero (by simp [Field.of])
  · simp (disch := decide) only [State.get_set_same, Nat.zero_mod]

variable {s n}

/-- The hub's work on the packets that waited leaves a link that is not admitted as it is. -/
theorem WentDown.hub {t u : State} (h : WentDown s t n) (g : HubFrame t u) : WentDown s u n := by
  obtain ⟨hst, hrate, hevt, hadm, hcred, hseq, htx, hreplay, hrx, hrxq, hmem⟩ := h
  have hadm' : u.admitted n = false := by rw [State.admitted, g.get _ _ (by decide)]; exact hadm
  have hnot : t.linkUp n = false := by rw [State.linkUp, hadm]; rfl
  have hlink := g.link n
  rw [g.tx n hnot] at hlink
  refine ⟨(g.get _ _ (by decide)).trans hst, (g.get _ _ (by decide)).trans hrate, (g.get _ _ (by decide)).trans hevt, hadm',
    fun vc hvc => (g.get _ _ (by rw [credField_reg]; decide)).trans (hcred vc hvc), (g.get _ _ (by decide)).trans hseq, ?_, ?_, ?_, ?_, g.mem.trans hmem⟩
  all_goals rw [hlink]; assumption

/-- A link that goes DOWN is cleared, and the packets that waited are looked up again (R396, R419). -/
theorem State.linkDown_frame (h : s.linkState n ≠ 0) : HubFrame (s.linkCleared n) (s.linkDown n) := by
  unfold State.linkDown
  rw [if_neg h]
  dsimp only
  refine .foldl _ (fun u p => ?_) _ _
  split
  · next t ht => exact .routeOut u _ _ ht
  · have hmiss := HubFrame.unroutable u p 63
    split
    · split
      · exact (hmiss.trans (.dropHubTag ..)).trans (.hubRefuse ..)
      · split
        · exact hmiss.trans (.mcBranch ..)
        · exact hmiss
    · exact hmiss

theorem State.linkDown_down (h : s.linkState n ≠ 0) : WentDown s (s.linkDown n) n := (s.linkCleared_down n).hub (State.linkDown_frame h)

end

/-- Going DOWN leaves the registers that it does not name. -/
theorem State.linkDown_get (s : State) (n : Nat) {f : Field} (i j : Nat)
    (hf : f.reg ∉ hubRegs ∧ f.reg ∉ [Reg.EVL_EVT, .EVL_STATUS, .NVCF_NB, .EVL_CRED, .EVL_REPLAY]) : (s.linkDown n).get f i j = s.get f i j := by
  by_cases h : s.linkState n = 0
  · rw [State.linkDown, if_pos h]
  · rw [(State.linkDown_frame h).get _ _ hf.1, (s.linkCleared_marked n).get _ _ hf.2, State.setLink_get]

/-- A link that goes DOWN in a state with the same packets received and the same memory. -/
theorem WentDown.of_same {s u t : State} {n : Nat} (h : WentDown u t n) (hrxq : (u.link n).rxq = (s.link n).rxq) (hmem : u.mem = s.mem) :
    WentDown s t n := by
  obtain ⟨hst, hrate, hevt, hadm, hcred, hseq, htx, hreplay, hrx, hrxq', hmem'⟩ := h
  exact ⟨hst, hrate, hevt, hadm, hcred, hseq, htx, hreplay, hrx, hrxq'.trans hrxq, hmem'.trans hmem⟩

/-! ### Training (R393, R394) -/

section
variable {s : State} {n : Nat}

theorem linkSignalDetect_detects (hmay : s.linkMay n = true) (hdown : s.linkState n = 0) :
    exec (.linkSignalDetect n) s = .next (s.set F.EVL_STATUS_STATE n 1) := by
  show execLinkSignalDetect n s = _
  simp [execLinkSignalDetect, hmay, hdown]

theorem detectRetry_detects (hmay : s.linkMay n = true) (hdown : s.linkState n = 0) (hlate : (s.link n).downAt + 190000000 ≤ s.now) :
    exec (.detectRetry n) s = .next (s.set F.EVL_STATUS_STATE n 1) := by
  show execDetectRetry n s = _
  simp [execDetectRetry, hmay, hdown, s.at_of_le _ hlate, usAclk]

/-- The credits of a capability word (R404). -/
def State.credits (s : State) (n : Nat) (bufs : List Nat) : State := (List.range 4).foldl (fun s vc => s.setCred n vc (bufs.getD vc 0)) s

section
variable (s) (n) (bufs : List Nat)

theorem State.credits_eq : s.credits n bufs =
    (((s.setCred n 0 (bufs.getD 0 0)).setCred n 1 (bufs.getD 1 0)).setCred n 2 (bufs.getD 2 0)).setCred n 3 (bufs.getD 3 0) := rfl

theorem State.credits_get_reg {f : Field} (i j : Nat) (h : f.reg ≠ .EVL_CRED) : (s.credits n bufs).get f i j = s.get f i j := by
  simp only [State.credits_eq, State.setCred_get_reg _ _ _ _ _ _ h]

theorem State.credits_get {vc : Nat} (h : vc < 4) : (s.credits n bufs).get (credField vc) n = bufs.getD vc 0 % 2 ^ 16 := by
  rw [State.credits_eq]
  interval_cases vc <;> simp (disch := decide) only [State.setCred_get_vc, State.setCred_get_same]

theorem State.credits_retrain : ((s.credits n bufs).link n).retrain = (s.link n).retrain := by
  have hone (u : State) (vc v : Nat) : ((u.setCred n vc v).link n).retrain = (u.link n).retrain := by rw [State.setCred_link]
  simp only [State.credits_eq, hone]

theorem State.credits_other {m : Nat} (h : m ≠ n) : (s.credits n bufs).link m = s.link m := by
  simp only [State.credits_eq, State.setCred_other _ _ _ _ h]

theorem State.credits_mem : (s.credits n bufs).mem = s.mem := by simp only [State.credits_eq, State.setCred_mem]
end

/-- The link after the exchange of capability words (R393, R394, R404). -/
def State.exchanged (s : State) (n : Nat) (cap : CapWord) : State :=
  let u := (s.set F.EVL_STATUS_PARTNER_MOD n cap.partner).set F.EVL_STATUS_PARTNER_LINK n cap.link
  let u := u.credits n cap.bufs
  let u := u.modLink n (fun l => { l with grant := [(0, rxBuf 0), (1, rxBuf 1), (2, rxBuf 2), (3, rxBuf 3)], ackAt := u.now })
  (u.set F.EVL_STATUS_STATE n 4).set F.EVL_STATUS_RATE n (if s.get F.EVL_CFG_MAX_RATE n = 3 ∧ cap.evl3 then 3 else 2)

theorem exchange_exchanged {cap : CapWord} (hst : s.linkState n = 3) (hok : cap.ok = true) : exec (.exchange n cap) s = .next (s.exchanged n cap) := by
  show execExchange n cap s = _
  unfold execExchange
  rw [if_neg (by simp [hst, hok])]
  rfl

theorem exchange_refused {cap : CapWord} (hbad : cap.ok = false) : exec (.exchange n cap) s = .next s := by
  show execExchange n cap s = _
  unfold execExchange
  rw [if_pos (by simp [hbad])]

/-- What the exchange of capability words leaves (R393, R394, R404). -/
theorem State.exchanged_effect (cap : CapWord) :
    let t := s.exchanged n cap
    t.linkState n = 4 ∧ (t.link n).retrain = (s.link n).retrain ∧
      t.get F.EVL_STATUS_RATE n = (if s.get F.EVL_CFG_MAX_RATE n = 3 ∧ cap.evl3 = true then 3 else 2) ∧
      t.get F.EVL_STATUS_PARTNER_MOD n = cap.partner % 2 ^ 16 ∧ t.get F.EVL_STATUS_PARTNER_LINK n = cap.link % 2 ^ 6 ∧
      (∀ vc, vc < 4 → t.get (credField vc) n = cap.bufs.getD vc 0 % 2 ^ 16) ∧ (∀ m, m ≠ n → t.link m = s.link m) ∧ t.mem = s.mem := by
  intro t
  have hcredits (u : State) {f : Field} (hf : f.reg = .EVL_STATUS) : (u.credits n cap.bufs).get f n = u.get f n :=
    u.credits_get_reg n _ n 0 (by rw [hf]; decide)
  refine ⟨?_, ?_, ?_, ?_, ?_, fun vc hvc => ?_, fun m hm => ?_, ?_⟩
  · simp (disch := decide) only [t, State.linkState, State.exchanged, State.get_set_apart, State.get_set_same]
    rfl
  · simp only [t, State.exchanged, State.set_link, State.link_modLink_same, State.credits_retrain]
  · exact State.get_set_fits _ _ _ _ (by decide) (by split <;> decide)
  · simp (disch := decide) only [t, State.exchanged, State.get_set_apart, State.modLink_get, hcredits, State.get_set_same]
    rfl
  · simp (disch := decide) only [t, State.exchanged, State.get_set_apart, State.modLink_get, hcredits, State.get_set_same]
    rfl
  · have hset (u : State) {f : Field} (v : Nat) (hf : f.reg = .EVL_STATUS) : (u.set f n v).get (credField vc) n = u.get (credField vc) n :=
      u.get_set_reg _ _ _ _ _ _ _ (by rw [credField_reg, hf]; decide)
    simp only [t, State.exchanged, hset, State.modLink_get, State.credits_get _ _ _ hvc]
  · simp only [t, State.exchanged, State.set_link, State.link_modLink_other _ _ hm, State.credits_other _ _ _ hm]
  · exact State.credits_mem ..

/-! ### Measuring a rate, and retraining (R393 to R395) -/

/-- A measurement in a link that has trained: the uncorrectable words are counted (R394). -/
def State.measured (s : State) (n u : Nat) : State := (s.bump F.EVL_ERR_CNT_UCW n u).flagIf (decide (0 < u)) F.EVL_EVT_FEC_UCW n

theorem State.measured_marked (s : State) (n u : Nat) : RegsMarked [.EVL_ERR_CNT, .EVL_EVT] s (s.measured n u) :=
  (RegsMarked.bump _ _ _ _ _ (by decide)).trans (.flagIf _ _ _ _ _ (by decide))

theorem rateResult_passes (hst : s.linkState n = 4) (htrain : (s.link n).retrain = false) :
    exec (.rateResult n true 0) s = .next ((s.measured n 0).set F.EVL_STATUS_STATE n 5) := by
  show execRateResult n true 0 s = _
  unfold execRateResult
  rw [if_neg (by simp [hst, htrain])]
  rfl

section
variable {u : Nat} {pass : Bool} (hst : s.linkState n = 4) (htrain : (s.link n).retrain = false) (hfail : pass = false ∨ u ≠ 0)
include hst htrain hfail

/-- A measurement that fails at EVL3 falls back to EVL2 (R394). -/
theorem rateResult_fallsBack (hrate : s.get F.EVL_STATUS_RATE n = 3) :
    exec (.rateResult n pass u) s = .next (((s.measured n u).set F.EVL_STATUS_RATE n 2).flag F.EVL_EVT_FALLBACK n) := by
  have hno : (pass && decide (u = 0)) = false := by rcases hfail with rfl | h <;> simp_all
  show execRateResult n pass u s = _
  unfold execRateResult
  rw [if_neg (by simp [hst, htrain])]
  dsimp only
  rw [if_neg (by simp [hno])]
  exact if_pos (((s.measured_marked n u).get _ _ (by decide)).trans hrate)

/-- A measurement that fails at another rate takes the link DOWN (R394). -/
theorem rateResult_goesDown (hrate : s.get F.EVL_STATUS_RATE n ≠ 3) : exec (.rateResult n pass u) s = .next ((s.measured n u).linkDown n) := by
  have hno : (pass && decide (u = 0)) = false := by rcases hfail with rfl | h <;> simp_all
  show execRateResult n pass u s = _
  unfold execRateResult
  rw [if_neg (by simp [hst, htrain])]
  dsimp only
  rw [if_neg (by simp [hno])]
  exact if_neg (fun h => hrate (((s.measured_marked n u).get _ _ (by decide)).symm.trans h))
end

/-- A retrain that passes: the partner's next expected sequence number says from where to resend (R395). -/
def State.retrained (s : State) (n q : Nat) : State :=
  let l := s.link n
  let held := ackDrop ((q + 4095) % 4096) l.replay
  let u := s.setLink n { l with retrain := false, replay := held, resend := (held.head?).map (fun g => g.seq), nakWait := false, nakDue := false,
                                nakRow := 0, ackAt := s.now, ucw := [] }
  ((u.set F.EVL_STATUS_STATE n 5).set F.NVCF_NB_ADMITTED 0 0 n).set F.NVCF_NB_RESULT 0 0 n

theorem retrainComplete_passes {q : Nat} (hst : s.linkState n = 4) (htrain : (s.link n).retrain = true) :
    exec (.retrainComplete n true q) s = .next (s.retrained n q) := by
  show execRetrainComplete n true q s = _
  unfold execRetrainComplete
  dsimp only
  rw [if_neg (by simp [hst, htrain]), if_neg (by decide)]
  rfl

theorem retrainComplete_fails {q : Nat} (hst : s.linkState n = 4) (htrain : (s.link n).retrain = true) :
    exec (.retrainComplete n false q) s = .next (s.linkDown n) := by
  show execRetrainComplete n false q s = _
  unfold execRetrainComplete
  dsimp only
  rw [if_neg (by simp [hst, htrain]), if_pos (by decide)]

/-- After a retrain the link is ACTIVE and not admitted, and holds the flits that the partner has not received (R395). -/
theorem State.retrained_effect (s : State) (n q : Nat) :
    let t := s.retrained n q
    t.linkState n = 5 ∧ (t.link n).retrain = false ∧ t.admitted n = false ∧
      (∀ f, f ∈ (t.link n).replay ↔ (f ∈ (s.link n).replay ∧ 2048 ≤ ((q + 4095) % 4096 + 4096 - f.seq) % 4096)) ∧
      (t.link n).tx = (s.link n).tx ∧ (t.link n).rxq = (s.link n).rxq := by
  intro t
  have hadm : t.get F.NVCF_NB_ADMITTED 0 n = 0 := by
    simp (disch := decide) only [t, State.retrained, State.get_set_apart, State.get_set_same, Nat.zero_mod]
  have hst : t.linkState n = 5 := by
    simp (disch := decide) only [t, State.retrained, State.linkState, State.get_set_reg]
    exact State.get_set_fits _ _ _ _ (by decide) (by decide)
  refine ⟨hst, ?_, by rw [State.admitted, hadm]; rfl, fun f => ?_, ?_, ?_⟩
  all_goals simp only [t, State.retrained, State.set_link, State.link_setLink_same]
  rw [ackDrop, List.mem_filter, decide_eq_true_iff]

/-- What the begin of a retrain leaves of link `n` (R395). -/
def Retrains (s t : State) (n : Nat) : Prop :=
  t.linkState n = 4 ∧ (t.link n).retrain = true ∧ (t.link n).replay = (s.link n).replay ∧
    t.get F.EVL_EVT_RETRAIN n = 1 ∧ t.get F.EVL_STATUS_RETRAINS n = min (s.get F.EVL_STATUS_RETRAINS n + 1) 0xFFFF

theorem State.linkRetrain_retrains (hactive : s.linkActive n = true) : Retrains s (s.linkRetrain n) n := by
  unfold State.linkRetrain
  rw [if_pos hactive]
  refine ⟨?_, by simp, by simp, State.get_flag_same _ _ _ _ (by decide) (by decide), ?_⟩
  · simp (disch := decide) only [State.linkState, State.get_flag_reg, State.get_bump_apart]
    exact State.get_set_fits _ _ _ _ (by decide) (by decide)
  · simp (disch := decide) only [State.get_flag_reg, State.get_bump_same, State.get_set_apart, State.modLink_get]
    rfl

theorem laneSignalLoss_retrains {lanes : Nat} (hlt : lanes < 16) (hnone : lanes ≠ 0) (hall : lanes ≠ 15) :
    exec (.laneSignalLoss n lanes) s = .next (s.linkRetrain n) := by
  show execLaneSignalLoss n lanes s = _
  simp [execLaneSignalLoss, Nat.mod_eq_of_lt hlt, hnone, hall]

/-! ### The write of EVL_CFG (R396) -/

/-- A write by the access codes leaves memory: its record at most is of class 0, which raises no event. -/
theorem State.accWrite_mem (s : State) (m : Master) (k : RKey) (v mask : Word) (addr : Nat) : (s.accWrite m k v mask addr).mem = s.mem := by
  unfold State.accWrite
  dsimp only
  split <;> rfl

/-- What a write of EVL_CFG by its access codes leaves: RW fields take the value, links and other registers of the links stay. -/
theorem State.accWrite_evlCfg (s : State) (m : Master) (n addr : Nat) (v : Word) :
    let t := s.accWrite m ⟨.EVL_CFG, n, 0⟩ v lowMask addr
    (∀ f ∈ Reg.EVL_CFG.info.fields, f.acc = .rw → f.of (t.rd ⟨.EVL_CFG, n, 0⟩) = f.of v) ∧ t.links = s.links ∧ t.mem = s.mem ∧
      t.linkState n = s.linkState n := by
  intro t
  obtain ⟨u, hu, ht⟩ := s.accWrite_cases m ⟨.EVL_CFG, n, 0⟩ v lowMask addr
  refine ⟨fun f hf hacc => ?_, ?_, s.accWrite_mem .., ?_⟩
  · have hholes : v &&& ~~~Reg.EVL_CFG.holes = v := BitVec.and_allOnes
    have hlanes (old : Word) : f.of ((v &&& ~~~Reg.EVL_CFG.holes) &&& lowMask ||| old &&& ~~~lowMask) = f.of v :=
      Reg.of_lanes .EVL_CFG hf _ _ (fun i hl hi => by
        have hlow : lowMask.getLsbD i = true := hl
        simp [hholes, hlow, hi, -BitVec.getLsbD_eq_getElem])
    show f.of ((s.accWrite ..).rd _) = _
    rw [ht, State.rd_wr_same, Reg.written_of _ _ _ _ _ _ _ f hf, Field.written, hacc]
    exact hlanes _
  · show (s.accWrite ..).links = _
    rw [ht, State.wr_links, hu.rest]
  · show (s.accWrite ..).linkState n = _
    rw [ht]
    exact (State.get_wr_reg _ _ _ _ _ _ _ (by decide)).trans (hu.get _ _ _ rfl)

/-- The hub's write of EVL_CFG, and what it leaves (R396). -/
theorem evlEnWrite_effect (v : Word) (hreach : s.reach .hub .EVL n = true) :
    ∃ t, exec (.evlEnWrite .hub n v) s = .next t ∧ t.bus = .written ∧ t.get F.EVL_CFG_EN n = F.EVL_CFG_EN.of v ∧
      t.get F.EVL_CFG_ACK_TIMEOUT n = F.EVL_CFG_ACK_TIMEOUT.of v ∧
      (F.EVL_CFG_EN.of v = 0 → s.linkState n ≠ 0 → WentDown s t n) ∧
      (F.EVL_CFG_EN.of v = 1 → t.links = s.links ∧ t.linkState n = s.linkState n) := by
  have hexec : exec (.evlEnWrite .hub n v) s = .next { (s.access .hub).evlCfgWrite .hub n v lowMask (0x3040000 + 0x1000 * n + 8) with bus := .written } := by
    show Host.Outcome.next (s.regCmd ..) = _
    rw [State.regCmd_reached _ _ _ _ _ hreach]
  obtain ⟨hfields, hlinks, hmem, hst⟩ := (s.access .hub).accWrite_evlCfg .hub n (0x3040000 + 0x1000 * n + 8) v
  have hen := hfields F.EVL_CFG_EN (by decide) rfl
  have hack := hfields F.EVL_CFG_ACK_TIMEOUT (by decide) rfl
  have hwrite : (s.access .hub).evlCfgWrite .hub n v lowMask (0x3040000 + 0x1000 * n + 8) =
      let u := (s.access .hub).accWrite .hub ⟨.EVL_CFG, n, 0⟩ v lowMask (0x3040000 + 0x1000 * n + 8)
      if u.get F.EVL_CFG_EN n = 0 then u.linkDown n else u := rfl
  rw [hwrite] at hexec
  dsimp only at hexec
  generalize (s.access .hub).accWrite .hub ⟨.EVL_CFG, n, 0⟩ v lowMask (0x3040000 + 0x1000 * n + 8) = u at *
  by_cases hoff : F.EVL_CFG_EN.of v = 0
  · have h0 : u.get F.EVL_CFG_EN n = 0 := hen.trans hoff
    rw [if_pos h0] at hexec
    refine ⟨_, hexec, rfl, (u.linkDown_get n n 0 (by decide)).trans hen, (u.linkDown_get n n 0 (by decide)).trans hack, fun _ hup => ?_, fun hon => ?_⟩
    · exact (State.linkDown_down (hst.trans_ne hup)).of_same (by rw [State.link, hlinks]; rfl) hmem
    · omega
  · have h1 : u.get F.EVL_CFG_EN n ≠ 0 := fun h => hoff (hen.symm.trans h)
    rw [if_neg h1] at hexec
    exact ⟨_, hexec, rfl, hen, hack, fun h => absurd h hoff, fun _ => ⟨hlinks, hst⟩⟩

end

/-- Settles O31: each command goes to the state that its condition names (`linkSignalDetect_detects` to `evlEnWrite_effect`); a link goes
DOWN by `State.linkDown_down`, is exchanged by `State.exchanged_effect` and retrains by `State.linkRetrain_retrains` and
`State.retrained_effect`. -/
theorem linkTraining : Obligations.LinkTraining := by
  unfold Obligations.LinkTraining
  intro down retrained
  have hdown (s : State) (n : Nat) (h : s.linkState n ≠ 0) : down s (s.linkDown n) n := State.linkDown_down h
  refine ⟨fun s n hmay hst => ⟨linkSignalDetect_detects hmay hst, detectRetry_detects hmay hst⟩, fun s n hst => ⟨?_, ?_⟩, fun s n hst => ⟨?_, ?_⟩,
    fun s n cap hst => ⟨fun hok => ⟨_, exchange_exchanged hst hok, s.exchanged_effect cap⟩, exchange_refused⟩,
    fun s n u pass hst htrain => ⟨?_, fun hfail hrate => ?_, fun hfail hrate => ?_⟩,
    fun s n q hst htrain => ⟨⟨_, retrainComplete_passes hst htrain, s.retrained_effect n q⟩, _, retrainComplete_fails hst htrain, hdown s n (by omega)⟩,
    fun s n hst => ⟨_, rfl, hdown s n hst⟩, fun s n lanes hactive hlt => ⟨fun hnone hall => ?_, ?_⟩, fun s n v hreach _ => evlEnWrite_effect v hreach⟩
  · exact congrArg Host.Outcome.next (if_pos hst)
  · exact ⟨_, congrArg Host.Outcome.next (if_pos hst), hdown s n (by omega)⟩
  · exact congrArg Host.Outcome.next (if_pos hst)
  · exact ⟨_, congrArg Host.Outcome.next (if_pos hst), hdown s n (by omega)⟩
  · rintro rfl rfl
    have hmark := s.measured_marked n 0
    refine ⟨_, rateResult_passes hst htrain, State.get_set_fits _ _ _ _ (by decide) (by decide), hmark.links, ?_⟩
    rw [State.get_set_apart _ _ _ _ _ _ (by decide) (by decide) (by decide), hmark.get _ _ (by decide)]
  · have hmark := s.measured_marked n u
    refine ⟨_, rateResult_fallsBack hst htrain hfail hrate, ?_, ?_, State.get_flag_same _ _ _ _ (by decide) (by decide), hmark.links⟩
    · rw [State.linkState, State.get_flag_reg _ _ _ _ _ (by decide), State.get_set_apart _ _ _ _ _ _ (by decide) (by decide) (by decide),
        hmark.get _ _ (by decide)]
      exact hst
    · rw [State.get_flag_reg _ _ _ _ _ (by decide)]
      exact State.get_set_fits _ _ _ _ (by decide) (by decide)
  · have hmark := s.measured_marked n u
    have hup : (s.measured n u).linkState n ≠ 0 := by rw [State.linkState, hmark.get _ _ (by decide)]; exact hst.trans_ne (by decide)
    exact ⟨_, rateResult_goesDown hst htrain hfail hrate, (State.linkDown_down hup).of_same (by rw [hmark.link]) hmark.mem⟩
  · exact ⟨_, laneSignalLoss_retrains hlt hnone hall, State.linkRetrain_retrains hactive⟩
  · rintro rfl
    have hst : s.linkState n = 5 := of_decide_eq_true hactive
    exact ⟨_, rfl, hdown s n (by omega)⟩

end Sys2Proof.Machine
end

section
/-! PROOFS. Flits that arrive: acknowledgement, credits, resends, and the packets of a flit's body (R398 to R407). -/

namespace Sys2Proof.Machine

open Sys2Proof

/-! ### Acknowledgement and credits (R399 to R404) -/

/-- A link after what a flit that passed its CRC acknowledges and returns, before a NAK is looked at (R401, R404). -/
def State.flitAcked (s : State) (n : Nat) (f : FlitIn) : State :=
  let u := s.bump F.EVL_ERR_CNT_CORR_SYM n f.corr
  let u := u.modLink n (fun l =>
    { l with replay := ackDrop f.ack l.replay, ackAt := if (ackDrop f.ack l.replay).length < l.replay.length then s.now else l.ackAt })
  if f.credN = 0 then u else u.setCred n (f.credVc % 4) (min 0xFFFF (u.get (credField (f.credVc % 4)) n + f.credN))

section
variable (s : State) (n : Nat) (f : FlitIn)

/-- Of the link's record an acknowledgement changes the flits held, the time of the last progress and the time without credits. -/
theorem State.flitAcked_link : (s.flitAcked n f).link n = { s.link n with
    replay := ackDrop f.ack (s.link n).replay, ackAt := ((s.flitAcked n f).link n).ackAt, zero := ((s.flitAcked n f).link n).zero } := by
  unfold State.flitAcked
  dsimp only
  split
  · rw [State.link_modLink_same]; rfl
  · rw [State.setCred_link, State.link_modLink_same]; rfl

theorem State.flitAcked_other {m : Nat} (h : m ≠ n) : (s.flitAcked n f).link m = s.link m := by
  unfold State.flitAcked
  dsimp only
  split
  · rw [State.link_modLink_other _ _ h]; rfl
  · rw [State.setCred_other _ _ _ _ h, State.link_modLink_other _ _ h]; rfl

theorem State.flitAcked_get {g : Field} (i j : Nat) (h : g.reg ∉ [Reg.EVL_CRED, .EVL_ERR_CNT]) : (s.flitAcked n f).get g i j = s.get g i j := by
  have hbump : (s.bump F.EVL_ERR_CNT_CORR_SYM n f.corr).get g i j = s.get g i j := s.get_bump_reg _ _ _ _ _ (by simp_all)
  unfold State.flitAcked
  dsimp only
  split
  · exact hbump
  · rw [State.setCred_get_reg _ _ _ _ _ _ (by simp_all), State.modLink_get, hbump]

theorem State.flitAcked_mem : (s.flitAcked n f).mem = s.mem := by
  unfold State.flitAcked
  dsimp only
  split
  · rfl
  · rw [State.setCred_mem]; rfl

/-- The credits a flit returns join those held (R404). -/
theorem State.flitAcked_credits (hvc : f.credVc < 4) (hn : 0 < f.credN) :
    (s.flitAcked n f).get (credField f.credVc) n = min 0xFFFF (s.get (credField f.credVc) n + f.credN) := by
  have hmod : f.credVc % 4 = f.credVc := Nat.mod_eq_of_lt hvc
  unfold State.flitAcked
  dsimp only
  rw [if_neg (by omega), hmod, State.setCred_get_same, State.modLink_get, State.get_bump_reg _ _ _ _ _ _ (by rw [credField_reg]; decide)]
  omega

theorem State.flitAcked_active : (s.flitAcked n f).linkActive n = s.linkActive n := by
  rw [State.linkActive, State.linkState, s.flitAcked_get _ _ _ _ (by decide)]; rfl

variable {s n f}

/-- Without a NAK a flit's control is its acknowledgement. -/
theorem State.flitControl_ack (hnak : f.nak = false) : (s.bump F.EVL_ERR_CNT_CORR_SYM n f.corr).flitControl n f = s.flitAcked n f := by
  unfold State.flitControl
  rw [hnak]
  rfl

/-- A retrain begins with the link's record but for RETRAIN. -/
theorem State.linkRetrain_link (u : State) (n m : Nat) : (u.linkRetrain n).link m = { u.link m with retrain := ((u.linkRetrain n).link m).retrain } := by
  unfold State.linkRetrain
  split
  · rw [State.flag_link, State.bump_link, State.set_link]
    by_cases h : m = n
    · rw [h, State.link_modLink_same]
    · rw [State.link_modLink_other _ _ h]
  · rfl

/-- A link that has been asked for a resend (R402): the oldest held flit is the next, and requests for it are counted in a row. -/
def State.flitNaked (s : State) (n : Nat) (f : FlitIn) : State :=
  (s.flitAcked n f).modLink n (fun l => { l with
    resend := (l.replay.head?).map (fun g => g.seq), nakSeq := (f.ack + 1) % 4096,
    nakRow := if (s.link n).nakSeq = (f.ack + 1) % 4096 ∧ 0 < (s.link n).nakRow then (s.link n).nakRow + 1 else 1 })

/-- A NAK acknowledges, asks for a resend, and may begin a retrain (R402). -/
theorem State.flitControl_nak (hnak : f.nak = true) : ∃ again : Bool,
    (s.bump F.EVL_ERR_CNT_CORR_SYM n f.corr).flitControl n f = if again then (s.flitNaked n f).linkRetrain n else s.flitNaked n f := by
  refine ⟨decide ((s.flitNaked n f).get F.EVL_CFG_RETRY_LIMIT n ≤
    if (s.link n).nakSeq = (f.ack + 1) % 4096 ∧ 0 < (s.link n).nakRow then (s.link n).nakRow + 1 else 1), ?_⟩
  unfold State.flitControl
  rw [hnak]
  simp only [decide_eq_true_eq]
  rfl

/-- A NAK makes the oldest held flit the next to be resent (R402). -/
theorem State.flitControl_resends (hnak : f.nak = true) :
    let t := (s.bump F.EVL_ERR_CNT_CORR_SYM n f.corr).flitControl n f
    (t.link n).replay = ackDrop f.ack (s.link n).replay ∧ (t.link n).resend = ((ackDrop f.ack (s.link n).replay).head?).map (fun g => g.seq) := by
  intro t
  have hreplay : ((s.flitAcked n f).link n).replay = ackDrop f.ack (s.link n).replay := by rw [State.flitAcked_link]
  have hnaked : (s.flitNaked n f).link n = { (s.flitNaked n f).link n with
      replay := ackDrop f.ack (s.link n).replay, resend := ((ackDrop f.ack (s.link n).replay).head?).map (fun g => g.seq) } := by
    rw [State.flitNaked, State.link_modLink_same, ← hreplay]
  obtain ⟨again, h⟩ := State.flitControl_nak (s := s) (n := n) hnak
  have ht : t.link n = { (s.flitNaked n f).link n with retrain := (t.link n).retrain } := by
    have h : t = if again then (s.flitNaked n f).linkRetrain n else s.flitNaked n f := h
    rw [h]
    cases again
    · rfl
    · exact State.linkRetrain_link ..
  rw [ht, hnaked]
  exact ⟨rfl, rfl⟩

end

/-! ### Flits received (R398 to R400, R407) -/

section
variable {s : State} {n : Nat} {f : FlitIn}

theorem dataFlitReceive_whole (hactive : s.linkActive n = true) (hcrc : f.crcOk = true) (hucw : f.ucw = false) (hdata : f.ftype = 0) (hnak : f.nak = false) :
    exec (.dataFlitReceive n f) s = .next ((s.flitAcked n f).flitData n f) := by
  show execDataFlitReceive n f s = _
  unfold execDataFlitReceive
  dsimp only
  rw [if_neg (by simp [hactive]), if_neg (by simp [hcrc, hucw]), if_neg (by simp [hdata]), State.flitControl_ack hnak,
    if_pos ((s.flitAcked_active n f).trans hactive)]

theorem idleFlitReceive_whole (hactive : s.linkActive n = true) (hcrc : f.crcOk = true) (hucw : f.ucw = false) (hidle : f.ftype = 1) :
    exec (.idleFlitReceive n f) s = .next ((s.bump F.EVL_ERR_CNT_CORR_SYM n f.corr).flitControl n f) := by
  show execIdleFlitReceive n f s = _
  unfold execIdleFlitReceive
  dsimp only
  rw [if_neg (by simp [hactive]), if_neg (by simp [hcrc, hucw]), if_neg (by simp [hidle])]

/-- The times at which packets may go on do not make other packets of them (R15). -/
theorem timeless_zipIdx (due : Nat → Nat) (ps : List Packet) :
    (ps.zipIdx.map (fun x => { x.1 with due := due x.2 })).map (fun p => ({ p with due := 0 } : Packet)) = ps.map (fun p => { p with due := 0 }) := by
  have hfst : ps.zipIdx.map Prod.fst = ps := List.zipIdx_map_fst 0 ps
  conv_rhs => rw [← hfst]
  rw [List.map_map, List.map_map]
  rfl

/-- A flit with a body, and a pointer into it or none, is not malformed (R407). -/
theorem FlitIn.body_ok (hbody : f.body ≠ []) (hptr : f.firstPtr = 0xFF ∨ f.firstPtr < f.body.length) :
    ¬ (decide (f.firstPtr ≠ 0xFF) && decide (f.body.length ≤ f.firstPtr) || f.body.isEmpty) = true := by
  rcases hptr with h | h <;> simp [h, hbody]

/-- What a DATA flit in sequence leaves of the link (R400, R404): the next number, a credit owed back, the packets that are whole. -/
structure FlitTaken (f : FlitIn) (l x : LinkSt) : Prop where
  eseq : x.eseq = (l.eseq + 1) % 4096
  replay : x.replay = l.replay
  grant : vcGet x.grant f.vc = vcGet l.grant f.vc - 1
  ret : vcGet x.ret f.vc = vcGet l.ret f.vc + 1
  rxq : (lookD [] x.rxq f.vc).map (fun p => ({ p with due := 0 } : Packet)) =
    (lookD [] l.rxq f.vc ++ (decodeAll f.vc (f.body.length + 1) (lookD [] l.rx f.vc ++ f.body)).1).map (fun p => { p with due := 0 })
  rx : lookD [] x.rx f.vc = (decodeAll f.vc (f.body.length + 1) (lookD [] l.rx f.vc ++ f.body)).2

section
variable (hvc : f.vc < 4) (hbody : f.body ≠ []) (hptr : f.firstPtr = 0xFF ∨ f.firstPtr < f.body.length) (hseq : f.seq = (s.link n).eseq)
include hvc hbody hptr hseq

theorem State.flitData_taken (hgrant : vcGet (s.link n).grant f.vc ≠ 0) (hpert : s.pertCredit n f.vc = false) :
    ∃ x, s.flitData n f = s.setLink n x ∧ FlitTaken f (s.link n) x := by
  have hmod : f.vc % 4 = f.vc := Nat.mod_eq_of_lt hvc
  unfold State.flitData
  dsimp only
  rw [if_pos hseq, if_neg (FlitIn.body_ok hbody hptr), hmod, if_neg hgrant]
  refine ⟨_, rfl, rfl, rfl, ?_, ?_, ?_, ?_⟩
  · exact lookD_putD_same ..
  · simp only [hpert, Bool.false_eq_true, if_false]
    exact lookD_putD_same ..
  · rw [lookD_putD_same, List.map_append, List.map_append]
    congr 1
    exact timeless_zipIdx (fun i => (if i = 0 then _ else _) + hubCut) _
  · exact lookD_putD_same ..

/-- A flit without credit takes the link DOWN (R407). -/
theorem State.flitData_over (hgrant : vcGet (s.link n).grant f.vc = 0) : s.flitData n f = (s.linkBreak n).flag F.EVL_EVT_CREDIT_OVER n := by
  have hmod : f.vc % 4 = f.vc := Nat.mod_eq_of_lt hvc
  unfold State.flitData
  dsimp only
  rw [if_pos hseq, if_neg (FlitIn.body_ok hbody hptr), hmod, if_pos hgrant]
end

section
variable (hseq : f.seq ≠ (s.link n).eseq) (hwait : (s.link n).nakWait = false)
include hseq hwait

/-- A duplicate delivers nothing (R400). -/
theorem State.flitData_duplicate (hf : f.seq < 4096) (he : (s.link n).eseq < 4096) (hold : ((s.link n).eseq + 4096 - f.seq) % 4096 ≤ 2048) :
    s.flitData n f = s := by
  unfold State.flitData
  dsimp only
  rw [if_neg hseq, hwait, if_neg (by decide), if_pos ⟨by omega, hold⟩]

/-- A number beyond the window takes the link DOWN (R400, R407). -/
theorem State.flitData_beyond (hnew : 2048 < ((s.link n).eseq + 4096 - f.seq) % 4096) : s.flitData n f = s.linkBreak n := by
  unfold State.flitData
  dsimp only
  rw [if_neg hseq, hwait, if_neg (by decide), if_neg (by omega)]
end

/-- A violation takes the link DOWN with SEQ_ERR (R407). -/
theorem State.linkBreak_down (hup : s.linkState n ≠ 0) : (s.linkBreak n).linkState n = 0 ∧ (s.linkBreak n).get F.EVL_EVT_SEQ_ERR n = 1 := by
  obtain ⟨hst, -⟩ := State.linkDown_down hup
  refine ⟨?_, State.get_flag_same _ _ _ _ (by decide) (by decide)⟩
  rw [State.linkBreak, State.linkState, State.get_flag_reg _ _ _ _ _ (by decide)]
  exact hst

/-- A flit with a bad CRC (R398, R402): counted, and a resend is asked for. -/
def State.crcFailed (s : State) (n : Nat) : State :=
  let u := (s.bump F.EVL_ERR_CNT_CRC n).flag F.EVL_EVT_CRC_FAIL n
  u.modLink n (fun l =>
    { l with nakWait := true, nakDue := l.nakDue || (!l.nakWait || decide (l.nakAt + 2 * usAclk ≤ s.now)),
             nakAt := if !l.nakWait || decide (l.nakAt + 2 * usAclk ≤ s.now) then s.now else l.nakAt,
             ucw := ((s.link n).ucw.filter (fun t => decide (s.now < t + 1000 * usAclk))) ++ [] })

theorem flitReceive_crcFailed (hactive : s.linkActive n = true) (hcrc : f.crcOk = false) (hucw : f.ucw = false) :
    exec (.dataFlitReceive n f) s = .next ((s.bump F.EVL_ERR_CNT_CORR_SYM n f.corr).crcFailed n) ∧
    exec (.idleFlitReceive n f) s = .next ((s.bump F.EVL_ERR_CNT_CORR_SYM n f.corr).crcFailed n) := by
  have hbad (u : State) : u.flitBad n false = u.crcFailed n := rfl
  refine ⟨?_, ?_⟩
  · show execDataFlitReceive n f s = _
    unfold execDataFlitReceive
    dsimp only
    rw [if_neg (by simp [hactive]), if_pos (by simp [hcrc]), hucw, hbad]
  · show execIdleFlitReceive n f s = _
    unfold execIdleFlitReceive
    dsimp only
    rw [if_neg (by simp [hactive]), if_pos (by simp [hcrc]), hucw, hbad]

end
end Sys2Proof.Machine
end

section
/-! PROOFS. Flits that leave, and the timeouts of acknowledgement and credit (R399, R401, R402, R404, R405, R407). -/

namespace Sys2Proof.Machine

open Sys2Proof

/-! ### The link as a flit leaves -/

/-- Delayed credit returns that are due join those owed; the rest of the record stays (R726). -/
theorem LinkSt.dueCredits_eq (l : LinkSt) (now : Nat) : l.dueCredits now = { l with ret := (l.dueCredits now).ret, late := (l.dueCredits now).late } := by
  have hfold (ds : List (Nat × Nat)) (x : LinkSt) :
      let y := ds.foldl (fun (l : LinkSt) d => { l with ret := vcSet l.ret d.1 (vcGet l.ret d.1 + 1) }) x
      y = { x with ret := y.ret } := by
    induction ds generalizing x with
    | nil => rfl
    | cons d ds ih =>
      intro y
      have hy := ih { x with ret := vcSet x.ret d.1 (vcGet x.ret d.1 + 1) }
      exact hy
  unfold LinkSt.dueCredits
  rw [hfold]

/-- The record of a link after a flit has taken the credit return it carries, and a NAK that was due (R399, R404). -/
def State.flitLink (s : State) (n : Nat) : LinkSt :=
  let l := (s.link n).dueCredits s.now
  let c := l.credReturn
  { l with ret := vcSet l.ret c.1 (vcGet l.ret c.1 - c.2), rr := if c.2 = 0 then l.rr else c.1, grant := vcSet l.grant c.1 (vcGet l.grant c.1 + c.2),
           nakDue := false }

/-- What every flit carries (R399): the acknowledgement, a NAK that is due, and a credit return. -/
def State.flitHead (s : State) (n : Nat) : FlitIn :=
  let l := (s.link n).dueCredits s.now
  { crcOk := true, ucw := false, ftype := 1, vc := 0, seq := 0, ack := (l.eseq + 4095) % 4096, nak := l.nakDue, firstPtr := 0xFF,
    credVc := l.credReturn.1, credN := l.credReturn.2, body := [] }

section
variable (s : State) (n : Nat)

/-- A flit that leaves changes of the record the credits owed and granted, the turn of the returns, and the NAK that was due. -/
theorem State.flitLink_eq : s.flitLink n = { s.link n with
    ret := (s.flitLink n).ret, late := (s.flitLink n).late, rr := (s.flitLink n).rr, grant := (s.flitLink n).grant, nakDue := false } := by
  unfold State.flitLink
  dsimp only
  rw [LinkSt.dueCredits_eq]

theorem State.flitHead_ack : (s.flitHead n).ack = ((s.link n).eseq + 4095) % 4096 := by
  unfold State.flitHead
  dsimp only
  rw [LinkSt.dueCredits_eq]

theorem State.flitHead_nak : (s.flitHead n).nak = (s.link n).nakDue := by
  unfold State.flitHead
  dsimp only
  rw [LinkSt.dueCredits_eq]

/-! ### The next VC and the body of its flit (R405) -/

/-- A VC that is chosen has packets that may leave and credit. -/
theorem State.txVc_some {vc : Nat} (h : s.txVc n = some vc) : vc < 4 ∧ (s.link n).txReady vc s.now ≠ [] := by
  have hready {v : Nat} (hok : (!((s.link n).txReady v s.now).isEmpty && decide (0 < s.get (credField v) n)) = true) : (s.link n).txReady v s.now ≠ [] := by
    simp only [Bool.and_eq_true, Bool.not_eq_true', List.isEmpty_eq_false_iff] at hok
    exact hok.1
  unfold State.txVc at h
  dsimp only at h
  split at h
  · next h3 => cases h; exact ⟨by decide, hready h3⟩
  · split at h
    · next h1 => cases h; exact ⟨by decide, hready h1⟩
    · split at h
      · split at h
        · next h0 => cases h; exact ⟨by decide, hready h0⟩
        · split at h
          · next h2 => cases h; exact ⟨by decide, hready h2⟩
          · cases h
      · split at h
        · next h2 => cases h; exact ⟨by decide, hready h2⟩
        · split at h
          · next h0 => cases h; exact ⟨by decide, hready h0⟩
          · cases h

/-- The choice rests on the streams, on the turn of VC0 and VC2 and on the credits alone. -/
theorem State.txVc_setLink (x : LinkSt) (htx : x.tx = (s.link n).tx) (halt : x.alt = (s.link n).alt) : (s.setLink n x).txVc n = s.txVc n := by
  unfold State.txVc LinkSt.txReady
  simp only [State.link_setLink_same, htx, halt]
  rfl

/-- A packet that fits goes whole into a body, where it begins (R399). -/
theorem txFill_whole (share ringN : Nat) (p : Packet) (hfits : (encodePacket p).length ≤ 245) :
    txFill share 2 245 ringN [] none [{ p := p }] = (encodePacket p, some 0, [], ringN) := by
  have hempty (room : Nat) (acc : List Byte) : txFill share 1 room ringN acc (some 0) [] = (acc, some 0, [], ringN) := by
    simp [txFill, txPick]
  have hpick : txPick [{ p := p }] share ringN = some { p := p } := by simp [txPick]
  rw [txFill]
  simp [hpick, Nat.min_eq_right hfits, dropFirst, hempty]

/-- A stream that holds one packet and may leave is that packet. -/
theorem LinkSt.txReady_one {l : LinkSt} {vc now : Nat} {t : TxPkt} (hone : lookD [] l.tx vc = [t]) (hready : l.txReady vc now ≠ []) :
    l.txReady vc now = [t] := by
  unfold LinkSt.txReady at *
  rw [hone, List.takeWhile_cons] at *
  split
  · rfl
  · next h => rw [if_neg h] at hready; exact absurd rfl hready

end

/-! ### The flit that leaves (R399, R401, R405) -/

section
variable {s : State} {n : Nat}

theorem flitTransmit_resends {q : Nat} {f : FlitIn} (hactive : s.linkActive n = true) (hresend : (s.link n).resend = some q)
    (hheld : (s.link n).replay.find? (fun f => decide (f.seq = q)) = some f) :
    let after := ((s.flitLink n).replay.dropWhile (fun g => decide (g.seq ≠ f.seq))).drop 1
    let u := s.setLink n { s.flitLink n with resend := (after.head?).map (fun g => g.seq) }
    exec (.flitTransmit n) s = .next (((u.pmon .EVL n 0xA0 0 1).pmon .EVL n 0xA2 0 1).send
      (.linkFlit n { s.flitHead n with ftype := 0, vc := f.vc, seq := f.seq, firstPtr := f.firstPtr, body := f.body })) := by
  have hfind : ((s.link n).dueCredits s.now).resend = some q ∧
      ((s.link n).dueCredits s.now).replay.find? (fun f => decide (f.seq = q)) = some f := by
    rw [LinkSt.dueCredits_eq]; exact ⟨hresend, hheld⟩
  show execFlitTransmit n s = _
  unfold execFlitTransmit
  rw [if_neg (by simp [hactive])]
  simp only [hfind.1, hfind.2]
  rfl

/-- The record of a link that has nothing to resend (R402). -/
def State.flitFree (s : State) (n : Nat) : LinkSt := { s.flitLink n with resend := none }

/-- The VC of a new DATA flit, while fewer than 2,048 flits are held (R401, R405). -/
theorem State.flitFree_choice : (if (s.flitFree n).replay.length < 2048 then (s.setLink n (s.flitFree n)).txVc n else none) =
    if (s.link n).replay.length < 2048 then s.txVc n else none := by
  have hlink := s.flitLink_eq n
  rw [s.txVc_setLink n (s.flitFree n) (by rw [State.flitFree, hlink]) (by rw [State.flitFree, hlink])]
  unfold State.flitFree
  rw [hlink]

/-- A new DATA flit of a VC, filled from its stream, counted and held for replay (R399, R401, R405). -/
def State.flitFresh (u : State) (l : LinkSt) (head : FlitIn) (n vc : Nat) : State :=
  let q := l.txReady vc u.now
  let r := txFill (u.shareOf n q) (q.length + 1) 245 l.ringN [] none q
  let f := { head with ftype := 0, vc := vc, seq := u.get F.EVL_REPLAY_NEXT_SEQ n, firstPtr := r.2.1.getD 0xFF, body := r.1 }
  let l' := { l with tx := putD natLt [] l.tx vc (r.2.2.1 ++ (lookD [] l.tx vc).drop q.length), replay := l.replay ++ [f], ringN := r.2.2.2,
                     ackAt := if l.replay.isEmpty then u.now else l.ackAt, alt := if vc = 2 then true else if vc = 0 then false else l.alt }
  let t := (u.setLink n l').set F.EVL_REPLAY_NEXT_SEQ n ((u.get F.EVL_REPLAY_NEXT_SEQ n + 1) % 4096)
  let t := (t.pmon .EVL n 0xA0 0 1).pmon .EVL n 0xA4 0 (r.2.2.2 - l.ringN)
  (t.setCred n vc (t.get (credField vc) n - 1)).send (.linkFlit n f)

section
variable (hactive : s.linkActive n = true) (hresend : (s.link n).resend = none)
include hactive hresend

/-- Without a flit to be resent, and with no new one, an IDLE flit leaves. -/
theorem flitTransmit_idles (hnone : s.txVc n = none ∨ 2048 ≤ (s.link n).replay.length) :
    exec (.flitTransmit n) s = .next (((s.setLink n (s.flitFree n)).pmon .EVL n 0xA0 0 1).send (.linkFlit n (s.flitHead n))) := by
  have hno : (if (s.flitFree n).replay.length < 2048 then (s.setLink n (s.flitFree n)).txVc n else none) = none := by
    rw [s.flitFree_choice]
    rcases hnone with h | h
    · rw [h, ite_self]
    · rw [if_neg (by omega)]
  have hagain : ((s.link n).dueCredits s.now).resend = none := by rw [LinkSt.dueCredits_eq]; exact hresend
  show execFlitTransmit n s = _
  unfold execFlitTransmit
  rw [if_neg (by simp [hactive])]
  simp only [hagain]
  unfold State.flitFree State.flitLink at hno ⊢
  dsimp only at hno ⊢
  rw [hno]
  rfl

/-- With room for another flit held, the VC that is chosen gives a new one. -/
theorem flitTransmit_fresh {vc : Nat} (hroom : (s.link n).replay.length < 2048) (hvc : s.txVc n = some vc) :
    exec (.flitTransmit n) s = .next ((s.setLink n (s.flitFree n)).flitFresh (s.flitFree n) (s.flitHead n) n vc) := by
  have hyes : (if (s.flitFree n).replay.length < 2048 then (s.setLink n (s.flitFree n)).txVc n else none) = some vc := by
    rw [s.flitFree_choice, if_pos hroom, hvc]
  have hagain : ((s.link n).dueCredits s.now).resend = none := by rw [LinkSt.dueCredits_eq]; exact hresend
  show execFlitTransmit n s = _
  unfold execFlitTransmit
  rw [if_neg (by simp [hactive])]
  simp only [hagain]
  unfold State.flitFree State.flitLink at hyes ⊢
  dsimp only at hyes ⊢
  rw [hyes]
  rfl
end

/-- What a new DATA flit of one whole packet is, and what it leaves (R399, R401, R404). -/
theorem State.flitFresh_whole {u : State} {l : LinkSt} {head : FlitIn} {vc : Nat} {p : Packet} (hready : l.txReady vc u.now = [{ p := p }])
    (hone : lookD [] l.tx vc = [{ p := p }]) (hfits : (encodePacket p).length ≤ 245) :
    let t := u.flitFresh l head n vc
    let g := { head with ftype := 0, vc := vc, seq := u.get F.EVL_REPLAY_NEXT_SEQ n, firstPtr := 0, body := encodePacket p }
    t.out = u.out ++ [.linkFlit n g] ∧ (t.link n).replay = l.replay ++ [g] ∧ lookD [] (t.link n).tx vc = [] ∧
      t.get F.EVL_REPLAY_NEXT_SEQ n = (u.get F.EVL_REPLAY_NEXT_SEQ n + 1) % 4096 ∧ t.get (credField vc) n = u.get (credField vc) n - 1 := by
  intro t g
  let x : LinkSt := { l with
    tx := putD natLt [] l.tx vc ([] ++ (lookD [] l.tx vc).drop 1), replay := l.replay ++ [g],
    ackAt := if l.replay.isEmpty then u.now else l.ackAt, alt := if vc = 2 then true else if vc = 0 then false else l.alt }
  let v := (u.setLink n x).set F.EVL_REPLAY_NEXT_SEQ n ((u.get F.EVL_REPLAY_NEXT_SEQ n + 1) % 4096)
  let w := (v.pmon .EVL n 0xA0 0 1).pmon .EVL n 0xA4 0 (l.ringN - l.ringN)
  have ht : t = (w.setCred n vc (w.get (credField vc) n - 1)).send (.linkFlit n g) := by
    have hfill := txFill_whole (u.shareOf n [{ p := p }]) l.ringN p hfits
    show State.flitFresh .. = _
    unfold State.flitFresh
    dsimp only
    rw [hready, show ([{ p := p }] : List TxPkt).length + 1 = 2 from rfl, hfill]
    rfl
  have hmark : RegsMarked [.PMON_CNT, .PMON_WRAP] v w := (v.pmon_marked ..).trans (State.pmon_marked ..)
  have hlink : t.link n = { x with zero := (t.link n).zero } := by
    have hv : w.link n = x := (hmark.link n).trans (State.link_setLink_same ..)
    have hcred := w.setCred_link n vc (w.get (credField vc) n - 1) n
    rw [hv] at hcred
    rw [ht]
    exact hcred
  have hcredits : w.get (credField vc) n = u.get (credField vc) n := by
    rw [hmark.get _ _ (by rw [credField_reg]; decide), State.get_set_reg _ _ _ _ _ _ _ _ (by rw [credField_reg]; decide), State.setLink_get]
  refine ⟨?_, by rw [hlink], by rw [hlink]; exact (lookD_putD_same ..).trans (by rw [hone]; rfl), ?_, ?_⟩
  · rw [ht]
    show (w.setCred ..).out ++ _ = _
    rw [State.setCred_out, hmark.out]
    rfl
  · rw [ht]
    show (w.setCred ..).get _ n = _
    rw [State.setCred_get_reg _ _ _ _ _ _ (by decide), hmark.get _ _ (by decide)]
    exact State.get_set_fits _ _ _ _ (by decide) (Nat.mod_lt _ (by decide))
  · rw [ht]
    show (w.setCred ..).get _ n = _
    have hlt := u.get_lt (credField vc) n 0
    rw [credField_width] at hlt
    rw [State.setCred_get_same, hcredits, Nat.mod_eq_of_lt (by omega)]

/-! ### Timeouts (R402, R407) -/

theorem ackTimeout_retrains (hactive : s.linkActive n = true) (hheld : (s.link n).replay ≠ [])
    (hlate : (s.link n).ackAt + max 1 (s.get F.EVL_CFG_ACK_TIMEOUT n) * 1900 ≤ s.now) : exec (.ackTimeout n) s = .next (s.linkRetrain n) := by
  show execAckTimeout n s = _
  unfold execAckTimeout usAclk
  dsimp only
  rw [if_neg (by simp [hactive, hheld]), State.at_of_le _ _ hlate]

theorem creditStall_reports {vc t : Nat} (hactive : s.linkActive n = true) (hvc : vc < 4) (hzero : find? (s.link n).zero vc = some t)
    (hlate : t + 190000 ≤ s.now) : exec (.creditStall n vc) s = .next (s.flag F.EVL_EVT_CREDIT_STALL n) := by
  show execCreditStall n vc s = _
  unfold execCreditStall usAclk
  rw [Nat.mod_eq_of_lt hvc, hzero]
  dsimp only
  rw [if_pos hactive, State.at_of_le _ _ hlate]

end
end Sys2Proof.Machine
end

section
/-! PROOFS. The exchange of flits put together (R398 to R407). -/

namespace Sys2Proof.Machine

open Sys2Proof

section
variable {s : State} {n : Nat} {f : FlitIn}

/-- What a flit in sequence, with credit, leaves (R400, R404). -/
theorem State.flitAcked_taken (hactive : s.linkActive n = true) (hvc : f.vc < 4) (hbody : f.body ≠ [])
    (hptr : f.firstPtr = 0xFF ∨ f.firstPtr < f.body.length) (hseq : f.seq = (s.link n).eseq) (hgrant : vcGet (s.link n).grant f.vc ≠ 0)
    (hpert : s.pertCredit n f.vc = false) :
    let t := (s.flitAcked n f).flitData n f
    t.linkActive n = true ∧ FlitTaken f { s.link n with replay := ackDrop f.ack (s.link n).replay } (t.link n) ∧
      (∀ m, m ≠ n → t.link m = s.link m) ∧ t.mem = s.mem := by
  intro t
  have hlink := s.flitAcked_link n f
  have hpert' : (s.flitAcked n f).pertCredit n f.vc = false := by
    unfold State.pertCredit State.bit State.sub at *
    simp (disch := decide) only [State.flitAcked_get]
    exact hpert
  obtain ⟨x, hx, htaken⟩ := State.flitData_taken (s := s.flitAcked n f) hvc hbody hptr (by rw [hlink]; exact hseq) (by rw [hlink]; exact hgrant) hpert'
  have ht : t = (s.flitAcked n f).setLink n x := hx
  refine ⟨?_, ?_, fun m hm => ?_, ?_⟩
  · rw [ht]
    exact (s.flitAcked_active n f).trans hactive
  · rw [ht, State.link_setLink_same]
    rw [hlink] at htaken
    exact ⟨htaken.eseq, htaken.replay, htaken.grant, htaken.ret, htaken.rxq, htaken.rx⟩
  · rw [ht, State.link_setLink_other _ _ hm, s.flitAcked_other n f hm]
  · rw [ht]
    exact s.flitAcked_mem n f

@[simp] theorem State.send_link (u : State) (e : Out) (m : Nat) : (u.send e).link m = u.link m := rfl

theorem State.linkRetrain_now (u : State) (m : Nat) : (u.linkRetrain m).now = u.now := by
  unfold State.linkRetrain
  split <;> rfl

/-- What a flit with a bad CRC leaves, while no resend is waited for (R398, R402). -/
theorem State.crcFailed_effect (hwait : (s.link n).nakWait = false) :
    ((s.crcFailed n).link n).nakDue = true ∧ ((s.crcFailed n).link n).nakWait = true ∧ ((s.crcFailed n).link n).eseq = (s.link n).eseq ∧
      ((s.crcFailed n).link n).rxq = (s.link n).rxq ∧ ((s.crcFailed n).link n).replay = (s.link n).replay ∧
      (s.crcFailed n).linkState n = s.linkState n ∧ (s.crcFailed n).get F.EVL_EVT_CRC_FAIL n = 1 ∧
      (s.crcFailed n).get F.EVL_ERR_CNT_CRC n = min (s.get F.EVL_ERR_CNT_CRC n + 1) 0xFFFF := by
  unfold State.crcFailed
  refine ⟨by simp [hwait], by simp, by simp, by simp, by simp, ?_, ?_, ?_⟩
  · simp (disch := decide) only [State.linkState, State.modLink_get, State.get_flag_reg, State.get_bump_reg]
  · rw [State.modLink_get, State.get_flag_same _ _ _ _ (by decide) (by decide)]
  · rw [State.modLink_get, State.get_flag_reg _ _ _ _ _ (by decide), State.get_bump_same _ _ _ _ _ (by decide)]
    rfl
end

/-- Settles O32: what arrives is acknowledged by `State.flitAcked` and goes by the cases of `State.flitData`; what leaves is what
`flitTransmit_resends`, `flitTransmit_fresh` and `flitTransmit_idles` name. -/
theorem flitExchange : Obligations.FlitExchange := by
  unfold Obligations.FlitExchange
  intro whole timeless covered
  refine ⟨fun s n f hactive ⟨hcrc, hucw, hdata⟩ hvc hnak hbody hptr => ?_, fun s n f hactive hcrc hucw hwait => ?_,
    fun s n f hactive ⟨hcrc, hucw, hidle⟩ => ⟨fun hnak => ?_, fun hnak => ?_⟩, fun s n hactive => ⟨?_, ?_, ?_, ?_, ?_⟩⟩
  case refine_1 =>
    have hexec := dataFlitReceive_whole hactive hcrc hucw hdata hnak
    have hlink := s.flitAcked_link n f
    have hup : (s.flitAcked n f).linkActive n = true := (s.flitAcked_active n f).trans hactive
    have hst : (s.flitAcked n f).linkState n ≠ 0 := by rw [of_decide_eq_true hup]; decide
    have heseq : ((s.flitAcked n f).link n).eseq = (s.link n).eseq := by rw [hlink]
    refine ⟨fun hseq hgrant hpert => ?_, fun hseq hgrant => ?_, fun hseq hwait hf he => ?_⟩
    · obtain ⟨hact, htaken, hother, hmem⟩ := State.flitAcked_taken hactive hvc hbody hptr hseq hgrant hpert
      exact ⟨_, hexec, hact, htaken.eseq, htaken.replay, htaken.grant, htaken.ret, ⟨htaken.rxq, htaken.rx⟩, hother, hmem⟩
    · obtain ⟨hdown, hevt⟩ := State.linkBreak_down hst
      rw [State.flitData_over hvc hbody hptr (hseq.trans heseq.symm) (by rw [hlink]; exact hgrant)] at hexec
      refine ⟨_, hexec, ?_, State.get_flag_same _ _ _ _ (by decide) (by decide), ?_⟩
      · rw [State.linkState, State.get_flag_reg _ _ _ _ _ (by decide)]
        exact hdown
      · rw [State.get_flag_apart _ _ _ _ _ (by decide) (by decide) (by decide)]
        exact hevt
    · have hseq' : f.seq ≠ ((s.flitAcked n f).link n).eseq := heseq ▸ hseq
      have hwait' : ((s.flitAcked n f).link n).nakWait = false := by rw [hlink]; exact hwait
      refine ⟨fun hold => ?_, fun hnew => ?_⟩
      · rw [State.flitData_duplicate hseq' hwait' hf (heseq ▸ he) (heseq ▸ hold)] at hexec
        exact ⟨_, hexec, hup, heseq, by rw [hlink], by rw [hlink], congrArg LinkSt.replay hlink⟩
      · rw [State.flitData_beyond hseq' hwait' (heseq ▸ hnew)] at hexec
        exact ⟨_, hexec, State.linkBreak_down hst⟩
  case refine_2 =>
    obtain ⟨hdata, hidle⟩ := flitReceive_crcFailed hactive hcrc hucw
    obtain ⟨hdue, hwaits, heseq, hrxq, hreplay, hstate, hevt, hcount⟩ :=
      State.crcFailed_effect (s := s.bump F.EVL_ERR_CNT_CORR_SYM n f.corr) (n := n) hwait
    refine ⟨_, hdata, hidle, ?_, hdue, hwaits, heseq, hrxq, hreplay, hevt, ?_⟩
    · rw [State.linkState, State.linkState, State.get_bump_reg _ _ _ _ _ _ (by decide)] at hstate
      exact decide_eq_true (hstate.trans (of_decide_eq_true hactive))
    · rw [hcount, State.get_bump_apart _ _ _ _ _ _ (by decide) (by decide) (by decide)]
  case refine_3 =>
    have hexec := idleFlitReceive_whole hactive hcrc hucw hidle
    have hlink := s.flitAcked_link n f
    rw [State.flitControl_ack hnak] at hexec
    exact ⟨_, hexec, congrArg LinkSt.replay hlink, by rw [hlink], by rw [hlink], (s.flitAcked_active n f).trans hactive, s.flitAcked_credits n f⟩
  case refine_4 => exact ⟨_, idleFlitReceive_whole hactive hcrc hucw hidle, State.flitControl_resends hnak⟩
  case refine_5 =>
    intro q f hresend hheld
    have hexec := flitTransmit_resends hactive hresend hheld
    dsimp only at hexec
    have hmark (u : State) : RegsMarked [.PMON_CNT, .PMON_WRAP] u ((u.pmon .EVL n 0xA0 0 1).pmon .EVL n 0xA2 0 1) :=
      (State.pmon_marked ..).trans (State.pmon_marked ..)
    refine ⟨_, _, hexec, congrArg (· ++ _) (hmark _).out, rfl, rfl, rfl, rfl, rfl, ?_, ?_⟩
    all_goals rw [State.send_link, (hmark _).link, State.link_setLink_same, s.flitLink_eq n]
  case refine_6 =>
    intro vc p hresend hroom hvc hone hfits hp
    have hlink := s.flitLink_eq n
    have hfree : lookD [] (s.flitFree n).tx vc = [{ p := p }] := by rw [State.flitFree, hlink]; exact hone
    have hready : (s.flitFree n).txReady vc s.now = [{ p := p }] := by
      refine LinkSt.txReady_one hfree ?_
      rw [State.flitFree, hlink]
      exact (s.txVc_some n hvc).2
    obtain ⟨hout, hheld, htx, hnext, hcred⟩ := State.flitFresh_whole (u := s.setLink n (s.flitFree n)) (n := n) (head := s.flitHead n) hready hfree hfits
    refine ⟨_, _, flitTransmit_fresh hactive hresend hroom hvc, hout, rfl, rfl, rfl, rfl, rfl, rfl, s.flitHead_ack n, ?_, htx, hnext, hcred⟩
    rw [hheld, State.flitFree, hlink]
  case refine_7 =>
    intro hresend hnone
    have hmark := State.pmon_marked (s.setLink n (s.flitFree n)) .EVL n 0xA0 0 1
    refine ⟨_, _, flitTransmit_idles hactive hresend hnone, congrArg (· ++ _) hmark.out, rfl, rfl, s.flitHead_nak n, s.flitHead_ack n, ?_, ?_⟩
    all_goals rw [State.send_link, hmark.link, State.link_setLink_same, State.flitFree, s.flitLink_eq n]
  case refine_8 =>
    intro hheld hlate
    obtain ⟨hstate, hretrain, -, hevt, -⟩ := State.linkRetrain_retrains hactive
    exact ⟨_, ackTimeout_retrains hactive hheld hlate, hstate, hretrain, hevt, s.linkRetrain_now n⟩
  case refine_9 =>
    intro vc t hvc hzero hlate
    exact ⟨_, creditStall_reports hactive hvc hzero hlate, State.get_flag_same _ _ _ _ (by decide) (by decide), rfl, rfl⟩

end Sys2Proof.Machine
end

section
/-! PROOFS. Packets from a link at the hub: streams, routes, tags, requests into the module and answers to its cores (R408 to R418, R572). -/

namespace Sys2Proof.Machine

open Sys2Proof

/-! ### The head of a link's stream -/

/-- A link whose packets of a VC that were received whole are `more`. -/
def State.linkPopped (s : State) (k vc : Nat) (more : List Packet) : State := s.modLink k (fun l => { l with rxq := putD natLt [] l.rxq vc more })

section
variable (s : State) (k vc : Nat) (more : List Packet)

@[simp] theorem State.linkPopped_stream : lookD [] ((s.linkPopped k vc more).link k).rxq vc = more := by
  rw [State.linkPopped, State.link_modLink_same]
  exact lookD_putD_same ..

/-- What is taken from a stream is in no other part of the records of the links. -/
theorem State.linkPopped_field {A : Type} (n : Nat) (π : LinkSt → A) (h : ∀ l x, π { l with rxq := x } = π l) :
    π ((s.linkPopped k vc more).link n) = π (s.link n) := s.link_modLink_field k n _ π (fun l => h l _)

@[simp] theorem State.linkPopped_tx (n : Nat) : ((s.linkPopped k vc more).link n).tx = (s.link n).tx :=
  s.linkPopped_field k vc more n LinkSt.tx (fun _ _ => rfl)

theorem State.linkPopped_linkUp (n : Nat) : (s.linkPopped k vc more).linkUp n = s.linkUp n :=
  State.linkUp_congr (s := s) (t := s.linkPopped k vc more) (fun _ _ _ _ => rfl) (s.linkPopped_field k vc more n LinkSt.retrain (fun _ _ => rfl))

theorem State.linkPopped_routeLink (m : Nat) : (s.linkPopped k vc more).routeLink m = s.routeLink m := by
  unfold State.routeLink
  simp only [State.linkPopped_linkUp]
  rfl
end

/-- The hub's work takes no packet from the streams that were received. -/
theorem HubFrame.rxq {s t : State} (h : HubFrame s t) (n : Nat) : (t.link n).rxq = (s.link n).rxq := by rw [h.link n]

/-! ### Routes and misses (R412, R413) -/

section
variable (s : State) (p : Packet) (k : Nat)

/-- A packet joins the end of its VC's stream. -/
@[simp] theorem State.linkQueue_stream (n : Nat) (ring : Bool) :
    lookD [] ((s.linkQueue n p ring).link n).tx p.vc = lookD [] (s.link n).tx p.vc ++ [{ p := p, ring := ring }] := by
  rw [State.linkQueue, State.link_modLink_same]
  exact lookD_putD_same ..

/-- A packet of another module takes the link of its route (R412). -/
theorem State.routeOut_transit : s.routeOut p false =
    (s.routeLink p.mod).map (fun r => (s.flagIf r.2 F.EVL_COM_EVT_ROUTE_ALT 36).linkQueue r.1 p false) := by
  have hsame : s.flagIf false F.EVL_COM_EVT_RING_UNPINNED 36 = s := rfl
  unfold State.routeOut
  simp only [Bool.false_and, Bool.false_eq_true, if_false, hsame]
  cases s.routeLink p.mod <;> rfl

/-- The count and the event of a miss (R413). -/
def State.missed (s : State) : State := (s.bump F.EVL_DROP_CNT_UNROUTABLE 36).flag F.EVL_COM_EVT_UNROUTABLE 36

/-- The record of a miss (R413). -/
def State.missWord (s : State) (p : Packet) (k : Nat) : Nat :=
  2 ^ 63 + p.vc * 2 ^ 61 + k * 2 ^ 55 + p.mod * 2 ^ 32 + (if p.smod = 0xFFFF then s.modId else p.smod) * 2 ^ 16

theorem State.unroutable_eq : s.unroutable p k =
    if s.missed.get F.EVL_UNROUT_LOG_VALID 36 = 1 then s.missed else s.missed.wr ⟨.EVL_UNROUT_LOG, 36, 0⟩ (BitVec.ofNat 64 (s.missed.missWord p k)) := rfl

/-- The record of a miss is not in the registers of its count and event. -/
theorem State.unroutable_get {f : Field} (i j : Nat) (h : f.reg ≠ .EVL_UNROUT_LOG) : (s.unroutable p k).get f i j = s.missed.get f i j := by
  rw [State.unroutable_eq]
  split
  · rfl
  · exact State.get_wr_reg _ _ _ _ _ _ _ h

theorem State.unroutable_event : (s.unroutable p k).get F.EVL_COM_EVT_UNROUTABLE 36 = 1 := by
  rw [State.unroutable_get _ _ _ _ _ (by decide)]
  exact State.get_flag_same _ _ _ _ (by decide) (by decide)

theorem State.unroutable_count : (s.unroutable p k).get F.EVL_DROP_CNT_UNROUTABLE 36 =
    min (s.get F.EVL_DROP_CNT_UNROUTABLE 36 + 1) (2 ^ F.EVL_DROP_CNT_UNROUTABLE.width - 1) := by
  rw [State.unroutable_get _ _ _ _ _ (by decide), State.missed, State.get_flag_reg _ _ _ _ _ (by decide), State.get_bump_same _ _ _ _ _ (by decide)]

/-- A miss leaves a valid record: its own, or the one that was there (R413). -/
theorem State.unroutable_record (hk : k < 36) (hvc : p.vc < 4) (hmod : p.mod < 2 ^ 16) (hsmod : p.smod < 2 ^ 16) :
    (s.unroutable p k).get F.EVL_UNROUT_LOG_VALID 36 = 1 := by
  rw [State.unroutable_eq]
  split
  · next h => exact h
  · have hself : s.missed.modId < 2 ^ 16 := State.get_lt ..
    have hfrom : (if p.smod = 0xFFFF then s.missed.modId else p.smod) < 2 ^ 16 := by split <;> assumption
    have hword : s.missed.missWord p k < 2 ^ 64 ∧ s.missed.missWord p k / 2 ^ 63 = 1 := by
      unfold State.missWord
      omega
    show F.EVL_UNROUT_LOG_VALID.of (State.rd _ _) = 1
    rw [State.rd_wr_same, Field.of_ofNat _ hword.1, show F.EVL_UNROUT_LOG_VALID.lo = 63 from rfl, hword.2]
    rfl
end

/-! ### Hub tags (R416) -/

section
variable {A : Type} (l : List A) (key : A → Nat)

/-- What is taken out of a list by its key is not found in it. -/
theorem find?_filter_key_same (k : Nat) : (l.filter (fun x => decide (key x ≠ k))).find? (fun x => decide (key x = k)) = none := by
  simp [List.find?_eq_none]

theorem find?_filter_key_other {k j : Nat} (h : j ≠ k) :
    (l.filter (fun x => decide (key x ≠ k))).find? (fun x => decide (key x = j)) = l.find? (fun x => decide (key x = j)) := by
  rw [List.find?_filter]
  refine congrArg (fun g => l.find? g) (funext fun x => ?_)
  by_cases hx : key x = j
  · simp [hx, h]
  · simp [hx]
end

section
variable (s : State)

theorem State.hubTag_tag {t : Nat} {h : HubTag} (hfound : s.hubTag t = some h) : h.tag = t := of_decide_eq_true (List.find?_some hfound :)

@[simp] theorem State.hubTag_dropHubTag_same (t : Nat) : (s.dropHubTag t).hubTag t = none := find?_filter_key_same s.hubTags HubTag.tag t

theorem State.hubTag_dropHubTag_other {t j : Nat} (h : j ≠ t) : (s.dropHubTag t).hubTag j = s.hubTag j :=
  find?_filter_key_other s.hubTags HubTag.tag h

/-- A tag that is taken joins the tags in use; what else changes is the high water. -/
theorem State.addHubTag_rest (h : HubTag) : s.addHubTag h = { s with hubTags := s.hubTags ++ [h], regs := (s.addHubTag h).regs } := rfl

/-- The packet that answers a request of this module's cores. -/
def coreAnswer (p : Packet) (typ status reason : Nat) (data : List Byte) : Packet :=
  { p with typ := typ, vc := 1, dnode := p.snode, status := status, reason := reason, payload := data }

/-- An answer of the hub enters the die of the core that asked, for its node (R408). -/
theorem State.hubToCore_eq (p : Packet) (typ status reason : Nat) (data : List Byte) :
    s.hubToCore p typ status reason data = s.inject (nodeKey p.sdie (0x40 + nodeCol p.snode)) (coreAnswer p typ status reason data) := by
  unfold State.hubToCore State.answer answerNode coreAnswer
  rw [if_pos rfl]

/-- An answer to an outgoing request frees its tag and enters the die of the core that asked (R416). -/
theorem State.linkAnswer_own {p : Packet} {h : HubTag} (htag : s.hubTag p.tag = some h) (hkind : h.kind = 0) :
    s.linkAnswer p = (s.dropHubTag p.tag).inject (nodeKey h.p.sdie (0x40 + nodeCol h.p.snode)) (coreAnswer h.p p.typ p.status p.reason p.payload) := by
  unfold State.linkAnswer
  simp only [htag]
  rw [if_pos hkind, s.hubTag_tag htag, State.hubToCore_eq]

theorem State.linkAnswer_late {p : Packet} (htag : s.hubTag p.tag = none) : s.linkAnswer p = s.flag F.EVL_COM_EVT_LATE_ANSWER 36 := by
  unfold State.linkAnswer
  rw [htag]
end

/-! ### Requests into the module (R416) -/

/-- A request for HBM or a core, as it enters its die at the hub bridge port. -/
def State.bridged (s : State) (p : Packet) (tag : Nat) : Packet :=
  { p with src := 0x800, tag := tag, mod := 0xFFFF, snode := 0x40 + (s.bridgeFor p.addr).2, sdie := (s.bridgeFor p.addr).1,
           dnode := if p.typ = 2 ∧ p.bop = 6 then 0 else s.dnodeFor (s.bridgeFor p.addr).1 5 (s.bridgeFor p.addr).2 0xFFFF p.addr, vc := vcOf p.typ }

theorem State.hubInject_eq (s : State) (p : Packet) (tag : Nat) :
    s.hubInject p tag = (s.inject (nodeKey (s.bridgeFor p.addr).1 (0x40 + (s.bridgeFor p.addr).2)) (s.bridged p tag), s.bridged p tag) := rfl

section
variable {s : State} {p : Packet} {k : Nat} (htyp : p.typ ≤ 7) (haddr : p.addr < 2 ^ 48) (hfar : s.far p.addr = .hbm ∨ ∃ c, s.far p.addr = .core c)
  (hopen : s.specR1 (0xFFFF * 2 ^ 48 + p.addr) = false) (hplain : s.specAddr 64 s.specCurs (0xFFFF * 2 ^ 48 + p.addr) = 0xFFFF * 2 ^ 48 + p.addr)
include htyp haddr hfar hopen hplain

/-- A request for HBM or a core enters its die with a tag, when one is free. -/
theorem State.hubLocal_memory : s.hubLocal p k = s.freeHubTag.map (fun t =>
    (s.inject (nodeKey (s.bridgeFor p.addr).1 (0x40 + (s.bridgeFor p.addr).2)) (s.bridged p t)).addHubTag
      { tag := t, kind := 1, p := p, link := k, at_ := s.now, sent := s.bridged p t }) := by
  have hmapped : s.hubUnmapped p.addr = false := by
    unfold State.hubUnmapped
    rcases hfar with h | ⟨c, h⟩ <;> rw [h]
  have hwin : s.far p.addr ≠ .host := by rcases hfar with h | ⟨c, h⟩ <;> rw [h] <;> exact Far.noConfusion
  have hlocal : gLoc (0xFFFF * 2 ^ 48 + p.addr) = p.addr := by
    unfold gLoc
    omega
  unfold State.hubLocal
  rw [if_neg (by rw [hmapped, hopen]; simp; omega), if_neg hwin, hplain, hlocal]
  cases htag : s.freeHubTag with
  | none => rfl
  | some t =>
    have hone : (if p.typ = 1 then 1 else p.typ) = p.typ := by split <;> omega
    rcases hfar with h | ⟨c, h⟩
    all_goals
      simp only [h, hone]
      rfl
end

/-! ### LINK_PACKET_FORWARD, LINK_SIGNAL and HUB_TAG_TIMEOUT by their cases -/

section
variable {s : State} {k vc : Nat} {p : Packet} {more : List Packet}

theorem linkPacketForward_unadmitted (hhead : lookD [] (s.link k).rxq vc = p :: more) (hadm : s.admitted k = false) :
    exec (.linkPacketForward k vc) s = .next ((s.linkPopped k vc more).unroutable p k) := by
  show execLinkPacketForward k vc s = _
  unfold execLinkPacketForward
  rw [hhead]
  dsimp only
  rw [if_pos (by simp [hadm])]
  rfl

section
variable (hhead : lookD [] (s.link k).rxq vc = p :: more) (hadm : s.admitted k = true) (htyp : p.typ ≠ 8)
include hhead hadm htyp

section
variable (hother : s.ownMod p.mod = false) (hvc : vc = 3 → p.typ ≠ 18)
include hother hvc

/-- A packet for another module goes on by the link of its route (R412). -/
theorem linkPacketForward_routed {n : Nat} {alt : Bool} (hroute : s.routeLink p.mod = some (n, alt)) :
    exec (.linkPacketForward k vc) s = .next (((s.linkPopped k vc more).flagIf alt F.EVL_COM_EVT_ROUTE_ALT 36).linkQueue n p false) := by
  have hout : (s.linkPopped k vc more).routeOut p false = some (((s.linkPopped k vc more).flagIf alt F.EVL_COM_EVT_ROUTE_ALT 36).linkQueue n p false) := by
    rw [State.routeOut_transit, State.linkPopped_routeLink, hroute]
    rfl
  show execLinkPacketForward k vc s = _
  unfold execLinkPacketForward
  unfold State.linkPopped at hout
  rw [hhead]
  dsimp only
  rw [if_neg (by simp [hadm]), if_neg htyp, if_neg (fun h => hvc h.1 h.2), if_pos (by simp [hother]), hout]
  rfl

/-- An answer for another module that has no route is counted (R413). -/
theorem linkPacketForward_lost (hroute : s.routeLink p.mod = none) (hreq : vc ≠ 0 ∧ vc ≠ 2) :
    exec (.linkPacketForward k vc) s = .next ((s.linkPopped k vc more).unroutable p k) := by
  have hout : (s.linkPopped k vc more).routeOut p false = none := by
    rw [State.routeOut_transit, State.linkPopped_routeLink, hroute]
    rfl
  show execLinkPacketForward k vc s = _
  unfold execLinkPacketForward
  unfold State.linkPopped at hout
  rw [hhead]
  dsimp only
  rw [if_neg (by simp [hadm]), if_neg htyp, if_neg (fun h => hvc h.1 h.2), if_pos (by simp [hother]), hout, if_neg (by tauto)]
  rfl
end

section
variable (hown : s.ownMod p.mod = true)
include hown

/-- A request for this module goes into it, or stays when no tag is free (R416). -/
theorem linkPacketForward_local (hreq : vc = 0 ∨ vc = 2) : exec (.linkPacketForward k vc) s =
    .next (((s.linkPopped k vc more).hubLocal p k).getD (s.flag F.EVL_COM_EVT_TAG_STALL 36)) := by
  show execLinkPacketForward k vc s = _
  unfold execLinkPacketForward
  rw [hhead]
  dsimp only
  rw [if_neg (by simp [hadm]), if_neg htyp, if_neg (by omega), if_neg (by simp [hown]), if_neg (by omega), if_neg (by omega)]
  cases h : State.hubLocal _ p k <;> rw [State.linkPopped, h] <;> rfl

theorem linkPacketForward_answer (hans : vc = 1) : exec (.linkPacketForward k vc) s = .next ((s.linkPopped k vc more).linkAnswer p) := by
  show execLinkPacketForward k vc s = _
  unfold execLinkPacketForward
  rw [hhead]
  dsimp only
  rw [if_neg (by simp [hadm]), if_neg htyp, if_neg (by omega), if_neg (by simp [hown]), if_neg (by omega), if_pos hans]
  rfl

theorem linkPacketForward_message (hvc : vc = 3) (hmsg : p.typ = 17) : exec (.linkPacketForward k vc) s = .next (s.linkPopped k vc more) := by
  show execLinkPacketForward k vc s = _
  unfold execLinkPacketForward
  rw [hhead]
  dsimp only
  rw [if_neg (by simp [hadm]), if_neg htyp, if_neg (by omega), if_neg (by simp [hown]), if_pos hvc, if_neg (by omega)]
  rfl
end
end

/-- A signal for this module goes on to its core (R409). -/
theorem linkSignal_passes (hhead : lookD [] (s.link k).rxq 3 = p :: more) (hadm : s.admitted k = true) (hsig : p.typ = 16) (hown : s.ownMod p.mod = true)
    (hwin : (sigOf p.smod (s.now + 39) p.payload).win ≠ 8) :
    exec (.linkSignal k) s = .next ((s.linkPopped k 3 more).sigTo (sigOf p.smod (s.now + 39) p.payload)) := by
  show execLinkSignal k s = _
  unfold execLinkSignal
  rw [hhead]
  dsimp only
  rw [if_pos ⟨hsig, hown, hadm⟩]
  unfold State.rootSignal
  exact congrArg _ (if_neg hwin)

/-- A tag that has timed out is freed, counted and reported (R418). -/
def State.tagTimedOut (s : State) (tag : Nat) : State := ((s.dropHubTag tag).bump F.EVL_DROP_CNT_TIMEOUT 36).flag F.EVL_COM_EVT_TAG_TIMEOUT 36

theorem State.tagTimedOut_tags (s : State) (tag k j : Nat) (p : Packet) : ((s.tagTimedOut tag).inject k p).hubTag j = (s.dropHubTag tag).hubTag j := by
  have htags : ((s.tagTimedOut tag).inject k p).hubTags = (s.dropHubTag tag).hubTags := rfl
  rw [State.hubTag, htags, State.hubTag]

theorem State.tagTimedOut_event (s : State) (tag : Nat) : (s.tagTimedOut tag).get F.EVL_COM_EVT_TAG_TIMEOUT 36 = 1 :=
  State.get_flag_same _ _ _ _ (by decide) (by decide)

theorem State.tagTimedOut_count (s : State) (tag : Nat) : (s.tagTimedOut tag).get F.EVL_DROP_CNT_TIMEOUT 36 =
    min (s.get F.EVL_DROP_CNT_TIMEOUT 36 + 1) (2 ^ F.EVL_DROP_CNT_TIMEOUT.width - 1) := by
  rw [State.tagTimedOut, State.get_flag_reg _ _ _ _ _ (by decide), State.get_bump_same _ _ _ _ _ (by decide)]
  rfl

/-- The tag of an outgoing request that is held for its time is freed, and its core is refused (R418). -/
theorem hubTagTimeout_frees {tag : Nat} {h : HubTag} (htag : s.hubTag tag = some h) (hkind : h.kind = 0)
    (hlate : h.at_ + max 1 (s.get F.EVL_TAG_CFG_TIMEOUT 36) * 19000 ≤ s.now) :
    exec (.hubTagTimeout tag) s = .next ((s.tagTimedOut tag).inject
      (nodeKey h.p.sdie (0x40 + nodeCol h.p.snode)) (coreAnswer h.p (if h.p.typ = 8 then 9 else 5) 0 rUNROUTABLE [])) := by
  have hunit (m : Nat) : m * 10 * usAclk = m * 19000 := Nat.mul_assoc m 10 1900
  show execHubTagTimeout tag s = _
  unfold execHubTagTimeout
  rw [htag]
  dsimp only
  rw [if_neg (by simp [hkind]), hunit, State.at_of_le _ _ hlate, State.hubToCore_eq]
  rfl
end

end Sys2Proof.Machine
end

section
/-! PROOFS. What the hub does with a packet from a link, put together (R408 to R418, R572). -/

namespace Sys2Proof.Machine

open Sys2Proof

/-- Settles O34, command by command: each case of LINK_PACKET_FORWARD, LINK_SIGNAL and HUB_TAG_TIMEOUT is named by a lemma above, and its
effect is read off the operations it is made of. -/
theorem hubForwards : Obligations.HubForwards := by
  unfold Obligations.HubForwards
  intro head popped
  refine ⟨?discarded, ?routed, ?lost, ?request, ?answer, ?message, ?timeout⟩
  case discarded =>
    intro s k vc p more hhead hadm
    have hmark := (s.linkPopped k vc more).unroutable_marked p k
    refine ⟨_, linkPacketForward_unadmitted hhead hadm, ?_, State.unroutable_event .., State.unroutable_count .., hmark.mem, hmark.stq, hmark.hubTags⟩
    show lookD [] (State.link _ k).rxq vc = more
    rw [hmark.link, State.linkPopped_stream]
  case routed =>
    intro s k vc n alt p more ⟨hhead, hadm, htyp⟩ hsmall hother hroute
    have hmark : RegsMarked hubRegs (s.linkPopped k vc more) ((s.linkPopped k vc more).flagIf alt F.EVL_COM_EVT_ROUTE_ALT 36) :=
      .flagIf _ _ _ _ _ (by decide)
    have hframe := HubFrame.of_marked hmark
    have hup := (hframe.linkUp n).trans ((s.linkPopped_linkUp k vc more n).trans (s.routeLink_up hroute))
    have hqueue := HubFrame.linkQueue _ p false hup
    refine ⟨_, linkPacketForward_routed hhead hadm htyp hother (fun h => by have := hsmall h; omega) hroute, ?_, ?_, fun halt => ?_, ?_, ?_, ?_⟩
    · show lookD [] (State.link _ k).rxq vc = more
      rw [hqueue.rxq, hframe.rxq, State.linkPopped_stream]
    · rw [State.linkQueue_stream, State.flagIf_link, State.linkPopped_tx]
    · rw [State.linkQueue, State.modLink_get, halt]
      exact State.get_flag_same _ _ _ _ (by decide) (by decide)
    · exact hmark.mem
    · exact hmark.stq
    · exact hmark.hubTags
  case lost =>
    intro s k p more ⟨hhead, hadm, htyp⟩ hother hroute hk hvc hmod hsmod
    have hmark := (s.linkPopped k 1 more).unroutable_marked p k
    refine ⟨_, linkPacketForward_lost hhead hadm htyp hother (fun h => absurd h (by decide)) hroute (by decide), ?_, State.unroutable_event ..,
      State.unroutable_record _ _ _ hk hvc hmod hsmod, hmark.stq⟩
    show lookD [] (State.link _ k).rxq 1 = more
    rw [hmark.link, State.linkPopped_stream]
  case request =>
    intro s k vc tag p more ⟨hhead, hadm, htyp⟩ hreq hown hle haddr hfar hopen hplain _ die col
    have hexec := linkPacketForward_local hhead hadm htyp hown hreq
    rw [State.hubLocal_memory (s := s.linkPopped k vc more) hle haddr hfar hopen hplain] at hexec
    refine ⟨fun htag => ?_, fun htag => ?_⟩
    · have htag' : (s.linkPopped k vc more).freeHubTag = some tag := htag
      rw [htag'] at hexec
      exact ⟨_, _, _, hexec, State.linkPopped_stream .., rfl, rfl, rfl, rfl, rfl, State.inject_same .., rfl, rfl, rfl, rfl, rfl, rfl, rfl, rfl⟩
    · have htag' : (s.linkPopped k vc more).freeHubTag = none := htag
      rw [htag'] at hexec
      exact hexec
  case answer =>
    intro s k p more ⟨hhead, hadm, htyp⟩ hown
    have hexec := linkPacketForward_answer hhead hadm htyp hown rfl
    refine ⟨fun h htag hkind => ?_, fun htag => ?_⟩
    · rw [State.linkAnswer_own (s := s.linkPopped k 1 more) htag hkind] at hexec
      exact ⟨_, _, hexec, State.linkPopped_stream .., State.hubTag_dropHubTag_same .., State.inject_same .., rfl, rfl, rfl, rfl, rfl, rfl, rfl⟩
    · rw [State.linkAnswer_late (s := s.linkPopped k 1 more) htag] at hexec
      exact ⟨_, hexec, State.linkPopped_stream .., State.get_flag_same _ _ _ _ (by decide) (by decide), rfl, rfl⟩
  case message =>
    intro s k p more ⟨hhead, hadm, htyp⟩ hown
    refine ⟨fun hmsg => ?_, fun hsig => ?_⟩
    · exact ⟨_, linkPacketForward_message hhead hadm htyp hown rfl hmsg, State.linkPopped_stream .., rfl⟩
    · intro g hwin
      exact ⟨_, linkSignal_passes hhead hadm hsig hown hwin, State.linkPopped_stream .., congrArg CoreSt.sigIn (State.modCore_same ..), rfl, rfl⟩
  case timeout =>
    intro s tag h htag hkind hlate
    exact ⟨_, _, hubTagTimeout_frees htag hkind hlate, (s.tagTimedOut_tags ..).trans (s.hubTag_dropHubTag_same tag), s.tagTimedOut_event tag,
      s.tagTimedOut_count tag, State.inject_same .., rfl, rfl, rfl, rfl, rfl, rfl⟩

end Sys2Proof.Machine
end

section
/-! PROOFS. Multicast at the hub (R420 to R422). -/

namespace Sys2Proof.Machine

open Sys2Proof

/-! ### The ground plan seen from the hub -/

/-- What an address names rests on the fused clusters alone (R751). -/
theorem State.far_congr {s t : State} (h : t.fusedCl = s.fusedCl) (a : Nat) : t.far a = s.far a := by
  unfold State.far
  rw [h]

/-- The hub bridge port of an address rests on the fused clusters and on the pairs of HBM. -/
theorem State.bridgeFor_congr {s t : State} (h : t.fusedCl = s.fusedCl) (hpair : ∀ q, t.rd ⟨.HBMC_PAIR, 0, q⟩ = s.rd ⟨.HBMC_PAIR, 0, q⟩) (a : Nat) :
    t.bridgeFor a = s.bridgeFor a := by
  unfold State.bridgeFor
  rw [State.far_congr h, State.hbmPlace_congr hpair]

/-! ### The multicast at the head -/

section
variable (s : State) (idx : Nat)

/-- The entry of a multicast's group is valid for the way it came (R420). -/
def State.mcEntry (p : Packet) : Prop :=
  0x8000 ≤ p.mod ∧ p.mod < 0x9000 ∧ s.get F.EVL_MC_VALID 36 (p.mod - 0x8000) = 1 ∧ s.get F.EVL_MC_IN_LINK 36 (p.mod - 0x8000) = idx

/-- The branch links of a group. -/
def State.mcLinks (g : Nat) : List Nat := (List.range 36).filter (fun n => bitOf (s.get F.EVL_MC_OUT 36 g) n)

/-- A multicast that is taken leaves its stream alone. -/
theorem State.dropVc2_rest : s.dropVc2 idx = { s with links := (s.dropVc2 idx).links, deliv := (s.dropVc2 idx).deliv } := by
  unfold State.dropVc2
  split <;> rfl

theorem State.dropVc2_now : (s.dropVc2 idx).now = s.now := by rw [State.dropVc2_rest]

theorem State.dropVc2_tx (n : Nat) : ((s.dropVc2 idx).link n).tx = (s.link n).tx := by
  unfold State.dropVc2
  split
  · rfl
  · exact State.link_modLink_field _ _ _ _ LinkSt.tx (fun _ => rfl)

end

/-! ### A packet on every branch -/

section
variable (q : Packet)

/-- A packet joins the streams of links. -/
def State.linkQueues (s : State) (ns : List Nat) : State := ns.foldl (fun s n => s.linkQueue n q false) s

/-- Only the streams change. -/
theorem State.linkQueues_rest (s : State) (ns : List Nat) : s.linkQueues q ns = { s with links := (s.linkQueues q ns).links } := by
  induction ns generalizing s with
  | nil => rfl
  | cons n ns ih => exact ih (s.linkQueue n q false)

theorem State.linkQueues_other {s : State} {ns : List Nat} {m : Nat} (h : m ∉ ns) : (s.linkQueues q ns).link m = s.link m := by
  induction ns generalizing s with
  | nil => rfl
  | cons n ns ih =>
    obtain ⟨hn, hns⟩ := not_or.mp (mt List.mem_cons.mpr h)
    exact (ih hns).trans (State.link_modLink_other _ _ hn)

theorem State.linkQueues_stream {s : State} {ns : List Nat} {m : Nat} (hdup : ns.Nodup) (h : m ∈ ns) :
    lookD [] ((s.linkQueues q ns).link m).tx q.vc = lookD [] (s.link m).tx q.vc ++ [{ p := q }] := by
  induction ns generalizing s with
  | nil => cases h
  | cons n ns ih =>
    obtain ⟨hn, hns⟩ := List.nodup_cons.mp hdup
    show lookD [] (((s.linkQueue n q false).linkQueues q ns).link m).tx q.vc = _
    rcases List.mem_cons.mp h with rfl | hm
    · rw [State.linkQueues_other q hn, State.linkQueue_stream]
    · rw [ih hns hm, State.linkQueue, State.link_modLink_other _ _ (fun e => hn (by rwa [e] at hm))]
end

/-- Taking a tag writes the register of their high water. -/
theorem State.addHubTag_rd (s : State) (h : HubTag) {k : RKey} (hk : k.reg ≠ .EVL_TAGS) : (s.addHubTag h).rd k = s.rd k := by
  unfold State.addHubTag
  dsimp only
  rw [State.rd_set_other _ _ _ _ _ _ (fun e => hk (congrArg RKey.reg e))]
  rfl

/-! ### HUB_MC_FORWARD by its cases -/

/-- A multicast as it leaves on the branch links, with a tag of this module (R420). -/
def State.mcPacket (s : State) (p : Packet) (tag : Nat) : Packet := { p with src := 0x800, tag := tag, smod := s.modId, dnode := 0, snode := 0 }

/-- The tag that counts a multicast's branches (R420). -/
def State.mcTag (s : State) (idx : Nat) (p : Packet) (tag : Nat) : HubTag :=
  { tag := tag, kind := 2, p := p, link := idx, at_ := s.now,
    left := (s.mcLinks (p.mod - 0x8000)).length + s.get F.EVL_MC_LOCAL 36 (p.mod - 0x8000), sent := s.mcPacket p tag }

/-- A multicast enters a die as a multicast again when it names a group of clusters, and as a write otherwise (R420). -/
def State.mcType (s : State) (a : Nat) : Nat := match s.far a with
  | .group _ _ => 8
  | _ => 1

/-- A multicast that has left on every branch link (R420). -/
def State.mcSent (s : State) (idx : Nat) (p : Packet) (tag : Nat) : State :=
  ((s.dropVc2 idx).addHubTag (s.mcTag idx p tag)).linkQueues (s.mcPacket p tag) (s.mcLinks (p.mod - 0x8000))

section
variable {s : State} {idx : Nat} {p : Packet}

/-- Leaving on the branch links changes streams, tags, and the register of their high water. -/
theorem State.mcSent_rest (tag : Nat) : s.mcSent idx p tag = { s with
    links := (s.mcSent idx p tag).links, deliv := (s.dropVc2 idx).deliv, hubTags := s.hubTags ++ [s.mcTag idx p tag], regs := (s.mcSent idx p tag).regs } := by
  unfold State.mcSent
  rw [State.linkQueues_rest, State.addHubTag_rest, State.dropVc2_rest]

section
variable (hhead : s.vc2Head idx = some p) (htyp : p.typ = 8) (hway : idx = 63 ∨ s.admitted idx = true)
include hhead htyp hway

theorem hubMcForward_drops (hentry : ¬ s.mcEntry idx p) :
    exec (.hubMcForward idx) s = .next (((s.dropVc2 idx).flag F.EVL_COM_EVT_MC_DROP 36).hubRefuse p idx rUNMAPPED) := by
  show execHubMcForward idx s = _
  unfold State.mcEntry at hentry
  unfold execHubMcForward
  rw [hhead]
  dsimp only
  rw [if_neg (by simp only [Bool.not_eq_true']; rcases hway with h | h <;> simp [htyp, h]), if_pos]
  simp only [Bool.not_eq_true', Bool.and_eq_false_imp, Bool.and_eq_true, decide_eq_true_eq, decide_eq_false_iff_not]
  tauto

section
variable (hentry : s.mcEntry idx p)
include hentry

theorem hubMcForward_stays (h : (∃ n, n ∈ s.mcLinks (p.mod - 0x8000) ∧ s.linkUp n = true ∧
      s.get F.EVL_CRED_VC2 n < txBodies (lookD [] (s.link n).tx 2 ++ [{ p := p }])) ∨ (idx = 63 ∧ s.freeHubTag = none)) :
    exec (.hubMcForward idx) s = .next s := by
  obtain ⟨hlow, hhigh, hvalid, hin⟩ := hentry
  show execHubMcForward idx s = _
  unfold execHubMcForward
  rw [hhead]
  dsimp only
  rw [if_neg (by simp only [Bool.not_eq_true']; rcases hway with h | h <;> simp [htyp, h]), if_neg (by simp [hlow, hhigh, hvalid, hin]), if_pos]
  rcases h with ⟨n, hn, hup, hlack⟩ | ⟨hidx, htag⟩
  · simp only [Bool.or_eq_true, Bool.not_eq_true', List.all_eq_false, List.mem_filter, decide_eq_true_eq]
    exact .inl ⟨n, ⟨List.mem_filter.mp hn, hup⟩, by omega⟩
  · simp [hidx, htag]

theorem hubMcForward_sends {tag : Nat}
    (hroom : ∀ n ∈ s.mcLinks (p.mod - 0x8000), s.linkUp n = true ∧ txBodies (lookD [] (s.link n).tx 2 ++ [{ p := p }]) ≤ s.get F.EVL_CRED_VC2 n)
    (hneed : idx = 63 ∨ s.get F.EVL_MC_LOCAL 36 (p.mod - 0x8000) = 1) (hsome : s.mcLinks (p.mod - 0x8000) ≠ []) (htag : s.freeHubTag = some tag)
    (hlocal : s.get F.EVL_MC_LOCAL 36 (p.mod - 0x8000) = 1 → s.hubUnmapped p.addr = false ∧ s.far p.addr ≠ .host) :
    exec (.hubMcForward idx) s = .next (if s.get F.EVL_MC_LOCAL 36 (p.mod - 0x8000) = 1 then
      ((s.mcSent idx p tag).hubInject { p with typ := (s.mcSent idx p tag).mcType p.addr } tag).1 else s.mcSent idx p tag) := by
  obtain ⟨hlow, hhigh, hvalid, hin⟩ := hentry
  have hup : (s.mcLinks (p.mod - 0x8000)).filter (fun n => s.linkUp n) = s.mcLinks (p.mod - 0x8000) :=
    List.filter_eq_self.mpr (fun n hn => (hroom n hn).1)
  have hfits : (s.mcLinks (p.mod - 0x8000)).all (fun n => decide (txBodies (lookD [] (s.link n).tx 2 ++ [{ p := p }]) ≤ s.get F.EVL_CRED_VC2 n)) = true :=
    List.all_eq_true.mpr (fun n hn => decide_eq_true (hroom n hn).2)
  have hcount : b2n (decide (s.get F.EVL_MC_LOCAL 36 (p.mod - 0x8000) = 1)) = s.get F.EVL_MC_LOCAL 36 (p.mod - 0x8000) := by
    have hbit : s.get F.EVL_MC_LOCAL 36 (p.mod - 0x8000) < 2 := State.get_lt ..
    unfold b2n
    simp only [decide_eq_true_eq]
    split <;> omega
  have hbad : (decide (s.get F.EVL_MC_LOCAL 36 (p.mod - 0x8000) = 1) &&
      ((s.mcSent idx p tag).hubUnmapped p.addr || decide ((s.mcSent idx p tag).far p.addr = .host))) = false := by
    have hfar : (s.mcSent idx p tag).far p.addr = s.far p.addr := State.far_congr (by rw [State.mcSent_rest]) _
    unfold State.hubUnmapped at hlocal ⊢
    rw [hfar]
    by_cases hl : s.get F.EVL_MC_LOCAL 36 (p.mod - 0x8000) = 1
    · obtain ⟨hmapped, hwin⟩ := hlocal hl
      rw [hmapped]
      simp [hwin]
    · simp [hl]
  show execHubMcForward idx s = _
  unfold execHubMcForward
  rw [hhead]
  dsimp only
  rw [if_neg (by simp only [Bool.not_eq_true']; rcases hway with h | h <;> simp [htyp, h]), if_neg (by simp [hlow, hhigh, hvalid, hin]),
    show (List.range 36).filter (fun n => bitOf (s.get F.EVL_MC_OUT 36 (p.mod - 0x8000)) n) = s.mcLinks (p.mod - 0x8000) from rfl, hup, hcount, hfits, htag]
  rw [if_neg (by simp), if_neg (by have := List.length_pos_iff.mpr hsome; omega), if_neg (by rcases hneed with h | h <;> simp [h]), Nat.sub_self]
  simp only [State.dropVc2_now]
  show Host.Outcome.next (List.foldl _ (if (decide _ && !(decide _ && ((s.mcSent idx p tag).hubUnmapped p.addr ||
      decide ((s.mcSent idx p tag).far p.addr = .host)))) = true
    then ((s.mcSent idx p tag).hubInject { p with typ := (s.mcSent idx p tag).mcType p.addr } tag).1 else s.mcSent idx p tag)
    (_ ++ if (decide _ && ((s.mcSent idx p tag).hubUnmapped p.addr || decide ((s.mcSent idx p tag).far p.addr = .host))) = true then _ else _)) = _
  rw [hbad]
  simp only [Bool.not_false, Bool.and_true, decide_eq_true_eq, List.replicate_zero, Bool.false_eq_true, if_false, List.append_nil, List.foldl_nil]
end
end
end

/-! ### What leaving on the branches changes -/

section
variable {s : State} {idx : Nat} {p : Packet} (tag : Nat)

theorem State.mcLinks_nodup (g : Nat) : (s.mcLinks g).Nodup := List.nodup_range.filter _

theorem State.mem_mcLinks {g n : Nat} : n ∈ s.mcLinks g ↔ n < 36 ∧ bitOf (s.get F.EVL_MC_OUT 36 g) n = true := by
  rw [State.mcLinks, List.mem_filter, List.mem_range]

theorem State.mcSent_stream {n : Nat} (hvc : p.vc = 2) (h : n ∈ s.mcLinks (p.mod - 0x8000)) :
    lookD [] ((s.mcSent idx p tag).link n).tx 2 = lookD [] (s.link n).tx 2 ++ [{ p := s.mcPacket p tag }] := by
  have hqueue := State.linkQueues_stream (s.mcPacket p tag) (s := (s.dropVc2 idx).addHubTag (s.mcTag idx p tag)) (State.mcLinks_nodup _) h
  rw [show (s.mcPacket p tag).vc = 2 from hvc] at hqueue
  rw [State.mcSent, hqueue]
  exact congrArg (fun l => lookD [] l 2 ++ _) (s.dropVc2_tx idx n)

theorem State.mcSent_aside {n : Nat} (h : n ∉ s.mcLinks (p.mod - 0x8000)) : ((s.mcSent idx p tag).link n).tx = (s.link n).tx := by
  rw [State.mcSent, State.linkQueues_other _ h]
  exact s.dropVc2_tx idx n

theorem State.mcSent_bridgeFor (a : Nat) : (s.mcSent idx p tag).bridgeFor a = s.bridgeFor a := by
  refine State.bridgeFor_congr (by rw [State.mcSent_rest]) (fun q => ?_) a
  rw [State.mcSent, State.linkQueues_rest]
  show ((s.dropVc2 idx).addHubTag _).rd _ = _
  rw [State.addHubTag_rd _ _ Reg.noConfusion, State.dropVc2_rest]
  rfl
end

end Sys2Proof.Machine
end

section
/-! PROOFS. Multicast at the hub, put together (R420 to R422). -/

namespace Sys2Proof.Machine

open Sys2Proof

/-- Settles O35: a multicast leaves as `State.mcSent`, stays, or is dropped. -/
theorem hubMulticast : Obligations.HubMulticast := by
  unfold Obligations.HubMulticast
  intro s idx p hhead htyp hvc hway g entry branch room
  have hbranch (n : Nat) : n ∈ s.mcLinks g ↔ branch n := State.mem_mcLinks
  refine ⟨?sends, ?lacks, ?tagless, ?drops⟩
  case sends =>
    intro tag hentry hroom hneed ⟨b, hb⟩ htag hlocal
    have hsome : s.mcLinks g ≠ [] := List.ne_nil_of_mem ((hbranch b).mpr hb)
    have hexec := hubMcForward_sends hhead htyp hway hentry (fun n hn => hroom n ((hbranch n).mp hn)) hneed hsome htag hlocal
    generalize ht : (if s.get F.EVL_MC_LOCAL 36 (p.mod - 0x8000) = 1 then _ else _ : State) = t at hexec
    have hrest : t = { s.mcSent idx p tag with stq := t.stq } := by
      rw [← ht]
      split <;> rfl
    have hlink (n : Nat) : t.link n = (s.mcSent idx p tag).link n := by rw [hrest]; rfl
    refine ⟨t, s.mcPacket p tag, s.mcTag idx p tag, hexec, rfl, rfl, rfl, rfl, rfl, fun n hn => ?_, fun n hn => ?_, ?_, rfl, rfl, rfl, rfl, rfl,
      fun hone => ?_, fun hzero => ?_, ?_⟩
    · rw [hlink, State.mcSent_stream tag hvc ((hbranch n).mpr hn)]
    · rw [hlink, State.mcSent_aside tag (fun h => hn ((hbranch n).mp h))]
    · rw [hrest, State.mcSent_rest]
    · refine ⟨(s.mcSent idx p tag).bridged { p with typ := (s.mcSent idx p tag).mcType p.addr } tag, ?_, rfl, rfl, rfl⟩
      have hport := State.mcSent_bridgeFor (s := s) (idx := idx) (p := p) tag p.addr
      rw [← ht, if_pos hone, State.hubInject_eq]
      dsimp only
      rw [hport, State.inject_same]
      exact List.mem_append_right _ (List.mem_singleton_self _)
    · rw [← ht, if_neg (fun h => absurd (hzero.symm.trans h) (by decide)), State.mcSent_rest]
    · rw [hrest, State.mcSent_rest]
  case lacks =>
    intro hentry ⟨n, hn, hup, hlack⟩
    exact hubMcForward_stays hhead htyp hway hentry (.inl ⟨n, (hbranch n).mpr hn, hup, hlack⟩)
  case tagless =>
    intro hentry hidx htag
    exact hubMcForward_stays hhead htyp hway hentry (.inr ⟨hidx, htag⟩)
  case drops =>
    intro hentry hidx
    subst hidx
    have hexec := hubMcForward_drops hhead htyp hway hentry
    have href : ((s.dropVc2 63).flag F.EVL_COM_EVT_MC_DROP 36).hubRefuse p 63 rUNMAPPED =
        ((s.dropVc2 63).flag F.EVL_COM_EVT_MC_DROP 36).inject (nodeKey p.sdie (0x40 + nodeCol p.snode)) (coreAnswer p 9 0 rUNMAPPED []) := by
      unfold State.hubRefuse
      rw [if_pos rfl, State.hubToCore_eq, if_pos htyp]
    have hevt : ((s.dropVc2 63).flag F.EVL_COM_EVT_MC_DROP 36).get F.EVL_COM_EVT_MC_DROP 36 = 1 := State.get_flag_same _ _ _ _ (by decide) (by decide)
    rw [href] at hexec
    exact ⟨_, _, hexec, hevt, rfl, rfl, State.inject_same .., rfl, rfl, rfl, rfl⟩

end Sys2Proof.Machine
end

section
/-! PROOFS. The loader: its requests, and what a load leaves of them, of the tasks and of the programs (R513, R514, R602, R603). -/

namespace Sys2Proof.Machine

open Sys2Proof

/-! ### Requests taken from a mailbox (R602) -/

/-- A request word: code, tag and the number of argument words. -/
def reqWord (code tag n : Nat) : Nat := code * 2 ^ 24 + tag * 2 ^ 16 + n * 2 ^ 8

/-- A whole request at the head of a mailbox is taken, and leaves what follows it. -/
theorem State.takeReq_whole {s : State} {m code tag : Nat} {a more : List Nat} (hm : m < 16) (hserves : s.hubServes = true) (hcode : code < 256)
    (htag : tag < 256) (hlen : a.length < 8) (hq : s.mbxQ (.hubEnd m) = reqWord code tag a.length :: (a ++ more)) :
    s.takeReq m code = some (tag, a, s.setMbxQ (.hubEnd m) more) := by
  have hn : bitsOf (reqWord code tag a.length) 15 8 % 8 = a.length := by unfold bitsOf reqWord; omega
  have hc : bitsOf (reqWord code tag a.length) 31 24 = code := by unfold bitsOf reqWord; omega
  have ht : bitsOf (reqWord code tag a.length) 23 16 = tag := by unfold bitsOf reqWord; omega
  have hhead : s.reqHead m = some (reqWord code tag a.length, a) := by
    unfold State.reqHead
    rw [hq]
    dsimp only
    rw [hn, if_pos (by simp), List.take_left]
  unfold State.takeReq
  rw [if_pos ⟨hm, hserves⟩, hhead]
  dsimp only
  rw [if_pos hc, ht, hq, Nat.add_comm, List.drop_succ_cons, List.drop_left]

/-- A response without words. -/
theorem State.respond_plain (s : State) (m code tag status : Nat) :
    (s.respond m code tag status).hst.resp = s.hst.resp ++ [(m, [code * 2 ^ 24 + tag * 2 ^ 16 + status])] := by
  rw [State.respond_resp, List.length_nil, Nat.zero_mul, Nat.add_zero]

theorem State.respond_ok (s : State) (m code tag : Nat) :
    (s.respond m code tag 0).hst.resp = s.hst.resp ++ [(m, [code * 2 ^ 24 + tag * 2 ^ 16])] := by
  rw [State.respond_plain, Nat.add_zero]

/-! ### LOAD and UNLOAD (R513, R603) -/

section
variable {s : State} {m tag : Nat} {more : List Nat} (hm : m < 16) (htag : tag < 256) (hserves : s.hubServes = true)
include hm htag hserves

theorem load_accepts {a0 a1 r0 r1 : Nat} (hq : s.mbxQ (.hubEnd m) = reqWord 0x12 tag 5 :: a0 :: a1 :: r0 :: r1 :: 0 :: more)
    (himage : s.argAddr (a0 + a1 * 2 ^ 32) 64 ≠ .bad) (hreport : s.argAddr (r0 + r1 * 2 ^ 32) 1024 ≠ .bad) (hsafe : s.tripped = false)
    (hroom : s.loadQ.length < 16) :
    exec (.load m) s = .next (({ s.setMbxQ (.hubEnd m) more with
      loadQ := s.loadQ ++ [{ occ := 1, mbx := some m, tag := tag, addr := a0 + a1 * 2 ^ 32, report := r0 + r1 * 2 ^ 32 }] } : State).respond m 0x12 tag 1) := by
  have htake := State.takeReq_whole (a := [a0, a1, r0, r1, 0]) hm hserves (by decide) htag (by simp) hq
  have htest : bitOf ([a0, a1, r0, r1, 0].getD 4 0) 0 = false := by simp [bitOf]
  have hargs : ¬ ((s.setMbxQ (.hubEnd m) more).argAddr (arg64 [a0, a1, r0, r1, 0] 0) 64 = .bad ∨
      (s.setMbxQ (.hubEnd m) more).argAddr (arg64 [a0, a1, r0, r1, 0] 2) 1024 = .bad) := not_or.mpr ⟨himage, hreport⟩
  have hsafe' : ¬ ((s.setMbxQ (.hubEnd m) more).tripped = true) := Bool.eq_false_iff.mp hsafe
  have hroom' : ¬ (16 ≤ (s.setMbxQ (.hubEnd m) more).loadQ.length) := Nat.not_le.mpr hroom
  show execLoad m s = _
  unfold execLoad
  rw [htake]
  dsimp only
  rw [htest, if_neg (by simp), if_neg (by simp), if_neg hargs, if_neg hsafe', if_neg hroom', if_neg (by decide)]
  rfl

theorem unload_done {lo hi : Nat} (hq : s.mbxQ (.hubEnd m) = reqWord 0x13 tag 2 :: lo :: hi :: more) (hprog : s.progOf (lo + hi * 2 ^ 32) ≠ none)
    (hidle : ∀ k x, (k, x) ∈ s.tasks → x.prog = lo + hi * 2 ^ 32 → s.taskState k = tsHELD) :
    exec (.unload m) s = .next (({ s.setMbxQ (.hubEnd m) more with
      progs := s.progs.filter (fun p => decide (p.id ≠ lo + hi * 2 ^ 32)) } : State).respond m 0x13 tag 0) := by
  have htake := State.takeReq_whole (a := [lo, hi]) hm hserves (by decide) htag (by simp) hq
  have hprog' : ¬ (((s.setMbxQ (.hubEnd m) more).progOf (arg64 [lo, hi] 0)).isNone = true) := fun h => hprog (Option.isNone_iff_eq_none.mp h)
  have hidle' : ¬ ((s.setMbxQ (.hubEnd m) more).tasks.any (fun t => decide (t.2.prog = arg64 [lo, hi] 0) &&
      decide ((s.setMbxQ (.hubEnd m) more).taskState t.1 ≠ tsHELD)) = true) := by
    intro hany
    obtain ⟨⟨k, x⟩, hmem, hused⟩ := List.any_eq_true.mp hany
    obtain ⟨huse, hnot⟩ := Bool.and_eq_true_iff.mp hused
    exact of_decide_eq_true hnot (hidle k x hmem (of_decide_eq_true huse))
  show execUnload m s = _
  unfold execUnload
  rw [htake]
  dsimp only
  rw [if_neg (by simp), if_neg hprog', if_neg hidle']
  rfl
end

/-! ### What the steps of a load leave -/

/-- The requests that wait for the loader, the tasks, and the programs that are loaded. -/
def State.loads (s : State) : List LoadReq × List (Nat × TaskSt) × List Prog := (s.loadQ, s.tasks, s.progs)

theorem State.loads_iff (s : State) {q : List LoadReq} {ts : List (Nat × TaskSt)} {ps : List Prog} :
    s.loads = (q, ts, ps) ↔ s.loadQ = q ∧ s.tasks = ts ∧ s.progs = ps := by
  rw [State.loads, Prod.mk.injEq, Prod.mk.injEq]

theorem Quiet.loads {s t : State} (h : Quiet s t) : t.loads = s.loads := by rw [h.rest]; rfl

theorem foldl_loads {β : Type} (g : State → β → State) (hg : ∀ u a, (g u a).loads = u.loads) (bs : List β) (s : State) :
    (bs.foldl g s).loads = s.loads := by
  induction bs generalizing s with
  | nil => rfl
  | cons a bs ih => exact (ih (g s a)).trans (hg s a)

section
variable (s : State)

theorem State.injWrite_loads (unit owner a n : Nat) : (s.injWrite unit owner a n).loads = s.loads := (s.injWrite_quiet ..).loads

theorem State.lineWrite_loads (a n : Nat) : (s.lineWrite a n).loads = s.loads := by
  unfold State.lineWrite
  split <;> rfl

theorem State.writeMem_loads (a : Nat) (bs : List Byte) : (s.writeMem a bs).loads = s.loads := by
  have hinj := s.injWrite_loads
  have hput (u : State) : ({ u with mem := putBytes u.mem a bs } : State).loads = u.loads := rfl
  unfold State.writeMem
  rw [hput]
  split
  · rw [State.lineWrite_loads, hinj]
  · split
    · exact hinj ..
    · rfl

theorem State.copyImage_loads (r : LoadReq) (o : LoaderOutcome) (n : Nat) : (s.copyImage r o n).loads = s.loads := by
  unfold State.copyImage
  split
  · exact (State.lineWrite_loads ..).trans (s.injWrite_loads ..)
  · exact s.writeMem_loads ..

theorem State.zeroPair_loads (p : Nat) : (s.zeroPair p).loads = s.loads := by
  unfold State.zeroPair
  refine (foldl_loads _ ?_ _ _).trans (s.injWrite_loads ..)
  exact fun _ _ => rfl

theorem State.setPair_loads (p : Nat) (loc : Bool) : (s.setPair p loc).loads = s.loads := by
  unfold State.setPair
  split
  · rfl
  · rw [State.zeroPair_loads]
    refine foldl_loads _ ?_ _ _
    exact fun _ _ => rfl

theorem State.loadCore_loads (img : Image) (bases : List (Nat × Nat)) (k : ImgCore) (c : Nat) : (s.loadCore img bases k c).loads = s.loads :=
  State.writeMem_loads ..

/-- A report is written at its address, posted and logged (R517). -/
theorem State.report_loads (r : LoadReq) (id : Nat) (vs : List Viol) : (s.report r id vs).loads = s.loads := by
  have harg (u : State) (a : ArgAddr) (bs : List Byte) : (u.argWrite a bs).loads = u.loads := by
    unfold State.argWrite
    split
    · exact u.writeMem_loads ..
    · rfl
    · rfl
  have hwritten (u : State) (b : Prop) [Decidable b] (a : ArgAddr) (bs : List Byte) : (if b then u.argWrite a bs else u).loads = u.loads := by
    split
    · exact harg ..
    · rfl
  unfold State.report
  dsimp only
  split
  · rw [(State.logRec_quiet ..).loads, (State.post_quiet ..).loads, hwritten]
  · rw [(State.post_quiet ..).loads, hwritten]

/-- A fresh load adds its program to those that are loaded, and leaves requests and tasks (R514). -/
theorem State.commitLoad_fresh (img : Image) (map bases : List (Nat × Nat)) (key : Nat) : ∃ p : Prog, p.id = img.progId ∧ p.img = img ∧ p.cores = map ∧
    (s.commitLoad img map bases key true).loads = (s.loadQ, s.tasks, s.progs ++ [p]) := by
  have hadd (u : State) (p : Prog) (hu : u.loads = s.loads) : ({ u with progs := u.progs ++ [p] } : State).loads = (s.loadQ, s.tasks, s.progs ++ [p]) := by
    obtain ⟨hq, ht, hp⟩ := u.loads_iff.mp hu
    exact (State.loads_iff _).mpr ⟨hq, ht, by rw [hp]⟩
  unfold State.commitLoad
  simp only [if_true]
  refine ⟨_, ?_, ?_, ?_, hadd _ _ ?_⟩
  case refine_4 =>
    rw [foldl_loads _ (fun u k => u.loadCore_loads ..), foldl_loads _ (fun u x => u.writeMem_loads ..),
      foldl_loads _ (fun u a => foldl_loads _ (fun v p => v.setPair_loads ..) _ u)]
  all_goals rfl
end

/-! ### LOADER_RUN for the load of a mailbox (R513) -/

section
variable {s : State} {r : LoadReq} {more : List LoadReq} {o : LoaderOutcome}

/-- The state in which the image of the oldest request lies in its copy (R513). -/
def State.imageCopied (s : State) (r : LoadReq) (more : List LoadReq) (o : LoaderOutcome) : State :=
  ({ s with loadQ := more } : State).copyImage r o o.img.len

/-- The violation of an image loaded for a mailbox, if it has one (R516). -/
def State.imageViol (s : State) (r : LoadReq) (more : List LoadReq) (o : LoaderOutcome) : Option Viol :=
  firstViol ((s.imageCopied r more o).allViols o.img s.signPolicy.1 s.signPolicy.2 (o.img.coreMap []) (basesOf o.img (o.img.coreMap []) o.bases) false false)

/-- The state in which the image is loaded when it has no violation (R514). -/
def State.imageLoaded (s : State) (r : LoadReq) (more : List LoadReq) (o : LoaderOutcome) : State :=
  if (s.imageViol r more o).isNone then
    (s.imageCopied r more o).commitLoad o.img (o.img.coreMap []) (basesOf o.img (o.img.coreMap []) o.bases) (keyIndex o.img s.signPolicy.2) true
  else s.imageCopied r more o

theorem loaderRun_reports (hq : s.loadQ = r :: more) (hocc : r.occ = 1) (htask : r.task = none) (hlive : s.chrysalis = false) (hsafe : s.tripped = false)
    (hwarm : s.warmHold = false) (hphase : 6 ≤ s.get F.NVCF_STATUS_PHASE 0) :
    exec (.loaderRun o) s = .next ((s.imageLoaded r more o).report r o.img.progId (s.imageViol r more o).toList) := by
  have himage (u : State) : u.imageFor r o = o.img := by
    unfold State.imageFor
    rw [hocc, htask]
    rfl
  have hclean (v : Option Viol) : (v.toList.isEmpty && decide (1 ≠ 2)) = v.isNone := by cases v <;> rfl
  have hup : ¬ (s.chrysalis || s.tripped || s.warmHold || decide (s.get F.NVCF_STATUS_PHASE 0 < 6)) = true := by
    rw [hlive, hsafe, hwarm]
    simpa using hphase
  show execLoaderRun o s = _
  unfold execLoaderRun
  rw [hq]
  dsimp only
  rw [if_neg hup, himage]
  simp only [hocc, htask, OfNat.one_ne_ofNat, one_ne_zero, if_false, Option.bind_none, Option.map_none, Option.isSome_none, Option.isNone_none,
    Bool.false_eq_true, decide_false]
  rw [hclean]
  rfl

theorem State.imageCopied_loads : (s.imageCopied r more o).loads = (more, s.tasks, s.progs) := State.copyImage_loads ..

/-- A load leaves the other requests and the tasks; its program joins those that are loaded when the image has no violation. -/
theorem State.imageLoaded_loads : ∃ p : Prog, p.id = o.img.progId ∧ p.img = o.img ∧ p.cores = o.img.coreMap [] ∧
    (s.imageLoaded r more o).loads = (more, s.tasks, if (s.imageViol r more o).isNone then s.progs ++ [p] else s.progs) := by
  obtain ⟨hq, ht, hp⟩ := (State.loads_iff _).mp (s.imageCopied_loads (r := r) (more := more) (o := o))
  obtain ⟨p, hid, himg, hcores, hloads⟩ :=
    (s.imageCopied r more o).commitLoad_fresh o.img (o.img.coreMap []) (basesOf o.img (o.img.coreMap []) o.bases) (keyIndex o.img s.signPolicy.2)
  refine ⟨p, hid, himg, hcores, ?_⟩
  unfold State.imageLoaded
  split
  · rw [hloads, hq, ht, hp]
  · exact State.imageCopied_loads
end

end Sys2Proof.Machine
end

section
/-! PROOFS. Where the hub's and the loader's operations complete, put together (R409 to R418, R513, R602, R603). -/

namespace Sys2Proof.Machine

open Sys2Proof

/-- Settles O60, command by command: each is named by a lemma above that gives the state it leaves. -/
theorem hubAndLoaderComplete : Obligations.HubAndLoaderComplete := by
  unfold Obligations.HubAndLoaderComplete
  intro popped
  refine ⟨?forwards, ?discards, ?signals, ?timesOut, ?accepts, ?loads, ?unloads⟩
  case forwards =>
    intro s k vc n p more hhead hadm hvc htyp hother hroute
    exact linkPacketForward_routed hhead hadm htyp hother (by omega) hroute
  case discards =>
    intro s k vc p more hhead hadm
    exact linkPacketForward_unadmitted hhead hadm
  case signals =>
    intro s k p more hhead hadm hsig hown hwin
    exact linkSignal_passes hhead hadm hsig hown hwin
  case timesOut =>
    intro s tag h htag hkind hlate
    refine ⟨_, hubTagTimeout_frees htag hkind hlate, (s.tagTimedOut_tags ..).trans (s.hubTag_dropHubTag_same tag),
      fun j hj => (s.tagTimedOut_tags ..).trans (s.hubTag_dropHubTag_other hj), s.tagTimedOut_event tag,
      ⟨coreAnswer h.p (if h.p.typ = 8 then 9 else 5) 0 rUNROUTABLE [], rfl, rfl, ?_⟩, rfl, rfl⟩
    rw [State.inject_same]
    exact List.mem_append_right _ (List.mem_singleton_self _)
  case accepts =>
    intro s m tag a0 a1 r0 r1 more hm htag hserves hq _ _ _ _ himage hreport hsafe hroom
    exact ⟨_, load_accepts hm htag hserves hq himage hreport hsafe hroom, State.mbxQ_setMbxQ_same .., rfl, State.respond_plain .., rfl, rfl, rfl, rfl⟩
  case loads =>
    intro s r more o hq hocc htask hlive hsafe hwarm hphase u v
    obtain ⟨p, hid, himg, hcores, hloaded⟩ := s.imageLoaded_loads (r := r) (more := more) (o := o)
    obtain ⟨hrest, htasks, hprogs⟩ := (State.loads_iff _).mp ((State.report_loads _ r o.img.progId (s.imageViol r more o).toList).trans hloaded)
    have hviol : v = s.imageViol r more o := rfl
    rw [hviol]
    refine ⟨_, loaderRun_reports hq hocc htask hlive hsafe hwarm hphase, hrest, htasks, fun hsome => ?_, fun hnone => ⟨p, ?_, hid, himg, hcores⟩⟩
    · rw [hprogs, if_neg (fun h => hsome (Option.isNone_iff_eq_none.mp h))]
    · rw [hprogs, if_pos (Option.isNone_iff_eq_none.mpr hnone)]
  case unloads =>
    intro s m tag lo hi more hm htag hserves hq _ _ hprog hidle
    exact ⟨_, unload_done hm htag hserves hq hprog hidle, State.mbxQ_setMbxQ_same .., find?_filter_key_same s.progs Prog.id _,
      fun j hj => find?_filter_key_other s.progs Prog.id hj, State.respond_ok .., rfl, rfl, rfl⟩

end Sys2Proof.Machine
end
